-- ==== Sys2Proof/Word.lean ====
section
/-! DEFINITION. The word types of the machine and the plainest arithmetic on them: 64-bit words,
bytes, register names, and the packing of equal-width elements into one memory-order bit image (R14). -/

namespace Sys2Proof

/-- A 64-bit register word (R9). -/
abbrev Word := BitVec 64

/-- One byte of memory (R2). -/
abbrev Byte := BitVec 8

/-- The number of a scalar register x0..x31 or a vector register v0..v31 (R76). -/
abbrev Reg := BitVec 5

/-- The 3-bit governing-mask field: 0 is "all elements", 1..7 name m1..m7 (R20, R82). -/
abbrev MaskField := BitVec 3

/-- A hart identity as HARTID holds it: bench, core and slot (R32). -/
abbrev HartId := BitVec 10

/-- The low `n` bits of a natural number. -/
def lowBits (n x : Nat) : Nat := x % 2 ^ n

/-- `cnt` bits of `x` from bit `lo` upward. -/
def bitsAt (lo cnt x : Nat) : Nat := (x >>> lo) % 2 ^ cnt

/-- Element `i` of an image that packs `w`-bit elements from bit 0 upward (R14, R18). -/
def slot (w i img : Nat) : Nat := bitsAt (w * i) w img

/-- The image of the `2 ^ d` elements `f base, f (base + 1), …`, each cut to `w` bits and packed from bit 0 upward. -/
def packPow (w : Nat) (f : Nat → Nat) : Nat → Nat → Nat
  | 0, base => lowBits w (f base)
  | d + 1, base => packPow w f d base + packPow w f d (base + 2 ^ d) <<< (w * 2 ^ d)

/-- The least `d` with `n ≤ 2 ^ d`. -/
def clog2 (n : Nat) : Nat := if n ≤ 1 then 0 else Nat.log2 (n - 1) + 1

/-- The image of the elements `f 0 … f (n - 1)` of `w` bits; every bit from `n * w` upward is 0. -/
def pack (w n : Nat) (f : Nat → Nat) : Nat :=
  if n = 0 then 0 else packPow w (fun i => if i < n then f i else 0) (clog2 n) 0

/-- Ceiling division, for the counts the manual writes with ceil( ). -/
def cdiv (a b : Nat) : Nat := (a + b - 1) / b

/-- The signed value of the low `w` bits of `x` (two's complement, R41). -/
def toSigned (w x : Nat) : Int := if x % 2 ^ w < 2 ^ (w - 1) then (x % 2 ^ w : Nat) else ((x % 2 ^ w : Nat) : Int) - 2 ^ w

/-- The `w`-bit pattern of an integer, wrapped modulo `2 ^ w` (R41). -/
def wrapInt (w : Nat) (v : Int) : Nat := (v % (2 ^ w : Nat)).toNat

/-- The elements 0..n-1 for which `p` holds, ascending. -/
def idxs (n : Nat) (p : Nat → Bool) : List Nat := (List.range n).filter p

/-- The bytes of `x` from the least significant, `n` of them (R2). -/
def bytesOf : Nat → Nat → List Byte
  | 0, _ => []
  | n + 1, x => BitVec.ofNat 8 x :: bytesOf n (x / 256)

/-- The number whose little-endian bytes are given (R2). -/
def ofBytes : List Byte → Nat
  | [] => 0
  | b :: bs => b.toNat + 256 * ofBytes bs

/-- Replace the entry at position `i` of a list; a position past the end changes nothing. -/
def listSet {α : Type} : List α → Nat → α → List α
  | [], _, _ => []
  | _ :: xs, 0, y => y :: xs
  | x :: xs, i + 1, y => x :: listSet xs i y

end Sys2Proof
end

