-- ==== Sys2Proof/Config.lean ====
section
/-! DEFINITION. What this part fixes (KX-Z8M), and the free values: values the manual leaves open, which
nothing can evaluate and about which nothing can be proved but what holds of every value. -/

namespace Sys2Proof.Config

/-- MTLEN, the tile length of this part (R1, R27). -/
def mtlen : Nat := 256
/-- Benches of the module; benches 0-23 are on die 0 (R32). -/
def benches : Nat := 48
/-- Cores of the module: four to a bench. -/
def cores : Nat := 192
/-- Matrix-queue entries per bench (R173). -/
def matrixQueueLen : Nat := 32
/-- Records a copy engine's queue holds (R223). -/
def copyQueueLen : Nat := 32
/-- Records a bench's canopy loader holds (R223). -/
def canopyQueueLen : Nat := 8
/-- The drawer limit of one core's register files, in KiB (R120). -/
def drawerLimitKiB : Nat := 1792
/-- Farms a partition may hold beside its bureau farm (R218). -/
def farmLimit : Nat := 256
/-- Bytes of each CXL window that are populated, the greatest capacity R309 allows: DESIGN CHOICE, log entry 9. -/
def cxlPopulated : Nat := 3072 * 2 ^ 30

/-- FREE VALUE (log entry 4): the nanoseconds of TIME that step number `n` of the machine takes. -/
opaque timeStep : Nat → BitVec 64
/-- FREE VALUE (log entry 14): the key by which part `i` of unordered work number `n` (elements of a `.u` store or a VAMO, runs of a COPY,
slots tried for a resumed farm) takes its turn. -/
opaque unorderedKey : Nat → Nat → Nat
/-- FREE VALUE (log entry 14): whether element `e` of unordered store number `n`, above the element that faults, has performed (R128). -/
opaque unorderedPast : Nat → Nat → Bool
/-- FREE VALUE (log entry 22): whether a Falcon-1024 signature (last) verifies over the given header bytes under the public key whose digest is
fused (first) (R440). -/
opaque falconVerifies : List Byte → List Byte → List Byte → Bool
/-- FREE VALUE (log entry 22): the bytes of an image's header before its signature, from magic, version, body length and digest (R440). -/
opaque imageHeader : BitVec 32 → BitVec 32 → Nat → List Byte → List Byte
/-- FREE VALUE (log entry 22): whether an image's header requests that the fused minimum version be raised (R440). -/
opaque raisesMinimum : List Byte → Bool
/-- FREE VALUE (log entry 61): whether the loss of power at step number `n` falls within a flush of the lifetime counts (R426). -/
opaque flushCut : Nat → Bool
/-- FREE VALUE (log entry 22): the Falcon-1024 signature under the module's identity key (R443). -/
opaque falconSign : List Byte → List Byte
/-- FREE VALUE (log entry 22): SHAKE256 with 64 bytes of output, as R440 and R442 use it. -/
opaque shake256 : List Byte → List Byte
/-- FREE VALUE (log entry 25): which of the 16 entries of a contiguous block whose fields disagree access number `n` uses (R317). -/
opaque contiguousPick : Nat → BitVec 4
/-- FREE VALUE (log entry 7): the set that a line of 256 bytes takes in an L2 slice (R302). -/
opaque l2Set : Nat → Nat
/-- FREE VALUE (log entry 7): which line of a full set or slice makes room at step number `n` (R302). -/
opaque l2Victim : Nat → Nat
/-- FREE VALUE (log entry 7): which slice of its die sequencer buffer number `n` lies in (R375). -/
opaque bufferHome : Nat → Nat
/-- FREE VALUE (log entry 5): which of the values a table entry has held a walk at step `n` reads (R320). -/
opaque stalePick : Nat → Nat → Nat
/-- FREE VALUE (log entry 27): the replay-list bytes of the cabinet, whose encoding the manual keeps to itself (R340). -/
opaque cabinetOpaqueByte : Nat → BitVec 8
/-- FREE VALUE (log entry 27): the check-state block of a tile with these sums and bounds, in an encoding the manual keeps to itself (R343). -/
opaque checkBlock : List Int → List Nat → List Int → List Nat → Nat
/-- FREE VALUE (log entry 27): the sum and the bound that a check-state block holds at a place (R343, R347). -/
opaque checkSum : Nat → Nat → Int
opaque checkBound : Nat → Nat → Nat
/-- FREE VALUE (log entry 30): what a read that timed out, or a byte no rule places, holds. -/
opaque freeByte : Nat → BitVec 8

/-- FREE VALUE (log entry 37): the bits a vector element holds after it consumed poison (R153). -/
opaque poisonBits : Nat → Nat
/-- FREE VALUE (log entry 38): a scale of a column that VMVC extracts from a block-format group (R17, R144). -/
opaque columnScale : Nat → Nat

/-- FREE VALUE (log entry 45): the farm number that creation number `n` tries first; the first unused number after it is given (R218). -/
opaque farmPick : Nat → BitVec 16

/-- FREE VALUE (log entry 31): the INDEX a RAS record holds for a unit whose INDEX the manual does not define. -/
opaque rasIndex : Nat → BitVec 8

end Sys2Proof.Config
end

