-- ==== Sys2Proof/Syntax.lean ====
section
/-! DEFINITION. The instructions and steps of the KX-Z8M as abstract syntax: one constructor for each row of the
opcode table. The first part holds the Jexez instructions, whose arguments are the fields of their encodings
(R76 to R84); the second part holds the table's steps that no instruction word encodes, whose arguments say
which part of the module the step concerns and what the outside world supplies with it. -/

namespace Sys2Proof

/-- A request packet as its target sees it reassembled (R356, R358). The body is laid out as R358 gives it for the packet's OP. -/
structure Packet where
  src : Nat
  dst : Nat
  dtag : BitVec 16
  tag : BitVec 14
  esz : BitVec 3
  win : BitVec 8
  off : Nat
  cnt : Nat
  body : List Byte
  deriving DecidableEq, Repr

/-- A response packet: what it echoes of its request (domain tag, tag, element size and count), the status doubleword's fields, the bitmaps and the data
(R356, R364). -/
structure Response where
  dtag : BitVec 16
  tag : BitVec 14
  esz : BitVec 3
  cnt : Nat
  reason : BitVec 8
  fel : BitVec 8
  failed : Nat
  poisoned : Nat
  data : List Byte
  deriving DecidableEq, Repr

/-- A COLL packet (R389), with its ranks, its domain tag, whether it is multicast and the multicast counts still to cover from the header (R356); `zeros` is what
the bits that R389 wants zero hold. -/
structure Coll where
  src : Nat
  dst : Nat
  dtag : BitVec 16
  box : Nat × Nat × Nat
  kind : BitVec 4
  zeros : BitVec 15
  dctx : BitVec 5
  sctx : BitVec 5
  tag : BitVec 8
  chunk : BitVec 16
  hop : BitVec 15
  fmt : BitVec 5
  comb : Bool
  mc : Bool
  step : BitVec 16
  eoff : Nat
  ecnt : Nat
  khi : BitVec 4
  fl : BitVec 6
  last : Bool
  poison : Nat
  data : Nat
  deriving DecidableEq, Repr

/-- What a patrol scrub finds in a sector (R417). -/
inductive SectorHealth where
  | clean | corrected | uncorrectable
  deriving DecidableEq, Repr

/-- Where a soft error strikes (R299, R302 to R304, R416). `home`, `l1Drawer`, `drawer` and `canopyUnit` are found by the code that protects the place, `l1Copy` and
`inFlight` at the check of a copy; the other four change bits of a sector or unit, or of its check value (bits 512 to 527), and are not found until it is
verified. -/
inductive ErrorSite where
  | home (sector : Nat) (correctable : Bool)
  | l1Drawer (core sector : Nat)
  | l1Copy (core sector : Nat)
  | homeUpset (sector bits : Nat)
  | l1Upset (core sector bits : Nat)
  | canopyUpset (bench unit bits : Nat)
  | bufferUpset (ctx buf sector bits : Nat)
  | drawer (hart : HartId) (reg : Reg) (element : Nat) (correctable : Bool)
  | canopyUnit (bench offset : Nat) (correctable : Bool)
  | inFlight (unit : BitVec 8)
  deriving DecidableEq, Repr

/-- What a sector fill brings in: data, data marked non-temporal, or instruction bytes (R300, R301). -/
inductive FillKind where
  | data | dataNt | instr
  deriving DecidableEq, Repr

/-- One field of a halted hart that the debugger reaches (R347: every field that R341 to R343 list). -/
inductive DebugField where
  | pc | x (r : Reg) | sysreg (n : BitVec 12) | mask (n : MaskField) | keyEntry (j : Nat) | keyCount
  | vimage (r : Reg) | vfmt (r : Reg) | vlen (r : Reg) | vprog (r : Reg) | vpoison (r : Reg)
  | position (n : BitVec 3) | scbWord (n j : BitVec 3) | bound (n : BitVec 3) | dirty (r : Reg) | granted | tilesOwned
  | tileImage (t : BitVec 2) | tilePoison (t : BitVec 2) | tileStatus (t : BitVec 2) | tileRounds (t : BitVec 2) | tileCheck (t : BitVec 2)
  deriving DecidableEq, Repr

/-- What a start finds on the way (R437 to R440): the first failing step, the ports that trained, and the domain the firmware sets. -/
structure StartReport where
  failedStep : Option Nat
  torusUp : BitVec 6
  cxlUp : BitVec 4
  coords : Nat × Nat × Nat
  dims : Nat × Nat × Nat
  refMode : Bool
  monitorEntry : Word
  bootRom : List Byte
  fuses : List Byte
  deriving DecidableEq, Repr

/-- A firmware image offered as an update (R440, R441). -/
structure FirmwareImage where
  magic : BitVec 32
  version : BitVec 32
  digest : List Byte
  signature : List Byte
  body : List Byte
  deriving DecidableEq, Repr

/-- One part of a store that a hart has committed: the hart, which of its buffered stores, and which part of it (R250). -/
structure StorePart where
  hart : HartId
  store : Nat
  part : Nat
  deriving DecidableEq, Repr

/-- What a combining group draws with: its sequence key and chunk length (R57, R392). -/
structure FoldGroup where
  key : Word
  chunkLen : Nat
  deriving DecidableEq, Repr

/-- An instruction, or a step of the machine: one constructor for each row of the opcode table. -/
inductive Instr where
  -- INT-R (R98)
  | add (d a b : Reg) | sub (d a b : Reg) | and (d a b : Reg) | or (d a b : Reg) | xor (d a b : Reg) | andn (d a b : Reg)
  | sll (d a b : Reg) | srl (d a b : Reg) | sra (d a b : Reg) | rotl (d a b : Reg) | slt (d a b : Reg) | sltu (d a b : Reg)
  | min (d a b : Reg) | max (d a b : Reg) | minu (d a b : Reg) | maxu (d a b : Reg)
  | mul (d a b : Reg) | mulh (d a b : Reg) | mulhu (d a b : Reg)
  | div (d a b : Reg) | divu (d a b : Reg) | rem (d a b : Reg) | remu (d a b : Reg)
  | clz (d a : Reg) | ctz (d a : Reg) | popc (d a : Reg) | sext (d a : Reg) (w : BitVec 2) | zext (d a : Reg) (w : BitVec 2)
  | csel (d a b : Reg) | bswap (d a : Reg)
  -- INT-I (R99, R100)
  | addi (d a : Reg) (i : BitVec 13) | andi (d a : Reg) (i : BitVec 13) | ori (d a : Reg) (i : BitVec 13) | xori (d a : Reg) (i : BitVec 13)
  | slti (d a : Reg) (i : BitVec 13) | sltiu (d a : Reg) (i : BitVec 13)
  | slli (d a : Reg) (sh : BitVec 6) | srli (d a : Reg) (sh : BitVec 6) | srai (d a : Reg) (sh : BitVec 6)
  | lih (d : Reg) (i : BitVec 18) | pcadd (d : Reg) (i : BitVec 18)
  -- MEM (R101, R104)
  | lb (d a : Reg) (i : BitVec 13) | lbu (d a : Reg) (i : BitVec 13) | lh (d a : Reg) (i : BitVec 13) | lhu (d a : Reg) (i : BitVec 13)
  | lw (d a : Reg) (i : BitVec 13) | lwu (d a : Reg) (i : BitVec 13) | ld (d a : Reg) (i : BitVec 13)
  | lda (d a : Reg) (scope : BitVec 3) (i : BitVec 10)
  | sb (a b : Reg) (i : BitVec 13) | sh (a b : Reg) (i : BitVec 13) | sw (a b : Reg) (i : BitVec 13) | sd (a b : Reg) (i : BitVec 13)
  | sdrel (a b : Reg) (scope : BitVec 3) (i : BitVec 10)
  -- AMO (R206): width 0 word, 1 doubleword; for AMOFADD half = 0 FP32, 1 BF16
  | amoadd (d a b : Reg) (w o : BitVec 2) | amoand (d a b : Reg) (w o : BitVec 2) | amoor (d a b : Reg) (w o : BitVec 2)
  | amoxor (d a b : Reg) (w o : BitVec 2) | amomin (d a b : Reg) (w o : BitVec 2) | amomax (d a b : Reg) (w o : BitVec 2)
  | amominu (d a b : Reg) (w o : BitVec 2) | amomaxu (d a b : Reg) (w o : BitVec 2) | amoswap (d a b : Reg) (w o : BitVec 2)
  | amocas (d a b : Reg) (w o : BitVec 2) | amofadd (d a b : Reg) (half : Bool) (o : BitVec 2)
  -- CTRL branches and jumps (R106 to R109)
  | beq (a b : Reg) (o : BitVec 13) | bne (a b : Reg) (o : BitVec 13) | blt (a b : Reg) (o : BitVec 13)
  | bge (a b : Reg) (o : BitVec 13) | bltu (a b : Reg) (o : BitVec 13) | bgeu (a b : Reg) (o : BitVec 13)
  | jmpl (d : Reg) (o : BitVec 18) | jmpr (d a : Reg) (i : BitVec 13)
  | bse (n : BitVec 3) (o : BitVec 13) | bmany (n : Reg) (o : BitVec 13) | bmnone (n : Reg) (o : BitVec 13)
  -- SYS (R204)
  | nop | fence (fromSet toSet : BitVec 5) (ack rel acq : Bool) (scope : BitVec 3)
  | srd (d : Reg) (n : BitVec 12) | swr (d : Reg) (n : BitVec 12) | srset (d : Reg) (n : BitVec 12) | srclr (d : Reg) (n : BitVec 12)
  | trap (code : BitVec 12) | tret | brk | wfe (d a : Reg) | keyset (a : Reg) (k : BitVec 2) | keyclr
  | farm (d a : Reg) | strip (d : Reg) (ret : Bool) | fjoin (d a : Reg) | yield | notify (a : Reg)
  | tlbinv (a : Reg) (g2 : Bool) (mode : BitVec 2) | cinv (all : Bool) | cflush (a : Reg) (all : Bool) | halt
  | hint (h : BitVec 4) (d a : Reg) (i : BitVec 7)
  -- FP (R111 to R115)
  | fadd (d a b : Reg) (rm : BitVec 3) (fmt : BitVec 2) | fsub (d a b : Reg) (rm : BitVec 3) (fmt : BitVec 2)
  | fmul (d a b : Reg) (rm : BitVec 3) (fmt : BitVec 2) | fdiv (d a b : Reg) (rm : BitVec 3) (fmt : BitVec 2)
  | fsqrt (d a : Reg) (rm : BitVec 3) (fmt : BitVec 2)
  | fmin (d a b : Reg) (rm : BitVec 3) (fmt : BitVec 2) | fmax (d a b : Reg) (rm : BitVec 3) (fmt : BitVec 2)
  | fma (d a b : Reg) (rm : BitVec 3) (fmt : BitVec 2) | fms (d a b : Reg) (rm : BitVec 3) (fmt : BitVec 2)
  | fnma (d a b : Reg) (rm : BitVec 3) (fmt : BitVec 2)
  | fcmp (d a b : Reg) (c : BitVec 3) (fmt : BitVec 2) | fclass (d a : Reg) (fmt : BitVec 2)
  | fsgnj (d a b : Reg) (c : BitVec 3) (fmt : BitVec 2) | fcvt (d a : Reg) (c : BitVec 3) (fmt : BitVec 2)
  -- VEC-M: length, memory, streams (R117 to R134)
  | vsetl (d a : Reg) (k : Bool)
  | vld (vd a b : Reg) (m : MaskField) (ff nt u : Bool) | vlds (vd a b : Reg) (m : MaskField) (ff nt u : Bool)
  | vldx (vd a b : Reg) (m : MaskField) (ff nt u : Bool) | vldseg (vd a b : Reg) (m : MaskField) (ff nt u : Bool)
  | vst (vs a b : Reg) (m : MaskField) (nt u : Bool) | vsts (vs a b : Reg) (m : MaskField) (nt u : Bool)
  | vstx (vs a b : Reg) (m : MaskField) (nt u : Bool) | vstseg (vs a b : Reg) (m : MaskField) (nt u : Bool)
  | vbind (n : BitVec 3) (a b : Reg) | vunbind (n : BitVec 3) (a : Reg)
  -- VEC-M: moves (R141 to R147)
  | vmv (vd a : Reg) (m : MaskField) | vmvr (vd a b : Reg) (m : MaskField) (ins : Bool) | vmvc (vd a b : Reg) (m : MaskField) (ins : Bool)
  | vsplat (vd a : Reg) (m : MaskField) | vext (d a b : Reg) (sg : Bool) | vretag (vd : Reg) | vrelease (vd : Reg) (all : Bool)
  | vid (vd a : Reg) (m : MaskField) | viota (vd a : Reg) (m : MaskField)
  | vslideup (vd a b : Reg) (m : MaskField) | vslidedn (vd a b : Reg) (m : MaskField) | vperm (vd a b : Reg) (m : MaskField)
  | vcompress (vd a : Reg) (m : MaskField)
  -- VEC-M: masks (R168 to R170)
  | mand (md a b : Reg) | mor (md a b : Reg) | mxor (md a b : Reg) | mandn (md a b : Reg) | mnot (md a : Reg)
  | mshl (md a b : Reg) (imm : Bool) | mshr (md a b : Reg) (imm : Bool)
  | mpopc (d a : Reg) (m : MaskField) | mfirst (d a : Reg) (m : MaskField) | mlast (d a : Reg) (m : MaskField)
  | mset (md : Reg) | mclr (md : Reg) | mmv (md a : Reg) | mld (md a : Reg) | mst (ms a : Reg)
  -- VEC-M: waits, commands, fabric, atomics (R208 to R233)
  | vwait (d a b : Reg) (m : MaskField) (w : Bool) (c : BitVec 2) | vcmd (md a : Reg) (m : MaskField)
  | vsend (vs a : Reg) (m : MaskField) (nt u : Bool) | vscatx (vs a b : Reg) (m : MaskField) (nt u : Bool)
  | vgathx (vd a b : Reg) (m : MaskField) (ff nt u : Bool) | vamo (vd a b : Reg) (m : MaskField) (p : BitVec 3)
  -- VEC-A: integers (R154 to R157)
  | vadd (vd a b : Reg) (m : MaskField) (neg sat vx : Bool) | vsub (vd a b : Reg) (m : MaskField) (neg sat vx : Bool)
  | vmul (vd a b : Reg) (m : MaskField) (neg sat vx : Bool) | vmulh (vd a b : Reg) (m : MaskField) (neg uns vx : Bool)
  | vdiv (vd a b : Reg) (m : MaskField) (neg uns vx : Bool) | vrem (vd a b : Reg) (m : MaskField) (neg uns vx : Bool)
  | vmin (vd a b : Reg) (m : MaskField) (neg uns vx : Bool) | vmax (vd a b : Reg) (m : MaskField) (neg uns vx : Bool)
  | vand (vd a b : Reg) (m : MaskField) (neg vx : Bool) | vor (vd a b : Reg) (m : MaskField) (neg vx : Bool)
  | vxor (vd a b : Reg) (m : MaskField) (neg vx : Bool) | vsll (vd a b : Reg) (m : MaskField) (neg vx : Bool)
  | vsrl (vd a b : Reg) (m : MaskField) (neg vx : Bool) | vsra (vd a b : Reg) (m : MaskField) (neg vx : Bool)
  | vadc (vd a b : Reg) (c : MaskField) (neg co vx : Bool) | vsbc (vd a b : Reg) (c : MaskField) (neg co vx : Bool)
  | vcmp (md a b : Reg) (m : MaskField) (c : BitVec 3) | vmerge (vd a b : Reg) (m : MaskField) (neg vx : Bool)
  | vabs (vd a : Reg) (m : MaskField) (neg sat : Bool)
  -- VEC-A: floating point (R158, R159)
  | vfadd (vd a b : Reg) (m : MaskField) (neg vx : Bool) | vfsub (vd a b : Reg) (m : MaskField) (neg vx : Bool)
  | vfmul (vd a b : Reg) (m : MaskField) (neg vx : Bool) | vfdiv (vd a b : Reg) (m : MaskField) (neg vx : Bool)
  | vfsqrt (vd a : Reg) (m : MaskField) (neg : Bool)
  | vfma (vd a b : Reg) (m : MaskField) (neg vx : Bool) | vfms (vd a b : Reg) (m : MaskField) (neg vx : Bool)
  | vfnma (vd a b : Reg) (m : MaskField) (neg vx : Bool)
  | vfmin (vd a b : Reg) (m : MaskField) (neg vx : Bool) | vfmax (vd a b : Reg) (m : MaskField) (neg vx : Bool)
  | vfcmp (md a b : Reg) (m : MaskField) (c : BitVec 3) | vfclass (vd a : Reg) (m : MaskField) (neg : Bool)
  | vfexp (vd a : Reg) (m : MaskField) (neg : Bool) | vflog (vd a : Reg) (m : MaskField) (neg : Bool)
  | vfrcp (vd a : Reg) (m : MaskField) (neg : Bool) | vfrsq (vd a : Reg) (m : MaskField) (neg : Bool)
  | vftanh (vd a : Reg) (m : MaskField) (neg : Bool)
  -- VEC-A: conversions and reductions (R160 to R167)
  | vcvt (vd a b : Reg) (m : MaskField) (neg sel : Bool) | vcvti (vd a b : Reg) (m : MaskField) (neg uns : Bool)
  | vcvtf4 (vd a b : Reg) (m : MaskField) (neg : Bool) | vqscale (vd a b : Reg) (m : MaskField) (neg vx : Bool)
  | vredos (vd a b : Reg) (m : MaskField) (neg vx : Bool) | vredsum (vd a b : Reg) (m : MaskField) (neg vx : Bool)
  | vredmax (vd a b : Reg) (m : MaskField) (neg uns vx : Bool) | vredmin (vd a b : Reg) (m : MaskField) (neg uns vx : Bool)
  | vredand (vd a b : Reg) (m : MaskField) (neg vx : Bool) | vredor (vd a b : Reg) (m : MaskField) (neg vx : Bool)
  | vredxor (vd a b : Reg) (m : MaskField) (neg vx : Bool)
  -- 64-bit forms (R117, R148, R177 to R201)
  | macq (d : Reg) (any : Bool) (t : BitVec 2) | mrel (tm : BitVec 4) | mzero (tm : BitVec 4) (i : Bool)
  | macc (t : BitVec 2) (va vb : Reg) (bs tr sat : Bool) (ga gb : BitVec 2) (fmtA fmtB : BitVec 5) (xk xc : Reg)
  | maccs (t : BitVec 2) (va vb : Reg) (bs tr sat : Bool) (ga gb : BitVec 2) (fmtA fmtB : BitVec 5) (xk xc vm : Reg)
  | mldc (xg xs xstr xsc : Reg) (tr : Bool) (fmt : BitVec 5)
  | mdrain (t : BitVec 2) (vd : Reg) (gd : BitVec 2) (rm : BitVec 3) (ks : BitVec 2) (sat z : Bool) (fmt : BitVec 5) (xr xo : Reg)
  | mdrainx (t : BitVec 2) (ctx : BitVec 4) (chan : BitVec 3) (rm : BitVec 3) (ks : BitVec 2) (z : Bool) (fmt : BitVec 5) (xr xo : Reg)
  | mtrd (d : Reg) (t : BitVec 2) (a : Reg) | mchk (d : Reg) (t : BitVec 2) (a : Reg) (sel : BitVec 2)
  | li64 (d : Reg) (hi : Bool) (i : BitVec 47) | vsetli (d a : Reg) (req : BitVec 20)
  -- 16-bit forms (R84)
  | cLd (d a : BitVec 3) (i : BitVec 5) | cSd (b a : BitVec 3) (i : BitVec 5) | cLw (d a : BitVec 3) (i : BitVec 5) | cSw (b a : BitVec 3) (i : BitVec 5)
  | cAddi4sp (d : BitVec 3) (i : BitVec 8) | cAddi (d : Reg) (i : BitVec 6) | cLi (d : Reg) (i : BitVec 6)
  | cMv (d a : Reg) | cAdd (d a : Reg) | cSub (d a : Reg) | cAnd (d a : Reg) | cSlli (d : Reg) (sh : BitVec 6) | cSrli (d : Reg) (sh : BitVec 6)
  | cJ (o : BitVec 11) | cBeqz (a : BitVec 3) (o : BitVec 8) | cBnez (a : BitVec 3) (o : BitVec 8) | cJr (a : Reg) | cNop | cStrip (d : Reg) (ret : Bool)
  -- steps: interrupts, waits and the core (R39, R122, R213, R287, R404, R245, R301, R319, R139, R134, R292, R197)
  | takeInterrupt (h : HartId) | waitSatisfied (h : HartId) | waitTimeout (h : HartId) | drawerMove (h : HartId)
  | microopIssue (core cycles : Nat) | clusterGate (core cluster : Nat) | clusterWake (core cluster : Nat)
  | storePerform (p : StorePart) | sectorFill (core sector : Nat) (kind : FillKind) | tableWalk (h : HartId) (va : Word) (write fetch : Bool)
  | streamFetch (h : HartId) (n : BitVec 3) (count : Nat) | streamFlagWrite | matrixQueueAccept (bench : Nat) | mdrainxRow (h : HartId)
  -- steps: farm scheduler, save engine, debug (R269 to R280, R338 to R347)
  | farmDepRead (f : BitVec 16) | priorityAging (f : BitVec 16) (cycles : Nat) | hartPlace (f : BitVec 16) (die : Bool)
  | swapOut (v : BitVec 16) | hartSave (h : HartId) | saveComplete (h : HartId) | farmResume (f : BitVec 16) (die : Bool) | farmComplete (f : BitVec 16)
  | suspendTimeout (p : BitVec 3) | debugHaltRequest (h : HartId) | debugHaltEnter (h : HartId)
  | debugAccess (h : HartId) (field : DebugField) (write : Option Nat) | debugResume (h : HartId)
  -- steps: memory controllers and engines (R305 to R310, R323, R373, R225 to R230, R417)
  | hbmAct (pa : Nat) | rfm (bank : Nat) | hbmRefresh (bank : Nat) | patrolScrub (sector : Nat) (found : SectorHealth) | cxlLinkDown (port : Nat)
  | snapshotPageCopy (engine : Nat) | demandCopy (page : Nat)
  | copy (engine : Nat) | fill (engine : Nat) | canopyLoad (bench : Nat) | snapshot (engine : Nat) | sequencerStart (ctx : Nat)
  | flagWrite (engine : Nat) | l2Prefetch (engine : Nat)
  -- steps: fabric (R358 to R369)
  | flit (port : Nat) (raw : Nat) | linkRetrain (port : Nat) (lockLost : Bool) | linkTrained (port : Nat) (lanes : Nat) | portDown (port : Nat)
  | read (p : Packet) | write (p : Packet) | reads (p : Packet) | readx (p : Packet) | writes (p : Packet) | writex (p : Packet)
  | amo (p : Packet) | sendPacket (p : Packet) | mwrite (p : Packet)
  | resp (r : Response) | ack (tag : BitVec 14) | nack (r : Response) | requestTimeout (tag : BitVec 14)
  -- steps: collective sequencer (R371 to R396)
  | coll (c : Coll) | collAck (c : Coll) | routerFold (port : Nat) (pieces : Coll × Coll) (group : FoldGroup)
  | send (ctx : Nat) | sendCmb (ctx : Nat) | sendMc (ctx : Nat) | recv (ctx : Nat) | recvCh (ctx : Nat) | recvCmb (ctx : Nat)
  | red (ctx : Nat) | copyLd (ctx : Nat) | copySt (ctx : Nat) | copyBuf (ctx : Nat) | wait (ctx : Nat) | seqWaitMet (ctx : Nat)
  | sig (ctx : Nat) | cmpr (ctx : Nat) | loop (ctx : Nat) | jump (ctx : Nat) | seqEnd (ctx : Nat)
  | sendRetransmit (ctx : Nat) (index : Nat) | abort (ctx : Nat) | contextAssign (ctx : Nat) (value : Word)
  -- steps: power and lifetime (R406 to R409, R425, R426)
  | ceilingWindow (die : Bool) (matrixCycles : Nat) | fluxReading (die : Bool) (flux junction : List Nat) | powerMeasure (watts : Nat)
  | lease (budget : BitVec 16) (expiry : BitVec 32) (seq : Word) | leaseExpiry
  | histogramSample (junction0 junction1 rail0 rail1 : Nat) | lifetimeFlush | lifetimeRead (offset : Nat) | report (w : Word)
  -- steps: host, partitions, start (R428 to R444)
  | note (p : BitVec 3) (w : Word) | susp (p : BitVec 3) | resume (p : BitVec 3)
  | partitionEnable (p : BitVec 3) | partitionDisable (p : BitVec 3) | partitionReset (p : BitVec 3) | functionLevelReset (p : BitVec 3)
  | tcmp (p : BitVec 3) (w : Word) | timerExpiry (p : BitVec 3)
  | hostRead (p : BitVec 3) (offset len : Nat) | hostWrite (p : BitVec 3) (offset : Nat) (bytes : List Byte) (poisoned : Bool)
  | coldStart (r : StartReport) | warmStart (r : StartReport) (paramsGood : Bool) | startTimeout | startStatusRead | quoteRequest (nonce : List Byte)
  | deviceSpaceWrite (pa : Nat) (w : Word) | illegalInstruction (w : Word) | softError (site : ErrorSite) | wfeEarlyEnd (h : HartId)
  | partitionResetDone (p : BitVec 3) | firmwareReady | firmwareUpdate (img : FirmwareImage) | orderlyPowerDown | powerFailure
  deriving DecidableEq, Repr

end Sys2Proof
end

