-- ==== Sys2Proof/Machine/State.lean ====
section
/-! DEFINITION. The state of the module: everything the manual gives it, as plain data, and its value after
reset. One hart, `State.hart`, is the one whose instruction the machine runs next; the others stand beside it. -/

namespace Sys2Proof.Machine

/-- A sparse table: keys strictly rising; a key that is not listed holds the table's default value. -/
abbrev Table (α : Type) := List (Nat × α)

/-- The value at key `k`, or the default. -/
def tget {α : Type} (dflt : α) : Table α → Nat → α
  | [], _ => dflt
  | (j, v) :: t, k => if j = k then v else tget dflt t k

/-- Set the value at key `k`, keeping the keys in order. -/
def tset {α : Type} : Table α → Nat → α → Table α
  | [], k, v => [(k, v)]
  | (j, u) :: t, k, v => if j = k then (k, v) :: t else if k < j then (k, v) :: (j, u) :: t else (j, u) :: tset t k v

/-! ## A hart's state (R9) -/

/-- A vector register: its memory-order bit image (R14) and its four tags (R13), with one poison mark per element (R418). -/
structure VReg where
  img : Nat
  fmt : BitVec 5
  vlen : Nat
  dirty : Bool
  prog : Nat
  poison : Nat
  deriving DecidableEq, Repr

/-- A stream control block (R133). -/
structure Scb where
  base : Word
  cols : Nat
  rows : Nat
  estride : Word
  rstride : Word
  origin : Nat
  fmt : BitVec 5
  dir : BitVec 2
  nt : Bool
  u : Bool
  flag : Word
  flagval : Word
  deriving DecidableEq, Repr

/-- A binding of v24..v31: the control block's copy, the position (R23), and elements read ahead with their poison (R139). -/
structure Binding where
  scb : Scb
  pos : Nat
  ahead : List (Nat × Nat × Bool)
  deriving DecidableEq, Repr

/-- An address space as an access or a captured command uses it: partition, first stage, ASID and level (R312, R317, R329). -/
structure Space where
  part : BitVec 3
  ptbase : Word
  asid : BitVec 16
  prv : BitVec 2
  deriving DecidableEq, Repr

/-- One write of a store on its way to its home: `n` bytes from `pa`, of which it writes the bits of `mask`; whether its page is UC, its home if that is
bench-affine, and whether it carries poison (R247, R317, R418). -/
structure MemWrite where
  pa : Nat
  n : Nat
  mask : Nat
  val : Nat
  uc : Bool
  abench : Option Nat
  bad : Bool
  deriving DecidableEq, Repr

/-- A store committed but not wholly performed at its home (R250, R283): the parts left, each indivisible; whether they perform in any order (R128), the
sectors whose marks clear with the last of them (R419), whether it is a vector instruction's (R103), whether it waits for every older one (R104), and the widest
scope at which a younger release has made it visible (R242, R251; 0: none). -/
structure BufferedStore where
  parts : List (List MemWrite)
  anyOrder : Bool
  clears : List Nat
  vector : Bool
  rel : Bool
  left : Nat
  deriving DecidableEq, Repr

/-- What a fabric request answered for one element of an instruction (R364, R365). -/
inductive Answer where
  | good (data : Nat) (poisoned : Bool)
  | failed (reason : Nat)
  | unknown
  deriving DecidableEq, Repr

/-- The fabric requests a hart's present instruction has sent: tags still open and answers so far, by element (R359, R364). -/
structure RemoteOp where
  openTags : List (BitVec 14)
  answers : List (Nat × Answer)
  deriving DecidableEq, Repr

/-- Why a hart runs no instruction now. -/
inductive Sleep where
  /-- A VWAIT (R213): destination, compare value, watched addresses by element, mask, word form, condition, start time, time-out, elements
  satisfied, and the address group. -/
  | vwait (d : Reg) (cmp : Word) (addrs : List (Nat × Word)) (m : MaskField) (w : Bool) (c : BitVec 2) (start timeout : Word) (sat : List Nat) (b : Reg)
  /-- An FJOIN on a flag address (R215). -/
  | fjoin (d : Reg) (addr : Word)
  /-- A WFE with its start time and time-out (R216). -/
  | wfe (d : Reg) (start timeout : Word)
  /-- Fabric requests are out; the instruction at PC completes when they are answered (R364). -/
  | remote
  /-- An MDRAINX waits for channel credit (R197). -/
  | channel
  /-- A matrix instruction stands in the posting buffer or the bench queue (R292). -/
  | matrix
  deriving DecidableEq, Repr

/-- Whether a hart is placed, and whether it can run (R270, R281, R346). -/
inductive RunState where
  | absent | ready | asleep (w : Sleep) | halted
  deriving DecidableEq, Repr

/-- A hart: its registers (R9, R27), tags, streams and keys, and where it stands: whether its last instruction was YIELD, and which slots of its core have been
chosen since; whether the instruction at PC waits in the front end, and that instruction as it was fetched (R74, R221, R281). `index` is its hart index in its farm's block and `image` the address
of its last context image, with whether the next save there writes every register (R339). `partFlags` are the flags that the parts of the instruction at PC
completed so far have raised (R71, R188, R197), and `vamoFails` the elements that failed below the fault at which a VAMO stopped: its PC, and each one's number,
whether only poison failed it, and its address (R209); `debugWrites` are a debugger's writes that wait until the hart resumes (R348). -/
structure Hart where
  id : HartId
  run : RunState
  yielded : Bool
  passed : BitVec 4
  stalled : Bool
  fetched : Option Instr
  haltAsked : Bool
  swapping : Bool
  bureau : Bool
  farm : BitVec 16
  index : Option Nat
  image : Option (Word × Bool)
  part : BitVec 3
  partid : BitVec 3
  pc : Word
  x : Vector Word 32
  v : Vector VReg 32
  m : Vector Nat 7
  k : Vector Word 4
  keyTable : List Word
  keyOvf : Bool
  streams : Vector (Option Binding) 8
  status : Word
  stripno : Word
  vtype : BitVec 20
  vlg : Nat
  vlv : Nat
  vri : Word
  granted : Bool
  rscg : BitVec 3
  moving : Bool
  lslip : BitVec 4
  fflags : BitVec 7
  partFlags : BitVec 7
  frm : BitVec 8
  trapcause : Word
  trappc : Word
  trapval : Word
  trapbase : Word
  trapscratch : Word
  trapstatus : Word
  trapowe : BitVec 12
  skew : BitVec 4
  pwrhint : BitVec 2
  cycle : Word
  instret : Word
  ptbase : Word
  asid : BitVec 16
  g2fval : Word
  lastLda : Option Nat
  vamoFails : Option (Word × List (Nat × Bool × Word))
  stores : List BufferedStore
  remote : Option RemoteOp
  debugWrites : List (DebugField × Nat)
  deriving DecidableEq, Repr

/-! ## Cores and benches -/

/-- What one stage of translation grants (R316). -/
structure Perm where
  r : Bool
  w : Bool
  x : Bool
  u : Bool
  deriving DecidableEq, Repr

/-- A translation as a walk gives it and a TLB caches it (R319): partition, ASID unless global, whether it was made at monitor level
and whether a first-stage leaf exists, page base and size, IPA and physical address of the base, size of the second-stage page, what each stage
grants, memory type, home override, and whether the second stage produced the address. -/
structure TlbEntry where
  part : BitVec 3
  asid : BitVec 16
  global : Bool
  mon : Bool
  stage1 : Bool
  va : Nat
  size : Nat
  ipa : Nat
  pa : Nat
  size2 : Nat
  p1 : Perm
  p2 : Perm
  uc : Bool
  abench : Option Nat
  viaG2 : Bool
  deriving DecidableEq, Repr

/-- Registers that a posted instruction reads or writes: the first, how many, and the element width it gives them (R285, R288). -/
structure UopRegs where
  base : Nat
  regs : Nat
  width : Nat
  deriving DecidableEq, Repr

/-- A vector instruction posted and not yet done, or a matrix instruction's rename token: its slot; its micro-operations, one for each element group of the wider
side, and how many of them are in the window; whether it has been renamed, and the physical registers that took; whether it stands in the access queue too,
is a lane barrier, or is a token; its VL and the wider side's element width; what it reads and writes; element groups per register; slip limit and stagger as they
stood when it was posted; cluster 0's cycle at its first issue and whether that edge is ramped; the same for its last; and the next group of each lane
cluster (R282, R285 to R291, R400). -/
structure Uops where
  slotNo : Nat
  groups : Nat
  entered : Nat
  renamed : Bool
  takes : Nat
  access : Bool
  barrier : Bool
  token : Bool
  vl : Nat
  wide : Nat
  srcs : List UopRegs
  dsts : List UopRegs
  perReg : Nat
  slip : Nat
  skew : Nat
  start : Option (Nat × Bool)
  finish : Option (Nat × Option Bool)
  next : Vector Nat 8
  deriving DecidableEq, Repr

/-- A lane cluster's issue and gating state: the slot it served last, whether it issued in the latest cycle, for how many it has been idle, and when it will have
woken (R287, R400, R404). -/
structure Cluster where
  lastSlot : Nat
  issued : Bool
  idle : Nat
  gated : Bool
  wakeAt : Option Nat
  deriving DecidableEq, Repr

/-- A 64-byte sector in an L1: its address, its bytes, and the bits of them and of their check value that have changed since the value was made (R300, R413). -/
structure L1Sector where
  addr : Nat
  data : Nat
  upset : Nat
  deriving DecidableEq, Repr

/-- A core: L1 sectors, the line used last first; instruction-cache sectors, TLB, the slot its front end chose last, posted vector work, lane clusters, the
cycles they have run, and whether its vector unit is gated (R281, R286, R300, R301, R319, R404). -/
structure Core where
  l1 : List L1Sector
  icache : List (Nat × Nat)
  tlb : List TlbEntry
  lastSlot : Nat
  window : List Uops
  clusters : Vector Cluster 8
  cycle : Nat
  unitGated : Bool
  deriving DecidableEq, Repr

/-- An accumulator tile with its poison marks and check state (R174, R198, R200). The exact sums count units of 2 ^ -400. -/
structure Tile where
  owner : Option HartId
  int32 : Bool
  acc : Nat
  poison : Nat
  rowC : List Int
  rowM : List Nat
  colC : List Int
  colM : List Nat
  rounds : Nat
  nf : Bool
  colsOff : Bool
  mis : Bool
  ten : Bool
  skip : Bool
  pend : Bool
  cnt : BitVec 16
  deriving DecidableEq, Repr

/-- A recorded canopy load: the operands of MLDC or CANOPY LOAD and the address space used (R191, R193, R227). -/
structure CanopyRec where
  geometry : Word
  source : Word
  stride : Word
  scale : Word
  fmt : BitVec 5
  tr : Bool
  space : Space
  deriving DecidableEq, Repr

/-- A command record in a queue: its eight doublewords, the address space of acceptance, and the issuing hart and farm (R223, R224). -/
structure CmdRec where
  words : List Word
  space : Space
  hart : HartId
  farm : BitVec 16
  deriving DecidableEq, Repr

/-- A matrix instruction posted by a hart (R173, R292). -/
structure MatrixPost where
  hart : HartId
  instr : Instr
  deriving DecidableEq, Repr

/-- A bench: four tiles, the canopy with a poison mark for every two bits and, by unit of 64 bytes, the bits that have changed since the unit's check value was
made (R413), its owner, its recorded loads and those still to be replayed, the loader's queue,
the matrix queue with its posting buffers, the bench TLB (R173, R190, R193, R223, R292, R319). -/
structure Bench where
  tiles : Vector Tile 4
  canopy : List Host.Cell
  canopyPoison : List Nat
  canopyUpsets : Table Nat
  canopyOwner : Option (BitVec 16)
  loads : List CanopyRec
  replays : List CanopyRec
  loaderQ : List CmdRec
  posting : Vector (Option MatrixPost) 4
  queue : List MatrixPost
  lastCore : Nat
  tlb : List TlbEntry
  deriving DecidableEq, Repr

/-! ## Farms and partitions -/

/-- A farm record (R217). -/
structure FarmRec where
  entry : Word
  arg : Word
  strips : Nat
  harts : Nat
  prio : Nat
  part : BitVec 3
  rsc : BitVec 3
  place : Nat
  done : Word
  doneval : Word
  depaddr : Word
  depval : Word
  deriving DecidableEq, Repr

/-- The states of a farm (R270). -/
inductive FarmState where
  | blocked | ready | running | swapped | completing | done
  deriving DecidableEq, Repr

/-- A farm: its number, record copy, state, strip counter, time of the latest placement, waiting count and priority, queue time, address space,
and saved context (R269 to R276, R329, R339). `swapFor` is the farm that its slots, `keptSlots`, are kept for; `unaged` counts quarter cycles of the scheduler
clock that have passed with unplaced demand and are not yet in `waited` (R272). -/
structure Farm where
  num : BitVec 16
  rcd : FarmRec
  state : FarmState
  nextStrip : Nat
  placedAt : Nat
  waited : Nat
  unaged : Nat
  eff : Nat
  queuedAt : Nat
  lastBench : Option Nat × Option Nat
  trapbase : Word
  ptbase : Word
  asid : BitVec 16
  depReported : Bool
  saved : List Hart
  savedTiles : List (HartId × Nat × Tile)
  savedCanopies : List (Nat × List CanopyRec)
  swapFor : Option (BitVec 16)
  keptSlots : List HartId
  block : Option (Nat × Nat)
  deriving DecidableEq, Repr

/-- A partition: its configuration block (R430), second stage (R313), pending interrupts (R330), and suspension (R331). -/
structure Part where
  en : Bool
  st : BitVec 2
  err : BitVec 4
  bgrp : BitVec 8
  hbmw : BitVec 8
  fabw : BitVec 8
  vcnt : BitVec 7
  cabase : Word
  casize : Word
  cmdbase : Word
  bentry : Word
  bptbase : Word
  btrap : Word
  seq : BitVec 32
  apbase : Word
  tcmp : Word
  g2base : Word
  pending : List (BitVec 8 × Word)
  suspTime : Option Word
  suspTaken : Bool
  bureauSaved : Option Hart
  bureauTiles : List (HartId × Nat × Tile)
  bureauCanopies : List (Nat × List CanopyRec)
  debugOn : Bool
  noVictim : Bool
  blocks : List (BitVec 16 × Nat × Nat)
  deriving DecidableEq, Repr

/-! ## Engines, sequencer, fabric, memory controllers -/

/-- A page read into one of a home's page buffers: home bench, DST address, bytes, and the sectors of it that are poisoned (R323). -/
structure PageBuf where
  home : Nat
  dst : Word
  bytes : List Byte
  bad : List Nat
  deriving DecidableEq, Repr

/-- A running snapshot: engine, pages of SRC not yet copied (physical page, home bench, DST address), buffered pages, its record, and the failure that draining a
buffer met (R323, R224). -/
structure Snap where
  engine : Nat
  pages : List (Nat × Nat × Word)
  buffers : List PageBuf
  cmd : CmdRec
  failed : Option Nat
  deriving DecidableEq, Repr

/-- A chunk in a sequencer buffer: format, elements, poison marks, and by 64-byte sector the bits that have changed since the sector's check value was made
(R375, R413). -/
structure Buf where
  fmt : BitVec 5
  data : Nat
  poison : Nat
  upsets : Table Nat
  deriving DecidableEq, Repr

/-- A tile row in a channel (R376). -/
structure Row where
  fmt : BitVec 5
  data : Nat
  poison : Nat
  deriving DecidableEq, Repr

/-- A chunk as it arrives, keyed by source rank, context, TAG, CHUNK and STEP, or by its combining group (R377, R389, R392). -/
structure Slot where
  src : Nat
  sctx : BitVec 5
  tag : BitVec 8
  chunk : BitVec 16
  step : BitVec 16
  comb : Bool
  hop : BitVec 15
  klo : Nat
  khi : Nat
  fmt : BitVec 5
  placed : Nat
  len : Option Nat
  data : Nat
  poison : Nat
  fl : BitVec 6
  deriving DecidableEq, Repr

/-- A staged plain SEND awaiting its acknowledgement: the committed packets, when the last of them to leave left, if one has, and retransmissions so far (R382,
R390). -/
structure Staged where
  packets : List Coll
  sentAt : Option Word
  tries : Nat
  deriving DecidableEq, Repr

/-- A schedule context (R371 to R376, R388, R390); `rows` are those a RECV in progress has taken
from channel `rowChan`. -/
structure Ctx where
  held : Bool
  part : BitVec 3
  st : BitVec 2
  pc : Word
  flags : BitVec 7
  reason : BitVec 8
  detail : BitVec 8
  retx : Word
  key : Word
  space : Space
  argument : Word
  flagAddr : Word
  flagVal : Word
  starting : Option CmdRec
  issuer : HartId
  farm : BitVec 16
  cl : Nat
  tf : BitVec 5
  q : Vector Word 16
  bufs : Vector (Option Buf) 8
  chans : Vector (List Row) 8
  loops : Vector (Option (Nat × Nat)) 4
  staged : List Staged
  slots : List Slot
  rows : List Row
  rowChan : Option Nat
  recent : List (Nat × BitVec 5 × BitVec 8 × BitVec 16 × BitVec 16)
  deriving DecidableEq, Repr

/-- A window-table entry as its doublewords hold it, with the delivered set of a receive window (R368, R369). -/
structure Window where
  ctl : Word
  base : Word
  len : Word
  delivered : Nat
  deriving DecidableEq, Repr

/-- A flit that waits at an output port: its bits as it will leave, the packet stream it belongs to (8 × input port + virtual channel, or 48 + virtual channel for
this module's own packets), and the input slot it still holds (R362, R366, R367). -/
structure Queued where
  raw : Nat
  source : Nat
  slot : Option Nat
  deriving DecidableEq, Repr

/-- An input slot that a flit holds until every branch has taken it: port, virtual channel, whether it is a reserve slot, and the branches left (R366, R367). -/
structure InSlot where
  port : Nat
  vc : Nat
  rsv : Bool
  left : Nat
  deriving DecidableEq, Repr

/-- A torus port: counters and state (R355), and its link layer (R362, R363, R366): what has gone out on the wire, the flits that wait, the packet stream that holds
each output virtual channel, the channel served last, how often each local partition (8: any other) was served while another waited, and on each input virtual
channel the flits of a packet for this module that have come so far (R356). -/
structure Port where
  txf : Word
  rxf : Word
  rpl : Word
  rtn : Word
  st : BitVec 2
  rxSeq : BitVec 12
  txSeq : BitVec 12
  awaiting : Bool
  badRun : Nat
  replay : List Nat
  wire : List Nat
  outq : List Queued
  holder : Vector (Option Nat) 8
  lastVc : Nat
  shares : Vector Nat 9
  partials : Vector (List Nat) 8
  reserve : Vector Nat 8
  pool : Nat
  poolHeld : Vector Nat 8
  oweReserve : Vector Nat 8
  owePool : Nat
  deriving DecidableEq, Repr

/-- Who sent a request packet (R359). -/
inductive Requester where
  | hart (h : HartId) | engine (n : Nat) | context (n : Nat)
  deriving DecidableEq, Repr

/-- A request packet in flight: its tag, requester, the keys it carries, bytes of each, whether each byte is two 4-bit elements, whether it reads, and when its
first flit left, if it has (R359, R365). -/
structure Flight where
  tag : BitVec 14
  who : Requester
  elems : List Nat
  size : Nat
  nib : Bool
  reads : Bool
  sentAt : Option Word
  deriving DecidableEq, Repr

/-- A packet of the fabric: a request or a response with its OP, or a COLL packet (R356, R358, R389). -/
inductive Message where
  | request (op : BitVec 4) (p : Packet) | response (dst : Nat) (op : BitVec 4) (r : Response) | coll (c : Coll) | collAck (c : Coll)
  deriving DecidableEq, Repr

/-- The fabric unit: identity, tags, windows, ports, the input slots held, requests in flight, and packets that have reached this module whole and are not yet
served (R354, R355, R360, R365 to R368). -/
structure Fabric where
  coords : Nat × Nat × Nat
  dims : Nat × Nat × Nat
  dtag : Vector (BitVec 16) 8
  windows : Table Window
  ports : Vector Port 6
  flights : List Flight
  nextTag : BitVec 14
  coolTags : List (BitVec 14 × Word)
  inSlots : Table InSlot
  nextSlot : Nat
  arrived : List Message
  deriving DecidableEq, Repr

/-- A channel's counter block (R308). -/
structure Channel where
  act : Word
  alert : Word
  rfm : Word
  rfmwait : Word
  probe : BitVec 21
  lastalert : Word
  deriving DecidableEq, Repr

/-- A refresh-management command pending for a bank: its row, and TIME at its alert (R306, R307). -/
structure PendingRfm where
  bank : Nat
  row : Nat
  since : Word
  deriving DecidableEq, Repr

/-- The HBM controllers: counter blocks, row counters, open rows, pending refresh-management commands, and until when a bank is taken up by one (R305 to R308). -/
structure Dram where
  channels : Table Channel
  counts : Table Nat
  openRows : Table (Option Nat)
  pendingRfm : List PendingRfm
  busy : Table Nat
  rmth : BitVec 16
  deriving DecidableEq, Repr

/-! ## Power, integrity, start -/

/-- The power block and the governor's state (R406 to R410); `phase` is the part of a cycle, in thousandths, that each die's clock has run beyond whole ones. -/
structure Power where
  budget : BitVec 12
  floor : Bool
  hseq : Word
  lexp : Word
  lrej : Word
  freq : Vector (BitVec 12) 2
  ceil : Vector (BitVec 12) 2
  lim : Vector (BitVec 2) 2
  fstep : Vector Word 2
  mpwr : BitVec 16
  emergency : Vector Bool 2
  phase : Vector Nat 2
  deriving DecidableEq, Repr

/-- The RAS block (R422). -/
structure Ras where
  mbase : Word
  rbase : Vector Word 8
  mseq : Word
  pseq : Vector Word 8
  deriving DecidableEq, Repr

/-- The lifetime area: live counts by offset, the two flash copies with their numbers and whether their CRC holds, and TIME at which the next sample of the
histograms and the next flush fall due (R425, R426). -/
structure Lifetime where
  live : Table Nat
  flash0 : Nat × Bool × Table Nat
  flash1 : Nat × Bool × Table Nat
  sampleAt : Word
  flushAt : Word
  deriving DecidableEq, Repr

/-- Start status, firmware images, measurements and the attestation mailbox (R437 to R443). -/
structure Boot where
  powered : Bool
  starting : Bool
  startedAt : Word
  warm : Bool
  fallback : Bool
  failf : Bool
  failfAtStart : Bool
  cfail : Nat
  cfailAtStart : Nat
  refMode : Bool
  monitorEntry : Word
  primary : Option FirmwareImage
  fallbackImg : Option FirmwareImage
  candidate : Option FirmwareImage
  candidateFails : Nat
  minVersion : BitVec 32
  keyDigest : List Byte
  measures : Vector (List Byte) 4
  mailStatus : BitVec 8
  mailBusy : Bool
  nonce : List Byte
  quote : List Byte
  deriving DecidableEq, Repr

/-- The host and management links: MSI-X vectors sent (function, vector) oldest first, and the data of the last read answered, whether it was refused and
whether it carries the poisoned attribute (R236, R420, R428, R444). -/
structure Links where
  msix : List (Nat × Nat)
  answer : List Byte
  unsupported : Bool
  answerBad : Bool
  cxlUp : BitVec 4
  deriving DecidableEq, Repr

/-- A flag write owed by an engine or the access unit: address, value, address space, the unit and index a RAS record of it names, and the hart whose instruction
caused it, with its farm (R134, R211, R223, R224). -/
structure OwedFlag where
  addr : Word
  val : Word
  space : Space
  unit : Nat
  index : Nat
  hart : HartId
  farm : BitVec 16
  deriving DecidableEq, Repr

/-- The model's own choice of what the machine puts off to a step of its own where the manual lets it happen later (log entry 5). -/
structure Policy where
  bufferStores : Bool
  deferMoves : Bool
  queueMatrix : Bool
  splitMatrix : Bool
  postUops : Bool
  staleWalks : Bool
  postRemote : Bool
  deriving DecidableEq, Repr

/-- What acts next: a step of the table, or a hart's next instruction (log entry 3). -/
inductive Action where
  | event (i : Instr) | hart (h : HartId)
  deriving DecidableEq, Repr

/-- A sector in an L2 slice: the bench whose slice holds it, and whether it differs from memory (R297, R302). -/
structure L2Sector where
  home : Nat
  dirty : Bool
  deriving DecidableEq, Repr

/-- A store of a hart to a domain address that the hart has gone past before its answer: the hart as it stood before it, the address, whether it has passed its
checks at the target, and its request (R256, R283). -/
structure PostedStore where
  before : Hart
  addr : Word
  sure : Bool
  req : RemoteOp
  deriving DecidableEq, Repr

/-- The module. Beside each sector of an L2 slice or a bench store stands its check value: `upsets` has the bits of the sector (0 to 511) and of the value (512
to 527) that have changed since the value was made (R413). `held` has the older values of doublewords that a walk may still read (R320). -/
structure State where
  hart : Hart
  others : List Hart
  agenda : List Action
  policy : Policy
  tick : Nat
  fresh : Nat
  time : Word
  mem : List Host.Cell
  poison : List Nat
  cores : Table Core
  benches : Table Bench
  farms : List Farm
  parts : Vector Part 8
  engines : Table (List CmdRec)
  snaps : List Snap
  owed : List OwedFlag
  awaits : Table RemoteOp
  ctxs : Table Ctx
  fabric : Fabric
  dram : Dram
  power : Power
  ras : Ras
  life : Lifetime
  boot : Boot
  links : Links
  l2 : Table L2Sector
  upsets : Table Nat
  held : List (Nat × Nat)
  posted : Table (List PostedStore)
  deriving DecidableEq, Repr

/-! ## What an operation on the state reports -/

/-- What an access does, for its translation cause and its permission (R317, R318). -/
inductive AccessKind where
  | load | store | fetch
  deriving DecidableEq, Repr

/-- A RAS event to be recorded: type, unit, index, partition and address (R421). -/
structure RasReport where
  typ : Nat
  unit : Nat
  index : Nat
  part : Option (BitVec 3)
  addr : Nat
  deriving DecidableEq, Repr

/-- What an attempt at a translation leaves to be done: an event to be recorded, or the read of a table entry at its home (R318, R319). -/
inductive Note where
  | ras (r : RasReport) | entry (part : BitVec 3) (pa : Nat)
  deriving DecidableEq, Repr

/-- A trap to be taken (R34, R38): its cause and TRAPVAL, the VRI it leaves if it writes VRI, the IPA when the second stage
found it (R328), the destination's elements below VRI being done already in the state it comes with, and events to record. -/
structure TrapReq where
  cause : BitVec 8
  val : Word
  vri : Option Nat
  ipa : Option Word
  notes : List Note
  deriving DecidableEq, Repr

/-- A translated access: physical address, IPA, uncached, bench-affine home, whether the second stage produced the address (R317), and the walk it took, if it
missed in the TLBs: the translation and the table entries read (R319). -/
structure Mapped where
  pa : Nat
  ipa : Nat
  uc : Bool
  abench : Option Nat
  viaG2 : Bool
  walk : Option (TlbEntry × List Nat)
  deriving DecidableEq, Repr

/-- A trap owed after completion: cause and TRAPVAL (R39). -/
structure Owed where
  cause : BitVec 8
  val : Word
  deriving DecidableEq, Repr

/-- Why a translation fails: a permission rather than a missing translation, the IPA when the second stage found it, events to record. -/
structure XFault where
  perm : Bool
  ipa : Option Nat
  notes : List Note
  deriving DecidableEq, Repr

/-- Why the machine stops. -/
inductive Fault where
  /-- Raised by `step` when the module has lost power (ORDERLY_POWER_DOWN, POWER_FAILURE; R426) and nothing but a hart is asked to act. Safe: an unpowered module runs nothing. -/
  | unpowered
  deriving DecidableEq, Repr

/-- Why an instruction has no meaning here. -/
inductive Refusal where
  /-- Raised by `exec` for an instruction this model does not model yet, by its mnemonic. Safe: nothing is claimed of it. -/
  | notModelled (mnemonic : String)
  deriving DecidableEq, Repr

/-! ## Values after reset -/

/-- A vector register at hart start (R37). Its data bytes have no reset value: 0, log entry 1. -/
def VReg.init : VReg := { img := 0, fmt := 0, vlen := 0, dirty := false, prog := 0, poison := 0 }

/-- A hart's registers at hart start (R27, R28, R37); values the manual does not give are 0 (log entry 1). -/
def Hart.init : Hart where
  id := 0
  run := .absent
  yielded := false
  passed := 0
  stalled := false
  fetched := none
  haltAsked := false
  swapping := false
  bureau := false
  farm := 0
  index := none
  image := none
  part := 0
  partid := 0
  pc := 0
  x := Vector.replicate 32 0
  v := Vector.replicate 32 VReg.init
  m := Vector.replicate 7 0
  k := Vector.replicate 4 0
  keyTable := []
  keyOvf := false
  streams := Vector.replicate 8 none
  status := 0x8
  stripno := 0xFFFF_FFFF_FFFF_FFFF
  vtype := 0
  vlg := 0
  vlv := 0
  vri := 0
  granted := false
  rscg := 0
  moving := false
  lslip := 4
  fflags := 0
  partFlags := 0
  frm := 0
  trapcause := 0
  trappc := 0
  trapval := 0
  trapbase := 0
  trapscratch := 0
  trapstatus := 0
  trapowe := 0
  skew := 4
  pwrhint := 0
  cycle := 0
  instret := 0
  ptbase := 0
  asid := 0
  g2fval := 0
  lastLda := none
  vamoFails := none
  stores := []
  remote := none
  debugWrites := []

/-- A lane cluster with nothing issued (R404); which slot it served last has no reset value: 3, so that slot 0 is first (log entry 1). -/
def Cluster.init : Cluster := { lastSlot := 3, issued := false, idle := 0, gated := false, wakeAt := none }

/-- A core with empty caches, TLB and window; the slot chosen last has no reset value: 3, so that slot 0 is first (log entry 1). -/
def Core.init : Core :=
  { l1 := [], icache := [], tlb := [], lastSlot := 3, window := [], clusters := Vector.replicate 8 Cluster.init, cycle := 0, unitGated := false }

/-- A free tile with clear check state (R177, R200). -/
def Tile.init : Tile where
  owner := none
  int32 := false
  acc := 0
  poison := 0
  rowC := List.replicate 256 0
  rowM := List.replicate 256 0
  colC := List.replicate 256 0
  colM := List.replicate 256 0
  rounds := 0
  nf := false
  colsOff := false
  mis := false
  ten := false
  skip := false
  pend := false
  cnt := 0

/-- A bench with free tiles and a free, cleared canopy (R177, R190, R431). -/
def Bench.init : Bench where
  tiles := Vector.replicate 4 Tile.init
  canopy := []
  canopyPoison := []
  canopyUpsets := []
  canopyOwner := none
  loads := []
  replays := []
  loaderQ := []
  posting := Vector.replicate 4 none
  queue := []
  lastCore := 3
  tlb := []

/-- A partition's configuration block at module start (R430); the debug enable, which no register shows, is on (log entry 54). -/
def Part.init : Part where
  en := false
  st := 0
  err := 0
  bgrp := 0
  hbmw := 0
  fabw := 0
  vcnt := 0
  cabase := 0
  casize := 0
  cmdbase := 0
  bentry := 0
  bptbase := 0
  btrap := 0
  seq := 0
  apbase := 0
  tcmp := 0
  g2base := 0
  pending := []
  suspTime := none
  suspTaken := false
  bureauSaved := none
  bureauTiles := []
  bureauCanopies := []
  debugOn := true
  noVictim := false
  blocks := []

/-- A space with everything zero, for registers that hold no captured space yet (log entry 1). -/
def Space.init : Space := { part := 0, ptbase := 0, asid := 0, prv := 0 }

/-- A schedule context at module start (R372). -/
def Ctx.init : Ctx where
  held := false
  part := 0
  st := 0
  pc := 0
  flags := 0
  reason := 0
  detail := 0
  retx := 0
  key := 0
  space := Space.init
  argument := 0
  flagAddr := 0
  flagVal := 0
  starting := none
  issuer := 0
  farm := 0
  cl := 0
  tf := 0
  q := Vector.replicate 16 0
  bufs := Vector.replicate 8 none
  chans := Vector.replicate 8 []
  loops := Vector.replicate 4 none
  staged := []
  slots := []
  rows := []
  rowChan := none
  recent := []

/-- A window-table entry at reset: not valid (R368). -/
def Window.init : Window := { ctl := 0, base := 0, len := 0, delivered := 0 }

/-- A torus port before any link has trained: down, with the credits of R366. -/
def Port.init : Port where
  txf := 0
  rxf := 0
  rpl := 0
  rtn := 0
  st := 0
  rxSeq := 0
  txSeq := 0
  awaiting := false
  badRun := 0
  replay := []
  wire := []
  outq := []
  holder := Vector.replicate 8 none
  lastVc := 7
  shares := Vector.replicate 9 0
  partials := Vector.replicate 8 []
  reserve := Vector.replicate 8 4
  pool := 192
  poolHeld := Vector.replicate 8 0
  oweReserve := Vector.replicate 8 0
  owePool := 0

/-- The fabric unit at start (R355): a domain of one module until firmware sets another (log entry 1). -/
def Fabric.init : Fabric where
  coords := (0, 0, 0)
  dims := (1, 1, 1)
  dtag := Vector.replicate 8 0
  windows := []
  ports := Vector.replicate 6 Port.init
  flights := []
  nextTag := 0
  coolTags := []
  inSlots := []
  nextSlot := 0
  arrived := []

/-- A channel's counter block at controller initialisation (R308). -/
def Channel.init : Channel := { act := 0, alert := 0, rfm := 0, rfmwait := 0, probe := 0, lastalert := 0 }

/-- The HBM controllers at initialisation: counters 0, RMTH 1,024 (R306, R308, R314). -/
def Dram.init : Dram := { channels := [], counts := [], openRows := [], pendingRfm := [], busy := [], rmth := 0x400 }

/-- The power block at module start (R410). -/
def Power.init : Power where
  budget := 1400
  floor := true
  hseq := 0
  lexp := 0
  lrej := 0
  freq := Vector.replicate 2 1750
  ceil := Vector.replicate 2 2100
  lim := Vector.replicate 2 0
  fstep := Vector.replicate 2 0
  mpwr := 0
  emergency := Vector.replicate 2 false
  phase := Vector.replicate 2 0

/-- The RAS block at module start (R422). -/
def Ras.init : Ras := { mbase := 0, rbase := Vector.replicate 8 0, mseq := 1, pseq := Vector.replicate 8 1 }

/-- The lifetime area of a module that has recorded nothing yet (log entry 1). -/
def Lifetime.init : Lifetime := { live := [], flash0 := (0, true, []), flash1 := (0, true, []), sampleAt := 1_000_000_000, flushAt := 60_000_000_000 }

/-- Start status of a module whose start has succeeded, cold and from the primary image (R439; log entry 1). -/
def Boot.init : Boot where
  powered := true
  starting := false
  startedAt := 0
  warm := false
  fallback := false
  failf := false
  failfAtStart := false
  cfail := 0
  cfailAtStart := 0
  refMode := false
  monitorEntry := 0
  primary := none
  fallbackImg := none
  candidate := none
  candidateFails := 0
  minVersion := 0
  keyDigest := []
  measures := Vector.replicate 4 (List.replicate 64 0)
  mailStatus := 0
  mailBusy := false
  nonce := []
  quote := []

/-- The links with nothing sent; the CXL links are down until they train (log entry 1). -/
def Links.init : Links := { msix := [], answer := [], unsupported := false, answerBad := false, cxlUp := 0 }

/-- The module right after reset: every block at its module-start value, no partition enabled and so no hart placed
(R267, R430); the hart registers stand at their hart-start values (R27, R37). Values the manual does not give are in log entry 1. -/
def State.reset : State where
  hart := Hart.init
  others := []
  agenda := []
  policy := { bufferStores := false, deferMoves := false, queueMatrix := false, splitMatrix := false, postUops := false, staleWalks := false, postRemote := false }
  tick := 0
  fresh := 0
  time := 0
  mem := []
  poison := []
  cores := []
  benches := []
  farms := []
  parts := Vector.replicate 8 Part.init
  engines := []
  snaps := []
  owed := []
  awaits := []
  ctxs := []
  fabric := Fabric.init
  dram := Dram.init
  power := Power.init
  ras := Ras.init
  life := Lifetime.init
  boot := Boot.init
  links := Links.init
  l2 := []
  upsets := []
  held := []
  posted := []

end Sys2Proof.Machine
end

