-- ==== Sys2Proof/Machine/Flags.lean ====
section
/-! DEFINITION. STATUS and its fields (R28), the sticky flags and their enables (R29, R30), rounding-code resolution (R30, R110), and
the traps owed after completion (R39, R40). -/

namespace Sys2Proof.Machine

/-! ## STATUS (R28) -/

/-- Set or clear one bit of a word. -/
def setBit (w : Word) (n : Nat) (b : Bool) : Word := if b then w ||| (1#64 <<< n) else w &&& ~~~(1#64 <<< n)

/-- Replace bits `lo .. lo + cnt - 1` of a word. -/
def setField (w : Word) (lo cnt : Nat) (v : Nat) : Word :=
  (w &&& ~~~((BitVec.ofNat 64 (2 ^ cnt - 1)) <<< lo)) ||| ((BitVec.ofNat 64 (v % 2 ^ cnt)) <<< lo)

/-- STATUS.PRV (R24). -/
def Hart.prv (h : Hart) : Nat := (h.status.extractLsb' 0 2).toNat
/-- STATUS.IE. -/
def Hart.ie (h : Hart) : Bool := h.status.getLsbD 2
/-- STATUS.VILL. -/
def Hart.vill (h : Hart) : Bool := h.status.getLsbD 3
/-- STATUS.PTRAP. -/
def Hart.ptrap (h : Hart) : Bool := h.status.getLsbD 5
/-- STATUS.KRW. -/
def Hart.krw (h : Hart) : Bool := h.status.getLsbD 6
/-- STATUS.SSTEP acts only at user level (R332). -/
def Hart.stepping (h : Hart) : Bool := h.status.getLsbD 9 && h.prv == 0

/-- The level a hart's accesses and instructions have (R24). -/
def Hart.level (h : Hart) : BitVec 2 := h.status.extractLsb' 0 2

/-- Key register kn (R22). -/
def Hart.key (h : Hart) (n : BitVec 2) : Word := h.k[n.toNat]'(by have := n.isLt; omega)

/-! ## Flags (R29) -/

/-- FFLAGS.NX. -/
def NX : BitVec 7 := 1
/-- FFLAGS.UF. -/
def UF : BitVec 7 := 2
/-- FFLAGS.OF. -/
def OF : BitVec 7 := 4
/-- FFLAGS.DZ. -/
def DZ : BitVec 7 := 8
/-- FFLAGS.NV. -/
def NV : BitVec 7 := 16
/-- FFLAGS.SAT. -/
def SAT : BitVec 7 := 32
/-- FFLAGS.PSN. -/
def PSN : BitVec 7 := 64

/-- A flag when a condition holds. -/
def flagIf (c : Bool) (f : BitVec 7) : BitVec 7 := if c then f else 0

/-- The enables of FRM[7:3] in FFLAGS bit order (R30). -/
def Hart.enables (h : Hart) : BitVec 7 := (h.frm.extractLsb' 3 5).zeroExtend 7

/-- Set flags; they are sticky (R29). -/
def Hart.raise (fl : BitVec 7) (h : Hart) : Hart := { h with fflags := h.fflags ||| fl }

/-- The rounding code a scalar instruction with code `rm` uses; `none` where R30 and R110 raise trap 0x00. -/
def scalarRound (h : Hart) (rm : BitVec 3) : Option Nat :=
  let c := if rm == 7 then h.frm.extractLsb' 0 3 else rm
  if c.toNat < 5 then some c.toNat else none

/-- The rounding code a vector or matrix instruction uses, from its own code; `none` where it resolves to 6 or 7 (R30). -/
def vectorRound (h : Hart) (rm : BitVec 3) : Option Nat :=
  let c := if rm == 7 then h.frm.extractLsb' 0 3 else rm
  if c.toNat < 6 then some c.toNat else none

/-! ## Traps owed after completion (R39, R40) -/

/-- Whether a list of owed traps holds a cause. -/
def owes (c : BitVec 8) (l : List Owed) : Bool := l.any (fun o => o.cause == c)

/-- TRAPOWE for the traps after the first (R40): OFL, O08, O0B, O09 and OKN. -/
def oweFields (rest : List Owed) (kn : BitVec 2) : BitVec 12 :=
  let ofl : BitVec 7 := match rest.find? (fun o => o.cause == 0x08) with | some o => o.val.extractLsb' 0 7 | none => 0
  (if owes 0x0B rest then kn else 0#2) ++ BitVec.ofBool (owes 0x09 rest) ++ BitVec.ofBool (owes 0x0B rest) ++ BitVec.ofBool (owes 0x08 rest) ++ ofl

/-- What a completed instruction owes, in the order of R39: the traps `pre` (VAMO's, then 0x0E), 0x08 for enabled flags,
the trap `post` (0x0B or 0x0A), and 0x09 under SSTEP. -/
def owedList (h : Hart) (npc : Word) (raised : BitVec 7) (pre post : List Owed) : List Owed :=
  pre ++ (if raised &&& h.enables != 0 then [{ cause := 0x08, val := raised.zeroExtend 64 }] else [])
    ++ post ++ (if h.stepping then [{ cause := 0x09, val := npc }] else [])

/-- The owed trap that TRET takes next, and TRAPOWE after it: 0x08, 0x0B, 0x09 (R40). OFL is cleared with O08, as R40's example shows. -/
def nextOwed (h : Hart) : Option (Owed × BitVec 12) :=
  if h.trapowe.getLsbD 7 then
    some ({ cause := 0x08, val := (h.trapowe.extractLsb' 0 7).zeroExtend 64 }, h.trapowe &&& 0xF00)
  else if h.trapowe.getLsbD 8 then
    some ({ cause := 0x0B, val := h.key (h.trapowe.extractLsb' 10 2) }, h.trapowe &&& 0xEFF)
  else if h.trapowe.getLsbD 9 then some ({ cause := 0x09, val := h.trappc }, h.trapowe &&& 0xDFF)
  else none

end Sys2Proof.Machine
end

