-- ==== Sys2Proof/Machine/Number.lean ====
section
/-! DEFINITION. Number formats, exact values, the one rounding of R54 with its flags, and the counter hash (R41 to R63). -/

namespace Sys2Proof.Machine

/-! ## Formats (R31, R42) -/

/-- Element width of a format in registers (R18, R31). -/
def elemWidth (f : Nat) : Nat :=
  match f with
  | 0x01 | 0x06 | 0x07 => 16
  | 0x02 | 0x05 => 32
  | 0x03 | 0x04 => 64
  | 0x0C | 0x0D | 0x14 | 0x16 => 4
  | _ => 8

/-- Memory width of one element: 6 bits for FP6, else the register width (R46, R125). -/
def memWidth (f : Nat) : Nat := match f with | 0x0A | 0x0B | 0x12 | 0x13 => 6 | _ => elemWidth f

/-- The block length of a format, 1 for one that is no block format (R48). -/
def blockLen (f : Nat) : Nat := if 0x10 ≤ f ∧ f ≤ 0x15 then 32 else if f = 0x16 then 64 else 1

/-- Whether a format is a block format. -/
def isBlock (f : Nat) : Bool := 0x10 ≤ f && f ≤ 0x16

/-- The element format of a block format; any other format is its own (R48). -/
def elemFmt (f : Nat) : Nat :=
  match f with
  | 0x10 => 0x08 | 0x11 => 0x09 | 0x12 => 0x0A | 0x13 => 0x0B | 0x14 => 0x0C | 0x15 => 0x00 | 0x16 => 0x0D
  | _ => f

/-- Whether a format is one of the two's-complement integers I8 to I64. -/
def isInt (f : Nat) : Bool := f < 4

/-- What a floating-point format's top codes mean (R43). -/
inductive Special where
  /-- E all ones is infinity or NaN. -/
  | ieee
  /-- Only S.1111.111 is NaN, and there is no infinity. -/
  | e4m3
  /-- Every code is a finite number. -/
  | finite
  deriving DecidableEq, Repr

/-- The fields of a floating-point format (R42). -/
structure FpFields where
  eb : Nat
  mb : Nat
  bias : Nat
  special : Special
  deriving DecidableEq, Repr

/-- The fields of each floating-point format; a code that names none has FP32's. -/
def fpFields (f : Nat) : FpFields :=
  match f with
  | 0x04 => { eb := 11, mb := 52, bias := 1023, special := .ieee }
  | 0x06 => { eb := 8, mb := 7, bias := 127, special := .ieee }
  | 0x07 => { eb := 5, mb := 10, bias := 15, special := .ieee }
  | 0x08 => { eb := 4, mb := 3, bias := 7, special := .e4m3 }
  | 0x09 => { eb := 5, mb := 2, bias := 15, special := .ieee }
  | 0x0A => { eb := 2, mb := 3, bias := 1, special := .finite }
  | 0x0B => { eb := 3, mb := 2, bias := 3, special := .finite }
  | 0x0C => { eb := 2, mb := 1, bias := 1, special := .finite }
  | _ => { eb := 8, mb := 23, bias := 127, special := .ieee }

/-- An exact value: NaN (signalling or quiet), infinity, or ± (m + s) × 2^e, where s lies strictly between 0 and 1 when the last field holds
and is 0 otherwise. -/
inductive Val where
  | nan (signalling : Bool)
  | inf (neg : Bool)
  | fin (neg : Bool) (m : Nat) (e : Int) (more : Bool)
  deriving DecidableEq, Repr

/-- The magnitude × 1,024 of an NL4 code (R51). -/
def nl4Mag (c : Nat) : Nat :=
  match (if c < 8 then 15 - c else c) with
  | 8 => 43 | 9 => 130 | 10 => 221 | 11 => 318 | 12 => 426 | 13 => 556 | 14 => 724 | _ => 1024

/-- An integer as an exact value. -/
def valInt (v : Int) : Val := .fin (v < 0) v.natAbs 0 false

/-- The exact value of a code (R41 to R43, R47, R51); block formats by their element formats, MXINT8 elements as n / 64 (R48). -/
def decodeVal (f c : Nat) : Val :=
  if f < 4 then valInt (toSigned (elemWidth f) c)
  else if f = 0x0D ∨ f = 0x16 then .fin (c % 16 < 8) (nl4Mag (c % 16)) (-10) false
  else if f = 0x0E then (if c % 256 = 255 then .nan false else .fin false 1 ((c % 256 : Nat) - 127) false)
  else if f = 0x0F then .fin false (c % 256 + 1) (-8) false
  else if f = 0x15 then (match valInt (toSigned 8 c) with | .fin n m _ s => .fin n m (-6) s | v => v)
  else
    let q := fpFields (elemFmt f)
    let man := bitsAt 0 q.mb c
    let ex := bitsAt q.mb q.eb c
    let neg := c.testBit (q.mb + q.eb)
    let top := 2 ^ q.eb - 1
    match q.special with
    | .ieee =>
      if ex = top then (if man = 0 then .inf neg else .nan (!man.testBit (q.mb - 1)))
      else if ex = 0 then .fin neg man (1 - (q.bias : Int) - q.mb) false
      else .fin neg (2 ^ q.mb + man) ((ex : Int) - q.bias - q.mb) false
    | .e4m3 =>
      if ex = top ∧ man = 7 then .nan false
      else if ex = 0 then .fin neg man (1 - (q.bias : Int) - q.mb) false
      else .fin neg (2 ^ q.mb + man) ((ex : Int) - q.bias - q.mb) false
    | .finite =>
      if ex = 0 then .fin neg man (1 - (q.bias : Int) - q.mb) false
      else .fin neg (2 ^ q.mb + man) ((ex : Int) - q.bias - q.mb) false

/-- The canonical NaN of a format (R44); a format without NaN has +0 in its place (R54). -/
def canonicalNan (f : Nat) : Nat :=
  match f with
  | 0x04 => 0x7FF8_0000_0000_0000 | 0x05 => 0x7FC0_0000 | 0x07 => 0x7E00 | 0x06 => 0x7FC0 | 0x09 => 0x7E | 0x08 => 0x7F
  | 0x0E => 0xFF
  | _ => 0

/-- The sign bit of a floating-point format. -/
def signBit (f : Nat) (neg : Bool) : Nat := let q := fpFields f; if neg then 2 ^ (q.mb + q.eb) else 0

/-- The infinity of a format that has one. -/
def infCode (f : Nat) (neg : Bool) : Nat := let q := fpFields f; signBit f neg + (2 ^ q.eb - 1) * 2 ^ q.mb

/-- The code of the largest finite magnitude (R42). -/
def maxCode (f : Nat) (neg : Bool) : Nat :=
  let q := fpFields f
  signBit f neg + (match q.special with
    | .ieee => (2 ^ q.eb - 1) * 2 ^ q.mb - 1
    | .e4m3 => 0x7E
    | .finite => 2 ^ (q.eb + q.mb) - 1)

/-! ## The counter hash (R57) -/

/-- Rotate a 32-bit value left (R4). -/
def rotl32 (v : BitVec 32) (n : Nat) : BitVec 32 := (v <<< n) ||| (v >>> (32 - n))

/-- The four passes of CHASH from pass `i`. -/
def chashLoop : Nat → Nat → BitVec 32 → BitVec 32 → BitVec 32 → BitVec 32 → BitVec 32
  | 0, _, a, b, c, w => (a ^^^ c) + (b ^^^ w)
  | n + 1, i, a, b, c, w =>
    let a := a + b
    let w := rotl32 (w ^^^ a) 16
    let c := c + w
    let b := rotl32 (b ^^^ c) 12
    let a := a + b
    let w := rotl32 (w ^^^ a) 8
    let c := c + w
    let b := rotl32 (b ^^^ c) 7
    let a := a + 0x6A09_E667 * BitVec.ofNat 32 (i + 1)
    chashLoop n (i + 1) a b c w

/-- CHASH(t, s, e, d) (R57). -/
def chash (t s : BitVec 32) (e : BitVec 48) (d : BitVec 16) : BitVec 32 :=
  chashLoop 4 0 (e.extractLsb' 0 32) (d ++ e.extractLsb' 32 16) s t

/-- The random word of an element: key register value, coordinate and domain (R57). -/
def drawZ (key : Word) (coord domain : Nat) : Nat :=
  (chash (key.extractLsb' 32 32) (key.extractLsb' 0 32) (BitVec.ofNat 48 coord) (BitVec.ofNat 16 domain)).toNat

/-! ## Rounding (R53 to R56, R58) -/

/-- Whether a magnitude with kept part `kept`, discarded part `rem` of `k` bits and perhaps more below rounds up under a rounding code.
Code 5 compares the top 24 discarded bits with the top 24 bits of `z`, which is R58 for every number of discarded bits. -/
def roundsUp (rm z : Nat) (neg : Bool) (kept rem k : Nat) (more : Bool) : Bool :=
  if rem = 0 ∧ !more then false
  else match rm with
    | 0 => rem > 2 ^ (k - 1) || (rem == 2 ^ (k - 1) && (more || kept % 2 == 1)) && k > 0
    | 2 => neg
    | 3 => !neg
    | 4 => rem ≥ 2 ^ (k - 1) && k > 0
    | 5 => (if k ≥ 24 then rem >>> (k - 24) else rem <<< (24 - k)) + z >>> 8 ≥ 2 ^ 24
    | _ => false

/-- Round a magnitude to a multiple of 2^q: the multiple, and whether the result differs. -/
def roundAt (rm z : Nat) (neg : Bool) (m : Nat) (e : Int) (more : Bool) (q : Int) : Nat × Bool :=
  if q ≤ e then (m <<< (e - q).toNat, more)
  else
    let k := (q - e).toNat
    let kept := m >>> k
    let rem := m % 2 ^ k
    (if roundsUp rm z neg kept rem k more then kept + 1 else kept, rem != 0 || more)

/-- The result of overflow (R54). -/
def overflowTo (f rm : Nat) (sat neg : Bool) : Nat × BitVec 7 :=
  let q := fpFields f
  if sat || q.special == .finite then (maxCode f neg, SAT ||| NX)
  else
    let toInf := match rm with | 1 => false | 2 => neg | 3 => !neg | _ => true
    (if toInf then (if q.special == .e4m3 then canonicalNan f else infCode f neg) else maxCode f neg, OF ||| NX)

/-- Round(x, fmt, rm) for a floating-point format (R54, R55, R45): the code and the flags. -/
def roundFin (f rm : Nat) (sat : Bool) (z : Nat) (neg : Bool) (m : Nat) (e : Int) (more : Bool) : Nat × BitVec 7 :=
  if m = 0 ∧ !more then (signBit f neg, 0)
  else
    let q := fpFields f
    let emin : Int := 1 - q.bias
    let top : Int := Nat.log2 m + e
    let quantum := max (top - q.mb) (emin - q.mb)
    let (r, inexact) := roundAt rm z neg m e more quantum
    let full := roundAt rm z neg m e more (top - q.mb)
    let tiny := top < emin && !(top = emin - 1 && full.1 ≥ 2 ^ (q.mb + 1))
    let maxM : Nat := match q.special with | .e4m3 => 14 | _ => 2 ^ (q.mb + 1) - 1
    let maxE : Int := (match q.special with | .ieee => 2 ^ q.eb - 2 | _ => 2 ^ q.eb - 1 : Int) - q.bias - q.mb
    let ovf := if quantum ≥ maxE then r <<< (quantum - maxE).toNat > maxM else false
    if ovf then overflowTo f rm sat neg
    else
      let code := if r < 2 ^ q.mb then r
        else if r ≥ 2 ^ (q.mb + 1) then ((quantum + 1 + q.mb + q.bias).toNat) * 2 ^ q.mb + (r / 2 - 2 ^ q.mb)
        else ((quantum + q.mb + q.bias).toNat) * 2 ^ q.mb + (r - 2 ^ q.mb)
      (signBit f neg + code, flagIf inexact NX ||| flagIf (tiny && inexact) UF)

/-- A value rounded into a floating-point format, with what R54 gives for infinities and NaNs. A signalling NaN's NV is the operation's to raise. -/
def roundVal (f rm : Nat) (sat : Bool) (z : Nat) : Val → Nat × BitVec 7
  | .nan _ => (canonicalNan f, if (fpFields f).special == .finite then NV else 0)
  | .inf neg =>
    match (fpFields f).special with
    | .ieee => (infCode f neg, 0)
    | .e4m3 => if sat then (maxCode f neg, SAT) else (canonicalNan f, NV)
    | .finite => (maxCode f neg, SAT)
  | .fin neg m e more => roundFin f rm sat z neg m e more

/-- A value rounded to an integer under a rounding code: the integer and whether it differs (R56). -/
def roundInt (rm z : Nat) (neg : Bool) (m : Nat) (e : Int) (more : Bool) : Int × Bool :=
  let (r, inexact) := roundAt rm z neg m e more 0
  (if neg then -(r : Int) else r, inexact)

/-- Conversion to an integer range: out of range gives the nearest bound and NV, NaN gives 0 and NV (R56). -/
def toIntRange (rm z : Nat) (lo hi : Int) : Val → Int × BitVec 7
  | .nan _ => (0, NV)
  | .inf neg => (if neg then lo else hi, NV)
  | .fin neg m e more =>
    let (v, inexact) := roundInt rm z neg m e more
    if v < lo then (lo, NV) else if v > hi then (hi, NV) else (v, flagIf inexact NX)

/-! ## Exact operations on values (R44, R61, R111) -/

/-- Whether a value is a signalling NaN. -/
def Val.isSig : Val → Bool | .nan s => s | _ => false
/-- Whether a value is a NaN. -/
def Val.isNan : Val → Bool | .nan _ => true | _ => false
/-- The sign of a value; NaN counts as positive. -/
def Val.neg : Val → Bool | .nan _ => false | .inf n => n | .fin n _ _ _ => n
/-- Whether a value is zero. -/
def Val.isZero : Val → Bool | .fin _ m _ s => m == 0 && !s | _ => false
/-- The value with the other sign. -/
def Val.flip : Val → Val | .nan s => .nan s | .inf n => .inf (!n) | .fin n m e s => .fin (!n) m e s

/-- Signed integer significands of two values on one exponent. -/
def alignTo (e : Int) (neg : Bool) (m : Nat) (e1 : Int) : Int := (if neg then -1 else 1) * ((m <<< (e1 - e).toNat : Nat) : Int)

/-- Sum of two values; an exact zero from opposite signs is +0, or −0 under RDN (R111). -/
def addVal (rm : Nat) : Val → Val → Val × BitVec 7
  | .nan s, b => (.nan false, flagIf (s || b.isSig) NV)
  | a, .nan s => (.nan false, flagIf (s || a.isSig) NV)
  | .inf n, .inf m => if n == m then (.inf n, 0) else (.nan false, NV)
  | .inf n, _ => (.inf n, 0)
  | _, .inf n => (.inf n, 0)
  | .fin n a e s, .fin m b g t =>
    if a = 0 ∧ b = 0 then (.fin (if n == m then n else rm == 2) 0 0 false, 0)
    else
      let l := min e g
      let v := alignTo l n a e + alignTo l m b g
      if v = 0 then (.fin (rm == 2) 0 0 false, 0) else (.fin (v < 0) v.natAbs l (s || t), 0)

/-- Product of two values; zero times infinity is invalid (R44). -/
def mulVal : Val → Val → Val × BitVec 7
  | .nan s, b => (.nan false, flagIf (s || b.isSig) NV)
  | a, .nan s => (.nan false, flagIf (s || a.isSig) NV)
  | .inf n, b => if b.isZero then (.nan false, NV) else (.inf (n != b.neg), 0)
  | a, .inf n => if a.isZero then (.nan false, NV) else (.inf (n != a.neg), 0)
  | .fin n a e _, .fin m b g _ => (.fin (n != m) (a * b) (e + g) false, 0)

/-- A quotient num / den × 2^e to at least 200 significant bits, with a mark for what is left. -/
def ratio (neg : Bool) (num den : Nat) (e : Int) : Val :=
  if num = 0 ∨ den = 0 then .fin neg 0 0 false
  else
    let sh := 200 + Nat.log2 den - Nat.log2 num
    .fin neg ((num <<< sh) / den) (e - sh) ((num <<< sh) % den != 0)

/-- Quotient of two values (R44, R111). -/
def divVal : Val → Val → Val × BitVec 7
  | .nan s, b => (.nan false, flagIf (s || b.isSig) NV)
  | a, .nan s => (.nan false, flagIf (s || a.isSig) NV)
  | .inf _, .inf _ => (.nan false, NV)
  | .inf n, b => (.inf (n != b.neg), 0)
  | a, .inf n => (.fin (a.neg != n) 0 0 false, 0)
  | .fin n a e _, .fin m b g _ =>
    if b = 0 then (if a = 0 then (.nan false, NV) else (.inf (n != m), DZ))
    else (ratio (n != m) a b (e - g), 0)

/-- The integer square root, one bit at a time from bit `k`. -/
def isqrtFrom (n : Nat) : Nat → Nat → Nat
  | 0, r => if (r + 1) * (r + 1) ≤ n then r + 1 else r
  | k + 1, r => isqrtFrom n k (if (r + 2 ^ (k + 1)) * (r + 2 ^ (k + 1)) ≤ n then r + 2 ^ (k + 1) else r)

/-- Square root of a magnitude m × 2^e to at least 150 significant bits. -/
def rootOf (neg : Bool) (m : Nat) (e : Int) : Val :=
  let sh := 300 + (if (e % 2 = 0) then 0 else 1)
  let n := m <<< sh
  let r := isqrtFrom n (Nat.log2 n / 2 + 1) 0
  .fin neg r ((e - sh) / 2) (r * r != n)

/-- Square root (R44, R111): of −0 it is −0, of anything below it is invalid. -/
def sqrtVal : Val → Val × BitVec 7
  | .nan s => (.nan false, flagIf s NV)
  | .inf n => if n then (.nan false, NV) else (.inf false, 0)
  | .fin n m e _ => if m = 0 then (.fin n 0 0 false, 0) else if n then (.nan false, NV) else (rootOf false m e, 0)

/-- Whether a < b for values that are no NaN; −0 equals +0. -/
def ltVal : Val → Val → Bool
  | .inf n, .inf m => n && !m
  | .inf n, _ => n
  | _, .inf m => !m
  | .fin n a e _, .fin m b g _ => let l := min e g; alignTo l n a e < alignTo l m b g
  | _, _ => false

/-- Whether a = b for values that are no NaN; −0 equals +0. -/
def eqVal : Val → Val → Bool
  | .inf n, .inf m => n == m
  | .fin n a e _, .fin m b g _ => let l := min e g; alignTo l n a e == alignTo l m b g
  | _, _ => false

/-- The condition of FCMP, VFCMP: 0 equal, 1 less, 2 less or equal, 3 unordered (R112); the flag is NV. -/
def fpCompare (c : Nat) (a b : Val) : Bool × BitVec 7 :=
  let un := a.isNan || b.isNan
  let sig := a.isSig || b.isSig
  match c with
  | 0 => (!un && eqVal a b, flagIf sig NV)
  | 1 => (!un && ltVal a b, flagIf un NV)
  | 2 => (!un && (ltVal a b || eqVal a b), flagIf un NV)
  | _ => (un, flagIf sig NV)

/-- The choice of FMIN or FMAX between two codes of a format, −0 below +0 (R63). -/
def fpMinMax (f : Nat) (wantMax : Bool) (x y : Nat) : Nat × BitVec 7 :=
  let a := decodeVal f x
  let b := decodeVal f y
  let fl := flagIf (a.isSig || b.isSig) NV
  if a.isNan && b.isNan then (canonicalNan f, fl)
  else if a.isNan then (y, fl)
  else if b.isNan then (x, fl)
  else
    let less := if eqVal a b then a.neg && !b.neg else ltVal a b
    (if less == wantMax then y else x, fl)

/-- The class bit of a value of a format (R113). -/
def fpClass (f : Nat) (x : Nat) : Nat :=
  match decodeVal f x with
  | .nan s => if s then 8 else 9
  | .inf n => if n then 0 else 7
  | .fin n m _ _ =>
    let sub := bitsAt (fpFields f).mb (fpFields f).eb x == 0
    if m = 0 then (if n then 3 else 4) else if n then (if sub then 2 else 1) else (if sub then 5 else 6)

/-- Round the result of an exact operation, with the operation's own flags. -/
def roundOp (f rm : Nat) (sat : Bool) (z : Nat) (r : Val × BitVec 7) : Nat × BitVec 7 :=
  let (c, fl) := roundVal f rm sat z r.1
  (c, fl ||| r.2)

/-- a × b + c, rounded once (R61, R111). -/
def fusedVal (rm : Nat) (a b c : Val) : Val × BitVec 7 :=
  let (p, f1) := mulVal a b
  let (r, f2) := addVal rm p c
  (r, f1 ||| f2)

/-! ## Elementary functions, correctly rounded (R62, R159) -/

/-- ln 2 × 2^320, rounded down. -/
def ln2Scaled : Nat := 0xb17217f7d1cf79abc9e3b39803f2f6af40f343267298b62d8a0d175b8baafa2be7b876206debac98

/-- Σ over k from n down of the Taylor series of e^r with r = X / 2^320: Horner steps acc := 2^320 + acc × X / (k × 2^320). -/
def expHorner (x : Nat) : Nat → Nat → Nat
  | 0, acc => acc
  | k + 1, acc => expHorner x k (2 ^ 320 + acc * x / ((k + 1) * 2 ^ 320))

/-- e^v for v = ± m × 2^e, nonzero: more than 150 correct bits and a mark that it is not exact. -/
def expVal (neg : Bool) (m : Nat) (e : Int) : Val :=
  if (Nat.log2 m : Int) + e > 12 then .fin false 1 (if neg then -100000 else 100000) true
  else
    let x : Int := (if neg then -1 else 1) * (if e ≥ -320 then (m <<< (e + 320).toNat : Nat) else m >>> (-(e + 320)).toNat : Nat)
    let k := x / (ln2Scaled : Int)
    let r := (x % (ln2Scaled : Int)).toNat
    .fin false (expHorner r 80 (2 ^ 320)) (k - 320) true

/-- Σ z^(2k+1) / (2k+1) for z = Z / 2^320, from `pow` = z^(2k+1): n more terms. -/
def atanhSum (z2 : Nat) : Nat → Nat → Nat → Nat → Nat
  | 0, _, _, acc => acc
  | n + 1, k, pow, acc => atanhSum z2 n (k + 1) (pow * z2 / 2 ^ 320) (acc + pow / (2 * k + 1))

/-- ln v for v = m × 2^e > 0, v not 1. -/
def logVal (m : Nat) (e : Int) : Val :=
  let l := Nat.log2 m
  let ex : Int := l + e
  let f := m <<< 320 >>> l
  let z := (f - 2 ^ 320) * 2 ^ 320 / (f + 2 ^ 320)
  let lnf := 2 * atanhSum (z * z / 2 ^ 320) 110 0 z 0
  let r : Int := ex * ln2Scaled + lnf
  .fin (r < 0) r.natAbs (-320) true

/-- tanh v for v = ± m × 2^e, nonzero: e^2v, then (t − 1) / (t + 1); near 0 and far from it the value lies just inside ±v or ±1. -/
def tanhVal (neg : Bool) (m : Nat) (e : Int) : Val :=
  let top : Int := Nat.log2 m + e
  if top < -60 then .fin neg ((m <<< 100) - 1) (e - 100) true
  else if top > 6 then .fin neg (2 ^ 200 - 1) (-200) true
  else match expVal false m (e + 1) with
    | .fin _ a g _ =>
      let t := if g ≥ -320 then a <<< (g + 320).toNat else a >>> (-(g + 320)).toNat
      match ratio neg (t - 2 ^ 320) (t + 2 ^ 320) 0 with
      | .fin n q h _ => .fin n q h true
      | v => v
    | v => v

/-- The five functions of R62 on an exact operand: 0 VFEXP, 1 VFLOG, 2 VFRCP, 3 VFRSQ, 4 VFTANH. -/
def elementary (op : Nat) : Val → Val × BitVec 7
  | .nan s => (.nan false, flagIf s NV)
  | .inf n =>
    match op with
    | 0 => (if n then .fin false 0 0 false else .inf false, 0)
    | 1 => if n then (.nan false, NV) else (.inf false, 0)
    | 2 => (.fin n 0 0 false, 0)
    | 3 => if n then (.nan false, NV) else (.fin false 0 0 false, 0)
    | _ => (.fin n 1 0 false, 0)
  | .fin n m e _ =>
    if m = 0 then
      match op with
      | 0 => (.fin false 1 0 false, 0)
      | 1 => (.inf true, DZ)
      | 2 | 3 => (.inf n, DZ)
      | _ => (.fin n 0 0 false, 0)
    else
      match op with
      | 0 => (expVal n m e, 0)
      | 1 => if n then (.nan false, NV) else if eqVal (.fin false m e false) (.fin false 1 0 false) then (.fin false 0 0 false, 0) else (logVal m e, 0)
      | 2 => (ratio n 1 m (-e), 0)
      | 3 => if n then (.nan false, NV)
        else (match rootOf false m e with
          | .fin _ r g s =>
            -- 1 / √v: the root has 150 bits or more; an exact root gives an exact reciprocal to mark
            (match ratio false 1 r (-g) with | .fin a b c d => .fin a b c (d || s) | v => v, 0)
          | v => (v, 0))
      | _ => (tanhVal n m e, 0)

/-! ## Integer division (R41) -/

/-- Quotient of two `w`-bit patterns: truncated toward zero; by zero it is all ones (R41). -/
def intQuot (w : Nat) (signed : Bool) (a b : Nat) : Nat :=
  if b % 2 ^ w = 0 then 2 ^ w - 1
  else if signed then wrapInt w (Int.tdiv (toSigned w a) (toSigned w b)) else (a % 2 ^ w) / (b % 2 ^ w)

/-- Remainder of two `w`-bit patterns, with the dividend's sign; by zero it is the dividend (R41). -/
def intRem (w : Nat) (signed : Bool) (a b : Nat) : Nat :=
  if b % 2 ^ w = 0 then a % 2 ^ w
  else if signed then wrapInt w (Int.tmod (toSigned w a) (toSigned w b)) else (a % 2 ^ w) % (b % 2 ^ w)

end Sys2Proof.Machine
end

