-- ==== Sys2Proof/WellFormed.lean ====
section
/-! DEFINITION. Which instruction terms are legal in their bits: the field rules of R76 to R86 and of the
instruction entries that depend on the instruction's bits alone (step 2 of R445). -/

namespace Sys2Proof

/-- A field that must name a mask register holds 1..7 (R82). -/
def maskReg (r : Reg) : Bool := 1 ≤ r.toNat && r.toNat ≤ 7

/-- A rounding code a scalar arithmetic instruction may carry: not 5, not 6 (R81). -/
def scalarRm (rm : BitVec 3) : Bool := rm != 5 && rm != 6

/-- The FP class's fmt field: 3 is reserved (R81). -/
def fpFmt (fmt : BitVec 2) : Bool := fmt != 3

/-- In VEC-A, a negated mask needs a mask (R82). -/
def negOk (m : MaskField) (neg : Bool) : Bool := !(neg && m == 0)

/-- The block formats (R31). -/
def blockFmt (f : BitVec 5) : Bool := 0x10 ≤ f.toNat && f.toNat ≤ 0x16

/-- Companions a group of a format keeps: none, the scales, or for NL4B the scales and the superscales (R17). -/
def companions (f : BitVec 5) : Nat := if f = 0x16 then 2 else if blockFmt f then 1 else 0

/-- A group of `2 ^ g` registers at `r` with the companions of `f` stands on a multiple of its size and ends by v31 (R12, R17). -/
def groupOk (r : Reg) (g : BitVec 2) (f : BitVec 5) : Bool :=
  r.toNat % 2 ^ g.toNat == 0 && r.toNat + 2 ^ g.toNat + companions f ≤ 32

/-- MACC and MACCS: fields that the choice of B leaves unused are zero (R179), and the groups stand where they may (R182, R183). -/
def maccOk (va vb : Reg) (bs : Bool) (ga gb : BitVec 2) (fmtA fmtB : BitVec 5) (xc : Reg) : Bool :=
  groupOk va ga fmtA && (if bs then xc == 0 && groupOk vb gb fmtB else vb == 0 && gb == 0)

/-- Whether an instruction is legal in its bits. The steps of the second part of `Instr` carry no bits. -/
def wellFormed : Instr → Bool
  | .sext _ _ w | .zext _ _ w => w != 3
  | .lda _ _ scope _ | .sdrel _ _ scope _ => scope.toNat < 6
  | .amoadd _ _ _ w _ | .amoand _ _ _ w _ | .amoor _ _ _ w _ | .amoxor _ _ _ w _ | .amomin _ _ _ w _ | .amomax _ _ _ w _
  | .amominu _ _ _ w _ | .amomaxu _ _ _ w _ | .amoswap _ _ _ w _ | .amocas _ _ _ w _ => w.toNat < 2
  | .bmany n _ | .bmnone n _ => maskReg n
  | .fence f t ack rel acq scope => (ack || rel || acq) && f != 0 && t != 0 && scope.toNat < 6 && (ack == f.getLsbD 3)
  | .tlbinv a _ mode => mode != 3 && (mode == 0 || a == 0)
  | .cflush a all => !all || a == 0
  | .fadd _ _ _ rm fmt | .fsub _ _ _ rm fmt | .fmul _ _ _ rm fmt | .fdiv _ _ _ rm fmt | .fsqrt _ _ rm fmt | .fmin _ _ _ rm fmt
  | .fmax _ _ _ rm fmt | .fma _ _ _ rm fmt | .fms _ _ _ rm fmt | .fnma _ _ _ rm fmt => scalarRm rm && fpFmt fmt
  | .fcmp _ _ _ c fmt => c.toNat < 4 && fpFmt fmt
  | .fclass _ _ fmt => fpFmt fmt
  | .fsgnj _ _ _ c fmt => c.toNat < 3 && fpFmt fmt
  | .fcvt _ _ c fmt => fpFmt fmt && !(c == 0 && fmt == 1) && !(c == 1 && fmt == 0) && !(c == 2 && fmt == 2)
  | .vrelease vd all => !all || vd == 0
  | .viota _ a _ => maskReg a
  | .mand md a b | .mor md a b | .mxor md a b | .mandn md a b => maskReg md && maskReg a && maskReg b
  | .mnot md a | .mmv md a => maskReg md && maskReg a
  | .mshl md a _ _ | .mshr md a _ _ => maskReg md && maskReg a
  | .mpopc _ a _ | .mfirst _ a _ | .mlast _ a _ => maskReg a
  | .mset md | .mclr md => maskReg md
  | .mld md _ | .mst md _ => maskReg md
  | .vwait _ _ _ _ _ c => c != 3
  | .vcmd md _ _ => maskReg md
  | .vadd _ _ _ m neg _ _ | .vsub _ _ _ m neg _ _ | .vmul _ _ _ m neg _ _ | .vmulh _ _ _ m neg _ _ | .vdiv _ _ _ m neg _ _
  | .vrem _ _ _ m neg _ _ | .vmin _ _ _ m neg _ _ | .vmax _ _ _ m neg _ _ => negOk m neg
  | .vand _ _ _ m neg _ | .vor _ _ _ m neg _ | .vxor _ _ _ m neg _ | .vsll _ _ _ m neg _ | .vsrl _ _ _ m neg _ | .vsra _ _ _ m neg _ => negOk m neg
  | .vadc vd _ _ c neg co _ | .vsbc vd _ _ c neg co _ => negOk c neg && (!co || maskReg vd)
  | .vcmp md _ _ _ _ | .vfcmp md _ _ _ _ => maskReg md
  | .vmerge _ _ _ m _ _ => m != 0
  | .vabs _ _ m neg _ => negOk m neg
  | .vfadd _ _ _ m neg _ | .vfsub _ _ _ m neg _ | .vfmul _ _ _ m neg _ | .vfdiv _ _ _ m neg _ | .vfma _ _ _ m neg _ | .vfms _ _ _ m neg _
  | .vfnma _ _ _ m neg _ | .vfmin _ _ _ m neg _ | .vfmax _ _ _ m neg _ => negOk m neg
  | .vfsqrt _ _ m neg | .vfclass _ _ m neg | .vfexp _ _ m neg | .vflog _ _ m neg | .vfrcp _ _ m neg | .vfrsq _ _ m neg | .vftanh _ _ m neg => negOk m neg
  | .vcvt _ _ _ m neg _ | .vcvti _ _ _ m neg _ | .vcvtf4 _ _ _ m neg | .vqscale _ _ _ m neg _ => negOk m neg
  | .vredos _ _ _ m neg _ | .vredsum _ _ _ m neg _ | .vredmax _ _ _ m neg _ _ | .vredmin _ _ _ m neg _ _ => negOk m neg
  | .vredand _ _ _ m neg _ | .vredor _ _ _ m neg _ | .vredxor _ _ _ m neg _ => negOk m neg
  | .macq _ any t => !any || t == 0
  | .mrel tm | .mzero tm _ => tm != 0
  | .macc _ va vb bs _ _ ga gb fmtA fmtB _ xc => maccOk va vb bs ga gb fmtA fmtB xc
  | .maccs _ va vb bs _ _ ga gb fmtA fmtB _ xc _ => maccOk va vb bs ga gb fmtA fmtB xc
  | .mldc _ _ _ xsc _ fmt => blockFmt fmt || 0x17 ≤ fmt.toNat || xsc == 0
  | .mdrain _ vd gd rm _ sat _ fmt _ _ => rm != 6 && groupOk vd gd fmt && (!sat || fmt == 0x08 || fmt == 0x09)
  | .mdrainx _ _ _ rm _ _ _ _ _ => rm != 6
  | .mchk _ _ a sel => sel != 3 && (sel == 2 || a == 0)
  | .li64 _ hi i => !hi || i.extractLsb' 32 15 == 0
  | .cLd d a i => !(d == 0 && a == 0 && i == 0)
  | .cAddi4sp _ i => i != 0
  | .cAddi d _ | .cLi d _ => d != 0
  | .cMv d a | .cAdd d a | .cSub d a | .cAnd d a => d != 0 && a != 0
  | .cSlli d sh | .cSrli d sh => d != 0 && sh != 0
  | .cJr a => a != 0
  | _ => true

end Sys2Proof
end

