-- ==== Sys2Proof/Decode.lean ====
section
/-! DEFINITION. Decoding of instruction bits (R73 to R86), total, with a name for each rejection; and the encoder,
written from the same tables. -/

namespace Sys2Proof

/-- Why bits are no instruction (R86). -/
inductive Reject where
  | short            -- fewer bytes than the instruction needs
  | reservedOp3      -- an unassigned compressed form
  | reservedOp       -- an unassigned op6, op4, sysop6 or amo4
  | nonzeroField     -- a must-be-zero field that is not zero
  | badField         -- a field value or register position the entry does not allow
  deriving DecidableEq, Repr

/-- Take an instruction when its must-be-zero fields are zero and its fields are legal. -/
def accept (zero : Bool) (i : Instr) : Except Reject Instr :=
  if zero then (if wellFormed i then .ok i else .error .badField) else .error .nonzeroField

/-- The length in bytes that the first halfword fixes (R73). -/
def lengthOf (h : BitVec 16) : Nat := if h.extractLsb' 0 2 != 3 then 2 else if h.extractLsb' 0 5 == 31 then 8 else 4

/-- The 16-bit forms (R84). -/
def decode16 (h : BitVec 16) : Except Reject Instr :=
  let d : Reg := h.extractLsb' 7 5
  let a : Reg := h.extractLsb' 2 5
  let z12 := h.extractLsb' 12 1 == 0
  let a3 := h.extractLsb' 10 3
  let d3 := h.extractLsb' 7 3
  let i5 := h.extractLsb' 2 5
  let i6 : BitVec 6 := h.extractLsb' 12 1 ++ h.extractLsb' 2 5
  match (h.extractLsb' 0 2).toNat, (h.extractLsb' 13 3).toNat with
  | 0, 0 => accept true (.cLd d3 a3 i5)
  | 0, 1 => accept true (.cSd d3 a3 i5)
  | 0, 2 => accept true (.cLw d3 a3 i5)
  | 0, 3 => accept true (.cSw d3 a3 i5)
  | 0, 4 => accept true (.cAddi4sp (h.extractLsb' 2 3) (h.extractLsb' 5 8))
  | 1, 0 => accept true (.cAddi d i6)
  | 1, 1 => accept true (.cLi d i6)
  | 1, 2 => accept z12 (.cMv d a)
  | 1, 3 => accept z12 (.cAdd d a)
  | 1, 4 => accept z12 (.cSub d a)
  | 1, 5 => accept z12 (.cAnd d a)
  | 1, 6 => accept true (.cSlli d i6)
  | 1, 7 => accept true (.cSrli d i6)
  | 2, 0 => accept true (.cJ (h.extractLsb' 2 11))
  | 2, 1 => accept true (.cBeqz a3 (h.extractLsb' 2 8))
  | 2, 2 => accept true (.cBnez a3 (h.extractLsb' 2 8))
  | 2, 3 => accept (h.extractLsb' 2 6 == 0) (.cJr (h.extractLsb' 8 5))
  | 2, 4 => accept (h.extractLsb' 2 11 == 0) .cNop
  | 2, 5 => accept (h.extractLsb' 2 5 == 0) (.cStrip d (h.getLsbD 12))
  | _, _ => .error .reservedOp3

/-- INT-R (R78, R97). -/
def decodeIntR (w : BitVec 32) : Except Reject Instr :=
  let d : Reg := w.extractLsb' 21 5
  let a : Reg := w.extractLsb' 16 5
  let b : Reg := w.extractLsb' 11 5
  let z := w.extractLsb' 5 6 == 0
  let zb := z && b == 0
  let zw := w.extractLsb' 7 4 == 0 && b == 0
  let wd := w.extractLsb' 5 2
  match (w.extractLsb' 26 6).toNat with
  | 0 => accept z (.add d a b) | 1 => accept z (.sub d a b) | 2 => accept z (.and d a b) | 3 => accept z (.or d a b)
  | 4 => accept z (.xor d a b) | 5 => accept z (.andn d a b) | 6 => accept z (.sll d a b) | 7 => accept z (.srl d a b)
  | 8 => accept z (.sra d a b) | 9 => accept z (.rotl d a b) | 10 => accept z (.slt d a b) | 11 => accept z (.sltu d a b)
  | 12 => accept z (.min d a b) | 13 => accept z (.max d a b) | 14 => accept z (.minu d a b) | 15 => accept z (.maxu d a b)
  | 16 => accept z (.mul d a b) | 17 => accept z (.mulh d a b) | 18 => accept z (.mulhu d a b) | 19 => accept z (.div d a b)
  | 20 => accept z (.divu d a b) | 21 => accept z (.rem d a b) | 22 => accept z (.remu d a b)
  | 23 => accept zb (.clz d a) | 24 => accept zb (.ctz d a) | 25 => accept zb (.popc d a)
  | 26 => accept zw (.sext d a wd) | 27 => accept zw (.zext d a wd)
  | 28 => accept z (.csel d a b) | 29 => accept zb (.bswap d a)
  | _ => .error .reservedOp

/-- INT-I (R78, R99, R100). -/
def decodeIntI (w : BitVec 32) : Except Reject Instr :=
  let d : Reg := w.extractLsb' 23 5
  let a : Reg := w.extractLsb' 18 5
  let i := w.extractLsb' 5 13
  let sh := w.extractLsb' 5 6
  let zs := w.extractLsb' 11 7 == 0
  match (w.extractLsb' 28 4).toNat with
  | 0 => accept true (.addi d a i) | 1 => accept true (.andi d a i) | 2 => accept true (.ori d a i) | 3 => accept true (.xori d a i)
  | 4 => accept true (.slti d a i) | 5 => accept true (.sltiu d a i)
  | 6 => accept zs (.slli d a sh) | 7 => accept zs (.srli d a sh) | 8 => accept zs (.srai d a sh)
  | 9 => accept true (.lih d (w.extractLsb' 5 18)) | 10 => accept true (.pcadd d (w.extractLsb' 5 18))
  | _ => .error .reservedOp

/-- The AMO group (R79, R205). -/
def decodeAmo (w : BitVec 32) : Except Reject Instr :=
  let d : Reg := w.extractLsb' 23 5
  let a : Reg := w.extractLsb' 18 5
  let b : Reg := w.extractLsb' 13 5
  let wd := w.extractLsb' 7 2
  let o := w.extractLsb' 5 2
  match (w.extractLsb' 9 4).toNat with
  | 0 => accept true (.amoadd d a b wd o) | 1 => accept true (.amoand d a b wd o) | 2 => accept true (.amoor d a b wd o)
  | 3 => accept true (.amoxor d a b wd o) | 4 => accept true (.amomin d a b wd o) | 5 => accept true (.amomax d a b wd o)
  | 6 => accept true (.amominu d a b wd o) | 7 => accept true (.amomaxu d a b wd o) | 8 => accept true (.amoswap d a b wd o)
  | 9 => accept true (.amocas d a b wd o) | 10 => accept (!w.getLsbD 7) (.amofadd d a b (w.getLsbD 8) o)
  | _ => .error .reservedOp

/-- MEM (R79, R101). -/
def decodeMem (w : BitVec 32) : Except Reject Instr :=
  let d : Reg := w.extractLsb' 23 5
  let a : Reg := w.extractLsb' 18 5
  let b : Reg := w.extractLsb' 13 5
  let i := w.extractLsb' 5 13
  let si : BitVec 13 := w.extractLsb' 23 5 ++ w.extractLsb' 5 8
  match (w.extractLsb' 28 4).toNat with
  | 0 => accept true (.lb d a i) | 1 => accept true (.lbu d a i) | 2 => accept true (.lh d a i) | 3 => accept true (.lhu d a i)
  | 4 => accept true (.lw d a i) | 5 => accept true (.lwu d a i) | 6 => accept true (.ld d a i)
  | 7 => accept true (.lda d a (w.extractLsb' 15 3) (w.extractLsb' 5 10))
  | 8 => accept true (.sb a b si) | 9 => accept true (.sh a b si) | 10 => accept true (.sw a b si) | 11 => accept true (.sd a b si)
  | 12 => accept true (.sdrel a b (w.extractLsb' 25 3) (w.extractLsb' 23 2 ++ w.extractLsb' 5 8))
  | 15 => decodeAmo w
  | _ => .error .reservedOp

/-- The SYS group (R80, R204). -/
def decodeSys (w : BitVec 32) : Except Reject Instr :=
  let d : Reg := w.extractLsb' 17 5
  let a : Reg := w.extractLsb' 12 5
  let i := w.extractLsb' 5 7
  let zd := d == 0
  let za := a == 0
  let zi := i == 0
  let n := w.extractLsb' 5 12
  match (w.extractLsb' 22 6).toNat with
  | 0 => accept (zd && za && zi) .nop
  | 1 => accept (!w.getLsbD 11) (.fence d a (w.getLsbD 10) (w.getLsbD 9) (w.getLsbD 8) (w.extractLsb' 5 3))
  | 2 => accept true (.srd d n) | 3 => accept true (.swr d n) | 4 => accept true (.srset d n) | 5 => accept true (.srclr d n)
  | 6 => accept zd (.trap n) | 7 => accept (zd && za && zi) .tret | 8 => accept (zd && za && zi) .brk
  | 9 => accept zi (.wfe d a) | 10 => accept (zd && w.extractLsb' 7 5 == 0) (.keyset a (w.extractLsb' 5 2))
  | 11 => accept (zd && za && zi) .keyclr | 12 => accept zi (.farm d a)
  | 13 => accept (za && w.extractLsb' 6 6 == 0) (.strip d (w.getLsbD 5))
  | 14 => accept zi (.fjoin d a) | 15 => accept (zd && za && zi) .yield | 16 => accept (zd && zi) (.notify a)
  | 17 => accept (zd && w.extractLsb' 8 4 == 0) (.tlbinv a (w.getLsbD 7) (w.extractLsb' 5 2))
  | 18 => accept (zd && za && w.extractLsb' 6 6 == 0) (.cinv (w.getLsbD 5))
  | 19 => accept (zd && w.extractLsb' 6 6 == 0) (.cflush a (w.getLsbD 5))
  | 20 => accept (zd && za && zi) .halt
  | s => if 48 ≤ s then accept true (.hint (w.extractLsb' 22 4) d a i) else .error .reservedOp

/-- CTRL (R80, R106 to R109). -/
def decodeCtrl (w : BitVec 32) : Except Reject Instr :=
  let a : Reg := w.extractLsb' 23 5
  let b : Reg := w.extractLsb' 18 5
  let o := w.extractLsb' 5 13
  match (w.extractLsb' 28 4).toNat with
  | 0 => accept true (.beq a b o) | 1 => accept true (.bne a b o) | 2 => accept true (.blt a b o) | 3 => accept true (.bge a b o)
  | 4 => accept true (.bltu a b o) | 5 => accept true (.bgeu a b o)
  | 6 => accept true (.jmpl a (w.extractLsb' 5 18)) | 7 => accept true (.jmpr a b o)
  | 8 => if w.extractLsb' 26 2 = 3 then accept (b == 0) (.bse (w.extractLsb' 23 3) o) else .error .badField
  | 9 => accept (b == 0) (.bmany a o) | 10 => accept (b == 0) (.bmnone a o)
  | 15 => decodeSys w
  | _ => .error .reservedOp

/-- FP (R81, R110). -/
def decodeFp (w : BitVec 32) : Except Reject Instr :=
  let d : Reg := w.extractLsb' 21 5
  let a : Reg := w.extractLsb' 16 5
  let b : Reg := w.extractLsb' 11 5
  let z := !w.getLsbD 10
  let zb := z && b == 0
  let rm := w.extractLsb' 7 3
  let f := w.extractLsb' 5 2
  match (w.extractLsb' 26 6).toNat with
  | 0 => accept z (.fadd d a b rm f) | 1 => accept z (.fsub d a b rm f) | 2 => accept z (.fmul d a b rm f) | 3 => accept z (.fdiv d a b rm f)
  | 4 => accept zb (.fsqrt d a rm f) | 5 => accept z (.fmin d a b rm f) | 6 => accept z (.fmax d a b rm f)
  | 7 => accept z (.fma d a b rm f) | 8 => accept z (.fms d a b rm f) | 9 => accept z (.fnma d a b rm f)
  | 10 => accept z (.fcmp d a b rm f) | 11 => accept (zb && rm == 0) (.fclass d a f) | 12 => accept z (.fsgnj d a b rm f)
  | 13 => accept zb (.fcvt d a rm f)
  | _ => .error .reservedOp

/-- VEC-M (R82, R117, R123, R134, R141, R168 to R170, R208, R212, R223, R232). -/
def decodeVecM (w : BitVec 32) : Except Reject Instr :=
  let d : Reg := w.extractLsb' 21 5
  let a : Reg := w.extractLsb' 16 5
  let b : Reg := w.extractLsb' 11 5
  let m := w.extractLsb' 8 3
  let b0 := w.getLsbD 5
  let b1 := w.getLsbD 6
  let b2 := w.getLsbD 7
  let za := a == 0
  let zb := b == 0
  let zm := m == 0
  let z0 := !b0
  let z12 := !b1 && !b2
  let z3 := z0 && z12
  match (w.extractLsb' 26 6).toNat with
  | 0 => accept (zb && zm && z12) (.vsetl d a b0)
  | 1 => accept true (.vld d a b m b2 b1 b0) | 2 => accept true (.vlds d a b m b2 b1 b0)
  | 3 => accept true (.vldx d a b m b2 b1 b0) | 4 => accept true (.vldseg d a b m b2 b1 b0)
  | 5 => accept (!b2) (.vst d a b m b1 b0) | 6 => accept (!b2) (.vsts d a b m b1 b0)
  | 7 => accept (!b2) (.vstx d a b m b1 b0) | 8 => accept (!b2) (.vstseg d a b m b1 b0)
  | 9 => if w.extractLsb' 24 2 = 3 then accept (zm && z3) (.vbind (w.extractLsb' 21 3) a b) else .error .badField
  | 10 => if w.extractLsb' 24 2 = 3 then accept (zb && zm && z3) (.vunbind (w.extractLsb' 21 3) a) else .error .badField
  | 11 => accept (zb && z3) (.vmv d a m) | 12 => accept z12 (.vmvr d a b m b0) | 13 => accept z12 (.vmvc d a b m b0)
  | 14 => accept (zb && z3) (.vsplat d a m) | 15 => accept (zm && z12) (.vext d a b b0)
  | 16 => accept (za && zb && zm && z3) (.vretag d) | 17 => accept (za && zb && zm && z12) (.vrelease d b0)
  | 18 => accept (zb && z3) (.vid d a m) | 19 => accept (zb && z3) (.viota d a m)
  | 20 => accept z3 (.vslideup d a b m) | 21 => accept z3 (.vslidedn d a b m) | 22 => accept z3 (.vperm d a b m)
  | 23 => accept (zb && z3) (.vcompress d a m)
  | 24 => accept (zm && z3) (.mand d a b) | 25 => accept (zm && z3) (.mor d a b) | 26 => accept (zm && z3) (.mxor d a b)
  | 27 => accept (zm && z3) (.mandn d a b) | 28 => accept (zb && zm && z3) (.mnot d a)
  | 29 => accept (zm && z12) (.mshl d a b b0) | 30 => accept (zm && z12) (.mshr d a b b0)
  | 31 => accept (zb && z3) (.mpopc d a m) | 32 => accept (zb && z3) (.mfirst d a m) | 33 => accept (zb && z3) (.mlast d a m)
  | 34 => accept (za && zb && zm && z3) (.mset d) | 35 => accept (za && zb && zm && z3) (.mclr d)
  | 36 => accept (zb && zm && z3) (.mmv d a) | 37 => accept (zb && zm && z3) (.mld d a) | 38 => accept (zb && zm && z3) (.mst d a)
  | 39 => accept true (.vwait d a b m b2 (w.extractLsb' 5 2)) | 40 => accept (zb && z3) (.vcmd d a m)
  | 41 => accept (zb && !b2) (.vsend d a m b1 b0) | 42 => accept (!b2) (.vscatx d a b m b1 b0)
  | 43 => accept true (.vgathx d a b m b2 b1 b0) | 44 => accept true (.vamo d a b m (w.extractLsb' 5 3))
  | _ => .error .reservedOp

/-- VEC-A (R82, R150). -/
def decodeVecA (w : BitVec 32) : Except Reject Instr :=
  let d : Reg := w.extractLsb' 21 5
  let a : Reg := w.extractLsb' 16 5
  let b : Reg := w.extractLsb' 11 5
  let m := w.extractLsb' 8 3
  let x := w.getLsbD 5
  let s := w.getLsbD 6
  let n := w.getLsbD 7
  let zs := !s
  let zb := b == 0
  let zx := !x
  match (w.extractLsb' 26 6).toNat with
  | 0 => accept true (.vadd d a b m n s x) | 1 => accept true (.vsub d a b m n s x) | 2 => accept true (.vmul d a b m n s x)
  | 3 => accept true (.vmulh d a b m n s x) | 4 => accept true (.vdiv d a b m n s x) | 5 => accept true (.vrem d a b m n s x)
  | 6 => accept true (.vmin d a b m n s x) | 7 => accept true (.vmax d a b m n s x)
  | 8 => accept zs (.vand d a b m n x) | 9 => accept zs (.vor d a b m n x) | 10 => accept zs (.vxor d a b m n x)
  | 11 => accept zs (.vsll d a b m n x) | 12 => accept zs (.vsrl d a b m n x) | 13 => accept zs (.vsra d a b m n x)
  | 14 => accept true (.vadc d a b m n s x) | 15 => accept true (.vsbc d a b m n s x)
  | 16 => accept true (.vcmp d a b m (w.extractLsb' 5 3)) | 17 => accept zs (.vmerge d a b m n x)
  | 18 => accept (zb && zx) (.vabs d a m n s)
  | 19 => accept zs (.vfadd d a b m n x) | 20 => accept zs (.vfsub d a b m n x) | 21 => accept zs (.vfmul d a b m n x)
  | 22 => accept zs (.vfdiv d a b m n x) | 23 => accept (zs && zb && zx) (.vfsqrt d a m n)
  | 24 => accept zs (.vfma d a b m n x) | 25 => accept zs (.vfms d a b m n x) | 26 => accept zs (.vfnma d a b m n x)
  | 27 => accept zs (.vfmin d a b m n x) | 28 => accept zs (.vfmax d a b m n x)
  | 29 => accept true (.vfcmp d a b m (w.extractLsb' 5 3)) | 30 => accept (zs && zb && zx) (.vfclass d a m n)
  | 31 => accept (zs && zb && zx) (.vfexp d a m n) | 32 => accept (zs && zb && zx) (.vflog d a m n) | 33 => accept (zs && zb && zx) (.vfrcp d a m n)
  | 34 => accept (zs && zb && zx) (.vfrsq d a m n) | 35 => accept (zs && zb && zx) (.vftanh d a m n)
  | 36 => accept zx (.vcvt d a b m n s) | 37 => accept zx (.vcvti d a b m n s) | 38 => accept (zs && zx) (.vcvtf4 d a b m n)
  | 39 => accept zs (.vqscale d a b m n x) | 40 => accept zs (.vredos d a b m n x) | 41 => accept zs (.vredsum d a b m n x)
  | 42 => accept true (.vredmax d a b m n s x) | 43 => accept true (.vredmin d a b m n s x)
  | 44 => accept zs (.vredand d a b m n x) | 45 => accept zs (.vredor d a b m n x) | 46 => accept zs (.vredxor d a b m n x)
  | _ => .error .reservedOp

/-- The 32-bit forms, by class (R73, R76). -/
def decode32 (w : BitVec 32) : Except Reject Instr :=
  match (w.extractLsb' 2 3).toNat with
  | 0 => decodeIntR w | 1 => decodeIntI w | 2 => decodeMem w | 3 => decodeCtrl w | 4 => decodeFp w | 5 => decodeVecM w
  | 6 => decodeVecA w | _ => .error .reservedOp

/-- Word 0 of a 64-bit instruction names an assigned op6; it is judged before word 1 is fetched (R74, R83). -/
def word0Assigned (w0 : BitVec 32) : Bool := (w0.extractLsb' 26 6).toNat ≤ 11

/-- The 64-bit forms (R83, R117, R148, R177 to R201). -/
def decode64 (w0 w1 : BitVec 32) : Except Reject Instr :=
  let d : Reg := w0.extractLsb' 21 5
  let a : Reg := w0.extractLsb' 16 5
  let z1 := w1 == 0
  let fA := w1.extractLsb' 27 5
  let fB := w1.extractLsb' 22 5
  match (w0.extractLsb' 26 6).toNat with
  | 0 => accept (w0.extractLsb' 5 13 == 0 && z1) (.macq d (w0.getLsbD 20) (w0.extractLsb' 18 2))
  | 1 => accept (w0.extractLsb' 5 17 == 0 && z1) (.mrel (w0.extractLsb' 22 4))
  | 2 => accept (w0.extractLsb' 5 16 == 0 && z1) (.mzero (w0.extractLsb' 22 4) (w0.getLsbD 21))
  | 3 => accept (w0.extractLsb' 5 2 == 0 && w1.extractLsb' 0 12 == 0)
      (.macc (w0.extractLsb' 24 2) (w0.extractLsb' 19 5) (w0.extractLsb' 14 5) (w0.getLsbD 13) (w0.getLsbD 12) (w0.getLsbD 11)
        (w0.extractLsb' 9 2) (w0.extractLsb' 7 2) fA fB (w1.extractLsb' 17 5) (w1.extractLsb' 12 5))
  | 4 => accept (w0.extractLsb' 5 2 == 0 && w1.extractLsb' 0 7 == 0)
      (.maccs (w0.extractLsb' 24 2) (w0.extractLsb' 19 5) (w0.extractLsb' 14 5) (w0.getLsbD 13) (w0.getLsbD 12) (w0.getLsbD 11)
        (w0.extractLsb' 9 2) (w0.extractLsb' 7 2) fA fB (w1.extractLsb' 17 5) (w1.extractLsb' 12 5) (w1.extractLsb' 7 5))
  | 5 => accept (w1.extractLsb' 0 27 == 0) (.mldc d a (w0.extractLsb' 11 5) (w0.extractLsb' 6 5) (w0.getLsbD 5) fA)
  | 6 => accept (w0.extractLsb' 5 5 == 0 && w1.extractLsb' 0 17 == 0)
      (.mdrain (w0.extractLsb' 24 2) (w0.extractLsb' 19 5) (w0.extractLsb' 17 2) (w0.extractLsb' 14 3) (w0.extractLsb' 12 2)
        (w0.getLsbD 11) (w0.getLsbD 10) fA fB (w1.extractLsb' 17 5))
  | 7 => accept (!w0.getLsbD 11 && w0.extractLsb' 5 5 == 0 && w1.extractLsb' 0 17 == 0)
      (.mdrainx (w0.extractLsb' 24 2) (w0.extractLsb' 20 4) (w0.extractLsb' 17 3) (w0.extractLsb' 14 3) (w0.extractLsb' 12 2)
        (w0.getLsbD 10) fA fB (w1.extractLsb' 17 5))
  | 8 => accept (w0.extractLsb' 5 9 == 0 && z1) (.mtrd d (w0.extractLsb' 19 2) (w0.extractLsb' 14 5))
  | 9 => accept (w0.extractLsb' 5 7 == 0 && z1) (.mchk d (w0.extractLsb' 19 2) (w0.extractLsb' 14 5) (w0.extractLsb' 12 2))
  | 10 => accept true (.li64 d (w0.getLsbD 20) (w0.extractLsb' 5 15 ++ w1))
  | 11 => accept (w0.extractLsb' 5 11 == 0 && w1.extractLsb' 20 12 == 0) (.vsetli d a (w1.extractLsb' 0 20))
  | _ => .error .reservedOp

/-- Decode the instruction at the head of a list of bytes, answering the bytes after it (R73, R74). -/
def decode : List Byte → Except Reject (Instr × List Byte)
  | b0 :: b1 :: r =>
    let h : BitVec 16 := b1 ++ b0
    if lengthOf h = 2 then (decode16 h).map (·, r)
    else match r with
      | b2 :: b3 :: r' =>
        let w0 : BitVec 32 := b3 ++ b2 ++ h
        if lengthOf h = 4 then (decode32 w0).map (·, r')
        else if !word0Assigned w0 then .error .reservedOp
        else match r' with
          | b4 :: b5 :: b6 :: b7 :: r'' => (decode64 w0 (b7 ++ b6 ++ b5 ++ b4)).map (·, r'')
          | _ => .error .short
      | _ => .error .short
  | _ => .error .short

/-- The host's question: what the decoder reads from an instruction whose bits are `w`, numbered from the first word's bit 0. -/
def decodeTableWord (_nbits w : Nat) : Option Instr :=
  match decode (bytesOf 8 w) with
  | .ok (i, _) => some i
  | .error _ => none

/-- The words of an instruction. -/
inductive Code where
  | half (h : BitVec 16) | word (w : BitVec 32) | long (w0 w1 : BitVec 32)
  deriving DecidableEq, Repr

namespace Layout

/-- R layout (R76): op6, d, a, b, fn6, class. -/
def r (op : BitVec 6) (d a b : Reg) (fn : BitVec 6) (cls : BitVec 3) : Code := .word (op ++ d ++ a ++ b ++ fn ++ cls ++ 3#2)
/-- I layout: op4, d, a, imm13, class. -/
def i (op : BitVec 4) (d a : Reg) (im : BitVec 13) (cls : BitVec 3) : Code := .word (op ++ d ++ a ++ im ++ cls ++ 3#2)
/-- U and J layouts: op4, d, 18-bit immediate, class. -/
def u (op : BitVec 4) (d : Reg) (im : BitVec 18) (cls : BitVec 3) : Code := .word (op ++ d ++ im ++ cls ++ 3#2)
/-- S layout: op4, immhi5, a, b, immlo8. -/
def s (op : BitVec 4) (a b : Reg) (im : BitVec 13) : Code :=
  .word (op ++ im.extractLsb' 8 5 ++ a ++ b ++ im.extractLsb' 0 8 ++ 2#3 ++ 3#2)
/-- AMO layout: op4 15, d, a, b, amo4, width, order. -/
def amo (op : BitVec 4) (d a b : Reg) (w o : BitVec 2) : Code := .word (15#4 ++ d ++ a ++ b ++ op ++ w ++ o ++ 2#3 ++ 3#2)
/-- B and Q layouts: op4, a, b, off13. -/
def b (op : BitVec 4) (a c : Reg) (o : BitVec 13) : Code := .word (op ++ a ++ c ++ o ++ 3#3 ++ 3#2)
/-- SYS layout: 1111, sysop6, d, a, imm7. -/
def sys (op : BitVec 6) (d a : Reg) (im : BitVec 7) : Code := .word (15#4 ++ op ++ d ++ a ++ im ++ 3#3 ++ 3#2)
/-- FP fields: reserved 0, rm, fmt. -/
def fp (op : BitVec 6) (d a b : Reg) (rm : BitVec 3) (f : BitVec 2) : Code := r op d a b (0#1 ++ rm ++ f) 4
/-- V layout: op6, vd, a, b, mask, mod3, class. -/
def v (op : BitVec 6) (d a b : Reg) (m : MaskField) (md : BitVec 3) (cls : BitVec 3) : Code := .word (op ++ d ++ a ++ b ++ m ++ md ++ cls ++ 3#2)
/-- mod3 from its bits 2, 1 and 0. -/
def m3 (b2 b1 b0 : Bool) : BitVec 3 := BitVec.ofBool b2 ++ BitVec.ofBool b1 ++ BitVec.ofBool b0
/-- VEC-M. -/
def vm (op : BitVec 6) (d a b : Reg) (m : MaskField) (b2 b1 b0 : Bool) : Code := v op d a b m (m3 b2 b1 b0) 5
/-- VEC-A. -/
def va (op : BitVec 6) (d a b : Reg) (m : MaskField) (b2 b1 b0 : Bool) : Code := v op d a b m (m3 b2 b1 b0) 6

end Layout

/-- One bit from a Bool. -/
def bit (b : Bool) : BitVec 1 := BitVec.ofBool b

/-- The words of an instruction, from the encoding tables (R76 to R84 and the entries). A step has none. -/
def encode : Instr → Option Code
  | .add d a b => some (Layout.r 0 d a b 0 0) | .sub d a b => some (Layout.r 1 d a b 0 0) | .and d a b => some (Layout.r 2 d a b 0 0)
  | .or d a b => some (Layout.r 3 d a b 0 0) | .xor d a b => some (Layout.r 4 d a b 0 0) | .andn d a b => some (Layout.r 5 d a b 0 0)
  | .sll d a b => some (Layout.r 6 d a b 0 0) | .srl d a b => some (Layout.r 7 d a b 0 0) | .sra d a b => some (Layout.r 8 d a b 0 0)
  | .rotl d a b => some (Layout.r 9 d a b 0 0) | .slt d a b => some (Layout.r 10 d a b 0 0) | .sltu d a b => some (Layout.r 11 d a b 0 0)
  | .min d a b => some (Layout.r 12 d a b 0 0) | .max d a b => some (Layout.r 13 d a b 0 0) | .minu d a b => some (Layout.r 14 d a b 0 0)
  | .maxu d a b => some (Layout.r 15 d a b 0 0) | .mul d a b => some (Layout.r 16 d a b 0 0) | .mulh d a b => some (Layout.r 17 d a b 0 0)
  | .mulhu d a b => some (Layout.r 18 d a b 0 0) | .div d a b => some (Layout.r 19 d a b 0 0) | .divu d a b => some (Layout.r 20 d a b 0 0)
  | .rem d a b => some (Layout.r 21 d a b 0 0) | .remu d a b => some (Layout.r 22 d a b 0 0)
  | .clz d a => some (Layout.r 23 d a 0 0 0) | .ctz d a => some (Layout.r 24 d a 0 0 0) | .popc d a => some (Layout.r 25 d a 0 0 0)
  | .sext d a w => some (Layout.r 26 d a 0 (0#4 ++ w) 0) | .zext d a w => some (Layout.r 27 d a 0 (0#4 ++ w) 0)
  | .csel d a b => some (Layout.r 28 d a b 0 0) | .bswap d a => some (Layout.r 29 d a 0 0 0)
  | .addi d a i => some (Layout.i 0 d a i 1) | .andi d a i => some (Layout.i 1 d a i 1) | .ori d a i => some (Layout.i 2 d a i 1)
  | .xori d a i => some (Layout.i 3 d a i 1) | .slti d a i => some (Layout.i 4 d a i 1) | .sltiu d a i => some (Layout.i 5 d a i 1)
  | .slli d a sh => some (Layout.i 6 d a (0#7 ++ sh) 1) | .srli d a sh => some (Layout.i 7 d a (0#7 ++ sh) 1) | .srai d a sh => some (Layout.i 8 d a (0#7 ++ sh) 1)
  | .lih d i => some (Layout.u 9 d i 1) | .pcadd d i => some (Layout.u 10 d i 1)
  | .lb d a i => some (Layout.i 0 d a i 2) | .lbu d a i => some (Layout.i 1 d a i 2) | .lh d a i => some (Layout.i 2 d a i 2)
  | .lhu d a i => some (Layout.i 3 d a i 2) | .lw d a i => some (Layout.i 4 d a i 2) | .lwu d a i => some (Layout.i 5 d a i 2)
  | .ld d a i => some (Layout.i 6 d a i 2) | .lda d a scope i => some (Layout.i 7 d a (scope ++ i) 2)
  | .sb a b i => some (Layout.s 8 a b i) | .sh a b i => some (Layout.s 9 a b i) | .sw a b i => some (Layout.s 10 a b i)
  | .sd a b i => some (Layout.s 11 a b i) | .sdrel a b scope i => some (Layout.s 12 a b (scope ++ i))
  | .amoadd d a b w o => some (Layout.amo 0 d a b w o) | .amoand d a b w o => some (Layout.amo 1 d a b w o) | .amoor d a b w o => some (Layout.amo 2 d a b w o)
  | .amoxor d a b w o => some (Layout.amo 3 d a b w o) | .amomin d a b w o => some (Layout.amo 4 d a b w o) | .amomax d a b w o => some (Layout.amo 5 d a b w o)
  | .amominu d a b w o => some (Layout.amo 6 d a b w o) | .amomaxu d a b w o => some (Layout.amo 7 d a b w o) | .amoswap d a b w o => some (Layout.amo 8 d a b w o)
  | .amocas d a b w o => some (Layout.amo 9 d a b w o) | .amofadd d a b half o => some (Layout.amo 10 d a b (bit half ++ 0#1) o)
  | .beq a b o => some (Layout.b 0 a b o) | .bne a b o => some (Layout.b 1 a b o) | .blt a b o => some (Layout.b 2 a b o)
  | .bge a b o => some (Layout.b 3 a b o) | .bltu a b o => some (Layout.b 4 a b o) | .bgeu a b o => some (Layout.b 5 a b o)
  | .jmpl d o => some (Layout.u 6 d o 3) | .jmpr d a i => some (Layout.i 7 d a i 3)
  | .bse n o => some (Layout.b 8 (3#2 ++ n) 0 o) | .bmany n o => some (Layout.b 9 n 0 o) | .bmnone n o => some (Layout.b 10 n 0 o)
  | .nop => some (Layout.sys 0 0 0 0)
  | .fence f t ack rel acq scope => some (Layout.sys 1 f t (0#1 ++ bit ack ++ bit rel ++ bit acq ++ scope))
  | .srd d n => some (Layout.sys 2 d (n.extractLsb' 7 5) (n.extractLsb' 0 7)) | .swr d n => some (Layout.sys 3 d (n.extractLsb' 7 5) (n.extractLsb' 0 7))
  | .srset d n => some (Layout.sys 4 d (n.extractLsb' 7 5) (n.extractLsb' 0 7)) | .srclr d n => some (Layout.sys 5 d (n.extractLsb' 7 5) (n.extractLsb' 0 7))
  | .trap c => some (Layout.sys 6 0 (c.extractLsb' 7 5) (c.extractLsb' 0 7)) | .tret => some (Layout.sys 7 0 0 0) | .brk => some (Layout.sys 8 0 0 0)
  | .wfe d a => some (Layout.sys 9 d a 0) | .keyset a k => some (Layout.sys 10 0 a (0#5 ++ k)) | .keyclr => some (Layout.sys 11 0 0 0)
  | .farm d a => some (Layout.sys 12 d a 0) | .strip d ret => some (Layout.sys 13 d 0 (0#6 ++ bit ret)) | .fjoin d a => some (Layout.sys 14 d a 0)
  | .yield => some (Layout.sys 15 0 0 0) | .notify a => some (Layout.sys 16 0 a 0)
  | .tlbinv a g2 mode => some (Layout.sys 17 0 a (0#4 ++ bit g2 ++ mode)) | .cinv all => some (Layout.sys 18 0 0 (0#6 ++ bit all))
  | .cflush a all => some (Layout.sys 19 0 a (0#6 ++ bit all)) | .halt => some (Layout.sys 20 0 0 0)
  | .hint h d a i => some (Layout.sys (3#2 ++ h) d a i)
  | .fadd d a b rm f => some (Layout.fp 0 d a b rm f) | .fsub d a b rm f => some (Layout.fp 1 d a b rm f) | .fmul d a b rm f => some (Layout.fp 2 d a b rm f)
  | .fdiv d a b rm f => some (Layout.fp 3 d a b rm f) | .fsqrt d a rm f => some (Layout.fp 4 d a 0 rm f) | .fmin d a b rm f => some (Layout.fp 5 d a b rm f)
  | .fmax d a b rm f => some (Layout.fp 6 d a b rm f) | .fma d a b rm f => some (Layout.fp 7 d a b rm f) | .fms d a b rm f => some (Layout.fp 8 d a b rm f)
  | .fnma d a b rm f => some (Layout.fp 9 d a b rm f) | .fcmp d a b c f => some (Layout.fp 10 d a b c f) | .fclass d a f => some (Layout.fp 11 d a 0 0 f)
  | .fsgnj d a b c f => some (Layout.fp 12 d a b c f) | .fcvt d a c f => some (Layout.fp 13 d a 0 c f)
  | .vsetl d a k => some (Layout.vm 0 d a 0 0 false false k)
  | .vld d a b m ff nt u => some (Layout.vm 1 d a b m ff nt u) | .vlds d a b m ff nt u => some (Layout.vm 2 d a b m ff nt u)
  | .vldx d a b m ff nt u => some (Layout.vm 3 d a b m ff nt u) | .vldseg d a b m ff nt u => some (Layout.vm 4 d a b m ff nt u)
  | .vst d a b m nt u => some (Layout.vm 5 d a b m false nt u) | .vsts d a b m nt u => some (Layout.vm 6 d a b m false nt u)
  | .vstx d a b m nt u => some (Layout.vm 7 d a b m false nt u) | .vstseg d a b m nt u => some (Layout.vm 8 d a b m false nt u)
  | .vbind n a b => some (Layout.vm 9 (3#2 ++ n) a b 0 false false false) | .vunbind n a => some (Layout.vm 10 (3#2 ++ n) a 0 0 false false false)
  | .vmv d a m => some (Layout.vm 11 d a 0 m false false false) | .vmvr d a b m ins => some (Layout.vm 12 d a b m false false ins)
  | .vmvc d a b m ins => some (Layout.vm 13 d a b m false false ins) | .vsplat d a m => some (Layout.vm 14 d a 0 m false false false)
  | .vext d a b s => some (Layout.vm 15 d a b 0 false false s) | .vretag d => some (Layout.vm 16 d 0 0 0 false false false)
  | .vrelease d all => some (Layout.vm 17 d 0 0 0 false false all) | .vid d a m => some (Layout.vm 18 d a 0 m false false false)
  | .viota d a m => some (Layout.vm 19 d a 0 m false false false) | .vslideup d a b m => some (Layout.vm 20 d a b m false false false)
  | .vslidedn d a b m => some (Layout.vm 21 d a b m false false false) | .vperm d a b m => some (Layout.vm 22 d a b m false false false)
  | .vcompress d a m => some (Layout.vm 23 d a 0 m false false false)
  | .mand d a b => some (Layout.vm 24 d a b 0 false false false) | .mor d a b => some (Layout.vm 25 d a b 0 false false false)
  | .mxor d a b => some (Layout.vm 26 d a b 0 false false false) | .mandn d a b => some (Layout.vm 27 d a b 0 false false false)
  | .mnot d a => some (Layout.vm 28 d a 0 0 false false false) | .mshl d a b i => some (Layout.vm 29 d a b 0 false false i)
  | .mshr d a b i => some (Layout.vm 30 d a b 0 false false i) | .mpopc d a m => some (Layout.vm 31 d a 0 m false false false)
  | .mfirst d a m => some (Layout.vm 32 d a 0 m false false false) | .mlast d a m => some (Layout.vm 33 d a 0 m false false false)
  | .mset d => some (Layout.vm 34 d 0 0 0 false false false) | .mclr d => some (Layout.vm 35 d 0 0 0 false false false)
  | .mmv d a => some (Layout.vm 36 d a 0 0 false false false) | .mld d a => some (Layout.vm 37 d a 0 0 false false false)
  | .mst d a => some (Layout.vm 38 d a 0 0 false false false)
  | .vwait d a b m w c => some (Layout.v 39 d a b m (bit w ++ c) 5) | .vcmd d a m => some (Layout.vm 40 d a 0 m false false false)
  | .vsend d a m nt u => some (Layout.vm 41 d a 0 m false nt u) | .vscatx d a b m nt u => some (Layout.vm 42 d a b m false nt u)
  | .vgathx d a b m ff nt u => some (Layout.vm 43 d a b m ff nt u) | .vamo d a b m p => some (Layout.v 44 d a b m p 5)
  | .vadd d a b m n s x => some (Layout.va 0 d a b m n s x) | .vsub d a b m n s x => some (Layout.va 1 d a b m n s x)
  | .vmul d a b m n s x => some (Layout.va 2 d a b m n s x) | .vmulh d a b m n s x => some (Layout.va 3 d a b m n s x)
  | .vdiv d a b m n s x => some (Layout.va 4 d a b m n s x) | .vrem d a b m n s x => some (Layout.va 5 d a b m n s x)
  | .vmin d a b m n s x => some (Layout.va 6 d a b m n s x) | .vmax d a b m n s x => some (Layout.va 7 d a b m n s x)
  | .vand d a b m n x => some (Layout.va 8 d a b m n false x) | .vor d a b m n x => some (Layout.va 9 d a b m n false x)
  | .vxor d a b m n x => some (Layout.va 10 d a b m n false x) | .vsll d a b m n x => some (Layout.va 11 d a b m n false x)
  | .vsrl d a b m n x => some (Layout.va 12 d a b m n false x) | .vsra d a b m n x => some (Layout.va 13 d a b m n false x)
  | .vadc d a b m n s x => some (Layout.va 14 d a b m n s x) | .vsbc d a b m n s x => some (Layout.va 15 d a b m n s x)
  | .vcmp d a b m c => some (Layout.v 16 d a b m c 6) | .vmerge d a b m n x => some (Layout.va 17 d a b m n false x)
  | .vabs d a m n s => some (Layout.va 18 d a 0 m n s false)
  | .vfadd d a b m n x => some (Layout.va 19 d a b m n false x) | .vfsub d a b m n x => some (Layout.va 20 d a b m n false x)
  | .vfmul d a b m n x => some (Layout.va 21 d a b m n false x) | .vfdiv d a b m n x => some (Layout.va 22 d a b m n false x)
  | .vfsqrt d a m n => some (Layout.va 23 d a 0 m n false false) | .vfma d a b m n x => some (Layout.va 24 d a b m n false x)
  | .vfms d a b m n x => some (Layout.va 25 d a b m n false x) | .vfnma d a b m n x => some (Layout.va 26 d a b m n false x)
  | .vfmin d a b m n x => some (Layout.va 27 d a b m n false x) | .vfmax d a b m n x => some (Layout.va 28 d a b m n false x)
  | .vfcmp d a b m c => some (Layout.v 29 d a b m c 6) | .vfclass d a m n => some (Layout.va 30 d a 0 m n false false)
  | .vfexp d a m n => some (Layout.va 31 d a 0 m n false false) | .vflog d a m n => some (Layout.va 32 d a 0 m n false false)
  | .vfrcp d a m n => some (Layout.va 33 d a 0 m n false false) | .vfrsq d a m n => some (Layout.va 34 d a 0 m n false false)
  | .vftanh d a m n => some (Layout.va 35 d a 0 m n false false)
  | .vcvt d a b m n s => some (Layout.va 36 d a b m n s false) | .vcvti d a b m n s => some (Layout.va 37 d a b m n s false)
  | .vcvtf4 d a b m n => some (Layout.va 38 d a b m n false false) | .vqscale d a b m n x => some (Layout.va 39 d a b m n false x)
  | .vredos d a b m n x => some (Layout.va 40 d a b m n false x) | .vredsum d a b m n x => some (Layout.va 41 d a b m n false x)
  | .vredmax d a b m n s x => some (Layout.va 42 d a b m n s x) | .vredmin d a b m n s x => some (Layout.va 43 d a b m n s x)
  | .vredand d a b m n x => some (Layout.va 44 d a b m n false x) | .vredor d a b m n x => some (Layout.va 45 d a b m n false x)
  | .vredxor d a b m n x => some (Layout.va 46 d a b m n false x)
  | .macq d any t => some (.long (0#6 ++ d ++ bit any ++ t ++ 0#13 ++ 31#5) 0)
  | .mrel tm => some (.long (1#6 ++ tm ++ 0#17 ++ 31#5) 0)
  | .mzero tm i => some (.long (2#6 ++ tm ++ bit i ++ 0#16 ++ 31#5) 0)
  | .macc t va vb bs tr sat ga gb fA fB xk xc =>
      some (.long (3#6 ++ t ++ va ++ vb ++ bit bs ++ bit tr ++ bit sat ++ ga ++ gb ++ 0#2 ++ 31#5) (fA ++ fB ++ xk ++ xc ++ 0#12))
  | .maccs t va vb bs tr sat ga gb fA fB xk xc vm =>
      some (.long (4#6 ++ t ++ va ++ vb ++ bit bs ++ bit tr ++ bit sat ++ ga ++ gb ++ 0#2 ++ 31#5) (fA ++ fB ++ xk ++ xc ++ vm ++ 0#7))
  | .mldc xg xs xstr xsc tr f => some (.long (5#6 ++ xg ++ xs ++ xstr ++ xsc ++ bit tr ++ 31#5) (f ++ 0#27))
  | .mdrain t vd gd rm ks sat z f xr xo =>
      some (.long (6#6 ++ t ++ vd ++ gd ++ rm ++ ks ++ bit sat ++ bit z ++ 0#5 ++ 31#5) (f ++ xr ++ xo ++ 0#17))
  | .mdrainx t ctx chan rm ks z f xr xo =>
      some (.long (7#6 ++ t ++ ctx ++ chan ++ rm ++ ks ++ 0#1 ++ bit z ++ 0#5 ++ 31#5) (f ++ xr ++ xo ++ 0#17))
  | .mtrd d t a => some (.long (8#6 ++ d ++ t ++ a ++ 0#9 ++ 31#5) 0)
  | .mchk d t a sel => some (.long (9#6 ++ d ++ t ++ a ++ sel ++ 0#7 ++ 31#5) 0)
  | .li64 d hi i => some (.long (10#6 ++ d ++ bit hi ++ i.extractLsb' 32 15 ++ 31#5) (i.extractLsb' 0 32))
  | .vsetli d a req => some (.long (11#6 ++ d ++ a ++ 0#11 ++ 31#5) (0#12 ++ req))
  | .cLd d a i => some (.half (0#3 ++ a ++ d ++ i ++ 0#2)) | .cSd b a i => some (.half (1#3 ++ a ++ b ++ i ++ 0#2))
  | .cLw d a i => some (.half (2#3 ++ a ++ d ++ i ++ 0#2)) | .cSw b a i => some (.half (3#3 ++ a ++ b ++ i ++ 0#2))
  | .cAddi4sp d i => some (.half (4#3 ++ i ++ d ++ 0#2))
  | .cAddi d i => some (.half (0#3 ++ i.extractLsb' 5 1 ++ d ++ i.extractLsb' 0 5 ++ 1#2))
  | .cLi d i => some (.half (1#3 ++ i.extractLsb' 5 1 ++ d ++ i.extractLsb' 0 5 ++ 1#2))
  | .cMv d a => some (.half (2#3 ++ 0#1 ++ d ++ a ++ 1#2)) | .cAdd d a => some (.half (3#3 ++ 0#1 ++ d ++ a ++ 1#2))
  | .cSub d a => some (.half (4#3 ++ 0#1 ++ d ++ a ++ 1#2)) | .cAnd d a => some (.half (5#3 ++ 0#1 ++ d ++ a ++ 1#2))
  | .cSlli d i => some (.half (6#3 ++ i.extractLsb' 5 1 ++ d ++ i.extractLsb' 0 5 ++ 1#2))
  | .cSrli d i => some (.half (7#3 ++ i.extractLsb' 5 1 ++ d ++ i.extractLsb' 0 5 ++ 1#2))
  | .cJ o => some (.half (0#3 ++ o ++ 2#2)) | .cBeqz a o => some (.half (1#3 ++ a ++ o ++ 2#2)) | .cBnez a o => some (.half (2#3 ++ a ++ o ++ 2#2))
  | .cJr a => some (.half (3#3 ++ a ++ 0#6 ++ 2#2)) | .cNop => some (.half (4#3 ++ 0#11 ++ 2#2)) | .cStrip d ret => some (.half (5#3 ++ bit ret ++ d ++ 0#5 ++ 2#2))
  | _ => none

/-- The bytes of a code as memory holds them (R2, R74). -/
def Code.bytes : Code → List Byte
  | .half h => bytesOf 2 h.toNat
  | .word w => bytesOf 4 w.toNat
  | .long w0 w1 => bytesOf 4 w0.toNat ++ bytesOf 4 w1.toNat

/-- A code as TRAPVAL holds it: zero-extended, word 0 of a 64-bit instruction in the low half (R38). -/
def Code.value : Code → Word
  | .half h => h.zeroExtend 64
  | .word w => w.zeroExtend 64
  | .long w0 w1 => w1 ++ w0

/-- An instruction's bits as TRAPVAL holds them (R38); 0 for a step, which no trap reports. -/
def instrBits (i : Instr) : Word := match encode i with | some c => c.value | none => 0

/-- The least level of an instruction word whose opcode fields name an assigned instruction with a fixed minimum level (R80, R445). -/
def fixedLevel (w : BitVec 32) : Nat :=
  if w.extractLsb' 0 5 == 15 && w.extractLsb' 28 4 == 15 then
    match (w.extractLsb' 22 6).toNat with
    | 7 | 12 | 16 | 17 | 18 => 1
    | 20 => 3
    | _ => 0
  else 0

end Sys2Proof
end

