-- ==== Sys2Proof/Machine/Ops.lean ====
section
/-! DEFINITION. The named operations on registers, memory, translation and traps that every meaning shares. -/

namespace Sys2Proof.Machine

/-! ## Registers -/

/-- Read x[r]; x0 reads as zero (R10). -/
def Hart.getX (h : Hart) (r : Reg) : Word := if r = 0 then 0 else h.x[r.toNat]'(by have := r.isLt; omega)

/-- Write x[r]; a write to x0 is discarded (R10). -/
def Hart.setX (h : Hart) (r : Reg) (v : Word) : Hart := if r = 0 then h else { h with x := h.x.set r.toNat v (by have := r.isLt; omega) }

/-- The state with another current hart. -/
def State.withHart (s : State) (h : Hart) : State := { s with hart := h }

/-- Read a scalar register of the current hart. -/
def State.getX (s : State) (r : Reg) : Word := s.hart.getX r

/-- Write a scalar register of the current hart. -/
def State.setX (s : State) (r : Reg) (v : Word) : State := s.withHart (s.hart.setX r v)

/-- Core 0..191 of a hart identity (R32). -/
def coreOf (i : HartId) : Nat := (i.extractLsb' 2 8).toNat
/-- Bench 0..47 of a hart identity (R32). -/
def benchOf (i : HartId) : Nat := (i.extractLsb' 4 6).toNat
/-- The die of a bench: benches 0-23 are on die 0 (R32). -/
def dieOf (bench : Nat) : Nat := bench / 24

/-- A core's caches and window. -/
def State.core (s : State) (c : Nat) : Core := tget Core.init s.cores c
/-- A bench. -/
def State.bench (s : State) (b : Nat) : Bench := tget Bench.init s.benches b
/-- The state with another value for one core. -/
def State.setCore (s : State) (c : Nat) (k : Core) : State := { s with cores := tset s.cores c k }
/-- The state with another value for one bench. -/
def State.setBench (s : State) (b : Nat) (k : Bench) : State := { s with benches := tset s.benches b k }
/-- A partition. -/
def State.partn (s : State) (p : BitVec 3) : Part := s.parts[p.toNat]'(by have := p.isLt; omega)
/-- The state with another value for one partition. -/
def State.setPart (s : State) (p : BitVec 3) (q : Part) : State := { s with parts := s.parts.set p.toNat q (by have := p.isLt; omega) }

/-! ## Memory -/

/-- One byte of memory; a byte that is not listed reads as 0 (log entry 2). -/
def memGet : List Host.Cell → Nat → Byte
  | [], _ => 0
  | (j, v) :: t, a => if j = a then v else memGet t a

/-- Write one byte, keeping addresses rising and listing no 0 byte. -/
def memPut : List Host.Cell → Nat → Byte → List Host.Cell
  | [], a, v => if v = 0 then [] else [(a, v)]
  | (j, u) :: t, a, v =>
    if j = a then (if v = 0 then t else (a, v) :: t)
    else if a < j then (if v = 0 then (j, u) :: t else (a, v) :: (j, u) :: t)
    else (j, u) :: memPut t a v

/-- The canonical form of memory: addresses strictly rising, and no listed byte equal to what an unlisted one reads as. -/
def Memory.wf : List Host.Cell → Bool
  | [] => true
  | (j, v) :: t => (v != 0) && (match t with | [] => true | (k, _) :: _ => decide (j < k)) && Memory.wf t

/-- Write bytes at rising addresses from `a`. -/
def memPutAll : List Host.Cell → Nat → List Byte → List Host.Cell
  | m, _, [] => m
  | m, a, b :: bs => memPutAll (memPut m a b) (a + 1) bs

/-- The `n` bytes from `a` as a little-endian number (R2). -/
def memRead (m : List Host.Cell) (a : Nat) : Nat → Nat
  | 0 => 0
  | n + 1 => (memGet m a).toNat + 256 * memRead m (a + 1) n

/-- Insert into a strictly rising list. -/
def setIns : List Nat → Nat → List Nat
  | [], a => [a]
  | b :: t, a => if a = b then b :: t else if a < b then a :: b :: t else b :: setIns t a

/-- Remove from a list. -/
def setDel (l : List Nat) (a : Nat) : List Nat := l.filter (· != a)

/-- The 64-byte sector that holds an address. -/
def sectorOf (a : Nat) : Nat := a / 64 * 64

/-- The sectors that `n` bytes from `a` touch. -/
def sectorsOf (a n : Nat) : List Nat := if n = 0 then [] else (List.range ((a + n - 1) / 64 - a / 64 + 1)).map (fun i => sectorOf a + 64 * i)

/-- The ranges of the physical address map (R295). -/
inductive Region where
  | hbm | benchStore | counters | cxl (port : Nat) | io | hole
  deriving DecidableEq, Repr

/-- The range that holds a physical address; a CXL window is populated from its start up to its capacity (R295, R296, R309),
and I/O-die space is populated where R429 allocates it. -/
def regionOf (pa : Nat) : Region :=
  if pa < 0x80_0000_0000 then .hbm
  else if 0x100_0000_0000 ≤ pa ∧ pa < 0x100_0600_0000 then .benchStore
  else if 0x180_0000_0000 ≤ pa ∧ pa < 0x180_0000_4000 then .counters
  else if 0x1000_0000_0000 ≤ pa ∧ pa < 0x2000_0000_0000 then
    (if (pa - 0x1000_0000_0000) % 0x400_0000_0000 < Config.cxlPopulated then .cxl ((pa - 0x1000_0000_0000) / 0x400_0000_0000) else .hole)
  else if 0xF000_0000_0000 ≤ pa then
    let o := pa - 0xF000_0000_0000
    if o < 0x1_0000 ∨ (0x10_0000 ≤ o ∧ o < 0x22_0000) ∨ (0x30_0000 ≤ o ∧ o < 0x30_0100) ∨ (0x40_0000 ≤ o ∧ o < 0x40_0100)
      ∨ (0x50_0000 ≤ o ∧ o < 0x51_0000) ∨ (0x60_0000 ≤ o ∧ o < 0x60_0800) ∨ (0x70_0000 ≤ o ∧ o < 0x70_8000) then .io
    else .hole
  else .hole

/-- Device space: counter blocks and I/O-die space (R296). -/
def isDevice (pa : Nat) : Bool := regionOf pa == .counters || regionOf pa == .io

/-- Memory proper: HBM, bench stores, populated second tier. -/
def isMemory (pa : Nat) : Bool := match regionOf pa with | .hbm | .benchStore | .cxl _ => true | _ => false

/-- Memory the L1 and L2 hold copies of: HBM and the second tier (R300, R302). -/
def isCached (pa : Nat) : Bool := match regionOf pa with | .hbm | .cxl _ => true | _ => false

/-- Whether an address lies in a CXL window whose link is down (R310). -/
def linkDown (s : State) (pa : Nat) : Bool := match regionOf pa with | .cxl p => !s.links.cxlUp.getLsbD p | _ => false

/-- The home bench of a cached byte, or the bench of a bench store (R244, R297, R303). -/
def homeBench (pa : Nat) (abench : Option Nat) : Nat :=
  match regionOf pa with
  | .benchStore => (pa - 0x100_0000_0000) / 0x20_0000
  | r => match abench with
    | some b => b
    | none => 24 * (match r with | .hbm => pa / 0x40_0000_0000 | .cxl p => p / 2 | _ => 0) + pa / 4096 % 24

/-- The bytes a read of a down CXL window returns: no rule gives them (R310). -/
def downData (pa : Nat) : Nat → Nat
  | 0 => 0
  | n + 1 => (Config.freeByte pa).toNat + 256 * downData (pa + 1) n

/-- A table without a key. -/
def tdel {α : Type} (t : Table α) (k : Nat) : Table α := t.filter (fun p => p.1 != k)

/-! ## Check values (R413 to R416) -/

/-- The CRC of the T10 data-integrity field: polynomial 0x8BB7, initial value 0, most significant bit first (R413). -/
def crc16 (bs : List Byte) : BitVec 16 :=
  let bit (c : BitVec 16) : BitVec 16 := if c.getLsbD 15 then (c <<< 1) ^^^ 0x8BB7#16 else c <<< 1
  bs.foldl (fun (c : BitVec 16) b => (List.range 8).foldl (fun c _ => bit c) (c ^^^ BitVec.ofNat 16 (256 * b.toNat))) 0

/-- The check value beside a sector that now reads `data`: that of the bytes as they were when it was made, itself changed by `upset` above bit 511. -/
def checkValue (data upset : Nat) : BitVec 16 :=
  crc16 (bytesOf 64 (data ^^^ (upset % 2 ^ 512))) ^^^ BitVec.ofNat 16 (upset / 2 ^ 512)

/-- Whether a sector fails its check (R416). -/
def checkFails (data upset : Nat) : Bool := upset != 0 && crc16 (bytesOf 64 data) != checkValue data upset

/-- Whether the copy of a sector at its home fails its check (R416). -/
def homeFails (s : State) (sector : Nat) : Bool := checkFails (memRead s.mem sector 64) (tget 0 s.upsets sector)

/-- Whether any sector of `n` bytes from `pa` is poisoned at its home (R418), fails its check there (R416), or is unreachable behind a down link (R310). -/
def poisonedAt (s : State) (pa n : Nat) : Bool := (sectorsOf pa n).any (fun k => s.poison.contains k || linkDown s k || homeFails s k)

/-- `n` bytes as their home holds them. -/
def homeRead (s : State) (pa n : Nat) : Nat := if linkDown s pa then downData pa n else memRead s.mem pa n

/-- Set a sector's poison mark (R418); each mark of a store or copy of poisoned data. -/
def State.setPoison (s : State) (sector : Nat) : State := { s with poison := setIns s.poison sector }
/-- Clear a sector's poison mark (R419). -/
def State.clearPoison (s : State) (sector : Nat) : State := { s with poison := setDel s.poison sector }

/-! ## Translation (R312 to R320) -/

/-- The result of part of a walk, with the table entries it has read. -/
abbrev Walked (α : Type) := List Nat × Except XFault α

/-- Go on with a walk that has not failed. -/
def Walked.andThen {α β : Type} (x : Walked α) (f : α → Walked β) : Walked β :=
  match x.2 with
  | .error e => (x.1, .error e)
  | .ok a => (x.1 ++ (f a).1, (f a).2)

/-- A fault with nothing to note. -/
def xfault (perm : Bool) (ipa : Option Nat) : XFault := { perm := perm, ipa := ipa, notes := [] }

/-- A table entry as a walk may read it: what memory holds, or, where the machine keeps stale entries, any value held since the last TLBINV (R320; log entry 5). -/
def tableWord (s : State) (pa : Nat) : Nat :=
  let old := (s.held.filter (fun p => p.1 == pa)).map Prod.snd
  match old with
  | [] => memRead s.mem pa 8
  | _ => ((memRead s.mem pa 8 :: old)[Config.stalePick s.tick pa % (old.length + 1)]?).getD 0

/-- One access to a table entry: from a poisoned sector it is invalid and an event of type 6 is reported (R318). -/
def tableEntry (s : State) (part : BitVec 3) (pa : Nat) : Walked Nat :=
  ([pa], if poisonedAt s pa 8 then
    .error { perm := false, ipa := none,
             notes := [.ras { typ := 6, unit := 8, index := (Config.rasIndex 8).toNat, part := some part, addr := pa }] }
  else .ok (tableWord s pa))

/-- Whether an entry of a stage at a level breaks none of the rules of R316 and R318. -/
def entryOk (first : Bool) (lv e : Nat) : Bool :=
  let b (n : Nat) : Bool := e.testBit n
  b 0 && bitsAt 10 2 e == 0 && bitsAt 59 5 e == 0
    && (if b 1 then
          lv != 3 && !(b 3 && !b 2) && bitsAt 8 2 e < 2 && (lv == 0 || !b 7)
            && (lv == 0 || bitsAt 12 (9 * lv) e == 0)
            && (if first then bitsAt 52 7 e == 0 else !b 5 && !b 6 && (if b 58 then bitsAt 52 6 e < 48 else bitsAt 52 6 e == 0))
        else lv != 0 && bitsAt 2 8 e == 0 && bitsAt 52 7 e == 0)

/-- The address field of an entry (R316). -/
def entryAddr (e : Nat) : Nat := bitsAt 12 40 e * 4096

/-- The index bits of a level (R315). -/
def levelIndex (first : Bool) (lv a : Nat) : Nat := if lv = 3 then bitsAt 39 (if first then 18 else 13) a else bitsAt (12 + 9 * lv) 9 a

/-- The bytes a leaf at a level maps (R315). -/
def leafSize (lv e : Nat) : Nat := if lv = 0 then (if e.testBit 7 then 0x1_0000 else 0x1000) else 2 ^ (12 + 9 * lv)

/-- A leaf as a walk leaves it: its entry, its size, and where it maps the page. -/
structure Leaf where
  entry : Nat
  size : Nat
  base : Nat
  deriving DecidableEq, Repr

/-- The leaf an entry gives; under C the base is ADDR rounded down to 64 KiB (R317). -/
def mkLeaf (lv e : Nat) : Leaf := { entry := e, size := leafSize lv e, base := entryAddr e / leafSize lv e * leafSize lv e }

/-- Permissions of an entry (R316). -/
def entryPerm (e : Nat) : Perm := { r := e.testBit 2, w := e.testBit 3, x := e.testBit 4, u := e.testBit 5 }

/-- Which entry of a contiguous block an access uses: one of the block's entries that has C set, where any has (R317). `cand` tells for each of the 16. -/
def blockPick (seed i : Nat) (cand : Nat → Bool) : Nat :=
  let start := (Config.contiguousPick seed).toNat
  match (List.range 16).find? (fun k => cand ((start + k) % 16)) with
  | some k => (start + k) % 16
  | none => i

/-- The leaf of level 0 with index `i`: `peek` reads an entry of its block for C, `read` reads the entry used (R317). -/
def lastLevel (first : Bool) (f : XFault) (seed i : Nat) (peek : Nat → Nat) (read : Nat → Walked Nat) : Walked Leaf :=
  let blk := i / 16 * 16
  (read (blk + blockPick seed (i % 16) (fun k => (peek (blk + k)).testBit 7))).andThen (fun e =>
    ([], if entryOk first 0 e then .ok (mkLeaf 0 e) else .error f))

/-- The read of a second-stage table entry: no range, or device space, there is refused as the second stage's own (R296, R318). -/
def tableRead2 (s : State) (part : BitVec 3) (ipa pa : Nat) : Walked Nat :=
  if !isMemory pa then ([], .error (xfault true (some ipa)))
  else match tableEntry s part pa with
    | (l, .error f) => (l, .error { f with ipa := some ipa })
    | r => r

/-- A walk of the second stage from level `lv` with its table at physical address `base` (R315, R318). -/
def walk2 (s : State) (part : BitVec 3) (ipa : Nat) : Nat → Nat → Walked Leaf
  | 0, base =>
    lastLevel false (xfault false (some ipa)) (s.tick + ipa) (levelIndex false 0 ipa) (fun i => tableWord s (base + 8 * i))
      (fun i => tableRead2 s part ipa (base + 8 * i))
  | lv + 1, base =>
    (tableRead2 s part ipa (base + 8 * levelIndex false (lv + 1) ipa)).andThen (fun e =>
      if !entryOk false (lv + 1) e then ([], .error (xfault false (some ipa)))
      else if e.testBit 1 then ([], .ok (mkLeaf (lv + 1) e))
      else walk2 s part ipa lv (entryAddr e))

/-- Every permission, for a stage that is off (R312). -/
def allPerm : Perm := { r := true, w := true, x := true, u := true }

/-- Whether the second stage applies to an access space (R312). -/
def g2On (s : State) (sp : Space) : Bool := sp.prv != 3 && (s.partn sp.part).g2base.getLsbD 0

/-- The second stage for an IPA: physical address, what it grants, and the leaf's size, memory type and home. -/
def secondStage (s : State) (sp : Space) (ipa : Nat) : Walked Leaf :=
  if !g2On s sp then ([], .ok { entry := 0x1C, size := 2 ^ 52, base := 0 })
  else walk2 s sp.part ipa 3 (bitsAt 16 36 (s.partn sp.part).g2base.toNat * 0x1_0000)

/-- A first-stage table read: its IPA passes through the second stage as a read, which must grant R (R312). -/
def tableRead1 (s : State) (sp : Space) (ipa : Nat) : Walked Nat :=
  (secondStage s sp ipa).andThen (fun l =>
    let pa := l.base + ipa % l.size
    if !(entryPerm l.entry).r then ([], .error (xfault true (some ipa)))
    else if !isMemory pa then ([], .error (xfault true (if g2On s sp then some ipa else none)))
    else tableEntry s sp.part pa)

/-- A walk of the first stage from level `lv` with its table at IPA `base`; the fault of an invalid entry is the first stage's own (R318). -/
def walk1 (s : State) (sp : Space) (va : Nat) : Nat → Nat → Walked Leaf
  | 0, base =>
    lastLevel true (xfault false none) (s.tick + va) (levelIndex true 0 va)
      (fun i => match (tableRead1 s sp (base + 8 * i)).2 with | .ok e => e | .error _ => 0) (fun i => tableRead1 s sp (base + 8 * i))
  | lv + 1, base =>
    (tableRead1 s sp (base + 8 * levelIndex true (lv + 1) va)).andThen (fun e =>
      if !entryOk true (lv + 1) e then ([], .error (xfault false none))
      else if e.testBit 1 then ([], .ok (mkLeaf (lv + 1) e))
      else walk1 s sp va lv (entryAddr e))

/-- The whole walk of a virtual address: the combined translation a TLB would hold (R312, R317, R319). -/
def walk (s : State) (sp : Space) (va : Nat) : Walked TlbEntry :=
  let en := sp.ptbase.getLsbD 0
  let first : Walked Leaf :=
    if en then walk1 s sp va 3 (bitsAt 21 31 sp.ptbase.toNat * 0x20_0000)
    else if va < 2 ^ 52 then ([], .ok { entry := 0x3C, size := 2 ^ 52, base := 0 })
    else ([], .error (xfault false none))
  first.andThen (fun l1 =>
    let ipa := l1.base + va % l1.size
    (secondStage s sp ipa).andThen (fun l2 =>
      let size := min l1.size l2.size
      let off := va % size
      let pa := l2.base + ipa % l2.size
      ([], .ok {
            part := sp.part, asid := sp.asid, global := en && l1.entry.testBit 6, mon := sp.prv == 3, stage1 := en,
            va := va - off, size := size, ipa := ipa - off, pa := pa - off, size2 := l2.size,
            p1 := entryPerm l1.entry, p2 := entryPerm l2.entry, uc := l1.entry.testBit 8 || l2.entry.testBit 8,
            abench := if l2.entry.testBit 58 then some (bitsAt 52 6 l2.entry) else none, viaG2 := g2On s sp })))

/-- Whether a TLB entry translates an address of a space (R319). -/
def TlbEntry.hits (e : TlbEntry) (sp : Space) (va : Nat) : Bool :=
  e.part == sp.part && (e.global || e.asid == sp.asid) && e.mon == (sp.prv == 3) && e.va ≤ va && va < e.va + e.size

/-- A partition's bench set from its bench groups (R430). -/
def Part.hasBench (p : Part) (b : Nat) : Bool := p.bgrp.getLsbD (b / 6) && b < Config.benches

/-- The permission check of a translation (R317): the first stage's refusal is found before the second's. `w` is the walk that gave it, if one did. -/
def judge (s : State) (sp : Space) (k : AccessKind) (va : Nat) (e : TlbEntry) (w : Option (TlbEntry × List Nat)) : Except XFault Mapped :=
  let grants (p : Perm) : Bool := match k with | .load => p.r | .store => p.w | .fetch => p.x
  let ipa := e.ipa + (va - e.va)
  let bad1 := !grants e.p1 || (sp.prv == 0 && !e.p1.u) || (sp.prv == 1 && k == .fetch && e.stage1 && e.p1.u)
  let badHome := match e.abench with | some b => !(s.partn sp.part).hasBench b | none => false
  let read : List Note := match w with | some (_, l) => l.map (.entry sp.part) | none => []
  if bad1 then .error { perm := true, ipa := none, notes := read }
  else if !grants e.p2 || badHome then .error { perm := true, ipa := some ipa, notes := read }
  else .ok { pa := e.pa + (va - e.va), ipa := ipa, uc := e.uc, abench := e.abench, viaG2 := e.viaG2, walk := w }

/-- What a translation that succeeded leaves to be done when no TLB is to be filled (R319). -/
def Mapped.notes (m : Mapped) : List Note := match m.walk with | some (e, l) => l.map (.entry e.part) | none => []

/-- The TLBs of a hart: its core's and its bench's (R319). -/
def State.tlbs (s : State) (i : HartId) : List TlbEntry := (s.core (coreOf i)).tlb ++ (s.bench (benchOf i)).tlb

/-- Translate a virtual address for an access, through the TLBs of hart `h` where one makes it (R101, R312, R319). -/
def translate (s : State) (sp : Space) (h : Option HartId) (k : AccessKind) (va : Word) : Except XFault Mapped :=
  if va.extractLsb' 57 7 != 0 then .error (xfault false none)
  else
    match (match h with | some i => (s.tlbs i).find? (fun (e : TlbEntry) => e.hits sp va.toNat) | none => none) with
    | some e => judge s sp k va.toNat e none
    | none => match walk s sp va.toNat with
      | (l, .error f) => .error { f with notes := l.map (Note.entry sp.part) ++ f.notes }
      | (l, .ok e) => judge s sp k va.toNat e (some (e, l))

/-- The cause of a translation fault or refusal of an access (R38). -/
def faultCause (k : AccessKind) (f : XFault) : BitVec 8 :=
  if f.perm then 0x06 else match k with | .fetch => 0x03 | .load => 0x04 | .store => 0x05

/-- Translate, and refuse an address that no range covers, or device space to anything but an aligned scalar access of 8 bytes (R296). -/
def locate (s : State) (sp : Space) (h : Option HartId) (k : AccessKind) (device : Bool) (va : Word) : Except XFault Mapped :=
  match translate s sp h k va with
  | .error f => .error f
  | .ok m =>
    if isMemory m.pa || (device && isDevice m.pa) then .ok m
    else .error {
              perm := true, ipa := if m.viaG2 then some m.ipa else none,
              notes := match m.walk with | some (_, l) => l.map (.entry sp.part) | none => [] }

/-- The address space of the current hart (R312, R329). -/
def Hart.space (h : Hart) : Space := { part := h.partid, ptbase := h.ptbase, asid := h.asid, prv := h.level }

/-- A trap with no more than a cause and a value. -/
def trapOf (c : BitVec 8) (v : Word) : TrapReq := { cause := c, val := v, vri := none, ipa := none, notes := [] }

/-- The checks of one access in the order of R39: 0x02, then the translation cause, then 0x06. -/
def checkAccess (s : State) (k : AccessKind) (device : Bool) (align : Nat) (va : Word) : Except TrapReq Mapped :=
  if va.toNat % align ≠ 0 then .error (trapOf 0x02 va)
  else match locate s s.hart.space (some s.hart.id) k device va with
    | .error f => .error { cause := faultCause k f, val := va, vri := none, ipa := f.ipa.map (BitVec.ofNat 64), notes := f.notes }
    | .ok m => .ok m

/-! ## Writes at a home (R243, R244, R323, R415) -/

/-- Bytes merged into memory at their home. The sectors' check values are made anew; a sector that failed its old check is poisoned (R415, R416). Where the
machine keeps stale table entries, the doublewords' old values are kept (R320; log entry 5). -/
def mergeBytes (s : State) (pa : Nat) (bs : List Byte) : State :=
  let ks := if s.upsets.isEmpty then [] else (sectorsOf pa bs.length).filter (fun k => tget 0 s.upsets k != 0)
  let s := (ks.filter (homeFails s)).foldl State.setPoison s
  let old := if s.policy.staleWalks && !bs.isEmpty
    then (List.range ((pa + bs.length - 1) / 8 - pa / 8 + 1)).map (fun i => (pa / 8 * 8 + 8 * i, memRead s.mem (pa / 8 * 8 + 8 * i) 8)) else []
  { s with mem := memPutAll s.mem pa bs, upsets := ks.foldl tdel s.upsets, held := old ++ s.held }

/-- The pages of 4 KiB that `n` bytes from `a` touch. -/
def pagesOf (a n : Nat) : List Nat := if n = 0 then [] else (List.range ((a + n - 1) / 4096 - a / 4096 + 1)).map (fun i => a / 4096 * 4096 + 4096 * i)

/-- Whether some snapshot still has to copy a page. -/
def pageHeld (s : State) (page : Nat) : Bool := s.snaps.any (fun n => n.pages.any (fun q => q.1 == page))

/-- The sectors of a page that are poisoned (R418). -/
def pageMarks (s : State) (page : Nat) : List Nat := (List.range 64).filter (fun i => poisonedAt s (page + 64 * i) 64)

/-- Read a page into a home's buffer for every snapshot that has not yet copied it. -/
def bufferPage (s : State) (page : Nat) : State :=
  { s with snaps := s.snaps.map (fun n =>
      { n with
        pages := n.pages.filter (fun q => q.1 != page),
        buffers := n.buffers ++ (n.pages.filter (fun q => q.1 == page)).map (fun q =>
          { home := q.2.1, dst := q.2.2, bytes := bytesOf 4096 (memRead s.mem page 4096), bad := pageMarks s page }) }) }

/-- Take the first buffered page of a home from the snapshots, with the address space of its record. -/
def takeBuffer (home : Nat) : List Snap → Option (PageBuf × Space × Nat) × List Snap
  | [] => (none, [])
  | n :: t => match n.buffers.find? (fun b => b.home == home) with
    | some b => (some (b, n.cmd.space, n.engine), { n with buffers := n.buffers.erase b } :: t)
    | none => ((takeBuffer home t).1, n :: (takeBuffer home t).2)

/-- The failure reason of a translation or permission fault (R224). -/
def faultReason (f : XFault) : Nat := if f.perm then 3 else 2

/-- Bytes perform at their home once the snapshots that registered their pages have read them. A home has eight page buffers; a page that finds them full waits
for one to drain to its DST, which may hold back others in its turn (R323). -/
def heldWrite : Nat → State → Nat → List Byte → State
  | 0, s, pa, bs => mergeBytes ((pagesOf pa bs.length).foldl bufferPage s) pa bs
  | fuel + 1, s, pa, bs =>
    let drain (s : State) (home : Nat) : State :=
      match takeBuffer home s.snaps with
      | (none, _) => s
      | (some (b, sp, eng), l) =>
        let s := { s with snaps := l }
        match locate s sp none .store false b.dst with
        | .error f => { s with snaps := s.snaps.map (fun n => if n.engine == eng && n.failed.isNone then { n with failed := some (faultReason f) } else n) }
        | .ok m =>
          if linkDown s m.pa then s
          else
          let s := heldWrite fuel s m.pa b.bytes
          (List.range 64).foldl (fun s i => if b.bad.contains i then s.setPoison (m.pa + 64 * i) else s.clearPoison (m.pa + 64 * i)) s
    let demand (s : State) (page : Nat) : State :=
      match s.snaps.findSome? (fun n => (n.pages.find? (fun q => q.1 == page)).map (fun q => q.2.1)) with
      | none => s
      | some home => bufferPage (if (s.snaps.flatMap (fun n => n.buffers.filter (fun b => b.home == home))).length < 8 then s else drain s home) page
    mergeBytes ((pagesOf pa bs.length).foldl demand s) pa bs

/-- A write as it performs at its home (R243, R244): behind a down link it is dropped (R310). -/
def homeWrite (s : State) (pa : Nat) (bs : List Byte) : State :=
  if linkDown s pa then s
  else if s.snaps.isEmpty then mergeBytes s pa bs
  else heldWrite 8 s pa bs

/-! ## RAS events and interrupts -/

/-- Count one lifetime entry, saturating (R425). -/
def State.count (s : State) (off n : Nat) : State :=
  { s with life := { s.life with live := tset s.life.live off (min (tget 0 s.life.live off + n) 0xFFFF_FFFF_FFFF_FFFF) } }

/-- Send MSI-X vector `v` of function `f`: 0 the physical function, p + 1 the virtual function of partition p (R236, R427, R428). -/
def State.sendMsix (s : State) (f v : Nat) : State := { s with links := { s.links with msix := s.links.msix ++ [(f, v)] } }

/-- Put a pending interrupt of a partition in cause order; a second occurrence of a cause merges, with the later word (R330, R433). -/
def pendIns : List (BitVec 8 × Word) → BitVec 8 → Word → List (BitVec 8 × Word)
  | [], c, v => [(c, v)]
  | (d, u) :: t, c, v => if c = d then (c, v) :: t else if c < d then (c, v) :: (d, u) :: t else (d, u) :: pendIns t c v

/-- Make an interrupt pending for a partition's bureau hart (R330). -/
def State.pend (s : State) (p : BitVec 3) (c : BitVec 8) (v : Word) : State :=
  s.setPart p { s.partn p with pending := pendIns (s.partn p).pending c v }

/-- The 32 bytes of a RAS record (R421). -/
def rasRecord (seq : Word) (r : RasReport) (time : Word) : List Byte :=
  bytesOf 8 seq.toNat
    ++ bytesOf 8 (r.typ % 256 + 256 * (r.unit % 256) + 65536 * (r.index % 256)
        + (match r.part with | some p => 2 ^ 24 * p.toNat + 2 ^ 27 | none => 0))
    ++ bytesOf 8 r.addr ++ bytesOf 8 time.toNat

/-- Write a record of a ring: record n lies at base + (n mod 256) × 32; the low 13 bits of the base are ignored (R421, R422). -/
def ringPut (s : State) (base seq : Word) (r : RasReport) : State :=
  homeWrite s ((base.toNat / 8192) * 8192 + seq.toNat % 256 * 32) (rasRecord seq r s.time)

/-- Record a RAS event in the monitor's ring and signal it (R421, R428). A ring base of 0 is no ring, for the monitor as for a partition (log entry 33). -/
def reportMonitor (r : RasReport) (s : State) : State :=
  if s.ras.mbase = 0 then s
  else
    let s := ringPut s s.ras.mbase s.ras.mseq r
    State.sendMsix { s with ras := { s.ras with mseq := s.ras.mseq + 1 } } 0 0

/-- Record a RAS event in a partition's ring, unless that partition is being reset or has no ring; 0x83 then becomes pending (R421). -/
def reportPartition (r : RasReport) (p : BitVec 3) (s : State) : State :=
  let b := s.ras.rbase[p.toNat]'(by have := p.isLt; omega)
  let q := s.ras.pseq[p.toNat]'(by have := p.isLt; omega)
  if b = 0 ∨ (s.partn p).st = 3 then s
  else
    let s := ringPut s b q r
    State.pend { s with ras := { s.ras with pseq := s.ras.pseq.set p.toNat (q + 1) (by have := p.isLt; omega) } } p 0x83 q

/-- A RAS event is counted, and recorded in the monitor's ring and in that of the partition it is credited to (R421, R425). -/
def State.report (s : State) (r : RasReport) : State :=
  let s := reportMonitor r (s.count (0x1C00 + 8 * (r.typ % 32)) 1)
  match r.part with
  | none => s
  | some p => reportPartition r p s

/-- Record several events in order. -/
def State.reportAll (s : State) (l : List RasReport) : State := l.foldl State.report s

/-! ## HBM rows (R298, R305 to R308) -/

/-- The channel of an HBM address: stack of the device × 32 + channel (R298). -/
def hbmChannel (pa : Nat) : Nat := ((pa / 2 ^ 38 * 4 + bitsAt 8 2 pa) * 32) + bitsAt 10 5 pa
/-- The bank of an HBM address within the device: channel, pseudo-channel and bank (R298). -/
def hbmBank (pa : Nat) : Nat := (hbmChannel pa * 2 + bitsAt 15 1 pa) * 16 + bitsAt 18 4 pa
/-- The row of an HBM address (R298). -/
def hbmRow (pa : Nat) : Nat := bitsAt 22 16 pa

/-- Change one channel's counter block. -/
def State.updChannel (s : State) (ch : Nat) (f : Channel → Channel) : State :=
  { s with dram := { s.dram with channels := tset s.dram.channels ch (f (tget Channel.init s.dram.channels ch)) } }

/-- One activation of a row: the count, and at the threshold the alert of R306. -/
def activate (s : State) (bank row : Nat) : State :=
  let ch := bank / 32
  let key := bank * 65536 + row
  let c := tget 0 s.dram.counts key + 1
  let s := s.updChannel ch (fun k => { k with act := k.act + 1 })
  let s := { s with dram := { s.dram with openRows := tset s.dram.openRows bank (some row) } }
  if c < s.dram.rmth.toNat then { s with dram := { s.dram with counts := tset s.dram.counts key c } }
  else
    let s := { s with dram := { s.dram with
      counts := tset s.dram.counts key 0, pendingRfm := s.dram.pendingRfm ++ [PendingRfm.mk bank row s.time] } }
    s.updChannel ch (fun k => { k with
      alert := k.alert + 1,
      lastalert := BitVec.ofNat 64 (row + 65536 * (bank % 16) + 2 ^ 20 * (bank / 16 % 2) + 2 ^ 32 * ((k.alert + 1).toNat % 2 ^ 32)) })

/-- Whether a refresh-management command of a bank is pending, or is running still (R307). -/
def rfmPending (s : State) (bank : Nat) : Bool := s.dram.pendingRfm.any (fun p => p.bank == bank)
def rfmRunning (s : State) (bank : Nat) : Bool := decide (s.time.toNat < tget 0 s.dram.busy bank)

/-- Run the pending refresh-management command of a bank, if any: the row closes, the counts grow, and the bank is taken up for 240 ns (R305, R307, R308, R425). -/
def runRfm (s : State) (bank : Nat) : State :=
  if rfmPending s bank then
    let s := { s with dram := { s.dram with
      pendingRfm := s.dram.pendingRfm.filter (fun p => p.bank != bank), openRows := tset s.dram.openRows bank none,
      busy := tset s.dram.busy bank (s.time.toNat + 240) } }
    (s.updChannel (bank / 32) (fun k => { k with rfm := k.rfm + 1 })).count (0x1100 + 8 * (bank / 32)) 1
  else s

/-- A request of an HBM bank: it waits behind an RFM that is pending or running, and opens its row if that is not open (R305, R307). -/
def hbmRequest (s : State) (pa : Nat) : State :=
  let bank := hbmBank pa
  let s := if rfmPending s bank || rfmRunning s bank
    then runRfm (s.updChannel (bank / 32) (fun k => { k with rfmwait := k.rfmwait + 1 })) bank else s
  if tget none s.dram.openRows bank = some (hbmRow pa) then s else activate s bank (hbmRow pa)

/-- A request of memory behind the L2: an HBM row opens (R305). -/
def memoryRequest (s : State) (sector : Nat) : State := if regionOf sector == .hbm then hbmRequest s sector else s

/-! ## L2 slices (R302, R322) and the check at the home (R416) -/

/-- The home's copy of a sector is verified: one that fails its check is poisoned, counted and reported once (R416). -/
def verifyHome (s : State) (part : Option (BitVec 3)) (sector home : Nat) : State :=
  if homeFails s sector && !s.poison.contains sector then
    let unit := if regionOf sector == .benchStore then 3 else 2
    ((s.setPoison sector).count (0x1D00 + 8 * unit) 1).report { typ := 3, unit := unit, index := home, part := part, addr := sector }
  else s

/-- A clean sector leaves a slice: memory has its bytes as they were (R302). -/
def undoUpset (s : State) (sector : Nat) : State :=
  if tget 0 s.upsets sector = 0 then s
  else { s with
    mem := memPutAll s.mem sector (bytesOf 64 (memRead s.mem sector 64 ^^^ (tget 0 s.upsets sector % 2 ^ 512))), upsets := tdel s.upsets sector }

/-- What a sector's leaving its slice does beside: a dirty one is written back, and verified where it goes to the second tier (R302, R415, R416). -/
def leaveSlice (s : State) (sector : Nat) (e : L2Sector) : State :=
  if e.dirty then
    let s := memoryRequest s sector
    let s := match regionOf sector with | .cxl _ => verifyHome s none sector e.home | _ => s
    { s with upsets := tdel s.upsets sector }
  else undoUpset s sector

/-- A sector leaves its slice (R302). -/
def evictSector (s : State) (sector : Nat) : State :=
  match s.l2.find? (fun p => p.1 == sector) with
  | none => s
  | some (_, e) => { leaveSlice s sector e with l2 := tdel s.l2 sector }

/-- The lines of 256 bytes a slice holds. -/
def sliceLines (s : State) (home : Nat) : List Nat := ((s.l2.filter (fun p => p.2.home == home)).map (fun p => p.1 / 256)).eraseDups

/-- The lines of a slice that sequencer buffers occupy: 64 KiB for each buffer of a context that is not idle, spread over the die's slices (R375). -/
def bufferLines (s : State) (home : Nat) : Nat :=
  (s.ctxs.filter (fun p => p.2.st != 0 && p.1 / 16 == dieOf home)).foldl
    (fun n p => n + 256 * ((List.range 8).filter (fun q => Config.bufferHome (8 * p.1 + q) % 24 == home % 24)).length) 0

/-- Take a line out of a slice. -/
def evictLine (s : State) (home line : Nat) : State :=
  ((s.l2.filter (fun p => p.2.home == home && p.1 / 256 == line)).map Prod.fst).foldl evictSector s

/-- Room for a line in its slice: 16 ways to a set, and 16,384 lines less those that sequencer buffers occupy; the line that makes room is a free value
(R302, R375; log entry 7). -/
def sliceRoom (s : State) (home line : Nat) : State :=
  let lines := sliceLines s home
  if lines.contains line then s
  else
    let set := lines.filter (fun l => Config.l2Set l == Config.l2Set line)
    let pool := if set.length ≥ 16 then set else if lines.length + bufferLines s home ≥ 16384 then lines else []
    match pool[Config.l2Victim s.tick % pool.length]? with
    | some v => evictLine s home v
    | none => s

/-- What an access of one sector does on the way to its bytes: a down CXL link is reported (R310), the home's copy is verified (R416), the L2 slice of its home
serves or allocates it, UC goes past it (R302, R322), and HBM rows open. -/
def touch (s : State) (part : BitVec 3) (sector : Nat) (ab : Option Nat) (uc wr alloc : Bool) : State :=
  if linkDown s sector then
    s.report { typ := 8, unit := 1, index := (match regionOf sector with | .cxl p => p | _ => 0), part := some part, addr := sector }
  else
    let home := homeBench sector ab
    let s := verifyHome s (some part) sector home
    if !isCached sector then s
    else match s.l2.find? (fun p => p.1 == sector) with
    | some (_, e) =>
      if wr then (if uc then memoryRequest s sector else { s with l2 := tset s.l2 sector { e with dirty := true } }) else s
    | none =>
      let s := memoryRequest s sector
      if uc || !alloc then s
      else
        let s := sliceRoom s home (sector / 256)
        { s with l2 := tset s.l2 sector { home := home, dirty := wr } }

/-- Do what an attempt at a translation left to be done: walkers read table entries at their homes, and events are recorded (R318, R319). -/
def noteAll (s : State) (l : List Note) : State :=
  l.foldl (fun s n => match n with
    | .ras r => s.report r
    | .entry p pa => touch s p (sectorOf pa) none false false true) s

/-- Add a translation to a TLB of a number of entries, in place of an older one of the same page. -/
def tlbAdd (n : Nat) (e : TlbEntry) (l : List TlbEntry) : List TlbEntry :=
  (e :: l.filter (fun x => !(x.part == e.part && x.va == e.va && x.size == e.size && x.mon == e.mon && x.global == e.global && (e.global || x.asid == e.asid)))).take n

/-- The walk that an access's translation took, if no earlier access of its instruction took it already: the table entries are read, and the TLBs of the hart's core
and bench are filled (R319). An agent that is no hart has no TLB. -/
def noteWalk (s : State) (i : Option HartId) (m : Mapped) : State :=
  match m.walk, i with
  | none, _ => s
  | some (e, l), none => noteAll s (l.map (.entry e.part))
  | some (e, l), some i =>
    if (s.tlbs i).contains e then s
    else
      let s := noteAll s (l.map (.entry e.part))
      let s := s.setCore (coreOf i) { s.core (coreOf i) with tlb := tlbAdd 64 e (s.core (coreOf i)).tlb }
      s.setBench (benchOf i) { s.bench (benchOf i) with tlb := tlbAdd 2048 e (s.bench (benchOf i)).tlb }

/-! ## The L1 (R299 to R301) -/

/-- The class a hart holds: the one granted, or 2 KiB before any grant (R37). -/
def Hart.classCode (h : Hart) : Nat := if h.granted then h.rscg.toNat else 0

/-- The KiB of drawers that a class takes (R120). -/
def demandKiB (classCode : Nat) : Nat := 40 * (2 * 2 ^ classCode)

/-- Whether a hart is resident. -/
def Hart.present (h : Hart) : Bool := h.run != .absent

/-- Every resident hart. -/
def State.harts (s : State) : List Hart := (if s.hart.present then [s.hart] else []) ++ s.others

/-- The KiB that the register files of a core's resident harts take (R120). -/
def coreDemand (s : State) (core : Nat) : Nat := (s.harts.filter (fun h => coreOf h.id == core)).foldl (fun n h => n + demandKiB h.classCode) 0

/-- The ways of a core's L1: the drawers its register files leave (R120, R300). -/
def l1Ways (s : State) (core : Nat) : Nat := 64 - cdiv (coreDemand s core) 32

/-- The line of 256 bytes that holds a sector. -/
def lineOf (sector : Nat) : Nat := sector / 256
/-- The L1 set of a sector: PA[14:8] (R300). -/
def setOf (sector : Nat) : Nat := sector / 256 % 128

/-- The copy of a sector in an L1. -/
def l1Find (l : List L1Sector) (sector : Nat) : Option L1Sector := l.find? (fun p => p.addr == sector)

/-- The lines of a set, the one used last first. -/
def l1Lines (l : List L1Sector) (set : Nat) : List Nat := ((l.filter (fun p => setOf p.addr == set)).map (fun p => lineOf p.addr)).eraseDups

/-- The sectors an L1 of so many ways keeps: in each set those of the lines used last (R300). -/
def l1Keep (ways : Nat) (l : List L1Sector) : List L1Sector := l.filter (fun p => ((l1Lines l (setOf p.addr)).take ways).contains (lineOf p.addr))

/-- A line is used: it becomes the latest of its set (R300). -/
def l1Use (l : List L1Sector) (sector : Nat) : List L1Sector :=
  l.filter (fun p => lineOf p.addr == lineOf sector) ++ l.filter (fun p => lineOf p.addr != lineOf sector)

/-- A sector comes into an L1: its line takes the place of its set's least recently used one if the set is full. Its line becomes the latest, or for non-temporal
data stays where it is, or enters last (R300). -/
def l1Fill (ways : Nat) (nt : Bool) (p : L1Sector) (l : List L1Sector) : List L1Sector :=
  let lines := l1Lines l (setOf p.addr)
  let l := if lines.contains (lineOf p.addr) then l else l1Keep (ways - 1) (l.filter (fun q => setOf q.addr == setOf p.addr)) ++ l.filter (fun q => setOf q.addr != setOf p.addr)
  if nt then l ++ [p] else l1Use (p :: l) p.addr

/-- Drop sectors from a core's L1 (R299, R416, R418). -/
def dropSectors (s : State) (c : Nat) (l : List Nat) : State :=
  if (s.core c).l1.any (fun p => l.contains p.addr) then s.setCore c { s.core c with l1 := (s.core c).l1.filter (fun p => !l.contains p.addr) } else s

/-- The copy of a sector that a core's load takes from its L1: one that fails its check is none (R416). -/
def l1Copy (s : State) (c sector : Nat) : Option L1Sector :=
  (l1Find (s.core c).l1 sector).filter (fun p => !checkFails p.data p.upset)

/-! ## A hart's view of memory (R103, R245, R250, R300, R301) -/

/-- A byte as a hart sees it behind its own stores that have not performed. -/
def overlay (l : List BufferedStore) (pa : Nat) (b : Byte) : Byte :=
  (l.flatMap (fun e => e.parts.flatten)).foldl (fun b w =>
    if w.pa ≤ pa ∧ pa < w.pa + w.n then
      let m : Byte := BitVec.ofNat 8 (bitsAt (8 * (pa - w.pa)) 8 w.mask)
      (b &&& ~~~m) ||| (BitVec.ofNat 8 (bitsAt (8 * (pa - w.pa)) 8 w.val) &&& m)
    else b) b

/-- Whether a load of a sector may use the L1 (R300). -/
def Mapped.viaL1 (m : Mapped) (sector : Nat) : Bool := !m.uc && isCached sector

/-- The byte the current hart's plain load sees: the L1 copy, or else the home, behind the hart's own buffered stores (R103, R245). -/
def viewByte (s : State) (m : Mapped) (i : Nat) : Byte :=
  let pa := m.pa + i
  overlay s.hart.stores pa (match (if m.viaL1 (sectorOf pa) then l1Copy s (coreOf s.hart.id) (sectorOf pa) else none) with
    | some p => BitVec.ofNat 8 (bitsAt (8 * (pa % 64)) 8 p.data)
    | none => if linkDown s pa then Config.freeByte pa else memGet s.mem pa)

/-- `n` bytes as the current hart sees them. -/
def viewRead (s : State) (m : Mapped) (n : Nat) : Nat := ofBytes ((List.range n).map (viewByte s m))

/-- Whether the current hart's load of `n` bytes reads a poisoned sector, or its own store of poison; an L1 never holds one (R130, R418). -/
def viewPoisoned (s : State) (m : Mapped) (n : Nat) : Bool :=
  (sectorsOf m.pa n).any (fun k =>
    !(m.viaL1 k && (l1Copy s (coreOf s.hart.id) k).isSome) && poisonedAt s k 64
      || s.hart.stores.any (fun e => e.parts.any (fun p => p.any (fun w => w.bad && (sectorsOf w.pa w.n).contains k))))

/-- The current hart's core asks a sector's home for it and keeps it, unless it is poisoned (R300, R418). -/
def fillL1 (nt : Bool) (abench : Option Nat) (s : State) (k : Nat) : State :=
  let c := coreOf s.hart.id
  let s := touch s s.hart.partid k abench false false true
  if poisonedAt s k 64 then s
  else s.setCore c { s.core c with l1 := l1Fill (l1Ways s c) nt { addr := k, data := memRead s.mem k 64, upset := tget 0 s.upsets k } (s.core c).l1 }

/-- What a load does on the way to a sector: an L1 copy that verifies is used; one that does not is dropped and counted, and the sector is read again. A miss reads
the home and fills the L1, but for poisoned data (R300 to R302, R310, R416, R418). -/
def loadSector (nt : Bool) (m : Mapped) (s : State) (k : Nat) : State :=
  let c := coreOf s.hart.id
  if !m.viaL1 k then touch s s.hart.partid k m.abench m.uc false true
  else match l1Copy s c k with
    | some _ => s.setCore c { s.core c with l1 := l1Use (s.core c).l1 k }
    | none =>
      fillL1 nt m.abench (if (l1Find (s.core c).l1 k).isSome then (dropSectors s c [k]).count (0x1D00 + 8 * 6) 1 else s) k

/-- What a load of `n` bytes does on the way, the walk it took among it (R300, R302, R319). -/
def afterLoadAs (nt : Bool) (s : State) (m : Mapped) (n : Nat) : State := (sectorsOf m.pa n).foldl (loadSector nt m) (noteWalk s (some s.hart.id) m)

/-- The same of a load not marked non-temporal. -/
def afterLoad (s : State) (m : Mapped) (n : Nat) : State := afterLoadAs false s m n

/-! ## Stores of a hart (R245, R250, R252, R301) -/

/-- A write of all of `n` bytes. -/
def Mapped.write (m : Mapped) (n val : Nat) : MemWrite :=
  { pa := m.pa, n := n, mask := 2 ^ (8 * n) - 1, val := val % 2 ^ (8 * n), uc := m.uc, abench := m.abench, bad := false }

/-- The bytes a write leaves at its place over those that stand there. -/
def MemWrite.bytes (w : MemWrite) (old : Nat) : List Byte :=
  if w.mask = 2 ^ (8 * w.n) - 1 then bytesOf w.n w.val else bytesOf w.n ((old &&& (2 ^ (8 * w.n) - 1 - w.mask % 2 ^ (8 * w.n))) ||| (w.val &&& w.mask))

/-- An L1 copy with bytes replaced where a store covers them (R301). -/
def L1Sector.patch (p : L1Sector) (pa : Nat) (bs : List Byte) : L1Sector :=
  let here (i : Nat) : Bool := pa ≤ p.addr + i && p.addr + i < pa + bs.length
  { p with
    data := pack 8 64 (fun i => if here i then ((bs[p.addr + i - pa]?).getD 0).toNat else slot 8 i p.data)
    upset := if p.upset = 0 then 0 else pack 8 66 (fun i => if here i && i < 64 then 0 else slot 8 i p.upset) }

/-- A write updates the copies of its bytes that core `c` holds in its L1 (R245, R301). -/
def patchL1 (s : State) (c pa n : Nat) (bs : List Byte) : State :=
  if (sectorsOf pa n).any (fun x => (l1Find (s.core c).l1 x).isSome) then s.setCore c { s.core c with l1 := (s.core c).l1.map (fun p => p.patch pa bs) }
  else s

/-- A write of core `c` performs at its home, updating the core's L1 copies of its bytes (R245, R301). One that carries poison poisons its sectors (R130), and
the L1 then holds no copy of them (R418). -/
def performWrite (c : Nat) (part : BitVec 3) (s : State) (w : MemWrite) : State :=
  let ks := sectorsOf w.pa w.n
  let s := ks.foldl (fun s k => touch s part k w.abench w.uc true true) s
  let bs := w.bytes (memRead s.mem w.pa w.n)
  let s := patchL1 (homeWrite s w.pa bs) c w.pa w.n bs
  if w.bad && !linkDown s w.pa then ks.foldl State.setPoison (dropSectors s c ks) else s

/-- A list in an order that nothing constrains: by free keys (log entry 14). -/
def freeOrder {α : Type} (n : Nat) (l : List α) : List α :=
  (l.zipIdx.insertionSort (fun a b => Config.unorderedKey n a.2 ≤ Config.unorderedKey n b.2)).map Prod.fst

/-- The order in which a store's elements perform: ascending, or for `.u` any (R128; log entry 14). -/
def storeOrder {α : Type} (u : Bool) (n : Nat) (l : List α) : List α := if u then freeOrder n l else l

/-- A store performs whole: its parts in their order, then the marks of the sectors it covers clear (R128, R419). -/
def performEntry (c : Nat) (part : BitVec 3) (s : State) (e : BufferedStore) : State :=
  let s := (storeOrder e.anyOrder s.fresh e.parts).flatten.foldl (performWrite c part) (if e.anyOrder then { s with fresh := s.fresh + 1 } else s)
  e.clears.foldl State.clearPoison s

/-- Perform the `n` oldest buffered stores of the current hart, oldest first. -/
def performOldest (n : Nat) (s : State) : State :=
  let s' := (s.hart.stores.take n).foldl (performEntry (coreOf s.hart.id) s.hart.partid) s
  s'.withHart { s'.hart with stores := s'.hart.stores.drop n }

/-- Perform every buffered store of the current hart, oldest first (R250, R283). -/
def drainStores (s : State) : State := if s.hart.stores.isEmpty then s else performOldest s.hart.stores.length s

/-- Perform the current hart's buffered stores as far as the last one that `p` picks (R103, R244). -/
def drainThrough (p : BufferedStore → Bool) (s : State) : State :=
  match s.hart.stores.reverse.findIdx? p with
  | none => s
  | some i => performOldest (s.hart.stores.length - i) s

/-- Whether a buffered store writes any of `n` bytes from `pa`, or any byte of the sectors they lie in. -/
def BufferedStore.meets (e : BufferedStore) (pa n : Nat) : Bool := e.parts.any (fun p => p.any (fun w => w.pa < pa + n && pa < w.pa + w.n))
def BufferedStore.meetsSector (e : BufferedStore) (pa n : Nat) : Bool := (sectorsOf pa n).any (fun k => e.meets k 64)

/-- Before a scalar access of `n` bytes: older vector stores that may touch its sectors have performed (R103). -/
def afterVectors (s : State) (pa n : Nat) : State := drainThrough (fun e => e.vector && e.meetsSector pa n) s

/-- A store of the current hart: it waits in the hart's buffer, or performs at once after every older one (R250; log entry 5). -/
def commitEntry (s : State) (e : BufferedStore) : State :=
  if s.policy.bufferStores then s.withHart { s.hart with stores := s.hart.stores ++ [e] }
  else performEntry (coreOf s.hart.id) s.hart.partid (drainStores s) e

/-- A scalar store of `n` bytes through a translation (R101, R103). -/
def commitStore (s : State) (m : Mapped) (n val : Nat) : State :=
  commitEntry (afterVectors (noteWalk s (some s.hart.id) m) m.pa n)
    { parts := [[m.write n val]], anyOrder := false, clears := [], vector := false, rel := false, left := 0 }

/-- Whether an agent of hart `b`'s place lies in hart `a`'s instance of a scope (R242). -/
def inScope (scope : Nat) (a b : HartId) : Bool :=
  match scope with
  | 0 => a == b
  | 1 => coreOf a == coreOf b
  | 2 => benchOf a == benchOf b
  | 3 => dieOf (benchOf a) == dieOf (benchOf b)
  | _ => true

/-- A release of the current hart at a scope: at device scope and wider its older stores perform; at a narrower one they must be visible there (R104, R211, R251). -/
def releaseAt (scope : Nat) (s : State) : State :=
  if scope ≥ 4 then drainStores s
  else if scope = 0 then s
  else s.withHart { s.hart with stores := s.hart.stores.map (fun e => { e with left := max e.left scope }) }

/-- Empty the current hart's L1 view (R104, R211, R245). -/
def dropL1 (s : State) : State :=
  let c := coreOf s.hart.id
  if (s.core c).l1.isEmpty then s else s.setCore c { s.core c with l1 := [] }

/-! ## Taking and leaving traps (R34, R328) -/

/-- Trap entry (R34): TRAPSTATUS, TRAPCAUSE, TRAPPC, TRAPVAL, the level, IE and PC. The monitor claims every trap taken at monitor level and
what the second stage found (R328); it is entered at its own address, and G2FVAL then holds the IPA. -/
def enterTrap (t : TrapReq) (pc : Word) (s : State) : State :=
  let s := noteAll s t.notes
  let h := s.hart
  let mon := h.prv == 3 || t.ipa.isSome
  s.withHart { h with
    run := .ready,
    stalled := false,
    fetched := none,
    partFlags := 0,
    remote := none,
    trapstatus := h.status,
    trapcause := if t.cause.toNat ≥ 0x80 then setBit (t.cause.zeroExtend 64) 63 true else t.cause.zeroExtend 64,
    trappc := pc,
    trapval := t.val,
    vri := match t.vri with | some e => BitVec.ofNat 64 e | none => h.vri,
    g2fval := match t.ipa with | some a => a | none => h.g2fval,
    status := setBit (setField h.status 0 2 (if mon then 3 else 1)) 2 false,
    pc := if mon then s.boot.monitorEntry else h.trapbase &&& ~~~3#64 }

/-- The current instruction traps with no effect of its own (R39). -/
def trapHere (t : TrapReq) (s : State) : State := enterTrap t s.hart.pc s

/-- Trap 0x00 of an instruction: TRAPVAL holds its bits (R38, R86). -/
def illegal (i : Instr) (s : State) : State := trapHere (trapOf 0x00 (instrBits i)) s

/-- Trap 0x01 of an instruction (R24, R38). -/
def privileged (i : Instr) (s : State) : State := trapHere (trapOf 0x01 (instrBits i)) s

/-- VRI after a completion trap: 0, but for SSTEP, which leaves it (R333). -/
def owedVri (c : BitVec 8) : Option Nat := if c == 0x09 then none else some 0

/-- Take the first of the traps a completed instruction owes and record the others in TRAPOWE (R39, R40). -/
def enterOwed (l : List Owed) (kn : BitVec 2) (s : State) : State :=
  match l with
  | [] => s
  | o :: rest =>
    let s := if rest.isEmpty then s else s.withHart { s.hart with trapowe := oweFields rest kn }
    enterTrap { cause := o.cause, val := o.val, vri := owedVri o.cause, ipa := none, notes := [] } s.hart.pc s

/-- The current instruction completes: PC and INSTRET advance, flags are set, and what it owes is taken (R35, R39, R71). The flags that count for 0x08 are
those raised since the instruction last began: a trap or an interrupt on the way, which VRI records, leaves the earlier ones in FFLAGS alone (R30, R71:
DESIGN CHOICE, log entry 88). -/
def completeAt (npc : Word) (raised : BitVec 7) (pre post : List Owed) (kn : BitVec 2) (s : State) : State :=
  let h := s.hart
  let l := owedList h npc (raised ||| h.partFlags) pre post
  enterOwed l kn (s.withHart { h with pc := npc, instret := h.instret + 1, fflags := h.fflags ||| raised, partFlags := 0, stalled := false, fetched := none, remote := none })

/-- The address after an instruction of `len` bytes. -/
def Hart.pcAfter (h : Hart) (len : Nat) : Word := h.pc + BitVec.ofNat 64 len

/-- A program counter value: 57 bits are implemented and bit 0 is zero (R9). Bits above are kept for the fetch to judge (R107). -/
def pcValue (w : Word) : Word := w &&& ~~~1#64

/-- An instruction of `len` bytes completes and raises flags. -/
def finishFlags (len : Nat) (raised : BitVec 7) (s : State) : State := completeAt (s.hart.pcAfter len) raised [] [] 0 s

/-- An instruction of `len` bytes completes. -/
def finish (len : Nat) (s : State) : State := finishFlags len 0 s

/-- A branch or jump completes at its target. -/
def finishTo (target : Word) (s : State) : State := completeAt (pcValue target) 0 [] [] 0 s

/-- An instruction whose whole effect is one register write (R96, R98). -/
def writeInt (len : Nat) (d : Reg) (v : Word) (s : State) : State := finish len (s.setX d v)

/-- Return from a trap (R34, R235): STATUS is restored but for HALTED, the hart resumes at TRAPPC with VRI as it stands, and a trap still
recorded in TRAPOWE is taken before the instruction there (R40). -/
def returnFromTrap (s : State) : State :=
  let h := s.hart
  let h' := { h with status := setBit h.trapstatus 10 (h.status.getLsbD 10), pc := pcValue h.trappc, instret := h.instret + 1 }
  match nextOwed h with
  | none => s.withHart h'
  | some (o, rest) =>
    enterTrap { cause := o.cause, val := o.val, vri := owedVri o.cause, ipa := none, notes := [] } h.trappc (s.withHart { h' with trapowe := rest })

/-- A scalar body that either traps or gives the state after its effect; then the instruction completes (R96). -/
def scalarStep (len : Nat) (s : State) (body : Except TrapReq State) : State :=
  match body with
  | .error t => trapHere t s
  | .ok s' => finish len s'

/-! ## Which hart is current -/

/-- Put a hart among the others, in order of identity. -/
def hartIns : List Hart → Hart → List Hart
  | [], h => [h]
  | g :: t, h => if h.id = g.id then h :: t else if h.id < g.id then h :: g :: t else g :: hartIns t h

/-- The hart with an identity, wherever it stands. -/
def State.findHart (s : State) (i : HartId) : Option Hart :=
  if s.hart.present && s.hart.id == i then some s.hart else s.others.find? (fun h => h.id == i)

/-- Make the hart with an identity the current one. -/
def focus (i : HartId) (s : State) : State :=
  if s.hart.present && s.hart.id == i then s
  else match s.others.find? (fun h => h.id == i) with
    | none => s
    | some h =>
      let rest := s.others.filter (fun g => g.id != i)
      { s with hart := h, others := if s.hart.present then hartIns rest s.hart else rest }

/-- Do something as another hart, then go back to the hart that was current, if it is still resident. -/
def asHart (i : HartId) (f : State → State) (s : State) : State :=
  match s.findHart i with
  | none => s
  | some _ =>
    let was := s.hart
    let s' := f (focus i s)
    if was.present && (s'.others.any (fun h => h.id == was.id)) then
      let back := focus was.id s'
      if s'.hart.present then back else { back with others := back.others.filter (fun h => h.id != i) }
    else s'

/-- Before an agent acts: older stores of harts that a release at a narrower scope covers have performed if the agent lies in that scope's instance, as `covers`
tells for a scope and a hart (R242, R251). -/
def settleLeft (covers : Nat → HartId → Bool) (s : State) : State :=
  (s.harts.filter (fun g => g.stores.any (fun e => e.left != 0 && covers e.left g.id))).foldl
    (fun s g => asHart g.id (drainThrough (fun e => e.left != 0 && covers e.left g.id)) s) s

/-- The same for an agent of a die, such as its engines and its sequencer; and for the loader of a bench. -/
def settleDie (die : Nat) (s : State) : State := settleLeft (fun l g => l ≥ 3 && dieOf (benchOf g) == die) s
def settleBench (bench : Nat) (s : State) : State := settleLeft (fun l g => (l ≥ 2 && benchOf g == bench) || (l ≥ 3 && dieOf (benchOf g) == dieOf bench)) s

/-- The same for a hart. -/
def settleHart (i : HartId) (s : State) : State := settleLeft (fun l g => g != i && inScope l g i) s

/-- Change a resident hart. -/
def State.updHart (s : State) (i : HartId) (f : Hart → Hart) : State :=
  if s.hart.present && s.hart.id == i then s.withHart (f s.hart)
  else { s with others := s.others.map (fun h => if h.id == i then f h else h) }

/-- The farm with a number. -/
def State.farmOf (s : State) (n : BitVec 16) : Option Farm := s.farms.find? (fun f => f.num == n)
/-- Change the farm with a number. -/
def State.updFarm (s : State) (n : BitVec 16) (f : Farm → Farm) : State :=
  { s with farms := s.farms.map (fun g => if g.num == n then f g else g) }

/-- A fresh number for a free value. -/
def State.takeFresh (s : State) : Nat × State := (s.fresh, { s with fresh := s.fresh + 1 })

end Sys2Proof.Machine
end

