-- ==== Sys2Proof/Machine/Operands.lean ====
section
/-! DEFINITION. Every operand form of the vector instructions: register groups under a format with their tags and companions (R12 to R18),
masks (R20), memory elements (R46, R125), streams (R133 to R140), poison marks (R418), and the whole-instruction checks of R445. -/

namespace Sys2Proof.Machine

/-! ## The vector environment -/

/-- What a vector instruction captures when it is posted (R26): format, group size, VL, VLV, VRI and the bits of one register. -/
structure VEnv where
  fmt : Nat
  g : Nat
  vl : Nat
  vlv : Nat
  vri : Nat
  cap : Nat
  deriving DecidableEq, Repr

/-- Bytes of one register of a class code (R31). -/
def classBytes (c : Nat) : Nat := 2048 * 2 ^ c

/-- The bits of one vector register (R12). -/
def Hart.capBits (h : Hart) : Nat := 8 * classBytes h.classCode

/-- VTYPE.FMT. -/
def Hart.fmt (h : Hart) : Nat := (h.vtype.extractLsb' 0 5).toNat
/-- The group size of VTYPE.GRP. -/
def Hart.grp (h : Hart) : Nat := 2 ^ (h.vtype.extractLsb' 7 3).toNat
/-- VTYPE.V2D (R19). -/
def Hart.v2d (h : Hart) : Bool := h.vtype.getLsbD 19
/-- The key register VTYPE.KSEL selects (R57). -/
def Hart.keySel (h : Hart) : Word := h.key (h.vtype.extractLsb' 13 2)
/-- The rounding code of VTYPE.RM, resolved (R30, R152). -/
def Hart.vrm (h : Hart) : Option Nat := vectorRound h (h.vtype.extractLsb' 16 3)

/-- The environment of the current hart. -/
def Hart.env (h : Hart) : VEnv := { fmt := h.fmt, g := h.grp, vl := h.vlg, vlv := h.vlv, vri := h.vri.toNat, cap := h.capBits }

/-- A vector register. -/
def Hart.vreg (h : Hart) (r : Nat) : VReg := if p : r < 32 then h.v[r] else VReg.init

/-- Replace a vector register. -/
def Hart.setV (h : Hart) (r : Nat) (v : VReg) : Hart := if p : r < 32 then { h with v := h.v.set r v } else h

/-- Mask register m1..m7 as a bit image; 0 names none (R20). -/
def Hart.mask (h : Hart) (n : Nat) : Nat := if p : 1 ≤ n ∧ n ≤ 7 then h.m[n - 1] else 0

/-- Replace a mask register. -/
def Hart.setMask (h : Hart) (n : Nat) (v : Nat) : Hart := if p : 1 ≤ n ∧ n ≤ 7 then { h with m := h.m.set (n - 1) v } else h

/-- Whether a mask field, perhaps negated, selects an element; 000 selects every element (R20, R82). -/
def Hart.selects (h : Hart) (m : MaskField) (neg : Bool) (e : Nat) : Bool := m == 0 || ((h.mask m.toNat).testBit e != neg)

/-- Active(e) (R4). -/
def Hart.active (h : Hart) (m : MaskField) (neg : Bool) (e : Nat) : Bool := e < h.vlv && h.selects m neg e

/-- The elements of a mask register below a length, from the bits of an image, with the others kept (R20). -/
def mergeMask (old new len : Nat) : Nat := (old >>> len) <<< len + new % 2 ^ len

/-! ## Groups of registers (R12 to R17) -/

/-- The bits of a register that hold valid elements (R14). -/
def VReg.tagBits (v : VReg) : Nat := v.vlen * elemWidth v.fmt.toNat

/-- The register's image cut at its valid bits (R14). -/
def VReg.valid (v : VReg) : Nat := v.img % 2 ^ v.tagBits

/-- The images of `n` registers from `r` as one operand, element 0 of the first lowest (R12, R14). -/
def groupImg (h : Hart) (cap r : Nat) : Nat → Nat
  | 0 => 0
  | n + 1 => groupImg h cap r n + ((h.vreg (r + n)).valid % 2 ^ cap) <<< (cap * n)

/-- Element `e` of an operand of `n` registers read under a width; beyond the group it reads zero (R14, R141). -/
def elemAt (h : Hart) (cap r n w e : Nat) : Nat := if (e + 1) * w ≤ cap * n then slot w e (groupImg h cap r n) else 0

/-- Whether element `e` of a group, read under width `w`, touches a poisoned element of a register (R418). -/
def elemBad (h : Hart) (cap r w e : Nat) : Bool :=
  let v := h.vreg (r + e * w / cap)
  let lo := e * w % cap
  let tw := elemWidth v.fmt.toNat
  let a := lo / tw
  let b := (lo + w - 1) / tw
  bitsAt a (b - a + 1) (v.poison % 2 ^ v.vlen) != 0

/-- Write a group whole: result format, `len` valid elements, image and poison marks; dirty, and final in all its elements (R13, R15). -/
def writeGroup (h : Hart) (cap r fmt len img poison : Nat) : Nat → Hart
  | 0 => h
  | n + 1 =>
    let w := elemWidth fmt
    let c := cap / w
    let share := min c (len - n * c)
    (writeGroup h cap r fmt len img poison n).setV (r + n)
      { img := bitsAt (cap * n) (share * w) img, fmt := BitVec.ofNat 5 fmt, vlen := share, dirty := true, prog := share,
        poison := bitsAt (c * n) share poison }

/-- Write only what a trapped instruction has done to a group: the image and marks merged by the caller, valid as far as they were or as the
elements below `f` reach; the progress index counts the elements below `f` (R127, R336; log entry 35). -/
def writePartial (h : Hart) (cap r fmt f img poison : Nat) : Nat → Hart
  | 0 => h
  | n + 1 =>
    let w := elemWidth fmt
    let c := cap / w
    let old := h.vreg (r + n)
    let share := min c (f - n * c)
    let len := max (cdiv old.tagBits w) share
    (writePartial h cap r fmt f img poison n).setV (r + n)
      { img := bitsAt (cap * n) (len * w) img, fmt := BitVec.ofNat 5 fmt, vlen := len, dirty := true, prog := share,
        poison := bitsAt (c * n) len poison }

/-- The registers of a destination none of whose elements is final: the progress index is 0, all else stands (R127). -/
def noProgress (h : Hart) (r n : Nat) : Hart := (List.range n).foldl (fun g k => g.setV (r + k) { g.vreg (r + k) with prog := 0 }) h

/-- A destination as a trap at element `f` leaves it (R127, R336): the elements below `f` are final, whether or not any was active. -/
def writeStopped (h : Hart) (cap r fmt f img poison n : Nat) : Hart :=
  if f = 0 then noProgress h r n else writePartial h cap r fmt f img poison n

/-- A register group stands on a multiple of its size and ends, companions included, by v31 (R12, R17). -/
def groupFits (r n comp : Nat) : Bool := r % n == 0 && r + n + comp ≤ 32

/-- Whether two runs of registers overlap. -/
def overlaps (r n q k : Nat) : Bool := r < q + k && q < r + n

/-- The smallest power of two, up to 2^`fuel`, of registers of `cap` bits that hold `bits` bits (R125, R160). -/
def regsFor (cap bits : Nat) : Nat := 2 ^ clog2 (cdiv bits cap)

/-- Companion registers of a group under a format (R17). -/
def compCount (fmt : Nat) : Nat := companions (BitVec.ofNat 5 fmt)

/-! ## Memory elements (R46, R125) -/

/-- Where one element lies: byte address, bit offset in its first byte, and its bits. -/
structure ElemLoc where
  addr : Word
  off : Nat
  bits : Nat
  deriving DecidableEq, Repr

/-- The bytes that hold an element. -/
def ElemLoc.bytes (l : ElemLoc) : Nat := (l.off + l.bits + 7) / 8

/-- The alignment an element needs: its size when it has whole bytes (R126). -/
def ElemLoc.align (l : ElemLoc) : Nat := if l.bits % 8 = 0 then l.bits / 8 else 1

/-- Bytes from an address split where a 4 KiB page ends. -/
def spans (a : Word) (n : Nat) : List (Word × Nat) :=
  let k := 4096 - a.toNat % 4096
  if n ≤ k then [(a, n)] else [(a, k), (a + BitVec.ofNat 64 k, n - k)]

/-- The translations of the bytes of one element or access, or the trap of R39 with the element's address. -/
def mapSpans (s : State) (k : AccessKind) (align : Nat) (a : Word) (n : Nat) : Except TrapReq (List (Mapped × Nat)) :=
  (spans a n).foldr (fun p acc =>
    match checkAccess s k false (if p.1 = a then align else 1) p.1 with
    | .error t => .error { t with val := a }
    | .ok m => match acc with
      | .error t => .error t
      | .ok l => .ok ((m, p.2) :: l)) (.ok [])

/-- The fault of one element's access, if any, reported at element `e` (R39, R126). -/
def elemFault (s : State) (k : AccessKind) (l : ElemLoc) (e : Nat) : Option TrapReq :=
  match mapSpans s k l.align l.addr l.bytes with
  | .error t => some { t with vri := some e }
  | .ok _ => none

/-- Bytes as the current hart sees them across mapped spans. -/
def spansRead (s : State) : List (Mapped × Nat) → Nat
  | [] => 0
  | (m, n) :: t => viewRead s m n + (spansRead s t) <<< (8 * n)

/-- The bits of an element in memory, and whether a sector of it is poisoned. An element that cannot be fetched reads zero: of a chunk's inactive
element R136 ignores the fault and gives no value (DESIGN CHOICE, log entry 82). -/
def elemLoad (s : State) (l : ElemLoc) : Nat × Bool :=
  match mapSpans s .load 1 l.addr l.bytes with
  | .error _ => (0, false)
  | .ok ms => (bitsAt l.off l.bits (spansRead s ms), ms.any (fun p => viewPoisoned s p.1 p.2))

/-- What the loads of an element do on the way to its bytes, translated as the instruction found them; `nt`: they are marked non-temporal (R124). -/
def elemTouch (nt : Bool) (before s : State) (l : ElemLoc) : State :=
  match mapSpans before .load 1 l.addr l.bytes with
  | .error _ => s
  | .ok ms => ms.foldl (fun s p => afterLoadAs nt s p.1 p.2) s

/-- The physical sectors an element's access touches. -/
def elemSectors (s : State) (k : AccessKind) (l : ElemLoc) : List Nat :=
  match mapSpans s k 1 l.addr l.bytes with
  | .error _ => []
  | .ok ms => ms.flatMap (fun p => sectorsOf p.1.pa p.2)

/-- An element to be stored: its place, its bits, and whether it is poisoned. -/
abbrev ElemStore := ElemLoc × Nat × Bool

/-- The writes of one element's store: only its own bits of bytes it shares (R46, R247); poison goes with it (R130). -/
def elemWrites (s : State) (q : ElemStore) : List MemWrite :=
  let l := q.1
  match mapSpans s .store 1 l.addr l.bytes with
  | .error _ => []
  | .ok ms =>
    let mask := (2 ^ l.bits - 1) <<< l.off
    let val := (q.2.1 % 2 ^ l.bits) <<< l.off
    (ms.foldl (fun (p : List MemWrite × Nat) x =>
      (p.1 ++ [{ pa := x.1.pa, n := x.2, mask := (mask >>> (8 * p.2)) % 2 ^ (8 * x.2), val := (val >>> (8 * p.2)) % 2 ^ (8 * x.2), uc := x.1.uc,
                 abench := x.1.abench, bad := q.2.2 }], p.2 + x.2)) ([], 0)).1

/-- The walks that an element's store takes, as the instruction found them (R319). -/
def elemWalks (before s : State) (q : ElemStore) : State :=
  match mapSpans before .store 1 q.1.addr q.1.bytes with
  | .error _ => s
  | .ok ms => ms.foldl (fun s p => noteWalk s (some s.hart.id) p.1) s

/-- The bits of a sector, 512 in all, that writes cover. -/
def coverOf (ws : List MemWrite) (sector : Nat) : Nat :=
  ws.foldl (fun acc w => acc ||| (if w.pa ≥ sector then (w.mask <<< (8 * (w.pa - sector))) % 2 ^ 512 else w.mask >>> (8 * (sector - w.pa)) % 2 ^ 512)) 0

/-- The sectors that the unpoisoned elements of one instruction cover whole: their marks clear (R419). -/
def coveredBy (ws : List MemWrite) : List Nat :=
  ((ws.flatMap (fun w => sectorsOf w.pa w.n)).eraseDups).filter (fun k =>
    let here := ws.filter (fun w => (sectorsOf w.pa w.n).contains k)
    here.all (fun w => !w.bad) && coverOf here k == 2 ^ 512 - 1)

/-- The element stores of one instruction: groups that each perform indivisibly (R246, R248), in element order or, under `u`, in any (R128). What streams have
read ahead is forgotten (R139). -/
def commitElems (u : Bool) (groups : List (List ElemStore)) (s : State) : State :=
  let parts := groups.map (fun g => g.flatMap (elemWrites s))
  let s := groups.flatten.foldl (elemWalks s) s
  let clears := if s.policy.bufferStores || !s.poison.isEmpty || !s.upsets.isEmpty then coveredBy parts.flatten else []
  if groups.isEmpty then s
  else commitEntry s { parts := parts, anyOrder := u, clears := clears, vector := true, rel := false, left := 0 }

/-! ## Streams (R133 to R140) -/

/-- Where stream element `p` lies (R133). -/
def Scb.loc (b : Scb) (p : Nat) : ElemLoc :=
  let row := p / b.cols
  let col := p % b.cols
  let w := memWidth b.fmt.toNat
  let base := b.base + BitVec.ofNat 64 row * b.rstride
  if w < 8 then { addr := base + BitVec.ofNat 64 (col * w / 8), off := col * w % 8, bits := w }
  else { addr := base + BitVec.ofNat 64 col * (if b.estride = 0 then BitVec.ofNat 64 (w / 8) else b.estride), off := 0, bits := w }

/-- LEN of a stream (R133). -/
def Scb.len (b : Scb) : Nat := b.rows * b.cols

/-- The binding of a register, if it is one of v24..v31 and bound (R23). -/
def Hart.binding (h : Hart) (r : Nat) : Option Binding := if p : 24 ≤ r ∧ r < 32 then h.streams[r - 24] else none

/-- Replace the binding of v24..v31. -/
def Hart.setBinding (h : Hart) (r : Nat) (b : Option Binding) : Hart :=
  if p : 24 ≤ r ∧ r < 32 then { h with streams := h.streams.set (r - 24) b } else h

/-- A binding that is consumed: load or receive (R136, R138). -/
def Hart.loadBinding (h : Hart) (r : Nat) : Option Binding := (h.binding r).filter (fun b => b.scb.dir != 1)

/-- A binding that is emitted into (R137). -/
def Hart.storeBinding (h : Hart) (r : Nat) : Option Binding := (h.binding r).filter (fun b => b.scb.dir == 1)

/-- The tag of a source register; a load-bound register's chunk has its stream's format (R136; log entry 36). -/
def Hart.srcTag (h : Hart) (r : Nat) : Nat := match h.loadBinding r with | some b => b.scb.fmt.toNat | none => (h.vreg r).fmt.toNat

/-- Element `e` of the next chunk of a stream: its bits and its mark; read ahead, or read now; at or beyond LEN it is zero (R136, R139). -/
def chunkElem (s : State) (b : Binding) (e : Nat) : Nat × Bool :=
  if b.pos + e ≥ b.scb.len then (0, false)
  else match b.ahead.find? (fun q => q.1 == b.pos + e) with
    | some q => q.2
    | none => elemLoad s (b.scb.loc (b.pos + e))

/-- The fault of fetching element `e` of the next chunk (R136). -/
def chunkFault (s : State) (b : Binding) (e : Nat) : Option TrapReq :=
  if e ≥ s.hart.vlv || b.pos + e ≥ b.scb.len || b.ahead.any (fun q => q.1 == b.pos + e) then none else elemFault s .load (b.scb.loc (b.pos + e)) e

/-- The register a consumer of a stream sees (R136). -/
def chunkReg (s : State) (b : Binding) (vlv : Nat) : VReg :=
  let w := elemWidth b.scb.fmt.toNat
  { img := pack w vlv (fun e => (chunkElem s b e).1), fmt := b.scb.fmt, vlen := vlv, dirty := true, prog := vlv,
    poison := pack 1 vlv (fun e => if (chunkElem s b e).2 then 1 else 0) }

/-- The receive window of a partition whose region begins at an address (R233, R368). -/
def receiveWindow (s : State) (part : BitVec 3) (base : Word) : Option Window :=
  (s.fabric.windows.find? (fun q => q.1 / 256 == part.toNat && q.2.ctl.getLsbD 0 && q.2.ctl.getLsbD 4 && q.2.base == base)).map Prod.snd

/-- Whether a consumer of a stream must still wait for delivery: only on a receive stream, until every byte of its elements from position 0 on is in
the delivered set (R138, R233, R369). -/
def mustWait (s : State) (b : Binding) (vlv : Nat) : Bool :=
  b.scb.dir == 2 &&
    (match receiveWindow s s.hart.partid b.scb.base with
     | some w =>
       let k := cdiv (min (b.pos + vlv) b.scb.len * elemWidth b.scb.fmt.toNat) 8
       w.delivered % 2 ^ k != 2 ^ k - 1
     | none => true)

/-- A vector operand of an instruction: registers, how it is used, and its companions. -/
structure Opnd where
  base : Nat
  n : Nat
  comp : Nat
  src : Bool
  dst : Bool
  deriving DecidableEq, Repr

/-- Trap 0x0C of a register for a reason (R139). -/
def streamTrap (r reason : Nat) : TrapReq := trapOf 0x0C (BitVec.ofNat 64 (r + 256 * reason))

/-- The registers of an operand. -/
def Opnd.regs (o : Opnd) : List Nat := (List.range (o.n + o.comp)).map (o.base + ·)

/-- The stream faults an instruction raises before its first element: a bound register in a group, a load-bound one written, a store-bound one
written in another format or at its end, a load-bound one consumed at its end (R135 to R138). Which of several is reported is the model's choice,
in this order: R139 and R445 give none (DESIGN CHOICE, log entry 81). -/
def streamCheck (h : Hart) (grouped : Bool) (fmt : Nat) (ops : List Opnd) : Option TrapReq :=
  let bound (r : Nat) : Bool := (h.binding r).isSome
  let inGroup := ops.flatMap (fun o => o.regs.filter (fun r => bound r && (grouped || o.n > 1 || r ≥ o.base + o.n)))
  match inGroup.head? with
  | some r => some (streamTrap r 0x06)
  | none =>
    let dsts := ops.filter (·.dst)
    let srcs := ops.filter (·.src)
    match dsts.find? (fun o => (h.loadBinding o.base).isSome) with
    | some o => some (streamTrap o.base 0x03)
    | none =>
      match dsts.findSome? (fun o => (h.storeBinding o.base).bind (fun b =>
          if b.scb.fmt.toNat ≠ fmt then some (streamTrap o.base 0x05) else if b.pos ≥ b.scb.len then some (streamTrap o.base 0x02) else none)) with
      | some t => some t
      | none => srcs.findSome? (fun o => (h.loadBinding o.base).bind (fun b => if b.pos ≥ b.scb.len then some (streamTrap o.base 0x01) else none))

/-- The load-bound registers an instruction consumes, each once (R136). -/
def consumed (h : Hart) (ops : List Opnd) : List (Nat × Binding) :=
  ((ops.filter (·.src)).filterMap (fun o => (h.loadBinding o.base).map (fun b => (o.base, b)))).eraseDups

/-- The hart with the chunks of its consumed streams standing in their registers, as the instruction reads them. -/
def withChunks (s : State) (h : Hart) (cs : List (Nat × Binding)) : Hart :=
  cs.foldl (fun g c => g.setV c.1 (chunkReg s c.2 h.vlv)) h

/-- The consumer completes: positions advance, and the registers keep their chunks (R136). -/
def advanceChunks (s : State) (h : Hart) (cs : List (Nat × Binding)) : Hart :=
  cs.foldl (fun g c => (g.setV c.1 (chunkReg s c.2 h.vlv)).setBinding c.1
    (some { c.2 with pos := min (c.2.pos + h.vlv) c.2.scb.len, ahead := [] })) h

/-- Forget what streams have read ahead: a store of the hart may have changed it (R139). -/
def Hart.dropAhead (h : Hart) : Hart := { h with streams := h.streams.map (fun b => b.map (fun x => { x with ahead := [] })) }

/-! ## Order and choice among elements (R128) -/

/-! ## Whole-instruction checks of a vector instruction (R445) -/

/-- A vector instruction's checks as its entry gives them, in the order of steps 3 to 5: the grant's 0x00 conditions, then the formats' 0x10
conditions, then whether it rounds. -/
structure VCheck where
  grant : Bool
  format : Bool
  rounds : Bool
  deriving DecidableEq, Repr

/-- The trap 0x10 (R38). -/
def vtypeTrap (h : Hart) : TrapReq := trapOf 0x10 (h.vtype.zeroExtend 64)

/-- The first of steps 3 to 5 and 7 that fails, if any; step 2, the bits, is the decoder's and `wellFormed`'s. Within step 5 a refused format is
reported before a reserved dynamic rounding code: R445 gives no order (DESIGN CHOICE, log entry 81). -/
def vecCheck (i : Instr) (h : Hart) (c : VCheck) (grouped : Bool) (fmt : Nat) (ops : List Opnd) : Option TrapReq :=
  if h.vill then some (vtypeTrap h)
  else if !c.grant then some (trapOf 0x00 (instrBits i))
  else if !c.format then some (vtypeTrap h)
  else if c.rounds && h.vrm.isNone then some (trapOf 0x00 (instrBits i))
  else streamCheck h grouped fmt ops

/-- A vector instruction completes: VRI becomes 0 (R34), flags are set, owed traps are taken. -/
def finishVec (raised : BitVec 7) (s : State) : State :=
  finishFlags 4 raised (s.withHart { s.hart with vri := 0 })

/-- An instruction that must wait leaves everything as it is and gives up its turn (R211, R233). -/
def stall (s : State) : State := s.withHart { s.hart with stalled := true }

/-- An instruction at a boundary inside it: what is done stays done, and it goes on from VRI in its hart's next turn, or after a trap (R39, R188, R197). -/
def pauseAt (vri : Nat) (raised : BitVec 7) (s : State) : State :=
  let h := s.hart.raise raised
  s.withHart { h with vri := BitVec.ofNat 64 vri, partFlags := h.partFlags ||| raised, stalled := true }

/-- While drawers move, the front end holds back the hart's vector, matrix and access instructions (R119, R122). -/
def held (s : State) (k : State → State) : State := if s.hart.moving then stall s else k s

/-- The least element of a list at which a fault function answers, with the fault. -/
def firstFault : List Nat → (Nat → Option TrapReq) → Option (Nat × TrapReq)
  | [], _ => none
  | e :: t, f => match f e with | some r => some (e, r) | none => firstFault t f

/-- What an instruction computes for one element: bits, mark, flags, and whether it consumes poison (R153). -/
structure ElemRes where
  val : Nat
  bad : Bool
  flags : BitVec 7
  consumes : Bool
  deriving DecidableEq, Repr

/-- A trap on consumed poison at an element; the poison comes from a register (R38, R153). -/
def poisonTrap (e : Nat) : TrapReq := { trapOf 0x07 0xFFFF_FFFF_FFFF_FFFF with vri := some e }

/-- The bits an element of a format keeps in a register: FP6 containers hold zero above bit 5 (R46). -/
def cleanElem (fmt v : Nat) : Nat := if memWidth fmt = 6 then v % 64 else v % 2 ^ elemWidth fmt

/-- An element-wise instruction as the mould of R150 to R153 has it: destination, result format, operands (for streams), the elements it computes
(those from VRI on that `act` selects), each element's result from the hart that holds the consumed chunks, the fault of its own access, what its
access does on the way, whether it is fault-only-first (R126), which chunk elements of a source register a result element reads (log entry 79), and
what else stands with the elements below a bound once they are done. -/
structure ElemWise where
  vd : Nat
  fmt : Nat
  n : Nat
  len : Nat
  ops : List Opnd
  act : Nat → Bool
  res : Hart → Nat → ElemRes
  fault : Nat → Option TrapReq := fun _ => none
  touch : State → Nat → State := fun s _ => s
  ff : Bool := false
  reads : Nat → Nat → List Nat := fun _ e => [e]
  also : Nat → Hart → Hart := fun _ h => h

/-- A trap that a fault-only-first load turns into a shorter VLV: above the first active element and no misalignment (R126). -/
def cutsShort (act : Nat → Bool) (len : Nat) (ff : Bool) (f : Nat) (t : TrapReq) : Bool :=
  ff && t.cause != 0x02 && (match (List.range len).find? act with | some e => decide (e < f) | none => false)

/-- Make a vector instruction's sources ready: the chunks it consumes stand in their registers; `none` where a receive stream still waits for delivery
(R138). -/
def readySources (s : State) (ops : List Opnd) : Option (State × Hart × List (Nat × Binding)) :=
  let cs := consumed s.hart ops
  if cs.any (fun c => mustWait s c.2 s.hart.vlv) then none else some (s, withChunks s s.hart cs, cs)

/-- The rank of a cause at one element or access: 0x02, then 0x03 to 0x05, 0x06, 0x0D, 0x07 (R39). -/
def causeRank (c : BitVec 8) : Nat := if c == 0x0D then 13 else 2 * c.toNat

/-- The earlier of two faults: the lower element, then the order of R39; of two alike, the one named first (log entry 80). -/
def earlier (x y : Option TrapReq) : Option TrapReq :=
  match x, y with
  | none, y => y
  | x, none => x
  | some a, some b =>
    if b.vri.getD 0 < a.vri.getD 0 ∨ (b.vri.getD 0 = a.vri.getD 0 ∧ causeRank b.cause < causeRank a.cause) then some b else some a

/-- The first of several faults. -/
def earliest (l : List (Option TrapReq)) : Option TrapReq := l.foldl earlier none

/-- The fault, reported at element `e`, of fetching the elements of the consumed chunks that `reads` names by register (R136). -/
def readsFault (s : State) (cs : List (Nat × Binding)) (reads : Nat → List Nat) (e : Nat) : Option TrapReq :=
  earliest (cs.flatMap (fun c => (reads c.1).map (fun k => (chunkFault s c.2 k).map (fun t => { t with vri := some e }))))

/-- The fault of fetching element `e` of any consumed chunk (R136). -/
def chunksFault (s : State) (cs : List (Nat × Binding)) (e : Nat) : Option TrapReq := readsFault s cs (fun _ => [e]) e

/-- The fault of emitting element `e` into a store stream (R137). -/
def emitFault (s : State) (sb : Option Binding) (e : Nat) : Option TrapReq :=
  sb.bind (fun b => if b.pos + e < b.scb.len then elemFault s .store (b.scb.loc (b.pos + e)) e else none)

/-- What fetching chunk elements does on the way. -/
def touchChunks (s : State) (cs : List (Nat × Binding)) (es : List Nat) : State :=
  cs.foldl (fun t c => es.foldl (fun t e => elemTouch c.2.scb.nt s t (c.2.scb.loc (c.2.pos + e))) t) s

/-- What fetching the chunk elements that done elements read does on the way. -/
def touchReads (s : State) (cs : List (Nat × Binding)) (reads : Nat → Nat → List Nat) (es : List Nat) : State :=
  cs.foldl (fun t c => ((es.flatMap (reads c.1)).filter (fun k => k < s.hart.vlv && c.2.pos + k < c.2.scb.len)).foldl
    (fun t k => elemTouch c.2.scb.nt s t (c.2.scb.loc (c.2.pos + k))) t) s

/-- Emit result elements into a store stream, ascending or as its U bit allows; elements at or above LEN are discarded (R137). -/
def emitElems (s : State) (sb : Option Binding) (es : List Nat) (val : Nat → Nat × Bool) : State :=
  match sb with
  | none => s
  | some b =>
    let s := commitElems b.scb.u ((es.filter (fun e => b.pos + e < b.scb.len)).map (fun e => [(b.scb.loc (b.pos + e), (val e).1, (val e).2)])) s
    s.withHart s.hart.dropAhead

/-- A store stream's position after an instruction of `n` result elements (R137). -/
def advanceStore (h : Hart) (r n : Nat) : Hart :=
  match h.storeBinding r with
  | some b => h.setBinding r (some { b with pos := min (b.pos + n) b.scb.len, ahead := [] })
  | none => h

/-- Before the trap of a store or an emission that stopped, the elements below have performed (R137, R252). -/
def afterStop (stored : Bool) (s : State) : State := if stored then drainStores s else s

/-- Run an element-wise instruction that has passed its checks: streams are consumed and emitted (R136, R137), elements below the first fault are
done (R127, R153), the others are not, and the destination follows R15. -/
def runElemWise (j : ElemWise) (s0 : State) : State :=
  match readySources s0 j.ops with
  | none => stall s0
  | some (s, g, cs) =>
    let h := s.hart
    let env := h.env
    let w := elemWidth j.fmt
    let todo := idxs j.len (fun e => env.vri ≤ e && j.act e)
    let sb := h.storeBinding j.vd
    let faultAt (e : Nat) : Option TrapReq :=
      earliest [readsFault s cs (fun r => j.reads r e) e, j.fault e, if e < h.vlv then emitFault s sb e else none,
        if h.ptrap && (j.res g e).consumes then some (poisonTrap e) else none]
    let stop := firstFault todo faultAt
    let short := match stop with | some (e, t) => cutsShort j.act j.len (j.ff && j.fault e == some t) e t | none => false
    let f := match stop with | some (e, _) => e | none => j.len
    let len := if short then f else j.len
    let done := todo.filter (· < f)
    let flags := done.foldl (fun a e => let r := j.res g e; a ||| r.flags ||| flagIf r.consumes PSN) 0
    let isDone (e : Nat) : Bool := e < f && env.vri ≤ e && j.act e
    let span := if stop.isSome && !short then env.cap * j.n / w else len
    let img := pack w span (fun e => if isDone e then cleanElem j.fmt (j.res g e).val else elemAt h env.cap j.vd j.n w e)
    let bad := pack 1 span (fun e => if isDone e then (if (j.res g e).bad then 1 else 0) else if elemBad h env.cap j.vd w e then 1 else 0)
    let s1 := done.foldl j.touch (touchReads s cs j.reads done)
    let s1 := emitElems s1 sb (done.filter (· < h.vlv)) (fun e => ((j.res g e).val, (j.res g e).bad))
    let s1 := if flags &&& PSN != 0 then { s1 with fresh := s1.fresh + 65536 } else s1
    match (if short then none else stop) with
    | some (_, t) =>
      let h1 := j.also f (writeStopped s1.hart env.cap j.vd j.fmt f img bad j.n)
      trapHere t (afterStop sb.isSome (s1.withHart (h1.raise flags)))
    | none =>
      let h1 := advanceChunks s s1.hart cs
      let h2 := advanceStore (j.also f (writeGroup h1 env.cap j.vd j.fmt len img bad j.n)) j.vd (if short then f else h.vlv)
      finishVec flags (s1.withHart { h2 with vlv := if short then f else h2.vlv })

/-- Whether element `e` of a group, read under width `w`, begins below the valid bits of its register: only such an element sets flags (R70). -/
def elemValid (h : Hart) (cap r w e : Nat) : Bool := e * w % cap < (h.vreg (r + e * w / cap)).tagBits

/-- The bits a result element that consumed poison holds: no rule gives them (R153; log entry 37). -/
def poisonedBits (s : State) (e : Nat) : Nat := Config.poisonBits (s.fresh + e)

/-- The origin of an instruction's draws without an x operand: ORIGIN + p of a store-bound destination, else 0 (R57, R152). -/
def drawOrigin (h : Hart) (vd : Nat) : Nat := match h.storeBinding vd with | some b => b.scb.origin + b.pos | none => 0

/-- The random word of element `e` under a rounding code, if it draws one (R57). -/
def drawFor (h : Hart) (rm origin dom e : Nat) : Nat := if rm = 5 then drawZ h.keySel ((origin + e) % 2 ^ 48) dom else 0

end Sys2Proof.Machine
end

