-- ==== Sys2Proof/Machine/Link.lean ====
section
/-! DEFINITION. The link layer of the torus (R354 to R363, R366, R367): the route of a packet, a packet as its flits and back, and what a port sends: virtual
channels, credits, arbitration and the replay buffer. -/

namespace Sys2Proof.Machine

/-! ## Places and routes (R354, R361) -/

/-- Modules of the domain (R354). -/
def Fabric.ranks (f : Fabric) : Nat := f.dims.1 * f.dims.2.1 * f.dims.2.2
/-- The module's rank (R354). -/
def Fabric.rank (f : Fabric) : Nat := (f.coords.2.2 * f.dims.2.1 + f.coords.2.1) * f.dims.1 + f.coords.1
/-- The domain tag of a partition (R355). -/
def Fabric.tagOf (f : Fabric) (p : BitVec 3) : BitVec 16 := f.dtag[p.toNat]'(by have := p.isLt; omega)

/-- The partition a packet's tag names: the lowest-numbered that carries it (R355). -/
def partOfTag (s : State) (t : BitVec 16) : Option (BitVec 3) :=
  if t = 0 then none else ((List.range 8).map (BitVec.ofNat 3)).find? (fun p => s.fabric.tagOf p == t)

/-- The distance to go in a ring of size `d` and whether it is the positive way: the shorter, the positive one when equal (R361). -/
def ringStep (d cur dst : Nat) : Option Bool :=
  let up := (dst + d - cur) % d
  if d = 0 || up = 0 then none else some (up ≤ d - up)

/-- Coordinates of a rank (R354). -/
def Fabric.coordsOf (f : Fabric) (r : Nat) : Nat × Nat × Nat := (r % f.dims.1, r / f.dims.1 % f.dims.2.1, r / (f.dims.1 * f.dims.2.1))

/-- The port a unicast flit leaves by: X, then Y, then Z; none when it is for this module (R361). -/
def Fabric.portTo (f : Fabric) (dst : Nat) : Option Nat :=
  let c := f.coordsOf dst
  let way (d cur dst p : Nat) : Option Nat := (ringStep d cur dst).map (fun up => if up then p else p + 1)
  match way f.dims.1 f.coords.1 c.1 0 with
  | some p => some p
  | none => match way f.dims.2.1 f.coords.2.1 c.2.1 2 with
    | some p => some p
    | none => way f.dims.2.2 f.coords.2.2 c.2.2 4

/-! ## Flits as numbers (R356, R357) -/

/-- Replace bits of a number. -/
def putBits (lo cnt v raw : Nat) : Nat := raw - (bitsAt lo cnt raw) <<< lo + (v % 2 ^ cnt) <<< lo

/-- One bit of CRC-32C, in its usual reflected form (log entry 57). -/
def crcBit (c : BitVec 32) : BitVec 32 := if c.getLsbD 0 then (c >>> 1) ^^^ 0x82F63B78 else c >>> 1

/-- CRC-32C of bytes (R356). -/
def crc32c (l : List Byte) : BitVec 32 :=
  ~~~(l.foldl (fun c b => crcBit (crcBit (crcBit (crcBit (crcBit (crcBit (crcBit (crcBit (c ^^^ b.zeroExtend 32))))))))) 0xFFFF_FFFF)

/-- The CRC a flit should carry. -/
def flitCrc (raw : Nat) : BitVec 32 := crc32c (bytesOf 256 (putBits 160 32 0 raw))

/-- The virtual channel of a flit. -/
def flitVc (raw : Nat) : Nat := bitsAt 26 3 raw
/-- OP. -/
def flitOp (raw : Nat) : Nat := bitsAt 128 4 raw
/-- MC. -/
def flitMc (raw : Nat) : Bool := raw.testBit 90
/-- FIDX and FCNT: the flit's place in its packet, and the place of the last. -/
def flitIdx (raw : Nat) : Nat := bitsAt 146 5 raw
def flitLast (raw : Nat) : Nat := bitsAt 151 5 raw

/-- The class whose virtual channels carry an operation (R357). -/
def opClass (op : Nat) : Option Nat :=
  if op ≤ 6 ∨ op = 12 then some 0 else if op = 7 then some 3 else if op ≤ 10 then some 1 else if op = 11 then some 2 else none

/-- Whether a flit breaks nothing that R357 names: a NULL flit has nothing but link fields, and DST is zero with MC (R356). -/
def flitOk (raw : Nat) : Bool :=
  bitsAt 30 2 raw == 0 && bitsAt 48 16 raw == 0
    && (if raw.testBit 25 then putBits 160 32 0 raw / 2 ^ 64 == 0
        else bitsAt 107 5 raw == 0 && bitsAt 159 1 raw == 0 && bitsAt 254 2 raw == 0
          && bitsAt 156 3 raw < 5 && opClass (flitOp raw) == some (flitVc raw / 2) && (!flitMc raw || (flitVc raw / 2 == 2 && bitsAt 64 13 raw == 0)))

/-! ## Packets as flits (R356, R358, R364, R389) -/

/-- Bytes of an element of a transport format (R374). -/
def fmtBytes (f : Nat) : Nat := match f with | 5 => 4 | 6 | 7 => 2 | _ => 1

/-- Bits of an element by ESZ (R356). -/
def eszBits (e : BitVec 3) : Nat := if e = 4 then 4 else 8 * 2 ^ e.toNat

/-- Fields packed from bit 0 up: (width, value). -/
def packFields : List (Nat × Nat) → Nat
  | [] => 0
  | (w, v) :: t => v % 2 ^ w + packFields t <<< w

/-- The body of a response (R364): an ACK has none, a NACK has its failure bitmap always. -/
def responseBody (op : Nat) (r : Response) : List Byte :=
  let fb := op = 10 ∨ r.failed ≠ 0
  let pb := op = 8 ∧ r.poisoned ≠ 0
  if op = 9 then []
  else bytesOf 8 (packFields [(8, r.reason.toNat), (8, r.fel.toNat), (1, if fb then 1 else 0), (1, if pb then 1 else 0)])
    ++ (if fb then bytesOf 32 r.failed else []) ++ (if pb then bytesOf 32 r.poisoned else []) ++ (if op = 8 then r.data else [])

/-- The body of a COLL packet: two control doublewords, the poison bitmap and the elements (R389). -/
def collBody (c : Coll) : List Byte :=
  bytesOf 8 (packFields [(4, c.kind.toNat), (5, c.dctx.toNat), (5, c.sctx.toNat), (8, c.tag.toNat), (16, c.chunk.toNat), (15, c.hop.toNat), (5, c.fmt.toNat),
      (1, if c.poison = 0 then 0 else 1), (1, if c.comb then 1 else 0), (4, c.zeros.toNat)])
    ++ bytesOf 8 (packFields [(16, c.step.toNat), (14, c.eoff), (12, c.ecnt), (4, c.khi.toNat), (6, c.fl.toNat), (1, if c.last then 1 else 0), (11, c.zeros.toNat / 16)])
    ++ (if c.poison = 0 then [] else bytesOf (cdiv (cdiv c.ecnt 8) 8 * 8) c.poison)
    ++ (if c.kind = 1 then [] else bytesOf (c.ecnt * fmtBytes c.fmt.toNat) c.data)

/-- Doubleword 1 of a packet's flits: DST, SRC, MC with its counts, CMB, DTAG. -/
def header1 (dst src : Nat) (mc : Bool) (box : Nat × Nat × Nat) (cmb : Bool) (dtag : BitVec 16) : Nat :=
  packFields [(13, if mc then 0 else dst), (13, src), (1, if mc then 1 else 0), (5, if mc then box.1 else 0), (5, if mc then box.2.1 else 0),
    (5, if mc then box.2.2 else 0), (1, if cmb then 1 else 0), (5, 0), (16, dtag.toNat)]

/-- A packet on the wire: OP, doublewords 1 to 3 without FIDX, FCNT and CRC, and its body. -/
structure Wire where
  op : Nat
  dw1 : Nat
  dw2 : Nat
  dw3 : Nat
  body : List Byte
  deriving DecidableEq, Repr

/-- A message as it goes on the wire. A COLL packet's ESZ is that of its format and its TAG, WIN, OFF and CNT are 0 (DEDUCED, log entry 59). -/
def Message.wire (own : Nat) : Message → Wire
  | .request op p =>
    { op := op.toNat, dw1 := header1 p.dst p.src false (0, 0, 0) false p.dtag, dw2 := packFields [(4, op.toNat), (14, p.tag.toNat), (10, 0), (3, p.esz.toNat)],
      dw3 := packFields [(42, p.off), (8, p.win.toNat), (12, p.cnt)], body := p.body }
  | .response dst op r =>
    { op := op.toNat, dw1 := header1 dst own false (0, 0, 0) false r.dtag, dw2 := packFields [(4, op.toNat), (14, r.tag.toNat), (10, 0), (3, r.esz.toNat)],
      dw3 := packFields [(50, 0), (12, r.cnt)], body := responseBody op.toNat r }
  | .coll c | .collAck c =>
    { op := 11, dw1 := header1 c.dst c.src c.mc c.box c.comb c.dtag, dw2 := packFields [(4, 11), (24, 0), (3, Nat.log2 (fmtBytes c.fmt.toNat))],
      dw3 := 0, body := collBody c }

/-- The flits of a packet: 224 bytes of its body in each; link fields and CRC are filled in when it is sent (R356). -/
def Wire.flits (w : Wire) : List Nat :=
  let n := max 1 (cdiv w.body.length 224)
  (List.range n).map (fun i =>
    (2 * (opClass w.op).getD 0) <<< 26 + w.dw1 <<< 64 + w.dw2 <<< 128 + i <<< 146 + (n - 1) <<< 151 + w.dw3 <<< 192
      + ofBytes ((w.body.drop (224 * i)).take 224) <<< 256)

/-- Bytes in the body of a request with these fields (R358); `ctl` is an AMO's control doubleword. -/
def requestBytes (op cnt : Nat) (esz : BitVec 3) (ctl : Nat) : Nat :=
  let data := (cnt * eszBits esz + 7) / 8
  match op with
  | 1 | 7 => cnt
  | 2 => 8
  | 3 => 8 * cnt
  | 4 => 8 + data
  | 5 => 8 * cnt + data
  | 6 => 8 + (if cnt = 1 then 0 else 8 * cnt) + (if bitsAt 0 4 ctl = 9 then 2 * data else data)
  | 12 => 10 * cnt
  | _ => 0

/-- The COLL packet that a header and a body make (R389). -/
def readColl (dw1 : Nat) (body : Nat) : Coll :=
  let d1 := bitsAt 64 64 body
  let ecnt := bitsAt 30 12 d1
  let marks := if body.testBit 58 then cdiv (cdiv ecnt 8) 8 * 8 else 0
  { src := bitsAt 13 13 dw1, dst := bitsAt 0 13 dw1, dtag := BitVec.ofNat 16 (bitsAt 48 16 dw1),
    box := (bitsAt 27 5 dw1, bitsAt 32 5 dw1, bitsAt 37 5 dw1),
    kind := BitVec.ofNat 4 body, zeros := BitVec.ofNat 15 (bitsAt 60 4 body + 16 * bitsAt 53 11 d1),
    dctx := BitVec.ofNat 5 (bitsAt 4 5 body), sctx := BitVec.ofNat 5 (bitsAt 9 5 body), tag := BitVec.ofNat 8 (bitsAt 14 8 body),
    chunk := BitVec.ofNat 16 (bitsAt 22 16 body), hop := BitVec.ofNat 15 (bitsAt 38 15 body), fmt := BitVec.ofNat 5 (bitsAt 53 5 body),
    comb := body.testBit 59, mc := dw1.testBit 26, step := BitVec.ofNat 16 d1, eoff := bitsAt 16 14 d1, ecnt := ecnt,
    khi := BitVec.ofNat 4 (bitsAt 42 4 d1), fl := BitVec.ofNat 6 (bitsAt 46 6 d1), last := d1.testBit 52,
    poison := bitsAt 128 (8 * marks) body,
    data := if bitsAt 0 4 body = 1 then 0 else bitsAt (128 + 8 * marks) (8 * fmtBytes (bitsAt 53 5 body) * ecnt) body }

/-- The response that a header and a body of `n` bytes make (R364). -/
def readResponse (dw1 dw2 dw3 n body : Nat) : Response :=
  let ack := bitsAt 0 4 dw2 = 9
  let fb := if !ack && body.testBit 16 then 32 else 0
  let pb := if !ack && body.testBit 17 then 32 else 0
  let field (lo cnt : Nat) : Nat := if ack then 0 else bitsAt lo cnt body
  { dtag := BitVec.ofNat 16 (bitsAt 48 16 dw1), tag := BitVec.ofNat 14 (bitsAt 4 14 dw2), esz := BitVec.ofNat 3 (bitsAt 28 3 dw2), cnt := bitsAt 50 12 dw3,
    reason := BitVec.ofNat 8 (field 0 8), fel := BitVec.ofNat 8 (field 8 8), failed := field 64 (8 * fb), poisoned := field (64 + 8 * fb) (8 * pb),
    data := if bitsAt 0 4 dw2 = 8 then (bytesOf n body).drop (8 + fb + pb) else [] }

/-- The packet that its flits carry (R356, R358). -/
def readFlits (l : List Nat) : Message :=
  let raw := l.headD 0
  let body := l.zipIdx.foldl (fun a f => a + (f.1 / 2 ^ 256) <<< (1792 * f.2)) 0
  let dw1 := bitsAt 64 64 raw
  let dw2 := bitsAt 128 64 raw
  let dw3 := bitsAt 192 64 raw
  let op := flitOp raw
  if op = 11 then (let c := readColl dw1 body; if c.kind = 1 then .collAck c else .coll c)
  else if op = 8 ∨ op = 9 ∨ op = 10 then .response (bitsAt 0 13 dw1) (BitVec.ofNat 4 op) (readResponse dw1 dw2 dw3 (224 * l.length) body)
  else
    let esz := BitVec.ofNat 3 (bitsAt 28 3 dw2)
    let cnt := bitsAt 50 12 dw3
    .request (BitVec.ofNat 4 op)
      { src := bitsAt 13 13 dw1, dst := bitsAt 0 13 dw1, dtag := BitVec.ofNat 16 (bitsAt 48 16 dw1), tag := BitVec.ofNat 14 (bitsAt 4 14 dw2), esz := esz,
        win := BitVec.ofNat 8 (bitsAt 42 8 dw3), off := bitsAt 0 42 dw3, cnt := cnt, body := bytesOf (requestBytes op cnt esz (body % 2 ^ 64)) body }

/-! ## What a port sends (R362, R366) -/

/-- A port. -/
def State.port (s : State) (q : Nat) : Port := (s.fabric.ports.toList[q]?).getD Port.init
/-- Change a port. -/
def State.updPort (s : State) (q : Nat) (f : Port → Port) : State :=
  { s with fabric := { s.fabric with ports := s.fabric.ports.mapIdx (fun i p => if i == q then f p else p) } }

/-- Whether a port carries flits. -/
def Port.isUp (p : Port) : Bool := p.st == 1 || p.st == 2

/-- Put a flit on the wire: sequence numbers, grants owed and CRC are filled in, and it stays in the replay buffer until acknowledged (R356, R362). -/
def Port.stamp (p : Port) (rplq : Bool) (raw : Nat) : Port :=
  let rg := p.oweReserve.toList.zipIdx.foldl (fun a g => if g.1 > 0 then a + 2 ^ g.2 else a) 0
  let pg := min 192 p.owePool
  let r := putBits 0 12 p.txSeq.toNat raw
  let r := putBits 12 12 (p.rxSeq - 1).toNat r
  let r := putBits 24 1 (if rplq then 1 else 0) r
  let r := putBits 32 8 rg r
  let r := putBits 40 8 pg r
  let r := putBits 160 32 (flitCrc r).toNat r
  { p with txSeq := p.txSeq + 1, txf := p.txf + 1, replay := p.replay ++ [r], wire := p.wire ++ [r], oweReserve := p.oweReserve.map (· - 1), owePool := p.owePool - pg }

/-- Set one entry of a port's eight per-channel values. -/
def vcSet {α : Type} (v : Vector α 8) (i : Nat) (x : α) : Vector α 8 := v.mapIdx (fun j y => if j == i then x else y)

/-- Send a flit if its virtual channel has a pool slot or a reserve slot at the receiver (R366). -/
def Port.trySend (p : Port) (raw : Nat) : Option Port :=
  let v := flitVc raw
  let held := (p.poolHeld.toList[v]?).getD 0
  let res := (p.reserve.toList[v]?).getD 0
  if p.pool > 0 ∧ held < 128 then some (({ p with pool := p.pool - 1, poolHeld := vcSet p.poolHeld v (held + 1) } : Port).stamp false (putBits 29 1 0 raw))
  else if res > 0 then some (({ p with reserve := vcSet p.reserve v (res - 1) } : Port).stamp false (putBits 29 1 1 raw))
  else none

/-- The share of a flit's partition on a port: the local partition its tag names, or 8 (R355, R362). -/
def shareOf (s : State) (raw : Nat) : Nat := match partOfTag s (BitVec.ofNat 16 (bitsAt 112 16 raw)) with | some p => p.toNat | none => 8

/-- The weight of a share: a partition's fabric weight, and 1 for traffic of no local partition (R273; log entry 94). -/
def weightOf (s : State) (k : Nat) : Nat := if k < 8 then max 1 (s.partn (BitVec.ofNat 3 k)).fabw.toNat else 1

/-- Of the flits that could start a packet on a free channel, the one whose partition has had least for its weight (R273, R362). -/
def fairest (s : State) (p : Port) : List Queued → Option Queued
  | [] => none
  | c :: t => match fairest s p t with
    | none => some c
    | some d =>
      let a := shareOf s c.raw
      let b := shareOf s d.raw
      if ((p.shares.toList[b]?).getD 0 + 1) * weightOf s a < ((p.shares.toList[a]?).getD 0 + 1) * weightOf s b then some d else some c

/-- The first flit of each stream that waits on a virtual channel. -/
def Port.heads (p : Port) (v : Nat) : List Queued :=
  p.outq.foldl (fun l c => if flitVc c.raw == v && !l.any (fun d => d.source == c.source) then l ++ [c] else l) []

/-- The flit that a virtual channel would send next: the next of the packet that holds it, or the first of a packet that may take it (R362). -/
def Port.candidate (s : State) (p : Port) (v : Nat) : Option Queued :=
  match (p.holder.toList[v]?).getD none with
  | some k => (p.heads v).find? (fun c => c.source == k)
  | none => fairest s p (p.heads v)

/-- The next flit of a port and the port after sending it: channels take turns, and one without credit is passed over (R362, R366; log entry 94). -/
def Port.sendOne (s : State) (p : Port) : Option (Queued × Port) :=
  ((List.range 8).map (fun i => (p.lastVc + 1 + i) % 8)).findSome? (fun v =>
    match p.candidate s v with
    | none => none
    | some c => match p.trySend c.raw with
      | none => none
      | some q =>
        let contended := ((p.heads v).map (fun d => shareOf s d.raw)).eraseDups.length > 1 && flitIdx c.raw == 0
        some (c, { q with
          outq := q.outq.erase c, lastVc := v,
          holder := vcSet q.holder v (if flitIdx c.raw = flitLast c.raw then none else some c.source),
          shares := if contended then q.shares.mapIdx (fun i x => if i == shareOf s c.raw then x + 1 else x) else q.shares }))

/-- A branch has taken the flit in an input slot; with the last of them the slot is free and its grant owed (R366, R367). -/
def freeSlot (k : Option Nat) (s : State) : State :=
  match k with
  | none => s
  | some k => match s.fabric.inSlots.find? (fun e => e.1 == k) with
    | none => s
    | some (_, e) =>
      if e.left > 1 then { s with fabric := { s.fabric with inSlots := tset s.fabric.inSlots k { e with left := e.left - 1 } } }
      else
        ({ s with fabric := { s.fabric with inSlots := tdel s.fabric.inSlots k } } : State).updPort e.port (fun p =>
          if e.rsv then { p with oweReserve := vcSet p.oweReserve e.vc ((p.oweReserve.toList[e.vc]?).getD 0 + 1) } else { p with owePool := p.owePool + 1 })

/-- A chunk a context has staged. -/
def Staged.isOf (t : Staged) (p : Coll) : Bool :=
  t.packets.any (fun q => q.dst == p.dst && q.dctx == p.dctx && q.tag == p.tag && q.chunk == p.chunk && q.step == p.step)

/-- A packet of a staged chunk has left, or is lost: the chunk's time-out runs from then (R390). `raw` is the packet's first flit. -/
def markStaged (raw : Nat) (s : State) : State :=
  let p := readColl (bitsAt 64 64 raw) (raw / 2 ^ 256)
  if p.kind != 0 || p.comb || p.mc then s
  else
    let c := tget Ctx.init s.ctxs p.sctx.toNat
    if c.staged.any (·.isOf p) then
      { s with ctxs := tset s.ctxs p.sctx.toNat { c with staged := c.staged.map (fun t => if t.isOf p then { t with sentAt := some s.time } else t) } }
    else s

/-- The first flit of the packet that a flit of port `q` belongs to. -/
def packetHead (q : Nat) (raw : Nat) (s : State) : Nat :=
  if flitIdx raw = 0 then raw
  else ((s.port q).wire.reverse.find? (fun r => flitVc r == flitVc raw && flitIdx r == 0 && !r.testBit 25)).getD raw

/-- A flit of this module has left port `q`, or is lost there: with the first of a request its time-out runs, and with the last of a packet of a staged chunk the
chunk's (R365, R390). -/
def markLeft (q : Nat) (c : Queued) (s : State) : State :=
  if c.source < 48 || flitVc c.raw / 2 == 1 then s
  else if flitVc c.raw / 2 == 2 then (if flitIdx c.raw = flitLast c.raw then markStaged (packetHead q c.raw s) s else s)
  else { s with fabric := { s.fabric with flights := s.fabric.flights.map (fun f =>
    if f.tag == BitVec.ofNat 14 (bitsAt 132 14 c.raw) && f.sentAt.isNone then { f with sentAt := some s.time } else f) } }

/-- A port sends what it can. -/
def pumpPort (q : Nat) : Nat → State → State
  | 0, s => s
  | fuel + 1, s =>
    if !(s.port q).isUp then s
    else match (s.port q).sendOne s with
      | none => s
      | some (c, p) => pumpPort q fuel (markLeft q c (freeSlot c.slot (s.updPort q (fun _ => p))))

/-- A flit that carries only link fields (R356). -/
def nullFlit : Nat := 2 ^ 25

/-- Grants still owed leave on NULL flits: a reserve grant for each channel in each flit (R366). -/
def Port.grantAll : Nat → Port → Port
  | 0, p => p
  | fuel + 1, p => if p.isUp && (p.owePool > 0 || p.oweReserve.toList.any (· > 0)) then Port.grantAll fuel (p.stamp false nullFlit) else p

/-- All ports send what they can, and then the grants that no flit has carried. -/
def State.pump (s : State) : State :=
  let s := (List.range 6).foldl (fun s q => pumpPort q (s.port q).outq.length s) s
  (List.range 6).foldl (fun s q => s.updPort q (Port.grantAll 8)) s

/-! ## Branches and injection (R361, R367) -/

/-- A branch of a flit: the port it leaves by and the flit as it leaves, with the DL of its ring (R361, R367). -/
def branchOut (f : Fabric) (inPort q raw : Nat) : Nat × Nat :=
  let (d, cur) := match q / 2 with | 0 => (f.dims.1, f.coords.1) | 1 => (f.dims.2.1, f.coords.2.1) | _ => (f.dims.2.2, f.coords.2.2)
  let crosses := if q % 2 = 0 then cur + 1 == d else cur == 0
  let dl := if crosses then 1 else if q / 2 = inPort / 2 then bitsAt 26 1 raw else 0
  (q, putBits 26 1 dl raw)

/-- The branches of a flit that this module sends onward: one of a unicast flit that is not for it, up to three of a multicast one (R361, R367). -/
def branches (f : Fabric) (inPort raw : Nat) : List (Nat × Nat) :=
  if flitMc raw then
    let nx := bitsAt 91 5 raw
    let ny := bitsAt 96 5 raw
    let nz := bitsAt 101 5 raw
    let counts (a b c : Nat) : Nat := putBits 91 5 a (putBits 96 5 b (putBits 101 5 c raw))
    (if nx > 0 then [branchOut f inPort 0 (counts (nx - 1) ny nz)] else [])
      ++ (if ny > 0 then [branchOut f inPort 2 (counts 0 (ny - 1) nz)] else [])
      ++ (if nz > 0 then [branchOut f inPort 4 (counts 0 0 (nz - 1))] else [])
  else match f.portTo (bitsAt 64 13 raw) with
    | some q => [branchOut f inPort q raw]
    | none => []

/-- A flit joins the queue of an output port; where the port is down it is lost (R363). -/
def enqueue (q : Nat) (c : Queued) (s : State) : State :=
  if (s.port q).st = 0 then markLeft q c (freeSlot c.slot s) else s.updPort q (fun p => { p with outq := p.outq ++ [c] })

/-- This module's packets enter the fabric at input port 6, which is none of the six (R361). -/
def injectPort : Nat := 6

/-- Hand a packet to the router: one for this module has arrived, and the flits of any other wait at the port its route begins with, or are lost where that port is
down (R360, R361, R363). -/
def State.emit (s : State) (m : Message) : State :=
  let flits := (m.wire s.fabric.rank).flits
  if flits.all (fun raw => (branches s.fabric injectPort raw).isEmpty && !flitMc raw) then { s with fabric := { s.fabric with arrived := s.fabric.arrived ++ [m] } }
  else
    (flits.foldl (fun s raw => (branches s.fabric injectPort raw).foldl
      (fun s b => enqueue b.1 { raw := b.2, source := 8 * injectPort + flitVc raw, slot := none } s) s) s).pump

/-- A packet that has arrived is taken to be served. -/
def State.took (s : State) (m : Message) : State := { s with fabric := { s.fabric with arrived := s.fabric.arrived.erase m } }

end Sys2Proof.Machine
end

