-- ==== Sys2Proof/Machine/Fabric.lean ====
section
/-! DEFINITION. Remote accesses: domain addresses (R311), the windows and the target memory unit (R358, R364, R368, R369), and the packets a
source builds and awaits (R359, R360, R365), with the stores a hart has gone past (R256). -/

namespace Sys2Proof.Machine

/-! ## Domain addresses (R311, R354) -/

/-- Bit 63: the address names another module's memory, or this one's over path F (R311). -/
def isRemote (a : Word) : Bool := a.getLsbD 63
/-- The rank of a domain address. -/
def domRank (a : Word) : Nat := (a.extractLsb' 50 13).toNat
/-- The window of a domain address. -/
def domWin (a : Word) : BitVec 8 := a.extractLsb' 42 8
/-- The offset of a domain address. -/
def domOff (a : Word) : Nat := (a.extractLsb' 0 42).toNat

/-- A domain address the source refuses before sending: a rank outside the domain, or a partition without a tag (R360). -/
def remoteRefused (s : State) (part : BitVec 3) (a : Word) : Bool := domRank a ≥ s.fabric.ranks || s.fabric.tagOf part == 0

/-- Trap 0x0D at a domain address (R38, R129). -/
def remoteTrap (a : Word) : TrapReq := trapOf 0x0D a

/-! ## Atomic operations (R206, R208) -/

/-- The new value of an atomic of `w` bits: amo4 codes 0 to 10 (R79, R206). -/
def amoValue (op w old b expect : Nat) : Nat :=
  match op with
  | 0 => (old + b) % 2 ^ w
  | 1 => old &&& b
  | 2 => old ||| b
  | 3 => old ^^^ b
  | 4 => if toSigned w old ≤ toSigned w b then old else b
  | 5 => if toSigned w old ≥ toSigned w b then old else b
  | 6 => min old b
  | 7 => max old b
  | 8 => b
  | 9 => if old = expect then b else old
  | _ => let f := if w = 16 then 0x06 else 0x05; (roundOp f 0 false 0 (addVal 0 (decodeVal f old) (decodeVal f b))).1

/-! ## Accesses of agents other than a hart's own load and store (R244, R302, R322) -/

/-- An agent's read of `n` bytes at the home: the bytes, and whether a sector is poisoned. -/
def agentRead (s : State) (m : Mapped) (n : Nat) : Nat × Bool := (homeRead s m.pa n, poisonedAt s m.pa n)

/-- What an agent's read does on the way. -/
def agentTouch (s : State) (part : BitVec 3) (m : Mapped) (n : Nat) (alloc : Bool) : State :=
  (sectorsOf m.pa n).foldl (fun s k => touch s part k m.abench m.uc false alloc) (noteWalk s none m)

/-- An agent's write performs at the home; L1 copies stay as they are (R245). -/
def agentWrite (s : State) (part : BitVec 3) (m : Mapped) (bs : List Byte) (alloc : Bool) : State :=
  homeWrite ((sectorsOf m.pa bs.length).foldl (fun s k => touch s part k m.abench m.uc true alloc) (noteWalk s none m)) m.pa bs

/-! ## Windows (R368, R369) -/

/-- Window `w` of partition `p`. -/
def windowOf (s : State) (p : BitVec 3) (w : BitVec 8) : Window := tget Window.init s.fabric.windows (p.toNat * 256 + w.toNat)

/-- A window entry that is valid and breaks nothing of its table (R368). -/
def Window.ok (w : Window) : Bool :=
  w.ctl.getLsbD 0 && w.base.toNat % 4096 == 0 && !w.base.getLsbD 63 && w.len.toNat % 4096 == 0 && w.len.toNat ≤ 2 ^ 42
    && (!w.ctl.getLsbD 4 || w.len.toNat ≤ 2 ^ 20)

/-- Whether a window allows an operation (R368). -/
def Window.allows (w : Window) (op : Nat) : Bool :=
  match op with
  | 0 | 2 | 3 => w.ctl.getLsbD 1
  | 1 | 4 | 5 => w.ctl.getLsbD 2
  | 6 => w.ctl.getLsbD 3
  | 7 => w.ctl.getLsbD 4
  | _ => w.ctl.getLsbD 2 || w.ctl.getLsbD 4

/-- The space in which a window's accesses are translated (R368); the partition's PTBASE is that of its configuration (log entry 40). -/
def windowSpace (s : State) (p : BitVec 3) (w : Window) : Space :=
  { part := p, ptbase := (s.partn p).bptbase, asid := w.ctl.extractLsb' 16 16, prv := 1 }

/-! ## The target memory unit (R358, R364) -/

/-- Doubleword `i` of a packet body. -/
def bodyWord (b : List Byte) (i : Nat) : Nat := ofBytes ((b.drop (8 * i)).take 8)

/-- Whether CNT counts bytes: READ, WRITE and SEND (R356, R358). -/
def countsBytes (op : Nat) : Bool := op == 0 || op == 1 || op == 7

/-- The elements of a packet (R356, R358); bytes beyond the last whole element make one more. -/
def packetElems (p : Packet) (op : Nat) : Nat := if countsBytes op then cdiv (p.cnt * 8) (eszBits p.esz) else p.cnt

/-- The bytes that whole elements take; MWRITE's elements are bytes. -/
def packetAlign (p : Packet) (op : Nat) : Nat := if op = 12 then 1 else (eszBits p.esz + 7) / 8

/-- The bytes of element `e`: those that are left, for the last one of a count of bytes. -/
def packetWidth (p : Packet) (op e : Nat) : Nat :=
  if countsBytes op && p.esz != 4 then min (packetAlign p op) (p.cnt - e * packetAlign p op) else packetAlign p op

/-- Window, offset and half-byte of element `e` (R358). -/
def packetPlace (p : Packet) (op e : Nat) : BitVec 8 × Nat × Bool :=
  let w := eszBits p.esz
  let ix (i : Nat) : BitVec 8 × Nat × Bool :=
    let x := bodyWord p.body i
    (BitVec.ofNat 8 (bitsAt 42 8 x), bitsAt 0 42 x, w == 4 && x.testBit 50)
  match op with
  | 0 | 1 | 7 => (p.win, p.off + e * w / 8, e * w % 8 != 0)
  | 2 | 4 => (p.win, wrapInt 64 ((p.off : Int) + e * toSigned 64 (bodyWord p.body 0)), false)
  | 3 | 5 | 12 => ix e
  | _ => if p.cnt = 1 then (p.win, p.off, false) else ix (e + 1)

/-- Where the data or operands of a packet begin in its body (R358). -/
def packetDataAt (p : Packet) (op : Nat) : Nat :=
  match op with
  | 4 => 8
  | 5 | 12 => 8 * p.cnt
  | 6 => if p.cnt = 1 then 8 else 8 + 8 * p.cnt
  | _ => 0

/-- The checks of one element, in order: the reason it fails (R364), or its window and translation. The order among reasons is the model's (log entry 41). -/
def targetCheck (s : State) (op : Nat) (p : Packet) (e : Nat) : Except Nat (BitVec 3 × BitVec 8 × Mapped) :=
  match partOfTag s p.dtag with
  | none => .error 1
  | some q =>
    let (wn, off, _) := packetPlace p op e
    let w := windowOf s q wn
    let n := packetWidth p op e
    if (s.partn q).st = 0 ∨ (s.partn q).st = 3 then .error 7
    else if !w.ok then .error 2
    else if !w.allows op then .error 3
    else if off + n > w.len.toNat then .error 4
    else if off % packetAlign p op ≠ 0 then .error 8
    else match translate s (windowSpace s q w) none (match op with | 0 | 2 | 3 => .load | _ => .store) (w.base + BitVec.ofNat 64 off) with
      | .error f => .error (if f.perm then 6 else 5)
      | .ok m =>
        if !isMemory m.pa then .error 6
        else if op = 6 && poisonedAt s m.pa n then .error 9
        else .ok (q, wn, m)

/-- Put bytes of a receive window into its delivered set (R369). -/
def deliver (s : State) (q : BitVec 3) (wn : BitVec 8) (off n : Nat) : State :=
  let w := windowOf s q wn
  if w.ctl.getLsbD 4 then
    { s with fabric := { s.fabric with windows := tset s.fabric.windows (q.toNat * 256 + wn.toNat) { w with delivered := w.delivered ||| ((2 ^ n - 1) <<< off) } } }
  else s

/-- What serving a packet has built so far: elements that failed, poisoned elements, data, and the lowest failure. -/
structure Served where
  failed : Nat
  poisoned : Nat
  data : Nat
  first : Option (Nat × Nat)
  deriving DecidableEq, Repr

/-- Serve one element of a packet (R364). -/
def serveElem (op : Nat) (p : Packet) (acc : State × Served) (e : Nat) : State × Served :=
  let (s, r) := acc
  let ew := if op = 12 then 8 else eszBits p.esz
  match targetCheck s op p e with
  | .error reason => (s, { r with failed := r.failed ||| 2 ^ e, first := match r.first with | some f => some f | none => some (reason, e) })
  | .ok (q, wn, m) =>
    let (_, off, high) := packetPlace p op e
    let n := packetWidth p op e
    let old := homeRead s m.pa n
    let body := ofBytes (p.body.drop (packetDataAt p op))
    let ret (v : Nat) (bad : Bool) : Served :=
      { r with data := r.data ||| (v <<< (ew * e)), poisoned := if bad then r.poisoned ||| 2 ^ e else r.poisoned }
    match op with
    | 0 | 2 | 3 => (agentTouch s q m n true, ret (if high then old / 16 else old % 2 ^ ew) (poisonedAt s m.pa n))
    | 6 =>
      let ctl := bodyWord p.body 0
      let o := bitsAt 0 4 ctl
      let b := if o = 9 then slot ew 1 body else slot ew e body
      (agentWrite s q m (bytesOf n (amoValue o ew old b (slot ew 0 body))) true, ret old false)
    | 12 =>
      let byte := slot 8 (2 * e) body
      let mask := slot 8 (2 * e + 1) body
      (deliver (agentWrite s q m (bytesOf 1 ((old &&& (255 - mask)) ||| (byte &&& mask))) true) q wn off 1, r)
    | _ =>
      let v := slot ew e body
      let bs := if ew = 4 then bytesOf 1 (if high then old % 16 + 16 * v else old / 16 * 16 + v) else bytesOf n v
      let s := agentWrite s q m bs true
      (if op = 7 then deliver s q wn off n else s, r)

/-- Serve a request packet whole: the module after it, and its response (R364). -/
def serve (s : State) (op : Nat) (p : Packet) : State × Response :=
  let (s, r) := (List.range (packetElems p op)).foldl (serveElem op p) (s, { failed := 0, poisoned := 0, data := 0, first := none })
  let bytes := if op = 0 then p.cnt else if op = 2 ∨ op = 3 ∨ op = 6 then (p.cnt * eszBits p.esz + 7) / 8 else 0
  (s, { dtag := p.dtag, tag := p.tag, esz := p.esz, cnt := p.cnt, reason := BitVec.ofNat 8 ((r.first.map Prod.fst).getD 0), fel := BitVec.ofNat 8 ((r.first.map Prod.snd).getD 0),
        failed := r.failed, poisoned := r.poisoned, data := bytesOf bytes r.data })

/-- The class 1 OP that answers a request: RESP for what returns data, else ACK or NACK (R358, R364). -/
def responseOp (op : Nat) (r : Response) : BitVec 4 := if op = 0 ∨ op = 2 ∨ op = 3 ∨ op = 6 then 8 else if r.failed = 0 then 9 else 10

/-! ## The source (R359, R360, R365) -/

/-- A request packet with the keys of the units it carries, the bytes of each, and whether each is a byte of two 4-bit elements. -/
structure Request where
  op : Nat
  packet : Packet
  keys : List Nat
  size : Nat
  nib : Bool := false
  deriving DecidableEq, Repr

/-- One unit to transfer: a key, its domain address, and the data it carries; `mask` selects bits of a partly written byte. -/
structure RemoteUnit where
  key : Nat
  addr : Word
  val : Nat
  mask : Nat
  deriving DecidableEq, Repr

/-- How an instruction's units go into packets (R359). -/
inductive RemoteForm where
  | run | strided (stride : Word) | indexed | send | amo (op : Nat) (width : Nat)
  deriving DecidableEq, Repr

/-- Pieces of at most `n` of a list, `fuel` of them at most. -/
def pieces {α : Type} (n : Nat) : Nat → List α → List (List α)
  | 0, _ => []
  | fuel + 1, l => if l.isEmpty then [] else l.take n :: pieces n fuel (l.drop n)

/-- Maximal runs of units whose addresses follow one another. -/
def unitRuns (size : Nat) : List RemoteUnit → List (List RemoteUnit)
  | [] => []
  | u :: t => match unitRuns size t with
    | (v :: r) :: rs => if v.addr = u.addr + BitVec.ofNat 64 size then (u :: v :: r) :: rs else [u] :: (v :: r) :: rs
    | rs => [u] :: rs

/-- The ESZ code of a whole number of bytes. -/
def eszOf (size : Nat) : BitVec 3 := BitVec.ofNat 3 (Nat.log2 size)

/-- A packet from its first unit, with a body. -/
def packetOf (s : State) (part : BitVec 3) (size cnt : Nat) (us : List RemoteUnit) (body : List Byte) : Packet :=
  let a := (us.head?.map (·.addr)).getD 0
  { src := s.fabric.rank, dst := domRank a, dtag := s.fabric.tagOf part, tag := 0, esz := eszOf size, win := domWin a, off := domOff a,
    cnt := cnt, body := body }

/-- Index words of units (R358). -/
def indexWords (us : List RemoteUnit) : List Byte := us.flatMap (fun u => bytesOf 8 (u.addr.extractLsb' 0 50).toNat)

/-- Data of units. -/
def unitData (size : Nat) (us : List RemoteUnit) : List Byte := us.flatMap (fun u => bytesOf size u.val)

/-- The units of each target rank (R233, R359). -/
def byRank (us : List RemoteUnit) : List (List RemoteUnit) :=
  (us.map (fun u => domRank u.addr)).eraseDups.map (fun r => us.filter (fun u => domRank u.addr == r))

/-- The packets of whole units of `size` bytes (R359). -/
def requestsOf (s : State) (part : BitVec 3) (reads : Bool) (form : RemoteForm) (size : Nat) (us : List RemoteUnit) : List Request :=
  let keys (g : List RemoteUnit) : List Nat := g.map (·.key)
  let indexed (op : Nat) : List Request :=
    (byRank us).flatMap (fun g => (pieces 256 us.length g).map (fun g =>
      { op := op, packet := packetOf s part size g.length g (indexWords g ++ if reads then [] else unitData size g), keys := keys g, size := size }))
  match form with
  | .run | .send =>
    (unitRuns size us).flatMap (fun r => (pieces (min 256 (2048 / size)) us.length r).map (fun g =>
      { op := if form == .send then 7 else if reads then 0 else 1,
        packet := packetOf s part size (g.length * size) g (if reads then [] else unitData size g), keys := keys g, size := size }))
  | .strided stride =>
    if us.zipIdx.all (fun p => p.1.key == ((us.head?.map (·.key)).getD 0) + p.2) then
      (pieces 256 us.length us).map (fun g =>
        { op := if reads then 2 else 4, packet := packetOf s part size g.length g (bytesOf 8 stride.toNat ++ if reads then [] else unitData size g),
          keys := keys g, size := size })
    else indexed (if reads then 3 else 5)
  | .indexed => indexed (if reads then 3 else 5)
  | .amo op width =>
    (byRank us).flatMap (fun g => (pieces 256 us.length g).map (fun g =>
      { op := 6,
        packet := packetOf s part size g.length g (bytesOf 8 (op + 16 * width) ++ (if g.length = 1 then [] else indexWords g)
          ++ (if op = 9 then g.flatMap (fun u => bytesOf size u.mask ++ bytesOf size u.val) else unitData size g)),
        keys := keys g, size := size }))

/-- The READ, WRITE or SEND packets of runs of whole bytes that hold elements of `bits` < 8 bits: at most 256 elements a packet, 4-bit ones under ESZ 4 (R356,
R359). -/
def subByteRequests (s : State) (part : BitVec 3) (reads send : Bool) (bits : Nat) (us : List RemoteUnit) : List Request :=
  (unitRuns 1 us).flatMap (fun r => (pieces (32 * bits) us.length r).map (fun g =>
    { op := if send then 7 else if reads then 0 else 1,
      packet := { packetOf s part 1 g.length g (if reads then [] else unitData 1 g) with esz := if bits = 4 then 4 else 0 },
      keys := g.map (·.key), size := 1, nib := bits == 4 }))

/-- The MWRITE packets of partly written bytes (R359). -/
def maskedRequests (s : State) (part : BitVec 3) (us : List RemoteUnit) : List Request :=
  (byRank us).flatMap (fun g => (pieces 256 us.length g).map (fun g =>
    { op := 12, packet := packetOf s part 1 g.length g (indexWords g ++ g.flatMap (fun u => bytesOf 1 u.val ++ bytesOf 1 u.mask)),
      keys := g.map (·.key), size := 1 }))

/-- The answers a response gives to the units of its request (R364). -/
def answersOf (keys : List Nat) (size : Nat) (nib : Bool) (r : Response) : List (Nat × Answer) :=
  let d := ofBytes r.data
  let bit (n i : Nat) : Bool := if nib then n.testBit (2 * i) || n.testBit (2 * i + 1) else n.testBit i
  keys.zipIdx.map (fun p => (p.1, if bit r.failed p.2 then .failed r.reason.toNat else .good (slot (8 * size) p.2 d) (bit r.poisoned p.2)))

/-- A tag that no request in flight holds and that is not resting (R365). -/
def freshTag (s : State) : BitVec 14 :=
  let used := s.fabric.flights.map (·.tag) ++ s.fabric.coolTags.map Prod.fst
  let n := s.fabric.nextTag
  match (List.range (used.length + 1)).find? (fun i => !used.contains (n + BitVec.ofNat 14 i)) with
  | some i => n + BitVec.ofNat 14 i
  | none => n

/-- Send one request: it is in flight, and its time-out runs from when its first flit leaves; one for this module's own target needs no port (R360, R365). -/
def sendRequest (who : Requester) (acc : State × List (BitVec 14)) (q : Request) : State × List (BitVec 14) :=
  let (s, tags) := acc
  let t := freshTag s
  let s : State := { s with fabric := { s.fabric with
      nextTag := t + 1,
      flights := s.fabric.flights ++ [{ tag := t, who := who, elems := q.keys, size := q.size, nib := q.nib, reads := q.op == 0 || q.op == 2 || q.op == 3 || q.op == 6,
                                        sentAt := if q.packet.dst = s.fabric.rank then some s.time else none }] } }
  (s.emit (.request (BitVec.ofNat 4 q.op) { q.packet with tag := t }), tags ++ [t])

/-- Send requests. -/
def sendRequests (s : State) (who : Requester) (qs : List Request) : State × List (BitVec 14) := qs.foldl (sendRequest who) (s, [])

/-- What an instruction's remote accesses have come to. -/
inductive RemoteOut where
  | answered (s : State) (ans : List (Nat × Answer))
  | waiting (s : State)
  deriving DecidableEq, Repr

/-- The remote accesses of the current instruction: sent once; the hart sleeps until every answer is there, then the instruction goes on (R364). -/
def remoteAccess (s : State) (qs : List Request) : RemoteOut :=
  match s.hart.remote with
  | some r => if r.openTags.isEmpty then .answered s r.answers else .waiting (s.withHart { s.hart with run := .asleep .remote })
  | none =>
    let (s, tags) := sendRequests s (.hart s.hart.id) qs
    if tags.isEmpty then .answered s []
    else .waiting (s.withHart { s.hart with remote := some { openTags := tags, answers := [] }, run := .asleep .remote })

/-- The answer to a key; one that never came is unknown. -/
def answerTo (ans : List (Nat × Answer)) (k : Nat) : Answer := ((ans.find? (fun p => p.1 == k)).map Prod.snd).getD .unknown

/-- Whether an answer is a failure for its element (R364, R365). -/
def Answer.bad : Answer → Bool | .good _ _ => false | _ => true
/-- The data of an answer; a failed read gives zero. -/
def Answer.value : Answer → Nat | .good d _ => d | _ => 0
/-- Whether an answer's data is poisoned. -/
def Answer.marked : Answer → Bool | .good _ p => p | _ => false

/-! ## Flags (R134, R220, R224) -/

/-- An agent's translation of an address: neither a hart's TLB nor device space (R296, R312). -/
def agentMap (s : State) (sp : Space) (k : AccessKind) (a : Word) : Except XFault Mapped := locate s sp none k false a

/-- Write a completion flag in an address space; a fault leaves it unwritten and is a RAS event of type 11 (R134, R220, R224, R421). -/
def writeFlag (s : State) (sp : Space) (unit index : Nat) (a v : Word) : State :=
  match agentMap s sp .store a with
  | .ok m => agentWrite s sp.part m (bytesOf 8 v.toNat) (unit != 14)
  | .error f => (noteAll s f.notes).report { typ := 11, unit := unit, index := index, part := some sp.part, addr := a.toNat }

/-- The flags that the access unit and the engines owe for instructions of the current hart are written: a release of the hart covers them (R104, R211). -/
def settleOwed (s : State) : State :=
  let mine (o : OwedFlag) : Bool := o.hart == s.hart.id && o.farm == s.hart.farm
  if s.owed.any mine then
    (s.owed.filter mine).foldl (fun s o => writeFlag s o.space o.unit o.index o.addr o.val) { s with owed := s.owed.filter (fun o => !mine o) }
  else s

/-! ## Stores a hart has gone past (R256, R283) -/

/-- The stores over path F that the current hart has gone past and that are not yet acknowledged. -/
def postedHere (s : State) : List PostedStore := tget [] s.posted s.hart.id.toNat

/-- Whether one of them could still fail: one for this module's own target has passed its checks there. -/
def unsettled (s : State) : Bool := (postedHere s).any (fun p => !p.sure)

/-- The harts' posted stores after those of one hart change. -/
def setPosted (s : State) (h : Nat) (l : List PostedStore) : State := { s with posted := if l.isEmpty then tdel s.posted h else tset s.posted h l }

/-- Go past a store over path F: its request is out, and the hart goes on (R256). -/
def postStore (a : Word) (qs : List Request) (after : State → State) (s : State) : State :=
  let before := s.hart
  let sure := qs.all (fun q => q.packet.dst == s.fabric.rank
    && (List.range (packetElems q.packet q.op)).all (fun e => match targetCheck s q.op q.packet e with | .ok _ => true | .error _ => false))
  let (s, tags) := sendRequests s (.hart s.hart.id) qs
  after (setPosted s s.hart.id.toNat (postedHere s ++ [{ before := before, addr := a, sure := sure, req := { openTags := tags, answers := [] } }]))

/-- A posted store has its answers: it leaves the list, or it traps 0x0D with its hart as it stood before it, every younger instruction undone (R39, R283). -/
def settlePosted (h : HartId) (s : State) : State :=
  let l := tget [] s.posted h.toNat
  match l.find? (fun p => p.req.openTags.isEmpty) with
  | none => s
  | some p =>
    if p.req.answers.any (fun a => match a.2 with | .good _ _ => false | _ => true) then
      asHart h (fun s => trapHere (remoteTrap p.addr)
        (s.withHart { p.before with run := .ready, stalled := false, fetched := none, stores := s.hart.stores, cycle := s.hart.cycle, haltAsked := s.hart.haltAsked,
                                    swapping := s.hart.swapping, debugWrites := s.hart.debugWrites })) (setPosted s h.toNat [])
    else setPosted s h.toNat (l.erase p)

/-- Give answers to a hart: to the instruction that waits for them, or to a store it has gone past. -/
def answerHart (h : HartId) (tag : BitVec 14) (ans : List (Nat × Answer)) (s : State) : State :=
  let take (r : RemoteOp) : RemoteOp := { openTags := r.openTags.filter (· != tag), answers := r.answers ++ ans }
  let s := s.updHart h (fun g => match g.remote with
      | some r => if !r.openTags.contains tag then g else
        { g with remote := some (take r), run := if (take r).openTags.isEmpty && g.run == .asleep .remote then .ready else g.run }
      | none => g)
  let l := tget [] s.posted h.toNat
  if l.any (fun p => p.req.openTags.contains tag) then
    settlePosted h (setPosted s h.toNat (l.map (fun p => if p.req.openTags.contains tag then { p with req := take p.req } else p)))
  else s

/-! ## Incoming packets -/

/-- A request packet reaches the target memory unit: it is served and answered (R364). Packets whose fields break R356 are discarded (R357). -/
def takeRequest (op : Nat) (p : Packet) (s : State) : State :=
  if p.esz.toNat > 4 ∨ packetElems p op > (if countsBytes op then 2048 else 256) ∨ p.dst ≠ s.fabric.rank then s
  else
    let (s, r) := serve s op p
    s.emit (.response p.src (responseOp op r) r)

/-- Give a flight's answers to whoever sent it. -/
def settle (f : Flight) (ans : List (Nat × Answer)) (s : State) : State :=
  let s := { s with fabric := { s.fabric with flights := s.fabric.flights.filter (fun g => g.tag != f.tag) } }
  let engineAnswer (n : Nat) : State :=
    { s with awaits := s.awaits.map (fun q => if q.1 = n && q.2.openTags.contains f.tag then
        (n, { openTags := q.2.openTags.filter (· != f.tag), answers := q.2.answers ++ ans }) else q) }
  match f.who with
  | .hart h => answerHart h f.tag ans s
  | .engine n => engineAnswer n
  | .context n => engineAnswer (1024 + n)

/-- Whether 2 ms have passed since a request's first flit left (R365). -/
def Flight.over (f : Flight) (now : Word) : Bool := match f.sentAt with | some t => decide ((now - t).toNat ≥ 2_000_000) | none => false

/-- A response arrives; one whose tag names no flight, or that comes after its time-out, is discarded (R365). -/
def takeResponse (r : Response) (s : State) : State :=
  match s.fabric.flights.find? (fun f => f.tag == r.tag) with
  | none => s
  | some f => if f.over s.time then s else settle f (answersOf f.elems f.size f.nib r) s

/-- A request times out 2 ms after it left: its elements are unknown, and its tag rests for 4 ms (R365). -/
def takeTimeout (tag : BitVec 14) (s : State) : State :=
  match s.fabric.flights.find? (fun f => f.tag == tag) with
  | none => s
  | some f =>
    if !f.over s.time then s
    else
      let s := settle f (f.elems.map (fun k => (k, .unknown))) s
      { s with fabric := { s.fabric with coolTags := (s.fabric.coolTags.filter (fun c => (s.time - c.2).toNat < 4_000_000)) ++ [(tag, s.time)] } }

end Sys2Proof.Machine
end

