-- ==== Sys2Proof/Machine/Agent.lean ====
section
/-! DEFINITION. Memory accesses of agents other than harts: engines, loaders, the scheduler, the sequencer and the host (R242, R244, R322), page by
page, with poison marks (R419) and the failure reasons of R224; and the writes of completion flags. -/

namespace Sys2Proof.Machine

/-- A run of bytes cut where 4 KiB pages end. -/
def pagePieces (a : Word) (n : Nat) : List (Word × Nat) :=
  if n = 0 then []
  else
    let first := a.toNat % 4096
    (List.range (cdiv (first + n) 4096)).map (fun i =>
      let lo := max (4096 * i) first
      let hi := min (4096 * (i + 1)) (first + n)
      (a + BitVec.ofNat 64 (lo - first), hi - lo))

/-- A byte as an agent carries it: its value and whether its sector is poisoned. -/
abbrev MarkedByte := Byte × Bool

/-- The bytes of one mapped piece, with their sectors' marks. -/
def homeBytes (s : State) (m : Mapped) (n : Nat) : List MarkedByte :=
  (bytesOf n (homeRead s m.pa n)).zipIdx.map (fun p => (p.1, poisonedAt s (m.pa + p.2) 1))

/-- Read a run of bytes: the first fault with its address, or the bytes. -/
def agentBytes (s : State) (sp : Space) (a : Word) (n : Nat) : Except (XFault × Word) (List MarkedByte) :=
  (pagePieces a n).foldr (fun p acc =>
    match agentMap s sp .load p.1 with
    | .error f => .error (f, p.1)
    | .ok m => match acc with
      | .error e => .error e
      | .ok l => .ok (homeBytes s m p.2 ++ l)) (.ok [])

/-- What an agent's read of a run does on the way. -/
def agentPass (s : State) (sp : Space) (a : Word) (n : Nat) (alloc : Bool) : State :=
  (pagePieces a n).foldl (fun s p => match agentMap s sp .load p.1 with | .ok m => agentTouch s sp.part m p.2 alloc | .error _ => s) s

/-- Whether a run of bytes can be read or written: its first fault with its address. -/
def agentFault (s : State) (sp : Space) (k : AccessKind) (a : Word) (n : Nat) : Option (XFault × Word) :=
  (pagePieces a n).findSome? (fun p => match agentMap s sp k p.1 with | .error f => some (f, p.1) | .ok _ => none)

/-- Whether a run touches a CXL window whose link is down (R310). -/
def agentDown (s : State) (sp : Space) (k : AccessKind) (a : Word) (n : Nat) : Bool :=
  (pagePieces a n).any (fun p => match agentMap s sp k p.1 with | .ok m => linkDown s m.pa | .error _ => false)

/-- Set or clear the mark of each sector that a write covers whole, and set it where a written byte is marked (R418, R419). -/
def remark (s : State) (pa : Nat) (bs : List MarkedByte) : State :=
  (sectorsOf pa bs.length).foldl (fun s k =>
    let inside := bs.zipIdx.filter (fun p => sectorOf (pa + p.2) == k)
    if inside.any (fun p => p.1.2) then s.setPoison k
    else if inside.length = 64 then s.clearPoison k
    else s) s

/-- Write a run of bytes with their marks, as far as the first fault. -/
def agentStore (s : State) (sp : Space) (a : Word) (bs : List MarkedByte) (alloc : Bool) : State × Option (XFault × Word) :=
  (pagePieces a bs.length).foldl (fun (acc : State × Option (XFault × Word)) p =>
    match acc.2 with
    | some _ => acc
    | none => match agentMap acc.1 sp .store p.1 with
      | .error f => (acc.1, some (f, p.1))
      | .ok m =>
        let part := (bs.drop (p.1 - a).toNat).take p.2
        let s := agentWrite acc.1 sp.part m (part.map Prod.fst) alloc
        (if linkDown s m.pa then s else remark s m.pa part, none)) (s, none)

/-- A step of the table: the access unit writes the flag of a store stream that was unbound, its elements having performed (R134), or the
failure flag of a record that broke its table (R223). -/
def execStreamFlagWrite (s : State) : Host.Outcome State Fault Refusal :=
  .next (match s.owed with
    | [] => s
    | o :: rest => writeFlag { s with owed := rest } o.space o.unit o.index o.addr o.val)

/-! ## Units over path F for an agent -/

/-- The bytes of a run as one-byte remote units, keyed from `key`. -/
def byteUnits (key : Nat) (a : Word) (n : Nat) : List RemoteUnit :=
  (List.range n).map (fun i => { key := key + i, addr := a + BitVec.ofNat 64 i, val := 0, mask := 0 })

/-- The answers to byte units as marked bytes, or the address of the first that failed (R364). -/
def answeredBytes (ans : List (Nat × Answer)) (key : Nat) (a : Word) (n : Nat) : Except Word (List MarkedByte) :=
  match (List.range n).find? (fun i => (answerTo ans (key + i)).bad) with
  | some i => .error (a + BitVec.ofNat 64 i)
  | none => .ok ((List.range n).map (fun i => let r := answerTo ans (key + i); (BitVec.ofNat 8 r.value, r.marked)))

/-- The remote accesses of an engine or a context under key `n`: sent once, then awaited (R359, R364). -/
def agentRemote (s : State) (who : Requester) (key : Nat) (qs : List Request) : RemoteOut :=
  match s.awaits.find? (fun p => p.1 == key) with
  | some (_, r) => if r.openTags.isEmpty then .answered { s with awaits := s.awaits.filter (fun p => p.1 != key) } r.answers else .waiting s
  | none =>
    let (s, tags) := sendRequests s who qs
    if tags.isEmpty then .answered s [] else .waiting { s with awaits := tset s.awaits key { openTags := tags, answers := [] } }

end Sys2Proof.Machine
end

