-- ==== Sys2Proof/Machine/Fetch.lean ====
section
/-! DEFINITION. Fetching an instruction's bytes (R73, R74): halfword by halfword, each once, through the instruction cache and translation. -/

namespace Sys2Proof.Machine

/-- The trap of a halfword that cannot be fetched: 0x03 or 0x06, TRAPVAL its address (R74). -/
def fetchFault (a : Word) (f : XFault) : TrapReq :=
  { cause := faultCause .fetch f, val := a, vri := none, ipa := f.ipa.map (BitVec.ofNat 64), notes := f.notes }

/-- A byte as the front end of a core reads it: the instruction cache's copy, else the home's (R74, R301). -/
def fetchByte (s : State) (m : Mapped) (pa : Nat) : Byte :=
  match (if m.uc then none else (s.core (coreOf s.hart.id)).icache.find? (fun p => p.1 == sectorOf pa)) with
  | some w => BitVec.ofNat 8 (bitsAt (8 * (pa % 64)) 8 w.2)
  | none => memGet s.mem pa

/-- Fetch the halfword at an address (R74). -/
def fetchHalf (s : State) (a : Word) : Except TrapReq (List Byte) :=
  match locate s s.hart.space (some s.hart.id) .fetch false a with
  | .error f => .error (fetchFault a f)
  | .ok m => .ok [fetchByte s m m.pa, fetchByte s m (m.pa + 1)]

/-- Fetch `n` more halfwords from an address. -/
def fetchHalves (s : State) : Nat → Word → Except TrapReq (List Byte)
  | 0, _ => .ok []
  | n + 1, a =>
    match fetchHalf s a with
    | .error t => .error t
    | .ok bs => match fetchHalves s n (a + 2) with
      | .error t => .error t
      | .ok cs => .ok (bs ++ cs)

/-- Fetch the bytes of the instruction at PC, as many as decoding asks for: word 1 of a 64-bit instruction only when word 0 names one (R73, R74). -/
def fetchBytes (s : State) : Except TrapReq (List Byte) :=
  let pc := s.hart.pc
  match fetchHalves s 1 pc with
  | .error t => .error t
  | .ok b0 =>
    let h : BitVec 16 := BitVec.ofNat 16 (ofBytes b0)
    if lengthOf h = 2 then .ok b0
    else match fetchHalves s 1 (pc + 2) with
      | .error t => .error t
      | .ok b1 =>
        if lengthOf h = 4 then .ok (b0 ++ b1)
        else if !word0Assigned (BitVec.ofNat 32 (ofBytes (b0 ++ b1))) then .ok (b0 ++ b1)
        else match fetchHalves s 2 (pc + 4) with
          | .error t => .error t
          | .ok b2 => .ok (b0 ++ b1 ++ b2)

/-- What a fetch of a sector does on the way: a hit takes it from the instruction cache of 128 KiB, and a miss fills it from the home, but for poisoned data
(R301, R418). -/
def fetchSector (m : Mapped) (s : State) (k : Nat) : State :=
  let c := coreOf s.hart.id
  if m.uc || !isCached k then touch s s.hart.partid k m.abench m.uc false true
  else if (s.core c).icache.any (fun p => p.1 == k) then s
  else
    let s := touch s s.hart.partid k m.abench false false true
    if poisonedAt s k 64 then s else s.setCore c { s.core c with icache := ((k, memRead s.mem k 64) :: (s.core c).icache).take 2048 }

/-- What fetching `n` halfwords from an address does on the way (R74, R301, R319). -/
def fetchPass (a : Word) (n : Nat) (s : State) : State :=
  (List.range n).foldl (fun s i => match locate s s.hart.space (some s.hart.id) .fetch false (a + BitVec.ofNat 64 (2 * i)) with
    | .ok m => fetchSector m (noteWalk s (some s.hart.id) m) (sectorOf m.pa)
    | .error _ => s) s

/-- What the fetched bytes ask for: the instruction they decode to, or their bits when they are none (R86). -/
def fetchedInstr (bs : List Byte) : Except Word Instr :=
  match decode bs with
  | .ok (i, _) => .ok i
  | .error _ => .error (BitVec.ofNat 64 (ofBytes bs))

/-- The trap of bits that are no instruction: 0x01 where their opcode fields name an instruction with a fixed minimum level above the hart's,
else 0x00 (R86, R445). TRAPVAL holds the bits. -/
def badBits (w : Word) (s : State) : State :=
  trapHere (trapOf (if s.hart.prv < fixedLevel (w.extractLsb' 0 32) then 0x01 else 0x00) w) s

/-- Whether a hart's present instruction waits and will go on: it is not fetched again (R74). -/
def Hart.keeps (h : Hart) : Bool :=
  h.stalled || (match h.run with | .asleep .remote | .asleep .matrix | .asleep .channel => true | _ => false)

/-- After an instruction of the current hart: one that waits is kept as it was fetched, whatever is stored to its bytes meanwhile (R74). -/
def keepInstance (i : Instr) (s : State) : State := s.withHart { s.hart with fetched := if s.hart.keeps then some i else none }

/-- What the front end has for the current hart. -/
inductive FrontEnd where
  | instr (i : Instr) (s : State) | trap (s : State)
  deriving DecidableEq, Repr

/-- The current hart's next instruction: the one it keeps, or one fetched and decoded, or the trap that either meets (R73, R74, R86). -/
def fetchNext (s : State) : FrontEnd :=
  match s.hart.fetched with
  | some i => .instr i s
  | none => match fetchBytes s with
    | .error t => .trap (trapHere t s)
    | .ok bs =>
      let s := fetchPass s.hart.pc (bs.length / 2) s
      match fetchedInstr bs with
      | .ok i => .instr i s
      | .error w => .trap (badBits w s)

/-- A step of the table: the instruction at PC is one that nothing assigns (R86). -/
def execIllegalInstruction (w : Word) (s : State) : Host.Outcome State Fault Refusal := .next (badBits w s)

end Sys2Proof.Machine
end

