-- ==== Sys2Proof/Machine/Scalar.lean ====
section
/-! DEFINITION. Scalar integer instructions, branches and jumps, LI64, and their 16-bit forms (R84, R96 to R100, R106 to R109, R148). -/

namespace Sys2Proof.Machine

/-- An instruction whose bits break a rule of its entry raises 0x00 and has no other effect (R86); otherwise it goes on. -/
def checked (i : Instr) (s : State) (k : State → State) : State := if wellFormed i then k s else illegal i s

/-- A register-to-register operation of `len` bytes: both sources are read before x[d] is written (R96, R98). -/
def aluR (len : Nat) (d a b : Reg) (f : Word → Word → Word) (s : State) : Host.Outcome State Fault Refusal :=
  .next (writeInt len d (f (s.getX a) (s.getX b)) s)

/-- An operation on one register and a value the instruction holds (R98 to R100). -/
def aluI (len : Nat) (d a : Reg) (f : Word → Word) (s : State) : Host.Outcome State Fault Refusal :=
  .next (writeInt len d (f (s.getX a)) s)

/-- A comparison's result: 1 when true, 0 when false (R98). -/
def truth (b : Bool) : Word := if b then 1 else 0

/-- The shift amount of a register operand: its low six bits (R98). -/
def shamt (b : Word) : Nat := (b.extractLsb' 0 6).toNat

/-- Leading zero bits (R98). -/
def clz64 (a : Word) : Word := if a = 0 then 64 else 63 - BitVec.ofNat 64 (Nat.log2 a.toNat)

/-- Trailing zero bits (R98). -/
def ctz64 (a : Word) : Word := BitVec.ofNat 64 (((List.range 64).find? (fun i => a.getLsbD i)).getD 64)

/-- The one bits among the low `n` bits of a number. -/
def onesIn : Nat → Nat → Nat
  | 0, _ => 0
  | n + 1, x => x % 2 + onesIn n (x / 2)

/-- The bytes of a word in reverse order (R98). -/
def byteSwap (a : Word) : Word := BitVec.ofNat 64 (ofBytes (bytesOf 8 a.toNat).reverse)

/-- Bits of an extension's width code: 8, 16, 32 (R98). -/
def extBits (w : BitVec 2) : Nat := match w.toNat with | 0 => 8 | 1 => 16 | _ => 32

/-- The low `n` bits, sign-extended. -/
def sextBits (n : Nat) (a : Word) : Word := BitVec.ofInt 64 (toSigned n a.toNat)
/-- The low `n` bits, zero-extended. -/
def zextBits (n : Nat) (a : Word) : Word := BitVec.ofNat 64 (a.toNat % 2 ^ n)

/-! ## INT-R (R98) -/

/-- ADD (R98). -/
def execAdd (d a b : Reg) (s : State) : Host.Outcome State Fault Refusal := aluR 4 d a b (· + ·) s
/-- SUB (R98). -/
def execSub (d a b : Reg) (s : State) : Host.Outcome State Fault Refusal := aluR 4 d a b (· - ·) s
/-- AND (R98). -/
def execAnd (d a b : Reg) (s : State) : Host.Outcome State Fault Refusal := aluR 4 d a b (· &&& ·) s
/-- OR (R98). -/
def execOr (d a b : Reg) (s : State) : Host.Outcome State Fault Refusal := aluR 4 d a b (· ||| ·) s
/-- XOR (R98). -/
def execXor (d a b : Reg) (s : State) : Host.Outcome State Fault Refusal := aluR 4 d a b (· ^^^ ·) s
/-- ANDN (R98). -/
def execAndn (d a b : Reg) (s : State) : Host.Outcome State Fault Refusal := aluR 4 d a b (fun x y => x &&& ~~~y) s
/-- SLL (R98). -/
def execSll (d a b : Reg) (s : State) : Host.Outcome State Fault Refusal := aluR 4 d a b (fun x y => x <<< shamt y) s
/-- SRL (R98). -/
def execSrl (d a b : Reg) (s : State) : Host.Outcome State Fault Refusal := aluR 4 d a b (fun x y => x >>> shamt y) s
/-- SRA (R98). -/
def execSra (d a b : Reg) (s : State) : Host.Outcome State Fault Refusal := aluR 4 d a b (fun x y => x.sshiftRight (shamt y)) s
/-- ROTL (R98). -/
def execRotl (d a b : Reg) (s : State) : Host.Outcome State Fault Refusal :=
  aluR 4 d a b (fun x y => x <<< shamt y ||| x >>> (64 - shamt y)) s
/-- SLT (R98). -/
def execSlt (d a b : Reg) (s : State) : Host.Outcome State Fault Refusal := aluR 4 d a b (fun x y => truth (x.slt y)) s
/-- SLTU (R98). -/
def execSltu (d a b : Reg) (s : State) : Host.Outcome State Fault Refusal := aluR 4 d a b (fun x y => truth (x.ult y)) s
/-- MIN (R98). -/
def execMin (d a b : Reg) (s : State) : Host.Outcome State Fault Refusal := aluR 4 d a b (fun x y => if x.slt y then x else y) s
/-- MAX (R98). -/
def execMax (d a b : Reg) (s : State) : Host.Outcome State Fault Refusal := aluR 4 d a b (fun x y => if x.slt y then y else x) s
/-- MINU (R98). -/
def execMinu (d a b : Reg) (s : State) : Host.Outcome State Fault Refusal := aluR 4 d a b (fun x y => if x.ult y then x else y) s
/-- MAXU (R98). -/
def execMaxu (d a b : Reg) (s : State) : Host.Outcome State Fault Refusal := aluR 4 d a b (fun x y => if x.ult y then y else x) s
/-- MUL (R98). -/
def execMul (d a b : Reg) (s : State) : Host.Outcome State Fault Refusal := aluR 4 d a b (· * ·) s
/-- MULH (R98). -/
def execMulh (d a b : Reg) (s : State) : Host.Outcome State Fault Refusal :=
  aluR 4 d a b (fun x y => (x.signExtend 128 * y.signExtend 128).extractLsb' 64 64) s
/-- MULHU (R98). -/
def execMulhu (d a b : Reg) (s : State) : Host.Outcome State Fault Refusal :=
  aluR 4 d a b (fun x y => (x.zeroExtend 128 * y.zeroExtend 128).extractLsb' 64 64) s
/-- DIV (R98, R41). -/
def execDiv (d a b : Reg) (s : State) : Host.Outcome State Fault Refusal :=
  aluR 4 d a b (fun x y => BitVec.ofNat 64 (intQuot 64 true x.toNat y.toNat)) s
/-- DIVU (R98, R41). -/
def execDivu (d a b : Reg) (s : State) : Host.Outcome State Fault Refusal :=
  aluR 4 d a b (fun x y => BitVec.ofNat 64 (intQuot 64 false x.toNat y.toNat)) s
/-- REM (R98, R41). -/
def execRem (d a b : Reg) (s : State) : Host.Outcome State Fault Refusal :=
  aluR 4 d a b (fun x y => BitVec.ofNat 64 (intRem 64 true x.toNat y.toNat)) s
/-- REMU (R98, R41). -/
def execRemu (d a b : Reg) (s : State) : Host.Outcome State Fault Refusal :=
  aluR 4 d a b (fun x y => BitVec.ofNat 64 (intRem 64 false x.toNat y.toNat)) s
/-- CLZ (R98). -/
def execClz (d a : Reg) (s : State) : Host.Outcome State Fault Refusal := aluI 4 d a clz64 s
/-- CTZ (R98). -/
def execCtz (d a : Reg) (s : State) : Host.Outcome State Fault Refusal := aluI 4 d a ctz64 s
/-- POPC (R98). -/
def execPopc (d a : Reg) (s : State) : Host.Outcome State Fault Refusal := aluI 4 d a (fun x => BitVec.ofNat 64 (onesIn 64 x.toNat)) s
/-- SEXT (R98). -/
def execSext (d a : Reg) (w : BitVec 2) (s : State) : Host.Outcome State Fault Refusal :=
  .next (checked (.sext d a w) s (fun s => writeInt 4 d (sextBits (extBits w) (s.getX a)) s))
/-- ZEXT (R98). -/
def execZext (d a : Reg) (w : BitVec 2) (s : State) : Host.Outcome State Fault Refusal :=
  .next (checked (.zext d a w) s (fun s => writeInt 4 d (zextBits (extBits w) (s.getX a)) s))
/-- CSEL reads x[d] as a source (R98). -/
def execCsel (d a b : Reg) (s : State) : Host.Outcome State Fault Refusal :=
  aluR 4 d a b (fun x y => if s.getX d ≠ 0 then x else y) s
/-- BSWAP (R98). -/
def execBswap (d a : Reg) (s : State) : Host.Outcome State Fault Refusal := aluI 4 d a byteSwap s

/-! ## INT-I (R99, R100) -/

/-- sext(imm13) (R99). -/
def imm64 (i : BitVec 13) : Word := i.signExtend 64
/-- sext(imm18 × 2^14) (R99). -/
def upper64 (i : BitVec 18) : Word := i.signExtend 64 <<< 14

/-- ADDI (R99). -/
def execAddi (d a : Reg) (i : BitVec 13) (s : State) : Host.Outcome State Fault Refusal := aluI 4 d a (· + imm64 i) s
/-- ANDI (R99). -/
def execAndi (d a : Reg) (i : BitVec 13) (s : State) : Host.Outcome State Fault Refusal := aluI 4 d a (· &&& imm64 i) s
/-- ORI (R99). -/
def execOri (d a : Reg) (i : BitVec 13) (s : State) : Host.Outcome State Fault Refusal := aluI 4 d a (· ||| imm64 i) s
/-- XORI (R99). -/
def execXori (d a : Reg) (i : BitVec 13) (s : State) : Host.Outcome State Fault Refusal := aluI 4 d a (· ^^^ imm64 i) s
/-- SLTI (R99). -/
def execSlti (d a : Reg) (i : BitVec 13) (s : State) : Host.Outcome State Fault Refusal := aluI 4 d a (fun x => truth (x.slt (imm64 i))) s
/-- SLTIU (R99). -/
def execSltiu (d a : Reg) (i : BitVec 13) (s : State) : Host.Outcome State Fault Refusal := aluI 4 d a (fun x => truth (x.ult (imm64 i))) s
/-- SLLI (R99, R100). -/
def execSlli (d a : Reg) (sh : BitVec 6) (s : State) : Host.Outcome State Fault Refusal := aluI 4 d a (· <<< sh.toNat) s
/-- SRLI (R99, R100). -/
def execSrli (d a : Reg) (sh : BitVec 6) (s : State) : Host.Outcome State Fault Refusal := aluI 4 d a (· >>> sh.toNat) s
/-- SRAI (R99, R100). -/
def execSrai (d a : Reg) (sh : BitVec 6) (s : State) : Host.Outcome State Fault Refusal := aluI 4 d a (fun x => x.sshiftRight sh.toNat) s
/-- LIH (R99). -/
def execLih (d : Reg) (i : BitVec 18) (s : State) : Host.Outcome State Fault Refusal := .next (writeInt 4 d (upper64 i) s)
/-- PCADD: PC is the address of the instruction itself (R99). -/
def execPcadd (d : Reg) (i : BitVec 18) (s : State) : Host.Outcome State Fault Refusal := .next (writeInt 4 d (s.hart.pc + upper64 i) s)

/-! ## LI64 (R148) -/

/-- The value LI64 writes: a 47-bit immediate sign-extended, or with H the low 32 bits of it above the low half of x[d] (R148). -/
def li64Value (hi : Bool) (i : BitVec 47) (old : Word) : Word :=
  if hi then i.extractLsb' 0 32 ++ old.extractLsb' 0 32 else i.signExtend 64

/-- LI64 (R148). -/
def execLi64 (d : Reg) (hi : Bool) (i : BitVec 47) (s : State) : Host.Outcome State Fault Refusal :=
  .next (checked (.li64 d hi i) s (fun s => writeInt 8 d (li64Value hi i (s.getX d)) s))

/-! ## Branches and jumps (R106 to R109) -/

/-- A branch of `len` bytes: to PC + offset × 2 if the condition holds, else to the next instruction (R106). -/
def branch (len : Nat) (taken : Bool) (off : Word) (s : State) : Host.Outcome State Fault Refusal :=
  .next (if taken then finishTo (s.hart.pc + off * 2) s else finish len s)

/-- BEQ (R106). -/
def execBeq (a b : Reg) (o : BitVec 13) (s : State) : Host.Outcome State Fault Refusal := branch 4 (s.getX a == s.getX b) (o.signExtend 64) s
/-- BNE (R106). -/
def execBne (a b : Reg) (o : BitVec 13) (s : State) : Host.Outcome State Fault Refusal := branch 4 (s.getX a != s.getX b) (o.signExtend 64) s
/-- BLT (R106). -/
def execBlt (a b : Reg) (o : BitVec 13) (s : State) : Host.Outcome State Fault Refusal := branch 4 ((s.getX a).slt (s.getX b)) (o.signExtend 64) s
/-- BGE (R106). -/
def execBge (a b : Reg) (o : BitVec 13) (s : State) : Host.Outcome State Fault Refusal := branch 4 (!(s.getX a).slt (s.getX b)) (o.signExtend 64) s
/-- BLTU (R106). -/
def execBltu (a b : Reg) (o : BitVec 13) (s : State) : Host.Outcome State Fault Refusal := branch 4 ((s.getX a).ult (s.getX b)) (o.signExtend 64) s
/-- BGEU (R106). -/
def execBgeu (a b : Reg) (o : BitVec 13) (s : State) : Host.Outcome State Fault Refusal := branch 4 (!(s.getX a).ult (s.getX b)) (o.signExtend 64) s

/-- JMPL links PC + 4 and jumps (R107). -/
def execJmpl (d : Reg) (o : BitVec 18) (s : State) : Host.Outcome State Fault Refusal :=
  .next (finishTo (s.hart.pc + o.signExtend 64 * 2) (s.setX d (s.hart.pc + 4)))
/-- JMPR: the target is read before the link is written (R96, R107). -/
def execJmpr (d a : Reg) (i : BitVec 13) (s : State) : Host.Outcome State Fault Refusal :=
  .next (finishTo ((s.getX a + imm64 i) &&& ~~~1#64) (s.setX d (s.hart.pc + 4)))

/-- Whether the stream bound to a register has reached its end; an unbound one has (R108, R134). -/
def streamEnded (h : Hart) (r : Nat) : Bool := match h.binding r with | some b => b.scb.len ≤ b.pos | none => true

/-- BSE (R108): instructions complete in order here, so the position is the one every older instruction leaves. -/
def execBse (n : BitVec 3) (o : BitVec 13) (s : State) : Host.Outcome State Fault Refusal :=
  branch 4 (streamEnded s.hart (24 + n.toNat)) (o.signExtend 64) s

/-- Whether any valid element of a mask is 1; under VILL there is none (R109). -/
def maskAny (h : Hart) (m : Nat) : Bool := lowBits (if h.vill then 0 else h.vlv) (h.mask m) != 0

/-- A branch on a mask: the front end stalls until an older VSETL that empties the masks has done so (R109, R122). -/
def maskBranch (i : Instr) (taken : Bool) (o : BitVec 13) (s : State) : Host.Outcome State Fault Refusal :=
  if !wellFormed i then .next (illegal i s) else if s.hart.moving then .next (stall s) else branch 4 taken (o.signExtend 64) s

/-- BMANY (R109). -/
def execBmany (n : Reg) (o : BitVec 13) (s : State) : Host.Outcome State Fault Refusal := maskBranch (.bmany n o) (maskAny s.hart n.toNat) o s
/-- BMNONE (R109). -/
def execBmnone (n : Reg) (o : BitVec 13) (s : State) : Host.Outcome State Fault Refusal := maskBranch (.bmnone n o) (!maskAny s.hart n.toNat) o s

/-! ## 16-bit forms (R84, R85) -/

/-- The register a 3-bit field names: x8 to x15 (R84). -/
def creg (r : BitVec 3) : Reg := 8 + r.zeroExtend 5

/-- C.ADDI4SP d3, imm: ADDI d3, x2, imm8 × 4. -/
def execCAddi4sp (d : BitVec 3) (i : BitVec 8) (s : State) : Host.Outcome State Fault Refusal :=
  .next (checked (.cAddi4sp d i) s (fun s => writeInt 2 (creg d) (s.getX 2 + i.zeroExtend 64 * 4) s))
/-- C.ADDI: ADDI d, d, sext(imm6). -/
def execCAddi (d : Reg) (i : BitVec 6) (s : State) : Host.Outcome State Fault Refusal :=
  .next (checked (.cAddi d i) s (fun s => writeInt 2 d (s.getX d + i.signExtend 64) s))
/-- C.LI: ADDI d, x0, sext(imm6). -/
def execCLi (d : Reg) (i : BitVec 6) (s : State) : Host.Outcome State Fault Refusal :=
  .next (checked (.cLi d i) s (fun s => writeInt 2 d (i.signExtend 64) s))
/-- C.MV: ADD d, x0, a. -/
def execCMv (d a : Reg) (s : State) : Host.Outcome State Fault Refusal :=
  .next (checked (.cMv d a) s (fun s => writeInt 2 d (s.getX a) s))
/-- C.ADD: ADD d, d, a. -/
def execCAdd (d a : Reg) (s : State) : Host.Outcome State Fault Refusal :=
  .next (checked (.cAdd d a) s (fun s => writeInt 2 d (s.getX d + s.getX a) s))
/-- C.SUB: SUB d, d, a. -/
def execCSub (d a : Reg) (s : State) : Host.Outcome State Fault Refusal :=
  .next (checked (.cSub d a) s (fun s => writeInt 2 d (s.getX d - s.getX a) s))
/-- C.AND: AND d, d, a. -/
def execCAnd (d a : Reg) (s : State) : Host.Outcome State Fault Refusal :=
  .next (checked (.cAnd d a) s (fun s => writeInt 2 d (s.getX d &&& s.getX a) s))
/-- C.SLLI: SLLI d, d, sh. -/
def execCSlli (d : Reg) (sh : BitVec 6) (s : State) : Host.Outcome State Fault Refusal :=
  .next (checked (.cSlli d sh) s (fun s => writeInt 2 d (s.getX d <<< sh.toNat) s))
/-- C.SRLI: SRLI d, d, sh. -/
def execCSrli (d : Reg) (sh : BitVec 6) (s : State) : Host.Outcome State Fault Refusal :=
  .next (checked (.cSrli d sh) s (fun s => writeInt 2 d (s.getX d >>> sh.toNat) s))
/-- C.J: JMPL x0. -/
def execCJ (o : BitVec 11) (s : State) : Host.Outcome State Fault Refusal := branch 2 true (o.signExtend 64) s
/-- C.BEQZ: BEQ a3, x0. -/
def execCBeqz (a : BitVec 3) (o : BitVec 8) (s : State) : Host.Outcome State Fault Refusal := branch 2 (s.getX (creg a) == 0) (o.signExtend 64) s
/-- C.BNEZ: BNE a3, x0. -/
def execCBnez (a : BitVec 3) (o : BitVec 8) (s : State) : Host.Outcome State Fault Refusal := branch 2 (s.getX (creg a) != 0) (o.signExtend 64) s
/-- C.JR: JMPR x0, a, 0. -/
def execCJr (a : Reg) (s : State) : Host.Outcome State Fault Refusal :=
  .next (checked (.cJr a) s (fun s => finishTo (s.getX a &&& ~~~1#64) s))
/-- C.NOP: NOP. -/
def execCNop (s : State) : Host.Outcome State Fault Refusal := .next (finish 2 s)

end Sys2Proof.Machine
end

