-- ==== Sys2Proof/Machine/VectorArith.lean ====
section
/-! DEFINITION. Element-wise vector arithmetic, compares, carries and merges (R150 to R159). -/

namespace Sys2Proof.Machine

/-! ## The mould (R150 to R153) -/

/-- What an element-wise entry fixes: the formats it accepts, whether it rounds, whether it reads b and vd, the format of its result, and the result
of one element from the format, the rounding code, the random word and the operands a, b, vd. -/
structure ArithSpec where
  accept : Nat → Bool
  rounds : Bool
  useB : Bool
  useD : Bool
  resFmt : Nat → Nat
  fn : Nat → Nat → Nat → Nat → Nat → Nat → Nat × BitVec 7

/-- The operand groups of an instruction of the mould. -/
def arithOps (h : Hart) (vd a b : Nat) (vx : Bool) (sp : ArithSpec) : List Opnd :=
  let o (r : Nat) (src dst : Bool) : Opnd := { base := r, n := h.grp, comp := compCount h.fmt, src := src, dst := dst }
  o vd sp.useD true :: o a true false :: (if sp.useB && !vx then [o b true false] else [])

/-- Every operand group stands where R12 and R17 allow. -/
def groupsFit (ops : List Opnd) : Bool := ops.all (fun o => groupFits o.base o.n o.comp)

/-- Operand b of element `e`: the group's element, or the low bits of x[b] (R151). -/
def operandB (g : Hart) (b : Nat) (x : Word) (vx : Bool) (w e : Nat) : Nat := if vx then x.toNat % 2 ^ w else elemAt g g.capBits b g.grp w e

/-- One element of the mould: computed, or consumed poison (R70, R153). -/
def arithElem (s : State) (g : Hart) (sp : ArithSpec) (rm origin : Nat) (vd a b : Nat) (x : Word) (vx : Bool) (e : Nat) : ElemRes :=
  let f := g.fmt
  let w := elemWidth f
  let c := g.capBits
  let bad := elemBad g c a w e || (sp.useB && !vx && elemBad g c b w e) || (sp.useD && elemBad g c vd w e)
  if bad then { val := poisonedBits s e, bad := true, flags := 0, consumes := true }
  else
    let valid := elemValid g c a w e && (!sp.useB || vx || elemValid g c b w e) && (!sp.useD || elemValid g c vd w e)
    let r := sp.fn f rm (drawFor g rm origin 0 e) (elemAt g c a g.grp w e) (operandB g b x vx w e) (elemAt g c vd g.grp w e)
    { val := r.1, bad := false, flags := if valid then r.2 else 0, consumes := false }

/-- An element-wise instruction of the mould. -/
def vecArith (i : Instr) (vd a b : Reg) (m : MaskField) (neg vx : Bool) (sp : ArithSpec) (s : State) : Host.Outcome State Fault Refusal :=
  .next (checked i s (fun s => held s (fun s =>
    let h := s.hart
    let ops := arithOps h vd.toNat a.toNat b.toNat vx sp
    match vecCheck i h { grant := groupsFit ops, format := sp.accept h.fmt, rounds := sp.rounds } (h.grp != 1) (sp.resFmt h.fmt) ops with
    | some t => trapHere t s
    | none =>
      let rm := h.vrm.getD 0
      let origin := drawOrigin h vd.toNat
      runElemWise
        { vd := vd.toNat, fmt := sp.resFmt h.fmt, n := h.grp, len := h.vlv, ops := ops, act := fun e => h.selects m neg e,
          res := fun g e => arithElem s g sp rm origin vd.toNat a.toNat b.toNat (s.getX b) vx e } s)))

/-! ## Integers (R154) -/

/-- An integer operation on two `w`-bit patterns. -/
def intSpec (fn : Nat → Nat → Nat → Nat × BitVec 7) : ArithSpec :=
  { accept := isInt, rounds := false, useB := true, useD := false, resFmt := id, fn := fun f _ _ x y _ => fn (elemWidth f) x y }

/-- An integer operation on one pattern. -/
def intSpec1 (fn : Nat → Nat → Nat × BitVec 7) : ArithSpec :=
  { accept := isInt, rounds := false, useB := false, useD := false, resFmt := id, fn := fun f _ _ x _ _ => fn (elemWidth f) x }

/-- Wrap or, under `.sat`, clamp to the signed range; a clamp sets SAT (R41, R154). -/
def wrapOrSat (sat : Bool) (w : Nat) (v : Int) : Nat × BitVec 7 :=
  if sat then
    let lo : Int := -(2 ^ (w - 1) : Int)
    let hi : Int := 2 ^ (w - 1) - 1
    if v < lo then (wrapInt w lo, SAT) else if v > hi then (wrapInt w hi, SAT) else (wrapInt w v, 0)
  else (wrapInt w v, 0)

/-- Signed or unsigned value of a pattern. -/
def intOf (uns : Bool) (w x : Nat) : Int := if uns then (x % 2 ^ w : Nat) else toSigned w x

/-- Element shift amount: the low log2 EW bits (R154). -/
def vshamt (w y : Nat) : Nat := y % w

/-- VADD (R154). -/
def execVadd (vd a b : Reg) (m : MaskField) (neg sat vx : Bool) (s : State) : Host.Outcome State Fault Refusal :=
  vecArith (.vadd vd a b m neg sat vx) vd a b m neg vx (intSpec (fun w x y => wrapOrSat sat w (toSigned w x + toSigned w y))) s
/-- VSUB (R154). -/
def execVsub (vd a b : Reg) (m : MaskField) (neg sat vx : Bool) (s : State) : Host.Outcome State Fault Refusal :=
  vecArith (.vsub vd a b m neg sat vx) vd a b m neg vx (intSpec (fun w x y => wrapOrSat sat w (toSigned w x - toSigned w y))) s
/-- VMUL (R154). -/
def execVmul (vd a b : Reg) (m : MaskField) (neg sat vx : Bool) (s : State) : Host.Outcome State Fault Refusal :=
  vecArith (.vmul vd a b m neg sat vx) vd a b m neg vx (intSpec (fun w x y => wrapOrSat sat w (toSigned w x * toSigned w y))) s
/-- VMULH (R154). -/
def execVmulh (vd a b : Reg) (m : MaskField) (neg uns vx : Bool) (s : State) : Host.Outcome State Fault Refusal :=
  vecArith (.vmulh vd a b m neg uns vx) vd a b m neg vx (intSpec (fun w x y => (wrapInt (2 * w) (intOf uns w x * intOf uns w y) >>> w, 0))) s
/-- VDIV (R41, R154). -/
def execVdiv (vd a b : Reg) (m : MaskField) (neg uns vx : Bool) (s : State) : Host.Outcome State Fault Refusal :=
  vecArith (.vdiv vd a b m neg uns vx) vd a b m neg vx (intSpec (fun w x y => (intQuot w (!uns) x y, 0))) s
/-- VREM (R41, R154). -/
def execVrem (vd a b : Reg) (m : MaskField) (neg uns vx : Bool) (s : State) : Host.Outcome State Fault Refusal :=
  vecArith (.vrem vd a b m neg uns vx) vd a b m neg vx (intSpec (fun w x y => (intRem w (!uns) x y, 0))) s
/-- VMIN (R154). -/
def execVmin (vd a b : Reg) (m : MaskField) (neg uns vx : Bool) (s : State) : Host.Outcome State Fault Refusal :=
  vecArith (.vmin vd a b m neg uns vx) vd a b m neg vx (intSpec (fun w x y => (if intOf uns w x ≤ intOf uns w y then x else y, 0))) s
/-- VMAX (R154). -/
def execVmax (vd a b : Reg) (m : MaskField) (neg uns vx : Bool) (s : State) : Host.Outcome State Fault Refusal :=
  vecArith (.vmax vd a b m neg uns vx) vd a b m neg vx (intSpec (fun w x y => (if intOf uns w x ≤ intOf uns w y then y else x, 0))) s
/-- VAND (R154). -/
def execVand (vd a b : Reg) (m : MaskField) (neg vx : Bool) (s : State) : Host.Outcome State Fault Refusal :=
  vecArith (.vand vd a b m neg vx) vd a b m neg vx (intSpec (fun _ x y => (x &&& y, 0))) s
/-- VOR (R154). -/
def execVor (vd a b : Reg) (m : MaskField) (neg vx : Bool) (s : State) : Host.Outcome State Fault Refusal :=
  vecArith (.vor vd a b m neg vx) vd a b m neg vx (intSpec (fun _ x y => (x ||| y, 0))) s
/-- VXOR (R154). -/
def execVxor (vd a b : Reg) (m : MaskField) (neg vx : Bool) (s : State) : Host.Outcome State Fault Refusal :=
  vecArith (.vxor vd a b m neg vx) vd a b m neg vx (intSpec (fun _ x y => (x ^^^ y, 0))) s
/-- VSLL (R154). -/
def execVsll (vd a b : Reg) (m : MaskField) (neg vx : Bool) (s : State) : Host.Outcome State Fault Refusal :=
  vecArith (.vsll vd a b m neg vx) vd a b m neg vx (intSpec (fun w x y => ((x <<< vshamt w y) % 2 ^ w, 0))) s
/-- VSRL (R154). -/
def execVsrl (vd a b : Reg) (m : MaskField) (neg vx : Bool) (s : State) : Host.Outcome State Fault Refusal :=
  vecArith (.vsrl vd a b m neg vx) vd a b m neg vx (intSpec (fun w x y => (x >>> vshamt w y, 0))) s
/-- VSRA (R154). -/
def execVsra (vd a b : Reg) (m : MaskField) (neg vx : Bool) (s : State) : Host.Outcome State Fault Refusal :=
  vecArith (.vsra vd a b m neg vx) vd a b m neg vx (intSpec (fun w x y => (wrapInt w (toSigned w x / 2 ^ vshamt w y), 0))) s
/-- VABS: wrapped, or under `.sat` clamped (R154). -/
def execVabs (vd a : Reg) (m : MaskField) (neg sat : Bool) (s : State) : Host.Outcome State Fault Refusal :=
  vecArith (.vabs vd a m neg sat) vd a 0 m neg false (intSpec1 (fun w x => wrapOrSat sat w (toSigned w x).natAbs)) s

/-! ## Floating point (R158, R159) -/

/-- FP64, FP32, BF16 or FP16. -/
def isFloat (f : Nat) : Bool := 4 ≤ f && f ≤ 7

/-- An operation computed exactly and rounded once (R61, R158). -/
def fpSpec (useB useD : Bool) (op : Nat → Val → Val → Val → Val × BitVec 7) : ArithSpec :=
  { accept := isFloat, rounds := true, useB := useB, useD := useD, resFmt := id,
    fn := fun f rm z x y d => roundOp f rm false z (op rm (decodeVal f x) (decodeVal f y) (decodeVal f d)) }

/-- An operation that does not round (R152, R158). -/
def fpExact (useB : Bool) (res : Nat → Nat) (fn : Nat → Nat → Nat → Nat × BitVec 7) : ArithSpec :=
  { accept := isFloat, rounds := false, useB := useB, useD := false, resFmt := res, fn := fun f _ _ x y _ => fn f x y }

/-- A function of R62, FP32 and BF16 only, always rounded RNE (R159). -/
def elemSpec (op : Nat) : ArithSpec :=
  { accept := fun f => f == 5 || f == 6, rounds := false, useB := false, useD := false, resFmt := id,
    fn := fun f _ _ x _ _ => roundOp f 0 false 0 (elementary op (decodeVal f x)) }

/-- VFADD (R158). -/
def execVfadd (vd a b : Reg) (m : MaskField) (neg vx : Bool) (s : State) : Host.Outcome State Fault Refusal :=
  vecArith (.vfadd vd a b m neg vx) vd a b m neg vx (fpSpec true false (fun rm x y _ => addVal rm x y)) s
/-- VFSUB (R158). -/
def execVfsub (vd a b : Reg) (m : MaskField) (neg vx : Bool) (s : State) : Host.Outcome State Fault Refusal :=
  vecArith (.vfsub vd a b m neg vx) vd a b m neg vx (fpSpec true false (fun rm x y _ => addVal rm x y.flip)) s
/-- VFMUL (R158). -/
def execVfmul (vd a b : Reg) (m : MaskField) (neg vx : Bool) (s : State) : Host.Outcome State Fault Refusal :=
  vecArith (.vfmul vd a b m neg vx) vd a b m neg vx (fpSpec true false (fun _ x y _ => mulVal x y)) s
/-- VFDIV (R158). -/
def execVfdiv (vd a b : Reg) (m : MaskField) (neg vx : Bool) (s : State) : Host.Outcome State Fault Refusal :=
  vecArith (.vfdiv vd a b m neg vx) vd a b m neg vx (fpSpec true false (fun _ x y _ => divVal x y)) s
/-- VFSQRT (R158). -/
def execVfsqrt (vd a : Reg) (m : MaskField) (neg : Bool) (s : State) : Host.Outcome State Fault Refusal :=
  vecArith (.vfsqrt vd a m neg) vd a 0 m neg false (fpSpec false false (fun _ x _ _ => sqrtVal x)) s
/-- VFMA (R158). -/
def execVfma (vd a b : Reg) (m : MaskField) (neg vx : Bool) (s : State) : Host.Outcome State Fault Refusal :=
  vecArith (.vfma vd a b m neg vx) vd a b m neg vx (fpSpec true true (fun rm x y d => fusedVal rm x y d)) s
/-- VFMS (R158). -/
def execVfms (vd a b : Reg) (m : MaskField) (neg vx : Bool) (s : State) : Host.Outcome State Fault Refusal :=
  vecArith (.vfms vd a b m neg vx) vd a b m neg vx (fpSpec true true (fun rm x y d => fusedVal rm x y d.flip)) s
/-- VFNMA (R158). -/
def execVfnma (vd a b : Reg) (m : MaskField) (neg vx : Bool) (s : State) : Host.Outcome State Fault Refusal :=
  vecArith (.vfnma vd a b m neg vx) vd a b m neg vx (fpSpec true true (fun rm x y d => fusedVal rm x.flip y d)) s
/-- VFMIN (R63, R158). -/
def execVfmin (vd a b : Reg) (m : MaskField) (neg vx : Bool) (s : State) : Host.Outcome State Fault Refusal :=
  vecArith (.vfmin vd a b m neg vx) vd a b m neg vx (fpExact true id (fun f x y => fpMinMax f false x y)) s
/-- VFMAX (R63, R158). -/
def execVfmax (vd a b : Reg) (m : MaskField) (neg vx : Bool) (s : State) : Host.Outcome State Fault Refusal :=
  vecArith (.vfmax vd a b m neg vx) vd a b m neg vx (fpExact true id (fun f x y => fpMinMax f true x y)) s
/-- The integer format of a floating-point format's width (R158). -/
def classFmt (f : Nat) : Nat := match f with | 4 => 3 | 5 => 2 | _ => 1
/-- VFCLASS: the class bits as an integer of the same width (R113, R158). -/
def execVfclass (vd a : Reg) (m : MaskField) (neg : Bool) (s : State) : Host.Outcome State Fault Refusal :=
  vecArith (.vfclass vd a m neg) vd a 0 m neg false (fpExact false classFmt (fun f x _ => (2 ^ fpClass f x, 0))) s
/-- VFEXP (R62, R159). -/
def execVfexp (vd a : Reg) (m : MaskField) (neg : Bool) (s : State) : Host.Outcome State Fault Refusal :=
  vecArith (.vfexp vd a m neg) vd a 0 m neg false (elemSpec 0) s
/-- VFLOG (R62, R159). -/
def execVflog (vd a : Reg) (m : MaskField) (neg : Bool) (s : State) : Host.Outcome State Fault Refusal :=
  vecArith (.vflog vd a m neg) vd a 0 m neg false (elemSpec 1) s
/-- VFRCP (R62, R159). -/
def execVfrcp (vd a : Reg) (m : MaskField) (neg : Bool) (s : State) : Host.Outcome State Fault Refusal :=
  vecArith (.vfrcp vd a m neg) vd a 0 m neg false (elemSpec 2) s
/-- VFRSQ (R62, R159). -/
def execVfrsq (vd a : Reg) (m : MaskField) (neg : Bool) (s : State) : Host.Outcome State Fault Refusal :=
  vecArith (.vfrsq vd a m neg) vd a 0 m neg false (elemSpec 3) s
/-- VFTANH (R62, R159). -/
def execVftanh (vd a : Reg) (m : MaskField) (neg : Bool) (s : State) : Host.Outcome State Fault Refusal :=
  vecArith (.vftanh vd a m neg) vd a 0 m neg false (elemSpec 4) s

/-! ## Results in masks (R155, R156) -/

/-- An instruction that writes mask bits element by element: its sources, the elements it computes, and each bit with its flags and whether it consumes
poison. -/
structure MaskWise where
  md : Nat
  ops : List Opnd
  act : Nat → Bool
  res : Hart → Nat → Bool × BitVec 7 × Bool

/-- Run it: bits of the computed elements are replaced, every other bit of the mask is unchanged (R20, R155, R156). -/
def runMaskWise (j : MaskWise) (s0 : State) : State :=
  match readySources s0 j.ops with
  | none => stall s0
  | some (s, g, cs) =>
    let h := s.hart
    let env := h.env
    let todo := idxs h.vlv (fun e => env.vri ≤ e && j.act e)
    let faultAt (e : Nat) : Option TrapReq :=
      earliest [chunksFault s cs e, if h.ptrap && (j.res g e).2.2 then some (poisonTrap e) else none]
    let stop := firstFault todo faultAt
    let f := match stop with | some (e, _) => e | none => h.vlv
    let done := todo.filter (· < f)
    let flags := done.foldl (fun a e => let r := j.res g e; a ||| r.2.1 ||| flagIf r.2.2 PSN) 0
    let old := h.mask j.md
    let bits := pack 1 h.vlv (fun e =>
      let b := if e < f && env.vri ≤ e && j.act e then (j.res g e).1 else old.testBit e
      if b then 1 else 0)
    let s1 := touchChunks s cs done
    let h1 := s1.hart.setMask j.md (mergeMask old bits h.vlv)
    match stop with
    | some (_, t) => trapHere t (s1.withHart (h1.raise flags))
    | none => finishVec flags (s1.withHart (advanceChunks s h1 cs))

/-- A compare (R156): its condition on two element codes, with its flags. A consumed element's bit is 0. -/
def vecCompare (i : Instr) (md a b : Reg) (m : MaskField) (accept : Nat → Bool) (fn : Nat → Nat → Nat → Bool × BitVec 7) (s : State) :
    Host.Outcome State Fault Refusal :=
  .next (checked i s (fun s => held s (fun s =>
    let h := s.hart
    let o (r : Nat) : Opnd := { base := r, n := h.grp, comp := compCount h.fmt, src := true, dst := false }
    let ops := [o a.toNat, o b.toNat]
    match vecCheck i h { grant := groupsFit ops, format := accept h.fmt, rounds := false } (h.grp != 1) h.fmt ops with
    | some t => trapHere t s
    | none =>
      let f := h.fmt
      let w := elemWidth f
      let c := h.capBits
      runMaskWise
        { md := md.toNat, ops := ops, act := fun e => h.selects m false e,
          res := fun g e =>
            if elemBad g c a.toNat w e || elemBad g c b.toNat w e then (false, 0, true)
            else
              let r := fn f (elemAt g c a.toNat h.grp w e) (elemAt g c b.toNat h.grp w e)
              (r.1, if elemValid g c a.toNat w e && elemValid g c b.toNat w e then r.2 else 0, false) } s)))

/-- The conditions of VCMP (R156). -/
def intCond (c w x y : Nat) : Bool :=
  let sx := toSigned w x
  let sy := toSigned w y
  match c with
  | 0 => x == y | 1 => x != y | 2 => sx < sy | 3 => sx ≥ sy | 4 => x < y | 5 => x ≥ y | 6 => sx ≤ sy | _ => x ≤ y

/-- VCMP (R156). -/
def execVcmp (md a b : Reg) (m : MaskField) (c : BitVec 3) (s : State) : Host.Outcome State Fault Refusal :=
  vecCompare (.vcmp md a b m c) md a b m isInt (fun f x y => (intCond c.toNat (elemWidth f) x y, 0)) s

/-- The conditions of VFCMP (R156). -/
def fpCond (c f x y : Nat) : Bool × BitVec 7 :=
  let a := decodeVal f x
  let b := decodeVal f y
  match c with
  | 0 => fpCompare 0 a b
  | 1 => let r := fpCompare 0 a b; (!r.1, r.2)
  | 2 => fpCompare 1 a b
  | 3 => fpCompare 2 a b
  | 4 => fpCompare 1 b a
  | 5 => fpCompare 2 b a
  | 6 => fpCompare 3 a b
  | _ => let r := fpCompare 3 a b; (!r.1, r.2)

/-- VFCMP (R156). -/
def execVfcmp (md a b : Reg) (m : MaskField) (c : BitVec 3) (s : State) : Host.Outcome State Fault Refusal :=
  vecCompare (.vfcmp md a b m c) md a b m isFloat (fun f x y => fpCond c.toNat f x y) s

/-- The carry of element `e`: 0 without a mask, else the mask's bit, perhaps negated (R155). -/
def carryIn (h : Hart) (c : MaskField) (neg : Bool) (e : Nat) : Nat := if c == 0 then 0 else if (h.mask c.toNat).testBit e != neg then 1 else 0

/-- VADC and VSBC (R155): the sum form writes a group, the carry-out form a mask. -/
def vecCarry (i : Instr) (sub : Bool) (vd a b : Reg) (c : MaskField) (neg co vx : Bool) (s : State) : Host.Outcome State Fault Refusal :=
  .next (checked i s (fun s => held s (fun s =>
    let h := s.hart
    let sp : ArithSpec := { accept := isInt, rounds := false, useB := true, useD := false, resFmt := id, fn := fun _ _ _ _ _ _ => (0, 0) }
    let ops := if co then (arithOps h vd.toNat a.toNat b.toNat vx sp).drop 1 else arithOps h vd.toNat a.toNat b.toNat vx sp
    match vecCheck i h { grant := groupsFit ops, format := isInt h.fmt, rounds := false } (h.grp != 1) h.fmt ops with
    | some t => trapHere t s
    | none =>
      let w := elemWidth h.fmt
      let cap := h.capBits
      let total (g : Hart) (e : Nat) : Int :=
        let x : Int := elemAt g cap a.toNat h.grp w e
        let y : Int := operandB g b.toNat (s.getX b) vx w e
        let k : Int := carryIn h c neg e
        if sub then x - y - k else x + y + k
      let bad (g : Hart) (e : Nat) : Bool := elemBad g cap a.toNat w e || (!vx && elemBad g cap b.toNat w e)
      if co then
        runMaskWise
          { md := vd.toNat, ops := ops, act := fun _ => true,
            res := fun g e => if bad g e then (false, 0, true) else (if sub then total g e < 0 else total g e ≥ 2 ^ w, 0, false) } s
      else
        runElemWise
          { vd := vd.toNat, fmt := h.fmt, n := h.grp, len := h.vlv, ops := ops, act := fun _ => true,
            res := fun g e => if bad g e then { val := poisonedBits s e, bad := true, flags := 0, consumes := true }
              else { val := wrapInt w (total g e), bad := false, flags := 0, consumes := false } } s)))

/-- VADC (R155). -/
def execVadc (vd a b : Reg) (c : MaskField) (neg co vx : Bool) (s : State) : Host.Outcome State Fault Refusal :=
  vecCarry (.vadc vd a b c neg co vx) false vd a b c neg co vx s
/-- VSBC (R155). -/
def execVsbc (vd a b : Reg) (c : MaskField) (neg co vx : Bool) (s : State) : Host.Outcome State Fault Refusal :=
  vecCarry (.vsbc vd a b c neg co vx) true vd a b c neg co vx s

/-- VMERGE: every element below VLV, from b where the mask selects and from a elsewhere; marks are carried (R153, R157). -/
def execVmerge (vd a b : Reg) (m : MaskField) (neg vx : Bool) (s : State) : Host.Outcome State Fault Refusal :=
  .next (checked (.vmerge vd a b m neg vx) s (fun s => held s (fun s =>
    let h := s.hart
    let sp : ArithSpec := { accept := fun f => !isBlock f, rounds := false, useB := true, useD := false, resFmt := id, fn := fun _ _ _ _ _ _ => (0, 0) }
    let ops := arithOps h vd.toNat a.toNat b.toNat vx sp
    match vecCheck (.vmerge vd a b m neg vx) h { grant := groupsFit ops, format := !isBlock h.fmt, rounds := false } (h.grp != 1) h.fmt ops with
    | some t => trapHere t s
    | none =>
      let w := elemWidth h.fmt
      let cap := h.capBits
      runElemWise
        { vd := vd.toNat, fmt := h.fmt, n := h.grp, len := h.vlv, ops := ops, act := fun _ => true,
          res := fun g e =>
            if h.selects m neg e then
              { val := operandB g b.toNat (s.getX b) vx w e, bad := !vx && elemBad g cap b.toNat w e, flags := 0, consumes := false }
            else { val := elemAt g cap a.toNat h.grp w e, bad := elemBad g cap a.toNat w e, flags := 0, consumes := false } } s)))

end Sys2Proof.Machine
end

