-- ==== Sys2Proof/Machine/VectorMem.lean ====
section
/-! DEFINITION. Vector loads and stores, local and remote (R123 to R132, R232, R233). -/

namespace Sys2Proof.Machine

/-! ## Accesses -/

/-- One access of a vector memory instruction: the element at which its fault is reported, a key for its answer, its place and alignment, the
base whose bits [63:42] a remote access must keep (R129), and, for a store, what is written. -/
structure Acc where
  pos : Nat
  key : Nat
  loc : ElemLoc
  align : Nat
  base : Word
  val : Nat := 0
  bad : Bool := false
  deriving DecidableEq, Repr

/-- An access that goes over path F: its base has bit 63 set, or the instruction has no other (R129, R233). -/
def Acc.remote (a : Acc) (fabric : Bool) : Bool := fabric || isRemote a.base

/-- The fault an access shows before anything is sent or performed (R126, R129, R233). -/
def accFault (s : State) (k : AccessKind) (fabric : Bool) (a : Acc) : Option TrapReq :=
  if a.loc.addr.toNat % a.align ≠ 0 then some { trapOf 0x02 a.loc.addr with vri := some a.pos }
  else if a.remote fabric then
    if !isRemote a.loc.addr || (a.loc.addr ^^^ a.base).extractLsb' 42 22 != 0 || remoteRefused s s.hart.partid a.loc.addr
      then some { remoteTrap a.loc.addr with vri := some a.pos } else none
  else match mapSpans s k a.align a.loc.addr a.loc.bytes with
    | .error t => some { t with vri := some a.pos }
    | .ok _ => none

/-- The first fault of a list of accesses. -/
def firstAccFault (s : State) (k : AccessKind) (fabric : Bool) (l : List Acc) : Option TrapReq :=
  l.foldl (fun t a => earlier t (accFault s k fabric a)) none

/-- Whether an access lies below a fault. -/
def Acc.below (a : Acc) (t : Option TrapReq) : Bool := match t with | none => true | some t => decide (a.pos < t.vri.getD 0)

/-- Transfer units of remote accesses: whole elements, or bytes for elements that are not whole bytes (R359). -/
def accUnits (byBytes : Bool) (l : List Acc) : List RemoteUnit :=
  if byBytes then
    ((l.flatMap (fun a => (List.range a.loc.bytes).map (fun i => a.loc.addr + BitVec.ofNat 64 i))).eraseDups).map (fun b =>
      let parts := l.filterMap (fun a =>
        let d := (b - a.loc.addr).toNat
        if d < a.loc.bytes then
          some (bitsAt (8 * d) 8 ((a.val % 2 ^ a.loc.bits) <<< a.loc.off), bitsAt (8 * d) 8 ((2 ^ a.loc.bits - 1) <<< a.loc.off)) else none)
      { key := b.toNat, addr := b, val := parts.foldl (fun v p => v ||| p.1) 0, mask := parts.foldl (fun v p => v ||| p.2) 0 })
  else l.map (fun a => { key := a.loc.addr.toNat * 2 ^ 20 + a.key, addr := a.loc.addr, val := a.val % 2 ^ a.loc.bits, mask := 255 })

/-- Whether accesses of these bits go by bytes: not a power-of-two number of bytes up to eight. -/
def goByBytes (bits : Nat) : Bool := !(bits == 8 || bits == 16 || bits == 32 || bits == 64)

/-- The answer of a remote access: its bits, its mark, and whether it failed. -/
def accAnswer (whole : Bool) (ans : List (Nat × Answer)) (a : Acc) : Nat × Bool × Bool :=
  if whole || goByBytes a.loc.bits then
    let bs := (List.range a.loc.bytes).map (fun i => answerTo ans (a.loc.addr + BitVec.ofNat 64 i).toNat)
    (bitsAt a.loc.off a.loc.bits (ofBytes (bs.map (fun b => BitVec.ofNat 8 b.value))), bs.any (·.marked), bs.any (·.bad))
  else
    let r := answerTo ans (a.loc.addr.toNat * 2 ^ 20 + a.key)
    (r.value, r.marked, r.bad)

/-- The packets of bytes that hold elements of some bits, masked bytes apart (R359). -/
def byteRequests (s : State) (reads send : Bool) (bits : Nat) (us : List RemoteUnit) : List Request :=
  let runs (us : List RemoteUnit) : List Request :=
    if bits < 8 then subByteRequests s s.hart.partid reads send bits us else requestsOf s s.hart.partid reads (if send then .send else .run) 1 us
  if reads then runs us else runs (us.filter (·.mask == 255)) ++ maskedRequests s s.hart.partid (us.filter (·.mask != 255))

/-- The request packets of a list of remote accesses (R359). -/
def accRequests (s : State) (reads : Bool) (form : RemoteForm) (l : List Acc) : List Request :=
  let part := s.hart.partid
  let whole := l.filter (fun a => !goByBytes a.loc.bits)
  let bytes := l.filter (fun a => goByBytes a.loc.bits)
  let sizes (l : List Acc) : List Nat := (l.map (·.loc.bits)).eraseDups
  (sizes whole).flatMap (fun b => requestsOf s part reads form (b / 8) (accUnits false (whole.filter (fun a => a.loc.bits == b))))
    ++ (sizes bytes).flatMap (fun b => byteRequests s reads (form == .send) b (accUnits true (bytes.filter (fun a => a.loc.bits == b))))

/-- The request packets of remote segments: one for each, so that it performs indivisibly (R248). -/
def segRequests (s : State) (reads : Bool) (l : List Acc) : List Request :=
  ((l.map (·.pos)).eraseDups).flatMap (fun p => byteRequests s reads false 8 (accUnits true (l.filter (·.pos == p))))

/-- What fetching a list of accesses has come to: the first fault, and each access's bits and mark. -/
inductive Fetched where
  | waiting (s : State)
  | got (s : State) (stop : Option TrapReq) (ans : List (Nat × Answer))
  deriving DecidableEq, Repr

/-- Read accesses: remote ones below the first local fault are requested, and the answers add the lowest failure (R126, R129, R364). -/
def fetchAll (s : State) (fabric whole : Bool) (form : RemoteForm) (l : List Acc) : Fetched :=
  let stop := firstAccFault s .load fabric l
  let rs := l.filter (fun a => a.remote fabric && a.below stop)
  if rs.isEmpty then .got s stop []
  else match remoteAccess s (if whole then segRequests s true rs else accRequests s true form rs) with
    | .waiting s => .waiting s
    | .answered s ans =>
      let fails := rs.filter (fun a => (accAnswer whole ans a).2.2)
      .got s (fails.foldl (fun t a => earlier t (some { remoteTrap a.loc.addr with vri := some a.pos })) stop) ans

/-- The bits and mark of a fetched access. -/
def accValue (s : State) (fabric whole : Bool) (ans : List (Nat × Answer)) (a : Acc) : Nat × Bool :=
  if a.remote fabric then let r := accAnswer whole ans a; (r.1, r.2.1) else elemLoad s a.loc

/-- What an access does on the way; remote reads did it at their home. -/
def accTouch (fabric nt : Bool) (before s : State) (a : Acc) : State := if a.remote fabric then s else elemTouch nt before s a.loc

/-- What storing has come to: the trap, if any, and the flags consumed poison sets (R418). -/
inductive Stored where
  | waiting (s : State)
  | done (s : State) (stop : Option TrapReq) (flags : BitVec 7)
  deriving DecidableEq, Repr

/-- Perform a list of store accesses, in element order or as `u` allows, up to the first fault (R126 to R129); under `u` elements above the fault that can
perform may have performed (R128; log entry 14). `pre` is the first fault of fetching what is stored and `held` the elements that have one (R136);
`whole` keeps the accesses of one position together, as a segment's are (R132). A poisoned element bound for a domain address is consumed at the
source (R418). -/
def storeAll (s : State) (fabric u whole : Bool) (form : RemoteForm) (pre : Option TrapReq) (held : Nat → Bool) (l : List Acc) : Stored :=
  let consumedAt := l.filter (fun a => a.remote fabric && a.bad)
  let poison := if s.hart.ptrap then consumedAt.foldl (fun t a => earlier t (some (poisonTrap a.pos))) none else none
  let stop := earlier (earlier (firstAccFault s .store fabric l) pre) poison
  let flags := flagIf (consumedAt.any (fun a => a.below stop)) PSN
  let todo := l.filter (fun a => a.below stop)
  let sound (e : Nat) : Bool := !held e && l.all (fun a => a.pos != e || (accFault s .store fabric a).isNone)
  let past := if u && stop.isSome
    then l.filter (fun a => !a.below stop && !a.remote fabric && Config.unorderedPast s.fresh a.pos && sound a.pos) else []
  let locals := todo.filter (fun a => !a.remote fabric) ++ past
  let rs := todo.filter (fun a => a.remote fabric && !a.bad)
  let performLocal (s : State) : State :=
    let groups := if whole then ((locals.map (·.pos)).eraseDups).map (fun p => locals.filter (·.pos == p)) else locals.map (fun a => [a])
    let s := commitElems u (groups.map (fun g => g.map (fun a => (a.loc, a.val, a.bad)))) s
    s.withHart s.hart.dropAhead
  if rs.isEmpty then .done (performLocal s) stop flags
  else match remoteAccess s (if whole then segRequests s false rs else accRequests s false form rs) with
    | .waiting s => .waiting s
    | .answered s ans =>
      let fails := rs.filter (fun a => (accAnswer whole ans a).2.2)
      .done (performLocal s) (fails.foldl (fun t a => earlier t (some { remoteTrap a.loc.addr with vri := some a.pos })) stop) flags

/-! ## Checks -/

/-- Formats that strided and indexed accesses refuse (R124). -/
def indexable (f : Nat) : Bool := !isBlock f && elemWidth f ≥ 8 && memWidth f ≥ 8

/-- The registers of an index group: enough, rounded up to a power of two, for VL elements of the tag (R125). -/
def indexRegs (h : Hart) (r : Nat) : Nat := regsFor h.capBits (h.vlg * elemWidth (h.srcTag r))

/-- An index group stands on a multiple of its size and ends by v31 (R125). -/
def indexFits (h : Hart) (r : Nat) : Bool := r % indexRegs h r == 0 && r + indexRegs h r ≤ 32

/-- Element `e` of an index group under its tag's width, and that width (R125). -/
def indexBits (g : Hart) (tag n r e : Nat) : Nat := elemAt g g.capBits r n (elemWidth tag) e

/-- ix(e), sign-extended from its tag (R125). -/
def indexOffset (g : Hart) (tag n r e : Nat) : Word := BitVec.ofInt 64 (toSigned (elemWidth tag) (indexBits g tag n r e))

/-- The vd or vs operand of the current type: a group with its companions. -/
def typeOpnd (h : Hart) (r : Nat) (src dst : Bool) : Opnd := { base := r, n := h.grp, comp := compCount h.fmt, src := src, dst := dst }

/-- An index operand. -/
def indexOpnd (h : Hart) (r : Nat) : Opnd := { base := r, n := indexRegs h r, comp := 0, src := true, dst := false }

/-- The form of a vector memory instruction. -/
inductive MemForm where
  | unit | strided | indexed | segment | fabricRun | fabricIndexed
  deriving DecidableEq, Repr

/-- Whether a form reads an index group. -/
def MemForm.hasIndex : MemForm → Bool | .indexed | .fabricIndexed => true | _ => false
/-- Whether a form's accesses all go over path F (R233). -/
def MemForm.fabric : MemForm → Bool | .fabricRun | .fabricIndexed => true | _ => false

/-- The whole-instruction checks of a vector load or store (R124, R232, R445). -/
def memCheck (i : Instr) (h : Hart) (form : MemForm) (vd b : Nat) (store : Bool) : Option TrapReq :=
  let fm := h.fmt
  let ops := typeOpnd h vd store (!store) :: if form.hasIndex then [indexOpnd h b] else []
  let grant := groupFits vd h.grp (compCount fm)
    && (match form with
        | .unit => isBlock fm || b == 0
        | .indexed | .fabricIndexed => indexFits h b && !overlaps vd h.grp b (indexRegs h b)
        | _ => true)
  let format := match form with
    | .unit => !isBlock fm || b != 0
    | .segment => isBlock fm
    | .strided | .fabricRun => indexable fm
    | .indexed => indexable fm && isInt (h.srcTag b)
    | .fabricIndexed => indexable fm && h.srcTag b == 3
  vecCheck i h { grant := grant, format := format, rounds := false } (h.grp != 1) fm ops

/-- The accesses of one element of a non-block load or store (R125, R233). -/
def elemAcc (form : MemForm) (fm : Nat) (base : Word) (step : Word) (ix : Nat → Word) (e : Nat) : Acc :=
  let w := memWidth fm
  let at' (a : Word) (off : Nat) : Acc :=
    { pos := e, key := e, loc := { addr := a, off := off, bits := w }, align := if elemWidth fm ≥ 8 && w ≥ 8 then w / 8 else 1,
      base := if form == .fabricIndexed then a else base }
  match form with
  | .strided => at' (base + BitVec.ofNat 64 e * step) 0
  | .indexed | .fabricIndexed => at' (base + ix e) 0
  | _ => at' (base + BitVec.ofNat 64 (e * w / 8)) (e * w % 8)

/-- How a form's remote units go into packets (R359). -/
def MemForm.remote (f : MemForm) (step : Word) : RemoteForm :=
  match f with | .strided => .strided step | .indexed | .fabricIndexed => .indexed | .fabricRun => .send | _ => .run

/-! ## Loads and stores of formats that are not block formats -/

/-- A load of a non-block format (R125, R126). -/
def loadPlain (form : MemForm) (vd b : Nat) (m : MaskField) (base step : Word) (ff nt : Bool) (s : State) : State :=
  let h := s.hart
  let ops := typeOpnd h vd false true :: if form.hasIndex then [indexOpnd h b] else []
  let cs := consumed h ops
  if cs.any (fun c => mustWait s c.2 h.vlv) then stall s
  else
    let g := withChunks s h cs
    let ix (e : Nat) : Word := indexOffset g (h.srcTag b) (indexRegs h b) b e
    let acc (e : Nat) : Acc := elemAcc form h.fmt base step ix e
    let act (e : Nat) : Bool := h.selects m false e
    let todo := idxs h.vlv (fun e => h.vri.toNat ≤ e && act e)
    -- an element whose index cannot be fetched has no address (R136)
    let todo := match firstFault todo (chunksFault s cs) with | some (e, _) => todo.filter (· < e) | none => todo
    match fetchAll s form.fabric false (form.remote step) (todo.map acc) with
    | .waiting s => s
    | .got s stop ans =>
      runElemWise
        { vd := vd, fmt := h.fmt, n := h.grp, len := h.vlv, ops := ops, act := act,
          res := fun _ e => let r := accValue s form.fabric false ans (acc e); { val := r.1, bad := r.2, flags := 0, consumes := false },
          fault := fun e => stop.bind (fun t => if t.vri == some e then some t else none),
          touch := fun t e => accTouch form.fabric nt s t (acc e), ff := ff } s

/-- A store instruction ends: stopped by a trap, or complete (R127). -/
def endStore (cs : List (Nat × Binding)) (before : State) (r : Stored) : State :=
  match r with
  | .waiting s => s
  | .done s (some t) flags => trapHere t (afterStop true (s.withHart (s.hart.raise flags)))
  | .done s none flags => finishVec flags (s.withHart (advanceChunks before s.hart cs))

/-- A store of a non-block format (R125, R126, R128). -/
def storePlain (form : MemForm) (vs b : Nat) (m : MaskField) (base step : Word) (u : Bool) (s : State) : State :=
  let h := s.hart
  let ops := typeOpnd h vs true false :: if form.hasIndex then [indexOpnd h b] else []
  let cs := consumed h ops
  if cs.any (fun c => mustWait s c.2 h.vlv) then stall s
  else
    let g := withChunks s h cs
    let w := elemWidth h.fmt
    let ix (e : Nat) : Word := indexOffset g (h.srcTag b) (indexRegs h b) b e
    let todo := idxs h.vlv (fun e => h.vri.toNat ≤ e && h.selects m false e)
    -- an element whose index cannot be fetched has no address (R136)
    let placed := if form.hasIndex then todo.filter (fun e => (chunksFault s (cs.filter (fun c => c.1 == b)) e).isNone) else todo
    let accs := placed.map (fun e =>
      { elemAcc form h.fmt base step ix e with val := elemAt g h.capBits vs h.grp w e, bad := elemBad g h.capBits vs w e })
    let s1 := touchChunks s cs todo
    endStore cs s (storeAll s1 form.fabric u false (form.remote step) ((firstFault todo (chunksFault s cs)).map Prod.snd)
      (fun e => (chunksFault s cs e).isSome) accs)

/-! ## Block formats (R131, R132) -/

/-- Elements of one superblock of NL4B (R48). -/
def superLen : Nat := 16384

/-- Whether a unit of `b` elements is active: it holds an active element (R50, R131). -/
def unitActive (h : Hart) (m : MaskField) (b j : Nat) : Bool := (List.range (min b (h.vlv - j * b))).any (fun i => h.selects m false (j * b + i))

/-- The places of a block's parts: elements of `bits` in all from one address, or singly; its scale; and for NL4B the superscale of its superblock. -/
structure BlockPlan where
  elems : List Acc
  scales : List Acc
  supers : List Acc
  deriving DecidableEq, Repr

/-- The accesses of VLD and VST under a block format, from element VRI on (R131). A scale or superscale that faults is reported at its block's first
element, with its own address in TRAPVAL (DESIGN CHOICE, log entry 83). -/
def blockPlan (h : Hart) (m : MaskField) (base sbase : Word) : BlockPlan :=
  let fm := h.fmt
  let w := memWidth fm
  let b := blockLen fm
  let r := h.vri.toNat
  let blocks := (List.range (cdiv h.vlv b)).filter (unitActive h m b)
  let supers := if fm = 0x16 then (List.range (cdiv h.vlv superLen)).filter (unitActive h m superLen) else []
  { elems := (blocks.flatMap (fun j => (List.range (min b (h.vlv - j * b))).map (j * b + ·))).filter (r ≤ ·) |>.map (fun e =>
      { pos := e, key := e, loc := { addr := base + BitVec.ofNat 64 (e * w / 8), off := e * w % 8, bits := w },
        align := if w ≥ 8 then w / 8 else 1, base := base })
    scales := (blocks.filter (fun j => r ≤ j * b)).map (fun j =>
      { pos := j * b, key := 2 ^ 17 + j, loc := { addr := sbase + BitVec.ofNat 64 j, off := 0, bits := 8 }, align := 1, base := sbase })
    supers := (supers.filter (fun k => r ≤ k * superLen)).map (fun k =>
      { pos := k * superLen, key := 2 ^ 18 + k,
        loc := { addr := sbase + BitVec.ofNat 64 (4 * cdiv (cdiv h.vlg 64) 4 + 4 * k), off := 0, bits := 32 }, align := 4, base := sbase }) }

/-- Bytes of a segment's elements (R132). -/
def segBytes (fm : Nat) : Nat := blockLen fm * memWidth fm / 8

/-- The accesses of VLDSEG and VSTSEG: a segment's elements below VLV and its scale, with its padding when it is stored, all reported at its first
element. Segments stand a segment size apart, or x[b] apart where b names a register (R132). -/
def segPlan (h : Hart) (m : MaskField) (base : Word) (stride : Option Word) (store : Bool) : BlockPlan :=
  let fm := h.fmt
  let w := memWidth fm
  let b := blockLen fm
  let r := h.vri.toNat
  let size := segBytes fm + 4
  let st := stride.getD (BitVec.ofNat 64 size)
  let blocks := (List.range (cdiv h.vlv b)).filter (fun j => unitActive h m b j && r ≤ j * b)
  let seg (j : Nat) : Word := base + BitVec.ofNat 64 j * st
  { elems := blocks.flatMap (fun j => (List.range (min b (h.vlv - j * b))).map (fun i =>
      { pos := j * b, key := j * b + i, loc := { addr := seg j + BitVec.ofNat 64 (i * w / 8), off := i * w % 8, bits := w },
        align := if i = 0 then 4 else 1, base := base }))
    scales := blocks.map (fun j =>
      { pos := j * b, key := 2 ^ 17 + j, loc := { addr := seg j + BitVec.ofNat 64 (segBytes fm), off := 0, bits := if store then 32 else 8 },
        align := 1, base := base })
    supers := [] }

/-- The format of a block format's scale companion (R17). -/
def scaleFmt (fm : Nat) : Nat := if fm = 0x16 then 0x0F else 0x0E

/-- Replace some elements of a register group's image: those below a bound that a function supplies; the rest keep what they read. -/
def mergeImg (h : Hart) (r n w len : Nat) (v : Nat → Option (Nat × Bool)) : Nat × Nat :=
  (pack w len (fun e => match v e with | some x => x.1 | none => elemAt h h.capBits r n w e),
   pack 1 len (fun e => match v e with | some x => if x.2 then 1 else 0 | none => if elemBad h h.capBits r w e then 1 else 0))

/-- A segment that lies in more than one sector is read at its home, not partly from an L1 copy, so that no older part of it is seen beside a newer (R248). -/
def wholeSegments (l : List Acc) (s : State) : State :=
  let sectors (p : Nat) : List Nat := (l.filter (fun a => a.pos == p && !isRemote a.base)).flatMap (fun a => elemSectors s .load a.loc) |>.eraseDups
  dropSectors s (coreOf s.hart.id) (((l.map (·.pos)).eraseDups.map sectors).filter (fun ks => ks.length > 1)).flatten

/-- A load of a block format: the elements, the scales and, for VLD of NL4B, the superscales (R17, R131, R132). `withSuper` tells whether the
superscale companion is written. -/
def loadBlocks (plan : BlockPlan) (vd : Nat) (withSuper ff nt segments : Bool) (m : MaskField) (s0 : State) : State :=
  let all := plan.elems ++ plan.scales ++ plan.supers
  let s := if segments then wholeSegments all s0 else s0
  let h := s.hart
  let fm := h.fmt
  let b := blockLen fm
  let w := elemWidth fm
  match fetchAll s false segments .run all with
  | .waiting s => s
  | .got s stop0 ans =>
    -- emission checks do not arise: a bound register of a block format has been refused
    let short := match stop0 with | some t => cutsShort (h.selects m false) h.vlv ff (t.vri.getD 0) t | none => false
    let f := match stop0 with | some t => t.vri.getD 0 | none => h.vlv
    let len := if short then f else h.vlv
    let got := all.filter (fun a => a.pos < f)
    let find (k : Nat) : Option Acc := got.find? (fun a => a.key == k)
    let elem (e : Nat) : Option (Nat × Bool) := if e < f then (find e).map (accValue s false segments ans) else none
    let stopped := stop0.isSome && !short
    let c := h.capBits
    let span := if stopped then c * h.grp / w else len
    let d := mergeImg h vd h.grp w span elem
    let nb := cdiv len b
    let sspan := if stopped then c / 8 else nb
    let sc := mergeImg h (vd + h.grp) 1 8 sspan (fun j => (find (2 ^ 17 + j)).map (accValue s false segments ans))
    let ns := cdiv len superLen
    let sp := mergeImg h (vd + h.grp + 1) 1 32 (if stopped then c / 32 else ns) (fun k => (find (2 ^ 18 + k)).map (accValue s false segments ans))
    let s1 := got.foldl (accTouch false nt s) s
    if stopped then
      let t := match stop0 with | some t => t | none => trapOf 0 0
      let h1 := writeStopped s1.hart c vd fm f d.1 d.2 h.grp
      let h1 := writeStopped h1 c (vd + h.grp) (scaleFmt fm) (cdiv f b) sc.1 sc.2 1
      let h1 := if withSuper then writeStopped h1 c (vd + h.grp + 1) 0x05 (cdiv f superLen) sp.1 sp.2 1 else h1
      trapHere t (s1.withHart h1)
    else
      let h1 := writeGroup s1.hart c vd fm len d.1 d.2 h.grp
      let h1 := writeGroup h1 c (vd + h.grp) (scaleFmt fm) nb sc.1 sc.2 1
      let h1 := if withSuper then writeGroup h1 c (vd + h.grp + 1) 0x05 ns sp.1 sp.2 1 else h1
      finishVec 0 (s1.withHart { h1 with vlv := if short then f else h1.vlv })

/-- The value and mark a store access of a block format takes from the register group and its companions. -/
def blockValue (g : Hart) (vs : Nat) (a : Acc) : Acc :=
  let c := g.capBits
  let w := elemWidth g.fmt
  if a.key < 2 ^ 17 then { a with val := elemAt g c vs g.grp w a.key, bad := elemBad g c vs w a.key }
  else if a.key < 2 ^ 18 then
    { a with val := elemAt g c (vs + g.grp) 1 8 (a.key - 2 ^ 17), bad := elemBad g c (vs + g.grp) 8 (a.key - 2 ^ 17) }
  else { a with val := elemAt g c (vs + g.grp + 1) 1 32 (a.key - 2 ^ 18), bad := elemBad g c (vs + g.grp + 1) 32 (a.key - 2 ^ 18) }

/-- A store of a block format (R131, R132). A segment is stored whole or not at all (R248). A fault of the stream that a bound vs consumes is
reported at its element, or at the first of its segment (R136). -/
def storeBlocks (plan : BlockPlan) (vs : Nat) (u segments : Bool) (s : State) : State :=
  let h := s.hart
  let cs := consumed h [typeOpnd h vs true false]
  if cs.any (fun c => mustWait s c.2 h.vlv) then stall s
  else
    let g := withChunks s h cs
    let accs := (plan.elems ++ plan.scales ++ plan.supers).map (blockValue g vs)
    let miss (a : Acc) : Option TrapReq := (chunksFault s cs a.key).map (fun t => { t with vri := some a.pos })
    let s1 := touchChunks s cs (plan.elems.map (·.key))
    endStore cs s (storeAll s1 false u segments .run (earliest (plan.elems.map miss))
      (fun e => plan.elems.any (fun a => a.pos == e && (miss a).isSome)) accs)

/-! ## The instructions -/

/-- A vector load: its checks, then the elements. -/
def vecLoad (i : Instr) (form : MemForm) (vd a b : Reg) (m : MaskField) (ff nt : Bool) (s : State) : Host.Outcome State Fault Refusal :=
  .next (held s (fun s => match memCheck i s.hart form vd.toNat b.toNat false with
    | some t => trapHere t s
    | none =>
      let base := s.getX a
      let h := s.hart
      match form with
      | .segment => loadBlocks (segPlan h m base (if b = 0 then none else some (s.getX b)) false) vd.toNat false ff nt true m s
      | .unit => if isBlock h.fmt then loadBlocks (blockPlan h m base (s.getX b)) vd.toNat (h.fmt == 0x16) ff nt false m s
          else loadPlain .unit vd.toNat b.toNat m base 0 ff nt s
      | f => loadPlain f vd.toNat b.toNat m base (s.getX b) ff nt s))

/-- A vector store. -/
def vecStore (i : Instr) (form : MemForm) (vs a b : Reg) (m : MaskField) (u : Bool) (s : State) : Host.Outcome State Fault Refusal :=
  .next (held s (fun s => match memCheck i s.hart form vs.toNat b.toNat true with
    | some t => trapHere t s
    | none =>
      let base := s.getX a
      let h := s.hart
      match form with
      | .segment => storeBlocks (segPlan h m base (if b = 0 then none else some (s.getX b)) true) vs.toNat true true s
      | .unit => if isBlock h.fmt then storeBlocks (blockPlan h m base (s.getX b)) vs.toNat u false s
          else storePlain .unit vs.toNat b.toNat m base 0 u s
      | f => storePlain f vs.toNat b.toNat m base (s.getX b) u s))

/-- VLD (R123 to R131). NT marks lines for early replacement (R124, R300). -/
def execVld (vd a b : Reg) (m : MaskField) (ff nt u : Bool) (s : State) : Host.Outcome State Fault Refusal :=
  vecLoad (.vld vd a b m ff nt u) .unit vd a b m ff nt s
/-- VLDS. -/
def execVlds (vd a b : Reg) (m : MaskField) (ff nt u : Bool) (s : State) : Host.Outcome State Fault Refusal :=
  vecLoad (.vlds vd a b m ff nt u) .strided vd a b m ff nt s
/-- VLDX. -/
def execVldx (vd a b : Reg) (m : MaskField) (ff nt u : Bool) (s : State) : Host.Outcome State Fault Refusal :=
  vecLoad (.vldx vd a b m ff nt u) .indexed vd a b m ff nt s
/-- VLDSEG (R132). -/
def execVldseg (vd a b : Reg) (m : MaskField) (ff nt u : Bool) (s : State) : Host.Outcome State Fault Refusal :=
  vecLoad (.vldseg vd a b m ff nt u) .segment vd a b m ff nt s
/-- VST. -/
def execVst (vs a b : Reg) (m : MaskField) (nt u : Bool) (s : State) : Host.Outcome State Fault Refusal :=
  vecStore (.vst vs a b m nt u) .unit vs a b m u s
/-- VSTS. -/
def execVsts (vs a b : Reg) (m : MaskField) (nt u : Bool) (s : State) : Host.Outcome State Fault Refusal :=
  vecStore (.vsts vs a b m nt u) .strided vs a b m u s
/-- VSTX. -/
def execVstx (vs a b : Reg) (m : MaskField) (nt u : Bool) (s : State) : Host.Outcome State Fault Refusal :=
  vecStore (.vstx vs a b m nt u) .indexed vs a b m u s
/-- VSTSEG (R132). -/
def execVstseg (vs a b : Reg) (m : MaskField) (nt u : Bool) (s : State) : Host.Outcome State Fault Refusal :=
  vecStore (.vstseg vs a b m nt u) .segment vs a b m u s
/-- VSEND (R232, R233). -/
def execVsend (vs a : Reg) (m : MaskField) (nt u : Bool) (s : State) : Host.Outcome State Fault Refusal :=
  vecStore (.vsend vs a m nt u) .fabricRun vs a 0 m true s
/-- VSCATX (R232, R233). -/
def execVscatx (vs a b : Reg) (m : MaskField) (nt u : Bool) (s : State) : Host.Outcome State Fault Refusal :=
  vecStore (.vscatx vs a b m nt u) .fabricIndexed vs a b m true s
/-- VGATHX (R232, R233). -/
def execVgathx (vd a b : Reg) (m : MaskField) (ff nt u : Bool) (s : State) : Host.Outcome State Fault Refusal :=
  vecLoad (.vgathx vd a b m ff nt u) .fabricIndexed vd a b m ff nt s

end Sys2Proof.Machine
end

