-- ==== Sys2Proof/Machine/VectorMove.lean ====
section
/-! DEFINITION. Register moves, index generation, permutations and element extraction (R141 to R147). -/

namespace Sys2Proof.Machine

/-- A move's result: bits and mark, nothing consumed (R153). -/
def moved (v : Nat) (bad : Bool) : ElemRes := { val := v, bad := bad, flags := 0, consumes := false }

/-- Element `e` of a source group, with its mark. -/
def groupElem (g : Hart) (r w e : Nat) : Nat × Bool :=
  let c := g.capBits
  if (e + 1) * w ≤ c * g.grp then (elemAt g c r g.grp w e, elemBad g c r w e) else (0, false)

/-- An element-wise move: its checks, then its elements. `reads` names the chunk elements of a source register that a result element reads. -/
def vecMove (i : Instr) (vd : Reg) (srcs : List Opnd) (m : MaskField) (grant format : Hart → Bool) (res : Hart → Nat → Nat × Bool) (s : State)
    (reads : Nat → Nat → List Nat := fun _ e => [e]) : Host.Outcome State Fault Refusal :=
  .next (checked i s (fun s => held s (fun s =>
    let h := s.hart
    let ops := typeOpnd h vd.toNat false true :: srcs
    match vecCheck i h { grant := groupsFit ops && grant h, format := format h, rounds := false } (h.grp != 1) h.fmt ops with
    | some t => trapHere t s
    | none =>
      runElemWise
        { vd := vd.toNat, fmt := h.fmt, n := h.grp, len := h.vlv, ops := ops, act := fun e => h.selects m false e,
          res := fun g e => let r := res g e; moved r.1 r.2, reads := reads } s)))

/-- Not a block format. -/
def plainFmt (h : Hart) : Bool := !isBlock h.fmt

/-! ## Element-wise moves (R142) -/

/-- The companions of a copied block-format group: the scales of the blocks whose first element lies from `lo` on and below `f` and which `act`
selects, and for NL4B the superscales of such superblocks; the rest keep what they hold (R17, R141; log entry 68). `len` is the length of the
destination when the instruction completes, none when it is stopped. -/
def copyCompanions (g : Hart) (vd a lo f : Nat) (len : Option Nat) (sAt pAt : Nat → Nat) (act sup : Nat → Bool) (h : Hart) : Hart :=
  let fm := g.fmt
  let b := blockLen fm
  let c := g.capBits
  let put (h : Hart) (r rf w u : Nat) (on : Nat → Bool) (src : Nat → Nat × Bool) : Hart :=
    let span := match len with | some n => cdiv n u | none => c / w
    let d := mergeImg h r 1 w span (fun j => if on j && lo ≤ j * u && j * u < f then some (src j) else none)
    match len with
    | some n => writeGroup h c r rf (cdiv n u) d.1 d.2 1
    | none => writeStopped h c r rf (cdiv f u) d.1 d.2 1
  let h := put h (vd + g.grp) (scaleFmt fm) 8 b act (fun j => (elemAt g c (a + g.grp) 1 8 (sAt j), elemBad g c (a + g.grp) 8 (sAt j)))
  if fm = 0x16 then put h (vd + g.grp + 1) 0x05 32 superLen sup (fun k => (elemAt g c (a + g.grp + 1) 1 32 (pAt k), elemBad g c (a + g.grp + 1) 32 (pAt k)))
  else h

/-- VMV of a block format: active blocks with their scales, and active superblocks' superscales, from element VRI on (R127, R141, R335). -/
def moveBlocks (vd a : Nat) (m : MaskField) (s0 : State) : State :=
  let ops := [typeOpnd s0.hart vd false true, typeOpnd s0.hart a true false]
  match readySources s0 ops with
  | none => stall s0
  | some (s, g, cs) =>
    let h := s.hart
    let fm := h.fmt
    let b := blockLen fm
    let w := elemWidth fm
    let c := h.capBits
    let act := unitActive h m b
    let lo := h.vri.toNat
    let stop := firstFault (idxs h.vlv (fun e => lo ≤ e && act (e / b))) (chunksFault s cs)
    let f := match stop with | some (e, _) => e | none => h.vlv
    let d (n : Nat) : Nat × Nat := mergeImg h vd h.grp w n (fun e =>
      if act (e / b) && lo ≤ e && e < f then some (cleanElem fm (elemAt g c a h.grp w e), elemBad g c a w e) else none)
    let comps (len : Option Nat) : Hart → Hart := copyCompanions g vd a lo f len id id act (unitActive h m superLen)
    let s1 := touchChunks s cs (List.range f)
    match stop with
    | some (_, t) =>
      let r := d (c * h.grp / w)
      trapHere t (s1.withHart (comps none (writeStopped s1.hart c vd fm f r.1 r.2 h.grp)))
    | none =>
      let r := d h.vlv
      finishVec 0 (s1.withHart (comps (some h.vlv) (writeGroup (advanceChunks s s1.hart cs) c vd fm h.vlv r.1 r.2 h.grp)))

/-- VMV (R141, R142). -/
def execVmv (vd a : Reg) (m : MaskField) (s : State) : Host.Outcome State Fault Refusal :=
  if isBlock s.hart.fmt && !s.hart.vill then
    .next (held s (fun s =>
      let h := s.hart
      let ops := [typeOpnd h vd.toNat false true, typeOpnd h a.toNat true false]
      match vecCheck (.vmv vd a m) h { grant := groupsFit ops, format := true, rounds := false } (h.grp != 1) h.fmt ops with
      | some t => trapHere t s
      | none => moveBlocks vd.toNat a.toNat m s))
  else
    vecMove (.vmv vd a m) vd [typeOpnd s.hart a.toNat true false] m (fun _ => true) (fun _ => true)
      (fun g e => groupElem g a.toNat (elemWidth g.fmt) e) s

/-- VSPLAT (R142). -/
def execVsplat (vd a : Reg) (m : MaskField) (s : State) : Host.Outcome State Fault Refusal :=
  vecMove (.vsplat vd a m) vd [] m (fun _ => true) plainFmt (fun g _ => ((s.getX a).toNat % 2 ^ memWidth g.fmt, false)) s

/-- VID (R142). -/
def execVid (vd a : Reg) (m : MaskField) (s : State) : Host.Outcome State Fault Refusal :=
  vecMove (.vid vd a m) vd [] m (fun _ => true) (fun h => isInt h.fmt) (fun g e => (((s.getX a).toNat + e) % 2 ^ elemWidth g.fmt, false)) s

/-- VIOTA (R142). -/
def execViota (vd a : Reg) (m : MaskField) (s : State) : Host.Outcome State Fault Refusal :=
  vecMove (.viota vd a m) vd [] m (fun _ => true) (fun h => isInt h.fmt)
    (fun g e => (onesIn e (g.mask a.toNat % 2 ^ g.vlv) % 2 ^ elemWidth g.fmt, false)) s

/-- VSLIDEUP: elements below k keep their value (R142). -/
def execVslideup (vd a b : Reg) (m : MaskField) (s : State) : Host.Outcome State Fault Refusal :=
  let k := (s.getX b).toNat
  vecMove (.vslideup vd a b m) vd [typeOpnd s.hart a.toNat true false] m (fun h => !overlaps vd.toNat h.grp a.toNat h.grp) plainFmt
    (fun g e => groupElem g (if e < k then vd.toNat else a.toNat) (elemWidth g.fmt) (if e < k then e else e - k)) s
    (fun _ e => if e < k then [e] else [e, e - k])

/-- VSLIDEDN: every element reads before any writes (R142). -/
def execVslidedn (vd a b : Reg) (m : MaskField) (s : State) : Host.Outcome State Fault Refusal :=
  vecMove (.vslidedn vd a b m) vd [typeOpnd s.hart a.toNat true false] m (fun _ => true) plainFmt
    (fun g e => groupElem g a.toNat (elemWidth g.fmt) (e + (s.getX b).toNat)) s
    (fun _ e => [e, e + (s.getX b).toNat])

/-- VPERM: ix(e) read unsigned (R142). -/
def execVperm (vd a b : Reg) (m : MaskField) (s : State) : Host.Outcome State Fault Refusal :=
  let h := s.hart
  let tag := h.srcTag b.toNat
  let n := indexRegs h b.toNat
  let seen := withChunks s h (consumed h [indexOpnd h b.toNat])
  vecMove (.vperm vd a b m) vd [typeOpnd h a.toNat true false, indexOpnd h b.toNat] m
    (fun h => indexFits h b.toNat && !overlaps vd.toNat h.grp a.toNat h.grp && !overlaps vd.toNat h.grp b.toNat n)
    (fun h => plainFmt h && isInt tag)
    (fun g e => groupElem g a.toNat (elemWidth g.fmt) (indexBits g tag n b.toNat e)) s
    (fun r e => if r = a.toNat then [e, indexBits seen tag n b.toNat e] else [e])

/-! ## VCOMPRESS (R143) -/

/-- VCOMPRESS (R143): the active elements below VLV, packed from element 0; valid length is their number. Into a store stream it emits the packed
elements, and the position advances by VLV (R137 names n = VLV and active elements only: DESIGN CHOICE, log entry 84). -/
def execVcompress (vd a : Reg) (m : MaskField) (s : State) : Host.Outcome State Fault Refusal :=
  .next (checked (.vcompress vd a m) s (fun s => held s (fun s =>
    let h := s.hart
    let ops := [typeOpnd h vd.toNat false true, typeOpnd h a.toNat true false]
    match vecCheck (.vcompress vd a m) h { grant := groupsFit ops && !overlaps vd.toNat h.grp a.toNat h.grp, format := plainFmt h, rounds := false }
        (h.grp != 1) h.fmt ops with
    | some t => trapHere t s
    | none =>
      match readySources s ops with
      | none => stall s
      | some (s, g, cs) =>
        let w := elemWidth h.fmt
        let all := idxs h.vlv (fun e => h.selects m false e)
        let sb := h.storeBinding vd.toNat
        let ranked := all.zipIdx.filter (fun p => h.vri.toNat ≤ p.1)
        let stop := ranked.findSome? (fun p => match chunksFault s cs p.1 with
          | some t => some (p, t)
          | none => (emitFault s sb p.2).map (fun t => (p, { t with vri := some p.1 })))
        let cut := match stop with | some (p, _) => p.2 | none => all.length
        let src (k : Nat) : Nat × Bool := groupElem g a.toNat w ((all[k]?).getD 0)
        let low := match ranked.head? with | some p => p.2 | none => all.length
        let img (len : Nat) : Nat × Nat := mergeImg h vd.toNat h.grp w len (fun k => if low ≤ k ∧ k < cut then some (cleanElem h.fmt (src k).1, (src k).2) else none)
        let s1 := touchChunks s cs (all.take cut)
        let s1 := emitElems s1 sb ((List.range cut).filter (low ≤ ·)) src
        match stop with
        | some (_, t) =>
          let d := img (h.capBits * h.grp / w)
          trapHere t (s1.withHart (writeStopped s1.hart h.capBits vd.toNat h.fmt cut d.1 d.2 h.grp))
        | none =>
          let d := img all.length
          let h1 := advanceStore (writeGroup (advanceChunks s s1.hart cs) h.capBits vd.toNat h.fmt all.length d.1 d.2 h.grp) vd.toNat h.vlv
          finishVec 0 (s1.withHart h1))))

/-! ## Rows and columns (R144) -/

/-- The slice of the 2-D view: its length, and the position of slice element `k`, none where it reads zero (R19, R144). -/
def slicePos (col : Bool) (vlv j k : Nat) : Option Nat :=
  let rows := cdiv vlv 256
  if col then (if j < 256 ∧ k < rows then some (k * 256 + j) else none) else if j < rows then some (j * 256 + k) else none

/-- Slice element selection: without a mask every one, else the mask's bit, read below VLV (R20, R144). -/
def sliceSel (h : Hart) (m : MaskField) (k : Nat) : Bool := m == 0 || (k < h.vlv && (h.mask m.toNat).testBit k)

/-- The companions of an extracted slice of a block-format group, for the slice elements from `lo` on and below `f`: a row's blocks bring their scales
where the mask selects one of their elements (R17 says that companions are written and not which, DESIGN CHOICE, log entry 85); a column's elements
come from different blocks, and no rule gives the scales it gets (R17, R144; log entry 38). -/
def sliceCompanions (s : State) (g : Hart) (col : Bool) (vd a j n lo f : Nat) (sel : Nat → Bool) (len : Option Nat) (h : Hart) : Hart :=
  if !isBlock g.fmt then h
  else
    let on (u k : Nat) : Bool := (List.range (min u (n - k * u))).any (fun i => sel (k * u + i))
    let g' : Hart := if col then
        { g with v := g.v } |>.setV (a + g.grp) { (g.vreg (a + g.grp)) with
            img := pack 8 (cdiv n (blockLen g.fmt)) (fun k => Config.columnScale (s.fresh + k)), vlen := cdiv n (blockLen g.fmt), fmt := 0, poison := 0 }
          |>.setV (a + g.grp + 1) { (g.vreg (a + g.grp + 1)) with img := lowBits 32 (Config.columnScale (s.fresh + 65536)), vlen := 1, fmt := 5, poison := 0 }
      else g
    copyCompanions g' vd a lo f len (fun k => if col then k else j * 256 / blockLen g.fmt + k) (fun k => if col then k else j * 256 / superLen + k)
      (on (blockLen g.fmt)) (on superLen) h

/-- VMVR and VMVC (R144). The rows are those of VLV, as R144 has them; an element of a row from VLV up to VL reads as its register holds it, and only
columns beyond VL are missing (R19). -/
def vecSlice (i : Instr) (col : Bool) (vd a b : Reg) (m : MaskField) (ins : Bool) (s : State) : Host.Outcome State Fault Refusal :=
  .next (held s (fun s =>
    let h := s.hart
    let ops := [typeOpnd h vd.toNat false true, typeOpnd h a.toNat true false]
    match vecCheck i h { grant := groupsFit ops && h.v2d && !overlaps vd.toNat h.grp a.toNat h.grp,
                         format := !ins || plainFmt h, rounds := false } (h.grp != 1) h.fmt ops with
    | some t => trapHere t s
    | none =>
      let w := elemWidth h.fmt
      let j := (s.getX b).toNat
      if ins then
        let k (e : Nat) : Nat := if col then e / 256 else e % 256
        runElemWise
          { vd := vd.toNat, fmt := h.fmt, n := h.grp, len := h.vlv, ops := ops,
            act := fun e => (if col then e % 256 == j else e / 256 == j) && sliceSel h m (k e),
            res := fun g e => let r := groupElem g a.toNat w (k e); moved r.1 r.2, reads := fun _ e => [k e] } s
      else
        let n := if col then cdiv h.vlv 256 else 256
        let src (k : Nat) : Option Nat := (slicePos col h.vlv j k).filter (· < h.vlg)
        let seen := withChunks s h (consumed h ops)
        let s' := runElemWise
          { vd := vd.toNat, fmt := h.fmt, n := h.grp, len := n, ops := ops, act := sliceSel h m,
            res := fun g k => match src k with
              | some e => let r := groupElem g a.toNat w e; moved r.1 r.2
              | none => moved 0 false,
            reads := fun _ k => (src k).toList,
            also := fun f => sliceCompanions s seen col vd.toNat a.toNat j n h.vri.toNat f (sliceSel h m) (if f = n then some n else none) } s
        { s' with fresh := s'.fresh + 65537 }))

/-- VMVR (R144). -/
def execVmvr (vd a b : Reg) (m : MaskField) (ins : Bool) (s : State) : Host.Outcome State Fault Refusal := vecSlice (.vmvr vd a b m ins) false vd a b m ins s
/-- VMVC (R144). -/
def execVmvc (vd a b : Reg) (m : MaskField) (ins : Bool) (s : State) : Host.Outcome State Fault Refusal := vecSlice (.vmvc vd a b m ins) true vd a b m ins s

/-! ## VEXT, VRETAG, VRELEASE (R145 to R147) -/

/-- VEXT's register value: the raw bits, zero- or sign-extended (R145). -/
def extractValue (w : Nat) (signed : Bool) (v : Nat) : Word := if signed then BitVec.ofInt 64 (toSigned w v) else BitVec.ofNat 64 (v % 2 ^ w)

/-- VEXT (R145): it leaves VRI; a poisoned element is consumed, as x registers hold no mark (R418). -/
def execVext (d a b : Reg) (sx : Bool) (s : State) : Host.Outcome State Fault Refusal :=
  .next (held s (fun s =>
    let h := s.hart
    let ops := [typeOpnd h a.toNat true false]
    match vecCheck (.vext d a b sx) h { grant := groupsFit ops, format := plainFmt h, rounds := false } (h.grp != 1) h.fmt ops with
    | some t => trapHere t s
    | none =>
      match readySources s ops with
      | none => stall s
      | some (s, g, cs) =>
        match firstFault (List.range h.vlv) (chunksFault s cs) with
        | some (_, t) => trapHere { t with vri := none } s
        | none =>
          let w := elemWidth h.fmt
          let r := groupElem g a.toNat w (s.getX b).toNat
          if r.2 && h.ptrap then trapHere { poisonTrap 0 with vri := none } s
          else
            let s1 := (touchChunks s cs (List.range h.vlv)).withHart (advanceChunks s s.hart cs)
            finishFlags 4 (flagIf r.2 PSN) (s1.setX d (if r.2 then 0 else extractValue (memWidth h.fmt) sx r.1))))

/-- One register relaid out under a format in place (R146). -/
def retagReg (f : Nat) (v : VReg) : VReg :=
  let w := elemWidth f
  let ow := elemWidth v.fmt.toNat
  let n := cdiv v.tagBits w
  { v with img := v.valid, fmt := BitVec.ofNat 5 f, vlen := n, dirty := true, prog := n,
           poison := pack 1 n (fun e => if bitsAt (e * w / ow) (((e + 1) * w - 1) / ow - e * w / ow + 1) (v.poison % 2 ^ v.vlen) != 0 then 1 else 0) }

/-- The stream fault of R135 alone (R146): a bound register in a group. -/
def groupBoundCheck (h : Hart) (ops : List Opnd) : Option TrapReq :=
  streamCheck h (h.grp != 1) h.fmt (ops.map (fun o => { o with src := false, dst := false }))

/-- VRETAG (R146). -/
def execVretag (vd : Reg) (s : State) : Host.Outcome State Fault Refusal :=
  .next (held s (fun s =>
    let h := s.hart
    let ops := [typeOpnd h vd.toNat false false]
    match vecCheck (.vretag vd) h { grant := groupsFit ops, format := plainFmt h, rounds := false } (h.grp != 1) h.fmt ops with
    | some t => trapHere t s
    | none => finish 4 (s.withHart ((List.range h.grp).foldl (fun g k => g.setV (vd.toNat + k) (retagReg h.fmt (g.vreg (vd.toNat + k)))) h))))

/-- A register released: valid length, dirty bit and progress index 0 (R147). -/
def releaseReg (v : VReg) : VReg := { v with vlen := 0, dirty := false, prog := 0, poison := 0 }

/-- VRELEASE (R147): with ALL it works under VILL and clears the masks too. -/
def execVrelease (vd : Reg) (all : Bool) (s : State) : Host.Outcome State Fault Refusal :=
  .next (checked (.vrelease vd all) s (fun s => held s (fun s =>
    let h := s.hart
    if all then finish 4 (s.withHart { h with v := h.v.map releaseReg, m := Vector.replicate 7 0 })
    else if h.vill then trapHere (vtypeTrap h) s
    else if !groupFits vd.toNat h.grp (compCount h.fmt) then illegal (.vrelease vd all) s
    else finish 4 (s.withHart ((List.range h.grp).foldl (fun g k => g.setV (vd.toNat + k) (releaseReg (g.vreg (vd.toNat + k)))) h)))))

end Sys2Proof.Machine
end

