-- ==== Sys2Proof/Machine/VectorConv.lean ====
section
/-! DEFINITION. Conversions (R160 to R165, R50, R52) and reductions (R166, R167, R67 to R69). -/

namespace Sys2Proof.Machine

/-! ## Block conversions (R50, R52) -/

/-- |v| as a value. -/
def Val.abs : Val → Val | .nan s => .nan s | .inf _ => .inf false | .fin _ m e s => .fin false m e s

/-- The largest magnitude of a list of finite values; +0 for none. -/
def maxAbs (l : List Val) : Val := l.foldl (fun a v => if ltVal a v.abs then v.abs else a) (.fin false 0 0 false)

/-- floor(log2 v) of a nonzero value. -/
def floorLog2 : Val → Int | .fin _ m e _ => Nat.log2 m + e | _ => 0

/-- A value divided by 2^k. -/
def scaleDown (k : Int) : Val → Val | .fin n m e s => .fin n m (e - k) s | v => v

/-- emax of an MX format (R50). -/
def mxEmax (f : Nat) : Int := match f with | 0x14 | 0x12 => 2 | 0x13 => 4 | 0x10 => 8 | 0x11 => 15 | _ => 0

/-- A block converted: its element codes, its scale, and its flags. -/
structure BlockOut where
  codes : List Nat
  scale : Nat
  flags : BitVec 7
  deriving DecidableEq, Repr

/-- One element of an MX block: the exact scaled value rounded into the element format, or MXINT8's clamp (R49, R50). -/
def mxElem (f rm z : Nat) (y : Val) : Nat × BitVec 7 :=
  if f = 0x15 then
    match y with
    | .fin n m e more =>
      let (v, inexact) := roundInt rm z n m (e + 6) more
      let c := if v > 127 then 127 else if v < -127 then -127 else v
      (wrapInt 8 c, flagIf (c != v) SAT ||| flagIf inexact NX)
    | _ => (0, 0)
  else match y with
    | .fin n m e more => roundFin (elemFmt f) rm true z n m e more
    | _ => (0, 0)

/-- A block into an MX format (R50); `z i` is the random word of its element `i`. -/
def mxBlock (f rm : Nat) (z : Nat → Nat) (xs : List Val) : BlockOut :=
  if xs.any (fun v => match v with | .fin _ _ _ _ => false | _ => true) then
    { codes := xs.map (fun _ => 0), scale := 0xFF, flags := flagIf (xs.any (fun v => match v with | .inf _ => true | .nan s => s | _ => false)) NV }
  else
    let amax := maxAbs xs
    if amax.isZero then { codes := xs.map (fun v => if f = 0x15 then 0 else signBit (elemFmt f) v.neg), scale := 0, flags := 0 }
    else
      let x : Int := max 0 (min 254 (floorLog2 amax - mxEmax f + 127))
      let r := xs.zipIdx.map (fun p => mxElem f rm (z p.2) (scaleDown (x - 127) p.1))
      { codes := r.map Prod.fst, scale := x.toNat, flags := r.foldl (fun a p => a ||| p.2) 0 }

/-- An exact comparison a × c ≤ b × d of nonnegative finite values with integer factors. -/
def leScaled (a : Val) (c : Nat) (b : Val) (d : Nat) : Bool :=
  match a, b with
  | .fin _ m e _, .fin _ n g _ => let l := min e g; (m * c) <<< (e - l).toNat ≤ (n * d) <<< (g - l).toNat
  | _, _ => false

/-- q of a block: the least q from 0 to 255 with 256 × b ≤ (q + 1) × S, which is clamp(ceil(256 × b / S) − 1) (R52). -/
def nl4Scale (b s : Val) : Nat := if b.isZero then 0 else ((List.range 256).find? (fun q => leScaled b 256 s (q + 1))).getD 255

/-- The eight magnitudes × 1,024 of the codebook, rising (R51). -/
def nl4Levels : List Nat := [43, 130, 221, 318, 426, 556, 724, 1024]

/-- NearestLevel (R52) of |x| / f with f = (q + 1) / 256 × S: the index of the level chosen. All comparisons are exact: |x| × 1,024 × 256 against
level × (q + 1) × S. -/
def nl4Nearest (rm z q : Nat) (x s : Val) : Nat :=
  let k := 262144
  -- |y| ≥ level t  ⇔  t × (q + 1) × S ≤ |x| × 2^18
  let atLeast (t2 : Nat) : Bool := leScaled s (t2 * (q + 1)) x (2 * k)   -- t2 is twice the level
  match (List.range 8).reverse.find? (fun i => atLeast (2 * (nl4Levels[i]?).getD 0)) with
  | none => 0
  | some 7 => 7
  | some i =>
    let lo := (nl4Levels[i]?).getD 0
    let hi := (nl4Levels[i + 1]?).getD 0
    if rm = 5 then
      -- Z / 2^32 < (|y| − lo) / (hi − lo)  ⇔  (Z × (hi − lo) + lo × 2^32) × (q + 1) × S < |x| × 2^18 × 2^32
      (if !leScaled x (k * 2 ^ 32) s ((z * (hi - lo) + lo * 2 ^ 32) * (q + 1)) then i + 1 else i)
    else
      -- nearer of the two, a tie to the smaller: hi when |y| > (lo + hi) / 2
      (if !leScaled x (2 * k) s ((lo + hi) * (q + 1)) then i + 1 else i)

/-- A superblock into NL4B (R52): element codes, block scales, superscale and flags. -/
structure SuperOut where
  codes : List Nat
  scales : List Nat
  super : Nat
  flags : BitVec 7
  deriving DecidableEq, Repr

/-- An NL4B superblock (R52); an element that is not `valid` reads +0 and sets no flag (R70). -/
def nl4Super (rm : Nat) (z : Nat → Nat) (valid : Nat → Bool) (xs : List Val) : SuperOut :=
  let nb := cdiv xs.length 64
  if xs.any (fun v => match v with | .fin _ _ _ _ => false | _ => true) then
    { codes := xs.map (fun _ => 8), scales := List.replicate nb 0, super := canonicalNan 0x05,
      flags := flagIf (xs.any (fun v => match v with | .inf _ => true | .nan s => s | _ => false)) NV }
  else
    let s := maxAbs xs
    if s.isZero then { codes := xs.map (fun v => if v.neg then 7 else 8), scales := List.replicate nb 0, super := 0, flags := 0 }
    else
      let qs := (List.range nb).map (fun j => nl4Scale (maxAbs ((xs.drop (64 * j)).take 64)) s)
      let r := xs.zipIdx.map (fun p =>
        let q := (qs[p.2 / 64]?).getD 0
        let i := nl4Nearest rm (z p.2) q p.1.abs s
        let lv := (nl4Levels[i]?).getD 0
        -- NX: level × f ≠ |x|
        let exact := leScaled s (lv * (q + 1)) p.1.abs 262144 && leScaled p.1.abs 262144 s (lv * (q + 1))
        (if p.1.neg then 7 - i else 8 + i, flagIf (!exact && valid p.2) NX))
      { codes := r.map Prod.fst, scales := qs, super := (roundVal 0x05 0 false 0 s).1, flags := r.foldl (fun a p => a ||| p.2) 0 }

/-! ## Sources and shapes (R160) -/

/-- Gs: registers of a side of a conversion that holds VL elements of a format (R160). -/
def sideRegs (h : Hart) (f : Nat) : Nat := regsFor h.capBits (h.vlg * elemWidth f)

/-- The source operand of a conversion, under its own tag. -/
def convSrc (h : Hart) (r : Nat) : Opnd :=
  let t := h.srcTag r
  { base := r, n := sideRegs h t, comp := compCount t, src := true, dst := false }

/-- Two operands share a register, companions included. -/
def opndsOverlap (x y : Opnd) : Bool := overlaps x.base (x.n + x.comp) y.base (y.n + y.comp)

/-- The exact value of source element `e` under its tag, its block's scale included, its mark, and whether it lies below the valid bits (R47, R48, R161). Under
a NaN scale an element is the canonical NaN whatever its code, and so no signalling one (DEDUCED, log entry 86). -/
def convVal (g : Hart) (r tag n e : Nat) : Val × Bool × Bool :=
  let w := elemWidth tag
  let c := g.capBits
  let v := decodeVal tag (elemAt g c r n w e)
  let bad := elemBad g c r w e
  let valid := elemValid g c r w e
  if isBlock tag then
    let j := e / blockLen tag
    let x := elemAt g c (r + n) 1 8 j
    let bad := bad || elemBad g c (r + n) 8 j
    if x = 255 then (.nan false, bad, valid) else (scaleDown (127 - (x : Int)) v, bad, valid)
  else (v, bad, valid)

/-- The origin of a conversion's draws: its x operand, or the fallback of R152 when b names x0 (R160). -/
def convOrigin (s : State) (vd : Nat) (b : Reg) : Nat := if b = 0 then drawOrigin s.hart vd else (s.getX b).toNat

/-- A conversion whose destination is no block format: one element after another. -/
def convElems (s : State) (vd : Nat) (ops : List Opnd) (m : MaskField) (neg : Bool) (bad : Hart → Nat → Bool) (res : Hart → Nat → Nat × BitVec 7) : State :=
  let h := s.hart
  runElemWise
    { vd := vd, fmt := h.fmt, n := h.grp, len := h.vlv, ops := ops, act := fun e => h.selects m neg e,
      res := fun g e => if bad g e then { val := poisonedBits s e, bad := true, flags := 0, consumes := true }
        else let r := res g e; { val := r.1, bad := false, flags := r.2, consumes := false } } s

/-- A unit of a block conversion: first element, element codes, scales from a first index, and for NL4B the superscale. -/
structure UnitOut where
  codes : List Nat
  scales : List Nat
  super : Nat
  flags : BitVec 7
  bad : Bool
  deriving DecidableEq, Repr

/-- A conversion into a block format (R50, R52, R165): `u` elements to a unit; a unit is active when any of its elements is, and every element of it
below VLV is converted. Faults and VRI stand at the first element of a unit; a poisoned element poisons its whole unit. -/
def convBlocks (s0 : State) (vd : Nat) (ops : List Opnd) (m : MaskField) (neg : Bool) (u : Nat) (unit : Hart → Nat → UnitOut) : State :=
  match readySources s0 ops with
  | none => stall s0
  | some (s, g, cs) =>
    let h := s.hart
    let fm := h.fmt
    let b := blockLen fm
    let w := elemWidth fm
    let c := h.capBits
    let len := h.vlv
    let act (k : Nat) : Bool := (List.range (min u (len - k * u))).any (fun i => h.selects m neg (k * u + i))
    let units := (List.range (cdiv len u)).filter (fun k => h.vri.toNat ≤ k * u && act k)
    let outs : List (Nat × UnitOut) := units.map (fun k => (k, unit g k))
    let stop : Option (Nat × TrapReq) := outs.findSome? (fun (p : Nat × UnitOut) =>
      match (List.range (min u (len - p.1 * u))).findSome? (fun i => chunksFault s cs (p.1 * u + i)) with
      | some t => some (p.1, { t with vri := some (p.1 * u) })
      | none => if h.ptrap && p.2.bad then some (p.1, poisonTrap (p.1 * u)) else none)
    let done : List (Nat × UnitOut) := match stop with | some (k, _) => outs.filter (fun p => p.1 < k) | none => outs
    let flags := done.foldl (fun a (p : Nat × UnitOut) => a ||| p.2.flags ||| flagIf p.2.bad PSN) 0
    let find (k : Nat) : Option UnitOut := (done.find? (fun p => p.1 == k)).map Prod.snd
    let per := u / b
    let elem (e : Nat) : Option (Nat × Bool) := (find (e / u)).bind (fun o => (o.codes[e % u]?).map (fun v => (v, o.bad)))
    let scale (j : Nat) : Option (Nat × Bool) := (find (j / per)).bind (fun o => (o.scales[j % per]?).map (fun v => (v, o.bad)))
    let super (k : Nat) : Option (Nat × Bool) := (find k).map (fun o => (o.super, o.bad))
    let s1 := touchChunks s cs (List.range len)
    match stop with
    | some (k, t) =>
      let d := mergeImg h vd h.grp w (c * h.grp / w) elem
      let sc := mergeImg h (vd + h.grp) 1 8 (c / 8) scale
      let h1 := writeStopped s1.hart c vd fm (k * u) d.1 d.2 h.grp
      let h1 := writeStopped h1 c (vd + h.grp) (scaleFmt fm) (k * per) sc.1 sc.2 1
      let h1 := if fm = 0x16 then
          let sp := mergeImg h (vd + h.grp + 1) 1 32 (c / 32) super
          writeStopped h1 c (vd + h.grp + 1) 0x05 k sp.1 sp.2 1
        else h1
      trapHere t (s1.withHart (h1.raise flags))
    | none =>
      let d := mergeImg h vd h.grp w len elem
      let sc := mergeImg h (vd + h.grp) 1 8 (cdiv len b) scale
      let h1 := writeGroup (advanceChunks s s1.hart cs) c vd fm len d.1 d.2 h.grp
      let h1 := writeGroup h1 c (vd + h.grp) (scaleFmt fm) (cdiv len b) sc.1 sc.2 1
      let h1 := if fm = 0x16 then
          let sp := mergeImg h (vd + h.grp + 1) 1 32 (cdiv len superLen) super
          writeGroup h1 c (vd + h.grp + 1) 0x05 (cdiv len superLen) sp.1 sp.2 1
        else h1
      finishVec flags (s1.withHart h1)

/-- A unit of elements from a value function, converted by R50 or R52. A poisoned unit keeps the bits the conversion gives its stored values, and sets
PSN alone: its scale, and with it every rounding, comes from the poison (R72, R165; DESIGN CHOICE, log entry 87). -/
def convUnit (g : Hart) (fm rm : Nat) (origin dom u k : Nat) (val : Nat → Val × Bool × Bool) : UnitOut :=
  let n := min u (g.vlv - k * u)
  let vs := (List.range n).map (fun i => val (k * u + i))
  let xs := vs.map (·.1)
  let bad := vs.any (·.2.1)
  let z (i : Nat) : Nat := drawFor g rm origin dom (k * u + i)
  if fm = 0x16 then
    let o := nl4Super rm z (fun i => (vs[i]?).any (·.2.2)) xs
    { codes := o.codes, scales := o.scales, super := o.super, flags := if bad then 0 else o.flags, bad := bad }
  else
    let o := mxBlock fm rm z xs
    { codes := o.codes, scales := [o.scale], super := 0, flags := if bad then 0 else o.flags, bad := bad }

/-! ## VCVT (R161) -/

/-- How a legal pair of R161 converts. -/
inductive CvtKind where
  /-- Sign- or zero-extension of an integer. -/
  | widen
  /-- Low bits of an integer, or a signed clamp. -/
  | narrow
  /-- Exact. -/
  | exact
  /-- Rounded. -/
  | round
  /-- Into an MX format. -/
  | block
  /-- MXFP4 to MXFP8E4: elements exact, scales copied. -/
  | copyScales
  deriving DecidableEq, Repr

/-- The pairs of R161; every other pair is none. -/
def cvtKind (t f : Nat) : Option CvtKind :=
  let small (x : Nat) : Bool := 0x08 ≤ x && x ≤ 0x0B
  let half (x : Nat) : Bool := x == 0x06 || x == 0x07
  let mx8 (x : Nat) : Bool := (0x10 ≤ x && x ≤ 0x13) || x == 0x15
  if isInt t && isInt f then
    (if elemWidth f = 2 * elemWidth t then some .widen else if elemWidth t = 2 * elemWidth f then some .narrow else none)
  else if (t == 5 && f == 4) || (half t && f == 5) || (small t && half f) || (t == 0x0C && f == 0x08) then some .exact
  else if (t == 4 && f == 5) || (t == 5 && half f) || (half t && small f) || (t == 0x08 && f == 0x0C) || (mx8 t && half f) then some .round
  else if (half t && mx8 f) || (t == 0x10 && f == 0x14) then some .block
  else if t == 0x14 && f == 0x10 then some .copyScales
  else none

/-- One element of a VCVT that makes no block. -/
def cvtElem (kind : CvtKind) (t f rm z : Nat) (sel : Bool) (bits : Nat) (v : Val) : Nat × BitVec 7 :=
  match kind with
  | .widen => (if sel then bits else wrapInt (elemWidth f) (toSigned (elemWidth t) bits), 0)
  | .narrow => if sel then wrapOrSat true (elemWidth f) (toSigned (elemWidth t) bits) else (bits % 2 ^ elemWidth f, 0)
  | _ => roundOp f rm sel z (v, flagIf v.isSig NV)

/-- VCVT (R160, R161). -/
def execVcvt (vd a b : Reg) (m : MaskField) (neg sel : Bool) (s : State) : Host.Outcome State Fault Refusal :=
  .next (checked (.vcvt vd a b m neg sel) s (fun s => held s (fun s =>
    let h := s.hart
    let t := h.srcTag a.toNat
    let f := h.fmt
    let src := convSrc h a.toNat
    let dst := typeOpnd h vd.toNat false true
    let kind := cvtKind t f
    let rounds := kind == some .round || kind == some .block
    match vecCheck (.vcvt vd a b m neg sel) h
        { grant := groupsFit [dst, src] && !opndsOverlap dst src, format := kind.isSome && src.n ≤ 8, rounds := rounds }
        (h.grp != 1) f [dst, src] with
    | some t => trapHere t s
    | none =>
      let rm := h.vrm.getD 0
      let origin := convOrigin s vd.toNat b
      let k := kind.getD .exact
      match k with
      | .block => convBlocks s vd.toNat [dst, src] m neg (blockLen f)
          (fun g j => convUnit g f rm origin 0 (blockLen f) j (convVal g a.toNat t src.n))
      | .copyScales => convBlocks s vd.toNat [dst, src] m neg (blockLen f)
          (fun g j =>
            let n := min 32 (g.vlv - j * 32)
            let vs := (List.range n).map (fun i => convVal g a.toNat t src.n (j * 32 + i))
            { codes := (List.range n).map (fun i => (roundVal 0x08 0 false 0 (decodeVal t (elemAt g g.capBits a.toNat src.n 4 (j * 32 + i)))).1),
              scales := [elemAt g g.capBits (a.toNat + src.n) 1 8 j], super := 0, flags := 0, bad := vs.any (·.2.1) })
      | k => convElems s vd.toNat [dst, src] m neg (fun g e => (convVal g a.toNat t src.n e).2.1)
          (fun g e =>
            let v := convVal g a.toNat t src.n e
            let r := cvtElem k t f rm (drawFor g rm origin 0 e) sel (elemAt g g.capBits a.toNat src.n (elemWidth t) e) v.1
            (r.1, if v.2.2 then r.2 else 0)))))

/-! ## VCVTI, VCVTF4, VQSCALE (R162 to R164) -/

/-- The pairs of R162. -/
def cvtiOk (t f : Nat) : Bool :=
  ((isInt t && isFloat f) || (isFloat t && isInt f))
    && (elemWidth t == elemWidth f || elemWidth t == 2 * elemWidth f || elemWidth f == 2 * elemWidth t)

/-- One element of VCVTI (R56, R162). -/
def cvtiElem (t f rm z : Nat) (uns : Bool) (bits : Nat) : Nat × BitVec 7 :=
  if isInt t then roundVal f rm false z (valInt (intOf uns (elemWidth t) bits))
  else
    let w := elemWidth f
    let r := if uns then toIntRange rm z 0 (2 ^ w - 1) (decodeVal t bits) else toIntRange rm z (-(2 ^ (w - 1) : Int)) (2 ^ (w - 1) - 1) (decodeVal t bits)
    (wrapInt w r.1, r.2)

/-- VCVTI (R160, R162). -/
def execVcvti (vd a b : Reg) (m : MaskField) (neg uns : Bool) (s : State) : Host.Outcome State Fault Refusal :=
  .next (checked (.vcvti vd a b m neg uns) s (fun s => held s (fun s =>
    let h := s.hart
    let t := h.srcTag a.toNat
    let f := h.fmt
    let src := convSrc h a.toNat
    let dst := typeOpnd h vd.toNat false true
    let same := vd = a && src.n == dst.n && elemWidth t == elemWidth f
    match vecCheck (.vcvti vd a b m neg uns) h
        { grant := groupsFit [dst, src] && (same || !opndsOverlap dst src), format := cvtiOk t f && src.n ≤ 8, rounds := true }
        (h.grp != 1) f [dst, src] with
    | some t => trapHere t s
    | none =>
      let rm := h.vrm.getD 0
      let origin := convOrigin s vd.toNat b
      convElems s vd.toNat [dst, src] m neg (fun g e => (convVal g a.toNat t src.n e).2.1)
        (fun g e =>
          let r := cvtiElem t f rm (drawFor g rm origin 0 e) uns (elemAt g g.capBits a.toNat src.n (elemWidth t) e)
          (r.1, if (convVal g a.toNat t src.n e).2.2 then r.2 else 0)))))

/-- VCVTF4 (R160, R163). -/
def execVcvtf4 (vd a b : Reg) (m : MaskField) (neg : Bool) (s : State) : Host.Outcome State Fault Refusal :=
  .next (checked (.vcvtf4 vd a b m neg) s (fun s => held s (fun s =>
    let h := s.hart
    let t := h.srcTag a.toNat
    let f := h.fmt
    let src := convSrc h a.toNat
    let dst := typeOpnd h vd.toNat false true
    match vecCheck (.vcvtf4 vd a b m neg) h
        { grant := groupsFit [dst, src] && !opndsOverlap dst src,
          format := t == 0x05 && (f == 0x0C || f == 0x14 || f == 0x16) && src.n ≤ 8, rounds := true }
        (h.grp != 1) f [dst, src] with
    | some t => trapHere t s
    | none =>
      let rm := h.vrm.getD 0
      let origin := convOrigin s vd.toNat b
      if isBlock f then
        let u := if f = 0x16 then superLen else 32
        convBlocks s vd.toNat [dst, src] m neg u (fun g j => convUnit g f rm origin (if f = 0x16 then 2 else 0) u j (convVal g a.toNat t src.n))
      else convElems s vd.toNat [dst, src] m neg (fun g e => (convVal g a.toNat t src.n e).2.1)
        (fun g e =>
          let v := convVal g a.toNat t src.n e
          let r := roundOp f rm true (drawFor g rm origin 0 e) (v.1, flagIf v.1.isSig NV)
          (r.1, if v.2.2 then r.2 else 0)))))

/-- One element of VQSCALE (R164). -/
def qscaleElem (f rm z : Nat) (x sc : Val) : Nat × BitVec 7 :=
  let p := (mulVal x sc).1
  if isInt f then
    let w := elemWidth f
    let hi : Int := 2 ^ (w - 1) - 1
    match p with
    | .nan _ => (0, NV)
    | .inf n => (wrapInt w (if n then -hi else hi), SAT)
    | .fin n m e more =>
      let (v, inexact) := roundInt rm z n m e more
      let c := if v > hi then hi else if v < -hi then -hi else v
      (wrapInt w c, flagIf (c != v) SAT ||| flagIf inexact NX)
  else match p with
    | .nan _ => (canonicalNan f, NV)
    | p => roundVal f rm true z p

/-- VQSCALE (R160, R164). -/
def execVqscale (vd a b : Reg) (m : MaskField) (neg vx : Bool) (s : State) : Host.Outcome State Fault Refusal :=
  .next (checked (.vqscale vd a b m neg vx) s (fun s => held s (fun s =>
    let h := s.hart
    let t := h.srcTag a.toNat
    let f := h.fmt
    let src := convSrc h a.toNat
    let dst := typeOpnd h vd.toNat false true
    let sc : Opnd := { base := b.toNat, n := sideRegs h 0x05, comp := 0, src := true, dst := false }
    let ops := if vx then [dst, src] else [dst, src, sc]
    match vecCheck (.vqscale vd a b m neg vx) h
        { grant := groupsFit ops && !opndsOverlap dst src && (vx || !opndsOverlap dst sc),
          format := (t == 5 || t == 6 || t == 7) && (f < 3 || (6 ≤ f && f ≤ 9)) && src.n ≤ 8 && (vx || sc.n ≤ 8), rounds := true }
        (h.grp != 1) f ops with
    | some t => trapHere t s
    | none =>
      let rm := h.vrm.getD 0
      let origin := drawOrigin h vd.toNat
      let c := h.capBits
      convElems s vd.toNat ops m neg (fun g e => (convVal g a.toNat t src.n e).2.1 || (!vx && elemBad g c b.toNat 32 e))
        (fun g e =>
          let v := convVal g a.toNat t src.n e
          let k := decodeVal 0x05 (if vx then (s.getX b).toNat % 2 ^ 32 else elemAt g c b.toNat sc.n 32 e)
          let r := qscaleElem f rm (drawFor g rm origin 0 e) v.1 k
          (r.1, if v.2.2 && (vx || elemValid g c b.toNat 32 e) then r.2 else 0)))))

/-! ## Reductions (R166, R167) -/

/-- A running value of a reduction: its code, whether poison entered it, and the flags of its roundings over unpoisoned values (R70, R72). -/
structure RedVal where
  code : Nat
  bad : Bool
  flags : BitVec 7
  deriving DecidableEq, Repr

/-- Two values combined: a rounding that poison enters sets no flag of its own (log entry 87). -/
def RedVal.join (add : Nat → Nat → Nat × BitVec 7) (x y : RedVal) : RedVal :=
  let z := add x.code y.code
  { code := z.1, bad := x.bad || y.bad, flags := x.flags ||| y.flags ||| (if x.bad || y.bad then 0 else z.2) }

/-- A node of VREDSUM's tree: `d` levels above the leaves, over elements from `base`; none where no leaf holds a value (R68). -/
def redTree (leaf : Nat → Option RedVal) (add : Nat → Nat → Nat × BitVec 7) : Nat → Nat → Option RedVal
  | 0, base => leaf base
  | d + 1, base =>
    match redTree leaf add d base, redTree leaf add d (base + 2 ^ d) with
    | some x, some y => some (x.join add y)
    | some x, none => some x
    | none, y => y

/-- How a reduction combines: element by element from the initial value, or over the tree (R67, R68, R69). -/
inductive RedKind where
  | ordered | tree
  deriving DecidableEq, Repr

/-- What a reduction's entry fixes. -/
structure RedSpec where
  kind : RedKind
  resumes : Bool
  accept : Nat → Bool
  rounds : Nat → Bool
  add : Nat → Nat → Nat → Nat → Nat × BitVec 7

/-- A reduction's rounding code: floating-point sums refuse code 5 (R53, R166). -/
def redCodeOk (h : Hart) (sp : RedSpec) : Bool := !sp.rounds h.fmt || (match h.vrm with | some c => c != 5 | none => false)

/-- A reduction (R166, R167). The initial value's mark counts with the lowest active element (log entry 39). -/
def vecReduce (i : Instr) (vd a b : Reg) (m : MaskField) (neg vx : Bool) (sp : RedSpec) (s : State) : Host.Outcome State Fault Refusal :=
  .next (checked i s (fun s => held s (fun s =>
    let h := s.hart
    let o (r n comp : Nat) (src dst : Bool) : Opnd := { base := r, n := n, comp := comp, src := src, dst := dst }
    let ops := o vd.toNat 1 0 false true :: o a.toNat h.grp (compCount h.fmt) true false :: (if vx then [] else [o b.toNat 1 0 true false])
    let grant := groupFits a.toNat h.grp (compCount h.fmt) && !overlaps vd.toNat 1 a.toNat h.grp
    match (match vecCheck i h { grant := grant, format := sp.accept h.fmt, rounds := false } (h.grp != 1) h.fmt [] with
      | some t => some t
      | none => if redCodeOk h sp then streamCheck h (h.grp != 1) h.fmt ops else some (trapOf 0x00 (instrBits i))) with
    | some t => trapHere t s
    | none =>
      match readySources s ops with
      | none => stall s
      | some (s, g, cs) =>
        let f := h.fmt
        let w := elemWidth f
        let c := h.capBits
        let rm := h.vrm.getD 0
        let from' := if sp.resumes then h.vri.toNat else 0
        -- at or above VL a resumed reduction touches no element and keeps vd element 0 (R335)
        let resumed := h.vri.toNat > 0 && (sp.resumes || h.vri.toNat ≥ h.vlg)
        let act (e : Nat) : Bool := e < h.vlv && h.selects m neg e && !(resumed && !sp.resumes)
        let todo := idxs h.vlv (fun e => from' ≤ e && act e)
        let init := if resumed then elemAt g c vd.toNat 1 w 0 else operandB { g with vtype := g.vtype &&& 0xFFC7F } b.toNat (s.getX b) vx w 0
        let initBad := if resumed then elemBad g c vd.toNat w 0 else !vx && elemBad g c b.toNat w 0
        let badAt (e : Nat) : Bool := elemBad g c a.toNat w e || (initBad && todo.head? == some e)
        let sb := h.storeBinding vd.toNat
        let faultAt (e : Nat) : Option TrapReq := earliest [chunksFault s cs e, if h.ptrap && badAt e then some (poisonTrap e) else none]
        let stop := match firstFault todo faultAt with
          | some p => some p
          | none => (emitFault s sb 0).map (fun t => (0, t))
        let upto := match stop with | some (e, _) => e | none => h.vlv
        let used := todo.filter (· < upto)
        -- R70: VREDOS's flags come from its valid elements; the other orders raise none where no active element is valid (log entry 69)
        let valid (e : Nat) : Bool := elemValid g c a.toNat w e
        let leaf (e : Nat) : RedVal := { code := elemAt g c a.toNat h.grp w e, bad := elemBad g c a.toNat w e, flags := 0 }
        let start : RedVal := { code := init, bad := initBad, flags := 0 }
        let join (x y : RedVal) : RedVal := x.join (sp.add f rm) y
        let r : RedVal := match sp.kind with
          | .ordered => used.foldl (fun acc e => let z := join acc (leaf e); if sp.resumes && !valid e then { z with flags := acc.flags } else z) start
          | .tree => match redTree (fun e => if act e then some (leaf e) else none) (sp.add f rm) (clog2 h.vlg) 0 with
            | some x => join start x
            | none => start
        let consumed := used.any badAt
        let val := if consumed then poisonedBits s 0 else r.code
        let flags := flagIf consumed PSN ||| (if sp.resumes || used.any valid then r.flags else 0)
        let s1 := touchChunks s cs used
        match stop with
        | some (e, t) =>
          if sp.resumes && e > 0 then
            trapHere t (s1.withHart ((writeGroup s1.hart c vd.toNat f 1 val (if r.bad then 1 else 0) 1).raise flags))
          else trapHere t s1
        | none =>
          let s1 := emitElems s1 sb [0] (fun _ => (val, r.bad))
          let s1 := if consumed then { s1 with fresh := s1.fresh + 1 } else s1
          let h1 := advanceStore (writeGroup (advanceChunks s s1.hart cs) c vd.toNat f 1 (val % 2 ^ w) (if r.bad then 1 else 0) 1) vd.toNat h.vlv
          finishVec flags (s1.withHart h1))))

/-- Sum of two codes of a format: rounded, or wrapping (R67 to R69). -/
def redSum (f rm x y : Nat) : Nat × BitVec 7 :=
  if isInt f then ((x + y) % 2 ^ elemWidth f, 0) else roundOp f rm false 0 (addVal rm (decodeVal f x) (decodeVal f y))

/-- Maximum or minimum of two codes of a format (R63, R69). -/
def redPick (wantMax uns : Bool) (f x y : Nat) : Nat × BitVec 7 :=
  if isInt f then
    let w := elemWidth f
    let less := intOf uns w x ≤ intOf uns w y
    (if less == wantMax then y else x, 0)
  else fpMinMax f wantMax x y

/-- Formats of the arithmetic reductions (R166). -/
def redFmt (f : Nat) : Bool := f < 8

/-- VREDOS (R67, R166). -/
def execVredos (vd a b : Reg) (m : MaskField) (neg vx : Bool) (s : State) : Host.Outcome State Fault Refusal :=
  vecReduce (.vredos vd a b m neg vx) vd a b m neg vx { kind := .ordered, resumes := true, accept := isFloat, rounds := isFloat, add := redSum } s
/-- VREDSUM (R68, R166). -/
def execVredsum (vd a b : Reg) (m : MaskField) (neg vx : Bool) (s : State) : Host.Outcome State Fault Refusal :=
  vecReduce (.vredsum vd a b m neg vx) vd a b m neg vx { kind := .tree, resumes := false, accept := redFmt, rounds := isFloat, add := redSum } s
/-- VREDMAX (R69, R166). -/
def execVredmax (vd a b : Reg) (m : MaskField) (neg uns vx : Bool) (s : State) : Host.Outcome State Fault Refusal :=
  vecReduce (.vredmax vd a b m neg uns vx) vd a b m neg vx
    { kind := .ordered, resumes := false, accept := redFmt, rounds := fun _ => false, add := fun f _ x y => redPick true uns f x y } s
/-- VREDMIN (R69, R166). -/
def execVredmin (vd a b : Reg) (m : MaskField) (neg uns vx : Bool) (s : State) : Host.Outcome State Fault Refusal :=
  vecReduce (.vredmin vd a b m neg uns vx) vd a b m neg vx
    { kind := .ordered, resumes := false, accept := redFmt, rounds := fun _ => false, add := fun f _ x y => redPick false uns f x y } s
/-- VREDAND (R69, R166). -/
def execVredand (vd a b : Reg) (m : MaskField) (neg vx : Bool) (s : State) : Host.Outcome State Fault Refusal :=
  vecReduce (.vredand vd a b m neg vx) vd a b m neg vx
    { kind := .ordered, resumes := false, accept := isInt, rounds := fun _ => false, add := fun _ _ x y => (x &&& y, 0) } s
/-- VREDOR (R69, R166). -/
def execVredor (vd a b : Reg) (m : MaskField) (neg vx : Bool) (s : State) : Host.Outcome State Fault Refusal :=
  vecReduce (.vredor vd a b m neg vx) vd a b m neg vx
    { kind := .ordered, resumes := false, accept := isInt, rounds := fun _ => false, add := fun _ _ x y => (x ||| y, 0) } s
/-- VREDXOR (R69, R166). -/
def execVredxor (vd a b : Reg) (m : MaskField) (neg vx : Bool) (s : State) : Host.Outcome State Fault Refusal :=
  vecReduce (.vredxor vd a b m neg vx) vd a b m neg vx
    { kind := .ordered, resumes := false, accept := isInt, rounds := fun _ => false, add := fun _ _ x y => (x ^^^ y, 0) } s

end Sys2Proof.Machine
end

