-- ==== Sys2Proof/Machine/Canopy.lean ====
section
/-! DEFINITION. The canopy: its bytes and marks, its owner, and the load of a panel that MLDC, CANOPY LOAD and replay share (R190 to R193). -/

namespace Sys2Proof.Machine

/-! ## Bytes of the canopy (R183, R190) -/

/-- The place of byte `off` of slice `j`; offsets wrap modulo 65,536 (R183). -/
def canopyAt (j off : Nat) : Nat := j * 65536 + off % 65536

/-- The marks of `cnt` bits of slice `j` from bit `bit` above byte offset `base`: one for every two bits, which is what the widths of the matrix formats
share. -/
def canopyMarks (j base bit cnt : Nat) : List Nat :=
  (List.range ((cnt + 1) / 2)).map (fun i => 4 * canopyAt j (base + (bit + 2 * i) / 8) + (bit + 2 * i) % 8 / 2)

/-- The units of 64 bytes that hold `cnt` bits of slice `j` from bit `bit` above byte offset `base` (R413). -/
def canopyUnits (j base bit cnt : Nat) : List Nat := ((List.range ((bit % 8 + cnt + 7) / 8)).map (fun i => canopyAt j (base + bit / 8 + i) / 64)).eraseDups

/-- Whether a unit fails its check (R416). -/
def Bench.unitFails (b : Bench) (unit : Nat) : Bool := checkFails (memRead b.canopy (64 * unit) 64) (tget 0 b.canopyUpsets unit)

/-- Mark the 64 bytes of a unit. -/
def Bench.markUnit (b : Bench) (unit : Nat) : Bench := { b with canopyPoison := (List.range 256).foldl (fun l i => setIns l (256 * unit + i)) b.canopyPoison }

/-- `cnt` bits of slice `j` from bit `bit` above byte offset `base`, with whether any of them is marked or lies in a unit that fails its check. -/
def canopyBits (b : Bench) (j base bit cnt : Nat) : Nat × Bool :=
  let lo := bit / 8
  let n := (bit % 8 + cnt + 7) / 8
  let bytes := (List.range n).map (fun i => memGet b.canopy (canopyAt j (base + lo + i)))
  (bitsAt (bit % 8) cnt (ofBytes bytes), (canopyMarks j base bit cnt).any b.canopyPoison.contains || (!b.canopyUpsets.isEmpty && (canopyUnits j base bit cnt).any b.unitFails))

/-- Units are about to be written and get new check values: one that fails its old value takes marks first (R414; log entry 77). -/
def Bench.renewUnits (b : Bench) (units : List Nat) : Bench :=
  let b := (units.filter b.unitFails).foldl Bench.markUnit b
  { b with canopyUpsets := units.foldl tdel b.canopyUpsets }

/-- Write bits of a slice, with their marks. -/
def canopyPut (b0 : Bench) (j base bit cnt v : Nat) (bad : Bool) : Bench :=
  let b := if b0.canopyUpsets.isEmpty then b0 else b0.renewUnits (canopyUnits j base bit cnt)
  let lo := bit / 8
  let n := (bit % 8 + cnt + 7) / 8
  let mask := (2 ^ cnt - 1) <<< (bit % 8)
  let val := (v % 2 ^ cnt) <<< (bit % 8)
  let put (c : List Host.Cell) (i : Nat) : List Host.Cell :=
    let a := canopyAt j (base + lo + i)
    let k := bitsAt (8 * i) 8 mask
    memPut c a (BitVec.ofNat 8 (((memGet c a).toNat &&& (255 - k)) ||| (bitsAt (8 * i) 8 val &&& k)))
  { b with
    canopy := (List.range n).foldl put b.canopy,
    canopyPoison := (canopyMarks j base bit cnt).foldl (if bad then setIns else setDel) b.canopyPoison }

/-- Free a canopy: every byte +0 with no mark, no owner, an empty list of loads (R190, R193). -/
def Bench.freeCanopy (b : Bench) : Bench := 
  { b with canopy := [], canopyPoison := [], canopyUpsets := [], canopyOwner := none, loads := [], replays := [] }

/-- The first use of a free canopy makes a farm its owner (R190). -/
def Bench.takeCanopy (b : Bench) (farm : BitVec 16) : Bench :=
  match b.canopyOwner with
  | none => { b with canopyOwner := some farm, loads := [] }
  | some _ => b

/-- Whether a farm owns the canopy. -/
def Bench.ownsCanopy (b : Bench) (farm : BitVec 16) : Bool := b.canopyOwner == some farm

/-! ## Loading a panel (R191) -/

/-- One of the thirteen matrix formats (R179). -/
def matrixFmt (f : Nat) : Bool := f == 0 || (5 ≤ f && f ≤ 9) || (0x10 ≤ f && f ≤ 0x16)

/-- K of a geometry. -/
def CanopyRec.k (r : CanopyRec) : Nat := (r.geometry.extractLsb' 0 16).toNat
/-- CB of a geometry. -/
def CanopyRec.cb (r : CanopyRec) : Nat := (r.geometry.extractLsb' 16 16).toNat
/-- CS of a geometry. -/
def CanopyRec.cs (r : CanopyRec) : Nat := (r.geometry.extractLsb' 32 16).toNat
/-- CSS AND NOT 3 of a geometry. -/
def CanopyRec.css (r : CanopyRec) : Nat := (r.geometry.extractLsb' 48 16).toNat / 4 * 4
/-- Blocks of a column: ceil(K / B). -/
def CanopyRec.nb (r : CanopyRec) : Nat := cdiv r.k (blockLen r.fmt.toNat)
/-- How many rows (T = 0) or columns (T = 1) the source has. -/
def CanopyRec.outer (r : CanopyRec) : Nat := if r.tr then Config.mtlen else r.k
/-- Elements of one row or column of the source. -/
def CanopyRec.span (r : CanopyRec) : Nat := if r.tr then r.k else Config.mtlen
/-- Where the superscales begin. -/
def CanopyRec.supers (r : CanopyRec) : Word := r.scale + BitVec.ofNat 64 (4 * cdiv (r.nb * Config.mtlen) 4)

/-- What a run of source bytes holds. -/
inductive SegKind where
  | data | scales | super
  deriving DecidableEq, Repr

/-- A run of source bytes that a row or column needs. -/
structure Seg where
  kind : SegKind
  addr : Word
  n : Nat
  deriving DecidableEq, Repr

/-- The runs that row or column `o` needs: its elements, its blocks' scales, and the superscales. -/
def CanopyRec.segs (r : CanopyRec) (o : Nat) : List Seg :=
  let f := r.fmt.toNat
  let b := blockLen f
  let data : Seg := { kind := .data, addr := r.source + BitVec.ofNat 64 o * r.stride, n := (r.span * memWidth f + 7) / 8 }
  let scales : List Seg :=
    if !isBlock f then []
    else if r.tr then [{ kind := .scales, addr := r.scale + BitVec.ofNat 64 (o * r.nb), n := r.nb }]
    else if o % b = 0 then [{ kind := .scales, addr := r.scale + BitVec.ofNat 64 (o / b * Config.mtlen), n := Config.mtlen }] else []
  let super : List Seg :=
    if f ≠ 0x16 then []
    else if r.tr then [{ kind := .super, addr := r.supers + BitVec.ofNat 64 (4 * o), n := 4 }]
    else if o = 0 then [{ kind := .super, addr := r.supers, n := 4 * Config.mtlen }] else []
  data :: scales ++ super

/-- The misalignment of a load's operands, if any: the address at fault (R191). -/
def CanopyRec.misaligned (r : CanopyRec) : Option Word :=
  let w := memWidth r.fmt.toNat
  let n := w / 8
  if w % 8 = 0 ∧ r.source.toNat % n ≠ 0 then some r.source
  else if w % 8 = 0 ∧ r.stride.toNat % n ≠ 0 then some (r.source + r.stride)
  else if r.fmt = 0x16 ∧ r.supers.toNat % 4 ≠ 0 then some r.supers
  else none

/-- Write what one run brought into the canopy. -/
def putSeg (r : CanopyRec) (o : Nat) (kind : SegKind) (bs : List MarkedByte) (b : Bench) : Bench :=
  let w := memWidth r.fmt.toNat
  let img := ofBytes (bs.map Prod.fst)
  let marked (lo cnt : Nat) : Bool := ((bs.drop (lo / 8)).take ((lo % 8 + cnt + 7) / 8)).any Prod.snd
  match kind with
  | .data =>
    (List.range r.span).foldl (fun b e =>
      if r.tr then canopyPut b o r.cb (e * w) w (slot w e img) (marked (e * w) w)
      else canopyPut b e r.cb (o * w) w (slot w e img) (marked (e * w) w)) b
  | .scales =>
    (List.range bs.length).foldl (fun b e =>
      if r.tr then canopyPut b o (r.cs + e) 0 8 (slot 8 e img) (marked (8 * e) 8)
      else canopyPut b e (r.cs + o / blockLen r.fmt.toNat) 0 8 (slot 8 e img) (marked (8 * e) 8)) b
  | .super =>
    (List.range (bs.length / 4)).foldl (fun b e =>
      canopyPut b (if r.tr then o else e) r.css 0 32 (slot 32 e img) (marked (32 * e) 32)) b

/-- Why a row or column could not be loaded. -/
inductive LoadFault where
  | access (f : XFault) (a : Word)
  | remote (a : Word)
  deriving DecidableEq, Repr

/-- The key of the first byte of run number `i` of row or column `o`. -/
def segKey (o i : Nat) : Nat := (o * 4 + i) * 2 ^ 20

/-- The domain-address runs of the rows or columns from `start` on. -/
def remoteSegs (r : CanopyRec) (start : Nat) : List RemoteUnit :=
  (idxs r.outer (fun o => start ≤ o)).flatMap (fun o =>
    (r.segs o).zipIdx.flatMap (fun q => if isRemote q.1.addr then byteUnits (segKey o q.2) q.1.addr q.1.n else []))

/-- The bytes of one run. -/
def segBytesOf (s : State) (sp : Space) (ans : List (Nat × Answer)) (o i : Nat) (g : Seg) : Except LoadFault (List MarkedByte) :=
  if isRemote g.addr then
    (if remoteRefused s sp.part g.addr then .error (.remote g.addr)
     else match answeredBytes ans (segKey o i) g.addr g.n with
      | .error a => .error (.remote a)
      | .ok l => .ok l)
  else match agentBytes s sp g.addr g.n with
    | .error (f, a) => .error (.access f a)
    | .ok l => .ok l

/-- Load one row or column: all its runs, or none of it. -/
def loadRow (r : CanopyRec) (sp : Space) (bench : Nat) (ans : List (Nat × Answer)) (s : State) (o : Nat) : Except LoadFault State :=
  let got : Except LoadFault (List (Seg × List MarkedByte)) := (r.segs o).zipIdx.foldr (fun q acc =>
    match segBytesOf s sp ans o q.2 q.1 with
    | .error e => .error e
    | .ok l => match acc with
      | .error e => .error e
      | .ok t => .ok ((q.1, l) :: t)) (.ok [])
  match got with
  | .error e => .error e
  | .ok l =>
    let s := l.foldl (fun s q => if isRemote q.1.addr then s else agentPass s sp q.1.addr q.1.n false) s
    .ok (s.setBench bench (l.foldl (fun b q => putSeg r o q.1.kind q.2 b) (s.bench bench)))

/-- Load the rows or columns from `start` on, as far as the first fault. -/
def loadRows (r : CanopyRec) (sp : Space) (bench : Nat) (ans : List (Nat × Answer)) (start : Nat) (s : State) : State × Option (Nat × LoadFault) :=
  (idxs r.outer (fun o => start ≤ o)).foldl (fun (acc : State × Option (Nat × LoadFault)) o =>
    match acc.2 with
    | some _ => acc
    | none => match loadRow r sp bench ans acc.1 o with
      | .ok s => (s, none)
      | .error e => (acc.1, some (o, e))) (s, none)

/-- Record a completed load: the last 16 since the farm took ownership (R193). -/
def recordLoad (bench : Nat) (r : CanopyRec) (s : State) : State :=
  let b := s.bench bench
  let l := b.loads ++ [r]
  s.setBench bench { b with loads := l.drop (l.length - 16) }

/-- Replay one run of a recorded load: bytes it cannot read are written +0 with marks (R193). -/
def replaySeg (r : CanopyRec) (bench : Nat) (ans : List (Nat × Answer)) (o : Nat) (acc : State × Bool) (q : Seg × Nat) : State × Bool :=
  let s := acc.1
  match segBytesOf s r.space ans o q.2 q.1 with
  | .ok l =>
    let s := if isRemote q.1.addr then s else agentPass s r.space q.1.addr q.1.n false
    (s.setBench bench (putSeg r o q.1.kind l (s.bench bench)), acc.2)
  | .error e =>
    let s := match e with | .access f _ => noteAll s f.notes | .remote _ => s
    (s.setBench bench (putSeg r o q.1.kind (List.replicate q.1.n (0, true)) (s.bench bench)), true)

/-- The key of what a bench's loader awaits for a replay. -/
def replayKey (bench : Nat) : Nat := 4096 + bench

/-- The loader replays the oldest recorded load still to be replayed, once what it reads at domain addresses has come; one that meets a fault is reported
once, as a RAS event of type 7 (R193). -/
def replayNext (bench : Nat) (s : State) : State :=
  match (s.bench bench).replays with
  | [] => s
  | r :: rest =>
    let units := (remoteSegs r 0).filter (fun u => !remoteRefused s r.space.part u.addr)
    match agentRemote s (.engine (replayKey bench)) (replayKey bench) (requestsOf s r.space.part true .run 1 units) with
    | .waiting s => s
    | .answered s ans =>
      let (s, bad) := (List.range r.outer).foldl (fun acc o => (r.segs o).zipIdx.foldl (replaySeg r bench ans o) acc) (s, false)
      let s := if bad then s.report { typ := 7, unit := 5, index := bench, part := some r.space.part, addr := 0 } else s
      recordLoad bench r (s.setBench bench { s.bench bench with replays := rest })

end Sys2Proof.Machine
end

