-- ==== Sys2Proof/Machine/Matrix.lean ====
section
/-! DEFINITION. The matrix engine's instructions: tiles (R173 to R178), accumulation (R64 to R66, R179 to R189), canopy loads (R191), drains and checks
(R194 to R201). -/

namespace Sys2Proof.Machine

/-! ## Tiles -/

/-- Tile `t` of a bench. -/
def Bench.tile (b : Bench) (t : BitVec 2) : Tile := b.tiles[t.toNat]'(by have := t.isLt; omega)
/-- Replace tile `t` of a bench. -/
def Bench.setTile (b : Bench) (t : BitVec 2) (v : Tile) : Bench := { b with tiles := b.tiles.set t.toNat v (by have := t.isLt; omega) }

/-- The current hart's bench. -/
def State.myBench (s : State) : Bench := s.bench (benchOf s.hart.id)
/-- Replace the current hart's bench. -/
def State.setMyBench (s : State) (b : Bench) : State := s.setBench (benchOf s.hart.id) b

/-- Whether the current hart owns tile `t` of its bench. -/
def owns (s : State) (t : BitVec 2) : Bool := (s.myBench.tile t).owner == some s.hart.id

/-- The tiles a mask names, ascending (R178). -/
def tilesOf (tm : BitVec 4) : List (BitVec 2) := ((List.range 4).filter (fun i => tm.getLsbD i)).map (BitVec.ofNat 2)

/-- A tile cleared whole: zero accumulators of a kind, no marks, clear check state, PEND with it (R178, R199); MIS, SKIP, CNT and TEN stay (R200). -/
def Tile.clear (t : Tile) (int32 : Bool) : Tile :=
  { Tile.init with owner := t.owner, int32 := int32, mis := t.mis, ten := t.ten, skip := t.skip, cnt := t.cnt }

/-! ## The matrix queue (R173, R292) -/

/-- Wake the hart whose entry heads a bench's queue. -/
def wakeHead (bench : Nat) (s : State) : State :=
  match (s.bench bench).queue with
  | [] => s
  | p :: _ => s.updHart p.hart (fun h => if h.run == .asleep .matrix then { h with run := .ready } else h)

/-- Remove a hart's entries from its bench's queue and posting buffers (R173, R278). -/
def dropPosts (i : HartId) (s : State) : State :=
  let b := s.bench (benchOf i)
  if b.queue.all (fun p => p.hart != i) && b.posting.toList.all (fun p => match p with | some q => q.hart != i | none => true) then s
  else
    wakeHead (benchOf i) (s.setBench (benchOf i) { b with
      queue := b.queue.filter (fun p => p.hart != i), posting := b.posting.map (fun p => p.filter (fun q => q.hart != i)) })

/-- Whether the front end may post a matrix instruction of the current hart: the canopy it may read holds all that a replay puts there (R193). -/
def replaysDone (s : State) : Bool := s.myBench.replays.isEmpty || !s.myBench.ownsCanopy s.hart.farm

/-- Whether an instruction of the current hart has reached its end: it neither waits nor pauses. -/
def Hart.atEnd (h : Hart) : Bool := (match h.run with | .asleep _ => false | _ => true) && !h.stalled

/-- The current hart's entry, at the head of its bench's queue, is at the engine; it leaves when it has completed or trapped (R173, R292). -/
def atHead (me : MatrixPost) (k : State → State) (s : State) : State :=
  let r := k (s.withHart { s.hart with stalled := false })
  if r.hart.atEnd then
    let b := r.bench (benchOf me.hart)
    wakeHead (benchOf me.hart) (r.setBench (benchOf me.hart) { b with queue := b.queue.drop 1 })
  else r

/-- The current hart waits for its entry to reach the head. -/
def awaitHead (s : State) : State := s.withHart { s.hart with run := .asleep .matrix }

/-- A matrix instruction's way to the engine: the front end posts it once `ready` holds (R187, R193), and the queue executes one entry at a time in
arrival order (R173, R292). Where the machine models posting apart, it passes the core's posting buffer first; else it enters the queue at once
(log entry 5). -/
def queued (i : Instr) (ready : State → Bool) (s : State) (k : State → State) : State :=
  let b := s.myBench
  let me : MatrixPost := { hart := s.hart.id, instr := i }
  let core := s.hart.id.extractLsb' 2 2
  let slot := b.posting[core.toNat]'(by have := core.isLt; omega)
  if b.queue.head? == some me then atHead me k s
  else if b.queue.any (· == me) || slot == some me then awaitHead s
  else if !(ready s && replaysDone s) then stall s
  else if s.policy.queueMatrix then
    (if slot.isSome then stall s
     else awaitHead (s.setMyBench { b with posting := b.posting.set core.toNat (some me) (by have := core.isLt; omega) }))
  else if b.queue.isEmpty then
    let r := k s
    if r.hart.atEnd then r else r.setBench (benchOf me.hart) { r.bench (benchOf me.hart) with queue := [me] }
  else if b.queue.length ≥ Config.matrixQueueLen then stall s
  else awaitHead (s.setMyBench { b with queue := b.queue ++ [me] })

/-- A step of the table: the queue port takes one entry from the first core, after the one it last took from, whose posting buffer is full (R292). -/
def execMatrixQueueAccept (bench : Nat) (s : State) : Host.Outcome State Fault Refusal :=
  .next (
    let b := s.bench bench
    let slot (c : Nat) : Option MatrixPost := (b.posting.toList[c]?).join
    if b.queue.length ≥ Config.matrixQueueLen then s
    else match ((List.range 4).map (fun i => (b.lastCore + 1 + i) % 4)).find? (fun c => (slot c).isSome) with
      | none => s
      | some c => match slot c with
        | none => s
        | some p =>
          wakeHead bench (s.setBench bench { b with
            queue := b.queue ++ [p], lastCore := c, posting := b.posting.mapIdx (fun i q => if i == c then none else q) }))

/-! ## Checks (R176) -/

/-- The checks of a matrix instruction after its bits: granted positions, format and shape, a bad rounding code, tiles, kind (R176, R445). -/
structure MCheck where
  grant : Bool := true
  format : Bool := true
  round : Bool := true
  tiles : List (BitVec 2) := []
  kind : Bool := true
  deriving DecidableEq, Repr

/-- The first check that fails, if any. -/
def matrixCheck (i : Instr) (s : State) (c : MCheck) : Option TrapReq :=
  let h := s.hart
  if h.vill then some (vtypeTrap h)
  else if !c.grant then some (trapOf 0x00 (instrBits i))
  else if !c.format then some (vtypeTrap h)
  else if !c.round then some (trapOf 0x00 (instrBits i))
  else match c.tiles.find? (fun t => !owns s t) with
    | some t => some (trapOf 0x0F (t.zeroExtend 64))
    | none => if !c.kind then some (vtypeTrap h) else none

/-- A matrix instruction: legal bits, drawers at rest, its place in the queue, its checks, then its effect. -/
def matrixStep (i : Instr) (s : State) (c : State → MCheck) (k : State → State) (ready : State → Bool := fun _ => true) :
    Host.Outcome State Fault Refusal :=
  .next (checked i s (fun s => held s (fun s => queued i ready s (fun s =>
    match matrixCheck i s (c s) with
    | some t => trapHere t s
    | none => k s))))

/-! ## MACQ, MREL, MZERO, MTRD, MCHK -/

/-- All ones. -/
def noTile : Word := 0xFFFF_FFFF_FFFF_FFFF

/-- MACQ (R177). -/
def execMacq (d : Reg) (any : Bool) (t : BitVec 2) (s : State) : Host.Outcome State Fault Refusal :=
  matrixStep (.macq d any t) s (fun _ => {}) (fun s =>
    let b := s.myBench
    let pick : Option (BitVec 2) := if any then ((List.range 4).map (BitVec.ofNat 2)).find? (fun k => (b.tile k).owner.isNone) else some t
    match pick with
    | none => finish 8 (s.setX d noTile)
    | some k => match (b.tile k).owner with
      | some o => finish 8 (s.setX d (if o == s.hart.id then k.zeroExtend 64 else noTile))
      | none => finish 8 ((s.setMyBench (b.setTile k { Tile.init with owner := some s.hart.id })).setX d (k.zeroExtend 64)))

/-- MREL: the named tiles become free (R178). -/
def execMrel (tm : BitVec 4) (s : State) : Host.Outcome State Fault Refusal :=
  matrixStep (.mrel tm) s (fun _ => { tiles := tilesOf tm }) (fun s =>
    finish 8 (s.setMyBench ((tilesOf tm).foldl (fun b t => b.setTile t { b.tile t with owner := none }) s.myBench)))

/-- MZERO (R178). -/
def execMzero (tm : BitVec 4) (i : Bool) (s : State) : Host.Outcome State Fault Refusal :=
  matrixStep (.mzero tm i) s (fun _ => { tiles := tilesOf tm }) (fun s =>
    finish 8 (s.setMyBench ((tilesOf tm).foldl (fun b t => b.setTile t ((b.tile t).clear i)) s.myBench)))

/-- MTRD reads one accumulator; a place outside the tile reads 0 (R201). -/
def execMtrd (d : Reg) (t : BitVec 2) (a : Reg) (s : State) : Host.Outcome State Fault Refusal :=
  matrixStep (.mtrd d t a) s (fun _ => { tiles := [t] }) (fun s =>
    let x := s.getX a
    let r := (x.extractLsb' 0 16).toNat
    let c := (x.extractLsb' 16 16).toNat
    finish 8 (s.setX d (if r < Config.mtlen ∧ c < Config.mtlen then BitVec.ofNat 64 (slot 32 (r * Config.mtlen + c) (s.myBench.tile t).acc) else 0)))

/-- The status MCHK reads (R200). -/
def Tile.status (t : Tile) : Word :=
  setBit (setBit (setBit (setBit (setBit (t.cnt.zeroExtend 64 <<< 16) 0 t.mis) 1 t.ten) 2 t.skip) 3 t.pend) 4 t.int32

/-- MCHK (R200). -/
def execMchk (d : Reg) (t : BitVec 2) (a : Reg) (sel : BitVec 2) (s : State) : Host.Outcome State Fault Refusal :=
  matrixStep (.mchk d t a sel) s (fun _ => { tiles := [t] }) (fun s =>
    let k := s.myBench.tile t
    let k' := if sel == 1 then { k with mis := false, skip := false, cnt := 0 } else if sel == 2 then { k with ten := (s.getX a).getLsbD 0 } else k
    finish 8 ((s.setMyBench (s.myBench.setTile t k')).setX d k.status))

/-! ## MACC and MACCS (R179 to R189) -/

/-- The kind and the group length of a pair of formats, if it is legal (R180). -/
def macPair (fA fB : Nat) (bs tr : Bool) : Option (Bool × Nat) :=
  let plain (f : Nat) : Bool := 5 ≤ f && f ≤ 9
  let mx (f : Nat) : Bool := 0x10 ≤ f && f ≤ 0x14
  if (isBlock fA && !tr) || (isBlock fB && bs) then none
  else if fA = 0 ∧ fB = 0 then some (true, 2)
  else if fA = 0x15 ∧ fB = 0x15 then some (false, 32)
  else if plain fA && plain fB then some (false, if fA ≥ 8 ∧ fB ≥ 8 then 2 else 1)
  else if ((6 ≤ fA && fA ≤ 9) || mx fA) && mx fB then some (false, 32)
  else if mx fA && (6 ≤ fB && fB ≤ 9) then some (false, 32)
  else if fB = 0x16 && (fA = 6 || fA = 8 || fA = 9 || fA = 0x10 || fA = 0x11 || fA = 0x14) then some (false, if mx fA then 32 else 64)
  else none

/-- An operand element: its value, whether it is there at all (R185), and its mark. -/
structure MElem where
  val : Val
  there : Bool
  bad : Bool
  deriving DecidableEq, Repr

/-- What a MACC reads: elements of A by row and stored column, of B by position and column, the scales of a group, and for MACCS the metadata code of a
row and dense group; and its shape. -/
structure MacPlan where
  int32 : Bool
  g : Nat
  sat : Bool
  a : Nat → Nat → MElem
  b : Nat → Nat → MElem
  scaleA : Nat → Nat → Val × Bool
  scaleB : Nat → Nat → Val × Bool
  code : Option (Nat → Nat → Nat × Bool)

/-- One accumulator after a group: bits, mark, flags, the products' exact sum and magnitude in units of 2^-400, and whether NF is raised. -/
structure Cell where
  acc : Nat
  bad : Bool
  flags : BitVec 7
  c : Int
  m : Nat
  nf : Bool
  deriving DecidableEq, Repr

/-- An exact finite value in units of 2^-400; a value that is not finite counts 0 (it raises NF). -/
def unitsOf : Val → Int | .fin n m e _ => alignTo (-400) n m e | _ => 0

/-- The products of a group for one accumulator: pairs of elements, ascending in k, or in slot order under sparsity; with the mark of a metadata code
(R184, R186). -/
def macTerms (p : MacPlan) (i j k0 : Nat) : List (MElem × MElem) × Bool :=
  match p.code with
  | none => ((List.range p.g).map (fun d => (p.a i (k0 + d), p.b (k0 + d) j)), false)
  | some code =>
    let qs := (List.range (max 1 (p.g / 4))).map (fun d => k0 / 4 + d)
    (qs.flatMap (fun q =>
        let c := (code i q).1
        [(p.a i (2 * q), p.b (4 * q + bitsAt 0 2 c) j), (p.a i (2 * q + 1), p.b (4 * q + bitsAt 2 2 c) j)]),
     qs.any (fun q => (code i q).2))

/-- The product of a pair: +0 where either is missing (R185). -/
def macProduct (q : MElem × MElem) : Val × BitVec 7 := if q.1.there && q.2.there then mulVal q.1.val q.2.val else (.fin false 0 0 false, 0)

/-- An element as its block's scale leaves it: whatever its code, the quiet NaN under a NaN scale (R47, R66; log entry 86). -/
def MElem.under (x : MElem) (scale : Val) : MElem := match scale with | .nan _ => { x with val := .nan false } | _ => x

/-- Accumulate one list of products and the group's scales into an accumulator (R64 to R66). B's scale acts where an element of A is there: a row of A
that is missing whole adds +0 (R185). -/
def macAdd (p : MacPlan) (old : Nat) (ts : List (MElem × MElem)) (sA sB : Val × Bool) (metaBad : Bool) : Cell :=
  let real := ts.any (·.1.there)
  let bad := metaBad || ts.any (fun q => (q.1.there && q.1.bad) || (q.2.there && q.2.bad)) || sA.2 || sB.2
  let ps := ts.map (fun q => macProduct (q.1.under sA.1, q.2.under sB.1))
  if p.int32 then
    let sum : Int := ps.foldl (fun a q => a + (match q.1 with | .fin n m e _ => alignTo 0 n m e | _ => 0)) 0
    let mag : Nat := ps.foldl (fun a q => a + (match q.1 with | .fin _ m e _ => m <<< e.toNat | _ => 0)) 0
    let r := toSigned 32 old + sum
    let c := if r > 2 ^ 31 - 1 then 2 ^ 31 - 1 else if r < -(2 ^ 31) then -(2 ^ 31) else r
    { acc := wrapInt 32 c, bad := bad, flags := flagIf (c != r) SAT, c := sum * 2 ^ 400, m := mag * 2 ^ 400, nf := c != r }
  else
    let add (a b : Val × BitVec 7) : Val × BitVec 7 := let r := addVal 0 a.1 b.1; (r.1, r.2 ||| a.2 ||| b.2)
    let total : Val × BitVec 7 := match ps with | [] => (.fin false 0 0 false, 0) | q :: rest => rest.foldl add q
    let scale (t : Val × BitVec 7) (v : Val) : Val × BitVec 7 := let r := mulVal t.1 v; (r.1, r.2 ||| t.2)
    let scaled := if real then scale (scale total sA.1) sB.1 else scale total sA.1
    let s := addVal 0 (decodeVal 0x05 old) scaled.1
    let r := roundOp 0x05 0 p.sat 0 s
    let fl := r.2 ||| scaled.2
    let k := (mulVal sA.1 sB.1).1
    let units := ps.map (fun q => unitsOf (mulVal q.1 k).1)
    { acc := r.1, bad := bad, flags := fl, c := units.foldl (· + ·) 0, m := units.foldl (fun a u => a + u.natAbs) 0,
      nf := bitsAt 23 8 r.1 == 255 || fl &&& SAT != 0 }

/-- The roundings a step of the loop makes: one, but two where the group is one product and a dense group of four brings two (R64, R186). -/
def MacPlan.rounds (p : MacPlan) : Nat := if p.code.isSome && p.g == 1 then 2 else 1

/-- One cell after another: the accumulator of the second, the marks, flags and sums of both. -/
def Cell.join (x y : Cell) : Cell :=
  { acc := y.acc, bad := x.bad || y.bad, flags := x.flags ||| y.flags, c := x.c + y.c, m := x.m + y.m, nf := x.nf || y.nf }

/-- One group for every accumulator of a row; under a group of one product, the two slots of a dense group are taken one after the other (R64, R186). -/
def macRow (p : MacPlan) (t : Tile) (k0 i : Nat) : List Cell :=
  (List.range Config.mtlen).map (fun j =>
    let (ts, mb) := macTerms p i j k0
    let add (old : Nat) (l : List (MElem × MElem)) : Cell := macAdd p old l (p.scaleA i k0) (p.scaleB j k0) mb
    let old := slot 32 (i * Config.mtlen + j) t.acc
    if p.rounds = 2 then let first := add old (ts.take 1); first.join (add first.acc (ts.drop 1)) else add old ts)

/-- Sum of the columns of a table of rows. -/
def columnSums {α : Type} (add : α → α → α) (zero : α) (rows : List (List α)) (n : Nat) : List α :=
  rows.foldl (fun acc r => List.zipWith add acc r) (List.replicate n zero)

/-- One group of a MACC on a tile: the tile after it, its flags, and whether it consumed poison. -/
def macGroup (p : MacPlan) (t : Tile) (k0 : Nat) : Tile × BitVec 7 × Bool :=
  let rows := (List.range Config.mtlen).map (macRow p t k0)
  let all := rows.flatten
  let cells := all.toArray
  ({ t with
      acc := pack 32 (Config.mtlen * Config.mtlen) (fun n => ((cells[n]?).map (·.acc)).getD 0),
      poison := (all.zipIdx.filter (fun c => c.1.bad)).foldl (fun a c => a ||| 1 <<< c.2) t.poison,
      rowC := List.zipWith (fun a r => a + r.foldl (fun x (c : Cell) => x + c.c) 0) t.rowC rows,
      rowM := List.zipWith (fun a r => a + r.foldl (fun x (c : Cell) => x + c.m) 0) t.rowM rows,
      colC := List.zipWith (· + ·) t.colC (columnSums (· + ·) 0 (rows.map (·.map (·.c))) Config.mtlen),
      colM := List.zipWith (· + ·) t.colM (columnSums (· + ·) 0 (rows.map (·.map (·.m))) Config.mtlen),
      rounds := t.rounds + p.rounds,
      nf := t.nf || all.any (·.nf) },
   all.foldl (fun a c => a ||| c.flags) 0, all.any (·.bad))

/-- An element of a register group under a format: missing at or beyond its register's valid length or the group's capacity (R185). -/
def groupElemM (g : Hart) (r n f e : Nat) : MElem :=
  let w := elemWidth f
  if (e + 1) * w ≤ g.capBits * n && elemValid g g.capBits r w e then
    { val := decodeVal f (elemAt g g.capBits r n w e), there := true, bad := elemBad g g.capBits r w e }
  else { val := .fin false 0 0 false, there := false, bad := false }

/-- The chunk of a stream as a matrix instruction sees it: elements at or above LEN are missing (R187). -/
def cutChunks (g : Hart) (cs : List (Nat × Binding)) : Hart :=
  cs.foldl (fun g c => g.setV c.1 { g.vreg c.1 with vlen := min (g.vreg c.1).vlen (c.2.scb.len - c.2.pos) }) g

/-- The element index of A[i][k] (R182). -/
def indexA (tr : Bool) (i k : Nat) : Nat := if tr then i * Config.mtlen + k else k * Config.mtlen + i

/-- The scale of a group of a block-format A: the companion's, or neutral where the whole block is missing (R185). -/
def scaleOfA (g : Hart) (va na f : Nat) (i col : Nat) : Val × Bool :=
  if !isBlock f then (.fin false 1 0 false, false)
  else
    let blk := (i * Config.mtlen + col) / 32
    if (List.range 32).any (fun d => (groupElemM g va na f (blk * 32 + d)).there) then
      let e := groupElemM g (va + na) 1 0x0E blk
      (if e.there then e.val else decodeVal 0x0E 0, e.bad)
    else (.fin false 1 0 false, false)

/-- The scale of column `j` of a canopy B for the group at `k` (R183). -/
def scaleOfB (b : Bench) (f : Nat) (xc : Word) (j k : Nat) : Val × Bool :=
  if !isBlock f then (.fin false 1 0 false, false)
  else
    let q := canopyBits b j ((xc.extractLsb' 16 16).toNat + k / blockLen f) 0 8
    if f = 0x16 then
      let sp := canopyBits b j ((xc.extractLsb' 32 16).toNat / 4 * 4) 0 32
      ((match decodeVal 0x05 sp.1 with | .nan s => .nan s | v => (mulVal (decodeVal 0x0F q.1) v).1), q.2 || sp.2)
    else (decodeVal 0x0E q.1, q.2)

/-- Registers of the metadata group of MACCS: the least power of two that holds MTLEN × MTLEN / 8 bytes (R186). -/
def metaRegs (h : Hart) : Nat := regsFor h.capBits (Config.mtlen * Config.mtlen)

/-- The fields of MACC and MACCS; `vm` is none for MACC. -/
structure MacArgs where
  t : BitVec 2
  va : Nat
  vb : Nat
  bs : Bool
  tr : Bool
  sat : Bool
  na : Nat
  nb : Nat
  fA : Nat
  fB : Nat
  xk : Word
  xc : Word
  vm : Option Nat
  deriving DecidableEq, Repr

/-- K of x[xk]. -/
def MacArgs.k (m : MacArgs) : Nat := (m.xk.extractLsb' 0 16).toNat
/-- KOFS of x[xk]. -/
def MacArgs.kofs (m : MacArgs) : Nat := (m.xk.extractLsb' 16 16).toNat

/-- The checks of R176 for MACC and MACCS. -/
def macCheck (s : State) (m : MacArgs) : MCheck :=
  let h := s.hart
  let pair := macPair m.fA m.fB m.bs m.tr
  let nm := metaRegs h
  let ok := match pair with
    | none => false
    | some (_, g) =>
      m.kofs + m.k ≤ Config.mtlen && m.k % g == 0 && m.kofs % g == 0 && (m.vm.isNone || (m.k % 4 == 0 && m.kofs % 4 == 0 && m.fA != 5 && nm ≤ 8))
        && h.vri.toNat % g == 0 && h.vri.toNat ≤ m.k
  { grant := match m.vm with | some v => nm > 8 || groupFits v nm 0 | none => true,
    format := ok,
    tiles := [m.t],
    kind := match pair with | some (k, _) => (s.myBench.tile m.t).int32 == k | none => true }

/-- The vector operands of a MACC, for its stream rules (R187). -/
def macOpnds (s : State) (m : MacArgs) : List Opnd :=
  [{ base := m.va, n := m.na, comp := if isBlock m.fA then 1 else 0, src := true, dst := false }]
    ++ (if m.bs then [{ base := m.vb, n := m.nb, comp := 0, src := true, dst := false }] else [])
    ++ (match m.vm with | some v => [{ base := v, n := metaRegs s.hart, comp := 0, src := true, dst := false }] | none => [])

/-- What a MACC reads, from the hart that holds its chunks. -/
def macPlan (s : State) (g : Hart) (m : MacArgs) (gl : Nat) (int32 : Bool) : MacPlan :=
  let b := s.myBench
  let w := memWidth m.fB
  { int32 := int32, g := gl, sat := m.sat,
    a := fun i k => groupElemM g m.va m.na m.fA (indexA m.tr i k),
    b := fun k j =>
      if m.bs then groupElemM g m.vb m.nb m.fB (k * Config.mtlen + j)
      else
        let q := canopyBits b j (m.xc.extractLsb' 0 16).toNat (k * w) w
        { val := decodeVal m.fB q.1, there := true, bad := q.2 },
    scaleA := fun i k => scaleOfA g m.va m.na m.fA i (if m.vm.isSome then k / 2 else k),
    scaleB := fun j k => scaleOfB b m.fB m.xc j k,
    code := m.vm.map (fun v => fun i q =>
      let n := i * (Config.mtlen / 4) + q
      let e := groupElemM g v (metaRegs g) 0x00 (n / 2)
      let byte := elemAt g g.capBits v (metaRegs g) 8 (n / 2)
      (if e.there then slot 4 (n % 2) byte else 0, e.bad)) }

/-- The elements of width `ws` that operand element `n` of width `w` lies in (R16, R187). -/
def streamElems (ws w n : Nat) : List Nat := (List.range ((n * w + w - 1) / ws - n * w / ws + 1)).map (n * w / ws + ·)

/-- Positions of k that a step of the loop covers. -/
def MacArgs.stride (m : MacArgs) (g : Nat) : Nat := if m.vm.isSome then max 4 g else g

/-- The elements of stream register `r`, of width `ws`, that the group at `k0` reads (R187). -/
def macReads (m : MacArgs) (g k0 r ws : Nat) : List Nat :=
  let ks := (List.range g).map (k0 + ·)
  let rows := List.range Config.mtlen
  let cols := if m.vm.isSome then (List.range (g / 2)).map (k0 / 2 + ·) else ks
  let inA := if r = m.va then rows.flatMap (fun i => cols.map (indexA m.tr i)) else []
  let inB := if m.bs && r = m.vb then ks.flatMap (fun k => rows.map (fun j => k * Config.mtlen + j)) else []
  let inM := if m.vm = some r then rows.flatMap (fun i => (List.range (max 1 (g / 4))).map (fun d => (i * (Config.mtlen / 4) + k0 / 4 + d) / 2)) else []
  inA.flatMap (streamElems ws (elemWidth m.fA)) ++ inB.flatMap (streamElems ws (elemWidth m.fB)) ++ inM.flatMap (streamElems ws 8)

/-- The fetch fault a group meets on a stream operand, reported at the group (R187). -/
def macFetchFault (s : State) (cs : List (Nat × Binding)) (m : MacArgs) (g kk : Nat) : Option TrapReq :=
  cs.findSome? (fun c => ((macReads m g (m.kofs + kk) c.1 (elemWidth c.2.scb.fmt.toNat)).filter (· < s.hart.vlv)).findSome? (fun e =>
    (chunkFault s c.2 e).map (fun t => { t with vri := some kk })))

/-- Where a MACC stands: tile, flags, positions of k done, and the trap that stopped it. -/
structure MacRun where
  tile : Tile
  flags : BitVec 7
  kk : Nat
  stop : Option TrapReq

/-- At most `n` groups of a MACC: each faults, traps on poison, or accumulates (R184, R188, R189). -/
def macLoop (s : State) (p : MacPlan) (cs : List (Nat × Binding)) (m : MacArgs) : Nat → MacRun → MacRun
  | 0, r => r
  | n + 1, r =>
    if r.kk ≥ m.k then r
    else match macFetchFault s cs m (m.stride p.g) r.kk with
      | some tr => { r with stop := some tr }
      | none =>
        let (t, f, bad) := macGroup p r.tile (m.kofs + r.kk)
        if bad && s.hart.ptrap then { r with stop := some (poisonTrap r.kk) }
        else macLoop s p cs m n { r with tile := t, flags := r.flags ||| f ||| flagIf bad PSN, kk := r.kk + m.stride p.g }

/-- Whether the front end may post a MACC: every receive-bound operand's chunk has come (R187, R293). -/
def macReady (s : State) (m : MacArgs) : Bool := (consumed s.hart (macOpnds s m)).all (fun c => !mustWait s c.2 s.hart.vlv)

/-- The units of the canopy that the groups of a MACC from step `lo` to `hi` read: elements, scales and superscales of every column (R183, R416). -/
def panelUnits (m : MacArgs) (lo hi : Nat) : List Nat :=
  let w := memWidth m.fB
  let n := blockLen m.fB
  let at' (i : Nat) : Nat := (m.xc.extractLsb' (16 * i) 16).toNat
  (List.range Config.mtlen).flatMap (fun j =>
    canopyUnits j (at' 0) ((m.kofs + lo) * w) ((hi - lo) * w)
      ++ (if isBlock m.fB then canopyUnits j (at' 1 + (m.kofs + lo) / n) 0 (8 * ((m.kofs + hi - 1) / n + 1 - (m.kofs + lo) / n)) else [])
      ++ (if m.fB = 0x16 then canopyUnits j (at' 2 / 4 * 4) 0 32 else []))

/-- The array verifies what it reads of the canopy: the 64 bytes of a unit that fails take marks, and the mismatch is counted and reported once (R416). -/
def verifyPanel (units : List Nat) (s : State) : State :=
  (s.myBench.canopyUpsets.map Prod.fst).foldl (fun s u =>
    if units.contains u && s.myBench.unitFails u && !(List.range 256).all (fun i => s.myBench.canopyPoison.contains (256 * u + i)) then
      ((s.setMyBench (s.myBench.markUnit u)).count (0x1D00 + 8 * 5) 1).report
        { typ := 3, unit := 5, index := benchOf s.hart.id, part := some s.hart.partid, addr := 0 }
    else s) s

/-- MACC and MACCS (R179 to R189): every group from VRI on, or one group where the machine stops at each group's boundary (R188; log entry 5). -/
def macStep (i : Instr) (m : MacArgs) (s : State) : Host.Outcome State Fault Refusal :=
  matrixStep i s (fun s => macCheck s m) (fun s =>
    let s := if m.bs then s else s.setMyBench (s.myBench.takeCanopy s.hart.farm)
    let mine := m.bs || s.myBench.ownsCanopy s.hart.farm
    match streamCheck s.hart false 0 (macOpnds s m) with
    | some t => trapHere t s
    | none =>
      if !mine then trapHere (trapOf 0x06 (m.xc.extractLsb' 0 16 |>.zeroExtend 64)) s
      else match readySources s (macOpnds s m), macPair m.fA m.fB m.bs m.tr with
        | none, _ => stall s
        | _, none => trapHere (vtypeTrap s.hart) s
        | some (s, g, cs), some (int32, gl) =>
          let start := s.hart.vri.toNat
          let p := macPlan s (cutChunks g cs) m gl int32
          let r := macLoop s p cs m (if s.policy.splitMatrix then 1 else m.k) { tile := s.myBench.tile m.t, flags := 0, kk := start, stop := none }
          let groups := idxs r.kk (fun kk => start ≤ kk && (kk - start) % m.stride gl == 0)
          let used (c : Nat × Binding) : List Nat :=
            ((groups.flatMap (fun kk => macReads m (m.stride gl) (m.kofs + kk) c.1 (elemWidth c.2.scb.fmt.toNat))).eraseDups).filter
              (fun e => c.2.pos + e < c.2.scb.len && e < s.hart.vlv)
          let s1 := cs.foldl (fun s c => touchChunks s [c] (used c)) s
          let s1 := if m.bs || s1.myBench.canopyUpsets.isEmpty || r.kk = start then s1 else verifyPanel (panelUnits m start r.kk) s1
          let s1 := s1.setMyBench (s1.myBench.setTile m.t r.tile)
          match r.stop with
          | some t => trapHere t (s1.withHart (s1.hart.raise r.flags))
          | none =>
            if r.kk < m.k then pauseAt r.kk r.flags s1
            else finishFlags 8 r.flags (s1.withHart { advanceChunks s s1.hart cs with vri := 0 })) (fun s => macReady s m)

/-- MACC (R179). -/
def execMacc (t : BitVec 2) (va vb : Reg) (bs tr sat : Bool) (ga gb : BitVec 2) (fmtA fmtB : BitVec 5) (xk xc : Reg) (s : State) :
    Host.Outcome State Fault Refusal :=
  macStep (.macc t va vb bs tr sat ga gb fmtA fmtB xk xc)
    { t := t, va := va.toNat, vb := vb.toNat, bs := bs, tr := tr, sat := sat, na := 2 ^ ga.toNat, nb := 2 ^ gb.toNat, fA := fmtA.toNat, fB := fmtB.toNat,
      xk := s.getX xk, xc := s.getX xc, vm := none } s

/-- MACCS (R179, R186). -/
def execMaccs (t : BitVec 2) (va vb : Reg) (bs tr sat : Bool) (ga gb : BitVec 2) (fmtA fmtB : BitVec 5) (xk xc vm : Reg) (s : State) :
    Host.Outcome State Fault Refusal :=
  macStep (.maccs t va vb bs tr sat ga gb fmtA fmtB xk xc vm)
    { t := t, va := va.toNat, vb := vb.toNat, bs := bs, tr := tr, sat := sat, na := 2 ^ ga.toNat, nb := 2 ^ gb.toNat, fA := fmtA.toNat, fB := fmtB.toNat,
      xk := s.getX xk, xc := s.getX xc, vm := some vm.toNat } s

end Sys2Proof.Machine
end

