-- ==== Sys2Proof/Machine/Drain.lean ====
section
/-! DEFINITION. Canopy loads of a hart (R191), drains (R194 to R197), and the engine's check comparisons (R198, R199). -/

namespace Sys2Proof.Machine

/-! ## MLDC (R191) -/

/-- MLDC from its resume point, with the remote bytes it asked for. -/
def mldcRows (r : CanopyRec) (s : State) : State :=
  let bench := benchOf s.hart.id
  let start := s.hart.vri.toNat
  let units := (remoteSegs r start).filter (fun u => !remoteRefused s r.space.part u.addr)
  match remoteAccess (drainStores s) (requestsOf s r.space.part true .run 1 units) with
  | .waiting s => s
  | .answered s ans =>
    match loadRows r r.space bench ans start s with
    | (s, some (o, .access f a)) =>
      trapHere { cause := faultCause .load f, val := a, vri := some o, ipa := f.ipa.map (BitVec.ofNat 64), notes := f.notes } s
    | (s, some (o, .remote a)) => trapHere { remoteTrap a with vri := some o } s
    | (s, none) => finish 8 ((recordLoad bench r s).withHart { s.hart with vri := 0 })

/-- MLDC (R191): the farm takes a free canopy once the checks of R176 pass (R190). -/
def execMldc (xg xs xstr xsc : Reg) (tr : Bool) (fmt : BitVec 5) (s : State) : Host.Outcome State Fault Refusal :=
  matrixStep (.mldc xg xs xstr xsc tr fmt) s (fun _ => { format := matrixFmt fmt.toNat }) (fun s =>
    let r : CanopyRec := { geometry := s.getX xg, source := s.getX xs, stride := s.getX xstr, scale := s.getX xsc, fmt := fmt, tr := tr, space := s.hart.space }
    let s := s.setMyBench (s.myBench.takeCanopy s.hart.farm)
    if !s.myBench.ownsCanopy s.hart.farm then trapHere (trapOf 0x06 (BitVec.ofNat 64 r.cb)) s
    else match r.misaligned with
      | some a => trapHere (trapOf 0x02 a) s
      | none => mldcRows r s)

/-! ## Conversion of drained rows (R195) -/

/-- What a drain asks for: tile, format, rounding code, key, saturation, zeroing, rows, and the origin of its draws. -/
structure DrainArgs where
  t : BitVec 2
  f : Nat
  rm : BitVec 3
  key : Word
  sat : Bool
  z : Bool
  row0 : Nat
  nrows : Nat
  origin : Nat
  deriving DecidableEq, Repr

/-- The operands of a drain as the hart's registers hold them at posting. -/
def drainArgs (h : Hart) (t : BitVec 2) (rm : BitVec 3) (ks : BitVec 2) (sat z : Bool) (fmt : BitVec 5) (xr xo : Reg) : DrainArgs :=
  { t := t, f := fmt.toNat, rm := rm, key := h.key ks, sat := sat, z := z, row0 := ((h.getX xr).extractLsb' 0 16).toNat,
    nrows := ((h.getX xr).extractLsb' 16 16).toNat, origin := ((h.getX xo).extractLsb' 0 48).toNat }

/-- Accumulator (r, c) of a tile. -/
def Tile.at (t : Tile) (r c : Nat) : Nat := slot 32 c (bitsAt (32 * Config.mtlen * r) (32 * Config.mtlen) t.acc)
/-- Whether accumulator (r, c) is marked. -/
def Tile.badAt (t : Tile) (r c : Nat) : Bool := t.poison.testBit (r * Config.mtlen + c)

/-- The random word of accumulator (r, c) under code 5 (R195). -/
def DrainArgs.draw (a : DrainArgs) (rm r c : Nat) : Nat := if rm = 5 then drawZ a.key ((a.origin + r * Config.mtlen + c) % 2 ^ 48) 1 else 0

/-- A drained row: element bits with flags, marks, and the scales of an MX format with theirs. -/
structure RowOut where
  elems : List (Nat × BitVec 7)
  bad : List Bool
  scales : List (Nat × Bool)
  deriving DecidableEq, Repr

/-- One accumulator in a format that is no block format. -/
def drainElem (a : DrainArgs) (rm z acc : Nat) : Nat × BitVec 7 :=
  match a.f with
  | 0x02 | 0x05 => (acc, 0)
  | 0x00 | 0x01 => wrapOrSat true (elemWidth a.f) (toSigned 32 acc)
  | f => let v := decodeVal 0x05 acc; roundOp f rm a.sat z (v, flagIf v.isSig NV)

/-- Row `r` of a tile converted (R195). A scale is marked when an element of its block is (log entry 43). -/
def drainRow (a : DrainArgs) (rm : Nat) (t : Tile) (r : Nat) : RowOut :=
  let cols := List.range Config.mtlen
  let accs := cols.map (t.at r)
  let bad := cols.map (t.badAt r)
  if isBlock a.f then
    let blocks := (List.range (Config.mtlen / 32)).map (fun b =>
      (mxBlock a.f rm (fun i => a.draw rm r (32 * b + i)) (((accs.drop (32 * b)).take 32).map (decodeVal 0x05)), ((bad.drop (32 * b)).take 32).any id))
    { elems := blocks.flatMap (fun b => b.1.codes.zipIdx.map (fun c => (c.1, if c.2 = 0 then b.1.flags else 0))),
      bad := bad, scales := blocks.map (fun b => (b.1.scale, b.2)) }
  else { elems := accs.zipIdx.map (fun p => drainElem a rm (a.draw rm r p.2) p.1), bad := bad, scales := [] }

/-- The formats of R195 that round, those of an FP32 tile. -/
def drainRounds (f : Nat) : Bool := (5 ≤ f && f ≤ 9) || f == 0x10 || f == 0x11

/-- Whether a tile's kind has a drain format (R195). -/
def drainKind (int32 : Bool) (f : Nat) : Bool := if int32 then f < 3 else drainRounds f

/-! ## Check comparisons (R198, R199) -/

/-- An accumulator in the units of the exact sums. -/
def tileUnits (int32 : Bool) (acc : Nat) : Int := if int32 then toSigned 32 acc * 2 ^ 400 else unitsOf (decodeVal 0x05 acc)

/-- Whether a sum of accumulators differs from the exact sum of products by more than the roundings explain (R198). -/
def sumsDiffer (int32 : Bool) (n : Nat) (s c : Int) (m : Nat) : Bool :=
  if int32 then (s - c) / 2 ^ 400 % 2 ^ 32 != 0
  else decide ((s - c).natAbs * 2 ^ 23 > n * (m + Config.mtlen * 2 ^ 274))

/-- Compare one drained row: not made for a row that holds a mark (log entry 44), and skipped under NF. `none` where it is skipped. -/
def rowDiffers (t : Tile) (r : Nat) : Option Bool :=
  let cols := List.range Config.mtlen
  if cols.any (t.badAt r) then some false
  else if t.nf then none
  else some (sumsDiffer t.int32 t.rounds (cols.foldl (fun a c => a + tileUnits t.int32 (t.at r c)) 0) ((t.rowC[r]?).getD 0) ((t.rowM[r]?).getD 0))

/-- Compare one column, as a row. -/
def colDiffers (t : Tile) (c : Nat) : Option Bool :=
  let rows := List.range Config.mtlen
  if rows.any (fun r => t.badAt r c) then some false
  else if t.nf || t.colsOff then none
  else some (sumsDiffer t.int32 t.rounds (rows.foldl (fun a r => a + tileUnits t.int32 (t.at r c)) 0) ((t.colC[c]?).getD 0) ((t.colM[c]?).getD 0))

/-- What one comparison leaves: SKIP, or a mismatch, counted, and reported or owed as a trap (R199). -/
def noteCheck (k : BitVec 2) (s : State) (found : Option Bool) : State :=
  let b := s.myBench
  let t := b.tile k
  match found with
  | none => s.setMyBench (b.setTile k { t with skip := true })
  | some false => s
  | some true =>
    let bench := benchOf s.hart.id
    let s := s.setMyBench (b.setTile k { t with mis := true, cnt := if t.cnt = 0xFFFF then t.cnt else t.cnt + 1, pend := t.pend || t.ten })
    let s := s.count (0x1A00 + 8 * bench) 1
    if t.ten then s else s.report { typ := 4, unit := 7, index := bench, part := some s.hart.partid, addr := k.toNat }

/-- Compare drained rows, and the columns with them when a drain covers every row. -/
def compareRows (k : BitVec 2) (rows : List Nat) (columns : Bool) (s : State) : State :=
  let t := s.myBench.tile k
  let s := rows.foldl (fun s r => noteCheck k s (rowDiffers t r)) s
  if columns then (List.range Config.mtlen).foldl (fun s c => noteCheck k s (colDiffers t c)) s else s

/-- The tile after rows are zeroed: their accumulators, marks and row pairs; the column pairs no longer match (R196, R198). -/
def Tile.zeroRows (t : Tile) (row0 n : Nat) : Tile :=
  let inside (i : Nat) : Bool := row0 ≤ i && i < row0 + n
  let cut (w x : Nat) : Nat := x % 2 ^ (w * row0) + ((x >>> (w * (row0 + n))) <<< (w * (row0 + n)))
  { t with acc := cut (32 * Config.mtlen) t.acc, poison := cut Config.mtlen t.poison, colsOff := true,
           rowC := t.rowC.zipIdx.map (fun p => if inside p.2 then 0 else p.1), rowM := t.rowM.zipIdx.map (fun p => if inside p.2 then 0 else p.1) }

/-- Z of a whole drain: a Z that covers all rows clears the tile whole (R198), but what the drain owes stays owed (R199). -/
def zeroDrained (a : DrainArgs) (s : State) : State :=
  if !a.z then s
  else
    let b := s.myBench
    let t := b.tile a.t
    s.setMyBench (b.setTile a.t (if a.nrows = Config.mtlen then { t.clear t.int32 with pend := t.pend } else t.zeroRows a.row0 a.nrows))

/-- A drain completes: VRI 0, its flags, and trap 0x0E first where PEND is set, which clears (R199). -/
def finishDrain (k : BitVec 2) (raised : BitVec 7) (s : State) : State :=
  let b := s.myBench
  let t := b.tile k
  let owed : List Owed := if t.pend then [{ cause := 0x0E, val := BitVec.ofNat 64 (k.toNat + 4 * benchOf s.hart.id) }] else []
  let s := if t.pend then s.setMyBench (b.setTile k { t with pend := false }) else s
  completeAt (s.hart.pcAfter 8) raised owed [] 0 (s.withHart { s.hart with vri := 0 })

/-- The checks of R176 for a drain. rm is checked where the format rounds, but not for an INT32 tile of the hart's own: that tile refuses the format
at its kind (R195). -/
def drainCheck (s : State) (a : DrainArgs) (fits : Bool) (kind : Bool) : MCheck :=
  { format := a.row0 + a.nrows ≤ Config.mtlen && fits,
    round := !drainRounds a.f || (owns s a.t && (s.myBench.tile a.t).int32) || (vectorRound s.hart a.rm).isSome, tiles := [a.t], kind := kind }

/-! ## MDRAIN (R194 to R196) -/

/-- MDRAIN into its group, its checks made. -/
def drainInto (a : DrainArgs) (vd nd : Nat) (s0 : State) : State :=
  let s := drainStores s0
  let h := s.hart
  let t := s.myBench.tile a.t
  let rm := (vectorRound h a.rm).getD 0
  let rows := (List.range a.nrows).map (drainRow a rm t <| a.row0 + ·)
  let len := a.nrows * Config.mtlen
  let elems := (rows.flatMap (·.elems)).toArray
  let marks := (rows.flatMap (·.bad)).toArray
  let val (e : Nat) : Nat × Bool := (((elems[e]?).map Prod.fst).getD 0, (marks[e]?).getD false)
  let flag (e : Nat) : BitVec 7 := ((elems[e]?).map Prod.snd).getD 0
  let sb := h.storeBinding vd
  let start := if sb.isSome then h.vri.toNat else 0
  let todo := idxs len (start ≤ ·)
  let stop := if sb.isSome then firstFault todo (emitFault s sb) else none
  let top := match stop with | some (e, _) => e | none => len
  let done := todo.filter (· < top)
  let flags := done.foldl (fun f e => f ||| flag e) 0
  let s := emitElems s sb done val
  let isDone (e : Nat) : Bool := start ≤ e && e < top
  let img := mergeImg h vd nd (elemWidth a.f) (if stop.isSome then h.capBits * nd / elemWidth a.f else len) (fun e => if isDone e then some (val e) else none)
  match stop with
  | some (_, tr) =>
    let h1 := if done.isEmpty then s.hart else writePartial s.hart h.capBits vd a.f top img.1 img.2 nd
    trapHere tr (s.withHart (h1.raise flags))
  | none =>
    let h1 := writeGroup s.hart h.capBits vd a.f len img.1 img.2 nd
    let scales := (rows.flatMap (·.scales)).toArray
    let h2 := if isBlock a.f then
        writeGroup h1 h.capBits (vd + nd) (scaleFmt a.f) (len / 32) (pack 8 (len / 32) (fun i => ((scales[i]?).map Prod.fst).getD 0))
          (pack 1 (len / 32) (fun i => if ((scales[i]?).map Prod.snd).getD false then 1 else 0)) 1
      else h1
    let s := s.withHart (advanceStore h2 vd len)
    finishDrain a.t flags (zeroDrained a (compareRows a.t ((List.range a.nrows).map (a.row0 + ·)) (a.nrows == Config.mtlen) s))

/-- MDRAIN (R194). -/
def execMdrain (t : BitVec 2) (vd : Reg) (gd : BitVec 2) (rm : BitVec 3) (ks : BitVec 2) (sat z : Bool) (fmt : BitVec 5) (xr xo : Reg) (s : State) :
    Host.Outcome State Fault Refusal :=
  let nd := 2 ^ gd.toNat
  let a := drainArgs s.hart t rm ks sat z fmt xr xo
  matrixStep (.mdrain t vd gd rm ks sat z fmt xr xo) s
    (fun s =>
      let cap := s.hart.capBits
      let n := a.nrows * Config.mtlen
      let known := a.f < 3 || drainRounds a.f
      drainCheck s a (!known || (n * elemWidth a.f ≤ cap * nd && (!isBlock a.f || n / 32 * 8 ≤ cap)))
        (drainKind (s.myBench.tile t).int32 a.f))
    (fun s =>
      match streamCheck s.hart false a.f [{ base := vd.toNat, n := nd, comp := compCount a.f, src := false, dst := true }] with
      | some tr => trapHere tr s
      | none => if a.nrows = 0 then finish 8 (s.withHart { s.hart with vri := 0 }) else drainInto a vd.toNat nd s)

/-! ## MDRAINX (R197) -/

/-- The number of a schedule context of a die. -/
def ctxKey (die ctx : Nat) : Nat := die * 16 + ctx

/-- A schedule context. -/
def State.ctx (s : State) (k : Nat) : Ctx := tget Ctx.init s.ctxs k
/-- The state with another value for one schedule context. -/
def State.setCtx (s : State) (k : Nat) (c : Ctx) : State := { s with ctxs := tset s.ctxs k c }

/-- Rows a channel holds at most (R376). -/
def channelRows : Nat := 32

/-- Deliver rows while the channel has credit, from the row VRI names; complete after the last, else wait at a row's boundary (R197). -/
def deliverRows (a : DrainArgs) (ctx chan : Nat) : Nat → State → State
  | 0, s => finishDrain a.t 0 (if a.nrows = 0 then s else zeroDrained { a with z := a.z && a.nrows == Config.mtlen } s)
  | n + 1, s =>
    let key := ctxKey (dieOf (benchOf s.hart.id)) ctx
    let c := s.ctx key
    let q := (c.chans.toList[chan]?).getD []
    if q.length ≥ channelRows then s.withHart { s.hart with run := .asleep .channel }
    else
      let k := a.nrows - (n + 1)
      let r := a.row0 + k
      let t := s.myBench.tile a.t
      let out := drainRow a ((vectorRound s.hart a.rm).getD 0) t r
      let f := out.elems.foldl (fun x e => x ||| e.2) 0
      let w := elemWidth a.f
      let elems := out.elems.toArray
      let row : Row := { fmt := BitVec.ofNat 5 a.f, data := pack w Config.mtlen (fun i => ((elems[i]?).map Prod.fst).getD 0),
                         poison := (out.bad.zipIdx.filter Prod.fst).foldl (fun x p => x ||| 1 <<< p.2) 0 }
      let s := s.setCtx key { c with chans := c.chans.mapIdx (fun i x => if i == chan then x ++ [row] else x) }
      let s := compareRows a.t [r] (k == 0 && a.nrows == Config.mtlen) s
      let s := if a.z then s.setMyBench (s.myBench.setTile a.t ((s.myBench.tile a.t).zeroRows r 1)) else s
      let s := pauseAt (k + 1) f s
      if s.policy.splitMatrix && n != 0 then s else deliverRows a ctx chan n s

/-- MDRAINX (R194, R197), from the row VRI names; one row in a step where the machine stops at each row's boundary (log entry 5). -/
def execMdrainx (t : BitVec 2) (ctx : BitVec 4) (chan : BitVec 3) (rm : BitVec 3) (ks : BitVec 2) (z : Bool) (fmt : BitVec 5) (xr xo : Reg) (s : State) :
    Host.Outcome State Fault Refusal :=
  let a := drainArgs s.hart t rm ks false z fmt xr xo
  matrixStep (.mdrainx t ctx chan rm ks z fmt xr xo) s
    (fun s => drainCheck s a true ((a.f == 5 || a.f == 6) && !(s.myBench.tile t).int32))
    (fun s =>
      let c := s.ctx (ctxKey (dieOf (benchOf s.hart.id)) ctx.toNat)
      if !(c.held && c.part == s.hart.partid) then trapHere (trapOf 0x06 (BitVec.ofNat 64 (ctx.toNat * 8 + chan.toNat))) s
      else deliverRows a ctx.toNat chan.toNat (a.nrows - s.hart.vri.toNat) s)

/-- The instruction the current hart is about to execute: the one it has fetched already and not completed (R74), else the one at PC. -/
def currentInstr (s : State) : Option Instr :=
  match s.hart.fetched with
  | some i => some i
  | none => match fetchBytes s with
    | .error _ => none
    | .ok bs => match fetchedInstr bs with
      | .ok i => some i
      | .error _ => none

/-- A step of the table: an MDRAINX that waited for channel credit delivers its next rows (R197, R376). -/
def execMdrainxRow (h : HartId) (s : State) : Host.Outcome State Fault Refusal :=
  .next (match s.findHart h with
    | none => s
    | some g => match g.run with
      | .asleep .channel =>
        asHart h (fun s =>
          match currentInstr s with
          | some (.mdrainx t ctx chan rm ks z fmt xr xo) =>
            (match execMdrainx t ctx chan rm ks z fmt xr xo (s.withHart { s.hart with run := .ready }) with
             | .next s' => keepInstance (.mdrainx t ctx chan rm ks z fmt xr xo) s'
             | _ => s)
          | _ => s) s
      | _ => s)

end Sys2Proof.Machine
end

