-- ==== Sys2Proof/Machine/VectorCfg.lean ====
section
/-! DEFINITION. Vector type and length (R31, R117 to R122) and the binding of streams (R133, R134). -/

namespace Sys2Proof.Machine

/-! ## The vector type (R31) -/

/-- Whether a requested vector type breaks none of the rules of R31. -/
def vtypeLegal (req : Word) : Bool :=
  let f := (req.extractLsb' 0 5).toNat
  let blk := (req.extractLsb' 5 2).toNat
  f < 0x17 && (req.extractLsb' 7 3).toNat < 4 && (req.extractLsb' 10 3).toNat < 5
    && (if f = 0x16 then blk == 2 else if isBlock f then blk == 1 else blk == 0)
    && (req.extractLsb' 13 3).toNat < 4 && (req.extractLsb' 16 3).toNat != 6 && req.extractLsb' 20 44 == 0

/-- Write a vector type that is illegal: VILL set, VLG and VLV 0 (R31, R118). -/
def setIllegalType (req : Word) (h : Hart) : Hart := { h with vtype := req.extractLsb' 0 20, status := setBit h.status 3 true, vlg := 0, vlv := 0 }

/-! ## Storage (R120 to R122) -/

/-- The demand of the core's other resident harts (R120). -/
def othersDemand (s : State) : Nat :=
  (s.others.filter (fun h => h.present && coreOf h.id == coreOf s.hart.id)).foldl (fun n h => n + demandKiB h.classCode) 0

/-- Negotiate(r): the largest class not above the request that fits; the 2 KiB class always does (R120). -/
def negotiate (others : Nat) : Nat → Nat
  | 0 => 0
  | r + 1 => if others + demandKiB (r + 1) ≤ Config.drawerLimitKiB then r + 1 else negotiate others r

/-- Move drawers after a class change (R122): stores drain, each set of the L1 keeps the lines used last that its drawers hold (R300), registers and masks are emptied, buffered stream
data is discarded. -/
def moveDrawers (s0 : State) : State :=
  let s := drainStores s0
  let h := s.hart
  let c := coreOf h.id
  let s := if (s.core c).l1.isEmpty then s else s.setCore c { s.core c with l1 := l1Keep (l1Ways s c) (s.core c).l1 }
  s.withHart { h.dropAhead with
    moving := false,
    v := h.v.map (fun v => { v with vlen := 0, dirty := false, prog := 0, poison := 0 }),
    m := Vector.replicate 7 0 }

/-! ## VSETL and VSETLI (R117 to R119) -/

/-- The block length a VTYPE's BLK field gives. -/
def blkLen (req : Word) : Nat := match (req.extractLsb' 5 2).toNat with | 1 => 32 | 2 => 64 | _ => 1

/-- VLMAX of a type and a class (R118). -/
def vlmax (req : Word) (cls : Nat) : Nat := min 65536 (8 * classBytes cls * 2 ^ (req.extractLsb' 7 3).toNat / elemWidth (req.extractLsb' 0 5).toNat)

/-- VL and V for an application length (R118). -/
def lengths (b vmax avl : Nat) : Nat × Nat :=
  if avl = 0 then (0, 0) else if avl ≥ b then (min (avl / b * b) vmax, min (avl / b * b) vmax) else (b, avl)

/-- The effect of VSETL and VSETLI (R118). A change of class moves drawers at once, or at a later step where the machine puts it off (log entry 5). -/
def setLength (len : Nat) (d : Reg) (req avl : Word) (s : State) : State :=
  let h := s.hart
  if !vtypeLegal req then finish len ((s.withHart (setIllegalType req h)).setX d 0)
  else
    let cls := negotiate (othersDemand s) (req.extractLsb' 10 3).toNat
    let change := cls != h.classCode
    if change && h.moving then stall s
    else
      let (vl, v) := lengths (blkLen req) (vlmax req cls) avl.toNat
      let s1 := s.withHart { h with
        vtype := req.extractLsb' 0 20, status := setBit h.status 3 false, granted := true, rscg := BitVec.ofNat 3 cls, vlg := vl, vlv := v,
        moving := h.moving || change }
      let s2 := if change && !s.policy.deferMoves then moveDrawers s1 else s1
      finish len (s2.setX d (BitVec.ofNat 64 v))

/-- VSETL: the request is in x[d], or with K it is the current VTYPE (R117, R118). -/
def execVsetl (d a : Reg) (k : Bool) (s : State) : Host.Outcome State Fault Refusal :=
  .next (setLength 4 d (if k then s.hart.vtype.zeroExtend 64 else s.getX d) (s.getX a) s)

/-- VSETLI (R117, R118). -/
def execVsetli (d a : Reg) (req : BitVec 20) (s : State) : Host.Outcome State Fault Refusal :=
  .next (setLength 8 d (req.zeroExtend 64) (s.getX a) s)

/-! ## Streams (R133, R134) -/

/-- A stream control block from its 64 bytes (R133). -/
def scbOf (d : Nat) : Scb :=
  let w (i : Nat) : Nat := bitsAt (64 * i) 64 d
  { base := BitVec.ofNat 64 (w 0), cols := bitsAt 0 32 (w 1), rows := bitsAt 32 32 (w 1), estride := BitVec.ofNat 64 (w 2),
    rstride := BitVec.ofNat 64 (w 3), origin := bitsAt 0 48 (w 4), fmt := BitVec.ofNat 5 (w 5), dir := BitVec.ofNat 2 (w 5 / 256),
    nt := (w 5).testBit 10, u := (w 5).testBit 11, flag := BitVec.ofNat 64 (w 6), flagval := BitVec.ofNat 64 (w 7) }

/-- Whether the 64 bytes of a control block break none of R133. -/
def scbOk (d : Nat) : Bool :=
  let w (i : Nat) : Nat := bitsAt (64 * i) 64 d
  let b := scbOf d
  let mw := memWidth b.fmt.toNat
  !b.base.getLsbD 63 && bitsAt 48 16 (w 4) == 0 && b.fmt.toNat < 0x10 && bitsAt 5 3 (w 5) == 0 && b.dir != 3 && bitsAt 12 52 (w 5) == 0
    && b.flag.toNat % 8 == 0
    && (if mw = 4 then b.estride == 0 && b.cols * 4 % 8 == 0 else if mw = 6 then b.estride == 0 && b.cols * 6 % 24 == 0 else true)

/-- Empty the delivered set of the receive window a stream's region begins (R369). -/
def clearDelivered (s : State) (part : BitVec 3) (base : Word) : State :=
  { s with fabric := { s.fabric with windows := s.fabric.windows.map (fun q =>
      if q.1 / 256 == part.toNat && q.2.ctl.getLsbD 4 && q.2.base == base then (q.1, { q.2 with delivered := 0 }) else q) } }

/-- Unbind v24 + n (R134, R369): a store stream's flag becomes owed, a receive window is emptied. -/
def unbindReg (n : Nat) (s : State) : State :=
  match s.hart.binding n with
  | none => s
  | some b =>
    let s := s.withHart (s.hart.setBinding n none)
    if b.scb.dir == 1 then
      (if b.scb.flag = 0 then s else { s with owed := s.owed ++ [{ addr := b.scb.flag, val := b.scb.flagval, space := s.hart.space, unit := 12, index := benchOf s.hart.id, hart := s.hart.id, farm := s.hart.farm }] })
    else if b.scb.dir == 2 then clearDelivered s s.hart.partid b.scb.base
    else s

/-- A block of `n` aligned bytes that an instruction reads with one H-path load: faults as usual, a domain address has none (0x0D; log entry 42);
poison is consumed as a scalar load consumes it (R105; log entry 42). -/
def blockRead (s : State) (n : Nat) (a : Word) : Except TrapReq (Nat × BitVec 7 × State) :=
  if a.toNat % n ≠ 0 then .error (trapOf 0x02 a)
  else if isRemote a then .error (remoteTrap a)
  else match checkAccess s .load false 1 a with
    | .error t => .error t
    | .ok m =>
      if viewPoisoned s m n then
        (if s.hart.ptrap then .error (trapOf 0x07 (BitVec.ofNat 64 (sectorOf a.toNat))) else .ok (0, PSN, afterLoad s m n))
      else .ok (viewRead s m n, 0, afterLoad s m n)

/-- VBIND (R134): an earlier binding of the register is undone first, in the order of its entry. -/
def execVbind (n : BitVec 3) (a b : Reg) (s : State) : Host.Outcome State Fault Refusal :=
  .next (held s (fun s =>
    let r := 24 + n.toNat
    let start := s.getX b
    let s := unbindReg r (drainStores s)
    match blockRead s 64 (s.getX a) with
    | .error t => trapHere t s
    | .ok (d, fl, s) =>
      let scb := scbOf d
      if !scbOk d || start.toNat > scb.len || (scb.dir == 2 && (receiveWindow s s.hart.partid scb.base).isNone) then
        trapHere (streamTrap r 0x04) s
      else
        let h := s.hart.setBinding r (some { scb := scb, pos := start.toNat, ahead := [] })
        let h := if scb.dir == 1 then h else h.setV r { h.vreg r with vlen := 0, prog := 0, poison := 0 }
        finishFlags 4 fl (s.withHart h)))

/-- VUNBIND (R134): x[a] receives the position. -/
def execVunbind (n : BitVec 3) (a : Reg) (s : State) : Host.Outcome State Fault Refusal :=
  .next (held s (fun s =>
    let r := 24 + n.toNat
    let p := match s.hart.binding r with | some b => b.pos | none => 0
    finish 4 ((unbindReg r (drainStores s)).setX a (BitVec.ofNat 64 p))))

end Sys2Proof.Machine
end

