-- ==== Sys2Proof/Machine/Sched.lean ====
section
/-! DEFINITION. Farms and the farm schedulers (R217 to R221, R267 to R280): numbers, retirement, completion, priority, placement, victims and swaps. -/

namespace Sys2Proof.Machine

/-! ## Farms -/

/-- The resident harts of a farm. -/
def State.residents (s : State) (n : BitVec 16) : List Hart := s.harts.filter (fun h => h.farm == n)

/-- The benches a farm may use: PLACE and the partition's (R269). -/
def benchSet (s : State) (f : Farm) : List Nat := (List.range Config.benches).filter (fun b => f.rcd.place.testBit b && (s.partn f.rcd.part).hasBench b)

/-- A farm's home die: that of the lowest bench of its set (R269). -/
def homeDie (s : State) (f : Farm) : Nat := dieOf ((benchSet s f).headD 0)

/-- The address space of a farm's record and harts (R329). -/
def Farm.space (f : Farm) : Space := { part := f.rcd.part, ptbase := f.ptbase, asid := f.asid, prv := 0 }

/-- Whether a farm's number is in use. -/
def Farm.live (f : Farm) : Bool := f.state != .done

/-- Farm numbers in use: those of live farms and of bureau harts, resident or saved. -/
def usedNumbers (s : State) : List (BitVec 16) :=
  (s.farms.filter (·.live)).map (·.num) ++ (s.harts.filter (·.bureau)).map (·.farm) ++ s.parts.toList.filterMap (fun p => p.bureauSaved.map (·.farm))

/-- A farm number that no live farm uses (R218). -/
def newNumber (s : State) : BitVec 16 :=
  let used := usedNumbers s
  let n := Config.farmPick s.fresh
  match (List.range (used.length + 1)).find? (fun i => !used.contains (n + BitVec.ofNat 16 i)) with
  | some i => n + BitVec.ofNat 16 i
  | none => n

/-! ## Retirement and completion (R220) -/

/-- Free the tiles a hart owns, as MREL does. -/
def freeTiles (i : HartId) (s : State) : State :=
  let b := s.bench (benchOf i)
  if b.tiles.toList.all (fun t => t.owner != some i) then s
  else s.setBench (benchOf i) { b with tiles := b.tiles.map (fun t => if t.owner == some i then { t with owner := none } else t) }

/-- The bench numbers that hold some state of their own. -/
def State.benchKeys (s : State) : List Nat := s.benches.map Prod.fst

/-- End a farm's ownership of every canopy (R190). -/
def freeCanopies (n : BitVec 16) (s : State) : State :=
  s.benchKeys.foldl (fun s b => if (s.bench b).ownsCanopy n then s.setBench b (s.bench b).freeCanopy else s) s

/-- A farm that has lost its last resident hart by retirement: Completing, or Swapped when a swap took the others (R270, R280). -/
def settleFarm (n : BitVec 16) (s : State) : State :=
  if (s.residents n).isEmpty then
    s.updFarm n (fun f => if f.state != .running then f
      else if f.saved.isEmpty then { f with state := .completing }
      else { f with state := .swapped, waited := 0, unaged := 0, eff := f.rcd.prio, queuedAt := s.tick })
  else s

/-- The current hart retires (R220). -/
def retireHart (s : State) : State :=
  let s := (List.range 8).foldl (fun s i => unbindReg (24 + i) s) (drainStores s)
  let h := s.hart
  let s := dropPosts h.id (freeTiles h.id s)
  settleFarm h.farm (s.withHart { h with run := .absent, instret := h.instret + 1 })

/-- A step of the table: a farm whose strips are all claimed and whose harts have all retired writes DONEVAL, frees its canopies and its block, and is
Done (R190, R220, R339). A farm with no strips completes as soon as it is eligible (R218). -/
def execFarmComplete (n : BitVec 16) (s : State) : Host.Outcome State Fault Refusal :=
  .next (match s.farmOf n with
    | none => s
    | some f =>
      if f.state = .completing then
        let s := writeFlag s f.space 13 (homeDie s f) f.rcd.done f.rcd.doneval
        let s := freeCanopies n s
        let p := s.partn f.rcd.part
        let s := s.setPart f.rcd.part { p with blocks := p.blocks.filter (fun b => b.1 != n), noVictim := p.noVictim && p.blocks.all (fun b => b.1 != n) }
        s.updFarm n (fun f => { f with state := .done })
      else s)

/-! ## Eligibility and priority (R270 to R272) -/

/-- The state an eligible farm enters: a farm without strips goes to Completing (R218, R270). -/
def eligible (now : Nat) (f : Farm) : Farm := { f with state := if f.rcd.strips = 0 then .completing else .ready, queuedAt := now }

/-- A step of the table: the home scheduler reads a Blocked farm's dependence flag (R271). -/
def execFarmDepRead (n : BitVec 16) (s : State) : Host.Outcome State Fault Refusal :=
  .next (match s.farmOf n with
    | none => s
    | some f =>
      if f.state != .blocked then s
      else match agentMap s f.space .load f.rcd.depaddr with
        | .error x =>
          if f.depReported then s
          else ((noteAll s x.notes).report { typ := 11, unit := 13, index := homeDie s f, part := some f.rcd.part, addr := f.rcd.depaddr.toNat }).updFarm n
            (fun f => { f with depReported := true })
        | .ok m =>
          let s := agentTouch s f.rcd.part m 8 true
          if homeRead s m.pa 8 ≥ f.rcd.depval.toNat then s.updFarm n (eligible s.tick) else s)

/-- Whether a swap has begun to take a farm's harts. -/
def leaving (s : State) (f : Farm) : Bool := f.state == .running && (!f.saved.isEmpty || (s.residents f.num).any (·.swapping))

/-- Whether a farm has unplaced demand (R272). -/
def wantsHarts (s : State) (f : Farm) : Bool :=
  match f.state with
  | .ready | .swapped => true
  | .running => !leaving s f && (s.residents f.num).length < f.rcd.harts && f.nextStrip < f.rcd.strips
  | _ => false

/-- Effective priority (R272); it never falls while the farm is Running. -/
def effOf (f : Farm) : Nat :=
  let e := min 7 (f.rcd.prio + f.waited / 2 ^ 20)
  if f.state == .running then max f.eff e else e

/-- Time passes for a farm with unplaced demand: the scheduler clock runs at 1.75 GHz (R272). -/
def Farm.wait (f : Farm) (s : State) (ns : Nat) : Farm := if wantsHarts s f then { f with unaged := f.unaged + 7 * ns } else f

/-- The scheduler cycles a farm has waited that its priority does not yet count (R272, R277). -/
def Farm.cyclesDue (f : Farm) : Nat := f.unaged / 4

/-- A step of the table: cycles of waiting pass for a farm with unplaced demand (R272). -/
def execPriorityAging (n : BitVec 16) (cycles : Nat) (s : State) : Host.Outcome State Fault Refusal :=
  .next (s.updFarm n (fun f => if wantsHarts s f then let g := { f with waited := f.waited + cycles, unaged := f.unaged - 4 * cycles }; { g with eff := effOf g } else f))

/-! ## Free places (R275, R276) -/

/-- Slot `k` of core `c` as a hart identity. -/
def hartIdOf (core slot : Nat) : HartId := BitVec.ofNat 10 (4 * core + slot)

/-- Harts resident on a core. -/
def coreCount (s : State) (core : Nat) : Nat := (s.harts.filter (fun h => coreOf h.id == core)).length

/-- The farms ranked for placement on a die: those with unplaced demand and a bench of their set there, of running partitions that no suspension is
saving, in the order of R274. -/
def candidates (s : State) (die : Nat) : List Farm :=
  let open' (p : BitVec 3) : Bool := (s.partn p).st == 1 && (s.partn p).bureauSaved.isNone && s.harts.all (fun h => !(h.bureau && h.part == p && h.swapping))
  let ahead (f g : Farm) : Bool :=
    let sw (x : Farm) : Nat := if x.state == .swapped then 0 else 1
    f.eff > g.eff || (f.eff == g.eff && (sw f < sw g || (sw f == sw g && (f.queuedAt < g.queuedAt || (f.queuedAt == g.queuedAt && f.num.toNat ≤ g.num.toNat)))))
  (s.farms.filter (fun f => open' f.rcd.part && wantsHarts s f && (benchSet s f).any (fun b => dieOf b == die))).insertionSort (fun f g => ahead f g = true)

/-- The slots that swaps keep for farms other than `n` (R276): those their victims' harts held. -/
def reservedSlots (s : State) (n : BitVec 16) : List HartId :=
  (s.farms.filter (fun v => match v.swapFor with | some g => g != n && (s.farmOf g).any (wantsHarts s) | none => false)).flatMap (·.keptSlots)

/-- A view of the machine for placing: harts that are there, benches, and slots no one may take. -/
structure Places where
  there : List Hart
  kept : List HartId

/-- The places left when the harts of some farms have gone. -/
def placesWithout (s : State) (n : BitVec 16) (gone : List (BitVec 16)) : Places :=
  { there := s.harts.filter (fun h => !gone.contains h.farm), kept := reservedSlots s n }

/-- Free slots of a core, ascending. -/
def Places.slots (p : Places) (core : Nat) : List HartId :=
  ((List.range 4).map (hartIdOf core)).filter (fun i => p.there.all (fun h => h.id != i) && !p.kept.contains i)

/-- Demand of a core in KiB. -/
def Places.demand (p : Places) (core : Nat) : Nat := (p.there.filter (fun h => coreOf h.id == core)).foldl (fun n h => n + demandKiB h.classCode) 0

/-- Harts on a core. -/
def Places.count (p : Places) (core : Nat) : Nat := (p.there.filter (fun h => coreOf h.id == core)).length

/-- The place of a new hart of a farm on a die: bench in cyclic order after the last, the core with the fewest harts, the lowest slot (R275). -/
def placeFor (s : State) (p : Places) (die : Nat) (f : Farm) : Option HartId :=
  let mine := (benchSet s f).filter (fun b => dieOf b == die)
  let order := match (if die = 0 then f.lastBench.1 else f.lastBench.2) with
    | none => mine
    | some l => mine.filter (fun b => decide (l < b)) ++ mine.filter (fun b => decide (b ≤ l))
  let need := demandKiB f.rcd.rsc.toNat
  order.findSome? (fun b =>
    let cores := ((List.range 4).map (4 * b + ·)).filter (fun c => !(p.slots c).isEmpty && p.demand c + need ≤ Config.drawerLimitKiB)
    match cores.insertionSort (fun c d => p.count c ≤ p.count d) with
    | c :: _ => (p.slots c).head?
    | [] => none)

/-- The old benches whose canopy a swapped farm owned. -/
def Farm.canopyBenches (f : Farm) : List Nat := f.savedCanopies.map Prod.fst
/-- The tiles a saved hart owned. -/
def Farm.tilesOfHart (f : Farm) (i : HartId) : List Nat := (f.savedTiles.filter (fun t => t.1 == i)).map (fun t => t.2.1)
/-- Whether a saved hart must go where the others of its old bench go (R279). -/
def Farm.bound (f : Farm) (i : HartId) : Bool := f.canopyBenches.contains (benchOf i) || !(f.tilesOfHart i).isEmpty

/-- Whether saved hart `h` of farm `f` can go to slot `i`, given where others go (R279). `freeTile` and `freeCanopy` tell what a bench has free. -/
def canGo (f : Farm) (p : Places) (freeTile : Nat → Nat → Bool) (freeCanopy : Nat → Bool) (got : List (Hart × HartId)) (h : Hart) (i : HartId) : Bool :=
  let nb := benchOf i
  let ob := benchOf h.id
  got.all (fun g => g.2 != i)
    && p.demand (coreOf i) + (got.filter (fun g => coreOf g.2 == coreOf i)).foldl (fun n g => n + demandKiB g.1.classCode) 0 + demandKiB h.classCode
        ≤ Config.drawerLimitKiB
    && (f.tilesOfHart h.id).all (freeTile nb)
    && (!f.canopyBenches.contains ob || freeCanopy nb)
    && got.all (fun g =>
        (!(f.bound h.id && f.bound g.1.id && benchOf g.1.id == ob) || benchOf g.2 == nb)
        && (benchOf g.2 != nb || benchOf g.1.id == ob
            || (!(f.canopyBenches.contains ob && f.canopyBenches.contains (benchOf g.1.id))
                && (f.tilesOfHart h.id).all (fun t => !(f.tilesOfHart g.1.id).contains t))))

/-- Places for all saved harts, by trying every slot in turn. -/
def assignAll (fits : List (Hart × HartId) → Hart → HartId → Bool) (slots : List HartId) : List Hart → List (Hart × HartId) → Option (List (Hart × HartId))
  | [], got => some got
  | h :: t, got => slots.findSome? (fun i => if fits got h i then assignAll fits slots t (got ++ [(h, i)]) else none)

/-- The places of a whole swapped farm, on benches of its set, when some farms have gone; which of the slots that serve is free (R279; log entry 46). -/
def placesForAll (s : State) (p : Places) (gone : List (BitVec 16)) (f : Farm) : Option (List (Hart × HartId)) :=
  let left (i : HartId) : Bool := p.there.all (fun h => h.id != i)
  let freeTile (b t : Nat) : Bool := match (s.bench b).tiles.toList[t]? with
    | some x => (match x.owner with | some o => left o && (s.findHart o).isSome | none => true)
    | none => false
  let freeCanopy (b : Nat) : Bool := match (s.bench b).canopyOwner with | some o => gone.contains o | none => true
  let slots := (benchSet s f).flatMap (fun b => (List.range 4).flatMap (fun c => p.slots (4 * b + c)))
  assignAll (canGo f p freeTile freeCanopy) (freeOrder s.fresh slots) f.saved []

/-- Whether a candidate's need is met on a die when some farms have gone: one placement, or all of it if it was swapped (R276). -/
def served (s : State) (die : Nat) (gone : List (BitVec 16)) (f : Farm) : Bool :=
  let p := placesWithout s f.num gone
  if f.state == .swapped then (placesForAll s p gone f).isSome else (placeFor s p die f).isSome

/-- Whether every resident hart of a farm is yielding or sleeping (R276). -/
def idleFarm (s : State) (v : Farm) : Bool := (s.residents v.num).all (fun h => h.yielded || (match h.run with
  | .asleep (.vwait ..) | .asleep (.fjoin ..) | .asleep (.wfe ..) => true
  | _ => false))

/-- The farms that may be swapped out for a candidate on a die, in the order of R276. -/
def victims (s : State) (die : Nat) (f : Farm) : List Farm :=
  let set := (benchSet s f).filter (fun b => dieOf b == die)
  let ok (v : Farm) : Bool :=
    v.state == .running && v.rcd.part == f.rcd.part && v.num != f.num && !leaving s v && !(s.partn f.rcd.part).noVictim
      && (s.residents v.num).any (fun h => set.contains (benchOf h.id))
      && (v.eff < f.eff || (v.eff ≤ f.eff && idleFarm s v))
  let ahead (v w : Farm) : Bool :=
    let i (x : Farm) : Nat := if idleFarm s x then 0 else 1
    v.eff < w.eff || (v.eff == w.eff && (i v < i w || (i v == i w && v.placedAt ≥ w.placedAt)))
  (s.farms.filter ok).insertionSort (fun f g => ahead f g = true)

/-- The victim to swap for a candidate: the first that frees enough alone, else the first of several whose union does. -/
def victimFor (s : State) (die : Nat) (f : Farm) : Option Farm :=
  let vs := victims s die f
  match vs.find? (fun v => served s die [v.num] f) with
  | some v => some v
  | none => if served s die (vs.map (·.num)) f then vs.head? else none

/-- What a scheduler does in a cycle (R277). -/
inductive SchedAction where
  | place (f : BitVec 16) (i : HartId) | resume (f : BitVec 16) | swap (v f : BitVec 16)
  deriving DecidableEq, Repr

/-- The action of a die's scheduler: the first candidate that can be served, or for which a victim can be swapped (R277). -/
def schedulerChoice (s : State) (die : Nat) : Option SchedAction :=
  (candidates s die).findSome? (fun f =>
    let p := placesWithout s f.num []
    if f.state == .swapped then
      (if (placesForAll s p [] f).isSome then some (.resume f.num) else
        if s.farms.any (fun v => v.swapFor == some f.num && leaving s v) then none else (victimFor s die f).map (fun v => .swap v.num f.num))
    else match placeFor s p die f with
      | some i => some (.place f.num i)
      | none => if s.farms.any (fun v => v.swapFor == some f.num && leaving s v) then none else (victimFor s die f).map (fun v => .swap v.num f.num))

/-! ## Placing (R37, R275) -/

/-- Put a hart that is not resident among the machine's harts. -/
def State.addHart (s : State) (h : Hart) : State := if s.hart.present then { s with others := hartIns s.others h } else { s with hart := h }

/-- A hart as it starts (R37). -/
def startHart (s : State) (i : HartId) (farm : BitVec 16) (part : BitVec 3) (prv : BitVec 2) (entry arg trapbase ptbase : Word) (asid : BitVec 16) : Hart :=
  { Hart.init with
    id := i, run := .ready, farm := farm, part := part, partid := part, pc := pcValue entry, x := Hart.init.x.set 3 arg,
    status := setBit (setBit (setField 0x8 0 2 prv.toNat) 2 (prv != 0)) 4 s.boot.refMode,
    trapbase := trapbase &&& ~~~3#64, ptbase := ptbase, asid := asid }

/-- The slots kept for a farm are released once it is served or leaves the candidates (R276). -/
def servedFarm (n : BitVec 16) (s : State) : State :=
  { s with farms := s.farms.map (fun v => if v.swapFor == some n then { v with swapFor := none, keptSlots := [] } else v) }

/-- A core's L1 holds nothing for a hart that starts or resumes in a slot there (R218, R257, R271), and its queues nothing of an earlier hart of the slot. -/
def freshView (i : HartId) (s : State) : State :=
  let k := s.core (coreOf i)
  if k.l1.isEmpty && k.window.isEmpty then s
  else s.setCore (coreOf i) { k with l1 := [], window := k.window.filter (fun u => u.slotNo != (i.extractLsb' 0 2).toNat) }

/-- Record a placement on a bench (R275). -/
def Farm.placedOn (f : Farm) (bench now : Nat) : Farm :=
  { f with state := .running, placedAt := now, lastBench := if dieOf bench = 0 then (some bench, f.lastBench.2) else (f.lastBench.1, some bench) }

/-- A step of the table: a die's scheduler places one new hart of a farm, if that is its action now (R275, R277). -/
def execHartPlace (n : BitVec 16) (die : Bool) (s : State) : Host.Outcome State Fault Refusal :=
  .next (match schedulerChoice s die.toNat with
    | some (.place k i) =>
      if k != n then s
      else match s.farmOf n with
        | none => s
        | some f =>
          let h := startHart s i n f.rcd.part 0 f.rcd.entry f.rcd.arg f.trapbase f.ptbase f.asid
          servedFarm n (freshView i ((s.addHart h).updFarm n (fun f => f.placedOn (benchOf i) s.tick)))
    | _ => s)

end Sys2Proof.Machine
end

