-- ==== Sys2Proof/Machine/VectorMask.lean ====
section
/-! DEFINITION. Mask instructions (R168 to R170). -/

namespace Sys2Proof.Machine

/-- A mask instruction under VILL raises 0x10; otherwise it acts whole and completes, with VRI 0 (R34, R168). Resumed at or above VL it touches no
element, as if none lay below VLV (R335). -/
def maskStep (i : Instr) (s : State) (k : Hart → Hart) : Host.Outcome State Fault Refusal :=
  .next (checked i s (fun s => held s (fun s =>
    if s.hart.vill then trapHere (vtypeTrap s.hart) s
    else
      let h := s.hart
      let past := 0 < h.vri.toNat && h.vlg ≤ h.vri.toNat
      finishVec 0 (s.withHart { k { h with vlv := if past then 0 else h.vlv } with vlv := h.vlv }))))

/-- Write the elements of mask `md` below VLV from an image; bits beyond stay (R20, R168). -/
def putMask (h : Hart) (md : Reg) (bits : Nat) : Hart := h.setMask md.toNat (mergeMask (h.mask md.toNat) bits h.vlv)

/-- A source mask: its bits below VLV (R168). -/
def maskIn (h : Hart) (n : Reg) : Nat := h.mask n.toNat % 2 ^ h.vlv

/-- The image of all ones below VLV. -/
def allOnes (h : Hart) : Nat := 2 ^ h.vlv - 1

/-- MAND (R168). -/
def execMand (md a b : Reg) (s : State) : Host.Outcome State Fault Refusal :=
  maskStep (.mand md a b) s (fun h => putMask h md (maskIn h a &&& maskIn h b))
/-- MOR (R168). -/
def execMor (md a b : Reg) (s : State) : Host.Outcome State Fault Refusal :=
  maskStep (.mor md a b) s (fun h => putMask h md (maskIn h a ||| maskIn h b))
/-- MXOR (R168). -/
def execMxor (md a b : Reg) (s : State) : Host.Outcome State Fault Refusal :=
  maskStep (.mxor md a b) s (fun h => putMask h md (maskIn h a ^^^ maskIn h b))
/-- MANDN (R168). -/
def execMandn (md a b : Reg) (s : State) : Host.Outcome State Fault Refusal :=
  maskStep (.mandn md a b) s (fun h => putMask h md (maskIn h a &&& (allOnes h - maskIn h b)))
/-- MNOT (R168). -/
def execMnot (md a : Reg) (s : State) : Host.Outcome State Fault Refusal :=
  maskStep (.mnot md a) s (fun h => putMask h md (allOnes h - maskIn h a))
/-- The shift count: x[b], or the field itself under I (R168). -/
def maskShift (s : State) (b : Reg) (imm : Bool) : Nat := if imm then b.toNat else (s.getX b).toNat
/-- Bits moved `k` elements up, within `vlv`; a shift of `vlv` or more clears them. -/
def maskUp (vlv k x : Nat) : Nat := if k < vlv then (x <<< k) % 2 ^ vlv else 0
/-- Bits moved `k` elements down. -/
def maskDown (vlv k x : Nat) : Nat := if k < vlv then x >>> k else 0
/-- MSHL (R168). -/
def execMshl (md a b : Reg) (imm : Bool) (s : State) : Host.Outcome State Fault Refusal :=
  maskStep (.mshl md a b imm) s (fun h => putMask h md (maskUp h.vlv (maskShift s b imm) (maskIn h a)))
/-- MSHR (R168). -/
def execMshr (md a b : Reg) (imm : Bool) (s : State) : Host.Outcome State Fault Refusal :=
  maskStep (.mshr md a b imm) s (fun h => putMask h md (maskDown h.vlv (maskShift s b imm) (maskIn h a)))
/-- MSET (R168). -/
def execMset (md : Reg) (s : State) : Host.Outcome State Fault Refusal := maskStep (.mset md) s (fun h => putMask h md (allOnes h))
/-- MCLR (R168). -/
def execMclr (md : Reg) (s : State) : Host.Outcome State Fault Refusal := maskStep (.mclr md) s (fun h => putMask h md 0)
/-- MMV (R168). -/
def execMmv (md a : Reg) (s : State) : Host.Outcome State Fault Refusal := maskStep (.mmv md a) s (fun h => putMask h md (maskIn h a))

/-- The elements below VLV that a mask and the governing mask both select (R169). -/
def maskSet (h : Hart) (a : Reg) (m : MaskField) : Nat := maskIn h a &&& (if m == 0 then allOnes h else h.mask m.toNat)

/-- MPOPC (R169). -/
def execMpopc (d a : Reg) (m : MaskField) (s : State) : Host.Outcome State Fault Refusal :=
  maskStep (.mpopc d a m) s (fun h => h.setX d (BitVec.ofNat 64 (onesIn h.vlv (maskSet h a m))))
/-- MFIRST: the smallest element, or all ones (R169). -/
def execMfirst (d a : Reg) (m : MaskField) (s : State) : Host.Outcome State Fault Refusal :=
  maskStep (.mfirst d a m) s (fun h => h.setX d (match (List.range h.vlv).find? (maskSet h a m).testBit with
    | some e => BitVec.ofNat 64 e
    | none => 0xFFFF_FFFF_FFFF_FFFF))
/-- MLAST: the largest element, or all ones (R169). -/
def execMlast (d a : Reg) (m : MaskField) (s : State) : Host.Outcome State Fault Refusal :=
  maskStep (.mlast d a m) s (fun h => h.setX d (if maskSet h a m = 0 then 0xFFFF_FFFF_FFFF_FFFF else BitVec.ofNat 64 (Nat.log2 (maskSet h a m))))

/-! ## MLD and MST (R170) -/

/-- The fault of byte `j` of a mask image, with VRI = 8j (R170). -/
def maskByteFault (s : State) (k : AccessKind) (base : Word) (j : Nat) : Option TrapReq :=
  let a := base + BitVec.ofNat 64 j
  if isRemote base then (if j = 0 then some { remoteTrap a with vri := some 0 } else none)
  else match checkAccess s k false 1 a with
    | .error t => some { t with vri := some (8 * j) }
    | .ok m =>
      if k == .load && s.hart.ptrap && viewPoisoned s m 1 then some { trapOf 0x07 (BitVec.ofNat 64 (sectorOf a.toNat)) with vri := some (8 * j) } else none

/-- A byte of a mask image as a load brings it: zero from a poisoned sector (R170). -/
def maskByte (s : State) (base : Word) (j : Nat) : Nat × Bool :=
  match checkAccess s .load false 1 (base + BitVec.ofNat 64 j) with
  | .error _ => (0, false)
  | .ok m => if viewPoisoned s m 1 then (0, true) else (viewRead s m 1, false)

/-- The bytes of a mask image that MLD and MST move: from byte VRI / 8 on, and none where they resume at or above VL (R170, R335). -/
def maskBytes (h : Hart) : List Nat :=
  if 0 < h.vri.toNat && h.vlg ≤ h.vri.toNat then [] else (List.range (cdiv h.vlv 8)).filter (h.vri.toNat / 8 ≤ ·)

/-- The checks of MLD and MST before their bytes. -/
def maskMem (i : Instr) (s : State) (k : State → State) : Host.Outcome State Fault Refusal :=
  .next (checked i s (fun s => held s (fun s => if s.hart.vill then trapHere (vtypeTrap s.hart) s else k s)))

/-- MLD (R170). -/
def execMld (md a : Reg) (s : State) : Host.Outcome State Fault Refusal :=
  maskMem (.mld md a) s (fun s =>
    let h := s.hart
    let base := s.getX a
    let n := cdiv h.vlv 8
    let todo := maskBytes h
    let stop := firstFault todo (maskByteFault s .load base)
    let f := match stop with | some (j, _) => j | none => n
    let bytes := (todo.filter (· < f)).map (fun j => (j, maskByte s base j))
    let flags := flagIf (bytes.any (·.2.2)) PSN
    let old := maskIn h md
    let img := bytes.foldl (fun acc p => acc - (bitsAt (8 * p.1) 8 acc) <<< (8 * p.1) + p.2.1 <<< (8 * p.1)) old
    let s1 := bytes.foldl (fun t p => elemTouch false s t { addr := base + BitVec.ofNat 64 p.1, off := 0, bits := 8 }) s
    let s1 := s1.withHart (putMask s1.hart md img)
    match stop with
    | some (_, t) => trapHere t (s1.withHart (s1.hart.raise flags))
    | none => finishFlags 4 flags (s1.withHart { s1.hart with vri := 0 }))

/-- MST: ascending bytes, the last one's bits at or beyond VLV zero (R170). It is a vector store to R419 as to R172 (DEDUCED, log entry 92). -/
def execMst (ms a : Reg) (s : State) : Host.Outcome State Fault Refusal :=
  maskMem (.mst ms a) s (fun s =>
    let h := s.hart
    let base := s.getX a
    let n := cdiv h.vlv 8
    let todo := maskBytes h
    let stop := firstFault todo (maskByteFault s .store base)
    let f := match stop with | some (j, _) => j | none => n
    let img := maskIn h ms
    let s1 := commitElems false ((todo.filter (· < f)).map (fun j => [({ addr := base + BitVec.ofNat 64 j, off := 0, bits := 8 }, bitsAt (8 * j) 8 img, false)])) s
    let s1 := s1.withHart s1.hart.dropAhead
    match stop with
    | some (_, t) => trapHere t (afterStop true s1)
    | none => finishFlags 4 0 (s1.withHart { s1.hart with vri := 0 }))

end Sys2Proof.Machine
end

