-- ==== Sys2Proof/Machine/Wait.lean ====
section
/-! DEFINITION. Waiting: VWAIT, FJOIN and what ends a wait (R212 to R216), and interrupts (R39, R330). -/

namespace Sys2Proof.Machine

/-- A SYS instruction: its minimum level, then its bits, then its effect (R445). -/
def sysStep (i : Instr) (level : Nat) (s : State) (k : State → State) : Host.Outcome State Fault Refusal :=
  .next (if s.hart.prv < level then privileged i s else checked i s k)

/-! ## Watched locations -/

/-- The fault of a watched address (R213, R215). -/
def watchFault (s : State) (n : Nat) (a : Word) : Option TrapReq :=
  if a.toNat % n ≠ 0 then some (trapOf 0x02 a)
  else if isRemote a then some (remoteTrap a)
  else match checkAccess s .load false n a with
    | .error t => some t
    | .ok _ => none

/-- What a watched location holds at its home, read with acquire at device scope; a location that has lost its translation is not found. -/
def watchValue (s : State) (n : Nat) (a : Word) : Option Nat :=
  match checkAccess s .load false n a with
  | .ok m => some (homeRead s m.pa n)
  | .error _ => none

/-- Before watching: the hart's own older stores to the watched bytes have performed (R103, R244), and the homes are read (R302, R319). -/
def watchFirst (n : Nat) (as : List Word) (s : State) : State :=
  let ms := as.filterMap (fun a => match checkAccess s .load false n a with | .ok m => some m | .error _ => none)
  ms.foldl (fun s m => (sectorsOf m.pa n).foldl (fun s k => touch s s.hart.partid k m.abench m.uc false true) (noteWalk s (some s.hart.id) m))
    (drainThrough (fun e => ms.any (fun m => e.meets m.pa n)) s)

/-- Whether a watched value meets a VWAIT's condition (R212). -/
def waitCond (c : BitVec 2) (w : Bool) (v : Nat) (cmp : Word) : Bool :=
  let x := if w then cmp.toNat % 2 ^ 32 else cmp.toNat
  match c.toNat with
  | 0 => v == x
  | 1 => v != x
  | _ => v ≥ x

/-- The elements of a VWAIT that are satisfied now or were before: satisfaction is final (R213). -/
def satisfied (s : State) (cmp : Word) (addrs : List (Nat × Word)) (w : Bool) (c : BitVec 2) (sat : List Nat) : List Nat :=
  (addrs.filter (fun a => sat.contains a.1 || (match watchValue s (if w then 4 else 8) a.2 with | some v => waitCond c w v cmp | none => false))).map Prod.fst

/-- Clear the bits of satisfied elements in a VWAIT's mask, if it names one (R213, R214). -/
def clearSatisfied (m : MaskField) (sat : List Nat) (h : Hart) : Hart :=
  if m = 0 then h else h.setMask m.toNat (sat.foldl (fun b e => b &&& (b ^^^ (1 <<< e))) (h.mask m.toNat))

/-- A VWAIT ends: the unmet count, the mask, and the acquire of what satisfied it. -/
def endVwait (d : Reg) (addrs : List (Nat × Word)) (m : MaskField) (sat : List Nat) (b : Reg) (s : State) : State :=
  let s := if sat.isEmpty then s else dropL1 s
  let cs := consumed s.hart [indexOpnd s.hart b.toNat]
  let h := advanceChunks s (clearSatisfied m sat s.hart) cs
  let h := { h with run := .ready }
  finishVec 0 (s.withHart (h.setX d (BitVec.ofNat 64 (addrs.filter (fun a => !sat.contains a.1)).length)))

/-- Whether the current hart's partition has an interrupt pending for it: only a bureau hart has (R330). -/
def hasPending (s : State) : Bool := s.hart.bureau && !(s.partn s.hart.part).pending.isEmpty

/-- End the current hart's wait if what it waits for has come (R213, R215, R216); a VWAIT keeps what is satisfied so far. -/
def settleWait (s : State) : State :=
  match s.hart.run with
  | .asleep (.vwait d cmp addrs m w c start timeout sat b) =>
    let sat' := satisfied s cmp addrs w c sat
    if addrs.all (fun a => sat'.contains a.1) then endVwait d addrs m sat' b s
    else s.withHart { s.hart with run := .asleep (.vwait d cmp addrs m w c start timeout sat' b) }
  | .asleep (.fjoin d a) =>
    (match watchValue s 8 a with
    | some v => if v = 0 then s else finish 4 ((dropL1 (s.withHart { s.hart with run := .ready })).setX d (BitVec.ofNat 64 v))
    | none => s)
  | .asleep (.wfe d _ _) => if hasPending s then finish 4 ((s.withHart { s.hart with run := .ready }).setX d 1) else s
  | _ => s

/-- Whether a wait's time-out has come (R213, R216). -/
def timedOut (s : State) (start timeout : Word) : Bool := timeout != 0 && (s.time - start).toNat ≥ timeout.toNat

/-- End the current hart's wait at its time-out. -/
def expireWait (s0 : State) : State :=
  let s := settleWait s0
  match s.hart.run with
  | .asleep (.vwait d _ addrs m _ _ start timeout sat b) => if timedOut s start timeout then endVwait d addrs m sat b s else s
  | .asleep (.wfe d start timeout) => if timedOut s start timeout then finish 4 ((s.withHart { s.hart with run := .ready }).setX d 2) else s
  | _ => s

/-- Bring the current hart to its pre-emption point: a wait that is satisfied is complete; any other instruction that waits stops where it is, what satisfied
elements of a VWAIT acquired stays acquired (R213, R255), its matrix instructions leave the queues, and the instruction at PC is fetched again (R214, R278,
R284, R338). -/
def breakWait (s0 : State) : State :=
  let s := settleWait s0
  let s := match s.hart.run with
    | .asleep (.vwait _ _ _ m _ _ _ _ sat _) =>
      let s := if sat.isEmpty then s else dropL1 s
      s.withHart { clearSatisfied m sat s.hart with run := .ready }
    | .asleep (.fjoin _ _) | .asleep (.wfe _ _ _) | .asleep .channel | .asleep .matrix => s.withHart { s.hart with run := .ready }
    | _ => s
  let s := dropPosts s.hart.id s
  s.withHart { s.hart with fetched := none, stalled := false }

/-- Whether a hart can stop at its pre-emption point now: not while a remote access or a class change is under way (R338). -/
def Hart.canStop (h : Hart) : Bool := h.run != .asleep .remote && !h.moving

/-- Whether the accesses of a hart over path F are all acknowledged too: it may be interrupted, halted or saved (R39, R257, R283). -/
def State.mayStop (s : State) (h : Hart) : Bool := h.canStop && (tget [] s.posted h.id.toNat).isEmpty

/-- A step of the table: something a sleeping hart waits for may have come (R213, R215, R216). A WFE with a watched sector ends too: it may end early at any
moment (R216; log entry 47). -/
def execWaitSatisfied (h : HartId) (s : State) : Host.Outcome State Fault Refusal :=
  .next (asHart h (fun s =>
    let s := settleWait s
    match s.hart.run with
    | .asleep (.wfe d _ _) => if s.hart.lastLda.isSome then finish 4 ((s.withHart { s.hart with run := .ready }).setX d 0) else s
    | _ => s) (settleHart h s))

/-- A step of the table: a sleeping wait's time-out may have come (R213, R216). -/
def execWaitTimeout (h : HartId) (s : State) : Host.Outcome State Fault Refusal := .next (asHart h expireWait (settleHart h s))

/-- A step of the table: a WFE ends early, with 0 (R216). -/
def execWfeEarlyEnd (h : HartId) (s : State) : Host.Outcome State Fault Refusal :=
  .next (asHart h (fun s => match s.hart.run with
    | .asleep (.wfe d _ _) => finish 4 ((s.withHart { s.hart with run := .ready }).setX d 0)
    | _ => s) s)

/-! ## VWAIT and FJOIN -/

/-- VWAIT (R212, R213): every active address is checked, then watched. -/
def execVwait (d a b : Reg) (m : MaskField) (w : Bool) (c : BitVec 2) (s : State) : Host.Outcome State Fault Refusal :=
  .next (checked (.vwait d a b m w c) s (fun s => held s (fun s =>
    let r := b.toNat
    match vecCheck (.vwait d a b m w c) s.hart { grant := indexFits s.hart r, format := s.hart.srcTag r == 3, rounds := false } false 3 [indexOpnd s.hart r] with
    | some t => trapHere t s
    | none => match readySources s [indexOpnd s.hart r] with
      | none => stall s
      | some (s, g, cs) =>
        let addrs := (idxs s.hart.vlv (fun e => s.hart.selects m false e)).map (fun e => (e, BitVec.ofNat 64 (indexBits g 3 (indexRegs s.hart r) r e)))
        let n := if w then 4 else 8
        let fault := addrs.findSome? (fun p => match chunksFault s cs p.1 with
          | some t => some { t with vri := some p.1 }
          | none => (watchFault s n p.2).map (fun t => { t with vri := some p.1 }))
        match fault with
        | some t => trapHere t s
        | none =>
          let s := watchFirst n (addrs.map Prod.snd) s
          settleWait (s.withHart { s.hart with run := .asleep (.vwait d (s.getX a) addrs m w c s.time (s.getX d) [] b) }))))

/-- FJOIN (R215). -/
def execFjoin (d a : Reg) (s : State) : Host.Outcome State Fault Refusal :=
  sysStep (.fjoin d a) 0 s (fun s =>
    match watchFault s 8 (s.getX a) with
    | some t => trapHere t s
    | none =>
      let s := watchFirst 8 [s.getX a] s
      settleWait (s.withHart { s.hart with run := .asleep (.fjoin d (s.getX a)) }))

/-! ## Interrupts (R39, R330) -/

/-- Whether the current hart takes an interrupt before its next instruction. -/
def takesInterrupt (s : State) : Bool :=
  s.hart.present && hasPending s && s.hart.ie && s.hart.run != .halted && s.mayStop s.hart && !s.hart.swapping

/-- Take the pending interrupt of the lowest cause (R39); a timer interrupt reports TIME at delivery (R38). -/
def takeInterruptHere (s : State) : State :=
  let p := s.hart.part
  match (s.partn p).pending with
  | [] => s
  | (c, v) :: rest =>
    let q := s.partn p
    let s := s.setPart p { q with pending := rest, suspTaken := q.suspTaken || (c == 0x80 && q.suspTime.isSome) }
    trapHere (trapOf c (if c == 0x81 then s.time else v)) s

/-- A step of the table: a hart takes a pending interrupt, which ends its wait (R39, R214). -/
def execTakeInterrupt (h : HartId) (s : State) : Host.Outcome State Fault Refusal :=
  .next (asHart h (fun s =>
    if takesInterrupt s then (let s := breakWait s; if takesInterrupt s then takeInterruptHere s else s) else s) s)

end Sys2Proof.Machine
end

