-- ==== Sys2Proof/Machine/Cabinet.lean ====
section
/-! DEFINITION. The save engine: farm blocks and context images (R339 to R345), swaps (R278), resumption (R279) and suspension (R331). -/

namespace Sys2Proof.Machine

/-! ## Layout of an image (R341 to R343) -/

/-- Round up to a multiple. -/
def alignUp (n a : Nat) : Nat := cdiv n a * a

/-- Class bytes of a hart. -/
def Hart.classSize (h : Hart) : Nat := classBytes h.classCode

/-- ME, the mask extent in bits (R341). -/
def Hart.maskExtent (h : Hart) : Nat := min 65536 (16 * h.classSize)

/-- VOFF (R343). -/
def imageV : Nat := 0x1000
/-- MOFF (R343). -/
def imageM (h : Hart) : Nat := imageV + 32 * h.classSize
/-- POFF (R343). -/
def imageP (h : Hart) : Nat := imageM h + 7 * alignUp (h.maskExtent / 8) 64
/-- TOFF (R343). -/
def imageT (h : Hart) : Nat := imageP h + 8 * h.classSize
/-- Bytes of a tile's record (R343). -/
def tileBytes : Nat := Config.mtlen * Config.mtlen * 4 + Config.mtlen * Config.mtlen / 8 + 128 * Config.mtlen
/-- Bytes a hart's image may take: room for four tiles is kept (log entry 27). -/
def imageSize (h : Hart) : Nat := alignUp (imageT h + 4 * tileBytes) 4096

/-- KEYCTL (R33). -/
def Hart.keyctl (h : Hart) : Word := BitVec.ofNat 64 (h.keyTable.length + (if h.keyOvf then 128 else 0))

/-- The system registers of an image in their order (R341). -/
def savedRegs (h : Hart) : List Word :=
  [h.status, h.vtype.zeroExtend 64, BitVec.ofNat 64 h.vlg, BitVec.ofNat 64 h.vlv, h.vri, h.rscg.zeroExtend 64, h.lslip.zeroExtend 64, h.fflags.zeroExtend 64,
   h.frm.zeroExtend 64, h.key 0, h.key 1, h.key 2, h.key 3, h.keyctl, h.trapcause, h.trappc, h.trapval, h.trapbase, h.trapscratch, h.trapstatus,
   h.skew.zeroExtend 64, h.pwrhint.zeroExtend 64, h.cycle, h.instret, h.stripno, h.ptbase, h.asid.zeroExtend 64, h.g2fval, h.trapowe.zeroExtend 64]

/-- The eight doublewords of a stream control block (R133). -/
def scbWords (b : Scb) : List Word :=
  [b.base, BitVec.ofNat 64 (b.cols + 2 ^ 32 * b.rows), b.estride, b.rstride, BitVec.ofNat 64 b.origin,
   BitVec.ofNat 64 (b.fmt.toNat + 256 * b.dir.toNat + (if b.nt then 2 ^ 10 else 0) + (if b.u then 2 ^ 11 else 0)), b.flag, b.flagval]

/-- The sixteen doublewords of a stream register's binding (R341). -/
def bindingWords (b : Option Binding) : List Word :=
  (match b with
   | some b => scbWords b.scb ++ [BitVec.ofNat 64 b.pos, 1]
   | none => List.replicate 10 0) ++ List.replicate 6 0

/-- Bytes of a register's extent (R343). -/
def extentOf (v : VReg) : Nat := alignUp ((max v.vlen v.prog * elemWidth v.fmt.toNat + 7) / 8) 64

/-- Whether a save writes a register's data (R343). -/
def savesReg (whole : Bool) (v : VReg) : Bool := extentOf v != 0 && (v.dirty || whole)

/-- A register's descriptor (R342). -/
def descriptor (whole : Bool) (v : VReg) : Word :=
  BitVec.ofNat 64 (v.fmt.toNat + (if v.dirty then 32 else 0) + (if savesReg whole v then 64 else 0) + 2 ^ 7 * v.vlen + 2 ^ 24 * v.prog)

/-- The tiles a hart owns on its bench, ascending. -/
def ownedTiles (s : State) (i : HartId) : List (Nat × Tile) :=
  ((s.bench (benchOf i)).tiles.toList.zipIdx.filter (fun p => p.1.owner == some i)).map (fun p => (p.2, p.1))

/-- The four tile headers (R341). -/
def tileHeaders (l : List (Nat × Tile)) : List Word :=
  (List.range 4).flatMap (fun t => match l.find? (fun p => p.1 == t) with
    | some (_, x) => [setBit x.status 32 x.nf, BitVec.ofNat 64 x.rounds] ++ List.replicate 6 0
    | none => List.replicate 8 0)

/-- The fixed part of an image, 0xA40 bytes (R341). -/
def fixedPart (h : Hart) (tiles : List (Nat × Tile)) (whole : Bool) : List Word :=
  [BitVec.ofNat 64 (h.id.toNat + (if h.granted then 2 ^ 10 else 0) + 2 ^ 11 * h.classCode + 2 ^ 16 * (tiles.foldl (fun m t => m + 2 ^ t.1) 0)),
   BitVec.ofNat 64 h.maskExtent, BitVec.ofNat 64 imageV, BitVec.ofNat 64 (imageM h), BitVec.ofNat 64 (imageT h), BitVec.ofNat 64 (imageP h), 0, 0, h.pc]
    ++ h.x.toList.drop 1
    ++ savedRegs h ++ [0, 0, 0]
    ++ (h.keyTable ++ List.replicate (64 - h.keyTable.length) 0)
    ++ h.streams.toList.flatMap bindingWords
    ++ h.v.toList.map (descriptor whole)
    ++ tileHeaders tiles

/-- The bytes of a list of doublewords. -/
def wordBytes (l : List Word) : List Byte := l.flatMap (fun w => bytesOf 8 w.toNat)

/-- A tile's check-state block (log entry 27). -/
def Tile.checkBlock (t : Tile) : Nat := Config.checkBlock t.rowC t.rowM t.colC t.colM % 2 ^ (1024 * Config.mtlen)

/-- The pieces of an image: offsets and bytes (R341 to R343). The check-state block's encoding is its own (log entry 27). -/
def imagePieces (h : Hart) (tiles : List (Nat × Tile)) (whole : Bool) : List (Nat × List Byte) :=
  let c := h.classSize
  let regs := (h.v.toList.zipIdx.filter (fun p => savesReg whole p.1)).flatMap (fun p =>
    [(imageV + p.2 * c, bytesOf (extentOf p.1) (p.1.img % 2 ^ (8 * c))),
     (imageP h + p.2 * (c / 4), bytesOf (c / 4) (p.1.poison % 2 ^ max p.1.vlen p.1.prog))])
  let masks := h.m.toList.zipIdx.map (fun p => (imageM h + p.2 * alignUp (h.maskExtent / 8) 64, bytesOf (alignUp (h.maskExtent / 8) 64) (p.1 % 2 ^ h.maskExtent)))
  let n := Config.mtlen * Config.mtlen
  let ts := tiles.zipIdx.map (fun p => (imageT h + p.2 * tileBytes,
    bytesOf (4 * n) p.1.2.acc ++ bytesOf (n / 8) p.1.2.poison ++ bytesOf (128 * Config.mtlen) p.1.2.checkBlock))
  (0, wordBytes (fixedPart h tiles whole)) :: regs ++ masks ++ ts

/-! ## Blocks (R339, R340) -/

/-- The space of the save engine's accesses: IPAs of a partition (R339). -/
def cabinetSpace (p : BitVec 3) : Space := { part := p, ptbase := 0, asid := 0, prv := 1 }

/-- Where a block of some bytes goes in a partition's cabinet, first fit (log entry 48). -/
def findBlock (p : Part) (n : BitVec 16) (size : Nat) : Option Nat :=
  let lo := p.cabase.toNat
  let hi := lo + p.casize.toNat
  let others := p.blocks.filter (fun b => b.1 != n)
  let fits (a : Nat) : Bool := lo ≤ a && a + size ≤ hi && others.all (fun b => a + size ≤ b.2.1 || b.2.1 + b.2.2 ≤ a)
  match p.blocks.find? (fun b => b.1 == n && size ≤ b.2.2) with
  | some b => some b.2.1
  | none => (((lo :: others.map (fun b => b.2.1 + b.2.2)).map (fun a => alignUp a 4096)).insertionSort (· ≤ ·)).find? fits

/-- Give each hart of a farm its hart index: the one it has, else the next free (R339). -/
def indexHarts (hs : List Hart) : List (Hart × Nat) :=
  let next := hs.foldl (fun n h => match h.index with | some i => max n (i + 1) | none => n) 0
  let fresh := hs.filter (·.index.isNone)
  (hs.filterMap (fun h => h.index.map (fun i => (h, i)))) ++ fresh.zipIdx.map (fun p => (p.1, next + p.2))

/-- Offsets of the images in a block, by hart index; an index without a hart takes no room. -/
def imageOffsets (hs : List (Hart × Nat)) : List Nat :=
  let nh := hs.foldl (fun n p => max n (p.2 + 1)) 0
  let size (i : Nat) : Nat := match hs.find? (fun p => p.2 == i) with | some p => imageSize p.1 | none => 0
  (List.range nh).map (fun i => alignUp (0x40 + 8 * nh) 4096 + (List.range i).foldl (fun n j => n + size j) 0)

/-- The header of a farm block (R340). -/
def blockHeader (n : BitVec 16) (p : BitVec 3) (nh size : Nat) (offs : List Nat) : List Byte :=
  wordBytes ([BitVec.ofNat 64 (n.toNat + 2 ^ 16 * p.toNat + 2 ^ 32 * nh), BitVec.ofNat 64 size] ++ List.replicate 6 0 ++ offs.map (BitVec.ofNat 64))

/-- Begin to take a farm's harts (R278, R339): its block is found first; without room nothing is taken, the event is reported and no victim is chosen
until a block is freed. Every hart stops at its pre-emption point and its entries leave the queues; after the images comes one replay list for each canopy
the farm owns (R340), in an encoding of its own (log entry 27). -/
def startSwap (n : BitVec 16) (p : BitVec 3) (s : State) : State × Bool :=
  let hs := indexHarts (s.residents n)
  let offs := imageOffsets hs
  let lists := (s.benchKeys.filter (fun b => (s.bench b).ownsCanopy n)).length
  let top := hs.foldl (fun m q => max m (((offs[q.2]?).getD 0) + imageSize q.1)) 4096
  let size := top + 4096 * lists
  let q := s.partn p
  match findBlock q n size with
  | none =>
    ((s.setPart p { q with noVictim := true }).report
      { typ := 9, unit := 9, index := (Config.rasIndex 9).toNat, part := some p, addr := 0 }, false)
  | some base =>
    let s := s.setPart p { q with blocks := (n, base, size) :: q.blocks.filter (fun b => b.1 != n) }
    let s := hs.foldl (fun s r =>
      let a := BitVec.ofNat 64 (base + (offs[r.2]?).getD 0)
      let s := dropPosts r.1.id s
      let whole (h : Hart) : Bool := match h.image with
        | some q => q.2 || q.1 != a
        | none => true
      s.updHart r.1.id (fun h => { h with swapping := true, index := (some r.2), image := (some (a, whole h)) })) s
    let put (s : State) (at' : Nat) (l : List Byte) : State :=
      (agentStore s (cabinetSpace p) (BitVec.ofNat 64 (base + at')) (l.map (fun b => (b, false))) true).1
    (put (put s 0 (blockHeader n p offs.length size offs)) top ((List.range (4096 * lists)).map Config.cabinetOpaqueByte), true)

/-- Take the lists of the canopies a farm owns, and free them (R190, R193, R278). -/
def takeCanopies (n : BitVec 16) (s : State) : List (Nat × List CanopyRec) × State :=
  let mine := s.benchKeys.filter (fun b => (s.bench b).ownsCanopy n)
  (mine.map (fun b => (b, (s.bench b).loads ++ (s.bench b).replays)), mine.foldl (fun s b => s.setBench b (s.bench b).freeCanopy) s)

/-- A step of the table: a scheduler starts to swap a victim out, if that is its action now (R276 to R278). -/
def execSwapOut (v : BitVec 16) (s : State) : Host.Outcome State Fault Refusal :=
  .next (
    let pick := [0, 1].findSome? (fun die => match schedulerChoice s die with
      | some (.swap w f) => if w == v then some f else none
      | _ => none)
    match pick, s.farmOf v with
    | some f, some farm =>
      (match startSwap v farm.rcd.part s with
       | (s, false) => s
       | (s, true) =>
         let (lists, s) := takeCanopies v s
         (servedFarm v s).updFarm v (fun x => { x with swapFor := some f, keptSlots := (s.residents v).map (·.id), savedCanopies := lists }))
    | _, _ => s)

/-! ## Saving a hart (R257, R338, R343) -/

/-- What a save keeps of a hart (R344): no buffered stream data, no watched sector, and nothing else that its image has no field for. -/
def savedForm (h : Hart) : Hart := 
  { h.dropAhead with
    lastLda := none, remote := none, stores := [], vamoFails := none, partFlags := 0, fetched := none, yielded := false, stalled := false, passed := 0,
    run := .ready }

/-- Save the current hart: it stands at its pre-emption point, its stores perform, its image is written (R257, R338 to R343); one that was asked to halt is saved
halted (R348). -/
def saveHart (s : State) : State :=
  let s := drainStores (breakWait s)
  let s := if s.hart.haltAsked then s.withHart { s.hart with haltAsked := false, status := setBit s.hart.status 10 true } else s
  let h := savedForm s.hart
  let tiles := ownedTiles s h.id
  let (addr, whole) := h.image.getD (0, true)
  let s := (imagePieces h tiles whole).foldl (fun s p =>
    (agentStore s (cabinetSpace h.part) (addr + BitVec.ofNat 64 p.1) (p.2.map (fun b => (b, false))) true).1) s
  let kept := { h with image := some (addr, false) }
  let mine := tiles.map (fun t => (h.id, t.1, t.2))
  let s := freeTiles h.id s
  let s := if h.bureau then s.setPart h.part { s.partn h.part with bureauSaved := some kept, bureauTiles := mine }
    else s.updFarm h.farm (fun f => { f with saved := f.saved ++ [kept], savedTiles := f.savedTiles ++ mine })
  s.withHart { s.hart with run := .halted }

/-- Whether a hart's image has been written. -/
def imageWritten (s : State) (h : Hart) : Bool :=
  if h.bureau then (s.partn h.part).bureauSaved.isSome else match s.farmOf h.farm with | some f => f.saved.any (fun g => g.id == h.id) | none => false

/-- A step of the table: the save engine saves a hart of a farm being taken, at its pre-emption point (R338, R343). -/
def execHartSave (h : HartId) (s : State) : Host.Outcome State Fault Refusal :=
  .next (asHart h (fun s => if s.hart.swapping && s.mayStop s.hart && !imageWritten s s.hart then saveHart s else s) s)

/-- Remove a resident hart from the machine. -/
def removeHart (i : HartId) (s : State) : State :=
  let s := setPosted (dropPosts i (freeTiles i s)) i.toNat []
  if s.hart.present && s.hart.id == i then s.withHart { s.hart with run := .absent } else { s with others := s.others.filter (fun h => h.id != i) }

/-- A suspension ends saving when no hart of the partition is left: STATE is 2 (R331). -/
def settlePartition (p : BitVec 3) (s : State) : State :=
  let q := s.partn p
  if q.st == 1 && q.bureauSaved.isSome && s.harts.all (fun h => h.part != p) then (s.setPart p { q with st := 2 }).sendMsix 0 2 else s

/-- A step of the table: a hart's context is reported saved, which frees its slot and drawers (R121, R278, R344). -/
def execSaveComplete (i : HartId) (s : State) : Host.Outcome State Fault Refusal :=
  .next (match s.findHart i with
    | none => s
    | some h =>
      if h.swapping && imageWritten s h then
        let s := removeHart i s
        settlePartition h.part (if h.bureau then s else settleFarm h.farm s)
      else s)

/-! ## Resumption (R202, R279, R345) -/

/-- A hart as an image restores it at a new place (R345). -/
def restoredHart (h : Hart) (i : HartId) : Hart :=
  { h with id := i, run := if h.status.getLsbD 10 then .halted else .ready, swapping := false, haltAsked := false, v := h.v.map (fun v => { v with dirty := false }) }

/-- Put saved tiles back under their hart's new identity (R202). -/
def restoreTiles (old new : HartId) (l : List (HartId × Nat × Tile)) (s : State) : State :=
  (l.filter (fun t => t.1 == old)).foldl (fun s t =>
    let b := s.bench (benchOf new)
    s.setBench (benchOf new) { b with tiles := b.tiles.mapIdx (fun k x => if k == t.2.1 then { t.2.2 with owner := some new } else x) }) s

/-- Put one saved hart back. -/
def restoreHart (l : List (HartId × Nat × Tile)) (s : State) (p : Hart × HartId) : State :=
  restoreTiles p.1.id p.2 l (freshView p.2 (s.addHart (restoredHart p.1 p.2)))

/-- Re-establish a canopy on a new bench; its list waits to be replayed before any matrix instruction of the farm runs there (R193). -/
def restoreCanopy (farm : BitVec 16) (bench : Nat) (l : List CanopyRec) (s : State) : State :=
  s.setBench bench { (s.bench bench).freeCanopy.takeCanopy farm with replays := l }

/-- A resumed farm's harts keep the command records and schedules they issued, under their new identities (R211, R231). -/
def renameIssuer (n : BitVec 16) (got : List (Hart × HartId)) (s : State) : State :=
  let new (i : HartId) : HartId := match got.find? (fun g => g.1.id == i) with | some g => g.2 | none => i
  let rec' (c : CmdRec) : CmdRec := if c.farm == n then { c with hart := new c.hart } else c
  { s with
    engines := s.engines.map (fun e => (e.1, e.2.map rec')),
    snaps := s.snaps.map (fun p => { p with cmd := rec' p.cmd }),
    owed := s.owed.map (fun o => if o.farm == n then { o with hart := new o.hart } else o),
    benches := s.benches.map (fun b => (b.1, { b.2 with loaderQ := b.2.loaderQ.map rec' })),
    ctxs := s.ctxs.map (fun c => (c.1, { c.2 with issuer := if c.2.farm == n then new c.2.issuer else c.2.issuer, starting := c.2.starting.map rec' })) }

/-- A step of the table: a scheduler resumes a whole farm, if that is its action now (R277, R279). A canopy list with no hart on its old bench stays with
no canopy. -/
def execFarmResume (n : BitVec 16) (die : Bool) (s : State) : Host.Outcome State Fault Refusal :=
  .next (match schedulerChoice s die.toNat, s.farmOf n with
    | some (.resume k), some f =>
      if k != n then s
      else match placesForAll s (placesWithout s n []) [] f with
        | none => s
        | some got =>
          let s := { s with fresh := s.fresh + 1 }
          let s := got.foldl (restoreHart f.savedTiles) s
          let s := f.savedCanopies.foldl (fun s c => match got.find? (fun g => benchOf g.1.id == c.1) with
            | some g => restoreCanopy n (benchOf g.2) c.2 s
            | none => s) s
          let s := s.updFarm n (fun f => got.foldl (fun f g => f.placedOn (benchOf g.2) s.tick) { f with saved := [], savedTiles := [], savedCanopies := [] })
          servedFarm n (renameIssuer n got s)
    | _, _ => s)

/-! ## Suspension (R331, R433) -/

/-- Start to save every farm of a partition, the bureau farm included (R331). -/
def startSuspension (p : BitVec 3) (s : State) : State :=
  let q := s.partn p
  let s := s.setPart p { q with suspTime := none, suspTaken := false }
  let s := (s.farms.filter (fun f => f.rcd.part == p && f.state == .running && !leaving s f)).foldl (fun s f =>
    match startSwap f.num p (servedFarm f.num s) with
    | (s, false) => s
    | (s, true) => let (lists, s) := takeCanopies f.num s; s.updFarm f.num (fun x => { x with savedCanopies := lists })) s
  match s.harts.find? (fun h => h.bureau && h.part == p && !h.swapping) with
  | none => s
  | some b => match startSwap b.farm p s with
    | (s, false) => s
    | (s, true) => let (lists, s) := takeCanopies b.farm s; s.setPart p { s.partn p with bureauCanopies := lists }

/-- A step of the table: 1 ms has passed since 0x80 became pending (R331). -/
def execSuspendTimeout (p : BitVec 3) (s : State) : Host.Outcome State Fault Refusal :=
  .next (match (s.partn p).suspTime with
    | some t => if (s.partn p).st == 1 && (s.time - t).toNat ≥ 1_000_000 then startSuspension p s else s
    | none => s)

/-- The bureau hart executes WFE or YIELD after taking 0x80: the suspension starts (R331). -/
def suspendIfTaken (s : State) : State := if s.hart.bureau && (s.partn s.hart.part).suspTaken then startSuspension s.hart.part s else s

/-- A suspension request: 0x80 becomes pending (R331, R433); a partition that is off or resetting takes none (R434). -/
def requestSuspend (p : BitVec 3) (s : State) : State :=
  let q := s.partn p
  if q.st == 1 || q.st == 2 then
    let s := s.pend p 0x80 0
    s.setPart p { s.partn p with suspTime := if q.suspTime.isSome then q.suspTime else some s.time }
  else s

/-- Slot 0 of core 0 of a partition's lowest bench (R267). -/
def bureauPlace (s : State) (p : BitVec 3) : HartId := hartIdOf (4 * (((List.range Config.benches).find? ((s.partn p).hasBench ·)).getD 0)) 0

/-- A resumption request: the bureau hart is placed and STATE is 1; then the farms resume (R433). -/
def requestResume (p : BitVec 3) (s : State) : State :=
  let q := s.partn p
  match q.st == 2, q.bureauSaved with
  | true, some h =>
    let i := bureauPlace s p
    let s := restoreHart q.bureauTiles s (h, i)
    let s := q.bureauCanopies.foldl (fun s c => if c.1 == benchOf h.id then restoreCanopy h.farm (benchOf i) c.2 s else s) s
    let s := renameIssuer h.farm [(h, i)] s
    (s.setPart p { s.partn p with st := 1, bureauSaved := none, bureauTiles := [], bureauCanopies := [] }).sendMsix 0 2
  | _, _ => s

/-- A step of the table: SUSP is written (R433). -/
def execSusp (p : BitVec 3) (s : State) : Host.Outcome State Fault Refusal := .next (requestSuspend p s)

/-- A step of the table: RESUME is written (R433). -/
def execResume (p : BitVec 3) (s : State) : Host.Outcome State Fault Refusal := .next (requestResume p s)

end Sys2Proof.Machine
end

