-- ==== Sys2Proof/Machine/Partition.lean ====
section
/-! DEFINITION. Partitions: their configuration, start and reset (R430, R431, R434, R435), the host's notification and aperture (R428, R433), the timer (R436),
and the end of a schedule run (R381, R396). -/

namespace Sys2Proof.Machine

/-! ## Schedule contexts that end or stop (R381, R396) -/

/-- The failure value a completion flag receives (R224). -/
def failureFlag (reason : Nat) : Word := 0x8000_0000_0000_0000#64 ||| BitVec.ofNat 64 reason

/-- The key under which context `k` awaits fabric answers. -/
def ctxAwait (k : Nat) : Nat := 1024 + k

/-- Forget what an agent awaits. -/
def dropAwait (key : Nat) (s : State) : State := { s with awaits := s.awaits.filter (fun a => a.1 != key) }

/-- A run ends with a failure: its staged sends are abandoned, REASON and DETAIL are written, and the flag tells (R381). -/
def endRun (k reason detail : Nat) (s : State) : State :=
  let c := s.ctx k
  let s := dropAwait (ctxAwait k) (s.setCtx k { c with st := 0, reason := BitVec.ofNat 8 reason, detail := BitVec.ofNat 8 detail, staged := [], starting := none })
  writeFlag s c.space 14 (k / 16) c.flagAddr (failureFlag reason)

/-- Put back the rows a RECV in progress has taken: the word that does not complete has no effect (R381, R396; log entry 56). -/
def putBackRows (c : Ctx) : Ctx :=
  { c with rows := [], rowChan := none, chans := c.chans.mapIdx (fun i x => if some i == c.rowChan then c.rows ++ x else x) }

/-- ABORT: the run of a context that is not idle ends with reason 4, DETAIL 8 (R372, R396). -/
def abortRun (k : Nat) (s : State) : State := if (s.ctx k).st = 0 then s else endRun k 4 8 (s.setCtx k (putBackRows (s.ctx k)))

/-- A context as a partition reset leaves it: stopped, without buffers, staging, rows or slots (R396). -/
def Ctx.stopped (c : Ctx) : Ctx :=
  { c with st := 0, bufs := Vector.replicate 8 none, chans := Vector.replicate 8 [], staged := [], slots := [], rows := [], rowChan := none,
           loops := Vector.replicate 4 none, starting := none }

/-- A step of the table: a context is given to a partition or released; its channels and slots empty. The write is ignored while it runs (R371, R372). -/
def assignContext (k : Nat) (v : Word) (s : State) : State :=
  let c := s.ctx k
  if c.st != 0 then s
  else s.setCtx k { c with held := v.getLsbD 0, part := v.extractLsb' 1 3, chans := Vector.replicate 8 [], slots := [] }

/-- A step of the table: CONTEXT_ASSIGN (R371, R372). -/
def execContextAssign (k : Nat) (v : Word) (s : State) : Host.Outcome State Fault Refusal := .next (assignContext k v s)

/-- A step of the table: ABORT (R396). -/
def execAbort (k : Nat) (s : State) : Host.Outcome State Fault Refusal := .next (abortRun k s)

/-! ## Starting a partition (R431) -/

/-- The reason a configuration is refused, 0 for none (R431). -/
def configError (s : State) (p : BitVec 3) : Nat :=
  let q := s.partn p
  let others := (List.range 8).filter (fun i => i != p.toNat && (s.partn (BitVec.ofNat 3 i)).en)
  if q.bgrp = 0 || others.any (fun i => (s.partn (BitVec.ofNat 3 i)).bgrp &&& q.bgrp != 0) then 1
  else if (List.range 32).any (fun k => q.seq.getLsbD k && (s.ctx k).held && others.contains (s.ctx k).part.toNat) then 2
  else if q.hbmw = 0 || q.fabw = 0 || q.vcnt.toNat > 64 then 3
  else if q.cabase.toNat % 4096 != 0 || q.cmdbase.toNat % 4096 != 0 || q.apbase.toNat % 2 ^ 36 != 0 || q.bentry.getLsbD 0 || q.btrap.toNat % 4 != 0 || q.casize = 0 then 4
  else if !q.g2base.getLsbD 0 then 5
  else 0

/-- The doublewords of a configuration block as a measurement takes them (R442). -/
def configBytes (q : Part) : List Byte :=
  wordBytes [q.cabase, q.casize, q.cmdbase, q.bentry, q.bptbase, q.btrap, q.seq.zeroExtend 64, q.apbase, q.tcmp,
    BitVec.ofNat 64 (q.bgrp.toNat + 2 ^ 8 * q.hbmw.toNat + 2 ^ 16 * q.fabw.toNat + 2 ^ 24 * q.vcnt.toNat)]

/-- Extend measurement register `i` (R442). -/
def extendMeasure (i : Nat) (v : List Byte) (s : State) : State :=
  { s with boot := { s.boot with measures := s.boot.measures.mapIdx (fun j m => if j == i then Config.shake256 (m ++ v) else m) } }

/-- Clear the benches of a partition: stores zero, canopies and tiles free (R303, R431). -/
def clearBenches (p : BitVec 3) (s : State) : State :=
  let q := s.partn p
  let inside (a : Nat) : Bool := 0x100_0000_0000 ≤ a && a < 0x100_0600_0000 && q.hasBench ((a - 0x100_0000_0000) / 0x20_0000)
  let s := { s with
    mem := s.mem.filter (fun c => !inside c.1), poison := s.poison.filter (fun a => !inside a), upsets := s.upsets.filter (fun u => !inside u.1) }
  s.benchKeys.foldl (fun s b => if q.hasBench b then
    s.setBench b { (s.bench b).freeCanopy with tiles := (s.bench b).tiles.map (fun t => { t with owner := none }) } else s) s

/-- Write HELD and PART of every context as a partition's SEQ names them (R371, R431). -/
def holdContexts (p : BitVec 3) (s : State) : State :=
  (List.range 32).foldl (fun s k =>
    let c := s.ctx k
    if (s.partn p).seq.getLsbD k then s.setCtx k { c with held := true, part := p, chans := Vector.replicate 8 [], slots := [] }
    else if c.held && c.part == p then s.setCtx k { c with held := false, chans := Vector.replicate 8 [], slots := [] } else s) s

/-- Start a partition whose EN is to be 1: checked, then benches, contexts, the bureau farm, STATE (R267, R431). -/
def startPartition (p : BitVec 3) (s : State) : State :=
  let e := configError s p
  if e ≠ 0 then s.setPart p { s.partn p with en := false, st := 0, err := BitVec.ofNat 4 e }
  else
    let s := s.setPart p { s.partn p with en := true, err := 0 }
    let s := holdContexts p (clearBenches p s)
    let q := s.partn p
    let i := bureauPlace s p
    let h := { startHart s i (newNumber s) p 1 q.bentry q.cmdbase q.btrap (q.bptbase &&& 0x000F_FFFF_FFE0_0001) 0 with bureau := true }
    let s := freshView i ({ s with fresh := s.fresh + 1 }.addHart h)
    (extendMeasure 3 (configBytes q) (s.setPart p { s.partn p with st := 1 })).sendMsix 0 2

/-! ## Resetting a partition (R434, R435) -/

/-- The copy engines and loaders drop a partition's records, queued and running (R231). -/
def dropRecords (p : BitVec 3) (s : State) : State :=
  let mine (c : CmdRec) : Bool := c.space.part == p
  let heads := (s.engines.filter (fun e => match e.2 with | c :: _ => mine c | [] => false)).map Prod.fst
  let loaders := (s.benches.filter (fun b => match b.2.loaderQ with | c :: _ => mine c | [] => false)).map (fun b => 16 + b.1)
  let replays := (s.benches.filter (fun b => b.2.replays.any (fun r => r.space.part == p))).map (fun b => replayKey b.1)
  { s with
    engines := s.engines.map (fun e => (e.1, e.2.filter (fun c => !mine c))),
    snaps := s.snaps.filter (fun n => !mine n.cmd),
    owed := s.owed.filter (fun o => o.space.part != p),
    benches := s.benches.map (fun b => (b.1, { b.2 with loaderQ := b.2.loaderQ.filter (fun c => !mine c) })),
    ctxs := s.ctxs.map (fun c => (c.1, if c.2.starting.any mine then { c.2 with starting := none } else c.2)),
    awaits := s.awaits.filter (fun a => !(heads ++ loaders ++ replays ++ heads.map (512 + ·)).contains a.1) }

/-- Stop the contexts a partition holds (R396). -/
def stopContexts (p : BitVec 3) (s : State) : State :=
  (List.range 32).foldl (fun s k => if (s.ctx k).held && (s.ctx k).part == p then dropAwait (ctxAwait k) (s.setCtx k (s.ctx k).stopped) else s) s

/-- Begin a reset: STATE 3; farms, harts, records, runs, windows and pending interrupts go, and what the bench stores hold (R434, R435; log entry
98). One asked for during another is merged with it. -/
def beginReset (p : BitVec 3) (s : State) : State :=
  if (s.partn p).st == 3 then s
  else
    let nums := (s.farms.filter (fun f => f.rcd.part == p)).map (·.num) ++ (s.harts.filter (fun h => h.part == p)).map (·.farm)
    let s := (s.harts.filter (fun h => h.part == p)).foldl (fun s h => removeHart h.id s) s
    let s := nums.foldl (fun s n => freeCanopies n s) s
    let s := stopContexts p (dropRecords p { s with farms := s.farms.filter (fun f => f.rcd.part != p) })
    let s := { s with fabric := { s.fabric with windows := s.fabric.windows.map (fun w =>
      if w.1 / 256 == p.toNat then (w.1, { w.2 with ctl := setBit w.2.ctl 0 false }) else w) } }
    let s := clearBenches p s
    (s.setPart p { s.partn p with
      st := 3, pending := [], tcmp := 0, suspTime := none, suspTaken := false, bureauSaved := none, bureauTiles := [], bureauCanopies := [],
      noVictim := false, blocks := [] }).sendMsix 0 2

/-- A reset ends: the partition starts again when EN is 1, else it is off (R434). -/
def endReset (p : BitVec 3) (s : State) : State :=
  let q := s.partn p
  if q.st != 3 then s
  else if q.en then startPartition p (s.setPart p { q with st := 0 })
  else (s.setPart p { q with st := 0 }).sendMsix 0 2

/-- A write of EN = 1: it starts a partition that is off (R431). -/
def enable (p : BitVec 3) (s : State) : State :=
  let q := s.partn p
  if q.st == 0 then startPartition p s else if q.st == 3 then s.setPart p { q with en := true } else s

/-- A write of EN = 0: while the partition runs it acts as a reset without restart (R431). -/
def disable (p : BitVec 3) (s : State) : State :=
  let q := s.partn p
  let s := s.setPart p { q with en := false }
  if q.st == 1 || q.st == 2 then beginReset p s else s

/-- A step of the table: EN = 1 is written (R431). -/
def execPartitionEnable (p : BitVec 3) (s : State) : Host.Outcome State Fault Refusal := .next (enable p s)
/-- A step of the table: EN = 0 is written (R431). -/
def execPartitionDisable (p : BitVec 3) (s : State) : Host.Outcome State Fault Refusal := .next (disable p s)
/-- A step of the table: RST is written (R434). -/
def execPartitionReset (p : BitVec 3) (s : State) : Host.Outcome State Fault Refusal := .next (beginReset p s)
/-- A step of the table: a function-level reset of the partition's VF (R434). -/
def execFunctionLevelReset (p : BitVec 3) (s : State) : Host.Outcome State Fault Refusal := .next (beginReset p s)
/-- A step of the table: the reset of a partition completes (R434). -/
def execPartitionResetDone (p : BitVec 3) (s : State) : Host.Outcome State Fault Refusal := .next (endReset p s)

/-! ## Notification, timer, aperture -/

/-- A partition that is running or suspended, and so takes what the host sends its bureau (log entry 50). -/
def Part.hasBureau (q : Part) : Bool := q.st == 1 || q.st == 2

/-- NOTE: the word is stored in the command area, then 0x82 becomes pending (R432, R433). -/
def notePart (p : BitVec 3) (w : Word) (s : State) : State :=
  if !(s.partn p).hasBureau then s
  else
    let a := (s.partn p).cmdbase + 0x10
    let s := match agentMap s (cabinetSpace p) .store a with
      | .ok m => agentWrite s p m (bytesOf 8 w.toNat) true
      | .error f => noteAll s f.notes
    s.pend p 0x82 w

/-- The timer: when TIME has reached TCMP, 0x81 becomes pending and TCMP is 0 (R436). -/
def timerCheck (p : BitVec 3) (s : State) : State :=
  let q := s.partn p
  if q.tcmp != 0 && q.tcmp.toNat ≤ s.time.toNat then (s.setPart p { q with tcmp := 0 }).pend p 0x81 s.time else s

/-- A write of TCMP; one already past acts at once (R436). -/
def setTcmp (p : BitVec 3) (w : Word) (s : State) : State := timerCheck p (s.setPart p { s.partn p with tcmp := w })

/-- A step of the table: NOTE (R433). -/
def execNote (p : BitVec 3) (w : Word) (s : State) : Host.Outcome State Fault Refusal := .next (notePart p w s)
/-- A step of the table: TCMP is written (R436). -/
def execTcmp (p : BitVec 3) (w : Word) (s : State) : Host.Outcome State Fault Refusal := .next (setTcmp p w s)
/-- A step of the table: TIME may have reached TCMP (R436). -/
def execTimerExpiry (p : BitVec 3) (s : State) : Host.Outcome State Fault Refusal := .next (timerCheck p s)

/-- The address of an aperture offset (R430). -/
def apertureAt (s : State) (p : BitVec 3) (offset : Nat) : Word := (s.partn p).apbase + BitVec.ofNat 64 (offset % 2 ^ 36)

/-- A step of the table: the host reads a partition's aperture (R420, R428); during a reset it reads all ones (R434). -/
def execHostRead (p : BitVec 3) (offset len : Nat) (s : State) : Host.Outcome State Fault Refusal :=
  .next (
    let answer (s : State) (bs : List Byte) (bad unsupported : Bool) : State :=
      { s with links := { s.links with answer := bs, answerBad := bad, unsupported := unsupported } }
    if (s.partn p).st == 3 then answer s (List.replicate len 0xFF) false false
    else match agentBytes s (cabinetSpace p) (apertureAt s p offset) len with
      | .error (f, _) => answer (noteAll s f.notes) [] false true
      | .ok l => answer (agentPass s (cabinetSpace p) (apertureAt s p offset) len true) (l.map Prod.fst) (l.any Prod.snd) false)

/-- A step of the table: the host writes a partition's aperture; what has no translation is dropped (R420, R428, R434). -/
def execHostWrite (p : BitVec 3) (offset : Nat) (bytes : List Byte) (poisoned : Bool) (s : State) : Host.Outcome State Fault Refusal :=
  .next (
    if (s.partn p).st == 3 then s
    else
      let a := apertureAt s p offset
      (pagePieces a bytes.length).foldl (fun s q =>
        let bs := ((bytes.drop (q.1 - a).toNat).take q.2).map (fun b => (b, poisoned))
        match agentStore s (cabinetSpace p) q.1 bs true with
        | (s, none) => s
        | (s, some (f, _)) => noteAll s f.notes) s)

end Sys2Proof.Machine
end

