-- ==== Sys2Proof/Machine/Device.lean ====
section
/-! DEFINITION. Device space: what an aligned 8-byte load reads there and what a store does (R296, R308, R355, R368, R372, R410, R422, R425, R429, R430,
R433). -/

namespace Sys2Proof.Machine

/-! ## Reads -/

/-- An entry of a fixed row of values. -/
def nth {α : Type} (d : α) (l : List α) (i : Nat) : α := (l[i]?).getD d

/-- The row a channel's PROBE names, as a key of the row counters. -/
def probeKey (ch : Nat) (k : Channel) : Nat := ((ch * 2 + bitsAt 20 1 k.probe.toNat) * 16 + bitsAt 16 4 k.probe.toNat) * 65536 + bitsAt 0 16 k.probe.toNat

/-- A channel's counter block (R308). -/
def readChannel (s : State) (ch off : Nat) : Nat :=
  let k := tget Channel.init s.dram.channels ch
  match off with
  | 0x00 => k.act.toNat
  | 0x08 => k.alert.toNat
  | 0x10 => k.rfm.toNat
  | 0x18 => k.rfmwait.toNat
  | 0x20 => k.probe.toNat
  | 0x28 => tget 0 s.dram.counts (probeKey ch k) % 65536
  | 0x30 => k.lastalert.toNat
  | _ => s.dram.rmth.toNat

/-- Identity of the module (R354, R355). -/
def fabricIdent (f : Fabric) : Nat :=
  let up := (f.ports.toList.zipIdx.filter (fun p => p.1.st == 1 || p.1.st == 2)).foldl (fun a p => a + 2 ^ p.2) 0
  f.coords.1 + 2 ^ 5 * f.coords.2.1 + 2 ^ 10 * f.coords.2.2 + 2 ^ 15 * (f.dims.1 - 1) + 2 ^ 20 * (f.dims.2.1 - 1) + 2 ^ 25 * (f.dims.2.2 - 1)
    + 2 ^ 30 * f.rank + 2 ^ 43 * up

/-- The fabric block (R355, R368). -/
def readFabric (s : State) (o : Nat) : Nat :=
  let f := s.fabric
  if o = 0 then fabricIdent f
  else if o < 0x48 then (nth 0 f.dtag.toList (o / 8 - 1)).toNat
  else if 0x1000 ≤ o ∧ o < 0x1_1000 then
    let w := tget Window.init f.windows ((o - 0x1000) / 32)
    (match o % 32 with | 0 => w.ctl.toNat | 8 => w.base.toNat | 16 => w.len.toNat | _ => 0)
  else if 0x2_0000 ≤ o ∧ o < 0x2_0180 then
    let p := nth Port.init f.ports.toList ((o - 0x2_0000) / 64)
    (match o % 64 with | 0 => p.txf.toNat | 8 => p.rxf.toNat | 16 => p.rpl.toNat | 24 => p.rtn.toNat | 32 => p.st.toNat | _ => 0)
  else 0

/-- Rows waiting in each channel of a context (R372). -/
def chRows (c : Ctx) : Nat := c.chans.toList.zipIdx.foldl (fun a q => a + 2 ^ (8 * q.2) * min q.1.length 32) 0

/-- A context's block (R372). -/
def readContext (s : State) (o : Nat) : Nat :=
  if o % 0x1_0000 ≥ 0x1000 then 0
  else
    let c := s.ctx (ctxKey (o / 0x1_0000) (o % 0x1_0000 / 0x100))
    match o % 0x100 with
    | 0x00 => (if c.held then 1 else 0) + 2 * c.part.toNat
    | 0x08 => c.st.toNat
    | 0x10 => c.pc.toNat
    | 0x18 => c.flags.toNat
    | 0x20 => c.reason.toNat + 256 * c.detail.toNat
    | 0x28 => c.retx.toNat
    | 0x30 => chRows c
    | 0x38 => c.key.toNat
    | _ => 0

/-- The power block (R410). -/
def readPower (s : State) (o : Nat) : Nat :=
  let p := s.power
  let die (d : Nat) : Nat := (nth 0 p.freq.toList d).toNat + 2 ^ 12 * (nth 0 p.ceil.toList d).toNat + 2 ^ 24 * (nth 0 p.lim.toList d).toNat
  match o with
  | 0x00 => p.budget.toNat + (if p.floor then 2 ^ 12 else 0)
  | 0x08 => p.hseq.toNat
  | 0x10 => p.lexp.toNat
  | 0x18 => p.lrej.toNat
  | 0x20 => die 0
  | 0x28 => die 1
  | 0x30 => (nth 0 p.fstep.toList 0).toNat
  | 0x38 => (nth 0 p.fstep.toList 1).toNat
  | 0x40 => p.mpwr.toNat
  | _ => 0

/-- The RAS block (R422). -/
def readRas (s : State) (o : Nat) : Nat :=
  let r := s.ras
  if o = 0 then r.mbase.toNat
  else if o < 0x48 then (nth 0 r.rbase.toList (o / 8 - 1)).toNat
  else if o = 0x48 then r.mseq.toNat
  else if 0x50 ≤ o ∧ o < 0x90 then (nth 0 r.pseq.toList ((o - 0x50) / 8)).toNat
  else 0

/-- The lifetime window (R425): layout version 1 beside the flushes committed. -/
def readLifetime (s : State) (o : Nat) : Nat := if o = 0 then 1 + 2 ^ 32 * (tget 0 s.life.live 0 % 2 ^ 32) else tget 0 s.life.live o

/-- A partition's configuration block (R430); RST reads as 0. -/
def readPart (q : Part) (o : Nat) : Nat :=
  match o with
  | 0x00 => (if q.en then 1 else 0) + 2 * q.st.toNat + 2 ^ 4 * q.bgrp.toNat + 2 ^ 12 * q.hbmw.toNat + 2 ^ 20 * q.fabw.toNat + 2 ^ 28 * q.vcnt.toNat
      + 2 ^ 35 * q.err.toNat
  | 0x08 => q.cabase.toNat
  | 0x10 => q.casize.toNat
  | 0x18 => q.cmdbase.toNat
  | 0x20 => q.bentry.toNat
  | 0x28 => q.bptbase.toNat
  | 0x30 => q.btrap.toNat
  | 0x38 => q.seq.toNat
  | 0x40 => q.apbase.toNat
  | 0x48 => q.tcmp.toNat
  | _ => 0

/-- A host control block (R433): STATE, with bit 2 while a reset is in progress, and TIME; WO fields read 0. -/
def readControl (s : State) (q : Part) (o : Nat) : Nat :=
  match o with
  | 0x18 => q.st.toNat + (if q.st == 3 then 4 else 0)
  | 0x20 => s.time.toNat
  | _ => 0

/-- What an 8-byte load of device space reads. The layout of the module-control block is not given: it reads as free bytes (log entry 49). -/
def devRead (s : State) (pa : Nat) : Word :=
  BitVec.ofNat 64 (
    if pa < 0xF000_0000_0000 then (let o := pa - 0x180_0000_0000; readChannel s (o / 64) (o % 64))
    else
      let o := pa - 0xF000_0000_0000
      if o < 0x1_0000 then downData pa 8
      else if o < 0x20_0000 then readFabric s (o - 0x10_0000)
      else if o < 0x30_0000 then readContext s (o - 0x20_0000)
      else if o < 0x40_0000 then readPower s (o - 0x30_0000)
      else if o < 0x50_0000 then readRas s (o - 0x40_0000)
      else if o < 0x60_0000 then readLifetime s (o - 0x50_0000)
      else if o < 0x70_0000 then readPart (s.partn (BitVec.ofNat 3 ((o - 0x60_0000) / 0x100))) (o % 0x100)
      else readControl s (s.partn (BitVec.ofNat 3 ((o - 0x70_0000) / 0x1000))) (o % 0x1000))

/-! ## Writes -/

/-- Valid receive windows of a partition, but for entry `k` (R369). -/
def receiveCount (s : State) (p k : Nat) : Nat :=
  (s.fabric.windows.filter (fun w => w.1 / 256 == p && w.1 != k && w.2.ok && w.2.ctl.getLsbD 4)).length

/-- Write a doubleword of a window entry (R368, R369): a set starts empty when V becomes 1, and an entry that would be a seventeenth valid receive window is not
valid. -/
def writeWindow (s : State) (k field : Nat) (v : Word) : State :=
  let w := tget Window.init s.fabric.windows k
  let put (w : Window) : State :=
    let w := if w.ok && w.ctl.getLsbD 4 && receiveCount s (k / 256) k ≥ 16 then { w with ctl := setBit w.ctl 0 false } else w
    { s with fabric := { s.fabric with windows := tset s.fabric.windows k w } }
  match field with
  | 0 =>
    let c := v &&& 0xFFFF_001F
    put { w with ctl := c, delivered := if c.getLsbD 0 && !w.ctl.getLsbD 0 then 0 else w.delivered }
  | 8 => put { w with base := v }
  | 16 => put { w with len := v &&& 0x7FF_FFFF_FFFF }
  | _ => s

/-- Write the fabric block (R355). -/
def writeFabric (s : State) (o : Nat) (v : Word) : State :=
  if 8 ≤ o ∧ o < 0x48 then
    { s with fabric := { s.fabric with dtag := s.fabric.dtag.mapIdx (fun i x => if i + 1 == o / 8 then v.extractLsb' 0 16 else x) } }
  else if 0x1000 ≤ o ∧ o < 0x1_1000 then writeWindow s ((o - 0x1000) / 32) (o % 32) v
  else s

/-- Write a context's block (R372). -/
def writeContext (s : State) (o : Nat) (v : Word) : State :=
  if o % 0x1_0000 ≥ 0x1000 then s
  else
    let k := ctxKey (o / 0x1_0000) (o % 0x1_0000 / 0x100)
    match o % 0x100 with
    | 0x00 => assignContext k v s
    | 0x08 => if v.getLsbD 2 then abortRun k s else s
    | _ => s

/-- Report of a conversion difference by software (R422, R424): type 5 only. -/
def reportWord (w : Word) (s : State) : State :=
  if w.extractLsb' 0 8 = 5 then
    s.report { typ := 5, unit := (w.extractLsb' 8 8).toNat, index := (w.extractLsb' 16 8).toNat, part := some (w.extractLsb' 24 3), addr := 0 }
  else s

/-- A step of the table: REPORT is written (R422). -/
def execReport (w : Word) (s : State) : Host.Outcome State Fault Refusal := .next (reportWord w s)

/-- Write the RAS block (R422). -/
def writeRas (s : State) (o : Nat) (v : Word) : State :=
  if o = 0 then { s with ras := { s.ras with mbase := v } }
  else if o < 0x48 then { s with ras := { s.ras with rbase := s.ras.rbase.mapIdx (fun i x => if i + 1 == o / 8 then v else x) } }
  else if o = 0x90 then reportWord v s
  else s

/-- Write a partition's configuration block (R430): while STATE is not 0 only EN, RST and TCMP are taken. -/
def writePart (s : State) (p : BitVec 3) (o : Nat) (v : Word) : State :=
  let q := s.partn p
  let off := q.st == 0
  if o = 0 then
    let s := if off then s.setPart p { q with
        bgrp := v.extractLsb' 4 8, hbmw := v.extractLsb' 12 8, fabw := v.extractLsb' 20 8, vcnt := v.extractLsb' 28 7 } else s
    let s := if v.getLsbD 3 then beginReset p { s with parts := (s.setPart p { s.partn p with en := v.getLsbD 0 }).parts } else s
    if v.getLsbD 3 then s else if v.getLsbD 0 then enable p s else disable p s
  else if o = 0x48 then setTcmp p v s
  else if !off then s
  else
    s.setPart p (match o with
      | 0x08 => { q with cabase := v }
      | 0x10 => { q with casize := v }
      | 0x18 => { q with cmdbase := v }
      | 0x20 => { q with bentry := v }
      | 0x28 => { q with bptbase := v }
      | 0x30 => { q with btrap := v }
      | 0x38 => { q with seq := v.extractLsb' 0 32 }
      | 0x40 => { q with apbase := v }
      | _ => q)

/-- Write a host control block (R433). -/
def writeControl (s : State) (p : BitVec 3) (o : Nat) (v : Word) : State :=
  match o with
  | 0x00 => notePart p v s
  | 0x08 => if v.getLsbD 0 then requestSuspend p s else s
  | 0x10 => if v.getLsbD 0 then requestResume p s else s
  | _ => s

/-- What an 8-byte store into device space does; a read-only field ignores it. -/
def devWrite (s : State) (pa : Nat) (v : Word) : State :=
  if pa < 0xF000_0000_0000 then
    let o := pa - 0x180_0000_0000
    if o % 64 = 0x20 then s.updChannel (o / 64) (fun k => { k with probe := v.extractLsb' 0 21 }) else s
  else
    let o := pa - 0xF000_0000_0000
    if o < 0x10_0000 then s
    else if o < 0x20_0000 then writeFabric s (o - 0x10_0000) v
    else if o < 0x30_0000 then writeContext s (o - 0x20_0000) v
    else if o < 0x40_0000 then s
    else if o < 0x50_0000 then writeRas s (o - 0x40_0000) v
    else if o < 0x60_0000 then s
    else if o < 0x70_0000 then writePart s (BitVec.ofNat 3 ((o - 0x60_0000) / 0x100)) (o % 0x100) v
    else writeControl s (BitVec.ofNat 3 ((o - 0x70_0000) / 0x1000)) (o % 0x1000) v

/-- A step of the table: an aligned doubleword is stored into device space (R296). -/
def execDeviceSpaceWrite (pa : Nat) (w : Word) (s : State) : Host.Outcome State Fault Refusal :=
  .next (if isDevice pa && pa % 8 == 0 then devWrite s pa w else s)

end Sys2Proof.Machine
end

