-- ==== Sys2Proof/Machine/System.lean ====
section
/-! DEFINITION. The SYS group (R204): system registers (R25 to R33, R314), fences, traps, waits, farms and strips, keys, translation and cache
maintenance, debug halt and hints. -/

namespace Sys2Proof.Machine

/-! ## The system-register map (R27, R314, R439) -/

/-- The least level that reads a register and the least that writes it, if any does; `none` for a number the map does not list. -/
def sysLevels (n : BitVec 12) : Option (Nat × Option Nat) :=
  match n.toNat with
  | 0x000 | 0x020 | 0x021 | 0x034 | 0x051 => some (0, some 0)
  | 0x001 | 0x002 | 0x003 | 0x011 | 0x012 | 0x014 | 0x015 | 0x060 | 0x061 | 0x062 => some (0, none)
  | 0x010 | 0x013 | 0x016 | 0x030 | 0x031 | 0x032 | 0x033 | 0x050 => some (0, some 1)
  | 0x040 | 0x041 | 0x042 | 0x043 | 0x044 | 0x045 | 0x046 | 0x100 | 0x101 => some (1, some 1)
  | 0x102 => some (1, some 3)
  | 0x200 | 0x201 | 0x210 => some (3, some 3)
  | 0x220 => some (3, none)
  | _ => none

/-- The current priority of the current hart's farm; the bureau farm's is 7 (R32, R267, R272). -/
def farmPrio (s : State) : Nat := if s.hart.bureau then 7 else match s.farmOf s.hart.farm with | some f => effOf f | none => 0

/-- BOOTST (R439). -/
def bootStatus (b : Boot) : Nat := (if b.warm then 1 else 0) + (if b.fallback then 2 else 0) + (if b.failfAtStart then 4 else 0) + 8 * (b.cfailAtStart % 4)

/-- The value of a system register; a number outside the map is never read. -/
def sysRead (s : State) (n : BitVec 12) : Word :=
  let h := s.hart
  match n.toNat with
  | 0x000 => h.status
  | 0x001 => h.id.zeroExtend 64
  | 0x002 => BitVec.ofNat 64 (h.farm.toNat + 2 ^ 16 * h.part.toNat + 2 ^ 20 * farmPrio s)
  | 0x003 => h.stripno
  | 0x010 => h.vtype.zeroExtend 64
  | 0x011 => BitVec.ofNat 64 h.vlg
  | 0x012 => BitVec.ofNat 64 h.vlv
  | 0x013 => h.vri
  | 0x014 => BitVec.ofNat 64 Config.mtlen
  | 0x015 => BitVec.ofNat 64 h.classCode
  | 0x016 => h.lslip.zeroExtend 64
  | 0x020 => h.fflags.zeroExtend 64
  | 0x021 => h.frm.zeroExtend 64
  | 0x030 => h.key 0
  | 0x031 => h.key 1
  | 0x032 => h.key 2
  | 0x033 => h.key 3
  | 0x034 => h.keyctl
  | 0x040 => h.trapcause
  | 0x041 => h.trappc
  | 0x042 => h.trapval
  | 0x043 => h.trapbase
  | 0x044 => h.trapscratch
  | 0x045 => h.trapstatus
  | 0x046 => h.trapowe.zeroExtend 64
  | 0x050 => h.skew.zeroExtend 64
  | 0x051 => h.pwrhint.zeroExtend 64
  | 0x060 => h.cycle
  | 0x061 => h.instret
  | 0x062 => s.time
  | 0x100 => h.ptbase
  | 0x101 => h.asid.zeroExtend 64
  | 0x102 => h.partid.zeroExtend 64
  | 0x200 => (s.partn h.partid).g2base
  | 0x201 => h.g2fval
  | 0x210 => s.dram.rmth.zeroExtend 64
  | 0x220 => BitVec.ofNat 64 (bootStatus s.boot)
  | _ => 0

/-- The bits of STATUS that software writes at a level (R28). -/
def statusMask (prv : Nat) : Word := if prv = 0 then 0x60 else if prv = 3 then 0x274 else 0x264

/-- Bits of `old` replaced by those of `new` where the mask is set. -/
def blend (mask old new : Word) : Word := (old &&& ~~~mask) ||| (new &&& mask)

/-- Write VTYPE: legal values clear VILL, others set it with VLG and VLV 0 (R31). Bits above [19:0] are ignored. -/
def writeVtype (v : Word) (h : Hart) : Hart :=
  let req := v &&& 0xF_FFFF
  if vtypeLegal req then { h with vtype := req.extractLsb' 0 20, status := setBit h.status 3 false } else setIllegalType req h

/-- Write a key register. -/
def Hart.setKey (n : BitVec 2) (v : Word) (h : Hart) : Hart := { h with k := h.k.set n.toNat v (by have := n.isLt; omega) }

/-- The effect of writing `v` to a system register, `bits` being what the instruction's x register supplied (R25): fields that are read-only, or
writable only at a higher level, stay. -/
def sysWrite (n : BitVec 12) (v bits : Word) (s : State) : State :=
  let h := s.hart
  match n.toNat with
  | 0x000 => s.withHart { h with status := blend (statusMask h.prv) h.status v }
  | 0x010 => s.withHart (writeVtype v h)
  | 0x013 => s.withHart { h with vri := v }
  | 0x016 => s.withHart { h with lslip := v.extractLsb' 0 4 }
  | 0x020 => s.withHart { h with fflags := v.extractLsb' 0 7 }
  | 0x021 => s.withHart { h with frm := v.extractLsb' 0 8 }
  | 0x030 => s.withHart (h.setKey 0 v)
  | 0x031 => s.withHart (h.setKey 1 v)
  | 0x032 => s.withHart (h.setKey 2 v)
  | 0x033 => s.withHart (h.setKey 3 v)
  | 0x034 => s.withHart { h with keyOvf := h.keyOvf && !bits.getLsbD 7 }
  | 0x040 => s.withHart { h with trapcause := v &&& 0x8000_0000_0000_00FF }
  | 0x041 => s.withHart { h with trappc := v }
  | 0x042 => s.withHart { h with trapval := v }
  | 0x043 => s.withHart { h with trapbase := v &&& ~~~3#64 }
  | 0x044 => s.withHart { h with trapscratch := v }
  | 0x045 => s.withHart { h with trapstatus := v &&& 0x67F }
  | 0x046 => s.withHart { h with trapowe := v.extractLsb' 0 12 }
  | 0x050 => s.withHart { h with skew := v.extractLsb' 0 4 }
  | 0x051 => s.withHart { h with pwrhint := v.extractLsb' 0 2 }
  | 0x100 => s.withHart { h with ptbase := v &&& 0x000F_FFFF_FFE0_0001 }
  | 0x101 => s.withHart { h with asid := v.extractLsb' 0 16 }
  | 0x102 => s.withHart { h with partid := v.extractLsb' 0 3 }
  | 0x200 => s.setPart h.partid { s.partn h.partid with g2base := v &&& 0x000F_FFFF_FFFF_0001 }
  | 0x201 => s.withHart { h with g2fval := v }
  | 0x210 =>
    let m := v.extractLsb' 0 16
    if 64 ≤ m.toNat ∧ m.toNat ≤ 16384 then { s with dram := { s.dram with rmth := m } } else s
  | _ => s

/-- An access of a system register, checked in the order of R25; `wr` for a write. -/
def sysAccess (i : Instr) (n : BitVec 12) (wr : Bool) (s : State) (k : State → State) : Host.Outcome State Fault Refusal :=
  .next (match sysLevels n with
    | none => illegal i s
    | some (r, w) =>
      if s.hart.prv < (if wr then w.getD r else r) then privileged i s
      else if wr && w.isNone then illegal i s
      else finish 4 (k s))

/-- SRD (R25). -/
def execSrd (d : Reg) (n : BitVec 12) (s : State) : Host.Outcome State Fault Refusal :=
  sysAccess (.srd d n) n false s (fun s => s.setX d (sysRead s n))

/-- SWR (R25). -/
def execSwr (d : Reg) (n : BitVec 12) (s : State) : Host.Outcome State Fault Refusal :=
  sysAccess (.swr d n) n true s (fun s => sysWrite n (s.getX d) (s.getX d) s)

/-- SRSET: x[d] supplies the bits to set and receives the old value (R25, R204). -/
def execSrset (d : Reg) (n : BitVec 12) (s : State) : Host.Outcome State Fault Refusal :=
  sysAccess (.srset d n) n true s (fun s => (sysWrite n (sysRead s n ||| s.getX d) (s.getX d) s).setX d (sysRead s n))

/-- SRCLR: x[d] supplies the bits to clear and receives the old value (R25, R204). -/
def execSrclr (d : Reg) (n : BitVec 12) (s : State) : Host.Outcome State Fault Refusal :=
  sysAccess (.srclr d n) n true s (fun s => (sysWrite n (sysRead s n &&& ~~~(s.getX d)) (s.getX d) s).setX d (sysRead s n))

/-! ## NOP, hints, fences -/

/-- NOP (R204). -/
def execNop (s : State) : Host.Outcome State Fault Refusal := .next (finish 4 s)

/-- HINT: sysop6 48 to 63 do nothing (R87). -/
def execHint (h : BitVec 4) (d a : Reg) (i : BitVec 7) (s : State) : Host.Outcome State Fault Refusal :=
  match h, d, a, i with | _, _, _, _ => .next (finish 4 s)

/-- Every command record that has not ended, queued or running (R231). -/
def liveRecords (s : State) : List CmdRec :=
  s.engines.flatMap Prod.snd ++ s.benches.flatMap (fun b => b.2.loaderQ) ++ s.ctxs.filterMap (fun c => c.2.starting)

/-- TYPE of a record (R224). -/
def CmdRec.typ (c : CmdRec) : Nat := ((c.words.headD 0).extractLsb' 0 8).toNat

/-- Whether a record or schedule was issued by the current hart. -/
def issuedHere (s : State) (h : HartId) (f : BitVec 16) : Bool := h == s.hart.id && f == s.hart.farm

/-- Whether a FENCE waits for older E, S or F accesses of the hart: records that have not ended, schedules that run or are to start, and stores to domain
addresses that have not been acknowledged (R211). -/
def fenceWaits (s : State) (fromSet : BitVec 5) (ack : Bool) : Bool :=
  ((ack || fromSet.getLsbD 3) && !(tget [] s.posted s.hart.id.toNat).isEmpty)
    || (fromSet.getLsbD 2 && (liveRecords s).any (fun c => c.typ != 4 && issuedHere s c.hart c.farm))
    || (fromSet.getLsbD 4 && ((liveRecords s).any (fun c => c.typ == 4 && issuedHere s c.hart c.farm)
        || s.ctxs.any (fun c => c.2.st != 0 && issuedHere s c.2.issuer c.2.farm)))

/-- FENCE (R210, R211): a release from path H has older stores perform at the scope, and flags that the access unit or an engine owes are written; an acquire of
core scope or wider onto path H empties the L1 view. Loads have their values and matrix instructions are complete when a younger instruction runs, so H reads
and M never wait. -/
def execFence (fromSet toSet : BitVec 5) (ack rel acq : Bool) (scope : BitVec 3) (s : State) : Host.Outcome State Fault Refusal :=
  .next (checked (.fence fromSet toSet ack rel acq scope) s (fun s =>
    let s := settleOwed (if rel && fromSet.getLsbD 0 then releaseAt scope.toNat s else s)
    if fenceWaits s fromSet ack then stall s
    else finish 4 (if acq && toSet.getLsbD 0 && scope != 0 then dropL1 s else s)))

/-! ## Traps, returns and waits -/

/-- TRAP completes and then traps with its code (R234). -/
def execTrap (code : BitVec 12) (s : State) : Host.Outcome State Fault Refusal :=
  .next (completeAt (s.hart.pcAfter 4) 0 [] [{ cause := 0x0A, val := code.zeroExtend 64 }] 0 s)

/-- BRK (R234). -/
def execBrk (s : State) : Host.Outcome State Fault Refusal := .next (trapHere (trapOf 0x09 s.hart.pc) s)

/-- TRET (R34, R40, R235). -/
def execTret (s : State) : Host.Outcome State Fault Refusal :=
  sysStep .tret 1 s (fun s =>
    let p := (s.hart.trapstatus.extractLsb' 0 2).toNat
    if p = 2 ∨ p > s.hart.prv then privileged .tret s else returnFromTrap s)

/-- WFE (R216); a bureau hart that has taken 0x80 thereby starts the suspension (R331). -/
def execWfe (d a : Reg) (s : State) : Host.Outcome State Fault Refusal :=
  sysStep (.wfe d a) 0 s (fun s => suspendIfTaken (settleWait (s.withHart { s.hart with run := .asleep (.wfe d s.time (s.getX a)) })))

/-- YIELD (R221); a bureau hart that has taken 0x80 thereby starts the suspension (R331). -/
def execYield (s : State) : Host.Outcome State Fault Refusal := .next (suspendIfTaken (finish 4 (s.withHart { s.hart with yielded := true })))

/-! ## Keys (R222) -/

/-- KEYSET. -/
def execKeyset (a : Reg) (k : BitVec 2) (s : State) : Host.Outcome State Fault Refusal :=
  .next (
    let v := s.getX a
    let h := s.hart.setKey k v
    let pc := s.hart.pcAfter 4
    if h.keyTable.contains v then completeAt pc 0 [] (if h.krw then [{ cause := 0x0B, val := v }] else []) k (s.withHart h)
    else if h.keyTable.length < 64 then finish 4 (s.withHart { h with keyTable := h.keyTable ++ [v] })
    else finish 4 (s.withHart { h with keyOvf := true }))

/-- KEYCLR. -/
def execKeyclr (s : State) : Host.Outcome State Fault Refusal := .next (finish 4 (s.withHart { s.hart with keyTable := [] }))

/-! ## Farms (R217, R218) and strips (R219) -/

/-- A farm record from its 64 bytes (R217). -/
def farmRecOf (d : Nat) : FarmRec :=
  let w (i : Nat) : Word := BitVec.ofNat 64 (bitsAt (64 * i) 64 d)
  { entry := w 0, arg := w 1, strips := ((w 2).extractLsb' 0 32).toNat, harts := ((w 2).extractLsb' 32 10).toNat,
    prio := ((w 2).extractLsb' 42 3).toNat, part := (w 2).extractLsb' 45 3, rsc := (w 2).extractLsb' 48 3,
    place := ((w 3).extractLsb' 0 48).toNat, done := w 4, doneval := w 5, depaddr := w 6, depval := w 7 }

/-- A completion or dependence flag address: device-local and 8-byte aligned. -/
def flagAddress (a : Word) : Bool := a.toNat % 8 == 0 && !isRemote a

/-- Whether the 64 bytes of a farm record break none of R217 for a hart of partition `p`. -/
def farmRecOk (p : BitVec 3) (d : Nat) : Bool :=
  let r := farmRecOf d
  bitsAt 179 13 d == 0 && bitsAt 240 16 d == 0 && 1 ≤ r.harts && r.harts ≤ 768 && r.rsc.toNat ≤ 4 && !r.entry.getLsbD 0
    && r.done != 0 && flagAddress r.done && flagAddress r.depaddr && r.part == p

/-- A farm as FARM queues it (R218, R270, R329). -/
def newFarm (s : State) (n : BitVec 16) (r : FarmRec) : Farm :=
  let f : Farm :=
    { num := n, rcd := r, state := .blocked, nextStrip := 0, placedAt := 0, waited := 0, unaged := 0, eff := r.prio, queuedAt := s.tick, lastBench := (none, none),
      trapbase := s.hart.trapbase, ptbase := s.hart.ptbase, asid := s.hart.asid, depReported := false, saved := [], savedTiles := [],
      savedCanopies := [], swapFor := none, keptSlots := [], block := none }
  if r.depaddr = 0 then eligible s.tick f else f

/-- FARM's answer when it refuses: bit 63 and the reason. -/
def farmRefusal (n : Nat) : Word := 0x8000_0000_0000_0000#64 ||| BitVec.ofNat 64 n

/-- FARM (R218). -/
def execFarm (d a : Reg) (s : State) : Host.Outcome State Fault Refusal :=
  sysStep (.farm d a) 1 s (fun s =>
    let s := drainStores s
    match blockRead s 64 (s.getX a) with
    | .error t => trapHere t s
    | .ok (bytes, fl, s) =>
      let p := s.hart.partid
      let r := farmRecOf bytes
      let n := newNumber s
      let f := newFarm s n r
      if !farmRecOk p bytes then finishFlags 4 fl (s.setX d (farmRefusal 1))
      else if (benchSet s f).isEmpty then finishFlags 4 fl (s.setX d (farmRefusal 2))
      else if (s.farms.filter (fun g => g.live && g.rcd.part == p)).length ≥ Config.farmLimit then finishFlags 4 fl (s.setX d (farmRefusal 3))
      else
        let s := { s with fresh := s.fresh + 1, farms := s.farms.filter (fun (g : Farm) => g.num != n) ++ [f] }
        finishFlags 4 fl (s.setX d (n.zeroExtend 64)))

/-- A strip claim by an instruction of `len` bytes (R219). -/
def claimStrip (len : Nat) (d : Reg) (ret : Bool) (s : State) : State :=
  let none' : Word := 0xFFFF_FFFF_FFFF_FFFF
  let fail (s : State) : State := finish len ((s.withHart { s.hart with stripno := none' }).setX d none')
  if s.hart.bureau then fail s
  else match s.farmOf s.hart.farm with
    | none => fail s
    | some f =>
      if f.nextStrip < f.rcd.strips then
        let c : Word := BitVec.ofNat 64 f.nextStrip
        let s := s.updFarm f.num (fun g => { g with nextStrip := g.nextStrip + 1 })
        finish len ((s.withHart { s.hart with stripno := c }).setX d c)
      else if ret then retireHart s
      else fail s

/-- STRIP and STRIP.r (R219). -/
def execStrip (d : Reg) (ret : Bool) (s : State) : Host.Outcome State Fault Refusal := .next (claimStrip 4 d ret s)

/-- C.STRIP (R84, R219). -/
def execCStrip (d : Reg) (ret : Bool) (s : State) : Host.Outcome State Fault Refusal := .next (claimStrip 2 d ret s)

/-! ## Notification, translation and cache maintenance -/

/-- NOTIFY (R236). -/
def execNotify (a : Reg) (s : State) : Host.Outcome State Fault Refusal :=
  sysStep (.notify a) 1 s (fun s =>
    let s := drainStores s
    let v := ((s.getX a).extractLsb' 0 16).toNat
    let p := s.hart.partid
    if v ≥ (s.partn p).vcnt.toNat then trapHere (trapOf 0x06 (BitVec.ofNat 64 v)) s
    else finish 4 (s.sendMsix (p.toNat + 1) v))

/-- Whether TLBINV removes a translation (R237, R321). -/
def invalidates (h : Hart) (g2 : Bool) (mode : BitVec 2) (a : Word) (e : TlbEntry) : Bool :=
  e.part == h.partid &&
    (match mode.toNat, g2 with
     | 0, false => (e.global || e.asid == h.asid) && e.va ≤ a.toNat && a.toNat < e.va + e.size
     | 0, true => e.viaG2 && e.ipa / e.size2 == a.toNat / e.size2
     | 1, _ => (!e.global && e.asid == h.asid) || (g2 && e.viaG2)
     | _, _ => e.stage1 || (g2 && e.viaG2))

/-- The physical pages whose lines TLBINV in `.page` mode writes back and drops, each with its size: those of the translations it removes, and the one that the
tables now give. With G2 they are pages of the second stage (R321). -/
def droppedPages (s : State) (g2 : Bool) (a : Word) (gone : List TlbEntry) : List (Nat × Nat) :=
  gone.map (fun e => if g2 then (e.pa - e.ipa % e.size2, e.size2) else (e.pa, e.size))
    ++ (if g2 then
          (let sp : Space := { s.hart.space with prv := 0 }
           if g2On s sp then (match (secondStage s sp a.toNat).2 with | .ok l => [(l.base, l.size)] | .error _ => []) else [])
        else if s.hart.ptbase.getLsbD 0 then (match (walk s s.hart.space a.toNat).2 with | .ok e => [(e.pa, e.size)] | .error _ => [])
        else [])

/-- Write back and drop the lines of some pages in every L2 slice (R321). Two mappings that name different homes share one order here (log entry 95). -/
def dropPages (ps : List (Nat × Nat)) (s : State) : State :=
  ((s.l2.map Prod.fst).filter (fun k => ps.any (fun p => p.1 < k + 64 && k < p.1 + p.2))).foldl evictSector s

/-- Remove the translations TLBINV names from every TLB of the module; walks read table entries as they now stand, those that the invalidation
does not cover among them (R237, R320; DESIGN CHOICE, log entry 96). -/
def invalidateTlbs (p : TlbEntry → Bool) (s : State) : State :=
  { s with
    held := [],
    cores := s.cores.map (fun c => (c.1, { c.2 with tlb := c.2.tlb.filter (fun e => !p e) })),
    benches := s.benches.map (fun b => (b.1, { b.2 with tlb := b.2.tlb.filter (fun e => !p e) })) }

/-- TLBINV (R237, R321). G2 needs monitor level. -/
def execTlbinv (a : Reg) (g2 : Bool) (mode : BitVec 2) (s : State) : Host.Outcome State Fault Refusal :=
  sysStep (.tlbinv a g2 mode) 1 s (fun s =>
    if g2 && s.hart.prv != 3 then privileged (.tlbinv a g2 mode) s
    else
      let s := drainStores s
      let p := invalidates s.hart g2 mode (s.getX a)
      let gone := (s.cores.flatMap (fun c => c.2.tlb) ++ s.benches.flatMap (fun b => b.2.tlb)).filter p
      finish 4 (invalidateTlbs p (if mode = 0 then dropPages (droppedPages { s with held := [] } g2 (s.getX a) gone) s else s)))

/-- CINV (R238): the core's instruction cache, or that of every core that runs harts of the partition. -/
def execCinv (all : Bool) (s : State) : Host.Outcome State Fault Refusal :=
  sysStep (.cinv all) 1 s (fun s =>
    let s := drainStores s
    let here : List Nat := if all then (s.harts.filter (fun h => h.partid == s.hart.partid)).map (fun h => coreOf h.id) else []
    let hit (c : Nat) : Bool := c == coreOf s.hart.id || here.contains c
    finish 4 { s with cores := s.cores.map (fun c => if hit c.1 then (c.1, { c.2 with icache := [] }) else c) })

/-- CFLUSH (R238): no translation trap. -/
def execCflush (a : Reg) (all : Bool) (s : State) : Host.Outcome State Fault Refusal :=
  .next (checked (.cflush a all) s (fun s =>
    if all then finish 4 (dropL1 s)
    else match translate s s.hart.space (some s.hart.id) .load (s.getX a) with
      | .error f => finish 4 (noteAll s f.notes)
      | .ok m => finish 4 (dropSectors (noteWalk s (some s.hart.id) m) (coreOf s.hart.id) ((List.range 4).map (fun i => lineOf m.pa * 256 + 64 * i)))))

/-- Enter debug halt: stores drain, then HALTED is set (R257, R346). -/
def haltHere (s : State) : State :=
  let s := drainStores s
  s.withHart { s.hart.dropAhead with run := .halted, haltAsked := false, status := setBit s.hart.status 10 true }

/-- HALT completes, then halts (R239). -/
def execHalt (s : State) : Host.Outcome State Fault Refusal := sysStep .halt 3 s (fun s => haltHere (finish 4 s))

end Sys2Proof.Machine
end

