-- ==== Sys2Proof/Machine/Engine.lean ====
section
/-! DEFINITION. Engine commands: VCMD (R223, R224), the copy engines (R225, R226, R230, R231, R322), the canopy loader (R227) and snapshots (R228, R323, R324). -/

namespace Sys2Proof.Machine

/-! ## Command records (R224 to R230) -/

/-- Doubleword `i` of a record. -/
def CmdRec.w (c : CmdRec) (i : Nat) : Word := (c.words[i]?).getD 0
/-- ENG. -/
def CmdRec.eng (c : CmdRec) : Nat := ((c.w 0).extractLsb' 4 3).toNat
/-- ANY. -/
def CmdRec.any (c : CmdRec) : Bool := (c.w 0).getLsbD 7
/-- FLAGVAL, extended. -/
def CmdRec.flagVal (c : CmdRec) : Word := ((c.w 0).extractLsb' 16 16).zeroExtend 64
/-- N0 of a COPY. -/
def CmdRec.n0 (c : CmdRec) : Nat := ((c.w 0).extractLsb' 32 32).toNat

/-- A canopy load's operands (R227). -/
def CmdRec.canopy (c : CmdRec) : CanopyRec :=
  { geometry := c.w 2, source := c.w 3, stride := c.w 4, scale := c.w 5, fmt := (c.w 6).extractLsb' 0 5, tr := (c.w 6).getLsbD 5, space := c.space }

/-- Whether a record's own 64 bytes break none of their tables (R224 to R230). -/
def CmdRec.ok (c : CmdRec) : Bool :=
  let t := ((c.w 0).extractLsb' 0 4).toNat
  t < 7 && (c.w 0).extractLsb' 8 8 == 0 && (t == 0 || c.n0 == 0)
    && (if t = 2 ∨ t = 4 then c.eng == 0 && !c.any else !c.any || c.eng == 0)
    && (match t with
      | 0 => (c.w 4).extractLsb' 48 16 == 0
      | 2 => (c.w 6).extractLsb' 6 58 == 0 && matrixFmt ((c.w 6).extractLsb' 0 5).toNat
      | 4 => (c.w 2).extractLsb' 4 60 == 0
      | _ => true)

/-- Write a record's completion flag: FLAGVAL, or a failure reason (R224). -/
def endRecord (die reason : Nat) (c : CmdRec) (s : State) : State :=
  writeFlag s c.space 14 die (c.w 1) (if reason = 0 then c.flagVal else failureFlag reason)

/-- The queue of a copy engine, numbered die × 8 + engine. -/
def State.queueOf (s : State) (n : Nat) : List CmdRec := tget [] s.engines n
/-- Replace a copy engine's queue. -/
def State.setQueue (s : State) (n : Nat) (l : List CmdRec) : State := { s with engines := tset s.engines n l }

/-- The head of a copy engine's queue ends with a reason, 0 for success: its flag is written and the next record may start (R231). -/
def popRecord (n reason : Nat) (s : State) : State :=
  match s.queueOf n with
  | [] => s
  | c :: rest => dropAwait n (dropAwait (512 + n) (endRecord (n / 8) reason c (s.setQueue n rest)))

/-! ## VCMD (R223) -/

/-- The pages of a snapshot's source, in ascending order: physical page, home bench and DST address; or the reason one cannot be had; and what finding them leaves
to be done (R318, R319, R323). -/
def snapPages (s : State) (c : CmdRec) : Except Nat (List (Nat × Nat × Word)) × List Note :=
  (List.range ((c.w 4).toNat / 4096)).foldl (fun acc i =>
    match acc.1 with
    | .error _ => acc
    | .ok l => match agentMap s c.space .load (c.w 2 + BitVec.ofNat 64 (4096 * i)) with
      | .error f => (.error (faultReason f), acc.2 ++ f.notes)
      | .ok m => (.ok (l ++ [(m.pa, homeBench m.pa m.abench, c.w 3 + BitVec.ofNat 64 (4096 * i))]), acc.2 ++ m.notes)) (.ok [], [])

/-- Why the words of a SNAPSHOT record end it when it is accepted, 0 if they do not (R228). -/
def snapReason (c : CmdRec) : Nat :=
  let src := (c.w 2).toNat
  let dst := (c.w 3).toNat
  let len := (c.w 4).toNat
  if src % 4096 ≠ 0 ∨ dst % 4096 ≠ 0 ∨ len % 4096 ≠ 0 then 7
  else if len > 2 ^ 34 ∨ (src < dst + len ∧ dst < src + len) then 1
  else 0

/-- Accept a record and end it at once with a failure: its flag is written after VCMD (R223). -/
def acceptFailed (die reason : Nat) (c : CmdRec) (s : State) : State :=
  { s with owed := s.owed ++ [{ addr := c.w 1, val := failureFlag reason, space := c.space, unit := 14, index := die, hart := c.hart, farm := c.farm }] }

/-- A SNAPSHOT record is accepted by engine `n` of a die: its pages are registered, or it ends at once (R223, R228, R323). -/
def acceptSnapshot (die n : Nat) (c : CmdRec) (s : State) : State :=
  if snapReason c ≠ 0 then acceptFailed die (snapReason c) c s
  else match snapPages s c with
    | (.error e, notes) => acceptFailed die e c (noteAll s notes)
    | (.ok pages, notes) =>
      let s := noteAll s notes
      { s.setQueue n (s.queueOf n ++ [c]) with snaps := s.snaps ++ [{ engine := n, pages := pages, buffers := [], cmd := c, failed := none }] }

/-- The copy engine of a die that takes a record, if one has room. -/
def engineFor (s : State) (die : Nat) (c : CmdRec) : Option Nat :=
  let room (e : Nat) : Bool := (s.queueOf (8 * die + e)).length < Config.copyQueueLen
  if c.any then ((List.range 8).find? room).map (8 * die + ·) else if room c.eng then some (8 * die + c.eng) else none

/-- Whether a record may name its flag: it is not 0, and lies where the hart may store; and what finding that out leaves to be done (R223, R318). -/
def flagUsable (s : State) (c : CmdRec) : Bool × List Note :=
  if c.w 1 = 0 || !flagAddress (c.w 1) then (false, [])
  else match agentMap s c.space .store (c.w 1) with
    | .ok m => (true, m.notes)
    | .error f => (false, f.notes)

/-- Submit one record of the current hart: the machine after it, and whether the record is accepted (R223). -/
def submit (c : CmdRec) (s0 : State) : State × Bool :=
  let bench := benchOf s0.hart.id
  let die := dieOf bench
  let s := noteAll s0 (flagUsable s0 c).2
  if !(flagUsable s0 c).1 then (s, false)
  else if !c.ok then (acceptFailed die 1 c s, true)
  else match c.typ % 16 with
    | 2 =>
      let b := s.bench bench
      if b.loaderQ.length < Config.canopyQueueLen then (s.setBench bench { b with loaderQ := b.loaderQ ++ [c] }, true) else (s, false)
    | 4 =>
      let k := ctxKey die ((c.w 2).extractLsb' 0 4).toNat
      if (s.ctx k).st != 0 || (s.ctx k).starting.isSome then (s, false) else (s.setCtx k { s.ctx k with starting := some c }, true)
    | t =>
      match engineFor s die c with
      | none => (s, false)
      | some n => if t = 3 then (acceptSnapshot die n c s, true) else (s.setQueue n (s.queueOf n ++ [c]), true)

/-- VCMD: the records are judged in ascending order, and md tells which were accepted (R223). The bits of a poisoned record are used as they stand (log entry 52). -/
def execVcmd (md a : Reg) (m : MaskField) (s : State) : Host.Outcome State Fault Refusal :=
  .next (checked (.vcmd md a m) s (fun s => held s (fun s =>
    let h := s.hart
    let o : Opnd := { base := a.toNat, n := h.grp, comp := 0, src := true, dst := false }
    let fits := groupFits a.toNat h.grp 0
    match vecCheck (.vcmd md a m) h { grant := fits, format := h.fmt == 3 && h.vlv % 8 == 0, rounds := false } false 3 [o] with
    | some t => trapHere t s
    | none => match readySources s [o] with
      | none => stall s
      | some (s, g, cs) =>
        match firstFault (List.range h.vlv) (chunksFault s cs) with
        | some (e, t) => trapHere { t with vri := some e } s
        | none =>
          let rec' (r : Nat) : CmdRec :=
            { words := (List.range 8).map (fun i => BitVec.ofNat 64 (elemAt g h.capBits a.toNat h.grp 64 (8 * r + i))),
              space := h.space, hart := h.id, farm := h.farm }
          let (s, took) := (List.range (h.vlv / 8)).foldl (fun (acc : State × Nat) r =>
            if !h.selects m false (8 * r) then acc
            else match submit (rec' r) acc.1 with
              | (s, took) => (s, if took then acc.2 + 2 ^ (8 * r) else acc.2)) (s, 0)
          let h := advanceChunks s (s.hart.setMask md.toNat (mergeMask (s.hart.mask md.toNat) took s.hart.vlv)) cs
          finishVec 0 (s.withHart h))))

/-! ## Moving bytes (R225, R226, R230) -/

/-- What an engine writes at one place: bytes it reads elsewhere, or bytes of the record. -/
inductive Source where
  | at (a : Word) | bytes (l : List Byte)
  deriving DecidableEq, Repr

/-- One run of bytes an engine moves. -/
structure Move where
  dst : Word
  src : Source
  n : Nat
  deriving DecidableEq, Repr

/-- A signed 32-bit stride times a count, as an address offset (R225). -/
def strideBy (i stride : Nat) : Word := BitVec.ofInt 64 ((i : Int) * toSigned 32 stride)

/-- The runs of a COPY, in ascending order of its counts (R225). -/
def copyMoves (c : CmdRec) : List Move :=
  let cnt (i : Nat) : Nat := let n := ((c.w 4).extractLsb' (16 * i) 16).toNat; if n = 0 then 1 else n
  let half (w k : Nat) : Nat := ((c.w w).extractLsb' (32 * k) 32).toNat
  if c.n0 = 0 then []
  else (List.range (cnt 2)).flatMap (fun i3 => (List.range (cnt 1)).flatMap (fun i2 => (List.range (cnt 0)).map (fun i1 =>
    { src := .at (c.w 2 + strideBy i1 (half 5 0) + strideBy i2 (half 5 1) + strideBy i3 (half 6 0)),
      dst := c.w 3 + strideBy i1 (half 6 1) + strideBy i2 (half 7 0) + strideBy i3 (half 7 1), n := c.n0 })))

/-- What a record writes (R225, R226, R230). -/
def CmdRec.moves (c : CmdRec) : List Move :=
  match c.typ % 16 with
  | 0 => copyMoves c
  | 1 => if c.w 4 = 0 then [] else
      [{ dst := c.w 2, n := (c.w 4).toNat, src := .bytes ((List.range (c.w 4).toNat).map (fun i => BitVec.ofNat 8 (slot 8 (i % 8) (c.w 3).toNat))) }]
  | _ => [{ dst := c.w 2, n := 8, src := .bytes (bytesOf 8 (c.w 3).toNat) }]

/-- The key of the first byte of run `i`. -/
def moveKey (i : Nat) : Nat := i * 2 ^ 64

/-- The read requests for the runs whose bytes lie at domain addresses. -/
def moveReads (s : State) (part : BitVec 3) (ms : List (Move × Nat)) : List Request :=
  requestsOf s part true .run 1 (ms.flatMap (fun q => match q.1.src with
    | .at a => if isRemote a && !remoteRefused s part a then byteUnits (moveKey q.2) a q.1.n else []
    | .bytes _ => []))

/-- What moving has come to: the machine, units to send, runs written at home with their marks, and the reason it stopped (0: none). -/
structure Moved where
  st : State
  units : List RemoteUnit
  wrote : List (Nat × List MarkedByte)
  reason : Nat

/-- The bytes of a run, or why they cannot be had: the reason, and what finding it leaves to be done (R318). -/
def moveBytes (s : State) (sp : Space) (ans : List (Nat × Answer)) (q : Move × Nat) : Except (Nat × List Note) (List MarkedByte) :=
  match q.1.src with
  | .bytes l => .ok (l.map (fun b => (b, false)))
  | .at a =>
    if isRemote a then
      (if remoteRefused s sp.part a then .error (4, []) else match answeredBytes ans (moveKey q.2) a q.1.n with | .error _ => .error (4, []) | .ok l => .ok l)
    else match agentBytes s sp a q.1.n with
      | .error (f, _) => .error (faultReason f, f.notes)
      | .ok l => .ok l

/-- Whether a run is read from a window whose link is down (R310). -/
def moveDown (s : State) (sp : Space) (m : Move) : Bool := match m.src with | .at a => !isRemote a && agentDown s sp .load a m.n | .bytes _ => false

/-- Where the pieces of a run land at home. -/
def landings (s : State) (sp : Space) (a : Word) (bs : List MarkedByte) : List (Nat × List MarkedByte) :=
  (pagePieces a bs.length).filterMap (fun p => match agentMap s sp .store p.1 with
    | .ok m => some (m.pa, (bs.drop (p.1 - a).toNat).take p.2)
    | .error _ => none)

/-- Move one run, unless an earlier one failed. Marked bytes do not leave for a domain address (R418), and a run that touches the window of a link that is down ends
the record with reason 4 (R310). -/
def moveOne (sp : Space) (ans : List (Nat × Answer)) (acc : Moved) (q : Move × Nat) : Moved :=
  if acc.reason ≠ 0 then acc
  else match moveBytes acc.st sp ans q with
    | .error (r, notes) => { acc with st := noteAll acc.st notes, reason := r }
    | .ok bs =>
      let s := match q.1.src with | .at a => if isRemote a then acc.st else agentPass acc.st sp a q.1.n false | .bytes _ => acc.st
      if moveDown s sp q.1 then { acc with st := s, reason := 4 }
      else if isRemote q.1.dst then
        (if remoteRefused s sp.part q.1.dst then { acc with st := s, reason := 4 }
         else
          { acc with
            st := s,
            units := acc.units ++ (bs.zipIdx.filter (fun b => !b.1.2)).map (fun b =>
              { key := moveKey q.2 + b.2, addr := q.1.dst + BitVec.ofNat 64 b.2, val := b.1.1.toNat, mask := 0 }),
            reason := if bs.any Prod.snd then 4 else 0 })
      else
        let ls := landings s sp q.1.dst bs
        let down := agentDown s sp .store q.1.dst bs.length
        match agentStore s sp q.1.dst bs false with
        | (s, none) => { acc with st := s, wrote := acc.wrote ++ ls, reason := if down then 4 else 0 }
        | (s, some (f, _)) => { acc with st := noteAll s f.notes, wrote := acc.wrote ++ ls, reason := faultReason f }

/-- Clear the mark of each sector that a record has covered whole with clean bytes (R419). -/
def clearWhole (wrote : List (Nat × List MarkedByte)) (s : State) : State :=
  let clean (a : Nat) : Bool :=
    let hits := wrote.filter (fun w => w.1 ≤ a && a < w.1 + w.2.length)
    !hits.isEmpty && hits.all (fun w => match w.2[a - w.1]? with | some b => !b.2 | none => true)
  { s with poison := s.poison.filter (fun k => !(List.range 64).all (fun i => clean (k + i))) }

/-- The key under which an engine's own failure is kept while its writes are out. -/
def ownKey : Nat := 2 ^ 192

/-- The reason a record ends with, from the answers to its writes. -/
def endReason (ans : List (Nat × Answer)) : Nat :=
  match ans.find? (fun a => a.1 == ownKey) with
  | some (_, .failed r) => r
  | _ => if ans.any (fun a => a.2.bad) then 4 else 0

/-- Move the bytes of the record at the head of engine `n`, once those it reads at domain addresses have come. Runs are taken in an order
that is a free value (R225; log entry 53). -/
def moveRecord (n : Nat) (c : CmdRec) (s : State) : State :=
  match s.awaits.find? (fun a => a.1 == 512 + n) with
  | some (_, r) => if r.openTags.isEmpty then popRecord n (endReason r.answers) s else s
  | none =>
    let ms := c.moves.zipIdx
    match agentRemote s (.engine n) n (moveReads s c.space.part ms) with
    | .waiting s => s
    | .answered s ans =>
      let out := (freeOrder s.fresh ms).foldl (moveOne c.space ans) { st := { s with fresh := s.fresh + 1 }, units := [], wrote := [], reason := 0 }
      let s := clearWhole out.wrote out.st
      let size := if c.typ % 16 = 5 then 8 else 1
      let units := if size = 1 then out.units else
        (match out.units with | u :: _ => [{ u with val := (c.w 3).toNat }] | [] => [])
      let (s, tags) := sendRequests s (.engine (512 + n)) (requestsOf s c.space.part false .run size units)
      let back := if out.reason = 0 then [] else [(ownKey, .failed out.reason)]
      if tags.isEmpty then popRecord n (endReason back) s
      else { s with awaits := tset s.awaits (512 + n) { openTags := tags, answers := back } }

/-- Run the head of engine `n` if it is a record of type `t`. -/
def onHead (n t : Nat) (k : CmdRec → State → State) (s : State) : State :=
  match s.queueOf n with
  | c :: _ => if c.typ % 16 = t then k c (settleDie (n / 8) s) else s
  | [] => s

/-- A step of the table: a copy engine runs the COPY at the head of its queue (R225, R231). -/
def execCopy (engine : Nat) (s : State) : Host.Outcome State Fault Refusal := .next (onHead engine 0 (moveRecord engine) s)

/-- A step of the table: FILL (R226). -/
def execFill (engine : Nat) (s : State) : Host.Outcome State Fault Refusal := .next (onHead engine 1 (moveRecord engine) s)

/-- A step of the table: FLAG WRITE (R230). -/
def execFlagWrite (engine : Nat) (s : State) : Host.Outcome State Fault Refusal :=
  .next (onHead engine 5 (fun c s => if (c.w 2).toNat % 8 ≠ 0 then popRecord engine 7 s else moveRecord engine c s) s)

/-- A step of the table: L2 PREFETCH allocates lines at their homes; domain addresses are left out (R230, R322). -/
def execL2Prefetch (engine : Nat) (s : State) : Host.Outcome State Fault Refusal :=
  .next (onHead engine 6 (fun c s =>
    let a := c.w 2
    let n := (c.w 3).toNat
    if isRemote a then popRecord engine 0 s
    else match agentFault s c.space .load a n with
      | some (f, _) => popRecord engine (faultReason f) (noteAll s f.notes)
      | none =>
        let down := agentDown s c.space .load a n
        popRecord engine (if down then 4 else 0) (agentPass s c.space a n true)) s)

/-! ## Canopy loads (R227) -/

/-- The head of a bench's loader ends with a reason. -/
def popLoad (bench reason : Nat) (s : State) : State :=
  match (s.bench bench).loaderQ with
  | [] => s
  | c :: rest => dropAwait (16 + bench) (endRecord (dieOf bench) reason c (s.setBench bench { s.bench bench with loaderQ := rest }))

/-- Whether a load reads the window of a link that is down (R310). -/
def CanopyRec.down (r : CanopyRec) (s : State) : Bool :=
  (List.range r.outer).any (fun o => (r.segs o).any (fun g => !isRemote g.addr && agentDown s r.space .load g.addr g.n))

/-- A step of the table: the loader replays recorded loads of a farm that came back, and then starts, or goes on with, the CANOPY LOAD at the head of its queue
(R190, R191, R193, R227). -/
def execCanopyLoad (bench : Nat) (s : State) : Host.Outcome State Fault Refusal :=
  .next (if !(s.bench bench).replays.isEmpty then replayNext bench (settleBench bench s) else match (s.bench bench).loaderQ with
    | [] => s
    | c :: _ =>
      let r := c.canopy
      let s := settleBench bench s
      let s := s.setBench bench ((s.bench bench).takeCanopy c.farm)
      if !(s.bench bench).ownsCanopy c.farm then popLoad bench 5 s
      else if r.misaligned.isSome then popLoad bench 7 s
      else
        let units := (remoteSegs r 0).filter (fun u => !remoteRefused s c.space.part u.addr)
        match agentRemote s (.engine (16 + bench)) (16 + bench) (requestsOf s c.space.part true .run 1 units) with
        | .waiting s => s
        | .answered s ans =>
          match loadRows r c.space bench ans 0 s with
          | (s, some (_, .access f _)) => popLoad bench (faultReason f) (noteAll s f.notes)
          | (s, some (_, .remote _)) => popLoad bench 4 s
          | (s, none) => popLoad bench (if r.down s then 4 else 0) (recordLoad bench r s))

/-! ## Snapshots (R228, R323) -/

/-- The snapshot an engine runs: the oldest of its own. -/
def State.snapOf (s : State) (n : Nat) : Option Snap := s.snaps.find? (fun p => p.engine == n)

/-- Change the snapshot an engine runs. -/
def State.setSnap (s : State) (n : Nat) (f : Snap → Option Snap) : State :=
  let rec go : List Snap → List Snap
    | [] => []
    | p :: t => if p.engine == n then (match f p with | some q => q :: t | none => t) else p :: go t
  { s with snaps := go s.snaps }

/-- The snapshot an engine runs ends, and its record with it. -/
def endSnap (n reason : Nat) (s : State) : State := popRecord n reason (s.setSnap n (fun _ => none))

/-- Write one page of a snapshot to its DST, with the marks of its sectors; a fault ends the record, and so does a link that is down (R310). -/
def putPage (n : Nat) (sp : Space) (dst : Word) (bytes : List Byte) (bad : List Nat) (s : State) : State :=
  let down := agentDown s sp .store dst 4096
  match agentStore s sp dst (bytes.zipIdx.map (fun b => (b.1, bad.contains (b.2 / 64)))) false with
  | (s, none) => if down then endSnap n 4 s else s
  | (s, some (f, _)) => endSnap n (faultReason f) (noteAll s f.notes)

/-- The engine copies a buffered page, or else the next registered page, to DST; with neither left the record ends, and earlier if draining a buffer for a write
that waited has failed (R323). -/
def snapStep (n : Nat) (s : State) : State :=
  match s.snapOf n with
  | none => s
  | some p =>
    match p.failed, p.buffers, p.pages with
    | some r, _, _ => endSnap n r s
    | none, b :: bs, _ => putPage n p.cmd.space b.dst b.bytes b.bad (s.setSnap n (fun p => some { p with buffers := bs }))
    | none, [], (page, _, dst) :: rest =>
      let bytes := bytesOf 4096 (homeRead s page 4096)
      let bad := pageMarks s page
      let s := (List.range 64).foldl (fun s i => touch s p.cmd.space.part (page + 64 * i) none false false false) s
      if linkDown s page then endSnap n 4 s
      else putPage n p.cmd.space dst bytes bad (s.setSnap n (fun p => some { p with pages := rest }))
    | none, [], [] => endSnap n 0 s

/-- Run a snapshot to its end: at most `fuel` pages. -/
def snapRun (n : Nat) : Nat → State → State
  | 0, s => s
  | fuel + 1, s => snapRun n fuel (onHead n 3 (fun _ => snapStep n) s)

/-- A step of the table: the engine copies one page of the snapshot at the head of its queue (R323). -/
def execSnapshotPageCopy (engine : Nat) (s : State) : Host.Outcome State Fault Refusal := .next (onHead engine 3 (fun _ => snapStep engine) s)

/-- A step of the table: the snapshot at the head of an engine's queue is copied to its end and its flag written (R228, R323). -/
def execSnapshot (engine : Nat) (s : State) : Host.Outcome State Fault Refusal :=
  .next (onHead engine 3 (fun c s => match s.snapOf engine with
    | some p => if p.cmd == c then snapRun engine (p.pages.length + p.buffers.length + 1) s else s
    | none => s) s)

/-- Whether the home of a registered page has a page buffer free (R323). -/
def hasBuffer (s : State) (page : Nat) : Bool :=
  s.snaps.any (fun n => n.pages.any (fun q => q.1 == page && (s.snaps.flatMap (fun m => m.buffers.filter (fun b => b.home == q.2.1))).length < 8))

/-- A step of the table: a home reads a page that a snapshot has registered into one of its buffers, before the write that waits for it; with all eight full the
demand waits (R323). -/
def execDemandCopy (page : Nat) (s : State) : Host.Outcome State Fault Refusal := .next (if hasBuffer s page then bufferPage s page else s)

end Sys2Proof.Machine
end

