-- ==== Sys2Proof/Machine/Hierarchy.lean ====
section
/-! DEFINITION. The steps that the memory hierarchy and the lane clusters make of themselves: drawer moves, micro-operations (R286 to R289), gating (R404), store
performance (R250), fills (R300, R301), walks (R312, R319), stream reads (R139), HBM rows (R305 to R307), scrubbing and soft errors (R416, R417), and the
loss of a CXL link (R310). -/

namespace Sys2Proof.Machine

/-! ## Harts' own steps -/

/-- A step of the table: a hart's drawers move after a class change (R122). -/
def execDrawerMove (h : HartId) (s : State) : Host.Outcome State Fault Refusal :=
  .next (asHart h (fun s => if s.hart.moving then moveDrawers s else s) s)

/-- Whether part `j` of buffered store `i` may perform now: no older store writes a byte of it, an ordered store's parts go in their order, and a release goes after
every older store (R103, R104, R128, R250). -/
def mayPerform (l : List BufferedStore) (i j : Nat) : Bool :=
  match l[i]? with
  | none => false
  | some e => match e.parts[j]? with
    | none => false
    | some p => (l.take i).all (fun o => p.all (fun w => !o.meets w.pa w.n)) && (!e.rel || i == 0) && (e.anyOrder || j == 0)

/-- Part `j` of buffered store `i` of the current hart performs at its home; with the last part of a store the marks of the sectors it covers clear, and it leaves
the buffer (R243 to R245, R252, R301, R419). -/
def performPart (i j : Nat) (s : State) : State :=
  match s.hart.stores[i]? with
  | none => s
  | some e =>
    let s := ((e.parts[j]?).getD []).foldl (performWrite (coreOf s.hart.id) s.hart.partid) s
    let rest := e.parts.eraseIdx j
    let s := if rest.isEmpty then e.clears.foldl State.clearPoison s else s
    s.withHart { s.hart with stores :=
      if rest.isEmpty then s.hart.stores.eraseIdx i else s.hart.stores.mapIdx (fun k x => if k == i then { x with parts := rest } else x) }

/-- A step of the table: a part of a buffered store of a hart performs at its home, if nothing holds it back (R250). -/
def execStorePerform (p : StorePart) (s : State) : Host.Outcome State Fault Refusal :=
  .next (asHart p.hart (fun s => if mayPerform s.hart.stores p.store p.part then performPart p.store p.part s else s) s)

/-- Read elements of a load stream ahead, as far as the first that faults (R139). -/
def readAhead (r count : Nat) (s : State) : State :=
  match s.hart.loadBinding r with
  | none => s
  | some b =>
    if b.scb.dir != 0 then s
    else
      let want := idxs count (fun e => b.pos + e < b.scb.len && !b.ahead.any (fun q => q.1 == b.pos + e))
      let good := match want.find? (fun e => (chunkFault s b e).isSome) with
        | some f => want.filter (· < f)
        | none => want
      let got := good.map (fun e => (b.pos + e, chunkElem s b e))
      let s := good.foldl (fun t e => elemTouch b.scb.nt s t (b.scb.loc (b.pos + e))) s
      s.withHart (s.hart.setBinding r (some { b with ahead := b.ahead ++ got }))

/-- A step of the table: the access unit reads elements of a load stream ahead (R139). -/
def execStreamFetch (h : HartId) (n : BitVec 3) (count : Nat) (s : State) : Host.Outcome State Fault Refusal :=
  .next (asHart h (fun s => readAhead (24 + n.toNat) count (drainStores s)) s)

/-! ## Fills (R300, R301) -/

/-- The partition a core's fills belong to: that of its first resident hart. -/
def partOfCore (s : State) (core : Nat) : Option (BitVec 3) := (s.harts.find? (fun h => coreOf h.id == core)).map (·.partid)

/-- A step of the table: a sector of normal memory comes into a core's L1 or instruction cache from its home. A poisoned sector is not filled; data marked
non-temporal enters as least recently used (R300, R301, R418). -/
def execSectorFill (core sector : Nat) (kind : FillKind) (s : State) : Host.Outcome State Fault Refusal :=
  .next (match partOfCore s core with
    | none => s
    | some p =>
      if sector % 64 ≠ 0 || !isCached sector then s
      else
        let s := touch s p sector none false false true
        let k := s.core core
        let data (nt : Bool) : State :=
          if (l1Find k.l1 sector).isSome then s
          else s.setCore core { k with l1 := l1Fill (l1Ways s core) nt { addr := sector, data := memRead s.mem sector 64, upset := tget 0 s.upsets sector } k.l1 }
        if poisonedAt s sector 64 then s
        else match kind with
          | .instr => if k.icache.any (fun q => q.1 == sector) then s
              else s.setCore core { k with icache := ((sector, memRead s.mem sector 64) :: k.icache).take 2048 }
          | .data => data false
          | .dataNt => data true)

/-! ## Walks (R312, R319) -/

/-- A step of the table: a walk for a hart completes and fills the TLBs of its core and its bench, or faults and fills nothing (R312, R317 to R319). -/
def execTableWalk (h : HartId) (va : Word) (write fetch : Bool) (s : State) : Host.Outcome State Fault Refusal :=
  .next (match s.findHart h with
    | none => s
    | some g =>
      let sp := g.space
      if va.extractLsb' 57 7 != 0 then s
      else match walk s sp va.toNat with
        | (l, .error f) => noteAll s (l.map (Note.entry sp.part) ++ f.notes)
        | (l, .ok e) => match judge s sp (if fetch then .fetch else if write then .store else .load) va.toNat e (some (e, l)) with
          | .error f => noteAll s f.notes
          | .ok m => noteWalk s (some h) m)

/-! ## HBM rows (R305 to R307) and the second tier (R310) -/

/-- A step of the table: a request reaches the bank of an HBM address; unless its row is open, an activation opens it (R305, R306). -/
def execHbmAct (pa : Nat) (s : State) : Host.Outcome State Fault Refusal := .next (if regionOf pa == .hbm then hbmRequest s pa else s)

/-- Whether a bank's refresh-management command has waited for 2 µs: it runs then in any case (R307). -/
def rfmDue (s : State) (bank : Nat) : Bool := s.dram.pendingRfm.any (fun p => p.bank == bank && (s.time - p.since).toNat ≥ 2000)

/-- A step of the table: a pending refresh-management command runs although nothing has asked for its bank (R307). -/
def execRfm (bank : Nat) (s : State) : Host.Outcome State Fault Refusal := .next (if rfmDue s bank then runRfm s bank else s)

/-- A step of the table: a refresh closes the open row of a bank, behind a pending RFM (R305, R307). -/
def execHbmRefresh (bank : Nat) (s : State) : Host.Outcome State Fault Refusal :=
  .next (let s := runRfm s bank; { s with dram := { s.dram with openRows := tset s.dram.openRows bank none } })

/-- Poison a sector for an uncorrectable error: one mark and one event of type 1, unless it is marked already (R416 to R418). -/
def poisonSector (unit index : Nat) (part : Option (BitVec 3)) (sector : Nat) (s : State) : State :=
  if s.poison.contains sector then s else (s.setPoison sector).report { typ := 1, unit := unit, index := index, part := part, addr := sector }

/-- A step of the table: the scrubber reads a sector of HBM (R417). -/
def execPatrolScrub (sector : Nat) (found : SectorHealth) (s : State) : Host.Outcome State Fault Refusal :=
  .next (
    let k := sectorOf sector
    let ch := hbmChannel k
    if regionOf k != .hbm then s
    else match found with
      | .clean => s
      | .corrected => s.count (0x100 + 8 * ch) 1
      | .uncorrectable => if s.poison.contains k then s else poisonSector 0 ch none k (s.count (0x900 + 8 * ch) 1))

/-- A step of the table: a CXL port's link goes down. Sectors of its window that an L2 holds dirty are poisoned, and the write-back of each is dropped and reported
(R310). -/
def execCxlLinkDown (port : Nat) (s : State) : Host.Outcome State Fault Refusal :=
  .next (
    if port ≥ 4 || !s.links.cxlUp.getLsbD port then s
    else
      let mine (a : Nat) : Bool := regionOf a == .cxl port
      let lost := (s.l2.filter (fun p => mine p.1 && p.2.dirty)).map Prod.fst
      let s := { s with
        l2 := s.l2.filter (fun p => !mine p.1), upsets := s.upsets.filter (fun p => !mine p.1),
        links := { s.links with cxlUp := s.links.cxlUp &&& ~~~(1#4 <<< port) } }
      lost.foldl (fun s k => (s.setPoison k).report { typ := 8, unit := 1, index := port, part := none, addr := k }) s)

/-! ## Soft errors (R299, R302 to R304, R413, R416, R417) -/

/-- The partition whose bench set holds a bench, if it runs. -/
def partOfBench (s : State) (b : Nat) : Option (BitVec 3) :=
  ((List.range 8).map (BitVec.ofNat 3)).find? (fun p => (s.partn p).en && (s.partn p).hasBench b)

/-- An error that the code of a sector's home finds: a dirty L2 sector, a bench store or memory loses it; a clean L2 sector is read again (R302, R303, R417). -/
def homeError (sector : Nat) (correctable : Bool) (s : State) : State :=
  match regionOf sector with
  | .hbm | .cxl _ =>
    (match s.l2.find? (fun p => p.1 == sector) with
     | some (_, e) =>
       if correctable then s
       else if e.dirty then poisonSector 2 e.home (partOfBench s e.home) sector s
       else memoryRequest (undoUpset s sector) sector
     | none => match regionOf sector with
       | .cxl p => if correctable then s else poisonSector 1 p none sector s
       | _ =>
         if correctable then s.count (0x100 + 8 * hbmChannel sector) 1
         else if s.poison.contains sector then s
         else poisonSector 0 (hbmChannel sector) none sector (s.count (0x900 + 8 * hbmChannel sector) 1))
  | .benchStore => if correctable then s else (let b := homeBench sector none; poisonSector 3 b (partOfBench s b) sector s)
  | _ => s

/-- Bits of a sector in an L2 slice or a bench store, or of its check value, change: nothing finds it before the sector is verified (R413, R416). -/
def upsetHome (sector bits : Nat) (s : State) : State :=
  if regionOf sector == .benchStore || s.l2.any (fun p => p.1 == sector) then
    let u := tget 0 s.upsets sector ^^^ (bits % 2 ^ 528)
    { s with
      mem := memPutAll s.mem sector (bytesOf 64 (memRead s.mem sector 64 ^^^ (bits % 2 ^ 512))),
      upsets := if u = 0 then tdel s.upsets sector else tset s.upsets sector u }
  else s

/-- The elements of a register that lie in the same 8 bytes of a drawer as one of them (R299). -/
def drawerMates (v : VReg) (element : Nat) : List Nat :=
  let w := elemWidth v.fmt.toNat
  (List.range (64 / w)).map (fun i => element / (64 / w) * (64 / w) + i)

/-- A step of the table: stored bits change (R416). Codes correct what they can; what they cannot takes poison marks, and a copy in an L1 or in flight is had again
from its home. -/
def execSoftError (site : ErrorSite) (s : State) : Host.Outcome State Fault Refusal :=
  .next (match site with
    | .home sector correctable => homeError (sectorOf sector) correctable s
    | .l1Drawer core sector => dropSectors s core [sector]
    | .l1Copy core sector => if (l1Find (s.core core).l1 sector).isSome then (dropSectors s core [sector]).count (0x1D00 + 8 * 6) 1 else s
    | .homeUpset sector bits => upsetHome (sectorOf sector) bits s
    | .l1Upset core sector bits =>
      let k := s.core core
      if (l1Find k.l1 sector).isSome then
        s.setCore core { k with l1 := k.l1.map (fun p => if p.addr == sector
          then { p with data := p.data ^^^ (bits % 2 ^ 512), upset := p.upset ^^^ (bits % 2 ^ 528) } else p) }
      else s
    | .canopyUpset bench unit bits =>
      if bench ≥ Config.benches || unit ≥ 2 ^ 18 then s
      else
        let b := s.bench bench
        let u := tget 0 b.canopyUpsets unit ^^^ (bits % 2 ^ 528)
        s.setBench bench { b with
          canopy := memPutAll b.canopy (64 * unit) (bytesOf 64 (memRead b.canopy (64 * unit) 64 ^^^ (bits % 2 ^ 512))),
          canopyUpsets := if u = 0 then tdel b.canopyUpsets unit else tset b.canopyUpsets unit u }
    | .bufferUpset ctx buf sector bits =>
      if ctx ≥ 32 then s
      else
        let c := s.ctx ctx
        s.setCtx ctx { c with bufs := c.bufs.mapIdx (fun q b => if q != buf then b else b.map (fun b =>
          let u := tget 0 b.upsets sector ^^^ (bits % 2 ^ 528)
          { b with
            data := b.data ^^^ ((bits % 2 ^ 512) <<< (512 * sector)),
            upsets := if u = 0 then tdel b.upsets sector else tset b.upsets sector u })) }
    | .drawer hart reg element correctable =>
      if correctable then s
      else match s.findHart hart with
        | none => s
        | some h =>
          let v := h.vreg reg.toNat
          if v.poison.testBit element || (element + 1) * elemWidth v.fmt.toNat > h.capBits then s
          else (s.updHart hart (fun g => g.setV reg.toNat { v with poison := (drawerMates v element).foldl (fun p e => p ||| 2 ^ e) v.poison })).report
            { typ := 2, unit := 4, index := coreOf hart, part := some h.partid, addr := 0 }
    | .canopyUnit bench offset correctable =>
      if correctable || bench ≥ Config.benches || offset ≥ 2 ^ 24 then s
      else
        let b := s.bench bench
        (s.setBench bench { b with canopyPoison := (List.range 32).foldl (fun l i => setIns l (offset / 8 * 32 + i)) b.canopyPoison }).report
          { typ := 2, unit := 5, index := bench, part := partOfBench s bench, addr := 0 }
    | .inFlight unit => s.count (0x1D00 + 8 * (unit.toNat % 32)) 1)

/-! ## Debug halt (R346 to R348, R444) -/

/-- A step of the table: a halt request for a hart arrives; it is honoured for partitions with their debug enable set (R346, R444). -/
def execDebugHaltRequest (h : HartId) (s : State) : Host.Outcome State Fault Refusal :=
  .next (match s.findHart h with
    | some g => if (s.partn g.part).debugOn && g.run != .halted then s.updHart h (fun g => { g with haltAsked := true }) else s
    | none => s)

/-- A step of the table: a hart that was asked to halt has reached its pre-emption point and drained (R346). -/
def execDebugHaltEnter (h : HartId) (s : State) : Host.Outcome State Fault Refusal :=
  .next (asHart h (fun s =>
    if s.hart.haltAsked && s.mayStop s.hart && s.hart.run != .halted then haltHere (breakWait s) else s) s)

/-- The tile of a number that the current hart owns. -/
def ownTile (s : State) (t : Nat) : Option Tile := (s.bench (benchOf s.hart.id)).tiles.toList[t]?.filter (fun x => x.owner == some s.hart.id)

/-- Change a tile that the current hart owns. -/
def updTile (t : Nat) (f : Tile → Tile) (s : State) : State :=
  let b := s.bench (benchOf s.hart.id)
  s.setBench (benchOf s.hart.id) { b with tiles := b.tiles.mapIdx (fun i x => if i == t && x.owner == some s.hart.id then f x else x) }

/-- The doubleword that the first header word of a tile is (R200, R341). -/
def Tile.header (t : Tile) : Word := setBit t.status 32 t.nf

/-- A tile with the header bits of a doubleword (R200, R341). -/
def Tile.setHeader (w : Word) (t : Tile) : Tile :=
  { t with
    mis := w.getLsbD 0, ten := w.getLsbD 1, skip := w.getLsbD 2, pend := w.getLsbD 3, int32 := w.getLsbD 4, cnt := w.extractLsb' 16 16, nf := w.getLsbD 32 }

/-- Write field values of a hart that a debugger reaches (R347). The level stays: only a trap and TRET change it (R24). -/
def debugWrite (f : DebugField) (v : Nat) (s : State) : State :=
  let h := s.hart
  let w : Word := BitVec.ofNat 64 v
  match f with
  | .pc => s.withHart { h with pc := pcValue w }
  | .x r => s.setX r w
  | .sysreg n =>
    (match n.toNat with
     | 0x000 => s.withHart { h with status := blend 0x27C h.status w }
     | 0x003 => s.withHart { h with stripno := w }
     | 0x011 => s.withHart { h with vlg := v % 2 ^ 17 }
     | 0x012 => s.withHart { h with vlv := v % 2 ^ 17 }
     | 0x010 => s.withHart { h with vtype := w.extractLsb' 0 20 }
     | 0x015 => s.withHart { h with rscg := w.extractLsb' 0 3 }
     | 0x034 => s.withHart { h with keyOvf := w.getLsbD 7 }
     | 0x060 => s.withHart { h with cycle := w }
     | 0x061 => s.withHart { h with instret := w }
     | 0x102 | 0x200 | 0x210 => s
     | _ => sysWrite n w w s)
  | .mask m => s.withHart (h.setMask m.toNat (v % 2 ^ h.maskExtent))
  | .keyEntry j => s.withHart { h with keyTable := listSet h.keyTable j w }
  | .keyCount => s.withHart { h with keyTable := (h.keyTable ++ List.replicate 64 0).take (min v 64) }
  | .vimage r => s.withHart (h.setV r.toNat { h.vreg r.toNat with img := v % 2 ^ h.capBits, dirty := true })
  | .vfmt r => s.withHart (h.setV r.toNat { h.vreg r.toNat with fmt := BitVec.ofNat 5 v, dirty := true })
  | .vlen r => s.withHart (h.setV r.toNat { h.vreg r.toNat with vlen := v % 2 ^ 17, dirty := true })
  | .vprog r => s.withHart (h.setV r.toNat { h.vreg r.toNat with prog := v % 2 ^ 17, dirty := true })
  | .vpoison r => s.withHart (h.setV r.toNat { h.vreg r.toNat with poison := v, dirty := true })
  | .position n => s.withHart (match h.binding (24 + n.toNat) with
      | some b => h.setBinding (24 + n.toNat) (some { b with pos := min v b.scb.len, ahead := [] })
      | none => h)
  | .scbWord n j => s.withHart (match h.binding (24 + n.toNat) with
      | some b =>
        let d := (scbWords b.scb).mapIdx (fun i x => if i == j.toNat then w else x)
        h.setBinding (24 + n.toNat) (some { b with scb := scbOf (ofBytes (wordBytes d)), ahead := [] })
      | none => h)
  | .bound n => s.withHart (match h.binding (24 + n.toNat) with
      | some _ => if v % 2 = 0 then h.setBinding (24 + n.toNat) none else h
      | none => if v % 2 = 0 then h else h.setBinding (24 + n.toNat) (some { scb := scbOf 0, pos := 0, ahead := [] }))
  | .dirty r => s.withHart (h.setV r.toNat { h.vreg r.toNat with dirty := v % 2 = 1 })
  | .granted => s.withHart { h with granted := v % 2 = 1 }
  | .tilesOwned => s
  | .tileImage t => updTile t.toNat (fun x => { x with acc := v }) s
  | .tilePoison t => updTile t.toNat (fun x => { x with poison := v }) s
  | .tileStatus t => updTile t.toNat (Tile.setHeader w) s
  | .tileRounds t => updTile t.toNat (fun x => { x with rounds := w.toNat }) s
  | .tileCheck t => updTile t.toNat (fun x => { x with
      rowC := (List.range Config.mtlen).map (Config.checkSum v), rowM := (List.range Config.mtlen).map (Config.checkBound v),
      colC := (List.range Config.mtlen).map (fun i => Config.checkSum v (Config.mtlen + i)),
      colM := (List.range Config.mtlen).map (fun i => Config.checkBound v (Config.mtlen + i)) }) s

/-- The value of a field of the current hart as a debugger reads it (R347). -/
def debugRead (f : DebugField) (s : State) : Nat :=
  let h := s.hart
  match f with
  | .pc => h.pc.toNat
  | .x r => (h.getX r).toNat
  | .sysreg n => (sysRead s n).toNat
  | .mask m => h.mask m.toNat
  | .keyEntry j => ((h.keyTable[j]?).getD 0).toNat
  | .keyCount => h.keyTable.length
  | .vimage r => (h.vreg r.toNat).img
  | .vfmt r => (h.vreg r.toNat).fmt.toNat
  | .vlen r => (h.vreg r.toNat).vlen
  | .vprog r => (h.vreg r.toNat).prog
  | .vpoison r => (h.vreg r.toNat).poison
  | .position n => match h.binding (24 + n.toNat) with | some b => b.pos | none => 0
  | .scbWord n j => match h.binding (24 + n.toNat) with | some b => ((scbWords b.scb)[j.toNat]?.getD 0).toNat | none => 0
  | .bound n => if (h.binding (24 + n.toNat)).isSome then 1 else 0
  | .dirty r => if (h.vreg r.toNat).dirty then 1 else 0
  | .granted => if h.granted then 1 else 0
  | .tilesOwned => (ownedTiles s h.id).foldl (fun m t => m + 2 ^ t.1) 0
  | .tileImage t => ((ownTile s t.toNat).map (·.acc)).getD 0
  | .tilePoison t => ((ownTile s t.toNat).map (·.poison)).getD 0
  | .tileStatus t => ((ownTile s t.toNat).map (fun x => x.header.toNat)).getD 0
  | .tileRounds t => ((ownTile s t.toNat).map (·.rounds)).getD 0
  | .tileCheck t => ((ownTile s t.toNat).map (·.checkBlock)).getD 0

/-- The bytes a field is answered in. -/
def debugBytes (f : DebugField) (h : Hart) : Nat :=
  match f with
  | .mask _ => h.maskExtent / 8
  | .vimage _ => h.classSize
  | .vpoison _ => h.classSize / 4
  | .tileImage _ => 4 * Config.mtlen * Config.mtlen
  | .tilePoison _ => Config.mtlen * Config.mtlen / 8
  | .tileCheck _ => 128 * Config.mtlen
  | _ => 8

/-- The debugger's writes that waited for the current hart take effect before anything else reads it (R348). -/
def applyWrites (s : State) : State :=
  s.hart.debugWrites.foldl (fun s w => debugWrite w.1 w.2 s) (if s.hart.debugWrites.isEmpty then s else s.withHart { s.hart with debugWrites := [] })

/-- A debugger's write waits with a hart that is saved halted until it resumes (R348). -/
def waitingWrite (f : DebugField) (v : Nat) (h : Hart) : Hart := { h with debugWrites := h.debugWrites ++ [(f, v)] }

/-- A debugger's write for the saved hart of an identity, if one was saved halted (R348). -/
def writeSaved (i : HartId) (f : DebugField) (v : Nat) (s : State) : State :=
  let put (h : Hart) : Hart := if h.id == i && h.status.getLsbD 10 then waitingWrite f v h else h
  { s with farms := s.farms.map (fun m => { m with saved := m.saved.map put }), parts := s.parts.map (fun p => { p with bureauSaved := p.bureauSaved.map put }) }

/-- A step of the table: the debugger reads or writes a field of a halted hart; what it reads is the links' answer (R347). A write for a hart that a swap is
taking, or has taken, waits (R348). -/
def execDebugAccess (h : HartId) (field : DebugField) (write : Option Nat) (s : State) : Host.Outcome State Fault Refusal :=
  .next (match s.findHart h, write with
    | none, some v => writeSaved h field v s
    | none, none => s
    | some g, _ =>
      if g.run != .halted || !g.status.getLsbD 10 then s
      else match write with
        | none => asHart h (fun s =>
            let s := if s.hart.swapping then s else applyWrites s
            { s with links := { s.links with answer := bytesOf (debugBytes field s.hart) (debugRead field s), answerBad := false, unsupported := false } }) s
        | some v =>
          if !g.swapping then asHart h (fun s => debugWrite field v (applyWrites s)) s
          else if imageWritten s g then writeSaved h field v s
          else s.updHart h (waitingWrite field v))

/-- A step of the table: the debugger resumes a halted hart, which refetches from PC (R346, R347). -/
def execDebugResume (h : HartId) (s : State) : Host.Outcome State Fault Refusal :=
  .next (asHart h (fun s =>
    if s.hart.run != .halted || !s.hart.status.getLsbD 10 || !(s.partn s.hart.part).debugOn then s
    else
      let s := applyWrites s
      s.withHart { s.hart with run := .ready, status := setBit s.hart.status 10 false }) s)

end Sys2Proof.Machine
end

