-- ==== Sys2Proof/Machine/Power.lean ====
section
/-! DEFINITION. Power and lifetime records: the clock ceiling, the heat-flux governor, leases, and the lifetime area with its flushes
(R406 to R410, R425, R426). -/

namespace Sys2Proof.Machine

/-! ## The clocks (R405 to R408) -/

/-- What the governor keeps for one die. -/
structure DieClock where
  freq : BitVec 12
  ceil : BitVec 12
  lim : BitVec 2
  fstep : Word
  emergency : Bool
  deriving DecidableEq, Repr

/-- A die's clock, `die` naming die 1. -/
def Power.clock (p : Power) (die : Bool) : DieClock :=
  let i : Fin 2 := if die then 1 else 0
  { freq := p.freq[i], ceil := p.ceil[i], lim := p.lim[i], fstep := p.fstep[i], emergency := p.emergency[i] }

/-- Put a die's clock back. -/
def Power.setClock (p : Power) (die : Bool) (k : DieClock) : Power :=
  let i : Fin 2 := if die then 1 else 0
  { p with freq := p.freq.set i k.freq, ceil := p.ceil.set i k.ceil, lim := p.lim.set i k.lim, fstep := p.fstep.set i k.fstep,
           emergency := p.emergency.set i k.emergency }

/-- How many harts resident on a die hold a hint. -/
def hintCount (s : State) (die : Bool) (hint : BitVec 2) : Nat :=
  (s.harts.filter (fun h => decide (dieOf (benchOf h.id) = (if die then 1 else 0)) && h.pwrhint == hint)).length

/-- The majority hint of a die: the hint more of its harts hold than any other; a tie counts as none (R406; log entry 62). -/
def majorityHint (s : State) (die : Bool) : BitVec 2 :=
  let n := hintCount s die
  match ([0, 1, 2, 3] : List (BitVec 2)).find? (fun k => ([0, 1, 2, 3] : List (BitVec 2)).all (fun j => j == k || n j < n k)) with
  | some k => k
  | none => 0

/-- The ceiling in MHz for a majority hint and a count of engine-cycles out of 24 × 4,096 (R406). -/
def ceilingFor (hint : BitVec 2) (cycles : Nat) : BitVec 12 :=
  match hint.toNat with
  | 0 => if cycles > 49152 then 1900 else 2100
  | 1 => if cycles ≥ 24576 then 1900 else 2100
  | 2 => if cycles > 73728 then 1900 else 2100
  | _ => 1750

/-- A die's clock under a new ceiling: it is never above it, and rises to it only by the governor's steps (R406, R407; log entry 62). -/
def DieClock.setCeiling (k : DieClock) (c : BitVec 12) : DieClock :=
  if k.freq > c then { k with ceil := c, freq := c, lim := 0 } else { k with ceil := c }

/-- A step of the table: a window of 4,096 die cycles ends (R406). -/
def execCeilingWindow (die : Bool) (matrixCycles : Nat) (s : State) : Host.Outcome State Fault Refusal :=
  .next { s with power := s.power.setClock die ((s.power.clock die).setCeiling (ceilingFor (majorityHint s die) matrixCycles)) }

/-- One step of 25 MHz down, to 0.80 GHz at the lowest (R405). -/
def DieClock.down (k : DieClock) (lim : BitVec 2) : DieClock :=
  { k with freq := if k.freq ≥ 825 then k.freq - 25 else 800, lim := lim }

/-- Whether a clock can step down. -/
def DieClock.canFall (k : DieClock) : Bool := k.freq > 800

/-- The governor on one reading of a die: the emergency, its end, then the step down or up; `power` says that the power limit forbids a step up (R407). -/
def DieClock.govern (k : DieClock) (flux junction : List Nat) (power : Bool) : DieClock :=
  if junction.any (· > 105) then { k with freq := 800, lim := 3, emergency := true }
  else if k.emergency && !junction.all (· < 95) then k
  else
    let k := { k with emergency := false }
    if flux.any (· > 250) then
      (if k.canFall then { k.down 2 with fstep := k.fstep + 1 } else { k with lim := 2 })
    else if flux.all (· < 235) && k.freq < k.ceil then
      (if power then { k with lim := 1 }
       else if k.freq.toNat + 25 ≥ k.ceil.toNat then { k with freq := k.ceil, lim := 0 }
       else { k with freq := k.freq + 25 })
    else k

/-- A step of the table: the governor reads a die's flux sensors (W/cm²) and junction sensors (°C); an emergency is recorded when it begins (R407, R421). -/
def execFluxReading (die : Bool) (flux junction : List Nat) (s : State) : Host.Outcome State Fault Refusal :=
  .next (
    let k := s.power.clock die
    let k' := k.govern flux junction (s.power.mpwr.toNat ≥ s.power.budget.toNat)
    let s := { s with power := s.power.setClock die k' }
    if k'.emergency && !k.emergency then s.report { typ := 10, unit := 10, index := if die then 1 else 0, part := none, addr := 0 } else s)

/-- A clock under a measurement above the budget: one step down, but for a clock an emergency holds (R408; log entry 63). -/
def DieClock.throttle (k : DieClock) : DieClock := if k.emergency then k else k.down 1

/-- A step of the table: module power is measured, and above the budget both clocks step down (R408). -/
def execPowerMeasure (watts : Nat) (s : State) : Host.Outcome State Fault Refusal :=
  .next (
    let p := { s.power with mpwr := BitVec.ofNat 16 (min watts 65535) }
    let p := if watts > p.budget.toNat then
      (p.setClock false (p.clock false).throttle).setClock true (p.clock true).throttle else p
    { s with power := p })

/-! ## Leases (R409) -/

/-- Set FLOOR; a change is signalled to the PF (R428). -/
def setFloor (b : Bool) (s : State) : State :=
  let t := { s with power := { s.power with floor := b } }
  if s.power.floor == b then t else t.sendMsix 0 1

/-- A lease as the table of R409 deals with it. -/
def takeLease (budget : BitVec 16) (expiry : BitVec 32) (seq : Word) (s : State) : State :=
  let p := s.power
  if seq ≤ p.hseq || budget.toNat < 1400 || budget.toNat > 2600 || expiry == 0 then { s with power := { p with lrej := p.lrej + 1 } }
  else setFloor false { s with power := { p with
    hseq := seq, budget := budget.extractLsb' 0 12, lexp := s.time + BitVec.ofNat 64 (expiry.toNat * 1000000) } }

/-- A step of the table: a lease arrives (R409). -/
def execLease (budget : BitVec 16) (expiry : BitVec 32) (seq : Word) (s : State) : Host.Outcome State Fault Refusal :=
  .next (takeLease budget expiry seq s)

/-- The tick at which the lease in force expires has passed: a lease accepted in that tick replaces it in time (R409; log entry 97). -/
def leaseOver (s : State) : Bool := !s.power.floor && s.power.lexp < s.time

/-- The lease in force expires if its time has come, and the floor budget applies (R409, R410). -/
def expireLease (s : State) : State :=
  if leaseOver s then setFloor true { s with power := { s.power with budget := 1400, lexp := 0 } } else s

/-- A step of the table: the lease in force expires and the floor budget applies (R409, R410). -/
def execLeaseExpiry (s : State) : Host.Outcome State Fault Refusal :=
  .next (expireLease s)

/-! ## Lifetime records (R425, R426) -/

/-- The bin of a core-rail voltage in millivolts (R425). -/
def railBin (mv : Nat) : Nat := if mv < 550 then 0 else min ((mv - 550) / 10) 31

/-- The counts that a sample of the histograms raises (R425). -/
def sampleOffsets (junction0 junction1 rail0 rail1 watts : Nat) : List Nat :=
  [0x0008, 0x2000 + 8 * min (junction0 / 5) 31, 0x2100 + 8 * min (junction1 / 5) 31, 0x2200 + 8 * railBin rail0, 0x2300 + 8 * railBin rail1,
    0x2400 + 8 * min (watts / 100) 31]

/-- A step of the table: the histograms are sampled once a second of TIME: hottest junctions in °C, core rails in mV, and module power (R425). -/
def execHistogramSample (junction0 junction1 rail0 rail1 : Nat) (s : State) : Host.Outcome State Fault Refusal :=
  .next (if s.time < s.life.sampleAt then s
    else
      let u := (sampleOffsets junction0 junction1 rail0 rail1 s.power.mpwr.toNat).foldl (fun u o => u.count o 1) s
      { u with life := { u.life with sampleAt := u.life.sampleAt + 1_000_000_000 } })

/-- The number of the newer copy. -/
def Lifetime.newest (l : Lifetime) : Nat := max l.flash0.1 l.flash1.1

/-- Write the older copy, its header last with a number one above the newer's and a check that holds (R426). -/
def Lifetime.commit (l : Lifetime) : Lifetime :=
  let c := (l.newest + 1, true, l.live)
  if l.flash0.1 < l.flash1.1 then { l with flash0 := c } else { l with flash1 := c }

/-- A flush cut short: the older copy's check no longer holds (R426). -/
def Lifetime.cut (l : Lifetime) : Lifetime :=
  if l.flash0.1 < l.flash1.1 then { l with flash0 := (l.flash0.1, false, []) } else { l with flash1 := (l.flash1.1, false, []) }

/-- The live counts a power-up begins with: the copy with the higher number whose check holds (R426). -/
def Lifetime.recovered (l : Lifetime) : Table Nat :=
  if l.flash0.2.1 && (l.flash0.1 > l.flash1.1 || !l.flash1.2.1) then l.flash0.2.2 else if l.flash1.2.1 then l.flash1.2.2 else []

/-- Commit the live counts, which count the flush itself (R425, R426; log entry 61). -/
def flushLifetime (s : State) : State :=
  let s := s.count 0 1
  { s with life := s.life.commit }

/-- A step of the table: the counts are committed to flash every 60 s of TIME (R426). -/
def execLifetimeFlush (s : State) : Host.Outcome State Fault Refusal :=
  .next (if s.time < s.life.flushAt then s
    else
      let u := flushLifetime s
      { u with life := { u.life with flushAt := u.life.flushAt + 60_000_000_000 } })

/-- Answer a request of the management link or the host with a doubleword. -/
def answerWord (w : Word) (s : State) : State :=
  { s with links := { s.links with answer := bytesOf 8 w.toNat, unsupported := false, answerBad := false } }

/-- A step of the table: a lifetime read over the management link (R425, R444). -/
def execLifetimeRead (offset : Nat) (s : State) : Host.Outcome State Fault Refusal :=
  .next (answerWord (BitVec.ofNat 64 (readLifetime s offset)) s)

/-- A step of the table: orderly power-down commits the counts, then power is off (R426). -/
def execOrderlyPowerDown (s : State) : Host.Outcome State Fault Refusal :=
  .next (let s := flushLifetime s; { s with boot := { s.boot with powered := false } })

/-- A step of the table: power is lost, possibly within a flush (R426; log entry 61). -/
def execPowerFailure (s : State) : Host.Outcome State Fault Refusal :=
  .next { s with life := if Config.flushCut s.tick then s.life.cut else s.life, boot := { s.boot with powered := false } }

end Sys2Proof.Machine
end

