-- ==== Sys2Proof/Machine/ScalarFp.lean ====
section
/-! DEFINITION. Scalar floating point (R110 to R115). -/

namespace Sys2Proof.Machine

/-- The format code of an FP instruction's fmt field (R81, R110). -/
def fpFormat (fmt : BitVec 2) : Nat := match fmt.toNat with | 0 => 0x05 | 1 => 0x04 | _ => 0x06

/-- The value an FP operand holds: the low bits of its register (R110). -/
def fpVal (f : Nat) (w : Word) : Val := decodeVal f (w.toNat % 2 ^ elemWidth f)

/-- An instruction that has passed the check of its bits and resolves a rounding code: 0x00 where it resolves to 5, 6 or 7 (R30, R110). -/
def fpRounded (i : Instr) (rm : BitVec 3) (s : State) (k : Nat → State → State) : State :=
  checked i s (fun s => match scalarRound s.hart rm with
    | some c => k c s
    | none => illegal i s)

/-- An FP result: the code in x[d] with all higher bits zero, and its flags (R10, R110). -/
def writeFp (d : Reg) (r : Nat × BitVec 7) (s : State) : State := finishFlags 4 r.2 (s.setX d (BitVec.ofNat 64 r.1))

/-- Two operands, computed exactly and rounded once (R111). -/
def fpArith (i : Instr) (d a b : Reg) (rm : BitVec 3) (fmt : BitVec 2) (op : Nat → Val → Val → Val × BitVec 7) (s : State) :
    Host.Outcome State Fault Refusal :=
  .next (fpRounded i rm s (fun c s =>
    let f := fpFormat fmt
    writeFp d (roundOp f c false 0 (op c (fpVal f (s.getX a)) (fpVal f (s.getX b)))) s))

/-- Three operands, x[d] the addend, rounded once (R111). -/
def fpFused (i : Instr) (d a b : Reg) (rm : BitVec 3) (fmt : BitVec 2) (negProduct negAddend : Bool) (s : State) :
    Host.Outcome State Fault Refusal :=
  .next (fpRounded i rm s (fun c s =>
    let f := fpFormat fmt
    let x := fpVal f (s.getX a)
    let z := fpVal f (s.getX d)
    writeFp d (roundOp f c false 0 (fusedVal c (if negProduct then x.flip else x) (fpVal f (s.getX b)) (if negAddend then z.flip else z))) s))

/-- FADD (R111). -/
def execFadd (d a b : Reg) (rm : BitVec 3) (fmt : BitVec 2) (s : State) : Host.Outcome State Fault Refusal :=
  fpArith (.fadd d a b rm fmt) d a b rm fmt addVal s
/-- FSUB (R111). -/
def execFsub (d a b : Reg) (rm : BitVec 3) (fmt : BitVec 2) (s : State) : Host.Outcome State Fault Refusal :=
  fpArith (.fsub d a b rm fmt) d a b rm fmt (fun c x y => addVal c x y.flip) s
/-- FMUL (R111). -/
def execFmul (d a b : Reg) (rm : BitVec 3) (fmt : BitVec 2) (s : State) : Host.Outcome State Fault Refusal :=
  fpArith (.fmul d a b rm fmt) d a b rm fmt (fun _ x y => mulVal x y) s
/-- FDIV (R111). -/
def execFdiv (d a b : Reg) (rm : BitVec 3) (fmt : BitVec 2) (s : State) : Host.Outcome State Fault Refusal :=
  fpArith (.fdiv d a b rm fmt) d a b rm fmt (fun _ x y => divVal x y) s
/-- FSQRT (R111). -/
def execFsqrt (d a : Reg) (rm : BitVec 3) (fmt : BitVec 2) (s : State) : Host.Outcome State Fault Refusal :=
  fpArith (.fsqrt d a rm fmt) d a a rm fmt (fun _ x _ => sqrtVal x) s
/-- FMA (R111). -/
def execFma (d a b : Reg) (rm : BitVec 3) (fmt : BitVec 2) (s : State) : Host.Outcome State Fault Refusal :=
  fpFused (.fma d a b rm fmt) d a b rm fmt false false s
/-- FMS (R111). -/
def execFms (d a b : Reg) (rm : BitVec 3) (fmt : BitVec 2) (s : State) : Host.Outcome State Fault Refusal :=
  fpFused (.fms d a b rm fmt) d a b rm fmt false true s
/-- FNMA (R111). -/
def execFnma (d a b : Reg) (rm : BitVec 3) (fmt : BitVec 2) (s : State) : Host.Outcome State Fault Refusal :=
  fpFused (.fnma d a b rm fmt) d a b rm fmt true false s

/-- Minimum or maximum; the rounding code is checked and has no effect (R63, R110). -/
def fpPick (i : Instr) (d a b : Reg) (rm : BitVec 3) (fmt : BitVec 2) (wantMax : Bool) (s : State) : Host.Outcome State Fault Refusal :=
  .next (fpRounded i rm s (fun _ s =>
    let f := fpFormat fmt
    let w := elemWidth f
    writeFp d (fpMinMax f wantMax ((s.getX a).toNat % 2 ^ w) ((s.getX b).toNat % 2 ^ w)) s))

/-- FMIN (R63, R111). -/
def execFmin (d a b : Reg) (rm : BitVec 3) (fmt : BitVec 2) (s : State) : Host.Outcome State Fault Refusal :=
  fpPick (.fmin d a b rm fmt) d a b rm fmt false s
/-- FMAX (R63, R111). -/
def execFmax (d a b : Reg) (rm : BitVec 3) (fmt : BitVec 2) (s : State) : Host.Outcome State Fault Refusal :=
  fpPick (.fmax d a b rm fmt) d a b rm fmt true s

/-- FCMP (R112). -/
def execFcmp (d a b : Reg) (c : BitVec 3) (fmt : BitVec 2) (s : State) : Host.Outcome State Fault Refusal :=
  .next (checked (.fcmp d a b c fmt) s (fun s =>
    let f := fpFormat fmt
    let r := fpCompare c.toNat (fpVal f (s.getX a)) (fpVal f (s.getX b))
    writeFp d (if r.1 then 1 else 0, r.2) s))

/-- FCLASS (R113). -/
def execFclass (d a : Reg) (fmt : BitVec 2) (s : State) : Host.Outcome State Fault Refusal :=
  .next (checked (.fclass d a fmt) s (fun s =>
    let f := fpFormat fmt
    writeFp d (2 ^ fpClass f ((s.getX a).toNat % 2 ^ elemWidth f), 0) s))

/-- The code with its sign replaced, or the canonical NaN (R114). -/
def signInject (f c x y : Nat) : Nat × BitVec 7 :=
  let w := elemWidth f
  let sx := x.testBit (w - 1)
  let sy := y.testBit (w - 1)
  match decodeVal f (x % 2 ^ w) with
  | .nan sig => (canonicalNan f, flagIf sig NV)
  | _ =>
    let sign := match c with | 0 => sy | 1 => !sy | _ => sx != sy
    (x % 2 ^ (w - 1) + (if sign then 2 ^ (w - 1) else 0), 0)

/-- FSGNJ (R114). -/
def execFsgnj (d a b : Reg) (c : BitVec 3) (fmt : BitVec 2) (s : State) : Host.Outcome State Fault Refusal :=
  .next (checked (.fsgnj d a b c fmt) s (fun s =>
    writeFp d (signInject (fpFormat fmt) c.toNat (s.getX a).toNat (s.getX b).toNat) s))

/-- A float converted to another format; a signalling NaN sets NV (R44, R115). -/
def fpConvert (f rm : Nat) (v : Val) : Nat × BitVec 7 := roundOp f rm false 0 (v, flagIf v.isSig NV)

/-- A float converted to an integer of `w` bits, as a 64-bit pattern (R56, R115). -/
def fpToInt (rm w : Nat) (signed : Bool) (v : Val) : Nat × BitVec 7 :=
  let r := if signed then toIntRange rm 0 (-(2 ^ (w - 1) : Int)) (2 ^ (w - 1) - 1) v else toIntRange rm 0 0 (2 ^ w - 1) v
  (wrapInt 64 r.1, r.2)

/-- What FCVT's selector gives (R115). -/
def fcvtResult (c f rm : Nat) (x : Word) : Nat × BitVec 7 :=
  match c with
  | 0 => fpConvert f rm (fpVal 0x04 x)
  | 1 => fpConvert f rm (fpVal 0x05 x)
  | 2 => fpConvert f rm (fpVal 0x06 x)
  | 3 => fpToInt rm 64 true (fpVal f x)
  | 4 => fpToInt rm 64 false (fpVal f x)
  | 5 => roundVal f rm false 0 (valInt x.toInt)
  | 6 => roundVal f rm false 0 (valInt x.toNat)
  | _ => fpToInt rm 32 true (fpVal f x)

/-- FCVT always rounds by FRM.RM (R110, R115). -/
def execFcvt (d a : Reg) (c : BitVec 3) (fmt : BitVec 2) (s : State) : Host.Outcome State Fault Refusal :=
  .next (fpRounded (.fcvt d a c fmt) 7 s (fun rm s => writeFp d (fcvtResult c.toNat (fpFormat fmt) rm (s.getX a)) s))

end Sys2Proof.Machine
end

