-- ==== Sys2Proof/Machine/ScalarMem.lean ====
section
/-! DEFINITION. Scalar loads and stores (R101 to R105), scalar atomics (R205 to R207) and VAMO (R208, R209). -/

namespace Sys2Proof.Machine

/-! ## Scalar loads and stores -/

/-- The trap of a load that consumes poison: TRAPVAL is the sector's address (R38, R105). -/
def loadPoison (a : Word) : TrapReq := trapOf 0x07 (BitVec.ofNat 64 (sectorOf a.toNat))

/-- A load's data or poison reaches x[d]: extended by `ext`, or 0 with PSN, or trap 0x07 (R105). -/
def loadResult (len : Nat) (d : Reg) (a : Word) (bad : Bool) (v : Word) (s : State) : State :=
  if bad then (if s.hart.ptrap then trapHere (loadPoison a) s else finishFlags len PSN (s.setX d 0))
  else writeInt len d v s

/-- One unit of a scalar remote access. -/
def oneUnit (a : Word) (v : Nat) : List RemoteUnit := [{ key := 0, addr := a, val := v, mask := 255 }]

/-- A scalar load from a domain address, as a single unordered element over path F (R102). -/
def remoteLoad (len : Nat) (d : Reg) (a : Word) (n : Nat) (ext : Nat → Word) (s : State) : State :=
  if remoteRefused s s.hart.partid a then trapHere (remoteTrap a) s
  else match remoteAccess s (requestsOf s s.hart.partid true .run n (oneUnit a 0)) with
    | .waiting s => s
    | .answered s ans =>
      let r := answerTo ans 0
      if unsettled s && (r.bad || r.marked) then stall s
      else if r.bad then trapHere (remoteTrap a) s else loadResult len d a r.marked (ext r.value) s

/-- A scalar load of `n` bytes (R101, R102, R105); only an aligned access of 8 bytes reaches device space (R296). -/
def loadScalar (len : Nat) (d : Reg) (a : Word) (n : Nat) (ext : Nat → Word) (s : State) : State :=
  if a.toNat % n ≠ 0 then trapHere (trapOf 0x02 a) s
  else if isRemote a then remoteLoad len d a n ext s
  else match checkAccess s .load (n == 8) n a with
    | .error t => trapHere t s
    | .ok m =>
      if isDevice m.pa then writeInt len d (devRead s m.pa) (noteWalk s (some s.hart.id) m)
      else
        let s := afterVectors s m.pa n
        loadResult len d a (viewPoisoned s m n) (ext (viewRead s m n)) (afterLoad s m n)

/-- A scalar store to a domain address (R102). The hart may go past it before it is acknowledged, one at a time while it could still fail (R256, R283). -/
def remoteStore (len : Nat) (a : Word) (n v : Nat) (s : State) : State :=
  if remoteRefused s s.hart.partid a then trapHere (remoteTrap a) s
  else if s.policy.postRemote && s.hart.remote.isNone then
    (if unsettled s then stall s else postStore a (requestsOf s s.hart.partid false .run n (oneUnit a v)) (finish len) s)
  else match remoteAccess s (requestsOf s s.hart.partid false .run n (oneUnit a v)) with
    | .waiting s => s
    | .answered s ans => if (answerTo ans 0).bad then trapHere (remoteTrap a) s else finish len s

/-- A scalar store of the low `n` bytes of a word (R101, R102); it leaves poison as it is (R105). -/
def storeScalar (len : Nat) (a v : Word) (n : Nat) (s : State) : State :=
  if a.toNat % n ≠ 0 then trapHere (trapOf 0x02 a) s
  else if isRemote a then remoteStore len a n (v.toNat % 2 ^ (8 * n)) s
  else match checkAccess s .store (n == 8) n a with
    | .error t => trapHere t s
    | .ok m =>
      if isDevice m.pa then
        let s := devWrite (drainStores (noteWalk s (some s.hart.id) m)) m.pa v
        if s.hart.present then finish len s else s
      else
        let s := commitStore s m n v.toNat
        finish len (s.withHart s.hart.dropAhead)

/-- Sign-extend the low `w` bits. -/
def signTo (w v : Nat) : Word := BitVec.ofInt 64 (toSigned w v)

/-- LB. -/
def execLb (d a : Reg) (i : BitVec 13) (s : State) : Host.Outcome State Fault Refusal := .next (loadScalar 4 d (s.getX a + i.signExtend 64) 1 (signTo 8) s)
/-- LBU. -/
def execLbu (d a : Reg) (i : BitVec 13) (s : State) : Host.Outcome State Fault Refusal := .next (loadScalar 4 d (s.getX a + i.signExtend 64) 1 (BitVec.ofNat 64) s)
/-- LH. -/
def execLh (d a : Reg) (i : BitVec 13) (s : State) : Host.Outcome State Fault Refusal := .next (loadScalar 4 d (s.getX a + i.signExtend 64) 2 (signTo 16) s)
/-- LHU. -/
def execLhu (d a : Reg) (i : BitVec 13) (s : State) : Host.Outcome State Fault Refusal := .next (loadScalar 4 d (s.getX a + i.signExtend 64) 2 (BitVec.ofNat 64) s)
/-- LW. -/
def execLw (d a : Reg) (i : BitVec 13) (s : State) : Host.Outcome State Fault Refusal := .next (loadScalar 4 d (s.getX a + i.signExtend 64) 4 (signTo 32) s)
/-- LWU. -/
def execLwu (d a : Reg) (i : BitVec 13) (s : State) : Host.Outcome State Fault Refusal := .next (loadScalar 4 d (s.getX a + i.signExtend 64) 4 (BitVec.ofNat 64) s)
/-- LD. -/
def execLd (d a : Reg) (i : BitVec 13) (s : State) : Host.Outcome State Fault Refusal := .next (loadScalar 4 d (s.getX a + i.signExtend 64) 8 (BitVec.ofNat 64) s)
/-- SB. -/
def execSb (a b : Reg) (i : BitVec 13) (s : State) : Host.Outcome State Fault Refusal := .next (storeScalar 4 (s.getX a + i.signExtend 64) (s.getX b) 1 s)
/-- SH. -/
def execSh (a b : Reg) (i : BitVec 13) (s : State) : Host.Outcome State Fault Refusal := .next (storeScalar 4 (s.getX a + i.signExtend 64) (s.getX b) 2 s)
/-- SW. -/
def execSw (a b : Reg) (i : BitVec 13) (s : State) : Host.Outcome State Fault Refusal := .next (storeScalar 4 (s.getX a + i.signExtend 64) (s.getX b) 4 s)
/-- SD. -/
def execSd (a b : Reg) (i : BitVec 13) (s : State) : Host.Outcome State Fault Refusal := .next (storeScalar 4 (s.getX a + i.signExtend 64) (s.getX b) 8 s)
/-- C.LD: LD d3, imm5 × 8(a3) (R84). -/
def execCLd (d a : BitVec 3) (i : BitVec 5) (s : State) : Host.Outcome State Fault Refusal :=
  .next (checked (.cLd d a i) s (fun s => loadScalar 2 (creg d) (s.getX (creg a) + i.zeroExtend 64 * 8) 8 (BitVec.ofNat 64) s))
/-- C.SD: SD b3, imm5 × 8(a3). -/
def execCSd (b a : BitVec 3) (i : BitVec 5) (s : State) : Host.Outcome State Fault Refusal :=
  .next (storeScalar 2 (s.getX (creg a) + i.zeroExtend 64 * 8) (s.getX (creg b)) 8 s)
/-- C.LW: LW d3, imm5 × 4(a3). -/
def execCLw (d a : BitVec 3) (i : BitVec 5) (s : State) : Host.Outcome State Fault Refusal :=
  .next (loadScalar 2 (creg d) (s.getX (creg a) + i.zeroExtend 64 * 4) 4 (signTo 32) s)
/-- C.SW: SW b3, imm5 × 4(a3). -/
def execCSw (b a : BitVec 3) (i : BitVec 5) (s : State) : Host.Outcome State Fault Refusal :=
  .next (storeScalar 2 (s.getX (creg a) + i.zeroExtend 64 * 4) (s.getX (creg b)) 4 s)

/-- The address of LDA and SDREL: a signed count of doublewords (R77, R101). -/
def scopedAddr (base : Word) (i : BitVec 10) : Word := base + i.signExtend 64 * 8

/-- LDA: a load that at core scope or wider first empties the hart's L1 view, and names the sector WFE watches (R104, R216). Elements that a stream has read ahead
stay usable: R139 opens its window at VBIND, and R104 does not say whether LDA closes it (DESIGN CHOICE, log entry 89). -/
def execLda (d a : Reg) (scope : BitVec 3) (i : BitVec 10) (s : State) : Host.Outcome State Fault Refusal :=
  .next (checked (.lda d a scope i) s (fun s =>
    let addr := scopedAddr (s.getX a) i
    if addr.toNat % 8 ≠ 0 then trapHere (trapOf 0x02 addr) s
    else if isRemote addr then trapHere (remoteTrap addr) s
    else match checkAccess s .load true 8 addr with
      | .error t => trapHere t s
      | .ok m =>
        let s := s.withHart { s.hart with lastLda := some (sectorOf m.pa) }
        let s := if scope = 0 then s else dropL1 s
        if isDevice m.pa then writeInt 4 d (devRead s m.pa) (noteWalk s (some s.hart.id) m)
        else
          let s := afterVectors s m.pa 8
          loadResult 4 d addr (viewPoisoned s m 8) (BitVec.ofNat 64 (viewRead s m 8)) (afterLoad s m 8)))

/-- The store of SDREL. Where stores wait in the buffer, one at device scope or wider performs after every older one; at a narrower scope the older ones must
be visible in the hart's instance before it is (R104, R251). -/
def releaseStore (scope : Nat) (m : Mapped) (v : Word) (s : State) : State :=
  commitEntry (settleOwed (if scope ≥ 4 then s else releaseAt scope s))
    { parts := [[m.write 8 v.toNat]], anyOrder := false, clears := [], vector := false, rel := scope ≥ 4, left := 0 }

/-- SDREL: a store that becomes visible at its scope only after every older access of the hart on path H (R104). -/
def execSdrel (a b : Reg) (scope : BitVec 3) (i : BitVec 10) (s : State) : Host.Outcome State Fault Refusal :=
  .next (checked (.sdrel a b scope i) s (fun s =>
    let addr := scopedAddr (s.getX a) i
    if addr.toNat % 8 ≠ 0 then trapHere (trapOf 0x02 addr) s
    else if isRemote addr then trapHere (remoteTrap addr) s
    else match checkAccess s .store true 8 addr with
      | .error t => trapHere t s
      | .ok m =>
        let v := s.getX b
        let s := noteWalk s (some s.hart.id) m
        if isDevice m.pa then (let s := devWrite (drainStores s) m.pa v; if s.hart.present then finish 4 s else s)
        else
          let s := releaseStore scope.toNat m v (afterVectors s m.pa 8)
          finish 4 (s.withHart s.hart.dropAhead)))

/-! ## Scalar atomics -/

/-- What an atomic writes to x[d]: the old value, zero-extended for FADD and sign-extended otherwise (R206). -/
def amoOld (op w old : Nat) : Word := if op = 10 then BitVec.ofNat 64 old else signTo w old

/-- One indivisible read-modify-write at the home, for the current hart's core: the old value, and the state after it. The hart's older stores to the same bytes
have performed (R244). A CAS that fails writes nothing; the core then keeps no L1 copy older than what it read (R244). -/
def amoAt (s : State) (m : Mapped) (op w b expect : Nat) : Nat × State :=
  let n := w / 8
  let s := noteWalk (drainThrough (fun e => e.meets m.pa n) s) (some s.hart.id) m
  let s := (sectorsOf m.pa n).foldl (fun s k => touch s s.hart.partid k m.abench m.uc false true) s
  let old := homeRead s m.pa n
  (old, if op = 9 && old != expect then dropSectors s (coreOf s.hart.id) (sectorsOf m.pa n)
        else performWrite (coreOf s.hart.id) s.hart.partid s (m.write n (amoValue op w old b expect)))

/-- The order bits of an atomic: a release waits for the hart's older stores, and an acquire empties its L1 view (R207). -/
def releaseIf (o : BitVec 2) (s : State) : State := if o.getLsbD 1 then settleOwed (drainStores s) else s
def acquireIf (o : BitVec 2) (s : State) : State := if o.getLsbD 0 then dropL1 s else s

/-- A scalar atomic of `w` bits (R206, R207). -/
def amoStep (i : Instr) (op w : Nat) (d a b : Reg) (o : BitVec 2) (s : State) : Host.Outcome State Fault Refusal :=
  .next (checked i s (fun s =>
    let n := w / 8
    let addr := s.getX a
    let bv := (s.getX b).toNat % 2 ^ w
    let ex := (s.getX d).toNat % 2 ^ w
    if addr.toNat % n ≠ 0 then trapHere (trapOf 0x02 addr) s
    else if isRemote addr then
      if remoteRefused s s.hart.partid addr then trapHere (remoteTrap addr) s
      else if o.getLsbD 1 && !(postedHere s).isEmpty then stall s
      else
        let s := releaseIf o s
        let code := if w = 32 then 0 else if w = 64 then 1 else 2
        match remoteAccess s (requestsOf s s.hart.partid true (.amo op code) n [{ key := 0, addr := addr, val := bv, mask := ex }]) with
        | .waiting s => s
        | .answered s ans =>
          let r := answerTo ans 0
          if r == .failed 9 then loadResult 4 d addr true 0 (acquireIf o s)
          else if r.bad then trapHere (remoteTrap addr) s
          else writeInt 4 d (amoOld op w r.value) (acquireIf o s)
    else match checkAccess s .store false n addr with
      | .error t => trapHere t s
      | .ok m =>
        let s := releaseIf o (afterVectors s m.pa n)
        if poisonedAt s m.pa n then loadResult 4 d addr true 0 (acquireIf o s)
        else
          let (old, s) := amoAt s m op w bv ex
          let s := acquireIf o (s.withHart s.hart.dropAhead)
          writeInt 4 d (amoOld op w old) s))

/-- Bits of an AMO's width code (R79). -/
def amoBits (w : BitVec 2) : Nat := if w = 0 then 32 else 64

/-- AMOADD. -/
def execAmoadd (d a b : Reg) (w o : BitVec 2) (s : State) : Host.Outcome State Fault Refusal := amoStep (.amoadd d a b w o) 0 (amoBits w) d a b o s
/-- AMOAND. -/
def execAmoand (d a b : Reg) (w o : BitVec 2) (s : State) : Host.Outcome State Fault Refusal := amoStep (.amoand d a b w o) 1 (amoBits w) d a b o s
/-- AMOOR. -/
def execAmoor (d a b : Reg) (w o : BitVec 2) (s : State) : Host.Outcome State Fault Refusal := amoStep (.amoor d a b w o) 2 (amoBits w) d a b o s
/-- AMOXOR. -/
def execAmoxor (d a b : Reg) (w o : BitVec 2) (s : State) : Host.Outcome State Fault Refusal := amoStep (.amoxor d a b w o) 3 (amoBits w) d a b o s
/-- AMOMIN. -/
def execAmomin (d a b : Reg) (w o : BitVec 2) (s : State) : Host.Outcome State Fault Refusal := amoStep (.amomin d a b w o) 4 (amoBits w) d a b o s
/-- AMOMAX. -/
def execAmomax (d a b : Reg) (w o : BitVec 2) (s : State) : Host.Outcome State Fault Refusal := amoStep (.amomax d a b w o) 5 (amoBits w) d a b o s
/-- AMOMINU. -/
def execAmominu (d a b : Reg) (w o : BitVec 2) (s : State) : Host.Outcome State Fault Refusal := amoStep (.amominu d a b w o) 6 (amoBits w) d a b o s
/-- AMOMAXU. -/
def execAmomaxu (d a b : Reg) (w o : BitVec 2) (s : State) : Host.Outcome State Fault Refusal := amoStep (.amomaxu d a b w o) 7 (amoBits w) d a b o s
/-- AMOSWAP. -/
def execAmoswap (d a b : Reg) (w o : BitVec 2) (s : State) : Host.Outcome State Fault Refusal := amoStep (.amoswap d a b w o) 8 (amoBits w) d a b o s
/-- AMOCAS: x[d] holds the expected value in and receives the old one (R206). -/
def execAmocas (d a b : Reg) (w o : BitVec 2) (s : State) : Host.Outcome State Fault Refusal := amoStep (.amocas d a b w o) 9 (amoBits w) d a b o s
/-- AMOFADD: FP32, or BF16 in the halfword form; it raises no flag (R206). -/
def execAmofadd (d a b : Reg) (half : Bool) (o : BitVec 2) (s : State) : Host.Outcome State Fault Refusal :=
  amoStep (.amofadd d a b half o) 10 (if half then 16 else 32) d a b o s

/-! ## VAMO -/

/-- The atomic a VAMO's op names (R208). -/
def vamoOp (p : BitVec 3) : Nat := match p.toNat with | 6 => 8 | 7 => 10 | n => n

/-- What has become of one element of a VAMO: the old value; a poisoned element counted as performed; or a failure, by poison or not (R209). -/
inductive VamoElem where
  | done (old : Nat) | poisoned | failed (byPoison : Bool)
  deriving DecidableEq, Repr

/-- Perform one device-local element, translated as the instruction found it (R209). -/
def vamoLocal (before : State) (op w : Nat) (val : Nat → Nat) (addr : Nat → Word) (acc : State × List (Nat × VamoElem)) (e : Nat) : State × List (Nat × VamoElem) :=
  let s := acc.1
  match checkAccess before .store false (w / 8) (addr e) with
  | .error _ => acc
  | .ok m =>
    if poisonedAt s m.pa (w / 8) then
      ((sectorsOf m.pa (w / 8)).foldl (fun s k => touch s s.hart.partid k m.abench m.uc false true) s,
        acc.2 ++ [(e, if s.hart.ptrap then .failed true else .poisoned)])
    else let (old, s) := amoAt s m op w (val e) 0; (s, acc.2 ++ [(e, .done old)])

/-- What a fabric answer makes of an element (R207, R209, R364). -/
def vamoAnswer (ptrap : Bool) (a : Answer) : VamoElem :=
  match a with
  | .good v _ => .done v
  | .failed 9 => if ptrap then .failed true else .poisoned
  | _ => .failed false

/-- The failures of this VAMO's earlier leg, which ended at the fault that VRI names: R209 has them make the completion trap (DEDUCED, log entry 90). -/
def Hart.earlierFails (h : Hart) : List (Nat × Bool × Word) :=
  match h.vamoFails with | some (pc, l) => if pc = h.pc ∧ h.vri ≠ 0 then l else [] | none => []

/-- The lowest of some addresses. -/
def lowestOf (l : List Word) : Option Word := l.foldl (fun a x => match a with | some y => some (if x < y then x else y) | none => some x) none

/-- VAMO after its elements below the first fault have been performed: vd, the flags, the mask, and the trap it ends with. TRAPVAL of the completion trap
is the lowest failed element's address as R209 has it, for 0x07 too, where the table of R38 would give its sector's (DESIGN CHOICE, log entry 91). -/
def endVamo (vd : Reg) (m : MaskField) (addr : Nat → Word) (res : List (Nat × VamoElem)) (cs : List (Nat × Binding)) (stop : Option (Nat × TrapReq)) (s : State) :
    State :=
  let h := s.hart
  let w := elemWidth h.fmt
  let sb := h.storeBinding vd.toNat
  let val (e : Nat) : Option (Nat × Bool) := match res.find? (fun r => r.1 == e) with
    | some (_, .done old) => some (old, false)
    | some (_, .poisoned) => some (poisonedBits s e, true)
    | _ => none
  let wrote := (res.filter (fun r => match r.2 with | .failed _ => false | _ => true)).map Prod.fst
  let failed := h.earlierFails ++ res.filterMap (fun r => match r.2 with | .failed p => some (r.1, p, addr r.1) | _ => none)
  let flags := flagIf (res.any (fun r => r.2 == .poisoned)) PSN
  let s := emitElems { s with fresh := s.fresh + 65536 } sb wrote (fun e => (val e).getD (0, false))
  match stop with
  | some (f, t) =>
    let img := mergeImg h vd.toNat h.grp w (h.capBits * h.grp / w) val
    let h1 := writeStopped s.hart h.capBits vd.toNat h.fmt f img.1 img.2 h.grp
    trapHere t (afterStop sb.isSome (s.withHart { h1.raise flags with vamoFails := if failed.isEmpty then none else some (h.pc, failed) }))
  | none =>
    let img := mergeImg h vd.toNat h.grp w h.vlv val
    let h1 := advanceStore (writeGroup (advanceChunks s s.hart cs) h.capBits vd.toNat h.fmt h.vlv img.1 img.2 h.grp) vd.toNat h.vlv
    let performed := idxs h.vlv (fun e => h.selects m false e && !failed.any (fun r => r.1 == e))
    let h2 := if failed.isEmpty || m = 0 then h1 else h1.setMask m.toNat (performed.foldl (fun b e => b &&& (b ^^^ (1 <<< e))) (h1.mask m.toNat))
    let owed : List Owed := match lowestOf (failed.map (·.2.2)) with
      | some x => [{ cause := if failed.all (·.2.1) then 0x07 else 0x0D, val := x }]
      | none => []
    completeAt (s.hart.pcAfter 4) flags owed [] 0 (s.withHart { h2 with vri := 0, vamoFails := none })

/-- VAMO (R208, R209). An element the source refuses to send is a failed element (log entry 51). A poisoned operand is consumed at the source, as R418 has
it for one bound for a domain address: trap 0x07 there, or the element is not performed and counts as poisoned (for a device-local one DEDUCED, log entry 90). -/
def execVamo (vd a b : Reg) (m : MaskField) (p : BitVec 3) (s : State) : Host.Outcome State Fault Refusal :=
  .next (checked (.vamo vd a b m p) s (fun s => held s (fun s =>
    let h := s.hart
    let fm := h.fmt
    let r := b.toNat
    let ops := [typeOpnd h vd.toNat true true, indexOpnd h r]
    let format := (if p = 7 then fm == 5 || fm == 6 else fm == 2 || fm == 3) && isInt (h.srcTag r)
    let grant := groupFits vd.toNat h.grp 0 && indexFits h r && !overlaps vd.toNat h.grp r (indexRegs h r)
    match vecCheck (.vamo vd a b m p) h { grant := grant, format := format, rounds := false } (h.grp != 1) fm ops with
    | some t => trapHere t s
    | none => match readySources s [indexOpnd h r] with
      | none => stall s
      | some (s, g, cs) =>
        let w := elemWidth fm
        let n := w / 8
        let op := vamoOp p
        let base := s.getX a
        let addr (e : Nat) : Word := base + indexOffset g (h.srcTag r) (indexRegs h r) r e
        let val (e : Nat) : Nat := elemAt h h.capBits vd.toNat h.grp w e
        let todo := idxs h.vlv (fun e => h.vri.toNat ≤ e && h.selects m false e)
        let bad (e : Nat) : Bool := elemBad h h.capBits vd.toNat w e
        let sb := h.storeBinding vd.toNat
        let place (e : Nat) : Option TrapReq :=
            if (addr e).toNat % n ≠ 0 then some { trapOf 0x02 (addr e) with vri := some e }
            else if isRemote base then emitFault s sb e
            else match checkAccess s .store false n (addr e) with
              | .error t => some { t with vri := some e }
              | .ok _ => emitFault s sb e
        let stop := firstFault todo (fun e => match chunksFault s cs e with
          | some t => some { t with vri := some e }
          | none => earlier (place e) (if h.ptrap && bad e then some (poisonTrap e) else none))
        let f := match stop with | some (e, _) => e | none => h.vlv
        let act := todo.filter (· < f)
        if isRemote base then
          let sends (e : Nat) : Bool := isRemote (addr e) && (addr e ^^^ base).extractLsb' 42 22 == 0 && !remoteRefused s h.partid (addr e)
          match remoteAccess s (requestsOf s h.partid true (.amo op (if w = 32 then 0 else if w = 64 then 1 else 2)) n
              ((act.filter (fun e => sends e && !bad e)).map (fun e => { key := e, addr := addr e, val := val e, mask := 0 }))) with
          | .waiting s => s
          | .answered s ans =>
            endVamo vd m addr (act.map (fun e => (e, if bad e then .poisoned else if sends e then vamoAnswer h.ptrap (answerTo ans e) else .failed false))) cs stop s
        else
          let (s, res) := (freeOrder s.fresh (act.filter (fun e => !bad e))).foldl (vamoLocal s op w val addr)
            ({ s with fresh := s.fresh + 1 }, (act.filter bad).map (fun e => (e, .poisoned)))
          endVamo vd m addr res cs stop (s.withHart s.hart.dropAhead))))

end Sys2Proof.Machine
end

