-- ==== Sys2Proof/Machine/Torus.lean ====
section
/-! DEFINITION. The torus: request and response packets as they arrive (R358, R364, R365), and the link layer of a port: flits, replay, credits, routing
and multicast branches as they arrive (R356, R357, R361 to R363, R366, R367). -/

namespace Sys2Proof.Machine

/-! ## Packets (R358, R364, R365) -/

/-- Serve a request packet that has reached the target memory unit. -/
def serveRequest (op : Nat) (p : Packet) (s : State) : State := takeRequest op p (s.took (.request (BitVec.ofNat 4 op) p))

/-- Take a response that has arrived. -/
def serveResponse (op : BitVec 4) (r : Response) (s : State) : State := takeResponse r (s.took (.response s.fabric.rank op r))

/-- A step of the table: the target memory unit performs a READ (R358, R364). -/
def execRead (p : Packet) (s : State) : Host.Outcome State Fault Refusal := .next (serveRequest 0 p s)
/-- A step of the table: WRITE. -/
def execWrite (p : Packet) (s : State) : Host.Outcome State Fault Refusal := .next (serveRequest 1 p s)
/-- A step of the table: READS. -/
def execReads (p : Packet) (s : State) : Host.Outcome State Fault Refusal := .next (serveRequest 2 p s)
/-- A step of the table: READX. -/
def execReadx (p : Packet) (s : State) : Host.Outcome State Fault Refusal := .next (serveRequest 3 p s)
/-- A step of the table: WRITES. -/
def execWrites (p : Packet) (s : State) : Host.Outcome State Fault Refusal := .next (serveRequest 4 p s)
/-- A step of the table: WRITEX. -/
def execWritex (p : Packet) (s : State) : Host.Outcome State Fault Refusal := .next (serveRequest 5 p s)
/-- A step of the table: AMO. -/
def execAmo (p : Packet) (s : State) : Host.Outcome State Fault Refusal := .next (serveRequest 6 p s)
/-- A step of the table: SEND, into a receive window's delivered set (R369). -/
def execSendPacket (p : Packet) (s : State) : Host.Outcome State Fault Refusal := .next (serveRequest 7 p s)
/-- A step of the table: MWRITE merges masked bytes (R247, R358). -/
def execMwrite (p : Packet) (s : State) : Host.Outcome State Fault Refusal := .next (serveRequest 12 p s)
/-- A step of the table: read data or failures come back (R364). -/
def execResp (r : Response) (s : State) : Host.Outcome State Fault Refusal := .next (serveResponse 8 r s)

/-- The acknowledgement with a tag: the one that has arrived, if one has. -/
def ackOf (tag : BitVec 14) (s : State) : Response :=
  (s.fabric.arrived.findSome? (fun m => match m with | .response _ op r => if op == 9 && r.tag == tag then some r else none | _ => none)).getD
    { dtag := 0, tag := tag, esz := 0, cnt := 0, reason := 0, fel := 0, failed := 0, poisoned := 0, data := [] }

/-- A step of the table: a write is acknowledged (R364). -/
def execAck (tag : BitVec 14) (s : State) : Host.Outcome State Fault Refusal := .next (serveResponse 9 (ackOf tag s) s)
/-- A step of the table: a request failed (R364). -/
def execNack (r : Response) (s : State) : Host.Outcome State Fault Refusal := .next (serveResponse 10 r s)
/-- A step of the table: a request has had no response for 2 ms (R365). -/
def execRequestTimeout (tag : BitVec 14) (s : State) : Host.Outcome State Fault Refusal := .next (takeTimeout tag s)

/-- A fabric event on a port: 0x84 becomes pending for every partition that takes fabric traffic (R330, R357, R363). -/
def fabricEvent (q : Nat) (s : State) : State :=
  ((List.range 8).map (BitVec.ofNat 3)).foldl (fun s p => if s.fabric.tagOf p == 0 then s else s.pend p 0x84 (BitVec.ofNat 64 (q % 8))) s

/-! ## Receiving (R362, R366) -/

/-- Give back pool slots: the sender's counts per channel are settled from channel 0 up, for a pool grant names no channel (log entry 58). -/
def settlePool : Nat → List Nat → List Nat
  | _, [] => []
  | g, x :: t => (x - min g x) :: settlePool (g - min g x) t

/-- Apply the link fields of an accepted flit: acknowledgement, replay request and grants. What a replay request names goes out again, in its order and as it
was (R362). -/
def Port.applyLink (p : Port) (raw : Nat) : Port :=
  let lack := BitVec.ofNat 12 (bitsAt 12 12 raw)
  let left := p.replay.filter (fun r => (lack - BitVec.ofNat 12 (bitsAt 0 12 r)).toNat ≥ 2048)
  let pg := bitsAt 40 8 raw
  let held := settlePool pg p.poolHeld.toList
  let again := if raw.testBit 24 then left else []
  { p with
    replay := left,
    wire := p.wire ++ again,
    rpl := p.rpl + BitVec.ofNat 64 again.length,
    reserve := p.reserve.mapIdx (fun i x => if raw.testBit (32 + i) then min 4 (x + 1) else x),
    pool := min 192 (p.pool + pg),
    poolHeld := p.poolHeld.mapIdx (fun i x => (held[i]?).getD x) }

/-- Count replays of a port in the lifetime area (R362, R425). -/
def countReplays (q n : Nat) (s : State) : State := if n = 0 then s else s.count (0x1900 + 8 * q) n

/-- A flit for this module joins the others of its packet; with the last of them the packet has arrived (R356). -/
def collect (q raw : Nat) (s : State) : State :=
  let v := flitVc raw
  let l := if flitIdx raw = 0 then [raw] else ((s.port q).partials.toList[v]?).getD [] ++ [raw]
  let whole := l.length = flitIdx raw + 1 ∧ flitIdx raw = flitLast raw
  let s := s.updPort q (fun p => { p with partials := vcSet p.partials v (if whole then [] else l) })
  if whole then { s with fabric := { s.fabric with arrived := s.fabric.arrived ++ [readFlits l] } } else s

/-- An accepted flit that is sound: it goes to this module, to the output ports of its branches, or both, and it holds its input slot until every branch has
taken it (R366, R367). -/
def forward (q raw : Nat) (s : State) : State :=
  let out := branches s.fabric q raw
  let k := s.fabric.nextSlot
  let s := { s with fabric := { s.fabric with
    nextSlot := k + 1, inSlots := tset s.fabric.inSlots k { port := q, vc := flitVc raw, rsv := raw.testBit 29, left := max 1 out.length } } }
  let s := if flitMc raw || out.isEmpty then collect q raw s else s
  if out.isEmpty then freeSlot (some k) s
  else out.foldl (fun s b => enqueue b.1 { raw := b.2, source := 8 * q + flitVc raw, slot := some k } s) s

/-- The slot of a flit that is discarded is free at once. -/
def dropFlit (q raw : Nat) (s : State) : State :=
  if raw.testBit 25 then s
  else
    let k := s.fabric.nextSlot
    freeSlot (some k) { s with fabric := { s.fabric with inSlots := tset s.fabric.inSlots k { port := q, vc := flitVc raw, rsv := raw.testBit 29, left := 1 } } }

/-- An accepted flit: its link fields are applied; a sound one is taken onward or in, and any other is discarded as a fabric event (R357, R362, R366, R367). -/
def acceptFlit (q raw : Nat) (s : State) : State :=
  let p := s.port q
  let p1 := p.applyLink raw
  let s := countReplays q (p1.rpl - p.rpl).toNat s
  let s := s.updPort q (fun _ => { p1 with rxSeq := p1.rxSeq + 1, rxf := p1.rxf + 1, awaiting := false, badRun := 0 })
  let s := if !flitOk raw then fabricEvent q (dropFlit q raw s) else if raw.testBit 25 then s else forward q raw s
  s.pump

/-- A step of the table: a flit arrives at a port: it is accepted, discarded as a duplicate, or a replay is requested (R362). -/
def execFlit (port raw : Nat) (s : State) : Host.Outcome State Fault Refusal :=
  .next (
    let p := s.port port
    let seq := BitVec.ofNat 12 (bitsAt 0 12 raw)
    let good := raw < 2 ^ 2048 && BitVec.ofNat 32 (bitsAt 160 32 raw) == flitCrc raw
    if port ≥ 6 || !p.isUp then s
    else if good && seq == p.rxSeq then acceptFlit port raw s
    else if good && ((p.rxSeq - 1 - seq).toNat < 2048 || p.awaiting) then s
    else s.updPort port (fun p => ({ p with awaiting := true, badRun := p.badRun + 1 } : Port).stamp true nullFlit))

/-- A step of the table: a link retrains, after 64 replay requests without progress or on loss of lane lock (R363). -/
def execLinkRetrain (port : Nat) (lockLost : Bool) (s : State) : Host.Outcome State Fault Refusal :=
  .next (
    let p := s.port port
    if port < 6 && p.isUp && (lockLost || p.badRun ≥ 64) then s.updPort port (fun p => { p with st := 3, rtn := p.rtn + 1 }) else s)

/-- A step of the table: training succeeds with at least 8 lanes; the replay buffer is resent, and with an empty one the credits start afresh (R363, R366). -/
def execLinkTrained (port lanes : Nat) (s : State) : Host.Outcome State Fault Refusal :=
  .next (
    let p := s.port port
    if port ≥ 6 || p.st != 3 || lanes < 8 then s
    else
      let n := p.replay.length
      let p := { p with st := if lanes ≥ 16 then 1 else 2, badRun := 0, awaiting := false, rpl := p.rpl + BitVec.ofNat 64 n, wire := p.wire ++ p.replay }
      let p := if n = 0 then { p with
        reserve := Vector.replicate 8 4, pool := 192, poolHeld := Vector.replicate 8 0, oweReserve := Vector.replicate 8 0, owePool := 0 } else p
      countReplays port n (s.updPort port (fun _ => p)).pump)

/-- A step of the table: training has failed, and the port goes down with what it held; the input slots of flits that waited there are free (R363). -/
def execPortDown (port : Nat) (s : State) : Host.Outcome State Fault Refusal :=
  .next (if port < 6 && (s.port port).st == 3 then
      let lost := (s.port port).outq
      let s := s.updPort port (fun p => { p with st := 0, outq := [], replay := [], holder := Vector.replicate 8 none })
      fabricEvent port (lost.foldl (fun s c => markLeft port c (freeSlot c.slot s)) s).pump
    else s)

end Sys2Proof.Machine
end

