-- ==== Sys2Proof/Machine/Sequencer.lean ====
section
/-! DEFINITION. The collective sequencer: the start of a schedule (R373, R374), its words (R378 to R388), COLL packets (R377, R389 to R392) and router folds
(R393). -/

namespace Sys2Proof.Machine

/-! ## Formats and elements (R374, R387) -/

/-- A transport format (R374). -/
def transportFmt (f : Nat) : Bool := 5 ≤ f && f ≤ 9

/-- Element `i` of a chunk. -/
def chunkAt (f data i : Nat) : Nat := slot (8 * fmtBytes f) i data

/-- A chunk built element by element: bits, flags and marks. A marked element's bits are free (log entry 37). -/
def buildChunk (s : State) (f n : Nat) (g : Nat → Nat × BitVec 7) (bad : Nat → Bool) : Buf × BitVec 7 :=
  ({ fmt := BitVec.ofNat 5 f, data := pack (8 * fmtBytes f) n (fun i => if bad i then Config.poisonBits (s.fresh + i) else (g i).1),
     poison := pack 1 n (fun i => if bad i then 1 else 0), upsets := [] },
   (List.range n).foldl (fun a i => a ||| (if bad i then PSN else (g i).2)) 0)

/-- Narrow a value into a transport format by stochastic rounding with a random word (R387). -/
def narrowVal (tf z : Nat) (v : Val) : Nat × BitVec 7 := roundOp tf 5 false z (v, flagIf v.isSig NV)

/-- The random word of element `i` of chunk `ch` of `cl` elements at hop `h` under a run's key (R387). -/
def seqDraw (key : Word) (cl ch i h : Nat) : Nat := drawZ key (ch * cl + i) (0x8000 + h)

/-- That of a context. -/
def Ctx.draw (c : Ctx) (ch i h : Nat) : Nat := seqDraw c.key c.cl ch i h

/-! ## Words (R378, R379) -/

/-- A schedule word. -/
inductive Word9 where
  | send (a q hop chunk tag : Nat) (mc : Bool)
  | sendCmb (a q hop chunk k n : Nat)
  | recv (d q chunk tag : Nat)
  | recvCh (d ch : Nat)
  | recvCmb (d hop chunk n : Nat)
  | red (d a b : Nat)
  | copyLd (d q chunk fmt : Nat)
  | copySt (a q chunk : Nat)
  | copyBuf (d a : Nat)
  | cmpr (d a q hop chunk : Nat)
  | wait (q idx val : Nat)
  | sig (q idx val : Nat)
  | loop (l count : Nat) (off : Int)
  | jump (off : Int)
  | done
  deriving DecidableEq, Repr

/-- Decode a word; `none` where it breaks R378 or R379 (DETAIL 1). -/
def decodeSeq (w : Nat) : Option Word9 :=
  let d := bitsAt 57 3 w
  let a := bitsAt 54 3 w
  let b := bitsAt 51 3 w
  let q := bitsAt 47 4 w
  let hop := bitsAt 32 15 w
  let chunk := bitsAt 16 16 w
  let tag := bitsAt 8 8 w
  let x := bitsAt 0 8 w
  let off := toSigned 16 w
  match bitsAt 60 4 w with
  | 0 =>
    if d ≠ 0 ∨ b ≠ 0 ∨ x ≥ 64 then none
    else if x % 2 = 1 then
      (let n := bitsAt 1 4 x + 1
       if x.testBit 5 ∨ n < 2 ∨ tag ≥ n ∨ hop + 2 * n - 2 > 0x7FFF then none else some (.sendCmb a q hop chunk tag n))
    else if bitsAt 1 4 x ≠ 0 then none
    else some (.send a q hop chunk tag (x.testBit 5))
  | 1 =>
    if a ≠ 0 ∨ b ≠ 0 ∨ x ≥ 4 ∨ x = 3 then none
    else if x = 1 then (if hop ≠ 0 ∨ chunk ≠ 0 ∨ tag ≠ 0 ∨ q ≥ 8 then none else some (.recvCh d q))
    else if x = 2 then (if q ≠ 0 ∨ tag = 0 ∨ tag ≥ 16 then none else some (.recvCmb d hop chunk (tag + 1)))
    else if hop ≠ 0 then none else some (.recv d q chunk tag)
  | 2 => if q ≠ 0 ∨ hop ≠ 0 ∨ chunk ≠ 0 ∨ tag ≠ 0 ∨ x ≠ 0 then none else some (.red d a b)
  | 3 =>
    let mode := x % 4
    if b ≠ 0 ∨ hop ≠ 0 ∨ tag ≠ 0 ∨ mode = 3 ∨ x ≥ 128 then none
    else if mode = 0 then (if a ≠ 0 ∨ !transportFmt (x / 4) then none else some (.copyLd d q chunk (x / 4)))
    else if x ≥ 4 then none
    else if mode = 1 then (if d ≠ 0 then none else some (.copySt a q chunk))
    else if q ≠ 0 ∨ chunk ≠ 0 then none else some (.copyBuf d a)
  | 4 => if bitsAt 51 9 w ≠ 0 then none else some (.wait q hop (w % 2 ^ 32))
  | 5 => if bitsAt 51 9 w ≠ 0 then none else some (.sig q hop (w % 2 ^ 32))
  | 6 => if b ≠ 0 ∨ tag ≠ 0 ∨ x ≠ 0 then none else some (.cmpr d a q hop chunk)
  | 7 => if bitsAt 57 1 w ≠ 0 ∨ bitsAt 32 25 w ≠ 0 ∨ chunk = 0 then none else some (.loop (bitsAt 58 2 w) chunk off)
  | 8 => if bitsAt 16 44 w ≠ 0 then none else some (.jump off)
  | 9 => if bitsAt 0 60 w ≠ 0 then none else some .done
  | _ => none

/-- Why a run ends: REASON and DETAIL (R381), and what finding it leaves to be done (R318). -/
structure SeqFault where
  reason : Nat
  detail : Nat
  notes : List Note := []
  deriving DecidableEq, Repr

/-- The fault of an access (R381). -/
def accessFault (f : XFault) : SeqFault := { reason := faultReason f, detail := 0, notes := f.notes }

/-- Read `n` bytes for a context: domain address DETAIL 10, misalignment reason 7, translation and permission reasons 2 and 3 (R381), the window of a link that is
down reason 4 (R310). -/
def seqRead (s : State) (c : Ctx) (align n : Nat) (a : Word) : Except SeqFault (List MarkedByte) :=
  if isRemote a then .error { reason := 1, detail := 10 }
  else if a.toNat % align ≠ 0 then .error { reason := 7, detail := 0 }
  else match agentBytes s c.space a n with
    | .error (f, _) => .error (accessFault f)
    | .ok l => if agentDown s c.space .load a n then .error { reason := 4, detail := 0 } else .ok l

/-- The word at a context's PC (R378). -/
def fetchSeq (s : State) (c : Ctx) : Except SeqFault Word9 :=
  match seqRead s c 8 8 c.pc with
  | .error f => .error f
  | .ok l => match decodeSeq (ofBytes (l.map Prod.fst)) with
    | some w => .ok w
    | none => .error { reason := 1, detail := 1 }

/-- A word completes: PC advances and the context runs on, unless its run has ended meanwhile (R377, R381). -/
def seqNext (k : Nat) (s : State) : State := let c := s.ctx k; if c.st = 0 then s else s.setCtx k { c with pc := c.pc + 8, st := 1 }

/-- A run ends with a failure (R381). -/
def seqFail (k : Nat) (f : SeqFault) (s : State) : State := endRun k f.reason f.detail ((noteAll s f.notes).setCtx k (putBackRows (s.ctx k)))

/-- The buffers a word reads. -/
def Word9.reads : Word9 → List Nat
  | .send a .. | .sendCmb a .. | .copySt a _ _ | .copyBuf _ a | .cmpr _ a _ _ _ => [a]
  | .red _ a b => [a, b]
  | _ => []

/-- A buffer after its sectors are verified: the elements of one that fails its check take marks; with the number that failed (R416; log entry 77). -/
def Buf.verify (b : Buf) : Buf × Nat :=
  let per := 64 / fmtBytes b.fmt.toNat
  let bad := (b.upsets.filter (fun u => checkFails (bitsAt (512 * u.1) 512 b.data) u.2)).map Prod.fst
  (bad.foldl (fun b k => { b with poison := b.poison ||| ((2 ^ per - 1) <<< (per * k)), upsets := tdel b.upsets k }) b, bad.length)

/-- The buffers that a word reads are verified (R416). -/
def verifyBufs (k : Nat) (w : Word9) (s : State) : State :=
  w.reads.foldl (fun s i => match ((s.ctx k).bufs.toList[i]?).join with
    | none => s
    | some b =>
      if b.upsets.isEmpty then s
      else
        let v := b.verify
        let s := s.setCtx k { s.ctx k with bufs := (s.ctx k).bufs.mapIdx (fun j y => if j == i then some v.1 else y) }
        if v.2 = 0 then s else s.count (0x1D00 + 8 * 14) v.2) s

/-- Execute the word at PC of a running context if it is of the kind that a step names; a word that cannot be fetched or breaks its table ends the run
whichever step comes (R381). The sequencer is an agent of its die (R373). -/
def seqStep (k : Nat) (body : State → Ctx → Word9 → Option (Except SeqFault State)) (s : State) : State :=
  let s := settleDie (k / 16) s
  let c := s.ctx k
  if c.st = 0 then s
  else match fetchSeq s c with
    | .error f => seqFail k f s
    | .ok w =>
      let v := verifyBufs k w s
      match body v (v.ctx k) w with
      | none => s
      | some (.error f) => seqFail k f s
      | some (.ok s') => s'

/-- The effective chunk (R379, R388). -/
def Ctx.chunk (c : Ctx) (chunk : Nat) : Nat := (chunk + (match c.loops.toList with | some (_, it) :: _ => it | _ => 0)) % 2 ^ 16

/-- A q register. -/
def Ctx.qreg (c : Ctx) (q : Nat) : Word := (c.q.toList[q]?).getD 0

/-- A buffer; an empty one is DETAIL 2 (R375). -/
def Ctx.buf (c : Ctx) (b : Nat) : Except SeqFault Buf :=
  match c.bufs.toList[b]? with
  | some (some x) => .ok x
  | _ => .error { reason := 1, detail := 2 }

/-- Fill a buffer. -/
def Ctx.setBuf (c : Ctx) (b : Nat) (x : Buf) : Ctx := { c with bufs := c.bufs.mapIdx (fun i y => if i == b then some x else y) }

/-! ## Peers and packets (R374, R389, R391) -/

/-- A plain peer: rank and context, or why it may not be used (R374, R381). -/
def peerOf (s : State) (c : Ctx) (w : Word) : Except SeqFault (Nat × BitVec 5) :=
  if w.extractLsb' 14 2 != 0 || w.extractLsb' 20 44 != 0 then .error { reason := 1, detail := 1 }
  else
    let r := (w.extractLsb' 0 13).toNat
    if r ≥ s.fabric.ranks || (s.fabric.tagOf c.part == 0 && r != s.fabric.rank) then .error { reason := 4, detail := 9 }
    else .ok (r, w.extractLsb' 13 1 ++ w.extractLsb' 16 4)

/-- The counts and the context of a multicast peer, or why it may not be used (R367, R374, R381, R391). -/
def boxOf (s : State) (c : Ctx) (w : Word) : Except SeqFault ((Nat × Nat × Nat) × BitVec 5) :=
  if w.extractLsb' 20 44 != 0 then .error { reason := 1, detail := 1 }
  else
    let f := s.fabric
    let n (lo : Nat) : Nat := (w.extractLsb' lo 5).toNat
    let leaves (count d : Nat) : Bool := count != 0 && d > 1
    if f.tagOf c.part == 0 && (leaves (n 0) f.dims.1 || leaves (n 5) f.dims.2.1 || leaves (n 10) f.dims.2.2) then .error { reason := 4, detail := 9 }
    else .ok ((n 0, n 5, n 10), w.extractLsb' 15 1 ++ w.extractLsb' 16 4)

/-- Where the packets of a chunk go: to a plain peer, or over a multicast box (R389, R391). -/
inductive CollTarget where
  | peer (rank : Nat) | box (counts : Nat × Nat × Nat)
  deriving DecidableEq, Repr

/-- The COLL packets of a chunk: at most 2,048 bytes each (R389). A chunk for a peer on this module carries no DTAG (R377). -/
def collPackets (s : State) (k : Nat) (c : Ctx) (to' : CollTarget) (dctx : BitVec 5) (tag chunk hop khi : Nat) (comb : Bool) (b : Buf) : List Coll :=
  let es := fmtBytes b.fmt.toNat
  let per := 2048 / es
  let dst := match to' with | .peer r => r | .box _ => 0
  let mc := match to' with | .peer _ => false | .box _ => true
  (List.range (cdiv c.cl per)).map (fun i =>
    let n := min per (c.cl - i * per)
    { src := s.fabric.rank, dst := dst, dtag := if !mc && dst == s.fabric.rank then 0 else s.fabric.tagOf c.part,
      box := match to' with | .peer _ => (0, 0, 0) | .box n => n, kind := 0, zeros := 0, dctx := dctx, sctx := BitVec.ofNat 5 k,
      tag := BitVec.ofNat 8 tag, chunk := BitVec.ofNat 16 chunk, hop := BitVec.ofNat 15 hop, fmt := b.fmt, comb := comb, mc := mc,
      step := c.key.extractLsb' 0 16, eoff := i * per, ecnt := n, khi := BitVec.ofNat 4 khi, fl := 0, last := i * per + n == c.cl,
      poison := bitsAt (i * per) n b.poison, data := bitsAt (8 * es * i * per) (8 * es * n) b.data })

/-! ## Delivery (R377, R389, R390, R392) -/

/-- Whether an arrival slot is that of a packet: the chunk's key, or for combining its group and the piece it covers. -/
def Slot.isFor (t : Slot) (p : Coll) : Bool :=
  if p.comb then t.comb && t.chunk == p.chunk && t.hop == p.hop && t.step == p.step && t.fmt == p.fmt && t.tag == (p.tag >>> 4)
    && t.klo == (p.tag.extractLsb' 0 4).toNat && t.khi == p.khi.toNat
  else !t.comb && t.src == p.src && t.sctx == p.sctx && t.tag == p.tag && t.chunk == p.chunk && t.step == p.step

/-- A new arrival slot for a packet. -/
def slotFor (p : Coll) : Slot :=
  { src := p.src, sctx := p.sctx, tag := if p.comb then p.tag >>> 4 else p.tag, chunk := p.chunk, step := p.step, comb := p.comb, hop := p.hop,
    klo := (p.tag.extractLsb' 0 4).toNat, khi := p.khi.toNat, fmt := p.fmt, placed := 0, len := none, data := 0, poison := 0, fl := 0 }

/-- What a slot counts as towards the eight: its chunk, or its combining group (R377; log entry 55). -/
def Slot.place (t : Slot) : Bool × Nat × Nat × Nat × Nat × Nat :=
  if t.comb then (true, t.chunk.toNat, t.hop.toNat, t.step.toNat, t.tag.toNat, t.fmt.toNat)
  else (false, t.src, t.sctx.toNat, t.tag.toNat, t.chunk.toNat, t.step.toNat)

/-- Whether a running RECV of the context takes the chunk or the group of a slot (R377, R383). -/
def awaitsSlot (s : State) (c : Ctx) (t : Slot) : Bool :=
  c.st == 2 && t.step == c.key.extractLsb' 0 16 && (match fetchSeq s c with
    | .ok (.recv _ q chunk tag) =>
      !t.comb && t.tag.toNat == tag && t.chunk.toNat == c.chunk chunk
        && (match peerOf s c (c.qreg q) with | .ok (r, x) => t.src == r && t.sctx == x | .error _ => false)
    | .ok (.recvCmb _ hop chunk n) => t.comb && t.hop.toNat == hop && t.chunk.toNat == c.chunk chunk && t.tag.toNat + 1 == n && t.fmt == c.tf
    | _ => false)

/-- A packet placed in a slot, once: elements already there are kept (R390). -/
def Slot.put (t : Slot) (p : Coll) : Slot :=
  let w := 8 * fmtBytes p.fmt.toNat
  let range := (2 ^ p.ecnt - 1) <<< p.eoff
  if t.placed &&& range = range then t
  else
    { t with
      placed := t.placed ||| range,
      len := if p.last then some (p.eoff + p.ecnt) else t.len,
      data := t.data ||| (p.data <<< (w * p.eoff)),
      poison := t.poison ||| (p.poison <<< p.eoff),
      fl := t.fl ||| p.fl }

/-- Whether every element of a slot's chunk is there (R389). -/
def Slot.complete (t : Slot) : Bool := match t.len with | some n => t.placed % 2 ^ n == 2 ^ n - 1 | none => false

/-- The key of a received chunk. -/
def collKey (p : Coll) : Nat × BitVec 5 × BitVec 8 × BitVec 16 × BitVec 16 := (p.src, p.sctx, p.tag, p.chunk, p.step)

/-- Remove an acknowledged chunk from the staging of its sender (R390). -/
def ackStaged (k : Nat) (peer : Nat) (pctx : BitVec 5) (p : Coll) (s : State) : State :=
  let c := s.ctx k
  let mine (t : Staged) : Bool := match t.packets with
    | q :: _ => q.dst == peer && q.dctx == pctx && q.tag == p.tag && q.chunk == p.chunk && q.step == p.step
    | [] => true
  if c.staged.any mine then s.setCtx k { c with staged := c.staged.filter (fun t => !mine t) } else s

/-- Acknowledge a placed chunk to its sender (R389, R390). -/
def acknowledge (p : Coll) (s : State) : State :=
  if p.mc || p.comb then s
  else if p.src = s.fabric.rank then ackStaged p.sctx.toNat p.dst p.dctx p s
  else s.emit (.collAck { p with kind := 1, src := p.dst, dst := p.src, dctx := p.sctx, sctx := p.dctx, data := 0, poison := 0 })

/-- Whether a partition takes COLL packets: none while it is off or being reset (R377, R396). -/
def takesColl (s : State) (p : BitVec 3) : Bool := (s.partn p).st != 0 && (s.partn p).st != 3

/-- Deliver a COLL data packet to its context; `from'` is the sending partition of a chunk that stays on this module (R377). What the running RECV takes counts for
none of the eight slots. -/
def deliverColl (from' : Option (BitVec 3)) (p : Coll) (s : State) : State :=
  let k := p.dctx.toNat
  let c := s.ctx k
  let mine := c.held && takesColl s c.part && (match from' with | some q => c.part == q | none => partOfTag s p.dtag == some c.part)
  if !mine then s
  else if !p.comb && !p.mc && c.recent.contains (collKey p) then acknowledge p s
  else
    let known := c.slots.any (·.isFor p)
    let places := ((c.slots.filter (fun t => !awaitsSlot s c t)).map Slot.place).eraseDups
    let room := known || places.contains (slotFor p).place || awaitsSlot s c (slotFor p) || places.length < 8
    if !room then (if (p.comb || p.mc) && c.st != 0 then seqFail k { reason := 4, detail := 7 } s else s)
    else
      let slots := if known then c.slots else c.slots ++ [slotFor p]
      let slots := slots.map (fun t => if t.isFor p then t.put p else t)
      let whole := slots.any (fun t => t.isFor p && t.complete)
      let recent := if whole && !p.comb && !p.mc then (c.recent ++ [collKey p]).drop ((c.recent.length + 1) - 64) else c.recent
      let s := s.setCtx k { c with slots := slots, recent := recent }
      if whole then acknowledge p s else s

/-- Send packets: one for this module is delivered without using a port, and so is this module's copy of a multicast one (R367, R377, R382). -/
def sendColl (part : BitVec 3) (s : State) (p : Coll) : State :=
  if p.mc then (deliverColl (some part) p s).emit (.coll p)
  else if p.dst = s.fabric.rank then deliverColl (some part) p s
  else s.emit (.coll p)

/-- Whether a COLL packet that arrives breaks nothing of R389. -/
def collOk (p : Coll) : Bool :=
  let es := fmtBytes p.fmt.toNat
  p.kind.toNat ≤ 1 && p.zeros == 0 && transportFmt p.fmt.toNat && 1 ≤ p.ecnt && p.ecnt * es ≤ 2048 && p.eoff + p.ecnt ≤ 16384
    && p.poison < 2 ^ p.ecnt && p.data < 2 ^ (8 * es * p.ecnt)
    && (!p.comb || ((p.tag.extractLsb' 0 4).toNat ≤ p.khi.toNat && p.khi.toNat ≤ (p.tag >>> 4).toNat && p.tag.toNat ≥ 16))

/-- The port a packet from a rank arrives by: that of the last ring it crosses (R361). -/
def arrivalPort (f : Fabric) (src : Nat) : Nat :=
  let c := f.coordsOf src
  let way (d cur dst p : Nat) : Option Nat := (ringStep d cur dst).map (fun up => if up then p + 1 else p)
  match way f.dims.2.2 c.2.2 f.coords.2.2 4 with
  | some p => p
  | none => match way f.dims.2.1 c.2.1 f.coords.2.1 2 with
    | some p => p
    | none => (way f.dims.1 c.1 f.coords.1 0).getD 0

/-- A COLL packet has arrived: one that breaks R389 is dropped as a fabric event, and any other acts as `k` says (R389). -/
def takeColl (kind : BitVec 4 → Bool) (c : Coll) (k : State → State) (s : State) : State :=
  if c.dst ≠ s.fabric.rank ∧ !c.mc then s
  else if !(collOk c && kind c.kind) then fabricEvent (arrivalPort s.fabric c.src) s
  else k s

/-- A step of the table: a COLL data packet arrives (R377, R389). -/
def execColl (c : Coll) (s : State) : Host.Outcome State Fault Refusal := .next (takeColl (· == 0) c (deliverColl none c) (s.took (.coll c)))

/-- A step of the table: an acknowledgement arrives; one for a chunk no longer staged is ignored (R389, R390). -/
def execCollAck (c : Coll) (s : State) : Host.Outcome State Fault Refusal :=
  .next (takeColl (· == 1) c (ackStaged c.dctx.toNat c.src c.sctx c) (s.took (.collAck c)))

/-! ## Folds (R392, R393) -/

/-- One fold of element `i`: the next partial of a value and a contribution, at hop `h` with a random word (R392). -/
def foldElem (tf z p c : Nat) : Nat × BitVec 7 :=
  let t := roundOp 5 0 false 0 (addVal 0 (decodeVal tf p) (decodeVal tf c))
  let r := narrowVal tf z (decodeVal 5 t.1)
  (r.1, r.2 ||| t.2)

/-- The packets whose flits wait whole at a port, in the order of their streams: the flits of each (R362, R393). -/
def Port.packets (p : Port) : List (List Queued) :=
  ((p.outq.map (·.source)).eraseDups).flatMap (fun k =>
    ((p.outq.filter (fun c => c.source == k)).foldl (fun (l : List (List Queued)) c =>
      if flitIdx c.raw = 0 then l ++ [[c]] else l.dropLast ++ [l.getLastD [] ++ [c]]) []).filter (fun l =>
        match l.head?, l.getLast? with | some a, some b => flitIdx a.raw == 0 && flitIdx b.raw == flitLast b.raw | _, _ => false))

/-- The flits of a packet that waits whole at a port. -/
def Port.packetOf? (p : Port) (c : Coll) : Option (List Queued) := p.packets.find? (fun l => readFlits (l.map (·.raw)) == .coll c)

/-- Whether two packets are pieces that a fold joins: [0..k-1] and [k..k] of one group and range (R393). -/
def foldable (a b : Coll) : Bool :=
  let k := b.khi.toNat
  let alike := a.comb && b.comb && a.dst == b.dst && a.dtag == b.dtag && a.dctx == b.dctx && a.chunk == b.chunk && a.hop == b.hop && a.step == b.step
    && a.fmt == b.fmt && a.tag >>> 4 == b.tag >>> 4 && a.eoff == b.eoff && a.ecnt == b.ecnt && a.kind == 0 && b.kind == 0 && collOk a && collOk b
  alike && a.tag.extractLsb' 0 4 == 0 && (b.tag.extractLsb' 0 4).toNat == k && a.khi.toNat + 1 == k

/-- The packet that a fold makes: each element is Pk as R392 has it, from the group's key and chunk length (R392, R393). -/
def foldPackets (g : FoldGroup) (a b : Coll) (s : State) : Coll :=
  let f := a.fmt.toNat
  let k := b.khi.toNat
  let n := (a.tag >>> 4).toNat + 1
  let (x, fl) := buildChunk s f a.ecnt
    (fun i => foldElem f (seqDraw g.key g.chunkLen a.chunk.toNat (a.eoff + i) (a.hop.toNat + n - 1 + k)) (chunkAt f a.data i) (chunkAt f b.data i))
    (fun i => a.poison.testBit i || b.poison.testBit i)
  { a with khi := b.khi, data := x.data, poison := a.poison ||| b.poison, fl := a.fl ||| b.fl ||| fl.extractLsb' 0 6, last := a.last || b.last }

/-- A step of the table: a router folds a packet that covers [0..k-1] with one that covers [k..k] of the same group and range, both waiting whole for the same port;
the one that results takes the place of the first (R393). Packets carry neither the whole key nor the chunk length that R392 draws with: the step is told them
(log entry 60). -/
def execRouterFold (port : Nat) (pieces : Coll × Coll) (group : FoldGroup) (s : State) : Host.Outcome State Fault Refusal :=
  .next (
    let p := s.port port
    let (a, b) := pieces
    match p.packetOf? a, p.packetOf? b with
    | some fa, some fb =>
      if !foldable a b || a.step != group.key.extractLsb' 0 16 || fa == fb then s
      else
        let c := foldPackets group a b s
        let raws := ((Message.coll c).wire s.fabric.rank).flits
        let dl := bitsAt 26 1 ((fa.head?.map (·.raw)).getD 0)
        let new : List Queued := raws.zipIdx.map (fun r =>
          { raw := putBits 26 1 dl r.1, source := (fa.head?.map (·.source)).getD 0, slot := (fa[r.2]?).bind (·.slot) })
        let rest := (p.outq.filter (fun x => !fb.contains x)).flatMap (fun x => if fa.head? == some x then new else if fa.contains x then [] else [x])
        let s := ({ s with fresh := s.fresh + a.ecnt } : State).updPort port (fun p => { p with outq := rest })
        (fb.foldl (fun s x => freeSlot x.slot s) s).pump
    | _, _ => s)

/-! ## Starting (R373, R374) -/

/-- Lines that the buffers of a context displace from their L2 slices leave, dirty ones written back (R375). -/
def makeBufferRoom (ctx : Nat) (s : State) : State :=
  let homes := ((List.range 8).map (fun b => 24 * (ctx / 16) + Config.bufferHome (8 * ctx + b) % 24)).eraseDups
  homes.foldl (fun s h =>
    let excess := (sliceLines s h).length + bufferLines s h - 16384
    (List.range excess).foldl (fun s i =>
      let lines := sliceLines s h
      match lines[Config.l2Victim (s.tick + i) % max 1 lines.length]? with | some l => evictLine s h l | none => s) s) s

/-- A step of the table: a context starts the schedule of the record it has accepted (R373). -/
def execSequencerStart (ctx : Nat) (s : State) : Host.Outcome State Fault Refusal :=
  .next (match (s.ctx ctx).starting with
    | none => s
    | some r =>
      let c := s.ctx ctx
      if !(c.held && c.part == r.space.part) then endRecord (ctx / 16) 6 r (s.setCtx ctx { c with starting := none })
      else
        let c := { c with starting := none, space := r.space, flagAddr := r.w 1, flagVal := r.flagVal, issuer := r.hart, farm := r.farm, argument := r.w 4 }
        let s := settleDie (ctx / 16) (s.setCtx ctx c)
        let fault : Except SeqFault (List MarkedByte) :=
          if (r.w 4).toNat % 8 ≠ 0 then .error { reason := 7, detail := 0 }
          else match agentBytes s r.space (r.w 4) 136 with
            | .error (f, _) => .error (accessFault f)
            | .ok l => if agentDown s r.space .load (r.w 4) 136 then .error { reason := 4, detail := 0 } else .ok l
        match fault with
        | .error e => seqFail ctx e s
        | .ok l =>
          let s := agentPass s r.space (r.w 4) 136 false
          let d := ofBytes (l.map Prod.fst)
          let cl := bitsAt 0 16 d
          let tf := bitsAt 16 5 d
          if bitsAt 21 43 d ≠ 0 ∨ cl = 0 ∨ cl > 16384 ∨ !transportFmt tf then endRun ctx 1 5 s
          else
            let key := r.w 5
            let s := s.setCtx ctx { c with
              cl := cl, tf := BitVec.ofNat 5 tf, q := Vector.ofFn (fun i => BitVec.ofNat 64 (bitsAt (64 * (i.val + 1)) 64 d)),
              bufs := Vector.replicate 8 none, loops := Vector.replicate 4 none, flags := 0, reason := 0, detail := 0, key := key,
              slots := c.slots.filter (fun t => t.step == key.extractLsb' 0 16) }
            if (r.w 3).toNat % 8 ≠ 0 then endRun ctx 7 0 s
            else makeBufferRoom ctx (s.setCtx ctx { s.ctx ctx with st := 1, pc := r.w 3 }))

/-! ## SEND (R382, R391) -/

/-- The bytes a SEND commits, with the flags of its narrowing (R382). -/
def sendBuf (s : State) (c : Ctx) (a ch hop : Nat) : Except SeqFault (Buf × BitVec 7) :=
  match c.buf a with
  | .error f => .error f
  | .ok b =>
    if b.fmt = c.tf then .ok (b, 0)
    else if b.fmt = 5 then
      .ok (buildChunk s c.tf.toNat c.cl (fun i => narrowVal c.tf.toNat (c.draw ch i hop) (decodeVal 5 (chunkAt 5 b.data i))) (fun i => b.poison.testBit i))
    else .error { reason := 1, detail := 3 }

/-- Add to a context's FLAGS, and move the free values on. -/
def raiseSeq (k : Nat) (fl : BitVec 7) (s : State) : State :=
  let c := s.ctx k
  { s.setCtx k { c with flags := c.flags ||| fl } with fresh := s.fresh + (if fl &&& PSN = 0 then 0 else 65536) }

/-- A chunk as it is staged: one for this module's own context has left at once. -/
def stage (s : State) (ps : List Coll) (tries : Nat) : Staged :=
  { packets := ps, sentAt := if ps.all (fun p => p.dst == s.fabric.rank) then some s.time else none, tries := tries }

/-- Whether a staged chunk has waited 1 ms for its acknowledgement (R390). -/
def Staged.over (t : Staged) (now : Word) : Bool := match t.sentAt with | some u => decide ((now - u).toNat ≥ 1_000_000) | none => false

/-- A SEND of any kind: the source is narrowed if need be, the word waits while eight chunks are staged, and then the packets that `pack` makes leave (R382). -/
def sendWord (ctx a ch hop : Nat) (target : State → Ctx → Except SeqFault (CollTarget × BitVec 5)) (pack : Ctx → CollTarget → BitVec 5 → Buf → List Coll)
    (staged : Bool) (s : State) (c : Ctx) : Except SeqFault State :=
  match sendBuf s c a ch hop with
  | .error f => .error f
  | .ok (b, fl) =>
    if c.staged.length ≥ 8 then .ok s
    else match target s c with
      | .error f => .error f
      | .ok (to', x) =>
        let ps := pack c to' x b
        let s := raiseSeq ctx fl s
        let s := if staged then s.setCtx ctx { s.ctx ctx with staged := c.staged ++ [stage s ps 0] } else s
        .ok (seqNext ctx (ps.foldl (sendColl c.part) s))

/-- The target of a word that names a plain peer. -/
def peerTarget (q : Nat) (s : State) (c : Ctx) : Except SeqFault (CollTarget × BitVec 5) := (peerOf s c (c.qreg q)).map (fun p => (.peer p.1, p.2))

/-- The target of a word that names a multicast box. -/
def boxTarget (q : Nat) (s : State) (c : Ctx) : Except SeqFault (CollTarget × BitVec 5) := (boxOf s c (c.qreg q)).map (fun p => (.box p.1, p.2))

/-- A step of the table: a plain or staged SEND (R382, R390). -/
def execSend (ctx : Nat) (s : State) : Host.Outcome State Fault Refusal :=
  .next (seqStep ctx (fun s c w => match w with
    | .send a q hop chunk tag false =>
      let ch := c.chunk chunk
      some (sendWord ctx a ch hop (peerTarget q) (fun c t x b => collPackets s ctx c t x tag ch hop 0 false b) true s c)
    | _ => none) s)

/-- A step of the table: SEND with CMB (R382, R392). -/
def execSendCmb (ctx : Nat) (s : State) : Host.Outcome State Fault Refusal :=
  .next (seqStep ctx (fun s c w => match w with
    | .sendCmb a q hop chunk i n =>
      let ch := c.chunk chunk
      some (sendWord ctx a ch (hop + i) (peerTarget q) (fun c t x b => collPackets s ctx c t x (i + 16 * (n - 1)) ch hop i true b) false s c)
    | _ => none) s)

/-- A step of the table: SEND with MC: MC packets over the box, and this module's own copy (R367, R391). -/
def execSendMc (ctx : Nat) (s : State) : Host.Outcome State Fault Refusal :=
  .next (seqStep ctx (fun s c w => match w with
    | .send a q hop chunk tag true =>
      let ch := c.chunk chunk
      some (sendWord ctx a ch hop (boxTarget q) (fun c t x b => collPackets s ctx c t x tag ch hop 0 false b) false s c)
    | _ => none) s)

/-- A step of the table: a staged chunk without acknowledgement after 1 ms is sent again; after 8 times the run ends (R390). -/
def execSendRetransmit (ctx index : Nat) (s : State) : Host.Outcome State Fault Refusal :=
  .next (
    let c := s.ctx ctx
    match c.staged[index]? with
    | none => s
    | some t =>
      if c.st = 0 || !t.over s.time then s
      else if t.tries ≥ 8 then seqFail ctx { reason := 4, detail := 6 } s
      else
        let s := s.setCtx ctx { c with retx := c.retx + 1, staged := listSet c.staged index (stage s t.packets (t.tries + 1)) }
        t.packets.foldl (sendColl c.part) s)

/-! ## RECV (R383) -/

/-- A RECV that cannot complete waits (R383). -/
def seqWait (k : Nat) (s : State) : State := s.setCtx k { s.ctx k with st := 2 }

/-- A step of the table: RECV from a peer (R383). -/
def execRecv (ctx : Nat) (s : State) : Host.Outcome State Fault Refusal :=
  .next (seqStep ctx (fun s c w => match w with
    | .recv d q chunk tag =>
      some (match peerOf s c (c.qreg q) with
        | .error f => .error f
        | .ok (r, x) =>
          let mine (t : Slot) : Bool := !t.comb && t.src == r && t.sctx == x && t.tag.toNat == tag && t.chunk.toNat == c.chunk chunk
            && t.step == c.key.extractLsb' 0 16 && t.complete
          match c.slots.find? mine with
          | none => .ok (seqWait ctx s)
          | some t =>
            if t.len ≠ some c.cl then .error { reason := 1, detail := 11 }
            else
              let c := { c.setBuf d { fmt := t.fmt, data := t.data, poison := t.poison, upsets := [] } with slots := c.slots.filter (fun u => !mine u) }
              .ok (seqNext ctx (s.setCtx ctx c)))
    | _ => none) s)

/-- A step of the table: RECV of channel rows, as they arrive (R376, R383). -/
def execRecvCh (ctx : Nat) (s : State) : Host.Outcome State Fault Refusal :=
  .next (seqStep ctx (fun s c w => match w with
    | .recvCh d ch =>
      if c.cl % Config.mtlen ≠ 0 then some (.error { reason := 1, detail := 4 })
      else
        let n := c.cl / Config.mtlen
        let queue : List Row := (c.chans.toList[ch]?).getD []
        let got : List Row := c.rows ++ queue.take (n - c.rows.length)
        let rest := queue.drop (n - c.rows.length)
        let c1 := { c with rows := got, rowChan := some ch, chans := c.chans.mapIdx (fun i x => if i == ch then rest else x) }
        if got.any (fun (q : Row) => some q.fmt != (got.head?.map (fun (x : Row) => x.fmt))) then some (.ok (seqFail ctx { reason := 1, detail := 4 } (s.setCtx ctx c1)))
        else if got.length < n then some (.ok (seqWait ctx (s.setCtx ctx c1)))
        else
          let f : Nat := ((got.head?.map (fun (x : Row) => x.fmt)).getD 0).toNat
          let ra : Array Row := got.toArray
          let w := 8 * fmtBytes f * Config.mtlen
          let b : Buf := { fmt := BitVec.ofNat 5 f, data := pack w n (fun i => ((ra[i]?).map (fun (x : Row) => x.data)).getD 0),
                           poison := pack Config.mtlen n (fun i => ((ra[i]?).map (fun (x : Row) => x.poison)).getD 0), upsets := [] }
          some (.ok (seqNext ctx (s.setCtx ctx { c1.setBuf d b with rows := [], rowChan := none })))
    | _ => none) s)

/-- The value of element `i` of a combining group from the slots of its pieces: partials and contributions in ascending k; `none` while one is missing. -/
def foldGroup (c : Ctx) (ch hop n i : Nat) (ts : List Slot) : Nat → Option (Nat × Bool × BitVec 7 × Nat) → Option (Nat × Bool × BitVec 7 × Nat)
  | 0, acc => acc
  | fuel + 1, acc =>
    let tf := c.tf.toNat
    let has (t : Slot) : Bool := t.placed.testBit i
    match acc with
    | none =>
      let start := ts.filter (fun t => t.klo == 0 && has t)
      (match start.find? (fun t => start.all (fun u => u.khi ≤ t.khi)) with
       | none => none
       | some t => foldGroup c ch hop n i ts fuel (some (chunkAt tf t.data i, t.poison.testBit i, 0, t.khi)))
    | some (v, bad, fl, k) =>
      if k + 1 ≥ n then acc
      else match ts.find? (fun t => t.klo == k + 1 && t.khi == k + 1 && has t) with
        | none => none
        | some t =>
          let r := foldElem tf (c.draw ch i (hop + n - 1 + (k + 1))) v (chunkAt tf t.data i)
          foldGroup c ch hop n i ts fuel (some (r.1, bad || t.poison.testBit i, fl ||| r.2, k + 1))

/-- A step of the table: RECV of a combining group: its pieces are folded in order once all are there, and a piece of another length than CL ends the run (R383, R389, R392). -/
def execRecvCmb (ctx : Nat) (s : State) : Host.Outcome State Fault Refusal :=
  .next (seqStep ctx (fun s c w => match w with
    | .recvCmb d hop chunk n =>
      let ch := c.chunk chunk
      let mine (t : Slot) : Bool := t.comb && t.chunk.toNat == ch && t.hop.toNat == hop && t.step == c.key.extractLsb' 0 16 && t.fmt == c.tf
        && t.tag.toNat + 1 == n
      let ts := c.slots.filter mine
      if ts.any (fun t => t.len.isSome && t.len != some c.cl) then some (.error { reason := 1, detail := 11 })
      else match ts.findSome? (·.len) with
      | none => some (.ok (seqWait ctx s))
      | some len =>
        let vals := ((List.range len).map (fun i => foldGroup c ch hop n i ts (n + 1) none)).toArray
        if vals.any (fun v => match v with | some (_, _, _, k) => k + 1 < n | none => true) then some (.ok (seqWait ctx s))
        else
          let at' (i : Nat) : Nat × Bool × BitVec 7 × Nat := ((vals[i]?).getD none).getD (0, false, 0, 0)
          let (b, fl) := buildChunk s c.tf.toNat len (fun i => ((at' i).1, (at' i).2.2.1)) (fun i => (at' i).2.1)
          let fl := ts.foldl (fun a t => a ||| t.fl.zeroExtend 7) fl
          let s := s.setCtx ctx { c.setBuf d b with slots := c.slots.filter (fun t => !mine t) }
          some (.ok (seqNext ctx (raiseSeq ctx fl s)))
    | _ => none) s)

/-! ## RED, COPY, CMPR (R384 to R387) -/

/-- A step of the table: RED (R384). -/
def execRed (ctx : Nat) (s : State) : Host.Outcome State Fault Refusal :=
  .next (seqStep ctx (fun s c w => match w with
    | .red d a b =>
      some (match c.buf a, c.buf b with
        | .ok x, .ok y =>
          let (r, fl) := buildChunk s 5 c.cl
            (fun i => roundOp 5 0 false 0 (addVal 0 (decodeVal x.fmt.toNat (chunkAt x.fmt.toNat x.data i)) (decodeVal y.fmt.toNat (chunkAt y.fmt.toNat y.data i))))
            (fun i => x.poison.testBit i || y.poison.testBit i)
          .ok (seqNext ctx (raiseSeq ctx fl (s.setCtx ctx (c.setBuf d r))))
        | .error f, _ => .error f
        | _, .error f => .error f)
    | _ => none) s)

/-- The address a COPY or a CMPR uses (R385, R386). -/
def Ctx.chunkAddr (c : Ctx) (q chunk es : Nat) : Word := c.qreg q + BitVec.ofNat 64 (c.chunk chunk * c.cl * es)

/-- A chunk from bytes in memory, with the marks of the elements they make. -/
def bufOfBytes (f n : Nat) (l : List MarkedByte) : Buf :=
  let es := fmtBytes f
  let bad := (l.map Prod.snd).toArray
  { fmt := BitVec.ofNat 5 f, data := ofBytes (l.map Prod.fst),
    poison := pack 1 n (fun i => if (List.range es).any (fun j => (bad[i * es + j]?).getD false) then 1 else 0), upsets := [] }

/-- A chunk's bytes with their marks. -/
def bytesOfBuf (n : Nat) (b : Buf) : List MarkedByte :=
  let es := fmtBytes b.fmt.toNat
  (bytesOf (n * es) b.data).zipIdx.map (fun p => (p.1, b.poison.testBit (p.2 / es)))

/-- Why a context may not write `n` bytes: every check comes before the first access (R385). -/
def seqWriteFault (s : State) (c : Ctx) (align n : Nat) (a : Word) : Option SeqFault :=
  if isRemote a then some { reason := 1, detail := 10 }
  else if a.toNat % align ≠ 0 then some { reason := 7, detail := 0 }
  else match agentFault s c.space .store a n with
    | some (f, _) => some (accessFault f)
    | none => if agentDown s c.space .store a n then some { reason := 4, detail := 0 } else none

/-- Write bytes for a context. -/
def seqWrite (s : State) (c : Ctx) (align : Nat) (a : Word) (l : List MarkedByte) : Except SeqFault State :=
  match seqWriteFault s c align l.length a with
  | some f => .error f
  | none => .ok (agentStore s c.space a l false).1

/-- A step of the table: COPY in mode 0 (R385). -/
def execCopyLd (ctx : Nat) (s : State) : Host.Outcome State Fault Refusal :=
  .next (seqStep ctx (fun s c w => match w with
    | .copyLd d q chunk f =>
      let a := c.chunkAddr q chunk (fmtBytes f)
      some (match seqRead s c (fmtBytes f) (c.cl * fmtBytes f) a with
        | .error e => .error e
        | .ok l => .ok (seqNext ctx ((agentPass s c.space a l.length false).setCtx ctx (c.setBuf d (bufOfBytes f c.cl l)))))
    | _ => none) s)

/-- A step of the table: COPY in mode 1 (R385, R419). -/
def execCopySt (ctx : Nat) (s : State) : Host.Outcome State Fault Refusal :=
  .next (seqStep ctx (fun s c w => match w with
    | .copySt b q chunk =>
      some (match c.buf b with
        | .error e => .error e
        | .ok x =>
          let es := fmtBytes x.fmt.toNat
          match seqWrite s c es (c.chunkAddr q chunk es) (bytesOfBuf c.cl x) with
          | .error e => .error e
          | .ok s => .ok (seqNext ctx s))
    | _ => none) s)

/-- A step of the table: COPY in mode 2 (R385). -/
def execCopyBuf (ctx : Nat) (s : State) : Host.Outcome State Fault Refusal :=
  .next (seqStep ctx (fun s c w => match w with
    | .copyBuf d a =>
      some (match c.buf a with
        | .error e => .error e
        | .ok x => .ok (seqNext ctx (s.setCtx ctx (c.setBuf d x))))
    | _ => none) s)

/-- Whether a narrowed value is finite. -/
def finiteVal : Val → Bool | .fin _ _ _ _ => true | _ => false

/-- One element of a CMPR: the narrowed bits, the new residual, and the flags (R386). -/
def cmprElem (tf z : Nat) (x : Val) (res : Nat) : Nat × Nat × BitVec 7 :=
  let s := roundOp 5 0 false 0 (addVal 0 x (decodeVal 5 res))
  let n := narrowVal tf z (decodeVal 5 s.1)
  let back : Nat × BitVec 7 :=
    if finiteVal (decodeVal tf n.1) then roundOp 5 0 false 0 (addVal 0 (decodeVal 5 s.1) (match decodeVal tf n.1 with | .fin g m e r => .fin (!g) m e r | v => v)) else (0, 0)
  (n.1, back.1, s.2 ||| n.2 ||| back.2)

/-- A step of the table: CMPR (R386, R395). -/
def execCmpr (ctx : Nat) (s : State) : Host.Outcome State Fault Refusal :=
  .next (seqStep ctx (fun s c w => match w with
    | .cmpr d a q hop chunk =>
      some (match c.buf a with
        | .error e => .error e
        | .ok x =>
          let addr := c.chunkAddr q chunk 4
          match seqRead s c 4 (4 * c.cl) addr with
          | .error e => .error e
          | .ok l =>
            let res := bufOfBytes 5 c.cl l
            let tf := c.tf.toNat
            let bad (i : Nat) : Bool := x.poison.testBit i || res.poison.testBit i
            let r (i : Nat) : Nat × Nat × BitVec 7 :=
              cmprElem tf (c.draw (c.chunk chunk) i hop) (decodeVal x.fmt.toNat (chunkAt x.fmt.toNat x.data i)) (chunkAt 5 res.data i)
            let (n, fl) := buildChunk s tf c.cl (fun i => ((r i).1, (r i).2.2)) bad
            let (back, _) := buildChunk { s with fresh := s.fresh + 16384 } 5 c.cl (fun i => ((r i).2.1, 0)) bad
            match seqWrite (agentPass s c.space addr l.length false) c 4 addr (bytesOfBuf c.cl back) with
            | .error e => .error e
            | .ok s => .ok (seqNext ctx (raiseSeq ctx fl (s.setCtx ctx (c.setBuf d n)))))
    | _ => none) s)

/-! ## WAIT, SIG, LOOP, JUMP, END (R388) -/

/-- The address of a WAIT or a SIG. -/
def Ctx.flagAt (c : Ctx) (q idx : Nat) : Word := c.qreg q + BitVec.ofNat 64 (8 * idx)

/-- WAIT: completes once the doubleword has reached VAL (R388). -/
def waitWord (ctx : Nat) (s : State) : State :=
  seqStep ctx (fun s c w => match w with
    | .wait q idx val =>
      some (match seqRead s c 8 8 (c.flagAt q idx) with
        | .error e => .error e
        | .ok l =>
          let s := agentPass s c.space (c.flagAt q idx) 8 false
          if ofBytes (l.map Prod.fst) ≥ val then .ok (seqNext ctx s) else .ok (seqWait ctx s))
    | _ => none) s

/-- A step of the table: WAIT (R388). -/
def execWait (ctx : Nat) (s : State) : Host.Outcome State Fault Refusal := .next (waitWord ctx s)

/-- A step of the table: a waiting WAIT finds its condition met (R388). -/
def execSeqWaitMet (ctx : Nat) (s : State) : Host.Outcome State Fault Refusal := .next (if (s.ctx ctx).st = 2 then waitWord ctx s else s)

/-- A step of the table: SIG waits for older plain SENDs to be acknowledged, then writes VAL; at a domain address it completes on the acknowledgement
(R388). -/
def execSig (ctx : Nat) (s : State) : Host.Outcome State Fault Refusal :=
  .next (seqStep ctx (fun s c w => match w with
    | .sig q idx val =>
      if !c.staged.isEmpty then some (.ok s)
      else
        let a := c.flagAt q idx
        if a.toNat % 8 ≠ 0 then some (.error { reason := 7, detail := 0 })
        else if !isRemote a then
          some (match seqWrite s c 8 a ((bytesOf 8 val).map (fun b => (b, false))) with | .error e => .error e | .ok s => .ok (seqNext ctx s))
        else if remoteRefused s c.part a then some (.error { reason := 4, detail := 9 })
        else some (match agentRemote s (.context ctx) (ctxAwait ctx) (requestsOf s c.part false .run 8 [{ key := 0, addr := a, val := val, mask := 0 }]) with
          | .waiting s => .ok s
          | .answered s ans => if (answerTo ans 0).bad then .ok (seqFail ctx { reason := 4, detail := 0 } s) else .ok (seqNext ctx s))
    | _ => none) s)

/-- Jump `off` words from the present word. -/
def seqJump (k : Nat) (off : Int) (s : State) : State := let c := s.ctx k; s.setCtx k { c with pc := c.pc + BitVec.ofInt 64 (8 * off), st := 1 }

/-- A step of the table: LOOP (R388). -/
def execLoop (ctx : Nat) (s : State) : Host.Outcome State Fault Refusal :=
  .next (seqStep ctx (fun s c w => match w with
    | .loop l count off =>
      let (n, it) := ((c.loops.toList[l]?).getD none).getD (count, 0)
      let put (x : Option (Nat × Nat)) : State := s.setCtx ctx { c with loops := c.loops.mapIdx (fun i y => if i == l then x else y) }
      some (.ok (if n - 1 = 0 then seqNext ctx (put none) else seqJump ctx off (put (some (n - 1, it + 1)))))
    | _ => none) s)

/-- A step of the table: JUMP (R388). -/
def execJump (ctx : Nat) (s : State) : Host.Outcome State Fault Refusal :=
  .next (seqStep ctx (fun s _ w => match w with | .jump off => some (.ok (seqJump ctx off s)) | _ => none) s)

/-- A step of the table: END waits as SIG does, writes the completion flag and leaves the context idle (R388). -/
def execSeqEnd (ctx : Nat) (s : State) : Host.Outcome State Fault Refusal :=
  .next (seqStep ctx (fun s c w => match w with
    | .done =>
      if !c.staged.isEmpty then some (.ok (s.setCtx ctx { c with st := 3 }))
      else some (.ok (writeFlag (s.setCtx ctx { c with st := 0 }) c.space 14 (ctx / 16) c.flagAddr c.flagVal))
    | _ => none) s)

end Sys2Proof.Machine
end

