-- ==== Sys2Proof/Machine/Start.lean ====
section
/-! DEFINITION. Start, firmware trust, attestation and start status (R437 to R444). -/

namespace Sys2Proof.Machine

/-- The header fields of an image that precede its signature, which is over them (R440; log entry 22). -/
def headerBytes (i : FirmwareImage) : List Byte := Config.imageHeader i.magic i.version i.body.length i.digest

/-- Whether the boot ROM accepts an image (R440). -/
def Boot.accepts (b : Boot) (i : FirmwareImage) : Bool :=
  i.magic == 0x4B5A384D && i.digest == Config.shake256 i.body && i.signature.length ≤ 1462 && Config.falconVerifies b.keyDigest (headerBytes i) i.signature
    && b.minVersion ≤ i.version

/-- The image a start selects: the fallback after two failed starts in a row, else an update not yet tried twice, else the primary (R439, R441). -/
def Boot.selected (b : Boot) : Option FirmwareImage :=
  if b.cfail ≥ 2 then b.fallbackImg else match b.candidate with
    | some c => some c
    | none => b.primary

/-- Every partition stops as a reset without restart would stop it (R438, R434). -/
def stopPartitions (s : State) : State :=
  (List.range 8).foldl (fun s i =>
    let p := BitVec.ofNat 3 i
    let q := s.partn p
    if q.st == 0 && !q.en then s else endReset p (beginReset p (s.setPart p { q with en := false }))) s

/-- The registers whose reset is module start, at their reset values: power, RAS, partitions, contexts, fabric and row counters; farm and hart
state of the partitions is gone already (R306, R308, R355, R372, R409, R410, R422, R430, R438; log entry 64). -/
def resetBlocks (s : State) : State :=
  { s with
    power := Power.init, ras := Ras.init, parts := Vector.replicate 8 Part.init, ctxs := [], dram := Dram.init,
    fabric := { Fabric.init with coords := s.fabric.coords, dims := s.fabric.dims },
    engines := [], snaps := [], owed := [], awaits := [], posted := [], held := [] }

/-- Built-in test and HBM training: what the SRAMs and HBM held is gone; a second tier keeps its own contents (R437; log entry 65). -/
def testAndTrain (s : State) : State :=
  let keep (a : Nat) : Bool := match regionOf a with | .cxl _ => true | _ => false
  { s with
    cores := [], benches := [], l2 := [], upsets := [], mem := s.mem.filter (fun c => keep c.1), poison := s.poison.filter keep }

/-- Power comes on: volatile state is as after reset; flash, the fuses and the record of starts are kept (R426, R437; log entry 65). -/
def powerUp (s : State) : State :=
  { State.reset with
    agenda := s.agenda, policy := s.policy, tick := s.tick, fresh := s.fresh,
    life := { Lifetime.init with live := s.life.recovered, flash0 := s.life.flash0, flash1 := s.life.flash1 },
    boot := { s.boot with powered := true, starting := false } }

/-- Step 4: torus ports in a dimension of more than one module train as the report says, and the CXL ports (R354, R437). -/
def trainLinks (r : StartReport) (s : State) : State :=
  let size (q : Nat) : Nat := if q < 2 then r.dims.1 else if q < 4 then r.dims.2.1 else r.dims.2.2
  { s with
    fabric := { s.fabric with ports := Vector.ofFn (fun (q : Fin 6) => { Port.init with
      st := if r.torusUp.getLsbD q.val && size q.val > 1 then 1 else 0 }) },
    links := { s.links with cxlUp := r.cxlUp } }

/-- Step 6: the measurement registers are cleared and extended with the boot ROM, the firmware body's digest, and the fuses (R442; log entry 66). -/
def measureStart (r : StartReport) (i : FirmwareImage) (s : State) : State :=
  let s := { s with boot := { s.boot with measures := Vector.replicate 4 (List.replicate 64 0) } }
  extendMeasure 2 r.fuses (extendMeasure 1 i.digest (extendMeasure 0 r.bootRom s))

/-- A start fails: FAILF, the count of failures in a row, the lifetime entry, and the signal to the PF; a candidate that failed twice is dropped
(R425, R428, R438, R439, R441). -/
def failStart (s : State) : State :=
  let b := s.boot
  let tries := b.candidateFails + (if b.candidate.isSome && !b.fallback then 1 else 0)
  ({ s.count 0x0028 1 with boot := { b with
      starting := false, failf := true, cfail := min (b.cfail + 1) 2,
      candidate := if tries ≥ 2 then none else b.candidate, candidateFails := if tries ≥ 2 then 0 else tries } }).sendMsix 0 3

/-- The first step of a start that fails, if one does: those a warm start skips cannot, and step 5 judges the selected image (R437 to R440). -/
def failingStep (r : StartReport) (skip : Bool) (b : Boot) : Option Nat :=
  let told := r.failedStep.filter (fun k => 1 ≤ k && k ≤ 6 && !(skip && (k == 2 || k == 3)))
  if told.any (· ≤ 5) then told
  else match b.selected with
    | some i => if b.accepts i then told else some 5
    | none => some 5

/-- A start from its request: what every start stops and resets, then its steps in order as far as they succeed; firmware then runs (R437 to R439). -/
def beginStart (r : StartReport) (warm skip : Bool) (s : State) : State :=
  let s := (resetBlocks (stopPartitions s)).count 0x0010 1
  let b := s.boot
  let fb := b.cfail ≥ 2
  let s := if fb then s.count 0x0030 1 else s
  let s := { s with boot := { b with
    starting := true, startedAt := s.time, warm := warm, fallback := fb, failfAtStart := b.failf, cfailAtStart := b.cfail, measures := Vector.replicate 4 (List.replicate 64 0),
    mailStatus := 0, mailBusy := false, nonce := [], quote := [] } }
  let bad := failingStep r skip b
  let reached (k : Nat) : Bool := bad.all (k < ·)
  let s := if !skip && reached 1 then testAndTrain s else s
  let s := if reached 4 then trainLinks r s else s
  match bad, b.selected with
  | none, some i =>
    let s := measureStart r i s
    { s with
      boot := { s.boot with refMode := r.refMode, monitorEntry := r.monitorEntry },
      fabric := { s.fabric with coords := r.coords, dims := r.dims } }
  | _, _ => failStart s

/-- A step of the table: power-on or a cold-start request (R437). -/
def execColdStart (r : StartReport) (s : State) : Host.Outcome State Fault Refusal :=
  .next (beginStart r false false (if s.boot.powered then s else powerUp s))

/-- A step of the table: a warm-start request; steps 2 and 3 run when FAILF is set or the stored HBM parameters fail their check (R438). -/
def execWarmStart (r : StartReport) (paramsGood : Bool) (s : State) : Host.Outcome State Fault Refusal :=
  .next (if s.boot.powered then beginStart r true (paramsGood && !s.boot.failf) s else s)

/-- Whether a start has waited 30 s for its firmware (R439). -/
def Boot.overdue (b : Boot) (now : Word) : Bool := b.starting && (now - b.startedAt).toNat ≥ 30_000_000_000

/-- A step of the table: 30 s have passed since the request and firmware has not reported ready (R439). -/
def execStartTimeout (s : State) : Host.Outcome State Fault Refusal := .next (if s.boot.overdue s.time then failStart s else s)

/-- A start succeeds: counts and flags are cleared, a verified update becomes primary, the minimum version may rise (R425, R438 to R441). -/
def succeedStart (s : State) : State :=
  let b := s.boot
  let s := s.count (if b.warm then 0x0020 else 0x0018) 1
  let ran := if b.fallback then b.fallbackImg else match b.candidate with | some c => some c | none => b.primary
  let promoted := !b.fallback && b.candidate.isSome
  let raised := match ran with
    | some i => if Config.raisesMinimum (headerBytes i) && b.minVersion ≤ i.version then i.version else b.minVersion
    | none => b.minVersion
  { s with boot := { b with
    starting := false, failf := false, cfail := 0, minVersion := raised,
    primary := if promoted then b.candidate else b.primary, candidate := if promoted then none else b.candidate,
    candidateFails := if promoted then 0 else b.candidateFails } }

/-- A step of the table: the firmware reports ready (R439). -/
def execFirmwareReady (s : State) : Host.Outcome State Fault Refusal := .next (if s.boot.starting then succeedStart s else s)

/-- A step of the table: an update writes the image that is not running; the running one is what a failed update falls back to (R441; log entry 67). -/
def execFirmwareUpdate (img : FirmwareImage) (s : State) : Host.Outcome State Fault Refusal :=
  .next (
    let b := s.boot
    let running := if b.fallback then b.fallbackImg else b.primary
    { s with boot := { b with primary := running, fallbackImg := running, candidate := some img, candidateFails := 0 } })

/-- A step of the table: start status over the management link (R444). -/
def execStartStatusRead (s : State) : Host.Outcome State Fault Refusal := .next (answerWord (BitVec.ofNat 64 (bootStatus s.boot)) s)

/-- A step of the table: a nonce and a quote request; one made while another is pending is refused with status 1 (R443). -/
def execQuoteRequest (nonce : List Byte) (s : State) : Host.Outcome State Fault Refusal :=
  .next { s with boot :=
    if s.boot.mailBusy then { s.boot with mailStatus := 1 } else { s.boot with mailBusy := true, mailStatus := 0, nonce := nonce } }

/-- The device answers a pending quote request: M0 to M3, the nonce, and the signature over them (R443). -/
def answerQuote (s : State) : State :=
  let b := s.boot
  if !b.mailBusy then s
  else
    let said := b.measures.toList.flatten ++ b.nonce
    { s with boot := { b with mailBusy := false, quote := said ++ Config.falconSign said } }

end Sys2Proof.Machine
end

