-- ==== Sys2Proof/Machine/Window.lean ====
section
/-! DEFINITION. The queues, the renaming, the micro-operation window and the lane clusters of a core (R282, R285 to R291, R400, R404), and the front end's turn
of a hart (R74, R281). None of it changes an architectural value: an instruction's results are written when it executes (log entry 5). -/

namespace Sys2Proof.Machine

/-! ## What an instruction posts (R282, R286, R290) -/

/-- What an instruction leaves in its hart's queues: whether in the vector queue, or in the access queue, or as a matrix instruction's rename token; whether it is a
lane barrier; the element width of its wider side; what it reads and writes; and the physical registers it takes (R285). -/
structure Posting where
  vector : Bool := true
  access : Bool := false
  token : Bool := false
  barrier : Bool := false
  wide : Nat
  srcs : List UopRegs := []
  dsts : List UopRegs := []
  takes : Nat := 0
  deriving DecidableEq, Repr

/-- The registers of an operand under an element width; companions are final with the whole operand. A mask register m is number 32 + m. -/
def uopRegs (o : Opnd) (w : Nat) : List UopRegs :=
  { base := o.base, regs := o.n, width := w } :: (if o.comp = 0 then [] else [{ base := o.base + o.n, regs := o.comp, width := 0 }])

/-- A mask register as an operand. -/
def maskRegs (m : MaskField) : List UopRegs := if m = 0 then [] else [{ base := 32 + m.toNat, regs := 1, width := 1 }]

/-- Whether reading an operand under a width takes a relayout copy (R16, R290). -/
def relaid (h : Hart) (o : Opnd) (w : Nat) : Bool := (List.range o.n).any (fun i => elemWidth (h.srcTag (o.base + i)) != w)

/-- The posting of an instruction that reads operands under a width and writes one under another, under a mask: inactive elements of the destination come from its old
mapping (R285, R291). -/
def vecPosting (h : Hart) (srcs : List (Opnd × Nat)) (dst : Option (Opnd × Nat)) (m : MaskField) : Posting :=
  let d := match dst with | some (o, w) => uopRegs o w | none => []
  { barrier := srcs.any (fun p => relaid h p.1 p.2)
    wide := (srcs.map Prod.snd ++ dst.toList.map Prod.snd).foldl max 1
    srcs := srcs.flatMap (fun p => uopRegs p.1 p.2) ++ maskRegs m ++ (if m = 0 then [] else d)
    dsts := d
    takes := match dst with | some (o, _) => o.n + o.comp | none => 0 }

/-- An operand of the current format, and its width. -/
def fmtOpnd (h : Hart) (r : Reg) : Opnd × Nat := (typeOpnd h r.toNat true true, elemWidth h.fmt)

/-- An index operand, and the width of its tag. -/
def indexSrc (h : Hart) (r : Reg) : Opnd × Nat := (indexOpnd h r.toNat, elemWidth (h.srcTag r.toNat))

/-- Element-wise work on the current format: sources a, and b unless it is an x register. -/
def plainPosting (h : Hart) (vd a b : Reg) (m : MaskField) (vx : Bool) : Posting :=
  vecPosting h (fmtOpnd h a :: (if vx then [] else [fmtOpnd h b])) (some (fmtOpnd h vd)) m

/-- The same of a multiply-add, which reads vd too. -/
def fmaPosting (h : Hart) (vd a b : Reg) (m : MaskField) (vx : Bool) : Posting :=
  vecPosting h (fmtOpnd h a :: fmtOpnd h vd :: (if vx then [] else [fmtOpnd h b])) (some (fmtOpnd h vd)) m

/-- A compare, whose result is a mask. -/
def comparePosting (h : Hart) (md a b : Reg) (m : MaskField) : Posting :=
  { vecPosting h [fmtOpnd h a, fmtOpnd h b] none m with dsts := [{ base := 32 + md.toNat, regs := 1, width := 1 }] }

/-- A conversion: its source stands under its own tag; one with a block side is a lane barrier (R160, R172, R290). -/
def convPosting (h : Hart) (vd a : Reg) (m : MaskField) (barrier : Bool) : Posting :=
  let t := h.srcTag a.toNat
  let p := vecPosting h [(convSrc h a.toNat, elemWidth t)] (some (fmtOpnd h vd)) m
  { p with barrier := barrier || isBlock t || isBlock h.fmt }

/-- A reduction: a lane barrier whose result is final when it ends (R290). -/
def redPosting (h : Hart) (vd a b : Reg) (m : MaskField) (vx : Bool) : Posting :=
  let one (r : Reg) : UopRegs := { base := r.toNat, regs := 1, width := 0 }
  { vecPosting h [fmtOpnd h a] none m with
    barrier := true, dsts := [one vd], takes := 1,
    srcs := (vecPosting h [fmtOpnd h a] none m).srcs ++ (if vx then [one vd] else [one vd, one b]) }

/-- A vector load or gather, a store or scatter: `ix` its index. -/
def loadPosting (h : Hart) (vd : Reg) (ix : Option Reg) (m : MaskField) : Posting :=
  { vecPosting h (ix.toList.map (indexSrc h)) (some (fmtOpnd h vd)) m with access := true, barrier := false }
def storePosting (h : Hart) (vs : Reg) (ix : Option Reg) (m : MaskField) : Posting :=
  { vecPosting h (fmtOpnd h vs :: ix.toList.map (indexSrc h)) none m with access := true }

/-- A lane barrier with the shape of another posting. -/
def asBarrier (p : Posting) : Posting := { p with barrier := true }

/-- Mask logic: masks read, and a mask written if any (R172). -/
def maskPosting (srcs : List Reg) (dst : Option Reg) (barrier : Bool) : Posting :=
  let r (m : Reg) : UopRegs := { base := 32 + m.toNat, regs := 1, width := 1 }
  { barrier := barrier, wide := 1, srcs := srcs.map r, dsts := dst.toList.map r }

/-- What a matrix instruction's token maps. -/
def tokenPosting (srcs dsts : List Opnd) : Posting :=
  { token := true, wide := 1, srcs := srcs.flatMap (fun o => uopRegs o 0), dsts := dsts.flatMap (fun o => uopRegs o 0),
    takes := dsts.foldl (fun n o => n + o.n + o.comp) 0 }

/-- What an instruction of a hart leaves in its queues, if anything (R282). -/
def postingOf (i : Instr) (h : Hart) : Option Posting :=
  match i with
  | .vld vd _ _ m _ _ _ | .vlds vd _ _ m _ _ _ | .vldseg vd _ _ m _ _ _ => some (loadPosting h vd none m)
  | .vldx vd _ b m _ _ _ | .vgathx vd _ b m _ _ _ => some (loadPosting h vd (some b) m)
  | .vst vs _ _ m _ _ | .vsts vs _ _ m _ _ | .vstseg vs _ _ m _ _ | .vsend vs _ m _ _ => some (storePosting h vs none m)
  | .vstx vs _ b m _ _ | .vscatx vs _ b m _ _ => some (storePosting h vs (some b) m)
  | .vamo vd _ b m _ => some { vecPosting h [indexSrc h b, fmtOpnd h vd] (some (fmtOpnd h vd)) m with access := true }
  | .mld md _ => some { maskPosting [] (some md) false with access := true }
  | .mst ms _ => some { maskPosting [ms] none false with access := true }
  | .vbind .. | .vunbind .. => some { vector := false, access := true, wide := 1 }
  | .vmv vd a m => some (vecPosting h [fmtOpnd h a] (some (fmtOpnd h vd)) m)
  | .vmvr vd a _ m _ => some (vecPosting h [fmtOpnd h a] (some (fmtOpnd h vd)) m)
  | .vmvc vd a _ m _ => some (asBarrier (vecPosting h [fmtOpnd h a] (some (fmtOpnd h vd)) m))
  | .vsplat vd _ m | .vid vd _ m => some (vecPosting h [] (some (fmtOpnd h vd)) m)
  | .viota vd a m => some (asBarrier { vecPosting h [] (some (fmtOpnd h vd)) m with
      srcs := (maskPosting [a] none true).srcs ++ (vecPosting h [] (some (fmtOpnd h vd)) m).srcs })
  | .vext _ a _ _ => some (asBarrier (vecPosting h [fmtOpnd h a] none 0))
  | .vretag vd => some (asBarrier (vecPosting h [fmtOpnd h vd] (some (fmtOpnd h vd)) 0))
  | .vrelease vd _ => some (vecPosting h [] (some (fmtOpnd h vd)) 0)
  | .vslideup vd a _ m | .vslidedn vd a _ m => some (asBarrier (vecPosting h [fmtOpnd h a, fmtOpnd h vd] (some (fmtOpnd h vd)) m))
  | .vperm vd a b m => some (asBarrier (vecPosting h [fmtOpnd h a, indexSrc h b] (some (fmtOpnd h vd)) m))
  | .vcompress vd a m => some (asBarrier (vecPosting h [fmtOpnd h a] (some (fmtOpnd h vd)) m))
  | .mand md a b | .mor md a b | .mxor md a b | .mandn md a b => some (maskPosting [a, b] (some md) false)
  | .mnot md a | .mmv md a => some (maskPosting [a] (some md) false)
  | .mshl md a _ _ | .mshr md a _ _ => some (maskPosting [a] (some md) true)
  | .mpopc _ a m | .mfirst _ a m | .mlast _ a m => some { maskPosting [a] none true with srcs := (maskPosting [a] none true).srcs ++ maskRegs m }
  | .mset md | .mclr md => some (maskPosting [] (some md) false)
  | .vcmd md a m => some (asBarrier { vecPosting h [fmtOpnd h a] none m with dsts := (maskPosting [] (some md) true).dsts })
  | .vadd vd a b m _ _ vx | .vsub vd a b m _ _ vx | .vmul vd a b m _ _ vx | .vmulh vd a b m _ _ vx | .vdiv vd a b m _ _ vx | .vrem vd a b m _ _ vx
  | .vmin vd a b m _ _ vx | .vmax vd a b m _ _ vx => some (plainPosting h vd a b m vx)
  | .vand vd a b m _ vx | .vor vd a b m _ vx | .vxor vd a b m _ vx | .vsll vd a b m _ vx | .vsrl vd a b m _ vx | .vsra vd a b m _ vx
  | .vfadd vd a b m _ vx | .vfsub vd a b m _ vx | .vfmul vd a b m _ vx | .vfdiv vd a b m _ vx | .vfmin vd a b m _ vx | .vfmax vd a b m _ vx
  | .vqscale vd a b m _ vx => some (plainPosting h vd a b m vx)
  | .vadc vd a b c _ co vx | .vsbc vd a b c _ co vx =>
    let p := plainPosting h vd a b 0 vx
    some { p with srcs := p.srcs ++ maskRegs c, dsts := p.dsts ++ (if co then maskRegs c else []) }
  | .vmerge vd a b m _ vx => some { plainPosting h vd a b 0 vx with srcs := (plainPosting h vd a b 0 vx).srcs ++ maskRegs m }
  | .vcmp md a b m _ | .vfcmp md a b m _ => some (comparePosting h md a b m)
  | .vabs vd a m _ _ | .vfsqrt vd a m _ | .vfclass vd a m _ | .vfexp vd a m _ | .vflog vd a m _ | .vfrcp vd a m _ | .vfrsq vd a m _ | .vftanh vd a m _ =>
    some (vecPosting h [fmtOpnd h a] (some (fmtOpnd h vd)) m)
  | .vfma vd a b m _ vx | .vfms vd a b m _ vx | .vfnma vd a b m _ vx => some (fmaPosting h vd a b m vx)
  | .vcvt vd a _ m _ _ | .vcvti vd a _ m _ _ => some (convPosting h vd a m false)
  | .vcvtf4 vd a _ m _ => some (convPosting h vd a m true)
  | .vredos vd a b m _ vx | .vredsum vd a b m _ vx | .vredand vd a b m _ vx | .vredor vd a b m _ vx | .vredxor vd a b m _ vx => some (redPosting h vd a b m vx)
  | .vredmax vd a b m _ _ vx | .vredmin vd a b m _ _ vx => some (redPosting h vd a b m vx)
  | .macc _ va vb bs _ _ ga gb fA _ _ _ =>
    some (tokenPosting ({ base := va.toNat, n := 2 ^ ga.toNat, comp := compCount fA.toNat, src := true, dst := false }
      :: (if bs then [{ base := vb.toNat, n := 2 ^ gb.toNat, comp := 0, src := true, dst := false }] else [])) [])
  | .maccs _ va vb bs _ _ ga gb fA _ _ _ vm =>
    some (tokenPosting ({ base := va.toNat, n := 2 ^ ga.toNat, comp := compCount fA.toNat, src := true, dst := false }
      :: { base := vm.toNat, n := metaRegs h, comp := 0, src := true, dst := false }
      :: (if bs then [{ base := vb.toNat, n := 2 ^ gb.toNat, comp := 0, src := true, dst := false }] else [])) [])
  | .mdrain _ vd gd _ _ _ _ f _ _ => some (tokenPosting [] [{ base := vd.toNat, n := 2 ^ gd.toNat, comp := compCount f.toNat, src := false, dst := true }])
  | _ => none

/-! ## The queues and renaming (R282, R285, R286) -/

/-- A value of a cluster's row. -/
def clusterGet {α : Type} (d : α) (v : Vector α 8) (c : Nat) : α := (v[c]?).getD d

/-- The groups that every cluster has done of a sequence. -/
def Uops.slowest (u : Uops) : Nat := u.next.toList.foldl min u.groups

/-- Whether an entry is still in its queue: not yet renamed, or with micro-operations outside the window. -/
def Uops.queued (u : Uops) : Bool := !u.renamed || u.entered < u.groups

/-- A binding of a stream, which stands in the access queue alone. -/
def Uops.isBind (u : Uops) : Bool := u.access && u.groups == 0

/-- Whether an entry is done in every cluster. -/
def Uops.done (u : Uops) : Bool := u.renamed && !u.token && u.slowest ≥ u.groups

/-- The entries of a slot. -/
def slotWork (w : List Uops) (k : Nat) : List Uops := w.filter (fun u => u.slotNo == k)

/-- Micro-operations of a slot in the window. -/
def slotUops (w : List Uops) (k : Nat) : Nat := (slotWork w k).foldl (fun n u => n + (u.entered - u.slowest)) 0

/-- Room for a slot in the window of 128: every other hart with queued vector work is left 8 entries (R286). -/
def windowRoom (w : List Uops) (k : Nat) : Nat :=
  128 - slotUops w k - (([0, 1, 2, 3].filter (fun j => j != k && !(slotWork w j).isEmpty)).foldl (fun n j => n + max 8 (slotUops w j)) 0)

/-- Physical registers of a slot that its 32 mappings leave free (R285). -/
def freeRegs (w : List Uops) (k : Nat) : Nat := 8 - ((slotWork w k).filter (·.renamed)).foldl (fun n u => n + u.takes) 0

/-- Entry `i` goes on: in its queue's order it is renamed, once the registers it takes are free, and its micro-operations enter the window as there is room. One that
takes more than the eight registers that can be free waits for all of them (DEDUCED, log entry 93). -/
def enterEntry (w : List Uops) (i : Nat) : List Uops :=
  match w[i]? with
  | none => w
  | some u =>
    let put (v : Uops) : List Uops := w.mapIdx (fun j x => if j == i then v else x)
    let older := slotWork (w.take i) u.slotNo
    if !u.queued then w
    else if u.isBind then (if older.any (fun o => o.access && o.queued) then w else put { u with renamed := true })
    else if older.any (fun o => o.queued && !o.isBind) then w
    else if !u.renamed && freeRegs w u.slotNo < min 8 u.takes then w
    else put { u with renamed := true, entered := u.entered + min (u.groups - u.entered) (windowRoom w u.slotNo) }

/-- Every entry goes on as it can. -/
def enterAll (w : List Uops) : List Uops := (List.range w.length).foldl enterEntry w

/-! ## Issue (R287 to R291, R400) -/

/-- Where operands begin, in bits. -/
def UopRegs.start (r : UopRegs) (perReg : Nat) : Nat := if r.base ≥ 32 then r.base * 2 ^ 24 else r.base * (perReg * 4096)
/-- Where operands end, in bits. -/
def UopRegs.stop (r : UopRegs) (perReg : Nat) : Nat := if r.base ≥ 32 then (r.base + r.regs) * 2 ^ 24 else (r.base + r.regs) * (perReg * 4096)

/-- Elements that one micro-operation covers. -/
def Uops.perGroup (u : Uops) : Nat := 4096 / u.wide

/-- The bits that group `g` reads of an operand; all of one whose width is 0. -/
def Uops.reads (u : Uops) (g : Nat) (r : UopRegs) : Nat × Nat :=
  if r.width = 0 then (r.start u.perReg, r.stop u.perReg)
  else (r.start u.perReg + g * u.perGroup * r.width, min (r.stop u.perReg) (r.start u.perReg + (g + 1) * u.perGroup * r.width))

/-- How many groups of a producer must be complete before bits of one of its destinations may be read (R288). -/
def Uops.needs (p : Uops) (d : UopRegs) (bits : Nat × Nat) : Nat :=
  let lo := d.start p.perReg
  let hi := min bits.2 (d.stop p.perReg)
  if bits.1 ≥ hi || bits.2 ≤ lo then 0
  else if d.width = 0 || p.token then p.groups + (if p.token then 1 else 0)
  else min p.groups ((hi - 1 - lo) / (p.perGroup * d.width) + 1)

/-- Whether cluster `c` has completed what group `g` of `u` reads from producer `p` (R288). -/
def Uops.supplies (p u : Uops) (g c : Nat) : Bool := u.srcs.all (fun r => p.dsts.all (fun d => p.needs d (u.reads g r) ≤ clusterGet 0 p.next c))

/-- Whether the stagger lets cluster `c` issue its next group: instructions of more than 64 groups start and end with it. Under a slip limit of 0 the clusters go
in lockstep, which decides (R289, R400). -/
def Uops.unstaggered (u : Uops) (c now : Nat) : Bool :=
  let g := clusterGet 0 u.next c
  if u.groups ≤ 64 || u.skew = 0 || u.slip = 0 || c = 0 then true
  else
    (g != 0 || (match u.start with | none => false | some (t, ramp) => !ramp || t + c * u.skew ≤ now))
      && (g + 1 != u.groups || (match u.finish with | some (t, some ramp) => !ramp || t + c * u.skew ≤ now | _ => false))

/-- Whether entry `i` has a micro-operation ready for cluster `c` (R287, R288, R290, R400). -/
def readyUop (w : List Uops) (i c now : Nat) : Bool :=
  match w[i]? with
  | none => false
  | some u =>
    let g := clusterGet 0 u.next c
    let older := slotWork (w.take i) u.slotNo
    g < u.entered && u.unstaggered c now && older.all (fun p => p.supplies u g c) && (!u.barrier || g != 0 || older.all (fun p => p.done || p.groups == 0))

/-- What a cluster would issue: the first slot in cyclic order after the last it served that has a ready micro-operation, the oldest there (R287). -/
def pickUop (w : List Uops) (last c now : Nat) (barred : List (Nat × Nat)) : Option Nat :=
  ((List.range 4).map (fun i => (last + 1 + i) % 4)).findSome? (fun k =>
    (List.range w.length).find? (fun i => (w[i]?).any (fun u => u.slotNo == k) && !barred.contains (c, i) && readyUop w i c now))

/-- Whether a micro-operation has an element below VL in a cluster's lanes (R18, R404). -/
def Uops.occupies (u : Uops) (c : Nat) : Bool := clusterGet 0 u.next c * u.perGroup + 8 * c < u.vl

/-- Whether a cluster's datapath is gated: it has been idle for 256 cycles (R404). -/
def Cluster.asleep (c : Cluster) : Bool := c.gated || c.idle ≥ 256

/-- What each cluster issues, with what a gated one would have to wake for left out. -/
def issues (k : Core) (barred : List (Nat × Nat)) : List (Option Nat) :=
  (List.range 8).map (fun c =>
    let cl := clusterGet Cluster.init k.clusters c
    match pickUop k.window cl.lastSlot c k.cycle barred with
    | none => none
    | some i => if cl.asleep && (k.window[i]?).any (fun u => u.occupies c) then none else some i)

/-- The picks by which a cluster would go further ahead of its hart's slowest cluster than the slip limit (R289). -/
def overSlip (w : List Uops) (picks : List (Option Nat)) : List (Nat × Nat) :=
  let slotOf (i : Nat) : Option Nat := (w[i]?).map (·.slotNo)
  let place (k d : Nat) : Nat := (slotWork w k).foldl (fun n u => n + clusterGet 0 u.next d) 0
    + (match picks[d]? with | some (some j) => if slotOf j == some k then 1 else 0 | _ => 0)
  (List.range 8).filterMap (fun c => match picks[c]? with
    | some (some i) => match w[i]? with
      | some u => if (List.range 8).any (fun d => place u.slotNo c > place u.slotNo d + u.slip) then some (c, i) else none
      | none => none
    | _ => none)

/-- The picks of a cycle, without those the slip limit bars. -/
def settlePicks (k : Core) : Nat → List (Nat × Nat) → List (Option Nat)
  | 0, _ => List.replicate 8 none
  | n + 1, barred =>
    match overSlip k.window (issues k barred) with
    | [] => issues k barred
    | more => settlePicks k n (barred ++ more)

/-- An entry after a cycle's picks; what cluster 0 does sets the edges of the stagger (R400). -/
def Uops.issue (u : Uops) (i : Nat) (picks : List (Option Nat)) (now : Nat) (busy : Bool) : Uops :=
  let mine (c : Nat) : Bool := picks[c]? == some (some i)
  let g := clusterGet 0 u.next 0
  { u with
    next := u.next.mapIdx (fun c n => if mine c then n + 1 else n),
    start := if mine 0 && g = 0 then some (now, !busy) else u.start,
    finish := if mine 0 && g + 1 = u.groups then some (now, none) else u.finish }

/-- A cluster after a cycle: one that issues for elements below VL is busy, one that has a micro-operation to wake for begins to wake (R404). -/
def Cluster.after (cl : Cluster) (c : Nat) (k : Core) (pick : Option Nat) : Cluster :=
  match pick with
  | some i => match k.window[i]? with
    | some u => { cl with lastSlot := u.slotNo, issued := true, idle := if u.occupies c then 0 else cl.idle + 1 }
    | none => { cl with issued := false, idle := cl.idle + 1 }
  | none =>
    let wants := cl.asleep && (pickUop k.window cl.lastSlot c k.cycle []).isSome
    { cl with issued := false, idle := cl.idle + 1, wakeAt := if wants && cl.wakeAt.isNone then some (k.cycle + 20) else cl.wakeAt }

/-- A cluster that has been idle for 256 cycles is gated; one that has taken its 20 cycles to wake is not (R404). -/
def Cluster.settle (cl : Cluster) (now : Nat) : Cluster :=
  match cl.wakeAt with
  | some t => if t ≤ now then { cl with gated := false, wakeAt := none, idle := 0 } else cl
  | none => if cl.idle ≥ 256 then { cl with gated := true } else cl

/-- Entries that are done leave, once no older reader of the registers they replace remains (R285). -/
def retire (w : List Uops) : List Uops :=
  (w.zipIdx.filter (fun p =>
    let older := slotWork (w.take p.2) p.1.slotNo
    let read := older.any (fun o => !o.done && p.1.takes != 0 && o.srcs.any (fun r => p.1.dsts.any (fun d =>
      r.start o.perReg < d.stop p.1.perReg && d.start p.1.perReg < r.stop o.perReg)))
    !(p.1.done && !read))).map Prod.fst

/-- One cycle of a core's vector unit (R286 to R291, R400, R404). `live` tells which matrix tokens still stand, `empty` that no hart is resident. -/
def coreCycle (live : Nat → Bool) (empty : Bool) (k0 : Core) : Core :=
  let w := enterAll (k0.window.filter (fun u => !u.token || live u.slotNo))
  let ready0 := (pickUop w (clusterGet Cluster.init k0.clusters 0).lastSlot 0 k0.cycle []).isSome
  let edge (u : Uops) : Uops := match u.finish with
    | some (t, none) => { u with finish := some (t, some !ready0) }
    | _ => u
  let k := { k0 with window := w.map edge, clusters := k0.clusters.map (fun c => c.settle k0.cycle) }
  let picks := settlePicks k (8 * w.length + 1) []
  let busy := (clusterGet Cluster.init k.clusters 0).issued
  let cs := k.clusters.mapIdx (fun c cl => cl.after c k (picks[c]?).join)
  { k with
    window := retire (k.window.mapIdx (fun i u => u.issue i picks k.cycle busy)),
    clusters := cs, cycle := k.cycle + 1, unitGated := empty && cs.toList.all Cluster.asleep }

/-- Whether a slot's hart waits for a matrix instruction of its own. -/
def tokenLive (s : State) (core slot : Nat) : Bool := s.harts.any (fun h => h.id == hartIdOf core slot && h.run == .asleep .matrix)

/-- Some cycles of a core's lane clusters. -/
def runCycles (core : Nat) : Nat → State → State
  | 0, s => s
  | n + 1, s =>
    let t := runCycles core n s
    t.setCore core (coreCycle (tokenLive t core) (coreCount t core == 0) (t.core core))

/-- A step of the table: a core's lane clusters issue for some cycles (R287 to R291, R400). -/
def execMicroopIssue (core cycles : Nat) (s : State) : Host.Outcome State Fault Refusal := .next (runCycles core cycles s)

/-- Change one lane cluster of a core. -/
def updCluster (core cluster : Nat) (f : Nat → Cluster → Cluster) (s : State) : State :=
  let k := s.core core
  s.setCore core { k with clusters := k.clusters.mapIdx (fun i y => if i == cluster then f k.cycle y else y) }

/-- A step of the table: a lane cluster idle for 256 cycles is gated (R404). -/
def execClusterGate (core cluster : Nat) (s : State) : Host.Outcome State Fault Refusal :=
  .next (updCluster core cluster (fun _ c => if c.idle ≥ 256 then { c with gated := true } else c) s)

/-- A step of the table: a gated cluster has woken (R404). -/
def execClusterWake (core cluster : Nat) (s : State) : Host.Outcome State Fault Refusal :=
  .next (updCluster core cluster (fun now c => if c.wakeAt.any (· ≤ now) then { c with gated := false, wakeAt := none, idle := 0 } else c) s)

/-! ## The front end's turn (R74, R281, R282) -/

/-- Whether the queues an instruction needs have room: 64 vector entries and 32 access entries for each hart (R281, R282). -/
def queueRoom (i : Instr) (s : State) : Bool :=
  match postingOf i s.hart with
  | none => true
  | some p =>
    let mine := (slotWork (s.core (coreOf s.hart.id)).window (s.hart.id.extractLsb' 0 2).toNat).filter (·.queued)
    (!p.vector || (mine.filter (fun u => !u.isBind)).length < 64) && (!p.access || (mine.filter (·.access)).length < 32)

/-- The entry that a posting makes: micro-operations for every element group of the wider side, one at least (R286); the slip limit and the stagger as they stood
when it was posted (R289, R400). -/
def Posting.entry (p : Posting) (h : Hart) : Uops :=
  { slotNo := (h.id.extractLsb' 0 2).toNat, groups := if p.token || !p.vector then 0 else max 1 (cdiv (h.vlg * p.wide) 4096), entered := 0, renamed := false,
    takes := p.takes, access := p.access, barrier := p.barrier, token := p.token, vl := h.vlg, wide := p.wide, srcs := p.srcs, dsts := p.dsts,
    perReg := h.capBits / 4096, slip := h.lslip.toNat, skew := h.skew.toNat, start := none, finish := none, next := Vector.replicate 8 0 }

/-- Put an entry last in a core's queues. -/
def postEntry (core : Nat) (u : Uops) (s : State) : State := s.setCore core { s.core core with window := (s.core core).window ++ [u] }

/-- After an instruction: what it posted stands in the queues, if it has completed; a matrix instruction that waits has its token there (R282). Where the machine posts
nothing apart, nothing stands there (log entry 5). -/
def postWork (i : Instr) (before : State) (s : State) : State :=
  if !s.policy.postUops || s.hart.id != before.hart.id || !s.hart.present then s
  else match postingOf i before.hart with
    | none => s
    | some p =>
      let c := coreOf s.hart.id
      let u := p.entry before.hart
      if p.token then
        (if s.hart.run == .asleep .matrix && !(s.core c).window.any (fun x => x.token && x.slotNo == u.slotNo) then postEntry c u s else s)
      else if s.hart.instret != before.hart.instret then postEntry c u s
      else s

/-- Instructions that touch x registers and the PC alone (R98 to R100, R106 to R109, R204). -/
def frontOnly (i : Instr) : Bool :=
  match i with
  | .add .. | .sub .. | .and .. | .or .. | .xor .. | .andn .. | .sll .. | .srl .. | .sra .. | .rotl .. | .slt .. | .sltu .. | .min .. | .max .. | .minu .. | .maxu ..
  | .mul .. | .mulh .. | .mulhu .. | .clz .. | .ctz .. | .popc .. | .csel .. | .bswap .. | .addi .. | .andi .. | .ori .. | .xori .. | .slti .. | .sltiu ..
  | .slli .. | .srli .. | .srai .. | .lih .. | .li64 .. | .pcadd .. | .beq .. | .bne .. | .blt .. | .bge .. | .bltu .. | .bgeu .. | .jmpl .. | .jmpr .. | .nop
  | .cAddi .. | .cLi .. | .cMv .. | .cAdd .. | .cSub .. | .cAnd .. | .cSlli .. | .cSrli .. | .cJ .. | .cBeqz .. | .cBnez .. | .cNop => true
  | _ => false

/-- The address and width of a scalar load of a 32-bit form. -/
def loadPlace (h : Hart) (i : Instr) : Option (Word × Nat) :=
  match i with
  | .lb _ a o | .lbu _ a o => some (h.getX a + o.signExtend 64, 1)
  | .lh _ a o | .lhu _ a o => some (h.getX a + o.signExtend 64, 2)
  | .lw _ a o | .lwu _ a o => some (h.getX a + o.signExtend 64, 4)
  | .ld _ a o => some (h.getX a + o.signExtend 64, 8)
  | _ => none

/-- Whether an instruction may run while an older store over path F of its hart could still trap: it can neither trap nor take effect outside the hart, and is
undone with the hart's registers (R250, R256, R283). -/
def goesPast (i : Instr) (s : State) : Bool :=
  !s.hart.stepping && s.hart.trapowe == 0
    && (frontOnly i || (match loadPlace s.hart i with
      | some (a, n) => isRemote a && a.toNat % n == 0 && !remoteRefused s s.hart.partid a
      | none => false))

/-- Whether the front end holds an instruction back for older stores over path F: while one could fail, all but what `goesPast` names, and at the end of a hart
until each is acknowledged (R257, R283). -/
def heldForStores (i : Option Instr) (s : State) : Bool :=
  match i with
  | none => unsettled s
  | some i => (unsettled s && !goesPast i s)
      || (!(postedHere s).isEmpty && (match i with | .halt | .strip .. | .cStrip .. => true | _ => false))

/-- The current hart's turn: the instruction the front end has for it runs if its queues have room, is kept if it waits, and posts its work (R74, R281, R282). -/
def runFront (ex : Instr → State → Host.Outcome State Fault Refusal) (s : State) : Host.Outcome State Fault Refusal :=
  match fetchNext s with
  | .trap t => .next (if heldForStores none s then stall s else t)
  | .instr i s =>
    if heldForStores (some i) s then .next (keepInstance i (stall s))
    else if s.policy.postUops && !queueRoom i s then .next (keepInstance i (stall s))
    else match ex i s with
      | .next t => .next (keepInstance i (postWork i s t))
      | .fault f => .fault f
      | .refused r => .refused r

end Sys2Proof.Machine
end

