-- ==== Sys2Proof/Machine/Dispatch.lean ====
section
/-! DEFINITION. What each instruction and each step of the machine does: one arm for each row of the opcode table. -/

namespace Sys2Proof.Machine

def exec (i : Instr) (s : State) : Host.Outcome State Fault Refusal :=
  match i with
  | .add d a b => Sys2Proof.Machine.execAdd d a b s
  | .sub d a b => Sys2Proof.Machine.execSub d a b s
  | .and d a b => Sys2Proof.Machine.execAnd d a b s
  | .or d a b => Sys2Proof.Machine.execOr d a b s
  | .xor d a b => Sys2Proof.Machine.execXor d a b s
  | .andn d a b => Sys2Proof.Machine.execAndn d a b s
  | .sll d a b => Sys2Proof.Machine.execSll d a b s
  | .srl d a b => Sys2Proof.Machine.execSrl d a b s
  | .sra d a b => Sys2Proof.Machine.execSra d a b s
  | .rotl d a b => Sys2Proof.Machine.execRotl d a b s
  | .slt d a b => Sys2Proof.Machine.execSlt d a b s
  | .sltu d a b => Sys2Proof.Machine.execSltu d a b s
  | .min d a b => Sys2Proof.Machine.execMin d a b s
  | .max d a b => Sys2Proof.Machine.execMax d a b s
  | .minu d a b => Sys2Proof.Machine.execMinu d a b s
  | .maxu d a b => Sys2Proof.Machine.execMaxu d a b s
  | .mul d a b => Sys2Proof.Machine.execMul d a b s
  | .mulh d a b => Sys2Proof.Machine.execMulh d a b s
  | .mulhu d a b => Sys2Proof.Machine.execMulhu d a b s
  | .div d a b => Sys2Proof.Machine.execDiv d a b s
  | .divu d a b => Sys2Proof.Machine.execDivu d a b s
  | .rem d a b => Sys2Proof.Machine.execRem d a b s
  | .remu d a b => Sys2Proof.Machine.execRemu d a b s
  | .clz d a => Sys2Proof.Machine.execClz d a s
  | .ctz d a => Sys2Proof.Machine.execCtz d a s
  | .popc d a => Sys2Proof.Machine.execPopc d a s
  | .sext d a w => Sys2Proof.Machine.execSext d a w s
  | .zext d a w => Sys2Proof.Machine.execZext d a w s
  | .csel d a b => Sys2Proof.Machine.execCsel d a b s
  | .bswap d a => Sys2Proof.Machine.execBswap d a s
  | .addi d a ix => Sys2Proof.Machine.execAddi d a ix s
  | .andi d a ix => Sys2Proof.Machine.execAndi d a ix s
  | .ori d a ix => Sys2Proof.Machine.execOri d a ix s
  | .xori d a ix => Sys2Proof.Machine.execXori d a ix s
  | .slti d a ix => Sys2Proof.Machine.execSlti d a ix s
  | .sltiu d a ix => Sys2Proof.Machine.execSltiu d a ix s
  | .slli d a sh => Sys2Proof.Machine.execSlli d a sh s
  | .srli d a sh => Sys2Proof.Machine.execSrli d a sh s
  | .srai d a sh => Sys2Proof.Machine.execSrai d a sh s
  | .lih d ix => Sys2Proof.Machine.execLih d ix s
  | .pcadd d ix => Sys2Proof.Machine.execPcadd d ix s
  | .lb d a ix => Sys2Proof.Machine.execLb d a ix s
  | .lbu d a ix => Sys2Proof.Machine.execLbu d a ix s
  | .lh d a ix => Sys2Proof.Machine.execLh d a ix s
  | .lhu d a ix => Sys2Proof.Machine.execLhu d a ix s
  | .lw d a ix => Sys2Proof.Machine.execLw d a ix s
  | .lwu d a ix => Sys2Proof.Machine.execLwu d a ix s
  | .ld d a ix => Sys2Proof.Machine.execLd d a ix s
  | .lda d a scope ix => Sys2Proof.Machine.execLda d a scope ix s
  | .sb a b ix => Sys2Proof.Machine.execSb a b ix s
  | .sh a b ix => Sys2Proof.Machine.execSh a b ix s
  | .sw a b ix => Sys2Proof.Machine.execSw a b ix s
  | .sd a b ix => Sys2Proof.Machine.execSd a b ix s
  | .sdrel a b scope ix => Sys2Proof.Machine.execSdrel a b scope ix s
  | .amoadd d a b w o => Sys2Proof.Machine.execAmoadd d a b w o s
  | .amoand d a b w o => Sys2Proof.Machine.execAmoand d a b w o s
  | .amoor d a b w o => Sys2Proof.Machine.execAmoor d a b w o s
  | .amoxor d a b w o => Sys2Proof.Machine.execAmoxor d a b w o s
  | .amomin d a b w o => Sys2Proof.Machine.execAmomin d a b w o s
  | .amomax d a b w o => Sys2Proof.Machine.execAmomax d a b w o s
  | .amominu d a b w o => Sys2Proof.Machine.execAmominu d a b w o s
  | .amomaxu d a b w o => Sys2Proof.Machine.execAmomaxu d a b w o s
  | .amoswap d a b w o => Sys2Proof.Machine.execAmoswap d a b w o s
  | .amocas d a b w o => Sys2Proof.Machine.execAmocas d a b w o s
  | .amofadd d a b half o => Sys2Proof.Machine.execAmofadd d a b half o s
  | .beq a b o => Sys2Proof.Machine.execBeq a b o s
  | .bne a b o => Sys2Proof.Machine.execBne a b o s
  | .blt a b o => Sys2Proof.Machine.execBlt a b o s
  | .bge a b o => Sys2Proof.Machine.execBge a b o s
  | .bltu a b o => Sys2Proof.Machine.execBltu a b o s
  | .bgeu a b o => Sys2Proof.Machine.execBgeu a b o s
  | .jmpl d o => Sys2Proof.Machine.execJmpl d o s
  | .jmpr d a ix => Sys2Proof.Machine.execJmpr d a ix s
  | .bse n o => Sys2Proof.Machine.execBse n o s
  | .bmany n o => Sys2Proof.Machine.execBmany n o s
  | .bmnone n o => Sys2Proof.Machine.execBmnone n o s
  | .nop => Sys2Proof.Machine.execNop s
  | .fence fromSet toSet ack rel acq scope => Sys2Proof.Machine.execFence fromSet toSet ack rel acq scope s
  | .srd d n => Sys2Proof.Machine.execSrd d n s
  | .swr d n => Sys2Proof.Machine.execSwr d n s
  | .srset d n => Sys2Proof.Machine.execSrset d n s
  | .srclr d n => Sys2Proof.Machine.execSrclr d n s
  | .trap code => Sys2Proof.Machine.execTrap code s
  | .tret => Sys2Proof.Machine.execTret s
  | .brk => Sys2Proof.Machine.execBrk s
  | .wfe d a => Sys2Proof.Machine.execWfe d a s
  | .keyset a k => Sys2Proof.Machine.execKeyset a k s
  | .keyclr => Sys2Proof.Machine.execKeyclr s
  | .farm d a => Sys2Proof.Machine.execFarm d a s
  | .strip d ret => Sys2Proof.Machine.execStrip d ret s
  | .fjoin d a => Sys2Proof.Machine.execFjoin d a s
  | .yield => Sys2Proof.Machine.execYield s
  | .notify a => Sys2Proof.Machine.execNotify a s
  | .tlbinv a g2 mode => Sys2Proof.Machine.execTlbinv a g2 mode s
  | .cinv all => Sys2Proof.Machine.execCinv all s
  | .cflush a all => Sys2Proof.Machine.execCflush a all s
  | .halt => Sys2Proof.Machine.execHalt s
  | .hint h d a ix => Sys2Proof.Machine.execHint h d a ix s
  | .fadd d a b rm fmt => Sys2Proof.Machine.execFadd d a b rm fmt s
  | .fsub d a b rm fmt => Sys2Proof.Machine.execFsub d a b rm fmt s
  | .fmul d a b rm fmt => Sys2Proof.Machine.execFmul d a b rm fmt s
  | .fdiv d a b rm fmt => Sys2Proof.Machine.execFdiv d a b rm fmt s
  | .fsqrt d a rm fmt => Sys2Proof.Machine.execFsqrt d a rm fmt s
  | .fmin d a b rm fmt => Sys2Proof.Machine.execFmin d a b rm fmt s
  | .fmax d a b rm fmt => Sys2Proof.Machine.execFmax d a b rm fmt s
  | .fma d a b rm fmt => Sys2Proof.Machine.execFma d a b rm fmt s
  | .fms d a b rm fmt => Sys2Proof.Machine.execFms d a b rm fmt s
  | .fnma d a b rm fmt => Sys2Proof.Machine.execFnma d a b rm fmt s
  | .fcmp d a b c fmt => Sys2Proof.Machine.execFcmp d a b c fmt s
  | .fclass d a fmt => Sys2Proof.Machine.execFclass d a fmt s
  | .fsgnj d a b c fmt => Sys2Proof.Machine.execFsgnj d a b c fmt s
  | .fcvt d a c fmt => Sys2Proof.Machine.execFcvt d a c fmt s
  | .vsetl d a k => Sys2Proof.Machine.execVsetl d a k s
  | .vld vd a b m ff nt u => Sys2Proof.Machine.execVld vd a b m ff nt u s
  | .vlds vd a b m ff nt u => Sys2Proof.Machine.execVlds vd a b m ff nt u s
  | .vldx vd a b m ff nt u => Sys2Proof.Machine.execVldx vd a b m ff nt u s
  | .vldseg vd a b m ff nt u => Sys2Proof.Machine.execVldseg vd a b m ff nt u s
  | .vst vs a b m nt u => Sys2Proof.Machine.execVst vs a b m nt u s
  | .vsts vs a b m nt u => Sys2Proof.Machine.execVsts vs a b m nt u s
  | .vstx vs a b m nt u => Sys2Proof.Machine.execVstx vs a b m nt u s
  | .vstseg vs a b m nt u => Sys2Proof.Machine.execVstseg vs a b m nt u s
  | .vbind n a b => Sys2Proof.Machine.execVbind n a b s
  | .vunbind n a => Sys2Proof.Machine.execVunbind n a s
  | .vmv vd a m => Sys2Proof.Machine.execVmv vd a m s
  | .vmvr vd a b m ins => Sys2Proof.Machine.execVmvr vd a b m ins s
  | .vmvc vd a b m ins => Sys2Proof.Machine.execVmvc vd a b m ins s
  | .vsplat vd a m => Sys2Proof.Machine.execVsplat vd a m s
  | .vext d a b sg => Sys2Proof.Machine.execVext d a b sg s
  | .vretag vd => Sys2Proof.Machine.execVretag vd s
  | .vrelease vd all => Sys2Proof.Machine.execVrelease vd all s
  | .vid vd a m => Sys2Proof.Machine.execVid vd a m s
  | .viota vd a m => Sys2Proof.Machine.execViota vd a m s
  | .vslideup vd a b m => Sys2Proof.Machine.execVslideup vd a b m s
  | .vslidedn vd a b m => Sys2Proof.Machine.execVslidedn vd a b m s
  | .vperm vd a b m => Sys2Proof.Machine.execVperm vd a b m s
  | .vcompress vd a m => Sys2Proof.Machine.execVcompress vd a m s
  | .mand md a b => Sys2Proof.Machine.execMand md a b s
  | .mor md a b => Sys2Proof.Machine.execMor md a b s
  | .mxor md a b => Sys2Proof.Machine.execMxor md a b s
  | .mandn md a b => Sys2Proof.Machine.execMandn md a b s
  | .mnot md a => Sys2Proof.Machine.execMnot md a s
  | .mshl md a b imm => Sys2Proof.Machine.execMshl md a b imm s
  | .mshr md a b imm => Sys2Proof.Machine.execMshr md a b imm s
  | .mpopc d a m => Sys2Proof.Machine.execMpopc d a m s
  | .mfirst d a m => Sys2Proof.Machine.execMfirst d a m s
  | .mlast d a m => Sys2Proof.Machine.execMlast d a m s
  | .mset md => Sys2Proof.Machine.execMset md s
  | .mclr md => Sys2Proof.Machine.execMclr md s
  | .mmv md a => Sys2Proof.Machine.execMmv md a s
  | .mld md a => Sys2Proof.Machine.execMld md a s
  | .mst ms a => Sys2Proof.Machine.execMst ms a s
  | .vwait d a b m w c => Sys2Proof.Machine.execVwait d a b m w c s
  | .vcmd md a m => Sys2Proof.Machine.execVcmd md a m s
  | .vsend vs a m nt u => Sys2Proof.Machine.execVsend vs a m nt u s
  | .vscatx vs a b m nt u => Sys2Proof.Machine.execVscatx vs a b m nt u s
  | .vgathx vd a b m ff nt u => Sys2Proof.Machine.execVgathx vd a b m ff nt u s
  | .vamo vd a b m p => Sys2Proof.Machine.execVamo vd a b m p s
  | .vadd vd a b m neg sat vx => Sys2Proof.Machine.execVadd vd a b m neg sat vx s
  | .vsub vd a b m neg sat vx => Sys2Proof.Machine.execVsub vd a b m neg sat vx s
  | .vmul vd a b m neg sat vx => Sys2Proof.Machine.execVmul vd a b m neg sat vx s
  | .vmulh vd a b m neg uns vx => Sys2Proof.Machine.execVmulh vd a b m neg uns vx s
  | .vdiv vd a b m neg uns vx => Sys2Proof.Machine.execVdiv vd a b m neg uns vx s
  | .vrem vd a b m neg uns vx => Sys2Proof.Machine.execVrem vd a b m neg uns vx s
  | .vmin vd a b m neg uns vx => Sys2Proof.Machine.execVmin vd a b m neg uns vx s
  | .vmax vd a b m neg uns vx => Sys2Proof.Machine.execVmax vd a b m neg uns vx s
  | .vand vd a b m neg vx => Sys2Proof.Machine.execVand vd a b m neg vx s
  | .vor vd a b m neg vx => Sys2Proof.Machine.execVor vd a b m neg vx s
  | .vxor vd a b m neg vx => Sys2Proof.Machine.execVxor vd a b m neg vx s
  | .vsll vd a b m neg vx => Sys2Proof.Machine.execVsll vd a b m neg vx s
  | .vsrl vd a b m neg vx => Sys2Proof.Machine.execVsrl vd a b m neg vx s
  | .vsra vd a b m neg vx => Sys2Proof.Machine.execVsra vd a b m neg vx s
  | .vadc vd a b c neg co vx => Sys2Proof.Machine.execVadc vd a b c neg co vx s
  | .vsbc vd a b c neg co vx => Sys2Proof.Machine.execVsbc vd a b c neg co vx s
  | .vcmp md a b m c => Sys2Proof.Machine.execVcmp md a b m c s
  | .vmerge vd a b m neg vx => Sys2Proof.Machine.execVmerge vd a b m neg vx s
  | .vabs vd a m neg sat => Sys2Proof.Machine.execVabs vd a m neg sat s
  | .vfadd vd a b m neg vx => Sys2Proof.Machine.execVfadd vd a b m neg vx s
  | .vfsub vd a b m neg vx => Sys2Proof.Machine.execVfsub vd a b m neg vx s
  | .vfmul vd a b m neg vx => Sys2Proof.Machine.execVfmul vd a b m neg vx s
  | .vfdiv vd a b m neg vx => Sys2Proof.Machine.execVfdiv vd a b m neg vx s
  | .vfsqrt vd a m neg => Sys2Proof.Machine.execVfsqrt vd a m neg s
  | .vfma vd a b m neg vx => Sys2Proof.Machine.execVfma vd a b m neg vx s
  | .vfms vd a b m neg vx => Sys2Proof.Machine.execVfms vd a b m neg vx s
  | .vfnma vd a b m neg vx => Sys2Proof.Machine.execVfnma vd a b m neg vx s
  | .vfmin vd a b m neg vx => Sys2Proof.Machine.execVfmin vd a b m neg vx s
  | .vfmax vd a b m neg vx => Sys2Proof.Machine.execVfmax vd a b m neg vx s
  | .vfcmp md a b m c => Sys2Proof.Machine.execVfcmp md a b m c s
  | .vfclass vd a m neg => Sys2Proof.Machine.execVfclass vd a m neg s
  | .vfexp vd a m neg => Sys2Proof.Machine.execVfexp vd a m neg s
  | .vflog vd a m neg => Sys2Proof.Machine.execVflog vd a m neg s
  | .vfrcp vd a m neg => Sys2Proof.Machine.execVfrcp vd a m neg s
  | .vfrsq vd a m neg => Sys2Proof.Machine.execVfrsq vd a m neg s
  | .vftanh vd a m neg => Sys2Proof.Machine.execVftanh vd a m neg s
  | .vcvt vd a b m neg sel => Sys2Proof.Machine.execVcvt vd a b m neg sel s
  | .vcvti vd a b m neg uns => Sys2Proof.Machine.execVcvti vd a b m neg uns s
  | .vcvtf4 vd a b m neg => Sys2Proof.Machine.execVcvtf4 vd a b m neg s
  | .vqscale vd a b m neg vx => Sys2Proof.Machine.execVqscale vd a b m neg vx s
  | .vredos vd a b m neg vx => Sys2Proof.Machine.execVredos vd a b m neg vx s
  | .vredsum vd a b m neg vx => Sys2Proof.Machine.execVredsum vd a b m neg vx s
  | .vredmax vd a b m neg uns vx => Sys2Proof.Machine.execVredmax vd a b m neg uns vx s
  | .vredmin vd a b m neg uns vx => Sys2Proof.Machine.execVredmin vd a b m neg uns vx s
  | .vredand vd a b m neg vx => Sys2Proof.Machine.execVredand vd a b m neg vx s
  | .vredor vd a b m neg vx => Sys2Proof.Machine.execVredor vd a b m neg vx s
  | .vredxor vd a b m neg vx => Sys2Proof.Machine.execVredxor vd a b m neg vx s
  | .macq d any t => Sys2Proof.Machine.execMacq d any t s
  | .mrel tm => Sys2Proof.Machine.execMrel tm s
  | .mzero tm ix => Sys2Proof.Machine.execMzero tm ix s
  | .macc t va vb bs tr sat ga gb fmtA fmtB xk xc => Sys2Proof.Machine.execMacc t va vb bs tr sat ga gb fmtA fmtB xk xc s
  | .maccs t va vb bs tr sat ga gb fmtA fmtB xk xc vm => Sys2Proof.Machine.execMaccs t va vb bs tr sat ga gb fmtA fmtB xk xc vm s
  | .mldc xg xs xstr xsc tr fmt => Sys2Proof.Machine.execMldc xg xs xstr xsc tr fmt s
  | .mdrain t vd gd rm ks sat z fmt xr xo => Sys2Proof.Machine.execMdrain t vd gd rm ks sat z fmt xr xo s
  | .mdrainx t ctx chan rm ks z fmt xr xo => Sys2Proof.Machine.execMdrainx t ctx chan rm ks z fmt xr xo s
  | .mtrd d t a => Sys2Proof.Machine.execMtrd d t a s
  | .mchk d t a sel => Sys2Proof.Machine.execMchk d t a sel s
  | .li64 d hi ix => Sys2Proof.Machine.execLi64 d hi ix s
  | .vsetli d a req => Sys2Proof.Machine.execVsetli d a req s
  | .cLd d a ix => Sys2Proof.Machine.execCLd d a ix s
  | .cSd b a ix => Sys2Proof.Machine.execCSd b a ix s
  | .cLw d a ix => Sys2Proof.Machine.execCLw d a ix s
  | .cSw b a ix => Sys2Proof.Machine.execCSw b a ix s
  | .cAddi4sp d ix => Sys2Proof.Machine.execCAddi4sp d ix s
  | .cAddi d ix => Sys2Proof.Machine.execCAddi d ix s
  | .cLi d ix => Sys2Proof.Machine.execCLi d ix s
  | .cMv d a => Sys2Proof.Machine.execCMv d a s
  | .cAdd d a => Sys2Proof.Machine.execCAdd d a s
  | .cSub d a => Sys2Proof.Machine.execCSub d a s
  | .cAnd d a => Sys2Proof.Machine.execCAnd d a s
  | .cSlli d sh => Sys2Proof.Machine.execCSlli d sh s
  | .cSrli d sh => Sys2Proof.Machine.execCSrli d sh s
  | .cJ o => Sys2Proof.Machine.execCJ o s
  | .cBeqz a o => Sys2Proof.Machine.execCBeqz a o s
  | .cBnez a o => Sys2Proof.Machine.execCBnez a o s
  | .cJr a => Sys2Proof.Machine.execCJr a s
  | .cNop => Sys2Proof.Machine.execCNop s
  | .cStrip d ret => Sys2Proof.Machine.execCStrip d ret s
  | .takeInterrupt h => Sys2Proof.Machine.execTakeInterrupt h s
  | .waitSatisfied h => Sys2Proof.Machine.execWaitSatisfied h s
  | .waitTimeout h => Sys2Proof.Machine.execWaitTimeout h s
  | .drawerMove h => Sys2Proof.Machine.execDrawerMove h s
  | .microopIssue core cycles => Sys2Proof.Machine.execMicroopIssue core cycles s
  | .clusterGate core cluster => Sys2Proof.Machine.execClusterGate core cluster s
  | .clusterWake core cluster => Sys2Proof.Machine.execClusterWake core cluster s
  | .storePerform p => Sys2Proof.Machine.execStorePerform p s
  | .sectorFill core sector kind => Sys2Proof.Machine.execSectorFill core sector kind s
  | .tableWalk h va write fetch => Sys2Proof.Machine.execTableWalk h va write fetch s
  | .streamFetch h n count => Sys2Proof.Machine.execStreamFetch h n count s
  | .streamFlagWrite => Sys2Proof.Machine.execStreamFlagWrite s
  | .matrixQueueAccept bench => Sys2Proof.Machine.execMatrixQueueAccept bench s
  | .mdrainxRow h => Sys2Proof.Machine.execMdrainxRow h s
  | .farmDepRead f => Sys2Proof.Machine.execFarmDepRead f s
  | .priorityAging f cycles => Sys2Proof.Machine.execPriorityAging f cycles s
  | .hartPlace f die => Sys2Proof.Machine.execHartPlace f die s
  | .swapOut v => Sys2Proof.Machine.execSwapOut v s
  | .hartSave h => Sys2Proof.Machine.execHartSave h s
  | .saveComplete h => Sys2Proof.Machine.execSaveComplete h s
  | .farmResume f die => Sys2Proof.Machine.execFarmResume f die s
  | .farmComplete f => Sys2Proof.Machine.execFarmComplete f s
  | .suspendTimeout p => Sys2Proof.Machine.execSuspendTimeout p s
  | .debugHaltRequest h => Sys2Proof.Machine.execDebugHaltRequest h s
  | .debugHaltEnter h => Sys2Proof.Machine.execDebugHaltEnter h s
  | .debugAccess h field write => Sys2Proof.Machine.execDebugAccess h field write s
  | .debugResume h => Sys2Proof.Machine.execDebugResume h s
  | .hbmAct pa => Sys2Proof.Machine.execHbmAct pa s
  | .rfm bank => Sys2Proof.Machine.execRfm bank s
  | .hbmRefresh bank => Sys2Proof.Machine.execHbmRefresh bank s
  | .patrolScrub sector found => Sys2Proof.Machine.execPatrolScrub sector found s
  | .cxlLinkDown port => Sys2Proof.Machine.execCxlLinkDown port s
  | .snapshotPageCopy engine => Sys2Proof.Machine.execSnapshotPageCopy engine s
  | .demandCopy page => Sys2Proof.Machine.execDemandCopy page s
  | .copy engine => Sys2Proof.Machine.execCopy engine s
  | .fill engine => Sys2Proof.Machine.execFill engine s
  | .canopyLoad bench => Sys2Proof.Machine.execCanopyLoad bench s
  | .snapshot engine => Sys2Proof.Machine.execSnapshot engine s
  | .sequencerStart ctx => Sys2Proof.Machine.execSequencerStart ctx s
  | .flagWrite engine => Sys2Proof.Machine.execFlagWrite engine s
  | .l2Prefetch engine => Sys2Proof.Machine.execL2Prefetch engine s
  | .flit port raw => Sys2Proof.Machine.execFlit port raw s
  | .linkRetrain port lockLost => Sys2Proof.Machine.execLinkRetrain port lockLost s
  | .linkTrained port lanes => Sys2Proof.Machine.execLinkTrained port lanes s
  | .portDown port => Sys2Proof.Machine.execPortDown port s
  | .read p => Sys2Proof.Machine.execRead p s
  | .write p => Sys2Proof.Machine.execWrite p s
  | .reads p => Sys2Proof.Machine.execReads p s
  | .readx p => Sys2Proof.Machine.execReadx p s
  | .writes p => Sys2Proof.Machine.execWrites p s
  | .writex p => Sys2Proof.Machine.execWritex p s
  | .amo p => Sys2Proof.Machine.execAmo p s
  | .sendPacket p => Sys2Proof.Machine.execSendPacket p s
  | .mwrite p => Sys2Proof.Machine.execMwrite p s
  | .resp r => Sys2Proof.Machine.execResp r s
  | .ack tag => Sys2Proof.Machine.execAck tag s
  | .nack r => Sys2Proof.Machine.execNack r s
  | .requestTimeout tag => Sys2Proof.Machine.execRequestTimeout tag s
  | .coll c => Sys2Proof.Machine.execColl c s
  | .collAck c => Sys2Proof.Machine.execCollAck c s
  | .routerFold port pieces group => Sys2Proof.Machine.execRouterFold port pieces group s
  | .send ctx => Sys2Proof.Machine.execSend ctx s
  | .sendCmb ctx => Sys2Proof.Machine.execSendCmb ctx s
  | .sendMc ctx => Sys2Proof.Machine.execSendMc ctx s
  | .recv ctx => Sys2Proof.Machine.execRecv ctx s
  | .recvCh ctx => Sys2Proof.Machine.execRecvCh ctx s
  | .recvCmb ctx => Sys2Proof.Machine.execRecvCmb ctx s
  | .red ctx => Sys2Proof.Machine.execRed ctx s
  | .copyLd ctx => Sys2Proof.Machine.execCopyLd ctx s
  | .copySt ctx => Sys2Proof.Machine.execCopySt ctx s
  | .copyBuf ctx => Sys2Proof.Machine.execCopyBuf ctx s
  | .wait ctx => Sys2Proof.Machine.execWait ctx s
  | .seqWaitMet ctx => Sys2Proof.Machine.execSeqWaitMet ctx s
  | .sig ctx => Sys2Proof.Machine.execSig ctx s
  | .cmpr ctx => Sys2Proof.Machine.execCmpr ctx s
  | .loop ctx => Sys2Proof.Machine.execLoop ctx s
  | .jump ctx => Sys2Proof.Machine.execJump ctx s
  | .seqEnd ctx => Sys2Proof.Machine.execSeqEnd ctx s
  | .sendRetransmit ctx index => Sys2Proof.Machine.execSendRetransmit ctx index s
  | .abort ctx => Sys2Proof.Machine.execAbort ctx s
  | .contextAssign ctx value => Sys2Proof.Machine.execContextAssign ctx value s
  | .ceilingWindow die matrixCycles => Sys2Proof.Machine.execCeilingWindow die matrixCycles s
  | .fluxReading die flux junction => Sys2Proof.Machine.execFluxReading die flux junction s
  | .powerMeasure watts => Sys2Proof.Machine.execPowerMeasure watts s
  | .lease budget expiry seq => Sys2Proof.Machine.execLease budget expiry seq s
  | .leaseExpiry => Sys2Proof.Machine.execLeaseExpiry s
  | .histogramSample junction0 junction1 rail0 rail1 => Sys2Proof.Machine.execHistogramSample junction0 junction1 rail0 rail1 s
  | .lifetimeFlush => Sys2Proof.Machine.execLifetimeFlush s
  | .lifetimeRead offset => Sys2Proof.Machine.execLifetimeRead offset s
  | .report w => Sys2Proof.Machine.execReport w s
  | .note p w => Sys2Proof.Machine.execNote p w s
  | .susp p => Sys2Proof.Machine.execSusp p s
  | .resume p => Sys2Proof.Machine.execResume p s
  | .partitionEnable p => Sys2Proof.Machine.execPartitionEnable p s
  | .partitionDisable p => Sys2Proof.Machine.execPartitionDisable p s
  | .partitionReset p => Sys2Proof.Machine.execPartitionReset p s
  | .functionLevelReset p => Sys2Proof.Machine.execFunctionLevelReset p s
  | .tcmp p w => Sys2Proof.Machine.execTcmp p w s
  | .timerExpiry p => Sys2Proof.Machine.execTimerExpiry p s
  | .hostRead p offset len => Sys2Proof.Machine.execHostRead p offset len s
  | .hostWrite p offset bytes poisoned => Sys2Proof.Machine.execHostWrite p offset bytes poisoned s
  | .coldStart r => Sys2Proof.Machine.execColdStart r s
  | .warmStart r paramsGood => Sys2Proof.Machine.execWarmStart r paramsGood s
  | .startTimeout => Sys2Proof.Machine.execStartTimeout s
  | .startStatusRead => Sys2Proof.Machine.execStartStatusRead s
  | .quoteRequest nonce => Sys2Proof.Machine.execQuoteRequest nonce s
  | .deviceSpaceWrite pa w => Sys2Proof.Machine.execDeviceSpaceWrite pa w s
  | .illegalInstruction w => Sys2Proof.Machine.execIllegalInstruction w s
  | .softError site => Sys2Proof.Machine.execSoftError site s
  | .wfeEarlyEnd h => Sys2Proof.Machine.execWfeEarlyEnd h s
  | .partitionResetDone p => Sys2Proof.Machine.execPartitionResetDone p s
  | .firmwareReady => Sys2Proof.Machine.execFirmwareReady s
  | .firmwareUpdate img => Sys2Proof.Machine.execFirmwareUpdate img s
  | .orderlyPowerDown => Sys2Proof.Machine.execOrderlyPowerDown s
  | .powerFailure => Sys2Proof.Machine.execPowerFailure s

end Sys2Proof.Machine
end

