-- ==== Sys2Proof/Machine/Auto.lean ====
section
/-! DEFINITION. What acts next when the agenda names nothing: which events the machine is ready to make of itself, and which hart runs
(R39, R281, R436; log entry 3). -/

namespace Sys2Proof.Machine

/-- A hart the front end can serve: resident, neither sleeping nor halted nor being saved (R281). -/
def Hart.canRun (h : Hart) : Bool := h.run == .ready && !h.swapping && !h.haltAsked

/-- The slot of a hart in its core. -/
def slotOf (i : HartId) : Nat := (i.extractLsb' 0 2).toNat

/-- Whether a hart's front end passes it over: its last instruction was YIELD, and some other ready hart of its core has not been chosen since (R281). -/
def passedOver (s : State) (h : Hart) : Bool :=
  h.yielded && s.harts.any (fun g => g.id != h.id && coreOf g.id == coreOf h.id && g.canRun && !h.passed.getLsbD (slotOf g.id))

/-- The hart that a core's front end chooses: the first ready one in cyclic slot order after the hart it chose last (R281). -/
def frontChoice (s : State) (core : Nat) : Option HartId :=
  ((List.range 4).map (fun i => hartIdOf core (((s.core core).lastSlot + 1 + i) % 4))).find? (fun i =>
    s.harts.any (fun h => h.id == i && h.canRun && !passedOver s h))

/-- The next hart to act: the cores take turns in cyclic order (log entry 3), and each chooses as R281 says. -/
def nextHart (s : State) : Option HartId :=
  let c := coreOf s.hart.id
  let order := s.others.filter (fun h => coreOf h.id > c) ++ s.others.filter (fun h => coreOf h.id ≤ c) ++ [s.hart]
  order.findSome? (fun h => frontChoice s (coreOf h.id))

/-- A step the machine makes of itself: the number, identity or partition it is about. -/
inductive Due where
  | timer (p : BitVec 3) | suspendTimeout (p : BitVec 3) | resetDone (p : BitVec 3)
  | interrupt (h : HartId) | waitCheck (h : HartId) | waitTimeout (h : HartId) | mdrainxRow (h : HartId) | haltEnter (h : HartId)
  | drawerMove (h : HartId) | storePerform (p : StorePart) | save (h : HartId) | saved (h : HartId)
  | farmDep (n : BitVec 16) | farmDone (n : BitVec 16) | aging (n : BitVec 16)
  | place (n : BitVec 16) (die : Bool) | resume (n : BitVec 16) (die : Bool) | swap (n : BitVec 16)
  | copy (n : Nat) | fill (n : Nat) | snapshotPage (n : Nat) | flagWrite (n : Nat) | prefetch (n : Nat)
  | canopyLoad (b : Nat) | matrixAccept (b : Nat) | streamFlag
  | seqStart (k : Nat) | seqWord (k : Nat) | retransmit (k i : Nat) | requestTimeout (t : BitVec 14)
  | packet (m : Message)
  | quote | startTimeout | lifetimeFlush | rfm (bank : Nat) | cycle (core : Nat)
  deriving DecidableEq, Repr

/-- A list of one, or none. -/
def dueIf (b : Bool) (d : Due) : List Due := if b then [d] else []

/-- What a partition has due. -/
def partDues (s : State) (p : BitVec 3) : List Due :=
  let q := s.partn p
  dueIf (q.tcmp != 0 && q.tcmp.toNat ≤ s.time.toNat) (.timer p) ++ dueIf (q.st == 3) (.resetDone p)
    ++ dueIf (match q.suspTime with | some t => q.st == 1 && (s.time - t).toNat ≥ 1_000_000 | none => false) (.suspendTimeout p)

/-- The parts of its buffered stores that a hart has due (R250). -/
def storeDues (h : Hart) : List Due :=
  h.stores.zipIdx.flatMap (fun p => (List.range p.1.parts.length).filterMap (fun j => if mayPerform h.stores p.2 j then some (.storePerform { hart := h.id, store := p.2, part := j }) else none))

/-- What a hart has due. -/
def hartDues (s : State) (h : Hart) : List Due :=
  let sleeping : List Due := match h.run with
    | .asleep (.vwait ..) | .asleep (.wfe ..) | .asleep (.fjoin ..) => [.waitCheck h.id, .waitTimeout h.id]
    | .asleep .channel => [.mdrainxRow h.id]
    | _ => []
  sleeping
    ++ dueIf (h.bureau && h.ie && !(s.partn h.part).pending.isEmpty && h.run != .halted && s.mayStop h && !h.swapping) (.interrupt h.id)
    ++ dueIf (h.haltAsked && s.mayStop h && h.run != .halted) (.haltEnter h.id)
    ++ dueIf h.moving (.drawerMove h.id) ++ storeDues h
    ++ (if h.swapping && s.mayStop h then [.save h.id, .saved h.id] else [])

/-- What a farm has due. -/
def farmDues (f : Farm) : List Due :=
  dueIf (f.state == .blocked) (.farmDep f.num) ++ dueIf (f.state == .completing) (.farmDone f.num) ++ dueIf (f.cyclesDue != 0) (.aging f.num)

/-- What the farm scheduler of a die has due (R277). -/
def dieDues (s : State) (die : Bool) : List Due :=
  match schedulerChoice s die.toNat with
  | some (.place n _) => [.place n die]
  | some (.resume n) => [.resume n die]
  | some (.swap n _) => [.swap n]
  | none => []

/-- What a copy engine has due (R223). -/
def engineDues (n : Nat) (q : List CmdRec) : List Due :=
  match q with
  | [] => []
  | c :: _ => match c.typ % 16 with
    | 0 => [.copy n] | 1 => [.fill n] | 3 => [.snapshotPage n] | 5 => [.flagWrite n] | 6 => [.prefetch n] | _ => []

/-- What a bench has due. -/
def benchDues (b : Nat) (k : Bench) : List Due :=
  dueIf (!k.loaderQ.isEmpty || !k.replays.isEmpty) (.canopyLoad b) ++ dueIf (k.posting.toList.any (·.isSome)) (.matrixAccept b)

/-- What a schedule context has due (R373, R378, R390). -/
def ctxDues (s : State) (k : Nat) (c : Ctx) : List Due :=
  dueIf c.starting.isSome (.seqStart k) ++ dueIf (c.st != 0) (.seqWord k)
    ++ (if c.st = 0 then [] else (idxs c.staged.length (fun i => match c.staged[i]? with
      | some t => t.over s.time
      | none => false)).map (Due.retransmit k))

/-- Everything the machine is ready to do of itself. -/
def dueEvents (s : State) : List Due :=
  ([0, 1, 2, 3, 4, 5, 6, 7] : List (BitVec 3)).flatMap (partDues s) ++ s.harts.flatMap (hartDues s)
    ++ (if s.farms.isEmpty then [] else s.farms.flatMap farmDues ++ dieDues s false ++ dieDues s true)
    ++ s.engines.flatMap (fun e => engineDues e.1 e.2) ++ s.benches.flatMap (fun b => benchDues b.1 b.2)
    ++ s.ctxs.flatMap (fun c => ctxDues s c.1 c.2)
    ++ (s.fabric.flights.filter (fun f => f.over s.time)).map (fun f => .requestTimeout f.tag) ++ s.fabric.arrived.map .packet
    ++ dueIf (!s.owed.isEmpty) .streamFlag ++ dueIf s.boot.mailBusy .quote ++ dueIf (s.boot.overdue s.time) .startTimeout
    ++ dueIf (s.life.flushAt ≤ s.time) .lifetimeFlush
    ++ (s.dram.pendingRfm.filter (fun p => rfmDue s p.bank)).map (fun p => .rfm p.bank)
    ++ (if s.policy.postUops then s.cores.flatMap (fun c => dueIf (!c.2.window.isEmpty || c.2.clusters.any (fun k => !k.gated)) (.cycle c.1)) else [])

/-- The event the machine makes of itself, if any is due: they are taken in rotation (log entry 3). -/
def dueEvent (s : State) : Option Due :=
  match dueEvents s with
  | [] => none
  | d :: t => (d :: t)[s.tick / 2 % (t.length + 1)]?

/-- What acts next. -/
inductive Choice where
  | event (i : Instr) (s : State) | due (d : Due) (s : State) | instr (s : State) | idle (s : State)
  deriving DecidableEq, Repr

/-- Give a hart the front end of its core: it is the current one, and its turn begins; a hart of the core that has yielded has been passed over for it (R221, R281). -/
def giveTurn (i : HartId) (s : State) : State :=
  let s := focus i (settleHart i s)
  let c := coreOf i
  let pass (g : Hart) : Hart := if g.yielded && coreOf g.id == c then { g with passed := g.passed ||| (1#4 <<< slotOf i) } else g
  { (s.setCore c { s.core c with lastSlot := slotOf i }) with
    hart := { s.hart with yielded := false, stalled := false, passed := 0 }, others := s.others.map pass }

/-- A hart's turn: a pending interrupt is taken before its next instruction (R39). -/
def turn (i : HartId) (s : State) : Choice :=
  let t := giveTurn i s
  if takesInterrupt t then .due (.interrupt i) t else .instr t

/-- The choice of what acts: the agenda first, where it names an event, or a hart that its core's front end would choose; then events and harts in turn, an event
first at even ticks (log entry 3). -/
def choose (s : State) : Choice :=
  match s.agenda with
  | .event i :: t => .event i { s with agenda := t }
  | .hart h :: t => if frontChoice s (coreOf h) = some h then turn h { s with agenda := t } else .idle { s with agenda := t }
  | [] =>
    match (if s.tick % 2 = 0 then dueEvent s else none) with
    | some d => .due d s
    | none =>
      match nextHart s with
      | some h => turn h s
      | none => match dueEvent s with
        | some d => .due d s
        | none => .idle s

/-- The passing of one step's time: TIME; CYCLE of every resident hart, which counts the clock of its die; farms that wait; and a lease whose time is over (R35, R272,
R405, R409; log entry 4). -/
def advance (s : State) : State :=
  let dt := (Config.timeStep s.tick).toNat
  let ran (d : Fin 2) : Nat := dt * (s.power.freq[d]).toNat + s.power.phase[d]
  let count (h : Hart) : Hart := { h with cycle := h.cycle + BitVec.ofNat 64 (ran (if dieOf (benchOf h.id) = 0 then 0 else 1) / 1000) }
  expireLease { s with
    tick := s.tick + 1,
    time := s.time + Config.timeStep s.tick,
    hart := count s.hart,
    others := s.others.map count,
    farms := s.farms.map (fun f => f.wait s dt),
    power := { s.power with phase := Vector.ofFn (fun d => ran d % 1000) } }

/-- Where the current hart fetches its next instruction, physically. -/
def fetchAddress (s : State) : Nat :=
  match locate s s.hart.space (some s.hart.id) .fetch false s.hart.pc with
  | .ok m => m.pa
  | .error _ => s.hart.pc.toNat

/-- The state in which the current hart is resident and next to act. -/
def makeReady (s : State) : State :=
  { s with
    hart := { s.hart with run := .ready, yielded := false, stalled := false, fetched := none, haltAsked := false, swapping := false, status := setBit s.hart.status 2 false },
    others := [], agenda := [.hart s.hart.id] }

/-- Store an instruction's bytes where the current hart fetches next, with no stale copy in its instruction cache. -/
def placeBytes (s : State) (bs : List Byte) : State :=
  let a := fetchAddress s
  let c := coreOf s.hart.id
  let s := { s with mem := memPutAll s.mem a bs }
  if (s.core c).icache.isEmpty then s else s.setCore c { s.core c with icache := [] }

end Sys2Proof.Machine
end

