-- ==== Sys2Proof/Machine/Due.lean ====
section
/-! DEFINITION. The steps the machine makes of itself, as calls of their meanings (log entry 3). -/

namespace Sys2Proof.Machine

/-- The step of the table that a running context's word is (R378): a word that breaks its table ends the run in any of them. -/
def runWord (k : Nat) (s : State) : Host.Outcome State Fault Refusal :=
  match fetchSeq s (s.ctx k) with
  | .error _ => execSeqEnd k s
  | .ok w => match w with
    | .send _ _ _ _ _ mc => if mc then execSendMc k s else execSend k s
    | .sendCmb .. => execSendCmb k s
    | .recv .. => execRecv k s
    | .recvCh .. => execRecvCh k s
    | .recvCmb .. => execRecvCmb k s
    | .red .. => execRed k s
    | .copyLd .. => execCopyLd k s
    | .copySt .. => execCopySt k s
    | .copyBuf .. => execCopyBuf k s
    | .cmpr .. => execCmpr k s
    | .wait .. => if (s.ctx k).st = 2 then execSeqWaitMet k s else execWait k s
    | .sig .. => execSig k s
    | .loop .. => execLoop k s
    | .jump .. => execJump k s
    | .done => execSeqEnd k s

/-- Serve a packet that has arrived (R358, R364, R389). -/
def runPacket (m : Message) (s : State) : Host.Outcome State Fault Refusal :=
  match m with
  | .request op p => match op.toNat with
    | 0 => execRead p s
    | 1 => execWrite p s
    | 2 => execReads p s
    | 3 => execReadx p s
    | 4 => execWrites p s
    | 5 => execWritex p s
    | 6 => execAmo p s
    | 7 => execSendPacket p s
    | _ => execMwrite p s
  | .response _ op r => if op = 9 then execAck r.tag s else if op = 8 then execResp r s else execNack r s
  | .coll c => execColl c s
  | .collAck c => execCollAck c s

/-- Make a due step. -/
def runDue (d : Due) (s : State) : Host.Outcome State Fault Refusal :=
  match d with
  | .timer p => execTimerExpiry p s
  | .suspendTimeout p => execSuspendTimeout p s
  | .resetDone p => execPartitionResetDone p s
  | .interrupt h => execTakeInterrupt h s
  | .waitCheck h => execWaitSatisfied h s
  | .waitTimeout h => execWaitTimeout h s
  | .mdrainxRow h => execMdrainxRow h s
  | .haltEnter h => execDebugHaltEnter h s
  | .drawerMove h => execDrawerMove h s
  | .storePerform p => execStorePerform p s
  | .save h => execHartSave h s
  | .saved h => execSaveComplete h s
  | .farmDep n => execFarmDepRead n s
  | .farmDone n => execFarmComplete n s
  | .aging n => execPriorityAging n (match s.farmOf n with | some f => f.cyclesDue | none => 0) s
  | .place n die => execHartPlace n die s
  | .resume n die => execFarmResume n die s
  | .swap n => execSwapOut n s
  | .copy n => execCopy n s
  | .fill n => execFill n s
  | .snapshotPage n => execSnapshotPageCopy n s
  | .flagWrite n => execFlagWrite n s
  | .prefetch n => execL2Prefetch n s
  | .canopyLoad b => execCanopyLoad b s
  | .matrixAccept b => execMatrixQueueAccept b s
  | .streamFlag => execStreamFlagWrite s
  | .seqStart k => execSequencerStart k s
  | .seqWord k => runWord k s
  | .retransmit k i => execSendRetransmit k i s
  | .requestTimeout t => execRequestTimeout t s
  | .packet m => runPacket m s
  | .quote => .next (answerQuote s)
  | .startTimeout => execStartTimeout s
  | .lifetimeFlush => execLifetimeFlush s
  | .rfm b => execRfm b s
  | .cycle c => execMicroopIssue c 1 s

end Sys2Proof.Machine
end

