-- ==== Sys2Proof/Machine/Step.lean ====
section
/-! DEFINITION. One step of the machine: an event, or one instruction of one hart, or the passing of time. -/

namespace Sys2Proof.Machine

/-- The outcome after a step's time has passed. -/
def after (o : Host.Outcome State Fault Refusal) : Host.Outcome State Fault Refusal :=
  match o with
  | .next s => .next (advance s)
  | .fault f => .fault f
  | .refused r => .refused r

/-- The current hart fetches, decodes and executes one instruction (R73, R74, R86). -/
def runInstr (s : State) : Host.Outcome State Fault Refusal := runFront exec s

/-- One step. A module without power does nothing but start (R426, R437). -/
def step (s : State) : Host.Outcome State Fault Refusal :=
  match choose s with
  | .event i s' => if s.boot.powered then after (exec i s') else (match i with | .coldStart r => after (exec (.coldStart r) s') | _ => .fault .unpowered)
  | .due d s' => if s.boot.powered then after (runDue d s') else .fault .unpowered
  | .instr s' => if s.boot.powered then after (runInstr s') else .fault .unpowered
  | .idle s' => if s.boot.powered then .next (advance s') else .fault .unpowered

/-- The state with an instruction's words stored where the machine fetches next; at reset no hart is placed (R267), so the hart is made
resident (log entry 6). -/
def State.withFetchWord (s : State) (_nbits w : Nat) : State := placeBytes (makeReady s) (bytesOf 8 w)

end Sys2Proof.Machine
end

