-- ==== Sys2Proof/Safety.lean ====
section
/-! DEFINITION. What a sound state and a safe step are, and the words the claims are written in. -/

namespace Sys2Proof.Machine

/-- A sound state: memory stands in its canonical form. -/
def Sound (s : State) : Prop := Memory.wf s.mem = true

/-- A safe step: it answers a next state, so the module does not stop. -/
def StepSafe (s : State) : Prop := ∃ t, step s = .next t

end Sys2Proof.Machine

namespace Sys2Proof.Claim

open Sys2Proof.Machine

/-! ## Completion and traps -/

/-- The current hart does not single-step, and no part of the instruction at PC has completed and raised flags: an instruction that raises no enabled flag owes
no trap (R39, R71, R332). -/
def Steady (s : State) : Prop := s.hart.stepping = false ∧ s.hart.partFlags = 0

/-- The state once the current instruction has completed and the next one stands at `npc`: INSTRET counts it (R35), `fl` joins the sticky flags
(R29), no fabric request stays open, and the front end keeps nothing of it. Nothing else changes. -/
def retired (npc : Word) (fl : BitVec 7) (s : State) : State :=
  s.withHart { s.hart with
    pc := npc, instret := s.hart.instret + 1, fflags := s.hart.fflags ||| fl, partFlags := 0, stalled := false, fetched := none, remote := none }

/-- The current instruction, of `len` bytes, completes. -/
def passed (len : Nat) (s : State) : State := retired (s.hart.pc + BitVec.ofNat 64 len) 0 s

/-- The current instruction, of `len` bytes, writes `v` to x[d] and completes. -/
def wrote (len : Nat) (d : Reg) (v : Word) (s : State) : State := retired (s.hart.pc + BitVec.ofNat 64 len) 0 (s.setX d v)

/-- Trap entry (R34) with cause `c` below 0x80, TRAPVAL `v` and TRAPPC `pc`, for a cause no second stage found: the level becomes 1, or stays 3; IE
becomes 0; PC is TRAPBASE, or the monitor's entry at level 3 (R328). -/
def trapped (c : BitVec 8) (v pc : Word) (s : State) : State :=
  let h := s.hart
  let mon := h.status.extractLsb' 0 2 = 3
  s.withHart { h with
    run := .ready, stalled := false, fetched := none, partFlags := 0, remote := none, trapstatus := h.status, trapcause := c.setWidth 64, trappc := pc, trapval := v,
    status := (h.status &&& ~~~7#64) ||| (if mon then 3 else 1), pc := if mon then s.boot.monitorEntry else h.trapbase &&& ~~~3#64 }

/-- A trap of the instruction at PC that has no other effect. -/
def trappedHere (c : BitVec 8) (v : Word) (s : State) : State := trapped c v s.hart.pc s

/-- The union of the flags that some elements raise. -/
def flagsOf (es : List Nat) (f : Nat → BitVec 7) : BitVec 7 := es.foldl (fun a e => a ||| f e) 0

/-- No flag in a set is enabled to trap (R30). -/
def Unenabled (fl : BitVec 7) (s : State) : Prop := fl &&& s.hart.enables = 0

/-! ## Memory -/

/-- Every byte of memory is what it was but for the `n` bytes from `a`, which hold the low `n` bytes of `v`, least significant first (R2). -/
def StoredAt (s t : State) (a n : Nat) (v : Nat) : Prop :=
  ∀ b, memGet t.mem b = if a ≤ b ∧ b < a + n then BitVec.ofNat 8 (v / 256 ^ (b - a)) else memGet s.mem b

/-- Memory as the current hart sees it through `m`: `n` bytes, least significant first, none of them poisoned (R2, R101, R105). -/
def Seen (s : State) (m : Mapped) (n v : Nat) : Prop :=
  v < 256 ^ n ∧ (∀ i, i < n → BitVec.ofNat 8 (v / 256 ^ i) = viewByte s m i) ∧ viewPoisoned s m n = false

/-- An access of `n` bytes at a device-local address passes every check of R101: aligned, below 2^57, translated, permitted. -/
def Grants (s : State) (k : AccessKind) (n : Nat) (a : Word) (m : Mapped) : Prop :=
  a.toNat % n = 0 ∧ a.getLsbD 63 = false ∧ checkAccess s k (n == 8) n a = .ok m

/-- No byte of `n` from `pa` lies behind a down CXL link (R310). -/
def LinkUp (s : State) (pa n : Nat) : Prop := linkDown s pa = false ∧ ∀ k ∈ sectorsOf pa n, linkDown s k = false

/-- No check value differs from its sector's: what a soft error changes is set apart (R413, R416). -/
def NoUpset (s : State) : Prop := s.upsets = []

/-- No snapshot has still to copy a page of these bytes (R323). -/
def Unheld (s : State) (pa n : Nat) : Prop := ∀ p ∈ pagesOf pa n, pageHeld s p = false

/-- The access unit and the engines owe no flag for an instruction of the current hart: a release has none to wait for (R104, R211). -/
def OwesNone (s : State) : Prop := ∀ o ∈ s.owed, ¬ (o.hart = s.hart.id ∧ o.farm = s.hart.farm)

/-- Cores and benches are what they were but for L1 copies and TLB entries (R300, R319). -/
def SameButCaches (t u : State) : Prop :=
  (∀ c, t.core c = { u.core c with l1 := (t.core c).l1, tlb := (t.core c).tlb }) ∧ ∀ b, t.bench b = { u.bench b with tlb := (t.bench b).tlb }

/-- What an access on the way to memory may move beside what its instruction writes: copies in L1s and L2 slices, TLB entries, the HBM rows and their counters, and
the lifetime counts (R300, R302, R305 to R308, R319, R425). -/
def SameButRows (t u : State) : Prop :=
  t = { u with l2 := t.l2, dram := t.dram, life := t.life, cores := t.cores, benches := t.benches } ∧ SameButCaches t u

/-- What a store to memory may move: besides that, memory itself, and the older values of table entries that a walk may still read (R320). -/
def SameButStore (t u : State) : Prop :=
  t = { u with l2 := t.l2, dram := t.dram, life := t.life, mem := t.mem, held := t.held, cores := t.cores, benches := t.benches } ∧ SameButCaches t u

/-- Everything of a hart that a scalar store leaves alone is left alone: only what streams have read ahead is forgotten (R139). -/
def forgetAhead (s : State) : State := s.withHart s.hart.dropAhead

/-! ## Vectors -/

/-- A hart ready for a vector instruction on plain registers: the vector type is legal, no drawer moves, no stream is bound, no store waits, and no
element is poisoned. -/
def PlainVec (s : State) : Prop :=
  Steady s ∧ s.hart.vill = false ∧ s.hart.moving = false ∧ s.hart.streams = Vector.replicate 8 none ∧ s.hart.stores = []
    ∧ ∀ r, r < 32 → (s.hart.vreg r).poison = 0

/-- The state once a vector instruction has completed: vector registers `v`, VRI 0 (R34), flags `fl`. Nothing else changes. -/
def vecDone (fl : BitVec 7) (v : Vector VReg 32) (s : State) : State :=
  retired (s.hart.pc + 4) fl (s.withHart { s.hart with v := v, vri := 0 })

/-- Element `e` of the group at `r` under the vector type's group size, read with `w` bits. -/
def elemOf (s : State) (r : Reg) (w e : Nat) : Nat := elemAt s.hart s.hart.capBits r.toNat s.hart.grp w e

/-- Whether element `e` is done now: below VLV, at or above VRI, and selected by the mask (R4, R34). -/
def Does (s : State) (m : MaskField) (neg : Bool) (e : Nat) : Bool :=
  decide (e < s.hart.vlv) && decide (s.hart.vri.toNat ≤ e) && s.hart.selects m neg e

/-- The group of `n` registers at `vd` in `v` holds `len` elements of format `fmt`, element `e` being `val e`, and zero beyond; its registers carry the
format and no mark (R13 to R15). -/
def GroupIs (s : State) (v : Vector VReg 32) (vd n fmt len : Nat) (val : Nat → Nat) : Prop :=
  let h := { s.hart with v := v }
  (∀ e, (e + 1) * elemWidth fmt ≤ s.hart.capBits * n → elemAt h s.hart.capBits vd n (elemWidth fmt) e = if e < len then val e else 0)
    ∧ ∀ r, r < 32 → vd ≤ r → r < vd + n → (h.vreg r).fmt = BitVec.ofNat 5 fmt ∧ (h.vreg r).dirty = true ∧ (h.vreg r).poison = 0
        ∧ (h.vreg r).vlen = min (s.hart.capBits / elemWidth fmt) (len - (r - vd) * (s.hart.capBits / elemWidth fmt)) ∧ (h.vreg r).prog = (h.vreg r).vlen

/-- Every vector register outside the `n` from `vd` is what it was. -/
def OnlyGroup (s : State) (v : Vector VReg 32) (vd n : Nat) : Prop :=
  ∀ r, r < 32 → (r < vd ∨ vd + n ≤ r) → ({ s.hart with v := v } : Hart).vreg r = s.hart.vreg r

/-- A group written, and no other register. -/
def HoldsGroup (s : State) (v : Vector VReg 32) (vd n fmt len : Nat) (val : Nat → Nat) : Prop := GroupIs s v vd n fmt len val ∧ OnlyGroup s v vd n

/-- The state once an instruction has written an image to mask `md`: VRI 0, flags `fl`. Nothing else changes. -/
def maskDone (fl : BitVec 7) (md : Reg) (img : Nat) (s : State) : State :=
  retired (s.hart.pc + 4) fl (s.withHart { s.hart.setMask md.toNat img with vri := 0 })

end Sys2Proof.Claim
end

