-- ==== Sys2Proof/Certificates/Slice0/Obligations.lean ====
section
/-! DEFINITION. The statements for the provers: what the rules of the manual say of each instruction and of the machine. -/

namespace Sys2Proof.Claim

open Sys2Proof.Machine

/-! ## Tables of results, from the manual's own tables -/

/-- The shift amount of R98: the low six bits. -/
def sh6 (B : Word) : Nat := B.toNat % 64

/-- R41's signed quotient: toward zero; all ones by zero. -/
def quotS (A B : Word) : Word := if B = 0 then BitVec.allOnes 64 else BitVec.ofInt 64 (A.toInt.tdiv B.toInt)
/-- R41's signed remainder: the sign of the dividend; the dividend by zero. -/
def remS (A B : Word) : Word := if B = 0 then A else BitVec.ofInt 64 (A.toInt.tmod B.toInt)
/-- R41's unsigned quotient. -/
def quotU (A B : Word) : Word := if B = 0 then BitVec.allOnes 64 else BitVec.ofNat 64 (A.toNat / B.toNat)
/-- R41's unsigned remainder. -/
def remU (A B : Word) : Word := if B = 0 then A else BitVec.ofNat 64 (A.toNat % B.toNat)

/-- R98's rows that read A = x[a] and B = x[b]. -/
def intRRows : List ((Reg → Reg → Reg → Instr) × (Word → Word → Word)) := [
  (.add, fun A B => BitVec.ofInt 64 (A.toInt + B.toInt)),
  (.sub, fun A B => BitVec.ofInt 64 (A.toInt - B.toInt)),
  (.and, fun A B => A &&& B),
  (.or, fun A B => A ||| B),
  (.xor, fun A B => A ^^^ B),
  (.andn, fun A B => A &&& ~~~B),
  (.sll, fun A B => BitVec.ofNat 64 (A.toNat * 2 ^ sh6 B)),
  (.srl, fun A B => BitVec.ofNat 64 (A.toNat / 2 ^ sh6 B)),
  (.sra, fun A B => BitVec.ofInt 64 (A.toInt / 2 ^ sh6 B)),
  (.rotl, fun A B => BitVec.ofNat 64 (A.toNat * 2 ^ sh6 B) ||| BitVec.ofNat 64 (A.toNat / 2 ^ (64 - sh6 B))),
  (.slt, fun A B => if A.toInt < B.toInt then 1 else 0),
  (.sltu, fun A B => if A.toNat < B.toNat then 1 else 0),
  (.min, fun A B => BitVec.ofInt 64 (min A.toInt B.toInt)),
  (.max, fun A B => BitVec.ofInt 64 (max A.toInt B.toInt)),
  (.minu, fun A B => BitVec.ofNat 64 (min A.toNat B.toNat)),
  (.maxu, fun A B => BitVec.ofNat 64 (max A.toNat B.toNat)),
  (.mul, fun A B => BitVec.ofInt 64 (A.toInt * B.toInt)),
  (.mulh, fun A B => BitVec.ofInt 64 (A.toInt * B.toInt / 2 ^ 64)),
  (.mulhu, fun A B => BitVec.ofNat 64 (A.toNat * B.toNat / 2 ^ 64)),
  (.div, quotS), (.divu, quotU), (.rem, remS), (.remu, remU)]

/-- R98's rows that read A = x[a] alone. -/
def intR1Rows : List ((Reg → Reg → Instr) × (Word → Word)) := [
  (.clz, fun A => BitVec.ofNat 64 ((List.range 64).takeWhile (fun i => !A.getLsbD (63 - i))).length),
  (.ctz, fun A => BitVec.ofNat 64 ((List.range 64).takeWhile (fun i => !A.getLsbD i)).length),
  (.popc, fun A => BitVec.ofNat 64 ((List.range 64).filter A.getLsbD).length),
  (fun d a => .sext d a 0, fun A => (A.setWidth 8).signExtend 64),
  (fun d a => .sext d a 1, fun A => (A.setWidth 16).signExtend 64),
  (fun d a => .sext d a 2, fun A => (A.setWidth 32).signExtend 64),
  (fun d a => .zext d a 0, fun A => (A.setWidth 8).setWidth 64),
  (fun d a => .zext d a 1, fun A => (A.setWidth 16).setWidth 64),
  (fun d a => .zext d a 2, fun A => (A.setWidth 32).setWidth 64),
  (.bswap, fun A => A.extractLsb' 0 8 ++ A.extractLsb' 8 8 ++ A.extractLsb' 16 8 ++ A.extractLsb' 24 8 ++ A.extractLsb' 32 8
    ++ A.extractLsb' 40 8 ++ A.extractLsb' 48 8 ++ A.extractLsb' 56 8)]

/-- R99's rows with I = sext(imm13). -/
def intIRows : List ((Reg → Reg → BitVec 13 → Instr) × (Word → Word → Word)) := [
  (.addi, fun A I => BitVec.ofInt 64 (A.toInt + I.toInt)),
  (.andi, fun A I => A &&& I),
  (.ori, fun A I => A ||| I),
  (.xori, fun A I => A ^^^ I),
  (.slti, fun A I => if A.toInt < I.toInt then 1 else 0),
  (.sltiu, fun A I => if A.toNat < I.toNat then 1 else 0)]

/-- R99's shifts by a constant. -/
def shiftIRows : List ((Reg → Reg → BitVec 6 → Instr) × (Word → Nat → Word)) := [
  (.slli, fun A sh => BitVec.ofNat 64 (A.toNat * 2 ^ sh)),
  (.srli, fun A sh => BitVec.ofNat 64 (A.toNat / 2 ^ sh)),
  (.srai, fun A sh => BitVec.ofInt 64 (A.toInt / 2 ^ sh))]

/-- U of R99: sext(imm18 × 2^14). -/
def immU (i : BitVec 18) : Word := BitVec.ofInt 64 (i.toInt * 2 ^ 14)

/-- A branch's target: PC and an offset in bytes; PC holds no bit 0 (R9). -/
def target (s : State) (off : Int) : Word := (s.hart.pc + BitVec.ofInt 64 off) &&& ~~~1#64

/-- The conditions of R106. -/
def branchRows : List ((Reg → Reg → BitVec 13 → Instr) × (Word → Word → Bool)) := [
  (.beq, fun A B => A == B), (.bne, fun A B => A != B), (.blt, fun A B => decide (A.toInt < B.toInt)),
  (.bge, fun A B => decide (A.toInt ≥ B.toInt)), (.bltu, fun A B => decide (A.toNat < B.toNat)), (.bgeu, fun A B => decide (A.toNat ≥ B.toNat))]

/-- The x register of a 3-bit field of a 16-bit form: x8 to x15 (R84). -/
def x3 (r : BitVec 3) : Reg := BitVec.ofNat 5 (8 + r.toNat)

/-- R84's forms that write one register: the instruction, its register, and the value its 32-bit expansion gives. -/
def CompressedRows (s : State) (i : Instr) (d : Reg) (v : Word) : Prop :=
  (∃ d3 im, i = .cAddi4sp d3 im ∧ d = x3 d3 ∧ v = s.getX 2 + BitVec.ofNat 64 (im.toNat * 4))
  ∨ (∃ r im, i = .cAddi r im ∧ d = r ∧ v = BitVec.ofInt 64 ((s.getX r).toInt + im.toInt))
  ∨ (∃ r im, i = .cLi r im ∧ d = r ∧ v = BitVec.ofInt 64 im.toInt)
  ∨ (∃ r a, i = .cMv r a ∧ d = r ∧ v = s.getX a)
  ∨ (∃ r a, i = .cAdd r a ∧ d = r ∧ v = s.getX r + s.getX a)
  ∨ (∃ r a, i = .cSub r a ∧ d = r ∧ v = s.getX r - s.getX a)
  ∨ (∃ r a, i = .cAnd r a ∧ d = r ∧ v = s.getX r &&& s.getX a)
  ∨ (∃ r sh, i = .cSlli r sh ∧ d = r ∧ v = BitVec.ofNat 64 ((s.getX r).toNat * 2 ^ sh.toNat))
  ∨ (∃ r sh, i = .cSrli r sh ∧ d = r ∧ v = BitVec.ofNat 64 ((s.getX r).toNat / 2 ^ sh.toNat))

end Sys2Proof.Claim

open Sys2Proof Sys2Proof.Machine Sys2Proof.Claim

/-! ## Scalar integers, branches and jumps -/

/-- R98: each INT-R instruction writes x[d] as the table gives, changes nothing else, traps on no value and sets no flag. -/
def Obligations.IntRegisterResults : Prop :=
  ∀ (s : State) (d a b : Reg), Steady s →
    (∀ p ∈ intRRows, exec (p.1 d a b) s = .next (wrote 4 d (p.2 (s.getX a) (s.getX b)) s))
    ∧ (∀ p ∈ intR1Rows, exec (p.1 d a) s = .next (wrote 4 d (p.2 (s.getX a)) s))
    ∧ exec (.csel d a b) s = .next (wrote 4 d (if s.getX d ≠ 0 then s.getX a else s.getX b) s)

/-- R99, R148: INT-I and LI64 write x[d] as the tables give and change nothing else; LI64's H form replaces the high half. -/
def Obligations.IntImmediateResults : Prop :=
  ∀ (s : State) (d a : Reg), Steady s →
    (∀ p ∈ intIRows, ∀ i : BitVec 13, exec (p.1 d a i) s = .next (wrote 4 d (p.2 (s.getX a) (BitVec.ofInt 64 i.toInt)) s))
    ∧ (∀ p ∈ shiftIRows, ∀ sh : BitVec 6, exec (p.1 d a sh) s = .next (wrote 4 d (p.2 (s.getX a) sh.toNat) s))
    ∧ (∀ i : BitVec 18, exec (.lih d i) s = .next (wrote 4 d (immU i) s) ∧ exec (.pcadd d i) s = .next (wrote 4 d (s.hart.pc + immU i) s))
    ∧ (∀ i : BitVec 47, exec (.li64 d false i) s = .next (wrote 8 d (BitVec.ofInt 64 i.toInt) s))
    ∧ ∀ i : BitVec 47, i.toNat < 2 ^ 32 →
        exec (.li64 d true i) s = .next (wrote 8 d (BitVec.ofNat 64 (i.toNat * 2 ^ 32 + (s.getX d).toNat % 2 ^ 32)) s)

/-- R84: a 16-bit form has the result of its expansion, and the next instruction is 2 bytes on. -/
def Obligations.CompressedResults : Prop :=
  ∀ (s : State) (i : Instr) (d : Reg) (v : Word), Steady s → wellFormed i = true → CompressedRows s i d v → exec i s = .next (wrote 2 d v s)

/-- R106: a conditional branch goes to PC + sext(off13) × 2 if its condition holds, else to the next instruction, and changes nothing else. -/
def Obligations.ConditionalBranches : Prop :=
  ∀ (s : State) (a b : Reg) (o : BitVec 13), Steady s → ∀ p ∈ branchRows,
    exec (p.1 a b o) s = .next (retired (if p.2 (s.getX a) (s.getX b) then target s (o.toInt * 2) else s.hart.pc + 4) 0 s)

/-- R84, R107: jumps and the 16-bit branches: the link is the address after the instruction, the target is read before the link is written, and a
register target loses bit 0. -/
def Sys2Proof.Claim.Jumps : Prop :=
  ∀ (s : State), Steady s →
    (∀ (d : Reg) (o : BitVec 18), exec (.jmpl d o) s = .next (retired (target s (o.toInt * 2)) 0 (s.setX d (s.hart.pc + 4))))
    ∧ (∀ (d a : Reg) (i : BitVec 13),
        exec (.jmpr d a i) s = .next (retired ((s.getX a + BitVec.ofInt 64 i.toInt) &&& ~~~1#64) 0 (s.setX d (s.hart.pc + 4))))
    ∧ (∀ o : BitVec 11, exec (.cJ o) s = .next (retired (target s (o.toInt * 2)) 0 s))
    ∧ (∀ a : Reg, a ≠ 0 → exec (.cJr a) s = .next (retired (s.getX a &&& ~~~1#64) 0 s))
    ∧ ∀ (a : BitVec 3) (o : BitVec 8),
        exec (.cBeqz a o) s = .next (retired (if s.getX (x3 a) = 0 then target s (o.toInt * 2) else s.hart.pc + 2) 0 s)
        ∧ exec (.cBnez a o) s = .next (retired (if s.getX (x3 a) ≠ 0 then target s (o.toInt * 2) else s.hart.pc + 2) 0 s)

/-- R108, R109: BSE branches at the end of the stream bound to its register, or where none is; BMANY and BMNONE on the mask's elements below VLV,
of which there are none under VILL; while an older VSETL has still to empty the masks, they wait (R122). -/
def Sys2Proof.Claim.StreamAndMaskBranches : Prop :=
  ∀ (s : State) (o : BitVec 13), Steady s →
    let goes (c : Bool) : Host.Outcome State Fault Refusal := .next (retired (if c then target s (o.toInt * 2) else s.hart.pc + 4) 0 s)
    (∀ n : BitVec 3, exec (.bse n o) s =
        goes (match s.hart.streams[n.toNat]'(by have := n.isLt; omega) with | some b => decide (b.pos ≥ b.scb.rows * b.scb.cols) | none => true))
    ∧ ∀ n : Reg, maskReg n = true →
        let any := !s.hart.vill && (List.range s.hart.vlv).any (fun e => (s.hart.mask n.toNat).testBit e)
        (s.hart.moving = false → exec (.bmany n o) s = goes any ∧ exec (.bmnone n o) s = goes (!any))
        ∧ (s.hart.moving = true → exec (.bmany n o) s = .next (stall s) ∧ exec (.bmnone n o) s = .next (stall s))

/-- R10: x0 reads as zero and writes to it are discarded; another register holds what is written and no other register changes. -/
def Obligations.ZeroRegister : Prop :=
  ∀ (s : State) (v : Word), s.getX 0 = 0 ∧ s.setX 0 v = s
    ∧ ∀ d r : Reg, d ≠ 0 → (s.setX d v).getX r = if r = d then v else s.getX r

/-! ## Scalar memory -/

namespace Sys2Proof.Claim

/-- R101's loads: bytes, and what x[d] receives of them. -/
def scalarLoads : List ((Reg → Reg → BitVec 13 → Instr) × Nat × (Nat → Word)) := [
  (.lb, 1, fun v => (BitVec.ofNat 8 v).signExtend 64), (.lbu, 1, fun v => BitVec.ofNat 64 v),
  (.lh, 2, fun v => (BitVec.ofNat 16 v).signExtend 64), (.lhu, 2, fun v => BitVec.ofNat 64 v),
  (.lw, 4, fun v => (BitVec.ofNat 32 v).signExtend 64), (.lwu, 4, fun v => BitVec.ofNat 64 v), (.ld, 8, fun v => BitVec.ofNat 64 v)]

/-- R101's stores and their bytes. -/
def scalarStores : List ((Reg → Reg → BitVec 13 → Instr) × Nat) := [(.sb, 1), (.sh, 2), (.sw, 4), (.sd, 8)]

/-- A load of R101 or R84: its length, destination, address, bytes and extension. -/
def LoadForm (s : State) (i : Instr) (len : Nat) (d : Reg) (A : Word) (n : Nat) (ext : Nat → Word) : Prop :=
  (∃ p ∈ scalarLoads, ∃ (a : Reg) (im : BitVec 13), i = p.1 d a im ∧ len = 4 ∧ A = s.getX a + BitVec.ofInt 64 im.toInt ∧ n = p.2.1 ∧ ext = p.2.2)
  ∨ (∃ (d3 a3 : BitVec 3) (im : BitVec 5), i = .cLd d3 a3 im ∧ wellFormed i = true ∧ len = 2 ∧ d = x3 d3
      ∧ A = s.getX (x3 a3) + BitVec.ofNat 64 (im.toNat * 8) ∧ n = 8 ∧ ext = BitVec.ofNat 64)
  ∨ (∃ (d3 a3 : BitVec 3) (im : BitVec 5), i = .cLw d3 a3 im ∧ len = 2 ∧ d = x3 d3
      ∧ A = s.getX (x3 a3) + BitVec.ofNat 64 (im.toNat * 4) ∧ n = 4 ∧ ext = fun v => (BitVec.ofNat 32 v).signExtend 64)

/-- A store of R101 or R84: its length, address, bytes and the register it stores. -/
def StoreForm (s : State) (i : Instr) (len : Nat) (A : Word) (n : Nat) (b : Reg) : Prop :=
  (∃ p ∈ scalarStores, ∃ (a : Reg) (im : BitVec 13), i = p.1 a b im ∧ len = 4 ∧ A = s.getX a + BitVec.ofInt 64 im.toInt ∧ n = p.2)
  ∨ (∃ (b3 a3 : BitVec 3) (im : BitVec 5), i = .cSd b3 a3 im ∧ len = 2 ∧ b = x3 b3 ∧ A = s.getX (x3 a3) + BitVec.ofNat 64 (im.toNat * 8) ∧ n = 8)
  ∨ (∃ (b3 a3 : BitVec 3) (im : BitVec 5), i = .cSw b3 a3 im ∧ len = 2 ∧ b = x3 b3 ∧ A = s.getX (x3 a3) + BitVec.ofNat 64 (im.toNat * 4) ∧ n = 4)

/-- The address of LDA and SDREL (R77, R101). -/
def scopedAt (s : State) (a : Reg) (im : BitVec 10) : Word := s.getX a + BitVec.ofInt 64 (im.toInt * 8)

/-- R206's integer atomics on `w`-bit patterns: the new value from the old one and x[b]. -/
def amoRows : List ((Reg → Reg → Reg → BitVec 2 → BitVec 2 → Instr) × (Nat → Nat → Nat → Nat)) := [
  (.amoadd, fun w old b => (old + b) % 2 ^ w), (.amoand, fun _ old b => old &&& b), (.amoor, fun _ old b => old ||| b),
  (.amoxor, fun _ old b => old ^^^ b),
  (.amomin, fun w old b => wrapInt w (min (toSigned w old) (toSigned w b))), (.amomax, fun w old b => wrapInt w (max (toSigned w old) (toSigned w b))),
  (.amominu, fun _ old b => min old b), (.amomaxu, fun _ old b => max old b), (.amoswap, fun _ _ b => b)]

/-- The hypotheses under which an atomic of `n` bytes at a device-local address completes (R207). -/
def AtomicAt (s : State) (A : Word) (n : Nat) (m : Mapped) : Prop :=
  A.toNat % n = 0 ∧ A.getLsbD 63 = false ∧ checkAccess s .store false n A = .ok m ∧ s.hart.stores = [] ∧ OwesNone s ∧ poisonedAt s m.pa n = false
    ∧ LinkUp s m.pa n ∧ Unheld s m.pa n

/-- A scalar store of `n` bytes through a translation as it waits in its hart's buffer (R250). -/
def waiting (m : Mapped) (n v : Nat) (rel : Bool) : BufferedStore :=
  { parts := [[{ pa := m.pa, n := n, mask := 2 ^ (8 * n) - 1, val := v % 2 ^ (8 * n), uc := m.uc, abench := m.abench, bad := false }]], anyOrder := false,
    clears := [], vector := false, rel := rel, left := 0 }

/-- An atomic's next state: memory holds `new`, x[d] holds `old`, and nothing else of the hart has changed. -/
def AtomicDone (s t : State) (d : Reg) (m : Mapped) (n : Nat) (new : Nat) (old : Word) : Prop :=
  StoredAt s t m.pa n new ∧ SameButStore t (wrote 4 d old (forgetAhead s))

end Sys2Proof.Claim

/-- R101, R102: an aligned, permitted load writes its bytes, extended, to x[d] and changes nothing else but cache and row state; device space answers
an 8-byte load itself (R296). Older vector stores that may touch the sector have performed first (R103). -/
def Sys2Proof.Claim.LoadResults : Prop :=
  ∀ (s : State) (i : Instr) (len : Nat) (d : Reg) (A : Word) (n : Nat) (ext : Nat → Word) (m : Mapped), Steady s → NoUpset s →
    LoadForm s i len d A n ext → Grants s .load n A m →
    (isDevice m.pa = true → ∃ t, exec i s = .next t ∧ SameButRows t (wrote len d (devRead s m.pa) s))
    ∧ (isDevice m.pa = false →
      let u := afterVectors s m.pa n
      ((∀ e ∈ s.hart.stores, e.vector = false) → u = s)
      ∧ ∀ v, Seen u m n v → ∃ t, exec i s = .next t ∧ SameButRows t (wrote len d (ext v) u))

/-- R105: a load from a poisoned sector traps 0x07 with the sector's address and leaves x[d], or, with PTRAP 0, writes 0 and sets PSN. -/
def Sys2Proof.Claim.PoisonedLoads : Prop :=
  ∀ (s : State) (i : Instr) (len : Nat) (d : Reg) (A : Word) (n : Nat) (ext : Nat → Word) (m : Mapped), Steady s → NoUpset s →
    LoadForm s i len d A n ext → Grants s .load n A m → isDevice m.pa = false → LinkUp s m.pa n →
    let u := afterVectors s m.pa n
    viewPoisoned u m n = true →
    ∃ t, exec i s = .next t ∧
      SameButRows t (if s.hart.ptrap then trappedHere 0x07 (BitVec.ofNat 64 (A.toNat / 64 * 64)) u
        else retired (s.hart.pc + BitVec.ofNat 64 len) PSN (u.setX d 0))

/-- R101: LDA loads 8 bytes as LD does; at core scope or wider it first empties the hart's L1 view (R104), and it names the sector WFE watches (R216).
Its misaligned and domain addresses trap. -/
def Sys2Proof.Claim.LoadAcquire : Prop :=
  ∀ (s : State) (d a : Reg) (scope : BitVec 3) (im : BitVec 10), Steady s → scope.toNat < 6 →
    let A := scopedAt s a im
    (A.toNat % 8 ≠ 0 → exec (.lda d a scope im) s = .next (trappedHere 0x02 A s))
    ∧ (A.toNat % 8 = 0 → A.getLsbD 63 = true → exec (.lda d a scope im) s = .next (trappedHere 0x0D A s))
    ∧ ∀ m, NoUpset s → Grants s .load 8 A m →
        let named := s.withHart { s.hart with lastLda := some (m.pa / 64 * 64) }
        let view := if scope = 0 then named else dropL1 named
        (isDevice m.pa = true → ∃ t, exec (.lda d a scope im) s = .next t ∧ SameButRows t (wrote 4 d (devRead s m.pa) view)
          ∧ (scope ≠ 0 → (t.core (coreOf s.hart.id)).l1 = []))
        ∧ (isDevice m.pa = false →
          let u := afterVectors view m.pa 8
          ∀ v, Seen u m 8 v → ∃ t, exec (.lda d a scope im) s = .next t ∧ SameButRows t (wrote 4 d (BitVec.ofNat 64 v) u))

/-- R101: an aligned, permitted store changes exactly its bytes, and of the hart only PC and INSTRET (and what streams had read ahead, R139); put off,
it stands last in the hart's buffer and memory is as before. -/
def Sys2Proof.Claim.StoreResults : Prop :=
  ∀ (s : State) (i : Instr) (len : Nat) (A : Word) (n : Nat) (b : Reg) (m : Mapped), Steady s → Sound s → NoUpset s →
    StoreForm s i len A n b → Grants s .store n A m → isDevice m.pa = false →
    (s.policy.bufferStores = false → s.hart.stores = [] → LinkUp s m.pa n → Unheld s m.pa n →
      ∃ t, exec i s = .next t ∧ StoredAt s t m.pa n (s.getX b).toNat ∧ SameButStore t (passed len (forgetAhead s)))
    ∧ (s.policy.bufferStores = true → (∀ e ∈ s.hart.stores, e.vector = false) →
      ∃ t, exec i s = .next t ∧ SameButRows t (passed len (forgetAhead (s.withHart { s.hart with
        stores := s.hart.stores ++ [waiting m n (s.getX b).toNat false] }))))

/-- R101, R104: SDREL stores x[b] at once where stores do; put off, it waits for every older store at device scope and wider, and at a narrower scope the
older ones are marked visible there. Its misaligned and domain addresses trap. -/
def Sys2Proof.Claim.StoreRelease : Prop :=
  ∀ (s : State) (a b : Reg) (scope : BitVec 3) (im : BitVec 10), Steady s → scope.toNat < 6 →
    let A := scopedAt s a im
    (A.toNat % 8 ≠ 0 → exec (.sdrel a b scope im) s = .next (trappedHere 0x02 A s))
    ∧ (A.toNat % 8 = 0 → A.getLsbD 63 = true → exec (.sdrel a b scope im) s = .next (trappedHere 0x0D A s))
    ∧ ∀ m, Sound s → NoUpset s → OwesNone s → Grants s .store 8 A m → isDevice m.pa = false →
        (s.policy.bufferStores = false → s.hart.stores = [] → LinkUp s m.pa 8 → Unheld s m.pa 8 →
          ∃ t, exec (.sdrel a b scope im) s = .next t ∧ StoredAt s t m.pa 8 (s.getX b).toNat ∧ SameButStore t (passed 4 (forgetAhead s)))
        ∧ (s.policy.bufferStores = true → (∀ e ∈ s.hart.stores, e.vector = false) →
          let older := if scope = 0 ∨ 4 ≤ scope.toNat then s.hart.stores else s.hart.stores.map (fun e => { e with left := max e.left scope.toNat })
          ∃ t, exec (.sdrel a b scope im) s = .next t ∧ SameButRows t (passed 4 (forgetAhead (s.withHart { s.hart with
            stores := older ++ [waiting m 8 (s.getX b).toNat (decide (4 ≤ scope.toNat))] }))))

/-- R38, R101: a misaligned scalar access traps 0x02, and an aligned one whose bits [62:57] are not zero below bit 63 traps 0x04 or 0x05, with the
address in TRAPVAL; the hart's registers and memory are untouched. -/
def Sys2Proof.Claim.AddressTraps : Prop :=
  ∀ (s : State) (i : Instr) (len : Nat) (d : Reg) (A : Word) (n : Nat) (ext : Nat → Word) (load : Bool),
    (if load then LoadForm s i len d A n ext else StoreForm s i len A n d) →
    (A.toNat % n ≠ 0 → exec i s = .next (trappedHere 0x02 A s))
    ∧ (A.toNat % n = 0 → A.getLsbD 63 = false → A.extractLsb' 57 6 ≠ 0 →
        exec i s = .next (trappedHere (if load then 0x04 else 0x05) A s))

/-- R312: with both stages of translation off, an address below 2^52 in memory is its own physical address, for every access. -/
def Sys2Proof.Claim.UntranslatedAddresses : Prop :=
  ∀ (s : State) (k : AccessKind) (dev : Bool) (n : Nat) (A : Word),
    s.hart.ptbase.getLsbD 0 = false → (s.partn s.hart.partid).g2base.getLsbD 0 = false →
    (s.core (coreOf s.hart.id)).tlb = [] → (s.bench (benchOf s.hart.id)).tlb = [] →
    A.toNat < 2 ^ 52 → A.toNat % n = 0 → isMemory A.toNat = true →
    ∃ m, checkAccess s k dev n A = .ok m ∧ m.pa = A.toNat ∧ m.uc = false ∧ m.abench = none

/-- R206, R207: an atomic replaces memory's value by the operation's and gives x[d] the old one, sign-extended; CAS writes x[b] only where the old value
is x[d]'s. -/
def Sys2Proof.Claim.AtomicResults : Prop :=
  ∀ (s : State) (d a b : Reg) (w o : BitVec 2) (m : Mapped), Steady s → Sound s → NoUpset s → w.toNat < 2 →
    let bits := if w = 0 then 32 else 64
    let old := memRead s.mem m.pa (bits / 8)
    let B := (s.getX b).toNat % 2 ^ bits
    let x := BitVec.ofInt 64 (toSigned bits old)
    AtomicAt s (s.getX a) (bits / 8) m →
    (∀ p ∈ amoRows, ∃ t, exec (p.1 d a b w o) s = .next t ∧ AtomicDone s t d m (bits / 8) (p.2 bits old B) x)
    ∧ ∃ t, exec (.amocas d a b w o) s = .next t
        ∧ AtomicDone s t d m (bits / 8) (if old = (s.getX d).toNat % 2 ^ bits then B else old) x

/-- R206: AMOFADD adds FP32, or BF16 in its halfword form, rounding RNE, writes the sum, and gives x[d] the old value zero-extended; it raises no flag. -/
def Sys2Proof.Claim.AtomicFloatAdd : Prop :=
  ∀ (s : State) (d a b : Reg) (half : Bool) (o : BitVec 2) (m : Mapped), Steady s → Sound s → NoUpset s →
    let f := if half then 0x06 else 0x05
    let n := if half then 2 else 4
    let old := memRead s.mem m.pa n
    AtomicAt s (s.getX a) n m →
    ∃ t, exec (.amofadd d a b half o) s = .next t
      ∧ AtomicDone s t d m n (roundOp f 0 false 0 (addVal 0 (decodeVal f old) (decodeVal f ((s.getX b).toNat % 2 ^ (8 * n))))).1 (BitVec.ofNat 64 old)

/-! ## Scalar floating point -/

namespace Sys2Proof.Claim

/-- The format an FP instruction's fmt field names (R81): FP32, FP64 or BF16. -/
def scalarFmt (fmt : BitVec 2) : Nat := if fmt = 0 then 0x05 else if fmt = 1 then 0x04 else 0x06

/-- An operand: the low bits of its register (R10, R110). -/
def operand (fmt : BitVec 2) (w : Word) : Val := decodeVal (scalarFmt fmt) (w.toNat % 2 ^ elemWidth (scalarFmt fmt))

/-- The rounding code of the instruction, or FRM.RM for 7; only 0 to 4 round a scalar (R30, R110). -/
def roundCode (s : State) (rm : BitVec 3) : Nat := if rm = 7 then (s.hart.frm.extractLsb' 0 3).toNat else rm.toNat

/-- A result code, zero-extended, with its flags (R10). -/
def fpWrote (d : Reg) (r : Nat × BitVec 7) (s : State) : State := retired (s.hart.pc + 4) r.2 (s.setX d (BitVec.ofNat 64 r.1))

/-- R111's exact results of a and b. -/
def fpRows : List ((Reg → Reg → Reg → BitVec 3 → BitVec 2 → Instr) × (Nat → Val → Val → Val × BitVec 7)) := [
  (.fadd, fun c x y => addVal c x y), (.fsub, fun c x y => addVal c x y.flip), (.fmul, fun _ x y => mulVal x y), (.fdiv, fun _ x y => divVal x y)]

/-- R111's exact results of a × b with the addend x[d]. -/
def fusedRows : List ((Reg → Reg → Reg → BitVec 3 → BitVec 2 → Instr) × (Nat → Val → Val → Val → Val × BitVec 7)) := [
  (.fma, fun c x y z => fusedVal c x y z), (.fms, fun c x y z => fusedVal c x y z.flip), (.fnma, fun c x y z => fusedVal c x.flip y z)]

end Sys2Proof.Claim

/-- R61, R110, R111: scalar FP arithmetic computes its operands' result exactly and rounds it once into the format; x[d] holds the code zero-extended and
FFLAGS gains its flags. -/
def Obligations.ScalarFpArithmetic : Prop :=
  ∀ (s : State) (d a b : Reg) (rm : BitVec 3) (fmt : BitVec 2), Steady s → rm ≠ 5 → rm ≠ 6 → fmt ≠ 3 → roundCode s rm < 5 →
    let f := scalarFmt fmt
    let c := roundCode s rm
    let done (i : Instr) (r : Nat × BitVec 7) : Prop := Unenabled r.2 s → exec i s = .next (fpWrote d r s)
    (∀ p ∈ fpRows, done (p.1 d a b rm fmt) (roundOp f c false 0 (p.2 c (operand fmt (s.getX a)) (operand fmt (s.getX b)))))
    ∧ done (.fsqrt d a rm fmt) (roundOp f c false 0 (sqrtVal (operand fmt (s.getX a))))
    ∧ ∀ p ∈ fusedRows,
        done (p.1 d a b rm fmt) (roundOp f c false 0 (p.2 c (operand fmt (s.getX a)) (operand fmt (s.getX b)) (operand fmt (s.getX d))))

/-- R63, R112, R114: FMIN and FMAX, the four comparisons, and the sign injections. -/
def Sys2Proof.Claim.ScalarFpComparisons : Prop :=
  ∀ (s : State) (d a b : Reg) (rm c : BitVec 3) (fmt : BitVec 2), Steady s → fmt ≠ 3 →
    let f := scalarFmt fmt
    let low (r : Reg) : Nat := (s.getX r).toNat % 2 ^ elemWidth f
    let done (i : Instr) (r : Nat × BitVec 7) : Prop := Unenabled r.2 s → exec i s = .next (fpWrote d r s)
    (rm ≠ 5 → rm ≠ 6 → roundCode s rm < 5 →
      done (.fmin d a b rm fmt) (fpMinMax f false (low a) (low b)) ∧ done (.fmax d a b rm fmt) (fpMinMax f true (low a) (low b)))
    ∧ (c.toNat < 4 → let r := fpCompare c.toNat (operand fmt (s.getX a)) (operand fmt (s.getX b))
        done (.fcmp d a b c fmt) (if r.1 then 1 else 0, r.2))
    ∧ (c.toNat < 3 → done (.fsgnj d a b c fmt) (signInject f c.toNat (s.getX a).toNat (s.getX b).toNat))

/-- R113: FCLASS writes a value in which exactly the bit of its operand's class is set, and sets no flag. -/
def Obligations.ScalarFpClass : Prop :=
  ∀ (s : State) (d a : Reg) (fmt : BitVec 2), Steady s → fmt ≠ 3 →
    let f := scalarFmt fmt
    let x := (s.getX a).toNat % 2 ^ elemWidth f
    let neg := x.testBit (elemWidth f - 1)
    let mb := if fmt = 0 then 23 else if fmt = 1 then 52 else 7
    let eb := if fmt = 1 then 11 else 8
    let E := x / 2 ^ mb % 2 ^ eb
    let M := x % 2 ^ mb
    let k := if E = 2 ^ eb - 1 then (if M = 0 then (if neg then 0 else 7) else if M.testBit (mb - 1) then 9 else 8)
      else if E = 0 then (if M = 0 then (if neg then 3 else 4) else if neg then 2 else 5)
      else if neg then 1 else 6
    exec (.fclass d a fmt) s = .next (wrote 4 d (BitVec.ofNat 64 (2 ^ k)) s)

/-- R54 to R56, R115: FCVT rounds by FRM.RM between floats, and between floats and integers. -/
def Sys2Proof.Claim.ScalarFpConversions : Prop :=
  ∀ (s : State) (d a : Reg) (c : BitVec 3) (fmt : BitVec 2), Steady s → wellFormed (.fcvt d a c fmt) = true → (s.hart.frm.extractLsb' 0 3).toNat < 5 →
    let f := scalarFmt fmt
    let rm := (s.hart.frm.extractLsb' 0 3).toNat
    let A := s.getX a
    let float (g : Nat) : Nat × BitVec 7 :=
      let v := decodeVal g (A.toNat % 2 ^ elemWidth g)
      roundOp f rm false 0 (v, if v.isSig then NV else 0)
    let int (lo hi : Int) : Nat × BitVec 7 := let r := toIntRange rm 0 lo hi (operand fmt A); (wrapInt 64 r.1, r.2)
    let r : Nat × BitVec 7 := match c.toNat with
      | 0 => float 0x04 | 1 => float 0x05 | 2 => float 0x06
      | 3 => int (-2 ^ 63) (2 ^ 63 - 1) | 4 => int 0 (2 ^ 64 - 1)
      | 5 => roundVal f rm false 0 (valInt A.toInt) | 6 => roundVal f rm false 0 (valInt A.toNat)
      | _ => int (-2 ^ 31) (2 ^ 31 - 1)
    Unenabled r.2 s → exec (.fcvt d a c fmt) s = .next (fpWrote d r s)

/-- R30, R39, R71: an instruction that raises an enabled flag completes, its result and flags in place, and traps 0x08 once, with the flags it raised in
TRAPVAL and the next instruction's address in TRAPPC; VRI is 0 after it. -/
def Sys2Proof.Claim.EnabledFlagTraps : Prop :=
  ∀ (s : State) (d a b : Reg) (rm : BitVec 3) (fmt : BitVec 2), Steady s → rm ≠ 5 → rm ≠ 6 → fmt ≠ 3 → roundCode s rm < 5 → ∀ p ∈ fpRows,
    let c := roundCode s rm
    let r := roundOp (scalarFmt fmt) c false 0 (p.2 c (operand fmt (s.getX a)) (operand fmt (s.getX b)))
    ¬ Unenabled r.2 s →
    exec (p.1 d a b rm fmt) s = .next (let t := trapped 0x08 (r.2.setWidth 64) (s.hart.pc + 4) (fpWrote d r s); t.withHart { t.hart with vri := 0 })

/-! ## Traps, levels and system registers -/

namespace Sys2Proof.Claim

/-- The bits an illegal or privileged instruction leaves in TRAPVAL (R38). -/
def bitsOf (i : Instr) : Word := match encode i with | some c => c.value | none => 0

/-- The instructions that need supervisor or monitor level whatever their operands, with that level (R80, R204). -/
def LevelOf (i : Instr) (l : Nat) : Prop :=
  (i = .tret ∧ l = 1) ∨ (∃ d a, i = .farm d a ∧ l = 1) ∨ (∃ a, i = .notify a ∧ l = 1) ∨ (∃ a g m, i = .tlbinv a g m ∧ l = 1)
    ∨ (∃ all, i = .cinv all ∧ l = 1) ∨ (i = .halt ∧ l = 3)

/-- STATUS.PRV. -/
def levelOf (s : State) : Nat := (s.hart.status.extractLsb' 0 2).toNat

/-- R27's registers, R313's and R439's: number, least level that reads it, and its value. -/
def sysValues (s : State) : List (Nat × Nat × Word) :=
  let h := s.hart
  [(0x000, 0, h.status), (0x001, 0, h.id.setWidth 64), (0x002, 0, BitVec.ofNat 64 (h.farm.toNat + h.part.toNat * 2 ^ 16 + farmPrio s * 2 ^ 20)),
   (0x003, 0, h.stripno), (0x010, 0, h.vtype.setWidth 64), (0x011, 0, BitVec.ofNat 64 h.vlg), (0x012, 0, BitVec.ofNat 64 h.vlv), (0x013, 0, h.vri),
   (0x014, 0, 256), (0x015, 0, if h.granted then h.rscg.setWidth 64 else 0), (0x016, 0, h.lslip.setWidth 64),
   (0x020, 0, h.fflags.setWidth 64), (0x021, 0, h.frm.setWidth 64),
   (0x030, 0, h.k[0]), (0x031, 0, h.k[1]), (0x032, 0, h.k[2]), (0x033, 0, h.k[3]),
   (0x034, 0, BitVec.ofNat 64 (h.keyTable.length + if h.keyOvf then 2 ^ 7 else 0)),
   (0x040, 1, h.trapcause), (0x041, 1, h.trappc), (0x042, 1, h.trapval), (0x043, 1, h.trapbase), (0x044, 1, h.trapscratch), (0x045, 1, h.trapstatus),
   (0x046, 1, h.trapowe.setWidth 64), (0x050, 0, h.skew.setWidth 64), (0x051, 0, h.pwrhint.setWidth 64),
   (0x060, 0, h.cycle), (0x061, 0, h.instret), (0x062, 0, s.time), (0x100, 1, h.ptbase), (0x101, 1, h.asid.setWidth 64), (0x102, 1, h.partid.setWidth 64),
   (0x200, 3, (s.partn h.partid).g2base), (0x201, 3, h.g2fval), (0x210, 3, s.dram.rmth.setWidth 64),
   (0x220, 3, BitVec.ofNat 64 ((if s.boot.warm then 1 else 0) + (if s.boot.fallback then 2 else 0) + (if s.boot.failfAtStart then 4 else 0) + s.boot.cfailAtStart % 4 * 8))]

/-- The bits `m` of `old` replaced by those of `new`. -/
def masked (m old new : Word) : Word := (new &&& m) ||| (old &&& ~~~m)

/-- The registers software writes: number, least level that writes it, and the state after writing `v`, `bits` being what x[d] supplied (R25 to R33,
R313). STATUS has fields of its own at each level (R28); a VTYPE is judged (R31); KEYCTL.OVF is cleared by a supplied bit 7 (R33). -/
def sysEffects (v bits : Word) (s : State) : List (Nat × Nat × State) :=
  let h := s.hart
  let new (h : Hart) : State := s.withHart h
  [(0x000, 0, new { h with status := masked (if levelOf s = 0 then 0x60 else if levelOf s = 3 then 0x274 else 0x264) h.status v }),
   (0x010, 1, new (if vtypeLegal (v.extractLsb' 0 20 |>.setWidth 64) then { h with vtype := v.extractLsb' 0 20, status := h.status &&& ~~~8#64 }
     else { h with vtype := v.extractLsb' 0 20, status := h.status ||| 8, vlg := 0, vlv := 0 })),
   (0x013, 1, new { h with vri := v }), (0x016, 1, new { h with lslip := v.extractLsb' 0 4 }),
   (0x020, 0, new { h with fflags := v.extractLsb' 0 7 }), (0x021, 0, new { h with frm := v.extractLsb' 0 8 }),
   (0x030, 1, new { h with k := h.k.set 0 v }), (0x031, 1, new { h with k := h.k.set 1 v }), (0x032, 1, new { h with k := h.k.set 2 v }),
   (0x033, 1, new { h with k := h.k.set 3 v }),
   (0x034, 0, new { h with keyOvf := if bits.getLsbD 7 then false else h.keyOvf }),
   (0x040, 1, new { h with trapcause := v &&& 0x8000_0000_0000_00FF }), (0x041, 1, new { h with trappc := v }), (0x042, 1, new { h with trapval := v }),
   (0x043, 1, new { h with trapbase := v &&& ~~~3#64 }), (0x044, 1, new { h with trapscratch := v }), (0x045, 1, new { h with trapstatus := v &&& 0x67F }),
   (0x046, 1, new { h with trapowe := v.extractLsb' 0 12 }), (0x050, 1, new { h with skew := v.extractLsb' 0 4 }),
   (0x051, 0, new { h with pwrhint := v.extractLsb' 0 2 }), (0x100, 1, new { h with ptbase := v &&& 0x000F_FFFF_FFE0_0001 }),
   (0x101, 1, new { h with asid := v.extractLsb' 0 16 }), (0x102, 3, new { h with partid := v.extractLsb' 0 3 }),
   (0x200, 3, s.setPart h.partid { s.partn h.partid with g2base := v &&& 0x000F_FFFF_FFFF_0001 }), (0x201, 3, new { h with g2fval := v }),
   (0x210, 3, if 64 ≤ v.toNat % 65536 ∧ v.toNat % 65536 ≤ 16384 then { s with dram := { s.dram with rmth := v.extractLsb' 0 16 } } else s)]

end Sys2Proof.Claim

/-- R34, R38, R234: TRAP completes, counts, and traps 0x0A with its code; BRK traps 0x09 at its own address without completing. Under SSTEP, TRAP's
0x09 is recorded in TRAPOWE (R39). -/
def Sys2Proof.Claim.TrapInstructions : Prop :=
  ∀ (s : State) (code : BitVec 12), s.hart.partFlags = 0 →
    (let t := trapped 0x0A (code.setWidth 64) (s.hart.pc + 4) (passed 4 s)
     exec (.trap code) s = .next (t.withHart { t.hart with vri := 0, trapowe := if s.hart.stepping then 0x200 else s.hart.trapowe }))
    ∧ exec .brk s = .next (trappedHere 0x09 s.hart.pc s)

/-- R332, R39: a user hart under SSTEP traps 0x09 after the instruction it completes: TRAPPC and TRAPVAL hold the next address and VRI stays. -/
def Obligations.SingleStep : Prop :=
  ∀ (s : State) (d a b : Reg), s.hart.status.getLsbD 9 = true → levelOf s = 0 → s.hart.partFlags = 0 → ∀ p ∈ intRRows,
    exec (p.1 d a b) s = .next (trapped 0x09 (s.hart.pc + 4) (s.hart.pc + 4) (wrote 4 d (p.2 (s.getX a) (s.getX b)) s))

/-- R34, R40, R235: TRET restores STATUS but for HALTED and resumes at TRAPPC; it raises 0x01 and changes nothing when TRAPSTATUS.PRV is 2 or above the
hart's level; an owed 0x08 is taken first, with TRAPPC as it stands and its bits cleared. -/
def Obligations.TrapReturn : Prop :=
  ∀ (s : State), 1 ≤ levelOf s →
    let h := s.hart
    let p := (h.trapstatus.extractLsb' 0 2).toNat
    let back : State := s.withHart { h with
      status := (h.trapstatus &&& ~~~0x400#64) ||| (h.status &&& 0x400#64), pc := h.trappc &&& ~~~1#64, instret := h.instret + 1 }
    (p = 2 ∨ levelOf s < p → exec .tret s = .next (trappedHere 0x01 (bitsOf .tret) s))
    ∧ (p ≠ 2 → p ≤ levelOf s → h.trapowe.extractLsb' 7 3 = 0 → exec .tret s = .next back)
    ∧ (p ≠ 2 → p ≤ levelOf s → h.trapowe.getLsbD 7 = true →
        let u := back.withHart { back.hart with trapowe := h.trapowe &&& 0xF00 }
        let t := trapped 0x08 ((h.trapowe.extractLsb' 0 7).setWidth 64) h.trappc u
        exec .tret s = .next (t.withHart { t.hart with vri := 0 }))

/-- R24, R445: an instruction that needs a higher level raises 0x01, with its bits in TRAPVAL, and has no effect; TLBINV with G2 needs monitor level. -/
def Sys2Proof.Claim.PrivilegedInstructions : Prop :=
  ∀ (s : State) (i : Instr) (l : Nat),
    (LevelOf i l → levelOf s < l → exec i s = .next (trappedHere 0x01 (bitsOf i) s))
    ∧ ∀ (a : Reg) (mode : BitVec 2), i = .tlbinv a true mode → wellFormed i = true → levelOf s < 3 → exec i s = .next (trappedHere 0x01 (bitsOf i) s)

/-- R25, R27: SRD writes to x[d] the register's value, where the level reads it, and changes nothing else; a number outside the map raises 0x00, and a
level too low 0x01. -/
def Sys2Proof.Claim.SystemRegisterReads : Prop :=
  ∀ (s : State) (d : Reg) (n : BitVec 12),
    (∀ r ∈ sysValues s, r.1 = n.toNat → r.2.1 ≤ levelOf s → Steady s → exec (.srd d n) s = .next (wrote 4 d r.2.2 s))
    ∧ (∀ r ∈ sysValues s, r.1 = n.toNat → levelOf s < r.2.1 → exec (.srd d n) s = .next (trappedHere 0x01 (bitsOf (.srd d n)) s))
    ∧ ((∀ r ∈ sysValues s, r.1 ≠ n.toNat) → exec (.srd d n) s = .next (trappedHere 0x00 (bitsOf (.srd d n)) s))

/-- R25: on a number outside the map SWR, SRSET and SRCLR raise 0x00; else they change only the register they name, in the fields their level may write; SRSET and SRCLR give x[d] the old value. Below the
level that writes a register they raise 0x01; on a register that no level writes, 0x00. -/
def Sys2Proof.Claim.SystemRegisterWrites : Prop :=
  ∀ (s : State) (d : Reg) (n : BitVec 12), Steady s →
    ((∀ r ∈ sysValues s, r.1 ≠ n.toNat) → ∀ i ∈ [Instr.swr d n, .srset d n, .srclr d n], exec i s = .next (trappedHere 0x00 (bitsOf i) s))
    ∧ ∀ r ∈ sysValues s, r.1 = n.toNat →
    let X := s.getX d
    let old := r.2.2
    (∀ w ∈ sysEffects X X s, w.1 = n.toNat → w.2.1 ≤ levelOf s → exec (.swr d n) s = .next (passed 4 w.2.2))
    ∧ (∀ w ∈ sysEffects (old ||| X) X s, w.1 = n.toNat → w.2.1 ≤ levelOf s → exec (.srset d n) s = .next (passed 4 (w.2.2.setX d old)))
    ∧ (∀ w ∈ sysEffects (old &&& ~~~X) X s, w.1 = n.toNat → w.2.1 ≤ levelOf s → exec (.srclr d n) s = .next (passed 4 (w.2.2.setX d old)))
    ∧ ∀ i ∈ [Instr.swr d n, .srset d n, .srclr d n],
        (∀ w ∈ sysEffects X X s, w.1 = n.toNat → levelOf s < w.2.1 → exec i s = .next (trappedHere 0x01 (bitsOf i) s))
        ∧ ((∀ w ∈ sysEffects X X s, w.1 ≠ n.toNat) → exec i s = .next (trappedHere (if levelOf s < r.2.1 then 0x01 else 0x00) (bitsOf i) s))

/-! ## Instructions that move nothing, keys, fences and maintenance -/

/-- R87, R204: NOP and C.NOP, and a SYS word with sysop6 48 to 63 whatever its fields, only advance PC and count in INSTRET. -/
def Obligations.NopsAndHints : Prop :=
  ∀ (s : State), Steady s → exec .nop s = .next (passed 4 s) ∧ exec .cNop s = .next (passed 2 s)
    ∧ ∀ (h : BitVec 4) (d a : Reg) (im : BitVec 7), exec (.hint h d a im) s = .next (passed 4 s)

/-- R210, R211: FENCE, with no store waiting, empties the hart's L1 view where it acquires onto H at core scope or wider, and otherwise only completes; while
an older record, schedule or store to a domain address of its from-set has not ended, or one to be acknowledged has not been, the hart stays at it. -/
def Sys2Proof.Claim.Fences : Prop :=
  ∀ (s : State) (f t : BitVec 5) (ack rel acq : Bool) (scope : BitVec 3), Steady s → wellFormed (.fence f t ack rel acq scope) = true → s.hart.stores = [] → OwesNone s →
    (fenceWaits s f ack = true → exec (.fence f t ack rel acq scope) s = .next (s.withHart { s.hart with stalled := true }))
    ∧ (fenceWaits s f ack = false →
        exec (.fence f t ack rel acq scope) s = .next (passed 4 (if acq = true ∧ t.getLsbD 0 = true ∧ scope ≠ 0 then dropL1 s else s)))

/-- R22, R33, R222: KEYSET installs its value; a new value joins the table, or sets OVF when 64 are there; a value found there traps 0x0B under KRW, after
the KEYSET, naming the value. KEYCLR empties the table and leaves OVF and the keys. -/
def Obligations.KeyInstructions : Prop :=
  ∀ (s : State) (a : Reg) (n : BitVec 2), Steady s →
    let v := s.getX a
    let h := { s.hart with k := s.hart.k.set n.toNat v (by have := n.isLt; omega) }
    (v ∈ h.keyTable → exec (.keyset a n) s = .next (let u := passed 4 (s.withHart h)
        if h.status.getLsbD 6 then (let t := trapped 0x0B v (s.hart.pc + 4) u; t.withHart { t.hart with vri := 0 }) else u))
    ∧ (v ∉ h.keyTable → h.keyTable.length < 64 → exec (.keyset a n) s = .next (passed 4 (s.withHart { h with keyTable := h.keyTable ++ [v] })))
    ∧ (v ∉ h.keyTable → 64 ≤ h.keyTable.length → exec (.keyset a n) s = .next (passed 4 (s.withHart { h with keyOvf := true })))
    ∧ exec .keyclr s = .next (passed 4 (s.withHart { s.hart with keyTable := [] }))

/-- R237, R238: CINV empties the instruction cache of the hart's core, or of every core with a hart of its partition; CFLUSH empties the L1, or drops the line
of its address; TLBINV leaves no translation it names in any TLB and keeps every other, and no older value of a table entry remains for a walk (R320). -/
def Sys2Proof.Claim.CacheAndTranslationMaintenance : Prop :=
  ∀ (s : State), Steady s → NoUpset s → s.hart.stores = [] →
    (1 ≤ levelOf s → ∀ all : Bool, ∃ t, exec (.cinv all) s = .next t ∧ t = { passed 4 s with cores := t.cores }
      ∧ ∀ c, (t.core c).l1 = (s.core c).l1 ∧ (t.core c).tlb = (s.core c).tlb
          ∧ (t.core c).icache = if c = coreOf s.hart.id ∨ (all = true ∧ ∃ h ∈ s.harts, h.partid = s.hart.partid ∧ coreOf h.id = c) then [] else (s.core c).icache)
    ∧ exec (.cflush 0 true) s = .next (passed 4 (dropL1 s))
    ∧ (∀ (a : Reg) m, translate s s.hart.space (some s.hart.id) .load (s.getX a) = .ok m → ∃ t, exec (.cflush a false) s = .next t
        ∧ SameButRows t (passed 4 s)
        ∧ ∀ c, (t.core c).l1 = if c = coreOf s.hart.id
            then (s.core c).l1.filter (fun p => !((List.range 4).map (fun i => m.pa / 256 * 256 + 64 * i)).contains p.addr) else (s.core c).l1)
    ∧ ∀ (a : Reg) (g2 : Bool) (mode : BitVec 2), wellFormed (.tlbinv a g2 mode) = true → (if g2 then 3 else 1) ≤ levelOf s →
        ∃ t, exec (.tlbinv a g2 mode) s = .next t
          ∧ t = { passed 4 s with cores := t.cores, benches := t.benches, l2 := t.l2, dram := t.dram, life := t.life, held := [] }
          ∧ ∀ (c b : Nat) (e : TlbEntry),
            (e ∈ (t.core c).tlb ↔ e ∈ (s.core c).tlb ∧ invalidates s.hart g2 mode (s.getX a) e = false)
            ∧ (e ∈ (t.bench b).tlb ↔ e ∈ (s.bench b).tlb ∧ invalidates s.hart g2 mode (s.getX a) e = false)

/-- R236: NOTIFY sends the partition's function the vector in x[a][15:0], or traps 0x06 with the vector number when it is at or beyond VCNT. -/
def Sys2Proof.Claim.Notification : Prop :=
  ∀ (s : State) (a : Reg), Steady s → 1 ≤ levelOf s → s.hart.stores = [] →
    let v := (s.getX a).toNat % 2 ^ 16
    exec (.notify a) s = .next (if v < (s.partn s.hart.partid).vcnt.toNat
      then { passed 4 s with links := { s.links with msix := s.links.msix ++ [(s.hart.partid.toNat + 1, v)] } }
      else trappedHere 0x06 (BitVec.ofNat 64 v) s)

/-- R239: HALT completes and places the hart in debug halt, with PC at the next instruction and HALTED set. -/
def Sys2Proof.Claim.DebugHalt : Prop :=
  ∀ (s : State), levelOf s = 3 → s.hart.partFlags = 0 → s.hart.stores = [] →
    let u := forgetAhead (passed 4 s)
    exec .halt s = .next (u.withHart { u.hart with run := .halted, haltAsked := false, status := s.hart.status ||| 0x400 })

/-! ## Farms, strips and waits -/

/-- R218, R270, R329: FARM with a legal record makes a farm whose number no live farm has, with its record, its dependence open or met, and the hart's
TRAPBASE, PTBASE and ASID, and writes the number; a record that breaks R217 is refused with reason 1, one without a bench with 2, and beyond 256 live farms with 3. -/
def Sys2Proof.Claim.FarmCreation : Prop :=
  ∀ (s : State) (d a : Reg) (m : Mapped) (v : Nat), Steady s → NoUpset s → 1 ≤ levelOf s → s.hart.stores = [] →
    (s.getX a).toNat % 64 = 0 → (s.getX a).getLsbD 63 = false → checkAccess s .load false 1 (s.getX a) = .ok m → Seen s m 64 v →
    (∃ k, k ∉ usedNumbers s) →
    let r := farmRecOf v
    let p := s.hart.partid
    let full := (s.farms.filter (fun g => g.state != .done && g.rcd.part == p)).length ≥ 256
    let benches := (List.range 48).any (fun b => r.place.testBit b && (s.partn p).hasBench b)
    ∃ t, exec (.farm d a) s = .next t ∧
      if ¬ farmRecOk p v then SameButRows t (wrote 4 d 0x8000_0000_0000_0001 s)
      else if ¬ benches then SameButRows t (wrote 4 d 0x8000_0000_0000_0002 s)
      else if full then SameButRows t (wrote 4 d 0x8000_0000_0000_0003 s)
      else ∃ n f, SameButRows t { wrote 4 d (n.setWidth 64) s with farms := t.farms, fresh := s.fresh + 1 } ∧ t.farmOf n = some f
        ∧ (∀ g ∈ s.farms, g.state ≠ .done → g.num ≠ n ∧ g ∈ t.farms) ∧ f.rcd = r ∧ f.nextStrip = 0
        ∧ f.state = (if r.depaddr ≠ 0 then .blocked else if r.strips = 0 then .completing else .ready)
        ∧ f.trapbase = s.hart.trapbase ∧ f.ptbase = s.hart.ptbase ∧ f.asid = s.hart.asid

/-- R219: a strip is claimed once, in ascending order; STRIPNO and x[d] hold it, or all ones when none is left or the hart is the bureau's. STRIP.r with
none left retires the hart instead: it is no longer resident. The 16-bit form does the same. -/
def Sys2Proof.Claim.StripClaims : Prop :=
  ∀ (s : State) (d : Reg) (ret : Bool), Steady s →
    let none' : Word := BitVec.allOnes 64
    let claim (c : Word) (u : State) (len : Nat) : State := wrote len d c (u.withHart { u.hart with stripno := c })
    (s.hart.bureau = true → exec (.strip d ret) s = .next (claim none' s 4) ∧ exec (.cStrip d ret) s = .next (claim none' s 2))
    ∧ ∀ f, s.hart.bureau = false → s.farmOf s.hart.farm = some f →
      (f.nextStrip < f.rcd.strips →
        let u := s.updFarm f.num (fun g => { g with nextStrip := g.nextStrip + 1 })
        let c := BitVec.ofNat 64 f.nextStrip
        exec (.strip d ret) s = .next (claim c u 4) ∧ exec (.cStrip d ret) s = .next (claim c u 2))
      ∧ (f.rcd.strips ≤ f.nextStrip → ret = false →
        exec (.strip d ret) s = .next (claim none' s 4) ∧ exec (.cStrip d ret) s = .next (claim none' s 2))
      ∧ (f.rcd.strips ≤ f.nextStrip → ret = true → ∃ t, exec (.strip d ret) s = .next t ∧ exec (.cStrip d ret) s = .next t
          ∧ t.hart.run = .absent ∧ t.hart.x = s.hart.x ∧ t.hart.instret = s.hart.instret + 1)

/-- R215, R216: FJOIN gives x[d] the doubleword at its address once it is not zero, and sleeps until then; WFE sleeps, or ends with 1 when an interrupt is
pending for the hart. -/
def Sys2Proof.Claim.JoinsAndEvents : Prop :=
  ∀ (s : State) (d a : Reg), Steady s → s.hart.stores = [] →
    (∀ m, NoUpset s → (s.getX a).toNat % 8 = 0 → (s.getX a).getLsbD 63 = false → checkAccess s .load false 8 (s.getX a) = .ok m → LinkUp s m.pa 8 →
      let v := memRead s.mem m.pa 8
      ∃ t, exec (.fjoin d a) s = .next t
        ∧ (v ≠ 0 → SameButRows t (wrote 4 d (BitVec.ofNat 64 v) (s.withHart { s.hart with run := .ready })) ∧ (t.core (coreOf s.hart.id)).l1 = [])
        ∧ (v = 0 → SameButRows t (s.withHart { s.hart with run := .asleep (.fjoin d (s.getX a)) })))
    ∧ ((s.getX a).toNat % 8 ≠ 0 → exec (.fjoin d a) s = .next (trappedHere 0x02 (s.getX a) s))
    ∧ ((s.getX a).toNat % 8 = 0 → (s.getX a).getLsbD 63 = true → exec (.fjoin d a) s = .next (trappedHere 0x0D (s.getX a) s))
    ∧ ((s.partn s.hart.part).suspTaken = false →
      exec (.wfe d a) s = .next (if s.hart.bureau = true ∧ (s.partn s.hart.part).pending ≠ [] then wrote 4 d 1 (s.withHart { s.hart with run := .ready })
        else s.withHart { s.hart with run := .asleep (.wfe d s.time (s.getX a)) }))

/-- R213: VWAIT on plain registers reads each selected address once: with every condition met it writes 0, clears the bits of its mask and empties the L1 view
if any was met; otherwise it sleeps, keeping those that were met. -/
def Sys2Proof.Claim.VectorWaits : Prop :=
  ∀ (s : State) (d a b : Reg) (m : MaskField) (w : Bool) (c : BitVec 2), PlainVec s → wellFormed (.vwait d a b m w c) = true →
    indexFits s.hart b.toNat = true → (s.hart.vreg b.toNat).fmt = 3 →
    let n := if w then 4 else 8
    let addr (e : Nat) : Word := BitVec.ofNat 64 (elemAt s.hart s.hart.capBits b.toNat (indexRegs s.hart b.toNat) 64 e)
    let es := (List.range s.hart.vlv).filter (fun e => s.hart.selects m false e)
    (∀ e ∈ es, watchFault s n (addr e) = none) →
    let u := watchFirst n (es.map addr) s
    let met (e : Nat) : Bool := match watchValue u n (addr e) with | some v => waitCond c w v (s.getX a) | none => false
    let sat := es.filter met
    let ends : State :=
      let q := if sat = [] then u else dropL1 u
      let img := sat.foldl (fun k e => if k.testBit e then k - 2 ^ e else k) (s.hart.mask m.toNat)
      let h := q.hart.setMask m.toNat img
      wrote 4 d 0 (q.withHart { h with run := .ready, vri := 0 })
    exec (.vwait d a b m w c) s = .next (if es.all met then ends
      else u.withHart { s.hart with run := .asleep (.vwait d (s.getX a) (es.map (fun e => (e, addr e))) m w c s.time (s.getX d) sat b) })
    ∧ (NoUpset s → (∀ e ∈ es, ∀ q, checkAccess s .load false n (addr e) = .ok q → LinkUp s q.pa n) → SameButRows u s)

/-- R221: YIELD ends the hart's turn and changes no architectural state but PC and INSTRET, unless a suspension it has accepted begins (R331). -/
def Sys2Proof.Claim.Yields : Prop :=
  ∀ (s : State), Steady s → (s.partn s.hart.part).suspTaken = false → exec .yield s = .next (passed 4 (s.withHart { s.hart with yielded := true }))

/-! ## Vectors -/

namespace Sys2Proof.Claim

/-- The operand groups of an element-wise instruction on plain registers stand where R12 and R17 allow. -/
def GroupsFit (s : State) (rs : List Reg) : Prop := ∀ r ∈ rs, groupFits r.toNat s.hart.grp (compCount s.hart.fmt) = true

/-- Operand b of element `e`: the register group's element, or the low bits of x[b] under `.vx` (R151). -/
def operandOf (s : State) (b : Reg) (vx : Bool) (w e : Nat) : Nat := if vx then (s.getX b).toNat % 2 ^ w else elemOf s b w e

/-- Whether element `e` of the group at `r` is valid in its register's own tag: only such an element sets flags (R70). -/
def validOf (s : State) (r : Reg) (w e : Nat) : Bool := elemValid s.hart s.hart.capBits r.toNat w e

/-- The elements an instruction does. -/
def doneElems (s : State) (m : MaskField) (neg : Bool) : List Nat := (List.range s.hart.vlv).filter (Does s m neg)

/-- What R150 to R153 say of an element-wise instruction on plain registers: element `e` becomes `f e` where it is done and stays elsewhere, the flags are
those of the done elements whose operands are valid, and nothing else changes. -/
def ElementWise (i : Instr) (s : State) (vd : Reg) (m : MaskField) (neg : Bool) (fmt : Nat) (f : Nat → Nat × BitVec 7) (valid : Nat → Bool) : Prop :=
  let w := elemWidth fmt
  let fl := flagsOf (doneElems s m neg) (fun e => if valid e then (f e).2 else 0)
  Unenabled fl s → ∃ v, exec i s = .next (vecDone fl v s)
    ∧ HoldsGroup s v vd.toNat s.hart.grp fmt s.hart.vlv (fun e => if Does s m neg e then lowBits w (f e).1 else elemOf s vd w e)

/-- A clamp to the signed range of `w` bits under `.sat`, which sets SAT when it changes the value; else a wrap (R41, R154). -/
def satWrap (sat : Bool) (w : Nat) (v : Int) : Nat × BitVec 7 :=
  let c := max (-2 ^ (w - 1)) (min (2 ^ (w - 1) - 1) v)
  if sat then (wrapInt w c, if c = v then 0 else SAT) else (wrapInt w v, 0)

/-- The value of a pattern under U. -/
def valueOf (uns : Bool) (w x : Nat) : Int := if uns then (x % 2 ^ w : Nat) else toSigned w x

/-- R154's rows with a modifier (`.sat` or U): the result of element patterns x and y. -/
def vecIntRows : List ((Reg → Reg → Reg → MaskField → Bool → Bool → Bool → Instr) × (Bool → Nat → Nat → Nat → Nat × BitVec 7)) := [
  (.vadd, fun sat w x y => satWrap sat w (toSigned w x + toSigned w y)),
  (.vsub, fun sat w x y => satWrap sat w (toSigned w x - toSigned w y)),
  (.vmul, fun sat w x y => satWrap sat w (toSigned w x * toSigned w y)),
  (.vmulh, fun u w x y => (wrapInt w (valueOf u w x * valueOf u w y / 2 ^ w), 0)),
  (.vdiv, fun u w x y => (if y = 0 then 2 ^ w - 1 else wrapInt w ((valueOf u w x).tdiv (valueOf u w y)), 0)),
  (.vrem, fun u w x y => (if y = 0 then x else wrapInt w ((valueOf u w x).tmod (valueOf u w y)), 0)),
  (.vmin, fun u w x y => (wrapInt w (min (valueOf u w x) (valueOf u w y)), 0)),
  (.vmax, fun u w x y => (wrapInt w (max (valueOf u w x) (valueOf u w y)), 0))]

/-- R154's rows without one. -/
def vecBitRows : List ((Reg → Reg → Reg → MaskField → Bool → Bool → Instr) × (Nat → Nat → Nat → Nat)) := [
  (.vand, fun _ x y => x &&& y), (.vor, fun _ x y => x ||| y), (.vxor, fun _ x y => x ^^^ y),
  (.vsll, fun w x y => x * 2 ^ (y % w) % 2 ^ w), (.vsrl, fun w x y => x / 2 ^ (y % w)), (.vsra, fun w x y => wrapInt w (toSigned w x / 2 ^ (y % w)))]

/-- R158's rows: the exact result of a, b and vd, and which of b and vd they read. -/
def vecFpRows : List ((Reg → Reg → Reg → MaskField → Bool → Bool → Instr) × Bool × (Nat → Val → Val → Val → Val × BitVec 7)) := [
  (.vfadd, false, fun c x y _ => addVal c x y), (.vfsub, false, fun c x y _ => addVal c x y.flip), (.vfmul, false, fun _ x y _ => mulVal x y),
  (.vfdiv, false, fun _ x y _ => divVal x y), (.vfma, true, fun c x y d => fusedVal c x y d), (.vfms, true, fun c x y d => fusedVal c x y d.flip),
  (.vfnma, true, fun c x y d => fusedVal c x.flip y d)]

/-- R159's functions in the order of R62. -/
def elementaryRows : List ((Reg → Reg → MaskField → Bool → Instr) × Nat) := [(.vfexp, 0), (.vflog, 1), (.vfrcp, 2), (.vfrsq, 3), (.vftanh, 4)]

/-- What R155, R156 and R20 say of an instruction that writes mask bits: bit `e` becomes `f e` where it is done, every other bit stays. -/
def MaskWrites (i : Instr) (s : State) (md : Reg) (does : Nat → Bool) (f : Nat → Bool) (fl : BitVec 7) : Prop :=
  Unenabled fl s → ∃ img, exec i s = .next (maskDone fl md img s)
    ∧ ∀ e, img.testBit e = if does e then f e else (s.hart.mask md.toNat).testBit e

end Sys2Proof.Claim

/-- R41, R150 to R154: the integer element-wise instructions. -/
def Sys2Proof.Claim.VectorIntegers : Prop :=
  ∀ (s : State) (vd a b : Reg) (m : MaskField) (neg md vx : Bool), PlainVec s → (neg = true → m ≠ 0) → s.hart.fmt < 4 →
    GroupsFit s (vd :: a :: if vx then [] else [b]) →
    let w := elemWidth s.hart.fmt
    let x := elemOf s a w
    let y := operandOf s b vx w
    let valid (e : Nat) : Bool := validOf s a w e && (vx || validOf s b w e)
    (∀ p ∈ vecIntRows, ElementWise (p.1 vd a b m neg md vx) s vd m neg s.hart.fmt (fun e => p.2 md w (x e) (y e)) valid)
    ∧ (∀ p ∈ vecBitRows, ElementWise (p.1 vd a b m neg vx) s vd m neg s.hart.fmt (fun e => (p.2 w (x e) (y e), 0)) valid)
    ∧ ElementWise (.vabs vd a m neg md) s vd m neg s.hart.fmt (fun e => satWrap md w (toSigned w (x e)).natAbs) (validOf s a w)

/-- R155 to R157: carries, compares and merges. VADC and VSBC add or subtract the mask's carry to every element below VLV, or write its carry or borrow
out; a compare writes a mask; VMERGE takes each element from b where the mask selects and from a elsewhere. -/
def Sys2Proof.Claim.VectorCarriesComparesMerges : Prop :=
  ∀ (s : State) (vd a b : Reg) (m : MaskField) (neg vx : Bool) (c : BitVec 3), PlainVec s → (neg = true → m ≠ 0) →
    GroupsFit s (a :: if vx then [] else [b]) →
    let w := elemWidth s.hart.fmt
    let x := elemOf s a w
    let y := operandOf s b vx w
    let all (e : Nat) : Bool := decide (e < s.hart.vlv) && decide (s.hart.vri.toNat ≤ e)
    let k (e : Nat) : Nat := if m = 0 then 0 else if (s.hart.mask m.toNat).testBit e != neg then 1 else 0
    (s.hart.fmt < 4 → GroupsFit s [vd] →
      ElementWise (.vadc vd a b m neg false vx) s vd 0 false s.hart.fmt (fun e => ((x e + y e + k e) % 2 ^ w, 0)) (fun _ => true)
      ∧ ElementWise (.vsbc vd a b m neg false vx) s vd 0 false s.hart.fmt (fun e => (wrapInt w ((x e : Int) - y e - k e), 0)) (fun _ => true))
    ∧ (s.hart.fmt < 4 → maskReg vd = true →
      MaskWrites (.vadc vd a b m neg true vx) s vd all (fun e => decide (2 ^ w ≤ x e + y e + k e)) 0
      ∧ MaskWrites (.vsbc vd a b m neg true vx) s vd all (fun e => decide (x e < y e + k e)) 0)
    ∧ (s.hart.fmt < 4 → maskReg vd = true → vx = false →
      MaskWrites (.vcmp vd a b m c) s vd (Does s m false) (fun e =>
        let sx := toSigned w (x e); let sy := toSigned w (y e)
        match c.toNat with
        | 0 => decide (x e = y e) | 1 => decide (x e ≠ y e) | 2 => decide (sx < sy) | 3 => decide (sx ≥ sy)
        | 4 => decide (x e < y e) | 5 => decide (x e ≥ y e) | 6 => decide (sx ≤ sy) | _ => decide (x e ≤ y e)) 0)
    ∧ (4 ≤ s.hart.fmt → s.hart.fmt < 8 → maskReg vd = true → vx = false →
      MaskWrites (.vfcmp vd a b m c) s vd (Does s m false) (fun e => (fpCond c.toNat s.hart.fmt (x e) (y e)).1)
        (flagsOf (doneElems s m false) (fun e => if validOf s a w e && validOf s b w e then (fpCond c.toNat s.hart.fmt (x e) (y e)).2 else 0)))
    ∧ (isBlock s.hart.fmt = false → m ≠ 0 → GroupsFit s [vd] → ∃ v, exec (.vmerge vd a b m neg vx) s = .next (vecDone 0 v s)
      ∧ HoldsGroup s v vd.toNat s.hart.grp s.hart.fmt s.hart.vlv (fun e =>
          if all e then cleanElem s.hart.fmt (if s.hart.selects m neg e then y e else x e) else elemOf s vd w e))

/-- R61, R63, R113, R158, R159: the floating-point element-wise instructions; the vector type's rounding code rounds, with the counter's random word for element
`e` under code 5 (R57, R58), and the elementary functions always round to nearest even. -/
def Obligations.VectorFloats : Prop :=
  ∀ (s : State) (vd a b : Reg) (m : MaskField) (neg vx : Bool), PlainVec s → (neg = true → m ≠ 0) → 4 ≤ s.hart.fmt → s.hart.fmt < 8 →
    GroupsFit s (vd :: a :: if vx then [] else [b]) →
    let f := s.hart.fmt
    let w := elemWidth f
    let x := elemOf s a w
    let y := operandOf s b vx w
    let z := elemOf s vd w
    let ab (e : Nat) : Bool := validOf s a w e && (vx || validOf s b w e)
    (∀ rm, s.hart.vrm = some rm →
      let draw (e : Nat) : Nat := if rm = 5 then drawZ s.hart.keySel (e % 2 ^ 48) 0 else 0
      (∀ p ∈ vecFpRows, ElementWise (p.1 vd a b m neg vx) s vd m neg f
        (fun e => roundOp f rm false (draw e) (p.2.2 rm (decodeVal f (x e)) (decodeVal f (y e)) (decodeVal f (z e)))) (fun e => ab e && (!p.2.1 || validOf s vd w e)))
      ∧ ElementWise (.vfsqrt vd a m neg) s vd m neg f (fun e => roundOp f rm false (draw e) (sqrtVal (decodeVal f (x e)))) (validOf s a w))
    ∧ ElementWise (.vfmin vd a b m neg vx) s vd m neg f (fun e => fpMinMax f false (x e) (y e)) ab
    ∧ ElementWise (.vfmax vd a b m neg vx) s vd m neg f (fun e => fpMinMax f true (x e) (y e)) ab
    ∧ ElementWise (.vfclass vd a m neg) s vd m neg (if f = 4 then 3 else if f = 5 then 2 else 1) (fun e => (2 ^ fpClass f (x e), 0)) (validOf s a w)
    ∧ (f = 5 ∨ f = 6 → ∀ p ∈ elementaryRows,
        ElementWise (p.1 vd a m neg) s vd m neg f (fun e => roundOp f 0 false 0 (elementary p.2 (decodeVal f (x e)))) (validOf s a w))

/-- R141 to R143: moves, splats, indices, slides, permutes and compression on plain registers, each element's bits unchanged. -/
def Sys2Proof.Claim.VectorMoves : Prop :=
  ∀ (s : State) (vd a b : Reg) (m : MaskField), PlainVec s → isBlock s.hart.fmt = false → GroupsFit s [vd] →
    let f := s.hart.fmt
    let w := elemWidth f
    let g := s.hart.grp
    let inGroup (e : Nat) : Bool := decide ((e + 1) * w ≤ s.hart.capBits * g)
    let src (e : Nat) : Nat := if inGroup e then elemOf s a w e else 0
    let moves (i : Instr) (val : Nat → Nat) : Prop := ∃ v, exec i s = .next (vecDone 0 v s)
      ∧ HoldsGroup s v vd.toNat g f s.hart.vlv (fun e => if Does s m false e then cleanElem f (val e) else elemOf s vd w e)
    let apart (r : Reg) (n : Nat) : Prop := overlaps vd.toNat g r.toNat n = false
    (GroupsFit s [a] → moves (.vmv vd a m) src)
    ∧ moves (.vsplat vd a m) (fun _ => (s.getX a).toNat % 2 ^ memWidth f)
    ∧ (f < 4 → moves (.vid vd a m) (fun e => (s.getX a).toNat + e))
    ∧ (f < 4 → maskReg a = true → moves (.viota vd a m) (fun e => ((List.range e).filter (fun j => decide (j < s.hart.vlv) && (s.hart.mask a.toNat).testBit j)).length))
    ∧ (GroupsFit s [a] → apart a g → moves (.vslideup vd a b m) (fun e =>
        if e < (s.getX b).toNat then elemOf s vd w e else src (e - (s.getX b).toNat)))
    ∧ (GroupsFit s [a] → moves (.vslidedn vd a b m) (fun e => src (e + (s.getX b).toNat)))
    ∧ (GroupsFit s [a] → apart a g → indexFits s.hart b.toNat = true → apart b (indexRegs s.hart b.toNat) → (s.hart.vreg b.toNat).fmt.toNat < 4 →
        moves (.vperm vd a b m) (fun e =>
          src (elemAt s.hart s.hart.capBits b.toNat (indexRegs s.hart b.toNat) (elemWidth (s.hart.vreg b.toNat).fmt.toNat) e)))
    ∧ (GroupsFit s [a] → apart a g → s.hart.vri = 0 →
        let act := (List.range s.hart.vlv).filter (fun e => s.hart.selects m false e)
        ∃ v, exec (.vcompress vd a m) s = .next (vecDone 0 v s)
          ∧ HoldsGroup s v vd.toNat g f act.length (fun k => cleanElem f (src (act.getD k 0))))

/-- R19, R144 to R147: rows and columns of the 2-D view, one element to a scalar register, retagging and release. -/
def Sys2Proof.Claim.VectorSlicesAndTags : Prop :=
  ∀ (s : State) (vd a b d : Reg) (m : MaskField) (sg : Bool), PlainVec s → isBlock s.hart.fmt = false →
    let f := s.hart.fmt
    let w := elemWidth f
    let g := s.hart.grp
    let j := (s.getX b).toNat
    let rows := (s.hart.vlv + 255) / 256
    let src (e : Nat) : Nat := if (e + 1) * w ≤ s.hart.capBits * g then elemOf s a w e else 0
    let sel (k : Nat) : Bool := m == 0 || (decide (k < s.hart.vlv) && (s.hart.mask m.toNat).testBit k)
    (GroupsFit s [vd, a] → s.hart.v2d = true → overlaps vd.toNat g a.toNat g = false →
      let takes (i : Instr) (n : Nat) (at' : Nat → Option Nat) : Prop := ∃ t v, exec i s = .next t ∧ t = { vecDone 0 v s with fresh := t.fresh }
        ∧ HoldsGroup s v vd.toNat g f n (fun k => if s.hart.vri.toNat ≤ k ∧ sel k = true
            then (match at' k with | some e => if e < s.hart.vlg then cleanElem f (src e) else 0 | none => 0) else elemOf s vd w k)
      let puts (i : Instr) (does : Nat → Bool) (k : Nat → Nat) : Prop := ∃ v, exec i s = .next (vecDone 0 v s)
        ∧ HoldsGroup s v vd.toNat g f s.hart.vlv (fun e => if s.hart.vri.toNat ≤ e ∧ does e = true ∧ sel (k e) = true then cleanElem f (src (k e)) else elemOf s vd w e)
      takes (.vmvr vd a b m false) 256 (fun k => if j < rows then some (j * 256 + k) else none)
      ∧ takes (.vmvc vd a b m false) rows (fun k => if j < 256 ∧ k < rows then some (k * 256 + j) else none)
      ∧ puts (.vmvr vd a b m true) (fun e => decide (e / 256 = j)) (fun e => e % 256)
      ∧ puts (.vmvc vd a b m true) (fun e => decide (e % 256 = j)) (fun e => e / 256))
    ∧ (GroupsFit s [a] → exec (.vext d a b sg) s = .next (wrote 4 d
        (if sg then BitVec.ofInt 64 (toSigned (memWidth f) (src j)) else BitVec.ofNat 64 (src j % 2 ^ memWidth f)) s))
    ∧ (GroupsFit s [vd] → ∃ v, exec (.vretag vd) s = .next (passed 4 (s.withHart { s.hart with v := v }))
        ∧ (∀ r, r < 32 → (r < vd.toNat ∨ vd.toNat + g ≤ r) → ({ s.hart with v := v } : Hart).vreg r = s.hart.vreg r)
        ∧ ∀ r, vd.toNat ≤ r → r < vd.toNat + g →
            let o := s.hart.vreg r
            let q := ({ s.hart with v := v } : Hart).vreg r
            q.fmt = BitVec.ofNat 5 f ∧ q.vlen = (o.vlen * elemWidth o.fmt.toNat + w - 1) / w ∧ q.prog = q.vlen ∧ q.dirty = true
              ∧ ∀ n, q.img.testBit n = (decide (n < o.vlen * elemWidth o.fmt.toNat) && o.img.testBit n))
    ∧ exec (.vrelease 0 true) s = .next (passed 4 (s.withHart { s.hart with
        v := s.hart.v.map (fun r => { r with vlen := 0, dirty := false, prog := 0, poison := 0 }), m := Vector.replicate 7 0 }))
    ∧ (GroupsFit s [vd] → ∃ v, exec (.vrelease vd false) s = .next (passed 4 (s.withHart { s.hart with v := v }))
        ∧ ∀ r, r < 32 → ({ s.hart with v := v } : Hart).vreg r =
            if vd.toNat ≤ r ∧ r < vd.toNat + g then { s.hart.vreg r with vlen := 0, dirty := false, prog := 0, poison := 0 } else s.hart.vreg r)

/-- R168, R169: mask logic, shifts and moves write the elements below VLV and leave the bits beyond; counting and searching write x[d]; every one traps
0x10 under VILL. Resumed at or above VL they touch no element (R335). -/
def Sys2Proof.Claim.MaskInstructions : Prop :=
  ∀ (s : State) (md a b d : Reg) (m : MaskField) (imm : Bool), Steady s → s.hart.moving = false →
    maskReg md = true → maskReg a = true →
    let n := if 0 < s.hart.vri.toNat ∧ s.hart.vlg ≤ s.hart.vri.toNat then 0 else s.hart.vlv
    let bit (r : Reg) (e : Nat) : Bool := (s.hart.mask r.toNat).testBit e
    let sh := if imm then b.toNat else (s.getX b).toNat
    let writes (i : Instr) (f : Nat → Bool) : Prop :=
      (s.hart.vill = true → exec i s = .next (trappedHere 0x10 (s.hart.vtype.setWidth 64) s))
      ∧ (s.hart.vill = false → MaskWrites i s md (fun e => decide (e < n)) f 0)
    let picks := (List.range n).filter (fun e => bit a e && (m == 0 || (s.hart.mask m.toNat).testBit e))
    let counts (i : Instr) (v : Word) : Prop :=
      (s.hart.vill = true → exec i s = .next (trappedHere 0x10 (s.hart.vtype.setWidth 64) s))
      ∧ (s.hart.vill = false → exec i s = .next (wrote 4 d v (s.withHart { s.hart with vri := 0 })))
    (maskReg b = true → writes (.mand md a b) (fun e => bit a e && bit b e) ∧ writes (.mor md a b) (fun e => bit a e || bit b e)
      ∧ writes (.mxor md a b) (fun e => bit a e != bit b e) ∧ writes (.mandn md a b) (fun e => bit a e && !bit b e))
    ∧ writes (.mnot md a) (fun e => !bit a e) ∧ writes (.mmv md a) (bit a) ∧ writes (.mset md) (fun _ => true) ∧ writes (.mclr md) (fun _ => false)
    ∧ writes (.mshl md a b imm) (fun e => decide (sh ≤ e) && bit a (e - sh))
    ∧ writes (.mshr md a b imm) (fun e => decide (e + sh < n) && bit a (e + sh))
    ∧ counts (.mpopc d a m) (BitVec.ofNat 64 picks.length)
    ∧ counts (.mfirst d a m) (match picks with | [] => BitVec.allOnes 64 | e :: _ => BitVec.ofNat 64 e)
    ∧ counts (.mlast d a m) (match picks.reverse with | [] => BitVec.allOnes 64 | e :: _ => BitVec.ofNat 64 e)

/-- R31, R117 to R120: VSETL and VSETLI with a legal type clear VILL, set VTYPE, VL and VLV and write VLV to x[d]; the class granted is the largest that
fits the core's drawers and does not exceed the request; an unchanged class moves nothing. An illegal type sets VILL with VL and VLV 0 and writes 0. -/
def Obligations.VectorLength : Prop :=
  ∀ (s : State) (i : Instr) (len : Nat) (d a : Reg) (req : Word), Steady s → s.hart.moving = false →
    ((∃ k, i = .vsetl d a k ∧ len = 4 ∧ req = (if k then s.hart.vtype.setWidth 64 else s.getX d))
      ∨ (∃ r : BitVec 20, i = .vsetli d a r ∧ len = 8 ∧ req = r.setWidth 64)) →
    let avl := (s.getX a).toNat
    let f := (req.extractLsb' 0 5).toNat
    let b := if f = 0x16 then 64 else if isBlock f then 32 else 1
    (vtypeLegal req = false → exec i s = .next (wrote len d 0 (s.withHart { s.hart with
        vtype := req.extractLsb' 0 20, status := s.hart.status ||| 8, vlg := 0, vlv := 0 })))
    ∧ (vtypeLegal req = true →
      let others := othersDemand s
      ∃ cls vl v, cls ≤ (req.extractLsb' 10 3).toNat ∧ (cls = 0 ∨ others + 80 * 2 ^ cls ≤ 1792)
        ∧ (∀ c, cls < c → c ≤ (req.extractLsb' 10 3).toNat → 1792 < others + 80 * 2 ^ c)
        ∧ (let vmax := min 65536 (8 * (2048 * 2 ^ cls) * 2 ^ (req.extractLsb' 7 3).toNat / elemWidth f)
           (avl = 0 → vl = 0 ∧ v = 0) ∧ (avl ≠ 0 → avl < b → vl = b ∧ v = avl) ∧ (avl ≠ 0 → b ≤ avl → v = vl ∧ vl = min (avl / b * b) vmax))
        ∧ let h := { s.hart with vtype := req.extractLsb' 0 20, status := s.hart.status &&& ~~~8#64, granted := true, rscg := BitVec.ofNat 3 cls,
                                 vlg := vl, vlv := v }
          (cls = s.hart.classCode → exec i s = .next (wrote len d (BitVec.ofNat 64 v) (s.withHart h)))
          ∧ (cls ≠ s.hart.classCode → s.policy.deferMoves = true →
              exec i s = .next (wrote len d (BitVec.ofNat 64 v) (s.withHart { h with moving := true })))
          ∧ (cls ≠ s.hart.classCode → s.policy.deferMoves = false → s.hart.stores = [] → ∃ t, exec i s = .next t
              ∧ t = { wrote len d (BitVec.ofNat 64 v) (forgetAhead (s.withHart { h with
                    v := h.v.map (fun r => { r with vlen := 0, dirty := false, prog := 0, poison := 0 }), m := Vector.replicate 7 0 })) with cores := t.cores }))

/-! ## Vector memory -/

namespace Sys2Proof.Claim

/-- What a vector store may move beside what it writes: `SameButStore`, the counter of free choices, and marks of sectors it covers (R419). -/
def SameButElems (t u : State) : Prop :=
  t = { u with l2 := t.l2, dram := t.dram, life := t.life, mem := t.mem, held := t.held, cores := t.cores, benches := t.benches, fresh := t.fresh, poison := t.poison }
    ∧ SameButCaches t u ∧ ∀ k ∈ t.poison, k ∈ u.poison

/-- Element `e` of a packed run of `w`-bit elements (R46, R125). -/
def packedLoc (base : Word) (w e : Nat) : ElemLoc := { addr := base + BitVec.ofNat 64 (e * w / 8), off := e * w % 8, bits := w }

/-- The address of element `e` under a stride, and under the index group at b, sign-extended from its tag (R125). -/
def stridedLoc (s : State) (a b : Reg) (w e : Nat) : ElemLoc := { addr := s.getX a + BitVec.ofNat 64 e * s.getX b, off := 0, bits := w }
def indexedLoc (s : State) (a b : Reg) (w e : Nat) : ElemLoc :=
  let iw := elemWidth (s.hart.vreg b.toNat).fmt.toNat
  { addr := s.getX a + BitVec.ofInt 64 (toSigned iw (elemAt s.hart s.hart.capBits b.toNat (indexRegs s.hart b.toNat) iw e)), off := 0, bits := w }

/-- The index group stands where R125 allows, apart from the group at vd, with an integer tag. -/
def IndexFits (s : State) (vd b : Reg) : Prop :=
  indexFits s.hart b.toNat = true ∧ overlaps vd.toNat s.hart.grp b.toNat (indexRegs s.hart b.toNat) = false ∧ (s.hart.vreg b.toNat).fmt.toNat < 4

/-- An element can be loaded: it is aligned, translated, permitted and unpoisoned (R126, R130). -/
def Loadable (s : State) (l : ElemLoc) (e : Nat) : Prop := elemFault s .load l e = none ∧ (elemLoad s l).2 = false

/-- The physical byte that holds byte `j` of some mapped spans. -/
def physOf : List (Mapped × Nat) → Nat → Nat
  | [], j => j
  | (m, n) :: t, j => if j < n then m.pa + j else physOf t (j - n)

/-- The bit of an element that stands in bit `k` of physical byte `b`, if one does (R46). -/
def bitOf (s : State) (l : ElemLoc) (b k : Nat) : Option Nat :=
  match mapSpans s .store 1 l.addr l.bytes with
  | .error _ => none
  | .ok ms => ((List.range l.bytes).find? (fun j => physOf ms j = b)).bind (fun j => if l.off ≤ 8 * j + k ∧ 8 * j + k < l.off + l.bits then some (8 * j + k - l.off) else none)

/-- Memory after a list of element stores: a bit no element covers is as before; a covered bit is the last covering element's when the order is kept, and
some covering element's otherwise (R128). -/
def StoredBits (s t : State) (ordered : Bool) (ws : List (ElemLoc × Nat)) : Prop :=
  ∀ b k, k < 8 →
    match ws.reverse.findSome? (fun w => (bitOf s w.1 b k).map (fun i => w.2.testBit i)) with
    | none => (memGet t.mem b).getLsbD k = (memGet s.mem b).getLsbD k
    | some v => if ordered then (memGet t.mem b).getLsbD k = v else ∃ w ∈ ws, ∃ i, bitOf s w.1 b k = some i ∧ (memGet t.mem b).getLsbD k = w.2.testBit i

/-- An element's store faults nowhere, and none of its bytes lies behind a down link or in a page that a snapshot has still to copy (R126, R310, R323). -/
def Storable (s : State) (l : ElemLoc) (e : Nat) : Prop :=
  elemFault s .store l e = none ∧ ∀ ms, mapSpans s .store 1 l.addr l.bytes = .ok ms → ∀ p ∈ ms, LinkUp s p.1.pa p.2 ∧ Unheld s p.1.pa p.2

/-- Stores go home as they execute, to memory in its canonical form, with no check value upset (R250, R413). -/
def StoresHome (s : State) : Prop := Sound s ∧ NoUpset s ∧ s.policy.bufferStores = false

/-- Whether block `j` of `n` elements is active: it holds an active element (R131). -/
def blockActive (s : State) (m : MaskField) (n j : Nat) : Bool := (List.range n).any (fun i => decide (j * n + i < s.hart.vlv) && s.hart.selects m false (j * n + i))

/-- Where a block-format instruction's parts lie: elements, scales, superscales (R131, R132). -/
structure BlockLocs where
  elem : Nat → ElemLoc
  scale : Nat → ElemLoc
  super : Nat → ElemLoc

/-- VLD and VST: elements packed at x[a], scales at x[b], superscales after them. -/
def flatBlocks (s : State) (a b : Reg) : BlockLocs where
  elem := packedLoc (s.getX a) (memWidth s.hart.fmt)
  scale := packedLoc (s.getX b) 8
  super k := { addr := s.getX b + BitVec.ofNat 64 (4 * (((s.hart.vlg + 63) / 64 + 3) / 4) + 4 * k), off := 0, bits := 32 }

/-- VLDSEG and VSTSEG: segment `j` holds block `j`'s elements, then its scale (with `n` bits of it, padding included, when stored). -/
def segBlocks (s : State) (a b : Reg) (n : Nat) : BlockLocs where
  elem e :=
    let w := memWidth s.hart.fmt
    let B := blockLen s.hart.fmt
    let st := if b = 0 then BitVec.ofNat 64 (B * w / 8 + 4) else s.getX b
    packedLoc (s.getX a + BitVec.ofNat 64 (e / B) * st) w (e % B)
  scale j :=
    let B := blockLen s.hart.fmt
    let st := if b = 0 then BitVec.ofNat 64 (B * memWidth s.hart.fmt / 8 + 4) else s.getX b
    { addr := s.getX a + BitVec.ofNat 64 j * st + BitVec.ofNat 64 (B * memWidth s.hart.fmt / 8), off := 0, bits := n }
  super _ := { addr := 0, off := 0, bits := 0 }

/-- The elements, scales and superscales a block-format instruction moves now; a segment moves whole (R132). -/
def movesElem (s : State) (m : MaskField) (e : Nat) : Bool :=
  decide (e < s.hart.vlv) && decide (s.hart.vri.toNat ≤ e) && blockActive s m (blockLen s.hart.fmt) (e / blockLen s.hart.fmt)
def movesSeg (s : State) (m : MaskField) (e : Nat) : Bool := movesElem s m e && decide (s.hart.vri.toNat ≤ e / blockLen s.hart.fmt * blockLen s.hart.fmt)
def movesScale (s : State) (m : MaskField) (n j : Nat) : Bool := decide (j * n < s.hart.vlv) && decide (s.hart.vri.toNat ≤ j * n) && blockActive s m n j

/-- The scale and superscale an element group's companions hold (R17). -/
def scaleOf (s : State) (r : Reg) (j : Nat) : Nat := elemAt s.hart s.hart.capBits (r.toNat + s.hart.grp) 1 8 j
def superOf (s : State) (r : Reg) (k : Nat) : Nat := elemAt s.hart s.hart.capBits (r.toNat + s.hart.grp + 1) 1 32 k

end Sys2Proof.Claim

/-- R141: VMV of a block format, on plain registers, copies every element below VLV of each block that holds an active element, the block's scale, and for NL4B the
superscale of each superblock that holds one, from VRI on; the others keep theirs. -/
def Sys2Proof.Claim.VectorBlockMoves : Prop :=
  ∀ (s : State) (vd a : Reg) (m : MaskField), PlainVec s → isBlock s.hart.fmt = true → GroupsFit s [vd, a] →
    let f := s.hart.fmt
    let B := blockLen f
    ∃ v, exec (.vmv vd a m) s = .next (vecDone 0 v s)
      ∧ GroupIs s v vd.toNat s.hart.grp f s.hart.vlv (fun e => if movesElem s m e then cleanElem f (elemOf s a (elemWidth f) e) else elemOf s vd (elemWidth f) e)
      ∧ GroupIs s v (vd.toNat + s.hart.grp) 1 (if f = 0x16 then 0x0F else 0x0E) ((s.hart.vlv + B - 1) / B) (fun j => scaleOf s (if movesScale s m B j then a else vd) j)
      ∧ (f = 0x16 → GroupIs s v (vd.toNat + s.hart.grp + 1) 1 0x05 ((s.hart.vlv + 16383) / 16384) (fun k => superOf s (if movesScale s m 16384 k then a else vd) k))
      ∧ OnlyGroup s v vd.toNat (s.hart.grp + if f = 0x16 then 2 else 1)

/-- R125 to R127, R131, R132: a vector load from device-local memory whose elements all pass their checks puts each active element from VRI on into vd and
keeps the rest, under a block format with the scales and superscales of the active blocks; it changes nothing else but cache and row state. Of a segment in
several sectors L1 copies are not used, so that it is read whole (R248). -/
def Sys2Proof.Claim.VectorLoads : Prop :=
  ∀ (s : State) (vd a b : Reg) (m : MaskField) (ff nt u : Bool), PlainVec s → NoUpset s → GroupsFit s [vd] → (s.getX a).getLsbD 63 = false →
    let f := s.hart.fmt
    let w := memWidth f
    let loads (i : Instr) (at' : Nat → ElemLoc) : Prop :=
      (∀ e, Does s m false e = true → Loadable s (at' e) e) →
      ∃ t v, exec i s = .next t ∧ SameButRows t (vecDone 0 v s)
        ∧ HoldsGroup s v vd.toNat s.hart.grp f s.hart.vlv (fun e => if Does s m false e then (elemLoad s (at' e)).1 else elemOf s vd (elemWidth f) e)
    let blocks (i : Instr) (z : State) (mv : Nat → Bool) (l : BlockLocs) (withSuper : Bool) : Prop :=
      (∀ e, mv e = true → Loadable z (l.elem e) e) →
      (∀ j, movesScale s m (blockLen f) j = true → Loadable z (l.scale j) j) →
      (withSuper = true → ∀ k, movesScale s m 16384 k = true → Loadable z (l.super k) k) →
      ∃ t v, exec i s = .next t ∧ SameButRows t (vecDone 0 v s)
        ∧ GroupIs s v vd.toNat s.hart.grp f s.hart.vlv (fun e => if mv e then (elemLoad z (l.elem e)).1 else elemOf s vd (elemWidth f) e)
        ∧ GroupIs s v (vd.toNat + s.hart.grp) 1 (if f = 0x16 then 0x0F else 0x0E) ((s.hart.vlv + blockLen f - 1) / blockLen f)
            (fun j => if movesScale s m (blockLen f) j then (elemLoad z (l.scale j)).1 else scaleOf s vd j)
        ∧ (withSuper = true → GroupIs s v (vd.toNat + s.hart.grp + 1) 1 0x05 ((s.hart.vlv + 16383) / 16384)
            (fun k => if movesScale s m 16384 k then (elemLoad z (l.super k)).1 else superOf s vd k))
        ∧ OnlyGroup s v vd.toNat (s.hart.grp + if withSuper then 2 else 1)
    let p := segPlan s.hart m (s.getX a) (if b = 0 then none else some (s.getX b)) false
    (isBlock f = false → b = 0 → loads (.vld vd a b m ff nt u) (packedLoc (s.getX a) w))
    ∧ (indexable f = true → loads (.vlds vd a b m ff nt u) (stridedLoc s a b w))
    ∧ (indexable f = true → IndexFits s vd b → loads (.vldx vd a b m ff nt u) (indexedLoc s a b w))
    ∧ (isBlock f = true → b ≠ 0 → (s.getX b).getLsbD 63 = false → blocks (.vld vd a b m ff nt u) s (movesElem s m) (flatBlocks s a b) (f == 0x16))
    ∧ (isBlock f = true → (s.getX a).toNat % 4 = 0 → (b = 0 ∨ (s.getX b).toNat % 4 = 0) → blocks (.vldseg vd a b m ff nt u) (wholeSegments (p.elems ++ p.scales ++ p.supers) s) (movesSeg s m) (segBlocks s a b 8) false)

/-- R125 to R128, R131, R132: a vector store to device-local memory whose elements all pass their checks stores exactly its active elements' bits from VRI on,
in ascending order unless U, under a block format with the scales (segments: zero padding too) and superscales of active blocks; the hart and every other
byte stay as they were. -/
def Sys2Proof.Claim.VectorStores : Prop :=
  ∀ (s : State) (vs a b : Reg) (m : MaskField) (nt u : Bool), PlainVec s → StoresHome s → GroupsFit s [vs] → (s.getX a).getLsbD 63 = false →
    let f := s.hart.fmt
    let w := memWidth f
    let done (i : Instr) (ordered : Bool) (ws : List (ElemLoc × Nat)) : Prop :=
      ∃ t, exec i s = .next t ∧ SameButElems t (vecDone 0 s.hart.v (forgetAhead s)) ∧ StoredBits s t ordered ws
    let stores (i : Instr) (at' : Nat → ElemLoc) : Prop :=
      (∀ e, Does s m false e = true → Storable s (at' e) e) →
      done i (!u) ((doneElems s m false).map (fun e => (at' e, elemOf s vs (elemWidth f) e)))
    let blocks (i : Instr) (mv : Nat → Bool) (l : BlockLocs) (withSuper : Bool) : Prop :=
      (∀ e, mv e = true → Storable s (l.elem e) e) →
      (∀ j, movesScale s m (blockLen f) j = true → Storable s (l.scale j) j) →
      (withSuper = true → ∀ k, movesScale s m 16384 k = true → Storable s (l.super k) k) →
      done i false (((List.range s.hart.vlv).filter mv).map (fun e => (l.elem e, elemOf s vs (elemWidth f) e))
        ++ ((List.range s.hart.vlv).filter (movesScale s m (blockLen f))).map (fun j => (l.scale j, scaleOf s vs j))
        ++ if withSuper then ((List.range s.hart.vlv).filter (movesScale s m 16384)).map (fun k => (l.super k, superOf s vs k)) else [])
    (isBlock f = false → b = 0 → stores (.vst vs a b m nt u) (packedLoc (s.getX a) w))
    ∧ (indexable f = true → stores (.vsts vs a b m nt u) (stridedLoc s a b w))
    ∧ (indexable f = true → IndexFits s vs b → stores (.vstx vs a b m nt u) (indexedLoc s a b w))
    ∧ (isBlock f = true → b ≠ 0 → (s.getX b).getLsbD 63 = false → blocks (.vst vs a b m nt u) (movesElem s m) (flatBlocks s a b) (f == 0x16))
    ∧ (isBlock f = true → (s.getX a).toNat % 4 = 0 → (b = 0 ∨ (s.getX b).toNat % 4 = 0) → blocks (.vstseg vs a b m nt u) (movesSeg s m) (segBlocks s a b 32) false)

/-- R170: MLD and MST move the bytes of a mask's bits below VLV from byte VRI / 8 on; the last byte's bits beyond VLV are stored as zero. -/
def Sys2Proof.Claim.MaskMemory : Prop :=
  ∀ (s : State) (md a : Reg), Steady s → s.hart.moving = false → s.hart.vill = false → s.hart.stores = [] → maskReg md = true → (s.getX a).getLsbD 63 = false →
    let n := s.hart.vlv
    let past := decide (0 < s.hart.vri.toNat) && decide (s.hart.vlg ≤ s.hart.vri.toNat)
    let at' := packedLoc (s.getX a) 8
    let moved (j : Nat) : Bool := !past && decide (s.hart.vri.toNat / 8 ≤ j) && decide (j < (n + 7) / 8)
    (NoUpset s → (∀ j, moved j = true → Loadable s (at' j) j) → ∃ t img, exec (.mld md a) s = .next t ∧ SameButRows t (maskDone 0 md img s)
      ∧ ∀ e, img.testBit e = if e < n ∧ moved (e / 8) = true then (elemLoad s (at' (e / 8))).1.testBit (e % 8) else (s.hart.mask md.toNat).testBit e)
    ∧ (StoresHome s → (∀ j, moved j = true → Storable s (at' j) j) → ∃ t, exec (.mst md a) s = .next t
      ∧ SameButElems t (retired (s.hart.pc + 4) 0 (forgetAhead (s.withHart { s.hart with vri := 0 })))
      ∧ StoredBits s t true (((List.range ((n + 7) / 8)).filter moved).map (fun j => (at' j, s.hart.mask md.toNat % 2 ^ n / 2 ^ (8 * j) % 256))))

/-- Register `r` free of its binding (R134, R369): a store stream's flag is owed, and the delivered set of a receive window is emptied. -/
def Sys2Proof.Claim.unbound (s : State) (r : Nat) : State :=
  let free := s.withHart (s.hart.setBinding r none)
  match s.hart.binding r with
  | none => s
  | some q =>
    if q.scb.dir = 1 then
      (if q.scb.flag = 0 then free else { free with
        owed := free.owed ++ [{
          addr := q.scb.flag, val := q.scb.flagval, space := s.hart.space, unit := 12, index := benchOf s.hart.id, hart := s.hart.id, farm := s.hart.farm }] })
    else if q.scb.dir = 2 then { free with fabric := { free.fabric with
        windows := free.fabric.windows.map (fun p =>
          if p.1 / 256 = s.hart.partid.toNat ∧ p.2.ctl.getLsbD 4 = true ∧ p.2.base = q.scb.base then (p.1, { p.2 with delivered := 0 }) else p) } }
    else free

/-- R133, R134: VUNBIND gives x[a] the stream's position, 0 for a register that has none, and ends the binding: a store stream's flag is owed, and a receive
window's delivered set is emptied. VBIND reads a control block of 64 bytes and binds v24 + n at position x[b], after ending an earlier binding; a block that
breaks R133, a position beyond its length, or a receive block without its window traps 0x0C with reason 4. -/
def Sys2Proof.Claim.StreamBindings : Prop :=
  ∀ (s : State) (n : BitVec 3) (a b : Reg), Steady s → s.hart.moving = false → s.hart.stores = [] →
    let r := 24 + n.toNat
    let u := unbound s r
    exec (.vunbind n a) s = .next (wrote 4 a (match s.hart.binding r with | none => 0 | some q => BitVec.ofNat 64 q.pos) u)
    ∧ ∀ (m : Mapped) (d : Nat), NoUpset s → (s.getX a).toNat % 64 = 0 → (s.getX a).getLsbD 63 = false →
        checkAccess u .load false 1 (s.getX a) = .ok m → Seen u m 64 d →
        if scbOk d = true ∧ (s.getX b).toNat ≤ (scbOf d).rows * (scbOf d).cols ∧ ((scbOf d).dir = 2 → (receiveWindow u s.hart.partid (scbOf d).base).isSome = true) then
          let h := u.hart.setBinding r (some { scb := scbOf d, pos := (s.getX b).toNat, ahead := [] })
          ∃ t, exec (.vbind n a b) s = .next t
            ∧ SameButRows t (passed 4 (u.withHart (if (scbOf d).dir = 1 then h else h.setV r { h.vreg r with vlen := 0, prog := 0, poison := 0 })))
        else ∃ t, exec (.vbind n a b) s = .next t ∧ SameButRows t (trappedHere 0x0C (BitVec.ofNat 64 (r + 0x400)) u)

/-- R136, R137: a consumer of a load-bound register reads the next VLV elements of the stream, which the register then holds, and the position advances; an
instruction whose destination is store-bound stores its result elements at the stream's position, and the position advances. Shown for VMV and VSPLAT. -/
def Sys2Proof.Claim.StreamTransfers : Prop :=
  ∀ (s : State) (vd a : Reg) (n : BitVec 3) (q : Binding), Steady s → s.hart.vill = false → s.hart.moving = false → NoUpset s →
    s.hart.stores = [] → s.hart.grp = 1 → isBlock s.hart.fmt = false → s.hart.vri = 0 → (∀ r, r < 32 → (s.hart.vreg r).poison = 0) →
    s.hart.binding (24 + n.toNat) = some q → q.ahead = [] → q.pos < q.scb.len → q.scb.fmt.toNat = s.hart.fmt →
    s.hart.vlv * elemWidth s.hart.fmt ≤ s.hart.capBits →
    let f := s.hart.fmt
    let r := 24 + n.toNat
    let l := s.hart.vlv
    let live (e : Nat) : Bool := decide (e < l) && decide (q.pos + e < q.scb.len)
    let moved : Binding := { q with pos := min (q.pos + l) q.scb.len, ahead := [] }
    (q.scb.dir = 0 → s.hart.binding vd.toNat = none → (∀ e, live e = true → Loadable s (q.scb.loc (q.pos + e)) e) →
      ∃ t v, exec (.vmv vd (BitVec.ofNat 5 r) 0) s = .next t
        ∧ SameButRows t (vecDone 0 v (s.withHart (s.hart.setBinding r (some moved))))
        ∧ (∀ x ∈ [vd.toNat, r], GroupIs s v x 1 f l (fun e => if live e then (elemLoad s (q.scb.loc (q.pos + e))).1 else 0))
        ∧ ∀ x, x < 32 → x ≠ vd.toNat → x ≠ r → ({ s.hart with v := v } : Hart).vreg x = s.hart.vreg x)
    ∧ (q.scb.dir = 1 → StoresHome s → (∀ e, live e = true → Storable s (q.scb.loc (q.pos + e)) e) →
      ∃ t v, exec (.vsplat (BitVec.ofNat 5 r) a 0) s = .next t
        ∧ SameButElems t (vecDone 0 v (forgetAhead (s.withHart (s.hart.setBinding r (some moved)))))
        ∧ HoldsGroup s v r 1 f l (fun _ => (s.getX a).toNat % 2 ^ memWidth f)
        ∧ StoredBits s t (!q.scb.u) (((List.range l).filter live).map (fun e => (q.scb.loc (q.pos + e), (s.getX a).toNat % 2 ^ memWidth f))))

namespace Sys2Proof.Claim

/-- A conversion's source group: enough registers under its own tag, at most 8, standing right, and apart from vd's group, companions included (R160). -/
def ConvFits (s : State) (vd a : Reg) : Prop :=
  let t := (s.hart.vreg a.toNat).fmt.toNat
  let n := sideRegs s.hart t
  n ≤ 8 ∧ groupFits vd.toNat s.hart.grp (compCount s.hart.fmt) = true ∧ groupFits a.toNat n (compCount t) = true
    ∧ overlaps vd.toNat (s.hart.grp + compCount s.hart.fmt) a.toNat (n + compCount t) = false

/-- R161's exact and rounded pairs whose destination is no block format. -/
def exactPairs : List (Nat × Nat) := [(5, 4), (6, 5), (7, 5), (8, 6), (8, 7), (9, 6), (9, 7), (10, 6), (10, 7), (11, 6), (11, 7), (0x0C, 8)]
def roundPairs : List (Nat × Nat) := [(4, 5), (5, 6), (5, 7), (6, 8), (6, 9), (6, 10), (6, 11), (7, 8), (7, 9), (7, 10), (7, 11), (8, 0x0C),
  (0x10, 6), (0x10, 7), (0x11, 6), (0x11, 7), (0x12, 6), (0x12, 7), (0x13, 6), (0x13, 7), (0x15, 6), (0x15, 7)]

/-- A conversion into a block format in units of `u` elements: what an active unit's elements, scales and superscale become; the flags are those of the units
done; nothing else changes (R50, R52, R165). -/
def BlockWise (i : Instr) (s : State) (vd : Reg) (m : MaskField) (neg : Bool) (u : Nat) (out : Nat → UnitOut) : Prop :=
  let f := s.hart.fmt
  let B := blockLen f
  let l := s.hart.vlv
  let done (k : Nat) : Bool := decide (s.hart.vri.toNat ≤ k * u) && (List.range u).any (fun i => decide (k * u + i < l) && s.hart.selects m neg (k * u + i))
  let fl := flagsOf ((List.range ((l + u - 1) / u)).filter done) (fun k => (out k).flags)
  Unenabled fl s → ∃ v, exec i s = .next (vecDone fl v s)
    ∧ GroupIs s v vd.toNat s.hart.grp f l (fun e => if done (e / u) then (out (e / u)).codes.getD (e % u) 0 else elemOf s vd (elemWidth f) e)
    ∧ GroupIs s v (vd.toNat + s.hart.grp) 1 (if f = 0x16 then 0x0F else 0x0E) ((l + B - 1) / B)
        (fun j => if done (j / (u / B)) then (out (j / (u / B))).scales.getD (j % (u / B)) 0 else scaleOf s vd j)
    ∧ (f = 0x16 → GroupIs s v (vd.toNat + s.hart.grp + 1) 1 0x05 ((l + 16383) / 16384) (fun k => if done k then (out k).super else superOf s vd k))
    ∧ OnlyGroup s v vd.toNat (s.hart.grp + if f = 0x16 then 2 else 1)

/-- The fold of a reduction over some elements, with the flags raised on the way at those that `ok` admits (R70). -/
def foldRed (f : Nat → Nat → Nat × BitVec 7) (x : Nat → Nat) (ok : Nat → Bool) (init : Nat) (l : List Nat) : Nat × BitVec 7 :=
  l.foldl (fun p e => let r := f p.1 (x e); (r.1, if ok e then p.2 ||| r.2 else p.2)) (init, 0)

/-- R68's tree over 2 ^ d leaves from `base`: a missing leaf passes the other side through. -/
def treeRed (f : Nat → Nat → Nat × BitVec 7) (leaf : Nat → Option Nat) : Nat → Nat → Option Nat × BitVec 7
  | 0, base => (leaf base, 0)
  | d + 1, base =>
    match treeRed f leaf d base, treeRed f leaf d (base + 2 ^ d) with
    | (some x, p), (some y, q) => (some (f x y).1, p ||| q ||| (f x y).2)
    | (some x, p), (none, q) => (some x, p ||| q)
    | (none, p), (y, q) => (y, p ||| q)

/-- A reduction leaves `r` as the one element of v[vd] (R166). -/
def Reduces (i : Instr) (s : State) (vd : Reg) (r : Nat × BitVec 7) : Prop :=
  Unenabled r.2 s → ∃ v, exec i s = .next (vecDone r.2 v s) ∧ HoldsGroup s v vd.toNat 1 s.hart.fmt 1 (fun _ => lowBits (elemWidth s.hart.fmt) r.1)

/-- The sum of two patterns of a format: wrapping, or rounded (R67). -/
def sumOf (f rm x y : Nat) : Nat × BitVec 7 := if f < 4 then ((x + y) % 2 ^ elemWidth f, 0) else roundOp f rm false 0 (addVal rm (decodeVal f x) (decodeVal f y))

/-- The greater or lesser of two patterns of a format (R63, R69). -/
def pickOf (mx uns : Bool) (f x y : Nat) : Nat × BitVec 7 :=
  if f < 4 then (wrapInt (elemWidth f) (if mx then max (valueOf uns (elemWidth f) x) (valueOf uns (elemWidth f) y) else min (valueOf uns (elemWidth f) x) (valueOf uns (elemWidth f) y)), 0)
  else fpMinMax f mx x y

end Sys2Proof.Claim

/-- R50, R52, R54, R56, R160 to R165: the conversions of every legal pair of source tag and FMT on plain registers, element by element, or block by block
into a block format. -/
def Obligations.VectorConversions : Prop :=
  ∀ (s : State) (vd a b : Reg) (m : MaskField) (neg sel : Bool), PlainVec s → (neg = true → m ≠ 0) → ConvFits s vd a →
    let f := s.hart.fmt
    let t := (s.hart.vreg a.toNat).fmt.toNat
    let n := sideRegs s.hart t
    let x (e : Nat) : Nat := elemAt s.hart s.hart.capBits a.toNat n (elemWidth t) e
    let val (e : Nat) : Val := (convVal s.hart a.toNat t n e).1
    let ok (e : Nat) : Bool := validOf s a (elemWidth t) e
    let origin := if b = 0 then 0 else (s.getX b).toNat
    let z (dom e : Nat) : Nat := if s.hart.vrm = some 5 then drawZ s.hart.keySel ((origin + e) % 2 ^ 48) dom else 0
    let rm := s.hart.vrm.getD 0
    let cvt := Instr.vcvt vd a b m neg sel
    (t < 4 → f < 4 → elemWidth f = 2 * elemWidth t →
      ElementWise cvt s vd m neg f (fun e => (if sel then x e else wrapInt (elemWidth f) (toSigned (elemWidth t) (x e)), 0)) ok)
    ∧ (t < 4 → f < 4 → elemWidth t = 2 * elemWidth f →
      ElementWise cvt s vd m neg f (fun e => if sel then satWrap true (elemWidth f) (toSigned (elemWidth t) (x e)) else (x e % 2 ^ elemWidth f, 0)) ok)
    ∧ ((t, f) ∈ exactPairs ∨ ((t, f) ∈ roundPairs ∧ s.hart.vrm ≠ none) →
      ElementWise cvt s vd m neg f (fun e => roundOp f rm sel (z 0 e) (val e, if (val e).isSig then NV else 0)) ok)
    ∧ (s.hart.vrm ≠ none → ((t = 6 ∨ t = 7) ∧ f ∈ [0x10, 0x11, 0x12, 0x13, 0x15]) ∨ (t = 0x10 ∧ f = 0x14) →
      BlockWise cvt s vd m neg 32 (fun k =>
        let o := mxBlock f rm (fun i => z 0 (k * 32 + i)) ((List.range (min 32 (s.hart.vlv - k * 32))).map (fun i => val (k * 32 + i)))
        { codes := o.codes, scales := [o.scale], super := 0, flags := o.flags, bad := false }))
    ∧ (t = 0x14 → f = 0x10 → BlockWise cvt s vd m neg 32 (fun k =>
        { codes := (List.range (min 32 (s.hart.vlv - k * 32))).map (fun i => (roundVal 0x08 0 false 0 (decodeVal t (x (k * 32 + i)))).1),
          scales := [elemAt s.hart s.hart.capBits (a.toNat + n) 1 8 k], super := 0, flags := 0, bad := false }))
    ∧ (s.hart.vrm ≠ none → t < 4 → 4 ≤ f → f < 8 → (elemWidth t = elemWidth f ∨ elemWidth t = 2 * elemWidth f ∨ elemWidth f = 2 * elemWidth t) →
      ElementWise (.vcvti vd a b m neg sel) s vd m neg f (fun e => roundVal f rm false (z 0 e) (valInt (valueOf sel (elemWidth t) (x e)))) ok)
    ∧ (s.hart.vrm ≠ none → 4 ≤ t → t < 8 → f < 4 → (elemWidth t = elemWidth f ∨ elemWidth t = 2 * elemWidth f ∨ elemWidth f = 2 * elemWidth t) →
      ElementWise (.vcvti vd a b m neg sel) s vd m neg f (fun e =>
        let r := toIntRange rm (z 0 e) (if sel then 0 else -2 ^ (elemWidth f - 1)) (if sel then 2 ^ elemWidth f - 1 else 2 ^ (elemWidth f - 1) - 1) (decodeVal t (x e))
        (wrapInt (elemWidth f) r.1, r.2)) ok)
    ∧ (s.hart.vrm ≠ none → t = 5 → f = 0x0C →
      ElementWise (.vcvtf4 vd a b m neg) s vd m neg f (fun e => roundOp f rm true (z 0 e) (val e, if (val e).isSig then NV else 0)) ok)
    ∧ (s.hart.vrm ≠ none → t = 5 → f = 0x14 → BlockWise (.vcvtf4 vd a b m neg) s vd m neg 32 (fun k =>
        let o := mxBlock f rm (fun i => z 0 (k * 32 + i)) ((List.range (min 32 (s.hart.vlv - k * 32))).map (fun i => val (k * 32 + i)))
        { codes := o.codes, scales := [o.scale], super := 0, flags := o.flags, bad := false }))
    ∧ (s.hart.vrm ≠ none → t = 5 → f = 0x16 → BlockWise (.vcvtf4 vd a b m neg) s vd m neg 16384 (fun k =>
        let o := nl4Super rm (fun i => z 2 (k * 16384 + i)) (fun i => ok (k * 16384 + i)) ((List.range (min 16384 (s.hart.vlv - k * 16384))).map (fun i => val (k * 16384 + i)))
        { codes := o.codes, scales := o.scales, super := o.super, flags := o.flags, bad := false }))
    ∧ (s.hart.vrm ≠ none → 5 ≤ t → t < 8 → (f < 3 ∨ (6 ≤ f ∧ f ≤ 9)) →
      (sel = false → sideRegs s.hart 5 ≤ 8 ∧ groupFits b.toNat (sideRegs s.hart 5) 0 = true ∧ overlaps vd.toNat s.hart.grp b.toNat (sideRegs s.hart 5) = false) →
      ElementWise (.vqscale vd a b m neg sel) s vd m neg f (fun e =>
        qscaleElem f rm (if rm = 5 then drawZ s.hart.keySel (e % 2 ^ 48) 0 else 0) (val e)
          (decodeVal 5 (if sel then (s.getX b).toNat % 2 ^ 32 else elemAt s.hart s.hart.capBits b.toNat (sideRegs s.hart 5) 32 e)))
        (fun e => ok e && (sel || validOf s b 32 e)))

/-- R67 to R69, R166, R167: the reductions on plain registers, of the active elements below VLV and an initial value; VREDOS folds in ascending order and goes
on from v[vd] and VRI, VREDSUM adds over the balanced tree of VL leaves and then the initial value. One resumed at or above VL touches no element and keeps
element 0 of v[vd] (R335). -/
def Obligations.VectorReductions : Prop :=
  ∀ (s : State) (vd a b : Reg) (m : MaskField) (neg vx uns : Bool), PlainVec s → (neg = true → m ≠ 0) →
    groupFits a.toNat s.hart.grp (compCount s.hart.fmt) = true → overlaps vd.toNat 1 a.toNat s.hart.grp = false →
    let f := s.hart.fmt
    let w := elemWidth f
    let rm := s.hart.vrm.getD 0
    let act (e : Nat) : Bool := decide (e < s.hart.vlv) && s.hart.selects m neg e
    let es := (List.range s.hart.vlv).filter act
    let x := elemOf s a w
    let ok := validOf s a w
    let init := if vx then (s.getX b).toNat % 2 ^ w else elemAt s.hart s.hart.capBits b.toNat 1 w 0
    let rounds := s.hart.vrm ≠ none ∧ s.hart.vrm ≠ some 5
    let now (r : Nat × BitVec 7) : Nat × BitVec 7 :=
      if 0 < s.hart.vri.toNat ∧ s.hart.vlg ≤ s.hart.vri.toNat then (elemAt s.hart s.hart.capBits vd.toNat 1 w 0, 0) else r
    let anyOk (r : Nat × BitVec 7) : Nat × BitVec 7 := now (r.1, if es.any ok then r.2 else 0)
    (4 ≤ f → f < 8 → rounds →
      Reduces (.vredos vd a b m neg vx) s vd (if s.hart.vri = 0 then foldRed (sumOf f rm) x ok init es
        else foldRed (sumOf f rm) x ok (elemAt s.hart s.hart.capBits vd.toNat 1 w 0) (es.filter (fun e => decide (s.hart.vri.toNat ≤ e)))))
    ∧ (f < 8 → (4 ≤ f → rounds) →
      Reduces (.vredsum vd a b m neg vx) s vd
        (match treeRed (sumOf f rm) (fun e => if act e then some (x e) else none) (clog2 s.hart.vlg) 0 with
          | (some y, fl) => anyOk ((sumOf f rm init y).1, fl ||| (sumOf f rm init y).2)
          | (none, _) => now (init, 0)))
    ∧ (f < 8 → Reduces (.vredmax vd a b m neg uns vx) s vd (anyOk (foldRed (pickOf true uns f) x (fun _ => true) init es))
        ∧ Reduces (.vredmin vd a b m neg uns vx) s vd (anyOk (foldRed (pickOf false uns f) x (fun _ => true) init es)))
    ∧ (f < 4 → Reduces (.vredand vd a b m neg vx) s vd (now (es.foldl (fun p e => p &&& x e) init, 0))
        ∧ Reduces (.vredor vd a b m neg vx) s vd (now (es.foldl (fun p e => p ||| x e) init, 0))
        ∧ Reduces (.vredxor vd a b m neg vx) s vd (now (es.foldl (fun p e => p ^^^ x e) init, 0)))

namespace Sys2Proof.Claim

/-- R208's operations on `w`-bit patterns: new value from the old one and the operand; op 7 rounds to nearest even in FP32 or BF16. -/
def vamoNew (p : BitVec 3) (w old b : Nat) : Nat :=
  match p.toNat with
  | 0 => (old + b) % 2 ^ w | 1 => old &&& b | 2 => old ||| b | 3 => old ^^^ b
  | 4 => wrapInt w (min (toSigned w old) (toSigned w b)) | 5 => wrapInt w (max (toSigned w old) (toSigned w b)) | 6 => b
  | _ => let f := if w = 16 then 0x06 else 0x05; (roundOp f 0 false 0 (addVal 0 (decodeVal f old) (decodeVal f b))).1

/-- The value of `n` bytes of a memory, least significant first. -/
def leValue (mem : Nat → Byte) (a : Nat) : Nat → Nat
  | 0 => 0
  | n + 1 => (mem a).toNat + 256 * leValue mem (a + 1) n

/-- The elements of a VAMO performed one after another: memory, and what each element read. -/
def vamoFold (n : Nat) (new : Nat → Nat → Nat) (pa : Nat → Nat) (mem : Nat → Byte) (order : List Nat) : (Nat → Byte) × (Nat → Nat) :=
  order.foldl (fun acc e =>
    let old := leValue acc.1 (pa e) n
    (fun b => if pa e ≤ b ∧ b < pa e + n then BitVec.ofNat 8 (new e old / 256 ^ (b - pa e)) else acc.1 b, fun k => if k = e then old else acc.2 k)) (mem, fun _ => 0)

/-- Every answer to the accesses of some elements has arrived, each good and unmarked (R364); `key` names an access. -/
def Answered (s : State) (es : List Nat) (key : Nat → Nat) (d : Nat → Nat) : Prop :=
  es ≠ [] → ∃ r, s.hart.remote = some r ∧ r.openTags = [] ∧ ∀ e ∈ es, answerTo r.answers (key e) = .good (d e) false

/-- A domain address the source sends to: its rank is in the domain and the partition has a tag (R311, R360). -/
def Sendable (s : State) (a : Word) : Prop := a.getLsbD 63 = true ∧ domRank a < s.fabric.ranks ∧ s.fabric.tagOf s.hart.partid ≠ 0

/-- The hart once a VAMO has ended: it keeps no failures of an earlier leg (R209). -/
def noFails (s : State) : State := s.withHart { s.hart with vamoFails := none }

end Sys2Proof.Claim

/-- R206, R208, R209: VAMO on device-local, permitted, unpoisoned addresses performs its active elements from VRI on, each once and indivisibly, in some order;
each element of vd receives what it found, and nothing else changes. No element of an earlier leg has failed. -/
def Sys2Proof.Claim.VectorAtomics : Prop :=
  ∀ (s : State) (vd a b : Reg) (m : MaskField) (p : BitVec 3), PlainVec s → Sound s → NoUpset s → s.hart.earlierFails = [] →
    groupFits vd.toNat s.hart.grp 0 = true → IndexFits s vd b → (s.getX a).getLsbD 63 = false → (if p = 7 then s.hart.fmt = 5 ∨ s.hart.fmt = 6 else s.hart.fmt = 2 ∨ s.hart.fmt = 3) →
    let w := elemWidth s.hart.fmt
    let addr (e : Nat) : Word := (indexedLoc s a b w e).addr
    ∀ pa : Nat → Nat,
    (∀ e, Does s m false e = true → ∃ q, checkAccess s .store false (w / 8) (addr e) = .ok q ∧ q.pa = pa e ∧ poisonedAt s q.pa (w / 8) = false
      ∧ LinkUp s q.pa (w / 8) ∧ Unheld s q.pa (w / 8)) →
    ∃ t v order, exec (.vamo vd a b m p) s = .next t ∧ List.Perm order (doneElems s m false) ∧ SameButElems t (vecDone 0 v (forgetAhead (noFails s)))
      ∧ (let r := vamoFold (w / 8) (fun e old => vamoNew p w old (elemOf s vd w e)) pa (memGet s.mem) order
         (∀ k, memGet t.mem k = r.1 k) ∧ HoldsGroup s v vd.toNat s.hart.grp s.hart.fmt s.hart.vlv (fun e => if Does s m false e then r.2 e else elemOf s vd w e))

/-- R129, R209, R232, R233, R359, R364: VSEND, VSCATX, VGATHX and a remote VAMO send their active elements to other modules and wait; once every answer is in and
good they complete: the gathered or old values stand in vd, local memory is untouched, and only the counter of free choices moves beside the registers. A
local address in place of a domain address traps 0x0D at its element. -/
def Sys2Proof.Claim.RemoteVectors : Prop :=
  ∀ (s : State) (vd a b : Reg) (m : MaskField) (ff nt u : Bool) (p : BitVec 3), PlainVec s → groupFits vd.toNat s.hart.grp (compCount s.hart.fmt) = true →
    indexable s.hart.fmt = true →
    let f := s.hart.fmt
    let w := elemWidth f
    let es := doneElems s m false
    let indexed := IndexFits s vd b ∧ (s.hart.vreg b.toNat).fmt = 3
    let ixa (e : Nat) : Word := (indexedLoc s a b w e).addr
    let run (e : Nat) : Word := (packedLoc (s.getX a) w e).addr
    let near (base : Word) (at' : Nat → Word) : Prop :=
      ∀ e ∈ es, (at' e).toNat % (w / 8) = 0 ∧ Sendable s (at' e) ∧ (at' e).extractLsb' 42 22 = base.extractLsb' 42 22
    let scattered : Prop := ∀ e ∈ es, (ixa e).toNat % (w / 8) = 0 ∧ Sendable s (ixa e)
    let key (at' : Nat → Word) (e : Nat) : Nat := (at' e).toNat * 2 ^ 20 + e
    let asleep (i : Instr) : Prop := ∃ t r, exec i s = .next t ∧ r.openTags ≠ []
      ∧ t = { s.withHart { s.hart with run := .asleep .remote, remote := some r } with fabric := t.fabric }
    let awaits : Prop := es ≠ [] ∧ s.hart.remote = none
    let sent (i : Instr) : Prop := ∃ t, exec i s = .next t ∧ t = { vecDone 0 s.hart.v (forgetAhead s) with fresh := t.fresh }
    let got (i : Instr) (z : State) (d : Nat → Nat) : Prop := ∃ t v, exec i s = .next t ∧ t = { vecDone 0 v z with fresh := t.fresh }
      ∧ HoldsGroup s v vd.toNat s.hart.grp f s.hart.vlv (fun e => if Does s m false e then lowBits w (d e) else elemOf s vd w e)
    let refused (i : Instr) (at' : Nat → Word) (keeps : Vector VReg 32 → Prop) : Prop :=
      ∀ e, es.head? = some e → (at' e).toNat % (w / 8) = 0 → (at' e).getLsbD 63 = false →
        let z := trapped 0x0D (at' e) s.hart.pc (forgetAhead s)
        ∃ t v, exec i s = .next t ∧ t = { z.withHart { z.hart with vri := BitVec.ofNat 64 e, v := v } with fresh := t.fresh } ∧ keeps v
    let all (v : Vector VReg 32) : Prop := v = s.hart.v
    let rest (v : Vector VReg 32) : Prop := OnlyGroup s v vd.toNat s.hart.grp
    (near (s.getX a) run → (awaits → asleep (.vsend vd a m nt u)) ∧ ∀ d, Answered s es (key run) d → sent (.vsend vd a m nt u))
    ∧ (indexed → scattered → (awaits → asleep (.vscatx vd a b m nt u)) ∧ ∀ d, Answered s es (key ixa) d → sent (.vscatx vd a b m nt u))
    ∧ (indexed → scattered → (awaits → asleep (.vgathx vd a b m ff nt u)) ∧ ∀ d, Answered s es (key ixa) d → got (.vgathx vd a b m ff nt u) s d)
    ∧ (refused (.vsend vd a m nt u) run all ∧ (indexed → refused (.vscatx vd a b m nt u) ixa all ∧ refused (.vgathx vd a b m ff nt u) ixa rest))
    ∧ (IndexFits s vd b → s.hart.earlierFails = [] → (if p = 7 then f = 5 ∨ f = 6 else f = 2 ∨ f = 3) → (s.getX a).getLsbD 63 = true → near (s.getX a) ixa →
        (awaits → asleep (.vamo vd a b m p)) ∧ ∀ d, (∀ e, d e < 2 ^ w) → Answered s es id d → got (.vamo vd a b m p) (noFails s) d)

/-- R223, R224, R231: VCMD judges the records of its group in order. A record with an unusable FLAG, or whose queue is full, changes nothing; one that breaks its
table is accepted and owes a failure flag with reason 1; any other joins its queue. md's bits 8r tell which were accepted; its other bits below VLV clear. -/
def Obligations.Commands : Prop :=
  (∀ (s : State) (md a : Reg) (m : MaskField), PlainVec s → s.hart.fmt = 3 → s.hart.vlv % 8 = 0 → groupFits a.toNat s.hart.grp 0 = true → maskReg md = true →
    let record (r : Nat) : CmdRec :=
      { words := (List.range 8).map (fun i => BitVec.ofNat 64 (elemOf s a 64 (8 * r + i))), space := s.hart.space, hart := s.hart.id, farm := s.hart.farm }
    let judged := (List.range (s.hart.vlv / 8)).foldl (fun (acc : State × List Nat) r =>
      if s.hart.selects m false (8 * r) then
        let x := submit (record r) acc.1
        (x.1, if x.2 then 8 * r :: acc.2 else acc.2)
      else acc) (s, [])
    ∃ img, exec (.vcmd md a m) s = .next (maskDone 0 md img judged.1)
      ∧ ∀ e, img.testBit e = if e < s.hart.vlv then judged.2.contains e else (s.hart.mask md.toNat).testBit e)
  ∧ ∀ (s : State) (c : CmdRec),
    let flagged := c.w 1 ≠ 0 ∧ (c.w 1).toNat % 8 = 0 ∧ (c.w 1).getLsbD 63 = false ∧ ∃ m, agentMap s c.space .store (c.w 1) = .ok m
    let typ := ((c.w 0).extractLsb' 0 4).toNat
    let bench := benchOf s.hart.id
    let die := bench / 24
    let u := noteAll s (flagUsable s c).2
    let fails (reason : Nat) (v : State) : State :=
      { v with owed := v.owed ++ [{ addr := c.w 1, val := BitVec.ofNat 64 (2 ^ 63 + reason), space := c.space, unit := 14, index := die, hart := c.hart, farm := c.farm }] }
    let takes (n : Nat) : Prop := (u.queueOf n).length < 32 ∧
      if c.any then ∃ k, k < 8 ∧ n = 8 * die + k ∧ ∀ j, j < k → 32 ≤ (u.queueOf (8 * die + j)).length else n = 8 * die + c.eng
    (¬ flagged → submit c s = (u, false))
    ∧ (flagged → c.ok = false → submit c s = (fails 1 u, true))
    ∧ (flagged → c.ok = true →
      (typ ∈ [0, 1, 3, 5, 6] → (∀ k, k < 8 → (c.any = true ∨ k = c.eng) → 32 ≤ (u.queueOf (8 * die + k)).length) → submit c s = (u, false))
      ∧ (∀ n, typ ∈ [0, 1, 5, 6] → takes n → submit c s = (u.setQueue n (u.queueOf n ++ [c]), true))
      ∧ (∀ n, typ = 3 → takes n →
          (snapReason c ≠ 0 → submit c s = (fails (snapReason c) u, true))
          ∧ (snapReason c = 0 → ∀ e notes, snapPages u c = (.error e, notes) → submit c s = (fails e (noteAll u notes), true))
          ∧ (snapReason c = 0 → ∀ pages notes, snapPages u c = (.ok pages, notes) →
              let v := noteAll u notes
              submit c s = ({ v.setQueue n (v.queueOf n ++ [c]) with
                snaps := v.snaps ++ [{ engine := n, pages := pages, buffers := [], cmd := c, failed := none }] }, true)))
      ∧ (typ = 4 →
          let k := 16 * die + ((c.w 2).extractLsb' 0 4).toNat
          submit c s = if (u.ctx k).st = 0 ∧ (u.ctx k).starting = none then (u.setCtx k { u.ctx k with starting := some c }, true) else (u, false))
      ∧ (typ = 2 → submit c s = if (u.bench bench).loaderQ.length < 8
        then (u.setBench bench { u.bench bench with loaderQ := (u.bench bench).loaderQ ++ [c] }, true) else (u, false)))


/-! ## The matrix engine -/

namespace Sys2Proof.Claim

/-- A hart ready for a matrix instruction at a matrix engine that is at rest: a legal vector type, no drawer moving, nothing queued, posted or replayed at its bench,
and posting not modelled apart. -/
def PlainMatrix (s : State) : Prop :=
  Steady s ∧ s.hart.run = .ready ∧ s.hart.vill = false ∧ s.hart.moving = false ∧ s.policy.queueMatrix = false
    ∧ s.myBench.queue = [] ∧ s.myBench.posting = Vector.replicate 4 none ∧ s.myBench.replays = []

/-- ... whose operands come from plain registers and an unpoisoned canopy, and whose instruction runs to its end in one step. -/
def PlainOperands (s : State) : Prop :=
  PlainMatrix s ∧ s.hart.stores = [] ∧ s.hart.streams = Vector.replicate 8 none ∧ (∀ r, r < 32 → (s.hart.vreg r).poison = 0)
    ∧ s.myBench.canopyPoison = [] ∧ s.myBench.canopyUpsets = [] ∧ s.policy.splitMatrix = false

/-- Accumulator (r, c) of a tile. -/
def accOf (t : Tile) (r c : Nat) : Nat := slot 32 (r * 256 + c) t.acc

/-- A matrix instruction has completed from `s` with flags `fl`: VRI is 0, and beside that it has changed its bench alone. -/
def BenchDone (t : State) (fl : BitVec 7) (s : State) : Prop :=
  t = { retired (s.hart.pc + 8) fl (s.withHart { s.hart with vri := 0 }) with benches := t.benches }
    ∧ ∀ b, b ≠ benchOf s.hart.id → t.bench b = s.bench b

/-- An element of a register operand of MACC, none at or beyond the register's valid length or the group's capacity (R182, R185). -/
def macReg (s : State) (r n f e : Nat) : Option Val :=
  let w := elemWidth f
  if (e + 1) * w ≤ s.hart.capBits * n ∧ elemValid s.hart s.hart.capBits r w e = true then some (decodeVal f (elemAt s.hart s.hart.capBits r n w e)) else none

/-- The starts of the groups of `g` positions from `vri` up to `k` (R184). -/
def groupStarts (vri k g : Nat) : List Nat := (List.range k).filter (fun p => decide (vri ≤ p) && p % g == 0)

/-- One accumulator after one group of products: FP32 with a single rounding to nearest even, or INT32 with a clamp (R64 to R66). -/
def macOne (int32 sat : Bool) (old : Nat) (ps : List (Val × BitVec 7)) : Nat × BitVec 7 :=
  if int32 then satWrap true 32 (toSigned 32 old + ps.foldl (fun a q => a + (match q.1 with | .fin n m e _ => alignTo 0 n m e | _ => 0)) 0)
  else
    let plus (a b : Val × BitVec 7) : Val × BitVec 7 := ((addVal 0 a.1 b.1).1, (addVal 0 a.1 b.1).2 ||| a.2 ||| b.2)
    let sum : Val × BitVec 7 := match ps with | [] => (Val.fin false 0 0 false, 0) | q :: t => t.foldl plus q
    let r := roundOp 0x05 0 sat 0 (addVal 0 (decodeVal 0x05 old) sum.1)
    (r.1, r.2 ||| sum.2)

/-- The pairs of formats without scales, with their group lengths (R180). -/
def plainPairs : List (Nat × Nat × Nat) :=
  (0, 0, 2) :: [5, 6, 7, 8, 9].flatMap (fun a => [5, 6, 7, 8, 9].map (fun b => (a, b, if 8 ≤ a ∧ 8 ≤ b then 2 else 1)))

/-- A tile that differs from another in its accumulators and check sums alone. -/
def SameTile (t u : Tile) : Prop := t.owner = u.owner ∧ t.int32 = u.int32 ∧ t.poison = u.poison ∧ t.mis = u.mis ∧ t.ten = u.ten ∧ t.skip = u.skip ∧ t.pend = u.pend ∧ t.cnt = u.cnt

/-- A bench that differs from another in tile `k` alone. -/
def OnlyTile (b c : Bench) (k : BitVec 2) : Prop := b = { c with tiles := b.tiles } ∧ ∀ j, j ≠ k → b.tile j = c.tile j

/-- What a drain's comparisons find: no mismatch (R198, R199). -/
def ChecksPass (t : Tile) : Prop := ∀ i, i < 256 → rowDiffers t i ≠ some true ∧ colDiffers t i ≠ some true

/-- One accumulator drained in a format without scales (R195). -/
def drained (f rm : Nat) (sat : Bool) (z acc : Nat) : Nat × BitVec 7 :=
  if f = 0x02 ∨ f = 0x05 then (acc, 0) else if f < 2 then satWrap true (elemWidth f) (toSigned 32 acc)
  else roundOp f rm sat z (decodeVal 0x05 acc, if (decodeVal 0x05 acc).isSig then NV else 0)

/-- The tile after the rows from `row0` on have been zeroed under Z, or kept (R196). -/
def TileAfter (t u : Tile) (z : Bool) (row0 n : Nat) : Prop :=
  t.owner = u.owner ∧ t.int32 = u.int32 ∧ t.mis = u.mis ∧ t.ten = u.ten ∧ t.pend = u.pend ∧ t.cnt = u.cnt
    ∧ ∀ r c, r < 256 → c < 256 → accOf t r c = if z = true ∧ row0 ≤ r ∧ r < row0 + n then 0 else accOf u r c

end Sys2Proof.Claim

/-- R176 to R178, R199 to R201: acquiring, releasing, clearing, reading and checking tiles; a tile the hart does not own traps 0x0F with its number. Clearing a tile
leaves MIS, SKIP, CNT and TEN of its check state. -/
def Obligations.TileInstructions : Prop :=
  ∀ (s : State) (d a : Reg) (k : BitVec 2) (tm : BitVec 4) (i : Bool), PlainMatrix s →
    let b := s.myBench
    let hold (j : BitVec 2) : State := s.setMyBench (b.setTile j { Tile.init with owner := some s.hart.id })
    let all (u : Tile → Tile) : Bench := { b with tiles := Vector.ofFn (fun (j : Fin 4) => if tm.getLsbD j then u b.tiles[j] else b.tiles[j]) }
    (exec (.macq d false k) s = .next (match (b.tile k).owner with
      | none => wrote 8 d (k.setWidth 64) (hold k)
      | some o => wrote 8 d (if o = s.hart.id then k.setWidth 64 else BitVec.allOnes 64) s))
    ∧ ((∀ j, (b.tile j).owner ≠ none) → exec (.macq d true 0) s = .next (wrote 8 d (BitVec.allOnes 64) s))
    ∧ ((b.tile k).owner = none → (∀ j, j < k → (b.tile j).owner ≠ none) → exec (.macq d true 0) s = .next (wrote 8 d (k.setWidth 64) (hold k)))
    ∧ (tm ≠ 0 → (∀ j, tm.getLsbD j.toNat = true → (b.tile j).owner = some s.hart.id) →
        exec (.mrel tm) s = .next (passed 8 (s.setMyBench (all (fun t => { t with owner := none }))))
        ∧ exec (.mzero tm i) s = .next (passed 8 (s.setMyBench (all (fun t =>
            { Tile.init with owner := t.owner, int32 := i, mis := t.mis, ten := t.ten, skip := t.skip, cnt := t.cnt })))))
    ∧ (tm.getLsbD k.toNat = true → (b.tile k).owner ≠ some s.hart.id → (∀ j, j < k → tm.getLsbD j.toNat = true → (b.tile j).owner = some s.hart.id) →
        exec (.mrel tm) s = .next (trappedHere 0x0F (k.setWidth 64) s) ∧ exec (.mzero tm i) s = .next (trappedHere 0x0F (k.setWidth 64) s))
    ∧ ((b.tile k).owner ≠ some s.hart.id → exec (.mtrd d k a) s = .next (trappedHere 0x0F (k.setWidth 64) s)
        ∧ exec (.mchk d k 0 0) s = .next (trappedHere 0x0F (k.setWidth 64) s))
    ∧ ((b.tile k).owner = some s.hart.id →
        let t := b.tile k
        let r := ((s.getX a).extractLsb' 0 16).toNat
        let c := ((s.getX a).extractLsb' 16 16).toNat
        let status : Word := BitVec.ofNat 64 ((if t.mis then 1 else 0) + (if t.ten then 2 else 0) + (if t.skip then 4 else 0) + (if t.pend then 8 else 0) + (if t.int32 then 16 else 0) + t.cnt.toNat * 65536)
        exec (.mtrd d k a) s = .next (wrote 8 d (if r < 256 ∧ c < 256 then BitVec.ofNat 64 (accOf t r c) else 0) s)
        ∧ exec (.mchk d k 0 0) s = .next (wrote 8 d status (s.setMyBench b))
        ∧ exec (.mchk d k 0 1) s = .next (wrote 8 d status (s.setMyBench (b.setTile k { t with mis := false, skip := false, cnt := 0 })))
        ∧ exec (.mchk d k a 2) s = .next (wrote 8 d status (s.setMyBench (b.setTile k { t with ten := (s.getX a).getLsbD 0 }))))

/-- R64 to R66, R179 to R190: MACC and MACCS accumulate their groups of positions in ascending order into every accumulator of an owned tile of the right kind, with
one rounding to nearest even (or one clamp) a group, under sparsity with groups of one product one for each of a dense group's two slots; for the formats without scales the products are written out here. Other tiles, the canopy's bytes, memory
and the registers stay. -/
def Obligations.MatrixProducts : Prop :=
  ∀ (s : State) (k : BitVec 2) (va vb : Reg) (bs tr sat : Bool) (ga gb : BitVec 2) (fA fB : BitVec 5) (xk xc vm : Reg) (sparse : Bool), PlainOperands s →
    let i : Instr := if sparse then .maccs k va vb bs tr sat ga gb fA fB xk xc vm else .macc k va vb bs tr sat ga gb fA fB xk xc
    let args : MacArgs := { t := k, va := va.toNat, vb := vb.toNat, bs := bs, tr := tr, sat := sat, na := 2 ^ ga.toNat, nb := 2 ^ gb.toNat, fA := fA.toNat, fB := fB.toNat,
                            xk := s.getX xk, xc := s.getX xc, vm := if sparse then some vm.toNat else none }
    let K := ((s.getX xk).extractLsb' 0 16).toNat
    let ko := ((s.getX xk).extractLsb' 16 16).toNat
    let b := if bs then s.myBench else s.myBench.takeCanopy s.hart.farm
    let old := s.myBench.tile k
    wellFormed i = true → old.owner = some s.hart.id → (bs = true ∨ b.canopyOwner = some s.hart.farm) →
    ∀ int32 g, macPair fA.toNat fB.toNat bs tr = some (int32, g) → old.int32 = int32 →
      ko + K ≤ 256 → K % g = 0 → ko % g = 0 → s.hart.vri.toNat % g = 0 → s.hart.vri.toNat ≤ K →
    let becomes (step : Nat) (cell : Nat → Nat → Nat → Nat → Nat × BitVec 7) : Prop :=
      let sum (r c : Nat) : Nat × BitVec 7 := (groupStarts s.hart.vri.toNat K step).foldl (fun p k0 => ((cell r c (ko + k0) p.1).1, p.2 ||| (cell r c (ko + k0) p.1).2)) (accOf old r c, 0)
      let fl := flagsOf (List.range 65536) (fun n => (sum (n / 256) (n % 256)).2)
      Unenabled fl s → ∃ t, exec i s = .next t ∧ BenchDone t fl s ∧ OnlyTile t.myBench b k ∧ SameTile (t.myBench.tile k) old
        ∧ ∀ r c, r < 256 → c < 256 → accOf (t.myBench.tile k) r c = (sum r c).1
    (sparse = false → (fA.toNat, fB.toNat, g) ∈ plainPairs → becomes g (fun r c k0 acc => macOne int32 sat acc ((List.range g).map (fun d =>
        let x := macReg s va.toNat (2 ^ ga.toNat) fA.toNat (if tr then r * 256 + (k0 + d) else (k0 + d) * 256 + r)
        let y := if bs then macReg s vb.toNat (2 ^ gb.toNat) fB.toNat ((k0 + d) * 256 + c)
          else some (decodeVal fB.toNat (canopyBits s.myBench c ((s.getX xc).extractLsb' 0 16).toNat ((k0 + d) * memWidth fB.toNat) (memWidth fB.toNat)).1)
        match x, y with | some x, some y => mulVal x y | _, _ => (Val.fin false 0 0 false, 0)))))
    ∧ ((sparse = true → K % 4 = 0 ∧ ko % 4 = 0 ∧ s.hart.vri.toNat % 4 = 0 ∧ fA ≠ 5 ∧ metaRegs s.hart ≤ 8 ∧ groupFits vm.toNat (metaRegs s.hart) 0 = true) →
        let p := macPlan s s.hart args g int32
        becomes (if sparse then max 4 g else g) (fun r c k0 acc =>
          let ts := (macTerms p r c k0).1
          let add (acc : Nat) (l : List (MElem × MElem)) : Cell := macAdd p acc l (p.scaleA r k0) (p.scaleB c k0) (macTerms p r c k0).2
          if sparse ∧ g = 1 then
            let x := add acc (ts.take 1)
            let y := add x.acc (ts.drop 1)
            (y.acc, x.flags ||| y.flags)
          else ((add acc ts).acc, (add acc ts).flags)))

namespace Sys2Proof.Claim

/-- A panel in the canopy: K elements of `w` bytes from byte `cb` of each slice, row (column under T) `o` of the source being `bytes o`; every other byte stays (R183,
R191). -/
def PanelIn (old new : List Host.Cell) (tr : Bool) (cb K w : Nat) (bytes : Nat → List MarkedByte) : Prop :=
  ∀ j y, j < 256 → y < 65536 → memGet new (j * 65536 + y) =
    if cb ≤ y ∧ y < cb + K * w then
      ((bytes (if tr then j else (y - cb) / w)).getD ((if tr then (y - cb) / w else j) * w + (y - cb) % w) (0, false)).1
    else memGet old (j * 65536 + y)

end Sys2Proof.Claim

/-- R183, R190, R191: MLDC makes the hart's farm the owner of a free canopy and loads a panel; in a format without scales, of whole bytes, each element of each row
(column under T) lands in its slice. A canopy of another farm traps 0x06 with CB, and a misaligned source or stride traps 0x02. -/
def Sys2Proof.Claim.CanopyLoads : Prop :=
  ∀ (s : State) (xg xs xstr : Reg) (tr : Bool) (f : BitVec 5), PlainMatrix s → NoUpset s → s.myBench.canopyUpsets = [] → (∀ pa, linkDown s pa = false) → s.hart.stores = [] → s.hart.vri = 0 → matrixFmt f.toNat = true → isBlock f.toNat = false →
    let i : Instr := .mldc xg xs xstr 0 tr f
    let w := memWidth f.toNat / 8
    let K := ((s.getX xg).extractLsb' 0 16).toNat
    let cb := ((s.getX xg).extractLsb' 16 16).toNat
    let b := s.myBench.takeCanopy s.hart.farm
    let at' (o : Nat) : Word := s.getX xs + BitVec.ofNat 64 o * s.getX xstr
    (b.canopyOwner ≠ some s.hart.farm → exec i s = .next (trappedHere 0x06 (BitVec.ofNat 64 cb) (s.setMyBench b)))
    ∧ (b.canopyOwner = some s.hart.farm → (s.getX xs).toNat % w ≠ 0 → exec i s = .next (trappedHere 0x02 (s.getX xs) (s.setMyBench b)))
    ∧ (b.canopyOwner = some s.hart.farm → (s.getX xs).toNat % w = 0 → (s.getX xstr).toNat % w = 0 → cb + K * w ≤ 65536 →
        ∀ bytes : Nat → List MarkedByte,
        (∀ o, o < (if tr then 256 else K) → (at' o).getLsbD 63 = false ∧ agentBytes s s.hart.space (at' o) ((if tr then K else 256) * w) = .ok (bytes o)) →
        ∃ t u, exec i s = .next t ∧ BenchDone u 0 s ∧ t = { u with l2 := t.l2, dram := t.dram, life := t.life }
          ∧ t.myBench = { b with canopy := t.myBench.canopy, canopyPoison := t.myBench.canopyPoison, loads := t.myBench.loads }
          ∧ t.myBench.loads = (let l := b.loads ++ [{ geometry := s.getX xg, source := s.getX xs, stride := s.getX xstr, scale := s.getX 0, fmt := f, tr := tr, space := s.hart.space }]
              l.drop (l.length - 16))
          ∧ PanelIn b.canopy t.myBench.canopy tr cb K w bytes)

/-- R194 to R199: MDRAIN writes tile rows, each accumulator converted, to vd (with their scales under an MX format), and MDRAINX appends them to a sequencer
channel while it has room, sleeping at the queue's head once it is full; Z zeroes the rows drained. A context the partition does not hold traps 0x06. -/
def Obligations.MatrixDrains : Prop :=
  ∀ (s : State) (k : BitVec 2) (vd : Reg) (gd : BitVec 2) (rm : BitVec 3) (ks : BitVec 2) (sat z : Bool) (f : BitVec 5) (xr xo : Reg) (ctx : BitVec 4) (chan : BitVec 3),
    PlainOperands s →
    let row0 := ((s.getX xr).extractLsb' 0 16).toNat
    let n := ((s.getX xr).extractLsb' 16 16).toNat
    let old := s.myBench.tile k
    let nd := 2 ^ gd.toNat
    let w := elemWidth f.toNat
    let code := (vectorRound s.hart rm).getD 0
    let draw (r c : Nat) : Nat := if code = 5 then drawZ (s.hart.key ks) ((((s.getX xo).extractLsb' 0 48).toNat + r * 256 + c) % 2 ^ 48) 1 else 0
    old.owner = some s.hart.id → old.poison = 0 → old.pend = false → ChecksPass old → row0 + n ≤ 256 →
    (old.int32 = true ∨ vectorRound s.hart rm ≠ none) →
    (wellFormed (.mdrain k vd gd rm ks sat z f xr xo) = true → n * 256 * w ≤ s.hart.capBits * nd →
      (if old.int32 then f.toNat < 3 else 5 ≤ f.toNat ∧ f.toNat ≤ 9) →
      let one (e : Nat) : Nat × BitVec 7 := drained f.toNat code sat (draw (row0 + e / 256) (e % 256)) (accOf old (row0 + e / 256) (e % 256))
      let fl := flagsOf (List.range (n * 256)) (fun e => (one e).2)
      Unenabled fl s → ∃ t v, exec (.mdrain k vd gd rm ks sat z f xr xo) s = .next t ∧ BenchDone t fl (s.withHart { s.hart with v := v })
        ∧ OnlyTile t.myBench s.myBench k ∧ TileAfter (t.myBench.tile k) old z row0 n
        ∧ (if n = 0 then v = s.hart.v else HoldsGroup s v vd.toNat nd f.toNat (n * 256) (fun e => (one e).1)))
    ∧ (wellFormed (.mdrain k vd gd rm ks sat z f xr xo) = true → 0 < n → n * 256 * 8 ≤ s.hart.capBits * nd → n * 8 * 8 ≤ s.hart.capBits → old.int32 = false → f = 0x10 ∨ f = 0x11 →
      let block (j : Nat) : BlockOut :=
        mxBlock f.toNat code (fun e => draw (row0 + j / 8) (32 * (j % 8) + e)) ((List.range 32).map (fun e => decodeVal 0x05 (accOf old (row0 + j / 8) (32 * (j % 8) + e))))
      let fl := flagsOf (List.range (n * 8)) (fun j => (block j).flags)
      Unenabled fl s → ∃ t v, exec (.mdrain k vd gd rm ks sat z f xr xo) s = .next t ∧ BenchDone t fl (s.withHart { s.hart with v := v })
        ∧ OnlyTile t.myBench s.myBench k ∧ TileAfter (t.myBench.tile k) old z row0 n
        ∧ GroupIs s v vd.toNat nd f.toNat (n * 256) (fun e => (block (e / 32)).codes.getD (e % 32) 0)
        ∧ GroupIs s v (vd.toNat + nd) 1 0x0E (n * 8) (fun j => (block j).scale) ∧ OnlyGroup s v vd.toNat (nd + 1))
    ∧ (wellFormed (.mdrainx k ctx chan rm ks z f xr xo) = true → old.int32 = false → f = 0x05 ∨ f = 0x06 →
      let key := benchOf s.hart.id / 24 * 16 + ctx.toNat
      let c := s.ctx key
      let q := (c.chans.toList[chan.toNat]?).getD []
      let from' := s.hart.vri.toNat
      let one (r e : Nat) : Nat × BitVec 7 := drained f.toNat code false (draw r e) (accOf old r e)
      let row (r : Nat) : Row := { fmt := f, data := pack w 256 (fun e => (one r e).1), poison := 0 }
      let rows := (List.range (n - from')).map (fun j => row (row0 + from' + j))
      let fl := flagsOf (List.range ((n - from') * 256)) (fun e => (one (row0 + from' + e / 256) (e % 256)).2)
      ((c.held = false ∨ c.part ≠ s.hart.partid) → exec (.mdrainx k ctx chan rm ks z f xr xo) s = .next (trappedHere 0x06 (BitVec.ofNat 64 (ctx.toNat * 8 + chan.toNat)) s))
      ∧ (c.held = true → c.part = s.hart.partid → from' < n → 32 ≤ q.length →
          exec (.mdrainx k ctx chan rm ks z f xr xo) s = .next ((s.withHart { s.hart with run := .asleep .channel }).setMyBench
            { s.myBench with queue := [{ hart := s.hart.id, instr := .mdrainx k ctx chan rm ks z f xr xo }] }))
      ∧ (c.held = true → c.part = s.hart.partid → q.length + (n - from') ≤ 32 → from' ≤ n → Unenabled fl s →
          let filled := s.setCtx key { c with chans := c.chans.mapIdx (fun j x => if j = chan.toNat then x ++ rows else x) }
          ∃ t, exec (.mdrainx k ctx chan rm ks z f xr xo) s = .next t ∧ BenchDone t fl (if from' = n then s else filled)
            ∧ OnlyTile t.myBench s.myBench k ∧ TileAfter (t.myBench.tile k) old z (row0 + if n = 256 then 0 else from') (if n = 256 then 256 else n - from')))


/-! ## Steps of harts and of the core -/

namespace Sys2Proof.Claim

/-- The current hart is hart `h`, and no other resident hart is. -/
def Current (s : State) (h : HartId) : Prop := s.hart.id = h ∧ s.hart.run ≠ .absent ∧ ∀ g ∈ s.others, g.id ≠ h

/-- Interrupt entry with cause `c`: trap entry with bit 63 of TRAPCAUSE set (R32, R34, R330). -/
def interrupted (c : BitVec 8) (v pc : Word) (s : State) : State :=
  let t := trapped c v pc s
  t.withHart { t.hart with trapcause := c.setWidth 64 ||| 0x8000_0000_0000_0000 }

/-- What an agent's write to memory may move besides memory: slices, rows, counters, and the older values of table entries that a walk may still read (R320). -/
def SameButWrite (t u : State) : Prop := t = { u with l2 := t.l2, dram := t.dram, life := t.life, mem := t.mem, held := t.held }

/-- Every byte of memory is what it was but for the bits that a write's mask selects, which hold the write's value (R46, R247). -/
def WroteBits (s t : State) (w : MemWrite) : Prop :=
  ∀ a k, k < 8 → (memGet t.mem a).getLsbD k =
    if w.pa ≤ a ∧ a < w.pa + w.n ∧ w.mask.testBit (8 * (a - w.pa) + k) = true then w.val.testBit (8 * (a - w.pa) + k) else (memGet s.mem a).getLsbD k

/-- No other hart has older stores that its release at a narrower scope has made due in the instance of hart `h` (R251). -/
def Settled (s : State) (h : HartId) : Prop := ∀ g ∈ s.harts, g.id ≠ h → ∀ e ∈ g.stores, e.left = 0

/-- No matrix instruction of the current hart stands in a posting buffer or the queue of its bench (R173). -/
def Unposted (s : State) : Prop :=
  (∀ p ∈ (s.bench (benchOf s.hart.id)).queue, p.hart ≠ s.hart.id) ∧ ∀ p ∈ (s.bench (benchOf s.hart.id)).posting.toList, ∀ q, p = some q → q.hart ≠ s.hart.id

/-- Hart `h`, if it sleeps for the matrix queue, runs again (R292). -/
def wokenForMatrix (h : HartId) (s : State) : State := s.updHart h (fun g => if g.run = .asleep .matrix then { g with run := .ready } else g)

end Sys2Proof.Claim

/-- R39, R122, R134, R139, R173, R197, R213 to R216, R250, R292, R330: the steps a hart makes of itself. A pending interrupt is taken by a bureau hart with IE set; a
wait that is met, has timed out or may end early completes; drawers move; the oldest buffered store performs, and none that an older one holds back; a stream reads
ahead; an owed flag is written; the queue port takes a posted matrix instruction; an MDRAINX that waited goes on. -/
def Sys2Proof.Claim.HartSteps : Prop :=
  ∀ (s : State) (h : HartId), Current s h → Steady s → Settled s h →
    let awake := s.withHart { s.hart with run := .ready }
    let p := s.partn s.hart.part
    (∀ c v rest, s.hart.bureau = true → s.hart.status.getLsbD 2 = true → s.hart.moving = false → s.hart.swapping = false →
      tget [] s.posted s.hart.id.toNat = [] → Unposted s → p.pending = (c, v) :: rest → 0x80 ≤ c →
      let u := s.setPart s.hart.part { p with pending := rest, suspTaken := p.suspTaken || (c == 0x80 && p.suspTime.isSome) }
      let w := if c = 0x81 then s.time else v
      (s.hart.run = .ready → exec (.takeInterrupt h) s = .next (interrupted c w s.hart.pc u))
      ∧ (∀ d a, s.hart.run = .asleep (.fjoin d a) → watchValue s 8 a = some 0 → exec (.takeInterrupt h) s = .next (interrupted c w s.hart.pc u))
      ∧ (∀ d t0 x, s.hart.run = .asleep (.wfe d t0 x) → exec (.takeInterrupt h) s = .next (interrupted c w (s.hart.pc + 4) (wrote 4 d 1 u))))
    ∧ ((s.hart.bureau = false ∨ s.hart.status.getLsbD 2 = false ∨ p.pending = []) → exec (.takeInterrupt h) s = .next s)
    ∧ (∀ d a v, s.hart.run = .asleep (.fjoin d a) → watchValue s 8 a = some v →
        exec (.waitSatisfied h) s = .next (if v = 0 then s else wrote 4 d (BitVec.ofNat 64 v) (dropL1 awake)))
    ∧ (∀ d t0 x, s.hart.run = .asleep (.wfe d t0 x) →
        let ready := s.hart.bureau = true ∧ p.pending ≠ []
        (ready → exec (.waitSatisfied h) s = .next (wrote 4 d 1 awake) ∧ exec (.waitTimeout h) s = .next (wrote 4 d 1 awake))
        ∧ (¬ ready → s.hart.lastLda ≠ none → exec (.waitSatisfied h) s = .next (wrote 4 d 0 awake))
        ∧ (¬ ready → x ≠ 0 → x.toNat ≤ (s.time - t0).toNat → exec (.waitTimeout h) s = .next (wrote 4 d 2 awake))
        ∧ (¬ ready → (x = 0 ∨ (s.time - t0).toNat < x.toNat) → exec (.waitTimeout h) s = .next s)
        ∧ exec (.wfeEarlyEnd h) s = .next (wrote 4 d 0 awake))
    ∧ (s.hart.moving = true → s.hart.stores = [] → ∃ t, exec (.drawerMove h) s = .next t
        ∧ t = { forgetAhead (s.withHart { s.hart with moving := false, m := Vector.replicate 7 0, v := s.hart.v.map (fun r => { r with vlen := 0, dirty := false, prog := 0, poison := 0 }) }) with cores := t.cores }
        ∧ SameButCaches t s)
    ∧ (∀ b rest w ps, s.hart.stores = b :: rest → b.parts = [w] :: ps → w.bad = false → Sound s → NoUpset s → LinkUp s w.pa w.n → Unheld s w.pa w.n →
        ∃ t, exec (.storePerform { hart := h, store := 0, part := 0 }) s = .next t
          ∧ SameButStore t { s.withHart { s.hart with stores := if ps = [] then rest else { b with parts := ps } :: rest } with poison := t.poison }
          ∧ WroteBits s t w ∧ ∀ k, k ∈ t.poison ↔ k ∈ s.poison ∧ (ps = [] → k ∉ b.clears))
    ∧ (∀ i j, mayPerform s.hart.stores i j = false → exec (.storePerform { hart := h, store := i, part := j }) s = .next s)
    ∧ (∀ (n : BitVec 3) (q : Binding) (count : Nat), s.hart.binding (24 + n.toNat) = some q → q.scb.dir = 0 → q.ahead = [] → s.hart.stores = [] → NoUpset s →
        let es := (List.range count).filter (fun e => decide (q.pos + e < q.scb.len))
        (∀ e ∈ es, Loadable s (q.scb.loc (q.pos + e)) e) → ∃ t, exec (.streamFetch h n count) s = .next t
          ∧ SameButRows t (s.withHart (s.hart.setBinding (24 + n.toNat) (some { q with ahead := es.map (fun e => (q.pos + e, ((elemLoad s (q.scb.loc (q.pos + e))).1, false))) }))))
    ∧ (∀ o rest m, s.owed = o :: rest → agentMap s o.space .store o.addr = .ok m → Sound s → NoUpset s → LinkUp s m.pa 8 → Unheld s m.pa 8 →
        ∃ t, exec .streamFlagWrite s = .next t ∧ SameButWrite t { s with owed := rest } ∧ StoredAt s t m.pa 8 o.val.toNat)
    ∧ (∀ (bench : Nat) (c : Fin 4) (q : MatrixPost), (s.bench bench).queue.length < 32 → (s.bench bench).posting[c] = some q →
        (∀ j : Fin 4, ((s.bench bench).lastCore + 1 + j.val) % 4 = c.val → ∀ k : Fin 4, k < j →
          ∀ x : Fin 4, x.val = ((s.bench bench).lastCore + 1 + k.val) % 4 → (s.bench bench).posting[x] = none) →
        let b := s.bench bench
        let u := s.setBench bench { b with queue := b.queue ++ [q], lastCore := c.val, posting := b.posting.set c.val none }
        exec (.matrixQueueAccept bench) s = .next (wokenForMatrix ((b.queue ++ [q]).headD q).hart u))
    ∧ (∀ k ctx chan rm ks z f xr xo, s.hart.run = .asleep .channel →
        let i : Instr := .mdrainx k ctx chan rm ks z f xr xo
        s.hart.fetched = some i → ∃ t, exec i awake = .next t ∧ exec (.mdrainxRow h) s = .next (keepInstance i t))

/-- R39, R122, R139, R213 to R216, R250, R338, R346: a step of a hart does the same to it whether it is the current hart or another: its hart is made current, the
step is made, and the hart that was current is current again. -/
def Sys2Proof.Claim.StepsOfOtherHarts : Prop :=
  ∀ (s : State) (h : HartId), s.hart.run ≠ .absent → h ≠ s.hart.id → Settled s h → (∃ g ∈ s.others, g.id = h) →
    (∀ g ∈ s.others, g.id = h → g.run ≠ .absent) → (∀ g ∈ s.others, g.id ≠ s.hart.id) →
    ∀ i ∈ [Instr.takeInterrupt h, .waitSatisfied h, .waitTimeout h, .wfeEarlyEnd h, .drawerMove h, .storePerform { hart := h, store := 0, part := 0 }, .debugHaltEnter h, .debugResume h],
      ∃ u, exec i (focus h s) = .next u ∧ u.hart.id = h ∧ (focus h s).hart.id = h
        ∧ exec i s = .next (focus s.hart.id u)

/-- R286 to R289, R300, R301, R312, R319, R404: a core's cycle (a step runs any number of them in turn) issues one micro-operation in each awake cluster that has one ready, an idle or gated cluster issues none,
and one with work for elements below VL begins to wake; gating and waking touch the core alone. A sector of normal memory comes into a cache from its home; a walk
that translates fills both TLBs, and one that faults fills nothing. None of them changes what a hart's registers or memory hold. -/
def Sys2Proof.Claim.CoreSteps : Prop :=
  ∀ (s : State) (core : Nat) (c : Fin 8),
    let k := s.core core
    let cl := k.clusters[c]
    let put (x : Cluster) : State := s.setCore core { k with clusters := k.clusters.set c.val x }
    let cycled (w : List Uops) (f : Fin 8 → Cluster → Cluster) : Prop :=
      ∃ x y, exec (.microopIssue core 1) s = .next (s.setCore core { k with window := w, clusters := x, cycle := k.cycle + 1, unitGated := y })
        ∧ (∀ i : Fin 8, x[i] = f i k.clusters[i])
        ∧ (y = true ↔ (∀ g ∈ s.harts, coreOf g.id ≠ core) ∧ ∀ i : Fin 8, x[i].gated = true ∨ 256 ≤ x[i].idle)
    let lone (u : Uops) (n : Nat) : Prop := k.window = [u] ∧ u.slotNo < 4 ∧ u.renamed = true ∧ u.entered = u.groups ∧ u.token = false ∧ u.skew = 0 ∧ u.finish = none
      ∧ u.next = Vector.replicate 8 n ∧ n < u.groups
    (k.window = [] → cycled [] (fun _ a =>
      let a := match a.wakeAt with
        | some t => if t ≤ k.cycle then { a with gated := false, wakeAt := none, idle := 0 } else a
        | none => if 256 ≤ a.idle then { a with gated := true } else a
      { a with issued := false, idle := a.idle + 1 }))
    ∧ (∀ u n, lone u n → (∀ i : Fin 8, k.clusters[i].gated = false ∧ k.clusters[i].idle < 256 ∧ k.clusters[i].wakeAt = none) →
        cycled (if n + 1 = u.groups then [] else
            [{ u with next := Vector.replicate 8 (n + 1), start := if n = 0 then some (k.cycle, !k.clusters[(0 : Fin 8)].issued) else u.start }])
          (fun i a => { a with lastSlot := u.slotNo, issued := true, idle := if n * (4096 / u.wide) + 8 * i.val < u.vl then 0 else a.idle + 1 }))
    ∧ (∀ u n, lone u n → n * (4096 / u.wide) + 56 < u.vl → (∀ i : Fin 8, k.clusters[i].gated = true ∧ k.clusters[i].wakeAt = none) →
        cycled [u] (fun _ a => { a with issued := false, idle := a.idle + 1, wakeAt := some (k.cycle + 20) }))
    ∧ exec (.microopIssue core 0) s = .next s
    ∧ (∀ n, ∃ t, exec (.microopIssue core n) s = .next t ∧ exec (.microopIssue core (n + 1)) s = exec (.microopIssue core 1) t)
    ∧ exec (.clusterGate core c) s = .next (put (if 256 ≤ cl.idle then { cl with gated := true } else cl))
    ∧ exec (.clusterWake core c) s = .next (put (match cl.wakeAt with
        | some t => if t ≤ k.cycle then { cl with gated := false, wakeAt := none, idle := 0 } else cl
        | none => cl))
    ∧ (∀ (g : Hart) (sector : Nat) (kind : FillKind), s.harts.find? (fun g => coreOf g.id == core) = some g → NoUpset s → sector % 64 = 0 → isCached sector = true →
        linkDown s sector = false → poisonedAt s sector 64 = false →
        let d := memRead s.mem sector 64
        let copy : L1Sector := { addr := sector, data := d, upset := 0 }
        ∃ t, exec (.sectorFill core sector kind) s = .next t ∧ t = { s with l2 := t.l2, dram := t.dram, life := t.life, cores := t.cores } ∧ (∀ n, n ≠ core → t.core n = s.core n)
          ∧ (kind = .instr → (∀ q ∈ k.icache, q.1 ≠ sector) → t.core core = { k with icache := ((sector, d) :: k.icache).take 2048 })
          ∧ (kind ≠ .instr → l1Find k.l1 sector = none →
              t.core core = { k with l1 := (t.core core).l1 } ∧ l1Find (t.core core).l1 sector = some copy ∧ ∀ p ∈ (t.core core).l1, p = copy ∨ p ∈ k.l1))
    ∧ (∀ (h : HartId) (g : Hart) (va : Word) (write fetch : Bool), s.findHart h = some g → va.extractLsb' 57 7 = 0 →
        let kind : AccessKind := if fetch then .fetch else if write then .store else .load
        (∀ l e m, walk s g.space va.toNat = (l, .ok e) → judge s g.space kind va.toNat e (some (e, l)) = .ok m → NoUpset s →
            (∀ pa ∈ l, linkDown s (sectorOf pa) = false) → (s.tlbs h).contains e = false →
          ∃ t, exec (.tableWalk h va write fetch) s = .next t
            ∧ t = { s with l2 := t.l2, dram := t.dram, life := t.life, cores := t.cores, benches := t.benches } ∧ SameButCaches t s
            ∧ (∀ n, (t.core n).l1 = (s.core n).l1) ∧ (t.core (coreOf h)).tlb.head? = some e ∧ (t.bench (benchOf h)).tlb.head? = some e)
        ∧ (∀ l f, walk s g.space va.toNat = (l, .error f) →
            exec (.tableWalk h va write fetch) s = .next (noteAll s (l.map (Note.entry g.space.part) ++ f.notes))
            ∧ (l = [] → f.notes = [] → exec (.tableWalk h va write fetch) s = .next s)))



/-! ## Farm schedulers, save engine, debugger -/

/-- R218 to R220, R269 to R280, R331, R338 to R345: the steps of the farm schedulers and the save engine. A Blocked farm's flag is read, and the farm is Ready once it
holds DEPVAL; a farm that waits for harts ages; a scheduler places a hart, swaps a farm out or resumes one when that is its choice; a hart is saved at its
pre-emption point, and removed once saved; a Completing farm writes DONEVAL; a suspension starts 1 ms after its request. -/
def Obligations.SchedulerSteps : Prop :=
  ∀ (s : State) (n : BitVec 16),
    (∀ f m, s.farmOf n = some f → f.state = .blocked → agentMap s f.space .load f.rcd.depaddr = .ok m → NoUpset s → LinkUp s m.pa 8 →
      ∃ t, exec (.farmDepRead n) s = .next t ∧ SameButRows t (if f.rcd.depval.toNat ≤ memRead s.mem m.pa 8
        then s.updFarm n (fun g => { g with state := if g.rcd.strips = 0 then .completing else .ready, queuedAt := s.tick }) else s))
    ∧ (∀ cycles,
        let old (g : Farm) : Nat := min 7 (g.rcd.prio + (g.waited + cycles) / 1048576)
        let aged (g : Farm) : Farm :=
          { g with waited := g.waited + cycles, unaged := g.unaged - 4 * cycles, eff := if g.state = .running then max g.eff (old g) else old g }
        exec (.priorityAging n cycles) s = .next (s.updFarm n (fun g => if wantsHarts s g then aged g else g))
        ∧ ∀ g, (g.state = .ready ∨ g.state = .swapped → wantsHarts s g = true)
          ∧ (g.state = .blocked ∨ g.state = .completing ∨ g.state = .done → wantsHarts s g = false))
    ∧ (∀ f i (die : Bool), s.farmOf n = some f → schedulerChoice s die.toNat = some (.place n i) → s.findHart i = none →
      ∃ t h, exec (.hartPlace n die) s = .next t ∧ t.findHart i = some h ∧ h.run = .ready ∧ h.farm = n ∧ h.part = f.rcd.part ∧ h.partid = f.rcd.part
        ∧ h.pc = f.rcd.entry &&& ~~~1#64 ∧ h.getX 3 = f.rcd.arg ∧ (∀ r : Reg, r ≠ 3 → h.getX r = 0)
        ∧ h.status = 0x8#64 ||| (if s.boot.refMode then 0x10#64 else 0#64) ∧ h.trapbase = f.trapbase &&& ~~~3#64 ∧ h.ptbase = f.ptbase ∧ h.asid = f.asid
        ∧ h.stripno = BitVec.allOnes 64 ∧ h.granted = false ∧ h.vlg = 0 ∧ h.vlv = 0 ∧ h.instret = 0
        ∧ (∀ j, j ≠ i → t.findHart j = s.findHart j) ∧ t.mem = s.mem ∧ (t.core (coreOf i)).l1 = []
        ∧ (∃ g, t.farmOf n = some g ∧ g.state = .running ∧ g.placedAt = s.tick ∧ g.rcd = f.rcd ∧ g.nextStrip = f.nextStrip))
    ∧ (∀ die : Bool, (∀ i, schedulerChoice s die.toNat ≠ some (.place n i)) → exec (.hartPlace n die) s = .next s)
    ∧ (∀ v f farm, schedulerChoice s 0 = some (.swap v f) ∨ ((∀ g, schedulerChoice s 0 ≠ some (.swap v g)) ∧ schedulerChoice s 1 = some (.swap v f)) →
        s.farmOf v = some farm → (startSwap v farm.rcd.part s).2 = true →
      ∃ t, exec (.swapOut v) s = .next t ∧ (∀ h ∈ s.residents v, ∃ g, t.findHart h.id = some g ∧ g.swapping = true)
        ∧ (∃ g, t.farmOf v = some g ∧ g.swapFor = some f ∧ g.keptSlots = (t.residents v).map (·.id) ∧ g.rcd = farm.rcd)
        ∧ (∀ b, (t.bench b).canopyOwner ≠ some v) ∧ ∃ a size, (v, a, size) ∈ (t.partn farm.rcd.part).blocks)
    ∧ (∀ h, Current s h → s.hart.swapping = true → s.hart.bureau = false → s.hart.moving = false → s.hart.run = .ready → s.hart.haltAsked = false → s.hart.stores = [] →
      tget [] s.posted h.toNat = [] → ∀ f, s.farmOf s.hart.farm = some f → (∀ g ∈ f.saved, g.id ≠ h) →
      ∃ t k, exec (.hartSave h) s = .next t ∧ t.hart.run = .halted ∧ (∃ g, t.farmOf s.hart.farm = some g ∧ g.saved = f.saved ++ [k])
        ∧ k.id = h ∧ k.pc = s.hart.pc ∧ k.x = s.hart.x ∧ k.v = s.hart.v ∧ k.m = s.hart.m ∧ k.status = s.hart.status ∧ k.vtype = s.hart.vtype ∧ k.vri = s.hart.vri ∧ k.instret = s.hart.instret
        ∧ k.lastLda = none ∧ ∀ x ∈ (t.bench (benchOf h)).tiles.toList, x.owner ≠ some h)
    ∧ (∀ h g f, s.findHart h = some g → g.swapping = true → g.bureau = false → s.farmOf g.farm = some f → (∃ k ∈ f.saved, k.id = h) → (∀ k ∈ s.others, k.id = h → s.hart.id ≠ h ∨ s.hart.run = .absent) →
      ∃ t, exec (.saveComplete h) s = .next t ∧ t.findHart h = none ∧ t.mem = s.mem)
    ∧ (∀ f (die : Bool) got, s.farmOf n = some f → schedulerChoice s die.toNat = some (.resume n) → placesForAll s (placesWithout s n []) [] f = some got → f.savedCanopies = [] →
      ∃ t g, exec (.farmResume n die) s = .next t ∧ t.farmOf n = some g ∧ g.saved = [] ∧ g.savedTiles = [] ∧ g.rcd = f.rcd ∧ t.fresh = s.fresh + 1 ∧ t.mem = s.mem
        ∧ ∀ p ∈ got, t.findHart p.2 = some { p.1 with
            id := p.2, run := if p.1.status.getLsbD 10 = true then .halted else .ready, swapping := false, haltAsked := false,
            v := p.1.v.map (fun r => { r with dirty := false }) })
    ∧ (∀ f m, s.farmOf n = some f → f.state = .completing → agentMap s f.space .store f.rcd.done = .ok m → Sound s → NoUpset s → LinkUp s m.pa 8 → Unheld s m.pa 8 →
      ∃ t, exec (.farmComplete n) s = .next t ∧ StoredAt s t m.pa 8 f.rcd.doneval.toNat ∧ (∃ g, t.farmOf n = some g ∧ g.state = .done ∧ g.rcd = f.rcd)
        ∧ (∀ b, (t.bench b).canopyOwner ≠ some n) ∧ (∀ b ∈ (t.partn f.rcd.part).blocks, b.1 ≠ n) ∧ t.hart = s.hart ∧ t.others = s.others)
    ∧ (∀ f, s.farmOf n = some f → f.state ≠ .completing → exec (.farmComplete n) s = .next s)
    ∧ ∀ (p : BitVec 3) (t0 : Word), (s.partn p).suspTime = some t0 → (s.partn p).st = 1 →
      let u := s.setPart p { s.partn p with suspTime := none, suspTaken := false }
      let leaves (f : Farm) : Prop := f.rcd.part = p ∧ f.state = .running
      ((s.time - t0).toNat < 1000000 → exec (.suspendTimeout p) s = .next s)
      ∧ (1000000 ≤ (s.time - t0).toNat →
          (∃ t, exec (.suspendTimeout p) s = .next t ∧ (t.partn p).suspTime = none ∧ (t.partn p).suspTaken = false)
          ∧ ((∀ f ∈ s.farms, ¬ leaves f) →
              let bureau := s.harts.find? (fun h => h.bureau && h.part == p && !h.swapping)
              (bureau = none → exec (.suspendTimeout p) s = .next u)
              ∧ ∀ b, bureau = some b → (startSwap b.farm p u).2 = true →
                  ∃ t, exec (.suspendTimeout p) s = .next t ∧ ∀ h ∈ s.residents b.farm, ∃ g, t.findHart h.id = some g ∧ g.swapping = true))

/-- R346 to R348: a halt request marks a hart of a partition whose debug enable is set; the hart halts at its next pre-emption point; the debugger reads and writes
the halted hart's PC and registers, but not its level (R24); a write to a hart that a swap is taking waits; the hart resumes at PC. -/
def Sys2Proof.Claim.DebugSteps : Prop :=
  ∀ (s : State) (h : HartId), Current s h →
    let debug := (s.partn s.hart.part).debugOn = true
    let halted := s.hart.run = .halted ∧ s.hart.status.getLsbD 10 = true
    let here := s.hart.swapping = false ∧ s.hart.debugWrites = []
    let answers (l : List Byte) : State := { s with links := { s.links with answer := l, answerBad := false, unsupported := false } }
    (debug → s.hart.run ≠ .halted → exec (.debugHaltRequest h) s = .next (s.withHart { s.hart with haltAsked := true }))
    ∧ (¬ debug ∨ s.hart.run = .halted → exec (.debugHaltRequest h) s = .next s)
    ∧ (s.hart.haltAsked = true → s.hart.run = .ready → s.hart.moving = false → s.hart.stores = [] → tget [] s.posted h.toNat = [] → Unposted s →
        exec (.debugHaltEnter h) s = .next (s.withHart { s.hart.dropAhead with
          run := .halted, haltAsked := false, fetched := none, stalled := false, status := s.hart.status ||| 0x400 }))
    ∧ (s.hart.haltAsked = false → exec (.debugHaltEnter h) s = .next s)
    ∧ (halted → here → ∀ (r : Reg) (v : Nat),
        exec (.debugAccess h .pc none) s = .next (answers (bytesOf 8 s.hart.pc.toNat))
        ∧ exec (.debugAccess h (.x r) none) s = .next (answers (bytesOf 8 (s.getX r).toNat))
        ∧ exec (.debugAccess h .pc (some v)) s = .next (s.withHart { s.hart with pc := BitVec.ofNat 64 v &&& ~~~1#64 })
        ∧ exec (.debugAccess h (.x r) (some v)) s = .next (s.setX r (BitVec.ofNat 64 v))
        ∧ exec (.debugAccess h (.sysreg 0) (some v)) s = .next (s.withHart { s.hart with
            status := (s.hart.status &&& ~~~0x27C#64) ||| (BitVec.ofNat 64 v &&& 0x27C#64) }))
    ∧ (halted → s.hart.swapping = true → s.hart.bureau = false → (∀ f, s.farmOf s.hart.farm = some f → ∀ g ∈ f.saved, g.id ≠ h) →
        ∀ field v, exec (.debugAccess h field (some v)) s = .next (s.withHart { s.hart with debugWrites := s.hart.debugWrites ++ [(field, v)] }))
    ∧ (¬ halted → ∀ f w, exec (.debugAccess h f w) s = .next s ∧ exec (.debugResume h) s = .next s)
    ∧ (halted → debug → s.hart.debugWrites = [] →
        exec (.debugResume h) s = .next (s.withHart { s.hart with run := .ready, status := s.hart.status &&& ~~~0x400#64 }))

/-! ## Memory controllers and engines -/

/-- R298, R302 to R308, R310, R413 to R418, R425: an activation counts its row, and the row that reaches RMTH alerts and waits for an RFM; a request of a bank with an
RFM pending or running waits and counts; an RFM runs at a request or after 2 µs, closes the bank's row and takes the bank up for 240 ns; a refresh closes the row.
Scrubbing and soft errors count what the codes correct and poison what they cannot; bits that a check value guards change with nothing told. A CXL link that goes
down poisons the sectors an L2 held dirty and reports each. A step that finds nothing to do changes nothing. -/
def Sys2Proof.Claim.MemoryControllers : Prop :=
  ∀ s : State,
    let waits (bank : Nat) : Prop := ∃ p ∈ s.dram.pendingRfm, p.bank = bank
    let ran (bank : Nat) (s : State) : State :=
      (({ s with dram := { s.dram with
            pendingRfm := s.dram.pendingRfm.filter (fun p => p.bank ≠ bank), openRows := tset s.dram.openRows bank none,
            busy := tset s.dram.busy bank (s.time.toNat + 240) } } : State).updChannel (bank / 32) (fun k => { k with rfm := k.rfm + 1 })).count (0x1100 + 8 * (bank / 32)) 1
    let late (bank : Nat) (s : State) : State := s.updChannel (bank / 32) (fun k => { k with rfmwait := k.rfmwait + 1 })
    let opened (pa : Nat) (s : State) : State :=
      let bank := hbmBank pa
      let row := hbmRow pa
      let key := bank * 65536 + row
      let k := tget Channel.init s.dram.channels (bank / 32)
      let n := tget 0 s.dram.counts key + 1
      let put (k : Channel) (n : Nat) (wait : List PendingRfm) : State :=
        { s with dram := { s.dram with channels := tset s.dram.channels (bank / 32) k, openRows := tset s.dram.openRows bank (some row), counts := tset s.dram.counts key n, pendingRfm := s.dram.pendingRfm ++ wait } }
      if n < s.dram.rmth.toNat then put { k with act := k.act + 1 } n []
      else put { k with
          act := k.act + 1, alert := k.alert + 1,
          lastalert := BitVec.ofNat 64 (row + 2 ^ 16 * (bank % 16) + 2 ^ 20 * (bank / 16 % 2) + 2 ^ 32 * ((k.alert + 1).toNat % 2 ^ 32)) } 0
        [{ bank := bank, row := row, since := s.time }]
    (∀ pa, regionOf pa = .hbm →
      let bank := hbmBank pa
      let isOpen := tget none s.dram.openRows bank = some (hbmRow pa)
      let runs := s.time.toNat < tget 0 s.dram.busy bank
      (¬ waits bank → ¬ runs → exec (.hbmAct pa) s = .next (if isOpen then s else opened pa s))
      ∧ (¬ waits bank → runs → exec (.hbmAct pa) s = .next (if isOpen then late bank s else opened pa (late bank s)))
      ∧ (waits bank → exec (.hbmAct pa) s = .next (opened pa (ran bank (late bank s)))))
    ∧ (∀ pa, regionOf pa ≠ .hbm → exec (.hbmAct pa) s = .next s)
    ∧ (∀ bank,
        let due := ∃ p ∈ s.dram.pendingRfm, p.bank = bank ∧ 2000 ≤ (s.time - p.since).toNat
        (due → exec (.rfm bank) s = .next (ran bank s)) ∧ (¬ due → exec (.rfm bank) s = .next s)
        ∧ (waits bank → exec (.hbmRefresh bank) s = .next (ran bank s))
        ∧ (¬ waits bank → exec (.hbmRefresh bank) s = .next { s with dram := { s.dram with openRows := tset s.dram.openRows bank none } }))
    ∧ (∀ k, k % 64 = 0 → regionOf k = .hbm →
        let ch := hbmChannel k
        let marked (u : State) : State := { u with poison := setIns u.poison k }
        let copy := s.l2.find? (fun p => p.1 == k)
        exec (.patrolScrub k .clean) s = .next s
        ∧ exec (.patrolScrub k .corrected) s = .next (s.count (0x100 + 8 * ch) 1)
        ∧ (s.poison.contains k = true → exec (.patrolScrub k .uncorrectable) s = .next s)
        ∧ (s.poison.contains k = false → exec (.patrolScrub k .uncorrectable) s
            = .next ((marked (s.count (0x900 + 8 * ch) 1)).report { typ := 1, unit := 0, index := ch, part := none, addr := k }))
        ∧ (copy = none → exec (.softError (.home k true)) s = exec (.patrolScrub k .corrected) s
            ∧ exec (.softError (.home k false)) s = exec (.patrolScrub k .uncorrectable) s)
        ∧ (∀ e, copy = some (k, e) →
            exec (.softError (.home k true)) s = .next s
            ∧ (e.dirty = false → NoUpset s → exec (.softError (.home k false)) s = exec (.hbmAct k) s)
            ∧ (e.dirty = true → s.poison.contains k = false → exec (.softError (.home k false)) s
                = .next ((marked s).report { typ := 1, unit := 2, index := e.home, part := partOfBench s e.home, addr := k })))
        ∧ (∀ e bits, copy = some (k, e) → bits < 2 ^ 528 → Sound s → ∃ t, exec (.softError (.homeUpset k bits)) s = .next t
            ∧ t = { s with mem := t.mem, upsets := t.upsets } ∧ tget 0 t.upsets k = tget 0 s.upsets k ^^^ bits
            ∧ ∀ a, memGet t.mem a = if k ≤ a ∧ a < k + 64 then memGet s.mem a ^^^ BitVec.ofNat 8 (bits / 256 ^ (a - k)) else memGet s.mem a)
        ∧ (copy = none → ∀ bits, exec (.softError (.homeUpset k bits)) s = .next s))
    ∧ (∀ (c k : Nat) (x : L1Sector) (unit : BitVec 8), l1Find (s.core c).l1 k = some x →
        let rest := s.setCore c { s.core c with l1 := (s.core c).l1.filter (fun p => p.addr ≠ k) }
        exec (.softError (.l1Copy c k)) s = .next (rest.count 0x1D30 1) ∧ exec (.softError (.l1Drawer c k)) s = .next rest
        ∧ exec (.softError (.inFlight unit)) s = .next (s.count (0x1D00 + 8 * (unit.toNat % 32)) 1)
        ∧ ∀ bits, bits < 2 ^ 528 → exec (.softError (.l1Upset c k bits)) s = .next (s.setCore c { s.core c with
            l1 := (s.core c).l1.map (fun p => if p.addr = k then { p with data := p.data ^^^ (bits % 2 ^ 512), upset := p.upset ^^^ bits } else p) }))
    ∧ (∀ (h : Hart) (r : Reg) (e : Nat), s.findHart h.id = some h → (e + 1) * elemWidth (h.vreg r.toNat).fmt.toNat ≤ h.capBits →
        let side := 64 / elemWidth (h.vreg r.toNat).fmt.toNat
        exec (.softError (.drawer h.id r e true)) s = .next s
        ∧ ((h.vreg r.toNat).poison.testBit e = false → ∃ p, (∀ i, p.testBit i = ((h.vreg r.toNat).poison.testBit i || decide (i / side = e / side)))
            ∧ exec (.softError (.drawer h.id r e false)) s
              = .next ((s.updHart h.id (fun g => g.setV r.toNat { h.vreg r.toNat with poison := p })).report
                  { typ := 2, unit := 4, index := coreOf h.id, part := some h.partid, addr := 0 })))
    ∧ (∀ n off, n < 48 → off < 2 ^ 24 → ∃ l, (∀ a, a ∈ l ↔ a ∈ (s.bench n).canopyPoison ∨ a / 32 = off / 8)
        ∧ exec (.softError (.canopyUnit n off false)) s = .next ((s.setBench n { s.bench n with canopyPoison := l }).report
            { typ := 2, unit := 5, index := n, part := partOfBench s n, addr := 0 }))
    ∧ (∀ port, port < 4 →
        (s.links.cxlUp.getLsbD port = false → exec (.cxlLinkDown port) s = .next s)
        ∧ (s.links.cxlUp.getLsbD port = true →
            let lost := (s.l2.filter (fun p => regionOf p.1 = .cxl port ∧ p.2.dirty = true)).map Prod.fst
            let down : State := { s with
              l2 := s.l2.filter (fun p => regionOf p.1 ≠ .cxl port), upsets := s.upsets.filter (fun p => regionOf p.1 ≠ .cxl port),
              links := { s.links with cxlUp := s.links.cxlUp &&& ~~~(1#4 <<< port) } }
            exec (.cxlLinkDown port) s = .next (lost.foldl (fun (s : State) k =>
              ({ s with poison := setIns s.poison k } : State).report { typ := 8, unit := 1, index := port, part := none, addr := k }) down)))

namespace Sys2Proof.Claim

/-- A completion flag written (R224): memory holds the value at the flag; where the flag has no translation it stays unwritten and a RAS event of type 11 is
recorded, after the table reads and events of its translation (R318, R421). -/
def FlagTo (u t : State) (sp : Space) (die : Nat) (a v : Word) : Prop :=
  (∀ m, agentMap u sp .store a = .ok m → LinkUp u m.pa 8 → Unheld u m.pa 8 → SameButWrite t u ∧ StoredAt u t m.pa 8 v.toNat)
    ∧ ∀ f, agentMap u sp .store a = .error f → t = (noteAll u f.notes).report { typ := 11, unit := 14, index := die, part := some sp.part, addr := a.toNat }

/-- What a record's flag receives for a reason, 0 for success (R224). -/
def flagFor (c : CmdRec) (reason : Nat) : Word := if reason = 0 then ((c.w 0).extractLsb' 16 16).setWidth 64 else 0x8000_0000_0000_0000 + BitVec.ofNat 64 reason

/-- The record `c` at the head of engine `n` has ended with a reason; `rest` waits behind it (R224, R231). -/
def Ended (n reason : Nat) (c : CmdRec) (rest : List CmdRec) (u t : State) : Prop :=
  FlagTo { u with engines := tset u.engines n rest } t c.space (n / 8) (c.w 1) (flagFor c reason)

/-- No hart has older stores that a release of its own has made due before another agent acts (R242, R251). -/
def Calm (s : State) : Prop := ∀ g ∈ s.harts, ∀ e ∈ g.stores, e.left = 0

/-- A run of `n` bytes within one page at a device-local address that an agent reaches (R312, R322). -/
def Reaches (s : State) (sp : Space) (k : AccessKind) (a : Word) (n : Nat) (m : Mapped) : Prop :=
  0 < n ∧ a.getLsbD 63 = false ∧ a.toNat % 4096 + n ≤ 4096 ∧ agentMap s sp k a = .ok m ∧ LinkUp s m.pa n

/-- The address of a run of a COPY: a base and three signed strides taken so many times (R225). -/
def runAt (base : Word) (s1 s2 s3 : BitVec 32) (i : Nat × Nat × Nat) : Word :=
  base + BitVec.ofInt 64 (i.1 * s1.toInt + i.2.1 * s2.toInt + i.2.2 * s3.toInt)

/-- `n` bytes of memory from an address, where translation is off. -/
def Plain (s : State) (a : Word) (n : Nat) : Prop := ∀ j, j < n → a.toNat + j < 2 ^ 52 ∧ isMemory (a.toNat + j) = true

/-- Two runs of bytes that share none. -/
def Apart (a b : Word) (n : Nat) : Prop := a.toNat + n ≤ b.toNat ∨ b.toNat + n ≤ a.toNat

end Sys2Proof.Claim

/-- R223 to R226, R230, R231, R322: the record at the head of a copy engine's queue is carried out, its flag written and the queue shortened: COPY moves its runs
(in any order, where translation is off and they do not overlap), FILL repeats its doubleword, FLAG WRITE stores one, L2 PREFETCH brings sectors into the L2. A
record that meets a fault ends with its reason. An engine whose head is of another type does nothing. -/
def Sys2Proof.Claim.CopyEngines : Prop :=
  ∀ (s : State) (n : Nat) (c : CmdRec) (rest : List CmdRec), s.queueOf n = c :: rest → s.awaits = [] → s.poison = [] → Sound s → NoUpset s → Calm s →
    let typ := ((c.w 0).extractLsb' 0 4).toNat
    let dst := if typ = 0 then c.w 3 else c.w 2
    let len := match typ with | 0 => ((c.w 0).extractLsb' 32 32).toNat | 1 => (c.w 4).toNat | 5 => 8 | _ => (c.w 3).toNat
    let i : Instr := match typ with | 0 => .copy n | 1 => .fill n | 5 => .flagWrite n | _ => .l2Prefetch n
    let once := ((c.w 4).extractLsb' 0 16).toNat ≤ 1 ∧ ((c.w 4).extractLsb' 16 16).toNat ≤ 1 ∧ ((c.w 4).extractLsb' 32 16).toNat ≤ 1
    let moved (u : State) : Prop := SameButWrite u { s with fresh := s.fresh + 1 }
    (∀ m, typ = 0 ∨ typ = 1 ∨ typ = 5 → (typ = 5 → dst.toNat % 8 = 0) → Reaches s c.space .store dst len m → Unheld s m.pa len →
      (typ = 0 → once → ∀ m', Reaches s c.space .load (c.w 2) len m' →
        ∃ u t, exec i s = .next t ∧ Ended n 0 c rest u t ∧ moved u ∧ StoredAt s u m.pa len (memRead s.mem m'.pa len))
      ∧ (typ = 1 → ∃ u t, exec i s = .next t ∧ Ended n 0 c rest u t ∧ moved u
          ∧ ∀ b, memGet u.mem b = if m.pa ≤ b ∧ b < m.pa + len then BitVec.ofNat 8 ((c.w 3).toNat / 256 ^ ((b - m.pa) % 8)) else memGet s.mem b)
      ∧ (typ = 5 → ∃ u t, exec i s = .next t ∧ Ended n 0 c rest u t ∧ moved u ∧ StoredAt s u m.pa 8 (c.w 3).toNat))
    ∧ (typ = 0 → c.space.ptbase.getLsbD 0 = false → g2On s c.space = false → (∀ pa, linkDown s pa = false ∧ pageHeld s pa = false) →
        let cnt (k : Nat) : Nat := max 1 ((c.w 4).extractLsb' (16 * k) 16).toNat
        let runs (i : Nat × Nat × Nat) : Prop := i.1 < cnt 0 ∧ i.2.1 < cnt 1 ∧ i.2.2 < cnt 2
        let half (w k : Nat) : BitVec 32 := (c.w w).extractLsb' (32 * k) 32
        let orig := runAt (c.w 2) (half 5 0) (half 5 1) (half 6 0)
        let dest := runAt (c.w 3) (half 6 1) (half 7 0) (half 7 1)
        (∀ i, runs i → Plain s (orig i) len ∧ Plain s (dest i) len) → (∀ i j, runs i → runs j → (i ≠ j → Apart (dest i) (dest j) len) ∧ Apart (orig i) (dest j) len) →
        ∃ u t, exec (.copy n) s = .next t ∧ Ended n 0 c rest u t ∧ moved u
          ∧ (∀ i j, runs i → j < len → memGet u.mem ((dest i).toNat + j) = memGet s.mem ((orig i).toNat + j))
          ∧ ∀ b, (∀ i, runs i → ¬ ((dest i).toNat ≤ b ∧ b < (dest i).toNat + len)) → memGet u.mem b = memGet s.mem b)
    ∧ (typ = 6 → ∀ m, Reaches s c.space .load dst len m → ∃ u t, exec i s = .next t ∧ Ended n 0 c rest u t ∧ SameButRows u s
        ∧ ∀ k, (sectorsOf m.pa len).getLast? = some k → isCached k = true → m.uc = false → ∃ p ∈ u.l2, p.1 = k)
    ∧ (typ = 5 → dst.toNat % 8 ≠ 0 → ∃ t, exec i s = .next t ∧ Ended n 7 c rest s t)
    ∧ (∀ f, (typ = 0 ∧ once) ∨ typ = 1 ∨ typ = 5 ∨ typ = 6 → 0 < len → (typ = 5 → dst.toNat % 8 = 0) →
        let a := if typ = 0 then c.w 2 else dst
        a.getLsbD 63 = false → agentMap s c.space (if typ = 0 ∨ typ = 6 then .load else .store) a = .error f →
        ∃ t, exec i s = .next t ∧ Ended n (if f.perm then 3 else 2) c rest (noteAll (if typ = 6 then s else { s with fresh := s.fresh + 1 }) f.notes) t)
    ∧ (typ = 1 ∨ typ = 5 → dst.getLsbD 63 = true → (typ = 5 → dst.toNat % 8 = 0) → 0 < len → remoteRefused s c.space.part dst = true →
        ∃ t, exec i s = .next t ∧ Ended n 4 c rest { s with fresh := s.fresh + 1 } t)
    ∧ (∀ j ∈ [Instr.copy n, .fill n, .flagWrite n, .l2Prefetch n], i ≠ j → exec j s = .next s)

/-- R190, R191, R193, R224, R227: the loader carries out a CANOPY LOAD as MLDC does for its farm; a canopy of another farm ends it with reason 5, a misaligned
operand with reason 7. -/
def Sys2Proof.Claim.CanopyLoader : Prop :=
  ∀ (s : State) (n : Nat) (c : CmdRec) (rest : List CmdRec), (s.bench n).loaderQ = c :: rest → (s.bench n).replays = [] → (s.bench n).canopyUpsets = [] → s.awaits = [] →
    (∀ pa, linkDown s pa = false) → Sound s → NoUpset s → Calm s →
    let b := (s.bench n).takeCanopy c.farm
    let f := ((c.w 6).extractLsb' 0 5).toNat
    let tr := (c.w 6).getLsbD 5
    let w := memWidth f / 8
    let K := ((c.w 2).extractLsb' 0 16).toNat
    let cb := ((c.w 2).extractLsb' 16 16).toNat
    let at' (o : Nat) : Word := c.w 3 + BitVec.ofNat 64 o * c.w 4
    let ends (reason : Nat) (b' : Bench) (u t : State) : Prop := FlagTo (u.setBench n { b' with loaderQ := rest }) t c.space (n / 24) (c.w 1) (flagFor c reason)
    matrixFmt f = true → isBlock f = false →
    (b.canopyOwner ≠ some c.farm → ∃ t, exec (.canopyLoad n) s = .next t ∧ ends 5 b s t)
    ∧ (b.canopyOwner = some c.farm → (c.w 3).toNat % w ≠ 0 ∨ (c.w 4).toNat % w ≠ 0 → ∃ t, exec (.canopyLoad n) s = .next t ∧ ends 7 b s t)
    ∧ (b.canopyOwner = some c.farm → (c.w 3).toNat % w = 0 → (c.w 4).toNat % w = 0 → cb + K * w ≤ 65536 →
        ∀ bytes : Nat → List MarkedByte,
        (∀ o, o < (if tr then 256 else K) → (at' o).getLsbD 63 = false ∧ agentBytes s c.space (at' o) ((if tr then K else 256) * w) = .ok (bytes o)) →
        ∃ t b' u, exec (.canopyLoad n) s = .next t ∧ ends 0 b' u t ∧ SameButRows u s
          ∧ b' = { b with canopy := b'.canopy, canopyPoison := b'.canopyPoison, canopyUpsets := b'.canopyUpsets, loads := b'.loads }
          ∧ b'.loads = (let l := b.loads ++ [{ geometry := c.w 2, source := c.w 3, stride := c.w 4, scale := c.w 5, fmt := (c.w 6).extractLsb' 0 5, tr := tr, space := c.space }]
              l.drop (l.length - 16))
          ∧ PanelIn b.canopy b'.canopy tr cb K w bytes)

/-- R228, R323, R324: a snapshot copies its registered pages, those a home has read ahead of a write first, each to its DST as it stood; with none left its flag is
written. A home reads a page for every snapshot that still has to copy it, while one of its eight buffers is free. The whole command is the page copies one after
another. -/
def Sys2Proof.Claim.Snapshots : Prop :=
  ∀ (s : State) (n : Nat) (c : CmdRec) (rest : List CmdRec) (p : Snap), s.queueOf n = c :: rest → ((c.w 0).extractLsb' 0 4).toNat = 3 → s.snaps = [p] → p.engine = n → p.cmd = c →
    Sound s → NoUpset s → Calm s → s.awaits = [] →
    let copied (t : State) (q : Snap) : Prop := t = { s with l2 := t.l2, dram := t.dram, life := t.life, mem := t.mem, held := t.held, snaps := [q] }
    (p.failed = none → ∀ page home dst more m, p.buffers = [] → p.pages = (page, home, dst) :: more → dst.toNat % 4096 = 0 → agentMap s c.space .store dst = .ok m → LinkUp s m.pa 4096 →
        m.pa % 4096 = 0 → (∀ q ∈ more, q.1 ≠ m.pa) → (∀ pa, linkDown s pa = false) → s.poison = [] →
        ∃ t, exec (.snapshotPageCopy n) s = .next t ∧ StoredAt s t m.pa 4096 (memRead s.mem page 4096) ∧ copied t { p with pages := more })
    ∧ (p.failed = none → ∀ b more m, p.buffers = b :: more → b.dst.toNat % 4096 = 0 → b.bytes.length = 4096 → b.bad = [] → agentMap s c.space .store b.dst = .ok m → LinkUp s m.pa 4096 →
        m.pa % 4096 = 0 → (∀ q ∈ p.pages, q.1 ≠ m.pa) → s.poison = [] →
        ∃ t, exec (.snapshotPageCopy n) s = .next t ∧ (∀ a, memGet t.mem a = if m.pa ≤ a ∧ a < m.pa + 4096 then b.bytes.getD (a - m.pa) 0 else memGet s.mem a)
          ∧ copied t { p with buffers := more })
    ∧ (p.failed = none → p.buffers = [] → p.pages = [] → ∃ t, exec (.snapshotPageCopy n) s = .next t ∧ Ended n 0 c rest { s with snaps := [] } t)
    ∧ (∀ r, p.failed = some r → ∃ t, exec (.snapshotPageCopy n) s = .next t ∧ Ended n r c rest { s with snaps := [] } t)
    ∧ exec (.snapshot n) s = (List.range (p.pages.length + p.buffers.length + 1)).foldl
        (fun o _ => match o with | .next u => exec (.snapshotPageCopy n) u | o => o) (.next s)
    ∧ (∃ t, exec (.snapshot n) s = .next t)
    ∧ ∀ page,
        let free (b : Nat) : Prop := (p.buffers.filter (fun x => x.home = b)).length < 8
        ((∀ q ∈ p.pages, q.1 = page → ¬ free q.2.1) → exec (.demandCopy page) s = .next s)
        ∧ ((∃ q ∈ p.pages, q.1 = page ∧ free q.2.1) →
          ∃ l, exec (.demandCopy page) s = .next { s with snaps := [{ p with pages := p.pages.filter (fun q => q.1 ≠ page), buffers := p.buffers ++ l }] }
            ∧ l.length = (p.pages.filter (fun q => q.1 = page)).length
            ∧ ∀ b ∈ l, b.bytes.length = 4096 ∧ (∀ i, i < 4096 → b.bytes.getD i 0 = memGet s.mem (page + i)) ∧ (page, b.home, b.dst) ∈ p.pages)

/-! ## Fabric -/

namespace Sys2Proof.Claim

/-- The step at which a request packet with operation `op` arrives (R358). -/
def Arrives (op : Nat) (p : Packet) (i : Instr) : Prop :=
  match op with
  | 0 => i = .read p | 1 => i = .write p | 2 => i = .reads p | 3 => i = .readx p | 4 => i = .writes p | 5 => i = .writex p | 6 => i = .amo p | 7 => i = .sendPacket p
  | _ => op = 12 ∧ i = .mwrite p

/-- Bits of an element (R356, R358): bytes for MWRITE. -/
def elemBits (op : Nat) (p : Packet) : Nat := if op = 12 then 8 else if p.esz = 4 then 4 else 8 * 2 ^ p.esz.toNat

/-- Elements of a packet: READ, WRITE and SEND count bytes, of which those beyond the last whole element make one more. -/
def elemCount (op : Nat) (p : Packet) : Nat := if op = 0 ∨ op = 1 ∨ op = 7 then (p.cnt * 8 + elemBits op p - 1) / elemBits op p else p.cnt

/-- The bytes that element `e` takes: what is left, for the last of a count of bytes. -/
def elemBytes (op : Nat) (p : Packet) (e : Nat) : Nat :=
  let w := (elemBits op p + 7) / 8
  if (op = 0 ∨ op = 1 ∨ op = 7) ∧ p.esz ≠ 4 then min w (p.cnt - e * w) else w

/-- The bits of it. -/
def elemWide (op : Nat) (p : Packet) (e : Nat) : Nat := if p.esz = 4 ∧ op ≠ 12 then 4 else 8 * elemBytes op p e

/-- Element `e` of a packet passes the checks of R364: it lies in memory from byte `pa e`, in partition `q`. -/
def Accepts (s : State) (op : Nat) (p : Packet) (q : BitVec 3) (pa : Nat → Nat) : Prop :=
  ∀ e, e < elemCount op p → ∃ m, targetCheck s op p e = .ok (q, (packetPlace p op e).1, m) ∧ m.pa = pa e ∧ LinkUp s m.pa (elemBytes op p e) ∧ Unheld s m.pa (elemBytes op p e)

/-- The first bit in memory of element `e`: the high nibble of its byte where R358 says so. -/
def firstBit (op : Nat) (p : Packet) (pa : Nat → Nat) (e : Nat) : Nat := 8 * pa e + if (packetPlace p op e).2.2 then 4 else 0

/-- Storing only bytes `inside` leaves translation through the windows of partition `q` as it is (R368). -/
def Undisturbed (s : State) (q : BitVec 3) (inside : Nat → Prop) : Prop :=
  ∀ u : State, SameButWrite u { s with fabric := u.fabric } → (∀ b, ¬ inside b → memGet u.mem b = memGet s.mem b) → ∀ asid k va,
    let sp : Space := { part := q, ptbase := (s.partn q).bptbase, asid := asid, prv := 1 }
    translate u sp none k va = translate s sp none k va

/-- What an incoming request may move besides memory: rows, pages of snapshots, delivered sets. -/
def SameButServed (u s : State) : Prop :=
  SameButWrite u { s with fabric := u.fabric } ∧ u.fabric = { s.fabric with windows := u.fabric.windows }

end Sys2Proof.Claim

/-- R244, R356, R358, R364, R369: a request packet for this module is carried out element by element and answered once, with its tag. Reads return each element and
its poison; writes, SENDs and MWRITEs store theirs (the later of two that overlap), receive windows recording what was delivered; AMOs store the operation's
value and return the old one. Every element that fails leaves memory alone, and the answer names the lowest with its reason. -/
def Obligations.TargetMemoryUnit : Prop :=
  ∀ (s0 : State) (op : Nat) (p : Packet) (i : Instr), Arrives op p i →
    let s := s0.took (.request (BitVec.ofNat 4 op) p)
    let sizes := p.esz.toNat ≤ 4 ∧ elemCount op p ≤ (if op = 0 ∨ op = 1 ∨ op = 7 then 2048 else 256)
    (p.dst ≠ s.fabric.rank ∨ ¬ sizes → exec i s0 = .next s)
    ∧ (p.dst = s.fabric.rank → sizes →
      let ew := elemBits op p
      let n := elemCount op p
      let width (e : Nat) := elemBytes op p e
      let place (e : Nat) := packetPlace p op e
      let answers (code : BitVec 4) (u : State) (r : Response) : Prop :=
        exec i s0 = .next (u.emit (.response p.src code r)) ∧ r.tag = p.tag ∧ r.dtag = p.dtag ∧ r.esz = p.esz ∧ r.cnt = p.cnt
      let fine (r : Response) : Prop := r.reason = 0 ∧ r.fel = 0 ∧ r.failed = 0
      (∀ q pa, Accepts s op p q pa → Sound s → NoUpset s →
        (op = 0 ∨ op = 2 ∨ op = 3 → ∃ u r, answers 8 u r ∧ fine r ∧ SameButRows u s ∧ r.data.length = (if op = 0 then p.cnt else (n * ew + 7) / 8)
            ∧ (∀ e, e < n → lowBits (elemWide op p e) (ofBytes r.data / 2 ^ (ew * e))
                = lowBits (elemWide op p e) (memRead s.mem (pa e) (width e) / (if (place e).2.2 then 16 else 1)))
            ∧ ∀ e, e < n → r.poisoned.testBit e = poisonedAt s (pa e) (width e))
        ∧ (op ∈ [1, 4, 5, 7] → Undisturbed s q (fun b => ∃ e, e < n ∧ pa e ≤ b ∧ b < pa e + width e) → ∃ u r, answers 9 u r ∧ fine r ∧ r.data = [] ∧ r.poisoned = 0 ∧ SameButServed u s
            ∧ (∀ b j, j < 8 → (memGet u.mem b).getLsbD j =
                match (List.range n).reverse.find? (fun e => decide (firstBit op p pa e ≤ 8 * b + j) && decide (8 * b + j < firstBit op p pa e + elemWide op p e)) with
                | some e => (ofBytes (p.body.drop (if op = 4 then 8 else if op = 5 then 8 * p.cnt else 0)) / 2 ^ (ew * e)).testBit (8 * b + j - firstBit op p pa e)
                | none => (memGet s.mem b).getLsbD j)
            ∧ (op ≠ 7 → u.fabric = s.fabric)
            ∧ (op = 7 → ∀ y, (windowOf u q p.win).delivered.testBit y = ((windowOf s q p.win).delivered.testBit y || ((windowOf s q p.win).ctl.getLsbD 4
                && decide (p.off ≤ y) && decide (y < p.off + p.cnt)))))
        ∧ (op = 12 → (∀ e e', e < n → e' < n → e ≠ e' → pa e ≠ pa e') → Undisturbed s q (fun b => ∃ e, e < n ∧ b = pa e) → ∃ u r, answers 9 u r ∧ fine r ∧ SameButServed u s
            ∧ (∀ e, e < n → let byte := p.body.getD (8 * p.cnt + 2 * e) 0
                let mask := p.body.getD (8 * p.cnt + 2 * e + 1) 0
                memGet u.mem (pa e) = (memGet s.mem (pa e) &&& ~~~mask) ||| (byte &&& mask))
            ∧ ∀ b, (∀ e, e < n → b ≠ pa e) → memGet u.mem b = memGet s.mem b)
        ∧ (op = 6 → p.esz ≠ 4 → (∀ e e', e < n → e' < n → e ≠ e' → pa e + width e ≤ pa e' ∨ pa e' + width e' ≤ pa e) →
            Undisturbed s q (fun b => ∃ e, e < n ∧ pa e ≤ b ∧ b < pa e + width e) → ∃ u r, answers 8 u r ∧ fine r ∧ r.poisoned = 0 ∧ SameButServed u s ∧ u.fabric = s.fabric
            ∧ (let arg (k : Nat) : Nat := lowBits ew (ofBytes (p.body.drop (if p.cnt = 1 then 8 else 8 + 8 * p.cnt)) / 2 ^ (ew * k))
               let code := lowBits 4 (ofBytes (p.body.take 8))
               let old (e : Nat) : Nat := memRead s.mem (pa e) (width e)
               (∀ e, e < n → lowBits ew (ofBytes r.data / 2 ^ (ew * e)) = old e)
               ∧ (∀ x, amoRows[code]? = some x → ∀ e, e < n → memRead u.mem (pa e) (width e) = x.2 ew (old e) (arg e))
               ∧ (code = 9 → n = 1 → memRead u.mem (pa 0) (width 0) = if old 0 = arg 0 then arg 1 else old 0)
               ∧ (code = 10 → p.esz = 1 ∨ p.esz = 2 → ∀ e, e < n → memRead u.mem (pa e) (width e)
                   = (let f := if p.esz = 1 then 0x06 else 0x05
                      (roundOp f 0 false 0 (addVal 0 (decodeVal f (old e)) (decodeVal f (arg e)))).1))
               ∧ ∀ b, (∀ e, e < n → ¬ (pa e ≤ b ∧ b < pa e + width e)) → memGet u.mem b = memGet s.mem b)))
      ∧ (∀ why : Nat → Nat, 0 < n → n ≤ 256 → (∀ e, e < n → targetCheck s op p e = .error (why e)) → ∃ r,
          answers (if op = 0 ∨ op = 2 ∨ op = 3 ∨ op = 6 then 8 else 10) s r ∧ r.reason = BitVec.ofNat 8 (why 0) ∧ r.fel = 0 ∧ r.failed = 2 ^ n - 1 ∧ r.poisoned = 0
            ∧ ∀ b ∈ r.data, b = 0)
      ∧ ∀ e,
          let w := windowOf s ((partOfTag s p.dtag).getD 0) (place e).1
          let off := (place e).2.1
          let va := w.base + BitVec.ofNat 64 off
          let allowed := match op with
            | 0 | 2 | 3 => w.ctl.getLsbD 1
            | 1 | 4 | 5 => w.ctl.getLsbD 2
            | 6 => w.ctl.getLsbD 3
            | 7 => w.ctl.getLsbD 4
            | _ => w.ctl.getLsbD 2 || w.ctl.getLsbD 4
          ((∀ q, p.dtag = 0 ∨ s.fabric.tagOf q ≠ p.dtag) → targetCheck s op p e = .error 1)
          ∧ ∀ q, partOfTag s p.dtag = some q →
            let up := (s.partn q).st = 1 ∨ (s.partn q).st = 2
            let sp : Space := { part := q, ptbase := (s.partn q).bptbase, asid := w.ctl.extractLsb' 16 16, prv := 1 }
            let k : AccessKind := if op = 0 ∨ op = 2 ∨ op = 3 then .load else .store
            let whole := (ew + 7) / 8
            let inside := w.ok = true ∧ allowed = true ∧ off + width e ≤ w.len.toNat ∧ off % whole = 0
            (¬ up → targetCheck s op p e = .error 7)
            ∧ (up → w.ok = false → targetCheck s op p e = .error 2)
            ∧ (up → w.ok = true → allowed = false → targetCheck s op p e = .error 3)
            ∧ (up → w.ok = true → allowed = true → w.len.toNat < off + width e → targetCheck s op p e = .error 4)
            ∧ (up → w.ok = true → allowed = true → off + width e ≤ w.len.toNat → off % whole ≠ 0 → targetCheck s op p e = .error 8)
            ∧ (up → inside → ∀ f, translate s sp none k va = .error f → targetCheck s op p e = .error (if f.perm then 6 else 5))
            ∧ (up → inside → ∀ m, translate s sp none k va = .ok m → targetCheck s op p e =
                if isMemory m.pa = false then .error 6 else if op = 6 ∧ poisonedAt s m.pa (width e) = true then .error 9 else .ok (q, (place e).1, m)))

/-- R256, R283, R359, R364, R365: a response gives its answers to the hart, engine or context whose request carries its tag, and a hart that waits for no other runs
again; a store that its hart has gone past is done, or traps 0x0D with the hart as it stood before it. A response whose tag no request carries, or one that comes 2 ms
after its request left, is discarded. A request unanswered for 2 ms is answered as unknown, and its tag rests for 4 ms. -/
def Sys2Proof.Claim.Responses : Prop :=
  ∀ (s : State) (tag : BitVec 14),
    let dropped (s : State) : State := { s with fabric := { s.fabric with flights := s.fabric.flights.filter (fun g => g.tag ≠ tag) } }
    let give (s : State) (f : Flight) (ans : List (Nat × Answer)) (u : State) : Prop :=
      (∀ h r, f.who = .hart h → s.hart.id = h → s.hart.run ≠ .absent → s.hart.remote = some r → tag ∈ r.openTags →
        (∀ x ∈ tget [] s.posted h.toNat, tag ∉ x.req.openTags) →
        u = (dropped s).withHart { s.hart with
          remote := some { openTags := r.openTags.filter (· ≠ tag), answers := r.answers ++ ans },
          run := if s.hart.run = .asleep .remote ∧ r.openTags.filter (· ≠ tag) = [] then .ready else s.hart.run })
      ∧ (∀ h x, f.who = .hart h → Current s h → s.hart.remote = none → tget [] s.posted h.toNat = [x] → x.req.openTags = [tag] → x.req.answers = [] →
        let failed := ∃ a ∈ ans, ∀ v b, a.2 ≠ .good v b
        tget [] u.posted h.toNat = []
        ∧ (¬ failed → u = { dropped s with posted := u.posted })
        ∧ (failed → u = trappedHere 0x0D x.addr (({ dropped s with posted := u.posted } : State).withHart { x.before with
            run := .ready, stalled := false, fetched := none, stores := s.hart.stores, cycle := s.hart.cycle, haltAsked := s.hart.haltAsked,
            swapping := s.hart.swapping, debugWrites := s.hart.debugWrites })))
      ∧ (∀ key r, f.who = .engine key ∨ (1024 ≤ key ∧ f.who = .context (key - 1024)) → s.awaits = [(key, r)] → tag ∈ r.openTags →
        u = { dropped s with awaits := [(key, { openTags := r.openTags.filter (· ≠ tag), answers := r.answers ++ ans })] })
    let came (code : BitVec 4) (r : Response) : State := s.took (.response s.fabric.rank code r)
    let flown : Prop := ∃ f ∈ s.fabric.flights, f.tag = tag
    (∀ r : Response, r.tag = tag → ¬ flown → exec (.resp r) s = .next (came 8 r) ∧ exec (.nack r) s = .next (came 10 r))
    ∧ (¬ flown → exec (.ack tag) s = .next (came 9 (ackOf tag s)) ∧ exec (.requestTimeout tag) s = .next s)
    ∧ ∀ f, s.fabric.flights.find? (fun g => g.tag == tag) = some f →
      let late := ∃ t0, f.sentAt = some t0 ∧ 2000000 ≤ (s.time - t0).toNat
      let read (r : Response) : List (Nat × Answer) :=
        let bit (n k : Nat) : Bool := if f.nib then n.testBit (2 * k) || n.testBit (2 * k + 1) else n.testBit k
        f.elems.zipIdx.map (fun p => (p.1, if bit r.failed p.2 then .failed r.reason.toNat
            else .good (lowBits (8 * f.size) (ofBytes r.data / 2 ^ (8 * f.size * p.2))) (bit r.poisoned p.2)))
      (¬ late →
        (∀ r : Response, r.tag = tag → (∃ u, exec (.resp r) s = .next u ∧ give (came 8 r) f (read r) u) ∧ ∃ u, exec (.nack r) s = .next u ∧ give (came 10 r) f (read r) u)
        ∧ ((∀ d c r, Message.response d c r ∈ s.fabric.arrived → c = 9 → r.tag = tag → r.failed = 0 ∧ r.poisoned = 0 ∧ r.data = []) →
            ∃ u, exec (.ack tag) s = .next u ∧ give (came 9 (ackOf tag s)) f (f.elems.map (fun k => (k, .good 0 false))) u)
        ∧ exec (.requestTimeout tag) s = .next s)
      ∧ (late →
        (∀ r : Response, r.tag = tag → exec (.resp r) s = .next (came 8 r) ∧ exec (.nack r) s = .next (came 10 r))
        ∧ exec (.ack tag) s = .next (came 9 (ackOf tag s))
        ∧ ∃ u, give s f (f.elems.map (fun k => (k, .unknown))) u
          ∧ exec (.requestTimeout tag) s = .next { u with fabric := { u.fabric with coolTags := s.fabric.coolTags.filter (fun c => decide ((s.time - c.2).toNat < 4000000)) ++ [(tag, s.time)] } })

namespace Sys2Proof.Claim

/-- A port alone has changed. -/
def OnlyPort (s t : State) (q : Nat) : Prop :=
  t = { s with fabric := { s.fabric with ports := t.fabric.ports } } ∧ ∀ i : Fin 6, i.val ≠ q → t.fabric.ports[i] = s.fabric.ports[i]

/-- A flit leaves a port: it takes the next sequence number, is counted, and stays in the replay buffer (R356, R362). -/
def Sends (p p' : Port) (r : Nat) : Prop :=
  p'.txSeq = p.txSeq + 1 ∧ p'.txf = p.txf + 1 ∧ p'.replay = p.replay ++ [r] ∧ p'.wire = p.wire ++ [r] ∧ lowBits 12 r = p.txSeq.toNat ∧ lowBits 12 (r / 2 ^ 12) = (p'.rxSeq - 1).toNat
    ∧ BitVec.ofNat 32 (r / 2 ^ 160) = flitCrc r

/-- An event of the fabric on a port: cause 0x84 with the port becomes pending for every partition that takes fabric traffic (R330, R357, R363). -/
def FabricEvent (s t : State) (q : Nat) : Prop :=
  ∀ p, t.partn p = if s.fabric.tagOf p = 0 then s.partn p else { s.partn p with pending := pendIns (s.partn p).pending 0x84 (BitVec.ofNat 64 q) }

/-- No port has a flit waiting or a grant to give. -/
def Quiet (s : State) : Prop :=
  ∀ i : Fin 6, s.fabric.ports[i].outq = [] ∧ s.fabric.ports[i].owePool = 0 ∧ s.fabric.ports[i].oweReserve = Vector.replicate 8 0

end Sys2Proof.Claim

/-- R356, R357, R361 to R363, R366, R367: a flit with a bad CRC or out of order asks for a replay; a duplicate is discarded; one in order is accepted: its
acknowledgement and grants are applied, and unless it is for this module it leaves by the port its route begins with, with a slot of the receiver's pool; the last flit
of a packet for this module completes it; its slot's grant goes back. One that breaks a field's rule is a fabric event. A link retrains when lane lock is lost or 64
replays brought nothing, resends what was not acknowledged once trained, and goes down when training fails. -/
def Sys2Proof.Claim.LinkLayer : Prop :=
  (∀ (s : State) (q raw : Nat), q < 6 → (s.port q).isUp = true →
    let p := s.port q
    let seq := BitVec.ofNat 12 raw
    let good := raw < 2 ^ 2048 ∧ BitVec.ofNat 32 (raw / 2 ^ 160) = flitCrc raw
    let acked (r : Nat) : Bool := decide ((BitVec.ofNat 12 (raw / 2 ^ 12) - BitVec.ofNat 12 r).toNat < 2048)
    let pg := lowBits 8 (raw / 2 ^ 40)
    let dst := lowBits 13 (raw / 2 ^ 64)
    let idx := lowBits 5 (raw / 2 ^ 146)
    let vc := lowBits 3 (raw / 2 ^ 26)
    let kept := p.replay.filter (fun r => !acked r)
    ((¬ good ∨ (seq ≠ p.rxSeq ∧ 2048 ≤ (p.rxSeq - 1 - seq).toNat ∧ p.awaiting = false)) →
      ∃ t r, exec (.flit q raw) s = .next t ∧ OnlyPort s t q ∧ Sends { p with awaiting := true, badRun := p.badRun + 1 } (t.port q) r ∧ r.testBit 24 = true ∧ r.testBit 25 = true
        ∧ (t.port q).awaiting = true ∧ (t.port q).badRun = p.badRun + 1 ∧ (t.port q).rxSeq = p.rxSeq ∧ (t.port q).rxf = p.rxf ∧ (t.port q).pool = p.pool ∧ (t.port q).reserve = p.reserve)
    ∧ (good → seq ≠ p.rxSeq → ((p.rxSeq - 1 - seq).toNat < 2048 ∨ p.awaiting = true) → exec (.flit q raw) s = .next s)
    ∧ (good → seq = p.rxSeq → raw.testBit 24 = false → Quiet s →
      (flitOk raw = false → ∃ t, exec (.flit q raw) s = .next t ∧ FabricEvent s t q ∧ (t.port q).rxSeq = p.rxSeq + 1 ∧ (t.port q).rxf = p.rxf + 1
          ∧ t.fabric.arrived = s.fabric.arrived ∧ ∀ i : Fin 6, i.val ≠ q → t.fabric.ports[i] = s.fabric.ports[i])
      ∧ (flitOk raw = true → raw.testBit 25 = true → ∃ t, exec (.flit q raw) s = .next t ∧ OnlyPort s t q ∧ t.port q = { p with
            rxSeq := p.rxSeq + 1, rxf := p.rxf + 1, awaiting := false, badRun := 0, replay := kept, pool := min 192 (p.pool + pg),
            poolHeld := (t.port q).poolHeld, reserve := p.reserve.mapIdx (fun i x => if raw.testBit (32 + i) then min 4 (x + 1) else x) }
          ∧ (t.port q).poolHeld.toList.foldl (· + ·) 0 = p.poolHeld.toList.foldl (· + ·) 0 - pg)
      ∧ (flitOk raw = true → raw.testBit 25 = false → raw.testBit 29 = false →
        ((raw.testBit 90 = false ∧ s.fabric.portTo dst = none) ∨ (raw.testBit 90 = true ∧ lowBits 15 (raw / 2 ^ 91) = 0) →
          let l := if idx = 0 then [raw] else p.partials.toList.getD vc [] ++ [raw]
          ∃ t r, exec (.flit q raw) s = .next t ∧ (t.port q).rxSeq = p.rxSeq + 1 ∧ (t.port q).rxf = p.rxf + 1
            ∧ (t.port q).replay = kept ++ [r] ∧ r.testBit 25 = true ∧ lowBits 8 (r / 2 ^ 40) = 1 ∧ (t.port q).owePool = 0
            ∧ (∀ i : Fin 6, i.val ≠ q → t.fabric.ports[i] = s.fabric.ports[i])
            ∧ t.fabric.arrived = s.fabric.arrived ++ (if l.length = idx + 1 ∧ idx = lowBits 5 (raw / 2 ^ 151) then [readFlits l] else []))
        ∧ ∀ k, raw.testBit 90 = false → s.fabric.portTo dst = some k → k ≠ q → (s.port k).isUp = true → 0 < (s.port k).pool → (s.port k).holder = Vector.replicate 8 none →
            (s.port k).poolHeld.toList.getD (lowBits 2 (raw / 2 ^ 27) * 2 + 1) 0 < 128 → (s.port k).poolHeld.toList.getD (lowBits 2 (raw / 2 ^ 27) * 2) 0 < 128 →
          ∃ t r, exec (.flit q raw) s = .next t ∧ (t.port q).rxSeq = p.rxSeq + 1 ∧ (t.port q).owePool = 0 ∧ Sends (s.port k) (t.port k) r ∧ (t.port k).pool + 1 = (s.port k).pool
            ∧ (∀ i, (25 ≤ i ∧ i < 160 ∧ i ≠ 26 ∧ ¬ (32 ≤ i ∧ i < 48)) ∨ 192 ≤ i → r.testBit i = raw.testBit i)
            ∧ (let d := [s.fabric.dims.1, s.fabric.dims.2.1, s.fabric.dims.2.2].getD (k / 2) 0
               let cur := [s.fabric.coords.1, s.fabric.coords.2.1, s.fabric.coords.2.2].getD (k / 2) 0
               let crosses := if k % 2 = 0 then decide (cur + 1 = d) else decide (cur = 0)
               r.testBit 26 = (crosses || (decide (k / 2 = q / 2) && raw.testBit 26)))
            ∧ t.fabric.arrived = s.fabric.arrived ∧ (∀ i : Fin 6, i.val ≠ q → i.val ≠ k → t.fabric.ports[i] = s.fabric.ports[i]))))
  ∧ (∀ (s : State) (q : Nat) (lost : Bool), q < 6 →
      let p := s.port q
      let up := p.st = 1 ∨ p.st = 2
      let only (p' : Port) (t : State) : Prop := OnlyPort s t q ∧ t.port q = p'
      ((up ∧ (lost = true ∨ 64 ≤ p.badRun)) → ∃ t, exec (.linkRetrain q lost) s = .next t ∧ only { p with st := 3, rtn := p.rtn + 1 } t)
      ∧ (¬ (up ∧ (lost = true ∨ 64 ≤ p.badRun)) → exec (.linkRetrain q lost) s = .next s)
      ∧ (∀ lanes, 8 ≤ lanes → p.st = 3 → Quiet s →
          let st : BitVec 2 := if 16 ≤ lanes then 1 else 2
          (p.replay = [] → ∃ t, exec (.linkTrained q lanes) s = .next t ∧ only { p with
            st := st, badRun := 0, awaiting := false, reserve := Vector.replicate 8 4, pool := 192, poolHeld := Vector.replicate 8 0, oweReserve := Vector.replicate 8 0, owePool := 0 } t)
          ∧ (p.replay ≠ [] → ∃ t, exec (.linkTrained q lanes) s = .next (t.count (0x1900 + 8 * q) p.replay.length)
              ∧ only { p with st := st, badRun := 0, awaiting := false, rpl := p.rpl + BitVec.ofNat 64 p.replay.length, wire := p.wire ++ p.replay } t))
      ∧ (p.st ≠ 3 → (∀ lanes, exec (.linkTrained q lanes) s = .next s) ∧ exec (.portDown q) s = .next s)
      ∧ (∀ lanes, lanes < 8 → exec (.linkTrained q lanes) s = .next s)
      ∧ (p.st = 3 → (∃ t, exec (.portDown q) s = .next t ∧ (t.port q).st = 0 ∧ (t.port q).outq = [] ∧ (t.port q).replay = [] ∧ FabricEvent s t q)
          ∧ (Quiet s → ∃ t, exec (.portDown q) s = .next t ∧ t.port q = { p with st := 0, outq := [], replay := [], holder := Vector.replicate 8 none } ∧ FabricEvent s t q
            ∧ (∀ i : Fin 6, i.val ≠ q → t.fabric.ports[i] = s.fabric.ports[i]) ∧ t = { s with fabric := { s.fabric with ports := t.fabric.ports }, parts := t.parts })))
  ∧ ∀ (f : Fabric) (dst : Nat),
      let (a, b, c) := f.dims
      let (x, y, z) := f.coords
      let (dx, dy, dz) := f.coordsOf dst
      let way (d cur to' : Nat) (port : Nat) : Nat := if (to' + d - cur) % d ≤ (cur + d - to') % d then port else port + 1
      x < a → y < b → z < c → dst < a * b * c →
      f.portTo dst = if dx ≠ x then some (way a x dx 0) else if dy ≠ y then some (way b y dy 2) else if dz ≠ z then some (way c z dz 4) else none

/-! ## Collective sequencer -/

namespace Sys2Proof.Claim

/-- A data word of a schedule from its fields (R378). -/
def dataWord (op : Nat) (d a b : BitVec 3) (q : BitVec 4) (hop : BitVec 15) (chunk : BitVec 16) (tag x : BitVec 8) : Nat :=
  op * 2 ^ 60 + d.toNat * 2 ^ 57 + a.toNat * 2 ^ 54 + b.toNat * 2 ^ 51 + q.toNat * 2 ^ 47 + hop.toNat * 2 ^ 32 + chunk.toNat * 2 ^ 16 + tag.toNat * 2 ^ 8 + x.toNat

/-- Context `k` has a run and the word at its PC is `w` (R378, R381); nothing has changed in its buffers since their check values were made (R413, R416), and no
hart owes the die an older store. -/
def AtWord (s : State) (k w : Nat) : Prop :=
  (s.ctx k).st ≠ 0 ∧ Calm s ∧ (∀ (i : Nat) (b : Buf), (s.ctx k).bufs.toList[i]? = some (some b) → b.upsets = []) ∧ (s.ctx k).pc.getLsbD 63 = false ∧ (s.ctx k).pc.toNat % 8 = 0
    ∧ agentDown s (s.ctx k).space .load (s.ctx k).pc 8 = false ∧ ∃ l, agentBytes s (s.ctx k).space (s.ctx k).pc 8 = .ok l ∧ ofBytes (l.map Prod.fst) = w

/-- The effective chunk: CHUNK plus the iteration index of l0, modulo 2^16 (R379). -/
def effChunk (c : Ctx) (chunk : BitVec 16) : Nat :=
  (chunk + match c.loops[0] with | some (_, it) => BitVec.ofNat 16 it | none => 0#16).toNat

/-- The run of context `k` ends with a failure (R381): what a RECV had taken goes back to its channel, staging is abandoned, REASON, DETAIL and the flag tell. -/
def RunFails (s t : State) (k reason detail : Nat) : Prop :=
  let c := s.ctx k
  FlagTo (s.setCtx k { c with
    rows := [], rowChan := none, chans := c.chans.mapIdx (fun i x => if c.rowChan = some i then c.rows ++ x else x), staged := [], starting := none, st := 0,
    reason := BitVec.ofNat 8 reason, detail := BitVec.ofNat 8 detail }) t c.space (k / 16) c.flagAddr (0x8000_0000_0000_0000 + BitVec.ofNat 64 reason)

/-- The context after its word: `c'`, with PC at the next word. -/
def wordDone (s : State) (k : Nat) (c' : Ctx) : State := s.setCtx k { c' with pc := (s.ctx k).pc + 8, st := 1 }

/-- The word of context `k` is done: PC is at the next word. -/
def wordOver (k : Nat) (u : State) : State := wordDone u k (u.ctx k)

/-- Bits of an element of a transport format (R374). -/
def fmtBits (f : BitVec 5) : Nat := if f = 5 then 32 else if f = 6 ∨ f = 7 then 16 else 8

/-- Element `i` of a buffer. -/
def bufElem (b : Buf) (i : Nat) : Nat := lowBits (fmtBits b.fmt) (b.data / 2 ^ (fmtBits b.fmt * i))

/-- A chunk of `n` elements in format `f`: element `i` is `one i` with its flags unless it is poisoned; `fl` is the union of the flags (R375, R395). -/
def ChunkIs (b : Buf) (f : BitVec 5) (n : Nat) (bad : Nat → Bool) (one : Nat → Nat × BitVec 7) (fl : BitVec 7) : Prop :=
  b.fmt = f ∧ (∀ i, b.poison.testBit i = (decide (i < n) && bad i)) ∧ (∀ i, i < n → bad i = false → bufElem b i = (one i).1)
    ∧ fl = flagsOf (List.range n) (fun i => if bad i then PSN else (one i).2)

/-- Narrow of R387: stochastic rounding of a value into TF, drawing the element's own word at a hop. -/
def narrowed (c : Ctx) (ch i hop : Nat) (v : Val) : Nat × BitVec 7 :=
  roundOp c.tf.toNat 5 false (drawZ c.key (ch * c.cl + i) (0x8000 + hop)) (v, if v.isSig then NV else 0)

/-- What a SEND of buffer `b` commits (R382): the chunk itself in format TF, else its FP32 elements narrowed. -/
def Committed (c : Ctx) (b : Buf) (ch hop : Nat) (out : Buf) (fl : BitVec 7) : Prop :=
  (b.fmt = c.tf → out = b ∧ fl = 0)
    ∧ (b.fmt ≠ c.tf → ChunkIs out c.tf c.cl (fun i => b.poison.testBit i) (fun i => narrowed c ch i hop (decodeVal 5 (bufElem b i))) fl)

/-- The packets of a chunk for context `x` (R389): for rank `r`, or over the box that `box` counts (R391). -/
def Packeted (s : State) (k r : Nat) (box : Option (Nat × Nat × Nat)) (x : BitVec 5) (tag : BitVec 8) (ch hop khi : Nat) (comb : Bool) (b : Buf) (ps : List Coll) : Prop :=
  let c := s.ctx k
  let es := fmtBits b.fmt / 8
  let per := 2048 / es
  ps.length = (c.cl + per - 1) / per ∧ ∀ i, i < ps.length →
    let n := min per (c.cl - i * per)
    ps[i]? = some { src := s.fabric.rank, dst := if box.isSome then 0 else r, dtag := if box.isNone ∧ r = s.fabric.rank then 0 else s.fabric.tagOf c.part,
                    box := box.getD (0, 0, 0), kind := 0, zeros := 0, dctx := x, sctx := BitVec.ofNat 5 k, tag := tag,
                    chunk := BitVec.ofNat 16 ch, hop := BitVec.ofNat 15 hop, fmt := b.fmt, comb := comb, mc := box.isSome, step := c.key.extractLsb' 0 16, eoff := i * per, ecnt := n,
                    khi := BitVec.ofNat 4 khi, fl := 0, last := decide (i + 1 = ps.length), poison := lowBits n (b.poison / 2 ^ (i * per)),
                    data := lowBits (8 * es * n) (b.data / 2 ^ (8 * es * i * per)) }

/-- Packets handed to the router. -/
def routed (ps : List Coll) (s : State) : State := ps.foldl (fun u p => u.emit (.coll p)) s

/-- A q register names a peer that the context may use: rank `r`, context `x` there (R374, R381). -/
def PeerOf (s : State) (k : Nat) (q : BitVec 4) (r : Nat) (x : BitVec 5) : Prop :=
  (s.ctx k).q[q.toNat] = BitVec.ofNat 64 (r + 2 ^ 13 * (x.toNat / 16) + 2 ^ 16 * (x.toNat % 16)) ∧ r < 8192 ∧ r < s.fabric.ranks
    ∧ (r = s.fabric.rank ∨ s.fabric.tagOf (s.ctx k).part ≠ 0)

/-- The slot a chunk of one packet fills (R377, R389). -/
def filled (p : Coll) : Slot :=
  { src := p.src, sctx := p.sctx, tag := if p.comb then p.tag >>> 4 else p.tag, chunk := p.chunk, step := p.step, comb := p.comb, hop := p.hop,
    klo := (p.tag.extractLsb' 0 4).toNat, khi := p.khi.toNat, fmt := p.fmt, placed := 2 ^ p.ecnt - 1, len := some p.ecnt, data := p.data, poison := p.poison, fl := p.fl }

end Sys2Proof.Claim

/-- R374, R377, R379, R382, R387 to R391: SEND commits its buffer, narrowed to TF where it is FP32, and sends it in packets: staged until acknowledged, as a contribution
to a combining group, or to every module of a box. With eight chunks staged it waits. A chunk for the module itself goes to the named context's slots. An empty buffer,
one of another format, or a peer that may not be used ends the run. -/
def Sys2Proof.Claim.SequencerSends : Prop :=
  ∀ (s : State) (k : Nat) (a : BitVec 3) (q : BitVec 4) (hop : BitVec 15) (chunk : BitVec 16) (tag : BitVec 8), k < 32 → s.awaits = [] → 0 < (s.ctx k).cl →
    let c := s.ctx k
    let ch := effChunk c chunk
    let one := dataWord 0 0 a 0 q hop chunk tag 0
    let box := dataWord 0 0 a 0 q hop chunk tag 0x20
    let held (b : Buf) : Prop := c.bufs[a.toNat] = some b ∧ (b.fmt = c.tf ∨ b.fmt = 5)
    let after (fl : BitVec 7) (staged : List Staged) : State := s.setCtx k { c with flags := c.flags ||| fl, staged := staged }
    let sent (t : State) (ps : List Coll) (u : State) : Prop := t = { wordOver k (routed ps u) with fresh := t.fresh }
    (8 ≤ c.staged.length → ∀ b, held b → (AtWord s k one → exec (.send k) s = .next s) ∧ (AtWord s k box → exec (.sendMc k) s = .next s))
    ∧ (AtWord s k one → c.staged.length < 8 → ∀ b, held b → ∀ r x, PeerOf s k q r x →
        (r ≠ s.fabric.rank → ∃ t out fl ps, exec (.send k) s = .next t ∧ Committed c b ch hop.toNat out fl ∧ Packeted s k r none x tag ch hop.toNat 0 false out ps
          ∧ sent t ps (after fl (c.staged ++ [{ packets := ps, sentAt := none, tries := 0 }])))
        ∧ (r = s.fabric.rank → x.toNat ≠ k → c.staged = [] → c.cl * (fmtBits c.tf / 8) ≤ 2048 → (s.ctx x.toNat).held = true → (s.ctx x.toNat).part = c.part →
            (s.partn c.part).st = 1 ∨ (s.partn c.part).st = 2 → (s.ctx x.toNat).slots = [] → (s.ctx x.toNat).recent = [] →
            ∃ t out fl p, exec (.send k) s = .next t ∧ Committed c b ch hop.toNat out fl ∧ Packeted s k r none x tag ch hop.toNat 0 false out [p]
              ∧ t = { s with ctxs := t.ctxs, fresh := t.fresh } ∧ t.ctx k = (wordDone s k { c with flags := c.flags ||| fl }).ctx k
              ∧ (t.ctx x.toNat) = { s.ctx x.toNat with slots := [filled p], recent := (t.ctx x.toNat).recent } ∧ ∀ j, j ≠ k → j ≠ x.toNat → t.ctx j = s.ctx j))
    ∧ (∀ n, 2 ≤ n → n ≤ 16 → tag.toNat < n → hop.toNat + 2 * n - 2 ≤ 0x7FFF → AtWord s k (dataWord 0 0 a 0 q hop chunk tag (BitVec.ofNat 8 (2 * n - 1))) → c.staged.length < 8 →
        ∀ b, held b → ∀ r x, PeerOf s k q r x → r ≠ s.fabric.rank →
        ∃ t out fl ps, exec (.sendCmb k) s = .next t ∧ Committed c b ch (hop.toNat + tag.toNat) out fl
          ∧ Packeted s k r none x (BitVec.ofNat 8 (tag.toNat + 16 * (n - 1))) ch hop.toNat tag.toNat true out ps ∧ sent t ps (after fl c.staged))
    ∧ (AtWord s k box → c.staged.length < 8 → ∀ b, held b → ∀ (x : BitVec 5) (nx ny nz : BitVec 5),
        c.q[q.toNat] = BitVec.ofNat 64 (nx.toNat + 2 ^ 5 * ny.toNat + 2 ^ 10 * nz.toNat + 2 ^ 15 * (x.toNat / 16) + 2 ^ 16 * (x.toNat % 16)) → s.fabric.tagOf c.part ≠ 0 → x.toNat ≠ k →
        ((s.ctx x.toNat).held = false ∨ (s.ctx x.toNat).part ≠ c.part) →
        ∃ (t : State) (out : Buf) (fl : BitVec 7) (ps : List Coll), exec (.sendMc k) s = .next t ∧ Committed c b ch hop.toNat out fl
          ∧ Packeted s k 0 (some (nx.toNat, ny.toNat, nz.toNat)) x tag ch hop.toNat 0 false out ps ∧ sent t ps (after fl c.staged))
    ∧ (c.bufs[a.toNat] = none → (AtWord s k one → ∃ t, exec (.send k) s = .next t ∧ RunFails s t k 1 2) ∧ (AtWord s k box → ∃ t, exec (.sendMc k) s = .next t ∧ RunFails s t k 1 2))
    ∧ (AtWord s k one → ∀ b, c.bufs[a.toNat] = some b → b.fmt ≠ c.tf → b.fmt ≠ 5 → ∃ t, exec (.send k) s = .next t ∧ RunFails s t k 1 3)
    ∧ (AtWord s k one → c.staged.length < 8 → ∀ b, c.bufs[a.toNat] = some b → b.fmt = c.tf → ∀ r, r < 8192 → c.q[q.toNat] = BitVec.ofNat 64 r →
        s.fabric.ranks ≤ r ∨ (r ≠ s.fabric.rank ∧ s.fabric.tagOf c.part = 0) → ∃ t, exec (.send k) s = .next t ∧ RunFails s t k 4 9)

/-- R376, R377, R379, R383, R387, R389, R392: RECV takes the chunk its peer sent, so many rows of a channel, or a combining group folded in order of its contributions;
where that is not there yet the context waits. A chunk of another length, or rows of mixed formats, end the run. -/
def Sys2Proof.Claim.SequencerReceives : Prop :=
  ∀ (s : State) (k : Nat) (d : BitVec 3) (q : BitVec 4) (hop : BitVec 15) (chunk : BitVec 16) (tag : BitVec 8), s.awaits = [] → 0 < (s.ctx k).cl →
    let c := s.ctx k
    let ch := effChunk c chunk
    let got (b : Buf) : Vector (Option Buf) 8 := c.bufs.set d.toNat (some b)
    let waits (c' : Ctx) : State := s.setCtx k { c' with st := 2 }
    (AtWord s k (dataWord 1 d 0 0 q 0 chunk tag 0) → ∀ r x, PeerOf s k q r x →
      let mine (u : Slot) : Prop := u.comb = false ∧ u.src = r ∧ u.sctx = x ∧ u.tag = tag ∧ u.chunk.toNat = ch ∧ u.step = c.key.extractLsb' 0 16 ∧ u.complete = true
      ((∀ u ∈ c.slots, ¬ mine u) → exec (.recv k) s = .next (waits c))
      ∧ ∀ pre u post, c.slots = pre ++ u :: post → mine u → (∀ v ∈ pre ++ post, ¬ mine v) →
          (u.len = some c.cl → exec (.recv k) s = .next (wordDone s k { c with bufs := got { fmt := u.fmt, data := u.data, poison := u.poison, upsets := [] }, slots := pre ++ post }))
          ∧ (u.len ≠ some c.cl → ∃ t, exec (.recv k) s = .next t ∧ RunFails s t k 1 11))
    ∧ (q.toNat < 8 → AtWord s k (dataWord 1 d 0 0 q 0 0 0 1) → c.rows = [] →
        let n := c.cl / 256
        let rows := (c.chans.toList[q.toNat]?).getD []
        let taken (m : Nat) : Vector (List Row) 8 := c.chans.mapIdx (fun i x => if i = q.toNat then x.drop m else x)
        (c.cl % 256 ≠ 0 → ∃ t, exec (.recvCh k) s = .next t ∧ RunFails s t k 1 4)
        ∧ (c.cl % 256 = 0 → rows.length < n → (∀ x ∈ rows, ∀ y ∈ rows, x.fmt = y.fmt) →
            exec (.recvCh k) s = .next (waits { c with rows := rows, rowChan := some q.toNat, chans := taken n }))
        ∧ (c.cl % 256 = 0 → n ≤ rows.length → (∀ x ∈ rows.take n, ∀ y ∈ rows.take n, x.fmt = y.fmt) → ∃ b,
            exec (.recvCh k) s = .next (wordDone s k { c with bufs := got b, chans := taken n, rows := [], rowChan := none })
            ∧ (∀ x ∈ rows.take n, b.fmt = x.fmt)
            ∧ ∀ i e x, i < n → e < 256 → rows[i]? = some x → bufElem b (256 * i + e) = lowBits (fmtBits x.fmt) (x.data / 2 ^ (fmtBits x.fmt * e))
                ∧ b.poison.testBit (256 * i + e) = x.poison.testBit e)
        ∧ (c.cl % 256 = 0 → (∃ x ∈ rows.take n, ∃ y ∈ rows.take n, x.fmt ≠ y.fmt) → ∃ t, exec (.recvCh k) s = .next t ∧ RunFails s t k 1 4))
    ∧ (1 ≤ tag.toNat → tag.toNat < 16 → AtWord s k (dataWord 1 d 0 0 0 hop chunk tag 2) →
        let n := tag.toNat + 1
        let mine (u : Slot) : Prop := u.comb = true ∧ u.chunk.toNat = ch ∧ u.hop = hop ∧ u.step = c.key.extractLsb' 0 16 ∧ u.fmt = c.tf ∧ u.tag = tag
        let whole (u : Slot) : Prop := u.placed = 2 ^ c.cl - 1 ∧ u.len = some c.cl
        ((∀ u ∈ c.slots, ¬ mine u) → exec (.recvCmb k) s = .next (waits c))
        ∧ ((∃ u ∈ c.slots, mine u ∧ ∃ m, u.len = some m ∧ m ≠ c.cl) → ∃ t, exec (.recvCmb k) s = .next t ∧ RunFails s t k 1 11)
        ∧ ∀ (p0 : Slot) (ps : List Slot), c.slots = p0 :: ps → mine p0 → p0.klo = 0 → p0.khi < n → whole p0 → ps.length = n - 1 - p0.khi →
            (∀ j u, ps[j]? = some u → mine u ∧ whole u ∧ u.klo = p0.khi + 1 + j ∧ u.khi = u.klo) →
            let elem (u : Slot) (i : Nat) : Nat := lowBits (fmtBits c.tf) (u.data / 2 ^ (fmtBits c.tf * i))
            let fold (i : Nat) : Nat × BitVec 7 := ps.foldl (fun acc u =>
              let t := roundOp 5 0 false 0 (addVal 0 (decodeVal c.tf.toNat acc.1) (decodeVal c.tf.toNat (elem u i)))
              let z := narrowed c ch i (hop.toNat + n - 1 + u.klo) (decodeVal 5 t.1)
              (z.1, acc.2 ||| z.2 ||| t.2)) (elem p0 i, 0)
            ∃ b fl fresh, ChunkIs b c.tf c.cl (fun i => (p0 :: ps).any (fun u => u.poison.testBit i)) fold fl
              ∧ exec (.recvCmb k) s = .next { wordDone s k { c with
                  bufs := got b, slots := [], flags := c.flags ||| (p0 :: ps).foldl (fun f u => f ||| u.fl.setWidth 7) fl } with fresh := fresh })

/-- R381, R384 to R387, R395: RED adds two chunks in FP32; COPY reads a chunk from memory, writes one to it or copies one; CMPR narrows a chunk with its residual and
writes the new residual back. An empty buffer, a domain address or a misaligned one ends the run. -/
def Sys2Proof.Claim.SequencerArithmetic : Prop :=
  ∀ (s : State) (k : Nat) (d a b : BitVec 3) (q : BitVec 4) (hop : BitVec 15) (chunk : BitVec 16) (f : BitVec 5), s.awaits = [] → 0 < (s.ctx k).cl →
    (∀ pa, linkDown s pa = false) → Sound s → NoUpset s →
    let c := s.ctx k
    let ch := effChunk c chunk
    let got (x : Buf) : Vector (Option Buf) 8 := c.bufs.set d.toNat (some x)
    let red := dataWord 2 d a b 0 0 0 0 0
    let ld := dataWord 3 d 0 0 q 0 chunk 0 (BitVec.ofNat 8 (4 * f.toNat))
    let st := dataWord 3 0 a 0 q 0 chunk 0 1
    let cp := dataWord 3 d a 0 0 0 0 0 2
    let cmpr := dataWord 6 d a 0 q hop chunk 0 0
    let addr (es : Nat) : Word := c.q[q.toNat] + BitVec.ofNat 64 (ch * c.cl * es)
    let local' (es : Nat) : Prop := (addr es).getLsbD 63 = false ∧ (addr es).toNat % es = 0
    let fails (i : Instr) (reason detail : Nat) : Prop := ∃ t, exec i s = .next t ∧ RunFails s t k reason detail
    (AtWord s k red → ∀ x y, c.bufs[a.toNat] = some x → c.bufs[b.toNat] = some y → ∃ r fl fresh,
        exec (.red k) s = .next { wordDone s k { c with bufs := got r, flags := c.flags ||| fl } with fresh := fresh }
        ∧ ChunkIs r 5 c.cl (fun i => x.poison.testBit i || y.poison.testBit i)
            (fun i => roundOp 5 0 false 0 (addVal 0 (decodeVal x.fmt.toNat (bufElem x i)) (decodeVal y.fmt.toNat (bufElem y i)))) fl)
    ∧ (AtWord s k ld → 5 ≤ f.toNat → f.toNat ≤ 9 →
        let es := fmtBits f / 8
        (local' es → ∀ l, agentBytes s c.space (addr es) (c.cl * es) = .ok l → ∃ t x, exec (.copyLd k) s = .next t ∧ SameButRows t (wordDone s k { c with bufs := got x }) ∧ x.fmt = f
            ∧ ∀ i, i < c.cl → bufElem x i = ofBytes (((l.drop (i * es)).take es).map Prod.fst) ∧ x.poison.testBit i = ((l.drop (i * es)).take es).any Prod.snd)
        ∧ ((addr es).getLsbD 63 = true → fails (.copyLd k) 1 10)
        ∧ ((addr es).getLsbD 63 = false → (addr es).toNat % es ≠ 0 → fails (.copyLd k) 7 0)
        ∧ (local' es → ∀ e, agentMap s c.space .load (addr es) = .error e →
            ∃ t, exec (.copyLd k) s = .next t ∧ RunFails (noteAll s e.notes) t k (if e.perm then 3 else 2) 0))
    ∧ (AtWord s k st → ∀ x m, c.bufs[a.toNat] = some x → local' (fmtBits x.fmt / 8) → Reaches s c.space .store (addr (fmtBits x.fmt / 8)) (c.cl * (fmtBits x.fmt / 8)) m → Unheld s m.pa (c.cl * (fmtBits x.fmt / 8)) → x.poison = 0 →
        s.poison = [] → ∃ t, exec (.copySt k) s = .next t ∧ SameButWrite t (wordDone s k c) ∧ StoredAt s t m.pa (c.cl * (fmtBits x.fmt / 8)) x.data)
    ∧ (AtWord s k cp → ∀ x, c.bufs[a.toNat] = some x → exec (.copyBuf k) s = .next (wordDone s k { c with bufs := got x }))
    ∧ (AtWord s k cmpr → ∀ x m m', c.bufs[a.toNat] = some x → x.poison = 0 → s.poison = [] → local' 4 → Reaches s c.space .load (addr 4) (c.cl * 4) m → Reaches s c.space .store (addr 4) (c.cl * 4) m' → m.pa = m'.pa → Unheld s m.pa (c.cl * 4) →
        let sum (i : Nat) : Nat × BitVec 7 := roundOp 5 0 false 0 (addVal 0 (decodeVal x.fmt.toNat (bufElem x i)) (decodeVal 5 (memRead s.mem (m.pa + 4 * i) 4)))
        let n (i : Nat) : Nat × BitVec 7 := narrowed c ch i hop.toNat (decodeVal 5 (sum i).1)
        let rest (i : Nat) : Nat × BitVec 7 := match decodeVal c.tf.toNat (n i).1 with
          | .fin g m e r => roundOp 5 0 false 0 (addVal 0 (decodeVal 5 (sum i).1) (.fin (!g) m e r))
          | _ => (0, 0)
        ∃ t y fl, exec (.cmpr k) s = .next t ∧ ChunkIs y c.tf c.cl (fun _ => false) (fun i => ((n i).1, (sum i).2 ||| (n i).2 ||| (rest i).2)) fl
          ∧ SameButWrite t (wordDone s k { c with bufs := got y, flags := c.flags ||| fl })
          ∧ (∀ i, i < c.cl → memRead t.mem (m.pa + 4 * i) 4 = (rest i).1) ∧ ∀ p, (p < m.pa ∨ m.pa + 4 * c.cl ≤ p) → memGet t.mem p = memGet s.mem p)
    ∧ (c.bufs[a.toNat] = none → (AtWord s k red → fails (.red k) 1 2) ∧ (AtWord s k st → fails (.copySt k) 1 2) ∧ (AtWord s k cp → fails (.copyBuf k) 1 2) ∧ (AtWord s k cmpr → fails (.cmpr k) 1 2))

/-- R372 to R374, R378, R381, R388, R390, R396: WAIT, SIG, LOOP, JUMP and END; the start of a schedule; ABORT; the assignment of a context; the retransmission of a staged
chunk; a word that no table allows. A step that does not concern the word at PC does nothing. -/
def Sys2Proof.Claim.SequencerControl : Prop :=
  ∀ (s : State) (k : Nat) (q : BitVec 4) (idx : BitVec 15) (val : BitVec 32) (off : BitVec 16), s.awaits = [] → (∀ pa, linkDown s pa = false) →
    Sound s → NoUpset s → Calm s →
    let c := s.ctx k
    let at' : Word := c.q[q.toNat] + BitVec.ofNat 64 (8 * idx.toNat)
    let flagWord (op : Nat) : Nat := op * 2 ^ 60 + q.toNat * 2 ^ 47 + idx.toNat * 2 ^ 32 + val.toNat
    let jumped (c' : Ctx) : State := s.setCtx k { c' with pc := c.pc + 8 * off.signExtend 64, st := 1 }
    let steps : List Instr := [.send k, .sendCmb k, .sendMc k, .recv k, .recvCh k, .recvCmb k, .red k, .copyLd k, .copySt k, .copyBuf k, .wait k, .sig k, .cmpr k, .loop k, .jump k, .seqEnd k]
    (AtWord s k (flagWord 4) →
      (at'.getLsbD 63 = false → at'.toNat % 8 = 0 → ∀ l, agentBytes s c.space at' 8 = .ok l →
        let u := if val.toNat ≤ ofBytes (l.map Prod.fst) then wordDone s k c else s.setCtx k { c with st := 2 }
        ∃ t, exec (.wait k) s = .next t ∧ SameButRows t u ∧ (c.st = 2 → exec (.seqWaitMet k) s = .next t))
      ∧ (at'.getLsbD 63 = true → ∃ t, exec (.wait k) s = .next t ∧ RunFails s t k 1 10)
      ∧ (at'.getLsbD 63 = false → at'.toNat % 8 ≠ 0 → ∃ t, exec (.wait k) s = .next t ∧ RunFails s t k 7 0))
    ∧ (c.st ≠ 2 → exec (.seqWaitMet k) s = .next s)
    ∧ (AtWord s k (flagWord 5) →
        (c.staged ≠ [] → exec (.sig k) s = .next s)
        ∧ (c.staged = [] → at'.getLsbD 63 = false → at'.toNat % 8 = 0 → ∀ m, agentMap s c.space .store at' = .ok m → Unheld s m.pa 8 → s.poison = [] →
            ∃ t, exec (.sig k) s = .next t ∧ SameButWrite t (wordDone s k c) ∧ StoredAt s t m.pa 8 val.toNat)
        ∧ (c.staged = [] → at'.toNat % 8 ≠ 0 → ∃ t, exec (.sig k) s = .next t ∧ RunFails s t k 7 0)
        ∧ (c.staged = [] → at'.toNat % 8 = 0 → at'.getLsbD 63 = true → remoteRefused s c.part at' = true → ∃ t, exec (.sig k) s = .next t ∧ RunFails s t k 4 9)
        ∧ (c.staged = [] → at'.toNat % 8 = 0 → at'.getLsbD 63 = true → remoteRefused s c.part at' = false → domRank at' ≠ s.fabric.rank → ∃ t g,
            exec (.sig k) s = .next t ∧ t = { s with fabric := t.fabric, awaits := [(1024 + k, { openTags := [g], answers := [] })] }
            ∧ ∃ f ∈ t.fabric.flights, f.tag = g ∧ f.who = .context k))
    ∧ (∀ (l : BitVec 2) (count : BitVec 16), count ≠ 0 → AtWord s k (7 * 2 ^ 60 + l.toNat * 2 ^ 58 + count.toNat * 2 ^ 16 + off.toNat) →
        let (n, it) := (c.loops[l.toNat]).getD (count.toNat, 0)
        exec (.loop k) s = .next (if n ≤ 1 then wordDone s k { c with loops := c.loops.set l.toNat none } else jumped { c with loops := c.loops.set l.toNat (some (n - 1, it + 1)) }))
    ∧ (AtWord s k (8 * 2 ^ 60 + off.toNat) → exec (.jump k) s = .next (jumped c))
    ∧ (AtWord s k (9 * 2 ^ 60) →
        (c.staged ≠ [] → exec (.seqEnd k) s = .next (s.setCtx k { c with st := 3 }))
        ∧ (c.staged = [] → ∃ t, exec (.seqEnd k) s = .next t ∧ FlagTo (s.setCtx k { c with st := 0 }) t c.space (k / 16) c.flagAddr c.flagVal))
    ∧ (∀ w, AtWord s k w → decodeSeq w = none → ∀ i ∈ steps, ∃ t, exec i s = .next t ∧ RunFails s t k 1 1)
    ∧ ((∀ w, w < 2 ^ 64 → 2 ^ 63 + 2 ^ 60 < w → decodeSeq w = none) ∧ decodeSeq (7 * 2 ^ 60 + off.toNat) = none)
    ∧ (c.st = 0 → (∀ i ∈ steps, exec i s = .next s) ∧ exec (.abort k) s = .next s)
    ∧ (c.st ≠ 0 → ∃ t, exec (.abort k) s = .next t ∧ RunFails s t k 4 8)
    ∧ (∀ v : Word, exec (.contextAssign k v) s = .next (if c.st = 0 then s.setCtx k { c with
        held := v.getLsbD 0, part := v.extractLsb' 1 3, chans := Vector.replicate 8 [], slots := [] } else s))
    ∧ (∀ i, exec (.sendRetransmit k i) s = .next s ∨ ∃ x u, c.staged[i]? = some x ∧ x.sentAt = some u ∧ 1000000 ≤ (s.time - u).toNat)
    ∧ (∀ i x u, c.st ≠ 0 → c.staged[i]? = some x → x.sentAt = some u → 1000000 ≤ (s.time - u).toNat →
        (x.tries < 8 → x.packets ≠ [] → (∀ p ∈ x.packets, p.dst ≠ s.fabric.rank ∧ p.mc = false) → exec (.sendRetransmit k i) s
          = .next (routed x.packets (s.setCtx k { c with retx := c.retx + 1, staged := listSet c.staged i { x with sentAt := none, tries := x.tries + 1 } })))
        ∧ (8 ≤ x.tries → ∃ t, exec (.sendRetransmit k i) s = .next t ∧ RunFails s t k 4 6))
    ∧ (c.starting = none → exec (.sequencerStart k) s = .next s)
    ∧ ∀ r, c.starting = some r →
        let ctl (l : List MarkedByte) : Nat := ofBytes ((l.take 8).map Prod.fst)
        let c1 : Ctx := { c with starting := none, space := r.space, flagAddr := r.w 1, flagVal := ((r.w 0).extractLsb' 16 16).setWidth 64, issuer := r.hart, farm := r.farm, argument := r.w 4 }
        ((c.held = false ∨ c.part ≠ r.space.part) → ∃ t, exec (.sequencerStart k) s = .next t ∧ FlagTo (s.setCtx k { c with starting := none }) t r.space (k / 16) (r.w 1) 0x8000_0000_0000_0006)
        ∧ (c.held = true → c.part = r.space.part → (r.w 4).toNat % 8 = 0 → (r.w 3).toNat % 8 = 0 → ∀ l, agentBytes s r.space (r.w 4) 136 = .ok l →
            let cl := lowBits 16 (ctl l)
            let tf := lowBits 5 (ctl l / 2 ^ 16)
            let legal := ctl l < 2 ^ 21 ∧ 0 < cl ∧ cl ≤ 16384 ∧ 5 ≤ tf ∧ tf ≤ 9
            (legal → ∃ t, exec (.sequencerStart k) s = .next t ∧ SameButRows t (s.setCtx k { c1 with
              cl := cl, tf := BitVec.ofNat 5 tf, q := Vector.ofFn (fun i => BitVec.ofNat 64 (ofBytes (((l.drop (8 * i.val + 8)).take 8).map Prod.fst))),
              bufs := Vector.replicate 8 none, loops := Vector.replicate 4 none, flags := 0, reason := 0, detail := 0, key := r.w 5,
              slots := c.slots.filter (fun x => x.step == (r.w 5).extractLsb' 0 16), st := 1, pc := r.w 3 }))
            ∧ (¬ legal → ∃ u t, exec (.sequencerStart k) s = .next t ∧ SameButRows u (s.setCtx k { c1 with st := 0, reason := 1, detail := 5, staged := [] }) ∧ FlagTo u t r.space (k / 16) (r.w 1) 0x8000_0000_0000_0001))

/-- R377, R389, R390, R392, R393, R395, R396: a COLL packet goes to the context it names if that is held by the partition of its tag, and the partition runs: into its
slot, once; a whole chunk of a plain SEND is acknowledged, and again when it comes a second time; one more chunk or group than eight ends a run. A packet that breaks its
table is an event of the fabric. An acknowledgement ends the staging of its chunk. A router folds two adjacent pieces of a combining group that wait at a port into one. -/
def Obligations.CollectivePackets : Prop :=
  (∀ (s0 : State) (p : Coll),
    let s := s0.took (.coll p)
    let sa := s0.took (.collAck p)
    let k := p.dctx.toNat
    let c := s.ctx k
    let mine := c.held = true ∧ partOfTag s p.dtag = some c.part ∧ ((s.partn c.part).st = 1 ∨ (s.partn c.part).st = 2)
    let here := p.dst = s.fabric.rank ∨ p.mc = true
    let back : Coll := { p with kind := 1, src := p.dst, dst := p.src, dctx := p.sctx, sctx := p.dctx, data := 0, poison := 0 }
    let full := c.slots.length = 8 ∧ (∀ x ∈ c.slots, x.isFor p = false ∧ x.comb = false) ∧ c.slots.Pairwise (fun x y => x.place ≠ y.place)
    (¬ here → exec (.coll p) s0 = .next s ∧ exec (.collAck p) s0 = .next sa)
    ∧ (here → collOk p = false ∨ p.kind ≠ 0 → ∃ t q, q < 6 ∧ exec (.coll p) s0 = .next t ∧ FabricEvent s t q ∧ t = { s with parts := t.parts })
    ∧ (here → collOk p = false ∨ p.kind ≠ 1 → ∃ t q, q < 6 ∧ exec (.collAck p) s0 = .next t ∧ FabricEvent sa t q ∧ t = { sa with parts := t.parts })
    ∧ (here → collOk p = true → p.kind = 0 →
        (¬ mine → exec (.coll p) s0 = .next s)
        ∧ (mine → p.src ≠ s.fabric.rank → c.slots = [] → p.eoff = 0 → p.last = true →
            (p.comb = true ∨ p.mc = true → exec (.coll p) s0 = .next (s.setCtx k { c with slots := [filled p] }))
            ∧ (p.comb = false → p.mc = false → (∀ x ∈ c.recent, x ≠ collKey p) → c.recent.length < 64 →
                exec (.coll p) s0 = .next ((s.setCtx k { c with slots := [filled p], recent := c.recent ++ [collKey p] }).emit (.collAck back))))
        ∧ (mine → p.src ≠ s.fabric.rank → p.comb = false → p.mc = false → collKey p ∈ c.recent → exec (.coll p) s0 = .next (s.emit (.collAck back)))
        ∧ (mine → p.comb = false → p.mc = false → collKey p ∉ c.recent → c.st = 0 → full → exec (.coll p) s0 = .next s)
        ∧ (mine → p.comb = true → c.st = 1 → full → s.awaits = [] → ∃ t, exec (.coll p) s0 = .next t ∧ RunFails s t k 4 7)
        ∧ (mine → p.src ≠ s.fabric.rank → ∀ pre x post, c.slots = pre ++ x :: post → x.isFor p = true → (∀ y ∈ pre ++ post, y.isFor p = false) → p.comb = true →
            let range := (2 ^ p.ecnt - 1) * 2 ^ p.eoff
            let w := fmtBits p.fmt
            let x' := if x.placed &&& range = range then x else
              { x with placed := x.placed ||| range, len := if p.last then some (p.eoff + p.ecnt) else x.len, data := x.data ||| p.data * 2 ^ (w * p.eoff),
                       poison := x.poison ||| p.poison * 2 ^ p.eoff, fl := x.fl ||| p.fl }
            exec (.coll p) s0 = .next (s.setCtx k { c with slots := pre ++ x' :: post })))
    ∧ (here → collOk p = true → p.kind = 1 → ∃ l, exec (.collAck p) s0 = .next (if l.length = c.staged.length then sa else sa.setCtx k { c with staged := l })
        ∧ ∀ y, y.packets ≠ [] → (y ∈ l ↔ y ∈ c.staged ∧ ∀ o, y.packets.head? = some o →
            ¬ (o.dst = p.src ∧ o.dctx = p.sctx ∧ o.tag = p.tag ∧ o.chunk = p.chunk ∧ o.step = p.step))))
  ∧ ∀ (s : State) (a b : Coll) (port : Nat) (key : Word) (cl : Nat), port < 6 →
      let p := s.port port
      (p.packetOf? a = none ∨ p.packetOf? b = none → exec (.routerFold port (a, b) { key := key, chunkLen := cl }) s = .next s)
      ∧ ∀ fa fb, p.packetOf? a = some fa → p.packetOf? b = some fb → fa ≠ fb → collOk a = true → collOk b = true → a.comb = true → a.kind = 0 →
          (b = { a with src := b.src, sctx := b.sctx, tag := b.tag, khi := b.khi, fl := b.fl, last := b.last, poison := b.poison, data := b.data, mc := b.mc, box := b.box }) →
          b.tag >>> 4 = a.tag >>> 4 → a.tag.extractLsb' 0 4 = 0 → b.tag.extractLsb' 0 4 = b.khi → a.khi.toNat + 1 = b.khi.toNat → a.step = key.extractLsb' 0 16 →
          let n := (a.tag >>> 4).toNat + 1
          let bits (d i : Nat) : Nat := lowBits (fmtBits a.fmt) (d / 2 ^ (fmtBits a.fmt * i))
          ∃ (t : State) (out : Buf) (fl : BitVec 7) (c : Coll), exec (.routerFold port (a, b) { key := key, chunkLen := cl }) s = .next t ∧ t.fresh = s.fresh + a.ecnt
            ∧ ChunkIs out a.fmt a.ecnt (fun i => a.poison.testBit i || b.poison.testBit i) (fun i =>
                let x := roundOp 5 0 false 0 (addVal 0 (decodeVal a.fmt.toNat (bits a.data i)) (decodeVal a.fmt.toNat (bits b.data i)))
                let v := decodeVal 5 x.1
                let r := roundOp a.fmt.toNat 5 false (drawZ key (a.chunk.toNat * cl + (a.eoff + i)) (0x8000 + (a.hop.toNat + n - 1 + b.khi.toNat))) (v, if v.isSig then NV else 0)
                (r.1, r.2 ||| x.2)) fl
            ∧ c = { a with khi := b.khi, data := out.data, poison := a.poison ||| b.poison, fl := a.fl ||| b.fl ||| fl.extractLsb' 0 6, last := a.last || b.last }
            ∧ (p.st = 3 → p.outq = fa ++ fb → fa.Nodup → (∀ x ∈ fa, x ∉ fb) →
                (t.port port).outq.map (·.raw) = ((Message.coll c).wire s.fabric.rank).flits.map (putBits 26 1 (bitsAt 26 1 ((fa.head?.map (·.raw)).getD 0))))

/-! ## Power, records of faults and of a lifetime -/

/-- R405 to R410: the ceiling of a die's clock follows the majority hint of its harts and the fraction of engine-cycles spent on matrices; the governor steps the clock
down for heat flux, up when it may, and to 800 MHz in an emergency; power above the budget steps both clocks down; a lease sets the budget until it expires.
Where R405 to R408 leave the step to the model, log entries 62 and 63 say what it does. -/
def Obligations.PowerSteps : Prop :=
  ∀ (s : State) (die : Bool),
    let k := s.power.clock die
    let becomes (k' : DieClock) : State := { s with power := s.power.setClock die k' }
    (∀ (hint : BitVec 2) (cycles : Nat), (∀ j, j ≠ hint → hintCount s die j < hintCount s die hint) ∨ (hint = 0 ∧ ∀ h, ∃ j, j ≠ h ∧ hintCount s die h ≤ hintCount s die j) →
      let all := 24 * 4096
      let top : BitVec 12 := match hint.toNat with
        | 0 => if all < 2 * cycles then 1900 else 2100
        | 1 => if all ≤ 4 * cycles then 1900 else 2100
        | 2 => if 3 * all < 4 * cycles then 1900 else 2100
        | _ => 1750
      exec (.ceilingWindow die cycles) s = .next (becomes (if top < k.freq then { k with ceil := top, freq := top, lim := 0 } else { k with ceil := top })))
    ∧ (∀ flux junction : List Nat,
        let hot := ∃ x ∈ junction, 105 < x
        let warm := k.emergency = true ∧ ∃ x ∈ junction, 95 ≤ x
        let calm : DieClock := { k with emergency := false }
        let reads (t : State) : Prop := exec (.fluxReading die flux junction) s = .next t
        let burns := ∃ x ∈ flux, 250 < x
        let cool := (∀ x ∈ flux, x < 235) ∧ k.freq < k.ceil
        (hot → reads (let u := becomes { k with freq := 800, lim := 3, emergency := true }
          if k.emergency then u else u.report { typ := 10, unit := 10, index := if die then 1 else 0, part := none, addr := 0 }))
        ∧ (¬ hot → warm → reads s)
        ∧ (¬ hot → ¬ warm → burns → reads (becomes (if 800 < k.freq then { calm with freq := if 825 ≤ k.freq then k.freq - 25 else 800, lim := 2, fstep := k.fstep + 1 } else { calm with lim := 2 })))
        ∧ (¬ hot → ¬ warm → ¬ burns → cool → reads (becomes (if s.power.budget.toNat ≤ s.power.mpwr.toNat then { calm with lim := 1 }
            else if k.ceil.toNat ≤ k.freq.toNat + 25 then { calm with freq := k.ceil, lim := 0 } else { calm with freq := k.freq + 25 })))
        ∧ (¬ hot → ¬ warm → ¬ burns → ¬ cool → reads (becomes calm)))
    ∧ (∀ watts, watts < 65536 →
        let p : Power := { s.power with mpwr := BitVec.ofNat 16 watts }
        let slowed (k : DieClock) : DieClock := if k.emergency then k else { k with freq := if 825 ≤ k.freq then k.freq - 25 else 800, lim := 1 }
        exec (.powerMeasure watts) s = .next { s with power := if watts ≤ s.power.budget.toNat then p
          else (p.setClock false (slowed (s.power.clock false))).setClock true (slowed (s.power.clock true)) })
    ∧ (∀ (budget : BitVec 16) (expiry : BitVec 32) (seq : Word),
        let fresh := s.power.hseq < seq
        let proper := 1400 ≤ budget.toNat ∧ budget.toNat ≤ 2600 ∧ expiry ≠ 0
        (¬ (fresh ∧ proper) → exec (.lease budget expiry seq) s = .next { s with power := { s.power with lrej := s.power.lrej + 1 } })
        ∧ (fresh → proper →
            let t : State := { s with power := { s.power with hseq := seq, budget := budget.setWidth 12, floor := false, lexp := s.time + 1000000 * expiry.setWidth 64 } }
            exec (.lease budget expiry seq) s = .next (if s.power.floor then t.sendMsix 0 1 else t)))
    ∧ (s.power.floor = false → s.power.lexp < s.time →
        exec .leaseExpiry s = .next (({ s with power := { s.power with budget := 1400, lexp := 0, floor := true } } : State).sendMsix 0 1))
    ∧ (s.power.floor = true ∨ s.time ≤ s.power.lexp → exec .leaseExpiry s = .next s)

/-- R421, R422, R424, R425: a report of software makes an event of type 5, which is counted and written as a record of 32 bytes into the monitor's ring and the
partition's, each with its own sequence number; its bureau is told. Any other type is ignored. -/
def Sys2Proof.Claim.FaultRecords : Prop :=
  ∀ (s : State) (w : Word),
    let p : BitVec 3 := w.extractLsb' 24 3
    let q := s.partn p
    let rbase := s.ras.rbase[p.toNat]
    let pseq := s.ras.pseq[p.toNat]
    let mAt := s.ras.mbase.toNat / 8192 * 8192 + s.ras.mseq.toNat % 256 * 32
    let pAt := rbase.toNat / 8192 * 8192 + pseq.toNat % 256 * 32
    let fields : Nat := 5 + 2 ^ 8 * (w.extractLsb' 8 8).toNat + 2 ^ 16 * (w.extractLsb' 16 8).toNat + 2 ^ 24 * p.toNat + 2 ^ 27
    let record (t : State) (at' : Nat) (seq : Word) : Prop :=
      memRead t.mem at' 8 = seq.toNat ∧ memRead t.mem (at' + 8) 8 = fields ∧ memRead t.mem (at' + 16) 8 = 0 ∧ memRead t.mem (at' + 24) 8 = s.time.toNat
    let clear (a : Nat) : Prop := linkDown s a = false ∧ Unheld s a 32
    (w.extractLsb' 0 8 ≠ 5 → exec (.report w) s = .next s)
    ∧ (w.extractLsb' 0 8 = 5 → Sound s → NoUpset s → s.ras.mbase = 0 ∨ clear mAt → rbase = 0 ∨ q.st = 3 ∨ clear pAt → ∃ t, exec (.report w) s = .next t
        ∧ t = { s with mem := t.mem, held := t.held, life := (s.count (0x1C00 + 8 * 5) 1).life, ras := t.ras, parts := t.parts, links := t.links }
        ∧ (s.ras.mbase ≠ 0 → s.ras.mbase.toNat / 8192 ≠ rbase.toNat / 8192 → record t mAt s.ras.mseq ∧ t.ras.mseq = s.ras.mseq + 1 ∧ t.links.msix = s.links.msix ++ [(0, 0)])
        ∧ (rbase ≠ 0 → q.st ≠ 3 → record t pAt pseq ∧ t.ras.pseq = s.ras.pseq.set p.toNat (pseq + 1) ∧ t.partn p = { q with pending := pendIns q.pending 0x83 pseq })
        ∧ (rbase = 0 ∨ q.st = 3 → t.parts = s.parts ∧ t.ras.pseq = s.ras.pseq)
        ∧ (∀ j, j ≠ p → t.partn j = s.partn j) ∧ t.ras.mbase = s.ras.mbase ∧ t.ras.rbase = s.ras.rbase
        ∧ ∀ b, (s.ras.mbase = 0 ∨ b < mAt ∨ mAt + 32 ≤ b) → (rbase = 0 ∨ q.st = 3 ∨ b < pAt ∨ pAt + 32 ≤ b) → memGet t.mem b = memGet s.mem b)

/-- R425, R426, R437: once a second of TIME the histograms are sampled; every 60 s the live counts go to the older flash copy, which becomes the newer; a read answers an entry; power that
goes off in order commits them first; power that fails keeps the newer copy, and power-up takes the newest copy whose check holds. -/
def Sys2Proof.Claim.LifetimeSteps : Prop :=
  ∀ s : State,
    let l := s.life
    let bin (w n : Nat) : Nat := min (n / w) 31
    let rail (mv : Nat) : Nat := if mv < 550 then 0 else min ((mv - 550) / 10) 31
    let number (n : Nat) : Nat := min (tget 0 l.live 0 + n) (2 ^ 64 - 1)
    let next := max l.flash0.1 l.flash1.1 + 1
    let flushed : Lifetime := { l with live := tset l.live 0 (number 1), flash0 := if l.flash0.1 < l.flash1.1 then (next, true, tset l.live 0 (number 1)) else l.flash0, flash1 := if l.flash0.1 < l.flash1.1 then l.flash1 else (next, true, tset l.live 0 (number 1)) }
    let off (life : Lifetime) : State := { s with life := life, boot := { s.boot with powered := false } }
    let sampled (os : List Nat) : State := os.foldl (fun u o => u.count o 1) s
    (∀ j0 j1 r0 r1, (l.sampleAt ≤ s.time → exec (.histogramSample j0 j1 r0 r1) s = .next (let u := sampled [0x0008, 0x2000 + 8 * bin 5 j0, 0x2100 + 8 * bin 5 j1, 0x2200 + 8 * rail r0, 0x2300 + 8 * rail r1,
        0x2400 + 8 * bin 100 s.power.mpwr.toNat]; { u with life := { u.life with sampleAt := l.sampleAt + 1000000000 } }))
      ∧ (s.time < l.sampleAt → exec (.histogramSample j0 j1 r0 r1) s = .next s))
    ∧ (∀ o n, (s.count o n).life.live = tset l.live o (min (tget 0 l.live o + n) (2 ^ 64 - 1)) ∧ s.count o n = { s with life := { l with live := (s.count o n).life.live } })
    ∧ (l.flushAt ≤ s.time → exec .lifetimeFlush s = .next { s with life := { flushed with flushAt := l.flushAt + 60000000000 } })
    ∧ (s.time < l.flushAt → exec .lifetimeFlush s = .next s)
    ∧ exec .orderlyPowerDown s = .next (off flushed)
    ∧ (∃ life, exec .powerFailure s = .next (off life) ∧ (life = l ∨
        life = if l.flash0.1 < l.flash1.1 then { l with flash0 := (l.flash0.1, false, []) } else { l with flash1 := (l.flash1.1, false, []) }))
    ∧ (∀ o, o ≠ 0 → tget 0 l.live o < 2 ^ 64 →
        exec (.lifetimeRead o) s = .next { s with links := { s.links with answer := bytesOf 8 (tget 0 l.live o), unsupported := false, answerBad := false } })
    ∧ exec (.lifetimeRead 0) s = .next { s with links := { s.links with answer := bytesOf 8 (1 + 2 ^ 32 * (tget 0 l.live 0 % 2 ^ 32)), unsupported := false, answerBad := false } }
    ∧ (l.flash0.2.1 = true → (l.flash1.1 < l.flash0.1 ∨ l.flash1.2.1 = false) → l.recovered = l.flash0.2.2)
    ∧ (l.flash1.2.1 = true → (l.flash0.1 ≤ l.flash1.1 ∨ l.flash0.2.1 = false) → l.recovered = l.flash1.2.2)

/-! ## Partitions, host and start -/

/-- R330, R331, R428, R430 to R436, R371, R396: NOTE, SUSP, RESUME and the timer; enabling a partition checks its configuration and starts its bureau hart; disabling,
resetting and a function-level reset stop it, and the reset's end starts it again if it is enabled. -/
def Sys2Proof.Claim.PartitionSteps : Prop :=
  ∀ (s : State) (p : BitVec 3),
    let q := s.partn p
    let up := q.st = 1 ∨ q.st = 2
    let pends (u : State) (c : BitVec 8) (v : Word) : State := u.setPart p { u.partn p with pending := pendIns (u.partn p).pending c v }
    (∀ (w : Word) m, up → agentMap s { part := p, ptbase := 0, asid := 0, prv := 1 } .store (q.cmdbase + 0x10) = .ok m → Sound s → NoUpset s → LinkUp s m.pa 8 → Unheld s m.pa 8 →
      ∃ u, exec (.note p w) s = .next (pends u 0x82 w) ∧ SameButWrite u s ∧ StoredAt s u m.pa 8 w.toNat)
    ∧ (¬ up → (∀ w, exec (.note p w) s = .next s) ∧ exec (.susp p) s = .next s)
    ∧ (up → exec (.susp p) s = .next (s.setPart p { q with pending := pendIns q.pending 0x80 0, suspTime := if q.suspTime.isSome then q.suspTime else some s.time }))
    ∧ (q.st ≠ 2 → exec (.resume p) s = .next s)
    ∧ (∀ h, q.st = 2 → q.bureauSaved = some h → q.bureauTiles = [] → q.bureauCanopies = [] → s.findHart (bureauPlace s p) = none → ∃ t g, exec (.resume p) s = .next t
        ∧ t.partn p = { q with st := 1, bureauSaved := none } ∧ t.findHart (bureauPlace s p) = some g ∧ g.pc = h.pc ∧ g.x = h.x ∧ g.m = h.m ∧ g.status = h.status
        ∧ (∀ r, r < 32 → g.vreg r = { h.vreg r with dirty := false }) ∧ g.part = h.part ∧ g.farm = h.farm ∧ t.mem = s.mem ∧ t.links.msix = s.links.msix ++ [(0, 2)])
    ∧ (∀ w : Word,
        let r : Part := { q with tcmp := w }
        exec (.tcmp p w) s = .next (if w ≠ 0 ∧ w ≤ s.time then s.setPart p { r with tcmp := 0, pending := pendIns q.pending 0x81 s.time } else s.setPart p r))
    ∧ exec (.timerExpiry p) s = .next (if q.tcmp ≠ 0 ∧ q.tcmp ≤ s.time then s.setPart p { q with tcmp := 0, pending := pendIns q.pending 0x81 s.time } else s)
    ∧ (∀ e, q.st = 0 → configError s p = e → e ≠ 0 → exec (.partitionEnable p) s = .next (s.setPart p { q with en := false, err := BitVec.ofNat 4 e }))
    ∧ (q.st = 0 → configError s p = 0 → s.findHart (bureauPlace s p) = none → ∃ t, exec (.partitionEnable p) s = .next t
        ∧ t.partn p = { q with en := true, st := 1, err := 0 } ∧ (∀ j, j ≠ p → t.partn j = s.partn j)
        ∧ (∃ h, t.findHart (bureauPlace s p) = some h ∧ h.run = .ready ∧ h.bureau = true ∧ h.part = p ∧ h.partid = p ∧ h.pc = q.bentry &&& ~~~1#64 ∧ h.ptbase = q.bptbase &&& 0x000F_FFFF_FFE0_0001 ∧ h.asid = 0
            ∧ h.trapbase = q.btrap &&& ~~~3#64 ∧ h.getX 3 = q.cmdbase ∧ (∀ r : Reg, r ≠ 3 → h.getX r = 0) ∧ h.prv = 1)
        ∧ (∀ k, k < 32 → (q.seq.getLsbD k = true → (t.ctx k).held = true ∧ (t.ctx k).part = p ∧ (t.ctx k).slots = []) ∧ (q.seq.getLsbD k = false → (s.ctx k).held = true → (s.ctx k).part = p → (t.ctx k).held = false))
        ∧ (∀ n a, q.hasBench n = true → 0x100_0000_0000 + 0x20_0000 * n ≤ a → a < 0x100_0000_0000 + 0x20_0000 * (n + 1) → memGet t.mem a = 0)
        ∧ (∀ n, q.hasBench n = true → (t.bench n).canopyOwner = none ∧ ∀ i : Fin 4, (t.bench n).tiles[i].owner = none)
        ∧ t.links.msix = s.links.msix ++ [(0, 2)])
    ∧ (q.st = 3 → exec (.partitionEnable p) s = .next (s.setPart p { q with en := true }) ∧ exec (.partitionReset p) s = .next s ∧ exec (.functionLevelReset p) s = .next s)
    ∧ (up → exec (.partitionEnable p) s = .next s)
    ∧ (q.st = 0 ∨ q.st = 3 → exec (.partitionDisable p) s = .next (s.setPart p { q with en := false }))
    ∧ (up → exec (.partitionDisable p) s = exec (.partitionReset p) (s.setPart p { q with en := false }))
    ∧ (q.st ≠ 3 → s.harts.Pairwise (fun g h => g.id ≠ h.id) → ∃ t, exec (.partitionReset p) s = .next t ∧ exec (.functionLevelReset p) s = .next t
        ∧ t.partn p = { q with st := 3, pending := [], tcmp := 0, suspTime := none, suspTaken := false, bureauSaved := none, bureauTiles := [], bureauCanopies := [], noVictim := false, blocks := [] }
        ∧ (∀ j, j ≠ p → t.partn j = s.partn j) ∧ (∀ f ∈ t.farms, f.rcd.part ≠ p) ∧ (∀ h ∈ t.harts, h.part ≠ p) ∧ (∀ h ∈ s.harts, h.part ≠ p → ∃ g ∈ t.harts, g = h ∨ (h.run = .asleep .matrix ∧ g = { h with run := .ready }))
        ∧ (∀ e ∈ t.engines, ∀ c ∈ e.2, c.space.part ≠ p) ∧ (∀ k, k < 32 → (s.ctx k).held = true → (s.ctx k).part = p → (t.ctx k).st = 0 ∧ (t.ctx k).staged = [] ∧ (t.ctx k).slots = [])
        ∧ (∀ w, (windowOf t p w).ctl.getLsbD 0 = false) ∧ (∀ j w, j ≠ p → windowOf t j w = windowOf s j w)
        ∧ (∀ a, (∀ n, q.hasBench n = true → a < 0x100_0000_0000 + 0x20_0000 * n ∨ 0x100_0000_0000 + 0x20_0000 * (n + 1) ≤ a) → memGet t.mem a = memGet s.mem a)
        ∧ t.links.msix = s.links.msix ++ [(0, 2)])
    ∧ (q.st = 3 → q.en = false → exec (.partitionResetDone p) s = .next ((s.setPart p { q with st := 0 }).sendMsix 0 2))
    ∧ (q.st = 3 → q.en = true → exec (.partitionResetDone p) s = exec (.partitionEnable p) (s.setPart p { q with st := 0 }))
    ∧ (q.st ≠ 3 → exec (.partitionResetDone p) s = .next s)

/-- R86, R296, R308, R355, R368, R372, R420, R422, R428 to R430, R433, R434, R445: the host reads and writes a partition's aperture through its second stage; a doubleword
stored into device space sets the register it names, and does in a control block what the step of that name does; bits that are no instruction trap. -/
def Sys2Proof.Claim.HostSteps : Prop :=
  (∀ (s : State) (p : BitVec 3) (offset len : Nat) (bytes : List Byte) (poisoned : Bool),
    let sp : Space := { part := p, ptbase := 0, asid := 0, prv := 1 }
    let a := (s.partn p).apbase + BitVec.ofNat 64 (offset % 2 ^ 36)
    let answered (u : State) (l : List Byte) (bad unsup : Bool) : State := { u with links := { u.links with answer := l, answerBad := bad, unsupported := unsup } }
    ((s.partn p).st = 3 → exec (.hostRead p offset len) s = .next (answered s (List.replicate len 0xFF) false false) ∧ exec (.hostWrite p offset bytes poisoned) s = .next s)
    ∧ ((s.partn p).st ≠ 3 → (∀ pa, linkDown s pa = false) → NoUpset s → ∀ l, agentBytes s sp a len = .ok l → ∃ u, SameButRows u s
        ∧ exec (.hostRead p offset len) s = .next (answered u (l.map Prod.fst) (l.any Prod.snd) false))
    ∧ ((s.partn p).st ≠ 3 → ∀ f x, agentBytes s sp a len = .error (f, x) → exec (.hostRead p offset len) s = .next (answered (noteAll s f.notes) [] false true))
    ∧ ((s.partn p).st ≠ 3 → ∀ m, Reaches s sp .store a bytes.length m → Sound s → NoUpset s → Unheld s m.pa bytes.length → ∃ t, exec (.hostWrite p offset bytes poisoned) s = .next t
        ∧ t = { s with l2 := t.l2, dram := t.dram, life := t.life, mem := t.mem, held := t.held, poison := t.poison }
        ∧ (∀ b, memGet t.mem b = if m.pa ≤ b ∧ b < m.pa + bytes.length then bytes.getD (b - m.pa) 0 else memGet s.mem b)
        ∧ (∀ k, k % 64 = 0 → (k ∈ t.poison ↔ if poisoned ∧ k ∈ sectorsOf m.pa bytes.length then True else k ∈ s.poison ∧ ¬ (m.pa ≤ k ∧ k + 64 ≤ m.pa + bytes.length))))
    ∧ ((s.partn p).st ≠ 3 → 0 < bytes.length → a.toNat % 4096 + bytes.length ≤ 4096 → ∀ f, agentMap s sp .store a = .error f →
        exec (.hostWrite p offset bytes poisoned) s = .next (noteAll s f.notes)))
  ∧ (∀ (s : State) (p : BitVec 3) (v : Word),
      let store (o : Nat) (t : State) : Prop := exec (.deviceSpaceWrite (0xF000_0000_0000 + o) v) s = .next t
      let q := s.partn p
      let part := 0x60_0000 + 0x100 * p.toNat
      let control := 0x70_0000 + 0x1000 * p.toNat
      let same (i : Instr) (o : Nat) : Prop := exec (.deviceSpaceWrite (0xF000_0000_0000 + o) v) s = exec i s
      (∀ pa, isDevice pa = false ∨ pa % 8 ≠ 0 → exec (.deviceSpaceWrite pa v) s = .next s)
      ∧ (∀ ch, ch < 256 → exec (.deviceSpaceWrite (0x180_0000_0000 + 64 * ch + 0x20) v) s = .next (s.updChannel ch (fun k => { k with probe := v.setWidth 21 })))
      ∧ (∀ i : Fin 8, store (0x10_0008 + 8 * i.val) { s with fabric := { s.fabric with dtag := s.fabric.dtag.set i (v.setWidth 16) } })
      ∧ (∀ w : BitVec 8, let k := p.toNat * 256 + w.toNat
          let x := windowOf s p w
          let many (y : Window) : Bool := y.ok && y.ctl.getLsbD 4 && decide (16 ≤ receiveCount s p.toNat k)
          let put (y : Window) : State := { s with fabric := { s.fabric with windows := tset s.fabric.windows k (if many y then { y with ctl := y.ctl &&& ~~~1#64 } else y) } }
          let c := v &&& 0xFFFF_001F
          store (0x10_1008 + 32 * k) (put { x with base := v }) ∧ store (0x10_1010 + 32 * k) (put { x with len := v &&& 0x7FF_FFFF_FFFF })
          ∧ store (0x10_1000 + 32 * k) (put { x with ctl := c, delivered := if c.getLsbD 0 = true ∧ x.ctl.getLsbD 0 = false then 0 else x.delivered }))
      ∧ (∀ k, k < 32 → same (.contextAssign k v) (0x20_0000 + k / 16 * 0x1_0000 + k % 16 * 0x100) ∧ (v.getLsbD 2 = true → same (.abort k) (0x20_0008 + k / 16 * 0x1_0000 + k % 16 * 0x100)))
      ∧ store 0x40_0000 { s with ras := { s.ras with mbase := v } }
      ∧ (∀ i : Fin 8, store (0x40_0008 + 8 * i.val) { s with ras := { s.ras with rbase := s.ras.rbase.set i v } })
      ∧ same (.report v) 0x40_0090
      ∧ (q.st = 0 → store (part + 0x08) (s.setPart p { q with cabase := v }) ∧ store (part + 0x10) (s.setPart p { q with casize := v })
          ∧ store (part + 0x18) (s.setPart p { q with cmdbase := v }) ∧ store (part + 0x20) (s.setPart p { q with bentry := v }) ∧ store (part + 0x28) (s.setPart p { q with bptbase := v })
          ∧ store (part + 0x30) (s.setPart p { q with btrap := v }) ∧ store (part + 0x38) (s.setPart p { q with seq := v.setWidth 32 }) ∧ store (part + 0x40) (s.setPart p { q with apbase := v })
          ∧ (v.getLsbD 3 = false → exec (.deviceSpaceWrite (0xF000_0000_0000 + part) v) s = exec (if v.getLsbD 0 then .partitionEnable p else .partitionDisable p)
              (s.setPart p { q with bgrp := v.extractLsb' 4 8, hbmw := v.extractLsb' 12 8, fabw := v.extractLsb' 20 8, vcnt := v.extractLsb' 28 7 })))
      ∧ (q.st ≠ 0 → (∀ o ∈ [0x08, 0x10, 0x18, 0x20, 0x28, 0x30, 0x38, 0x40], store (part + o) s)
          ∧ (v.getLsbD 3 = false → same (if v.getLsbD 0 then .partitionEnable p else .partitionDisable p) part)
          ∧ (v.getLsbD 3 = true → exec (.deviceSpaceWrite (0xF000_0000_0000 + part) v) s = exec (.partitionReset p) (s.setPart p { q with en := v.getLsbD 0 })))
      ∧ same (.tcmp p v) (part + 0x48) ∧ same (.note p v) control
      ∧ (v.getLsbD 0 = true → same (.susp p) (control + 0x08) ∧ same (.resume p) (control + 0x10))
      ∧ ∀ o, 0x30_0000 ≤ o → o < 0x40_0000 ∨ (0x50_0000 ≤ o ∧ o < 0x60_0000) → store o s)
  ∧ ∀ (s : State) (w : Word), exec (.illegalInstruction w) s = .next (trappedHere (if s.hart.prv < fixedLevel (w.setWidth 32) then 0x01 else 0x00) w s)

/-- R425, R426, R437 to R443: a start stops every partition, resets the blocks, tests and trains unless a warm start may skip that, and runs an image the boot ROM accepts:
the candidate or the primary, the fallback after two failed starts. Firmware that reports ready completes it; a step or the 30 s that fail are counted. Start status,
quotes and updates of firmware. -/
def Obligations.StartSteps : Prop :=
  ∀ (s : State) (r : StartReport),
    let b := s.boot
    let fb := decide (2 ≤ b.cfail)
    let picked : Option FirmwareImage := if fb then b.fallbackImg else match b.candidate with | some c => some c | none => b.primary
    let verified (i : FirmwareImage) : Prop :=
      i.magic = 0x4B5A_384D ∧ i.digest = Config.shake256 i.body ∧ i.signature.length ≤ 1462 ∧ Config.falconVerifies b.keyDigest (Config.imageHeader i.magic i.version i.body.length i.digest) i.signature = true ∧ b.minVersion ≤ i.version
    let stopped (t : State) : Prop := t.parts = Vector.replicate 8 Part.init ∧ t.farms = [] ∧ t.harts = [] ∧ t.ctxs = [] ∧ t.engines = [] ∧ t.power = Power.init ∧ t.ras = Ras.init
      ∧ t.dram.counts = [] ∧ t.dram.rmth = 0x400 ∧ t.fabric.windows = [] ∧ t.fabric.dtag = Vector.replicate 8 0
    let succeeds (warm : Bool) (t : State) : Prop := stopped t ∧ t.boot.starting = true ∧ t.boot.startedAt = s.time ∧ t.boot.warm = warm ∧ t.boot.fallback = fb ∧ t.boot.failfAtStart = b.failf ∧ t.boot.cfailAtStart = b.cfail
      ∧ t.boot.refMode = r.refMode ∧ t.boot.monitorEntry = r.monitorEntry ∧ t.fabric.coords = r.coords ∧ t.fabric.dims = r.dims ∧ t.links.cxlUp = r.cxlUp
      ∧ (∀ i, picked = some i → t.boot.measures = #v[Config.shake256 (List.replicate 64 0 ++ r.bootRom), Config.shake256 (List.replicate 64 0 ++ i.digest),
          Config.shake256 (List.replicate 64 0 ++ r.fuses), List.replicate 64 0])
    let fails (t : State) : Prop := stopped t ∧ t.boot.starting = false ∧ t.boot.failf = true ∧ t.boot.cfail = min (b.cfail + 1) 2 ∧ t.links.msix.getLast? = some (0, 3)
    let absent := s.hart.run = .absent ∧ s.others = [] ∧ s.farms = [] ∧ ∀ p, (s.partn p).st = 0 ∧ (s.partn p).en = false
    (b.powered = true → absent →
      (r.failedStep = none → (∀ i, picked = some i → verified i → ∃ t, exec (.coldStart r) s = .next t ∧ succeeds false t ∧ (∀ a, (∀ p, regionOf a ≠ .cxl p) → memGet t.mem a = 0))
        ∧ (∀ i, picked = some i → ¬ verified i → ∃ t, exec (.coldStart r) s = .next t ∧ fails t) ∧ (picked = none → ∃ t, exec (.coldStart r) s = .next t ∧ fails t)
        ∧ (∀ i, picked = some i → verified i → b.failf = false → ∃ t, exec (.warmStart r true) s = .next t ∧ succeeds true t ∧ t.mem = s.mem)
        ∧ ∀ i, picked = some i → verified i → b.failf = true → ∃ t, exec (.warmStart r true) s = .next t ∧ succeeds true t ∧ (∀ a, (∀ p, regionOf a ≠ .cxl p) → memGet t.mem a = 0))
      ∧ (∀ n, 1 ≤ n → n ≤ 6 → r.failedStep = some n → ∃ t, exec (.coldStart r) s = .next t ∧ fails t))
    ∧ (b.powered = false → exec (.warmStart r true) s = .next s ∧ exec (.coldStart r) s = exec (.coldStart r)
        { State.reset with agenda := s.agenda, policy := s.policy, tick := s.tick, fresh := s.fresh, life := { Lifetime.init with live := s.life.recovered, flash0 := s.life.flash0, flash1 := s.life.flash1 }, boot := { b with powered := true, starting := false } })
    ∧ (b.starting = false ∨ (s.time - b.startedAt).toNat < 30000000000 → exec .startTimeout s = .next s) ∧ (b.starting = false → exec .firmwareReady s = .next s)
    ∧ (b.starting = true → 30000000000 ≤ (s.time - b.startedAt).toNat → ∃ t, exec .startTimeout s = .next t ∧ t.boot.starting = false ∧ t.boot.failf = true ∧ t.boot.cfail = min (b.cfail + 1) 2
        ∧ t.links.msix = s.links.msix ++ [(0, 3)] ∧ t.life = (s.count 0x0028 1).life
        ∧ (b.candidate.isSome = true → b.fallback = false → b.candidateFails = 1 → t.boot.candidate = none) ∧ t.boot.primary = b.primary ∧ t.boot.fallbackImg = b.fallbackImg)
    ∧ (b.starting = true → ∃ t, exec .firmwareReady s = .next t ∧ t = { s.count (if b.warm then 0x0020 else 0x0018) 1 with boot := t.boot }
        ∧ t.boot.starting = false ∧ t.boot.failf = false ∧ t.boot.cfail = 0 ∧ (∀ i, b.fallback = false → b.candidate = some i → t.boot.primary = some i ∧ t.boot.candidate = none)
        ∧ (b.candidate = none ∨ b.fallback = true → t.boot.primary = b.primary) ∧ b.minVersion ≤ t.boot.minVersion)
    ∧ exec .startStatusRead s = .next { s with links := { s.links with
        answer := bytesOf 8 ((if b.warm then 1 else 0) + (if b.fallback then 2 else 0) + (if b.failfAtStart then 4 else 0) + 8 * (b.cfailAtStart % 4)), unsupported := false, answerBad := false } }
    ∧ (∀ nonce, exec (.quoteRequest nonce) s = .next { s with boot := if b.mailBusy then { b with mailStatus := 1 } else { b with mailBusy := true, mailStatus := 0, nonce := nonce } })
    ∧ ∀ img, ∃ t, exec (.firmwareUpdate img) s = .next t ∧ t = { s with boot := { b with primary := t.boot.primary, fallbackImg := t.boot.fallbackImg, candidate := some img, candidateFails := 0 } }
        ∧ (t.boot.primary = if b.fallback then b.fallbackImg else b.primary) ∧ t.boot.fallbackImg = t.boot.primary

/-! ## The whole machine -/

namespace Sys2Proof.Claim

/-- The next step is the turn of a resident hart, `h`, and `u` is the state it then sees: its agenda entry is taken off, where its core's front end would choose it, or
with an empty agenda and nothing due of itself the hart is the next in order; and no interrupt is taken first (R39, R281, R436; log entry 3). -/
def Turn (s u : State) (h : HartId) : Prop :=
  s.boot.powered = true ∧ takesInterrupt u = false
    ∧ ((∃ t, s.agenda = .hart h :: t ∧ frontChoice s (coreOf h) = some h ∧ u = giveTurn h { s with agenda := t })
      ∨ (s.agenda = [] ∧ (s.tick % 2 = 1 ∨ dueEvents s = []) ∧ nextHart s = some h ∧ u = giveTurn h s))

/-- The step of a hart whose front end has instruction `i` at state `v`: while older stores over path F bar it, or the queues it needs are full, it waits and is kept
as it was fetched (R74, R250, R281, R282); else it runs, and then a step's time passes. -/
def Runs (s v : State) (i : Instr) : Prop :=
  let full := v.policy.postUops && !queueRoom i v
  step s = if heldForStores (some i) v || full then .next (advance (keepInstance i (stall v)))
    else match exec i v with
      | .next t => .next (advance (keepInstance i (postWork i v t)))
      | .fault f => .fault f
      | .refused r => .refused r

/-- The halfwords at PC fetch as the bytes `bs` (R73, R74). -/
def Fetches (u : State) (bs : List Byte) : Prop :=
  ∀ k, 2 * k + 1 < bs.length → ∃ m, locate u u.hart.space (some u.hart.id) .fetch false (u.hart.pc + BitVec.ofNat 64 (2 * k)) = .ok m
    ∧ bs[2 * k]? = some (fetchByte u m m.pa) ∧ bs[2 * k + 1]? = some (fetchByte u m (m.pa + 1))

end Sys2Proof.Claim

/-- R73, R74, R86, R281: a step in which a hart has the front end runs what stands at its PC: it is exec of the instruction that the bytes there decode to, on the state
with that hart current, and then one step's time passes. The hart is the first ready one in cyclic slot order after the one its core chose last, past harts that
have yielded; an instruction that waited is not fetched again. A halfword that cannot be fetched traps 0x03 or 0x06 with its address; bits that nothing assigns trap
with the bits as TRAPVAL. Fetching moves caches and HBM rows alone. (Which core has its turn is the model's choice: log entry 3.) -/
def Obligations.StepRunsDecoded : Prop :=
  ∀ (s u : State) (h : HartId), Turn s u h →
    (∃ k, k < 4 ∧ h = hartIdOf (coreOf h) (((s.core (coreOf h)).lastSlot + 1 + k) % 4)
      ∧ ∀ j, j < k → ∀ g ∈ s.harts, g.id = hartIdOf (coreOf h) (((s.core (coreOf h)).lastSlot + 1 + j) % 4) → g.canRun = true →
          g.yielded = true ∧ ∃ g' ∈ s.harts, coreOf g'.id = coreOf h ∧ g'.canRun = true ∧ g.passed.getLsbD (slotOf g'.id) = false)
    ∧ ((s.harts.map (fun g => g.id)).Nodup → Calm s → ∃ g, s.findHart h = some g ∧ g.canRun = true
        ∧ u.hart = { g with yielded := false, stalled := false, passed := 0 } ∧ u.mem = s.mem ∧ u.time = s.time)
    ∧ (∀ i, u.hart.fetched = some i → Runs s u i)
    ∧ (∀ bs i, u.hart.fetched = none → decode bs = .ok (i, []) → Fetches u bs → Runs s (fetchPass u.hart.pc (bs.length / 2) u) i)
    ∧ (∀ n, let v := fetchPass u.hart.pc n u
        NoUpset u → u.poison = [] → (∀ pa, linkDown u pa = false) →
        v = { u with l2 := v.l2, dram := v.dram, life := v.life, cores := v.cores, benches := v.benches })
    ∧ (∀ f, u.hart.fetched = none → locate u u.hart.space (some u.hart.id) .fetch false u.hart.pc = .error f → f.ipa = none → unsettled u = false →
        step s = .next (advance (trappedHere (if f.perm then 0x06 else 0x03) u.hart.pc (noteAll u f.notes))))
    ∧ ∀ bs r, u.hart.fetched = none → fetchBytes u = .ok bs → decode bs = .error r → unsettled u = false →
        let w : Word := BitVec.ofNat 64 (ofBytes bs)
        step s = .next (advance (trappedHere (if u.hart.prv < fixedLevel (w.extractLsb' 0 32) then 0x01 else 0x00) w (fetchPass u.hart.pc (bs.length / 2) u)))

/-- Words the manual writes out bit by bit in its encoding examples decode to the instructions they stand for (R73 to R86 and the entries). -/
def Obligations.DecodedWords : Prop :=
  decodeTableWord 16 0x2281 = some (.cLi 5 0) ∧ decodeTableWord 16 0x4FEE = some (.cBnez 3 0xFB) ∧ decodeTableWord 32 0x496A5803 = some (.mulhu 11 10 11)
  ∧ decodeTableWord 32 0x6328000B = some (.ld 6 10 0) ∧ decodeTableWord 32 0xC828C04B = some (.sdrel 10 6 4 2)
  ∧ decodeTableWord 32 0x1CA63813 = some (.fma 5 6 7 0 0) ∧ decodeTableWord 32 0x00AD0017 = some (.vsetl 5 13 false)
  ∧ decodeTableWord 32 0x4C21111B = some (.vfadd 1 1 2 1 false false) ∧ decodeTableWord 32 0x74420837 = some (.mshl 2 2 1 true)
  ∧ decodeTableWord 32 0xF2A8F2EB = some (.amocas 5 10 7 1 3) ∧ decodeTableWord 32 0xF08C024F = some (.srd 6 0x012)
  ∧ decodeTableWord 64 0x319090000C00021F = some (.macc 0 0 0 false false false 1 0 6 6 8 9)

/-- Decode and encode agree for every well-formed instruction, with every operand at every value its encoding admits: decoding its bytes, whatever stands after
them, gives it back and leaves what stood after them (R73 to R86). -/
def Sys2Proof.Claim.EncodeDecodeRoundTrip : Prop :=
  ∀ (i : Instr) (c : Code) (rest : List Byte), encode i = some c → wellFormed i = true → decode (c.bytes ++ rest) = .ok (i, rest)

/-- A word that decodes to an instruction is the one its encoding gives, and that instruction is legal in its bits (R85, R86). -/
def Sys2Proof.Claim.DecodedIsWellFormed : Prop :=
  ∀ (bs rest : List Byte) (i : Instr), decode bs = .ok (i, rest) → wellFormed i = true ∧ ∃ c, encode i = some c ∧ c.bytes ++ rest = bs

/-- Memory's canonical form is kept by every step: addresses strictly rising, no listed byte equal to what an unlisted address reads as. -/
def Obligations.MemoryStaysCanonical : Prop := ∀ s t : State, Sound s → step s = .next t → Sound t

/-- Every instruction, and every step of the tables, answers a next state whatever the state and its operands: its effect, or the trap, the wait or the end that the
manual gives it there. -/
def Obligations.EveryFormAnswers : Prop := ∀ (i : Instr) (s : State), ∃ t, exec i s = .next t

/-- A module with power never stops: every step answers a next state. A module without power does nothing but start (R426, R437). -/
def Obligations.PowerKeepsRunning : Prop :=
  ∀ s : State, (s.boot.powered = true → StepSafe s)
    ∧ (s.boot.powered = false → (∀ r t, s.agenda ≠ .event (.coldStart r) :: t) → step s = .fault .unpowered)

/-- R27, R37, R267, R313, R410, R422, R430: the values the manual gives for the start of a hart's registers and of the module's blocks, with no hart resident. The
rest of the state after reset is the model's (log entry 1). -/
def Obligations.ResetValues : Prop :=
  let s := State.reset
  let sys (n : BitVec 12) : Word := sysRead s n
  s.harts = [] ∧ s.farms = []
  ∧ (∀ r : Reg, s.getX r = 0) ∧ s.hart.status = 0x8 ∧ s.hart.stripno = BitVec.allOnes 64 ∧ s.hart.keyTable = [] ∧ s.hart.keyOvf = false
  ∧ (∀ r, r < 32 → let v := s.hart.vreg r; v.vlen = 0 ∧ v.dirty = false ∧ v.prog = 0 ∧ v.fmt = 0)
  ∧ (∀ r, 1 ≤ r → r ≤ 7 → s.hart.mask r = 0) ∧ (∀ r, s.hart.binding r = none)
  ∧ sys 0x010 = 0 ∧ sys 0x011 = 0 ∧ sys 0x012 = 0 ∧ sys 0x013 = 0 ∧ sys 0x014 = 256 ∧ sys 0x015 = 0 ∧ sys 0x016 = 4 ∧ sys 0x020 = 0 ∧ sys 0x021 = 0
  ∧ sys 0x030 = 0 ∧ sys 0x031 = 0 ∧ sys 0x032 = 0 ∧ sys 0x033 = 0 ∧ sys 0x034 = 0
  ∧ sys 0x040 = 0 ∧ sys 0x041 = 0 ∧ sys 0x042 = 0 ∧ sys 0x044 = 0 ∧ sys 0x045 = 0 ∧ sys 0x046 = 0
  ∧ sys 0x050 = 4 ∧ sys 0x051 = 0 ∧ sys 0x060 = 0 ∧ sys 0x061 = 0 ∧ sys 0x200 = 0 ∧ sys 0x201 = 0 ∧ sys 0x210 = 0x400
  ∧ s.power.budget = 1400 ∧ s.power.floor = true ∧ s.power.hseq = 0 ∧ s.power.lexp = 0 ∧ s.power.lrej = 0 ∧ s.power.mpwr = 0
  ∧ (∀ d : Bool, (s.power.clock d).freq = 1750 ∧ (s.power.clock d).ceil = 2100 ∧ (s.power.clock d).lim = 0 ∧ (s.power.clock d).fstep = 0)
  ∧ s.ras.mbase = 0 ∧ s.ras.mseq = 1 ∧ s.ras.rbase = Vector.replicate 8 0 ∧ s.ras.pseq = Vector.replicate 8 1
  ∧ ∀ p : BitVec 3, let q := s.partn p
      q.en = false ∧ q.st = 0 ∧ q.err = 0 ∧ q.bgrp = 0 ∧ q.hbmw = 0 ∧ q.fabw = 0 ∧ q.vcnt = 0 ∧ q.cabase = 0 ∧ q.casize = 0 ∧ q.cmdbase = 0
      ∧ q.bentry = 0 ∧ q.bptbase = 0 ∧ q.btrap = 0 ∧ q.seq = 0 ∧ q.apbase = 0 ∧ q.tcmp = 0

/-- Memory after reset stands in its canonical form. -/
def Obligations.ResetMemoryCanonical : Prop := Sound State.reset

/-! ## Joined statements -/

/-- Claim.Jumps, Claim.StreamAndMaskBranches: all hold, each as its own docstring says. -/
def Obligations.JumpsAndOtherBranches : Prop := Claim.Jumps ∧ Claim.StreamAndMaskBranches

/-- Claim.LoadResults, Claim.PoisonedLoads, Claim.LoadAcquire: all hold, each as its own docstring says. -/
def Obligations.ScalarLoads : Prop := Claim.LoadResults ∧ Claim.PoisonedLoads ∧ Claim.LoadAcquire

/-- Claim.StoreResults, Claim.StoreRelease: all hold, each as its own docstring says. -/
def Obligations.ScalarStores : Prop := Claim.StoreResults ∧ Claim.StoreRelease

/-- Claim.AddressTraps, Claim.UntranslatedAddresses: all hold, each as its own docstring says. -/
def Obligations.ScalarAddresses : Prop := Claim.AddressTraps ∧ Claim.UntranslatedAddresses

/-- Claim.AtomicResults, Claim.AtomicFloatAdd: all hold, each as its own docstring says. -/
def Obligations.Atomics : Prop := Claim.AtomicResults ∧ Claim.AtomicFloatAdd

/-- Claim.ScalarFpComparisons, Claim.ScalarFpConversions: all hold, each as its own docstring says. -/
def Obligations.ScalarFpComparisonsAndConversions : Prop := Claim.ScalarFpComparisons ∧ Claim.ScalarFpConversions

/-- Claim.EnabledFlagTraps, Claim.TrapInstructions: all hold, each as its own docstring says. -/
def Obligations.CompletionTraps : Prop := Claim.EnabledFlagTraps ∧ Claim.TrapInstructions

/-- Claim.SystemRegisterReads, Claim.SystemRegisterWrites: all hold, each as its own docstring says. -/
def Obligations.SystemRegisters : Prop := Claim.SystemRegisterReads ∧ Claim.SystemRegisterWrites

/-- Claim.Fences, Claim.Yields: all hold, each as its own docstring says. -/
def Obligations.FencesAndYields : Prop := Claim.Fences ∧ Claim.Yields

/-- Claim.PrivilegedInstructions, Claim.CacheAndTranslationMaintenance: all hold, each as its own docstring says. -/
def Obligations.PrivilegeAndMaintenance : Prop := Claim.PrivilegedInstructions ∧ Claim.CacheAndTranslationMaintenance

/-- Claim.Notification, Claim.DebugHalt, Claim.DebugSteps: all hold, each as its own docstring says. -/
def Obligations.NotificationAndDebug : Prop := Claim.Notification ∧ Claim.DebugHalt ∧ Claim.DebugSteps

/-- Claim.FarmCreation, Claim.StripClaims: all hold, each as its own docstring says. -/
def Obligations.FarmsAndStrips : Prop := Claim.FarmCreation ∧ Claim.StripClaims

/-- Claim.JoinsAndEvents, Claim.VectorWaits: all hold, each as its own docstring says. -/
def Obligations.JoinsAndWaits : Prop := Claim.JoinsAndEvents ∧ Claim.VectorWaits

/-- Claim.VectorIntegers, Claim.VectorCarriesComparesMerges: all hold, each as its own docstring says. -/
def Obligations.VectorIntegerResults : Prop := Claim.VectorIntegers ∧ Claim.VectorCarriesComparesMerges

/-- Claim.VectorMoves, Claim.VectorSlicesAndTags, Claim.VectorBlockMoves: all hold, each as its own docstring says. -/
def Obligations.VectorMovement : Prop := Claim.VectorMoves ∧ Claim.VectorSlicesAndTags ∧ Claim.VectorBlockMoves

/-- Claim.MaskInstructions, Claim.MaskMemory: all hold, each as its own docstring says. -/
def Obligations.Masks : Prop := Claim.MaskInstructions ∧ Claim.MaskMemory

/-- Claim.StreamBindings, Claim.StreamTransfers: all hold, each as its own docstring says. -/
def Obligations.Streams : Prop := Claim.StreamBindings ∧ Claim.StreamTransfers

/-- Claim.VectorLoads, Claim.VectorStores: all hold, each as its own docstring says. -/
def Obligations.VectorMemory : Prop := Claim.VectorLoads ∧ Claim.VectorStores

/-- Claim.VectorAtomics, Claim.RemoteVectors: all hold, each as its own docstring says. -/
def Obligations.VectorAtomicsAndRemotes : Prop := Claim.VectorAtomics ∧ Claim.RemoteVectors

/-- Claim.CanopyLoads, Claim.CanopyLoader: all hold, each as its own docstring says. -/
def Obligations.Canopies : Prop := Claim.CanopyLoads ∧ Claim.CanopyLoader

/-- Claim.HartSteps, Claim.StepsOfOtherHarts: all hold, each as its own docstring says. -/
def Obligations.HartEvents : Prop := Claim.HartSteps ∧ Claim.StepsOfOtherHarts

/-- Claim.CoreSteps, Claim.MemoryControllers: all hold, each as its own docstring says. -/
def Obligations.MemoryHierarchySteps : Prop := Claim.CoreSteps ∧ Claim.MemoryControllers

/-- Claim.CopyEngines, Claim.Snapshots: all hold, each as its own docstring says. -/
def Obligations.EnginesAndSnapshots : Prop := Claim.CopyEngines ∧ Claim.Snapshots

/-- Claim.Responses, Claim.LinkLayer: all hold, each as its own docstring says. -/
def Obligations.FabricReceives : Prop := Claim.Responses ∧ Claim.LinkLayer

/-- Claim.SequencerSends, Claim.SequencerReceives: all hold, each as its own docstring says. -/
def Obligations.SequencerExchange : Prop := Claim.SequencerSends ∧ Claim.SequencerReceives

/-- Claim.SequencerArithmetic, Claim.SequencerControl: all hold, each as its own docstring says. -/
def Obligations.SequencerWork : Prop := Claim.SequencerArithmetic ∧ Claim.SequencerControl

/-- Claim.FaultRecords, Claim.LifetimeSteps: all hold, each as its own docstring says. -/
def Obligations.RecordsAndLifetime : Prop := Claim.FaultRecords ∧ Claim.LifetimeSteps

/-- Claim.PartitionSteps, Claim.HostSteps: all hold, each as its own docstring says. -/
def Obligations.PartitionsAndHost : Prop := Claim.PartitionSteps ∧ Claim.HostSteps

/-- Claim.EncodeDecodeRoundTrip, Claim.DecodedIsWellFormed: all hold, each as its own docstring says. -/
def Obligations.DecodeEncodeAgree : Prop := Claim.EncodeDecodeRoundTrip ∧ Claim.DecodedIsWellFormed
end

