-- ==== Sys2Proof/Laws/Bits.lean ====
section
/-! SUPPORT. The laws of packed images and of bytes: an element packed reads back, and a number's bytes give it back. -/

namespace Sys2Proof

theorem bitsAt_eq (lo cnt x : Nat) : bitsAt lo cnt x = x / 2 ^ lo % 2 ^ cnt := by rw [bitsAt, Nat.shiftRight_eq_div_pow]
theorem slot_eq (w i img : Nat) : slot w i img = img / 2 ^ (w * i) % 2 ^ w := bitsAt_eq _ _ _
theorem lowBits_lt (n x : Nat) : lowBits n x < 2 ^ n := Nat.mod_lt _ (Nat.two_pow_pos n)
theorem slot_lt (w i img : Nat) : slot w i img < 2 ^ w := Nat.mod_lt _ (Nat.two_pow_pos w)

/-- An element below a boundary does not see what stands above it. -/
theorem slot_add_high {w i n a b : Nat} (h : i < n) : slot w i (a + b * 2 ^ (w * n)) = slot w i a := by
  rw [slot_eq, slot_eq]
  obtain ⟨k, rfl⟩ : ∃ k, n = i + 1 + k := ⟨n - (i + 1), by omega⟩
  have e : b * 2 ^ (w * (i + 1 + k)) = 2 ^ (w * i) * (2 ^ w * (b * 2 ^ (w * k))) := by
    rw [show w * (i + 1 + k) = w * i + (w + w * k) by ring, Nat.pow_add, Nat.pow_add]; ring
  rw [e, Nat.add_mul_div_left _ _ (Nat.two_pow_pos _), Nat.add_mul_mod_self_left]

/-- An element above a boundary is one of what stands above it. -/
theorem slot_add_low {w i n a b : Nat} (ha : a < 2 ^ (w * n)) : slot w (n + i) (a + b * 2 ^ (w * n)) = slot w i b := by
  rw [slot_eq, slot_eq, Nat.mul_add, Nat.pow_add, ← Nat.div_div_eq_div_mul, Nat.add_mul_div_right _ _ (Nat.two_pow_pos _), Nat.div_eq_of_lt ha, Nat.zero_add]

theorem packPow_lt (w : Nat) (f : Nat → Nat) (d base : Nat) : packPow w f d base < 2 ^ (w * 2 ^ d) := by
  induction d generalizing base with
  | zero => simpa [packPow] using lowBits_lt w (f base)
  | succ d ih =>
    have h1 := ih base
    have h2 := ih (base + 2 ^ d)
    rw [packPow, Nat.shiftLeft_eq, show w * 2 ^ (d + 1) = w * 2 ^ d + w * 2 ^ d by rw [Nat.pow_succ]; ring, Nat.pow_add]
    generalize 2 ^ (w * 2 ^ d) = m at *
    nlinarith

theorem slot_packPow (w : Nat) (f : Nat → Nat) (d base i : Nat) (h : i < 2 ^ d) : slot w i (packPow w f d base) = lowBits w (f (base + i)) := by
  induction d generalizing base i with
  | zero =>
    obtain rfl : i = 0 := by simpa using h
    simp [packPow, slot_eq, lowBits]
  | succ d ih =>
    rw [packPow, Nat.shiftLeft_eq]
    by_cases lt : i < 2 ^ d
    · rw [slot_add_high lt, ih base i lt]
    · obtain ⟨k, rfl⟩ : ∃ k, i = 2 ^ d + k := ⟨i - 2 ^ d, by omega⟩
      rw [slot_add_low (packPow_lt w f d base), ih (base + 2 ^ d) k (by rw [Nat.pow_succ] at h; omega), Nat.add_assoc]

theorem le_two_pow_clog2 (n : Nat) : n ≤ 2 ^ clog2 n := by
  unfold clog2
  split
  · simpa using ‹n ≤ 1›
  · have := Nat.lt_log2_self (n := n - 1)
    omega

/-- An element packed reads back, cut to its width; every element beyond reads 0. -/
theorem slot_pack (w n : Nat) (f : Nat → Nat) (i : Nat) : slot w i (pack w n f) = if i < n then lowBits w (f i) else 0 := by
  unfold pack
  by_cases hn : n = 0
  · subst hn; simp [slot_eq]
  · rw [if_neg hn]
    by_cases h : i < 2 ^ clog2 n
    · rw [slot_packPow w _ _ _ _ h, Nat.zero_add]
      split <;> simp [lowBits]
    · have : ¬ i < n := fun c => h (Nat.lt_of_lt_of_le c (le_two_pow_clog2 n))
      rw [if_neg this, slot_eq, Nat.div_eq_of_lt, Nat.zero_mod]
      exact Nat.lt_of_lt_of_le (packPow_lt w _ _ _) (Nat.pow_le_pow_right (by decide) (Nat.mul_le_mul_left w (by omega)))

/-- A bit of a packed row of single bits. -/
theorem testBit_pack_one (n : Nat) (f : Nat → Nat) (i : Nat) : (pack 1 n f).testBit i = (decide (i < n) && (f i).testBit 0) := by
  have h := slot_pack 1 n f i
  rw [slot_eq, Nat.one_mul, Nat.pow_one] at h
  rw [Nat.testBit_eq_decide_div_mod_eq, h]
  by_cases c : i < n
  · simp [c, lowBits, Nat.testBit_zero]
  · simp [c]

/-! ## Bytes -/

@[simp] theorem length_bytesOf (n x : Nat) : (bytesOf n x).length = n := by induction n generalizing x with
  | zero => rfl
  | succ n ih => simp [bytesOf, ih]

/-- Byte `i` of a number. -/
theorem getElem?_bytesOf (n x i : Nat) : (bytesOf n x)[i]? = if i < n then some (BitVec.ofNat 8 (x / 256 ^ i)) else none := by
  induction n generalizing x i with
  | zero => simp [bytesOf]
  | succ n ih =>
    cases i with
    | zero => simp [bytesOf]
    | succ i => rw [bytesOf, List.getElem?_cons_succ, ih, Nat.div_div_eq_div_mul, ← Nat.pow_succ']; simp

theorem ofBytes_lt (l : List Byte) : ofBytes l < 256 ^ l.length := by
  induction l with
  | nil => exact Nat.one_pos
  | cons b t ih => have := b.isLt; rw [ofBytes, List.length_cons, Nat.pow_succ]; omega

/-- A number's bytes give it back, cut to their length. -/
theorem ofBytes_bytesOf (n x : Nat) : ofBytes (bytesOf n x) = x % 256 ^ n := by
  induction n generalizing x with
  | zero => simp [bytesOf, ofBytes, Nat.mod_one]
  | succ n ih => rw [bytesOf, ofBytes, ih, BitVec.toNat_ofNat, show 256 ^ (n + 1) = 256 * 256 ^ n from Nat.pow_succ']; exact (Nat.mod_mul).symm

/-- The bytes of the number that some bytes give are those bytes. -/
theorem bytesOf_ofBytes (l : List Byte) : bytesOf l.length (ofBytes l) = l := by
  induction l with
  | nil => rfl
  | cons b t ih =>
    have := b.isLt
    rw [List.length_cons, bytesOf, ofBytes, show (b.toNat + 256 * ofBytes t) / 256 = ofBytes t by omega, ih]
    congr 1
    apply BitVec.eq_of_toNat_eq
    rw [BitVec.toNat_ofNat]; omega

end Sys2Proof
end

