-- ==== Sys2Proof/Laws/State.lean ====
section
/-! SUPPORT. Each update of the state, field by field: what it sets and what it leaves. -/

namespace Sys2Proof.Machine

/-! ## Updates of one field of the state -/

@[simp] theorem State.withHart_hart (s : State) (h : Hart) : (s.withHart h).hart = h := rfl
@[simp] theorem State.withHart_others (s : State) (h : Hart) : (s.withHart h).others = s.others := rfl
@[simp] theorem State.withHart_agenda (s : State) (h : Hart) : (s.withHart h).agenda = s.agenda := rfl
@[simp] theorem State.withHart_policy (s : State) (h : Hart) : (s.withHart h).policy = s.policy := rfl
@[simp] theorem State.withHart_tick (s : State) (h : Hart) : (s.withHart h).tick = s.tick := rfl
@[simp] theorem State.withHart_fresh (s : State) (h : Hart) : (s.withHart h).fresh = s.fresh := rfl
@[simp] theorem State.withHart_time (s : State) (h : Hart) : (s.withHart h).time = s.time := rfl
@[simp] theorem State.withHart_mem (s : State) (h : Hart) : (s.withHart h).mem = s.mem := rfl
@[simp] theorem State.withHart_poison (s : State) (h : Hart) : (s.withHart h).poison = s.poison := rfl
@[simp] theorem State.withHart_cores (s : State) (h : Hart) : (s.withHart h).cores = s.cores := rfl
@[simp] theorem State.withHart_benches (s : State) (h : Hart) : (s.withHart h).benches = s.benches := rfl
@[simp] theorem State.withHart_farms (s : State) (h : Hart) : (s.withHart h).farms = s.farms := rfl
@[simp] theorem State.withHart_parts (s : State) (h : Hart) : (s.withHart h).parts = s.parts := rfl
@[simp] theorem State.withHart_engines (s : State) (h : Hart) : (s.withHart h).engines = s.engines := rfl
@[simp] theorem State.withHart_snaps (s : State) (h : Hart) : (s.withHart h).snaps = s.snaps := rfl
@[simp] theorem State.withHart_owed (s : State) (h : Hart) : (s.withHart h).owed = s.owed := rfl
@[simp] theorem State.withHart_awaits (s : State) (h : Hart) : (s.withHart h).awaits = s.awaits := rfl
@[simp] theorem State.withHart_ctxs (s : State) (h : Hart) : (s.withHart h).ctxs = s.ctxs := rfl
@[simp] theorem State.withHart_fabric (s : State) (h : Hart) : (s.withHart h).fabric = s.fabric := rfl
@[simp] theorem State.withHart_dram (s : State) (h : Hart) : (s.withHart h).dram = s.dram := rfl
@[simp] theorem State.withHart_power (s : State) (h : Hart) : (s.withHart h).power = s.power := rfl
@[simp] theorem State.withHart_ras (s : State) (h : Hart) : (s.withHart h).ras = s.ras := rfl
@[simp] theorem State.withHart_life (s : State) (h : Hart) : (s.withHart h).life = s.life := rfl
@[simp] theorem State.withHart_boot (s : State) (h : Hart) : (s.withHart h).boot = s.boot := rfl
@[simp] theorem State.withHart_links (s : State) (h : Hart) : (s.withHart h).links = s.links := rfl
@[simp] theorem State.withHart_l2 (s : State) (h : Hart) : (s.withHart h).l2 = s.l2 := rfl
@[simp] theorem State.withHart_upsets (s : State) (h : Hart) : (s.withHart h).upsets = s.upsets := rfl
@[simp] theorem State.withHart_held (s : State) (h : Hart) : (s.withHart h).held = s.held := rfl
@[simp] theorem State.withHart_posted (s : State) (h : Hart) : (s.withHart h).posted = s.posted := rfl

@[simp] theorem State.setX_hart (s : State) (r : Reg) (v : Word) : (s.setX r v).hart = s.hart.setX r v := rfl
@[simp] theorem State.setX_others (s : State) (r : Reg) (v : Word) : (s.setX r v).others = s.others := rfl
@[simp] theorem State.setX_agenda (s : State) (r : Reg) (v : Word) : (s.setX r v).agenda = s.agenda := rfl
@[simp] theorem State.setX_policy (s : State) (r : Reg) (v : Word) : (s.setX r v).policy = s.policy := rfl
@[simp] theorem State.setX_tick (s : State) (r : Reg) (v : Word) : (s.setX r v).tick = s.tick := rfl
@[simp] theorem State.setX_fresh (s : State) (r : Reg) (v : Word) : (s.setX r v).fresh = s.fresh := rfl
@[simp] theorem State.setX_time (s : State) (r : Reg) (v : Word) : (s.setX r v).time = s.time := rfl
@[simp] theorem State.setX_mem (s : State) (r : Reg) (v : Word) : (s.setX r v).mem = s.mem := rfl
@[simp] theorem State.setX_poison (s : State) (r : Reg) (v : Word) : (s.setX r v).poison = s.poison := rfl
@[simp] theorem State.setX_cores (s : State) (r : Reg) (v : Word) : (s.setX r v).cores = s.cores := rfl
@[simp] theorem State.setX_benches (s : State) (r : Reg) (v : Word) : (s.setX r v).benches = s.benches := rfl
@[simp] theorem State.setX_farms (s : State) (r : Reg) (v : Word) : (s.setX r v).farms = s.farms := rfl
@[simp] theorem State.setX_parts (s : State) (r : Reg) (v : Word) : (s.setX r v).parts = s.parts := rfl
@[simp] theorem State.setX_engines (s : State) (r : Reg) (v : Word) : (s.setX r v).engines = s.engines := rfl
@[simp] theorem State.setX_snaps (s : State) (r : Reg) (v : Word) : (s.setX r v).snaps = s.snaps := rfl
@[simp] theorem State.setX_owed (s : State) (r : Reg) (v : Word) : (s.setX r v).owed = s.owed := rfl
@[simp] theorem State.setX_awaits (s : State) (r : Reg) (v : Word) : (s.setX r v).awaits = s.awaits := rfl
@[simp] theorem State.setX_ctxs (s : State) (r : Reg) (v : Word) : (s.setX r v).ctxs = s.ctxs := rfl
@[simp] theorem State.setX_fabric (s : State) (r : Reg) (v : Word) : (s.setX r v).fabric = s.fabric := rfl
@[simp] theorem State.setX_dram (s : State) (r : Reg) (v : Word) : (s.setX r v).dram = s.dram := rfl
@[simp] theorem State.setX_power (s : State) (r : Reg) (v : Word) : (s.setX r v).power = s.power := rfl
@[simp] theorem State.setX_ras (s : State) (r : Reg) (v : Word) : (s.setX r v).ras = s.ras := rfl
@[simp] theorem State.setX_life (s : State) (r : Reg) (v : Word) : (s.setX r v).life = s.life := rfl
@[simp] theorem State.setX_boot (s : State) (r : Reg) (v : Word) : (s.setX r v).boot = s.boot := rfl
@[simp] theorem State.setX_links (s : State) (r : Reg) (v : Word) : (s.setX r v).links = s.links := rfl
@[simp] theorem State.setX_l2 (s : State) (r : Reg) (v : Word) : (s.setX r v).l2 = s.l2 := rfl
@[simp] theorem State.setX_upsets (s : State) (r : Reg) (v : Word) : (s.setX r v).upsets = s.upsets := rfl
@[simp] theorem State.setX_held (s : State) (r : Reg) (v : Word) : (s.setX r v).held = s.held := rfl
@[simp] theorem State.setX_posted (s : State) (r : Reg) (v : Word) : (s.setX r v).posted = s.posted := rfl

@[simp] theorem State.setCore_hart (s : State) (c : Nat) (k : Core) : (s.setCore c k).hart = s.hart := rfl
@[simp] theorem State.setCore_others (s : State) (c : Nat) (k : Core) : (s.setCore c k).others = s.others := rfl
@[simp] theorem State.setCore_agenda (s : State) (c : Nat) (k : Core) : (s.setCore c k).agenda = s.agenda := rfl
@[simp] theorem State.setCore_policy (s : State) (c : Nat) (k : Core) : (s.setCore c k).policy = s.policy := rfl
@[simp] theorem State.setCore_tick (s : State) (c : Nat) (k : Core) : (s.setCore c k).tick = s.tick := rfl
@[simp] theorem State.setCore_fresh (s : State) (c : Nat) (k : Core) : (s.setCore c k).fresh = s.fresh := rfl
@[simp] theorem State.setCore_time (s : State) (c : Nat) (k : Core) : (s.setCore c k).time = s.time := rfl
@[simp] theorem State.setCore_mem (s : State) (c : Nat) (k : Core) : (s.setCore c k).mem = s.mem := rfl
@[simp] theorem State.setCore_poison (s : State) (c : Nat) (k : Core) : (s.setCore c k).poison = s.poison := rfl
@[simp] theorem State.setCore_cores (s : State) (c : Nat) (k : Core) : (s.setCore c k).cores = tset s.cores c k := rfl
@[simp] theorem State.setCore_benches (s : State) (c : Nat) (k : Core) : (s.setCore c k).benches = s.benches := rfl
@[simp] theorem State.setCore_farms (s : State) (c : Nat) (k : Core) : (s.setCore c k).farms = s.farms := rfl
@[simp] theorem State.setCore_parts (s : State) (c : Nat) (k : Core) : (s.setCore c k).parts = s.parts := rfl
@[simp] theorem State.setCore_engines (s : State) (c : Nat) (k : Core) : (s.setCore c k).engines = s.engines := rfl
@[simp] theorem State.setCore_snaps (s : State) (c : Nat) (k : Core) : (s.setCore c k).snaps = s.snaps := rfl
@[simp] theorem State.setCore_owed (s : State) (c : Nat) (k : Core) : (s.setCore c k).owed = s.owed := rfl
@[simp] theorem State.setCore_awaits (s : State) (c : Nat) (k : Core) : (s.setCore c k).awaits = s.awaits := rfl
@[simp] theorem State.setCore_ctxs (s : State) (c : Nat) (k : Core) : (s.setCore c k).ctxs = s.ctxs := rfl
@[simp] theorem State.setCore_fabric (s : State) (c : Nat) (k : Core) : (s.setCore c k).fabric = s.fabric := rfl
@[simp] theorem State.setCore_dram (s : State) (c : Nat) (k : Core) : (s.setCore c k).dram = s.dram := rfl
@[simp] theorem State.setCore_power (s : State) (c : Nat) (k : Core) : (s.setCore c k).power = s.power := rfl
@[simp] theorem State.setCore_ras (s : State) (c : Nat) (k : Core) : (s.setCore c k).ras = s.ras := rfl
@[simp] theorem State.setCore_life (s : State) (c : Nat) (k : Core) : (s.setCore c k).life = s.life := rfl
@[simp] theorem State.setCore_boot (s : State) (c : Nat) (k : Core) : (s.setCore c k).boot = s.boot := rfl
@[simp] theorem State.setCore_links (s : State) (c : Nat) (k : Core) : (s.setCore c k).links = s.links := rfl
@[simp] theorem State.setCore_l2 (s : State) (c : Nat) (k : Core) : (s.setCore c k).l2 = s.l2 := rfl
@[simp] theorem State.setCore_upsets (s : State) (c : Nat) (k : Core) : (s.setCore c k).upsets = s.upsets := rfl
@[simp] theorem State.setCore_held (s : State) (c : Nat) (k : Core) : (s.setCore c k).held = s.held := rfl
@[simp] theorem State.setCore_posted (s : State) (c : Nat) (k : Core) : (s.setCore c k).posted = s.posted := rfl

@[simp] theorem State.setBench_hart (s : State) (b : Nat) (k : Bench) : (s.setBench b k).hart = s.hart := rfl
@[simp] theorem State.setBench_others (s : State) (b : Nat) (k : Bench) : (s.setBench b k).others = s.others := rfl
@[simp] theorem State.setBench_agenda (s : State) (b : Nat) (k : Bench) : (s.setBench b k).agenda = s.agenda := rfl
@[simp] theorem State.setBench_policy (s : State) (b : Nat) (k : Bench) : (s.setBench b k).policy = s.policy := rfl
@[simp] theorem State.setBench_tick (s : State) (b : Nat) (k : Bench) : (s.setBench b k).tick = s.tick := rfl
@[simp] theorem State.setBench_fresh (s : State) (b : Nat) (k : Bench) : (s.setBench b k).fresh = s.fresh := rfl
@[simp] theorem State.setBench_time (s : State) (b : Nat) (k : Bench) : (s.setBench b k).time = s.time := rfl
@[simp] theorem State.setBench_mem (s : State) (b : Nat) (k : Bench) : (s.setBench b k).mem = s.mem := rfl
@[simp] theorem State.setBench_poison (s : State) (b : Nat) (k : Bench) : (s.setBench b k).poison = s.poison := rfl
@[simp] theorem State.setBench_cores (s : State) (b : Nat) (k : Bench) : (s.setBench b k).cores = s.cores := rfl
@[simp] theorem State.setBench_benches (s : State) (b : Nat) (k : Bench) : (s.setBench b k).benches = tset s.benches b k := rfl
@[simp] theorem State.setBench_farms (s : State) (b : Nat) (k : Bench) : (s.setBench b k).farms = s.farms := rfl
@[simp] theorem State.setBench_parts (s : State) (b : Nat) (k : Bench) : (s.setBench b k).parts = s.parts := rfl
@[simp] theorem State.setBench_engines (s : State) (b : Nat) (k : Bench) : (s.setBench b k).engines = s.engines := rfl
@[simp] theorem State.setBench_snaps (s : State) (b : Nat) (k : Bench) : (s.setBench b k).snaps = s.snaps := rfl
@[simp] theorem State.setBench_owed (s : State) (b : Nat) (k : Bench) : (s.setBench b k).owed = s.owed := rfl
@[simp] theorem State.setBench_awaits (s : State) (b : Nat) (k : Bench) : (s.setBench b k).awaits = s.awaits := rfl
@[simp] theorem State.setBench_ctxs (s : State) (b : Nat) (k : Bench) : (s.setBench b k).ctxs = s.ctxs := rfl
@[simp] theorem State.setBench_fabric (s : State) (b : Nat) (k : Bench) : (s.setBench b k).fabric = s.fabric := rfl
@[simp] theorem State.setBench_dram (s : State) (b : Nat) (k : Bench) : (s.setBench b k).dram = s.dram := rfl
@[simp] theorem State.setBench_power (s : State) (b : Nat) (k : Bench) : (s.setBench b k).power = s.power := rfl
@[simp] theorem State.setBench_ras (s : State) (b : Nat) (k : Bench) : (s.setBench b k).ras = s.ras := rfl
@[simp] theorem State.setBench_life (s : State) (b : Nat) (k : Bench) : (s.setBench b k).life = s.life := rfl
@[simp] theorem State.setBench_boot (s : State) (b : Nat) (k : Bench) : (s.setBench b k).boot = s.boot := rfl
@[simp] theorem State.setBench_links (s : State) (b : Nat) (k : Bench) : (s.setBench b k).links = s.links := rfl
@[simp] theorem State.setBench_l2 (s : State) (b : Nat) (k : Bench) : (s.setBench b k).l2 = s.l2 := rfl
@[simp] theorem State.setBench_upsets (s : State) (b : Nat) (k : Bench) : (s.setBench b k).upsets = s.upsets := rfl
@[simp] theorem State.setBench_held (s : State) (b : Nat) (k : Bench) : (s.setBench b k).held = s.held := rfl
@[simp] theorem State.setBench_posted (s : State) (b : Nat) (k : Bench) : (s.setBench b k).posted = s.posted := rfl

@[simp] theorem State.setMyBench_hart (s : State) (b : Bench) : (s.setMyBench b).hart = s.hart := rfl
@[simp] theorem State.setMyBench_others (s : State) (b : Bench) : (s.setMyBench b).others = s.others := rfl
@[simp] theorem State.setMyBench_agenda (s : State) (b : Bench) : (s.setMyBench b).agenda = s.agenda := rfl
@[simp] theorem State.setMyBench_policy (s : State) (b : Bench) : (s.setMyBench b).policy = s.policy := rfl
@[simp] theorem State.setMyBench_tick (s : State) (b : Bench) : (s.setMyBench b).tick = s.tick := rfl
@[simp] theorem State.setMyBench_fresh (s : State) (b : Bench) : (s.setMyBench b).fresh = s.fresh := rfl
@[simp] theorem State.setMyBench_time (s : State) (b : Bench) : (s.setMyBench b).time = s.time := rfl
@[simp] theorem State.setMyBench_mem (s : State) (b : Bench) : (s.setMyBench b).mem = s.mem := rfl
@[simp] theorem State.setMyBench_poison (s : State) (b : Bench) : (s.setMyBench b).poison = s.poison := rfl
@[simp] theorem State.setMyBench_cores (s : State) (b : Bench) : (s.setMyBench b).cores = s.cores := rfl
@[simp] theorem State.setMyBench_benches (s : State) (b : Bench) : (s.setMyBench b).benches = tset s.benches (benchOf s.hart.id) b := rfl
@[simp] theorem State.setMyBench_farms (s : State) (b : Bench) : (s.setMyBench b).farms = s.farms := rfl
@[simp] theorem State.setMyBench_parts (s : State) (b : Bench) : (s.setMyBench b).parts = s.parts := rfl
@[simp] theorem State.setMyBench_engines (s : State) (b : Bench) : (s.setMyBench b).engines = s.engines := rfl
@[simp] theorem State.setMyBench_snaps (s : State) (b : Bench) : (s.setMyBench b).snaps = s.snaps := rfl
@[simp] theorem State.setMyBench_owed (s : State) (b : Bench) : (s.setMyBench b).owed = s.owed := rfl
@[simp] theorem State.setMyBench_awaits (s : State) (b : Bench) : (s.setMyBench b).awaits = s.awaits := rfl
@[simp] theorem State.setMyBench_ctxs (s : State) (b : Bench) : (s.setMyBench b).ctxs = s.ctxs := rfl
@[simp] theorem State.setMyBench_fabric (s : State) (b : Bench) : (s.setMyBench b).fabric = s.fabric := rfl
@[simp] theorem State.setMyBench_dram (s : State) (b : Bench) : (s.setMyBench b).dram = s.dram := rfl
@[simp] theorem State.setMyBench_power (s : State) (b : Bench) : (s.setMyBench b).power = s.power := rfl
@[simp] theorem State.setMyBench_ras (s : State) (b : Bench) : (s.setMyBench b).ras = s.ras := rfl
@[simp] theorem State.setMyBench_life (s : State) (b : Bench) : (s.setMyBench b).life = s.life := rfl
@[simp] theorem State.setMyBench_boot (s : State) (b : Bench) : (s.setMyBench b).boot = s.boot := rfl
@[simp] theorem State.setMyBench_links (s : State) (b : Bench) : (s.setMyBench b).links = s.links := rfl
@[simp] theorem State.setMyBench_l2 (s : State) (b : Bench) : (s.setMyBench b).l2 = s.l2 := rfl
@[simp] theorem State.setMyBench_upsets (s : State) (b : Bench) : (s.setMyBench b).upsets = s.upsets := rfl
@[simp] theorem State.setMyBench_held (s : State) (b : Bench) : (s.setMyBench b).held = s.held := rfl
@[simp] theorem State.setMyBench_posted (s : State) (b : Bench) : (s.setMyBench b).posted = s.posted := rfl

@[simp] theorem State.setCtx_hart (s : State) (k : Nat) (c : Ctx) : (s.setCtx k c).hart = s.hart := rfl
@[simp] theorem State.setCtx_others (s : State) (k : Nat) (c : Ctx) : (s.setCtx k c).others = s.others := rfl
@[simp] theorem State.setCtx_agenda (s : State) (k : Nat) (c : Ctx) : (s.setCtx k c).agenda = s.agenda := rfl
@[simp] theorem State.setCtx_policy (s : State) (k : Nat) (c : Ctx) : (s.setCtx k c).policy = s.policy := rfl
@[simp] theorem State.setCtx_tick (s : State) (k : Nat) (c : Ctx) : (s.setCtx k c).tick = s.tick := rfl
@[simp] theorem State.setCtx_fresh (s : State) (k : Nat) (c : Ctx) : (s.setCtx k c).fresh = s.fresh := rfl
@[simp] theorem State.setCtx_time (s : State) (k : Nat) (c : Ctx) : (s.setCtx k c).time = s.time := rfl
@[simp] theorem State.setCtx_mem (s : State) (k : Nat) (c : Ctx) : (s.setCtx k c).mem = s.mem := rfl
@[simp] theorem State.setCtx_poison (s : State) (k : Nat) (c : Ctx) : (s.setCtx k c).poison = s.poison := rfl
@[simp] theorem State.setCtx_cores (s : State) (k : Nat) (c : Ctx) : (s.setCtx k c).cores = s.cores := rfl
@[simp] theorem State.setCtx_benches (s : State) (k : Nat) (c : Ctx) : (s.setCtx k c).benches = s.benches := rfl
@[simp] theorem State.setCtx_farms (s : State) (k : Nat) (c : Ctx) : (s.setCtx k c).farms = s.farms := rfl
@[simp] theorem State.setCtx_parts (s : State) (k : Nat) (c : Ctx) : (s.setCtx k c).parts = s.parts := rfl
@[simp] theorem State.setCtx_engines (s : State) (k : Nat) (c : Ctx) : (s.setCtx k c).engines = s.engines := rfl
@[simp] theorem State.setCtx_snaps (s : State) (k : Nat) (c : Ctx) : (s.setCtx k c).snaps = s.snaps := rfl
@[simp] theorem State.setCtx_owed (s : State) (k : Nat) (c : Ctx) : (s.setCtx k c).owed = s.owed := rfl
@[simp] theorem State.setCtx_awaits (s : State) (k : Nat) (c : Ctx) : (s.setCtx k c).awaits = s.awaits := rfl
@[simp] theorem State.setCtx_ctxs (s : State) (k : Nat) (c : Ctx) : (s.setCtx k c).ctxs = tset s.ctxs k c := rfl
@[simp] theorem State.setCtx_fabric (s : State) (k : Nat) (c : Ctx) : (s.setCtx k c).fabric = s.fabric := rfl
@[simp] theorem State.setCtx_dram (s : State) (k : Nat) (c : Ctx) : (s.setCtx k c).dram = s.dram := rfl
@[simp] theorem State.setCtx_power (s : State) (k : Nat) (c : Ctx) : (s.setCtx k c).power = s.power := rfl
@[simp] theorem State.setCtx_ras (s : State) (k : Nat) (c : Ctx) : (s.setCtx k c).ras = s.ras := rfl
@[simp] theorem State.setCtx_life (s : State) (k : Nat) (c : Ctx) : (s.setCtx k c).life = s.life := rfl
@[simp] theorem State.setCtx_boot (s : State) (k : Nat) (c : Ctx) : (s.setCtx k c).boot = s.boot := rfl
@[simp] theorem State.setCtx_links (s : State) (k : Nat) (c : Ctx) : (s.setCtx k c).links = s.links := rfl
@[simp] theorem State.setCtx_l2 (s : State) (k : Nat) (c : Ctx) : (s.setCtx k c).l2 = s.l2 := rfl
@[simp] theorem State.setCtx_upsets (s : State) (k : Nat) (c : Ctx) : (s.setCtx k c).upsets = s.upsets := rfl
@[simp] theorem State.setCtx_held (s : State) (k : Nat) (c : Ctx) : (s.setCtx k c).held = s.held := rfl
@[simp] theorem State.setCtx_posted (s : State) (k : Nat) (c : Ctx) : (s.setCtx k c).posted = s.posted := rfl

@[simp] theorem State.setQueue_hart (s : State) (n : Nat) (l : List CmdRec) : (s.setQueue n l).hart = s.hart := rfl
@[simp] theorem State.setQueue_others (s : State) (n : Nat) (l : List CmdRec) : (s.setQueue n l).others = s.others := rfl
@[simp] theorem State.setQueue_agenda (s : State) (n : Nat) (l : List CmdRec) : (s.setQueue n l).agenda = s.agenda := rfl
@[simp] theorem State.setQueue_policy (s : State) (n : Nat) (l : List CmdRec) : (s.setQueue n l).policy = s.policy := rfl
@[simp] theorem State.setQueue_tick (s : State) (n : Nat) (l : List CmdRec) : (s.setQueue n l).tick = s.tick := rfl
@[simp] theorem State.setQueue_fresh (s : State) (n : Nat) (l : List CmdRec) : (s.setQueue n l).fresh = s.fresh := rfl
@[simp] theorem State.setQueue_time (s : State) (n : Nat) (l : List CmdRec) : (s.setQueue n l).time = s.time := rfl
@[simp] theorem State.setQueue_mem (s : State) (n : Nat) (l : List CmdRec) : (s.setQueue n l).mem = s.mem := rfl
@[simp] theorem State.setQueue_poison (s : State) (n : Nat) (l : List CmdRec) : (s.setQueue n l).poison = s.poison := rfl
@[simp] theorem State.setQueue_cores (s : State) (n : Nat) (l : List CmdRec) : (s.setQueue n l).cores = s.cores := rfl
@[simp] theorem State.setQueue_benches (s : State) (n : Nat) (l : List CmdRec) : (s.setQueue n l).benches = s.benches := rfl
@[simp] theorem State.setQueue_farms (s : State) (n : Nat) (l : List CmdRec) : (s.setQueue n l).farms = s.farms := rfl
@[simp] theorem State.setQueue_parts (s : State) (n : Nat) (l : List CmdRec) : (s.setQueue n l).parts = s.parts := rfl
@[simp] theorem State.setQueue_engines (s : State) (n : Nat) (l : List CmdRec) : (s.setQueue n l).engines = tset s.engines n l := rfl
@[simp] theorem State.setQueue_snaps (s : State) (n : Nat) (l : List CmdRec) : (s.setQueue n l).snaps = s.snaps := rfl
@[simp] theorem State.setQueue_owed (s : State) (n : Nat) (l : List CmdRec) : (s.setQueue n l).owed = s.owed := rfl
@[simp] theorem State.setQueue_awaits (s : State) (n : Nat) (l : List CmdRec) : (s.setQueue n l).awaits = s.awaits := rfl
@[simp] theorem State.setQueue_ctxs (s : State) (n : Nat) (l : List CmdRec) : (s.setQueue n l).ctxs = s.ctxs := rfl
@[simp] theorem State.setQueue_fabric (s : State) (n : Nat) (l : List CmdRec) : (s.setQueue n l).fabric = s.fabric := rfl
@[simp] theorem State.setQueue_dram (s : State) (n : Nat) (l : List CmdRec) : (s.setQueue n l).dram = s.dram := rfl
@[simp] theorem State.setQueue_power (s : State) (n : Nat) (l : List CmdRec) : (s.setQueue n l).power = s.power := rfl
@[simp] theorem State.setQueue_ras (s : State) (n : Nat) (l : List CmdRec) : (s.setQueue n l).ras = s.ras := rfl
@[simp] theorem State.setQueue_life (s : State) (n : Nat) (l : List CmdRec) : (s.setQueue n l).life = s.life := rfl
@[simp] theorem State.setQueue_boot (s : State) (n : Nat) (l : List CmdRec) : (s.setQueue n l).boot = s.boot := rfl
@[simp] theorem State.setQueue_links (s : State) (n : Nat) (l : List CmdRec) : (s.setQueue n l).links = s.links := rfl
@[simp] theorem State.setQueue_l2 (s : State) (n : Nat) (l : List CmdRec) : (s.setQueue n l).l2 = s.l2 := rfl
@[simp] theorem State.setQueue_upsets (s : State) (n : Nat) (l : List CmdRec) : (s.setQueue n l).upsets = s.upsets := rfl
@[simp] theorem State.setQueue_held (s : State) (n : Nat) (l : List CmdRec) : (s.setQueue n l).held = s.held := rfl
@[simp] theorem State.setQueue_posted (s : State) (n : Nat) (l : List CmdRec) : (s.setQueue n l).posted = s.posted := rfl

@[simp] theorem State.setPoison_hart (s : State) (a : Nat) : (s.setPoison a).hart = s.hart := rfl
@[simp] theorem State.setPoison_others (s : State) (a : Nat) : (s.setPoison a).others = s.others := rfl
@[simp] theorem State.setPoison_agenda (s : State) (a : Nat) : (s.setPoison a).agenda = s.agenda := rfl
@[simp] theorem State.setPoison_policy (s : State) (a : Nat) : (s.setPoison a).policy = s.policy := rfl
@[simp] theorem State.setPoison_tick (s : State) (a : Nat) : (s.setPoison a).tick = s.tick := rfl
@[simp] theorem State.setPoison_fresh (s : State) (a : Nat) : (s.setPoison a).fresh = s.fresh := rfl
@[simp] theorem State.setPoison_time (s : State) (a : Nat) : (s.setPoison a).time = s.time := rfl
@[simp] theorem State.setPoison_mem (s : State) (a : Nat) : (s.setPoison a).mem = s.mem := rfl
@[simp] theorem State.setPoison_poison (s : State) (a : Nat) : (s.setPoison a).poison = setIns s.poison a := rfl
@[simp] theorem State.setPoison_cores (s : State) (a : Nat) : (s.setPoison a).cores = s.cores := rfl
@[simp] theorem State.setPoison_benches (s : State) (a : Nat) : (s.setPoison a).benches = s.benches := rfl
@[simp] theorem State.setPoison_farms (s : State) (a : Nat) : (s.setPoison a).farms = s.farms := rfl
@[simp] theorem State.setPoison_parts (s : State) (a : Nat) : (s.setPoison a).parts = s.parts := rfl
@[simp] theorem State.setPoison_engines (s : State) (a : Nat) : (s.setPoison a).engines = s.engines := rfl
@[simp] theorem State.setPoison_snaps (s : State) (a : Nat) : (s.setPoison a).snaps = s.snaps := rfl
@[simp] theorem State.setPoison_owed (s : State) (a : Nat) : (s.setPoison a).owed = s.owed := rfl
@[simp] theorem State.setPoison_awaits (s : State) (a : Nat) : (s.setPoison a).awaits = s.awaits := rfl
@[simp] theorem State.setPoison_ctxs (s : State) (a : Nat) : (s.setPoison a).ctxs = s.ctxs := rfl
@[simp] theorem State.setPoison_fabric (s : State) (a : Nat) : (s.setPoison a).fabric = s.fabric := rfl
@[simp] theorem State.setPoison_dram (s : State) (a : Nat) : (s.setPoison a).dram = s.dram := rfl
@[simp] theorem State.setPoison_power (s : State) (a : Nat) : (s.setPoison a).power = s.power := rfl
@[simp] theorem State.setPoison_ras (s : State) (a : Nat) : (s.setPoison a).ras = s.ras := rfl
@[simp] theorem State.setPoison_life (s : State) (a : Nat) : (s.setPoison a).life = s.life := rfl
@[simp] theorem State.setPoison_boot (s : State) (a : Nat) : (s.setPoison a).boot = s.boot := rfl
@[simp] theorem State.setPoison_links (s : State) (a : Nat) : (s.setPoison a).links = s.links := rfl
@[simp] theorem State.setPoison_l2 (s : State) (a : Nat) : (s.setPoison a).l2 = s.l2 := rfl
@[simp] theorem State.setPoison_upsets (s : State) (a : Nat) : (s.setPoison a).upsets = s.upsets := rfl
@[simp] theorem State.setPoison_held (s : State) (a : Nat) : (s.setPoison a).held = s.held := rfl
@[simp] theorem State.setPoison_posted (s : State) (a : Nat) : (s.setPoison a).posted = s.posted := rfl

@[simp] theorem State.clearPoison_hart (s : State) (a : Nat) : (s.clearPoison a).hart = s.hart := rfl
@[simp] theorem State.clearPoison_others (s : State) (a : Nat) : (s.clearPoison a).others = s.others := rfl
@[simp] theorem State.clearPoison_agenda (s : State) (a : Nat) : (s.clearPoison a).agenda = s.agenda := rfl
@[simp] theorem State.clearPoison_policy (s : State) (a : Nat) : (s.clearPoison a).policy = s.policy := rfl
@[simp] theorem State.clearPoison_tick (s : State) (a : Nat) : (s.clearPoison a).tick = s.tick := rfl
@[simp] theorem State.clearPoison_fresh (s : State) (a : Nat) : (s.clearPoison a).fresh = s.fresh := rfl
@[simp] theorem State.clearPoison_time (s : State) (a : Nat) : (s.clearPoison a).time = s.time := rfl
@[simp] theorem State.clearPoison_mem (s : State) (a : Nat) : (s.clearPoison a).mem = s.mem := rfl
@[simp] theorem State.clearPoison_poison (s : State) (a : Nat) : (s.clearPoison a).poison = setDel s.poison a := rfl
@[simp] theorem State.clearPoison_cores (s : State) (a : Nat) : (s.clearPoison a).cores = s.cores := rfl
@[simp] theorem State.clearPoison_benches (s : State) (a : Nat) : (s.clearPoison a).benches = s.benches := rfl
@[simp] theorem State.clearPoison_farms (s : State) (a : Nat) : (s.clearPoison a).farms = s.farms := rfl
@[simp] theorem State.clearPoison_parts (s : State) (a : Nat) : (s.clearPoison a).parts = s.parts := rfl
@[simp] theorem State.clearPoison_engines (s : State) (a : Nat) : (s.clearPoison a).engines = s.engines := rfl
@[simp] theorem State.clearPoison_snaps (s : State) (a : Nat) : (s.clearPoison a).snaps = s.snaps := rfl
@[simp] theorem State.clearPoison_owed (s : State) (a : Nat) : (s.clearPoison a).owed = s.owed := rfl
@[simp] theorem State.clearPoison_awaits (s : State) (a : Nat) : (s.clearPoison a).awaits = s.awaits := rfl
@[simp] theorem State.clearPoison_ctxs (s : State) (a : Nat) : (s.clearPoison a).ctxs = s.ctxs := rfl
@[simp] theorem State.clearPoison_fabric (s : State) (a : Nat) : (s.clearPoison a).fabric = s.fabric := rfl
@[simp] theorem State.clearPoison_dram (s : State) (a : Nat) : (s.clearPoison a).dram = s.dram := rfl
@[simp] theorem State.clearPoison_power (s : State) (a : Nat) : (s.clearPoison a).power = s.power := rfl
@[simp] theorem State.clearPoison_ras (s : State) (a : Nat) : (s.clearPoison a).ras = s.ras := rfl
@[simp] theorem State.clearPoison_life (s : State) (a : Nat) : (s.clearPoison a).life = s.life := rfl
@[simp] theorem State.clearPoison_boot (s : State) (a : Nat) : (s.clearPoison a).boot = s.boot := rfl
@[simp] theorem State.clearPoison_links (s : State) (a : Nat) : (s.clearPoison a).links = s.links := rfl
@[simp] theorem State.clearPoison_l2 (s : State) (a : Nat) : (s.clearPoison a).l2 = s.l2 := rfl
@[simp] theorem State.clearPoison_upsets (s : State) (a : Nat) : (s.clearPoison a).upsets = s.upsets := rfl
@[simp] theorem State.clearPoison_held (s : State) (a : Nat) : (s.clearPoison a).held = s.held := rfl
@[simp] theorem State.clearPoison_posted (s : State) (a : Nat) : (s.clearPoison a).posted = s.posted := rfl

@[simp] theorem State.setPart_hart (s : State) (p : BitVec 3) (q : Part) : (s.setPart p q).hart = s.hart := rfl
@[simp] theorem State.setPart_others (s : State) (p : BitVec 3) (q : Part) : (s.setPart p q).others = s.others := rfl
@[simp] theorem State.setPart_agenda (s : State) (p : BitVec 3) (q : Part) : (s.setPart p q).agenda = s.agenda := rfl
@[simp] theorem State.setPart_policy (s : State) (p : BitVec 3) (q : Part) : (s.setPart p q).policy = s.policy := rfl
@[simp] theorem State.setPart_tick (s : State) (p : BitVec 3) (q : Part) : (s.setPart p q).tick = s.tick := rfl
@[simp] theorem State.setPart_fresh (s : State) (p : BitVec 3) (q : Part) : (s.setPart p q).fresh = s.fresh := rfl
@[simp] theorem State.setPart_time (s : State) (p : BitVec 3) (q : Part) : (s.setPart p q).time = s.time := rfl
@[simp] theorem State.setPart_mem (s : State) (p : BitVec 3) (q : Part) : (s.setPart p q).mem = s.mem := rfl
@[simp] theorem State.setPart_poison (s : State) (p : BitVec 3) (q : Part) : (s.setPart p q).poison = s.poison := rfl
@[simp] theorem State.setPart_cores (s : State) (p : BitVec 3) (q : Part) : (s.setPart p q).cores = s.cores := rfl
@[simp] theorem State.setPart_benches (s : State) (p : BitVec 3) (q : Part) : (s.setPart p q).benches = s.benches := rfl
@[simp] theorem State.setPart_farms (s : State) (p : BitVec 3) (q : Part) : (s.setPart p q).farms = s.farms := rfl
@[simp] theorem State.setPart_engines (s : State) (p : BitVec 3) (q : Part) : (s.setPart p q).engines = s.engines := rfl
@[simp] theorem State.setPart_snaps (s : State) (p : BitVec 3) (q : Part) : (s.setPart p q).snaps = s.snaps := rfl
@[simp] theorem State.setPart_owed (s : State) (p : BitVec 3) (q : Part) : (s.setPart p q).owed = s.owed := rfl
@[simp] theorem State.setPart_awaits (s : State) (p : BitVec 3) (q : Part) : (s.setPart p q).awaits = s.awaits := rfl
@[simp] theorem State.setPart_ctxs (s : State) (p : BitVec 3) (q : Part) : (s.setPart p q).ctxs = s.ctxs := rfl
@[simp] theorem State.setPart_fabric (s : State) (p : BitVec 3) (q : Part) : (s.setPart p q).fabric = s.fabric := rfl
@[simp] theorem State.setPart_dram (s : State) (p : BitVec 3) (q : Part) : (s.setPart p q).dram = s.dram := rfl
@[simp] theorem State.setPart_power (s : State) (p : BitVec 3) (q : Part) : (s.setPart p q).power = s.power := rfl
@[simp] theorem State.setPart_ras (s : State) (p : BitVec 3) (q : Part) : (s.setPart p q).ras = s.ras := rfl
@[simp] theorem State.setPart_life (s : State) (p : BitVec 3) (q : Part) : (s.setPart p q).life = s.life := rfl
@[simp] theorem State.setPart_boot (s : State) (p : BitVec 3) (q : Part) : (s.setPart p q).boot = s.boot := rfl
@[simp] theorem State.setPart_links (s : State) (p : BitVec 3) (q : Part) : (s.setPart p q).links = s.links := rfl
@[simp] theorem State.setPart_l2 (s : State) (p : BitVec 3) (q : Part) : (s.setPart p q).l2 = s.l2 := rfl
@[simp] theorem State.setPart_upsets (s : State) (p : BitVec 3) (q : Part) : (s.setPart p q).upsets = s.upsets := rfl
@[simp] theorem State.setPart_held (s : State) (p : BitVec 3) (q : Part) : (s.setPart p q).held = s.held := rfl
@[simp] theorem State.setPart_posted (s : State) (p : BitVec 3) (q : Part) : (s.setPart p q).posted = s.posted := rfl

@[simp] theorem State.sendMsix_hart (s : State) (f v : Nat) : (s.sendMsix f v).hart = s.hart := rfl
@[simp] theorem State.sendMsix_others (s : State) (f v : Nat) : (s.sendMsix f v).others = s.others := rfl
@[simp] theorem State.sendMsix_agenda (s : State) (f v : Nat) : (s.sendMsix f v).agenda = s.agenda := rfl
@[simp] theorem State.sendMsix_policy (s : State) (f v : Nat) : (s.sendMsix f v).policy = s.policy := rfl
@[simp] theorem State.sendMsix_tick (s : State) (f v : Nat) : (s.sendMsix f v).tick = s.tick := rfl
@[simp] theorem State.sendMsix_fresh (s : State) (f v : Nat) : (s.sendMsix f v).fresh = s.fresh := rfl
@[simp] theorem State.sendMsix_time (s : State) (f v : Nat) : (s.sendMsix f v).time = s.time := rfl
@[simp] theorem State.sendMsix_mem (s : State) (f v : Nat) : (s.sendMsix f v).mem = s.mem := rfl
@[simp] theorem State.sendMsix_poison (s : State) (f v : Nat) : (s.sendMsix f v).poison = s.poison := rfl
@[simp] theorem State.sendMsix_cores (s : State) (f v : Nat) : (s.sendMsix f v).cores = s.cores := rfl
@[simp] theorem State.sendMsix_benches (s : State) (f v : Nat) : (s.sendMsix f v).benches = s.benches := rfl
@[simp] theorem State.sendMsix_farms (s : State) (f v : Nat) : (s.sendMsix f v).farms = s.farms := rfl
@[simp] theorem State.sendMsix_parts (s : State) (f v : Nat) : (s.sendMsix f v).parts = s.parts := rfl
@[simp] theorem State.sendMsix_engines (s : State) (f v : Nat) : (s.sendMsix f v).engines = s.engines := rfl
@[simp] theorem State.sendMsix_snaps (s : State) (f v : Nat) : (s.sendMsix f v).snaps = s.snaps := rfl
@[simp] theorem State.sendMsix_owed (s : State) (f v : Nat) : (s.sendMsix f v).owed = s.owed := rfl
@[simp] theorem State.sendMsix_awaits (s : State) (f v : Nat) : (s.sendMsix f v).awaits = s.awaits := rfl
@[simp] theorem State.sendMsix_ctxs (s : State) (f v : Nat) : (s.sendMsix f v).ctxs = s.ctxs := rfl
@[simp] theorem State.sendMsix_fabric (s : State) (f v : Nat) : (s.sendMsix f v).fabric = s.fabric := rfl
@[simp] theorem State.sendMsix_dram (s : State) (f v : Nat) : (s.sendMsix f v).dram = s.dram := rfl
@[simp] theorem State.sendMsix_power (s : State) (f v : Nat) : (s.sendMsix f v).power = s.power := rfl
@[simp] theorem State.sendMsix_ras (s : State) (f v : Nat) : (s.sendMsix f v).ras = s.ras := rfl
@[simp] theorem State.sendMsix_life (s : State) (f v : Nat) : (s.sendMsix f v).life = s.life := rfl
@[simp] theorem State.sendMsix_boot (s : State) (f v : Nat) : (s.sendMsix f v).boot = s.boot := rfl
@[simp] theorem State.sendMsix_l2 (s : State) (f v : Nat) : (s.sendMsix f v).l2 = s.l2 := rfl
@[simp] theorem State.sendMsix_upsets (s : State) (f v : Nat) : (s.sendMsix f v).upsets = s.upsets := rfl
@[simp] theorem State.sendMsix_held (s : State) (f v : Nat) : (s.sendMsix f v).held = s.held := rfl
@[simp] theorem State.sendMsix_posted (s : State) (f v : Nat) : (s.sendMsix f v).posted = s.posted := rfl

@[simp] theorem State.count_hart (s : State) (off n : Nat) : (s.count off n).hart = s.hart := rfl
@[simp] theorem State.count_others (s : State) (off n : Nat) : (s.count off n).others = s.others := rfl
@[simp] theorem State.count_agenda (s : State) (off n : Nat) : (s.count off n).agenda = s.agenda := rfl
@[simp] theorem State.count_policy (s : State) (off n : Nat) : (s.count off n).policy = s.policy := rfl
@[simp] theorem State.count_tick (s : State) (off n : Nat) : (s.count off n).tick = s.tick := rfl
@[simp] theorem State.count_fresh (s : State) (off n : Nat) : (s.count off n).fresh = s.fresh := rfl
@[simp] theorem State.count_time (s : State) (off n : Nat) : (s.count off n).time = s.time := rfl
@[simp] theorem State.count_mem (s : State) (off n : Nat) : (s.count off n).mem = s.mem := rfl
@[simp] theorem State.count_poison (s : State) (off n : Nat) : (s.count off n).poison = s.poison := rfl
@[simp] theorem State.count_cores (s : State) (off n : Nat) : (s.count off n).cores = s.cores := rfl
@[simp] theorem State.count_benches (s : State) (off n : Nat) : (s.count off n).benches = s.benches := rfl
@[simp] theorem State.count_farms (s : State) (off n : Nat) : (s.count off n).farms = s.farms := rfl
@[simp] theorem State.count_parts (s : State) (off n : Nat) : (s.count off n).parts = s.parts := rfl
@[simp] theorem State.count_engines (s : State) (off n : Nat) : (s.count off n).engines = s.engines := rfl
@[simp] theorem State.count_snaps (s : State) (off n : Nat) : (s.count off n).snaps = s.snaps := rfl
@[simp] theorem State.count_owed (s : State) (off n : Nat) : (s.count off n).owed = s.owed := rfl
@[simp] theorem State.count_awaits (s : State) (off n : Nat) : (s.count off n).awaits = s.awaits := rfl
@[simp] theorem State.count_ctxs (s : State) (off n : Nat) : (s.count off n).ctxs = s.ctxs := rfl
@[simp] theorem State.count_fabric (s : State) (off n : Nat) : (s.count off n).fabric = s.fabric := rfl
@[simp] theorem State.count_dram (s : State) (off n : Nat) : (s.count off n).dram = s.dram := rfl
@[simp] theorem State.count_power (s : State) (off n : Nat) : (s.count off n).power = s.power := rfl
@[simp] theorem State.count_ras (s : State) (off n : Nat) : (s.count off n).ras = s.ras := rfl
@[simp] theorem State.count_boot (s : State) (off n : Nat) : (s.count off n).boot = s.boot := rfl
@[simp] theorem State.count_links (s : State) (off n : Nat) : (s.count off n).links = s.links := rfl
@[simp] theorem State.count_l2 (s : State) (off n : Nat) : (s.count off n).l2 = s.l2 := rfl
@[simp] theorem State.count_upsets (s : State) (off n : Nat) : (s.count off n).upsets = s.upsets := rfl
@[simp] theorem State.count_held (s : State) (off n : Nat) : (s.count off n).held = s.held := rfl
@[simp] theorem State.count_posted (s : State) (off n : Nat) : (s.count off n).posted = s.posted := rfl

@[simp] theorem State.updFarm_hart (s : State) (n : BitVec 16) (f : Farm → Farm) : (s.updFarm n f).hart = s.hart := rfl
@[simp] theorem State.updFarm_others (s : State) (n : BitVec 16) (f : Farm → Farm) : (s.updFarm n f).others = s.others := rfl
@[simp] theorem State.updFarm_agenda (s : State) (n : BitVec 16) (f : Farm → Farm) : (s.updFarm n f).agenda = s.agenda := rfl
@[simp] theorem State.updFarm_policy (s : State) (n : BitVec 16) (f : Farm → Farm) : (s.updFarm n f).policy = s.policy := rfl
@[simp] theorem State.updFarm_tick (s : State) (n : BitVec 16) (f : Farm → Farm) : (s.updFarm n f).tick = s.tick := rfl
@[simp] theorem State.updFarm_fresh (s : State) (n : BitVec 16) (f : Farm → Farm) : (s.updFarm n f).fresh = s.fresh := rfl
@[simp] theorem State.updFarm_time (s : State) (n : BitVec 16) (f : Farm → Farm) : (s.updFarm n f).time = s.time := rfl
@[simp] theorem State.updFarm_mem (s : State) (n : BitVec 16) (f : Farm → Farm) : (s.updFarm n f).mem = s.mem := rfl
@[simp] theorem State.updFarm_poison (s : State) (n : BitVec 16) (f : Farm → Farm) : (s.updFarm n f).poison = s.poison := rfl
@[simp] theorem State.updFarm_cores (s : State) (n : BitVec 16) (f : Farm → Farm) : (s.updFarm n f).cores = s.cores := rfl
@[simp] theorem State.updFarm_benches (s : State) (n : BitVec 16) (f : Farm → Farm) : (s.updFarm n f).benches = s.benches := rfl
@[simp] theorem State.updFarm_parts (s : State) (n : BitVec 16) (f : Farm → Farm) : (s.updFarm n f).parts = s.parts := rfl
@[simp] theorem State.updFarm_engines (s : State) (n : BitVec 16) (f : Farm → Farm) : (s.updFarm n f).engines = s.engines := rfl
@[simp] theorem State.updFarm_snaps (s : State) (n : BitVec 16) (f : Farm → Farm) : (s.updFarm n f).snaps = s.snaps := rfl
@[simp] theorem State.updFarm_owed (s : State) (n : BitVec 16) (f : Farm → Farm) : (s.updFarm n f).owed = s.owed := rfl
@[simp] theorem State.updFarm_awaits (s : State) (n : BitVec 16) (f : Farm → Farm) : (s.updFarm n f).awaits = s.awaits := rfl
@[simp] theorem State.updFarm_ctxs (s : State) (n : BitVec 16) (f : Farm → Farm) : (s.updFarm n f).ctxs = s.ctxs := rfl
@[simp] theorem State.updFarm_fabric (s : State) (n : BitVec 16) (f : Farm → Farm) : (s.updFarm n f).fabric = s.fabric := rfl
@[simp] theorem State.updFarm_dram (s : State) (n : BitVec 16) (f : Farm → Farm) : (s.updFarm n f).dram = s.dram := rfl
@[simp] theorem State.updFarm_power (s : State) (n : BitVec 16) (f : Farm → Farm) : (s.updFarm n f).power = s.power := rfl
@[simp] theorem State.updFarm_ras (s : State) (n : BitVec 16) (f : Farm → Farm) : (s.updFarm n f).ras = s.ras := rfl
@[simp] theorem State.updFarm_life (s : State) (n : BitVec 16) (f : Farm → Farm) : (s.updFarm n f).life = s.life := rfl
@[simp] theorem State.updFarm_boot (s : State) (n : BitVec 16) (f : Farm → Farm) : (s.updFarm n f).boot = s.boot := rfl
@[simp] theorem State.updFarm_links (s : State) (n : BitVec 16) (f : Farm → Farm) : (s.updFarm n f).links = s.links := rfl
@[simp] theorem State.updFarm_l2 (s : State) (n : BitVec 16) (f : Farm → Farm) : (s.updFarm n f).l2 = s.l2 := rfl
@[simp] theorem State.updFarm_upsets (s : State) (n : BitVec 16) (f : Farm → Farm) : (s.updFarm n f).upsets = s.upsets := rfl
@[simp] theorem State.updFarm_held (s : State) (n : BitVec 16) (f : Farm → Farm) : (s.updFarm n f).held = s.held := rfl
@[simp] theorem State.updFarm_posted (s : State) (n : BitVec 16) (f : Farm → Farm) : (s.updFarm n f).posted = s.posted := rfl

@[simp] theorem State.updPort_hart (s : State) (q : Nat) (f : Port → Port) : (s.updPort q f).hart = s.hart := rfl
@[simp] theorem State.updPort_others (s : State) (q : Nat) (f : Port → Port) : (s.updPort q f).others = s.others := rfl
@[simp] theorem State.updPort_agenda (s : State) (q : Nat) (f : Port → Port) : (s.updPort q f).agenda = s.agenda := rfl
@[simp] theorem State.updPort_policy (s : State) (q : Nat) (f : Port → Port) : (s.updPort q f).policy = s.policy := rfl
@[simp] theorem State.updPort_tick (s : State) (q : Nat) (f : Port → Port) : (s.updPort q f).tick = s.tick := rfl
@[simp] theorem State.updPort_fresh (s : State) (q : Nat) (f : Port → Port) : (s.updPort q f).fresh = s.fresh := rfl
@[simp] theorem State.updPort_time (s : State) (q : Nat) (f : Port → Port) : (s.updPort q f).time = s.time := rfl
@[simp] theorem State.updPort_mem (s : State) (q : Nat) (f : Port → Port) : (s.updPort q f).mem = s.mem := rfl
@[simp] theorem State.updPort_poison (s : State) (q : Nat) (f : Port → Port) : (s.updPort q f).poison = s.poison := rfl
@[simp] theorem State.updPort_cores (s : State) (q : Nat) (f : Port → Port) : (s.updPort q f).cores = s.cores := rfl
@[simp] theorem State.updPort_benches (s : State) (q : Nat) (f : Port → Port) : (s.updPort q f).benches = s.benches := rfl
@[simp] theorem State.updPort_farms (s : State) (q : Nat) (f : Port → Port) : (s.updPort q f).farms = s.farms := rfl
@[simp] theorem State.updPort_parts (s : State) (q : Nat) (f : Port → Port) : (s.updPort q f).parts = s.parts := rfl
@[simp] theorem State.updPort_engines (s : State) (q : Nat) (f : Port → Port) : (s.updPort q f).engines = s.engines := rfl
@[simp] theorem State.updPort_snaps (s : State) (q : Nat) (f : Port → Port) : (s.updPort q f).snaps = s.snaps := rfl
@[simp] theorem State.updPort_owed (s : State) (q : Nat) (f : Port → Port) : (s.updPort q f).owed = s.owed := rfl
@[simp] theorem State.updPort_awaits (s : State) (q : Nat) (f : Port → Port) : (s.updPort q f).awaits = s.awaits := rfl
@[simp] theorem State.updPort_ctxs (s : State) (q : Nat) (f : Port → Port) : (s.updPort q f).ctxs = s.ctxs := rfl
@[simp] theorem State.updPort_dram (s : State) (q : Nat) (f : Port → Port) : (s.updPort q f).dram = s.dram := rfl
@[simp] theorem State.updPort_power (s : State) (q : Nat) (f : Port → Port) : (s.updPort q f).power = s.power := rfl
@[simp] theorem State.updPort_ras (s : State) (q : Nat) (f : Port → Port) : (s.updPort q f).ras = s.ras := rfl
@[simp] theorem State.updPort_life (s : State) (q : Nat) (f : Port → Port) : (s.updPort q f).life = s.life := rfl
@[simp] theorem State.updPort_boot (s : State) (q : Nat) (f : Port → Port) : (s.updPort q f).boot = s.boot := rfl
@[simp] theorem State.updPort_links (s : State) (q : Nat) (f : Port → Port) : (s.updPort q f).links = s.links := rfl
@[simp] theorem State.updPort_l2 (s : State) (q : Nat) (f : Port → Port) : (s.updPort q f).l2 = s.l2 := rfl
@[simp] theorem State.updPort_upsets (s : State) (q : Nat) (f : Port → Port) : (s.updPort q f).upsets = s.upsets := rfl
@[simp] theorem State.updPort_held (s : State) (q : Nat) (f : Port → Port) : (s.updPort q f).held = s.held := rfl
@[simp] theorem State.updPort_posted (s : State) (q : Nat) (f : Port → Port) : (s.updPort q f).posted = s.posted := rfl

@[simp] theorem State.setSnap_hart (s : State) (n : Nat) (f : Snap → Option Snap) : (s.setSnap n f).hart = s.hart := rfl
@[simp] theorem State.setSnap_others (s : State) (n : Nat) (f : Snap → Option Snap) : (s.setSnap n f).others = s.others := rfl
@[simp] theorem State.setSnap_agenda (s : State) (n : Nat) (f : Snap → Option Snap) : (s.setSnap n f).agenda = s.agenda := rfl
@[simp] theorem State.setSnap_policy (s : State) (n : Nat) (f : Snap → Option Snap) : (s.setSnap n f).policy = s.policy := rfl
@[simp] theorem State.setSnap_tick (s : State) (n : Nat) (f : Snap → Option Snap) : (s.setSnap n f).tick = s.tick := rfl
@[simp] theorem State.setSnap_fresh (s : State) (n : Nat) (f : Snap → Option Snap) : (s.setSnap n f).fresh = s.fresh := rfl
@[simp] theorem State.setSnap_time (s : State) (n : Nat) (f : Snap → Option Snap) : (s.setSnap n f).time = s.time := rfl
@[simp] theorem State.setSnap_mem (s : State) (n : Nat) (f : Snap → Option Snap) : (s.setSnap n f).mem = s.mem := rfl
@[simp] theorem State.setSnap_poison (s : State) (n : Nat) (f : Snap → Option Snap) : (s.setSnap n f).poison = s.poison := rfl
@[simp] theorem State.setSnap_cores (s : State) (n : Nat) (f : Snap → Option Snap) : (s.setSnap n f).cores = s.cores := rfl
@[simp] theorem State.setSnap_benches (s : State) (n : Nat) (f : Snap → Option Snap) : (s.setSnap n f).benches = s.benches := rfl
@[simp] theorem State.setSnap_farms (s : State) (n : Nat) (f : Snap → Option Snap) : (s.setSnap n f).farms = s.farms := rfl
@[simp] theorem State.setSnap_parts (s : State) (n : Nat) (f : Snap → Option Snap) : (s.setSnap n f).parts = s.parts := rfl
@[simp] theorem State.setSnap_engines (s : State) (n : Nat) (f : Snap → Option Snap) : (s.setSnap n f).engines = s.engines := rfl
@[simp] theorem State.setSnap_owed (s : State) (n : Nat) (f : Snap → Option Snap) : (s.setSnap n f).owed = s.owed := rfl
@[simp] theorem State.setSnap_awaits (s : State) (n : Nat) (f : Snap → Option Snap) : (s.setSnap n f).awaits = s.awaits := rfl
@[simp] theorem State.setSnap_ctxs (s : State) (n : Nat) (f : Snap → Option Snap) : (s.setSnap n f).ctxs = s.ctxs := rfl
@[simp] theorem State.setSnap_fabric (s : State) (n : Nat) (f : Snap → Option Snap) : (s.setSnap n f).fabric = s.fabric := rfl
@[simp] theorem State.setSnap_dram (s : State) (n : Nat) (f : Snap → Option Snap) : (s.setSnap n f).dram = s.dram := rfl
@[simp] theorem State.setSnap_power (s : State) (n : Nat) (f : Snap → Option Snap) : (s.setSnap n f).power = s.power := rfl
@[simp] theorem State.setSnap_ras (s : State) (n : Nat) (f : Snap → Option Snap) : (s.setSnap n f).ras = s.ras := rfl
@[simp] theorem State.setSnap_life (s : State) (n : Nat) (f : Snap → Option Snap) : (s.setSnap n f).life = s.life := rfl
@[simp] theorem State.setSnap_boot (s : State) (n : Nat) (f : Snap → Option Snap) : (s.setSnap n f).boot = s.boot := rfl
@[simp] theorem State.setSnap_links (s : State) (n : Nat) (f : Snap → Option Snap) : (s.setSnap n f).links = s.links := rfl
@[simp] theorem State.setSnap_l2 (s : State) (n : Nat) (f : Snap → Option Snap) : (s.setSnap n f).l2 = s.l2 := rfl
@[simp] theorem State.setSnap_upsets (s : State) (n : Nat) (f : Snap → Option Snap) : (s.setSnap n f).upsets = s.upsets := rfl
@[simp] theorem State.setSnap_held (s : State) (n : Nat) (f : Snap → Option Snap) : (s.setSnap n f).held = s.held := rfl
@[simp] theorem State.setSnap_posted (s : State) (n : Nat) (f : Snap → Option Snap) : (s.setSnap n f).posted = s.posted := rfl

@[simp] theorem State.updChannel_hart (s : State) (c : Nat) (f : Channel → Channel) : (s.updChannel c f).hart = s.hart := rfl
@[simp] theorem State.updChannel_others (s : State) (c : Nat) (f : Channel → Channel) : (s.updChannel c f).others = s.others := rfl
@[simp] theorem State.updChannel_agenda (s : State) (c : Nat) (f : Channel → Channel) : (s.updChannel c f).agenda = s.agenda := rfl
@[simp] theorem State.updChannel_policy (s : State) (c : Nat) (f : Channel → Channel) : (s.updChannel c f).policy = s.policy := rfl
@[simp] theorem State.updChannel_tick (s : State) (c : Nat) (f : Channel → Channel) : (s.updChannel c f).tick = s.tick := rfl
@[simp] theorem State.updChannel_fresh (s : State) (c : Nat) (f : Channel → Channel) : (s.updChannel c f).fresh = s.fresh := rfl
@[simp] theorem State.updChannel_time (s : State) (c : Nat) (f : Channel → Channel) : (s.updChannel c f).time = s.time := rfl
@[simp] theorem State.updChannel_mem (s : State) (c : Nat) (f : Channel → Channel) : (s.updChannel c f).mem = s.mem := rfl
@[simp] theorem State.updChannel_poison (s : State) (c : Nat) (f : Channel → Channel) : (s.updChannel c f).poison = s.poison := rfl
@[simp] theorem State.updChannel_cores (s : State) (c : Nat) (f : Channel → Channel) : (s.updChannel c f).cores = s.cores := rfl
@[simp] theorem State.updChannel_benches (s : State) (c : Nat) (f : Channel → Channel) : (s.updChannel c f).benches = s.benches := rfl
@[simp] theorem State.updChannel_farms (s : State) (c : Nat) (f : Channel → Channel) : (s.updChannel c f).farms = s.farms := rfl
@[simp] theorem State.updChannel_parts (s : State) (c : Nat) (f : Channel → Channel) : (s.updChannel c f).parts = s.parts := rfl
@[simp] theorem State.updChannel_engines (s : State) (c : Nat) (f : Channel → Channel) : (s.updChannel c f).engines = s.engines := rfl
@[simp] theorem State.updChannel_snaps (s : State) (c : Nat) (f : Channel → Channel) : (s.updChannel c f).snaps = s.snaps := rfl
@[simp] theorem State.updChannel_owed (s : State) (c : Nat) (f : Channel → Channel) : (s.updChannel c f).owed = s.owed := rfl
@[simp] theorem State.updChannel_awaits (s : State) (c : Nat) (f : Channel → Channel) : (s.updChannel c f).awaits = s.awaits := rfl
@[simp] theorem State.updChannel_ctxs (s : State) (c : Nat) (f : Channel → Channel) : (s.updChannel c f).ctxs = s.ctxs := rfl
@[simp] theorem State.updChannel_fabric (s : State) (c : Nat) (f : Channel → Channel) : (s.updChannel c f).fabric = s.fabric := rfl
@[simp] theorem State.updChannel_power (s : State) (c : Nat) (f : Channel → Channel) : (s.updChannel c f).power = s.power := rfl
@[simp] theorem State.updChannel_ras (s : State) (c : Nat) (f : Channel → Channel) : (s.updChannel c f).ras = s.ras := rfl
@[simp] theorem State.updChannel_life (s : State) (c : Nat) (f : Channel → Channel) : (s.updChannel c f).life = s.life := rfl
@[simp] theorem State.updChannel_boot (s : State) (c : Nat) (f : Channel → Channel) : (s.updChannel c f).boot = s.boot := rfl
@[simp] theorem State.updChannel_links (s : State) (c : Nat) (f : Channel → Channel) : (s.updChannel c f).links = s.links := rfl
@[simp] theorem State.updChannel_l2 (s : State) (c : Nat) (f : Channel → Channel) : (s.updChannel c f).l2 = s.l2 := rfl
@[simp] theorem State.updChannel_upsets (s : State) (c : Nat) (f : Channel → Channel) : (s.updChannel c f).upsets = s.upsets := rfl
@[simp] theorem State.updChannel_held (s : State) (c : Nat) (f : Channel → Channel) : (s.updChannel c f).held = s.held := rfl
@[simp] theorem State.updChannel_posted (s : State) (c : Nat) (f : Channel → Channel) : (s.updChannel c f).posted = s.posted := rfl

@[simp] theorem State.took_hart (s : State) (m : Message) : (s.took m).hart = s.hart := rfl
@[simp] theorem State.took_others (s : State) (m : Message) : (s.took m).others = s.others := rfl
@[simp] theorem State.took_agenda (s : State) (m : Message) : (s.took m).agenda = s.agenda := rfl
@[simp] theorem State.took_policy (s : State) (m : Message) : (s.took m).policy = s.policy := rfl
@[simp] theorem State.took_tick (s : State) (m : Message) : (s.took m).tick = s.tick := rfl
@[simp] theorem State.took_fresh (s : State) (m : Message) : (s.took m).fresh = s.fresh := rfl
@[simp] theorem State.took_time (s : State) (m : Message) : (s.took m).time = s.time := rfl
@[simp] theorem State.took_mem (s : State) (m : Message) : (s.took m).mem = s.mem := rfl
@[simp] theorem State.took_poison (s : State) (m : Message) : (s.took m).poison = s.poison := rfl
@[simp] theorem State.took_cores (s : State) (m : Message) : (s.took m).cores = s.cores := rfl
@[simp] theorem State.took_benches (s : State) (m : Message) : (s.took m).benches = s.benches := rfl
@[simp] theorem State.took_farms (s : State) (m : Message) : (s.took m).farms = s.farms := rfl
@[simp] theorem State.took_parts (s : State) (m : Message) : (s.took m).parts = s.parts := rfl
@[simp] theorem State.took_engines (s : State) (m : Message) : (s.took m).engines = s.engines := rfl
@[simp] theorem State.took_snaps (s : State) (m : Message) : (s.took m).snaps = s.snaps := rfl
@[simp] theorem State.took_owed (s : State) (m : Message) : (s.took m).owed = s.owed := rfl
@[simp] theorem State.took_awaits (s : State) (m : Message) : (s.took m).awaits = s.awaits := rfl
@[simp] theorem State.took_ctxs (s : State) (m : Message) : (s.took m).ctxs = s.ctxs := rfl
@[simp] theorem State.took_dram (s : State) (m : Message) : (s.took m).dram = s.dram := rfl
@[simp] theorem State.took_power (s : State) (m : Message) : (s.took m).power = s.power := rfl
@[simp] theorem State.took_ras (s : State) (m : Message) : (s.took m).ras = s.ras := rfl
@[simp] theorem State.took_life (s : State) (m : Message) : (s.took m).life = s.life := rfl
@[simp] theorem State.took_boot (s : State) (m : Message) : (s.took m).boot = s.boot := rfl
@[simp] theorem State.took_links (s : State) (m : Message) : (s.took m).links = s.links := rfl
@[simp] theorem State.took_l2 (s : State) (m : Message) : (s.took m).l2 = s.l2 := rfl
@[simp] theorem State.took_upsets (s : State) (m : Message) : (s.took m).upsets = s.upsets := rfl
@[simp] theorem State.took_held (s : State) (m : Message) : (s.took m).held = s.held := rfl
@[simp] theorem State.took_posted (s : State) (m : Message) : (s.took m).posted = s.posted := rfl

/-! ## Updates of one field of a hart -/

@[simp] theorem Hart.setX_id (h : Hart) (r : Reg) (v : Word) : (h.setX r v).id = h.id := by unfold Hart.setX; split <;> rfl
@[simp] theorem Hart.setX_run (h : Hart) (r : Reg) (v : Word) : (h.setX r v).run = h.run := by unfold Hart.setX; split <;> rfl
@[simp] theorem Hart.setX_yielded (h : Hart) (r : Reg) (v : Word) : (h.setX r v).yielded = h.yielded := by unfold Hart.setX; split <;> rfl
@[simp] theorem Hart.setX_passed (h : Hart) (r : Reg) (v : Word) : (h.setX r v).passed = h.passed := by unfold Hart.setX; split <;> rfl
@[simp] theorem Hart.setX_stalled (h : Hart) (r : Reg) (v : Word) : (h.setX r v).stalled = h.stalled := by unfold Hart.setX; split <;> rfl
@[simp] theorem Hart.setX_fetched (h : Hart) (r : Reg) (v : Word) : (h.setX r v).fetched = h.fetched := by unfold Hart.setX; split <;> rfl
@[simp] theorem Hart.setX_haltAsked (h : Hart) (r : Reg) (v : Word) : (h.setX r v).haltAsked = h.haltAsked := by unfold Hart.setX; split <;> rfl
@[simp] theorem Hart.setX_swapping (h : Hart) (r : Reg) (v : Word) : (h.setX r v).swapping = h.swapping := by unfold Hart.setX; split <;> rfl
@[simp] theorem Hart.setX_bureau (h : Hart) (r : Reg) (v : Word) : (h.setX r v).bureau = h.bureau := by unfold Hart.setX; split <;> rfl
@[simp] theorem Hart.setX_farm (h : Hart) (r : Reg) (v : Word) : (h.setX r v).farm = h.farm := by unfold Hart.setX; split <;> rfl
@[simp] theorem Hart.setX_index (h : Hart) (r : Reg) (v : Word) : (h.setX r v).index = h.index := by unfold Hart.setX; split <;> rfl
@[simp] theorem Hart.setX_image (h : Hart) (r : Reg) (v : Word) : (h.setX r v).image = h.image := by unfold Hart.setX; split <;> rfl
@[simp] theorem Hart.setX_part (h : Hart) (r : Reg) (v : Word) : (h.setX r v).part = h.part := by unfold Hart.setX; split <;> rfl
@[simp] theorem Hart.setX_partid (h : Hart) (r : Reg) (v : Word) : (h.setX r v).partid = h.partid := by unfold Hart.setX; split <;> rfl
@[simp] theorem Hart.setX_pc (h : Hart) (r : Reg) (v : Word) : (h.setX r v).pc = h.pc := by unfold Hart.setX; split <;> rfl
@[simp] theorem Hart.setX_v (h : Hart) (r : Reg) (v : Word) : (h.setX r v).v = h.v := by unfold Hart.setX; split <;> rfl
@[simp] theorem Hart.setX_m (h : Hart) (r : Reg) (v : Word) : (h.setX r v).m = h.m := by unfold Hart.setX; split <;> rfl
@[simp] theorem Hart.setX_k (h : Hart) (r : Reg) (v : Word) : (h.setX r v).k = h.k := by unfold Hart.setX; split <;> rfl
@[simp] theorem Hart.setX_keyTable (h : Hart) (r : Reg) (v : Word) : (h.setX r v).keyTable = h.keyTable := by unfold Hart.setX; split <;> rfl
@[simp] theorem Hart.setX_keyOvf (h : Hart) (r : Reg) (v : Word) : (h.setX r v).keyOvf = h.keyOvf := by unfold Hart.setX; split <;> rfl
@[simp] theorem Hart.setX_streams (h : Hart) (r : Reg) (v : Word) : (h.setX r v).streams = h.streams := by unfold Hart.setX; split <;> rfl
@[simp] theorem Hart.setX_status (h : Hart) (r : Reg) (v : Word) : (h.setX r v).status = h.status := by unfold Hart.setX; split <;> rfl
@[simp] theorem Hart.setX_stripno (h : Hart) (r : Reg) (v : Word) : (h.setX r v).stripno = h.stripno := by unfold Hart.setX; split <;> rfl
@[simp] theorem Hart.setX_vtype (h : Hart) (r : Reg) (v : Word) : (h.setX r v).vtype = h.vtype := by unfold Hart.setX; split <;> rfl
@[simp] theorem Hart.setX_vlg (h : Hart) (r : Reg) (v : Word) : (h.setX r v).vlg = h.vlg := by unfold Hart.setX; split <;> rfl
@[simp] theorem Hart.setX_vlv (h : Hart) (r : Reg) (v : Word) : (h.setX r v).vlv = h.vlv := by unfold Hart.setX; split <;> rfl
@[simp] theorem Hart.setX_vri (h : Hart) (r : Reg) (v : Word) : (h.setX r v).vri = h.vri := by unfold Hart.setX; split <;> rfl
@[simp] theorem Hart.setX_granted (h : Hart) (r : Reg) (v : Word) : (h.setX r v).granted = h.granted := by unfold Hart.setX; split <;> rfl
@[simp] theorem Hart.setX_rscg (h : Hart) (r : Reg) (v : Word) : (h.setX r v).rscg = h.rscg := by unfold Hart.setX; split <;> rfl
@[simp] theorem Hart.setX_moving (h : Hart) (r : Reg) (v : Word) : (h.setX r v).moving = h.moving := by unfold Hart.setX; split <;> rfl
@[simp] theorem Hart.setX_lslip (h : Hart) (r : Reg) (v : Word) : (h.setX r v).lslip = h.lslip := by unfold Hart.setX; split <;> rfl
@[simp] theorem Hart.setX_fflags (h : Hart) (r : Reg) (v : Word) : (h.setX r v).fflags = h.fflags := by unfold Hart.setX; split <;> rfl
@[simp] theorem Hart.setX_partFlags (h : Hart) (r : Reg) (v : Word) : (h.setX r v).partFlags = h.partFlags := by unfold Hart.setX; split <;> rfl
@[simp] theorem Hart.setX_frm (h : Hart) (r : Reg) (v : Word) : (h.setX r v).frm = h.frm := by unfold Hart.setX; split <;> rfl
@[simp] theorem Hart.setX_trapcause (h : Hart) (r : Reg) (v : Word) : (h.setX r v).trapcause = h.trapcause := by unfold Hart.setX; split <;> rfl
@[simp] theorem Hart.setX_trappc (h : Hart) (r : Reg) (v : Word) : (h.setX r v).trappc = h.trappc := by unfold Hart.setX; split <;> rfl
@[simp] theorem Hart.setX_trapval (h : Hart) (r : Reg) (v : Word) : (h.setX r v).trapval = h.trapval := by unfold Hart.setX; split <;> rfl
@[simp] theorem Hart.setX_trapbase (h : Hart) (r : Reg) (v : Word) : (h.setX r v).trapbase = h.trapbase := by unfold Hart.setX; split <;> rfl
@[simp] theorem Hart.setX_trapscratch (h : Hart) (r : Reg) (v : Word) : (h.setX r v).trapscratch = h.trapscratch := by unfold Hart.setX; split <;> rfl
@[simp] theorem Hart.setX_trapstatus (h : Hart) (r : Reg) (v : Word) : (h.setX r v).trapstatus = h.trapstatus := by unfold Hart.setX; split <;> rfl
@[simp] theorem Hart.setX_trapowe (h : Hart) (r : Reg) (v : Word) : (h.setX r v).trapowe = h.trapowe := by unfold Hart.setX; split <;> rfl
@[simp] theorem Hart.setX_skew (h : Hart) (r : Reg) (v : Word) : (h.setX r v).skew = h.skew := by unfold Hart.setX; split <;> rfl
@[simp] theorem Hart.setX_pwrhint (h : Hart) (r : Reg) (v : Word) : (h.setX r v).pwrhint = h.pwrhint := by unfold Hart.setX; split <;> rfl
@[simp] theorem Hart.setX_cycle (h : Hart) (r : Reg) (v : Word) : (h.setX r v).cycle = h.cycle := by unfold Hart.setX; split <;> rfl
@[simp] theorem Hart.setX_instret (h : Hart) (r : Reg) (v : Word) : (h.setX r v).instret = h.instret := by unfold Hart.setX; split <;> rfl
@[simp] theorem Hart.setX_ptbase (h : Hart) (r : Reg) (v : Word) : (h.setX r v).ptbase = h.ptbase := by unfold Hart.setX; split <;> rfl
@[simp] theorem Hart.setX_asid (h : Hart) (r : Reg) (v : Word) : (h.setX r v).asid = h.asid := by unfold Hart.setX; split <;> rfl
@[simp] theorem Hart.setX_g2fval (h : Hart) (r : Reg) (v : Word) : (h.setX r v).g2fval = h.g2fval := by unfold Hart.setX; split <;> rfl
@[simp] theorem Hart.setX_lastLda (h : Hart) (r : Reg) (v : Word) : (h.setX r v).lastLda = h.lastLda := by unfold Hart.setX; split <;> rfl
@[simp] theorem Hart.setX_vamoFails (h : Hart) (r : Reg) (v : Word) : (h.setX r v).vamoFails = h.vamoFails := by unfold Hart.setX; split <;> rfl
@[simp] theorem Hart.setX_stores (h : Hart) (r : Reg) (v : Word) : (h.setX r v).stores = h.stores := by unfold Hart.setX; split <;> rfl
@[simp] theorem Hart.setX_remote (h : Hart) (r : Reg) (v : Word) : (h.setX r v).remote = h.remote := by unfold Hart.setX; split <;> rfl
@[simp] theorem Hart.setX_debugWrites (h : Hart) (r : Reg) (v : Word) : (h.setX r v).debugWrites = h.debugWrites := by unfold Hart.setX; split <;> rfl

@[simp] theorem Hart.setV_id (h : Hart) (r : Nat) (v : VReg) : (h.setV r v).id = h.id := by unfold Hart.setV; split <;> rfl
@[simp] theorem Hart.setV_run (h : Hart) (r : Nat) (v : VReg) : (h.setV r v).run = h.run := by unfold Hart.setV; split <;> rfl
@[simp] theorem Hart.setV_yielded (h : Hart) (r : Nat) (v : VReg) : (h.setV r v).yielded = h.yielded := by unfold Hart.setV; split <;> rfl
@[simp] theorem Hart.setV_passed (h : Hart) (r : Nat) (v : VReg) : (h.setV r v).passed = h.passed := by unfold Hart.setV; split <;> rfl
@[simp] theorem Hart.setV_stalled (h : Hart) (r : Nat) (v : VReg) : (h.setV r v).stalled = h.stalled := by unfold Hart.setV; split <;> rfl
@[simp] theorem Hart.setV_fetched (h : Hart) (r : Nat) (v : VReg) : (h.setV r v).fetched = h.fetched := by unfold Hart.setV; split <;> rfl
@[simp] theorem Hart.setV_haltAsked (h : Hart) (r : Nat) (v : VReg) : (h.setV r v).haltAsked = h.haltAsked := by unfold Hart.setV; split <;> rfl
@[simp] theorem Hart.setV_swapping (h : Hart) (r : Nat) (v : VReg) : (h.setV r v).swapping = h.swapping := by unfold Hart.setV; split <;> rfl
@[simp] theorem Hart.setV_bureau (h : Hart) (r : Nat) (v : VReg) : (h.setV r v).bureau = h.bureau := by unfold Hart.setV; split <;> rfl
@[simp] theorem Hart.setV_farm (h : Hart) (r : Nat) (v : VReg) : (h.setV r v).farm = h.farm := by unfold Hart.setV; split <;> rfl
@[simp] theorem Hart.setV_index (h : Hart) (r : Nat) (v : VReg) : (h.setV r v).index = h.index := by unfold Hart.setV; split <;> rfl
@[simp] theorem Hart.setV_image (h : Hart) (r : Nat) (v : VReg) : (h.setV r v).image = h.image := by unfold Hart.setV; split <;> rfl
@[simp] theorem Hart.setV_part (h : Hart) (r : Nat) (v : VReg) : (h.setV r v).part = h.part := by unfold Hart.setV; split <;> rfl
@[simp] theorem Hart.setV_partid (h : Hart) (r : Nat) (v : VReg) : (h.setV r v).partid = h.partid := by unfold Hart.setV; split <;> rfl
@[simp] theorem Hart.setV_pc (h : Hart) (r : Nat) (v : VReg) : (h.setV r v).pc = h.pc := by unfold Hart.setV; split <;> rfl
@[simp] theorem Hart.setV_x (h : Hart) (r : Nat) (v : VReg) : (h.setV r v).x = h.x := by unfold Hart.setV; split <;> rfl
@[simp] theorem Hart.setV_m (h : Hart) (r : Nat) (v : VReg) : (h.setV r v).m = h.m := by unfold Hart.setV; split <;> rfl
@[simp] theorem Hart.setV_k (h : Hart) (r : Nat) (v : VReg) : (h.setV r v).k = h.k := by unfold Hart.setV; split <;> rfl
@[simp] theorem Hart.setV_keyTable (h : Hart) (r : Nat) (v : VReg) : (h.setV r v).keyTable = h.keyTable := by unfold Hart.setV; split <;> rfl
@[simp] theorem Hart.setV_keyOvf (h : Hart) (r : Nat) (v : VReg) : (h.setV r v).keyOvf = h.keyOvf := by unfold Hart.setV; split <;> rfl
@[simp] theorem Hart.setV_streams (h : Hart) (r : Nat) (v : VReg) : (h.setV r v).streams = h.streams := by unfold Hart.setV; split <;> rfl
@[simp] theorem Hart.setV_status (h : Hart) (r : Nat) (v : VReg) : (h.setV r v).status = h.status := by unfold Hart.setV; split <;> rfl
@[simp] theorem Hart.setV_stripno (h : Hart) (r : Nat) (v : VReg) : (h.setV r v).stripno = h.stripno := by unfold Hart.setV; split <;> rfl
@[simp] theorem Hart.setV_vtype (h : Hart) (r : Nat) (v : VReg) : (h.setV r v).vtype = h.vtype := by unfold Hart.setV; split <;> rfl
@[simp] theorem Hart.setV_vlg (h : Hart) (r : Nat) (v : VReg) : (h.setV r v).vlg = h.vlg := by unfold Hart.setV; split <;> rfl
@[simp] theorem Hart.setV_vlv (h : Hart) (r : Nat) (v : VReg) : (h.setV r v).vlv = h.vlv := by unfold Hart.setV; split <;> rfl
@[simp] theorem Hart.setV_vri (h : Hart) (r : Nat) (v : VReg) : (h.setV r v).vri = h.vri := by unfold Hart.setV; split <;> rfl
@[simp] theorem Hart.setV_granted (h : Hart) (r : Nat) (v : VReg) : (h.setV r v).granted = h.granted := by unfold Hart.setV; split <;> rfl
@[simp] theorem Hart.setV_rscg (h : Hart) (r : Nat) (v : VReg) : (h.setV r v).rscg = h.rscg := by unfold Hart.setV; split <;> rfl
@[simp] theorem Hart.setV_moving (h : Hart) (r : Nat) (v : VReg) : (h.setV r v).moving = h.moving := by unfold Hart.setV; split <;> rfl
@[simp] theorem Hart.setV_lslip (h : Hart) (r : Nat) (v : VReg) : (h.setV r v).lslip = h.lslip := by unfold Hart.setV; split <;> rfl
@[simp] theorem Hart.setV_fflags (h : Hart) (r : Nat) (v : VReg) : (h.setV r v).fflags = h.fflags := by unfold Hart.setV; split <;> rfl
@[simp] theorem Hart.setV_partFlags (h : Hart) (r : Nat) (v : VReg) : (h.setV r v).partFlags = h.partFlags := by unfold Hart.setV; split <;> rfl
@[simp] theorem Hart.setV_frm (h : Hart) (r : Nat) (v : VReg) : (h.setV r v).frm = h.frm := by unfold Hart.setV; split <;> rfl
@[simp] theorem Hart.setV_trapcause (h : Hart) (r : Nat) (v : VReg) : (h.setV r v).trapcause = h.trapcause := by unfold Hart.setV; split <;> rfl
@[simp] theorem Hart.setV_trappc (h : Hart) (r : Nat) (v : VReg) : (h.setV r v).trappc = h.trappc := by unfold Hart.setV; split <;> rfl
@[simp] theorem Hart.setV_trapval (h : Hart) (r : Nat) (v : VReg) : (h.setV r v).trapval = h.trapval := by unfold Hart.setV; split <;> rfl
@[simp] theorem Hart.setV_trapbase (h : Hart) (r : Nat) (v : VReg) : (h.setV r v).trapbase = h.trapbase := by unfold Hart.setV; split <;> rfl
@[simp] theorem Hart.setV_trapscratch (h : Hart) (r : Nat) (v : VReg) : (h.setV r v).trapscratch = h.trapscratch := by unfold Hart.setV; split <;> rfl
@[simp] theorem Hart.setV_trapstatus (h : Hart) (r : Nat) (v : VReg) : (h.setV r v).trapstatus = h.trapstatus := by unfold Hart.setV; split <;> rfl
@[simp] theorem Hart.setV_trapowe (h : Hart) (r : Nat) (v : VReg) : (h.setV r v).trapowe = h.trapowe := by unfold Hart.setV; split <;> rfl
@[simp] theorem Hart.setV_skew (h : Hart) (r : Nat) (v : VReg) : (h.setV r v).skew = h.skew := by unfold Hart.setV; split <;> rfl
@[simp] theorem Hart.setV_pwrhint (h : Hart) (r : Nat) (v : VReg) : (h.setV r v).pwrhint = h.pwrhint := by unfold Hart.setV; split <;> rfl
@[simp] theorem Hart.setV_cycle (h : Hart) (r : Nat) (v : VReg) : (h.setV r v).cycle = h.cycle := by unfold Hart.setV; split <;> rfl
@[simp] theorem Hart.setV_instret (h : Hart) (r : Nat) (v : VReg) : (h.setV r v).instret = h.instret := by unfold Hart.setV; split <;> rfl
@[simp] theorem Hart.setV_ptbase (h : Hart) (r : Nat) (v : VReg) : (h.setV r v).ptbase = h.ptbase := by unfold Hart.setV; split <;> rfl
@[simp] theorem Hart.setV_asid (h : Hart) (r : Nat) (v : VReg) : (h.setV r v).asid = h.asid := by unfold Hart.setV; split <;> rfl
@[simp] theorem Hart.setV_g2fval (h : Hart) (r : Nat) (v : VReg) : (h.setV r v).g2fval = h.g2fval := by unfold Hart.setV; split <;> rfl
@[simp] theorem Hart.setV_lastLda (h : Hart) (r : Nat) (v : VReg) : (h.setV r v).lastLda = h.lastLda := by unfold Hart.setV; split <;> rfl
@[simp] theorem Hart.setV_vamoFails (h : Hart) (r : Nat) (v : VReg) : (h.setV r v).vamoFails = h.vamoFails := by unfold Hart.setV; split <;> rfl
@[simp] theorem Hart.setV_stores (h : Hart) (r : Nat) (v : VReg) : (h.setV r v).stores = h.stores := by unfold Hart.setV; split <;> rfl
@[simp] theorem Hart.setV_remote (h : Hart) (r : Nat) (v : VReg) : (h.setV r v).remote = h.remote := by unfold Hart.setV; split <;> rfl
@[simp] theorem Hart.setV_debugWrites (h : Hart) (r : Nat) (v : VReg) : (h.setV r v).debugWrites = h.debugWrites := by unfold Hart.setV; split <;> rfl

@[simp] theorem Hart.setMask_id (h : Hart) (n v : Nat) : (h.setMask n v).id = h.id := by unfold Hart.setMask; split <;> rfl
@[simp] theorem Hart.setMask_run (h : Hart) (n v : Nat) : (h.setMask n v).run = h.run := by unfold Hart.setMask; split <;> rfl
@[simp] theorem Hart.setMask_yielded (h : Hart) (n v : Nat) : (h.setMask n v).yielded = h.yielded := by unfold Hart.setMask; split <;> rfl
@[simp] theorem Hart.setMask_passed (h : Hart) (n v : Nat) : (h.setMask n v).passed = h.passed := by unfold Hart.setMask; split <;> rfl
@[simp] theorem Hart.setMask_stalled (h : Hart) (n v : Nat) : (h.setMask n v).stalled = h.stalled := by unfold Hart.setMask; split <;> rfl
@[simp] theorem Hart.setMask_fetched (h : Hart) (n v : Nat) : (h.setMask n v).fetched = h.fetched := by unfold Hart.setMask; split <;> rfl
@[simp] theorem Hart.setMask_haltAsked (h : Hart) (n v : Nat) : (h.setMask n v).haltAsked = h.haltAsked := by unfold Hart.setMask; split <;> rfl
@[simp] theorem Hart.setMask_swapping (h : Hart) (n v : Nat) : (h.setMask n v).swapping = h.swapping := by unfold Hart.setMask; split <;> rfl
@[simp] theorem Hart.setMask_bureau (h : Hart) (n v : Nat) : (h.setMask n v).bureau = h.bureau := by unfold Hart.setMask; split <;> rfl
@[simp] theorem Hart.setMask_farm (h : Hart) (n v : Nat) : (h.setMask n v).farm = h.farm := by unfold Hart.setMask; split <;> rfl
@[simp] theorem Hart.setMask_index (h : Hart) (n v : Nat) : (h.setMask n v).index = h.index := by unfold Hart.setMask; split <;> rfl
@[simp] theorem Hart.setMask_image (h : Hart) (n v : Nat) : (h.setMask n v).image = h.image := by unfold Hart.setMask; split <;> rfl
@[simp] theorem Hart.setMask_part (h : Hart) (n v : Nat) : (h.setMask n v).part = h.part := by unfold Hart.setMask; split <;> rfl
@[simp] theorem Hart.setMask_partid (h : Hart) (n v : Nat) : (h.setMask n v).partid = h.partid := by unfold Hart.setMask; split <;> rfl
@[simp] theorem Hart.setMask_pc (h : Hart) (n v : Nat) : (h.setMask n v).pc = h.pc := by unfold Hart.setMask; split <;> rfl
@[simp] theorem Hart.setMask_x (h : Hart) (n v : Nat) : (h.setMask n v).x = h.x := by unfold Hart.setMask; split <;> rfl
@[simp] theorem Hart.setMask_v (h : Hart) (n v : Nat) : (h.setMask n v).v = h.v := by unfold Hart.setMask; split <;> rfl
@[simp] theorem Hart.setMask_k (h : Hart) (n v : Nat) : (h.setMask n v).k = h.k := by unfold Hart.setMask; split <;> rfl
@[simp] theorem Hart.setMask_keyTable (h : Hart) (n v : Nat) : (h.setMask n v).keyTable = h.keyTable := by unfold Hart.setMask; split <;> rfl
@[simp] theorem Hart.setMask_keyOvf (h : Hart) (n v : Nat) : (h.setMask n v).keyOvf = h.keyOvf := by unfold Hart.setMask; split <;> rfl
@[simp] theorem Hart.setMask_streams (h : Hart) (n v : Nat) : (h.setMask n v).streams = h.streams := by unfold Hart.setMask; split <;> rfl
@[simp] theorem Hart.setMask_status (h : Hart) (n v : Nat) : (h.setMask n v).status = h.status := by unfold Hart.setMask; split <;> rfl
@[simp] theorem Hart.setMask_stripno (h : Hart) (n v : Nat) : (h.setMask n v).stripno = h.stripno := by unfold Hart.setMask; split <;> rfl
@[simp] theorem Hart.setMask_vtype (h : Hart) (n v : Nat) : (h.setMask n v).vtype = h.vtype := by unfold Hart.setMask; split <;> rfl
@[simp] theorem Hart.setMask_vlg (h : Hart) (n v : Nat) : (h.setMask n v).vlg = h.vlg := by unfold Hart.setMask; split <;> rfl
@[simp] theorem Hart.setMask_vlv (h : Hart) (n v : Nat) : (h.setMask n v).vlv = h.vlv := by unfold Hart.setMask; split <;> rfl
@[simp] theorem Hart.setMask_vri (h : Hart) (n v : Nat) : (h.setMask n v).vri = h.vri := by unfold Hart.setMask; split <;> rfl
@[simp] theorem Hart.setMask_granted (h : Hart) (n v : Nat) : (h.setMask n v).granted = h.granted := by unfold Hart.setMask; split <;> rfl
@[simp] theorem Hart.setMask_rscg (h : Hart) (n v : Nat) : (h.setMask n v).rscg = h.rscg := by unfold Hart.setMask; split <;> rfl
@[simp] theorem Hart.setMask_moving (h : Hart) (n v : Nat) : (h.setMask n v).moving = h.moving := by unfold Hart.setMask; split <;> rfl
@[simp] theorem Hart.setMask_lslip (h : Hart) (n v : Nat) : (h.setMask n v).lslip = h.lslip := by unfold Hart.setMask; split <;> rfl
@[simp] theorem Hart.setMask_fflags (h : Hart) (n v : Nat) : (h.setMask n v).fflags = h.fflags := by unfold Hart.setMask; split <;> rfl
@[simp] theorem Hart.setMask_partFlags (h : Hart) (n v : Nat) : (h.setMask n v).partFlags = h.partFlags := by unfold Hart.setMask; split <;> rfl
@[simp] theorem Hart.setMask_frm (h : Hart) (n v : Nat) : (h.setMask n v).frm = h.frm := by unfold Hart.setMask; split <;> rfl
@[simp] theorem Hart.setMask_trapcause (h : Hart) (n v : Nat) : (h.setMask n v).trapcause = h.trapcause := by unfold Hart.setMask; split <;> rfl
@[simp] theorem Hart.setMask_trappc (h : Hart) (n v : Nat) : (h.setMask n v).trappc = h.trappc := by unfold Hart.setMask; split <;> rfl
@[simp] theorem Hart.setMask_trapval (h : Hart) (n v : Nat) : (h.setMask n v).trapval = h.trapval := by unfold Hart.setMask; split <;> rfl
@[simp] theorem Hart.setMask_trapbase (h : Hart) (n v : Nat) : (h.setMask n v).trapbase = h.trapbase := by unfold Hart.setMask; split <;> rfl
@[simp] theorem Hart.setMask_trapscratch (h : Hart) (n v : Nat) : (h.setMask n v).trapscratch = h.trapscratch := by unfold Hart.setMask; split <;> rfl
@[simp] theorem Hart.setMask_trapstatus (h : Hart) (n v : Nat) : (h.setMask n v).trapstatus = h.trapstatus := by unfold Hart.setMask; split <;> rfl
@[simp] theorem Hart.setMask_trapowe (h : Hart) (n v : Nat) : (h.setMask n v).trapowe = h.trapowe := by unfold Hart.setMask; split <;> rfl
@[simp] theorem Hart.setMask_skew (h : Hart) (n v : Nat) : (h.setMask n v).skew = h.skew := by unfold Hart.setMask; split <;> rfl
@[simp] theorem Hart.setMask_pwrhint (h : Hart) (n v : Nat) : (h.setMask n v).pwrhint = h.pwrhint := by unfold Hart.setMask; split <;> rfl
@[simp] theorem Hart.setMask_cycle (h : Hart) (n v : Nat) : (h.setMask n v).cycle = h.cycle := by unfold Hart.setMask; split <;> rfl
@[simp] theorem Hart.setMask_instret (h : Hart) (n v : Nat) : (h.setMask n v).instret = h.instret := by unfold Hart.setMask; split <;> rfl
@[simp] theorem Hart.setMask_ptbase (h : Hart) (n v : Nat) : (h.setMask n v).ptbase = h.ptbase := by unfold Hart.setMask; split <;> rfl
@[simp] theorem Hart.setMask_asid (h : Hart) (n v : Nat) : (h.setMask n v).asid = h.asid := by unfold Hart.setMask; split <;> rfl
@[simp] theorem Hart.setMask_g2fval (h : Hart) (n v : Nat) : (h.setMask n v).g2fval = h.g2fval := by unfold Hart.setMask; split <;> rfl
@[simp] theorem Hart.setMask_lastLda (h : Hart) (n v : Nat) : (h.setMask n v).lastLda = h.lastLda := by unfold Hart.setMask; split <;> rfl
@[simp] theorem Hart.setMask_vamoFails (h : Hart) (n v : Nat) : (h.setMask n v).vamoFails = h.vamoFails := by unfold Hart.setMask; split <;> rfl
@[simp] theorem Hart.setMask_stores (h : Hart) (n v : Nat) : (h.setMask n v).stores = h.stores := by unfold Hart.setMask; split <;> rfl
@[simp] theorem Hart.setMask_remote (h : Hart) (n v : Nat) : (h.setMask n v).remote = h.remote := by unfold Hart.setMask; split <;> rfl
@[simp] theorem Hart.setMask_debugWrites (h : Hart) (n v : Nat) : (h.setMask n v).debugWrites = h.debugWrites := by unfold Hart.setMask; split <;> rfl

@[simp] theorem Hart.setBinding_id (h : Hart) (r : Nat) (b : Option Binding) : (h.setBinding r b).id = h.id := by unfold Hart.setBinding; split <;> rfl
@[simp] theorem Hart.setBinding_run (h : Hart) (r : Nat) (b : Option Binding) : (h.setBinding r b).run = h.run := by unfold Hart.setBinding; split <;> rfl
@[simp] theorem Hart.setBinding_yielded (h : Hart) (r : Nat) (b : Option Binding) : (h.setBinding r b).yielded = h.yielded := by unfold Hart.setBinding; split <;> rfl
@[simp] theorem Hart.setBinding_passed (h : Hart) (r : Nat) (b : Option Binding) : (h.setBinding r b).passed = h.passed := by unfold Hart.setBinding; split <;> rfl
@[simp] theorem Hart.setBinding_stalled (h : Hart) (r : Nat) (b : Option Binding) : (h.setBinding r b).stalled = h.stalled := by unfold Hart.setBinding; split <;> rfl
@[simp] theorem Hart.setBinding_fetched (h : Hart) (r : Nat) (b : Option Binding) : (h.setBinding r b).fetched = h.fetched := by unfold Hart.setBinding; split <;> rfl
@[simp] theorem Hart.setBinding_haltAsked (h : Hart) (r : Nat) (b : Option Binding) : (h.setBinding r b).haltAsked = h.haltAsked := by unfold Hart.setBinding; split <;> rfl
@[simp] theorem Hart.setBinding_swapping (h : Hart) (r : Nat) (b : Option Binding) : (h.setBinding r b).swapping = h.swapping := by unfold Hart.setBinding; split <;> rfl
@[simp] theorem Hart.setBinding_bureau (h : Hart) (r : Nat) (b : Option Binding) : (h.setBinding r b).bureau = h.bureau := by unfold Hart.setBinding; split <;> rfl
@[simp] theorem Hart.setBinding_farm (h : Hart) (r : Nat) (b : Option Binding) : (h.setBinding r b).farm = h.farm := by unfold Hart.setBinding; split <;> rfl
@[simp] theorem Hart.setBinding_index (h : Hart) (r : Nat) (b : Option Binding) : (h.setBinding r b).index = h.index := by unfold Hart.setBinding; split <;> rfl
@[simp] theorem Hart.setBinding_image (h : Hart) (r : Nat) (b : Option Binding) : (h.setBinding r b).image = h.image := by unfold Hart.setBinding; split <;> rfl
@[simp] theorem Hart.setBinding_part (h : Hart) (r : Nat) (b : Option Binding) : (h.setBinding r b).part = h.part := by unfold Hart.setBinding; split <;> rfl
@[simp] theorem Hart.setBinding_partid (h : Hart) (r : Nat) (b : Option Binding) : (h.setBinding r b).partid = h.partid := by unfold Hart.setBinding; split <;> rfl
@[simp] theorem Hart.setBinding_pc (h : Hart) (r : Nat) (b : Option Binding) : (h.setBinding r b).pc = h.pc := by unfold Hart.setBinding; split <;> rfl
@[simp] theorem Hart.setBinding_x (h : Hart) (r : Nat) (b : Option Binding) : (h.setBinding r b).x = h.x := by unfold Hart.setBinding; split <;> rfl
@[simp] theorem Hart.setBinding_v (h : Hart) (r : Nat) (b : Option Binding) : (h.setBinding r b).v = h.v := by unfold Hart.setBinding; split <;> rfl
@[simp] theorem Hart.setBinding_m (h : Hart) (r : Nat) (b : Option Binding) : (h.setBinding r b).m = h.m := by unfold Hart.setBinding; split <;> rfl
@[simp] theorem Hart.setBinding_k (h : Hart) (r : Nat) (b : Option Binding) : (h.setBinding r b).k = h.k := by unfold Hart.setBinding; split <;> rfl
@[simp] theorem Hart.setBinding_keyTable (h : Hart) (r : Nat) (b : Option Binding) : (h.setBinding r b).keyTable = h.keyTable := by unfold Hart.setBinding; split <;> rfl
@[simp] theorem Hart.setBinding_keyOvf (h : Hart) (r : Nat) (b : Option Binding) : (h.setBinding r b).keyOvf = h.keyOvf := by unfold Hart.setBinding; split <;> rfl
@[simp] theorem Hart.setBinding_status (h : Hart) (r : Nat) (b : Option Binding) : (h.setBinding r b).status = h.status := by unfold Hart.setBinding; split <;> rfl
@[simp] theorem Hart.setBinding_stripno (h : Hart) (r : Nat) (b : Option Binding) : (h.setBinding r b).stripno = h.stripno := by unfold Hart.setBinding; split <;> rfl
@[simp] theorem Hart.setBinding_vtype (h : Hart) (r : Nat) (b : Option Binding) : (h.setBinding r b).vtype = h.vtype := by unfold Hart.setBinding; split <;> rfl
@[simp] theorem Hart.setBinding_vlg (h : Hart) (r : Nat) (b : Option Binding) : (h.setBinding r b).vlg = h.vlg := by unfold Hart.setBinding; split <;> rfl
@[simp] theorem Hart.setBinding_vlv (h : Hart) (r : Nat) (b : Option Binding) : (h.setBinding r b).vlv = h.vlv := by unfold Hart.setBinding; split <;> rfl
@[simp] theorem Hart.setBinding_vri (h : Hart) (r : Nat) (b : Option Binding) : (h.setBinding r b).vri = h.vri := by unfold Hart.setBinding; split <;> rfl
@[simp] theorem Hart.setBinding_granted (h : Hart) (r : Nat) (b : Option Binding) : (h.setBinding r b).granted = h.granted := by unfold Hart.setBinding; split <;> rfl
@[simp] theorem Hart.setBinding_rscg (h : Hart) (r : Nat) (b : Option Binding) : (h.setBinding r b).rscg = h.rscg := by unfold Hart.setBinding; split <;> rfl
@[simp] theorem Hart.setBinding_moving (h : Hart) (r : Nat) (b : Option Binding) : (h.setBinding r b).moving = h.moving := by unfold Hart.setBinding; split <;> rfl
@[simp] theorem Hart.setBinding_lslip (h : Hart) (r : Nat) (b : Option Binding) : (h.setBinding r b).lslip = h.lslip := by unfold Hart.setBinding; split <;> rfl
@[simp] theorem Hart.setBinding_fflags (h : Hart) (r : Nat) (b : Option Binding) : (h.setBinding r b).fflags = h.fflags := by unfold Hart.setBinding; split <;> rfl
@[simp] theorem Hart.setBinding_partFlags (h : Hart) (r : Nat) (b : Option Binding) : (h.setBinding r b).partFlags = h.partFlags := by unfold Hart.setBinding; split <;> rfl
@[simp] theorem Hart.setBinding_frm (h : Hart) (r : Nat) (b : Option Binding) : (h.setBinding r b).frm = h.frm := by unfold Hart.setBinding; split <;> rfl
@[simp] theorem Hart.setBinding_trapcause (h : Hart) (r : Nat) (b : Option Binding) : (h.setBinding r b).trapcause = h.trapcause := by unfold Hart.setBinding; split <;> rfl
@[simp] theorem Hart.setBinding_trappc (h : Hart) (r : Nat) (b : Option Binding) : (h.setBinding r b).trappc = h.trappc := by unfold Hart.setBinding; split <;> rfl
@[simp] theorem Hart.setBinding_trapval (h : Hart) (r : Nat) (b : Option Binding) : (h.setBinding r b).trapval = h.trapval := by unfold Hart.setBinding; split <;> rfl
@[simp] theorem Hart.setBinding_trapbase (h : Hart) (r : Nat) (b : Option Binding) : (h.setBinding r b).trapbase = h.trapbase := by unfold Hart.setBinding; split <;> rfl
@[simp] theorem Hart.setBinding_trapscratch (h : Hart) (r : Nat) (b : Option Binding) : (h.setBinding r b).trapscratch = h.trapscratch := by unfold Hart.setBinding; split <;> rfl
@[simp] theorem Hart.setBinding_trapstatus (h : Hart) (r : Nat) (b : Option Binding) : (h.setBinding r b).trapstatus = h.trapstatus := by unfold Hart.setBinding; split <;> rfl
@[simp] theorem Hart.setBinding_trapowe (h : Hart) (r : Nat) (b : Option Binding) : (h.setBinding r b).trapowe = h.trapowe := by unfold Hart.setBinding; split <;> rfl
@[simp] theorem Hart.setBinding_skew (h : Hart) (r : Nat) (b : Option Binding) : (h.setBinding r b).skew = h.skew := by unfold Hart.setBinding; split <;> rfl
@[simp] theorem Hart.setBinding_pwrhint (h : Hart) (r : Nat) (b : Option Binding) : (h.setBinding r b).pwrhint = h.pwrhint := by unfold Hart.setBinding; split <;> rfl
@[simp] theorem Hart.setBinding_cycle (h : Hart) (r : Nat) (b : Option Binding) : (h.setBinding r b).cycle = h.cycle := by unfold Hart.setBinding; split <;> rfl
@[simp] theorem Hart.setBinding_instret (h : Hart) (r : Nat) (b : Option Binding) : (h.setBinding r b).instret = h.instret := by unfold Hart.setBinding; split <;> rfl
@[simp] theorem Hart.setBinding_ptbase (h : Hart) (r : Nat) (b : Option Binding) : (h.setBinding r b).ptbase = h.ptbase := by unfold Hart.setBinding; split <;> rfl
@[simp] theorem Hart.setBinding_asid (h : Hart) (r : Nat) (b : Option Binding) : (h.setBinding r b).asid = h.asid := by unfold Hart.setBinding; split <;> rfl
@[simp] theorem Hart.setBinding_g2fval (h : Hart) (r : Nat) (b : Option Binding) : (h.setBinding r b).g2fval = h.g2fval := by unfold Hart.setBinding; split <;> rfl
@[simp] theorem Hart.setBinding_lastLda (h : Hart) (r : Nat) (b : Option Binding) : (h.setBinding r b).lastLda = h.lastLda := by unfold Hart.setBinding; split <;> rfl
@[simp] theorem Hart.setBinding_vamoFails (h : Hart) (r : Nat) (b : Option Binding) : (h.setBinding r b).vamoFails = h.vamoFails := by unfold Hart.setBinding; split <;> rfl
@[simp] theorem Hart.setBinding_stores (h : Hart) (r : Nat) (b : Option Binding) : (h.setBinding r b).stores = h.stores := by unfold Hart.setBinding; split <;> rfl
@[simp] theorem Hart.setBinding_remote (h : Hart) (r : Nat) (b : Option Binding) : (h.setBinding r b).remote = h.remote := by unfold Hart.setBinding; split <;> rfl
@[simp] theorem Hart.setBinding_debugWrites (h : Hart) (r : Nat) (b : Option Binding) : (h.setBinding r b).debugWrites = h.debugWrites := by unfold Hart.setBinding; split <;> rfl

@[simp] theorem Hart.dropAhead_id (h : Hart) : (h.dropAhead).id = h.id := rfl
@[simp] theorem Hart.dropAhead_run (h : Hart) : (h.dropAhead).run = h.run := rfl
@[simp] theorem Hart.dropAhead_yielded (h : Hart) : (h.dropAhead).yielded = h.yielded := rfl
@[simp] theorem Hart.dropAhead_passed (h : Hart) : (h.dropAhead).passed = h.passed := rfl
@[simp] theorem Hart.dropAhead_stalled (h : Hart) : (h.dropAhead).stalled = h.stalled := rfl
@[simp] theorem Hart.dropAhead_fetched (h : Hart) : (h.dropAhead).fetched = h.fetched := rfl
@[simp] theorem Hart.dropAhead_haltAsked (h : Hart) : (h.dropAhead).haltAsked = h.haltAsked := rfl
@[simp] theorem Hart.dropAhead_swapping (h : Hart) : (h.dropAhead).swapping = h.swapping := rfl
@[simp] theorem Hart.dropAhead_bureau (h : Hart) : (h.dropAhead).bureau = h.bureau := rfl
@[simp] theorem Hart.dropAhead_farm (h : Hart) : (h.dropAhead).farm = h.farm := rfl
@[simp] theorem Hart.dropAhead_index (h : Hart) : (h.dropAhead).index = h.index := rfl
@[simp] theorem Hart.dropAhead_image (h : Hart) : (h.dropAhead).image = h.image := rfl
@[simp] theorem Hart.dropAhead_part (h : Hart) : (h.dropAhead).part = h.part := rfl
@[simp] theorem Hart.dropAhead_partid (h : Hart) : (h.dropAhead).partid = h.partid := rfl
@[simp] theorem Hart.dropAhead_pc (h : Hart) : (h.dropAhead).pc = h.pc := rfl
@[simp] theorem Hart.dropAhead_x (h : Hart) : (h.dropAhead).x = h.x := rfl
@[simp] theorem Hart.dropAhead_v (h : Hart) : (h.dropAhead).v = h.v := rfl
@[simp] theorem Hart.dropAhead_m (h : Hart) : (h.dropAhead).m = h.m := rfl
@[simp] theorem Hart.dropAhead_k (h : Hart) : (h.dropAhead).k = h.k := rfl
@[simp] theorem Hart.dropAhead_keyTable (h : Hart) : (h.dropAhead).keyTable = h.keyTable := rfl
@[simp] theorem Hart.dropAhead_keyOvf (h : Hart) : (h.dropAhead).keyOvf = h.keyOvf := rfl
@[simp] theorem Hart.dropAhead_status (h : Hart) : (h.dropAhead).status = h.status := rfl
@[simp] theorem Hart.dropAhead_stripno (h : Hart) : (h.dropAhead).stripno = h.stripno := rfl
@[simp] theorem Hart.dropAhead_vtype (h : Hart) : (h.dropAhead).vtype = h.vtype := rfl
@[simp] theorem Hart.dropAhead_vlg (h : Hart) : (h.dropAhead).vlg = h.vlg := rfl
@[simp] theorem Hart.dropAhead_vlv (h : Hart) : (h.dropAhead).vlv = h.vlv := rfl
@[simp] theorem Hart.dropAhead_vri (h : Hart) : (h.dropAhead).vri = h.vri := rfl
@[simp] theorem Hart.dropAhead_granted (h : Hart) : (h.dropAhead).granted = h.granted := rfl
@[simp] theorem Hart.dropAhead_rscg (h : Hart) : (h.dropAhead).rscg = h.rscg := rfl
@[simp] theorem Hart.dropAhead_moving (h : Hart) : (h.dropAhead).moving = h.moving := rfl
@[simp] theorem Hart.dropAhead_lslip (h : Hart) : (h.dropAhead).lslip = h.lslip := rfl
@[simp] theorem Hart.dropAhead_fflags (h : Hart) : (h.dropAhead).fflags = h.fflags := rfl
@[simp] theorem Hart.dropAhead_partFlags (h : Hart) : (h.dropAhead).partFlags = h.partFlags := rfl
@[simp] theorem Hart.dropAhead_frm (h : Hart) : (h.dropAhead).frm = h.frm := rfl
@[simp] theorem Hart.dropAhead_trapcause (h : Hart) : (h.dropAhead).trapcause = h.trapcause := rfl
@[simp] theorem Hart.dropAhead_trappc (h : Hart) : (h.dropAhead).trappc = h.trappc := rfl
@[simp] theorem Hart.dropAhead_trapval (h : Hart) : (h.dropAhead).trapval = h.trapval := rfl
@[simp] theorem Hart.dropAhead_trapbase (h : Hart) : (h.dropAhead).trapbase = h.trapbase := rfl
@[simp] theorem Hart.dropAhead_trapscratch (h : Hart) : (h.dropAhead).trapscratch = h.trapscratch := rfl
@[simp] theorem Hart.dropAhead_trapstatus (h : Hart) : (h.dropAhead).trapstatus = h.trapstatus := rfl
@[simp] theorem Hart.dropAhead_trapowe (h : Hart) : (h.dropAhead).trapowe = h.trapowe := rfl
@[simp] theorem Hart.dropAhead_skew (h : Hart) : (h.dropAhead).skew = h.skew := rfl
@[simp] theorem Hart.dropAhead_pwrhint (h : Hart) : (h.dropAhead).pwrhint = h.pwrhint := rfl
@[simp] theorem Hart.dropAhead_cycle (h : Hart) : (h.dropAhead).cycle = h.cycle := rfl
@[simp] theorem Hart.dropAhead_instret (h : Hart) : (h.dropAhead).instret = h.instret := rfl
@[simp] theorem Hart.dropAhead_ptbase (h : Hart) : (h.dropAhead).ptbase = h.ptbase := rfl
@[simp] theorem Hart.dropAhead_asid (h : Hart) : (h.dropAhead).asid = h.asid := rfl
@[simp] theorem Hart.dropAhead_g2fval (h : Hart) : (h.dropAhead).g2fval = h.g2fval := rfl
@[simp] theorem Hart.dropAhead_lastLda (h : Hart) : (h.dropAhead).lastLda = h.lastLda := rfl
@[simp] theorem Hart.dropAhead_vamoFails (h : Hart) : (h.dropAhead).vamoFails = h.vamoFails := rfl
@[simp] theorem Hart.dropAhead_stores (h : Hart) : (h.dropAhead).stores = h.stores := rfl
@[simp] theorem Hart.dropAhead_remote (h : Hart) : (h.dropAhead).remote = h.remote := rfl
@[simp] theorem Hart.dropAhead_debugWrites (h : Hart) : (h.dropAhead).debugWrites = h.debugWrites := rfl

@[simp] theorem Hart.raise_id (fl : BitVec 7) (h : Hart) : (h.raise fl).id = h.id := rfl
@[simp] theorem Hart.raise_run (fl : BitVec 7) (h : Hart) : (h.raise fl).run = h.run := rfl
@[simp] theorem Hart.raise_yielded (fl : BitVec 7) (h : Hart) : (h.raise fl).yielded = h.yielded := rfl
@[simp] theorem Hart.raise_passed (fl : BitVec 7) (h : Hart) : (h.raise fl).passed = h.passed := rfl
@[simp] theorem Hart.raise_stalled (fl : BitVec 7) (h : Hart) : (h.raise fl).stalled = h.stalled := rfl
@[simp] theorem Hart.raise_fetched (fl : BitVec 7) (h : Hart) : (h.raise fl).fetched = h.fetched := rfl
@[simp] theorem Hart.raise_haltAsked (fl : BitVec 7) (h : Hart) : (h.raise fl).haltAsked = h.haltAsked := rfl
@[simp] theorem Hart.raise_swapping (fl : BitVec 7) (h : Hart) : (h.raise fl).swapping = h.swapping := rfl
@[simp] theorem Hart.raise_bureau (fl : BitVec 7) (h : Hart) : (h.raise fl).bureau = h.bureau := rfl
@[simp] theorem Hart.raise_farm (fl : BitVec 7) (h : Hart) : (h.raise fl).farm = h.farm := rfl
@[simp] theorem Hart.raise_index (fl : BitVec 7) (h : Hart) : (h.raise fl).index = h.index := rfl
@[simp] theorem Hart.raise_image (fl : BitVec 7) (h : Hart) : (h.raise fl).image = h.image := rfl
@[simp] theorem Hart.raise_part (fl : BitVec 7) (h : Hart) : (h.raise fl).part = h.part := rfl
@[simp] theorem Hart.raise_partid (fl : BitVec 7) (h : Hart) : (h.raise fl).partid = h.partid := rfl
@[simp] theorem Hart.raise_pc (fl : BitVec 7) (h : Hart) : (h.raise fl).pc = h.pc := rfl
@[simp] theorem Hart.raise_x (fl : BitVec 7) (h : Hart) : (h.raise fl).x = h.x := rfl
@[simp] theorem Hart.raise_v (fl : BitVec 7) (h : Hart) : (h.raise fl).v = h.v := rfl
@[simp] theorem Hart.raise_m (fl : BitVec 7) (h : Hart) : (h.raise fl).m = h.m := rfl
@[simp] theorem Hart.raise_k (fl : BitVec 7) (h : Hart) : (h.raise fl).k = h.k := rfl
@[simp] theorem Hart.raise_keyTable (fl : BitVec 7) (h : Hart) : (h.raise fl).keyTable = h.keyTable := rfl
@[simp] theorem Hart.raise_keyOvf (fl : BitVec 7) (h : Hart) : (h.raise fl).keyOvf = h.keyOvf := rfl
@[simp] theorem Hart.raise_streams (fl : BitVec 7) (h : Hart) : (h.raise fl).streams = h.streams := rfl
@[simp] theorem Hart.raise_status (fl : BitVec 7) (h : Hart) : (h.raise fl).status = h.status := rfl
@[simp] theorem Hart.raise_stripno (fl : BitVec 7) (h : Hart) : (h.raise fl).stripno = h.stripno := rfl
@[simp] theorem Hart.raise_vtype (fl : BitVec 7) (h : Hart) : (h.raise fl).vtype = h.vtype := rfl
@[simp] theorem Hart.raise_vlg (fl : BitVec 7) (h : Hart) : (h.raise fl).vlg = h.vlg := rfl
@[simp] theorem Hart.raise_vlv (fl : BitVec 7) (h : Hart) : (h.raise fl).vlv = h.vlv := rfl
@[simp] theorem Hart.raise_vri (fl : BitVec 7) (h : Hart) : (h.raise fl).vri = h.vri := rfl
@[simp] theorem Hart.raise_granted (fl : BitVec 7) (h : Hart) : (h.raise fl).granted = h.granted := rfl
@[simp] theorem Hart.raise_rscg (fl : BitVec 7) (h : Hart) : (h.raise fl).rscg = h.rscg := rfl
@[simp] theorem Hart.raise_moving (fl : BitVec 7) (h : Hart) : (h.raise fl).moving = h.moving := rfl
@[simp] theorem Hart.raise_lslip (fl : BitVec 7) (h : Hart) : (h.raise fl).lslip = h.lslip := rfl
@[simp] theorem Hart.raise_partFlags (fl : BitVec 7) (h : Hart) : (h.raise fl).partFlags = h.partFlags := rfl
@[simp] theorem Hart.raise_frm (fl : BitVec 7) (h : Hart) : (h.raise fl).frm = h.frm := rfl
@[simp] theorem Hart.raise_trapcause (fl : BitVec 7) (h : Hart) : (h.raise fl).trapcause = h.trapcause := rfl
@[simp] theorem Hart.raise_trappc (fl : BitVec 7) (h : Hart) : (h.raise fl).trappc = h.trappc := rfl
@[simp] theorem Hart.raise_trapval (fl : BitVec 7) (h : Hart) : (h.raise fl).trapval = h.trapval := rfl
@[simp] theorem Hart.raise_trapbase (fl : BitVec 7) (h : Hart) : (h.raise fl).trapbase = h.trapbase := rfl
@[simp] theorem Hart.raise_trapscratch (fl : BitVec 7) (h : Hart) : (h.raise fl).trapscratch = h.trapscratch := rfl
@[simp] theorem Hart.raise_trapstatus (fl : BitVec 7) (h : Hart) : (h.raise fl).trapstatus = h.trapstatus := rfl
@[simp] theorem Hart.raise_trapowe (fl : BitVec 7) (h : Hart) : (h.raise fl).trapowe = h.trapowe := rfl
@[simp] theorem Hart.raise_skew (fl : BitVec 7) (h : Hart) : (h.raise fl).skew = h.skew := rfl
@[simp] theorem Hart.raise_pwrhint (fl : BitVec 7) (h : Hart) : (h.raise fl).pwrhint = h.pwrhint := rfl
@[simp] theorem Hart.raise_cycle (fl : BitVec 7) (h : Hart) : (h.raise fl).cycle = h.cycle := rfl
@[simp] theorem Hart.raise_instret (fl : BitVec 7) (h : Hart) : (h.raise fl).instret = h.instret := rfl
@[simp] theorem Hart.raise_ptbase (fl : BitVec 7) (h : Hart) : (h.raise fl).ptbase = h.ptbase := rfl
@[simp] theorem Hart.raise_asid (fl : BitVec 7) (h : Hart) : (h.raise fl).asid = h.asid := rfl
@[simp] theorem Hart.raise_g2fval (fl : BitVec 7) (h : Hart) : (h.raise fl).g2fval = h.g2fval := rfl
@[simp] theorem Hart.raise_lastLda (fl : BitVec 7) (h : Hart) : (h.raise fl).lastLda = h.lastLda := rfl
@[simp] theorem Hart.raise_vamoFails (fl : BitVec 7) (h : Hart) : (h.raise fl).vamoFails = h.vamoFails := rfl
@[simp] theorem Hart.raise_stores (fl : BitVec 7) (h : Hart) : (h.raise fl).stores = h.stores := rfl
@[simp] theorem Hart.raise_remote (fl : BitVec 7) (h : Hart) : (h.raise fl).remote = h.remote := rfl
@[simp] theorem Hart.raise_debugWrites (fl : BitVec 7) (h : Hart) : (h.raise fl).debugWrites = h.debugWrites := rfl
@[simp] theorem Hart.raise_fflags (fl : BitVec 7) (h : Hart) : (h.raise fl).fflags = h.fflags ||| fl := rfl

/-! ## Updates that meet -/

@[simp] theorem State.withHart_withHart (s : State) (h k : Hart) : (s.withHart h).withHart k = s.withHart k := rfl
@[simp] theorem State.withHart_self (s : State) : s.withHart s.hart = s := rfl
@[simp] theorem State.withHart_getX (s : State) (h : Hart) (r : Reg) : (s.withHart h).getX r = h.getX r := rfl
@[simp] theorem State.withHart_partn (s : State) (h : Hart) (p : BitVec 3) : (s.withHart h).partn p = s.partn p := rfl
@[simp] theorem State.withHart_bench (s : State) (h : Hart) (b : Nat) : (s.withHart h).bench b = s.bench b := rfl
@[simp] theorem State.withHart_core (s : State) (h : Hart) (c : Nat) : (s.withHart h).core c = s.core c := rfl
@[simp] theorem State.withHart_ctx (s : State) (h : Hart) (k : Nat) : (s.withHart h).ctx k = s.ctx k := rfl
@[simp] theorem State.setBench_core (s : State) (b : Nat) (k : Bench) (c : Nat) : (s.setBench b k).core c = s.core c := rfl
@[simp] theorem State.setCore_bench (s : State) (c : Nat) (k : Core) (b : Nat) : (s.setCore c k).bench b = s.bench b := rfl
@[simp] theorem State.setPart_withHart (s : State) (h : Hart) (p : BitVec 3) (q : Part) : (s.withHart h).setPart p q = (s.setPart p q).withHart h := rfl

end Sys2Proof.Machine
end

