-- ==== Sys2Proof/Laws/Memory.lean ====
section
/-! SUPPORT. The laws of memory: reads after writes, the canonical form, and the sets and tables kept in order. -/

namespace Sys2Proof.Machine

/-! ## The canonical form -/

/-- The canonical form in the words of lists. -/
theorem Memory.wf_iff (m : List Host.Cell) : Memory.wf m = true ↔ m.Pairwise (fun c d => c.1 < d.1) ∧ ∀ c ∈ m, c.2 ≠ 0 := by
  induction m with
  | nil => simp [Memory.wf]
  | cons c t ih =>
    obtain ⟨j, v⟩ := c
    cases t with
    | nil => simp [Memory.wf]
    | cons d u =>
      obtain ⟨k, w⟩ := d
      rw [Memory.wf, Bool.and_eq_true, Bool.and_eq_true, ih]
      simp only [bne_iff_ne, decide_eq_true_eq, List.pairwise_cons, List.mem_cons, forall_eq_or_imp]
      constructor
      · rintro ⟨⟨hv, hjk⟩, ⟨hp, hq⟩, hw, hz⟩
        exact ⟨⟨⟨hjk, fun c hc => Nat.lt_trans hjk (hp c hc)⟩, hp, hq⟩, hv, hw, hz⟩
      · rintro ⟨⟨⟨hjk, -⟩, hp, hq⟩, hv, hw, hz⟩
        exact ⟨⟨hv, hjk⟩, ⟨hp, hq⟩, hw, hz⟩

/-- The cells of a memory after a write come from it, or are the cell written. -/
theorem mem_memPut {m : List Host.Cell} {a : Nat} {v : Byte} {c : Host.Cell} (hc : c ∈ memPut m a v) : c ∈ m ∨ (c = (a, v) ∧ v ≠ 0) := by
  induction m with
  | nil =>
    unfold memPut at hc
    split at hc
    · exact .inl hc
    · exact .inr ⟨by simpa using hc, ‹_›⟩
  | cons d t ih =>
    obtain ⟨j, u⟩ := d
    unfold memPut at hc
    split at hc
    · split at hc
      · exact .inl (List.mem_cons_of_mem _ hc)
      · rcases List.mem_cons.1 hc with e | h
        · exact .inr ⟨e, ‹_›⟩
        · exact .inl (List.mem_cons_of_mem _ h)
    · split at hc
      · split at hc
        · exact .inl hc
        · rcases List.mem_cons.1 hc with e | h
          · exact .inr ⟨e, ‹_›⟩
          · exact .inl h
      · rcases List.mem_cons.1 hc with e | h
        · exact .inl (e ▸ List.mem_cons_self)
        · exact (ih h).imp (List.mem_cons_of_mem _) id

/-- A write keeps the canonical form. -/
theorem Memory.wf_memPut {m : List Host.Cell} (h : Memory.wf m = true) (a : Nat) (v : Byte) : Memory.wf (memPut m a v) = true := by
  rw [Memory.wf_iff] at h ⊢
  refine ⟨?_, fun c hc => ?_⟩
  · induction m with
    | nil => unfold memPut; split <;> simp
    | cons d t ih =>
      obtain ⟨j, u⟩ := d
      obtain ⟨hp, hz⟩ := h
      rw [List.pairwise_cons] at hp
      unfold memPut
      split
      · next e =>
        subst e
        split
        · exact hp.2
        · exact List.pairwise_cons.2 hp
      · next ne =>
        split
        · next lt =>
          split
          · exact List.pairwise_cons.2 hp
          · refine List.pairwise_cons.2 ⟨?_, List.pairwise_cons.2 hp⟩
            intro c hc
            rcases List.mem_cons.1 hc with e | hc
            · rw [e]; exact lt
            · exact Nat.lt_trans lt (hp.1 c hc)
        · next nlt =>
          refine List.pairwise_cons.2 ⟨?_, ih ⟨hp.2, fun c hc => hz c (List.mem_cons_of_mem _ hc)⟩⟩
          intro c hc
          rcases mem_memPut hc with hc | ⟨e, -⟩
          · exact hp.1 c hc
          · rw [e]; show j < a; omega
  · rcases mem_memPut hc with hc | ⟨e, hv⟩
    · exact h.2 c hc
    · rw [e]; exact hv

/-- A run of writes keeps the canonical form. -/
theorem Memory.wf_memPutAll {m : List Host.Cell} (h : Memory.wf m = true) (a : Nat) (bs : List Byte) : Memory.wf (memPutAll m a bs) = true := by
  induction bs generalizing m a with
  | nil => exact h
  | cons b t ih => exact ih (Memory.wf_memPut h a b) (a + 1)

/-- Forgetting cells keeps the canonical form. -/
theorem Memory.wf_filter {m : List Host.Cell} (h : Memory.wf m = true) (p : Host.Cell → Bool) : Memory.wf (m.filter p) = true := by
  rw [Memory.wf_iff] at h ⊢
  exact ⟨h.1.filter p, fun c hc => h.2 c (List.mem_of_mem_filter hc)⟩

/-! ## Reads after writes -/

/-- A byte no cell lists reads 0. -/
theorem memGet_unlisted {m : List Host.Cell} {a : Nat} (h : ∀ c ∈ m, c.1 ≠ a) : memGet m a = 0 := by
  induction m with
  | nil => rfl
  | cons c t ih =>
    rw [memGet, if_neg (h c List.mem_cons_self)]
    exact ih (fun c hc => h c (List.mem_cons_of_mem _ hc))

/-- A byte written reads back, and every other byte is what it was. -/
theorem memGet_memPut {m : List Host.Cell} (h : Memory.wf m = true) (a b : Nat) (v : Byte) :
    memGet (memPut m a v) b = if b = a then v else memGet m b := by
  induction m with
  | nil =>
    unfold memPut
    split
    · next hv => subst hv; simp [memGet]
    · simp only [memGet, eq_comm]
  | cons d t ih =>
    obtain ⟨j, u⟩ := d
    have hw := h
    rw [Memory.wf_iff, List.pairwise_cons] at h
    have ht : Memory.wf t = true := (Memory.wf_iff t).2 ⟨h.1.2, fun c hc => h.2 c (List.mem_cons_of_mem _ hc)⟩
    unfold memPut
    split
    · next e =>
      subst e
      have low : memGet t j = 0 := memGet_unlisted (fun c hc => by have := h.1.1 c hc; simp only at this; omega)
      split
      · next hv =>
        subst hv
        by_cases hb : b = j
        · rw [if_pos hb, hb, low]
        · rw [if_neg hb, memGet, if_neg (Ne.symm hb)]
      · by_cases hb : b = j
        · rw [if_pos hb, memGet, if_pos hb.symm]
        · rw [if_neg hb, memGet, memGet, if_neg (Ne.symm hb), if_neg (Ne.symm hb)]
    · next ne =>
      split
      · next lt =>
        have none' : memGet ((j, u) :: t) a = 0 := memGet_unlisted (fun c hc => by
          rcases List.mem_cons.1 hc with e | hc
          · rw [e]; exact ne
          · have := h.1.1 c hc; simp only at this; omega)
        split
        · next hv =>
          subst hv
          by_cases hb : b = a
          · rw [if_pos hb, hb, none']
          · rw [if_neg hb]
        · rw [memGet]; simp only [eq_comm (a := a)]
      · rw [memGet, memGet, ih ht]
        by_cases jb : j = b
        · rw [if_pos jb, if_pos jb, if_neg (fun e => ne (jb.trans e))]
        · rw [if_neg jb, if_neg jb]

/-- A run of bytes written reads back, and every byte outside it is what it was. -/
theorem memGet_memPutAll {m : List Host.Cell} (h : Memory.wf m = true) (a b : Nat) (bs : List Byte) :
    memGet (memPutAll m a bs) b = if a ≤ b ∧ b < a + bs.length then (bs[b - a]?).getD 0 else memGet m b := by
  induction bs generalizing m a with
  | nil => rw [if_neg (by simp)]; rfl
  | cons v t ih =>
    rw [memPutAll, ih (Memory.wf_memPut h a v), memGet_memPut h, List.length_cons]
    by_cases e : b = a
    · subst e; rw [if_neg (by omega), if_pos rfl, if_pos (by omega)]; simp
    · by_cases i : a + 1 ≤ b ∧ b < a + 1 + t.length
      · rw [if_pos i, if_pos (by omega), show b - a = (b - (a + 1)) + 1 by omega, List.getElem?_cons_succ]
      · rw [if_neg i, if_neg e, if_neg (by omega)]

/-- What a read of `n` bytes holds depends on those bytes alone. -/
theorem memRead_congr {m k : List Host.Cell} {a n : Nat} (h : ∀ b, a ≤ b → b < a + n → memGet m b = memGet k b) : memRead m a n = memRead k a n := by
  induction n generalizing a with
  | zero => rfl
  | succ n ih => rw [memRead, memRead, h a (by omega) (by omega), ih (fun b h1 h2 => h b (by omega) (by omega))]

/-- A read of `n` bytes is below 256 ^ n. -/
theorem memRead_lt (m : List Host.Cell) (a n : Nat) : memRead m a n < 256 ^ n := by
  induction n generalizing a with
  | zero => exact Nat.one_pos
  | succ n ih =>
    have := ih (a + 1); have := (memGet m a).isLt
    rw [memRead, Nat.pow_succ]; omega

/-! ## Sets and tables kept in order -/

/-- Membership after an insertion. -/
theorem mem_setIns (l : List Nat) (a b : Nat) : b ∈ setIns l a ↔ b = a ∨ b ∈ l := by
  induction l with
  | nil => simp [setIns]
  | cons c t ih =>
    unfold setIns
    split
    · next e => subst e; simp
    · split
      · simp
      · simp only [List.mem_cons, ih]; tauto

/-- Membership after a removal. -/
theorem mem_setDel (l : List Nat) (a b : Nat) : b ∈ setDel l a ↔ b ∈ l ∧ b ≠ a := by simp [setDel]

/-- A key just set reads back, in any table. -/
@[simp] theorem tget_tset_self {α : Type} (d : α) (t : Table α) (k : Nat) (v : α) : tget d (tset t k v) k = v := by
  induction t with
  | nil => simp [tset, tget]
  | cons c t ih =>
    obtain ⟨i, u⟩ := c
    unfold tset
    split
    · simp [tget]
    · split
      · simp [tget]
      · next ne _ => rw [tget, if_neg ne, ih]

/-- A key other than the one set keeps its value, in any table. -/
theorem tget_tset_ne {α : Type} (d : α) (t : Table α) {k j : Nat} (h : j ≠ k) (v : α) : tget d (tset t k v) j = tget d t j := by
  induction t with
  | nil => simp [tset, tget, Ne.symm h]
  | cons c t ih =>
    obtain ⟨i, u⟩ := c
    unfold tset
    split
    · next e => subst e; simp [tget, Ne.symm h]
    · split
      · rw [tget, if_neg (Ne.symm h)]
      · simp only [tget, ih]

/-- A key set reads back, and every other key is what it was. -/
theorem tget_tset {α : Type} (d : α) (t : Table α) (k j : Nat) (v : α) : tget d (tset t k v) j = if j = k then v else tget d t j := by
  by_cases e : j = k
  · rw [if_pos e, e, tget_tset_self]
  · rw [if_neg e, tget_tset_ne d t e]

/-! ## The parts of the state held in tables -/

@[simp] theorem State.bench_setBench (s : State) (b : Nat) (k : Bench) : (s.setBench b k).bench b = k := tget_tset_self _ _ _ _
theorem State.bench_setBench_ne (s : State) {b c : Nat} (h : c ≠ b) (k : Bench) : (s.setBench b k).bench c = s.bench c := tget_tset_ne _ _ h _
@[simp] theorem State.core_setCore (s : State) (c : Nat) (k : Core) : (s.setCore c k).core c = k := tget_tset_self _ _ _ _
theorem State.core_setCore_ne (s : State) {c d : Nat} (h : d ≠ c) (k : Core) : (s.setCore c k).core d = s.core d := tget_tset_ne _ _ h _
@[simp] theorem State.ctx_setCtx (s : State) (k : Nat) (c : Ctx) : (s.setCtx k c).ctx k = c := tget_tset_self _ _ _ _
theorem State.ctx_setCtx_ne (s : State) {k j : Nat} (h : j ≠ k) (c : Ctx) : (s.setCtx k c).ctx j = s.ctx j := tget_tset_ne _ _ h _
@[simp] theorem State.queueOf_setQueue (s : State) (n : Nat) (l : List CmdRec) : (s.setQueue n l).queueOf n = l := tget_tset_self _ _ _ _
@[simp] theorem State.partn_setPart (s : State) (p : BitVec 3) (q : Part) : (s.setPart p q).partn p = q := by simp [State.partn, State.setPart]
theorem State.partn_setPart_ne (s : State) {p r : BitVec 3} (h : r ≠ p) (q : Part) : (s.setPart p q).partn r = s.partn r := by
  simp only [State.partn, State.setPart]
  exact Vector.getElem_set_ne _ _ (fun e => h (BitVec.eq_of_toNat_eq e.symm))

end Sys2Proof.Machine
end

