-- ==== Sys2Proof/Laws/Registers.lean ====
section
/-! SUPPORT. Reads of registers after writes of registers. -/

namespace Sys2Proof.Machine

/-! ## Scalar registers (R10) -/

@[simp] theorem Hart.getX_zero (h : Hart) : h.getX 0 = 0 := rfl
@[simp] theorem Hart.setX_zero (h : Hart) (v : Word) : h.setX 0 v = h := rfl

/-- A register written reads back unless it is x0; every other register is what it was. -/
theorem Hart.getX_setX (h : Hart) (r q : Reg) (v : Word) : (h.setX r v).getX q = if q = r ∧ r ≠ 0 then v else h.getX q := by
  unfold Hart.setX
  by_cases hr : r = 0
  · rw [if_pos hr, if_neg (fun c => c.2 hr)]
  · rw [if_neg hr]
    unfold Hart.getX
    by_cases hq : q = 0
    · rw [if_pos hq, if_pos hq, if_neg (fun c => c.2 (c.1 ▸ hq))]
    · rw [if_neg hq, if_neg hq]
      by_cases e : q = r
      · subst e; rw [if_pos ⟨rfl, hr⟩]; exact Vector.getElem_set_self _
      · rw [if_neg (fun c => e c.1)]
        exact Vector.getElem_set_ne (by have := r.isLt; omega) (by have := q.isLt; omega) (fun c => e (BitVec.eq_of_toNat_eq c.symm))

theorem Hart.getX_setX_self (h : Hart) {r : Reg} (hr : r ≠ 0) (v : Word) : (h.setX r v).getX r = v := by rw [Hart.getX_setX, if_pos ⟨rfl, hr⟩]
theorem Hart.getX_setX_ne (h : Hart) {r q : Reg} (hq : q ≠ r) (v : Word) : (h.setX r v).getX q = h.getX q := by rw [Hart.getX_setX, if_neg (fun c => hq c.1)]

@[simp] theorem State.getX_zero (s : State) : s.getX 0 = 0 := rfl
@[simp] theorem State.setX_zero (s : State) (v : Word) : s.setX 0 v = s := rfl
theorem State.getX_setX (s : State) (r q : Reg) (v : Word) : (s.setX r v).getX q = if q = r ∧ r ≠ 0 then v else s.getX q := Hart.getX_setX s.hart r q v

/-! ## Vector registers, masks and bindings -/

/-- A vector register written reads back, and no other changes. -/
theorem Hart.vreg_setV (h : Hart) (r q : Nat) (v : VReg) : (h.setV r v).vreg q = if q = r ∧ r < 32 then v else h.vreg q := by
  unfold Hart.setV Hart.vreg
  by_cases hr : r < 32
  · by_cases hq : q < 32
    · by_cases e : q = r
      · subst e; simp [hr]
      · simp [hr, hq, e, Vector.getElem_set_ne _ _ (Ne.symm e)]
    · have : ¬ (q = r) := fun e => hq (e ▸ hr)
      simp [hr, hq, this]
  · simp [hr]

/-- A mask written reads back, and no other changes. -/
theorem Hart.mask_setMask (h : Hart) (n k v : Nat) : (h.setMask n v).mask k = if k = n ∧ 1 ≤ n ∧ n ≤ 7 then v else h.mask k := by
  unfold Hart.setMask Hart.mask
  by_cases hn : 1 ≤ n ∧ n ≤ 7
  · by_cases hk : 1 ≤ k ∧ k ≤ 7
    · by_cases e : k = n
      · subst e; simp [hn]
      · have : n - 1 ≠ k - 1 := by omega
        simp [hn, hk, e, Vector.getElem_set_ne _ _ this]
    · have : ¬ (k = n) := fun e => hk (e ▸ hn)
      simp [hn, hk, this]
  · simp [hn]

/-- A binding written reads back, and no other changes. -/
theorem Hart.binding_setBinding (h : Hart) (r q : Nat) (b : Option Binding) :
    (h.setBinding r b).binding q = if q = r ∧ 24 ≤ r ∧ r < 32 then b else h.binding q := by
  unfold Hart.setBinding Hart.binding
  by_cases hr : 24 ≤ r ∧ r < 32
  · by_cases hq : 24 ≤ q ∧ q < 32
    · by_cases e : q = r
      · subst e; simp [hr]
      · have : r - 24 ≠ q - 24 := by omega
        simp [hr, hq, e, Vector.getElem_set_ne _ _ this]
    · have : ¬ (q = r) := fun e => hq (e ▸ hr)
      simp [hr, hq, this]
  · simp [hr]

/-- No binding, no stream read ahead: dropping what was read ahead changes nothing where no register is bound. -/
theorem Hart.dropAhead_unbound (h : Hart) (e : h.streams = Vector.replicate 8 none) : h.dropAhead = h := by
  unfold Hart.dropAhead
  have : h.streams.map (fun b => b.map (fun x => ({ x with ahead := [] } : Binding))) = h.streams := by rw [e]; simp
  rw [this]

/-- The vector registers of a hart as a function. -/
theorem Hart.vreg_lt (h : Hart) {r : Nat} (hr : r < 32) : h.vreg r = h.v[r] := by simp [Hart.vreg, hr]

end Sys2Proof.Machine
end

