-- ==== Sys2Proof/Laws/Operations.lean ====
section
/-! SUPPORT. What the shared operations do: completing an instruction, taking a trap, and what each operation on the way to memory leaves of it. -/

namespace Sys2Proof.Machine

open Sys2Proof.Claim

/-! ## Completion (R35, R39) -/

/-- A hart that does not single-step and raises no enabled flag owes nothing but what its instruction says. -/
theorem owedList_steady {h : Hart} (hs : h.stepping = false) {fl : BitVec 7} (hf : fl &&& h.enables = 0) (npc : Word) (pre post : List Owed) :
    owedList h npc fl pre post = pre ++ post := by simp [owedList, hs, hf]

/-- An instruction that owes no trap moves PC, INSTRET and the sticky flags, and nothing else. -/
theorem completeAt_steady {s : State} (hs : Steady s) {fl : BitVec 7} (hf : fl &&& s.hart.enables = 0) (npc : Word) (kn : BitVec 2) :
    completeAt npc fl [] [] kn s = retired npc fl s := by
  have h0 : (fl ||| s.hart.partFlags) &&& s.hart.enables = 0 := by simpa [hs.2] using hf
  simp [completeAt, owedList_steady hs.1 h0, enterOwed, retired]

theorem finishFlags_steady {s : State} (hs : Steady s) {fl : BitVec 7} (hf : fl &&& s.hart.enables = 0) (len : Nat) :
    finishFlags len fl s = retired (s.hart.pc + BitVec.ofNat 64 len) fl s := completeAt_steady hs hf _ _

theorem finish_steady {s : State} (hs : Steady s) (len : Nat) : finish len s = passed len s := finishFlags_steady hs (by simp) len

theorem finishTo_steady {s : State} (hs : Steady s) (t : Word) : finishTo t s = retired (pcValue t) 0 s := completeAt_steady hs (by simp) _ _

/-- A register write changes neither the step bit nor the enables. -/
theorem steady_setX {s : State} (hs : Steady s) (d : Reg) (v : Word) : Steady (s.setX d v) := by
  unfold Steady Hart.stepping Hart.prv at *; simpa using hs

theorem writeInt_steady {s : State} (hs : Steady s) (len : Nat) (d : Reg) (v : Word) : writeInt len d v s = wrote len d v s := by
  rw [writeInt, finish_steady (steady_setX hs d v)]; simp [wrote, passed]

theorem scalarStep_ok {s t : State} (hs : Steady t) (len : Nat) : scalarStep len s (.ok t) = passed len t := finish_steady hs len
theorem scalarStep_error {s : State} (len : Nat) (r : TrapReq) : scalarStep len s (.error r) = trapHere r s := rfl

/-! ## Traps (R34, R328) -/

/-- The status that trap entry leaves: the level, and IE clear. -/
theorem entry_status (w : Word) (m : Bool) : setBit (setField w 0 2 (if m then 3 else 1)) 2 false = (w &&& ~~~7#64) ||| (if m then 3 else 1) := by
  have k : ∀ i : Fin 64, (18446744073709551612#64)[i] = decide (2 ≤ i.val) ∧ (18446744073709551611#64)[i] = decide (i.val ≠ 2)
      ∧ (18446744073709551608#64)[i] = decide (3 ≤ i.val) ∧ (3#64)[i] = decide (i.val < 2) := by decide
  cases m <;> simp only [setBit, setField] <;> ext i hi <;> simp <;> obtain ⟨k1, k2, k3, k4⟩ := k ⟨i, hi⟩ <;>
    simp only [Fin.getElem_fin] at k1 k2 k3 k4 <;> simp only [k1, k2, k3, k4] <;>
    by_cases h0 : i = 0 <;> by_cases h1 : i = 1 <;> by_cases h2 : i = 2 <;> simp_all <;>
    rw [show decide (2 ≤ i) = true from decide_eq_true (by omega), show decide (3 ≤ i) = true from decide_eq_true (by omega)]

/-- A trap whose cause is below 0x80, that no second stage found and that reports nothing, is the trap entry of the claims. -/
theorem enterTrap_plain {c : BitVec 8} (hc : c.toNat < 0x80) (v pc : Word) (s : State) : enterTrap (trapOf c v) pc s = trapped c v pc s := by
  have nc : ¬ (c.toNat ≥ 0x80) := by omega
  have hm : (s.hart.prv == 3) = decide (s.hart.status.extractLsb' 0 2 = 3) := by
    rw [Bool.eq_iff_iff, beq_iff_eq, decide_eq_true_eq, Hart.prv]
    exact ⟨fun h => BitVec.eq_of_toNat_eq h, fun h => by rw [h]; rfl⟩
  unfold enterTrap trapped trapOf
  by_cases h3 : s.hart.status.extractLsb' 0 2 = 3
  · have e := entry_status s.hart.status true
    simp only [if_true] at e
    simp only [noteAll, List.foldl_nil, nc, if_false, hm, h3, decide_true, Option.isSome_none, Bool.or_false, if_true, e]
  · have e := entry_status s.hart.status false
    simp only [Bool.false_eq_true, if_false] at e
    simp only [noteAll, List.foldl_nil, nc, if_false, hm, h3, decide_false, Option.isSome_none, Bool.or_false, Bool.false_eq_true, e]

theorem trapHere_plain {c : BitVec 8} (hc : c.toNat < 0x80) (v : Word) (s : State) : trapHere (trapOf c v) s = trappedHere c v s := enterTrap_plain hc v s.hart.pc s

theorem illegal_plain (i : Instr) (s : State) : illegal i s = trappedHere 0x00 (instrBits i) s := trapHere_plain (by decide) _ s
theorem privileged_plain (i : Instr) (s : State) : privileged i s = trappedHere 0x01 (instrBits i) s := trapHere_plain (by decide) _ s

/-! ## What the operations on the way to memory leave of it -/

/-- Folding an operation that leaves something of the state leaves it. -/
theorem foldl_keeps {α β : Type} (g : State → β) {f : State → α → State} (hf : ∀ s a, g (f s a) = g s) (s : State) (l : List α) : g (l.foldl f s) = g s := by
  induction l generalizing s with
  | nil => rfl
  | cons a t ih => rw [List.foldl_cons, ih, hf]

/-- Folding an operation that keeps a property keeps it. -/
theorem foldl_inv {α : Type} (P : State → Prop) {f : State → α → State} (hf : ∀ s a, P s → P (f s a)) {s : State} (h : P s) (l : List α) : P (l.foldl f s) := by
  induction l generalizing s with
  | nil => exact h
  | cons a t ih => exact ih (hf s a h)

/-- Folding an operation that keeps memory canonical keeps it canonical. -/
theorem foldl_wf {α : Type} {f : State → α → State} (hf : ∀ s a, Memory.wf s.mem = true → Memory.wf (f s a).mem = true) {s : State} (h : Memory.wf s.mem = true)
    (l : List α) : Memory.wf (l.foldl f s).mem = true := foldl_inv (fun t => Memory.wf t.mem = true) hf h l

/-! ### Writes at a home -/

/-- Bytes merged at their home write memory, check values, marks and the older values walks may read. -/
theorem mergeBytes_mem (s : State) (pa : Nat) (bs : List Byte) : (mergeBytes s pa bs).mem = memPutAll s.mem pa bs := by
  simp only [mergeBytes]; rw [foldl_keeps State.mem (f := State.setPoison) (fun _ _ => rfl)]

/-- Bytes merged at their home keep memory canonical. -/
theorem mergeBytes_wf {s : State} (h : Memory.wf s.mem = true) (pa : Nat) (bs : List Byte) : Memory.wf (mergeBytes s pa bs).mem = true := by
  rw [mergeBytes_mem]; exact Memory.wf_memPutAll h _ _

/-- Bytes merged at their home stand there, and no other byte of memory changes. -/
theorem mergeBytes_get {s : State} (h : Memory.wf s.mem = true) (pa : Nat) (bs : List Byte) (b : Nat) :
    memGet (mergeBytes s pa bs).mem b = if pa ≤ b ∧ b < pa + bs.length then (bs[b - pa]?).getD 0 else memGet s.mem b := by
  rw [mergeBytes_mem]; exact memGet_memPutAll h pa b bs

theorem mergeBytes_hart (s : State) (pa : Nat) (bs : List Byte) : (mergeBytes s pa bs).hart = s.hart := by
  simp only [mergeBytes]; exact foldl_keeps State.hart (f := State.setPoison) (fun _ _ => rfl) s _

theorem mergeBytes_others (s : State) (pa : Nat) (bs : List Byte) : (mergeBytes s pa bs).others = s.others := by
  simp only [mergeBytes]; exact foldl_keeps State.others (f := State.setPoison) (fun _ _ => rfl) s _

/-- What merges, marks and the snapshots' lists keep, a write that waits for snapshots keeps. -/
theorem heldWrite_inv (P : State → Prop) (hm : ∀ s pa bs, P s → P (mergeBytes s pa bs)) (hp : ∀ s k, P s → P (State.setPoison s k))
    (hc : ∀ s k, P s → P (State.clearPoison s k)) (hs : ∀ (s : State) l, P s → P { s with snaps := l }) (n : Nat) :
    ∀ (s : State) (pa : Nat) (bs : List Byte), P s → P (heldWrite n s pa bs) := by
  induction n with
  | zero => intro s pa bs h; rw [heldWrite]; exact hm _ _ _ (foldl_inv P (f := bufferPage) (fun s p h => hs s _ h) h _)
  | succ n ih =>
    intro s pa bs h
    rw [heldWrite]
    refine hm _ _ _ (foldl_inv P (fun s p h => ?_) h _)
    dsimp only
    split
    · exact h
    · refine hs _ _ ?_
      split
      · exact h
      · split
        · exact h
        · split
          · exact hs _ _ (hs _ _ h)
          · split
            · exact hs _ _ h
            · exact foldl_inv P (fun s i h => by split <;> [exact hp _ _ h; exact hc _ _ h]) (ih _ _ _ (hs _ _ h)) _

/-- A write at its home keeps memory canonical. -/
theorem homeWrite_wf {s : State} (h : Memory.wf s.mem = true) (pa : Nat) (bs : List Byte) : Memory.wf (homeWrite s pa bs).mem = true := by
  rw [homeWrite]
  repeat' split
  · exact h
  · exact mergeBytes_wf h _ _
  · exact heldWrite_inv (fun t => Memory.wf t.mem = true) (fun _ _ _ h => mergeBytes_wf h _ _) (fun _ _ h => h) (fun _ _ h => h) (fun _ _ h => h) 8 _ _ _ h

theorem homeWrite_hart (s : State) (pa : Nat) (bs : List Byte) : (homeWrite s pa bs).hart = s.hart := by
  rw [homeWrite]
  repeat' split
  · rfl
  · exact mergeBytes_hart s pa bs
  · exact heldWrite_inv (fun t => t.hart = s.hart) (fun t _ _ h => (mergeBytes_hart t _ _).trans h) (fun _ _ h => h) (fun _ _ h => h) (fun _ _ h => h) 8 _ _ _ rfl

theorem homeWrite_others (s : State) (pa : Nat) (bs : List Byte) : (homeWrite s pa bs).others = s.others := by
  rw [homeWrite]
  repeat' split
  · rfl
  · exact mergeBytes_others s pa bs
  · exact heldWrite_inv (fun t => t.others = s.others) (fun t _ _ h => (mergeBytes_others t _ _).trans h) (fun _ _ h => h) (fun _ _ h => h) (fun _ _ h => h) 8 _ _ _ rfl

/-- A page that no snapshot has still to copy makes no write wait (R323). -/
theorem heldWrite_unheld {s : State} {pa : Nat} {bs : List Byte} (n : Nat) (hu : Unheld s pa bs.length) : heldWrite (n + 1) s pa bs = mergeBytes s pa bs := by
  have none_of (p : Nat) (hp : pageHeld s p = false) :
      s.snaps.findSome? (fun k => (k.pages.find? (fun q => q.1 == p)).map (fun q => q.2.1)) = none := by
    rw [List.findSome?_eq_none_iff]
    intro k hk
    rw [pageHeld, List.any_eq_false] at hp
    have := hp k hk
    rw [Option.map_eq_none_iff, List.find?_eq_none]
    intro q hq he
    exact this (List.any_eq_true.mpr ⟨q, hq, he⟩)
  rw [heldWrite]
  congr 1
  have : ∀ l : List Nat, (∀ p ∈ l, pageHeld s p = false) → ∀ f : State → Nat → State, (∀ p, pageHeld s p = false → f s p = s) → l.foldl f s = s := by
    intro l
    induction l with
    | nil => intros; rfl
    | cons a t ih =>
      intro hl f hf
      rw [List.foldl_cons, hf a (hl a (by simp))]
      exact ih (fun p hp => hl p (by simp [hp])) f hf
  refine this _ hu _ (fun p hp => ?_)
  dsimp only
  rw [none_of p hp]

/-- A write at a home that can be reached, of pages no snapshot waits for, merges its bytes. -/
theorem homeWrite_eq {s : State} {pa : Nat} {bs : List Byte} (up : linkDown s pa = false) (hu : Unheld s pa bs.length) : homeWrite s pa bs = mergeBytes s pa bs := by
  rw [homeWrite, up]
  split
  · contradiction
  · split
    · rfl
    · exact heldWrite_unheld 7 hu

/-! ### Reports -/

@[simp] theorem pend_mem (s : State) (p : BitVec 3) (c : BitVec 8) (v : Word) : (s.pend p c v).mem = s.mem := rfl
@[simp] theorem pend_hart (s : State) (p : BitVec 3) (c : BitVec 8) (v : Word) : (s.pend p c v).hart = s.hart := rfl
@[simp] theorem pend_others (s : State) (p : BitVec 3) (c : BitVec 8) (v : Word) : (s.pend p c v).others = s.others := rfl

/-- A record in a ring keeps memory canonical. -/
theorem ringPut_wf {s : State} (h : Memory.wf s.mem = true) (base seq : Word) (r : RasReport) : Memory.wf (ringPut s base seq r).mem = true := by
  exact homeWrite_wf h _ _

@[simp] theorem ringPut_hart (s : State) (base seq : Word) (r : RasReport) : (ringPut s base seq r).hart = s.hart := homeWrite_hart _ _ _
@[simp] theorem ringPut_others (s : State) (base seq : Word) (r : RasReport) : (ringPut s base seq r).others = s.others := homeWrite_others _ _ _

theorem reportMonitor_wf {s : State} (h : Memory.wf s.mem = true) (r : RasReport) : Memory.wf (reportMonitor r s).mem = true := by
  simp only [reportMonitor]
  split
  · exact h
  · simp only [State.sendMsix_mem]; exact ringPut_wf h s.ras.mbase s.ras.mseq r

theorem reportPartition_wf {s : State} (h : Memory.wf s.mem = true) (r : RasReport) (p : BitVec 3) : Memory.wf (reportPartition r p s).mem = true := by
  simp only [reportPartition]
  split
  · exact h
  · simp only [pend_mem]; exact ringPut_wf h _ _ r

/-- A report keeps memory canonical: it writes ring records and nothing else of memory. -/
theorem report_wf {s : State} (h : Memory.wf s.mem = true) (r : RasReport) : Memory.wf (s.report r).mem = true := by
  have h1 := reportMonitor_wf (s := s.count (0x1C00 + 8 * (r.typ % 32)) 1) (by rw [State.count_mem]; exact h) r
  unfold State.report
  cases r.part with
  | none => exact h1
  | some p => exact reportPartition_wf h1 r p

theorem reportAll_wf {s : State} (h : Memory.wf s.mem = true) (l : List RasReport) : Memory.wf (s.reportAll l).mem = true := by
  rw [State.reportAll]
  induction l generalizing s with
  | nil => exact h
  | cons r t ih => exact ih (report_wf h r)

theorem reportMonitor_hart (r : RasReport) (s : State) : (reportMonitor r s).hart = s.hart := by
  simp only [reportMonitor]; split
  · rfl
  · simp only [State.sendMsix_hart, ringPut_hart]
theorem reportMonitor_others (r : RasReport) (s : State) : (reportMonitor r s).others = s.others := by
  simp only [reportMonitor]; split
  · rfl
  · simp only [State.sendMsix_others, ringPut_others]
theorem reportPartition_hart (r : RasReport) (p : BitVec 3) (s : State) : (reportPartition r p s).hart = s.hart := by
  simp only [reportPartition]; split
  · rfl
  · simp only [pend_hart, ringPut_hart]
theorem reportPartition_others (r : RasReport) (p : BitVec 3) (s : State) : (reportPartition r p s).others = s.others := by
  simp only [reportPartition]; split
  · rfl
  · simp only [pend_others, ringPut_others]

/-- A report leaves the current hart as it was. -/
theorem report_hart (s : State) (r : RasReport) : (s.report r).hart = s.hart := by
  unfold State.report
  cases r.part with
  | none => simp only [reportMonitor_hart, State.count_hart]
  | some p => simp only [reportPartition_hart, reportMonitor_hart, State.count_hart]

/-- A report leaves the other harts as they were. -/
theorem report_others (s : State) (r : RasReport) : (s.report r).others = s.others := by
  unfold State.report
  cases r.part with
  | none => simp only [reportMonitor_others, State.count_others]
  | some p => simp only [reportPartition_others, reportMonitor_others, State.count_others]

@[simp] theorem activate_mem (s : State) (bank row : Nat) : (activate s bank row).mem = s.mem := by rw [activate]; split <;> rfl
@[simp] theorem activate_hart (s : State) (bank row : Nat) : (activate s bank row).hart = s.hart := by rw [activate]; split <;> rfl
@[simp] theorem runRfm_mem (s : State) (bank : Nat) : (runRfm s bank).mem = s.mem := by rw [runRfm]; split <;> rfl
@[simp] theorem runRfm_hart (s : State) (bank : Nat) : (runRfm s bank).hart = s.hart := by rw [runRfm]; split <;> rfl

@[simp] theorem hbmRequest_mem (s : State) (pa : Nat) : (hbmRequest s pa).mem = s.mem := by
  rw [hbmRequest]; split <;> split <;> simp only [activate_mem, runRfm_mem, State.updChannel_mem]
@[simp] theorem hbmRequest_hart (s : State) (pa : Nat) : (hbmRequest s pa).hart = s.hart := by
  rw [hbmRequest]; split <;> split <;> simp only [activate_hart, runRfm_hart, State.updChannel_hart]

@[simp] theorem memoryRequest_mem (s : State) (k : Nat) : (memoryRequest s k).mem = s.mem := by
  rw [memoryRequest]; split
  · exact hbmRequest_mem s k
  · rfl
@[simp] theorem memoryRequest_hart (s : State) (k : Nat) : (memoryRequest s k).hart = s.hart := by
  rw [memoryRequest]; split
  · exact hbmRequest_hart s k
  · rfl

/-! ### Check values and L2 slices -/

theorem verifyHome_wf {s : State} (h : Memory.wf s.mem = true) (p : Option (BitVec 3)) (k home : Nat) : Memory.wf (verifyHome s p k home).mem = true := by
  unfold verifyHome; split
  · exact report_wf (s := (s.setPoison k).count _ 1) h _
  · exact h

theorem verifyHome_hart (s : State) (p : Option (BitVec 3)) (k home : Nat) : (verifyHome s p k home).hart = s.hart := by
  unfold verifyHome; split
  · exact (report_hart _ _).trans rfl
  · rfl

/-- Where no check value differs, there is nothing to find (R416). -/
theorem homeFails_none {s : State} (h : NoUpset s) (k : Nat) : homeFails s k = false := by
  have h0 : tget 0 s.upsets k = 0 := by rw [h]; rfl
  simp [homeFails, checkFails, h0]

theorem verifyHome_none {s : State} (h : NoUpset s) (p : Option (BitVec 3)) (k home : Nat) : verifyHome s p k home = s := by
  rw [verifyHome, homeFails_none h]; simp

theorem undoUpset_wf {s : State} (h : Memory.wf s.mem = true) (k : Nat) : Memory.wf (undoUpset s k).mem = true := by
  unfold undoUpset; split
  · exact h
  · dsimp only; exact Memory.wf_memPutAll h _ _

theorem undoUpset_hart (s : State) (k : Nat) : (undoUpset s k).hart = s.hart := by rw [undoUpset]; split <;> rfl

theorem leaveSlice_wf {s : State} (h : Memory.wf s.mem = true) (k : Nat) (e : L2Sector) : Memory.wf (leaveSlice s k e).mem = true := by
  have hm : Memory.wf (memoryRequest s k).mem = true := by rw [memoryRequest_mem]; exact h
  unfold leaveSlice
  split
  · dsimp only
    split
    · exact verifyHome_wf hm _ _ _
    · exact hm
  · exact undoUpset_wf h k

theorem leaveSlice_hart (s : State) (k : Nat) (e : L2Sector) : (leaveSlice s k e).hart = s.hart := by
  unfold leaveSlice
  split
  · dsimp only
    split
    · exact (verifyHome_hart _ _ _ _).trans (memoryRequest_hart s k)
    · exact memoryRequest_hart s k
  · exact undoUpset_hart s k

theorem evictSector_wf {s : State} (h : Memory.wf s.mem = true) (k : Nat) : Memory.wf (evictSector s k).mem = true := by
  unfold evictSector
  split
  · exact h
  · exact leaveSlice_wf h k _

theorem evictSector_hart (s : State) (k : Nat) : (evictSector s k).hart = s.hart := by
  unfold evictSector
  split
  · rfl
  · exact leaveSlice_hart s k _

theorem sliceRoom_wf {s : State} (h : Memory.wf s.mem = true) (home line : Nat) : Memory.wf (sliceRoom s home line).mem = true := by
  rw [sliceRoom]
  dsimp only
  repeat' split
  all_goals first | exact h | exact foldl_wf (fun s k hs => evictSector_wf hs k) h _

theorem sliceRoom_hart (s : State) (home line : Nat) : (sliceRoom s home line).hart = s.hart := by
  rw [sliceRoom]
  dsimp only
  repeat' split
  all_goals first | rfl | exact foldl_keeps State.hart evictSector_hart s _

/-- An access on its way keeps memory canonical. -/
theorem touch_wf {s : State} (h : Memory.wf s.mem = true) (part : BitVec 3) (k : Nat) (ab : Option Nat) (uc wr alloc : Bool) :
    Memory.wf (touch s part k ab uc wr alloc).mem = true := by
  have hv := verifyHome_wf h (some part) k (homeBench k ab)
  have hm : Memory.wf (memoryRequest (verifyHome s (some part) k (homeBench k ab)) k).mem = true := by rw [memoryRequest_mem]; exact hv
  unfold touch
  dsimp only
  repeat' split
  all_goals first | exact report_wf h _ | exact hv | exact hm | exact sliceRoom_wf hm _ _

/-- An access on its way leaves the current hart as it was. -/
theorem touch_hart (s : State) (part : BitVec 3) (k : Nat) (ab : Option Nat) (uc wr alloc : Bool) : (touch s part k ab uc wr alloc).hart = s.hart := by
  have hv := verifyHome_hart s (some part) k (homeBench k ab)
  have hm : (memoryRequest (verifyHome s (some part) k (homeBench k ab)) k).hart = s.hart := by rw [memoryRequest_hart]; exact hv
  unfold touch
  dsimp only
  repeat' split
  all_goals first | exact report_hart _ _ | exact hv | exact hm | (rw [← hm]; exact sliceRoom_hart _ _ _)

/-! ### Translations -/

/-- What an attempt at a translation leaves to be done keeps memory canonical. -/
theorem noteAll_wf {s : State} (h : Memory.wf s.mem = true) (l : List Note) : Memory.wf (noteAll s l).mem = true := by
  rw [noteAll]
  refine foldl_wf (fun s n hs => ?_) h l
  cases n with
  | ras r => exact report_wf hs r
  | entry p pa => exact touch_wf hs _ _ _ _ _ _

theorem noteAll_hart (s : State) (l : List Note) : (noteAll s l).hart = s.hart := by
  rw [noteAll]
  refine foldl_keeps State.hart (fun s n => ?_) s l
  cases n with
  | ras r => exact report_hart s r
  | entry p pa => exact touch_hart _ _ _ _ _ _ _

theorem noteWalk_wf {s : State} (h : Memory.wf s.mem = true) (i : Option HartId) (m : Mapped) : Memory.wf (noteWalk s i m).mem = true := by
  unfold noteWalk
  split
  · exact h
  · exact noteAll_wf h _
  · split
    · exact h
    · exact noteAll_wf h _

theorem noteWalk_hart (s : State) (i : Option HartId) (m : Mapped) : (noteWalk s i m).hart = s.hart := by
  unfold noteWalk
  split
  · rfl
  · exact noteAll_hart s _
  · split
    · rfl
    · exact noteAll_hart s _

/-- A write of core `c` that performs keeps memory canonical. -/
theorem performWrite_wf {s : State} (h : Memory.wf s.mem = true) (c : Nat) (part : BitVec 3) (w : MemWrite) : Memory.wf (performWrite c part s w).mem = true := by
  have h1 := foldl_wf (f := fun s k => touch s part k w.abench w.uc true true) (fun s k hs => touch_wf hs part k _ _ true true) h (sectorsOf w.pa w.n)
  have h2 (v : Nat) := homeWrite_wf h1 w.pa (w.bytes v)
  have patch (s : State) (bs : List Byte) : (patchL1 s c w.pa w.n bs).mem = s.mem := by unfold patchL1; split <;> rfl
  have drop (s : State) (l : List Nat) : (dropSectors s c l).mem = s.mem := by unfold dropSectors; split <;> rfl
  have marks (l : List Nat) (s : State) : (l.foldl State.setPoison s).mem = s.mem := foldl_keeps State.mem (f := State.setPoison) (fun _ _ => rfl) s l
  unfold performWrite
  dsimp only
  split
  · rw [marks, drop, patch]; exact h2 _
  · rw [patch]; exact h2 _

theorem performEntry_wf {s : State} (h : Memory.wf s.mem = true) (c : Nat) (part : BitVec 3) (e : BufferedStore) : Memory.wf (performEntry c part s e).mem = true := by
  unfold performEntry
  dsimp only
  rw [foldl_keeps State.mem (f := State.clearPoison) (fun s k => rfl)]
  refine foldl_wf (fun s w hs => performWrite_wf hs c part w) ?_ _
  split <;> exact h

theorem performOldest_wf {s : State} (h : Memory.wf s.mem = true) (n : Nat) : Memory.wf (performOldest n s).mem = true := by
  rw [performOldest]
  exact foldl_wf (fun s e hs => performEntry_wf hs _ _ e) h _

/-- Draining the store buffer keeps memory canonical. -/
theorem drainStores_wf {s : State} (h : Memory.wf s.mem = true) : Memory.wf (drainStores s).mem = true := by
  rw [drainStores]; split
  · exact h
  · exact performOldest_wf h _

theorem drainThrough_wf {s : State} (h : Memory.wf s.mem = true) (p : BufferedStore → Bool) : Memory.wf (drainThrough p s).mem = true := by
  rw [drainThrough]; split
  · exact h
  · exact performOldest_wf h _

/-- A hart with no buffered store drains nothing. -/
theorem drainStores_empty {s : State} (h : s.hart.stores = []) : drainStores s = s := by rw [drainStores, h]; rfl
theorem drainThrough_empty {s : State} (h : s.hart.stores = []) (p : BufferedStore → Bool) : drainThrough p s = s := by rw [drainThrough, h]; rfl

/-- A store of the current hart keeps memory canonical. -/
theorem commitEntry_wf {s : State} (h : Memory.wf s.mem = true) (e : BufferedStore) : Memory.wf (commitEntry s e).mem = true := by
  rw [commitEntry]; split
  · exact h
  · exact performEntry_wf (drainStores_wf h) _ _ e

theorem commitStore_wf {s : State} (h : Memory.wf s.mem = true) (m : Mapped) (n v : Nat) : Memory.wf (commitStore s m n v).mem = true :=
  commitEntry_wf (drainThrough_wf (noteWalk_wf h _ _) _) _

/-! ### Loads -/

theorem fillL1_wf {s : State} (h : Memory.wf s.mem = true) (nt : Bool) (ab : Option Nat) (k : Nat) : Memory.wf (fillL1 nt ab s k).mem = true := by
  have h1 := touch_wf h s.hart.partid k ab false false true
  unfold fillL1
  dsimp only
  split
  · exact h1
  · rw [State.setCore_mem]; exact h1

theorem loadSector_wf {s : State} (h : Memory.wf s.mem = true) (nt : Bool) (m : Mapped) (k : Nat) : Memory.wf (loadSector nt m s k).mem = true := by
  have drop (l : List Nat) : Memory.wf (dropSectors s (coreOf s.hart.id) l).mem = true := by unfold dropSectors; split <;> exact h
  unfold loadSector
  dsimp only
  split
  · exact touch_wf h _ _ _ _ _ _
  · split
    · exact h
    · refine fillL1_wf ?_ _ _ _
      split
      · exact drop _
      · exact h

/-- What a load does on the way keeps memory canonical. -/
theorem afterLoad_wf {s : State} (h : Memory.wf s.mem = true) (m : Mapped) (n : Nat) : Memory.wf (afterLoad s m n).mem = true :=
  foldl_wf (fun _ k hs => loadSector_wf hs false m k) (noteWalk_wf h _ _) _

/-! ### Traps and completion -/

/-- Taking a trap keeps memory canonical. -/
theorem enterTrap_wf {s : State} (h : Memory.wf s.mem = true) (t : TrapReq) (pc : Word) : Memory.wf (enterTrap t pc s).mem = true := by
  rw [enterTrap, State.withHart_mem]; exact noteAll_wf h t.notes

theorem trapHere_wf {s : State} (h : Memory.wf s.mem = true) (t : TrapReq) : Memory.wf (trapHere t s).mem = true := enterTrap_wf h t _

theorem enterOwed_wf {s : State} (h : Memory.wf s.mem = true) (l : List Owed) (kn : BitVec 2) : Memory.wf (enterOwed l kn s).mem = true := by
  cases l with
  | nil => exact h
  | cons o rest => rw [enterOwed]; refine enterTrap_wf ?_ _ _; split <;> exact h

/-- Completing an instruction keeps memory canonical. -/
theorem completeAt_wf {s : State} (h : Memory.wf s.mem = true) (npc : Word) (fl : BitVec 7) (pre post : List Owed) (kn : BitVec 2) :
    Memory.wf (completeAt npc fl pre post kn s).mem = true := by
  rw [completeAt]; refine enterOwed_wf ?_ _ _; rw [State.withHart_mem]; exact h

theorem finish_wf {s : State} (h : Memory.wf s.mem = true) (len : Nat) : Memory.wf (finish len s).mem = true := completeAt_wf h _ _ _ _ _
theorem writeInt_wf {s : State} (h : Memory.wf s.mem = true) (len : Nat) (d : Reg) (v : Word) : Memory.wf (writeInt len d v s).mem = true :=
  finish_wf (s := s.setX d v) h len

/-! ## Time and harts -/

/-- Making a hart current changes no memory. -/
theorem focus_mem (i : HartId) (s : State) : (focus i s).mem = s.mem := by
  rw [focus]
  split
  · rfl
  · split <;> rfl

/-- Doing something as another hart keeps memory canonical if the thing does. -/
theorem asHart_wf {f : State → State} (hf : ∀ s, Memory.wf s.mem = true → Memory.wf (f s).mem = true) (i : HartId) {s : State} (h : Memory.wf s.mem = true) :
    Memory.wf (asHart i f s).mem = true := by
  have hs : Memory.wf (f (focus i s)).mem = true := hf _ (by rw [focus_mem]; exact h)
  unfold asHart
  split
  · exact h
  · dsimp only
    split
    · split
      · rw [focus_mem]; exact hs
      · show Memory.wf (focus _ _).mem = true
        rw [focus_mem]; exact hs
    · exact hs

/-- A hart of another core or of this one acts on memory that older stores may have reached first: that keeps it canonical. -/
theorem settleLeft_wf {s : State} (h : Memory.wf s.mem = true) (covers : Nat → HartId → Bool) : Memory.wf (settleLeft covers s).mem = true :=
  foldl_wf (fun _ g hs => asHart_wf (fun _ ht => drainThrough_wf ht _) g.id hs) h _

/-- A change of a resident hart changes no memory. -/
@[simp] theorem updHart_mem (s : State) (i : HartId) (f : Hart → Hart) : (s.updHart i f).mem = s.mem := by rw [State.updHart]; split <;> rfl

/-! ## Orders left open -/

/-- An order left open is an order of the same list (R128). -/
theorem freeOrder_perm {α : Type} (n : Nat) (l : List α) : (freeOrder n l).Perm l :=
  ((List.perm_insertionSort _ _).map _).trans (by simp)

/-- A store's elements perform in an order of the same list (R128). -/
theorem storeOrder_perm {α : Type} (u : Bool) (n : Nat) (l : List α) : (storeOrder u n l).Perm l := by
  cases u
  · exact .refl _
  · exact freeOrder_perm n l

/-- Ordered elements perform in the order they stand (R128). -/
@[simp] theorem storeOrder_false {α : Type} (n : Nat) (l : List α) : storeOrder false n l = l := rfl

end Sys2Proof.Machine
end

