-- ==== Sys2Proof/Tests/Slice0.lean ====
section
/-! SUPPORT. Tests of this model: the bit rules refuse what they must, words written out from the manual's encodings decode to what they stand for, a few
single steps, and for every statement with hypotheses a state and operands that meet them. -/

namespace Sys2Proof.Tests

set_option Elab.async false

open Sys2Proof Sys2Proof.Machine Sys2Proof.Claim

/-! ## The bit rules of `wellFormed` (R76 to R86): an ill-formed term for each check -/

/-- R76 to R86: fields of scalar and system forms. -/
theorem test_ill_formed_1 : ([.sext 1 2 3, .zext 1 2 3, .lda 1 2 6 0, .sdrel 1 2 7 0, .amoadd 1 2 3 2 0, .amoand 1 2 3 3 0, .amoor 1 2 3 2 0, .amoxor 1 2 3 2 0, .amomin 1 2 3 2 0, .amomax 1 2 3 2 0, .amominu 1 2 3 2 0, .amomaxu 1 2 3 2 0, .amoswap 1 2 3 2 0, .amocas 1 2 3 2 0, .bmany 0 4, .bmnone 8 4, .fence 1 1 false false false 0, .fence 0 1 false true false 0, .fence 1 0 false true false 0, .fence 1 1 false true false 6, .fence 9 1 false true false 0, .fence 1 1 true true false 0, .tlbinv 0 0 3, .tlbinv 1 0 1, .cflush 1 true] : List Instr).all (fun i => !wellFormed i) = true := by decide +kernel

/-- R76 to R86: scalar floating point. -/
theorem test_ill_formed_2 : ([.fadd 1 2 3 5 0, .fsub 1 2 3 6 0, .fmul 1 2 3 0 3, .fdiv 1 2 3 5 0, .fsqrt 1 2 6 0, .fmin 1 2 3 0 3, .fmax 1 2 3 5 0, .fma 1 2 3 6 0, .fms 1 2 3 0 3, .fnma 1 2 3 5 0, .fcmp 1 2 3 4 0, .fcmp 1 2 3 0 3, .fclass 1 2 3, .fsgnj 1 2 3 3 0, .fsgnj 1 2 3 0 3, .fcvt 1 2 3 3, .fcvt 1 2 0 1, .fcvt 1 2 1 0, .fcvt 1 2 2 2] : List Instr).all (fun i => !wellFormed i) = true := by decide +kernel

/-- R76 to R86: masks, drawers and waits. -/
theorem test_ill_formed_3 : ([.vrelease 1 true, .viota 1 0 1, .mand 0 1 2, .mor 1 8 2, .mxor 1 2 0, .mandn 0 1 2, .mnot 1 0, .mmv 8 1, .mshl 0 1 2 false, .mshr 1 0 2 false, .mpopc 1 0 0, .mfirst 1 8 0, .mlast 1 0 0, .mset 0, .mclr 8, .mld 0 4, .mst 9 4, .vwait 1 2 3 0 false 3, .vcmd 0 1 0] : List Instr).all (fun i => !wellFormed i) = true := by decide +kernel

/-- R76 to R86: vector integers. -/
theorem test_ill_formed_4 : ([.vadd 1 2 3 0 true false false, .vsub 1 2 3 0 true false false, .vmul 1 2 3 0 true false false, .vmulh 1 2 3 0 true false false, .vdiv 1 2 3 0 true false false, .vrem 1 2 3 0 true false false, .vmin 1 2 3 0 true false false, .vmax 1 2 3 0 true false false, .vand 1 2 3 0 true false, .vor 1 2 3 0 true false, .vxor 1 2 3 0 true false, .vsll 1 2 3 0 true false, .vsrl 1 2 3 0 true false, .vsra 1 2 3 0 true false, .vadc 1 2 3 0 true false false, .vadc 0 2 3 1 false true false, .vsbc 8 2 3 1 false true false, .vcmp 0 1 2 0 0, .vfcmp 8 1 2 0 0, .vmerge 1 2 3 0 false false, .vabs 1 2 0 true false] : List Instr).all (fun i => !wellFormed i) = true := by decide +kernel

/-- R76 to R86: vector floats and conversions. -/
theorem test_ill_formed_5 : ([.vfadd 1 2 3 0 true false, .vfsub 1 2 3 0 true false, .vfmul 1 2 3 0 true false, .vfdiv 1 2 3 0 true false, .vfma 1 2 3 0 true false, .vfms 1 2 3 0 true false, .vfnma 1 2 3 0 true false, .vfmin 1 2 3 0 true false, .vfmax 1 2 3 0 true false, .vfsqrt 1 2 0 true, .vfclass 1 2 0 true, .vfexp 1 2 0 true, .vflog 1 2 0 true, .vfrcp 1 2 0 true, .vfrsq 1 2 0 true, .vftanh 1 2 0 true, .vcvt 1 2 5 0 true false, .vcvti 1 2 3 0 true false, .vcvtf4 1 2 3 0 true, .vqscale 1 2 3 0 true false] : List Instr).all (fun i => !wellFormed i) = true := by decide +kernel

/-- R76 to R86: reductions, tiles and 16-bit forms. -/
theorem test_ill_formed_6 : ([.vredos 1 2 3 0 true false, .vredsum 1 2 3 0 true false, .vredmax 1 2 3 0 true false false, .vredmin 1 2 3 0 true false false, .vredand 1 2 3 0 true false, .vredor 1 2 3 0 true false, .vredxor 1 2 3 0 true false, .macq 1 true 1, .mrel 0, .mzero 0 false, .macc 0 1 2 false false false 1 0 6 6 8 9, .macc 0 31 0 false false false 0 0 0x10 6 8 0, .macc 0 0 0 true false false 0 0 6 6 8 9, .macc 0 0 1 false false false 0 0 6 6 8 0, .maccs 0 0 0 false false false 0 1 6 6 8 0 3, .maccs 0 0 30 true false false 0 0 6 0x16 8 0 3, .mldc 1 2 3 4 false 6, .mdrain 0 0 0 6 0 false false 6 8 9, .mdrain 0 1 1 0 0 false false 6 8 9, .mdrain 0 0 0 0 0 true false 6 8 9, .mdrainx 0 0 0 6 0 false 6 8 9, .mchk 1 0 0 3, .mchk 1 0 2 1, .li64 1 true 0x100000000, .cLd 0 0 0, .cAddi4sp 1 0, .cAddi 0 1, .cLi 0 1, .cMv 0 1, .cMv 1 0, .cAdd 1 0, .cSub 0 1, .cAnd 1 0, .cSlli 0 1, .cSlli 1 0, .cSrli 1 0, .cSrli 0 2, .cJr 0] : List Instr).all (fun i => !wellFormed i) = true := by decide +kernel

/-- The same fields at values the rules admit. -/
theorem test_well_formed : ([.sext 1 2 2, .lda 1 2 5 0, .amoadd 1 2 3 1 3, .bmany 7 4, .fence 8 15 true true true 5, .tlbinv 3 4 0, .cflush 0 true, .fadd 1 2 3 7 2,
    .fcmp 1 2 3 3 2, .fcvt 1 2 2 0, .vadd 1 2 3 7 true true true, .vadc 7 2 3 1 true true false, .macc 3 0 30 true true true 3 0 6 0x10 8 0,
    .mdrain 0 30 1 7 3 true true 0x09 8 9, .mchk 1 3 9 2, .li64 1 true 0xFFFFFFFF, .cLd 0 0 1] : List Instr).all wellFormed = true := by decide +kernel

/-! ## Decoding: words written from the opcode table's match values and fields and the manual's own encodings -/

/-- Whether a row's word decodes to its instruction. -/
def decodes (r : Nat × Instr) : Bool := decodeTableWord 64 r.1 = some r.2

/-- Rows 1 to 40 of the words. -/
theorem test_decode_1 : ([
    (0x1326803, .add 9 18 13), (0x5326803, .sub 9 18 13), (0x9326803, .and 9 18 13), (0xD326803, .or 9 18 13), (0x11326803, .xor 9 18 13),
    (0x15326803, .andn 9 18 13), (0x19326803, .sll 9 18 13), (0x1D326803, .srl 9 18 13), (0x21326803, .sra 9 18 13), (0x25326803, .rotl 9 18 13),
    (0x29326803, .slt 9 18 13), (0x2D326803, .sltu 9 18 13), (0x31326803, .min 9 18 13), (0x35326803, .max 9 18 13), (0x39326803, .minu 9 18 13),
    (0x3D326803, .maxu 9 18 13), (0x41326803, .mul 9 18 13), (0x45326803, .mulh 9 18 13), (0x49326803, .mulhu 9 18 13), (0x4D326803, .div 9 18 13),
    (0x51326803, .divu 9 18 13), (0x55326803, .rem 9 18 13), (0x59326803, .remu 9 18 13), (0x5D320003, .clz 9 18), (0x61320003, .ctz 9 18),
    (0x65320003, .popc 9 18), (0x69320023, .sext 9 18 1), (0x6D320043, .zext 9 18 2), (0x71326803, .csel 9 18 13), (0x75320003, .bswap 9 18),
    (0x4CB46A7, .addi 9 18 6709), (0x14CB46A7, .andi 9 18 6709), (0x24CB46A7, .ori 9 18 6709), (0x34CB46A7, .xori 9 18 6709),
    (0x44CB46A7, .slti 9 18 6709), (0x54CB46A7, .sltiu 9 18 6709), (0x64C804A7, .slli 9 18 37), (0x74C804A7, .srli 9 18 37),
    (0x84C804A7, .srai 9 18 37), (0x94D678A7, .lih 9 177093)] : List (Nat × Instr)).all decodes = true := by decide +kernel

/-- Rows 41 to 80 of the words. -/
theorem test_decode_2 : ([
    (0xA4D678A7, .pcadd 9 177093), (0x4CB46AB, .lb 9 18 6709), (0x14CB46AB, .lbu 9 18 6709), (0x24CB46AB, .lh 9 18 6709), (0x34CB46AB, .lhu 9 18 6709),
    (0x44CB46AB, .lw 9 18 6709), (0x54CB46AB, .lwu 9 18 6709), (0x64CB46AB, .ld 9 18 6709), (0x74CA54AB, .lda 9 18 4 677),
    (0x84C9B6AB, .sb 18 13 2485), (0x94C9B6AB, .sh 18 13 2485), (0xA4C9B6AB, .sw 18 13 2485), (0xB4C9B6AB, .sd 18 13 2485),
    (0xC92656AB, .sdrel 9 18 4 693), (0xF4C9A0AB, .amoadd 9 18 13 1 1), (0xF4C9A2AB, .amoand 9 18 13 1 1), (0xF4C9A4AB, .amoor 9 18 13 1 1),
    (0xF4C9A6AB, .amoxor 9 18 13 1 1), (0xF4C9A8AB, .amomin 9 18 13 1 1), (0xF4C9AAAB, .amomax 9 18 13 1 1), (0xF4C9ACAB, .amominu 9 18 13 1 1),
    (0xF4C9AEAB, .amomaxu 9 18 13 1 1), (0xF4C9B0AB, .amoswap 9 18 13 1 1), (0xF4C9B2AB, .amocas 9 18 13 1 1), (0xF4C9B54B, .amofadd 9 18 13 true 2),
    (0x4CB46AF, .beq 9 18 6709), (0x14CB46AF, .bne 9 18 6709), (0x24CB46AF, .blt 9 18 6709), (0x34CB46AF, .bge 9 18 6709),
    (0x44CB46AF, .bltu 9 18 6709), (0x54CB46AF, .bgeu 9 18 6709), (0x64D678AF, .jmpl 9 177093), (0x74CB46AF, .jmpr 9 18 6709),
    (0x8E8346AF, .bse 5 6709), (0x928346AF, .bmany 5 6709), (0xA28346AF, .bmnone 5 6709), (0xF000000F, .nop),
    (0xF05327AF, .fence 9 18 true true true 5), (0xF09346AF, .srd 9 2613), (0xF0D346AF, .swr 9 2613)] : List (Nat × Instr)).all decodes = true := by decide +kernel

/-- Rows 81 to 120 of the words. -/
theorem test_decode_3 : ([
    (0xF11346AF, .srset 9 2613), (0xF15346AF, .srclr 9 2613), (0xF18146AF, .trap 2613), (0xF1C0000F, .tret), (0xF200000F, .brk),
    (0xF253200F, .wfe 9 18), (0xF280904F, .keyset 9 2), (0xF2C0000F, .keyclr), (0xF313200F, .farm 9 18), (0xF352002F, .strip 9 true),
    (0xF393200F, .fjoin 9 18), (0xF3C0000F, .yield), (0xF400900F, .notify 9), (0xF440908F, .tlbinv 9 true 0), (0xF480002F, .cinv true),
    (0xF4C0900F, .cflush 9 false), (0xF500000F, .halt), (0xFE932AAF, .hint 10 9 18 85), (0x13269B3, .fadd 9 18 13 3 1), (0x53269B3, .fsub 9 18 13 3 1),
    (0x93269B3, .fmul 9 18 13 3 1), (0xD3269B3, .fdiv 9 18 13 3 1), (0x113201B3, .fsqrt 9 18 3 1), (0x153269B3, .fmin 9 18 13 3 1),
    (0x193269B3, .fmax 9 18 13 3 1), (0x1D3269B3, .fma 9 18 13 3 1), (0x213269B3, .fms 9 18 13 3 1), (0x253269B3, .fnma 9 18 13 3 1),
    (0x29326933, .fcmp 9 18 13 2 1), (0x2D320033, .fclass 9 18 1), (0x313268B3, .fsgnj 9 18 13 1 1), (0x35320193, .fcvt 9 18 3 0),
    (0x1320037, .vsetl 9 18 true), (0x5326DF7, .vld 9 18 13 5 true true true), (0x9326DF7, .vlds 9 18 13 5 true true true),
    (0xD326DF7, .vldx 9 18 13 5 true true true), (0x11326DF7, .vldseg 9 18 13 5 true true true), (0x15326D77, .vst 9 18 13 5 true true),
    (0x19326D77, .vsts 9 18 13 5 true true), (0x1D326D77, .vstx 9 18 13 5 true true)] : List (Nat × Instr)).all decodes = true := by decide +kernel

/-- Rows 121 to 160 of the words. -/
theorem test_decode_4 : ([
    (0x21326D77, .vstseg 9 18 13 5 true true), (0x27A99017, .vbind 5 9 18), (0x2BA90017, .vunbind 5 9), (0x2D320517, .vmv 9 18 5),
    (0x31326D37, .vmvr 9 18 13 5 true), (0x35326D37, .vmvc 9 18 13 5 true), (0x39320517, .vsplat 9 18 5), (0x3D326837, .vext 9 18 13 true),
    (0x41200017, .vretag 9), (0x45200017, .vrelease 9 false), (0x49320517, .vid 9 18 5), (0x4D250517, .viota 9 5 5), (0x51326D17, .vslideup 9 18 13 5),
    (0x55326D17, .vslidedn 9 18 13 5), (0x59326D17, .vperm 9 18 13 5), (0x5D320517, .vcompress 9 18 5), (0x60C51817, .mand 6 5 3),
    (0x64C51817, .mor 6 5 3), (0x68C51817, .mxor 6 5 3), (0x6CC51817, .mandn 6 5 3), (0x70C50017, .mnot 6 5), (0x74C56837, .mshl 6 5 13 true),
    (0x78C56837, .mshr 6 5 13 true), (0x7D250517, .mpopc 9 5 5), (0x81250517, .mfirst 9 5 5), (0x85250517, .mlast 9 5 5), (0x88C00017, .mset 6),
    (0x8CC00017, .mclr 6), (0x90C50017, .mmv 6 5), (0x94D20017, .mld 6 18), (0x98D20017, .mst 6 18), (0x9D326DD7, .vwait 9 18 13 5 true 2),
    (0xA0D20517, .vcmd 6 18 5), (0xA5320577, .vsend 9 18 5 true true), (0xA9326D77, .vscatx 9 18 13 5 true true),
    (0xAD326DF7, .vgathx 9 18 13 5 true true true), (0xB1326D77, .vamo 9 18 13 5 3), (0x1326DFB, .vadd 9 18 13 5 true true true),
    (0x5326DFB, .vsub 9 18 13 5 true true true), (0x9326DFB, .vmul 9 18 13 5 true true true)] : List (Nat × Instr)).all decodes = true := by decide +kernel

/-- Rows 161 to 200 of the words. -/
theorem test_decode_5 : ([
    (0xD326DFB, .vmulh 9 18 13 5 true true true), (0x11326DFB, .vdiv 9 18 13 5 true true true), (0x15326DFB, .vrem 9 18 13 5 true true true),
    (0x19326DFB, .vmin 9 18 13 5 true true true), (0x1D326DFB, .vmax 9 18 13 5 true true true), (0x21326DBB, .vand 9 18 13 5 true true),
    (0x25326DBB, .vor 9 18 13 5 true true), (0x29326DBB, .vxor 9 18 13 5 true true), (0x2D326DBB, .vsll 9 18 13 5 true true),
    (0x31326DBB, .vsrl 9 18 13 5 true true), (0x35326DBB, .vsra 9 18 13 5 true true), (0x38D26DFB, .vadc 6 18 13 5 true true true),
    (0x3CD26DFB, .vsbc 6 18 13 5 true true true), (0x40D26D7B, .vcmp 6 18 13 5 3), (0x45326DBB, .vmerge 9 18 13 5 true true),
    (0x493205DB, .vabs 9 18 5 true true), (0x4D326DBB, .vfadd 9 18 13 5 true true), (0x51326DBB, .vfsub 9 18 13 5 true true),
    (0x55326DBB, .vfmul 9 18 13 5 true true), (0x59326DBB, .vfdiv 9 18 13 5 true true), (0x5D32059B, .vfsqrt 9 18 5 true),
    (0x61326DBB, .vfma 9 18 13 5 true true), (0x65326DBB, .vfms 9 18 13 5 true true), (0x69326DBB, .vfnma 9 18 13 5 true true),
    (0x6D326DBB, .vfmin 9 18 13 5 true true), (0x71326DBB, .vfmax 9 18 13 5 true true), (0x74D26D7B, .vfcmp 6 18 13 5 3),
    (0x7932059B, .vfclass 9 18 5 true), (0x7D32059B, .vfexp 9 18 5 true), (0x8132059B, .vflog 9 18 5 true), (0x8532059B, .vfrcp 9 18 5 true),
    (0x8932059B, .vfrsq 9 18 5 true), (0x8D32059B, .vftanh 9 18 5 true), (0x91326DDB, .vcvt 9 18 13 5 true true),
    (0x95326DDB, .vcvti 9 18 13 5 true true), (0x99326D9B, .vcvtf4 9 18 13 5 true), (0x9D326DBB, .vqscale 9 18 13 5 true true),
    (0xA1326DBB, .vredos 9 18 13 5 true true), (0xA5326DBB, .vredsum 9 18 13 5 true true), (0xA9326DFB, .vredmax 9 18 13 5 true true true)] : List (Nat × Instr)).all decodes = true := by decide +kernel

/-- Rows 201 to 236 of the words. -/
theorem test_decode_6 : ([
    (0xAD326DFB, .vredmin 9 18 13 5 true true true), (0xB1326DBB, .vredand 9 18 13 5 true true), (0xB5326DBB, .vredor 9 18 13 5 true true),
    (0xB9326DBB, .vredxor 9 18 13 5 true true), (0x15A4, .cLd 3 5 9), (0x35A4, .cSd 3 5 9), (0x55A4, .cLw 3 5 9), (0x75A4, .cSw 3 5 9),
    (0x96B4, .cAddi4sp 5 181), (0x14C9, .cAddi 9 50), (0x34C9, .cLi 9 50), (0x44C9, .cMv 9 18), (0x64C9, .cAdd 9 18), (0x84C9, .cSub 9 18),
    (0xA4C9, .cAnd 9 18), (0xD4C9, .cSlli 9 50), (0xF4C9, .cSrli 9 50), (0x168E, .cJ 1443), (0x36D6, .cBeqz 5 181), (0x56D6, .cBnez 5 181),
    (0x6902, .cJr 9), (0x8002, .cNop), (0xB482, .cStrip 9 true), (0x128001F, .macq 9 false 2), (0x540001F, .mrel 5), (0xAA0001F, .mzero 10 true),
    (0x319090000C00021F, .macc 0 0 0 false false false 1 0 6 6 8 9), (0x42560C0011443B1F, .maccs 1 8 16 true true true 1 2 8 9 11 0 24),
    (0xA000000015CA5B3F, .mldc 14 10 11 12 true 0x14), (0x33C000001846041F, .mdrain 0 8 3 0 0 false true 6 15 0),
    (0x33E800001E33641F, .mdrainx 2 3 1 5 2 true 6 15 20), (0x222C801F, .mtrd 17 1 18), (0x261C601F, .mchk 16 3 17 2),
    (0x89ABCDEF28A0001F, .li64 5 false 0x89ABCDEF), (0x0123456728B0001F, .li64 5 true 0x01234567), (0x000D29062CAD001F, .vsetli 5 13 0x000D2906)] : List (Nat × Instr)).all decodes = true := by decide +kernel

/-- Bits that nothing assigns decode to nothing (R86): zeros, SEXT of width 3, FADD of format 3, VADD with a negated mask field 0, C.MV of no register. -/
theorem test_decode_refuses : [0, 0x68000063, 0x00000073, 0x0000009B, 0x4009].all (fun w => (decodeTableWord 64 w).isNone) = true := by decide +kernel

/-- The sequencer words of the manual's worked example (R378, R379). -/
theorem test_decode_sequencer : decodeSeq 0x1000000000000001 = some (.recvCh 0 0) ∧ decodeSeq 0x6801000000000000 = some (.cmpr 4 0 2 0 0)
    ∧ decodeSeq 0x0100000000000000 = some (.send 4 0 0 0 0 false) ∧ decodeSeq 0x1A00800000030000 = some (.recv 5 1 3 0)
    ∧ decodeSeq 0x2B48000000000000 = some (.red 5 5 1) ∧ decodeSeq 0x6942000100030000 = some (.cmpr 4 5 4 1 3)
    ∧ decodeSeq 0x0100000100030100 = some (.send 4 0 1 3 1 false) ∧ decodeSeq 0x3141800000010001 = some (.copySt 5 3 1)
    ∧ decodeSeq 0x9000000000000000 = some .done := by decide +kernel

/-! ## Single steps on small states -/

/-- A hart on the machine after reset, running at user level, with the vector unit, memory and links as reset leaves them but the CXL links up. -/
def base : State :=
  { State.reset with hart := { Hart.init with run := .ready, pc := 0x1000, status := 0, trapbase := 0x8000 }, links := { Links.init with cxlUp := 0xF } }

/-- `base` with x[10] = `a` and x[11] = `b`. -/
def withAB (a b : Word) : State := (base.setX 10 a).setX 11 b

/-- What `f` reads of the next state, and nothing where there is none. -/
def reads {α : Type} (o : Host.Outcome State Fault Refusal) (f : State → α) : Option α :=
  match o with
  | .next t => some (f t)
  | .fault _ => none
  | .refused _ => none

/-- The memory byte of a stored doubleword's low end, after SD and LW read it back sign-extended (R2, R101). -/
theorem test_store_load : reads (exec (.sd 10 11 8) (withAB 0x2000 0x80818283F4858687)) (fun t => (memGet t.mem 0x2008, memGet t.mem 0x200F, memGet t.mem 0x2010))
    = some (0x87, 0x80, 0) ∧ reads (exec (.lw 9 10 8) { withAB 0x2000 0 with mem := [(0x2008, 0x87), (0x200B, 0xF4)] }) (fun t => t.getX 9)
    = some 0xFFFFFFFFF4000087 := by decide +kernel

/-- R98's corners: signed division of the most negative number by -1 and by 0, and a shift of 64 + 1. -/
theorem test_integer_corners : reads (exec (.div 9 10 11) (withAB 0x8000000000000000 (-1))) (fun t => t.getX 9) = some 0x8000000000000000
    ∧ reads (exec (.rem 9 10 11) (withAB 7 0)) (fun t => t.getX 9) = some 7
    ∧ reads (exec (.sll 9 10 11) (withAB 3 65)) (fun t => t.getX 9) = some 6
    ∧ reads (exec (.add 0 10 11) (withAB 3 65)) (fun t => t.getX 0) = some 0 := by decide +kernel

/-- R107: the target of JMPR is read before its link is written, and loses bit 0. -/
theorem test_jmpr_same_register : reads (exec (.jmpr 10 10 2) (withAB 0x3001 0)) (fun t => (t.hart.pc, t.getX 10)) = some (0x3002, 0x1004) := by decide +kernel

/-- R106: a branch backwards. -/
theorem test_branch_back : reads (exec (.blt 10 11 0x1FFE) (withAB (-1) 0)) (fun t => t.hart.pc) = some 0xFFC := by decide +kernel

/-- R34, R38: a misaligned load traps at level 1 with its address. -/
theorem test_misaligned_load : reads (exec (.ld 9 10 1) (withAB 0x2000 0)) (fun t => (t.hart.pc, t.hart.trapcause, t.hart.trapval, t.hart.trappc, t.hart.prv))
    = some (0x8000, 0x02, 0x2001, 0x1000, 1) := by decide +kernel

/-- R61: one and a half plus one quarter in BF16; and a division by zero sets DZ alone. -/
theorem test_scalar_float : reads (exec (.fadd 9 10 11 0 2) (withAB 0x3FC0 0x3E80)) (fun t => (t.getX 9, t.hart.fflags)) = some (0x3FE0, 0)
    ∧ reads (exec (.fdiv 9 10 11 0 0) (withAB 0x3F800000 0)) (fun t => (t.getX 9, t.hart.fflags)) = some (0x7F800000, DZ) := by decide +kernel

/-- R206: AMOMAX compares signed words, and CAS writes only where the old value is x[d]'s. -/
theorem test_atomics : reads (exec (.amomax 9 10 11 0 0) { withAB 0x2000 1 with mem := [(0x2000, 0xFE), (0x2001, 0xFF), (0x2002, 0xFF), (0x2003, 0xFF)] })
      (fun t => (t.getX 9, t.mem)) = some (0xFFFFFFFFFFFFFFFE, [(0x2000, 1)])
    ∧ reads (exec (.amocas 9 10 11 1 0) ({ withAB 0x2000 5 with mem := [(0x2000, 7)] }.setX 9 7)) (fun t => (t.getX 9, t.mem)) = some (7, [(0x2000, 5)])
    ∧ reads (exec (.amocas 9 10 11 1 0) ({ withAB 0x2000 5 with mem := [(0x2000, 7)] }.setX 9 8)) (fun t => (t.getX 9, t.mem)) = some (7, [(0x2000, 7)]) := by
  decide +kernel

/-- R73, R74: the first step after reset with ADDI x9, x0, -5 placed runs it; an instruction of 16 bits moves PC by 2. -/
theorem test_first_step : reads (step (State.reset.withFetchWord 32 0x483ff67)) (fun t => (t.getX 9, t.hart.pc))
      = some (BitVec.ofInt 64 (-5), 4)
    ∧ reads (step (State.reset.withFetchWord 16 0x2281)) (fun t => t.hart.pc) = some 2 := by decide +kernel

/-! ## Witnesses: states and operands that meet the hypotheses of the statements -/

/-- `base` at level 1 with SSTEP set: steady all the same, since SSTEP acts at user level only (R332). -/
def steadyMonitor : State := { base with hart := { base.hart with status := 0x201 } }

/-- Steady: the hypothesis of most statements, met at user level and, with SSTEP, above it. -/
theorem witness_steady : Steady base ∧ Steady steadyMonitor := by unfold Steady; decide +kernel

/-- IntImmediateResults, Jumps, StreamAndMaskBranches, ZeroRegister: the ends of their ranges. -/
theorem witness_integers : (0xFFFFFFFF#47).toNat < 2 ^ 32 ∧ (0#47).toNat < 2 ^ 32 ∧ (1 : Reg) ≠ 0 ∧ (31 : Reg) ≠ 0 ∧ maskReg 1 = true ∧ maskReg 7 = true := by
  decide

/-- CompressedResults: every form of CompressedRows occurs, well formed, at the ends of its fields. -/
theorem witness_compressed (s : State) :
    (∃ v, wellFormed (.cAddi4sp 7 255) = true ∧ CompressedRows s (.cAddi4sp 7 255) 15 v)
    ∧ (∃ v, wellFormed (.cAddi 31 32) = true ∧ CompressedRows s (.cAddi 31 32) 31 v)
    ∧ (∃ v, wellFormed (.cLi 1 63) = true ∧ CompressedRows s (.cLi 1 63) 1 v)
    ∧ (∃ v, wellFormed (.cMv 1 31) = true ∧ CompressedRows s (.cMv 1 31) 1 v)
    ∧ (∃ v, wellFormed (.cAdd 1 31) = true ∧ CompressedRows s (.cAdd 1 31) 1 v)
    ∧ (∃ v, wellFormed (.cSub 31 1) = true ∧ CompressedRows s (.cSub 31 1) 31 v)
    ∧ (∃ v, wellFormed (.cAnd 31 1) = true ∧ CompressedRows s (.cAnd 31 1) 31 v)
    ∧ (∃ v, wellFormed (.cSlli 1 63) = true ∧ CompressedRows s (.cSlli 1 63) 1 v)
    ∧ ∃ v, wellFormed (.cSrli 1 1) = true ∧ CompressedRows s (.cSrli 1 1) 1 v :=
  ⟨⟨_, by decide, .inl ⟨_, _, rfl, rfl, rfl⟩⟩, ⟨_, by decide, .inr (.inl ⟨_, _, rfl, rfl, rfl⟩)⟩, ⟨_, by decide, .inr (.inr (.inl ⟨_, _, rfl, rfl, rfl⟩))⟩,
    ⟨_, by decide, .inr (.inr (.inr (.inl ⟨_, _, rfl, rfl, rfl⟩)))⟩, ⟨_, by decide, .inr (.inr (.inr (.inr (.inl ⟨_, _, rfl, rfl, rfl⟩))))⟩,
    ⟨_, by decide, .inr (.inr (.inr (.inr (.inr (.inl ⟨_, _, rfl, rfl, rfl⟩)))))⟩,
    ⟨_, by decide, .inr (.inr (.inr (.inr (.inr (.inr (.inl ⟨_, _, rfl, rfl, rfl⟩))))))⟩,
    ⟨_, by decide, .inr (.inr (.inr (.inr (.inr (.inr (.inr (.inl ⟨_, _, rfl, rfl, rfl⟩)))))))⟩,
    ⟨_, by decide, .inr (.inr (.inr (.inr (.inr (.inr (.inr (.inr ⟨_, _, rfl, rfl, rfl⟩)))))))⟩⟩

/-- `base` with a negative doubleword at 0x2000, x[10] naming it, and x[11] a value to store. -/
def withData : State := { withAB 0x2000 0x1122334455667788 with mem := [(0x2000, 0xFE), (0x2007, 0x80)] }

/-- The translation of every address of partition `p` while both stages are off (R312). -/
def identity (p : BitVec 3) : TlbEntry :=
  { part := p, asid := 0, global := false, mon := false, stage1 := false, va := 0, size := 2 ^ 52, ipa := 0, pa := 0, size2 := 2 ^ 52,
    p1 := allPerm, p2 := { allPerm with u := false }, uc := false, abench := none, viaG2 := false }

/-- An untranslated address of partition `p`, or of partition 0. -/
def plainIn (p : BitVec 3) (pa : Nat) : Mapped := { pa := pa, ipa := pa, uc := false, abench := none, viaG2 := false, walk := some (identity p, []) }
def plainAt (pa : Nat) : Mapped := plainIn 0 pa

/-- The scalar loads and stores: each form at an operand of its own. -/
theorem witness_memory_forms (s : State) :
    (∀ p ∈ scalarLoads, LoadForm s (p.1 9 10 0) 4 9 (s.getX 10 + BitVec.ofInt 64 0) p.2.1 p.2.2)
    ∧ LoadForm s (.cLd 7 2 0) 2 15 (s.getX 10 + BitVec.ofNat 64 0) 8 (BitVec.ofNat 64)
    ∧ LoadForm s (.cLw 7 2 0) 2 15 (s.getX 10 + BitVec.ofNat 64 0) 4 (fun v => (BitVec.ofNat 32 v).signExtend 64)
    ∧ (∀ p ∈ scalarStores, StoreForm s (p.1 10 11 0) 4 (s.getX 10 + BitVec.ofInt 64 0) p.2 11)
    ∧ StoreForm s (.cSd 3 2 0) 2 (s.getX 10 + BitVec.ofNat 64 0) 8 11 ∧ StoreForm s (.cSw 3 2 0) 2 (s.getX 10 + BitVec.ofNat 64 0) 4 11 :=
  ⟨fun p h => .inl ⟨p, h, _, _, rfl, rfl, rfl, rfl, rfl⟩, .inr (.inl ⟨_, _, _, rfl, by decide, rfl, rfl, rfl, rfl, rfl⟩),
    .inr (.inr ⟨_, _, _, rfl, rfl, rfl, rfl, rfl, rfl⟩), fun p h => .inl ⟨p, h, _, _, rfl, rfl, rfl, rfl⟩,
    .inr (.inl ⟨_, _, _, rfl, rfl, rfl, rfl, rfl⟩), .inr (.inr ⟨_, _, _, rfl, rfl, rfl, rfl, rfl⟩)⟩

/-- LoadResults and LoadAcquire: memory as a load and an acquire see it; misaligned and domain addresses. -/
theorem witness_loads :
    let named := withData.withHart { withData.hart with lastLda := some 0x2000 }
    NoUpset withData ∧ Grants withData .load 8 0x2000 (plainAt 0x2000) ∧ isDevice 0x2000 = false ∧ (∀ e ∈ withData.hart.stores, e.vector = false)
    ∧ Seen (afterVectors withData 0x2000 8) (plainAt 0x2000) 8 0x80000000000000FE
    ∧ Seen (afterVectors named 0x2000 8) (plainAt 0x2000) 8 0x80000000000000FE ∧ Seen (afterVectors (dropL1 named) 0x2000 8) (plainAt 0x2000) 8 0x80000000000000FE
    ∧ scopedAt withData 10 0 = 0x2000 ∧ (scopedAt (withAB 0x2004 0) 10 0).toNat % 8 ≠ 0 ∧ (scopedAt (withAB 0x8000000000002000 0) 10 0).toNat % 8 = 0
    ∧ (scopedAt (withAB 0x8000000000002000 0) 10 0).getLsbD 63 = true := by
  unfold NoUpset Grants Seen; decide +kernel

/-- LoadResults, StoreResults: device space answers an aligned 8-byte access; a store put off and one done at once. -/
theorem witness_devices_and_stores : (∃ m, Grants base .load 8 0x18000000008 m ∧ isDevice m.pa = true) ∧ Sound withData ∧ NoUpset withData ∧ OwesNone withData
    ∧ (Grants withData .store 8 0x2000 (plainAt 0x2000) ∧ withData.policy.bufferStores = false ∧ withData.hart.stores = [] ∧ LinkUp withData 0x2000 8 ∧ Unheld withData 0x2000 8)
    ∧ (Grants withData .store 1 0x7FFFFFFFFF (plainAt 0x7FFFFFFFFF) ∧ LinkUp withData 0x7FFFFFFFFF 1 ∧ Unheld withData 0x7FFFFFFFFF 1 ∧ isDevice 0x7FFFFFFFFF = false)
    ∧ (Grants base .store 8 0x100000000000 (plainAt 0x100000000000) ∧ LinkUp base 0x100000000000 8 ∧ Unheld base 0x100000000000 8 ∧ isDevice 0x100000000000 = false)
    ∧ Grants { withData with policy := { withData.policy with bufferStores := true } } .store 8 0x2000 (plainAt 0x2000) := by
  refine ⟨⟨plainAt 0x18000000008, ?_⟩, ?_⟩ <;> unfold Grants <;> (try unfold LinkUp Unheld Sound NoUpset OwesNone) <;> decide +kernel

/-- PoisonedLoads: a poisoned sector, with PTRAP set and clear. -/
theorem witness_poisoned_load :
    let s := { withData with poison := [0x2000] }
    let t := { s with hart := { s.hart with status := 0x20 } }
    (Steady s ∧ NoUpset s ∧ Grants s .load 4 0x2004 (plainAt 0x2004) ∧ viewPoisoned (afterVectors s 0x2004 4) (plainAt 0x2004) 4 = true ∧ LinkUp s 0x2004 4 ∧ s.hart.ptrap = false)
    ∧ (Steady t ∧ Grants t .load 8 0x2038 (plainAt 0x2038) ∧ viewPoisoned (afterVectors t 0x2038 8) (plainAt 0x2038) 8 = true ∧ LinkUp t 0x2038 8 ∧ t.hart.ptrap = true) := by
  unfold Steady NoUpset Grants LinkUp; decide +kernel

/-- AddressTraps: a misaligned address, and one whose bits [62:57] are not zero. -/
theorem witness_address_traps : (0x2001#64).toNat % 2 ≠ 0 ∧ (0x0200000000000000#64).toNat % 8 = 0 ∧ (0x0200000000000000#64).getLsbD 63 = false
    ∧ (0x0200000000000000#64).extractLsb' 57 6 ≠ 0 ∧ (0x7E00000000000000#64).extractLsb' 57 6 ≠ 0 := by decide

/-- UntranslatedAddresses: both stages off, at the ends of memory and for each kind of it. -/
theorem witness_untranslated : base.hart.ptbase.getLsbD 0 = false ∧ (base.partn base.hart.partid).g2base.getLsbD 0 = false
    ∧ (base.core (coreOf base.hart.id)).tlb = [] ∧ (base.bench (benchOf base.hart.id)).tlb = []
    ∧ [0, 0x7FFFFFFFF8, 0x10000000000, 0x100000000000].all (fun a => a < 2 ^ 52 && a % 8 == 0 && isMemory a) = true := by decide +kernel

/-- AtomicResults and AtomicFloatAdd: each width. -/
theorem witness_atomics : AtomicAt withData (withData.getX 10) 2 (plainAt 0x2000) ∧ AtomicAt withData (withData.getX 10) 4 (plainAt 0x2000)
    ∧ AtomicAt withData (withData.getX 10) 8 (plainAt 0x2000) ∧ Sound withData ∧ NoUpset withData ∧ (0 : BitVec 2).toNat < 2 ∧ (1 : BitVec 2).toNat < 2 := by
  unfold AtomicAt OwesNone LinkUp Unheld Sound NoUpset; decide +kernel

/-- The scalar floating-point statements: every rounding code the rules admit, with no flag enabled, and for EnabledFlagTraps each enable met by a division
by zero or an inexact quotient. -/
theorem witness_scalar_float :
    let s := withAB 0x3F800000 0
    let one (e : BitVec 8) (b : Word) : State := { withAB 0x3F800000 b with hart := { (withAB 0x3F800000 b).hart with frm := e } }
    Steady s ∧ ([0, 1, 2, 3, 4, 7] : List (BitVec 3)).all (fun rm => rm != 5 && rm != 6 && decide (roundCode s rm < 5)) = true
    ∧ ([0, 1, 2] : List (BitVec 2)).all (fun fmt => fmt != 3 && (List.range 8).all (fun c => c > 2 || wellFormed (.fcvt 9 10 (BitVec.ofNat 3 c) fmt)
        || (c == 0 && fmt == 1) || (c == 1 && fmt == 0) || (c == 2 && fmt == 2))) = true
    ∧ Unenabled 0x7F s ∧ (s.hart.frm.extractLsb' 0 3).toNat < 5
    ∧ (¬ Unenabled (roundOp 0x05 0 false 0 (divVal (operand 0 (s.getX 10)) (operand 0 (s.getX 11)))).2 (one 0x40 0))
    ∧ ¬ Unenabled (roundOp 0x05 4 false 0 (divVal (operand 0 0x3F800000) (operand 0 0x40400000))).2 (one 0x0C 0x40400000) := by
  unfold Steady Unenabled; decide +kernel

/-- `base` with a trap taken from user level, at level 1. -/
def inHandler : State := { base with hart := { base.hart with status := 0x1, trapstatus := 0, trappc := 0x3000 } }

/-- With all four CXL links up no address lies behind a down link. -/
theorem links_up (s : State) (hs : s.links.cxlUp = 0xF) (pa : Nat) : linkDown s pa = false := by
  have key : ∀ p, regionOf pa = .cxl p → p < 4 := by
    intro p h
    unfold regionOf at h
    split at h
    · exact nomatch h
    split at h
    · exact nomatch h
    split at h
    · exact nomatch h
    split at h
    · rename_i hr
      split at h
      · exact Region.cxl.inj h ▸ Nat.div_lt_of_lt_mul (Nat.sub_lt_left_of_lt_add hr.1 hr.2)
      · exact nomatch h
    split at h
    · dsimp only at h
      split at h <;> exact nomatch h
    · exact nomatch h
  unfold linkDown
  split
  · rename_i p h
    rw [hs]
    have : ∀ q, q < 4 → (!(0xF#4).getLsbD q) = false := by decide
    exact this p (key p h)
  · rfl

/-- `base` at a level. -/
def atLevel (l : Word) : State := { base with hart := { base.hart with status := l } }

/-- SingleStep: SSTEP set at user level. -/
theorem witness_single_step : (atLevel 0x200).hart.status.getLsbD 9 = true ∧ levelOf (atLevel 0x200) = 0 ∧ (atLevel 0x200).hart.partFlags = 0 := by decide +kernel

/-- TrapReturn: TRAPSTATUS.PRV 2, above the level, and at or below it, with and without an owed 0x08. -/
theorem witness_trap_return :
    let ret (l ts : Word) (owe : BitVec 12) : State := { atLevel l with hart := { (atLevel l).hart with trapstatus := ts, trapowe := owe } }
    let p (s : State) : Nat := (s.hart.trapstatus.extractLsb' 0 2).toNat
    ([1, 3] : List Word).all (fun l => 1 ≤ levelOf (ret l 0 0) && p (ret l 2 0) == 2 && p (ret l 0 0) != 2 && p (ret l 1 0) ≤ levelOf (ret l 1 0)) = true
    ∧ levelOf (ret 1 3 0) < p (ret 1 3 0) ∧ p (ret 3 3 0) ≤ levelOf (ret 3 3 0)
    ∧ (ret 1 0 0x07F).hart.trapowe.extractLsb' 7 3 = 0 ∧ (ret 1 0 0x088).hart.trapowe.getLsbD 7 = true := by decide +kernel

/-- PrivilegedInstructions: each instruction below its level. -/
theorem witness_privileged : LevelOf .tret 1 ∧ LevelOf (.farm 9 10) 1 ∧ LevelOf (.notify 10) 1 ∧ LevelOf (.tlbinv 0 false 2) 1 ∧ LevelOf (.cinv true) 1
    ∧ LevelOf .halt 3 ∧ levelOf base < 1 ∧ levelOf (atLevel 1) < 3 ∧ wellFormed (.tlbinv 10 true 0) = true :=
  ⟨.inl ⟨rfl, rfl⟩, .inr (.inl ⟨_, _, rfl, rfl⟩), .inr (.inr (.inl ⟨_, rfl, rfl⟩)), .inr (.inr (.inr (.inl ⟨_, _, _, rfl, rfl⟩))),
    .inr (.inr (.inr (.inr (.inl ⟨_, rfl, rfl⟩)))), .inr (.inr (.inr (.inr (.inr ⟨rfl, rfl⟩)))), by decide, by decide, by decide⟩

/-- SystemRegisterReads and SystemRegisterWrites: levels that read and write, levels that do not, a register no level writes, a number outside the map. -/
theorem witness_system_registers : (sysValues base).all (fun r => r.2.1 ≤ levelOf (atLevel 3)) = true
    ∧ (sysEffects 5 5 base).all (fun w => w.2.1 ≤ levelOf (atLevel 3) && (sysValues base).any (fun r => r.1 == w.1)) = true
    ∧ (∃ r ∈ sysValues base, r.1 = (0x040#12).toNat ∧ levelOf base < r.2.1) ∧ (∃ w ∈ sysEffects 5 5 base, w.1 = (0x010#12).toNat ∧ levelOf base < w.2.1)
    ∧ (∃ r ∈ sysValues base, r.1 = (0x061#12).toNat ∧ ∀ w ∈ sysEffects 5 5 base, w.1 ≠ (0x061#12).toNat)
    ∧ (∃ r ∈ sysValues base, r.1 = (0x220#12).toNat ∧ levelOf base < r.2.1 ∧ ∀ w ∈ sysEffects 5 5 base, w.1 ≠ (0x220#12).toNat)
    ∧ ∀ r ∈ sysValues base, r.1 ≠ (0xFFF#12).toNat := by decide +kernel

/-- A record of an engine issued by the hart of `base`. -/
def anyRecord (w0 : Word) : CmdRec := { words := [w0, 0, 0, 0, 0, 0, 0, 0], space := Space.init, hart := 0, farm := 0 }

/-- Fences: with nothing to wait for; with a copy record; with a running schedule. -/
theorem witness_fences :
    let s := { base with engines := [(0, [anyRecord 0])] }
    let t := { base with ctxs := [(0, { Ctx.init with st := 1 })] }
    wellFormed (.fence 31 1 true true true 1) = true ∧ base.hart.stores = [] ∧ OwesNone base ∧ fenceWaits base 31 true = false
    ∧ OwesNone s ∧ OwesNone t ∧ fenceWaits s 4 true = true ∧ fenceWaits s 16 true = false ∧ fenceWaits t 16 false = true ∧ wellFormed (.fence 16 1 false false true 5) = true := by unfold OwesNone; decide +kernel

/-- KeyInstructions: a value in the table, a new one, and one that finds 64 there. -/
theorem witness_keys :
    let s (l : List Word) : State := { withAB 5 0 with hart := { (withAB 5 0).hart with keyTable := l } }
    (s [5]).getX 10 ∈ (s [5]).hart.keyTable ∧ (s (List.replicate 63 0)).getX 10 ∉ (s (List.replicate 63 0)).hart.keyTable
    ∧ (s (List.replicate 63 0)).hart.keyTable.length < 64 ∧ (s (List.replicate 64 0)).getX 10 ∉ (s (List.replicate 64 0)).hart.keyTable
    ∧ 64 ≤ (s (List.replicate 64 0)).hart.keyTable.length := by decide +kernel

/-- CacheAndTranslationMaintenance, Notification and DebugHalt. -/
theorem witness_maintenance : Steady (atLevel 1) ∧ NoUpset (atLevel 1) ∧ (atLevel 1).hart.stores = [] ∧ NoUpset withData ∧ Steady withData ∧ 1 ≤ levelOf (atLevel 1) ∧ 3 ≤ levelOf (atLevel 3) ∧ levelOf (atLevel 3) = 3
    ∧ (∃ m, translate withData withData.hart.space (some withData.hart.id) .load (withData.getX 10) = .ok m)
    ∧ wellFormed (.tlbinv 0 false 2) = true ∧ wellFormed (.tlbinv 10 true 0) = true
    ∧ (let s := (atLevel 1).setPart 0 { Part.init with vcnt := 5 }
       ((s.setX 10 4).getX 10).toNat % 2 ^ 16 < (s.partn s.hart.partid).vcnt.toNat ∧ ¬ ((s.setX 10 5).getX 10).toNat % 2 ^ 16 < (s.partn s.hart.partid).vcnt.toNat) := by
  refine ⟨⟨rfl, rfl⟩, rfl, rfl, rfl, ⟨rfl, rfl⟩, ?_, ?_, ?_, ⟨plainAt 0x2000, ?_⟩, ?_⟩ <;> decide +kernel

/-- A farm record: entry 0x4000, one hart, `strips`, flag address 0x3000, benches `place`. -/
def farmWord (strips place : Nat) : Nat := 0x4000 + (strips + 2 ^ 32) * 2 ^ 128 + place * 2 ^ 192 + 0x3000 * 2 ^ 256

/-- `base` at supervisor level in a partition with benches 0 to 5, x[10] naming a farm record. -/
def farmBase (v : Nat) : State :=
  { (((atLevel 1).setPart 0 { Part.init with bgrp := 1 }).setX 10 0x2000) with mem := memPutAll [] 0x2000 (bytesOf 64 v) }

/-- A farm of `base`'s partition, with `next` of `strips` claimed. -/
def someFarm (n : BitVec 16) (next strips : Nat) : Farm := { newFarm base n { farmRecOf (farmWord strips 1) with depaddr := 0 } with nextStrip := next }

/-- FarmCreation: a record that is accepted, one refused for its fields, one without a bench, and one beyond 256 live farms. -/
theorem witness_farm :
    let v := farmWord 7 1
    let s := farmBase v
    Steady s ∧ NoUpset s ∧ 1 ≤ levelOf s ∧ s.hart.stores = [] ∧ (s.getX 10).toNat % 64 = 0 ∧ (s.getX 10).getLsbD 63 = false
    ∧ checkAccess s .load false 1 (s.getX 10) = .ok (plainAt 0x2000) ∧ Seen s (plainAt 0x2000) 64 v ∧ (∃ k, k ∉ usedNumbers s)
    ∧ farmRecOk 0 v = true ∧ farmRecOk 0 (v + 2 ^ 179) = false
    ∧ (List.range 48).any (fun b => (farmRecOf v).place.testBit b && (s.partn 0).hasBench b) = true
    ∧ (List.range 48).any (fun b => (farmRecOf (farmWord 7 0x40)).place.testBit b && (s.partn 0).hasBench b) = false
    ∧ (((List.range 256).map (fun n => someFarm (BitVec.ofNat 16 n) 0 7)).filter (fun g => g.state != .done && g.rcd.part == 0)).length ≥ 256 := by
  refine ⟨?_, rfl, ?_, ?_, ?_, ?_, ?_, ?_, ⟨0, ?_⟩, ?_⟩ <;> (try unfold Steady) <;> (try unfold Seen) <;> decide +kernel

/-- StripClaims: a bureau hart, a farm with a strip left, and one with none. -/
theorem witness_strips :
    let s (next : Nat) : State := { base with hart := { base.hart with farm := 3 }, farms := [someFarm 3 next 2] }
    ({ base with hart := { base.hart with bureau := true } }).hart.bureau = true
    ∧ (s 1).hart.bureau = false ∧ (s 1).farmOf 3 = some (someFarm 3 1 2) ∧ (someFarm 3 1 2).nextStrip < (someFarm 3 1 2).rcd.strips
    ∧ (s 2).farmOf 3 = some (someFarm 3 2 2) ∧ (someFarm 3 2 2).rcd.strips ≤ (someFarm 3 2 2).nextStrip := by decide +kernel

/-- JoinsAndEvents and Yields: a flag address that reads, one misaligned, one of the domain; no suspension taken. -/
theorem witness_joins : Steady withData ∧ NoUpset withData ∧ withData.hart.stores = [] ∧ (withData.getX 10).toNat % 8 = 0 ∧ checkAccess withData .load false 8 (withData.getX 10) = .ok (plainAt 0x2000) ∧ LinkUp withData 0x2000 8
    ∧ ((withAB 0x2004 0).getX 10).toNat % 8 ≠ 0 ∧ ((withAB 0x8000000000000000 0).getX 10).toNat % 8 = 0
    ∧ ((withAB 0x8000000000000000 0).getX 10).getLsbD 63 = true ∧ (base.partn base.hart.part).suspTaken = false := by
  unfold Steady NoUpset LinkUp; decide +kernel

/-- `base` with vector type `vt`, length `n` granted as VLG `g`, and `r` held by v8. -/
def vec (vt : BitVec 20) (g n : Nat) (r : VReg) : State :=
  { base with hart := { base.hart with vtype := vt, vlg := g, vlv := n, granted := true, v := base.hart.v.set 8 r } }

/-- A register with image `img` of format `f` and `n` elements. -/
def image (img : Nat) (f : BitVec 5) (n : Nat) : VReg := { img := img, fmt := f, vlen := n, dirty := true, prog := n, poison := 0 }

/-- VectorWaits: three watched addresses in v8, under no mask and under one that selects the second. -/
theorem witness_vector_wait :
    let s := vec 3 3 3 (image (0x2000 + 0x2008 * 2 ^ 64 + 0x2010 * 2 ^ 128) 3 3)
    let addr (e : Nat) : Word := BitVec.ofNat 64 (elemAt s.hart s.hart.capBits 8 (indexRegs s.hart 8) 64 e)
    PlainVec s ∧ NoUpset s ∧ (∀ pa, linkDown s pa = false) ∧ wellFormed (.vwait 9 10 8 0 false 0) = true ∧ wellFormed (.vwait 9 10 8 1 true 2) = true ∧ indexFits s.hart 8 = true ∧ (s.hart.vreg 8).fmt = 3
    ∧ (∀ e ∈ (List.range s.hart.vlv).filter (fun e => s.hart.selects 0 false e), watchFault s 8 (addr e) = none)
    ∧ (List.range s.hart.vlv).filter (fun e => s.hart.selects 0 false e) = [0, 1, 2] := by
  refine ⟨by unfold PlainVec Steady; decide +kernel, rfl, links_up _ rfl, ?_⟩; decide +kernel

/-! ### Vectors -/

/-- Whether an element can be loaded, and whether it can be stored, as tests to run. -/
def canLoad (s : State) (l : ElemLoc) (e : Nat) : Bool := elemFault s .load l e == none && !(elemLoad s l).2
def canStore (s : State) (l : ElemLoc) (e : Nat) : Bool :=
  elemFault s .store l e == none && (match mapSpans s .store 1 l.addr l.bytes with
    | .ok ms => ms.all (fun p => !linkDown s p.1.pa && (sectorsOf p.1.pa p.2).all (fun k => !linkDown s k) && (pagesOf p.1.pa p.2).all (fun k => !pageHeld s k))
    | .error _ => true)

/-- `canLoad` decides Loadable. -/
theorem loadable_of (s : State) (l : ElemLoc) (e : Nat) (h : canLoad s l e = true) : Loadable s l e := by
  simp only [canLoad, Bool.and_eq_true, beq_iff_eq, Bool.not_eq_true'] at h
  exact h

/-- `canStore` decides Storable. -/
theorem storable_of (s : State) (l : ElemLoc) (e : Nat) (h : canStore s l e = true) : Storable s l e := by
  simp only [canStore, Bool.and_eq_true, beq_iff_eq] at h
  refine ⟨h.1, fun ms hm p hp => ?_⟩
  have h2 := h.2
  simp only [hm, List.all_eq_true, Bool.and_eq_true, Bool.not_eq_true'] at h2
  exact ⟨⟨(h2 p hp).1.1, (h2 p hp).1.2⟩, (h2 p hp).2⟩

/-- A test that holds of every number below `n` holds wherever membership implies being below `n`. -/
theorem below {mv ok : Nat → Bool} (n : Nat) (hb : ∀ e, mv e = true → e < n) (h : (List.range n).all (fun e => !mv e || ok e) = true) :
    ∀ e, mv e = true → ok e = true := by
  intro e he
  have := List.all_eq_true.1 h e (List.mem_range.2 (hb e he))
  simpa [he] using this

/-- What a test of every number below `n` shows of the elements an access loads, or stores. -/
theorem loads {s : State} {mv : Nat → Bool} {loc : Nat → ElemLoc} (n : Nat) (hb : ∀ e, mv e = true → e < n)
    (h : (List.range n).all (fun e => !mv e || canLoad s (loc e) e) = true) : ∀ e, mv e = true → Loadable s (loc e) e :=
  fun e he => loadable_of _ _ _ (below n hb h e he)
theorem saves {s : State} {mv : Nat → Bool} {loc : Nat → ElemLoc} (n : Nat) (hb : ∀ e, mv e = true → e < n)
    (h : (List.range n).all (fun e => !mv e || canStore s (loc e) e) = true) : ∀ e, mv e = true → Storable s (loc e) e :=
  fun e he => storable_of _ _ _ (below n hb h e he)

/-- Done elements, and what a block access moves, lie below VLV. -/
theorem does_lt (s : State) (m : MaskField) (neg : Bool) (e : Nat) (h : Does s m neg e = true) : e < s.hart.vlv := by
  simp only [Does, Bool.and_eq_true, decide_eq_true_eq] at h; exact h.1.1
theorem movesElem_lt (s : State) (m : MaskField) (e : Nat) (h : movesElem s m e = true) : e < s.hart.vlv := by
  simp only [movesElem, Bool.and_eq_true, decide_eq_true_eq] at h; exact h.1.1
theorem movesSeg_lt (s : State) (m : MaskField) (e : Nat) (h : movesSeg s m e = true) : e < s.hart.vlv := by
  simp only [movesSeg, Bool.and_eq_true] at h; exact movesElem_lt s m e h.1
theorem movesScale_lt (s : State) (m : MaskField) (n j : Nat) (hn : 0 < n) (h : movesScale s m n j = true) : j < s.hart.vlv := by
  simp only [movesScale, Bool.and_eq_true, decide_eq_true_eq] at h
  exact Nat.lt_of_le_of_lt (Nat.le_mul_of_pos_right j hn) h.1.1

/-- VectorIntegers and VectorCarriesComparesMerges: integer and floating formats, groups of one and of eight registers, negated masks. -/
theorem witness_vector_integers :
    PlainVec (vec 0 16 16 (image 0x0102030405060708 0 8)) ∧ PlainVec (vec 0x183 5 5 VReg.init) ∧ PlainVec (vec 5 3 3 (image 0x3F800000 5 3))
    ∧ (vec 0 16 16 VReg.init).hart.fmt < 4 ∧ (vec 0x183 5 5 VReg.init).hart.fmt = 3 ∧ 4 ≤ (vec 5 3 3 VReg.init).hart.fmt ∧ (vec 5 3 3 VReg.init).hart.fmt < 8
    ∧ GroupsFit (vec 0 16 16 VReg.init) [31, 8, 0] ∧ GroupsFit (vec 0x183 5 5 VReg.init) [24, 8, 0] ∧ isBlock (vec 5 3 3 VReg.init).hart.fmt = false
    ∧ maskReg 7 = true ∧ (1 : MaskField) ≠ 0 ∧ Unenabled 0x7F (vec 0 16 16 VReg.init) := by
  unfold PlainVec Steady GroupsFit Unenabled; decide +kernel

/-- VectorFloats: each format and rounding code, the stochastic one included. -/
theorem witness_vector_floats : ([4, 5, 6, 7] : List (BitVec 20)).all (fun f => ([0, 1, 2, 3, 4, 5, 7] : List (BitVec 20)).all (fun rm =>
      (vec (f + rm * 0x10000) 3 3 VReg.init).hart.vrm.isSome && 4 ≤ (vec f 3 3 VReg.init).hart.fmt && (vec f 3 3 VReg.init).hart.fmt < 8)) = true
    ∧ (vec 0x50005 3 3 VReg.init).hart.vrm = some 5 ∧ PlainVec (vec 0x50005 3 3 (image 0x3F800000 5 3)) ∧ GroupsFit (vec 0x50005 3 3 VReg.init) [1, 8, 2] := by
  unfold PlainVec Steady GroupsFit; decide +kernel

/-- VectorMoves, VectorSlicesAndTags: plain formats, groups apart, an index group, the 2-D view. -/
theorem witness_vector_moves :
    let s := vec 0x80002 600 600 (image 5 2 600)
    PlainVec s ∧ isBlock s.hart.fmt = false ∧ GroupsFit s [0, 8] ∧ overlaps 0 s.hart.grp 8 s.hart.grp = false ∧ s.hart.fmt < 4 ∧ s.hart.vri = 0
    ∧ indexFits s.hart 8 = true ∧ overlaps 0 s.hart.grp 8 (indexRegs s.hart 8) = false ∧ (s.hart.vreg 8).fmt.toNat < 4 ∧ s.hart.v2d = true := by
  unfold PlainVec Steady GroupsFit; decide +kernel

/-- MaskInstructions and MaskMemory: with VILL and without it. -/
theorem witness_masks : Steady (atLevel 8) ∧ (atLevel 8).hart.vill = true ∧ (vec 3 9 9 VReg.init).hart.vill = false ∧ (vec 3 9 9 VReg.init).hart.moving = false
    ∧ maskReg 1 = true ∧ maskReg 7 = true ∧ Unenabled 0 (vec 3 9 9 VReg.init) := by
  unfold Steady Unenabled; decide +kernel

/-- VectorLength: a legal and an illegal type; the class held, another at once, and another later. -/
theorem witness_vector_length : vtypeLegal 0x17 = false ∧ vtypeLegal 0x56 = true ∧ vtypeLegal 0x1003 = true ∧ (vec 3 1 1 VReg.init).hart.classCode = 0
    ∧ (vec 3 1 1 VReg.init).policy.deferMoves = false ∧ (vec 3 1 1 VReg.init).hart.moving = false
    ∧ ({ base with policy := { base.policy with deferMoves := true } }).policy.deferMoves = true := by decide +kernel

/-- Block formats: MXFP8 with 40 elements, and NL4B with 64, in v8. -/
def mxState : State := { (vec 0x30 64 40 (image 5 0x10 40)) with hart := { ((vec 0x30 64 40 (image 5 0x10 40)).setX 10 0x2000).setX 11 0x3000 |>.hart with pc := 0 } }
def nlState : State := { (vec 0x56 64 64 (image 5 0x16 64)) with hart := { ((vec 0x56 64 64 (image 5 0x16 64)).setX 10 0x2000).setX 11 0x3000 |>.hart with pc := 0 } }

/-- VectorBlockMoves. -/
theorem witness_block_moves : PlainVec mxState ∧ isBlock mxState.hart.fmt = true ∧ GroupsFit mxState [0, 8] ∧ PlainVec nlState ∧ isBlock nlState.hart.fmt = true
    ∧ GroupsFit nlState [29, 8] := by
  unfold PlainVec Steady GroupsFit; decide +kernel

/-- VectorLoads and VectorStores on INT32 elements: packed, strided, and indexed by v8. -/
def strideState : State := ((vec 0x2 5 5 (image (4 + 8 * 2 ^ 64) 3 5)).setX 10 0x2000).setX 11 8

theorem witness_vector_memory : PlainVec strideState ∧ StoresHome strideState ∧ GroupsFit strideState [0] ∧ (strideState.getX 10).getLsbD 63 = false ∧ isBlock strideState.hart.fmt = false
    ∧ indexable strideState.hart.fmt = true ∧ IndexFits strideState 0 8
    ∧ (∀ e, Does strideState 0 false e = true → Loadable strideState (packedLoc (strideState.getX 10) 32 e) e)
    ∧ (∀ e, Does strideState 0 false e = true → Loadable strideState (stridedLoc strideState 10 11 32 e) e)
    ∧ (∀ e, Does strideState 0 false e = true → Loadable strideState (indexedLoc strideState 10 8 32 e) e)
    ∧ (∀ e, Does strideState 0 false e = true → Storable strideState (packedLoc (strideState.getX 10) 32 e) e)
    ∧ (∀ e, Does strideState 0 false e = true → Storable strideState (stridedLoc strideState 10 11 32 e) e)
    ∧ ∀ e, Does strideState 0 false e = true → Storable strideState (indexedLoc strideState 10 8 32 e) e := by
  refine ⟨by unfold PlainVec Steady; decide +kernel, by unfold StoresHome Sound NoUpset; decide +kernel, by unfold GroupsFit; decide +kernel, by decide +kernel,
    by decide +kernel, by decide +kernel, by unfold IndexFits; decide +kernel, loads _ (does_lt _ _ _) ?_, loads _ (does_lt _ _ _) ?_, loads _ (does_lt _ _ _) ?_,
    saves _ (does_lt _ _ _) ?_, saves _ (does_lt _ _ _) ?_, saves _ (does_lt _ _ _) ?_⟩
  all_goals decide +kernel

/-- The state in which the segments of `mxState` at x[10] are read: each whole (R248). -/
def segState : State :=
  let p := segPlan mxState.hart 0 (mxState.getX 10) none false
  wholeSegments (p.elems ++ p.scales ++ p.supers) mxState

/-- VectorLoads and VectorStores of block formats, packed and in segments. -/
theorem witness_block_memory : StoresHome mxState ∧ StoresHome nlState ∧ (mxState.getX 10).getLsbD 63 = false ∧ (nlState.getX 10).getLsbD 63 = false ∧
    (∀ e, movesElem mxState 0 e = true → Loadable mxState ((flatBlocks mxState 10 11).elem e) e)
    ∧ (∀ j, movesScale mxState 0 32 j = true → Loadable mxState ((flatBlocks mxState 10 11).scale j) j)
    ∧ (∀ k, movesScale nlState 0 16384 k = true → Loadable nlState ((flatBlocks nlState 10 11).super k) k)
    ∧ (∀ e, movesSeg mxState 0 e = true → Loadable segState ((segBlocks mxState 10 0 8).elem e) e)
    ∧ (∀ j, movesScale mxState 0 32 j = true → Loadable segState ((segBlocks mxState 10 0 8).scale j) j)
    ∧ (∀ e, movesElem nlState 0 e = true → Storable nlState ((flatBlocks nlState 10 11).elem e) e)
    ∧ (∀ j, movesScale nlState 0 64 j = true → Storable nlState ((flatBlocks nlState 10 11).scale j) j)
    ∧ (∀ k, movesScale nlState 0 16384 k = true → Storable nlState ((flatBlocks nlState 10 11).super k) k)
    ∧ (∀ e, movesSeg mxState 0 e = true → Storable mxState ((segBlocks mxState 10 0 32).elem e) e)
    ∧ (∀ j, movesScale mxState 0 32 j = true → Storable mxState ((segBlocks mxState 10 0 32).scale j) j)
    ∧ (mxState.getX 10).toNat % 4 = 0 ∧ (mxState.getX 11).toNat % 4 = 0 ∧ (mxState.getX 11).getLsbD 63 = false := by
  have scales (s : State) (n : Nat) (hn : 0 < n) : ∀ j, movesScale s 0 n j = true → j < s.hart.vlv := fun j => movesScale_lt _ _ _ j hn
  have h8 : 0 < 32 ∧ 0 < 64 ∧ 0 < 16384 := by decide
  refine ⟨by unfold StoresHome Sound NoUpset; decide +kernel, by unfold StoresHome Sound NoUpset; decide +kernel, by decide +kernel, by decide +kernel,
    loads _ (movesElem_lt _ _) ?_, loads _ (scales _ _ h8.1) ?_, loads _ (scales _ _ h8.2.2) ?_, loads _ (movesSeg_lt _ _) ?_, loads _ (scales _ _ h8.1) ?_,
    saves _ (movesElem_lt _ _) ?_, saves _ (scales _ _ h8.2.1) ?_, saves _ (scales _ _ h8.2.2) ?_, saves _ (movesSeg_lt _ _) ?_, saves _ (scales _ _ h8.1) ?_, ?_⟩
  all_goals decide +kernel

/-- MaskMemory: nine bits in two bytes. -/
theorem witness_mask_memory :
    let s := (vec 3 9 9 VReg.init).setX 10 0x2003
    let past := decide (0 < s.hart.vri.toNat) && decide (s.hart.vlg ≤ s.hart.vri.toNat)
    let moved (j : Nat) : Bool := !past && decide (s.hart.vri.toNat / 8 ≤ j) && decide (j < (s.hart.vlv + 7) / 8)
    Steady s ∧ s.hart.moving = false ∧ s.hart.vill = false ∧ StoresHome s ∧ (s.getX 10).getLsbD 63 = false ∧ s.hart.stores = []
    ∧ (∀ j, moved j = true → Loadable s (packedLoc (s.getX 10) 8 j) j) ∧ ∀ j, moved j = true → Storable s (packedLoc (s.getX 10) 8 j) j := by
  refine ⟨⟨rfl, rfl⟩, rfl, by decide +kernel, by unfold StoresHome Sound NoUpset; decide +kernel, by decide +kernel, by decide +kernel,
    fun e h => loadable_of _ _ _ ?_, fun e h => storable_of _ _ _ ?_⟩
  all_goals revert e; exact below 2 (fun e h => by simp only [Bool.and_eq_true, decide_eq_true_eq] at h; exact h.2) (by decide +kernel)

/-- A stream of eight INT64 elements at 0x2000, of direction `dir`. -/
def stream (dir : BitVec 2) : Binding :=
  { scb := { base := 0x2000, cols := 4, rows := 2, estride := 0, rstride := 0x100, origin := 0, fmt := 3, dir := dir, nt := false, u := false,
             flag := if dir = 1 then 0x3000 else 0, flagval := 1 }, pos := 6, ahead := [] }

/-- `vec` with `stream dir` bound to v24. -/
def streaming (dir : BitVec 2) : State :=
  let s := vec 3 4 4 VReg.init
  s.withHart (s.hart.setBinding 24 (some (stream dir)))

/-- StreamBindings: nothing bound, and a stream of each direction. -/
theorem witness_unbind : (vec 3 4 4 VReg.init).hart.binding 24 = none ∧ (streaming 0).hart.binding 24 = some (stream 0)
    ∧ (streaming 1).hart.binding 24 = some (stream 1) ∧ (streaming 2).hart.binding 24 = some (stream 2) ∧ (streaming 0).hart.moving = false
    ∧ (streaming 1).hart.stores = [] ∧ Steady (streaming 2) := by
  unfold Steady; decide +kernel

/-- A control block's 64 bytes: `stream 0`'s, and one with a reserved bit set. -/
def scbWord (bad : Nat) : Nat := 0x2000 + (4 + 2 * 2 ^ 32) * 2 ^ 64 + 0x100 * 2 ^ 192 + (3 + bad * 32) * 2 ^ 320

/-- StreamBindings: VBIND of a legal block, of an illegal one, and of a position at and beyond the end, on a register that is free. -/
theorem witness_bind :
    let s : State := { (vec 3 4 4 VReg.init).setX 10 0x4000 with mem := memPutAll [] 0x4000 (bytesOf 64 (scbWord 0)) }
    Steady s ∧ NoUpset s ∧ unbound s 24 = s ∧ checkAccess (unbound s 24) .load false 1 (s.getX 10) = .ok (plainAt 0x4000)
    ∧ Seen (unbound s 24) (plainAt 0x4000) 64 (scbWord 0) ∧ (s.getX 10).toNat % 64 = 0 ∧ (s.getX 10).getLsbD 63 = false
    ∧ scbOk (scbWord 0) = true ∧ scbOk (scbWord 1) = false ∧ (8#64).toNat ≤ (scbOf (scbWord 0)).rows * (scbOf (scbWord 0)).cols
    ∧ (scbOf (scbWord 0)).rows * (scbOf (scbWord 0)).cols < (9#64).toNat ∧ (scbOf (scbWord 0)).dir ≠ 2 := by
  unfold Steady NoUpset Seen; decide +kernel

/-- StreamTransfers: a load stream with two elements left, and a store stream. -/
theorem witness_streams :
    let live (q : Binding) (e : Nat) : Bool := decide (e < 4) && decide (q.pos + e < q.scb.len)
    Steady (streaming 0) ∧ NoUpset (streaming 0) ∧ StoresHome (streaming 1) ∧ (streaming 0).hart.vlv * elemWidth 3 ≤ (streaming 0).hart.capBits ∧ (streaming 0).hart.grp = 1 ∧ isBlock (streaming 0).hart.fmt = false ∧ (streaming 0).hart.vri = 0 ∧ (stream 0).pos < (stream 0).scb.len
    ∧ (stream 0).scb.fmt.toNat = (streaming 0).hart.fmt ∧ (streaming 0).hart.binding 3 = none ∧ (∀ r, r < 32 → ((streaming 0).hart.vreg r).poison = 0)
    ∧ (∀ e, live (stream 0) e = true → Loadable (streaming 0) ((stream 0).scb.loc ((stream 0).pos + e)) e)
    ∧ ∀ e, live (stream 1) e = true → Storable (streaming 1) ((stream 1).scb.loc ((stream 1).pos + e)) e := by
  have low (q : Binding) : ∀ e, (decide (e < 4) && decide (q.pos + e < q.scb.len)) = true → e < 4 :=
    fun e h => of_decide_eq_true (Bool.and_eq_true_iff.1 h).1
  refine ⟨⟨rfl, rfl⟩, rfl, by unfold StoresHome Sound NoUpset; decide +kernel, ?_, ?_, ?_, ?_, ?_, ?_, ?_, ?_, loads 4 (low _) ?_, saves 4 (low _) ?_⟩
  all_goals decide +kernel

/-- A state whose v8 holds 64 elements of source tag `t`, under FMT `f`. -/
def converting (t f : Nat) : State :=
  vec (BitVec.ofNat 20 (f + if f = 0x16 then 0x40 else if isBlock f then 0x20 else 0)) 64 64 (image 5 (BitVec.ofNat 5 t) 64)

/-- VectorConversions: every pair of every clause. -/
theorem witness_conversions :
    let pairs := exactPairs ++ roundPairs ++ [(0, 1), (2, 3), (1, 0), (3, 2), (6, 0x10), (7, 0x15), (0x10, 0x14), (0x14, 0x10), (0, 6), (2, 5), (3, 5), (5, 0),
      (4, 3), (6, 2), (5, 0x0C), (5, 0x14), (5, 0x16), (5, 0), (7, 9)]
    ∀ p ∈ pairs, PlainVec (converting p.1 p.2) ∧ ConvFits (converting p.1 p.2) 0 8 ∧ (converting p.1 p.2).hart.fmt = p.2
      ∧ ((converting p.1 p.2).hart.vreg 8).fmt.toNat = p.1 ∧ (converting p.1 p.2).hart.vrm ≠ none
      ∧ sideRegs (converting p.1 p.2).hart 5 ≤ 8 ∧ groupFits 16 (sideRegs (converting p.1 p.2).hart 5) 0 = true
      ∧ overlaps 0 (converting p.1 p.2).hart.grp 16 (sideRegs (converting p.1 p.2).hart 5) = false := by
  unfold PlainVec Steady ConvFits; decide +kernel

/-- VectorReductions: each kind of format, at VRI 0 and inside the vector. -/
theorem witness_reductions : (∀ f ∈ ([0, 2, 3, 4, 5, 6, 7] : List Nat),
      PlainVec (converting f f) ∧ groupFits 8 (converting f f).hart.grp (compCount (converting f f).hart.fmt) = true
      ∧ overlaps 0 1 8 (converting f f).hart.grp = false ∧ (converting f f).hart.fmt = f ∧ (converting f f).hart.vrm ≠ none ∧ (converting f f).hart.vrm ≠ some 5)
    ∧ PlainVec ((converting 5 5).withHart { (converting 5 5).hart with vri := 3 }) := by
  refine ⟨by unfold PlainVec Steady; decide +kernel, by unfold PlainVec Steady; decide +kernel⟩

/-- VectorAtomics: INT64 and FP32 elements at a base and offsets in v8, all different or two alike. -/
theorem witness_vector_atomics : ∀ f ∈ ([2, 3, 5, 6] : List (BitVec 20)),
    let s := (vec f 3 3 (image (8 + 16 * 2 ^ 128) 3 3)).setX 10 0x2000
    let w := elemWidth s.hart.fmt
    PlainVec s ∧ Sound s ∧ NoUpset s ∧ s.hart.earlierFails = [] ∧ groupFits 0 s.hart.grp 0 = true ∧ IndexFits s 0 8 ∧ (s.getX 10).getLsbD 63 = false
    ∧ ∀ e, Does s 0 false e = true → ∃ q, checkAccess s .store false (w / 8) (indexedLoc s 10 8 w e).addr = .ok q
        ∧ q.pa = (indexedLoc s 10 8 w e).addr.toNat ∧ poisonedAt s q.pa (w / 8) = false ∧ LinkUp s q.pa (w / 8) ∧ Unheld s q.pa (w / 8) := by
  intro f hf
  simp only [List.mem_cons, List.not_mem_nil, or_false] at hf
  have key (s : State) (w : Nat) (h : (List.range s.hart.vlv).all (fun e =>
      let a := (indexedLoc s 10 8 w e).addr
      checkAccess s .store false (w / 8) a == .ok (plainAt a.toNat) && !poisonedAt s a.toNat (w / 8) && !linkDown s a.toNat
        && (sectorsOf a.toNat (w / 8)).all (fun k => !linkDown s k) && (pagesOf a.toNat (w / 8)).all (fun k => !pageHeld s k)) = true) :
      ∀ e, Does s 0 false e = true → ∃ q, checkAccess s .store false (w / 8) (indexedLoc s 10 8 w e).addr = .ok q
        ∧ q.pa = (indexedLoc s 10 8 w e).addr.toNat ∧ poisonedAt s q.pa (w / 8) = false ∧ LinkUp s q.pa (w / 8) ∧ Unheld s q.pa (w / 8) := by
    intro e he
    have := List.all_eq_true.1 h e (List.mem_range.2 (does_lt _ _ _ _ he))
    simp only [Bool.and_eq_true, beq_iff_eq, Bool.not_eq_true', List.all_eq_true] at this
    exact ⟨plainAt _, this.1.1.1.1, rfl, this.1.1.1.2, ⟨this.1.1.2, this.1.2⟩, this.2⟩
  rcases hf with rfl | rfl | rfl | rfl <;>
    exact ⟨by unfold PlainVec Steady; decide +kernel, by unfold Sound; decide +kernel, rfl, rfl, by decide +kernel, by unfold IndexFits; decide +kernel, by decide +kernel, key _ _ (by decide +kernel)⟩

/-- Two modules, this one of rank 0, with a tag for partition 0. -/
def twoModules (s : State) : State := { s with fabric := { s.fabric with dims := (2, 1, 1), dtag := s.fabric.dtag.set 0 7 } }

/-- RemoteVectors: rank 1's window 0 at x[10], offsets in v8; before sending and with every answer in. -/
theorem witness_remote_vectors :
    let s := twoModules ((vec 3 2 2 (image (8 + 16 * 2 ^ 64) 3 2)).setX 10 0x8004000000000000)
    let run (e : Nat) : Word := (packedLoc (s.getX 10) 64 e).addr
    let ixa (e : Nat) : Word := (indexedLoc s 10 8 64 e).addr
    let key (at' : Nat → Word) (e : Nat) : Nat := (at' e).toNat * 2 ^ 20 + e
    let ans (k : Nat → Nat) : State := s.withHart { s.hart with remote := some { openTags := [], answers := [(k 0, .good 5 false), (k 1, .good 6 false)] } }
    PlainVec s ∧ groupFits 0 s.hart.grp (compCount s.hart.fmt) = true ∧ indexable s.hart.fmt = true ∧ doneElems s 0 false = [0, 1] ∧ IndexFits s 0 8
    ∧ (s.hart.vreg 8).fmt = 3 ∧ (s.getX 10).getLsbD 63 = true ∧ s.hart.remote = none ∧ s.hart.earlierFails = []
    ∧ (∀ e ∈ doneElems s 0 false, (run e).toNat % 8 = 0 ∧ Sendable s (run e) ∧ (run e).extractLsb' 42 22 = (s.getX 10).extractLsb' 42 22)
    ∧ (∀ e ∈ doneElems s 0 false, (ixa e).toNat % 8 = 0 ∧ Sendable s (ixa e) ∧ (ixa e).extractLsb' 42 22 = (s.getX 10).extractLsb' 42 22)
    ∧ PlainVec (ans (key run)) ∧ Answered (ans (key run)) [0, 1] (key run) (fun e => 5 + e) ∧ Answered (ans (key ixa)) [0, 1] (key ixa) (fun e => 5 + e)
    ∧ Answered (ans id) [0, 1] id (fun e => 5 + e)
    ∧ (doneElems (vec 3 2 2 VReg.init) 0 false).head? = some 0 ∧ ((packedLoc ((withAB 0x2000 0).getX 10) 64 0).addr).getLsbD 63 = false := by
  refine ⟨by unfold PlainVec Steady; decide +kernel, by decide +kernel, by decide +kernel, by decide +kernel, by unfold IndexFits; decide +kernel, by decide +kernel,
    by decide +kernel, by decide +kernel, rfl, by unfold Sendable; decide +kernel, by unfold Sendable; decide +kernel, by unfold PlainVec Steady; decide +kernel,
    fun _ => ⟨_, rfl, rfl, by decide +kernel⟩, fun _ => ⟨_, rfl, rfl, by decide +kernel⟩, fun _ => ⟨_, rfl, rfl, by decide +kernel⟩, by decide +kernel⟩

/-- A record with first word `w0` and the flag address 0x3000. -/
def record (w0 : Word) : CmdRec := { anyRecord w0 with words := [w0, 0x3000, 0, 0, 0, 0, 0, 0] }

/-- Commands: a group of two records; unusable and usable flags, a broken record, one of an engine with room and without, the canopy loader's, a sequencer's, and
snapshots that are misaligned, of unmapped pages and of mapped ones. -/
theorem witness_commands :
    let s := vec 3 16 16 (image 0 3 16)
    let full : State := { base with engines := [(0, List.replicate 32 (record 0))] }
    let snap (src dst len : Word) : CmdRec := { anyRecord 3 with words := [3, 0x3000, src, dst, len, 0, 0, 0] }
    PlainVec s ∧ s.hart.fmt = 3 ∧ s.hart.vlv % 8 = 0 ∧ (s.hart.vreg 8).fmt = 3 ∧ groupFits 8 s.hart.grp 0 = true ∧ maskReg 1 = true
    ∧ (anyRecord 0).w 1 = 0
    ∧ ((record 0).w 1 ≠ 0 ∧ ((record 0).w 1).toNat % 8 = 0 ∧ ((record 0).w 1).getLsbD 63 = false ∧ ∃ m, agentMap base (record 0).space .store ((record 0).w 1) = .ok m)
    ∧ (record 0x0F).ok = false ∧ (record 0).ok = true ∧ (record 2).ok = true ∧ (((record 2).w 0).extractLsb' 0 4).toNat = 2
    ∧ (record 0x80).ok = true ∧ (record 0x80).any = true ∧ (∀ j, j < 0 → 32 ≤ (base.queueOf (8 * 0 + j)).length) ∧ (base.queueOf 0).length < 32
    ∧ (∀ k, k < 8 → ((record 0).any = true ∨ k = (record 0).eng) → 32 ≤ (full.queueOf (8 * (benchOf full.hart.id / 24) + k)).length)
    ∧ (base.bench 0).loaderQ.length < 8 ∧ (record 4).ok = true ∧ (((record 4).w 0).extractLsb' 0 4).toNat = 4 ∧ (base.ctx 0).st = 0 ∧ (base.ctx 0).starting = none
    ∧ (snap 0x2000 0x5000 4096).ok = true ∧ snapReason (snap 0x2001 0x5000 4096) = 7 ∧ snapReason (snap 0x2000 0x5000 4096) = 0
    ∧ (∃ pages notes, snapPages base (snap 0x2000 0x5000 4096) = (.ok pages, notes)) ∧ snapReason (snap 0x9000000000 0x5000 4096) = 0
    ∧ ∃ e notes, snapPages base (snap 0x9000000000 0x5000 4096) = (.error e, notes) := by
  repeat' first
    | decide +kernel
    | exact ⟨plainAt 0x3000, by decide +kernel⟩
    | exact ⟨_, _, rfl⟩
    | refine And.intro ?_ ?_

/-! ### The matrix engine -/

/-- A hart that owns tile 0 of a kind, its farm owning the canopy; x[10] names 2 positions (or rows), x[11] 0x2000. -/
def matrixBase (int32 : Bool) (vt : BitVec 20) : State :=
  let s := (vec vt 1024 1024 (image 5 (vt.setWidth 5) 1024)).setX 10 0x20000
  (s.setX 11 2).setBench 0 { Bench.init with tiles := Bench.init.tiles.set 0 { Tile.init with owner := some 0, int32 := int32 }, canopyOwner := some 0 }

/-- TileInstructions: a free tile, a held one, one of another hart, no tile free, masks of held tiles and of others. -/
theorem witness_tiles :
    let s := matrixBase false 0x185
    let taken : State := s.setBench 0 { Bench.init with tiles := Vector.replicate 4 { Tile.init with owner := some 9 } }
    PlainMatrix s ∧ (s.myBench.tile 1).owner = none ∧ (∀ j, j < 1 → (s.myBench.tile j).owner ≠ none) ∧ (s.myBench.tile 0).owner = some s.hart.id
    ∧ (∀ j, (taken.myBench.tile j).owner ≠ none) ∧ (taken.myBench.tile 3).owner ≠ some s.hart.id
    ∧ (∀ j : BitVec 2, (1#4).getLsbD j.toNat = true → (s.myBench.tile j).owner = some s.hart.id)
    ∧ (3#4).getLsbD (1#2).toNat = true ∧ (∀ j : BitVec 2, j < 1 → (3#4).getLsbD j.toNat = true → (s.myBench.tile j).owner = some s.hart.id) := by
  refine ⟨by unfold PlainMatrix Steady; decide +kernel, ?_⟩; decide +kernel

/-- MatrixProducts: FP8, INT8, an MX pair, B in the register file or the canopy, dense and sparse, all positions of the tile. -/
theorem witness_products :
    let s := (matrixBase false 0x188).setX 12 0x100
    let i := (matrixBase true 0x180).setX 12 0xFE0002
    PlainOperands s ∧ wellFormed (.macc 0 8 16 true true true 3 3 8 8 12 0) = true ∧ wellFormed (.maccs 0 8 0 false false false 3 0 8 8 12 13 16) = true
    ∧ (s.myBench.tile 0).owner = some s.hart.id ∧ (s.myBench.takeCanopy s.hart.farm).canopyOwner = some s.hart.farm ∧ (s.myBench.tile 0).int32 = false
    ∧ macPair 8 8 true true = some (false, 2) ∧ macPair 0 0 false false = some (true, 2) ∧ macPair 0x10 0x10 false true = some (false, 32)
    ∧ ((s.getX 12).extractLsb' 16 16).toNat + ((s.getX 12).extractLsb' 0 16).toNat ≤ 256 ∧ ((s.getX 12).extractLsb' 0 16).toNat % 4 = 0
    ∧ s.hart.vri.toNat % 2 = 0 ∧ s.hart.vri.toNat ≤ ((s.getX 12).extractLsb' 0 16).toNat ∧ metaRegs s.hart ≤ 8 ∧ groupFits 16 (metaRegs s.hart) 0 = true ∧ (8, 8, 2) ∈ plainPairs ∧ (0, 0, 2) ∈ plainPairs ∧ (5, 9, 1) ∈ plainPairs
    ∧ PlainOperands i ∧ (i.myBench.tile 0).int32 = true ∧ ((i.getX 12).extractLsb' 16 16).toNat + ((i.getX 12).extractLsb' 0 16).toNat ≤ 256
    ∧ ((i.getX 12).extractLsb' 16 16).toNat % 2 = 0 := by
  and_intros <;> decide +kernel

/-- CanopyLoads: the canopy free, held by the farm, and held by another; a panel of two positions. -/
theorem witness_canopy_loads :
    let s := (matrixBase false 0x188).setX 11 0x2000 |>.setX 10 0x2 |>.setX 12 0x100
    let other : State := s.setBench 0 { Bench.init with canopyOwner := some 9 }
    let bytes (o : Nat) : List MarkedByte := match agentBytes s s.hart.space (s.getX 11 + BitVec.ofNat 64 o * s.getX 12) 256 with | .ok l => l | .error _ => []
    PlainMatrix s ∧ NoUpset s ∧ s.myBench.canopyUpsets = [] ∧ (∀ pa, linkDown s pa = false) ∧ s.hart.stores = [] ∧ s.hart.vri = 0 ∧ matrixFmt 8 = true ∧ isBlock 8 = false
    ∧ (s.myBench.takeCanopy s.hart.farm).canopyOwner = some s.hart.farm ∧ (other.myBench.takeCanopy other.hart.farm).canopyOwner ≠ some other.hart.farm
    ∧ ((withAB 0x2001 0).getX 10).toNat % 2 ≠ 0 ∧ ((s.getX 10).extractLsb' 16 16).toNat + ((s.getX 10).extractLsb' 0 16).toNat * 1 ≤ 65536
    ∧ ∀ o, o < 2 → (s.getX 11 + BitVec.ofNat 64 o * s.getX 12).getLsbD 63 = false
        ∧ agentBytes s s.hart.space (s.getX 11 + BitVec.ofNat 64 o * s.getX 12) 256 = .ok (bytes o) := by
  refine ⟨by unfold PlainMatrix Steady; decide +kernel, rfl, by decide +kernel, links_up _ rfl, ?_⟩; decide +kernel

/-- A tile of zeros, with zero check sums, passes its comparisons. -/
theorem zero_tile_passes (t : Tile) (hn : t.nf = false) (ha : t.acc = 0) (hr : t.rounds = 0)
    (h1 : t.rowC = List.replicate 256 0) (h2 : t.rowM = List.replicate 256 0) (h3 : t.colC = List.replicate 256 0) (h4 : t.colM = List.replicate 256 0) :
    ChecksPass t := by
  have at0 : ∀ r c, t.at r c = 0 := fun r c => by simp only [Tile.at, ha, slot, bitsAt, Nat.zero_shiftRight, Nat.zero_mod]
  have units : ∀ b, tileUnits b 0 = 0 := by decide +kernel
  have sum : (List.range Config.mtlen).foldl (fun (a : Int) _ => a + 0) 0 = 0 := by decide +kernel
  have same : ∀ b, sumsDiffer b 0 0 0 0 = false := by decide +kernel
  have getI : ∀ i, i < 256 → (List.replicate 256 (0 : Int))[i]?.getD 0 = 0 := fun i hi => by rw [List.getElem?_replicate, if_pos hi]; rfl
  have getN : ∀ i, i < 256 → (List.replicate 256 0)[i]?.getD 0 = 0 := fun i hi => by rw [List.getElem?_replicate, if_pos hi]; rfl
  intro i hi
  constructor
  · simp only [rowDiffers, at0, units, sum, hn, hr, h1, h2, getI i hi, getN i hi, same]
    cases (List.range Config.mtlen).any (t.badAt i) <;> decide
  · simp only [colDiffers, at0, units, sum, hn, hr, h3, h4, getI i hi, getN i hi, same]
    cases t.colsOff <;> cases (List.range Config.mtlen).any (fun r => t.badAt r i) <;> decide

/-- The tiles of `matrixBase` do. -/
theorem witness_checks : ChecksPass ((matrixBase false 0x185).myBench.tile 0) ∧ ChecksPass ((matrixBase true 0x182).myBench.tile 0) :=
  ⟨zero_tile_passes _ rfl rfl rfl rfl rfl rfl rfl, zero_tile_passes _ rfl rfl rfl rfl rfl rfl rfl⟩

/-- MatrixDrains: FP32 and INT32 tiles into plain and MX formats, and a channel that is not held, that is full, and that has room. -/
theorem witness_drains :
    let s := matrixBase false 0x185
    let i := matrixBase true 0x182
    let ctx (n : Nat) : Ctx := { Ctx.init with held := true, chans := Ctx.init.chans.set 0 (List.replicate n { fmt := 5, data := 0, poison := 0 }) }
    let with' (n : Nat) : State := s.setCtx 0 (ctx n)
    PlainOperands s ∧ (s.myBench.tile 0).owner = some s.hart.id ∧ (s.myBench.tile 0).poison = 0 ∧ (s.myBench.tile 0).pend = false
    ∧ ((s.getX 10).extractLsb' 0 16).toNat + ((s.getX 10).extractLsb' 16 16).toNat ≤ 256 ∧ vectorRound s.hart 0 ≠ none
    ∧ wellFormed (.mdrain 0 8 3 0 0 false true 5 10 0) = true ∧ ((s.getX 10).extractLsb' 16 16).toNat * 256 * 32 ≤ s.hart.capBits * 8
    ∧ wellFormed (.mdrain 0 8 3 0 0 false true 0x10 10 0) = true ∧ ((s.getX 10).extractLsb' 16 16).toNat * 256 * 8 ≤ s.hart.capBits * 8
    ∧ 0 < ((s.getX 10).extractLsb' 16 16).toNat ∧ ((s.getX 10).extractLsb' 16 16).toNat * 8 * 8 ≤ s.hart.capBits
    ∧ PlainOperands i ∧ (i.myBench.tile 0).int32 = true ∧ wellFormed (.mdrain 0 8 3 0 0 false false 2 10 0) = true
    ∧ wellFormed (.mdrainx 0 0 0 0 0 true 5 10 0) = true ∧ (s.ctx 0).held = false
    ∧ ((with' 32).ctx 0).held = true ∧ ((with' 32).ctx 0).part = (with' 32).hart.partid ∧ 32 ≤ ((((with' 32).ctx 0).chans.toList[0]?).getD []).length
    ∧ ((((with' 30).ctx 0).chans.toList[0]?).getD []).length + 2 ≤ 32 ∧ (with' 30).hart.run = .ready ∧ PlainOperands (with' 30) := by
  and_intros <;> decide +kernel

/-! ### Steps of harts, schedulers and the debugger -/

/-- The hart of `base`, changed. -/
def hartWith (f : Hart → Hart) : State := base.withHart (f base.hart)

/-- HartSteps: each event's hart. -/
theorem witness_hart_steps :
    let bureau (r : RunState) : State := (hartWith (fun h => { h with bureau := true, status := 4, run := r })).setPart 0 { Part.init with pending := [(0x81, 5)] }
    let at' (v : Byte) (r : RunState) : State := { hartWith (fun h => { h with run := r }) with mem := if v = 0 then [] else [(0x2000, v)], time := 5 }
    Current base 0 ∧ Steady base ∧ Settled base 0 ∧ Current (bureau .ready) 0 ∧ Steady (bureau .ready) ∧ Settled (bureau .ready) 0 ∧ Unposted (bureau .ready)
    ∧ tget [] (bureau .ready).posted (bureau .ready).hart.id.toNat = [] ∧ (bureau .ready).hart.moving = false ∧ (bureau .ready).hart.swapping = false ∧ (bureau .ready).hart.status.getLsbD 2 = true
    ∧ ((bureau .ready).partn (bureau .ready).hart.part).pending = [(0x81, 5)] ∧ (0x80 : BitVec 8) ≤ 0x81
    ∧ watchValue (bureau (.asleep (.fjoin 9 0x2000))) 8 0x2000 = some 0 ∧ (bureau (.asleep (.wfe 9 0 0))).hart.run = .asleep (.wfe 9 0 0)
    ∧ watchValue (at' 7 (.asleep (.fjoin 9 0x2000))) 8 0x2000 = some 7 ∧ watchValue (at' 0 (.asleep (.fjoin 9 0x2000))) 8 0x2000 = some 0
    ∧ (at' 0 (.asleep (.wfe 9 0 5))).hart.bureau = false ∧ (5 : Word).toNat ≤ ((at' 0 .ready).time - 0).toNat ∧ ((at' 0 .ready).time - 0).toNat < (6 : Word).toNat
    ∧ (hartWith (fun h => { h with lastLda := some 0x2000 })).hart.lastLda ≠ none
    ∧ (hartWith (fun h => { h with moving := true })).hart.stores = [] := by
  refine ⟨by unfold Current; decide +kernel, ⟨rfl, rfl⟩, by unfold Settled; decide +kernel, by unfold Current; decide +kernel, ⟨rfl, rfl⟩,
    by unfold Settled; decide +kernel, by unfold Unposted; decide +kernel, ?_⟩
  decide +kernel

/-- HartSteps: a store waiting and one that an older store holds back, a stream to read ahead of, and an owed flag. -/
theorem witness_hart_memory :
    let w (pa : Nat) : MemWrite := { pa := pa, n := 2, mask := 0xFFFF, val := 0x201, uc := false, abench := none, bad := false }
    let entry (pa : Nat) : BufferedStore := { parts := [[w pa]], anyOrder := false, clears := [], vector := false, rel := false, left := 0 }
    let s := hartWith (fun h => { h with stores := [entry 0x2000, entry 0x2001] })
    let o : OwedFlag := { addr := 0x3000, val := 1, space := Space.init, unit := 12, index := 0, hart := 0, farm := 0 }
    let owing : State := { base with owed := [o] }
    Current s 0 ∧ Settled s 0 ∧ s.hart.stores = [entry 0x2000, entry 0x2001] ∧ (entry 0x2000).parts = [w 0x2000] :: [] ∧ Sound s ∧ NoUpset s ∧ LinkUp s 0x2000 2
    ∧ Unheld s 0x2000 2 ∧ mayPerform s.hart.stores 1 0 = false
    ∧ (streaming 0).hart.binding 24 = some (stream 0) ∧ (stream 0).scb.dir = 0 ∧ NoUpset (streaming 0)
    ∧ owing.owed = [o] ∧ agentMap owing Space.init .store 0x3000 = .ok (plainAt 0x3000) ∧ Sound owing ∧ NoUpset owing ∧ LinkUp owing 0x3000 8 ∧ Unheld owing 0x3000 8
    ∧ ∀ e ∈ (List.range 5).filter (fun e => decide ((stream 0).pos + e < (stream 0).scb.len)), Loadable (streaming 0) ((stream 0).scb.loc ((stream 0).pos + e)) e := by
  refine ⟨by unfold Current; decide +kernel, by unfold Settled; decide +kernel, by decide +kernel, by decide +kernel, by unfold Sound; decide +kernel, rfl,
    by unfold LinkUp; decide +kernel, by unfold Unheld; decide +kernel, by decide +kernel, by decide +kernel, by decide +kernel, rfl, by decide +kernel, by decide +kernel,
    by unfold Sound; decide +kernel, rfl, by unfold LinkUp; decide +kernel, by unfold Unheld; decide +kernel, fun e he => loadable_of _ _ _ ?_⟩
  revert e; decide +kernel

/-- A matrix instruction posted by hart `h`. -/
def post (h : HartId) : MatrixPost := { hart := h, instr := .mzero 1 false }

/-- HartSteps: the queue port's turn, the first core's and the last's; and a row of MDRAINX fetched again. -/
theorem witness_queue_and_rows :
    let b (c : Nat) (l : Vector (Option MatrixPost) 4) : State := base.setBench 0 { Bench.init with posting := l, lastCore := c }
    let one := Bench.init.posting.set 0 (some (post 0))
    let three := Bench.init.posting.set 3 (some (post 12))
    ((((b 3 one).bench 0).queue.length < 32 ∧ ((b 3 one).bench 0).posting[(0 : Fin 4)] = some (post 0)
      ∧ ∀ j : Fin 4, (((b 3 one).bench 0).lastCore + 1 + j.val) % 4 = 0 → ∀ k : Fin 4, k < j →
          ∀ x : Fin 4, x.val = (((b 3 one).bench 0).lastCore + 1 + k.val) % 4 → ((b 3 one).bench 0).posting[x] = none)
    ∧ (((b 0 three).bench 0).posting[(3 : Fin 4)] = some (post 12)
      ∧ ∀ j : Fin 4, (((b 0 three).bench 0).lastCore + 1 + j.val) % 4 = 3 → ∀ k : Fin 4, k < j →
          ∀ x : Fin 4, x.val = (((b 0 three).bench 0).lastCore + 1 + k.val) % 4 → ((b 0 three).bench 0).posting[x] = none)) := by
  decide +kernel

theorem witness_row_again :
    let i : Instr := .mdrainx 0 0 0 0 0 true 5 10 0
    let s : State := hartWith (fun h => { h with run := .asleep .channel, fetched := some i })
    Current s 0 ∧ Steady s ∧ Settled s 0 ∧ s.hart.run = .asleep .channel ∧ s.hart.fetched = some i := by
  refine ⟨by unfold Current; decide +kernel, ⟨rfl, rfl⟩, by unfold Settled; decide +kernel, rfl, rfl⟩

/-- StepsOfOtherHarts: hart 5 beside hart 0. -/
theorem witness_other_hart :
    let s : State := { base with others := [{ Hart.init with id := 5, run := .ready }] }
    s.hart.run ≠ .absent ∧ (5 : HartId) ≠ s.hart.id ∧ Settled s 5 ∧ (∃ g ∈ s.others, g.id = 5) ∧ (∀ g ∈ s.others, g.id = 5 → g.run ≠ .absent)
    ∧ ∀ g ∈ s.others, g.id ≠ s.hart.id := by unfold Settled; decide +kernel

/-- CoreSteps: an empty window, one sequence on running and on gated clusters, a sector to fill, an address that translates and one that does not. -/
theorem witness_core_steps :
    let u : Uops := {
      slotNo := 3, groups := 2, entered := 2, renamed := true, takes := 1, access := false, barrier := false, token := false, vl := 128, wide := 64, srcs := [], dsts := [], perReg := 16, slip := 4, skew := 0, start := none, finish := none, next := Vector.replicate 8 1 }
    let s : State := base.setCore 0 { Core.init with window := [u] }
    let gated : Cluster := { Cluster.init with gated := true, idle := 256 }
    let far : State := { hartWith (fun h => { h with ptbase := 0x40000001 }) with mem := [] }
    (base.core 0).window = [] ∧ (s.core 0).window = [u] ∧ u.slotNo < 4 ∧ u.entered = u.groups ∧ u.next = Vector.replicate 8 1 ∧ 1 < u.groups
    ∧ (∀ i : Fin 8, (s.core 0).clusters[i].gated = false ∧ (s.core 0).clusters[i].idle < 256 ∧ (s.core 0).clusters[i].wakeAt = none)
    ∧ 1 * (4096 / u.wide) + 56 < u.vl ∧ gated.gated = true ∧ gated.wakeAt = none
    ∧ base.harts.find? (fun g => coreOf g.id == 0) = some base.hart ∧ NoUpset base ∧ 0x2000 % 64 = 0 ∧ isCached 0x2000 = true ∧ linkDown base 0x2000 = false
    ∧ poisonedAt base 0x2000 64 = false ∧ l1Find (base.core 0).l1 0x2000 = none ∧ (base.core 0).icache = []
    ∧ base.findHart 0 = some base.hart ∧ (0x2000#64).extractLsb' 57 7 = 0
    ∧ (∃ e m, walk base base.hart.space 0x2000 = ([], .ok e) ∧ judge base base.hart.space .load 0x2000 e (some (e, [])) = .ok m ∧ (base.tlbs 0).contains e = false)
    ∧ (∃ l f, walk far far.hart.space 0x2000 = (l, .error f)) ∧ ∃ f, walk base base.hart.space (2 ^ 52) = ([], .error f) ∧ f.notes = [] := by
  repeat' first
    | decide +kernel
    | rfl
    | exact ⟨identity 0, plainAt 0x2000, by decide +kernel, by decide +kernel, by decide +kernel⟩
    | exact ⟨_, _, rfl⟩
    | exact ⟨_, rfl, rfl⟩
    | refine And.intro ?_ ?_

/-- Farm 3 in a partition that holds benches 0 to 5, with the harts given. -/
def scheduling (f : Farm) (others : List Hart) : State :=
  let s := base.setPart 0 { Part.init with bgrp := 1, en := true, st := 1, cabase := 0x100000, casize := 0x4000000 }
  { s.withHart { s.hart with farm := f.num } with farms := [f], others := others }

/-- SchedulerSteps: a dependence to read, waiting farms and others, a hart to place, and none. -/
theorem witness_scheduler :
    let dep : Farm := { someFarm 3 0 7 with state := .blocked, rcd := { (someFarm 3 0 7).rcd with depaddr := 0x2000 } }
    let ready := { scheduling (someFarm 3 0 7) [] with hart := { Hart.init with id := 20 } }
    (scheduling dep []).farmOf 3 = some dep ∧ agentMap (scheduling dep []) dep.space .load dep.rcd.depaddr = .ok (plainAt 0x2000) ∧ NoUpset (scheduling dep []) ∧ LinkUp (scheduling dep []) 0x2000 8
    ∧ (someFarm 3 0 7).state = .ready ∧ (∀ g ∈ (scheduling dep []).farms, g.num = 3 → g.state = .blocked ∨ g.state = .completing ∨ g.state = .done)
    ∧ ready.farmOf 3 = some (someFarm 3 0 7) ∧ schedulerChoice ready 0 = some (.place 3 0) ∧ ready.findHart 0 = none
    ∧ (∀ i, schedulerChoice base 0 ≠ some (.place 3 i)) := by
  refine ⟨by decide +kernel, by decide +kernel, rfl, by unfold LinkUp; decide +kernel, by decide +kernel, by decide +kernel, by decide +kernel, by decide +kernel,
    by decide +kernel, ?_⟩
  have : schedulerChoice base 0 = none := by decide +kernel
  intro i; rw [this]; exact nofun

/-- SchedulerSteps: a farm of bench 0 that wants its full slots, held by another with less priority; it has room in its cabinet to be saved. -/
theorem witness_swap :
    let low : Farm := { someFarm 5 0 99 with state := .running }
    let high : Farm := { someFarm 3 0 7 with eff := 6 }
    let s : State := { scheduling low ((List.range 15).map (fun i => { Hart.init with id := BitVec.ofNat 10 (i + 1), run := .ready, farm := 5 })) with farms := [low, high] }
    schedulerChoice s 0 = some (.swap 5 3) ∧ s.farmOf 5 = some low ∧ (startSwap 5 low.rcd.part s).2 = true := by decide +kernel

/-- SchedulerSteps: a hart being saved, one whose save is done, a farm that completes, a suspension before and after its time. -/
theorem witness_saving :
    let run : Farm := { someFarm 3 0 7 with state := .running }
    let going := scheduling run []
    let s : State := going.withHart { going.hart with swapping := true }
    let done : State := { s with farms := [{ run with saved := [s.hart] }] }
    let fin : Farm := { someFarm 3 0 7 with state := .completing }
    let susp (t : Word) : State := { base.setPart 0 { Part.init with st := 1, suspTime := some 0 } with time := t }
    Current s 0 ∧ s.hart.swapping = true ∧ s.hart.bureau = false ∧ s.hart.moving = false ∧ s.hart.run = .ready ∧ s.hart.haltAsked = false ∧ s.hart.stores = []
    ∧ tget [] s.posted (0 : HartId).toNat = [] ∧ s.farmOf s.hart.farm = some run ∧ (∀ g ∈ run.saved, g.id ≠ 0)
    ∧ done.findHart 0 = some s.hart ∧ done.farmOf 3 = some { run with saved := [s.hart] } ∧ (∀ k ∈ done.others, k.id = 0 → done.hart.id ≠ 0 ∨ done.hart.run = .absent)
    ∧ agentMap (scheduling fin []) fin.space .store fin.rcd.done = .ok (plainAt 0x3000) ∧ LinkUp (scheduling fin []) 0x3000 8 ∧ Unheld (scheduling fin []) 0x3000 8
    ∧ Sound (scheduling fin []) ∧ NoUpset (scheduling fin []) ∧ run.state ≠ .completing
    ∧ ((susp 5).partn 0).suspTime = some 0 ∧ ((susp 5).partn 0).st = 1 ∧ ((susp 999999).time - 0).toNat < 1000000 ∧ 1000000 ≤ ((susp 1000000).time - 0).toNat
    ∧ (∀ f ∈ (susp 5).farms, ¬ (f.rcd.part = 0 ∧ f.state = .running)) ∧ (susp 5).harts.find? (fun h => h.bureau && h.part == 0 && !h.swapping) = none := by
  unfold Current LinkUp Unheld Sound NoUpset; decide +kernel

/-- SchedulerSteps: a bureau hart that a suspension saves. -/
theorem witness_suspension :
    let q : Part := { Part.init with bgrp := 1, en := true, st := 1, cabase := 0x100000, casize := 0x4000000, suspTime := some 0 }
    let s : State := { base.setPart 0 q with hart := { base.hart with bureau := true }, time := 1000000 }
    let u := s.setPart 0 { q with suspTime := none, suspTaken := false }
    (s.partn 0).suspTime = some 0 ∧ (s.partn 0).st = 1 ∧ 1000000 ≤ (s.time - 0).toNat ∧ s.farms = []
    ∧ s.harts.find? (fun h => h.bureau && h.part == 0 && !h.swapping) = some s.hart ∧ (startSwap s.hart.farm 0 u).2 = true := by
  decide +kernel

/-- SchedulerSteps: a swapped farm with one saved hart, in whatever order the sixteen slots of bench 0 are tried. -/
theorem witness_resume :
    let sw : Farm := { someFarm 3 0 7 with state := .swapped, saved := [{ Hart.init with farm := 3, run := .halted }] }
    let s : State := { scheduling sw [] with hart := Hart.init }
    s.farmOf 3 = some sw ∧ sw.savedCanopies = [] ∧ (∃ got, placesForAll s (placesWithout s 3 []) [] sw = some got) ∧ schedulerChoice s 0 = some (.resume 3) := by
  intro sw s
  have places : (placesForAll s (placesWithout s 3 []) [] sw).isSome = true := by
    have fits : ∃ i ∈ (benchSet s sw).flatMap (fun b => (List.range 4).flatMap (fun c => (placesWithout s 3 []).slots (4 * b + c))),
        canGo sw (placesWithout s 3 [])
          (fun b t => match (s.bench b).tiles.toList[t]? with
            | some x => (match x.owner with | some o => (placesWithout s 3 []).there.all (fun h => h.id != o) && (s.findHart o).isSome | none => true)
            | none => false)
          (fun b => match (s.bench b).canopyOwner with | some o => ([] : List (BitVec 16)).contains o | none => true) [] (sw.saved.headD Hart.init) i = true :=
      ⟨0, by decide +kernel, by decide +kernel⟩
    obtain ⟨i, hi, hg⟩ := fits
    have one : sw.saved = [sw.saved.headD Hart.init] := by rfl
    unfold placesForAll
    rw [one]
    dsimp only [assignAll]
    rw [List.isSome_findSome?]
    exact List.any_eq_true.2 ⟨i, (freeOrder_perm _ _).mem_iff.2 hi, (congrArg Option.isSome (if_pos hg)).trans rfl⟩
  refine ⟨by decide +kernel, by decide +kernel, Option.isSome_iff_exists.1 places, ?_⟩
  have one : candidates s 0 = [sw] := by decide +kernel
  have state : (sw.state == FarmState.swapped) = true := by decide
  unfold schedulerChoice
  rw [one]
  simp only [List.findSome?_cons, state, if_true]
  rw [show sw.num = 3 from rfl, places]
  rfl

/-- DebugSteps: debug enable set and clear, a hart asked to halt, one halted, and one halted that a swap is taking. -/
theorem witness_debug :
    let asked := hartWith (fun h => { h with haltAsked := true })
    let halted := hartWith (fun h => { h with run := .halted, status := 0x400 })
    let leaving := hartWith (fun h => { h with run := .halted, status := 0x400, swapping := true })
    Current base 0 ∧ (base.partn base.hart.part).debugOn = true ∧ base.hart.run ≠ .halted ∧ ((base.setPart 0 { Part.init with debugOn := false }).partn 0).debugOn = false
    ∧ Current asked 0 ∧ asked.hart.haltAsked = true ∧ asked.hart.run = .ready ∧ asked.hart.moving = false ∧ asked.hart.stores = []
    ∧ tget [] asked.posted (0 : HartId).toNat = [] ∧ Unposted asked ∧ base.hart.haltAsked = false
    ∧ Current halted 0 ∧ halted.hart.run = .halted ∧ halted.hart.status.getLsbD 10 = true ∧ halted.hart.swapping = false ∧ halted.hart.debugWrites = []
    ∧ (halted.partn halted.hart.part).debugOn = true
    ∧ Current leaving 0 ∧ leaving.hart.swapping = true ∧ leaving.hart.bureau = false ∧ leaving.farmOf leaving.hart.farm = none := by
  unfold Current Unposted; decide +kernel

/-! ### Memory controllers and engines -/

/-- MemoryControllers: a row that is open, one that is not, one that reaches RMTH, banks that wait, for less and for more than 2 µs, and that an RFM takes up; sectors
clean and dirty and poisoned, an L1 copy, links up and down. -/
theorem witness_controllers :
    let open' : State := { base with dram := { base.dram with openRows := [(hbmBank 0, some (hbmRow 0))] } }
    let last : State := { base with time := 2000, dram := { base.dram with rmth := 1, pendingRfm := [{ bank := 5, row := 0, since := 0 }, { bank := 6, row := 0, since := 1 }], busy := [(7, 2001)] } }
    let bad : State := { base with poison := [0] }
    let l2 (d : Bool) : State := { base with l2 := [(0, { home := 0, dirty := d })] }
    let copy : L1Sector := { addr := 0x40, data := 7, upset := 0 }
    let l1 : State := base.setCore 0 { Core.init with l1 := [copy] }
    regionOf 0 = .hbm ∧ (∀ p ∈ base.dram.pendingRfm, p.bank ≠ hbmBank 0) ∧ tget none open'.dram.openRows (hbmBank 0) = some (hbmRow 0)
    ∧ tget none base.dram.openRows (hbmBank 0) ≠ some (hbmRow 0) ∧ tget 0 base.dram.counts (hbmBank 0 * 65536 + hbmRow 0) + 1 < base.dram.rmth.toNat
    ∧ last.dram.rmth.toNat ≤ tget 0 last.dram.counts (hbmBank 0 * 65536 + hbmRow 0) + 1 ∧ (∀ p ∈ last.dram.pendingRfm, p.bank ≠ hbmBank 0)
    ∧ (∃ p ∈ last.dram.pendingRfm, p.bank = 5 ∧ 2000 ≤ (last.time - p.since).toNat) ∧ (∃ p ∈ last.dram.pendingRfm, p.bank = 6)
    ∧ (¬ ∃ p ∈ last.dram.pendingRfm, p.bank = 6 ∧ 2000 ≤ (last.time - p.since).toNat) ∧ last.time.toNat < tget 0 last.dram.busy 7
    ∧ hbmBank 0x140000 = 5 ∧ regionOf 0x140000 = .hbm ∧ regionOf 0x10000000000 ≠ .hbm
    ∧ bad.poison.contains 0 = true ∧ base.poison.contains 0 = false ∧ base.l2.find? (fun p => p.1 == 0) = none ∧ NoUpset (l2 false) ∧ Sound (l2 true)
    ∧ (l2 false).l2.find? (fun p => p.1 == 0) = some (0, { home := 0, dirty := false }) ∧ (l2 true).l2.find? (fun p => p.1 == 0) = some (0, { home := 0, dirty := true })
    ∧ l1Find (l1.core 0).l1 0x40 = some copy
    ∧ base.findHart base.hart.id = some base.hart ∧ (0 + 1) * elemWidth (base.hart.vreg 8).fmt.toNat ≤ base.hart.capBits ∧ (base.hart.vreg 8).poison.testBit 0 = false
    ∧ base.links.cxlUp.getLsbD 3 = true ∧ State.reset.links.cxlUp.getLsbD 3 = false := by unfold NoUpset Sound; decide +kernel

/-- An engine of die 0 with one record at its head. -/
def engine (c : CmdRec) : State := { base with engines := [(0, [c])] }

/-- A record of a type with source 0x2000, destination (or second operand) 0x5000 and length `n`. -/
def rec' (typ : Nat) (w2 w3 w4 : Word) : CmdRec := { anyRecord 0 with words := [BitVec.ofNat 64 typ, 0x3000, w2, w3, w4, 0, 0, 0] }

/-- CopyEngines: one record of each type on memory it reaches; misaligned, untranslated, hole and domain addresses. -/
theorem witness_copy_engines :
    let copy := rec' (64 * 2 ^ 32) 0x2000 0x5000 0
    let fill := rec' 1 0x5000 7 64
    let flag := rec' 5 0x5008 7 0
    let fetch := rec' 6 0x5000 64 0
    let far : CmdRec := { fill with space := { Space.init with ptbase := 0x40000001 } }
    (engine copy).queueOf 0 = [copy] ∧ (engine copy).awaits = [] ∧ (engine copy).poison = [] ∧ Sound (engine copy) ∧ NoUpset (engine copy) ∧ Calm (engine copy)
    ∧ Unheld (engine copy) 0x5000 64
    ∧ (((copy.w 0).extractLsb' 0 4).toNat = 0 ∧ ((fill.w 0).extractLsb' 0 4).toNat = 1 ∧ ((flag.w 0).extractLsb' 0 4).toNat = 5 ∧ ((fetch.w 0).extractLsb' 0 4).toNat = 6)
    ∧ Reaches (engine copy) copy.space .load (copy.w 2) 64 (plainAt 0x2000) ∧ Reaches (engine copy) copy.space .store (copy.w 3) 64 (plainAt 0x5000)
    ∧ Reaches (engine fill) fill.space .store (fill.w 2) 64 (plainAt 0x5000) ∧ Reaches (engine flag) flag.space .store (flag.w 2) 8 (plainAt 0x5008)
    ∧ (flag.w 2).toNat % 8 = 0 ∧ ((copy.w 4).extractLsb' 0 16).toNat ≤ 1 ∧ ((copy.w 4).extractLsb' 16 16).toNat ≤ 1 ∧ ((copy.w 4).extractLsb' 32 16).toNat ≤ 1
    ∧ Reaches (engine fetch) fetch.space .load (fetch.w 2) 64 (plainAt 0x5000) ∧ isCached 0x5000 = true
    ∧ ((rec' 5 0x5004 7 0).w 2).toNat % 8 ≠ 0
    ∧ (∃ f, agentMap (engine (rec' 1 0x9000000000 7 64)) Space.init .store 0x9000000000 = .error f ∧ f.perm = true)
    ∧ (∃ f, agentMap (engine far) far.space .store 0x5000 = .error f ∧ f.perm = false)
    ∧ (0x8000000000000000#64).getLsbD 63 = true ∧ remoteRefused base 0 0x8000000000000000 = true := by
  repeat' first
    | decide +kernel
    | (dsimp only [Calm, Unheld, Sound, NoUpset]; decide +kernel)
    | exact ⟨_, rfl, rfl⟩
    | refine And.intro ?_ ?_

/-- CopyEngines: a copy of two runs of 64 bytes, 0x100 apart at the source and 0x40 at the destination. -/
theorem witness_strided_copy :
    let c : CmdRec := { anyRecord 0 with words := [64 * 2 ^ 32, 0x3000, 0x2000, 0x5000, 2, 0x100, 0x40 * 2 ^ 32, 0] }
    let s := engine c
    let cnt (k : Nat) : Nat := max 1 ((c.w 4).extractLsb' (16 * k) 16).toNat
    let runs (i : Nat × Nat × Nat) : Prop := i.1 < cnt 0 ∧ i.2.1 < cnt 1 ∧ i.2.2 < cnt 2
    let half (w k : Nat) : BitVec 32 := (c.w w).extractLsb' (32 * k) 32
    let orig := runAt (c.w 2) (half 5 0) (half 5 1) (half 6 0)
    let dest := runAt (c.w 3) (half 6 1) (half 7 0) (half 7 1)
    c.space.ptbase.getLsbD 0 = false ∧ g2On s c.space = false ∧ (∀ pa, linkDown s pa = false ∧ pageHeld s pa = false) ∧ (∀ i, runs i → Plain s (orig i) 64 ∧ Plain s (dest i) 64)
    ∧ ∀ i j, runs i → runs j → (i ≠ j → Apart (dest i) (dest j) 64) ∧ Apart (orig i) (dest j) 64 := by
  intro c s cnt runs half orig dest
  have two : ∀ i, runs i → i = (0, 0, 0) ∨ i = (1, 0, 0) := by
    intro i h
    have h0 : cnt 0 = 2 := by decide +kernel
    have h1 : cnt 1 = 1 := by decide +kernel
    have h2 : cnt 2 = 1 := by decide +kernel
    obtain ⟨a, b, d⟩ := i
    simp only [runs, h0, h1, h2] at h
    have hb : b = 0 := by omega
    have hd : d = 0 := by omega
    have ha : a = 0 ∨ a = 1 := by omega
    subst hb hd
    rcases ha with rfl | rfl
    · exact .inl rfl
    · exact .inr rfl
  refine ⟨by decide +kernel, by decide +kernel, fun pa => ⟨links_up _ rfl pa, rfl⟩, fun i hi => ?_, fun i j hi hj => ?_⟩
  · rcases two i hi with rfl | rfl <;> unfold Plain <;> decide +kernel
  · rcases two i hi with rfl | rfl <;> rcases two j hj with rfl | rfl <;> unfold Apart <;> decide +kernel

/-- CanopyLoader: a panel of two FP8 positions, a misaligned source, and a canopy of another farm. -/
theorem witness_canopy_loader :
    let c : CmdRec := { anyRecord 0 with words := [2, 0x3000, 2, 0x2000, 0x100, 0, 8, 0] }
    let odd : CmdRec := { anyRecord 0 with words := [2, 0x3000, 2, 0x2001, 0x100, 0, 6, 0] }
    let s := base.setBench 0 { Bench.init with loaderQ := [c] }
    let other := base.setBench 0 { Bench.init with loaderQ := [c], canopyOwner := some 9 }
    let bytes (o : Nat) : List MarkedByte := match agentBytes s c.space (c.w 3 + BitVec.ofNat 64 o * c.w 4) 256 with | .ok l => l | .error _ => []
    (s.bench 0).loaderQ = [c] ∧ (s.bench 0).replays = [] ∧ (s.bench 0).canopyUpsets = [] ∧ s.awaits = [] ∧ Sound s ∧ NoUpset s ∧ Calm s ∧ (∀ pa, linkDown s pa = false) ∧ matrixFmt 8 = true ∧ isBlock 8 = false
    ∧ ((s.bench 0).takeCanopy c.farm).canopyOwner = some c.farm ∧ ((other.bench 0).takeCanopy c.farm).canopyOwner ≠ some c.farm
    ∧ ((c.w 6).extractLsb' 0 5).toNat = 8 ∧ (odd.w 3).toNat % (memWidth 6 / 8) ≠ 0 ∧ ((c.w 2).extractLsb' 16 16).toNat + ((c.w 2).extractLsb' 0 16).toNat * 1 ≤ 65536
    ∧ ∀ o, o < 2 → (c.w 3 + BitVec.ofNat 64 o * c.w 4).getLsbD 63 = false
        ∧ agentBytes s c.space (c.w 3 + BitVec.ofNat 64 o * c.w 4) 256 = .ok (bytes o) := by
  refine ⟨by decide +kernel, by decide +kernel, by decide +kernel, by decide +kernel, by unfold Sound; decide +kernel, by unfold NoUpset; decide +kernel,
    by unfold Calm; decide +kernel, links_up _ rfl, ?_⟩; decide +kernel

/-- Snapshots: a registered page, a page a home has read ahead, none left, and a fault met; a page whose home has a buffer free and one whose home has none. -/
theorem witness_snapshots :
    let c := rec' 3 0x2000 0x5000 1
    let p : Snap := { engine := 0, pages := [(0x2000, 3, 0x5000)], buffers := [], cmd := c, failed := none }
    let b : PageBuf := { home := 3, dst := 0x5000, bytes := List.replicate 4096 1, bad := [] }
    let room (n : Nat) : Bool := ((List.replicate n b).filter (fun x => x.home = 3)).length < 8
    let s (p : Snap) : State := { engine c with snaps := [p] }
    (s p).queueOf 0 = [c] ∧ ((c.w 0).extractLsb' 0 4).toNat = 3 ∧ (s p).snaps = [p] ∧ p.engine = 0 ∧ p.cmd = c ∧ Sound (s p) ∧ NoUpset (s p) ∧ Calm (s p)
    ∧ (s p).awaits = [] ∧ (0x5000#64).toNat % 4096 = 0
    ∧ agentMap (s p) c.space .store 0x5000 = .ok (plainAt 0x5000) ∧ LinkUp (s p) 0x5000 4096 ∧ (∀ pa, linkDown (s p) pa = false) ∧ (s p).poison = []
    ∧ b.bytes.length = 4096 ∧ agentMap (s { p with buffers := [b] }) c.space .store b.dst = .ok (plainAt 0x5000) ∧ (∀ q ∈ p.pages, q.1 ≠ 0x5000)
    ∧ (s { p with pages := [] }).awaits = [] ∧ ({ p with failed := some 2 } : Snap).failed = some 2 ∧ (∀ q ∈ p.pages, q.1 ≠ 0x9000)
    ∧ (∃ q ∈ p.pages, q.1 = 0x2000) ∧ room 7 = true ∧ room 8 = false := by
  refine ⟨by decide +kernel, by decide +kernel, by decide +kernel, by decide +kernel, by decide +kernel, by unfold Sound; decide +kernel, by unfold NoUpset; decide +kernel,
    by unfold Calm; decide +kernel, by decide +kernel, by decide +kernel, by decide +kernel, by unfold LinkUp; decide +kernel, links_up _ rfl, ?_⟩
  decide +kernel

/-! ### Fabric -/

/-- Where both stages of partition `q` are off, no store disturbs its windows' translation. -/
theorem undisturbed_off (s : State) (q : BitVec 3) (inside : Nat → Prop) (h1 : (s.partn q).bptbase.getLsbD 0 = false) (h2 : (s.partn q).g2base.getLsbD 0 = false) :
    Undisturbed s q inside := by
  intro u hu _ asid k va
  have hp : u.parts = s.parts := by rw [hu]
  have part : u.partn q = s.partn q := by simp only [State.partn, hp]
  simp only [Machine.translate, walk, secondStage, g2On, judge, part, h1, h2, Bool.and_false, Bool.not_false, if_true, Bool.false_eq_true, if_false]

/-- This module as a target: partition 0 runs and has tag 7; its window 0 allows `ctl` over 0x2000 to 0x2FFF. -/
def target0 (ctl : Word) (st : BitVec 2) : State :=
  let s := (twoModules base).setPart 0 { Part.init with st := st }
  { s with fabric := { s.fabric with windows := [(0, { ctl := ctl, base := 0x2000, len := 0x1000, delivered := 0 })] } }

/-- A packet from rank 1 to this module. -/
def packet (esz : BitVec 3) (off cnt : Nat) (body : List Byte) : Packet :=
  { src := 1, dst := 0, dtag := 7, tag := 3, esz := esz, win := 0, off := off, cnt := cnt, body := body }

/-- `Accepts` from a test of every element. -/
theorem accepts_of (s : State) (op : Nat) (p : Packet) (q : BitVec 3) (pa : Nat → Nat) (links : s.links.cxlUp = 0xF) (snaps : s.snaps = [])
    (h : (List.range (elemCount op p)).all (fun e => targetCheck s op p e == .ok (q, (packetPlace p op e).1, plainAt (pa e))) = true) : Accepts s op p q pa :=
  fun e he => ⟨plainAt (pa e), eq_of_beq (List.all_eq_true.1 h e (List.mem_range.2 he)), rfl, ⟨links_up s links _, fun _ _ => links_up s links _⟩,
    fun _ _ => by rw [pageHeld, snaps]; rfl⟩

/-- The body of indices `a`, `b` as doublewords, and `n` more bytes. -/
def indices (a b n : Nat) : List Byte := bytesOf 8 a ++ bytesOf 8 b ++ List.replicate n 1

/-- TargetMemoryUnit: each operation with two elements that are accepted, one of a byte alone, and stores that disturb no translation. -/
theorem witness_target :
    let s := target0 0x1F 1
    let run (e : Nat) : Nat := 0x2008 + 8 * e
    Sound s ∧ NoUpset s ∧ Arrives 0 (packet 3 8 2 []) (.read (packet 3 8 2 [])) ∧ Arrives 12 (packet 0 0 2 (indices 0 1 4)) (.mwrite (packet 0 0 2 (indices 0 1 4)))
    ∧ (packet 3 8 2 []).dst = s.fabric.rank ∧ (packet 3 8 2 []).dst ≠ { s.fabric with coords := (1, 0, 0) }.rank
    ∧ ((packet 3 8 9 []).esz.toNat ≤ 4 ∧ elemCount 0 (packet 3 8 9 []) = 2 ∧ elemBytes 0 (packet 3 8 9 []) 1 = 1) ∧ ¬ (packet 5 8 2 []).esz.toNat ≤ 4
    ∧ Accepts s 0 (packet 3 8 9 []) 0 run ∧ Accepts s 1 (packet 3 8 16 (indices 1 2 0)) 0 run ∧ Accepts s 2 (packet 3 8 2 (bytesOf 8 8)) 0 run
    ∧ Accepts s 3 (packet 3 0 2 (indices 8 16 0)) 0 run ∧ Accepts s 4 (packet 3 8 2 (bytesOf 8 8 ++ indices 1 2 0)) 0 run
    ∧ Accepts s 5 (packet 3 0 2 (indices 8 16 16)) 0 run ∧ Accepts s 7 (packet 3 8 16 (indices 1 2 0)) 0 run
    ∧ Accepts s 1 (packet 4 8 1 [0x21]) 0 (fun _ => 0x2008) ∧ Accepts s 6 (packet 3 0 2 (bytesOf 8 0 ++ indices 8 16 16)) 0 run ∧ Accepts s 12 (packet 0 0 2 (indices 8 16 4)) 0 run
    ∧ Undisturbed s 0 (fun b => ∃ e, e < 2 ∧ run e ≤ b ∧ b < run e + 8)
    ∧ (∀ e e', e < 2 → e' < 2 → e ≠ e' → run e + 8 ≤ run e' ∨ run e' + 8 ≤ run e) := by
  refine ⟨by unfold Sound; decide +kernel, rfl, rfl, ⟨rfl, rfl⟩, by decide +kernel, by decide +kernel, by decide +kernel, by decide +kernel, ?_, ?_, ?_, ?_, ?_, ?_, ?_, ?_, ?_,
    ?_, undisturbed_off _ _ _ (by decide +kernel) (by decide +kernel), ?_⟩
  iterate 10 exact accepts_of _ _ _ _ _ rfl rfl (by decide +kernel)
  intro e e' _ _ hne
  dsimp only
  omega

/-- TargetMemoryUnit: each reason for which an element fails. -/
theorem witness_target_failures :
    let p := packet 3 8 2 []
    let ok := target0 0x1F 1
    (∀ q, p.dtag = 0 ∨ base.fabric.tagOf q ≠ p.dtag) ∧ partOfTag ok p.dtag = some 0 ∧ (¬ ((target0 0x1F 0).partn 0).st = 1 ∧ ¬ ((target0 0x1F 0).partn 0).st = 2)
    ∧ ((target0 0x1F 2).partn 0).st = 2 ∧ (windowOf (target0 0 1) 0 0).ok = false ∧ (windowOf (target0 1 1) 0 0).ok = true ∧ (windowOf (target0 1 1) 0 0).ctl.getLsbD 1 = false
    ∧ (windowOf ok 0 0).len.toNat < 0xFFC + 8 ∧ 0xFFC % 8 ≠ 0 ∧ (packetPlace (packet 3 0xFFC 1 []) 0 0).2.1 = 0xFFC ∧ (packetPlace (packet 3 4 1 []) 0 0).2.1 % 8 ≠ 0
    ∧ (windowOf ok 0 0).ok = true ∧ (∃ m, translate ok { part := 0, ptbase := (ok.partn 0).bptbase, asid := 0, prv := 1 } none .load 0x2008 = .ok m)
    ∧ (let far := ok.setPart 0 { (ok.partn 0) with bptbase := 0x40000001 }
       ∃ f, translate far { part := 0, ptbase := (far.partn 0).bptbase, asid := 0, prv := 1 } none .load 0x2008 = .error f)
    ∧ (∀ e, e < 2 → targetCheck (target0 0 1) 0 p e = .error 2) := by
  repeat' first
    | decide +kernel
    | exact ⟨plainAt 0x2008, by decide +kernel⟩
    | exact ⟨_, rfl⟩
    | refine And.intro ?_ ?_

/-- Responses: a hart's, an engine's and a context's request, before and after 2 ms, and a tag no request carries; a store that its hart has gone past, done and failed. -/
theorem witness_responses :
    let f (w : Requester) : Flight := { tag := 5, who := w, elems := [0, 1], size := 8, nib := false, reads := true, sentAt := some 0 }
    let s (w : Requester) (t : Word) : State := { base with fabric := { base.fabric with flights := [f w] }, time := t }
    let sleeper : State := (s (.hart 0) 0).withHart { base.hart with run := .asleep .remote, remote := some { openTags := [5], answers := [] } }
    let x : PostedStore := { before := base.hart, addr := 0x8000000000002000, sure := false, req := { openTags := [5], answers := [] } }
    let past : State := { s (.hart 0) 0 with posted := [(0, [x])] }
    let ack : Response := { ackOf 5 base with tag := 5 }
    (∀ g ∈ base.fabric.flights, g.tag ≠ 5) ∧ (s (.hart 0) 0).fabric.flights.find? (fun g => g.tag == 5) = some (f (.hart 0))
    ∧ sleeper.hart.id = 0 ∧ sleeper.hart.run ≠ .absent ∧ sleeper.hart.remote = some { openTags := [5], answers := [] } ∧ (5 : BitVec 14) ∈ [5]
    ∧ (∀ y ∈ tget [] sleeper.posted (0 : HartId).toNat, 5 ∉ y.req.openTags)
    ∧ Current past 0 ∧ past.hart.remote = none ∧ tget [] past.posted (0 : HartId).toNat = [x] ∧ x.req.openTags = [5] ∧ x.req.answers = []
    ∧ (¬ ∃ a ∈ [(0, Answer.good 0 false)], ∀ v b, a.2 ≠ .good v b) ∧ (∃ a ∈ [(0, Answer.failed 1)], ∀ v b, a.2 ≠ .good v b)
    ∧ (f (.engine 3)).who = .engine 3 ∧ (f (.context 2)).who = .context (1026 - 1024) ∧ 1024 ≤ 1026
    ∧ ({ s (.engine 3) 0 with awaits := [(3, { openTags := [5], answers := [] })] }).awaits = [(3, { openTags := [5], answers := [] })]
    ∧ ack.tag = 5 ∧ (∀ d c r, Message.response d c r ∈ (s (.hart 0) 0).fabric.arrived → c = 9 → r.tag = 5 → r.failed = 0 ∧ r.poisoned = 0 ∧ r.data = [])
    ∧ (¬ ∃ t0, (f (.hart 0)).sentAt = some t0 ∧ 2000000 ≤ ((s (.hart 0) 1999999).time - t0).toNat)
    ∧ ∃ t0, (f (.hart 0)).sentAt = some t0 ∧ 2000000 ≤ ((s (.hart 0) 2000000).time - t0).toNat := by
  intro f s sleeper x past ack
  refine ⟨by decide +kernel, by decide +kernel, by decide +kernel, by decide +kernel, by decide +kernel, by decide +kernel, by decide +kernel, by unfold Current; decide +kernel,
    by decide +kernel, by decide +kernel, rfl, rfl, ?_, ⟨(0, .failed 1), by decide, fun _ _ h => nomatch h⟩, rfl, rfl, by decide, rfl, rfl, fun _ _ _ h => absurd h List.not_mem_nil, ?_,
    ⟨0, rfl, by decide +kernel⟩⟩
  · rintro ⟨a, ha, h⟩
    exact h 0 false (List.mem_singleton.1 ha ▸ rfl)
  · rintro ⟨t0, h, ht⟩
    obtain rfl := Option.some.inj h
    exact absurd ht (by decide +kernel)

/-- A flit whose other fields are `raw` below bit 160, with its CRC filled in. -/
def flit (raw : Nat) : Nat := raw + (flitCrc raw).toNat * 2 ^ 160

/-- The CRC field stands alone above `raw`. -/
theorem crc_field (raw c : Nat) (hr : raw < 2 ^ 160) (hc : c < 2 ^ 32) : bitsAt 160 32 (raw + c * 2 ^ 160) = c := by
  simp only [bitsAt, Nat.shiftRight_eq_div_pow]
  omega

/-- The fields below it are `raw`'s. -/
theorem low_field (raw c lo cnt : Nat) (h : lo + cnt ≤ 160) : bitsAt lo cnt (raw + c * 2 ^ 160) = bitsAt lo cnt raw := by
  simp only [bitsAt, Nat.shiftRight_eq_div_pow]
  rw [show (2 : Nat) ^ 160 = 2 ^ cnt * 2 ^ (160 - lo - cnt) * 2 ^ lo from by rw [← Nat.pow_add, ← Nat.pow_add]; congr 1; omega, ← Nat.mul_assoc,
    Nat.add_mul_div_right _ _ (Nat.two_pow_pos lo), Nat.mul_comm c, Nat.mul_assoc, Nat.add_mul_mod_self_left]

/-- The CRC does not depend on the CRC field. -/
theorem crc_field_free (raw c : Nat) (hr : raw < 2 ^ 160) (hc : c < 2 ^ 32) : flitCrc (raw + c * 2 ^ 160) = flitCrc raw := by
  have h0 := crc_field raw 0 hr (by decide)
  simp only [Nat.zero_mul, Nat.add_zero] at h0
  simp only [flitCrc, putBits, crc_field raw c hr hc, h0, Nat.shiftLeft_eq, Nat.zero_mod, Nat.zero_mul, Nat.add_zero, Nat.sub_zero, Nat.add_sub_cancel]

/-- Whether a number is a flit with a right CRC. -/
def goodFlit (raw : Nat) : Bool := raw < 2 ^ 2048 && BitVec.ofNat 32 (raw / 2 ^ 160) == flitCrc raw

/-- `flit` makes a good flit; its successor's CRC field makes a bad one. -/
theorem flit_good (raw : Nat) (hr : raw < 2 ^ 160) : goodFlit (flit raw) = true ∧ goodFlit (raw + ((flitCrc raw).toNat + 1) % 2 ^ 32 * 2 ^ 160) = false := by
  have hc := (flitCrc raw).isLt
  have field : ∀ c, c < 2 ^ 32 → BitVec.ofNat 32 ((raw + c * 2 ^ 160) / 2 ^ 160) = BitVec.ofNat 32 c := by
    intro c hc
    have := crc_field raw c hr hc
    simp only [bitsAt, Nat.shiftRight_eq_div_pow] at this
    apply BitVec.eq_of_toNat_eq
    simp only [BitVec.toNat_ofNat, this]
    omega
  have small : ∀ c, c < 2 ^ 32 → raw + c * 2 ^ 160 < 2 ^ 2048 := fun c hc => by
    have : (2 : Nat) ^ 192 < 2 ^ 2048 := by decide +kernel
    have : raw + c * 2 ^ 160 < 2 ^ 192 := by omega
    omega
  constructor
  · simp only [goodFlit, flit, field _ hc, crc_field_free raw _ hr hc, small _ hc, decide_true, Bool.true_and, BitVec.ofNat_toNat, BitVec.setWidth_eq, beq_self_eq_true]
  · have hc' := Nat.mod_lt ((flitCrc raw).toNat + 1) (Nat.two_pow_pos 32)
    simp only [goodFlit, field _ hc', crc_field_free raw _ hr hc', Bool.and_eq_false_iff, beq_eq_false_iff_ne, ne_eq]
    right
    intro h
    have := congrArg BitVec.toNat h
    simp only [BitVec.toNat_ofNat] at this
    omega

/-- This module in a ring of two, port 0 up. -/
def linked (st : BitVec 2) (p : Port) : State :=
  { base with fabric := { base.fabric with dims := (4, 1, 1), ports := (Vector.replicate 6 { Port.init with st := 1 }).set 0 { p with st := st } } }

/-- The flit made of a number has its fields, and breaks a rule where the number does. -/
theorem flit_reads (r : Nat) (hr : r < 2 ^ 160) : goodFlit (flit r) = true ∧ flitOk (flit r) = flitOk r ∧ BitVec.ofNat 12 (flit r) = BitVec.ofNat 12 r
    ∧ (∀ i, i < 160 → (flit r).testBit i = r.testBit i) ∧ ∀ lo n, lo + n ≤ 160 → lowBits n (flit r / 2 ^ lo) = lowBits n (r / 2 ^ lo) := by
  have hc := (flitCrc r).isLt
  have field : ∀ lo n, lo + n ≤ 160 → bitsAt lo n (flit r) = bitsAt lo n r := fun lo n h => low_field r _ lo n h
  have bit : ∀ i, i < 160 → (flit r).testBit i = r.testBit i := by
    intro i hi
    have := field i 1 (by omega)
    simp only [bitsAt, Nat.pow_one] at this
    simp only [Nat.testBit, Nat.one_and_eq_mod_two, this]
  have h0 := crc_field r 0 hr (by decide)
  simp only [Nat.zero_mul, Nat.add_zero] at h0
  have rest : putBits 160 32 0 (flit r) = putBits 160 32 0 r := by
    simp only [putBits, flit, crc_field r _ hr hc, h0, Nat.shiftLeft_eq, Nat.zero_mod, Nat.zero_mul, Nat.add_zero, Nat.sub_zero, Nat.add_sub_cancel]
  have high : ∀ x, x < 2 ^ 192 → bitsAt 254 2 x = 0 := by
    intro x hx
    simp only [bitsAt, Nat.shiftRight_eq_div_pow]
    have : x / 2 ^ 254 = 0 := Nat.div_eq_of_lt (Nat.lt_of_lt_of_le hx (by decide))
    simp only [this, Nat.zero_mod]
  refine ⟨(flit_good r hr).1, ?_, ?_, bit, fun lo n h => ?_⟩
  · simp only [flitOk, flitOp, flitVc, flitMc, rest, high (flit r) (by unfold flit; omega), high r (by omega), field 30 2 (by decide), field 48 16 (by decide),
      field 107 5 (by decide), field 159 1 (by decide), field 156 3 (by decide), field 128 4 (by decide), field 26 3 (by decide), field 64 13 (by decide),
      bit 25 (by decide), bit 90 (by decide)]
  · have := field 0 12 (by decide)
    simp only [bitsAt, Nat.shiftRight_zero] at this
    apply BitVec.eq_of_toNat_eq
    simp only [BitVec.toNat_ofNat, this]
  · have := field lo n h
    simpa only [bitsAt, Nat.shiftRight_eq_div_pow, lowBits] using this

/-- LinkLayer: the fields of an idle flit, one for this module, one of several, one for all, one for rank 3, one out of order and two that break a rule, and the ports
they find (`flit_reads`: each is the flit made of the number here); and a flit whose CRC is bad. -/
theorem witness_flits :
    let s := linked 1 Port.init
    let all := 2 ^ 90 + 2 ^ 28 + 11 * 2 ^ 128
    (s.port 0).isUp = true ∧ Quiet s ∧ (∀ r ∈ [2 ^ 25, 0, 2 ^ 151, all, 3 * 2 ^ 64, 2 ^ 30, 2 ^ 90], r < 2 ^ 160 ∧ BitVec.ofNat 12 r = (s.port 0).rxSeq ∧ r.testBit 24 = false ∧ r.testBit 29 = false)
    ∧ flitOk (2 ^ 25) = true ∧ (2 ^ 25 : Nat).testBit 25 = true ∧ (∀ r ∈ [0, 2 ^ 151, all, 3 * 2 ^ 64], flitOk r = true ∧ r.testBit 25 = false)
    ∧ flitOk (2 ^ 30) = false ∧ flitOk (2 ^ 90) = false
    ∧ s.fabric.portTo (lowBits 13 (0 / 2 ^ 64)) = none ∧ all.testBit 90 = true ∧ lowBits 15 (all / 2 ^ 91) = 0 ∧ lowBits 5 (2 ^ 151 / 2 ^ 151) = 1
    ∧ (3 * 2 ^ 64 : Nat).testBit 90 = false ∧ s.fabric.portTo (lowBits 13 (3 * 2 ^ 64 / 2 ^ 64)) = some 1
    ∧ (s.port 1).isUp = true ∧ 0 < (s.port 1).pool ∧ (s.port 1).holder = Vector.replicate 8 none ∧ (s.port 1).poolHeld.toList.getD 1 0 < 128
    ∧ (s.port 1).poolHeld.toList.getD 0 0 < 128
    ∧ BitVec.ofNat 12 5 ≠ (s.port 0).rxSeq ∧ 2048 ≤ ((s.port 0).rxSeq - 1 - 5#12).toNat ∧ (s.port 0).awaiting = false
    ∧ ((linked 1 { Port.init with rxSeq := 6 }).port 0).rxSeq - 1 - 5#12 = 0 ∧ ({ Port.init with awaiting := true } : Port).awaiting = true
    ∧ goodFlit (0 + ((flitCrc 0).toNat + 1) % 2 ^ 32 * 2 ^ 160) = false := by
  repeat' first
    | decide +kernel
    | (dsimp only [Quiet]; decide +kernel)
    | exact (flit_good 0 (by decide)).2
    | refine And.intro ?_ ?_

/-- LinkLayer: training lost, won, with something to resend, and failed; routes from the middle of a torus. -/
theorem witness_training :
    ((linked 2 { Port.init with badRun := 64 }).port 0).st = 2 ∧ 64 ≤ ((linked 2 { Port.init with badRun := 64 }).port 0).badRun
    ∧ ((linked 3 { Port.init with replay := [7] }).port 0).st = 3 ∧ Quiet (linked 3 { Port.init with replay := [7] }) ∧ Quiet (linked 3 Port.init) ∧ ((linked 3 { Port.init with replay := [7] }).port 0).replay ≠ []
    ∧ ((linked 3 Port.init).port 0).replay = [] ∧ ((linked 3 Port.init).port 0).outq = [] ∧ ((linked 0 Port.init).port 0).st ≠ 3
    ∧ (let f : Fabric := { Fabric.init with dims := (4, 3, 2), coords := (3, 2, 1) }
       f.coords.1 < f.dims.1 ∧ f.coords.2.1 < f.dims.2.1 ∧ f.coords.2.2 < f.dims.2.2 ∧ 23 < f.dims.1 * f.dims.2.1 * f.dims.2.2) := by unfold Quiet; decide +kernel

/-! ### Collective sequencer -/

/-- Context 1 of a domain of two modules, running at 0x4000 with 256-element chunks in BF16, changed by `f`; the word there is `w`. -/
def seqState (w : Nat) (f : Ctx → Ctx) : State :=
  let c : Ctx := { Ctx.init with held := true, st := 1, pc := 0x4000, cl := 256, tf := 6, flagAddr := 0x3000, flagVal := 1 }
  { (twoModules base).setCtx 1 (f c) with mem := memPutAll [] 0x4000 (bytesOf 8 w) }

/-- `AtWord` from a test. -/
theorem atWord_of (s : State) (k w : Nat) (h : ((s.ctx k).st != 0 && s.harts.all (fun g => g.stores.all (fun e => e.left == 0))
    && (s.ctx k).bufs.toList.all (fun o => match o with | some b => b.upsets.isEmpty | none => true) && !(s.ctx k).pc.getLsbD 63 && (s.ctx k).pc.toNat % 8 == 0
    && !agentDown s (s.ctx k).space .load (s.ctx k).pc 8
    && (match agentBytes s (s.ctx k).space (s.ctx k).pc 8 with | .ok l => ofBytes (l.map Prod.fst) == w | .error _ => false)) = true) : AtWord s k w := by
  simp only [Bool.and_eq_true, bne_iff_ne, ne_eq, Bool.not_eq_true', beq_iff_eq, List.all_eq_true] at h
  obtain ⟨⟨⟨⟨⟨⟨running, calm⟩, clean⟩, own⟩, aligned⟩, up⟩, word⟩ := h
  refine ⟨running, calm, fun i b hb => List.isEmpty_iff.1 (clean (some b) (List.mem_of_getElem? hb)), own, aligned, up, ?_⟩
  revert word
  cases agentBytes s (s.ctx k).space (s.ctx k).pc 8 with
  | error e => exact fun h => nomatch h
  | ok l => exact fun h => ⟨l, rfl, by simpa using h⟩

/-- A chunk of format `f`. -/
def chunk (f : BitVec 5) : Buf := { fmt := f, data := 0x3F80, poison := 0, upsets := [] }

/-- A context with buffer 0 holding a chunk of format `f` and q0 holding `q`. -/
def holding (f : BitVec 5) (q : Word) (c : Ctx) : Ctx := { c with bufs := c.bufs.set 0 (some (chunk f)), q := c.q.set 0 q }

/-- A packet from rank 1 to context 1 of this module. -/
def collPacket (comb mc : Bool) (khi : BitVec 4) (tag : BitVec 8) : Coll :=
  { src := 1, dst := 0, dtag := 7, box := (0, 0, 0), kind := 0, zeros := 0, dctx := 1, sctx := 3, tag := tag, chunk := 0, hop := 0, fmt := 6, comb := comb, mc := mc, step := 0, eoff := 0, ecnt := 16, khi := khi,
    fl := 0, last := true, poison := 0, data := 5 }

/-- A staged chunk for rank 1. -/
def stagedChunk (tries : Nat) : Staged := 
  { packets := [{ collPacket false false 0 0 with src := 0, dst := 1 }], sentAt := some 0, tries := tries }

/-- SequencerSends: to rank 1 and to itself, staging full, a contribution, a box, and the failures. -/
theorem witness_sends :
    let one := dataWord 0 0 0 0 0 0 0 0 0
    let cmb := dataWord 0 0 0 0 0 0x7FFD 0 1 3
    let box := dataWord 0 0 0 0 0 0 0 0 0x20
    let s := seqState one (holding 6 0x30001)
    let self := ((seqState one (holding 5 0x30000)).setCtx 3 { Ctx.init with held := true }).setPart 0 { Part.init with st := 1 }
    let eight (w : Nat) : State := seqState w (fun c => { holding 6 0x30001 c with staged := List.replicate 8 (stagedChunk 0) })
    AtWord s 1 one ∧ s.awaits = [] ∧ 0 < (s.ctx 1).cl ∧ (s.ctx 1).staged.length < 8 ∧ (s.ctx 1).bufs[0] = some (chunk 6) ∧ (chunk 6).fmt = (s.ctx 1).tf ∧ (chunk 5).fmt = 5
    ∧ PeerOf s 1 0 1 3 ∧ 1 ≠ s.fabric.rank ∧ PeerOf self 1 0 0 3 ∧ 0 = self.fabric.rank ∧ (3 : BitVec 5).toNat ≠ 1 ∧ (self.ctx 1).cl * (fmtBits (self.ctx 1).tf / 8) ≤ 2048
    ∧ (self.ctx 3).held = true ∧ (self.ctx 3).part = (self.ctx 1).part ∧ (self.ctx 3).slots = [] ∧ (self.ctx 3).recent = [] ∧ AtWord self 1 one
    ∧ ((self.partn 0).st = 1 ∧ (self.ctx 1).staged = []) ∧ AtWord (eight one) 1 one ∧ AtWord (eight box) 1 box ∧ 8 ≤ ((eight one).ctx 1).staged.length
    ∧ ((eight one).ctx 1).bufs[0] = some (chunk 6)
    ∧ AtWord (seqState cmb (holding 6 0x30001)) 1 cmb ∧ (0x7FFD#15).toNat + 2 * 2 - 2 ≤ 0x7FFF ∧ (1#8).toNat < 2
    ∧ AtWord (seqState box (holding 6 0x30001)) 1 box ∧ s.fabric.tagOf (s.ctx 1).part ≠ 0 ∧ (s.ctx 3).held = false
    ∧ AtWord (seqState one id) 1 one ∧ AtWord (seqState box id) 1 box ∧ AtWord (seqState one (holding 8 0x30001)) 1 one ∧ AtWord (seqState one (holding 6 2)) 1 one
    ∧ (seqState one id).fabric.ranks ≤ 2 ∧ ((seqState one id).ctx 1).bufs[0] = none ∧ (chunk 8).fmt ≠ (s.ctx 1).tf ∧ (chunk 8).fmt ≠ 5
    ∧ base.fabric.tagOf 0 = 0 := by
  repeat' first
    | exact atWord_of _ _ _ (by decide +kernel)
    | decide +kernel
    | refine And.intro ?_ ?_

/-- A slot of 256 elements from rank 1, context 3. -/
def slotOf (comb : Bool) (klo khi : Nat) (len : Option Nat) : Slot :=
  { src := 1, sctx := 3, tag := if comb then 1 else 0, chunk := 0, step := 0, comb := comb, hop := 0, klo := klo, khi := khi, fmt := 6, placed := 2 ^ 256 - 1, len := len,
    data := 0, poison := 0, fl := 0 }

/-- SequencerReceives: a chunk there, of the right and of another length, and not there; rows enough, too few, mixed, a length that is no rows; a group of two. -/
theorem witness_receives :
    let recv := dataWord 1 0 0 0 0 0 0 0 0
    let rch := dataWord 1 0 0 0 0 0 0 0 1
    let rcm := dataWord 1 0 0 0 0 0 0 1 2
    let row (f : BitVec 5) : Row := { fmt := f, data := 0, poison := 0 }
    let mine (c : Ctx) (u : Slot) : Prop := u.comb = false ∧ u.src = 1 ∧ u.sctx = 3 ∧ u.tag = 0 ∧ u.chunk.toNat = effChunk c 0 ∧ u.step = c.key.extractLsb' 0 16 ∧ u.complete = true
    let group (c : Ctx) (u : Slot) : Prop := u.comb = true ∧ u.chunk.toNat = effChunk c 0 ∧ u.hop = 0 ∧ u.step = c.key.extractLsb' 0 16 ∧ u.fmt = c.tf ∧ u.tag = 1
    let s := seqState recv (holding 6 0x30001)
    let rows (l : List Row) : State := seqState rch (fun c => { c with chans := c.chans.set 0 l })
    let g := seqState rcm id
    AtWord s 1 recv ∧ PeerOf s 1 0 1 3 ∧ mine (s.ctx 1) (slotOf false 0 0 (some 256)) ∧ (∀ u ∈ (s.ctx 1).slots, ¬ mine (s.ctx 1) u)
    ∧ (slotOf false 0 0 (some 256)).len = some (s.ctx 1).cl ∧ (mine (s.ctx 1) { slotOf false 0 0 (some 255) with placed := 2 ^ 255 - 1 })
    ∧ AtWord (rows []) 1 rch ∧ ((rows []).ctx 1).rows = [] ∧ ((rows []).ctx 1).cl % 256 = 0 ∧ (seqState rch (fun c => { c with cl := 300 }) |>.ctx 1).cl % 256 ≠ 0
    ∧ ((((rows [row 5]).ctx 1).chans.toList[0]?).getD []).length = 1 ∧ (∀ x ∈ [row 5].take 1, ∀ y ∈ [row 5].take 1, x.fmt = y.fmt)
    ∧ (∃ x ∈ [row 5, row 6].take 2, ∃ y ∈ [row 5, row 6].take 2, x.fmt ≠ y.fmt)
    ∧ AtWord (seqState rch (fun c => { c with cl := 300 })) 1 rch ∧ group (g.ctx 1) (slotOf true 0 0 (some 255)) ∧ AtWord g 1 rcm ∧ group (g.ctx 1) (slotOf true 0 0 (some 256)) ∧ group (g.ctx 1) (slotOf true 1 1 (some 256))
    ∧ (slotOf true 0 0 (some 256)).placed = 2 ^ (g.ctx 1).cl - 1 ∧ [slotOf true 1 1 (some 256)].length = 2 - 1 - (slotOf true 0 0 (some 256)).khi
    ∧ 1 ≤ (1#8).toNat ∧ (15#8).toNat < 16 := by
  repeat' first
    | exact atWord_of _ _ _ (by decide +kernel)
    | decide +kernel
    | refine And.intro ?_ ?_

/-- SequencerArithmetic: each word with its buffers and addresses, and what ends the run. -/
theorem witness_sequencer_arithmetic :
    let red := dataWord 2 0 0 0 0 0 0 0 0
    let ld := dataWord 3 0 0 0 0 0 0 0 24
    let st := dataWord 3 0 0 0 0 0 0 0 1
    let cp := dataWord 3 0 0 0 0 0 0 0 2
    let cmpr := dataWord 6 0 0 0 0 0 0 0 0
    let s (w : Nat) (q : Word) : State := seqState w (holding 6 q)
    let addr (q : Word) (es : Nat) : Word := q + BitVec.ofNat 64 (effChunk ((s 0 q).ctx 1) 0 * 256 * es)
    let bytes : List MarkedByte := match agentBytes (s ld 0x6000) Space.init (addr 0x6000 2) 512 with | .ok l => l | .error _ => []
    AtWord (s red 0) 1 red ∧ AtWord (s ld 0x6000) 1 ld ∧ AtWord (s st 0x6000) 1 st ∧ AtWord (s cp 0) 1 cp ∧ AtWord (s cmpr 0x6000) 1 cmpr
    ∧ AtWord (s ld 0x8000000000000000) 1 ld ∧ AtWord (s ld 0x6001) 1 ld ∧ AtWord (s ld 0x9000000000) 1 ld ∧ AtWord (seqState red id) 1 red
    ∧ (∀ w, w ∈ [red, ld, st, cp, cmpr] → Sound (s w 0x6000)) ∧ (∀ w q, (s w q).awaits = [] ∧ NoUpset (s w q) ∧ 0 < ((s w q).ctx 1).cl) ∧ Unheld (s st 0x6000) 0x6000 512
    ∧ Unheld (s cmpr 0x6000) 0x6000 1024
    ∧ ((s red 0).ctx 1).bufs[0] = some (chunk 6) ∧ (∀ pa, linkDown (s red 0) pa = false) ∧ (addr 0x6000 2).getLsbD 63 = false ∧ (addr 0x6000 2).toNat % 2 = 0
    ∧ agentBytes (s ld 0x6000) Space.init (addr 0x6000 2) 512 = .ok bytes ∧ (addr 0x8000000000000000 2).getLsbD 63 = true ∧ (addr 0x6001 2).toNat % 2 ≠ 0
    ∧ (∃ e, agentMap (s ld 0x9000000000) Space.init .load (addr 0x9000000000 2) = .error e)
    ∧ Reaches (s st 0x6000) Space.init .store (addr 0x6000 2) 512 (plainAt 0x6000) ∧ (chunk 6).poison = 0 ∧ (s st 0x6000).poison = []
    ∧ Reaches (s cmpr 0x6000) Space.init .load (addr 0x6000 4) 1024 (plainAt 0x6000) ∧ Reaches (s cmpr 0x6000) Space.init .store (addr 0x6000 4) 1024 (plainAt 0x6000)
    ∧ ((seqState red id).ctx 1).bufs[0] = none := by
  repeat' first
    | exact atWord_of _ _ _ (by decide +kernel)
    | decide +kernel
    | (dsimp only [Calm, Unheld, Sound, NoUpset]; decide +kernel)
    | exact fun w q => ⟨rfl, rfl, (by decide : 0 < 256)⟩
    | exact links_up _ rfl
    | exact ⟨_, rfl⟩
    | refine And.intro ?_ ?_

/-- SequencerControl: WAIT and SIG at flags that are met, not met, misaligned, of the domain; LOOP, JUMP, END; a word of no table; staging; starts. -/
theorem witness_sequencer_control :
    let wait := 4 * 2 ^ 60 + 7
    let sig := 5 * 2 ^ 60 + 7
    let s (w : Nat) (q : Word) : State := seqState w (holding 6 q)
    let stagedState : State := seqState sig (fun c => { c with staged := [stagedChunk 8] })
    let start (addr : Word) : CmdRec := { anyRecord 4 with words := [4, 0x3000, 0, 0x4000, addr, 0, 0, 0] }
    let block : State := { (twoModules base).setCtx 1 { Ctx.init with held := true, starting := some (start 0x5000) } with mem := memPutAll [] 0x5000 (bytesOf 8 (256 + 6 * 2 ^ 16)) }
    let bytes : List MarkedByte := match agentBytes block Space.init 0x5000 136 with | .ok l => l | .error _ => []
    (∀ w q, (s w q).awaits = [] ∧ (∀ pa, linkDown (s w q) pa = false) ∧ NoUpset (s w q)) ∧ (∀ w ∈ [wait, sig, 8 * 2 ^ 60, 9 * 2 ^ 60], Sound (s w 0x6000)) ∧ Calm (s sig 0x6000)
    ∧ AtWord stagedState 1 sig ∧ AtWord (s wait 0x8000000000000000) 1 wait ∧ AtWord (s wait 0x6004) 1 wait ∧ Unheld (s sig 0x6000) 0x6000 8
    ∧ AtWord (s wait 0x6000) 1 wait ∧ AtWord (s sig 0x6000) 1 sig ∧ AtWord (s (7 * 2 ^ 60 + 3 * 2 ^ 16) 0) 1 (7 * 2 ^ 60 + 0 * 2 ^ 58 + 3 * 2 ^ 16 + 0)
    ∧ AtWord (s (8 * 2 ^ 60) 0) 1 (8 * 2 ^ 60 + 0) ∧ AtWord (s (9 * 2 ^ 60) 0) 1 (9 * 2 ^ 60) ∧ AtWord (s (15 * 2 ^ 60) 0) 1 (15 * 2 ^ 60) ∧ decodeSeq (15 * 2 ^ 60) = none
    ∧ (∃ l, agentBytes (s wait 0x6000) Space.init 0x6000 8 = .ok l) ∧ (∃ m, agentMap (s sig 0x6000) Space.init .store 0x6000 = .ok m) ∧ (s sig 0x6000).poison = []
    ∧ (0x6004#64).toNat % 8 ≠ 0 ∧ (0x8000000000000000#64).getLsbD 63 = true ∧ ((s sig 0x6000).ctx 1).staged = [] ∧ (stagedState.ctx 1).staged ≠ []
    ∧ remoteRefused (s sig 0) 0 0x8008000000000000 = true ∧ remoteRefused (s sig 0) 0 0x8004000000000000 = false ∧ domRank 0x8004000000000000 ≠ (s sig 0).fabric.rank
    ∧ ((s sig 0).ctx 1).st ≠ 0 ∧ ((twoModules base).ctx 1).st = 0 ∧ (stagedState.ctx 1).staged[0]? = some (stagedChunk 8) ∧ 8 ≤ (stagedChunk 8).tries
    ∧ (stagedChunk 7).tries < 8 ∧ (stagedChunk 8).sentAt = some 0 ∧ 1000000 ≤ (({ stagedState with time := 1000000 } : State).time - 0).toNat
    ∧ (stagedChunk 7).packets ≠ [] ∧ (∀ p ∈ (stagedChunk 7).packets, p.dst ≠ stagedState.fabric.rank ∧ p.mc = false)
    ∧ (block.ctx 1).starting = some (start 0x5000) ∧ (block.ctx 1).held = true ∧ (block.ctx 1).part = (start 0x5000).space.part ∧ ((start 0x5000).w 4).toNat % 8 = 0
    ∧ ((start 0x5000).w 3).toNat % 8 = 0 ∧ agentBytes block Space.init 0x5000 136 = .ok bytes
    ∧ ofBytes ((bytes.take 8).map Prod.fst) = 256 + 6 * 2 ^ 16 := by
  repeat' first
    | exact atWord_of _ _ _ (by decide +kernel)
    | decide +kernel
    | (dsimp only [Calm, Unheld, Sound, NoUpset]; decide +kernel)
    | exact fun w q => ⟨rfl, links_up _ rfl, rfl⟩
    | exact ⟨_, rfl⟩
    | refine And.intro ?_ ?_

/-- CollectivePackets: plain, multicast and combining packets, new, known, with no room, in a slot begun; one that breaks its table; two pieces that wait at a port and
fold. -/
theorem witness_collective_packets :
    let p := collPacket false false 0 0
    let g := collPacket true false 0 0x10
    let s (f : Ctx → Ctx) : State := (seqState 0 f).setPart 0 { Part.init with st := 1 }
    let full (st : BitVec 2) : State := s (fun c => { c with st := st, slots := (List.range 8).map (fun i => { filled p with chunk := BitVec.ofNat 16 (i + 1) }) })
    let begun : Slot := { filled g with placed := 0, len := none }
    let out : Coll := { g with dst := 1 }
    let next : Coll := { out with tag := 0x11, khi := 1 }
    let flits (c : Coll) : List Queued := ((Message.coll c).wire 0).flits.map (fun r => { raw := r, source := 0, slot := none })
    let port : Port := { Port.init with st := 3, outq := flits out ++ flits next }
    p.dst = (s id).fabric.rank ∧ ¬ ({ p with dst := 1 }.dst = (s id).fabric.rank ∨ p.mc = true) ∧ collOk p = true ∧ p.kind = 0 ∧ collOk { p with ecnt := 0 } = false
    ∧ collOk { p with kind := 1 } = true ∧ ((s id).partn 0).st = 1
    ∧ ((s id).ctx 1).held = true ∧ partOfTag (s id) 7 = some ((s id).ctx 1).part ∧ partOfTag (s id) 8 = none ∧ p.src ≠ (s id).fabric.rank ∧ ((s id).ctx 1).slots = []
    ∧ p.eoff = 0 ∧ p.last = true ∧ collOk g = true ∧ g.comb = true ∧ collOk (collPacket false true 0 0) = true ∧ (∀ x ∈ ((s id).ctx 1).recent, x ≠ collKey p)
    ∧ collKey p ∈ ((s (fun c => { c with recent := [collKey p] })).ctx 1).recent
    ∧ ((full 0).ctx 1).slots.length = 8 ∧ ((full 0).ctx 1).st = 0 ∧ (∀ x ∈ ((full 0).ctx 1).slots, x.isFor p = false ∧ x.isFor g = false ∧ x.comb = false)
    ∧ ((full 1).ctx 1).st = 1 ∧ (full 1).awaits = [] ∧ (((full 0).ctx 1).slots.map Slot.place).Pairwise (· ≠ ·)
    ∧ begun.isFor g = true ∧ collOk out = true ∧ collOk next = true ∧ next.tag >>> 4 = out.tag >>> 4
    ∧ out.tag.extractLsb' 0 4 = 0 ∧ next.tag.extractLsb' 0 4 = next.khi ∧ out.khi.toNat + 1 = next.khi.toNat ∧ out.step = (0 : Word).extractLsb' 0 16
    ∧ port.packetOf? out = some (flits out) ∧ port.packetOf? next = some (flits next) ∧ flits out ≠ flits next ∧ (flits out).Nodup ∧ (∀ x ∈ flits out, x ∉ flits next)
    ∧ port.packetOf? p = none := by
  and_intros <;> decide +kernel

/-! ### Power, records, partitions, host, start -/

/-- A clock of a die in the emergency, and not. -/
def withClock (em : Bool) (freq ceil : BitVec 12) : State :=
  { base with power := base.power.setClock false { base.power.clock false with emergency := em, freq := freq, ceil := ceil } }

/-- PowerSteps: every reading, hint, measurement and lease of the statement. -/
theorem witness_power :
    let s := withClock true 800 2100
    let leased : State := { base with power := { base.power with floor := false, lexp := 5 } }
    (∀ j, j ≠ (0 : BitVec 2) → hintCount base false j < hintCount base false 0) ∧ (∀ h : BitVec 2, ∃ j, j ≠ h ∧ hintCount base true h ≤ hintCount base true j)
    ∧ (s.power.clock false).emergency = true ∧ (base.power.clock false).emergency = false ∧ (∃ x ∈ [106], 105 < x) ∧ (¬ ∃ x ∈ [105], 105 < x) ∧ (∃ x ∈ [95], 95 ≤ x)
    ∧ (¬ ∃ x ∈ [94], 95 ≤ x) ∧ (∃ x ∈ [251], 250 < x) ∧ (¬ ∃ x ∈ [250], 250 < x) ∧ (∀ x ∈ [234], x < 235) ∧ (¬ ∀ x ∈ [235], x < 235)
    ∧ (base.power.clock false).freq < (base.power.clock false).ceil ∧ 65535 < 65536 ∧ base.power.hseq < 1 ∧ 1400 ≤ (1400#16).toNat ∧ (2600#16).toNat ≤ 2600
    ∧ (1#32) ≠ 0 ∧ ¬ base.power.hseq < 0 ∧ leased.power.floor = false ∧ leased.power.lexp < ({ leased with time := 6 } : State).time ∧ ({ leased with time := 5 } : State).time ≤ leased.power.lexp
    ∧ base.power.floor = true := by
  and_intros <;> decide +kernel

/-- FaultRecords: rings set apart, a ring of base 0, a partition being reset, and words of type 5 and of another. -/
theorem witness_fault_records :
    let s : State := { base with ras := { base.ras with mbase := 0x10000, rbase := base.ras.rbase.set 1 0x20000 } }
    let w : Word := 0x1000005
    let mAt := s.ras.mbase.toNat / 8192 * 8192 + s.ras.mseq.toNat % 256 * 32
    let pAt := s.ras.rbase[1].toNat / 8192 * 8192 + s.ras.pseq[1].toNat % 256 * 32
    Sound s ∧ NoUpset s ∧ (linkDown s mAt = false ∧ Unheld s mAt 32) ∧ (linkDown s pAt = false ∧ Unheld s pAt 32)
    ∧ w.extractLsb' 0 8 = 5 ∧ (0x1000004#64).extractLsb' 0 8 ≠ 5 ∧ w.extractLsb' 24 3 = 1#3 ∧ s.ras.mbase ≠ 0 ∧ s.ras.mbase.toNat / 8192 ≠ (s.ras.rbase[1]).toNat / 8192
    ∧ s.ras.rbase[1] ≠ 0 ∧ (s.partn 1).st ≠ 3 ∧ s.ras.rbase[0] = 0 ∧ ((s.setPart 1 { s.partn 1 with st := 3 }).partn 1).st = 3 ∧ base.ras.mbase = 0 := by
  unfold Sound NoUpset Unheld; decide +kernel

/-- LifetimeSteps: a sample and a flush due and not yet, a count that fits, copies newer and valid each way. -/
theorem witness_lifetime :
    let copies (n m : Nat) (v w : Bool) : Lifetime := { base.life with flash0 := (n, v, []), flash1 := (m, w, []) }
    let later : State := { base with time := 60000000000 }
    base.time < base.life.sampleAt ∧ later.life.sampleAt ≤ later.time ∧ base.time < base.life.flushAt ∧ later.life.flushAt ≤ later.time
    ∧ (8 : Nat) ≠ 0 ∧ tget 0 base.life.live 8 < 2 ^ 64 ∧ (copies 2 1 true true).flash1.1 < (copies 2 1 true true).flash0.1 ∧ (copies 1 2 true false).flash1.2.1 = false
    ∧ (copies 1 2 true false).flash0.2.1 = true ∧ (copies 1 2 true true).flash0.1 ≤ (copies 1 2 true true).flash1.1 ∧ (copies 2 1 false true).flash1.2.1 = true
    ∧ (copies 2 1 false true).flash0.2.1 = false := by
  decide +kernel

/-- `base` with partition 1 as `f` makes it. -/
def withPart (f : Part → Part) : State := base.setPart 1 (f (base.partn 1))

/-- A configuration that partition 1 may be enabled with. -/
def fit (q : Part) : Part :=
  { q with bgrp := 2, hbmw := 1, fabw := 1, vcnt := 64, cabase := 0x1000, casize := 0x1000, cmdbase := 0x2000, bentry := 0x3000, btrap := 0x4000, g2base := 1, seq := 1 }

/-- PartitionSteps: partition 1 active, suspended, off and in its reset; a mapped command word; a saved bureau hart; timers due and not; good and bad settings. -/
theorem witness_partitions :
    let active := withPart (fun q => { q with st := 1, cmdbase := 0x6000 })
    let saved := withPart (fun q => { q with st := 2, bgrp := 2, bureauSaved := some Hart.init })
    let off := withPart fit
    let reset := withPart (fun q => { fit q with st := 3 })
    (active.partn 1).st = 1 ∧ agentMap active { part := 1, ptbase := 0, asid := 0, prv := 1 } .store ((active.partn 1).cmdbase + 0x10) = .ok (plainIn 1 0x6010)
    ∧ Sound active ∧ NoUpset active ∧ LinkUp active 0x6010 8 ∧ Unheld active 0x6010 8 ∧ ¬ ((off.partn 1).st = 1 ∨ (off.partn 1).st = 2) ∧ (active.partn 1).st ≠ 2 ∧ (saved.partn 1).st = 2 ∧ (saved.partn 1).bureauSaved = some Hart.init
    ∧ (saved.partn 1).bureauTiles = [] ∧ (saved.partn 1).bureauCanopies = [] ∧ saved.findHart (bureauPlace saved 1) = none
    ∧ (off.partn 1).st = 0 ∧ configError off 1 = 0 ∧ off.findHart (bureauPlace off 1) = none ∧ (base.partn 1).st = 0 ∧ configError base 1 = 1
    ∧ (off.partn 1).seq.getLsbD 0 = true ∧ (off.partn 1).seq.getLsbD 1 = false ∧ (off.partn 1).hasBench 6 = true ∧ (reset.partn 1).st = 3 ∧ (reset.partn 1).en = false
    ∧ ((withPart (fun q => { fit q with st := 3, en := true })).partn 1).en = true ∧ active.harts.Pairwise (fun g h => g.id ≠ h.id) ∧ base.harts ≠ []
    ∧ ((off.setCtx 1 { Ctx.init with held := true, part := 1 }).ctx 1).held = true ∧ ((off.setCtx 1 { Ctx.init with held := true, part := 1 }).ctx 1).part = 1 := by
  repeat' first
    | decide +kernel
    | (dsimp only [Calm, Unheld, Sound, NoUpset]; decide +kernel)
    | refine And.intro ?_ ?_

/-- HostSteps: the aperture of partition 1 mapped, past the address space and in its reset; every register of the statement has a value that meets its clause. -/
theorem witness_host :
    let s := withPart (fun q => { q with st := 1, apbase := 0 })
    let sp : Space := { part := 1, ptbase := 0, asid := 0, prv := 1 }
    let out := withPart (fun q => { q with st := 1, apbase := 0x9000000000 })
    (s.partn 1).st ≠ 3 ∧ ((withPart (fun q => { q with st := 3 })).partn 1).st = 3 ∧ (∀ pa, linkDown s pa = false)
    ∧ (∃ l, agentBytes s sp ((s.partn 1).apbase + 0x6000) 16 = .ok l) ∧ (∃ f x, agentBytes out sp ((out.partn 1).apbase + 0) 16 = .error (f, x))
    ∧ Reaches s sp .store ((s.partn 1).apbase + 0x6000) 16 (plainIn 1 0x6000) ∧ Sound s ∧ NoUpset s ∧ Unheld s 0x6000 16 ∧ (∃ f, agentMap out sp .store ((out.partn 1).apbase + 0) = .error f)
    ∧ isDevice 0x6000 = false ∧ 0xF00000000004 % 8 ≠ 0 ∧ 255 < 256 ∧ (0x1F#64).getLsbD 4 = true ∧ (0xF#64).getLsbD 4 = false ∧ (0x10#64).getLsbD 0 = false
    ∧ receiveCount base 1 256 < 16 ∧ (4#64).getLsbD 2 = true ∧ (base.partn 1).st = 0 ∧ (8#64).getLsbD 3 = true ∧ (1#64).getLsbD 3 = false ∧ (s.partn 1).st ≠ 0
    ∧ (1#64).getLsbD 0 = true := by
  refine ⟨by decide +kernel, by decide +kernel, links_up _ rfl, ⟨_, rfl⟩, ⟨_, _, rfl⟩, by unfold Reaches LinkUp; decide +kernel, by unfold Sound; decide +kernel,
    by unfold NoUpset; decide +kernel, by unfold Unheld; decide +kernel, ⟨_, rfl⟩, ?_⟩
  decide +kernel

/-- A start with no failed step, and one that fails at step `n`. -/
def report (n : Option Nat) : StartReport :=
  { failedStep := n, torusUp := 0x3F, cxlUp := 0xF, coords := (0, 0, 0), dims := (1, 1, 1), refMode := false, monitorEntry := 0x80000000, bootRom := [1], fuses := [2] }

/-- An image whose digest is its body's. -/
def firmware (magic : BitVec 32) (signature : List Byte) : FirmwareImage :=
  { magic := magic, version := 1, digest := Config.shake256 [7], body := [7], signature := signature }

/-- StartSteps: no hart resident; no image, one that is refused, one the boot ROM accepts (for whatever key and signature Falcon accepts); the module off, starting
and started; candidates at their first and second failure. -/
theorem witness_start (key signature : List Byte) (hl : signature.length ≤ 1462)
    (hv : Config.falconVerifies key (Config.imageHeader 0x4B5A384D 1 1 (Config.shake256 [7])) signature = true) :
    let s (b : Boot) : State := { State.reset with boot := b }
    let b : Boot := { Boot.init with keyDigest := key }
    let good := firmware 0x4B5A384D signature
    let bad := firmware 0 signature
    ((s b).hart.run = .absent ∧ (s b).others = [] ∧ (s b).farms = [] ∧ ∀ p : BitVec 3, ((s b).partn p).st = 0 ∧ ((s b).partn p).en = false)
    ∧ b.powered = true ∧ b.failf = false ∧ b.primary = none ∧ b.candidate = none ∧ b.starting = false
    ∧ ((s { b with starting := true }).time - (s { b with starting := true }).boot.startedAt).toNat < 30000000000
    ∧ 30000000000 ≤ (({ s { b with starting := true } with time := 30000000000 } : State).time - b.startedAt).toNat
    ∧ (good.magic = 0x4B5A384D ∧ good.digest = Config.shake256 good.body ∧ good.signature.length ≤ 1462
      ∧ Config.falconVerifies b.keyDigest (Config.imageHeader good.magic good.version good.body.length good.digest) good.signature = true ∧ b.minVersion ≤ good.version) ∧ bad.magic ≠ 0x4B5A384D
    ∧ ({ b with primary := some good } : Boot).primary = some good ∧ ({ b with powered := false } : Boot).powered = false
    ∧ ({ b with starting := true, candidate := some good, candidateFails := 1 } : Boot).candidate.isSome = true ∧ (report none).failedStep = none
    ∧ (report (some 6)).failedStep = some 6 := by
  have hm : (0 : BitVec 32) ≤ 1 ∧ (0 : BitVec 32) ≠ 0x4B5A384D := by decide
  have ht : ((0 : Word) - 0).toNat < 30000000000 ∧ 30000000000 ≤ ((30000000000 : Word) - 0).toNat := by decide
  have hp : ∀ p : BitVec 3, (State.reset.partn p).st = 0 ∧ (State.reset.partn p).en = false := by decide +kernel
  refine ⟨⟨rfl, rfl, rfl, hp⟩, rfl, rfl, rfl, rfl, rfl, ht.1, ht.2, ⟨rfl, rfl, hl, hv, hm.1⟩, hm.2, rfl, rfl, rfl, rfl, rfl⟩

/-! ### The whole machine -/

/-- `base` with bytes at its PC. -/
def atPc (bs : List Byte) : State := { base with mem := memPutAll [] 0x1000 bs }

/-- An outcome that can be read is a next state. -/
theorem next_of_reads {o : Host.Outcome State Fault Refusal} (h : (reads o (fun _ => ())).isSome = true) : ∃ t, o = .next t := by
  cases o with
  | next t => exact ⟨t, rfl⟩
  | fault f => simp [reads] at h
  | refused r => simp [reads] at h

/-- StepRunsDecoded: a turn given by the agenda and one by rotation, at either half of a tick; bytes that decode, an instruction kept from an earlier turn, a PC that maps
nowhere, bits that no table assigns. -/
theorem witness_steps :
    let asked : State := { base with agenda := [.hart 0] }
    let kept : State := { base with hart := { base.hart with fetched := some (.cLi 5 0) } }
    let run := giveTurn 0 (atPc [0x81, 0x22])
    let nowhere : State := { base with hart := { base.hart with pc := 0x9000000000 } }
    let lost := giveTurn 0 nowhere
    Turn asked (giveTurn 0 base) 0 ∧ Turn base (giveTurn 0 base) 0 ∧ Turn { base with tick := 1 } (giveTurn 0 { base with tick := 1 }) 0
    ∧ Turn kept (giveTurn 0 kept) 0 ∧ (giveTurn 0 kept).hart.fetched = some (.cLi 5 0) ∧ Turn (atPc [0x81, 0x22]) run 0 ∧ Turn nowhere lost 0
    ∧ (base.harts.map (fun g => g.id)).Nodup ∧ Calm base ∧ NoUpset run ∧ run.poison = [] ∧ (∀ pa, linkDown run pa = false)
    ∧ run.hart.fetched = none ∧ decode [0x81, 0x22] = .ok (.cLi 5 0, []) ∧ Fetches run [0x81, 0x22] ∧ lost.hart.fetched = none ∧ unsettled lost = false
    ∧ (∃ f, locate lost lost.hart.space (some lost.hart.id) .fetch false lost.hart.pc = .error f ∧ f.ipa = none)
    ∧ (giveTurn 0 base).hart.fetched = none ∧ unsettled (giveTurn 0 base) = false ∧ ∃ bs r, fetchBytes (giveTurn 0 base) = .ok bs ∧ decode bs = .error r := by
  have next (s : State) (h : s.boot.powered = true) (i : takesInterrupt (giveTurn 0 s) = false) (a : s.agenda = []) (d : s.tick % 2 = 1 ∨ dueEvents s = [])
      (n : nextHart s = some 0) : Turn s (giveTurn 0 s) 0 := ⟨h, i, .inr ⟨a, d, n, rfl⟩⟩
  refine ⟨⟨rfl, by decide +kernel, .inl ⟨[], rfl, by decide +kernel, rfl⟩⟩, next _ rfl (by decide +kernel) rfl (.inr (by decide +kernel)) (by decide +kernel),
    next _ rfl (by decide +kernel) rfl (.inl rfl) (by decide +kernel), next _ rfl (by decide +kernel) rfl (.inr (by decide +kernel)) (by decide +kernel), by decide +kernel,
    next _ rfl (by decide +kernel) rfl (.inr (by decide +kernel)) (by decide +kernel), next _ rfl (by decide +kernel) rfl (.inr (by decide +kernel)) (by decide +kernel),
    by decide +kernel, by unfold Calm; decide +kernel, by unfold NoUpset; decide +kernel, by decide +kernel, links_up _ rfl, by decide +kernel, by decide +kernel, ?_,
    by decide +kernel, by decide +kernel, ⟨_, rfl, rfl⟩, by decide +kernel, by decide +kernel, ⟨_, _, rfl, rfl⟩⟩
  intro k hk
  have : k = 0 := by simp at hk; omega
  subst this
  exact ⟨plainAt 0x1000, by decide +kernel⟩

/-- DecodeEncodeAgree, MemoryStaysCanonical and PowerKeepsRunning: an encoded instruction, a step from a state in canonical form, a module without power. -/
theorem witness_machine :
    (∃ c, encode (.cLi 5 0) = some c ∧ decode (c.bytes ++ [1, 2]) = .ok (.cLi 5 0, [1, 2])) ∧ wellFormed (.cLi 5 0) = true
    ∧ Sound base ∧ (∃ t, step base = .next t) ∧ (∃ t, step State.reset = .next t)
    ∧ ({ State.reset with boot := { Boot.init with powered := false } } : State).boot.powered = false
    ∧ ∀ r t, State.reset.agenda ≠ .event (.coldStart r) :: t := by
  refine ⟨⟨_, rfl, rfl⟩, rfl, by unfold Sound; decide +kernel, next_of_reads (by decide +kernel), next_of_reads (by decide +kernel), rfl, ?_⟩
  intro r t h
  exact absurd h (by show ([] : List _) ≠ _; simp)

end Sys2Proof.Tests
end

namespace Sys2Proof.Machine

open Sys2Proof.Claim

/-! ## Instructions that move nothing (R87, R204): NOP, C.NOP and the hints only complete -/

@[simp] theorem exec_nop (s : State) : exec .nop s = .next (finish 4 s) := rfl

@[simp] theorem exec_cNop (s : State) : exec .cNop s = .next (finish 2 s) := rfl

/-- R87: the fields of a hint word play no part in what it does. -/
@[simp] theorem exec_hint (h : BitVec 4) (d a : Reg) (im : BitVec 7) (s : State) : exec (.hint h d a im) s = .next (finish 4 s) := rfl

/-- Settles O26: each of the three only completes, and completion in a hart that owes no trap moves PC and counts in INSTRET (`finish_steady`). -/
theorem nopsAndHints : Obligations.NopsAndHints := by
  intro s hs
  refine ⟨?nop, ?cNop, fun h d a im => ?hint⟩
  case nop => rw [exec_nop, finish_steady hs]
  case cNop => rw [exec_cNop, finish_steady hs]
  case hint => rw [exec_hint, finish_steady hs]

end Sys2Proof.Machine

namespace Sys2Proof.Machine

open Sys2Proof.Claim

/-! ## Words as the integers and naturals of R41 and R98 -/

/-- A wrapped integer makes the same word as the integer. -/
theorem ofNat_wrapInt (w : Nat) (v : Int) : BitVec.ofNat w (wrapInt w v) = BitVec.ofInt w v := by
  apply BitVec.eq_of_toNat_eq
  rw [BitVec.toNat_ofNat, BitVec.toNat_ofInt, wrapInt, Nat.mod_eq_of_lt]
  have hw := Nat.two_pow_pos w
  have := Int.emod_lt_of_pos v (b := ((2 ^ w : Nat) : Int)) (by omega)
  omega

/-- The signed value of the low bits of a word is that of the word cut to them. -/
theorem toSigned_toNat {v w : Nat} (hw : 0 < w) (A : BitVec v) : toSigned w A.toNat = (A.setWidth w).toInt := by
  obtain ⟨k, rfl⟩ : ∃ k, w = k + 1 := ⟨w - 1, by omega⟩
  rw [toSigned, BitVec.toInt_eq_toNat_cond, BitVec.toNat_setWidth, Nat.add_sub_cancel, Nat.pow_succ]
  by_cases h : A.toNat % (2 ^ k * 2) < 2 ^ k
  · rw [if_pos h, if_pos (by omega)]
  · rw [if_neg h, if_neg (by omega)]
    push_cast
    ring

theorem toSigned_word (A : Word) : toSigned 64 A.toNat = A.toInt := by rw [toSigned_toNat (by decide), BitVec.setWidth_eq]

/-! ### Sums, products and their high halves -/

theorem add_eq_ofInt (A B : Word) : A + B = BitVec.ofInt 64 (A.toInt + B.toInt) := by rw [BitVec.ofInt_add, BitVec.ofInt_toInt, BitVec.ofInt_toInt]

theorem mul_eq_ofInt (A B : Word) : A * B = BitVec.ofInt 64 (A.toInt * B.toInt) := by rw [BitVec.ofInt_mul, BitVec.ofInt_toInt, BitVec.ofInt_toInt]

theorem sub_eq_ofInt (A B : Word) : A - B = BitVec.ofInt 64 (A.toInt - B.toInt) := by
  rw [BitVec.sub_eq_add_neg, Int.sub_eq_add_neg, BitVec.ofInt_add, BitVec.ofInt_neg, BitVec.ofInt_toInt, BitVec.ofInt_toInt]

/-- The high half of a double word that holds an integer. -/
theorem extractLsb'_high_ofInt (p : Int) : (BitVec.ofInt 128 p).extractLsb' 64 64 = BitVec.ofInt 64 (p / 2 ^ 64) := by
  apply BitVec.eq_of_toNat_eq
  rw [BitVec.extractLsb'_toNat, Nat.shiftRight_eq_div_pow, BitVec.toNat_ofInt, BitVec.toNat_ofInt]
  omega

theorem mulh_eq_ofInt (A B : Word) :
    (A.signExtend 128 * B.signExtend 128).extractLsb' 64 64 = BitVec.ofInt 64 (A.toInt * B.toInt / 2 ^ 64) := by
  rw [← extractLsb'_high_ofInt, BitVec.ofInt_mul]
  rfl

theorem mulhu_eq_ofNat (A B : Word) :
    (A.zeroExtend 128 * B.zeroExtend 128).extractLsb' 64 64 = BitVec.ofNat 64 (A.toNat * B.toNat / 2 ^ 64) := by
  have hp : A.toNat * B.toNat < 2 ^ 128 := Nat.mul_lt_mul'' (c := 2 ^ 64) (d := 2 ^ 64) A.isLt B.isLt
  have hA : A.toNat % 2 ^ 128 = A.toNat := Nat.mod_eq_of_lt (by have := A.isLt; omega)
  have hB : B.toNat % 2 ^ 128 = B.toNat := Nat.mod_eq_of_lt (by have := B.isLt; omega)
  apply BitVec.eq_of_toNat_eq
  rw [BitVec.extractLsb'_toNat, BitVec.toNat_mul, BitVec.toNat_setWidth, BitVec.toNat_setWidth, hA, hB, Nat.mod_eq_of_lt hp,
    Nat.shiftRight_eq_div_pow, BitVec.toNat_ofNat]

/-! ### Quotients and remainders (R41) -/

theorem toNat_mod_eq_zero_iff (B : Word) : B.toNat % 2 ^ 64 = 0 ↔ B = 0 := by
  rw [Nat.mod_eq_of_lt B.isLt, BitVec.toNat_eq]; rfl

theorem intQuot_signed_eq_quotS (A B : Word) : BitVec.ofNat 64 (intQuot 64 true A.toNat B.toNat) = quotS A B := by
  unfold intQuot quotS
  by_cases hB : B = 0
  · rw [if_pos ((toNat_mod_eq_zero_iff B).2 hB), if_pos hB]; rfl
  · rw [if_neg (mt (toNat_mod_eq_zero_iff B).1 hB), if_neg hB, if_pos rfl, ofNat_wrapInt, toSigned_word, toSigned_word]

theorem intRem_signed_eq_remS (A B : Word) : BitVec.ofNat 64 (intRem 64 true A.toNat B.toNat) = remS A B := by
  unfold intRem remS
  by_cases hB : B = 0
  · rw [if_pos ((toNat_mod_eq_zero_iff B).2 hB), if_pos hB, Nat.mod_eq_of_lt A.isLt, BitVec.ofNat_toNat, BitVec.setWidth_eq]
  · rw [if_neg (mt (toNat_mod_eq_zero_iff B).1 hB), if_neg hB, if_pos rfl, ofNat_wrapInt, toSigned_word, toSigned_word]

theorem intQuot_unsigned_eq_quotU (A B : Word) : BitVec.ofNat 64 (intQuot 64 false A.toNat B.toNat) = quotU A B := by
  unfold intQuot quotU
  by_cases hB : B = 0
  · rw [if_pos ((toNat_mod_eq_zero_iff B).2 hB), if_pos hB]; rfl
  · rw [if_neg (mt (toNat_mod_eq_zero_iff B).1 hB), if_neg hB, if_neg Bool.false_ne_true, Nat.mod_eq_of_lt A.isLt, Nat.mod_eq_of_lt B.isLt]

theorem intRem_unsigned_eq_remU (A B : Word) : BitVec.ofNat 64 (intRem 64 false A.toNat B.toNat) = remU A B := by
  unfold intRem remU
  by_cases hB : B = 0
  · rw [if_pos ((toNat_mod_eq_zero_iff B).2 hB), if_pos hB, Nat.mod_eq_of_lt A.isLt, BitVec.ofNat_toNat, BitVec.setWidth_eq]
  · rw [if_neg (mt (toNat_mod_eq_zero_iff B).1 hB), if_neg hB, if_neg Bool.false_ne_true, Nat.mod_eq_of_lt A.isLt, Nat.mod_eq_of_lt B.isLt]

/-! ### Shifts -/

theorem shamt_eq_sh6 (B : Word) : shamt B = sh6 B := by rw [shamt, BitVec.extractLsb'_toNat, Nat.shiftRight_zero, sh6]

theorem shiftLeft_eq_ofNat (A : Word) (n : Nat) : A <<< n = BitVec.ofNat 64 (A.toNat * 2 ^ n) := by
  apply BitVec.eq_of_toNat_eq
  rw [BitVec.toNat_shiftLeft, Nat.shiftLeft_eq, BitVec.toNat_ofNat]

theorem shiftRight_eq_ofNat (A : Word) (n : Nat) : A >>> n = BitVec.ofNat 64 (A.toNat / 2 ^ n) := by
  apply BitVec.eq_of_toNat_eq
  rw [BitVec.toNat_ushiftRight, Nat.shiftRight_eq_div_pow, BitVec.toNat_ofNat,
    Nat.mod_eq_of_lt (Nat.lt_of_le_of_lt (Nat.div_le_self _ _) A.isLt)]

theorem sshiftRight_eq_ofInt (A : Word) (n : Nat) : A.sshiftRight n = BitVec.ofInt 64 (A.toInt / 2 ^ n) := by
  rw [← BitVec.ofInt_toInt (x := A.sshiftRight n), BitVec.toInt_sshiftRight, Int.shiftRight_eq_div_pow]
  push_cast
  rfl

theorem sll_shamt (A B : Word) : A <<< shamt B = BitVec.ofNat 64 (A.toNat * 2 ^ sh6 B) := by rw [shamt_eq_sh6, shiftLeft_eq_ofNat]
theorem srl_shamt (A B : Word) : A >>> shamt B = BitVec.ofNat 64 (A.toNat / 2 ^ sh6 B) := by rw [shamt_eq_sh6, shiftRight_eq_ofNat]
theorem sra_shamt (A B : Word) : A.sshiftRight (shamt B) = BitVec.ofInt 64 (A.toInt / 2 ^ sh6 B) := by rw [shamt_eq_sh6, sshiftRight_eq_ofInt]

theorem rotl_shamt (A B : Word) : A <<< shamt B ||| A >>> (64 - shamt B) =
    BitVec.ofNat 64 (A.toNat * 2 ^ sh6 B) ||| BitVec.ofNat 64 (A.toNat / 2 ^ (64 - sh6 B)) := by
  rw [shamt_eq_sh6, shiftLeft_eq_ofNat, shiftRight_eq_ofNat]

/-! ### Comparisons, the smaller and the larger -/

theorem truth_slt (A B : Word) : truth (A.slt B) = if A.toInt < B.toInt then 1 else 0 := by simp [truth, BitVec.slt]
theorem truth_ult (A B : Word) : truth (A.ult B) = if A.toNat < B.toNat then 1 else 0 := by simp [truth, BitVec.ult]

theorem ite_slt_eq_min (A B : Word) : (if A.slt B then A else B) = BitVec.ofInt 64 (min A.toInt B.toInt) := by
  by_cases h : A.toInt < B.toInt
  · rw [if_pos (BitVec.slt_iff_toInt_lt.2 h), min_eq_left h.le, BitVec.ofInt_toInt]
  · rw [if_neg (mt BitVec.slt_iff_toInt_lt.1 h), min_eq_right (not_lt.1 h), BitVec.ofInt_toInt]

theorem ite_slt_eq_max (A B : Word) : (if A.slt B then B else A) = BitVec.ofInt 64 (max A.toInt B.toInt) := by
  by_cases h : A.toInt < B.toInt
  · rw [if_pos (BitVec.slt_iff_toInt_lt.2 h), max_eq_right h.le, BitVec.ofInt_toInt]
  · rw [if_neg (mt BitVec.slt_iff_toInt_lt.1 h), max_eq_left (not_lt.1 h), BitVec.ofInt_toInt]

theorem ite_ult_eq_min (A B : Word) : (if A.ult B then A else B) = BitVec.ofNat 64 (min A.toNat B.toNat) := by
  by_cases h : A.toNat < B.toNat
  · rw [if_pos (BitVec.ult_iff_lt.2 h), min_eq_left h.le, BitVec.ofNat_toNat, BitVec.setWidth_eq]
  · rw [if_neg (mt BitVec.ult_iff_lt.1 h), min_eq_right (not_lt.1 h), BitVec.ofNat_toNat, BitVec.setWidth_eq]

theorem ite_ult_eq_max (A B : Word) : (if A.ult B then B else A) = BitVec.ofNat 64 (max A.toNat B.toNat) := by
  by_cases h : A.toNat < B.toNat
  · rw [if_pos (BitVec.ult_iff_lt.2 h), max_eq_right h.le, BitVec.ofNat_toNat, BitVec.setWidth_eq]
  · rw [if_neg (mt BitVec.ult_iff_lt.1 h), max_eq_left (not_lt.1 h), BitVec.ofNat_toNat, BitVec.setWidth_eq]

/-! ### Counts of bits -/

/-- Numbers counted from 0 while a test holds: as many as the first that fails it. -/
theorem length_takeWhile_range {p : Nat → Bool} {n k : Nat} (hk : k < n) (below : ∀ j < k, p j = true) (here : p k = false) :
    ((List.range n).takeWhile p).length = k := by
  have first : List.findIdx (fun i => !p i) (List.range n) = k :=
    (List.findIdx_eq (by simpa using hk)).2 (by simpa [here] using below)
  rw [List.takeWhile_eq_take_findIdx_not, List.length_take, first, List.length_range, min_eq_left hk.le]

/-- A test that holds of every number below `n` counts them all. -/
theorem length_takeWhile_range_all {p : Nat → Bool} {n : Nat} (all : ∀ j < n, p j = true) : ((List.range n).takeWhile p).length = n := by
  rw [List.takeWhile_eq_self_iff.2 (by simpa using all), List.length_range]

theorem clz64_eq_takeWhile (A : Word) :
    clz64 A = BitVec.ofNat 64 ((List.range 64).takeWhile (fun i => !A.getLsbD (63 - i))).length := by
  unfold clz64
  by_cases hA : A = 0
  · rw [if_pos hA, length_takeWhile_range_all (by simp [hA])]; rfl
  · have hN : A.toNat ≠ 0 := fun h => hA (BitVec.eq_of_toNat_eq h)
    have top : A.toNat.log2 < 64 := (Nat.log2_lt hN).2 A.isLt
    have above : ∀ j < 63 - A.toNat.log2, (!A.getLsbD (63 - j)) = true := fun j hj => by
      have : A.toNat.testBit (63 - j) = false :=
        Nat.testBit_lt_two_pow (Nat.lt_of_lt_of_le Nat.lt_log2_self (Nat.pow_le_pow_right (by decide) (by omega)))
      rw [BitVec.getLsbD, this, Bool.not_false]
    have lead : (!A.getLsbD (63 - (63 - A.toNat.log2))) = false := by
      rw [show 63 - (63 - A.toNat.log2) = A.toNat.log2 by omega, BitVec.getLsbD, Nat.testBit_log2 hN, Bool.not_true]
    rw [if_neg hA, length_takeWhile_range (by omega) above lead]
    bv_omega

theorem ctz64_eq_takeWhile (A : Word) : ctz64 A = BitVec.ofNat 64 ((List.range 64).takeWhile (fun i => !A.getLsbD i)).length := by
  unfold ctz64
  cases found : (List.range 64).find? (fun i => A.getLsbD i) with
  | none => rw [length_takeWhile_range_all (List.find?_range_eq_none.1 found)]; rfl
  | some k =>
    obtain ⟨bit, mem, below⟩ := List.find?_range_eq_some.1 found
    rw [length_takeWhile_range (List.mem_range.1 mem) below (by rw [bit, Bool.not_true])]; rfl

/-- The one bits of a number among its low `n` are the places below `n` where it has one. -/
theorem onesIn_eq_length_filter (n x : Nat) : onesIn n x = ((List.range n).filter x.testBit).length := by
  induction n generalizing x with
  | zero => rfl
  | succ n ih =>
    have tail : ((List.map Nat.succ (List.range n)).filter x.testBit).length = onesIn n (x / 2) := by
      rw [ih, List.filter_map, List.length_map]
      congr 2
      exact funext fun i => Nat.testBit_succ x i
    rw [onesIn, List.range_succ_eq_map, List.filter_cons, Nat.testBit_zero]
    rcases Nat.mod_two_eq_zero_or_one x with h | h
    · simp [h, tail]
    · simp [h, tail, Nat.add_comm]

theorem popc_eq_filter (A : Word) : BitVec.ofNat 64 (onesIn 64 A.toNat) = BitVec.ofNat 64 ((List.range 64).filter A.getLsbD).length := by
  rw [onesIn_eq_length_filter]; rfl

/-! ### Extensions and the order of bytes -/

theorem sextBits_eq_signExtend {n : Nat} (hn : 0 < n) (A : Word) : sextBits n A = (A.setWidth n).signExtend 64 := by
  rw [sextBits, toSigned_toNat hn]; rfl

theorem zextBits_eq_setWidth (n : Nat) (A : Word) : zextBits n A = (A.setWidth n).setWidth 64 := by
  rw [zextBits, ← BitVec.toNat_setWidth, BitVec.ofNat_toNat]

/-- The number of some bytes, the first of them its lowest, as a word. -/
theorem ofNat_ofBytes_cons (w : Nat) (b : Byte) (l : List Byte) : BitVec.ofNat (w + 8) (ofBytes (b :: l)) = BitVec.ofNat w (ofBytes l) ++ b := by
  apply BitVec.eq_of_toNat_eq
  rw [BitVec.toNat_append, ← Nat.shiftLeft_add_eq_or_of_lt b.isLt, Nat.shiftLeft_eq, BitVec.toNat_ofNat, BitVec.toNat_ofNat, ofBytes,
    Nat.pow_add]
  have hb := b.isLt
  rw [Nat.mul_comm (2 ^ w) (2 ^ 8), Nat.mod_mul, show (b.toNat + 256 * ofBytes l) / 2 ^ 8 = ofBytes l by omega]
  omega

/-- A byte of a word, by its place in the number. -/
theorem ofNat_div_eq_extractLsb' (A : Word) (k : Nat) : BitVec.ofNat 8 (A.toNat / 2 ^ k) = A.extractLsb' k 8 := by
  apply BitVec.eq_of_toNat_eq
  rw [BitVec.toNat_ofNat, BitVec.extractLsb'_toNat, Nat.shiftRight_eq_div_pow]

theorem bytesOf_word (A : Word) : bytesOf 8 A.toNat = [A.extractLsb' 0 8, A.extractLsb' 8 8, A.extractLsb' 16 8, A.extractLsb' 24 8,
    A.extractLsb' 32 8, A.extractLsb' 40 8, A.extractLsb' 48 8, A.extractLsb' 56 8] := by
  simp only [bytesOf, Nat.div_div_eq_div_mul, ← ofNat_div_eq_extractLsb', Nat.reducePow, Nat.reduceMul, Nat.div_one]

theorem byteSwap_eq_append (A : Word) : byteSwap A = A.extractLsb' 0 8 ++ A.extractLsb' 8 8 ++ A.extractLsb' 16 8 ++ A.extractLsb' 24 8
    ++ A.extractLsb' 32 8 ++ A.extractLsb' 40 8 ++ A.extractLsb' 48 8 ++ A.extractLsb' 56 8 := by
  rw [byteSwap, bytesOf_word]
  simp only [List.reverse_cons, List.reverse_nil, List.nil_append, List.cons_append]
  rw [ofNat_ofBytes_cons 56, ofNat_ofBytes_cons 48, ofNat_ofBytes_cons 40, ofNat_ofBytes_cons 32, ofNat_ofBytes_cons 24, ofNat_ofBytes_cons 16,
    ofNat_ofBytes_cons 8, ofNat_ofBytes_cons 0]
  rw [show BitVec.ofNat 0 (ofBytes []) = 0#0 from rfl, BitVec.zero_width_append]; rfl

/-! ## INT-R (R98) -/

/-- An operation on two registers is what it computes of them. -/
theorem aluR_congr {f g : Word → Word → Word} (h : ∀ A B, f A B = g A B) {len : Nat} {d a b : Reg} {s : State} :
    aluR len d a b f s = aluR len d a b g s := by rw [aluR, aluR, h]

/-- An operation on one register is what it computes of it. -/
theorem aluI_congr {f g : Word → Word} (h : ∀ A, f A = g A) {len : Nat} {d a : Reg} {s : State} : aluI len d a f s = aluI len d a g s := by
  rw [aluI, aluI, h]

theorem aluR_steady {s : State} (hs : Steady s) (len : Nat) (d a b : Reg) (f : Word → Word → Word) :
    aluR len d a b f s = .next (wrote len d (f (s.getX a) (s.getX b)) s) := by rw [aluR, writeInt_steady hs]

theorem aluI_steady {s : State} (hs : Steady s) (len : Nat) (d a : Reg) (f : Word → Word) :
    aluI len d a f s = .next (wrote len d (f (s.getX a)) s) := by rw [aluI, writeInt_steady hs]

/-- A well-formed instruction goes on. -/
theorem checked_wellFormed {i : Instr} (h : wellFormed i = true) (s : State) (k : State → State) : checked i s k = k s := if_pos h

/-- SEXT of 8, 16 or 32 bits is an operation on one register. -/
theorem exec_sext {w : BitVec 2} (hw : w ≠ 3) (d a : Reg) (s : State) :
    exec (.sext d a w) s = aluI 4 d a (fun A => (A.setWidth (extBits w)).signExtend 64) s := by
  have hb : 0 < extBits w := by revert w; decide
  have wf : wellFormed (.sext d a w) = true := bne_iff_ne.2 hw
  rw [← aluI_congr (sextBits_eq_signExtend hb)]
  exact congrArg _ (checked_wellFormed wf s _)

/-- ZEXT of 8, 16 or 32 bits is an operation on one register. -/
theorem exec_zext {w : BitVec 2} (hw : w ≠ 3) (d a : Reg) (s : State) :
    exec (.zext d a w) s = aluI 4 d a (fun A => (A.setWidth (extBits w)).setWidth 64) s := by
  have wf : wellFormed (.zext d a w) = true := bne_iff_ne.2 hw
  rw [← aluI_congr (zextBits_eq_setWidth _)]
  exact congrArg _ (checked_wellFormed wf s _)

/-- CSEL reads x[d] before it writes it: its function of x[a] and x[b] is the choice that x[d] makes. -/
theorem exec_csel (d a b : Reg) (s : State) : exec (.csel d a b) s = aluR 4 d a b (fun A B => if s.getX d ≠ 0 then A else B) s := rfl

/-- Each of R98's rows on two registers executes as the operation its table gives. -/
theorem exec_intRRows (d a b : Reg) (s : State) : ∀ p ∈ intRRows, exec (p.1 d a b) s = aluR 4 d a b p.2 s := by
  simp only [intRRows, List.forall_mem_cons]
  refine ⟨?add, ?sub, ?and, ?or, ?xor, ?andn, ?sll, ?srl, ?sra, ?rotl, ?slt, ?sltu, ?min, ?max, ?minu, ?maxu, ?mul, ?mulh, ?mulhu, ?div, ?divu,
    ?rem, ?remu, List.forall_mem_nil _⟩
  case add => exact aluR_congr add_eq_ofInt
  case sub => exact aluR_congr sub_eq_ofInt
  case and | or | xor | andn => rfl
  case sll => exact aluR_congr sll_shamt
  case srl => exact aluR_congr srl_shamt
  case sra => exact aluR_congr sra_shamt
  case rotl => exact aluR_congr rotl_shamt
  case slt => exact aluR_congr truth_slt
  case sltu => exact aluR_congr truth_ult
  case min => exact aluR_congr ite_slt_eq_min
  case max => exact aluR_congr ite_slt_eq_max
  case minu => exact aluR_congr ite_ult_eq_min
  case maxu => exact aluR_congr ite_ult_eq_max
  case mul => exact aluR_congr mul_eq_ofInt
  case mulh => exact aluR_congr mulh_eq_ofInt
  case mulhu => exact aluR_congr mulhu_eq_ofNat
  case div => exact aluR_congr intQuot_signed_eq_quotS
  case divu => exact aluR_congr intQuot_unsigned_eq_quotU
  case rem => exact aluR_congr intRem_signed_eq_remS
  case remu => exact aluR_congr intRem_unsigned_eq_remU

/-- Each of R98's rows on one register executes as the operation its table gives. -/
theorem exec_intR1Rows (d a : Reg) (s : State) : ∀ p ∈ intR1Rows, exec (p.1 d a) s = aluI 4 d a p.2 s := by
  simp only [intR1Rows, List.forall_mem_cons]
  refine ⟨?clz, ?ctz, ?popc, ?sext8, ?sext16, ?sext32, ?zext8, ?zext16, ?zext32, ?bswap, List.forall_mem_nil _⟩
  case clz => exact aluI_congr clz64_eq_takeWhile
  case ctz => exact aluI_congr ctz64_eq_takeWhile
  case popc => exact aluI_congr popc_eq_filter
  case sext8 | sext16 | sext32 => exact exec_sext (by decide) d a s
  case zext8 | zext16 | zext32 => exact exec_zext (by decide) d a s
  case bswap => exact aluI_congr byteSwap_eq_append

/-- Settles O10: every row executes as one operation on registers, the table's, and such an operation writes x[d] and completes (`aluR_steady`,
`aluI_steady`). -/
theorem intRegisterResults : Obligations.IntRegisterResults := by
  intro s d a b hs
  refine ⟨fun p hp => ?twoRegisters, fun p hp => ?oneRegister, ?csel⟩
  case twoRegisters => rw [exec_intRRows d a b s p hp, aluR_steady hs]
  case oneRegister => rw [exec_intR1Rows d a s p hp, aluI_steady hs]
  case csel => rw [exec_csel, aluR_steady hs]

/-! ## Conditional branches (R106) -/

/-- A branch's target is PC and its offset in halfwords; PC holds no bit 0. -/
theorem pcValue_add_signExtend {n : Nat} (s : State) (o : BitVec n) : pcValue (s.hart.pc + o.signExtend 64 * 2) = target s (o.toInt * 2) := by
  rw [pcValue, target, BitVec.ofInt_mul]; rfl

/-- A branch moves PC to its target if it is taken, else past itself, and does nothing else than complete. -/
theorem branch_steady {s : State} (hs : Steady s) (len : Nat) (c : Bool) {n : Nat} (o : BitVec n) :
    branch len c (o.signExtend 64) s = .next (retired (if c then target s (o.toInt * 2) else s.hart.pc + BitVec.ofNat 64 len) 0 s) := by
  cases c with
  | true => rw [branch, if_pos rfl, if_pos rfl, finishTo_steady hs, pcValue_add_signExtend]
  | false => rw [branch, if_neg Bool.false_ne_true, if_neg Bool.false_ne_true, finish_steady hs, passed]

/-- An instruction that branches on a condition goes as any condition equal to it says. -/
theorem exec_of_branch {s : State} (hs : Steady s) {i : Instr} {o : BitVec 13} {c c' : Bool}
    (he : exec i s = branch 4 c (o.signExtend 64) s) (hc : c = c') :
    exec i s = .next (retired (if c' then target s (o.toInt * 2) else s.hart.pc + 4) 0 s) := by
  rw [he, branch_steady hs, hc]; rfl

theorem not_slt_eq_decide_ge (A B : Word) : (!A.slt B) = decide (A.toInt ≥ B.toInt) := by simp [BitVec.slt, ← decide_not]
theorem not_ult_eq_decide_ge (A B : Word) : (!A.ult B) = decide (A.toNat ≥ B.toNat) := by simp [BitVec.ult, ← decide_not]

/-- Settles O13: each of the six is a branch (`branch_steady`) on the condition its row gives. -/
theorem conditionalBranches : Obligations.ConditionalBranches := by
  intro s a b o hs
  simp only [branchRows, List.forall_mem_cons]
  refine ⟨?beq, ?bne, ?blt, ?bge, ?bltu, ?bgeu, List.forall_mem_nil _⟩
  case beq | bne | blt | bltu => exact exec_of_branch hs rfl rfl
  case bge => exact exec_of_branch hs rfl (not_slt_eq_decide_ge _ _)
  case bgeu => exact exec_of_branch hs rfl (not_ult_eq_decide_ge _ _)

/-! ## FCLASS (R113) -/

/-- The value of a code whose format is laid out as IEEE 754 has it, by its exponent and its mantissa (R42, R43). -/
def ieeeVal (q : FpFields) (x : Nat) : Val :=
  let E := x / 2 ^ q.mb % 2 ^ q.eb
  let M := x % 2 ^ q.mb
  let neg := x.testBit (q.mb + q.eb)
  if E = 2 ^ q.eb - 1 then (if M = 0 then .inf neg else .nan (!M.testBit (q.mb - 1)))
  else if E = 0 then .fin neg M (1 - (q.bias : Int) - q.mb) false
  else .fin neg (2 ^ q.mb + M) ((E : Int) - q.bias - q.mb) false

/-- R113's class of a code, as the number of its bit. -/
def ieeeClass (q : FpFields) (x : Nat) : Nat :=
  let E := x / 2 ^ q.mb % 2 ^ q.eb
  let M := x % 2 ^ q.mb
  let neg := x.testBit (q.mb + q.eb)
  if E = 2 ^ q.eb - 1 then (if M = 0 then (if neg then 0 else 7) else if M.testBit (q.mb - 1) then 9 else 8)
  else if E = 0 then (if M = 0 then (if neg then 3 else 4) else if neg then 2 else 5)
  else if neg then 1 else 6

theorem fmt_cases {fmt : BitVec 2} (h : fmt ≠ 3) : fmt = 0 ∨ fmt = 1 ∨ fmt = 2 := by revert fmt; decide

theorem fpFormat_eq_scalarFmt (fmt : BitVec 2) : fpFormat fmt = scalarFmt fmt := by revert fmt; decide

/-- FP32, FP64 and BF16 are laid out as IEEE 754 has it. -/
theorem decodeVal_scalarFmt {fmt : BitVec 2} (h : fmt ≠ 3) (x : Nat) : decodeVal (scalarFmt fmt) x = ieeeVal (fpFields (scalarFmt fmt)) x := by
  obtain rfl | rfl | rfl := fmt_cases h <;> simp [decodeVal, ieeeVal, scalarFmt, fpFields, elemFmt, bitsAt_eq]

/-- In a format laid out so the class of a code's value is the one its fields give. -/
theorem fpClass_eq_ieeeClass {f x : Nat} (h : decodeVal f x = ieeeVal (fpFields f) x) : fpClass f x = ieeeClass (fpFields f) x := by
  simp only [fpClass, h, ieeeVal, ieeeClass, bitsAt_eq]
  generalize fpFields f = q
  generalize x / 2 ^ q.mb % 2 ^ q.eb = E, x % 2 ^ q.mb = M, x.testBit (q.mb + q.eb) = neg
  by_cases top : E = 2 ^ q.eb - 1
  · rw [if_pos top, if_pos top]
    by_cases inf : M = 0
    · rw [if_pos inf, if_pos inf]
    · rw [if_neg inf, if_neg inf]
      cases M.testBit (q.mb - 1) <;> rfl
  · rw [if_neg top, if_neg top]
    by_cases low : E = 0
    · simp [low]
    · simp [low]

/-- A floating-point result whose flags trap nothing is written, zero-extended, and its instruction completes. -/
theorem writeFp_steady {s : State} (hs : Steady s) (d : Reg) {r : Nat × BitVec 7} (hf : Unenabled r.2 s) : writeFp d r s = fpWrote d r s := by
  have hf' : r.2 &&& (s.setX d (BitVec.ofNat 64 r.1)).hart.enables = 0 := by simpa [Unenabled, Hart.enables] using hf
  rw [writeFp, finishFlags_steady (steady_setX hs d _) hf']
  simp [fpWrote]

/-- FCLASS of a format writes the bit of its operand's class and raises no flag. -/
theorem exec_fclass {s : State} (hs : Steady s) {fmt : BitVec 2} (h : fmt ≠ 3) (d a : Reg) :
    exec (.fclass d a fmt) s = .next (wrote 4 d
      (BitVec.ofNat 64 (2 ^ ieeeClass (fpFields (scalarFmt fmt)) ((s.getX a).toNat % 2 ^ elemWidth (scalarFmt fmt)))) s) := by
  have wf : wellFormed (.fclass d a fmt) = true := bne_iff_ne.2 h
  have goes : exec (.fclass d a fmt) s =
      .next (writeFp d (2 ^ fpClass (fpFormat fmt) ((s.getX a).toNat % 2 ^ elemWidth (fpFormat fmt)), 0) s) :=
    congrArg _ (checked_wellFormed wf s _)
  have quiet : Unenabled 0 s := BitVec.zero_and
  rw [goes, writeFp_steady hs d quiet, fpFormat_eq_scalarFmt, fpClass_eq_ieeeClass (decodeVal_scalarFmt h _)]
  rfl

/-- Settles O21: the class is that of an IEEE layout's fields (`exec_fclass`), and the three formats have the fields the statement writes out. -/
theorem scalarFpClass : Obligations.ScalarFpClass := by
  intro s d a fmt hs h
  rw [exec_fclass hs h]
  obtain rfl | rfl | rfl := fmt_cases h
  case inl | inr.inl | inr.inr => rfl

end Sys2Proof.Machine

namespace Sys2Proof.Machine

open Sys2Proof.Claim

/-! ## Trap return (R34, R40, R235) -/

/-- A bit set to another word's bit of the same place is that word's bit there, and nothing else changes. -/
theorem setBit_getLsbD (w v : Word) (n : Nat) :
    setBit w n (v.getLsbD n) = (w &&& ~~~(1#64 <<< n)) ||| (v &&& (1#64 <<< n)) := by
  rw [← BitVec.twoPow_eq, BitVec.and_twoPow, setBit, ← BitVec.twoPow_eq]
  cases v.getLsbD n with
  | true =>
    rw [if_pos rfl, if_pos rfl]
    ext i hi
    cases hb : (BitVec.twoPow 64 n)[i] <;> simp [hb]
  | false => rw [if_neg Bool.false_ne_true, if_neg Bool.false_ne_true, BitVec.or_zero]

/-- A trap that names a VRI enters as it would without one, and VRI then holds it. -/
theorem enterTrap_vri (r : TrapReq) (e : Nat) (pc : Word) (s : State) :
    enterTrap { r with vri := some e } pc s = (enterTrap r pc s).withHart { (enterTrap r pc s).hart with vri := BitVec.ofNat 64 e } := rfl

/-- A hart with none of the three owed bits set owes nothing. -/
theorem nextOwed_eq_none {h : Hart} (hz : h.trapowe.extractLsb' 7 3 = 0) : nextOwed h = none := by
  have clear (i : Nat) (hi : i < 3) : ¬ h.trapowe.getLsbD (7 + i) = true := by
    simpa [BitVec.getLsbD_extractLsb', hi] using congrArg (·.getLsbD i) hz
  rw [nextOwed, if_neg (clear 0 (by decide)), if_neg (clear 1 (by decide)), if_neg (clear 2 (by decide))]

/-- 0x08 is the first of the owed traps, and its flags go with its bit. -/
theorem nextOwed_of_flags {h : Hart} (ho : h.trapowe.getLsbD 7 = true) :
    nextOwed h = some ({ cause := 0x08, val := (h.trapowe.extractLsb' 0 7).setWidth 64 }, h.trapowe &&& 0xF00) := if_pos ho

/-- R34: the state TRET returns to. STATUS but for HALTED is the saved one, PC is TRAPPC, and INSTRET counts TRET. -/
def returned (s : State) : State := s.withHart { s.hart with
  status := (s.hart.trapstatus &&& ~~~0x400#64) ||| (s.hart.status &&& 0x400#64), pc := s.hart.trappc &&& ~~~1#64, instret := s.hart.instret + 1 }

/-- A return from a trap ends there when no trap is owed. -/
theorem returnFromTrap_of_none {s : State} (ho : nextOwed s.hart = none) : returnFromTrap s = returned s := by
  rw [returnFromTrap, ho, setBit_getLsbD]
  rfl

/-- A return from a trap takes an owed trap in the state it returns to, with TRAPPC as it stands. -/
theorem returnFromTrap_of_some {s : State} {o : Owed} {rest : BitVec 12} (ho : nextOwed s.hart = some (o, rest)) :
    returnFromTrap s = enterTrap { trapOf o.cause o.val with vri := owedVri o.cause } s.hart.trappc
      ((returned s).withHart { (returned s).hart with trapowe := rest }) := by
  rw [returnFromTrap, ho, setBit_getLsbD]
  rfl

/-- Above user level TRET asks only whether the saved level is one it may return to. -/
theorem exec_tret {s : State} (hl : 1 ≤ levelOf s) :
    exec .tret s = .next (if (s.hart.trapstatus.extractLsb' 0 2).toNat = 2 ∨ levelOf s < (s.hart.trapstatus.extractLsb' 0 2).toNat
      then privileged .tret s else returnFromTrap s) :=
  congrArg _ ((if_neg (Nat.not_lt.2 hl)).trans (checked_wellFormed rfl s _))

/-- Settles O24: TRET is refused or returns (`exec_tret`), and a return takes what TRAPOWE owes, in its order (`returnFromTrap_of_none`,
`returnFromTrap_of_some`). -/
theorem trapReturn : Obligations.TrapReturn := by
  intro s hl h p back
  have returns (h2 : p ≠ 2) (hp : p ≤ levelOf s) : exec .tret s = .next (returnFromTrap s) := by
    rw [exec_tret hl, if_neg (not_or.2 ⟨h2, Nat.not_lt.2 hp⟩)]
  refine ⟨fun bad => ?refused, fun h2 hp clear => ?nothingOwed, fun h2 hp flags => ?flagsOwed⟩
  case refused => rw [exec_tret hl, if_pos bad, privileged_plain]; rfl
  case nothingOwed => rw [returns h2 hp, returnFromTrap_of_none (nextOwed_eq_none clear)]; rfl
  case flagsOwed =>
    rw [returns h2 hp, returnFromTrap_of_some (nextOwed_of_flags flags), show owedVri 0x08 = some 0 from rfl, enterTrap_vri,
      enterTrap_plain (c := 0x08) (by decide)]
    rfl

end Sys2Proof.Machine

namespace Sys2Proof
/-! ## Decoding and encoding (R73 to R86): a code is read back from its bytes, and what the decoder reads is the code it came from -/

theorem accept_eq_ok {z : Bool} {i j : Instr} : accept z i = .ok j ↔ z = true ∧ wellFormed i = true ∧ i = j := by
  unfold accept
  split <;> [split; skip] <;> simp_all

theorem accept_of {z : Bool} {i : Instr} (hz : z = true) (hw : wellFormed i = true) : accept z i = .ok i := accept_eq_ok.2 ⟨hz, hw, rfl⟩

/-- The decoder of a code whose length its first halfword gives. -/
def Code.decoded : Code → Except Reject Instr
  | .half h => decode16 h
  | .word w => decode32 w
  | .long w0 w1 => decode64 w0 w1

/-- A code's first halfword gives its length (R73). -/
def Code.framed : Code → Prop
  | .half h => h.extractLsb' 0 2 ≠ 3
  | .word w => w.extractLsb' 0 2 = 3 ∧ w.extractLsb' 0 5 ≠ 31
  | .long w0 _ => w0.extractLsb' 0 5 = 31 ∧ word0Assigned w0 = true

theorem bytesOf_word32 (w : BitVec 32) : bytesOf 4 w.toNat = [w.extractLsb' 0 8, w.extractLsb' 8 8, w.extractLsb' 16 8, w.extractLsb' 24 8] := by
  simp only [bytesOf, Nat.div_div_eq_div_mul]
  simp [BitVec.extractLsb'_eq_extractLsb, BitVec.toNat_eq, Nat.shiftRight_eq_div_pow]

theorem bytesOf_half (h : BitVec 16) : bytesOf 2 h.toNat = [h.extractLsb' 0 8, h.extractLsb' 8 8] := by
  simp [bytesOf, BitVec.toNat_eq, Nat.shiftRight_eq_div_pow]

/-- Two adjacent fields of a word, joined. -/
theorem append_fields {n : Nat} (x : BitVec n) (lo j k : Nat) : x.extractLsb' (lo + j) k ++ x.extractLsb' lo j = x.extractLsb' lo (k + j) :=
  BitVec.extractLsb'_append_extractLsb'_eq_extractLsb' rfl

theorem append_bytes_half (h : BitVec 16) : h.extractLsb' 8 8 ++ h.extractLsb' 0 8 = h := (append_fields h 0 8 8).trans BitVec.extractLsb'_eq_self

theorem low_bytes_word (w : BitVec 32) : w.extractLsb' 8 8 ++ w.extractLsb' 0 8 = w.extractLsb' 0 16 := append_fields w 0 8 8

theorem append_bytes_word (w : BitVec 32) : w.extractLsb' 24 8 ++ w.extractLsb' 16 8 ++ w.extractLsb' 0 16 = w := by
  rw [show w.extractLsb' 24 8 ++ w.extractLsb' 16 8 = w.extractLsb' 16 16 from append_fields w 16 8 8]
  exact (append_fields w 0 16 16).trans BitVec.extractLsb'_eq_self

theorem append_word_bytes (w : BitVec 32) : w.extractLsb' 24 8 ++ w.extractLsb' 16 8 ++ w.extractLsb' 8 8 ++ w.extractLsb' 0 8 = w := by
  rw [show w.extractLsb' 24 8 ++ w.extractLsb' 16 8 = w.extractLsb' 16 16 from append_fields w 16 8 8,
    show w.extractLsb' 16 16 ++ w.extractLsb' 8 8 = w.extractLsb' 8 24 from append_fields w 8 8 16]
  exact (append_fields w 0 8 24).trans BitVec.extractLsb'_eq_self

theorem low_halfword_field (w : BitVec 32) {n : Nat} (hn : n ≤ 16) : (w.extractLsb' 0 16).extractLsb' 0 n = w.extractLsb' 0 n := by
  ext i hi
  simp only [BitVec.getElem_extractLsb', BitVec.getLsbD_extractLsb']
  simp [show i < 16 by omega]

theorem lengthOf_word {w : BitVec 32} (h3 : w.extractLsb' 0 2 = 3) (h31 : w.extractLsb' 0 5 ≠ 31) : lengthOf (w.extractLsb' 0 16) = 4 := by
  rw [lengthOf, low_halfword_field w (by decide), low_halfword_field w (by decide), h3, if_neg (by decide), if_neg (by simpa using h31)]

theorem low_two_of_low_five {w : BitVec 32} (h31 : w.extractLsb' 0 5 = 31) : w.extractLsb' 0 2 = 3 := by
  have h : (w.extractLsb' 0 5).extractLsb' 0 2 = w.extractLsb' 0 2 := by
    ext i hi
    simp only [BitVec.getElem_extractLsb', BitVec.getLsbD_extractLsb']
    simp [show i < 5 by omega]
  rw [← h, h31]; rfl

theorem lengthOf_long {w : BitVec 32} (h31 : w.extractLsb' 0 5 = 31) : lengthOf (w.extractLsb' 0 16) = 8 := by
  rw [lengthOf, low_halfword_field w (by decide), low_halfword_field w (by decide), low_two_of_low_five h31, h31, if_neg (by decide), if_pos (by decide)]

theorem decode_bytes_half {h : BitVec 16} (hf : (Code.half h).framed) (rest : List Byte) :
    decode ((Code.half h).bytes ++ rest) = (Code.half h).decoded.map (·, rest) := by
  have hl : lengthOf h = 2 := if_pos (by simpa [Code.framed] using hf)
  simp only [Code.bytes, bytesOf_half, List.cons_append, List.nil_append, decode, append_bytes_half, if_pos hl, Code.decoded]

theorem decode_bytes_word {w : BitVec 32} (hf : (Code.word w).framed) (rest : List Byte) :
    decode ((Code.word w).bytes ++ rest) = (Code.word w).decoded.map (·, rest) := by
  obtain ⟨h3, h31⟩ := hf
  have hl := lengthOf_word h3 h31
  simp only [Code.bytes, bytesOf_word32, List.cons_append, List.nil_append, decode, low_bytes_word, append_bytes_word, Code.decoded]
  rw [if_neg (by rw [hl]; decide), if_pos hl]

theorem decode_bytes_long {w0 w1 : BitVec 32} (hf : (Code.long w0 w1).framed) (rest : List Byte) :
    decode ((Code.long w0 w1).bytes ++ rest) = (Code.long w0 w1).decoded.map (·, rest) := by
  obtain ⟨h31, ha⟩ := hf
  have hl := lengthOf_long h31
  simp only [Code.bytes, bytesOf_word32, List.cons_append, List.nil_append, decode, low_bytes_word, append_bytes_word, append_word_bytes, Code.decoded]
  rw [if_neg (by rw [hl]; decide), if_neg (by rw [hl]; decide), if_neg (by simpa using ha)]

/-- The decoder reads a framed code from its bytes, whatever stands after them. -/
theorem decode_bytes {c : Code} (hf : c.framed) (rest : List Byte) : decode (c.bytes ++ rest) = c.decoded.map (·, rest) := by
  cases c with
  | half h => exact decode_bytes_half hf rest
  | word w => exact decode_bytes_word hf rest
  | long w0 w1 => exact decode_bytes_long hf rest


theorem bytes_half_append (b0 b1 : Byte) : (Code.half (b1 ++ b0)).bytes = [b0, b1] := by
  simp (disch := omega) only [Code.bytes, bytesOf_half, BitVec.extractLsb'_append_eq_of_le, BitVec.extractLsb'_append_eq_of_add_le, Nat.reduceSub,
    BitVec.extractLsb'_eq_self]

theorem bytes_word_append (b0 b1 b2 b3 : Byte) : (Code.word (b3 ++ b2 ++ (b1 ++ b0))).bytes = [b0, b1, b2, b3] := by
  simp (disch := omega) only [Code.bytes, bytesOf_word32, BitVec.extractLsb'_append_eq_of_le, BitVec.extractLsb'_append_eq_of_add_le, Nat.reduceSub,
    BitVec.extractLsb'_eq_self]
  simp only [Nat.reduceAdd, Nat.reduceSub, BitVec.extractLsb'_eq_self]

theorem bytes_long_append (b0 b1 b2 b3 b4 b5 b6 b7 : Byte) :
    (Code.long (b3 ++ b2 ++ (b1 ++ b0)) (b7 ++ b6 ++ b5 ++ b4)).bytes = [b0, b1, b2, b3, b4, b5, b6, b7] := by
  simp (disch := omega) only [Code.bytes, bytesOf_word32, BitVec.extractLsb'_append_eq_of_le, BitVec.extractLsb'_append_eq_of_add_le, Nat.reduceSub,
    BitVec.extractLsb'_eq_self, List.cons_append, List.nil_append]
  simp only [Nat.reduceAdd, Nat.reduceSub, BitVec.extractLsb'_eq_self]

theorem low_append_half {x h : BitVec 16} {n : Nat} (hn : n ≤ 16) : (x ++ h).extractLsb' 0 n = h.extractLsb' 0 n :=
  BitVec.extractLsb'_append_eq_of_add_le (by omega)

theorem framed_of_lengthOf_two {h : BitVec 16} (hl : lengthOf h = 2) : (Code.half h).framed := by
  rw [lengthOf] at hl
  split at hl
  next h3 => simpa [Code.framed] using h3
  next => split at hl <;> contradiction

theorem framed_of_lengthOf_four {x h : BitVec 16} (hl : lengthOf h = 4) : (Code.word (x ++ h)).framed := by
  rw [lengthOf] at hl
  rw [Code.framed, low_append_half (by decide), low_append_half (by decide)]
  split at hl
  · contradiction
  · split at hl
    · contradiction
    · simp_all

theorem framed_of_lengthOf_eight {x h : BitVec 16} {w1 : BitVec 32} (h2 : lengthOf h ≠ 2) (h4 : lengthOf h ≠ 4)
    (ha : word0Assigned (x ++ h) = true) : (Code.long (x ++ h) w1).framed := by
  rw [lengthOf] at h2 h4
  rw [Code.framed, low_append_half (by decide)]
  refine ⟨?_, ha⟩
  split at h2
  next => contradiction
  next =>
    split at h2
    next h5 => simpa using h5
    next => simp_all

/-- Whatever the decoder reads is a framed code, at the head of the bytes. -/
theorem decode_reads_framed {bs rest : List Byte} {i : Instr} (h : decode bs = .ok (i, rest)) :
    ∃ c : Code, c.framed ∧ c.bytes ++ rest = bs ∧ c.decoded = .ok i := by
  have map_ok : ∀ {e : Except Reject Instr} {r : List Byte}, e.map (·, r) = .ok (i, rest) → e = .ok i ∧ r = rest := by
    rintro (_ | j) r hm
    · cases hm
    · cases hm; exact ⟨rfl, rfl⟩
  unfold decode at h
  split at h
  case h_2 => cases h
  case h_1 b0 b1 r =>
    dsimp only at h
    split at h
    case isTrue h2 =>
      obtain ⟨hd, rfl⟩ := map_ok h
      exact ⟨.half (b1 ++ b0), framed_of_lengthOf_two h2, by rw [bytes_half_append]; rfl, hd⟩
    case isFalse h2 =>
      split at h
      case h_2 => cases h
      case h_1 b2 b3 r' =>
        split at h
        case isTrue h4 =>
          obtain ⟨hd, rfl⟩ := map_ok h
          exact ⟨.word (b3 ++ b2 ++ (b1 ++ b0)), framed_of_lengthOf_four h4, by rw [bytes_word_append]; rfl, hd⟩
        case isFalse h4 =>
          split at h
          case isTrue => cases h
          case isFalse ha =>
            split at h
            case h_2 => cases h
            case h_1 b4 b5 b6 b7 r'' =>
              obtain ⟨hd, rfl⟩ := map_ok h
              exact ⟨.long (b3 ++ b2 ++ (b1 ++ b0)) (b7 ++ b6 ++ b5 ++ b4), framed_of_lengthOf_eight h2 h4 (by simpa using ha),
                by rw [bytes_long_append]; rfl, hd⟩

/-! ## The words of the layouts and their fields -/

namespace Layout

/-- The word of the R layout (R76). -/
def rWord (op : BitVec 6) (d a b : Reg) (fn : BitVec 6) (cls : BitVec 3) : BitVec 32 := op ++ d ++ a ++ b ++ fn ++ cls ++ 3#2
/-- The word of the I, B and Q layouts. -/
def iWord (op : BitVec 4) (d a : Reg) (im : BitVec 13) (cls : BitVec 3) : BitVec 32 := op ++ d ++ a ++ im ++ cls ++ 3#2
/-- The word of the U and J layouts. -/
def uWord (op : BitVec 4) (d : Reg) (im : BitVec 18) (cls : BitVec 3) : BitVec 32 := op ++ d ++ im ++ cls ++ 3#2
/-- The word of the S layout. -/
def sWord (op : BitVec 4) (hi a b : Reg) (lo : BitVec 8) : BitVec 32 := op ++ hi ++ a ++ b ++ lo ++ 2#3 ++ 3#2
/-- The word of the AMO layout. -/
def amoWord (op : BitVec 4) (d a b : Reg) (w o : BitVec 2) : BitVec 32 := 15#4 ++ d ++ a ++ b ++ op ++ w ++ o ++ 2#3 ++ 3#2
/-- The word of the SYS layout. -/
def sysWord (op : BitVec 6) (d a : Reg) (im : BitVec 7) : BitVec 32 := 15#4 ++ op ++ d ++ a ++ im ++ 3#3 ++ 3#2
/-- The word of the V layout. -/
def vWord (op : BitVec 6) (d a b : Reg) (m : MaskField) (md cls : BitVec 3) : BitVec 32 := op ++ d ++ a ++ b ++ m ++ md ++ cls ++ 3#2

end Layout

open Layout

/-- A field that lies within a field. -/
theorem subfield {n lo len : Nat} {x : BitVec n} {f : BitVec len} (hf : x.extractLsb' lo len = f) (k j : Nat) (h : k + j ≤ len) :
    x.extractLsb' (lo + k) j = f.extractLsb' k j := by
  subst hf
  ext i hi
  simp only [BitVec.getElem_extractLsb', BitVec.getLsbD_extractLsb']
  simp [show k + i < len by omega, Nat.add_assoc]

/-- A bit that lies within a field. -/
theorem subbit {n lo len : Nat} {x : BitVec n} {f : BitVec len} (hf : x.extractLsb' lo len = f) (k : Nat) (h : k < len) :
    x.getLsbD (lo + k) = f.getLsbD k := by
  subst hf
  simp [h]

theorem rWord_fields (op : BitVec 6) (d a b : Reg) (fn : BitVec 6) (cls : BitVec 3) :
    (rWord op d a b fn cls).extractLsb' 26 6 = op ∧ (rWord op d a b fn cls).extractLsb' 21 5 = d ∧ (rWord op d a b fn cls).extractLsb' 16 5 = a
    ∧ (rWord op d a b fn cls).extractLsb' 11 5 = b ∧ (rWord op d a b fn cls).extractLsb' 5 6 = fn ∧ (rWord op d a b fn cls).extractLsb' 2 3 = cls
    ∧ (rWord op d a b fn cls).extractLsb' 0 2 = 3 := by
  simp (disch := decide) only [rWord, BitVec.extractLsb'_append_eq_of_le, BitVec.extractLsb'_append_eq_of_add_le, Nat.reduceSub, BitVec.extractLsb'_eq_self, true_and]
  rfl

theorem iWord_fields (op : BitVec 4) (d a : Reg) (im : BitVec 13) (cls : BitVec 3) :
    (iWord op d a im cls).extractLsb' 28 4 = op ∧ (iWord op d a im cls).extractLsb' 23 5 = d ∧ (iWord op d a im cls).extractLsb' 18 5 = a
    ∧ (iWord op d a im cls).extractLsb' 5 13 = im ∧ (iWord op d a im cls).extractLsb' 2 3 = cls ∧ (iWord op d a im cls).extractLsb' 0 2 = 3 := by
  simp (disch := decide) only [iWord, BitVec.extractLsb'_append_eq_of_le, BitVec.extractLsb'_append_eq_of_add_le, Nat.reduceSub, BitVec.extractLsb'_eq_self, true_and]
  rfl

theorem uWord_fields (op : BitVec 4) (d : Reg) (im : BitVec 18) (cls : BitVec 3) :
    (uWord op d im cls).extractLsb' 28 4 = op ∧ (uWord op d im cls).extractLsb' 23 5 = d ∧ (uWord op d im cls).extractLsb' 5 18 = im
    ∧ (uWord op d im cls).extractLsb' 2 3 = cls ∧ (uWord op d im cls).extractLsb' 0 2 = 3 := by
  simp (disch := decide) only [uWord, BitVec.extractLsb'_append_eq_of_le, BitVec.extractLsb'_append_eq_of_add_le, Nat.reduceSub, BitVec.extractLsb'_eq_self, true_and]
  rfl

theorem sWord_fields (op : BitVec 4) (hi a b : Reg) (lo : BitVec 8) :
    (sWord op hi a b lo).extractLsb' 28 4 = op ∧ (sWord op hi a b lo).extractLsb' 23 5 = hi ∧ (sWord op hi a b lo).extractLsb' 18 5 = a
    ∧ (sWord op hi a b lo).extractLsb' 13 5 = b ∧ (sWord op hi a b lo).extractLsb' 5 8 = lo ∧ (sWord op hi a b lo).extractLsb' 2 3 = 2
    ∧ (sWord op hi a b lo).extractLsb' 0 2 = 3 := by
  simp (disch := decide) only [sWord, BitVec.extractLsb'_append_eq_of_le, BitVec.extractLsb'_append_eq_of_add_le, Nat.reduceSub, BitVec.extractLsb'_eq_self, true_and]
  exact ⟨rfl, rfl⟩

theorem amoWord_fields (op : BitVec 4) (d a b : Reg) (w o : BitVec 2) :
    (amoWord op d a b w o).extractLsb' 28 4 = 15 ∧ (amoWord op d a b w o).extractLsb' 23 5 = d ∧ (amoWord op d a b w o).extractLsb' 18 5 = a
    ∧ (amoWord op d a b w o).extractLsb' 13 5 = b ∧ (amoWord op d a b w o).extractLsb' 9 4 = op ∧ (amoWord op d a b w o).extractLsb' 7 2 = w
    ∧ (amoWord op d a b w o).extractLsb' 5 2 = o ∧ (amoWord op d a b w o).extractLsb' 2 3 = 2 ∧ (amoWord op d a b w o).extractLsb' 0 2 = 3 := by
  simp (disch := decide) only [amoWord, BitVec.extractLsb'_append_eq_of_le, BitVec.extractLsb'_append_eq_of_add_le, Nat.reduceSub, BitVec.extractLsb'_eq_self, true_and]
  exact ⟨rfl, rfl, rfl⟩

theorem sysWord_fields (op : BitVec 6) (d a : Reg) (im : BitVec 7) :
    (sysWord op d a im).extractLsb' 28 4 = 15 ∧ (sysWord op d a im).extractLsb' 22 6 = op ∧ (sysWord op d a im).extractLsb' 17 5 = d
    ∧ (sysWord op d a im).extractLsb' 12 5 = a ∧ (sysWord op d a im).extractLsb' 5 7 = im ∧ (sysWord op d a im).extractLsb' 2 3 = 3
    ∧ (sysWord op d a im).extractLsb' 0 2 = 3 := by
  simp (disch := decide) only [sysWord, BitVec.extractLsb'_append_eq_of_le, BitVec.extractLsb'_append_eq_of_add_le, Nat.reduceSub, BitVec.extractLsb'_eq_self, true_and]
  exact ⟨rfl, rfl, rfl⟩

theorem vWord_fields (op : BitVec 6) (d a b : Reg) (m : MaskField) (md cls : BitVec 3) :
    (vWord op d a b m md cls).extractLsb' 26 6 = op ∧ (vWord op d a b m md cls).extractLsb' 21 5 = d ∧ (vWord op d a b m md cls).extractLsb' 16 5 = a
    ∧ (vWord op d a b m md cls).extractLsb' 11 5 = b ∧ (vWord op d a b m md cls).extractLsb' 8 3 = m ∧ (vWord op d a b m md cls).extractLsb' 5 3 = md
    ∧ (vWord op d a b m md cls).extractLsb' 2 3 = cls ∧ (vWord op d a b m md cls).extractLsb' 0 2 = 3 := by
  simp (disch := decide) only [vWord, BitVec.extractLsb'_append_eq_of_le, BitVec.extractLsb'_append_eq_of_add_le, Nat.reduceSub, BitVec.extractLsb'_eq_self, true_and]
  rfl

theorem rWord_subfields (op : BitVec 6) (d a b : Reg) (fn : BitVec 6) (cls : BitVec 3) :
    (rWord op d a b fn cls).extractLsb' 7 4 = fn.extractLsb' 2 4 ∧ (rWord op d a b fn cls).extractLsb' 5 2 = fn.extractLsb' 0 2
    ∧ (rWord op d a b fn cls).extractLsb' 7 3 = fn.extractLsb' 2 3 ∧ (rWord op d a b fn cls).getLsbD 10 = fn.getLsbD 5 := by
  obtain ⟨-, -, -, -, h, -, -⟩ := rWord_fields op d a b fn cls
  exact ⟨subfield h 2 4 (by decide), subfield h 0 2 (by decide), subfield h 2 3 (by decide), subbit h 5 (by decide)⟩

theorem iWord_subfields (op : BitVec 4) (d a : Reg) (im : BitVec 13) (cls : BitVec 3) :
    (iWord op d a im cls).extractLsb' 15 3 = im.extractLsb' 10 3 ∧ (iWord op d a im cls).extractLsb' 5 10 = im.extractLsb' 0 10
    ∧ (iWord op d a im cls).extractLsb' 5 6 = im.extractLsb' 0 6 ∧ (iWord op d a im cls).extractLsb' 11 7 = im.extractLsb' 6 7
    ∧ (iWord op d a im cls).extractLsb' 26 2 = d.extractLsb' 3 2 ∧ (iWord op d a im cls).extractLsb' 23 3 = d.extractLsb' 0 3 := by
  obtain ⟨-, hd, -, h, -, -⟩ := iWord_fields op d a im cls
  exact ⟨subfield h 10 3 (by decide), subfield h 0 10 (by decide), subfield h 0 6 (by decide), subfield h 6 7 (by decide),
    subfield hd 3 2 (by decide), subfield hd 0 3 (by decide)⟩

theorem sWord_subfields (op : BitVec 4) (hi a b : Reg) (lo : BitVec 8) :
    (sWord op hi a b lo).extractLsb' 25 3 = hi.extractLsb' 2 3 ∧ (sWord op hi a b lo).extractLsb' 23 2 = hi.extractLsb' 0 2 := by
  obtain ⟨-, h, -⟩ := sWord_fields op hi a b lo
  exact ⟨subfield h 2 3 (by decide), subfield h 0 2 (by decide)⟩

theorem amoWord_subfields (op : BitVec 4) (d a b : Reg) (w o : BitVec 2) :
    (amoWord op d a b w o).getLsbD 7 = w.getLsbD 0 ∧ (amoWord op d a b w o).getLsbD 8 = w.getLsbD 1 := by
  obtain ⟨-, -, -, -, -, h, -⟩ := amoWord_fields op d a b w o
  exact ⟨subbit h 0 (by decide), subbit h 1 (by decide)⟩

theorem sysWord_subfields (op : BitVec 6) (d a : Reg) (im : BitVec 7) :
    (sysWord op d a im).extractLsb' 5 12 = a ++ im ∧ (sysWord op d a im).extractLsb' 22 4 = op.extractLsb' 0 4
    ∧ (sysWord op d a im).extractLsb' 5 3 = im.extractLsb' 0 3 ∧ (sysWord op d a im).extractLsb' 7 5 = im.extractLsb' 2 5
    ∧ (sysWord op d a im).extractLsb' 5 2 = im.extractLsb' 0 2 ∧ (sysWord op d a im).extractLsb' 6 6 = im.extractLsb' 1 6
    ∧ (sysWord op d a im).extractLsb' 8 4 = im.extractLsb' 3 4 ∧ (sysWord op d a im).getLsbD 5 = im.getLsbD 0 ∧ (sysWord op d a im).getLsbD 7 = im.getLsbD 2
    ∧ (sysWord op d a im).getLsbD 8 = im.getLsbD 3 ∧ (sysWord op d a im).getLsbD 9 = im.getLsbD 4 ∧ (sysWord op d a im).getLsbD 10 = im.getLsbD 5
    ∧ (sysWord op d a im).getLsbD 11 = im.getLsbD 6 := by
  obtain ⟨-, ho, -, ha, h, -⟩ := sysWord_fields op d a im
  refine ⟨?_, subfield ho 0 4 (by decide), subfield h 0 3 (by decide), subfield h 2 5 (by decide), subfield h 0 2 (by decide),
    subfield h 1 6 (by decide), subfield h 3 4 (by decide), subbit h 0 (by decide), subbit h 2 (by decide),
    subbit h 3 (by decide), subbit h 4 (by decide), subbit h 5 (by decide), subbit h 6 (by decide)⟩
  have e := append_fields (sysWord op d a im) 5 7 5
  rw [ha, h] at e
  exact e.symm

theorem vWord_subfields (op : BitVec 6) (d a b : Reg) (m : MaskField) (md cls : BitVec 3) :
    (vWord op d a b m md cls).extractLsb' 24 2 = d.extractLsb' 3 2 ∧ (vWord op d a b m md cls).extractLsb' 21 3 = d.extractLsb' 0 3
    ∧ (vWord op d a b m md cls).extractLsb' 5 2 = md.extractLsb' 0 2 ∧ (vWord op d a b m md cls).getLsbD 5 = md.getLsbD 0
    ∧ (vWord op d a b m md cls).getLsbD 6 = md.getLsbD 1 ∧ (vWord op d a b m md cls).getLsbD 7 = md.getLsbD 2 := by
  obtain ⟨-, hd, -, -, -, h, -⟩ := vWord_fields op d a b m md cls
  exact ⟨subfield hd 3 2 (by decide), subfield hd 0 3 (by decide), subfield h 0 2 (by decide), subbit h 0 (by decide),
    subbit h 1 (by decide), subbit h 2 (by decide)⟩

theorem m3_bits (b2 b1 b0 : Bool) : (m3 b2 b1 b0).getLsbD 0 = b0 ∧ (m3 b2 b1 b0).getLsbD 1 = b1 ∧ (m3 b2 b1 b0).getLsbD 2 = b2 := by
  revert b2 b1 b0; decide

open Layout

/-! ## Every code reads back -/

/-- An instruction is read back from its code. -/
def ReadsBack (i : Instr) : Prop := ∀ c, encode i = some c → wellFormed i = true → c.framed ∧ c.decoded = .ok i

theorem readsBack_of {i : Instr} {c : Code} (he : encode i = some c) (hf : c.framed) (hd : wellFormed i = true → c.decoded = .ok i) : ReadsBack i := by
  rintro c' hc hw
  obtain rfl : c = c' := Option.some.inj (he.symm.trans hc)
  exact ⟨hf, hd hw⟩

theorem framed_word {w : BitVec 32} {cls : BitVec 3} (h2 : w.extractLsb' 0 2 = 3) (hc : w.extractLsb' 2 3 = cls) (h7 : cls ≠ 7) : (Code.word w).framed := by
  refine ⟨h2, fun h5 => h7 ?_⟩
  rw [← hc, show w.extractLsb' 2 3 = _ from subfield h5 2 3 (by decide)]
  decide

theorem readsBack_r {i : Instr} {op : BitVec 6} {d a b : Reg} {fn : BitVec 6} {cls : BitVec 3}
    (he : encode i = some (.word (rWord op d a b fn cls))) (h7 : cls ≠ 7) (hd : wellFormed i = true → decode32 (rWord op d a b fn cls) = .ok i) : ReadsBack i :=
  have ⟨_, _, _, _, _, hc, h2⟩ := rWord_fields op d a b fn cls
  readsBack_of he (framed_word h2 hc h7) hd

theorem readsBack_i {i : Instr} {op : BitVec 4} {d a : Reg} {im : BitVec 13} {cls : BitVec 3}
    (he : encode i = some (.word (iWord op d a im cls))) (h7 : cls ≠ 7) (hd : wellFormed i = true → decode32 (iWord op d a im cls) = .ok i) : ReadsBack i :=
  have ⟨_, _, _, _, hc, h2⟩ := iWord_fields op d a im cls
  readsBack_of he (framed_word h2 hc h7) hd

theorem readsBack_u {i : Instr} {op : BitVec 4} {d : Reg} {im : BitVec 18} {cls : BitVec 3}
    (he : encode i = some (.word (uWord op d im cls))) (h7 : cls ≠ 7) (hd : wellFormed i = true → decode32 (uWord op d im cls) = .ok i) : ReadsBack i :=
  have ⟨_, _, _, hc, h2⟩ := uWord_fields op d im cls
  readsBack_of he (framed_word h2 hc h7) hd

theorem readsBack_s {i : Instr} {op : BitVec 4} {hi a b : Reg} {lo : BitVec 8}
    (he : encode i = some (.word (sWord op hi a b lo))) (hd : wellFormed i = true → decode32 (sWord op hi a b lo) = .ok i) : ReadsBack i :=
  have ⟨_, _, _, _, _, hc, h2⟩ := sWord_fields op hi a b lo
  readsBack_of he (framed_word h2 hc (by decide)) hd

theorem readsBack_amo {i : Instr} {op : BitVec 4} {d a b : Reg} {w o : BitVec 2}
    (he : encode i = some (.word (amoWord op d a b w o))) (hd : wellFormed i = true → decode32 (amoWord op d a b w o) = .ok i) : ReadsBack i :=
  have ⟨_, _, _, _, _, _, _, hc, h2⟩ := amoWord_fields op d a b w o
  readsBack_of he (framed_word h2 hc (by decide)) hd

theorem readsBack_sys {i : Instr} {op : BitVec 6} {d a : Reg} {im : BitVec 7}
    (he : encode i = some (.word (sysWord op d a im))) (hd : wellFormed i = true → decode32 (sysWord op d a im) = .ok i) : ReadsBack i :=
  have ⟨_, _, _, _, _, hc, h2⟩ := sysWord_fields op d a im
  readsBack_of he (framed_word h2 hc (by decide)) hd

theorem readsBack_v {i : Instr} {op : BitVec 6} {d a b : Reg} {m : MaskField} {md cls : BitVec 3}
    (he : encode i = some (.word (vWord op d a b m md cls))) (h7 : cls ≠ 7) (hd : wellFormed i = true → decode32 (vWord op d a b m md cls) = .ok i) : ReadsBack i :=
  have ⟨_, _, _, _, _, _, hc, h2⟩ := vWord_fields op d a b m md cls
  readsBack_of he (framed_word h2 hc h7) hd

theorem intR_readsBack (d a b : Reg) (w : BitVec 2) : ∀ i ∈ [Instr.add d a b, .sub d a b, .and d a b, .or d a b, .xor d a b, .andn d a b, .sll d a b, .srl d a b, .sra d a b, .rotl d a b, .slt d a b, .sltu d a b, .min d a b, .max d a b, .minu d a b, .maxu d a b, .mul d a b, .mulh d a b, .mulhu d a b, .div d a b, .divu d a b, .rem d a b, .remu d a b,
    .clz d a, .ctz d a, .popc d a, .sext d a w, .zext d a w, .csel d a b, .bswap d a], ReadsBack i := by
  have low : (0#4 ++ w).extractLsb' 0 2 = w := BitVec.extractLsb'_append_eq_right
  have high : (0#4 ++ w).extractLsb' 2 4 = 0 := BitVec.extractLsb'_append_eq_left
  simp only [List.forall_mem_cons, List.not_mem_nil, false_implies, implies_true, and_true]
  and_intros
  all_goals
    refine readsBack_r rfl (by decide) fun hw => ?_
    simp only [decode32, rWord_fields, rWord_subfields, decodeIntR, BitVec.reduceToNat, BitVec.ofNat_eq_ofNat, low, high]
    exact accept_of rfl hw

theorem intI_readsBack (d a : Reg) (im : BitVec 13) (sh : BitVec 6) : ∀ i ∈ [Instr.addi d a im, .andi d a im, .ori d a im, .xori d a im, .slti d a im, .sltiu d a im, .slli d a sh, .srli d a sh, .srai d a sh], ReadsBack i := by
  have low : (0#7 ++ sh).extractLsb' 0 6 = sh := BitVec.extractLsb'_append_eq_right
  have high : (0#7 ++ sh).extractLsb' 6 7 = 0 := BitVec.extractLsb'_append_eq_left
  simp only [List.forall_mem_cons, List.not_mem_nil, false_implies, implies_true, and_true]
  and_intros
  all_goals
    refine readsBack_i rfl (by decide) fun hw => ?_
    simp only [decode32, iWord_fields, iWord_subfields, decodeIntI, BitVec.reduceToNat, BitVec.ofNat_eq_ofNat, low, high]
    exact accept_of rfl hw

theorem immediate18_readsBack (d : Reg) (im : BitVec 18) : ∀ i ∈ [Instr.lih d im, .pcadd d im, .jmpl d im], ReadsBack i := by
  simp only [List.forall_mem_cons, List.not_mem_nil, false_implies, implies_true, and_true]
  and_intros
  all_goals
    refine readsBack_u rfl (by decide) fun hw => ?_
    simp only [decode32, uWord_fields, decodeIntI, decodeCtrl, BitVec.reduceToNat, BitVec.ofNat_eq_ofNat]
    exact accept_of rfl hw

theorem load_readsBack (d a : Reg) (im : BitVec 13) (scope : BitVec 3) (j : BitVec 10) : ∀ i ∈ [Instr.lb d a im, .lbu d a im, .lh d a im, .lhu d a im, .lw d a im, .lwu d a im, .ld d a im, .lda d a scope j], ReadsBack i := by
  have low : (scope ++ j).extractLsb' 0 10 = j := BitVec.extractLsb'_append_eq_right
  have high : (scope ++ j).extractLsb' 10 3 = scope := BitVec.extractLsb'_append_eq_left
  simp only [List.forall_mem_cons, List.not_mem_nil, false_implies, implies_true, and_true]
  and_intros
  all_goals
    refine readsBack_i rfl (by decide) fun hw => ?_
    simp only [decode32, iWord_fields, iWord_subfields, decodeMem, BitVec.reduceToNat, BitVec.ofNat_eq_ofNat, low, high]
    exact accept_of rfl hw

theorem store_readsBack (a b : Reg) (im : BitVec 13) (scope : BitVec 3) (j : BitVec 10) : ∀ i ∈ [Instr.sb a b im, .sh a b im, .sw a b im, .sd a b im, .sdrel a b scope j], ReadsBack i := by
  have join : im.extractLsb' 8 5 ++ im.extractLsb' 0 8 = im := (append_fields im 0 8 5).trans BitVec.extractLsb'_eq_self
  have hscope : ((scope ++ j).extractLsb' 8 5).extractLsb' 2 3 = scope := by
    rw [← subfield (x := scope ++ j) (lo := 8) rfl 2 3 (by decide)]; exact BitVec.extractLsb'_append_eq_left
  have joined : ((scope ++ j).extractLsb' 8 5).extractLsb' 0 2 ++ (scope ++ j).extractLsb' 0 8 = j := by
    rw [← subfield (x := scope ++ j) (lo := 8) rfl 0 2 (by decide)]
    exact (append_fields _ 0 8 2).trans BitVec.extractLsb'_append_eq_right
  simp only [List.forall_mem_cons, List.not_mem_nil, false_implies, implies_true, and_true]
  and_intros
  all_goals
    refine readsBack_s rfl fun hw => ?_
    simp only [decode32, sWord_fields, sWord_subfields, decodeMem, BitVec.reduceToNat, BitVec.ofNat_eq_ofNat, join, hscope, joined]
    exact accept_of rfl hw

theorem amo_readsBack (d a b : Reg) (w o : BitVec 2) (half : Bool) : ∀ i ∈ [Instr.amoadd d a b w o, .amoand d a b w o, .amoor d a b w o, .amoxor d a b w o, .amomin d a b w o, .amomax d a b w o, .amominu d a b w o, .amomaxu d a b w o, .amoswap d a b w o, .amocas d a b w o, .amofadd d a b half o], ReadsBack i := by
  have low : (bit half ++ 0#1).getLsbD 0 = false := by revert half; decide
  have high : (bit half ++ 0#1).getLsbD 1 = half := by revert half; decide
  simp only [List.forall_mem_cons, List.not_mem_nil, false_implies, implies_true, and_true]
  and_intros
  all_goals
    refine readsBack_amo rfl fun hw => ?_
    simp only [decode32, amoWord_fields, amoWord_subfields, decodeMem, decodeAmo, BitVec.reduceToNat, BitVec.ofNat_eq_ofNat, low, high]
    exact accept_of rfl hw

theorem branch_readsBack (a b : Reg) (n : BitVec 3) (o : BitVec 13) : ∀ i ∈ [Instr.beq a b o, .bne a b o, .blt a b o, .bge a b o, .bltu a b o, .bgeu a b o, .jmpr a b o, .bse n o, .bmany a o, .bmnone a o], ReadsBack i := by
  have low : (3#2 ++ n).extractLsb' 0 3 = n := BitVec.extractLsb'_append_eq_right
  have high : (3#2 ++ n).extractLsb' 3 2 = 3 := BitVec.extractLsb'_append_eq_left
  simp only [List.forall_mem_cons, List.not_mem_nil, false_implies, implies_true, and_true]
  and_intros
  all_goals
    refine readsBack_i rfl (by decide) fun hw => ?_
    simp only [decode32, iWord_fields, iWord_subfields, decodeCtrl, BitVec.reduceToNat, BitVec.ofNat_eq_ofNat, low, high, if_true]
    exact accept_of rfl hw

theorem sys_readsBack (d a : Reg) (n : BitVec 12) : ∀ i ∈ [Instr.nop, .srd d n, .swr d n, .srset d n, .srclr d n, .trap n, .tret, .brk, .wfe d a, .keyclr, .farm d a, .fjoin d a, .yield, .notify a, .halt], ReadsBack i := by
  have join : n.extractLsb' 7 5 ++ n.extractLsb' 0 7 = n := (append_fields n 0 7 5).trans BitVec.extractLsb'_eq_self
  simp only [List.forall_mem_cons, List.not_mem_nil, false_implies, implies_true, and_true]
  and_intros
  all_goals
    refine readsBack_sys rfl fun hw => ?_
    simp only [decode32, sysWord_fields, sysWord_subfields, decodeCtrl, decodeSys, BitVec.reduceToNat, BitVec.ofNat_eq_ofNat, join]
    exact accept_of rfl hw

theorem bit_getLsbD (b : Bool) : (bit b).getLsbD 0 = b := by revert b; decide

theorem flagged_sys_readsBack (d a : Reg) (f : Bool) (k : BitVec 2) : ∀ i ∈ [Instr.keyset a k, .strip d f, .tlbinv a f k, .cinv f, .cflush a f], ReadsBack i := by
  have low : (0#5 ++ k).extractLsb' 0 2 = k := BitVec.extractLsb'_append_eq_right
  have high : (0#5 ++ k).extractLsb' 2 5 = 0 := BitVec.extractLsb'_append_eq_left
  have flag : (0#6 ++ bit f).getLsbD 0 = f := by revert f; decide
  have above : (0#6 ++ bit f).extractLsb' 1 6 = 0 := BitVec.extractLsb'_append_eq_left
  have mode : (0#4 ++ bit f ++ k).extractLsb' 0 2 = k := BitVec.extractLsb'_append_eq_right
  have second : (0#4 ++ bit f ++ k).getLsbD 2 = f := by revert f k; decide
  have rest : (0#4 ++ bit f ++ k).extractLsb' 3 4 = 0 := by revert f k; decide
  simp only [List.forall_mem_cons, List.not_mem_nil, false_implies, implies_true, and_true]
  and_intros
  all_goals
    refine readsBack_sys rfl fun hw => ?_
    simp only [decode32, sysWord_fields, sysWord_subfields, decodeCtrl, decodeSys, BitVec.reduceToNat, BitVec.ofNat_eq_ofNat, low, high, flag, above, mode, second, rest]
    exact accept_of rfl hw

theorem fence_readsBack (f t : BitVec 5) (ack rel acq : Bool) (scope : BitVec 3) : ReadsBack (.fence f t ack rel acq scope) := by
  have fields : ∀ im, im = 0#1 ++ bit ack ++ bit rel ++ bit acq ++ scope →
      im.extractLsb' 0 3 = scope ∧ im.getLsbD 3 = acq ∧ im.getLsbD 4 = rel ∧ im.getLsbD 5 = ack ∧ im.getLsbD 6 = false := by
    revert ack rel acq scope; decide
  obtain ⟨hs, h3, h4, h5, h6⟩ := fields _ rfl
  refine readsBack_sys rfl fun hw => ?_
  simp only [decode32, sysWord_fields, sysWord_subfields, decodeCtrl, decodeSys, BitVec.reduceToNat, BitVec.ofNat_eq_ofNat, hs, h3, h4, h5, h6]
  exact accept_of rfl hw

theorem hint_readsBack (h : BitVec 4) (d a : Reg) (im : BitVec 7) : ReadsBack (.hint h d a im) := by
  have low : (3#2 ++ h).extractLsb' 0 4 = h := BitVec.extractLsb'_append_eq_right
  have sysOp : (3#2 ++ h).toNat = 48 + h.toNat := by revert h; decide
  have hh := h.isLt
  refine readsBack_sys rfl fun hw => ?_
  simp only [decode32, sysWord_fields, decodeCtrl, BitVec.reduceToNat, BitVec.ofNat_eq_ofNat]
  unfold decodeSys
  simp only [sysWord_fields, sysWord_subfields, low, sysOp]
  split
  iterate 21 · omega
  rw [if_pos (Nat.le_add_right 48 _)]
  exact accept_of rfl hw

theorem fp_readsBack (d a b : Reg) (rm : BitVec 3) (f : BitVec 2) : ∀ i ∈ [Instr.fadd d a b rm f, .fsub d a b rm f, .fmul d a b rm f, .fdiv d a b rm f, .fmin d a b rm f, .fmax d a b rm f, .fma d a b rm f, .fms d a b rm f, .fnma d a b rm f, .fcmp d a b rm f, .fsgnj d a b rm f,
    .fsqrt d a rm f, .fclass d a f, .fcvt d a rm f], ReadsBack i := by
  have fmt : ∀ c : BitVec 3, (0#1 ++ c ++ f).extractLsb' 0 2 = f := fun _ => BitVec.extractLsb'_append_eq_right
  have mode : ∀ c : BitVec 3, (0#1 ++ c ++ f).extractLsb' 2 3 = c := by revert f; decide
  have top : ∀ c : BitVec 3, (0#1 ++ c ++ f).getLsbD 5 = false := by revert f; decide
  simp only [List.forall_mem_cons, List.not_mem_nil, false_implies, implies_true, and_true]
  and_intros
  all_goals
    refine readsBack_r rfl (by decide) fun hw => ?_
    simp only [decode32, rWord_fields, rWord_subfields, decodeFp, BitVec.reduceToNat, BitVec.ofNat_eq_ofNat, fmt, mode, top]
    exact accept_of rfl hw

theorem vectorMemory_readsBack (d a b : Reg) (m : MaskField) (ff nt u : Bool) : ∀ i ∈ [Instr.vsetl d a u, .vld d a b m ff nt u, .vlds d a b m ff nt u, .vldx d a b m ff nt u, .vldseg d a b m ff nt u, .vgathx d a b m ff nt u, .vst d a b m nt u, .vsts d a b m nt u, .vstx d a b m nt u, .vstseg d a b m nt u, .vscatx d a b m nt u, .vsend d a m nt u], ReadsBack i := by
  simp only [List.forall_mem_cons, List.not_mem_nil, false_implies, implies_true, and_true]
  and_intros
  all_goals
    refine readsBack_v rfl (by decide) fun hw => ?_
    simp only [decode32, vWord_fields, vWord_subfields, m3_bits, decodeVecM, BitVec.reduceToNat, BitVec.ofNat_eq_ofNat]
    exact accept_of rfl hw

theorem vectorMove_readsBack (d a b : Reg) (m : MaskField) (ins : Bool) : ∀ i ∈ [Instr.vmv d a m, .vsplat d a m, .vid d a m, .viota d a m, .vcompress d a m, .mpopc d a m, .mfirst d a m, .mlast d a m, .vcmd d a m, .vmvr d a b m ins, .vmvc d a b m ins, .vext d a b ins, .vretag d, .vrelease d ins,
    .vslideup d a b m, .vslidedn d a b m, .vperm d a b m], ReadsBack i := by
  simp only [List.forall_mem_cons, List.not_mem_nil, false_implies, implies_true, and_true]
  and_intros
  all_goals
    refine readsBack_v rfl (by decide) fun hw => ?_
    simp only [decode32, vWord_fields, vWord_subfields, m3_bits, decodeVecM, BitVec.reduceToNat, BitVec.ofNat_eq_ofNat]
    exact accept_of rfl hw

theorem maskLogic_readsBack (d a b : Reg) (im : Bool) : ∀ i ∈ [Instr.mand d a b, .mor d a b, .mxor d a b, .mandn d a b, .mnot d a, .mshl d a b im, .mshr d a b im, .mset d, .mclr d, .mmv d a, .mld d a, .mst d a], ReadsBack i := by
  simp only [List.forall_mem_cons, List.not_mem_nil, false_implies, implies_true, and_true]
  and_intros
  all_goals
    refine readsBack_v rfl (by decide) fun hw => ?_
    simp only [decode32, vWord_fields, vWord_subfields, m3_bits, decodeVecM, BitVec.reduceToNat, BitVec.ofNat_eq_ofNat]
    exact accept_of rfl hw

theorem stream_readsBack (n : BitVec 3) (d a b : Reg) (m : MaskField) (w : Bool) (c : BitVec 2) (p : BitVec 3) : ∀ i ∈ [Instr.vbind n a b, .vunbind n a, .vwait d a b m w c, .vamo d a b m p], ReadsBack i := by
  have low : (3#2 ++ n).extractLsb' 0 3 = n := BitVec.extractLsb'_append_eq_right
  have high : (3#2 ++ n).extractLsb' 3 2 = 3 := BitVec.extractLsb'_append_eq_left
  have cond : (bit w ++ c).extractLsb' 0 2 = c := BitVec.extractLsb'_append_eq_right
  have flag : (bit w ++ c).getLsbD 2 = w := by revert w c; decide
  simp only [List.forall_mem_cons, List.not_mem_nil, false_implies, implies_true, and_true]
  and_intros
  all_goals
    refine readsBack_v rfl (by decide) fun hw => ?_
    simp only [decode32, vWord_fields, vWord_subfields, m3_bits, decodeVecM, BitVec.reduceToNat, BitVec.ofNat_eq_ofNat, low, high, cond, flag, if_true]
    exact accept_of rfl hw

theorem vectorInteger_readsBack (d a b : Reg) (m : MaskField) (n s x : Bool) (c : BitVec 3) : ∀ i ∈ [Instr.vadd d a b m n s x, .vsub d a b m n s x, .vmul d a b m n s x, .vmulh d a b m n s x, .vdiv d a b m n s x, .vrem d a b m n s x, .vmin d a b m n s x, .vmax d a b m n s x, .vadc d a b m n s x, .vsbc d a b m n s x, .vredmax d a b m n s x, .vredmin d a b m n s x,
    .vand d a b m n x, .vor d a b m n x, .vxor d a b m n x, .vsll d a b m n x, .vsrl d a b m n x, .vsra d a b m n x, .vmerge d a b m n x, .vredos d a b m n x, .vredsum d a b m n x, .vredand d a b m n x, .vredor d a b m n x, .vredxor d a b m n x, .vqscale d a b m n x, .vcmp d a b m c, .vabs d a m n s], ReadsBack i := by
  simp only [List.forall_mem_cons, List.not_mem_nil, false_implies, implies_true, and_true]
  and_intros
  all_goals
    refine readsBack_v rfl (by decide) fun hw => ?_
    simp only [decode32, vWord_fields, vWord_subfields, m3_bits, decodeVecA, BitVec.reduceToNat, BitVec.ofNat_eq_ofNat]
    exact accept_of rfl hw

theorem vectorFloat_readsBack (d a b : Reg) (m : MaskField) (n s x : Bool) (c : BitVec 3) : ∀ i ∈ [Instr.vfadd d a b m n x, .vfsub d a b m n x, .vfmul d a b m n x, .vfdiv d a b m n x, .vfma d a b m n x, .vfms d a b m n x, .vfnma d a b m n x, .vfmin d a b m n x, .vfmax d a b m n x, .vfcmp d a b m c,
    .vfsqrt d a m n, .vfclass d a m n, .vfexp d a m n, .vflog d a m n, .vfrcp d a m n, .vfrsq d a m n, .vftanh d a m n, .vcvt d a b m n s, .vcvti d a b m n s, .vcvtf4 d a b m n], ReadsBack i := by
  simp only [List.forall_mem_cons, List.not_mem_nil, false_implies, implies_true, and_true]
  and_intros
  all_goals
    refine readsBack_v rfl (by decide) fun hw => ?_
    simp only [decode32, vWord_fields, vWord_subfields, m3_bits, decodeVecA, BitVec.reduceToNat, BitVec.ofNat_eq_ofNat]
    exact accept_of rfl hw

theorem readsBack_long {i : Instr} {w0 w1 : BitVec 32} (he : encode i = some (.long w0 w1)) (h5 : w0.extractLsb' 0 5 = 31)
    (hd : word0Assigned w0 = true ∧ (wellFormed i = true → decode64 w0 w1 = .ok i)) : ReadsBack i :=
  readsBack_of he ⟨h5, hd.1⟩ hd.2

theorem readsBack_half {i : Instr} {h : BitVec 16} (he : encode i = some (.half h)) (h2 : h.extractLsb' 0 2 ≠ 3)
    (hd : wellFormed i = true → decode16 h = .ok i) : ReadsBack i :=
  readsBack_of he h2 hd

theorem low_field {n m : Nat} (x : BitVec n) (y : BitVec m) : (x ++ y).extractLsb' 0 m = y := BitVec.extractLsb'_append_eq_right

theorem li64_readsBack (d : Reg) (f : Bool) (im : BitVec 47) : ReadsBack (.li64 d f im) := by
  have join : im.extractLsb' 32 15 ++ im.extractLsb' 0 32 = im := (append_fields im 0 32 15).trans BitVec.extractLsb'_eq_self
  have flag : (bit f).getLsbD 0 = f := by revert f; decide
  refine readsBack_long rfl (low_field _ _) ?_
  simp (disch := decide) only [word0Assigned, decode64, BitVec.extractLsb'_append_eq_of_le, BitVec.extractLsb'_append_eq_of_add_le, Nat.reduceSub,
    BitVec.extractLsb'_eq_self, BitVec.reduceToNat, BitVec.getLsbD_append, Nat.reduceLT, if_true, if_false, flag, join]
  exact ⟨rfl, fun hw => accept_of rfl hw⟩

theorem long_readsBack (d a b c : Reg) (t k g : BitVec 2) (tm : BitVec 4) (f f1 f2 : Bool) (rm ch : BitVec 3) (fA fB xk xc : BitVec 5) (req : BitVec 20) :
    ∀ i ∈ [Instr.macq d f t, .mrel tm, .mzero tm f, .macc t a b f f1 f2 k g fA fB xk xc, .maccs t a b f f1 f2 k g fA fB xk xc c, .mldc d a b c f fA,
      .mdrain t a k rm g f f1 fA xk xc, .mdrainx t tm ch rm k f fA xk xc, .mtrd d t a, .mchk d t a k, .vsetli d a req], ReadsBack i := by
  have flag : ∀ b : Bool, (bit b).getLsbD 0 = b := by decide
  simp only [List.forall_mem_cons, List.not_mem_nil, false_implies, implies_true, and_true]
  and_intros
  all_goals
    refine readsBack_long rfl (low_field _ _) ?_
    simp (disch := decide) only [word0Assigned, decode64, BitVec.extractLsb'_append_eq_of_le, BitVec.extractLsb'_append_eq_of_add_le, Nat.reduceSub,
      BitVec.extractLsb'_eq_self, BitVec.reduceToNat, BitVec.getLsbD_append, Nat.reduceLT, if_true, if_false, flag]
    exact ⟨rfl, fun hw => accept_of rfl hw⟩

theorem half_readsBack (d a : Reg) (e g : BitVec 3) (k : BitVec 5) (u : BitVec 6) (o : BitVec 8) (j : BitVec 11) (f : Bool) :
    ∀ i ∈ [Instr.cLd e g k, .cSd e g k, .cLw e g k, .cSw e g k, .cAddi4sp e o, .cAddi d u, .cLi d u, .cMv d a, .cAdd d a, .cSub d a, .cAnd d a, .cSlli d u,
      .cSrli d u, .cJ j, .cBeqz e o, .cBnez e o, .cJr a, .cNop, .cStrip d f], ReadsBack i := by
  have join : u.extractLsb' 5 1 ++ u.extractLsb' 0 5 = u := (append_fields u 0 5 1).trans BitVec.extractLsb'_eq_self
  have flag : (bit f).getLsbD 0 = f := by revert f; decide
  simp only [List.forall_mem_cons, List.not_mem_nil, false_implies, implies_true, and_true]
  and_intros
  all_goals
    refine readsBack_half rfl (by rw [low_field]; decide) fun hw => ?_
    simp (disch := decide) only [decode16, BitVec.extractLsb'_append_eq_of_le, BitVec.extractLsb'_append_eq_of_add_le, Nat.reduceSub,
      BitVec.extractLsb'_eq_self, BitVec.reduceToNat, BitVec.getLsbD_append, Nat.reduceLT, if_true, if_false, flag, join]
    exact accept_of rfl hw

/-- Every instruction is read back from its code: class by class; a step has none. -/
theorem readsBack (i : Instr) : ReadsBack i := by
  cases i with
  | add d a b | sub d a b | and d a b | or d a b | xor d a b | andn d a b | sll d a b | srl d a b | sra d a b | rotl d a b | slt d a b | sltu d a b
  | min d a b | max d a b | minu d a b | maxu d a b | mul d a b | mulh d a b | mulhu d a b | div d a b | divu d a b | rem d a b | remu d a b
  | csel d a b => exact intR_readsBack d a b 0 _ (by simp)
  | clz d a | ctz d a | popc d a | bswap d a => exact intR_readsBack d a 0 0 _ (by simp)
  | sext d a w | zext d a w => exact intR_readsBack d a 0 w _ (by simp)
  | addi d a im | andi d a im | ori d a im | xori d a im | slti d a im | sltiu d a im => exact intI_readsBack d a im 0 _ (by simp)
  | slli d a sh | srli d a sh | srai d a sh => exact intI_readsBack d a 0 sh _ (by simp)
  | lih d im | pcadd d im | jmpl d im => exact immediate18_readsBack d im _ (by simp)
  | lb d a im | lbu d a im | lh d a im | lhu d a im | lw d a im | lwu d a im | ld d a im => exact load_readsBack d a im 0 0 _ (by simp)
  | lda d a sc j => exact load_readsBack d a 0 sc j _ (by simp)
  | sb a b im | sh a b im | sw a b im | sd a b im => exact store_readsBack a b im 0 0 _ (by simp)
  | sdrel a b sc j => exact store_readsBack a b 0 sc j _ (by simp)
  | amoadd d a b w o | amoand d a b w o | amoor d a b w o | amoxor d a b w o | amomin d a b w o | amomax d a b w o | amominu d a b w o
  | amomaxu d a b w o | amoswap d a b w o | amocas d a b w o => exact amo_readsBack d a b w o false _ (by simp)
  | amofadd d a b half o => exact amo_readsBack d a b 0 o half _ (by simp)
  | beq a b o | bne a b o | blt a b o | bge a b o | bltu a b o | bgeu a b o | jmpr a b o => exact branch_readsBack a b 0 o _ (by simp)
  | bse n o => exact branch_readsBack 0 0 n o _ (by simp)
  | bmany a o | bmnone a o => exact branch_readsBack a 0 0 o _ (by simp)
  | nop | tret | brk | keyclr | yield | halt => exact sys_readsBack 0 0 0 _ (by simp)
  | srd d n | swr d n | srset d n | srclr d n => exact sys_readsBack d 0 n _ (by simp)
  | trap n => exact sys_readsBack 0 0 n _ (by simp)
  | wfe d a | farm d a | fjoin d a => exact sys_readsBack d a 0 _ (by simp)
  | notify a => exact sys_readsBack 0 a 0 _ (by simp)
  | keyset a k => exact flagged_sys_readsBack 0 a false k _ (by simp)
  | strip d f => exact flagged_sys_readsBack d 0 f 0 _ (by simp)
  | tlbinv a f k => exact flagged_sys_readsBack 0 a f k _ (by simp)
  | cinv f => exact flagged_sys_readsBack 0 0 f 0 _ (by simp)
  | cflush a f => exact flagged_sys_readsBack 0 a f 0 _ (by simp)
  | fence f t ack rel acq sc => exact fence_readsBack f t ack rel acq sc
  | hint h d a im => exact hint_readsBack h d a im
  | fadd d a b rm f | fsub d a b rm f | fmul d a b rm f | fdiv d a b rm f | fmin d a b rm f | fmax d a b rm f | fma d a b rm f | fms d a b rm f
  | fnma d a b rm f | fcmp d a b rm f | fsgnj d a b rm f => exact fp_readsBack d a b rm f _ (by simp)
  | fsqrt d a rm f | fcvt d a rm f => exact fp_readsBack d a 0 rm f _ (by simp)
  | fclass d a f => exact fp_readsBack d a 0 0 f _ (by simp)
  | vsetl d a u => exact vectorMemory_readsBack d a 0 0 false false u _ (by simp)
  | vld d a b m ff nt u | vlds d a b m ff nt u | vldx d a b m ff nt u | vldseg d a b m ff nt u | vgathx d a b m ff nt u => exact vectorMemory_readsBack d a b m ff nt u _ (by simp)
  | vst d a b m nt u | vsts d a b m nt u | vstx d a b m nt u | vstseg d a b m nt u | vscatx d a b m nt u => exact vectorMemory_readsBack d a b m false nt u _ (by simp)
  | vsend d a m nt u => exact vectorMemory_readsBack d a 0 m false nt u _ (by simp)
  | vmv d a m | vsplat d a m | vid d a m | viota d a m | vcompress d a m | mpopc d a m | mfirst d a m | mlast d a m | vcmd d a m => exact vectorMove_readsBack d a 0 m false _ (by simp)
  | vmvr d a b m ins | vmvc d a b m ins => exact vectorMove_readsBack d a b m ins _ (by simp)
  | vext d a b ins => exact vectorMove_readsBack d a b 0 ins _ (by simp)
  | vretag d => exact vectorMove_readsBack d 0 0 0 false _ (by simp)
  | vrelease d f => exact vectorMove_readsBack d 0 0 0 f _ (by simp)
  | vslideup d a b m | vslidedn d a b m | vperm d a b m => exact vectorMove_readsBack d a b m false _ (by simp)
  | mand d a b | mor d a b | mxor d a b | mandn d a b => exact maskLogic_readsBack d a b false _ (by simp)
  | mnot d a | mmv d a | mld d a | mst d a => exact maskLogic_readsBack d a 0 false _ (by simp)
  | mshl d a b im | mshr d a b im => exact maskLogic_readsBack d a b im _ (by simp)
  | mset d | mclr d => exact maskLogic_readsBack d 0 0 false _ (by simp)
  | vbind n a b => exact stream_readsBack n 0 a b 0 false 0 0 _ (by simp)
  | vunbind n a => exact stream_readsBack n 0 a 0 0 false 0 0 _ (by simp)
  | vwait d a b m w c => exact stream_readsBack 0 d a b m w c 0 _ (by simp)
  | vamo d a b m p => exact stream_readsBack 0 d a b m false 0 p _ (by simp)
  | vadd d a b m n s x | vsub d a b m n s x | vmul d a b m n s x | vmulh d a b m n s x | vdiv d a b m n s x | vrem d a b m n s x | vmin d a b m n s x
  | vmax d a b m n s x | vadc d a b m n s x | vsbc d a b m n s x | vredmax d a b m n s x | vredmin d a b m n s x => exact vectorInteger_readsBack d a b m n s x 0 _ (by simp)
  | vand d a b m n x | vor d a b m n x | vxor d a b m n x | vsll d a b m n x | vsrl d a b m n x | vsra d a b m n x | vmerge d a b m n x
  | vredos d a b m n x | vredsum d a b m n x | vredand d a b m n x | vredor d a b m n x | vredxor d a b m n x | vqscale d a b m n x => exact vectorInteger_readsBack d a b m n false x 0 _ (by simp)
  | vcmp d a b m c => exact vectorInteger_readsBack d a b m false false false c _ (by simp)
  | vabs d a m n s => exact vectorInteger_readsBack d a 0 m n s false 0 _ (by simp)
  | vfadd d a b m n x | vfsub d a b m n x | vfmul d a b m n x | vfdiv d a b m n x | vfma d a b m n x | vfms d a b m n x | vfnma d a b m n x
  | vfmin d a b m n x | vfmax d a b m n x => exact vectorFloat_readsBack d a b m n false x 0 _ (by simp)
  | vfcmp d a b m c => exact vectorFloat_readsBack d a b m false false false c _ (by simp)
  | vfsqrt d a m n | vfclass d a m n | vfexp d a m n | vflog d a m n | vfrcp d a m n | vfrsq d a m n | vftanh d a m n => exact vectorFloat_readsBack d a 0 m n false false 0 _ (by simp)
  | vcvt d a b m n s | vcvti d a b m n s => exact vectorFloat_readsBack d a b m n s false 0 _ (by simp)
  | vcvtf4 d a b m n => exact vectorFloat_readsBack d a b m n false false 0 _ (by simp)
  | macq d f t => exact long_readsBack d 0 0 0 t 0 0 0 f false false 0 0 0 0 0 0 0 _ (by simp)
  | mrel tm => exact long_readsBack 0 0 0 0 0 0 0 tm false false false 0 0 0 0 0 0 0 _ (by simp)
  | mzero tm f => exact long_readsBack 0 0 0 0 0 0 0 tm f false false 0 0 0 0 0 0 0 _ (by simp)
  | macc t a b f f1 f2 k g fA fB xk xc => exact long_readsBack 0 a b 0 t k g 0 f f1 f2 0 0 fA fB xk xc 0 _ (by simp)
  | maccs t a b f f1 f2 k g fA fB xk xc c => exact long_readsBack 0 a b c t k g 0 f f1 f2 0 0 fA fB xk xc 0 _ (by simp)
  | mldc d a b c f fA => exact long_readsBack d a b c 0 0 0 0 f false false 0 0 fA 0 0 0 0 _ (by simp)
  | mdrain t a k rm g f f1 fA xk xc => exact long_readsBack 0 a 0 0 t k g 0 f f1 false rm 0 fA 0 xk xc 0 _ (by simp)
  | mdrainx t tm ch rm k f fA xk xc => exact long_readsBack 0 0 0 0 t k 0 tm f false false rm ch fA 0 xk xc 0 _ (by simp)
  | mtrd d t a => exact long_readsBack d a 0 0 t 0 0 0 false false false 0 0 0 0 0 0 0 _ (by simp)
  | mchk d t a k => exact long_readsBack d a 0 0 t k 0 0 false false false 0 0 0 0 0 0 0 _ (by simp)
  | vsetli d a req => exact long_readsBack d a 0 0 0 0 0 0 false false false 0 0 0 0 0 0 req _ (by simp)
  | li64 d f im => exact li64_readsBack d f im
  | cLd e g k | cSd e g k | cLw e g k | cSw e g k => exact half_readsBack 0 0 e g k 0 0 0 false _ (by simp)
  | cAddi4sp e o => exact half_readsBack 0 0 e 0 0 0 o 0 false _ (by simp)
  | cAddi d u | cLi d u | cSlli d u | cSrli d u => exact half_readsBack d 0 0 0 0 u 0 0 false _ (by simp)
  | cMv d a | cAdd d a | cSub d a | cAnd d a => exact half_readsBack d a 0 0 0 0 0 0 false _ (by simp)
  | cJ j => exact half_readsBack 0 0 0 0 0 0 0 j false _ (by simp)
  | cBeqz e o | cBnez e o => exact half_readsBack 0 0 e 0 0 0 o 0 false _ (by simp)
  | cJr a => exact half_readsBack 0 a 0 0 0 0 0 0 false _ (by simp)
  | cNop => exact half_readsBack 0 0 0 0 0 0 0 0 false _ (by simp)
  | cStrip d f => exact half_readsBack d 0 0 0 0 0 0 0 f _ (by simp)
  | _ => rintro c ⟨⟩

theorem encodeDecodeRoundTrip : Claim.EncodeDecodeRoundTrip := by
  intro i c rest he hw
  obtain ⟨hf, hd⟩ := readsBack i c he hw
  rw [decode_bytes hf, hd]
  rfl

open Layout

/-! ## Whatever decodes is legal and encodes back -/

/-- Two adjacent fields of a word determine the field they make up. -/
theorem fields_eq {n k : Nat} (lo j : Nat) {x : BitVec n} {y : BitVec k} {z : BitVec j} (hy : x.extractLsb' (lo + j) k = y) (hz : x.extractLsb' lo j = z) :
    x.extractLsb' lo (k + j) = y ++ z := by rw [← hy, ← hz, append_fields]

theorem eq_rWord {w : BitVec 32} (h2 : w.extractLsb' 0 2 = 3) :
    w = rWord (w.extractLsb' 26 6) (w.extractLsb' 21 5) (w.extractLsb' 16 5) (w.extractLsb' 11 5) (w.extractLsb' 5 6) (w.extractLsb' 2 3) := by
  rw [rWord, show w.extractLsb' 26 6 ++ w.extractLsb' 21 5 = w.extractLsb' 21 11 from append_fields w 21 5 6]
  rw [show w.extractLsb' 21 11 ++ w.extractLsb' 16 5 = w.extractLsb' 16 16 from append_fields w 16 5 11]
  rw [show w.extractLsb' 16 16 ++ w.extractLsb' 11 5 = w.extractLsb' 11 21 from append_fields w 11 5 16]
  rw [show w.extractLsb' 11 21 ++ w.extractLsb' 5 6 = w.extractLsb' 5 27 from append_fields w 5 6 21]
  rw [show w.extractLsb' 5 27 ++ w.extractLsb' 2 3 = w.extractLsb' 2 30 from append_fields w 2 3 27]
  exact BitVec.extractLsb'_eq_self.symm.trans (fields_eq 0 2 rfl h2)

/-- What decodes is legal and has the code it came from. -/
def Encodes (c : Code) (e : Except Reject Instr) : Prop := ∀ i, e = .ok i → wellFormed i = true ∧ encode i = some c

theorem encodes_error (c : Code) (r : Reject) : Encodes c (.error r) := fun _ h => nomatch h

theorem encodes_accept {c : Code} {z : Bool} {i : Instr} (h : z = true → encode i = some c) : Encodes c (accept z i) := by
  intro j hj
  obtain ⟨hz, hw, rfl⟩ := accept_eq_ok.1 hj
  exact ⟨hw, h hz⟩

theorem eq_ofNat_of_toNat {n k : Nat} {x : BitVec n} (h : x.toNat = k) : x = BitVec.ofNat n k := by rw [← h, BitVec.ofNat_toNat, BitVec.setWidth_eq]

theorem intR_encodes {w : BitVec 32} (h2 : w.extractLsb' 0 2 = 3) (hc : w.extractLsb' 2 3 = 0) : Encodes (.word w) (decodeIntR w) := by
  unfold decodeIntR
  dsimp only
  split
  case h_31 => exact encodes_error _ _
  all_goals
    rename_i hop
    refine encodes_accept fun hz => ?_
    simp only [Bool.and_eq_true, beq_iff_eq] at hz
    conv_rhs => rw [eq_rWord h2, hc, eq_ofNat_of_toNat hop]
  case h_27 | h_28 =>
    rw [show w.extractLsb' 5 6 = 0#4 ++ w.extractLsb' 5 2 from fields_eq 5 2 hz.1 rfl, hz.2]
    rfl
  all_goals
    simp only [hz]
    rfl

theorem eq_iWord {w : BitVec 32} (h2 : w.extractLsb' 0 2 = 3) :
    w = iWord (w.extractLsb' 28 4) (w.extractLsb' 23 5) (w.extractLsb' 18 5) (w.extractLsb' 5 13) (w.extractLsb' 2 3) := by
  rw [iWord, show w.extractLsb' 28 4 ++ w.extractLsb' 23 5 = w.extractLsb' 23 9 from append_fields w 23 5 4]
  rw [show w.extractLsb' 23 9 ++ w.extractLsb' 18 5 = w.extractLsb' 18 14 from append_fields w 18 5 9]
  rw [show w.extractLsb' 18 14 ++ w.extractLsb' 5 13 = w.extractLsb' 5 27 from append_fields w 5 13 14]
  rw [show w.extractLsb' 5 27 ++ w.extractLsb' 2 3 = w.extractLsb' 2 30 from append_fields w 2 3 27]
  exact BitVec.extractLsb'_eq_self.symm.trans (fields_eq 0 2 rfl h2)

theorem eq_uWord {w : BitVec 32} (h2 : w.extractLsb' 0 2 = 3) :
    w = uWord (w.extractLsb' 28 4) (w.extractLsb' 23 5) (w.extractLsb' 5 18) (w.extractLsb' 2 3) := by
  rw [uWord, show w.extractLsb' 28 4 ++ w.extractLsb' 23 5 = w.extractLsb' 23 9 from append_fields w 23 5 4]
  rw [show w.extractLsb' 23 9 ++ w.extractLsb' 5 18 = w.extractLsb' 5 27 from append_fields w 5 18 9]
  rw [show w.extractLsb' 5 27 ++ w.extractLsb' 2 3 = w.extractLsb' 2 30 from append_fields w 2 3 27]
  exact BitVec.extractLsb'_eq_self.symm.trans (fields_eq 0 2 rfl h2)

theorem eq_sWord {w : BitVec 32} (h5 : w.extractLsb' 0 5 = 2#3 ++ 3#2) :
    w = sWord (w.extractLsb' 28 4) (w.extractLsb' 23 5) (w.extractLsb' 18 5) (w.extractLsb' 13 5) (w.extractLsb' 5 8) := by
  rw [sWord, show w.extractLsb' 28 4 ++ w.extractLsb' 23 5 = w.extractLsb' 23 9 from append_fields w 23 5 4]
  rw [show w.extractLsb' 23 9 ++ w.extractLsb' 18 5 = w.extractLsb' 18 14 from append_fields w 18 5 9]
  rw [show w.extractLsb' 18 14 ++ w.extractLsb' 13 5 = w.extractLsb' 13 19 from append_fields w 13 5 14]
  rw [show w.extractLsb' 13 19 ++ w.extractLsb' 5 8 = w.extractLsb' 5 27 from append_fields w 5 8 19]
  have h : w.extractLsb' 0 (27 + 5) = w.extractLsb' 5 27 ++ (2#3 ++ 3#2) := fields_eq 0 5 rfl h5
  exact BitVec.extractLsb'_eq_self.symm.trans (h.trans (BitVec.append_assoc' ..))

theorem intI_encodes {w : BitVec 32} (h2 : w.extractLsb' 0 2 = 3) (hc : w.extractLsb' 2 3 = 1) : Encodes (.word w) (decodeIntI w) := by
  have wide : w.extractLsb' 11 7 = 0 → w.extractLsb' 5 13 = 0#7 ++ w.extractLsb' 5 6 := fun h => fields_eq 5 6 h rfl
  unfold decodeIntI
  dsimp only
  split
  case h_12 => exact encodes_error _ _
  all_goals
    rename_i hop
    refine encodes_accept fun hz => ?_
  case h_10 | h_11 => 
    conv_rhs => rw [eq_uWord h2, hc, eq_ofNat_of_toNat hop]
    rfl
  case h_7 | h_8 | h_9 => 
    conv_rhs => rw [eq_iWord h2, hc, eq_ofNat_of_toNat hop, wide (eq_of_beq hz)]
    rfl
  all_goals
    conv_rhs => rw [eq_iWord h2, hc, eq_ofNat_of_toNat hop]
    rfl


theorem eq_amoWord {w : BitVec 32} (h5 : w.extractLsb' 0 5 = 2#3 ++ 3#2) (h15 : w.extractLsb' 28 4 = 15) :
    w = amoWord (w.extractLsb' 9 4) (w.extractLsb' 23 5) (w.extractLsb' 18 5) (w.extractLsb' 13 5) (w.extractLsb' 7 2) (w.extractLsb' 5 2) := by
  rw [amoWord, show 15#4 ++ w.extractLsb' 23 5 = w.extractLsb' 23 9 from (fields_eq 23 5 h15 rfl).symm]
  rw [show w.extractLsb' 23 9 ++ w.extractLsb' 18 5 = w.extractLsb' 18 14 from append_fields w 18 5 9]
  rw [show w.extractLsb' 18 14 ++ w.extractLsb' 13 5 = w.extractLsb' 13 19 from append_fields w 13 5 14]
  rw [show w.extractLsb' 13 19 ++ w.extractLsb' 9 4 = w.extractLsb' 9 23 from append_fields w 9 4 19]
  rw [show w.extractLsb' 9 23 ++ w.extractLsb' 7 2 = w.extractLsb' 7 25 from append_fields w 7 2 23]
  rw [show w.extractLsb' 7 25 ++ w.extractLsb' 5 2 = w.extractLsb' 5 27 from append_fields w 5 2 25]
  have h : w.extractLsb' 0 (27 + 5) = w.extractLsb' 5 27 ++ (2#3 ++ 3#2) := fields_eq 0 5 rfl h5
  exact BitVec.extractLsb'_eq_self.symm.trans (h.trans (BitVec.append_assoc' ..))

theorem eq_sysWord {w : BitVec 32} (h5 : w.extractLsb' 0 5 = 3#3 ++ 3#2) (h15 : w.extractLsb' 28 4 = 15) :
    w = sysWord (w.extractLsb' 22 6) (w.extractLsb' 17 5) (w.extractLsb' 12 5) (w.extractLsb' 5 7) := by
  rw [sysWord, show 15#4 ++ w.extractLsb' 22 6 = w.extractLsb' 22 10 from (fields_eq 22 6 h15 rfl).symm]
  rw [show w.extractLsb' 22 10 ++ w.extractLsb' 17 5 = w.extractLsb' 17 15 from append_fields w 17 5 10]
  rw [show w.extractLsb' 17 15 ++ w.extractLsb' 12 5 = w.extractLsb' 12 20 from append_fields w 12 5 15]
  rw [show w.extractLsb' 12 20 ++ w.extractLsb' 5 7 = w.extractLsb' 5 27 from append_fields w 5 7 20]
  have h : w.extractLsb' 0 (27 + 5) = w.extractLsb' 5 27 ++ (3#3 ++ 3#2) := fields_eq 0 5 rfl h5
  exact BitVec.extractLsb'_eq_self.symm.trans (h.trans (BitVec.append_assoc' ..))

theorem eq_vWord {w : BitVec 32} (h2 : w.extractLsb' 0 2 = 3) :
    w = vWord (w.extractLsb' 26 6) (w.extractLsb' 21 5) (w.extractLsb' 16 5) (w.extractLsb' 11 5) (w.extractLsb' 8 3) (w.extractLsb' 5 3) (w.extractLsb' 2 3) := by
  rw [vWord, show w.extractLsb' 26 6 ++ w.extractLsb' 21 5 = w.extractLsb' 21 11 from append_fields w 21 5 6]
  rw [show w.extractLsb' 21 11 ++ w.extractLsb' 16 5 = w.extractLsb' 16 16 from append_fields w 16 5 11]
  rw [show w.extractLsb' 16 16 ++ w.extractLsb' 11 5 = w.extractLsb' 11 21 from append_fields w 11 5 16]
  rw [show w.extractLsb' 11 21 ++ w.extractLsb' 8 3 = w.extractLsb' 8 24 from append_fields w 8 3 21]
  rw [show w.extractLsb' 8 24 ++ w.extractLsb' 5 3 = w.extractLsb' 5 27 from append_fields w 5 3 24]
  rw [show w.extractLsb' 5 27 ++ w.extractLsb' 2 3 = w.extractLsb' 2 30 from append_fields w 2 3 27]
  exact BitVec.extractLsb'_eq_self.symm.trans (fields_eq 0 2 rfl h2)

theorem eq_bit {n : Nat} {w : BitVec n} {k : Nat} : w.extractLsb' k 1 = bit (w.getLsbD k) := by
  ext i hi
  obtain rfl : i = 0 := by omega
  simp [bit]

theorem amo_encodes {w : BitVec 32} (h5 : w.extractLsb' 0 5 = 2#3 ++ 3#2) (h15 : w.extractLsb' 28 4 = 15) : Encodes (.word w) (decodeAmo w) := by
  have half : (!w.getLsbD 7) = true → w.extractLsb' 7 2 = bit (w.getLsbD 8) ++ 0#1 := fun h =>
    fields_eq 7 1 eq_bit (eq_bit.trans (congrArg bit (by simpa using h)))
  unfold decodeAmo
  dsimp only
  split
  case h_12 => exact encodes_error _ _
  all_goals
    rename_i hop
    refine encodes_accept fun hz => ?_
    conv_rhs => rw [eq_amoWord h5 h15, eq_ofNat_of_toNat hop]
  case h_11 =>
    rw [half hz]
    rfl
  all_goals rfl

theorem s_append (op : BitVec 4) (a b hi : Reg) (lo : BitVec 8) : Layout.s op a b (hi ++ lo) = .word (sWord op hi a b lo) := by
  have high : (hi ++ lo).extractLsb' 8 5 = hi := BitVec.extractLsb'_append_eq_left
  have low : (hi ++ lo).extractLsb' 0 8 = lo := BitVec.extractLsb'_append_eq_right
  rw [Layout.s, high, low, sWord]

theorem mem_encodes {w : BitVec 32} (h2 : w.extractLsb' 0 2 = 3) (hc : w.extractLsb' 2 3 = 2) : Encodes (.word w) (decodeMem w) := by
  have h5 : w.extractLsb' 0 5 = 2#3 ++ 3#2 := fields_eq 0 2 hc h2
  have acquire : w.extractLsb' 5 13 = w.extractLsb' 15 3 ++ w.extractLsb' 5 10 := fields_eq 5 10 rfl rfl
  have scope : w.extractLsb' 25 3 ++ (w.extractLsb' 23 2 ++ w.extractLsb' 5 8) = w.extractLsb' 23 5 ++ w.extractLsb' 5 8 :=
    (BitVec.append_assoc' ..).trans (congrArg (· ++ w.extractLsb' 5 8) (append_fields w 23 2 3))
  unfold decodeMem
  dsimp only
  split
  case h_15 => exact encodes_error _ _
  case h_14 hop => exact amo_encodes h5 (eq_ofNat_of_toNat hop)
  all_goals
    rename_i hop
    refine encodes_accept fun hz => ?_
  case h_8 =>
    conv_rhs => rw [eq_iWord h2, hc, eq_ofNat_of_toNat hop, acquire]
    rfl
  case h_9 | h_10 | h_11 | h_12 =>
    conv_rhs => rw [eq_sWord h5, eq_ofNat_of_toNat hop]
    exact congrArg some (s_append ..)
  case h_13 =>
    conv_rhs => rw [eq_sWord h5, eq_ofNat_of_toNat hop]
    exact congrArg some ((congrArg (Layout.s 12 _ _) scope).trans (s_append ..))
  all_goals
    conv_rhs => rw [eq_iWord h2, hc, eq_ofNat_of_toNat hop]
    rfl


theorem sys_encodes {w : BitVec 32} (h5 : w.extractLsb' 0 5 = 3#3 ++ 3#2) (h15 : w.extractLsb' 28 4 = 15) : Encodes (.word w) (decodeSys w) := by
  have high : (w.extractLsb' 5 12).extractLsb' 7 5 = w.extractLsb' 12 5 := (subfield (x := w) rfl 7 5 (by decide)).symm
  have low : (w.extractLsb' 5 12).extractLsb' 0 7 = w.extractLsb' 5 7 := (subfield (x := w) rfl 0 7 (by decide)).symm
  have hint : ∀ {x : BitVec 6}, 48 ≤ x.toNat → x = 3#2 ++ x.extractLsb' 0 4 := by decide
  unfold decodeSys
  dsimp only
  split
  case h_22 =>
    split
    next hs =>
      refine encodes_accept fun _ => ?_
      conv_rhs => rw [eq_sysWord h5 h15, hint hs, ← subfield (x := w) rfl 0 4 (by decide)]
      rfl
    next => exact encodes_error _ _
  all_goals
    rename_i hop
    refine encodes_accept fun hz => ?_
    conv_rhs => rw [eq_sysWord h5 h15, eq_ofNat_of_toNat hop]
  case h_2 =>
    have top : w.extractLsb' 11 1 = 0#1 := eq_bit.trans (congrArg bit (by simpa using hz))
    have fields : w.extractLsb' 5 7 = 0#1 ++ bit (w.getLsbD 10) ++ bit (w.getLsbD 9) ++ bit (w.getLsbD 8) ++ w.extractLsb' 5 3 :=
      fields_eq 5 3 (fields_eq 8 1 (fields_eq 9 1 (fields_eq 10 1 top eq_bit) eq_bit) eq_bit) rfl
    rw [fields]
    rfl
  all_goals simp only [Bool.and_eq_true, beq_iff_eq] at hz
  case h_3 | h_4 | h_5 | h_6 => 
    rw [← high, ← low]
    rfl
  case h_7 =>
    rw [← high, ← low, hz]
    rfl
  case h_11 => -- keyset
    rw [show w.extractLsb' 5 7 = 0#5 ++ w.extractLsb' 5 2 from fields_eq 5 2 hz.2 rfl, hz.1]
    rfl
  case h_14 => -- strip
    rw [show w.extractLsb' 5 7 = 0#6 ++ bit (w.getLsbD 5) from fields_eq 5 1 hz.2 eq_bit, hz.1]
    rfl
  case h_18 => -- tlbinv
    rw [show w.extractLsb' 5 7 = 0#4 ++ bit (w.getLsbD 7) ++ w.extractLsb' 5 2 from fields_eq 5 2 (fields_eq 7 1 hz.2 eq_bit) rfl, hz.1]
    rfl
  case h_19 => -- cinv
    rw [show w.extractLsb' 5 7 = 0#6 ++ bit (w.getLsbD 5) from fields_eq 5 1 hz.2 eq_bit, hz.1.1, hz.1.2]
    rfl
  case h_20 => -- cflush
    rw [show w.extractLsb' 5 7 = 0#6 ++ bit (w.getLsbD 5) from fields_eq 5 1 hz.2 eq_bit, hz.1]
    rfl
  all_goals
    simp only [hz]
    rfl


theorem ctrl_encodes {w : BitVec 32} (h2 : w.extractLsb' 0 2 = 3) (hc : w.extractLsb' 2 3 = 3) : Encodes (.word w) (decodeCtrl w) := by
  have h5 : w.extractLsb' 0 5 = 3#3 ++ 3#2 := fields_eq 0 2 hc h2
  unfold decodeCtrl
  dsimp only
  split
  case h_13 => exact encodes_error _ _
  case h_12 hop => exact sys_encodes h5 (eq_ofNat_of_toNat hop)
  case h_9 hop =>
    split
    next h3 =>
      refine encodes_accept fun hz => ?_
      have fields : w.extractLsb' 23 5 = 3#2 ++ w.extractLsb' 23 3 := fields_eq 23 3 h3 rfl
      conv_rhs => rw [eq_iWord h2, hc, eq_ofNat_of_toNat hop, fields, eq_of_beq hz]
      rfl
    next => exact encodes_error _ _
  all_goals
    rename_i hop
    refine encodes_accept fun hz => ?_
  case h_7 =>
    conv_rhs => rw [eq_uWord h2, hc, eq_ofNat_of_toNat hop]
    rfl
  case h_10 | h_11 =>
    conv_rhs => rw [eq_iWord h2, hc, eq_ofNat_of_toNat hop, eq_of_beq hz]
    rfl
  all_goals
    conv_rhs => rw [eq_iWord h2, hc, eq_ofNat_of_toNat hop]
    rfl

theorem fp_encodes {w : BitVec 32} (h2 : w.extractLsb' 0 2 = 3) (hc : w.extractLsb' 2 3 = 4) : Encodes (.word w) (decodeFp w) := by
  have wide : w.getLsbD 10 = false → w.extractLsb' 5 6 = 0#1 ++ w.extractLsb' 7 3 ++ w.extractLsb' 5 2 := fun h =>
    fields_eq 5 2 (fields_eq 7 3 (eq_bit.trans (congrArg bit h)) rfl) rfl
  unfold decodeFp
  dsimp only
  split
  case h_15 => exact encodes_error _ _
  all_goals
    rename_i hop
    refine encodes_accept fun hz => ?_
    simp only [Bool.and_eq_true, beq_iff_eq, Bool.not_eq_true'] at hz
    conv_rhs => rw [eq_rWord h2, hc, eq_ofNat_of_toNat hop]
  case h_5 | h_14 =>
    rw [wide hz.1, hz.2]
    rfl
  case h_12 =>
    rw [wide hz.1.1, hz.1.2, hz.2]
    rfl
  all_goals
    rw [wide hz]
    rfl

/-- mod3 from its bits. -/
theorem eq_m3 (w : BitVec 32) : w.extractLsb' 5 3 = m3 (w.getLsbD 7) (w.getLsbD 6) (w.getLsbD 5) :=
  fields_eq 5 1 (fields_eq 6 1 eq_bit eq_bit) eq_bit

theorem vecM_encodes {w : BitVec 32} (h2 : w.extractLsb' 0 2 = 3) (hc : w.extractLsb' 2 3 = 5) : Encodes (.word w) (decodeVecM w) := by
  unfold decodeVecM
  dsimp only
  split
  case h_46 => exact encodes_error _ _
  case h_10 hop | h_11 hop =>
    split
    next h3 =>
      refine encodes_accept fun hz => ?_
      have fields : w.extractLsb' 21 5 = 3#2 ++ w.extractLsb' 21 3 := fields_eq 21 3 h3 rfl
      simp only [Bool.and_eq_true, beq_iff_eq, Bool.not_eq_true'] at hz
      conv_rhs => rw [eq_vWord h2, hc, eq_ofNat_of_toNat hop, fields, eq_m3]
      simp only [hz]
      rfl
    next => exact encodes_error _ _
  all_goals
    rename_i hop
    refine encodes_accept fun hz => ?_
    simp only [Bool.and_eq_true, beq_iff_eq, Bool.not_eq_true'] at hz
  case h_45 =>
    conv_rhs => rw [eq_vWord h2, hc, eq_ofNat_of_toNat hop]
    rfl
  case h_40 =>
    conv_rhs => rw [eq_vWord h2, hc, eq_ofNat_of_toNat hop, show w.extractLsb' 5 3 = bit (w.getLsbD 7) ++ w.extractLsb' 5 2 from fields_eq 5 2 eq_bit rfl]
    rfl
  all_goals conv_rhs => rw [eq_vWord h2, hc, eq_ofNat_of_toNat hop, eq_m3]
  case h_2 | h_3 | h_4 | h_5 | h_44 => rfl
  all_goals
    simp only [hz]
    rfl

theorem vecA_encodes {w : BitVec 32} (h2 : w.extractLsb' 0 2 = 3) (hc : w.extractLsb' 2 3 = 6) : Encodes (.word w) (decodeVecA w) := by
  unfold decodeVecA
  dsimp only
  split
  case h_48 => exact encodes_error _ _
  all_goals
    rename_i hop
    refine encodes_accept fun hz => ?_
    simp only [Bool.and_eq_true, beq_iff_eq, Bool.not_eq_true'] at hz
  case h_17 | h_30 =>
    conv_rhs => rw [eq_vWord h2, hc, eq_ofNat_of_toNat hop]
    rfl
  all_goals conv_rhs => rw [eq_vWord h2, hc, eq_ofNat_of_toNat hop, eq_m3]
  case h_1 | h_2 | h_3 | h_4 | h_5 | h_6 | h_7 | h_8 | h_15 | h_16 | h_43 | h_44 => rfl
  all_goals
    simp only [hz]
    rfl

theorem decode32_encodes {w : BitVec 32} (h2 : w.extractLsb' 0 2 = 3) : Encodes (.word w) (decode32 w) := by
  unfold decode32
  split
  case h_1 hc => exact intR_encodes h2 (eq_ofNat_of_toNat hc)
  case h_2 hc => exact intI_encodes h2 (eq_ofNat_of_toNat hc)
  case h_3 hc => exact mem_encodes h2 (eq_ofNat_of_toNat hc)
  case h_4 hc => exact ctrl_encodes h2 (eq_ofNat_of_toNat hc)
  case h_5 hc => exact fp_encodes h2 (eq_ofNat_of_toNat hc)
  case h_6 hc => exact vecM_encodes h2 (eq_ofNat_of_toNat hc)
  case h_7 hc => exact vecA_encodes h2 (eq_ofNat_of_toNat hc)
  case h_8 => exact encodes_error _ _


theorem eq_word0 {w : BitVec 32} {y : BitVec 27} (h5 : w.extractLsb' 0 5 = 31) (hy : w.extractLsb' 5 27 = y) : w = y ++ 31#5 :=
  BitVec.extractLsb'_eq_self.symm.trans (fields_eq 0 5 hy h5)

theorem encode_li64 (d : Reg) (f : Bool) (x : BitVec 15) (y : BitVec 32) :
    encode (.li64 d f (x ++ y)) = some (.long (10#6 ++ d ++ bit f ++ x ++ 31#5) y) := by
  have high : (x ++ y).extractLsb' 32 15 = x := BitVec.extractLsb'_append_eq_left
  have low : (x ++ y).extractLsb' 0 32 = y := BitVec.extractLsb'_append_eq_right
  show some (Code.long (10#6 ++ d ++ bit f ++ (x ++ y).extractLsb' 32 15 ++ 31#5) ((x ++ y).extractLsb' 0 32)) = _
  rw [high, low]

theorem decode64_encodes {w0 w1 : BitVec 32} (h5 : w0.extractLsb' 0 5 = 31) : Encodes (.long w0 w1) (decode64 w0 w1) := by
  unfold decode64
  dsimp only
  split
  case h_13 => exact encodes_error _ _
  all_goals
    rename_i hop
    refine encodes_accept fun hz => ?_
    replace hop := eq_ofNat_of_toNat hop
  case h_11 =>
    conv_rhs => rw [eq_word0 h5 (fields_eq 5 15 (fields_eq 20 1 (fields_eq 21 5 hop rfl) eq_bit) rfl)]
    exact encode_li64 ..
  all_goals simp only [Bool.and_eq_true, beq_iff_eq, Bool.not_eq_true'] at hz
  case h_1 =>
    conv_rhs => rw [eq_word0 h5 (fields_eq 5 13 (fields_eq 18 2 (fields_eq 20 1 (fields_eq 21 5 hop rfl) eq_bit) rfl) hz.1), hz.2]
    rfl
  case h_2 =>
    conv_rhs => rw [eq_word0 h5 (fields_eq 5 17 (fields_eq 22 4 hop rfl) hz.1), hz.2]
    rfl
  case h_3 =>
    conv_rhs => rw [eq_word0 h5 (fields_eq 5 16 (fields_eq 21 1 (fields_eq 22 4 hop rfl) eq_bit) hz.1), hz.2]
    rfl
  case h_4 =>
    have word1 := BitVec.extractLsb'_eq_self.symm.trans (fields_eq 0 12 (fields_eq 12 5 (fields_eq 17 5 (fields_eq 22 5 rfl rfl) rfl) rfl) hz.2)
    conv_rhs => rw [eq_word0 h5 (fields_eq 5 2 (fields_eq 7 2 (fields_eq 9 2 (fields_eq 11 1 (fields_eq 12 1 (fields_eq 13 1 (fields_eq 14 5 (fields_eq 19 5 (fields_eq 24 2 hop rfl) rfl) rfl) eq_bit) eq_bit) eq_bit) rfl) rfl) hz.1), word1]
    rfl
  case h_5 =>
    have word1 := BitVec.extractLsb'_eq_self.symm.trans (fields_eq 0 7 (fields_eq 7 5 (fields_eq 12 5 (fields_eq 17 5 (fields_eq 22 5 rfl rfl) rfl) rfl) rfl) hz.2)
    conv_rhs => rw [eq_word0 h5 (fields_eq 5 2 (fields_eq 7 2 (fields_eq 9 2 (fields_eq 11 1 (fields_eq 12 1 (fields_eq 13 1 (fields_eq 14 5 (fields_eq 19 5 (fields_eq 24 2 hop rfl) rfl) rfl) eq_bit) eq_bit) eq_bit) rfl) rfl) hz.1), word1]
    rfl
  case h_6 =>
    have word1 := BitVec.extractLsb'_eq_self.symm.trans (fields_eq 0 27 rfl hz)
    conv_rhs => rw [eq_word0 h5 (fields_eq 5 1 (fields_eq 6 5 (fields_eq 11 5 (fields_eq 16 5 (fields_eq 21 5 hop rfl) rfl) rfl) rfl) eq_bit), word1]
    rfl
  case h_7 =>
    have word1 := BitVec.extractLsb'_eq_self.symm.trans (fields_eq 0 17 (fields_eq 17 5 (fields_eq 22 5 rfl rfl) rfl) hz.2)
    conv_rhs => rw [eq_word0 h5 (fields_eq 5 5 (fields_eq 10 1 (fields_eq 11 1 (fields_eq 12 2 (fields_eq 14 3 (fields_eq 17 2 (fields_eq 19 5 (fields_eq 24 2 hop rfl) rfl) rfl) rfl) rfl) eq_bit) eq_bit) hz.1), word1]
    rfl
  case h_8 =>
    have word1 := BitVec.extractLsb'_eq_self.symm.trans (fields_eq 0 17 (fields_eq 17 5 (fields_eq 22 5 rfl rfl) rfl) hz.2)
    conv_rhs => rw [eq_word0 h5 (fields_eq 5 5 (fields_eq 10 1 (fields_eq 11 1 (fields_eq 12 2 (fields_eq 14 3 (fields_eq 17 3 (fields_eq 20 4 (fields_eq 24 2 hop rfl) rfl) rfl) rfl) rfl) (eq_bit.trans (congrArg bit hz.1.1))) eq_bit) hz.1.2), word1]
    rfl
  case h_9 =>
    conv_rhs => rw [eq_word0 h5 (fields_eq 5 9 (fields_eq 14 5 (fields_eq 19 2 (fields_eq 21 5 hop rfl) rfl) rfl) hz.1), hz.2]
    rfl
  case h_10 =>
    conv_rhs => rw [eq_word0 h5 (fields_eq 5 7 (fields_eq 12 2 (fields_eq 14 5 (fields_eq 19 2 (fields_eq 21 5 hop rfl) rfl) rfl) rfl) hz.1), hz.2]
    rfl
  case h_12 =>
    have word1 := BitVec.extractLsb'_eq_self.symm.trans (fields_eq 0 20 hz.2 rfl)
    conv_rhs => rw [eq_word0 h5 (fields_eq 5 11 (fields_eq 16 5 (fields_eq 21 5 hop rfl) rfl) hz.1), word1]
    rfl

/-- The six-bit immediate of a 16-bit form, taken apart again. -/
theorem immediate6_parts (x : BitVec 1) (y : BitVec 5) : (x ++ y).extractLsb' 5 1 = x ∧ (x ++ y).extractLsb' 0 5 = y :=
  ⟨BitVec.extractLsb'_append_eq_left, BitVec.extractLsb'_append_eq_right⟩

theorem encode_cAddi (d : Reg) (x : BitVec 1) (y : BitVec 5) : encode (.cAddi d (x ++ y)) = some (.half (0#3 ++ x ++ d ++ y ++ 1#2)) := by
  obtain ⟨high, low⟩ := immediate6_parts x y
  show some (Code.half (0#3 ++ (x ++ y).extractLsb' 5 1 ++ d ++ (x ++ y).extractLsb' 0 5 ++ 1#2)) = _
  rw [high, low]

theorem encode_cLi (d : Reg) (x : BitVec 1) (y : BitVec 5) : encode (.cLi d (x ++ y)) = some (.half (1#3 ++ x ++ d ++ y ++ 1#2)) := by
  obtain ⟨high, low⟩ := immediate6_parts x y
  show some (Code.half (1#3 ++ (x ++ y).extractLsb' 5 1 ++ d ++ (x ++ y).extractLsb' 0 5 ++ 1#2)) = _
  rw [high, low]

theorem encode_cSlli (d : Reg) (x : BitVec 1) (y : BitVec 5) : encode (.cSlli d (x ++ y)) = some (.half (6#3 ++ x ++ d ++ y ++ 1#2)) := by
  obtain ⟨high, low⟩ := immediate6_parts x y
  show some (Code.half (6#3 ++ (x ++ y).extractLsb' 5 1 ++ d ++ (x ++ y).extractLsb' 0 5 ++ 1#2)) = _
  rw [high, low]

theorem encode_cSrli (d : Reg) (x : BitVec 1) (y : BitVec 5) : encode (.cSrli d (x ++ y)) = some (.half (7#3 ++ x ++ d ++ y ++ 1#2)) := by
  obtain ⟨high, low⟩ := immediate6_parts x y
  show some (Code.half (7#3 ++ (x ++ y).extractLsb' 5 1 ++ d ++ (x ++ y).extractLsb' 0 5 ++ 1#2)) = _
  rw [high, low]

theorem eq_half {h : BitVec 16} {y : BitVec 14} {l : BitVec 2} (hl : h.extractLsb' 0 2 = l) (hy : h.extractLsb' 2 14 = y) : h = y ++ l :=
  BitVec.extractLsb'_eq_self.symm.trans (fields_eq 0 2 hy hl)

theorem decode16_encodes (h : BitVec 16) : Encodes (.half h) (decode16 h) := by
  unfold decode16
  dsimp only
  split
  case h_20 => exact encodes_error _ _
  all_goals
    rename_i hlow hop
    refine encodes_accept fun hz => ?_
    replace hlow := eq_ofNat_of_toNat hlow
    replace hop := eq_ofNat_of_toNat hop
    simp only [beq_iff_eq] at hz
  case h_1 | h_2 | h_3 | h_4 =>
    conv_rhs => rw [eq_half hlow (fields_eq 2 5 (fields_eq 7 3 (fields_eq 10 3 hop rfl) rfl) rfl)]
    rfl
  case h_5 =>
    conv_rhs => rw [eq_half hlow (fields_eq 2 3 (fields_eq 5 8 hop rfl) rfl)]
    rfl
  case h_6 =>
    conv_rhs => rw [eq_half hlow (fields_eq 2 5 (fields_eq 7 5 (fields_eq 12 1 hop rfl) rfl) rfl)]
    exact encode_cAddi ..
  case h_7 =>
    conv_rhs => rw [eq_half hlow (fields_eq 2 5 (fields_eq 7 5 (fields_eq 12 1 hop rfl) rfl) rfl)]
    exact encode_cLi ..
  case h_12 =>
    conv_rhs => rw [eq_half hlow (fields_eq 2 5 (fields_eq 7 5 (fields_eq 12 1 hop rfl) rfl) rfl)]
    exact encode_cSlli ..
  case h_13 =>
    conv_rhs => rw [eq_half hlow (fields_eq 2 5 (fields_eq 7 5 (fields_eq 12 1 hop rfl) rfl) rfl)]
    exact encode_cSrli ..
  case h_8 | h_9 | h_10 | h_11 =>
    conv_rhs => rw [eq_half hlow (fields_eq 2 5 (fields_eq 7 5 (fields_eq 12 1 hop hz) rfl) rfl)]
    rfl
  case h_14 =>
    conv_rhs => rw [eq_half hlow (fields_eq 2 11 hop rfl)]
    rfl
  case h_15 | h_16 =>
    conv_rhs => rw [eq_half hlow (fields_eq 2 8 (fields_eq 10 3 hop rfl) rfl)]
    rfl
  case h_17 =>
    conv_rhs => rw [eq_half hlow (fields_eq 2 6 (fields_eq 8 5 hop rfl) hz)]
    rfl
  case h_18 =>
    conv_rhs => rw [eq_half hlow (fields_eq 2 11 hop hz)]
    rfl
  case h_19 =>
    conv_rhs => rw [eq_half hlow (fields_eq 2 5 (fields_eq 7 5 (fields_eq 12 1 hop eq_bit) rfl) hz)]
    rfl

/-- Whatever a framed code decodes to is legal and has that code. -/
theorem decoded_encodes {c : Code} (hf : c.framed) : Encodes c c.decoded := by
  cases c with
  | half h => exact decode16_encodes h
  | word w => exact decode32_encodes hf.1
  | long w0 w1 => exact decode64_encodes hf.1

theorem decodedIsWellFormed : Claim.DecodedIsWellFormed := by
  intro bs rest i h
  obtain ⟨c, hf, hb, hd⟩ := decode_reads_framed h
  obtain ⟨hw, he⟩ := decoded_encodes hf i hd
  exact ⟨hw, c, he, hb⟩

/-- Settles O3: a code is read back from its bytes (`decode_bytes`, `readsBack`), and what the decoder reads is the code it came from (`decode_reads_framed`,
`decoded_encodes`). -/
theorem decodeEncodeAgree : Obligations.DecodeEncodeAgree := ⟨encodeDecodeRoundTrip, decodedIsWellFormed⟩

end Sys2Proof

namespace Sys2Proof.Machine
/-! ## Immediate integers, 16-bit forms, jumps and other branches (R84, R99, R107 to R109, R148) -/

open Sys2Proof.Claim

/-! ## Immediate integers, LI64 and the 16-bit integer forms (R84, R99, R148) -/

theorem signExtend_eq_ofInt {n : Nat} (i : BitVec n) : i.signExtend 64 = BitVec.ofInt 64 i.toInt := rfl

theorem upper64_eq_immU (i : BitVec 18) : upper64 i = immU i := by
  have e : ∀ A : Word, A <<< 14 = A * 2 ^ 14 := fun A => BitVec.shiftLeft_eq_mul_twoPow ..
  rw [upper64, e, immU, BitVec.ofInt_mul]
  rfl

theorem li64Value_high {i : BitVec 47} (hi : i.toNat < 2 ^ 32) (old : Word) :
    li64Value true i old = BitVec.ofNat 64 (i.toNat * 2 ^ 32 + old.toNat % 2 ^ 32) := by
  apply BitVec.eq_of_toNat_eq
  simp only [li64Value, if_true, BitVec.toNat_append, BitVec.extractLsb'_toNat, Nat.shiftRight_zero, BitVec.toNat_ofNat]
  have low : old.toNat % 2 ^ 32 < 2 ^ 32 := Nat.mod_lt _ (by decide)
  rw [Nat.mod_eq_of_lt hi, ← Nat.shiftLeft_add_eq_or_of_lt low, Nat.shiftLeft_eq]
  exact (Nat.mod_eq_of_lt (by omega)).symm

theorem add_imm_eq_ofInt {n : Nat} (A : Word) (i : BitVec n) : A + i.signExtend 64 = BitVec.ofInt 64 (A.toInt + i.toInt) := by
  rw [signExtend_eq_ofInt, BitVec.ofInt_add, BitVec.ofInt_toInt]

/-- Each of R99's rows on a register and an immediate executes as the operation its table gives. -/
theorem exec_intIRows (d a : Reg) (i : BitVec 13) (s : State) :
    ∀ p ∈ intIRows, exec (p.1 d a i) s = aluI 4 d a (fun A => p.2 A (BitVec.ofInt 64 i.toInt)) s := by
  simp only [intIRows, List.forall_mem_cons]
  refine ⟨?addi, ?andi, ?ori, ?xori, ?slti, ?sltiu, List.forall_mem_nil _⟩
  case addi => exact aluI_congr fun A => add_eq_ofInt A _
  case andi | ori | xori => rfl
  case slti => exact aluI_congr fun A => truth_slt A _
  case sltiu => exact aluI_congr fun A => truth_ult A _

/-- Each of R99's shifts by a constant executes as the operation its table gives. -/
theorem exec_shiftIRows (d a : Reg) (sh : BitVec 6) (s : State) :
    ∀ p ∈ shiftIRows, exec (p.1 d a sh) s = aluI 4 d a (fun A => p.2 A sh.toNat) s := by
  simp only [shiftIRows, List.forall_mem_cons]
  refine ⟨?slli, ?srli, ?srai, List.forall_mem_nil _⟩
  case slli => exact aluI_congr fun A => shiftLeft_eq_ofNat A _
  case srli => exact aluI_congr fun A => shiftRight_eq_ofNat A _
  case srai => exact aluI_congr fun A => sshiftRight_eq_ofInt A _

/-- An instruction legal in its bits whose whole effect is one register write. -/
theorem checked_writeInt {s : State} (hs : Steady s) {i : Instr} (hw : wellFormed i = true) (len : Nat) (d : Reg) (v : State → Word) :
    checked i s (fun s => writeInt len d (v s) s) = wrote len d (v s) s := by
  rw [checked_wellFormed hw, writeInt_steady hs]

theorem exec_li64 {s : State} (hs : Steady s) {d : Reg} {hi : Bool} {i : BitVec 47} (hw : wellFormed (.li64 d hi i) = true) :
    exec (.li64 d hi i) s = .next (wrote 8 d (li64Value hi i (s.getX d)) s) :=
  congrArg _ (checked_writeInt hs hw 8 d fun s => li64Value hi i (s.getX d))

theorem wellFormed_li64_high (d : Reg) {i : BitVec 47} (hi : i.toNat < 2 ^ 32) : wellFormed (.li64 d true i) = true := by
  have e : i.extractLsb' 32 15 = 0 := by
    apply BitVec.eq_of_toNat_eq
    rw [BitVec.extractLsb'_toNat, Nat.shiftRight_eq_div_pow, Nat.div_eq_of_lt hi]
    rfl
  show (!true || i.extractLsb' 32 15 == 0) = true
  rw [e]
  rfl

/-- Settles O11: every row is one operation on a register (`exec_intIRows`, `exec_shiftIRows`), and LIH, PCADD and LI64 write the value their entry gives. -/
theorem intImmediateResults : Obligations.IntImmediateResults := by
  intro s d a hs
  refine ⟨fun p hp i => ?imm, fun p hp sh => ?shift, fun i => ⟨?lih, ?pcadd⟩, fun i => ?low, fun i hi => ?high⟩
  case imm => rw [exec_intIRows d a i s p hp, aluI_steady hs]
  case shift => rw [exec_shiftIRows d a sh s p hp, aluI_steady hs]
  case lih => rw [← upper64_eq_immU, ← writeInt_steady hs]; rfl
  case pcadd => rw [← upper64_eq_immU, ← writeInt_steady hs]; rfl
  case low => exact exec_li64 hs rfl
  case high => rw [exec_li64 hs (wellFormed_li64_high d hi), li64Value_high hi]

theorem creg_eq_x3 (r : BitVec 3) : creg r = x3 r := by revert r; decide

/-- Settles O12: each of R84's forms is legal in its bits and writes one register, the value of its expansion (`checked_writeInt`). -/
theorem compressedResults : Obligations.CompressedResults := by
  intro s i d v hs hw h
  obtain ⟨d3, im, rfl, rfl, rfl⟩ | ⟨r, im, rfl, rfl, rfl⟩ | ⟨r, im, rfl, rfl, rfl⟩ | ⟨r, a, rfl, rfl, rfl⟩ | ⟨r, a, rfl, rfl, rfl⟩ | ⟨r, a, rfl, rfl, rfl⟩
    | ⟨r, a, rfl, rfl, rfl⟩ | ⟨r, sh, rfl, rfl, rfl⟩ | ⟨r, sh, rfl, rfl, rfl⟩ := h
  case inl =>
    have e : im.zeroExtend 64 * 4 = BitVec.ofNat 64 (im.toNat * 4) := by
      apply BitVec.eq_of_toNat_eq
      simp [BitVec.toNat_mul]
    rw [← creg_eq_x3, ← e]
    exact congrArg _ (checked_writeInt hs hw ..)
  case inr.inl =>
    rw [← add_imm_eq_ofInt]
    exact congrArg _ (checked_writeInt hs hw ..)
  case inr.inr.inl | inr.inr.inr.inl | inr.inr.inr.inr.inl | inr.inr.inr.inr.inr.inl | inr.inr.inr.inr.inr.inr.inl =>
    exact congrArg _ (checked_writeInt hs hw ..)
  case inr.inr.inr.inr.inr.inr.inr.inl =>
    rw [← shiftLeft_eq_ofNat]
    exact congrArg _ (checked_writeInt hs hw ..)
  case inr.inr.inr.inr.inr.inr.inr.inr =>
    rw [← shiftRight_eq_ofNat]
    exact congrArg _ (checked_writeInt hs hw ..)

/-! ## Jumps, 16-bit branches, and branches on a stream's end and on a mask (R84, R107 to R109) -/

theorem pcValue_clear (w : Word) : pcValue (w &&& ~~~1#64) = w &&& ~~~1#64 := by rw [pcValue, BitVec.and_assoc, BitVec.and_self]

theorem jumps : Claim.Jumps := by
  intro s hs
  refine ⟨fun d o => ?jmpl, fun d a i => ?jmpr, fun o => ?cJ, fun a ha => ?cJr, fun a o => ⟨?cBeqz, ?cBnez⟩⟩
  case jmpl =>
    rw [← pcValue_add_signExtend]
    exact congrArg _ (finishTo_steady (steady_setX hs d _) _)
  case jmpr =>
    rw [← pcValue_clear]
    exact congrArg _ (finishTo_steady (steady_setX hs d _) _)
  case cJ => exact branch_steady hs 2 true o
  case cJr =>
    have hw : wellFormed (.cJr a) = true := bne_iff_ne.2 ha
    rw [← pcValue_clear, ← finishTo_steady hs]
    exact congrArg _ (checked_wellFormed hw s _)
  case cBeqz =>
    rw [← creg_eq_x3]
    exact (branch_steady hs 2 _ o).trans (by simp only [beq_iff_eq]; rfl)
  case cBnez =>
    rw [← creg_eq_x3]
    exact (branch_steady hs 2 _ o).trans (by simp only [bne_iff_ne]; rfl)

theorem lowBits_eq_zero_iff (n x : Nat) : lowBits n x = 0 ↔ ∀ e < n, x.testBit e = false := by
  rw [lowBits]
  constructor
  · intro h e he
    have := Nat.testBit_mod_two_pow x n e
    rw [h, Nat.zero_testBit, decide_eq_true he, Bool.true_and] at this
    exact this.symm
  · intro h
    apply Nat.eq_of_testBit_eq
    intro e
    rw [Nat.testBit_mod_two_pow, Nat.zero_testBit]
    by_cases he : e < n
    · rw [h e he, Bool.and_false]
    · rw [decide_eq_false he, Bool.false_and]

theorem maskAny_eq_any (h : Hart) (n : Nat) : maskAny h n = (!h.vill && (List.range h.vlv).any (fun e => (h.mask n).testBit e)) := by
  rw [maskAny]
  cases h.vill with
  | true => simp [lowBits, Nat.mod_one]
  | false =>
    rw [Bool.eq_iff_iff, bne_iff_ne, ne_eq, if_neg Bool.false_ne_true, lowBits_eq_zero_iff]
    simp

/-- The stream bound to v24 + n. -/
theorem binding_stream (h : Hart) (n : BitVec 3) : h.binding (24 + n.toNat) = h.streams[n.toNat]'(by have := n.isLt; omega) := by
  have := n.isLt
  rw [Hart.binding, dif_pos (by omega)]
  simp only [Nat.add_sub_cancel_left]

theorem streamEnded_eq (h : Hart) (n : BitVec 3) : streamEnded h (24 + n.toNat) =
    match h.streams[n.toNat]'(by have := n.isLt; omega) with | some b => decide (b.pos ≥ b.scb.rows * b.scb.cols) | none => true := by
  rw [streamEnded, binding_stream]
  rfl

theorem maskBranch_still {s : State} (hs : Steady s) {i : Instr} (hw : wellFormed i = true) (still : s.hart.moving = false) (taken : Bool) (o : BitVec 13) :
    maskBranch i taken o s = .next (retired (if taken then target s (o.toInt * 2) else s.hart.pc + 4) 0 s) := by
  rw [maskBranch, hw, still]
  exact branch_steady hs 4 taken o

theorem maskBranch_moving {s : State} {i : Instr} (hw : wellFormed i = true) (moving : s.hart.moving = true) (taken : Bool) (o : BitVec 13) :
    maskBranch i taken o s = .next (stall s) := by
  rw [maskBranch, hw, moving]
  rfl

theorem streamAndMaskBranches : Claim.StreamAndMaskBranches := by
  intro s o hs
  refine ⟨fun n => ?bse, fun n hn => ⟨fun still => ⟨?any, ?none⟩, fun moving => ⟨?anyWaits, ?noneWaits⟩⟩⟩
  case bse =>
    exact (branch_steady hs 4 _ o).trans (congrArg _ (congrArg (fun c : Bool => retired (if c then _ else _) 0 s) (streamEnded_eq s.hart n)))
  case any =>
    have hw : wellFormed (.bmany n o) = true := hn
    rw [← maskAny_eq_any]
    exact maskBranch_still hs hw still _ o
  case none =>
    have hw : wellFormed (.bmnone n o) = true := hn
    rw [← maskAny_eq_any]
    exact maskBranch_still hs hw still _ o
  case anyWaits => exact maskBranch_moving (i := .bmany n o) hn moving _ o
  case noneWaits => exact maskBranch_moving (i := .bmnone n o) hn moving _ o

/-- Settles O14: each of them is a branch (`branch_steady`) or completes at its target (`finishTo_steady`), and the mask branches wait while a drawer moves. -/
theorem jumpsAndOtherBranches : Obligations.JumpsAndOtherBranches := ⟨jumps, streamAndMaskBranches⟩

end Sys2Proof.Machine

namespace Sys2Proof.Machine
/-! ## What every form answers, and the values at reset (R10, R27, R73 to R86, R426, R437) -/

/-! ## Every form and every step answers (R86, R426, R437) -/

theorem maskBranch_answers (i : Instr) (taken : Bool) (o : BitVec 13) (s : State) : ∃ t, maskBranch i taken o s = .next t := by
  unfold maskBranch
  split
  · exact ⟨_, rfl⟩
  split <;> exact ⟨_, rfl⟩

theorem execVmv_answers (vd a : Reg) (m : MaskField) (s : State) : ∃ t, execVmv vd a m s = .next t := by
  unfold execVmv
  split <;> exact ⟨_, rfl⟩

theorem exec_answers (i : Instr) (s : State) : ∃ t, exec i s = .next t := by
  cases i
  case bmany => exact maskBranch_answers ..
  case bmnone => exact maskBranch_answers ..
  case vmv => exact execVmv_answers ..
  all_goals exact ⟨_, rfl⟩

/-- Settles O8: each arm of `exec` answers a next state by its own shape, the mask branches and VMV by their cases. -/
theorem everyFormAnswers : Obligations.EveryFormAnswers := exec_answers

theorem runWord_answers (k : Nat) (s : State) : ∃ t, runWord k s = .next t := by
  unfold runWord
  split
  · exact ⟨_, rfl⟩
  split
  case h_1 => split <;> exact ⟨_, rfl⟩
  case h_11 => split <;> exact ⟨_, rfl⟩
  all_goals exact ⟨_, rfl⟩

theorem runPacket_answers (m : Message) (s : State) : ∃ t, runPacket m s = .next t := by
  cases m
  case request op p =>
    unfold runPacket
    dsimp only
    split <;> exact ⟨_, rfl⟩
  case response dst op r =>
    unfold runPacket
    dsimp only
    split
    · exact ⟨_, rfl⟩
    split <;> exact ⟨_, rfl⟩
  all_goals exact ⟨_, rfl⟩

theorem runDue_answers (d : Due) (s : State) : ∃ t, runDue d s = .next t := by
  cases d
  case seqWord => exact runWord_answers ..
  case packet => exact runPacket_answers ..
  all_goals exact ⟨_, rfl⟩

theorem runInstr_answers (s : State) : ∃ t, runInstr s = .next t := by
  unfold runInstr runFront
  split
  · exact ⟨_, rfl⟩
  next i u _ =>
    obtain ⟨t, ht⟩ := exec_answers i u
    rw [ht]
    split
    · exact ⟨_, rfl⟩
    split <;> exact ⟨_, rfl⟩

theorem after_answers {o : Host.Outcome State Fault Refusal} (h : ∃ t, o = .next t) : ∃ t, after o = .next t := by
  obtain ⟨t, rfl⟩ := h
  exact ⟨_, rfl⟩

theorem step_answers {s : State} (hp : s.boot.powered = true) : ∃ t, step s = .next t := by
  unfold step
  split
  all_goals rw [if_pos hp]
  case h_1 => exact after_answers (exec_answers ..)
  case h_2 => exact after_answers (runDue_answers ..)
  case h_3 => exact after_answers (runInstr_answers _)
  case h_4 => exact ⟨_, rfl⟩

/-- Only the agenda names an event of the table. -/
theorem agenda_of_choose_event {s u : State} {i : Instr} (h : choose s = .event i u) : ∃ t, s.agenda = .event i :: t := by
  unfold choose at h
  split at h
  · next e => cases h; exact ⟨_, e⟩
  · split at h
    · unfold turn at h
      dsimp only at h
      split at h <;> cases h
    · cases h
  · split at h
    · cases h
    split at h
    · unfold turn at h
      dsimp only at h
      split at h <;> cases h
    split at h <;> cases h

theorem step_unpowered {s : State} (hp : s.boot.powered = false) (ha : ∀ r t, s.agenda ≠ .event (.coldStart r) :: t) :
    step s = .fault .unpowered := by
  have off : ¬ s.boot.powered = true := by simp [hp]
  unfold step
  split
  all_goals rw [if_neg off]
  next i u h =>
    obtain ⟨t, e⟩ := agenda_of_choose_event h
    split
    · exact absurd e (ha _ _)
    · rfl

/-- Settles O7: with power each choice of what acts answers a next state, and without it only an agenda's cold start is carried out. -/
theorem powerKeepsRunning : Obligations.PowerKeepsRunning := fun _ => ⟨step_answers, step_unpowered⟩

/-! ## Reset, x0 and the manual's encoding examples (R10, R27, R73 to R86, R410, R422, R430) -/

/-- Settles O9: x0 is no place of the register file, and the others are the file's (`State.getX_setX`). -/
theorem zeroRegister : Obligations.ZeroRegister := fun s v =>
  ⟨rfl, rfl, fun d r hd => by simp only [State.getX_setX, and_iff_left hd]⟩

/-- Settles O5: memory after reset lists no byte. -/
theorem resetMemoryCanonical : Obligations.ResetMemoryCanonical := rfl

/-- Settles O2: the decoder reads each word's fields as the manual's bit-by-bit examples do. -/
theorem decodedWords : Obligations.DecodedWords := by
  unfold Obligations.DecodedWords
  and_intros <;> rfl

/-- No register of v24 to v31, and no other, is bound to a stream at hart start. -/
theorem init_binding (r : Nat) : Hart.init.binding r = none := by
  unfold Hart.binding
  split
  · exact Vector.getElem_replicate _
  · rfl

/-- Settles O6: every block starts at its `init` value, which holds the manual's. -/
theorem resetValues : Obligations.ResetValues := by
  unfold Obligations.ResetValues
  dsimp only
  refine ⟨rfl, rfl, by decide, rfl, rfl, rfl, rfl, by decide, by decide, init_binding, ?_⟩
  and_intros
  all_goals decide

end Sys2Proof.Machine

namespace Sys2Proof.Machine
/-! # Scalar memory: loads, stores, addresses, atomics (R101 to R105, R206, R207, R300 to R319) -/

open Sys2Proof.Claim

/-! ## What an access moves on its way (R300, R302, R305 to R308, R319) -/

/-- A state that differs from another in L2 slices, HBM rows and lifetime counts alone. -/
def RowsMoved (s t : State) : Prop := t = { s with l2 := t.l2, dram := t.dram, life := t.life }

theorem RowsMoved.refl (s : State) : RowsMoved s s := rfl

theorem RowsMoved.trans {s t u : State} (h : RowsMoved s t) (k : RowsMoved t u) : RowsMoved s u :=
  Eq.trans k (congrArg (fun x : State => { x with l2 := u.l2, dram := u.dram, life := u.life }) (show t = { s with l2 := t.l2, dram := t.dram, life := t.life } from h))

theorem RowsMoved.noUpset {s t : State} (h : RowsMoved s t) (hs : NoUpset s) : NoUpset t := (congrArg State.upsets h).trans hs

theorem RowsMoved.linkDown {s t : State} (h : RowsMoved s t) (pa : Nat) : linkDown t pa = linkDown s pa := by
  have e : t.links = s.links := (congrArg State.links h).trans rfl
  rw [Machine.linkDown, e]
  rfl

theorem RowsMoved.foldl {α : Type} {f : State → α → State} {s : State} {l : List α}
    (hf : ∀ t, RowsMoved s t → ∀ a ∈ l, RowsMoved t (f t a)) : RowsMoved s (l.foldl f s) := by
  suffices h : ∀ (m : List α) t, (∀ a ∈ m, a ∈ l) → RowsMoved s t → RowsMoved s (m.foldl f t) from h l s (fun _ h => h) (.refl s)
  intro m
  induction m with
  | nil => exact fun t _ h => h
  | cons a m ih =>
    intro t hm h
    exact ih _ (fun b hb => hm b (List.mem_cons_of_mem _ hb)) (h.trans (hf t h a (hm a List.mem_cons_self)))

theorem activate_rows (s : State) (bank row : Nat) : RowsMoved s (activate s bank row) := by
  unfold activate
  dsimp only
  split <;> rfl

theorem runRfm_rows (s : State) (bank : Nat) : RowsMoved s (runRfm s bank) := by
  unfold runRfm
  split <;> rfl

theorem hbmRequest_rows (s : State) (pa : Nat) : RowsMoved s (hbmRequest s pa) := by
  have waits : RowsMoved s (if rfmPending s (hbmBank pa) || rfmRunning s (hbmBank pa)
      then runRfm (s.updChannel (hbmBank pa / 32) (fun k => { k with rfmwait := k.rfmwait + 1 })) (hbmBank pa) else s) := by
    split
    · exact RowsMoved.trans (t := s.updChannel _ _) rfl (runRfm_rows _ _)
    · exact .refl s
  unfold hbmRequest
  dsimp only
  generalize (if rfmPending s (hbmBank pa) || rfmRunning s (hbmBank pa)
    then runRfm (s.updChannel (hbmBank pa / 32) (fun k => { k with rfmwait := k.rfmwait + 1 })) (hbmBank pa) else s) = t at waits ⊢
  split
  · exact waits
  · exact waits.trans (activate_rows _ _ _)

theorem memoryRequest_rows (s : State) (k : Nat) : RowsMoved s (memoryRequest s k) := by
  unfold memoryRequest
  split
  · exact hbmRequest_rows s k
  · exact .refl s

theorem undoUpset_none {s : State} (h : NoUpset s) (k : Nat) : undoUpset s k = s := by
  unfold undoUpset
  rw [if_pos (by rw [h]; rfl)]

theorem tdel_upsets {s : State} (h : NoUpset s) (k : Nat) : ({ s with upsets := tdel s.upsets k } : State) = s := by
  have e : tdel s.upsets k = s.upsets := by rw [h]; rfl
  rw [e]

theorem leaveSlice_rows {s : State} (h : NoUpset s) (k : Nat) (e : L2Sector) : RowsMoved s (leaveSlice s k e) := by
  have hm := memoryRequest_rows s k
  unfold leaveSlice
  split
  · dsimp only
    split
    · rw [verifyHome_none (hm.noUpset h), tdel_upsets (hm.noUpset h)]
      exact hm
    · rw [tdel_upsets (hm.noUpset h)]
      exact hm
  · rw [undoUpset_none h]
    exact .refl s

theorem evictSector_rows {s : State} (h : NoUpset s) (k : Nat) : RowsMoved s (evictSector s k) := by
  unfold evictSector
  split
  · exact .refl s
  · exact (leaveSlice_rows h k _).trans rfl

theorem sliceRoom_rows {s : State} (h : NoUpset s) (home line : Nat) : RowsMoved s (sliceRoom s home line) := by
  unfold sliceRoom
  dsimp only
  split
  · exact .refl s
  · split
    · exact .foldl fun t ht k _ => evictSector_rows (ht.noUpset h) k
    · exact .refl s

/-- An access of a sector that can be reached moves L2 slices, HBM rows and counts alone. -/
theorem touch_rows {s : State} (h : NoUpset s) (part : BitVec 3) {k : Nat} (up : linkDown s k = false) (ab : Option Nat) (uc wr alloc : Bool) :
    RowsMoved s (touch s part k ab uc wr alloc) := by
  have hm := memoryRequest_rows s k
  unfold touch
  rw [if_neg (by rw [up]; decide)]
  dsimp only
  rw [verifyHome_none h]
  split
  · exact .refl s
  split
  · split
    · split
      · exact hm
      · rfl
    · exact .refl s
  · split
    · exact hm
    · exact (hm.trans (sliceRoom_rows (hm.noUpset h) _ _)).trans rfl

theorem touchAll_rows {s : State} (h : NoUpset s) (part : BitVec 3) {l : List Nat} (up : ∀ k ∈ l, linkDown s k = false) (ab : Option Nat) (uc wr alloc : Bool) :
    RowsMoved s (l.foldl (fun s k => touch s part k ab uc wr alloc) s) :=
  .foldl fun _ ht k hk => touch_rows (ht.noUpset h) part ((ht.linkDown k).trans (up k hk)) ab uc wr alloc

/-! ### The entries that a walk reads (R318) -/

/-- The table entries that a walk has read can be reached, if it found a translation. -/
def WalkUp {α : Type} (s : State) (x : Walked α) : Prop := ∀ a, x.2 = .ok a → ∀ pa ∈ x.1, linkDown s (sectorOf pa) = false

theorem WalkUp.nil {α : Type} (s : State) (r : Except XFault α) : WalkUp s (([], r) : Walked α) := fun _ _ _ h => absurd h List.not_mem_nil

theorem WalkUp.andThen {α β : Type} {s : State} {x : Walked α} {f : α → Walked β} (hx : WalkUp s x) (hf : ∀ a, WalkUp s (f a)) :
    WalkUp s (x.andThen f) := by
  unfold Walked.andThen
  split
  · intro a ha
    cases ha
  · next a e =>
    intro b hb pa hpa
    rcases List.mem_append.1 hpa with hp | hp
    · exact hx a e pa hp
    · exact hf a b hb pa hp

theorem sectorOf_mem_sectorsOf (pa : Nat) {n : Nat} (h : n ≠ 0) : sectorOf pa ∈ sectorsOf pa n := by
  rw [sectorsOf, if_neg h, List.mem_map]
  exact ⟨0, by simp, by simp⟩

theorem linkDown_of_poisonedAt {s : State} {pa n k : Nat} (h : poisonedAt s pa n = false) (hk : k ∈ sectorsOf pa n) : linkDown s k = false := by
  have := List.any_eq_false.1 h k hk
  simp only [Bool.or_eq_true, not_or, Bool.not_eq_true] at this
  exact this.1.2

theorem tableEntry_up (s : State) (part : BitVec 3) (pa : Nat) : WalkUp s (tableEntry s part pa) := by
  intro a ha q hq
  unfold tableEntry at ha hq
  obtain rfl : q = pa := List.mem_singleton.1 hq
  dsimp only at ha
  split at ha
  · cases ha
  · next hp => exact linkDown_of_poisonedAt (Bool.eq_false_iff.2 hp) (sectorOf_mem_sectorsOf q (by decide))

theorem lastLevel_up {s : State} {first : Bool} {f : XFault} {seed i : Nat} {peek : Nat → Nat} {read : Nat → Walked Nat} (h : ∀ j, WalkUp s (read j)) :
    WalkUp s (lastLevel first f seed i peek read) := (h _).andThen fun _ => .nil s _

theorem tableRead2_up (s : State) (part : BitVec 3) (ipa pa : Nat) : WalkUp s (tableRead2 s part ipa pa) := by
  unfold tableRead2
  split
  · exact .nil s _
  have h := tableEntry_up s part pa
  split
  · intro a ha
    cases ha
  · exact h

theorem walk2_up (s : State) (part : BitVec 3) (ipa lv base : Nat) : WalkUp s (walk2 s part ipa lv base) := by
  induction lv generalizing base with
  | zero => exact lastLevel_up fun _ => tableRead2_up s part ipa _
  | succ lv ih =>
    refine (tableRead2_up s part ipa _).andThen fun e => ?_
    split
    · exact .nil s _
    split
    · exact .nil s _
    · exact ih _

theorem secondStage_up (s : State) (sp : Space) (ipa : Nat) : WalkUp s (secondStage s sp ipa) := by
  unfold secondStage
  split
  · exact .nil s _
  · exact walk2_up s _ ipa 3 _

theorem tableRead1_up (s : State) (sp : Space) (ipa : Nat) : WalkUp s (tableRead1 s sp ipa) := by
  refine (secondStage_up s sp ipa).andThen fun l => ?_
  dsimp only
  split
  · exact .nil s _
  split
  · exact .nil s _
  · exact tableEntry_up s _ _

theorem walk1_up (s : State) (sp : Space) (va lv base : Nat) : WalkUp s (walk1 s sp va lv base) := by
  induction lv generalizing base with
  | zero => exact lastLevel_up fun _ => tableRead1_up s sp _
  | succ lv ih =>
    refine (tableRead1_up s sp _).andThen fun e => ?_
    split
    · exact .nil s _
    split
    · exact .nil s _
    · exact ih _

theorem walk_up (s : State) (sp : Space) (va : Nat) : WalkUp s (walk s sp va) := by
  unfold walk
  dsimp only
  refine WalkUp.andThen ?_ fun l1 => (secondStage_up s sp _).andThen fun l2 => .nil s _
  split
  · exact walk1_up s sp va 3 _
  split <;> exact .nil s _

/-- The walk that a translation took has read entries that can be reached. -/
def Mapped.WalkReached (s : State) (m : Mapped) : Prop := ∀ e l, m.walk = some (e, l) → ∀ pa ∈ l, linkDown s (sectorOf pa) = false

theorem judge_walk {s : State} {sp : Space} {k : AccessKind} {va : Nat} {e : TlbEntry} {w : Option (TlbEntry × List Nat)} {m : Mapped}
    (h : judge s sp k va e w = .ok m) : m.walk = w := by
  unfold judge at h
  dsimp only at h
  split_ifs at h
  cases h
  rfl

theorem translate_reached {s : State} {sp : Space} {i : Option HartId} {k : AccessKind} {va : Word} {m : Mapped} (h : translate s sp i k va = .ok m) :
    m.WalkReached s := by
  intro e l hw pa hpa
  unfold translate at h
  split at h
  · cases h
  split at h
  · rw [judge_walk h] at hw
    cases hw
  · have up := walk_up s sp va.toNat
    split at h
    · cases h
    · next e' =>
      rw [judge_walk h] at hw
      cases hw
      rw [e'] at up
      exact up _ rfl pa hpa

theorem locate_translate {s : State} {sp : Space} {i : Option HartId} {k : AccessKind} {dev : Bool} {va : Word} {m : Mapped} (h : locate s sp i k dev va = .ok m) :
    translate s sp i k va = .ok m := by
  unfold locate at h
  split at h
  · cases h
  · next e =>
    split at h
    · cases h; exact e
    · cases h

theorem checkAccess_locate {s : State} {k : AccessKind} {dev : Bool} {n : Nat} {va : Word} {m : Mapped} (h : checkAccess s k dev n va = .ok m) :
    locate s s.hart.space (some s.hart.id) k dev va = .ok m := by
  unfold checkAccess at h
  split at h
  · cases h
  split at h
  · cases h
  · next e => cases h; exact e

theorem checkAccess_reached {s : State} {k : AccessKind} {dev : Bool} {n : Nat} {va : Word} {m : Mapped} (h : checkAccess s k dev n va = .ok m) :
    m.WalkReached s := translate_reached (locate_translate (checkAccess_locate h))

/-! ### Caches and TLBs -/

theorem sameButCaches_refl (s : State) : SameButCaches s s := ⟨fun _ => rfl, fun _ => rfl⟩

theorem sameButCaches_trans {t u v : State} (h : SameButCaches t u) (k : SameButCaches u v) : SameButCaches t v :=
  ⟨fun c => (h.1 c).trans (congrArg (fun x : Core => { x with l1 := (t.core c).l1, tlb := (t.core c).tlb }) (k.1 c)),
    fun b => (h.2 b).trans (congrArg (fun x : Bench => { x with tlb := (t.bench b).tlb }) (k.2 b))⟩

theorem sameButRows_refl (s : State) : SameButRows s s := ⟨rfl, sameButCaches_refl s⟩

theorem sameButRows_trans {t u v : State} (h : SameButRows t u) (k : SameButRows u v) : SameButRows t v :=
  ⟨h.1.trans (congrArg (fun x : State => { x with l2 := t.l2, dram := t.dram, life := t.life, cores := t.cores, benches := t.benches }) k.1),
    sameButCaches_trans h.2 k.2⟩

theorem core_congr {s t : State} (h : t.cores = s.cores) (c : Nat) : t.core c = s.core c := by rw [State.core, State.core, h]
theorem bench_congr {s t : State} (h : t.benches = s.benches) (b : Nat) : t.bench b = s.bench b := by rw [State.bench, State.bench, h]

theorem sameButCaches_of_eq {s t : State} (hc : t.cores = s.cores) (hb : t.benches = s.benches) : SameButCaches t s := by
  refine ⟨fun c => ?_, fun b => ?_⟩
  · rw [core_congr hc]
  · rw [bench_congr hb]

theorem RowsMoved.sameButRows {s t : State} (h : RowsMoved s t) : SameButRows t s := by
  have hc : t.cores = s.cores := (congrArg State.cores h).trans rfl
  have hb : t.benches = s.benches := (congrArg State.benches h).trans rfl
  refine ⟨?_, sameButCaches_of_eq hc hb⟩
  rw [hc, hb]
  exact h

/-- New L1 copies and TLB entries of a core are caches' alone. -/
theorem setCore_sameButRows (s : State) (c : Nat) (l1 : List L1Sector) (tlb : List TlbEntry) :
    SameButRows (s.setCore c { s.core c with l1 := l1, tlb := tlb }) s := by
  refine ⟨rfl, fun d => ?_, fun b => rfl⟩
  by_cases e : d = c
  · subst e; rw [State.core_setCore]
  · rw [State.core_setCore_ne _ e]

/-- New TLB entries of a bench are caches' alone. -/
theorem setBench_sameButRows (s : State) (b : Nat) (tlb : List TlbEntry) : SameButRows (s.setBench b { s.bench b with tlb := tlb }) s := by
  refine ⟨rfl, fun d => rfl, fun d => ?_⟩
  by_cases e : d = b
  · subst e; rw [State.bench_setBench]
  · rw [State.bench_setBench_ne _ e]

/-- A hart that changes leaves what has moved beside it. -/
theorem sameButRows_withHart {t u : State} (h : SameButRows t u) (g : Hart) : SameButRows (t.withHart g) (u.withHart g) :=
  ⟨congrArg (fun x => State.withHart x g) h.1, h.2⟩

theorem sameButRows_hart {t u : State} (h : SameButRows t u) : t.hart = u.hart := (congrArg State.hart h.1).trans rfl
theorem sameButRows_noUpset {t u : State} (h : SameButRows t u) (hu : NoUpset u) : NoUpset t := (congrArg State.upsets h.1).trans hu
theorem sameButRows_linkDown {t u : State} (h : SameButRows t u) (pa : Nat) : linkDown t pa = linkDown u pa := (congrArg (fun x => linkDown x pa) h.1).trans rfl
theorem sameButRows_mem {t u : State} (h : SameButRows t u) : t.mem = u.mem := (congrArg State.mem h.1).trans rfl

/-- Completing the instruction does the same in both. -/
theorem sameButRows_retired {t u : State} (h : SameButRows t u) (npc : Word) (fl : BitVec 7) : SameButRows (retired npc fl t) (retired npc fl u) := by
  unfold retired
  rw [sameButRows_hart h]
  exact sameButRows_withHart h _

theorem sameButRows_passed {t u : State} (h : SameButRows t u) (len : Nat) : SameButRows (passed len t) (passed len u) := by
  unfold passed
  rw [sameButRows_hart h]
  exact sameButRows_retired h _ 0

theorem sameButRows_setX {t u : State} (h : SameButRows t u) (d : Reg) (v : Word) : SameButRows (t.setX d v) (u.setX d v) := by
  unfold State.setX
  rw [sameButRows_hart h]
  exact sameButRows_withHart h _

theorem sameButRows_wrote {t u : State} (h : SameButRows t u) (len : Nat) (d : Reg) (v : Word) : SameButRows (wrote len d v t) (wrote len d v u) := by
  unfold wrote
  rw [sameButRows_hart h]
  exact sameButRows_retired (sameButRows_setX h d v) _ 0

theorem sameButRows_trappedHere {t u : State} (h : SameButRows t u) (c : BitVec 8) (v : Word) : SameButRows (trappedHere c v t) (trappedHere c v u) := by
  unfold trappedHere trapped
  rw [sameButRows_hart h, show t.boot = u.boot from (congrArg State.boot h.1).trans rfl]
  exact sameButRows_withHart h _

/-- The walk that an access took moves caches, TLBs and rows alone. -/
theorem noteWalk_sameButRows {s : State} (h : NoUpset s) {m : Mapped} (hm : m.WalkReached s) (i : Option HartId) : SameButRows (noteWalk s i m) s := by
  have reads {e : TlbEntry} {l : List Nat} (hw : m.walk = some (e, l)) : RowsMoved s (noteAll s (l.map (.entry e.part))) := by
    refine .foldl fun t ht n hn => ?_
    obtain ⟨pa, hpa, rfl⟩ := List.mem_map.1 hn
    exact touch_rows (ht.noUpset h) _ ((ht.linkDown _).trans (hm e l hw pa hpa)) none false false true
  unfold noteWalk
  split
  · exact sameButRows_refl s
  · next e l hw => exact (reads hw).sameButRows
  · next e l j hw =>
    split
    · exact sameButRows_refl s
    · exact sameButRows_trans (setBench_sameButRows _ _ _) (sameButRows_trans (setCore_sameButRows _ _ _ _) (reads hw).sameButRows)

open Sys2Proof.Claim

/-! ### What performing stores leaves of the module (R250) -/

/-- A state that differs from another in memory, what is kept beside it, caches, reports and counts: CXL links stand as they did, and no check value has come to
differ from its sector. -/
def MemoryMoved (s t : State) : Prop :=
  t = { s with
    fresh := t.fresh, mem := t.mem, poison := t.poison, cores := t.cores, benches := t.benches, parts := t.parts, snaps := t.snaps, dram := t.dram, ras := t.ras,
    life := t.life, links := t.links, l2 := t.l2, upsets := t.upsets, held := t.held }
  ∧ t.links.cxlUp = s.links.cxlUp ∧ (NoUpset s → NoUpset t)

theorem MemoryMoved.refl (s : State) : MemoryMoved s s := ⟨rfl, rfl, id⟩

theorem MemoryMoved.trans {s t u : State} (h : MemoryMoved s t) (k : MemoryMoved t u) : MemoryMoved s u :=
  ⟨k.1.trans (congrArg (fun x : State => { x with
      fresh := u.fresh, mem := u.mem, poison := u.poison, cores := u.cores, benches := u.benches, parts := u.parts, snaps := u.snaps, dram := u.dram,
      ras := u.ras, life := u.life, links := u.links, l2 := u.l2, upsets := u.upsets, held := u.held }) h.1),
    k.2.1.trans h.2.1, fun n => k.2.2 (h.2.2 n)⟩

theorem MemoryMoved.hart {s t : State} (h : MemoryMoved s t) : t.hart = s.hart := (congrArg State.hart h.1).trans rfl
theorem MemoryMoved.policy {s t : State} (h : MemoryMoved s t) : t.policy = s.policy := (congrArg State.policy h.1).trans rfl

theorem MemoryMoved.linkDown {s t : State} (h : MemoryMoved s t) (pa : Nat) : linkDown t pa = linkDown s pa := by
  rw [Machine.linkDown, h.2.1]
  rfl

theorem RowsMoved.memoryMoved {s t : State} (h : RowsMoved s t) : MemoryMoved s t := by
  unfold RowsMoved at h
  generalize t.l2 = l2, t.dram = dram, t.life = life at h
  subst h
  exact ⟨rfl, rfl, id⟩

theorem MemoryMoved.foldl {α : Type} {f : State → α → State} (hf : ∀ s a, MemoryMoved s (f s a)) (s : State) (l : List α) : MemoryMoved s (l.foldl f s) := by
  induction l generalizing s with
  | nil => exact .refl s
  | cons a l ih => exact (hf s a).trans (ih _)

theorem setPoison_moved (s : State) (k : Nat) : MemoryMoved s (s.setPoison k) := ⟨rfl, rfl, id⟩
theorem clearPoison_moved (s : State) (k : Nat) : MemoryMoved s (s.clearPoison k) := ⟨rfl, rfl, id⟩
theorem count_moved (s : State) (off n : Nat) : MemoryMoved s (s.count off n) := ⟨rfl, rfl, id⟩

theorem setPoisons_moved (s : State) (l : List Nat) : MemoryMoved s (l.foldl State.setPoison s) := .foldl setPoison_moved s l

theorem foldl_tdel_nil {α : Type} (l : List Nat) : l.foldl tdel ([] : Table α) = [] := by
  induction l with
  | nil => rfl
  | cons k l ih => exact ih

theorem mergeBytes_moved (s : State) (pa : Nat) (bs : List Byte) : MemoryMoved s (mergeBytes s pa bs) := by
  unfold mergeBytes
  dsimp only
  refine (setPoisons_moved s _).trans ⟨rfl, rfl, fun n => ?_⟩
  show List.foldl tdel (List.foldl State.setPoison s _).upsets _ = []
  rw [show (List.foldl State.setPoison s _).upsets = [] from n]
  exact foldl_tdel_nil _

theorem homeWrite_moved (s : State) (pa : Nat) (bs : List Byte) : MemoryMoved s (homeWrite s pa bs) := by
  rw [homeWrite]
  split
  · exact .refl s
  split
  · exact mergeBytes_moved s pa bs
  · exact heldWrite_inv (MemoryMoved s) (fun t pa bs h => h.trans (mergeBytes_moved t pa bs)) (fun t k h => h.trans (setPoison_moved t k))
      (fun t k h => h.trans (clearPoison_moved t k)) (fun t l h => h.trans ⟨rfl, rfl, id⟩) 8 s pa bs (.refl s)

theorem reportMonitor_moved (r : RasReport) (s : State) : MemoryMoved s (reportMonitor r s) := by
  unfold reportMonitor
  split
  · exact .refl s
  · exact (homeWrite_moved s _ _).trans ⟨rfl, rfl, id⟩

theorem reportPartition_moved (r : RasReport) (p : BitVec 3) (s : State) : MemoryMoved s (reportPartition r p s) := by
  unfold reportPartition
  dsimp only
  split
  · exact .refl s
  · exact (homeWrite_moved s _ _).trans ⟨rfl, rfl, id⟩

theorem report_moved (s : State) (r : RasReport) : MemoryMoved s (s.report r) := by
  have h := (count_moved s _ 1).trans (reportMonitor_moved r (s.count (0x1C00 + 8 * (r.typ % 32)) 1))
  unfold State.report
  dsimp only
  split
  · exact h
  · exact h.trans (reportPartition_moved r _ _)

theorem verifyHome_moved (s : State) (p : Option (BitVec 3)) (k home : Nat) : MemoryMoved s (verifyHome s p k home) := by
  unfold verifyHome
  split
  · refine MemoryMoved.trans ?_ (report_moved _ _)
    exact (setPoison_moved s k).trans (count_moved _ _ 1)
  · exact .refl s

theorem memoryRequest_moved (s : State) (k : Nat) : MemoryMoved s (memoryRequest s k) := (memoryRequest_rows s k).memoryMoved

theorem tdel_nil {α : Type} {t : Table α} (h : t = []) (k : Nat) : tdel t k = [] := by rw [h]; rfl

theorem dropUpset_moved (s : State) (k : Nat) : MemoryMoved s { s with upsets := tdel s.upsets k } := ⟨rfl, rfl, fun n => tdel_nil n k⟩

theorem undoUpset_moved (s : State) (k : Nat) : MemoryMoved s (undoUpset s k) := by
  unfold undoUpset
  split
  · exact .refl s
  · generalize memPutAll _ _ _ = m
    exact ⟨rfl, rfl, fun n => tdel_nil n k⟩

theorem leaveSlice_moved (s : State) (k : Nat) (e : L2Sector) : MemoryMoved s (leaveSlice s k e) := by
  unfold leaveSlice
  dsimp only
  split
  · refine MemoryMoved.trans ?_ (dropUpset_moved _ k)
    split
    · exact (memoryRequest_moved s k).trans (verifyHome_moved _ _ _ _)
    · exact memoryRequest_moved s k
  · exact undoUpset_moved s k

theorem evictSector_moved (s : State) (k : Nat) : MemoryMoved s (evictSector s k) := by
  unfold evictSector
  split
  · exact .refl s
  · exact (leaveSlice_moved s k _).trans ⟨rfl, rfl, id⟩

theorem sliceRoom_moved (s : State) (home line : Nat) : MemoryMoved s (sliceRoom s home line) := by
  unfold sliceRoom
  dsimp only
  split
  · exact .refl s
  split
  · exact .foldl evictSector_moved s _
  · exact .refl s

theorem touch_moved (s : State) (part : BitVec 3) (k : Nat) (ab : Option Nat) (uc wr alloc : Bool) : MemoryMoved s (touch s part k ab uc wr alloc) := by
  have hv := verifyHome_moved s (some part) k (homeBench k ab)
  have hm := hv.trans (memoryRequest_moved _ k)
  unfold touch
  dsimp only
  split
  · exact report_moved s _
  split
  · exact hv
  split
  · split
    · split
      · exact hm
      · exact hv.trans ⟨rfl, rfl, id⟩
    · exact hv
  · split
    · exact hm
    · exact (hm.trans (sliceRoom_moved _ _ _)).trans ⟨rfl, rfl, id⟩

theorem setCore_moved (s : State) (c : Nat) (k : Core) : MemoryMoved s (s.setCore c k) := ⟨rfl, rfl, id⟩

theorem patchL1_moved (s : State) (c pa n : Nat) (bs : List Byte) : MemoryMoved s (patchL1 s c pa n bs) := by
  unfold patchL1
  split
  · exact setCore_moved s _ _
  · exact .refl s

theorem dropSectors_moved (s : State) (c : Nat) (l : List Nat) : MemoryMoved s (dropSectors s c l) := by
  unfold dropSectors
  split
  · exact setCore_moved s _ _
  · exact .refl s

theorem performWrite_moved (c : Nat) (part : BitVec 3) (s : State) (w : MemWrite) : MemoryMoved s (performWrite c part s w) := by
  have h (bs : List Byte) := (MemoryMoved.foldl (fun s k => touch_moved s part k w.abench w.uc true true) s (sectorsOf w.pa w.n)).trans
    ((homeWrite_moved _ w.pa bs).trans (patchL1_moved _ c w.pa w.n bs))
  unfold performWrite
  dsimp only
  split
  · exact ((h _).trans (dropSectors_moved _ _ _)).trans (setPoisons_moved _ _)
  · exact h _

theorem performEntry_moved (c : Nat) (part : BitVec 3) (s : State) (e : BufferedStore) : MemoryMoved s (performEntry c part s e) := by
  have h : MemoryMoved s (if e.anyOrder then { s with fresh := s.fresh + 1 } else s) := by
    split
    · exact ⟨rfl, rfl, id⟩
    · exact .refl s
  exact (h.trans (.foldl (performWrite_moved c part) _ _)).trans (.foldl clearPoison_moved _ _)

/-- What performing a hart's oldest stores leaves: of the hart, all but its buffer. -/
def StoresMoved (s t : State) : Prop := ∃ l, MemoryMoved (s.withHart { s.hart with stores := l }) t

theorem performOldest_moved (n : Nat) (s : State) : StoresMoved s (performOldest n s) := by
  have h : MemoryMoved s ((s.hart.stores.take n).foldl (performEntry (coreOf s.hart.id) s.hart.partid) s) := .foldl (performEntry_moved _ _) s _
  refine ⟨s.hart.stores.drop n, ?_⟩
  unfold performOldest
  dsimp only
  rw [h.hart]
  exact ⟨congrArg (fun x => State.withHart x { s.hart with stores := s.hart.stores.drop n }) h.1, h.2⟩

theorem StoresMoved.refl (s : State) : StoresMoved s s := ⟨s.hart.stores, .refl s⟩

theorem StoresMoved.hart {s t : State} (h : StoresMoved s t) : ∃ l, t.hart = { s.hart with stores := l } := h.imp fun _ m => m.hart
theorem StoresMoved.noUpset {s t : State} (h : StoresMoved s t) (n : NoUpset s) : NoUpset t := let ⟨_, m⟩ := h; m.2.2 n
theorem StoresMoved.linkDown {s t : State} (h : StoresMoved s t) (pa : Nat) : linkDown t pa = linkDown s pa := let ⟨_, m⟩ := h; m.linkDown pa

theorem StoresMoved.steady {s t : State} (h : StoresMoved s t) (hs : Steady s) : Steady t := by
  obtain ⟨l, e⟩ := h.hart
  unfold Steady
  rw [e]
  exact hs

theorem drainThrough_moved (p : BufferedStore → Bool) (s : State) : StoresMoved s (drainThrough p s) := by
  unfold drainThrough
  split
  · exact .refl s
  · exact performOldest_moved _ s

theorem afterVectors_moved (s : State) (pa n : Nat) : StoresMoved s (afterVectors s pa n) := drainThrough_moved _ s

/-- With no vector store in the buffer a scalar access waits for none (R103). -/
theorem afterVectors_scalar {s : State} (h : ∀ e ∈ s.hart.stores, e.vector = false) (pa n : Nat) : afterVectors s pa n = s := by
  unfold afterVectors drainThrough
  have e : s.hart.stores.reverse.findIdx? (fun e => e.vector && e.meetsSector pa n) = none := by
    rw [List.findIdx?_eq_none_iff]
    intro e he
    rw [h e (List.mem_reverse.1 he)]
    rfl
  rw [e]

open Sys2Proof.Claim

/-! ### L1 copies that a load leaves in place (R300) -/

theorem l1Find_filter (l : List L1Sector) (g : Nat → Bool) (k : Nat) :
    l1Find (l.filter (fun p => g p.addr)) k = if g k then l1Find l k else none := by
  unfold l1Find
  rw [List.find?_filter]
  split
  · next h =>
    refine congrArg (fun f => List.find? f l) (funext fun p => ?_)
    by_cases e : p.addr = k
    · subst e; simp [h]
    · simp [e]
  · next h =>
    rw [List.find?_eq_none]
    rintro p - hp
    simp only [beq_iff_eq, decide_eq_true_eq] at hp
    exact h (hp.2 ▸ hp.1)

theorem l1Find_append (l r : List L1Sector) (k : Nat) : l1Find (l ++ r) k = (l1Find l k).or (l1Find r k) := List.find?_append ..

/-- Sorting a list into those that pass a test of their address and those that do not keeps each sector's first copy. -/
theorem l1Find_partition (l : List L1Sector) (g : Nat → Bool) (k : Nat) :
    l1Find (l.filter (fun p => g p.addr) ++ l.filter (fun p => !g p.addr)) k = l1Find l k := by
  rw [l1Find_append, l1Find_filter, l1Find_filter l (fun a => !g a)]
  cases g k
  · rfl
  · simp

theorem l1Find_l1Use (l : List L1Sector) (j k : Nat) : l1Find (l1Use l j) k = l1Find l k := l1Find_partition l (fun a => lineOf a == lineOf j) k

theorem l1Find_cons_ne {p : L1Sector} {l : List L1Sector} {k : Nat} (h : k ≠ p.addr) : l1Find (p :: l) k = l1Find l k := by
  unfold l1Find
  rw [List.find?_cons_of_neg (by simpa using h.symm)]

/-- Two sectors of which the one's coming into an L1 never drops the other. -/
def Apart (j k : Nat) : Prop := k ≠ j ∧ (lineOf k = lineOf j ∨ setOf k ≠ setOf j)

theorem l1Find_l1Fill {l : List L1Sector} {p q : L1Sector} {k : Nat} (h : Apart p.addr k) (hq : l1Find l k = some q) (ways : Nat) (nt : Bool) :
    l1Find (l1Fill ways nt p l) k = some q := by
  have kept : l1Find (if (l1Lines l (setOf p.addr)).contains (lineOf p.addr) then l
      else l1Keep (ways - 1) (l.filter (fun q => setOf q.addr == setOf p.addr)) ++ l.filter (fun q => setOf q.addr != setOf p.addr)) k = some q := by
    split
    · exact hq
    next miss =>
      have other : setOf k ≠ setOf p.addr := h.2.resolve_left fun same => miss ?_
      · rw [l1Find_append, l1Keep, l1Find_filter _ (fun a => (List.take _ (l1Lines _ (setOf a))).contains (lineOf a)),
          l1Find_filter l (fun a => setOf a == setOf p.addr), l1Find_filter l (fun a => setOf a != setOf p.addr)]
        simp [other, hq]
      · have mem := List.mem_of_find?_eq_some hq
        have addr : q.addr = k := by simpa using List.find?_some hq
        have set : setOf q.addr = setOf p.addr := by
          rw [addr]; exact congrArg (· % 128) same
        simp only [List.contains_iff_mem, l1Lines, List.mem_eraseDups, List.mem_map, List.mem_filter, beq_iff_eq]
        exact ⟨q, ⟨mem, set⟩, addr ▸ same⟩
  unfold l1Fill
  dsimp only
  split
  · rw [l1Find_append, kept]; rfl
  · rw [l1Find_l1Use, l1Find_cons_ne h.1, kept]

/-- The current hart finds a sector in its L1, or can reach it. -/
def Serves (s : State) (m : Mapped) (k : Nat) : Prop :=
  linkDown s k = false ∨ m.viaL1 k = true ∧ ∃ p, l1Copy s (coreOf s.hart.id) k = some p

theorem l1Copy_eq_some {s : State} {c k : Nat} {p : L1Sector} :
    l1Copy s c k = some p ↔ l1Find (s.core c).l1 k = some p ∧ checkFails p.data p.upset = false := by
  simp [l1Copy, Option.filter_eq_some_iff]

/-- What a load does on the way to a sector that serves it moves caches and rows alone, and keeps the L1 copies of sectors apart from it. -/
theorem loadSector_served {s : State} (h : NoUpset s) (nt : Bool) (m : Mapped) {k : Nat} (hk : Serves s m k) :
    SameButRows (loadSector nt m s k) s
    ∧ ∀ j p, Apart k j → l1Find (s.core (coreOf s.hart.id)).l1 j = some p → l1Find ((loadSector nt m s k).core (coreOf s.hart.id)).l1 j = some p := by
  unfold loadSector
  dsimp only
  split
  · next away =>
    have rows := touch_rows h s.hart.partid (hk.resolve_right fun c => by simp [c.1] at away) m.abench m.uc false true
    refine ⟨rows.sameButRows, fun j p _ hp => ?_⟩
    rw [core_congr ((congrArg State.cores rows).trans rfl)]
    exact hp
  split
  · refine ⟨setCore_sameButRows s _ _ _, fun j p _ hp => ?_⟩
    rw [State.core_setCore]
    exact (l1Find_l1Use _ _ _).trans hp
  · next miss =>
    have up : linkDown s k = false := hk.resolve_right fun ⟨_, p, hp⟩ => by rw [miss] at hp; cases hp
    have drops : SameButRows (if (l1Find (s.core (coreOf s.hart.id)).l1 k).isSome then (dropSectors s (coreOf s.hart.id) [k]).count (0x1D00 + 8 * 6) 1 else s) s
        ∧ ∀ j p, Apart k j → l1Find (s.core (coreOf s.hart.id)).l1 j = some p →
          l1Find ((if (l1Find (s.core (coreOf s.hart.id)).l1 k).isSome then (dropSectors s (coreOf s.hart.id) [k]).count (0x1D00 + 8 * 6) 1 else s).core
            (coreOf s.hart.id)).l1 j = some p := by
      split
      · unfold dropSectors
        split
        · refine ⟨sameButRows_trans (RowsMoved.sameButRows rfl) (setCore_sameButRows s _ _ _), fun j p hj hp => ?_⟩
          show l1Find ((State.setCore s _ _).core _).l1 j = some p
          rw [State.core_setCore]
          refine (l1Find_filter _ (fun a => !List.contains [k] a) j).trans ?_
          rw [if_pos (by simp [hj.1]), hp]
        · exact ⟨RowsMoved.sameButRows rfl, fun j p _ hp => hp⟩
      · exact ⟨sameButRows_refl s, fun j p _ hp => hp⟩
    generalize (if (l1Find (s.core (coreOf s.hart.id)).l1 k).isSome then (dropSectors s (coreOf s.hart.id) [k]).count (0x1D00 + 8 * 6) 1 else s) = t at drops ⊢
    obtain ⟨ht, keep⟩ := drops
    have rows := touch_rows (sameButRows_noUpset ht h) t.hart.partid ((sameButRows_linkDown ht k).trans up) m.abench false false true
    have same : ∀ c, (touch t t.hart.partid k m.abench false false true).core c = t.core c := core_congr ((congrArg State.cores rows).trans rfl)
    rw [← sameButRows_hart ht] at keep ⊢
    unfold fillL1
    dsimp only
    split
    · refine ⟨sameButRows_trans rows.sameButRows ht, fun j p hj hp => ?_⟩
      rw [same]
      exact keep j p hj hp
    · refine ⟨sameButRows_trans (setCore_sameButRows _ _ _ _) (sameButRows_trans rows.sameButRows ht), fun j p hj hp => ?_⟩
      rw [State.core_setCore, same]
      exact l1Find_l1Fill hj (keep j p hj hp) _ nt

theorem Serves.of_sameButRows {s t : State} {m : Mapped} {k : Nat} (h : SameButRows t s)
    (keep : ∀ p, l1Find (s.core (coreOf s.hart.id)).l1 k = some p → l1Find (t.core (coreOf s.hart.id)).l1 k = some p) (hs : Serves s m k) : Serves t m k := by
  unfold Serves
  rw [sameButRows_linkDown h, sameButRows_hart h]
  refine hs.imp id fun ⟨via, p, hp⟩ => ⟨via, p, ?_⟩
  rw [l1Copy_eq_some] at hp ⊢
  exact ⟨keep p hp.1, hp.2⟩

/-- A load's sectors, apart from each other and served, move caches and rows alone. -/
theorem loadSectors_sameButRows (nt : Bool) (m : Mapped) (l : List Nat) (apart : l.Pairwise Apart) {s : State} (h : NoUpset s) (hl : ∀ k ∈ l, Serves s m k) :
    SameButRows (l.foldl (loadSector nt m) s) s := by
  induction l generalizing s with
  | nil => exact sameButRows_refl s
  | cons k l ih =>
    obtain ⟨first, keep⟩ := loadSector_served h nt m (hl k List.mem_cons_self)
    obtain ⟨hk, rest⟩ := List.pairwise_cons.1 apart
    exact sameButRows_trans (ih rest (sameButRows_noUpset first h) fun j hj =>
      (hl j (List.mem_cons_of_mem _ hj)).of_sameButRows first fun p => keep j p (hk j hj)) first

theorem apart_next (j : Nat) : Apart (64 * j) (64 * j + 64) := by
  unfold Apart lineOf setOf
  omega

/-- An access of at most 64 bytes lies in one sector or in two that stand side by side. -/
theorem sectorsOf_short (pa : Nat) {n : Nat} (h0 : n ≠ 0) (h : n ≤ 64) :
    sectorsOf pa n = [64 * (pa / 64)] ∨ sectorsOf pa n = [64 * (pa / 64), 64 * (pa / 64) + 64] := by
  rw [sectorsOf, if_neg h0, sectorOf, Nat.mul_comm]
  rcases (by omega : (pa + n - 1) / 64 - pa / 64 + 1 = 1 ∨ (pa + n - 1) / 64 - pa / 64 + 1 = 2) with e | e
  · exact .inl (by rw [e]; rfl)
  · exact .inr (by rw [e]; rfl)

theorem sectorsOf_apart (pa : Nat) {n : Nat} (h : n ≤ 64) : (sectorsOf pa n).Pairwise Apart := by
  by_cases h0 : n = 0
  · rw [sectorsOf, if_pos h0]
    exact .nil
  rcases sectorsOf_short pa h0 h with e | e
  · rw [e]
    exact List.pairwise_singleton _ _
  · rw [e]
    exact List.pairwise_pair.2 (apart_next _)

theorem noteAll_entries_rows {s : State} (h : NoUpset s) (part : BitVec 3) {l : List Nat} (up : ∀ pa ∈ l, linkDown s (sectorOf pa) = false) :
    RowsMoved s (noteAll s (l.map (.entry part))) := by
  refine .foldl fun t ht n hn => ?_
  obtain ⟨pa, hpa, rfl⟩ := List.mem_map.1 hn
  exact touch_rows (ht.noUpset h) _ ((ht.linkDown _).trans (up pa hpa)) none false false true

/-- The walk of an access leaves every L1 as it is. -/
theorem noteWalk_l1 {s : State} (h : NoUpset s) {m : Mapped} (hm : m.WalkReached s) (i : Option HartId) (c : Nat) :
    ((noteWalk s i m).core c).l1 = (s.core c).l1 := by
  unfold noteWalk
  split
  · rfl
  · next e l hw => exact congrArg Core.l1 (core_congr ((congrArg State.cores (noteAll_entries_rows h e.part (hm e l hw))).trans rfl) c)
  · next e l j hw =>
    split
    · rfl
    · have rows := noteAll_entries_rows h e.part (hm e l hw)
      have same : ∀ c, (noteAll s (l.map (.entry e.part))).core c = s.core c := core_congr ((congrArg State.cores rows).trans rfl)
      show ((State.setCore _ _ _).core c).l1 = _
      by_cases hc : c = coreOf j
      · subst hc
        rw [State.core_setCore]
        exact (congrArg Core.l1 (same (coreOf j)) :)
      · rw [State.core_setCore_ne _ hc, same]

/-- A load whose sectors are served moves caches, TLBs and rows alone. -/
theorem afterLoadAs_sameButRows {s : State} (h : NoUpset s) (nt : Bool) {m : Mapped} {n : Nat} (hm : m.WalkReached s) (hn : n ≤ 64)
    (hs : ∀ k ∈ sectorsOf m.pa n, Serves s m k) : SameButRows (afterLoadAs nt s m n) s := by
  have walk := noteWalk_sameButRows h hm (some s.hart.id)
  refine sameButRows_trans (loadSectors_sameButRows nt m _ (sectorsOf_apart m.pa hn) (sameButRows_noUpset walk h) fun k hk => ?_) walk
  exact (hs k hk).of_sameButRows walk fun p hp => by rw [noteWalk_l1 h hm]; exact hp

theorem linkDown_sector_of_poisonedAt {s : State} {k : Nat} (hk : k % 64 = 0) (h : poisonedAt s k 64 = false) : linkDown s k = false := by
  refine linkDown_of_poisonedAt h ?_
  have e : sectorOf k = k := by unfold sectorOf; omega
  have mem := sectorOf_mem_sectorsOf k (n := 64) (by decide)
  rwa [e] at mem

theorem mod_of_mem_sectorsOf {pa n k : Nat} (h : k ∈ sectorsOf pa n) : k % 64 = 0 := by
  unfold sectorsOf at h
  split at h
  · cases h
  · obtain ⟨i, -, rfl⟩ := List.mem_map.1 h
    unfold sectorOf
    omega

/-- What a hart sees without poison serves its load. -/
theorem served_of_view {s : State} {m : Mapped} {n : Nat} (h : viewPoisoned s m n = false) : ∀ k ∈ sectorsOf m.pa n, Serves s m k := by
  intro k hk
  have clean := List.any_eq_false.1 h k hk
  simp only [Bool.or_eq_true, Bool.and_eq_true, Bool.not_eq_true', not_or, not_and] at clean
  by_cases hit : (m.viaL1 k && (l1Copy s (coreOf s.hart.id) k).isSome) = true
  · rw [Bool.and_eq_true, Option.isSome_iff_exists] at hit
    exact .inr hit
  · exact .inl (linkDown_sector_of_poisonedAt (mod_of_mem_sectorsOf hk) (by simpa using clean.1 (by simpa using hit)))

/-! ## Scalar loads (R101, R102, R105) -/

theorem ofBytes_map_range {n v : Nat} (hv : v < 256 ^ n) {f : Nat → Byte} (h : ∀ i, i < n → BitVec.ofNat 8 (v / 256 ^ i) = f i) :
    ofBytes ((List.range n).map f) = v := by
  have e : (List.range n).map f = bytesOf n v := by
    refine List.ext_getElem? fun i => ?_
    rw [getElem?_bytesOf, List.getElem?_map]
    by_cases hi : i < n
    · rw [List.getElem?_range hi, if_pos hi, h i hi]; rfl
    · rw [List.getElem?_eq_none (by simpa using hi), if_neg hi]; rfl
  rw [e, ofBytes_bytesOf, Nat.mod_eq_of_lt hv]

theorem viewRead_of_seen {s : State} {m : Mapped} {n v : Nat} (h : Seen s m n v) : viewRead s m n = v := ofBytes_map_range h.1 h.2.1

theorem signTo_eq_signExtend {w : Nat} (hw : 0 < w) : signTo w = fun v => (BitVec.ofNat w v).signExtend 64 := by
  funext v
  have e : toSigned w v = toSigned w (BitVec.ofNat w v).toNat := by simp only [toSigned, BitVec.toNat_ofNat, Nat.mod_mod]
  rw [signTo, e, toSigned_toNat hw, BitVec.setWidth_eq, signExtend_eq_ofInt]

theorem zeroExtend_mul_eq_ofNat {w : Nat} (i : BitVec w) (k : Nat) : i.zeroExtend 64 * BitVec.ofNat 64 k = BitVec.ofNat 64 (i.toNat * k) := by
  apply BitVec.eq_of_toNat_eq
  simp [BitVec.toNat_mul, Nat.mul_mod]

/-- Each load of R101 and R84 is the load of its bytes at its address. -/
theorem exec_of_loadForm {s : State} {i : Instr} {len : Nat} {d : Reg} {A : Word} {n : Nat} {ext : Nat → Word} (h : LoadForm s i len d A n ext) :
    exec i s = .next (loadScalar len d A n ext s) ∧ n ≠ 0 ∧ n ≤ 8 := by
  rcases h with ⟨p, hp, a, im, rfl, rfl, rfl, rfl, rfl⟩ | ⟨d3, a3, im, rfl, hw, rfl, rfl, rfl, rfl, rfl⟩ | ⟨d3, a3, im, rfl, rfl, rfl, rfl, rfl, rfl⟩
  · revert p
    simp only [scalarLoads, List.forall_mem_cons, ← signTo_eq_signExtend (show 0 < 8 by decide), ← signTo_eq_signExtend (show 0 < 16 by decide),
      ← signTo_eq_signExtend (show 0 < 32 by decide)]
    refine ⟨?lb, ?lbu, ?lh, ?lhu, ?lw, ?lwu, ?ld, List.forall_mem_nil _⟩
    all_goals exact ⟨rfl, by decide, by decide⟩
  · refine ⟨?_, by decide, by decide⟩
    rw [← creg_eq_x3, ← creg_eq_x3, ← zeroExtend_mul_eq_ofNat]
    exact congrArg _ (checked_wellFormed hw s fun s => loadScalar 2 (creg d3) (s.getX (creg a3) + im.zeroExtend 64 * 8) 8 (BitVec.ofNat 64) s)
  · refine ⟨?_, by decide, by decide⟩
    rw [← signTo_eq_signExtend (show 0 < 32 by decide), ← creg_eq_x3, ← creg_eq_x3, ← zeroExtend_mul_eq_ofNat]
    rfl

/-- A load that every check admits reads device space itself, or memory behind the hart's older vector stores. -/
theorem loadScalar_of_grants {s : State} {A : Word} {n : Nat} {m : Mapped} (h : Grants s .load n A m) (len : Nat) (d : Reg) (ext : Nat → Word) :
    loadScalar len d A n ext s =
      if isDevice m.pa then writeInt len d (devRead s m.pa) (noteWalk s (some s.hart.id) m)
      else loadResult len d A (viewPoisoned (afterVectors s m.pa n) m n) (ext (viewRead (afterVectors s m.pa n) m n)) (afterLoad (afterVectors s m.pa n) m n) := by
  obtain ⟨aligned, near, granted⟩ := h
  rw [loadScalar, if_neg (by simpa using aligned), isRemote, near, if_neg (by decide), granted]

theorem Mapped.WalkReached.of_links {s t : State} {m : Mapped} (h : m.WalkReached s) (ht : ∀ pa, linkDown t pa = linkDown s pa) : m.WalkReached t :=
  fun e l hw pa hpa => (ht _).trans (h e l hw pa hpa)

theorem steady_of_sameButRows {t u : State} (h : SameButRows t u) (hs : Steady u) : Steady t := by
  unfold Steady
  rw [sameButRows_hart h]
  exact hs

theorem writeInt_sameButRows {t u : State} (h : SameButRows t u) (hs : Steady u) (len : Nat) (d : Reg) (v : Word) :
    SameButRows (writeInt len d v t) (wrote len d v u) := by
  rw [writeInt_steady (steady_of_sameButRows h hs)]
  exact sameButRows_wrote h len d v

theorem PSN_unenabled (h : Hart) : PSN &&& h.enables = 0 := by
  unfold Hart.enables
  generalize h.frm.extractLsb' 3 5 = e
  revert e
  decide

/-- A load's data reaches x[d]; consumed poison traps with the sector's address, or writes 0 and sets PSN (R105). -/
theorem loadResult_poison_sameButRows {t u : State} (h : SameButRows t u) (hs : Steady u) (len : Nat) (d : Reg) (A : Word) (v : Word) :
    SameButRows (loadResult len d A true v t) (if u.hart.ptrap then trappedHere 0x07 (BitVec.ofNat 64 (A.toNat / 64 * 64)) u
      else retired (u.hart.pc + BitVec.ofNat 64 len) PSN (u.setX d 0)) := by
  unfold loadResult
  rw [if_pos rfl, sameButRows_hart h]
  split
  · rw [loadPoison, trapHere_plain (by decide)]
    exact sameButRows_trappedHere h _ _
  · rw [finishFlags_steady (steady_setX (steady_of_sameButRows h hs) d 0) (PSN_unenabled _), State.setX_hart, Hart.setX_pc, sameButRows_hart h]
    exact sameButRows_retired (sameButRows_setX h d 0) _ _

theorem afterVectors_reached {s : State} {m : Mapped} (h : m.WalkReached s) (n : Nat) : m.WalkReached (afterVectors s m.pa n) :=
  h.of_links (afterVectors_moved s m.pa n).linkDown

theorem loadResults : Claim.LoadResults := by
  intro s i len d A n ext m hs hu form granted
  obtain ⟨run, hn0, hn⟩ := exec_of_loadForm form
  have reached := checkAccess_reached granted.2.2
  rw [run, loadScalar_of_grants granted]
  constructor
  · intro dev
    rw [if_pos dev]
    exact ⟨_, rfl, writeInt_sameButRows (noteWalk_sameButRows hu reached _) hs ..⟩
  · intro dev
    refine ⟨fun hv => afterVectors_scalar hv _ _, fun v seen => ⟨_, rfl, ?_⟩⟩
    have moved := afterVectors_moved s m.pa n
    rw [if_neg (by simp [dev]), seen.2.2, viewRead_of_seen seen]
    exact writeInt_sameButRows (afterLoadAs_sameButRows (moved.noUpset hu) false (afterVectors_reached reached n) (by omega) (served_of_view seen.2.2))
      (moved.steady hs) ..

theorem poisonedLoads : Claim.PoisonedLoads := by
  intro s i len d A n ext m hs hu form granted dev up u bad
  obtain ⟨run, hn0, hn⟩ := exec_of_loadForm form
  have moved := afterVectors_moved s m.pa n
  refine ⟨_, run, ?_⟩
  rw [loadScalar_of_grants granted, if_neg (by simp [dev]), bad]
  obtain ⟨l, hart⟩ := moved.hart
  have poison := loadResult_poison_sameButRows
    (afterLoadAs_sameButRows (moved.noUpset hu) false (afterVectors_reached (checkAccess_reached granted.2.2) n) (by omega)
      fun k hk => .inl ((moved.linkDown k).trans (up.2 k hk))) (moved.steady hs) len d A (ext (viewRead (afterVectors s m.pa n) m n))
  rw [hart] at poison
  exact poison

open Sys2Proof.Claim

/-! ## LDA (R101, R104, R216) -/

theorem scopedAddr_eq (s : State) (a : Reg) (im : BitVec 10) : scopedAddr (s.getX a) im = scopedAt s a im := by
  unfold scopedAddr scopedAt
  rw [signExtend_eq_ofInt, BitVec.ofInt_mul]
  rfl

theorem dropL1_eq (s : State) : ∃ c, dropL1 s = { s with cores := c } := by
  unfold dropL1
  dsimp only
  split
  · exact ⟨s.cores, rfl⟩
  · exact ⟨_, rfl⟩

theorem dropL1_l1 (s : State) : ((dropL1 s).core (coreOf s.hart.id)).l1 = [] := by
  unfold dropL1
  dsimp only
  split
  · next h => exact List.isEmpty_iff.1 h
  · rw [State.core_setCore]

/-- What device space reads depends on its blocks alone. -/
theorem devRead_congr {s t : State} (dram : t.dram = s.dram) (fabric : t.fabric = s.fabric) (ctxs : t.ctxs = s.ctxs) (power : t.power = s.power)
    (ras : t.ras = s.ras) (life : t.life = s.life) (parts : t.parts = s.parts) (time : t.time = s.time) (pa : Nat) : devRead t pa = devRead s pa := by
  have channel (c o : Nat) : readChannel t c o = readChannel s c o := by unfold readChannel; rw [dram]
  have fabric' (o : Nat) : readFabric t o = readFabric s o := by unfold readFabric; rw [fabric]
  have context (o : Nat) : readContext t o = readContext s o := by unfold readContext State.ctx; rw [ctxs]
  have power' (o : Nat) : readPower t o = readPower s o := by unfold readPower; rw [power]
  have ras' (o : Nat) : readRas t o = readRas s o := by unfold readRas; rw [ras]
  have life' (o : Nat) : readLifetime t o = readLifetime s o := by unfold readLifetime; rw [life]
  have control (q : Part) (o : Nat) : readControl t q o = readControl s q o := by unfold readControl; rw [time]
  have part (p : BitVec 3) : t.partn p = s.partn p := by unfold State.partn; simp only [parts]
  simp only [devRead, channel, fabric', context, power', ras', life', control, part]

/-- The hart's view as LDA loads through it: the sector it names, and at core scope or wider an empty L1. -/
def acquireView (scope : BitVec 3) (m : Mapped) (s : State) : State :=
  let named := s.withHart { s.hart with lastLda := some (m.pa / 64 * 64) }
  if scope = 0 then named else dropL1 named

theorem acquireView_eq (scope : BitVec 3) (m : Mapped) (s : State) :
    ∃ c, acquireView scope m s = { s with hart := { s.hart with lastLda := some (m.pa / 64 * 64) }, cores := c } := by
  unfold acquireView
  dsimp only
  split
  · exact ⟨s.cores, rfl⟩
  · exact dropL1_eq (s.withHart { s.hart with lastLda := some (m.pa / 64 * 64) })

theorem acquireView_noUpset {scope : BitVec 3} {m : Mapped} {s : State} (h : NoUpset s) : NoUpset (acquireView scope m s) := by
  obtain ⟨c, e⟩ := acquireView_eq scope m s
  rw [e]
  exact h

theorem acquireView_linkDown (scope : BitVec 3) (m : Mapped) (s : State) (pa : Nat) : linkDown (acquireView scope m s) pa = linkDown s pa := by
  obtain ⟨c, e⟩ := acquireView_eq scope m s
  rw [e]
  rfl

theorem acquireView_devRead (scope : BitVec 3) (m : Mapped) (s : State) (pa : Nat) : devRead (acquireView scope m s) pa = devRead s pa := by
  obtain ⟨c, e⟩ := acquireView_eq scope m s
  apply devRead_congr <;> rw [e]

theorem acquireView_steady {scope : BitVec 3} {m : Mapped} {s : State} (h : Steady s) : Steady (acquireView scope m s) := by
  obtain ⟨c, e⟩ := acquireView_eq scope m s
  rw [e]
  exact h

theorem acquireView_l1 {scope : BitVec 3} (h : scope ≠ 0) (m : Mapped) (s : State) : ((acquireView scope m s).core (coreOf s.hart.id)).l1 = [] := by
  unfold acquireView
  dsimp only
  rw [if_neg h]
  exact dropL1_l1 (s.withHart _)

/-- LDA as a load through the view it acquires. -/
def ldaLoad (d : Reg) (scope : BitVec 3) (A : Word) (s : State) : State :=
  if A.toNat % 8 ≠ 0 then trapHere (trapOf 0x02 A) s
  else if isRemote A then trapHere (remoteTrap A) s
  else match checkAccess s .load true 8 A with
    | .error t => trapHere t s
    | .ok m =>
      let v := acquireView scope m s
      if isDevice m.pa then writeInt 4 d (devRead v m.pa) (noteWalk v (some v.hart.id) m)
      else
        let u := afterVectors v m.pa 8
        loadResult 4 d A (viewPoisoned u m 8) (BitVec.ofNat 64 (viewRead u m 8)) (afterLoad u m 8)

theorem exec_lda {d a : Reg} {scope : BitVec 3} (h : scope.toNat < 6) (im : BitVec 10) (s : State) :
    exec (.lda d a scope im) s = .next (ldaLoad d scope (scopedAt s a im) s) := by
  have hw : wellFormed (.lda d a scope im) = true := decide_eq_true h
  rw [← scopedAddr_eq]
  exact congrArg _ (checked_wellFormed hw s _)

theorem wrote_l1 (len : Nat) (d : Reg) (v : Word) (s : State) (c : Nat) : (wrote len d v s).core c = s.core c := rfl

theorem loadAcquire : Claim.LoadAcquire := by
  intro s d a scope im hs hscope A
  rw [exec_lda hscope]
  refine ⟨fun mis => ?_, fun aligned far => ?_, fun m hu ⟨aligned, near, granted⟩ => ?_⟩
  · rw [ldaLoad, if_pos mis, trapHere_plain (by decide)]
  · rw [ldaLoad, if_neg (by simpa using aligned), isRemote, if_pos far, remoteTrap, trapHere_plain (by decide)]
  have reached : m.WalkReached (acquireView scope m s) := (checkAccess_reached granted).of_links (acquireView_linkDown scope m s)
  have load : ldaLoad d scope A s =
      if isDevice m.pa then writeInt 4 d (devRead (acquireView scope m s) m.pa) (noteWalk (acquireView scope m s) (some (acquireView scope m s).hart.id) m)
      else loadResult 4 d A (viewPoisoned (afterVectors (acquireView scope m s) m.pa 8) m 8)
        (BitVec.ofNat 64 (viewRead (afterVectors (acquireView scope m s) m.pa 8) m 8)) (afterLoad (afterVectors (acquireView scope m s) m.pa 8) m 8) := by
    rw [ldaLoad, if_neg (by simpa using aligned), isRemote, near, if_neg (by decide)]
    rw [show checkAccess s .load true 8 A = .ok m from granted]
  refine ⟨fun dev => ⟨_, rfl, ?_, fun wide => ?_⟩, fun dev v seen => ⟨_, rfl, ?_⟩⟩
  · rw [load, if_pos dev, acquireView_devRead]
    exact writeInt_sameButRows (noteWalk_sameButRows (acquireView_noUpset hu) reached _) (acquireView_steady hs) ..
  · have walked := noteWalk_sameButRows (acquireView_noUpset (scope := scope) (m := m) hu) reached (some (acquireView scope m s).hart.id)
    rw [load, if_pos dev, writeInt_steady (steady_of_sameButRows walked (acquireView_steady hs)), wrote_l1, noteWalk_l1 (acquireView_noUpset hu) reached]
    exact acquireView_l1 wide m s
  · have moved := afterVectors_moved (acquireView scope m s) m.pa 8
    have seen' : Seen (afterVectors (acquireView scope m s) m.pa 8) m 8 v := seen
    rw [load, if_neg (by simp [dev]), seen'.2.2, viewRead_of_seen seen']
    exact writeInt_sameButRows (afterLoadAs_sameButRows (moved.noUpset (acquireView_noUpset hu)) false (afterVectors_reached reached 8) (by decide)
      (served_of_view seen'.2.2)) (moved.steady (acquireView_steady hs)) ..

/-- Settles O15: a load that every check admits moves caches and rows alone on its way (`afterLoadAs_sameButRows`), behind the vector stores it waits for
(`afterVectors_moved`); LDA is that load through the view it acquires (`exec_lda`). -/
theorem scalarLoads : Obligations.ScalarLoads := ⟨loadResults, poisonedLoads, loadAcquire⟩

open Sys2Proof.Claim

/-! ## What a write at its home moves (R243, R245, R301) -/

theorem sameButStore_of_rows {t u : State} (h : SameButRows t u) : SameButStore t u := by
  obtain ⟨e, c⟩ := h
  have mem : t.mem = u.mem := (congrArg State.mem e).trans rfl
  have held : t.held = u.held := (congrArg State.held e).trans rfl
  exact ⟨by rw [mem, held]; exact e, c⟩

theorem sameButStore_trans {t u v : State} (h : SameButStore t u) (k : SameButStore u v) : SameButStore t v :=
  ⟨h.1.trans (congrArg (fun x : State => { x with
      l2 := t.l2, dram := t.dram, life := t.life, mem := t.mem, held := t.held, cores := t.cores, benches := t.benches }) k.1),
    sameButCaches_trans h.2 k.2⟩

theorem sameButStore_hart {t u : State} (h : SameButStore t u) : t.hart = u.hart := (congrArg State.hart h.1).trans rfl
theorem sameButStore_upsets {t u : State} (h : SameButStore t u) : t.upsets = u.upsets := (congrArg State.upsets h.1).trans rfl
theorem sameButStore_links {t u : State} (h : SameButStore t u) : t.links = u.links := (congrArg State.links h.1).trans rfl
theorem sameButStore_snaps {t u : State} (h : SameButStore t u) : t.snaps = u.snaps := (congrArg State.snaps h.1).trans rfl

theorem sameButStore_withHart {t u : State} (h : SameButStore t u) (g : Hart) : SameButStore (t.withHart g) (u.withHart g) :=
  ⟨congrArg (fun x => State.withHart x g) h.1, h.2⟩

theorem sameButStore_forgetAhead {t u : State} (h : SameButStore t u) : SameButStore (forgetAhead t) (forgetAhead u) := by
  unfold forgetAhead
  rw [sameButStore_hart h]
  exact sameButStore_withHart h _

theorem sameButStore_retired {t u : State} (h : SameButStore t u) (npc : Word) (fl : BitVec 7) : SameButStore (retired npc fl t) (retired npc fl u) := by
  unfold retired
  rw [sameButStore_hart h]
  exact sameButStore_withHart h _

theorem sameButStore_passed {t u : State} (h : SameButStore t u) (len : Nat) : SameButStore (passed len t) (passed len u) := by
  unfold passed
  rw [sameButStore_hart h]
  exact sameButStore_retired h _ 0

theorem sameButStore_wrote {t u : State} (h : SameButStore t u) (len : Nat) (d : Reg) (v : Word) : SameButStore (wrote len d v t) (wrote len d v u) := by
  unfold wrote State.setX
  rw [sameButStore_hart h]
  exact sameButStore_retired (sameButStore_withHart h _) _ 0

theorem sameButRows_forgetAhead {t u : State} (h : SameButRows t u) : SameButRows (forgetAhead t) (forgetAhead u) := by
  unfold forgetAhead
  rw [sameButRows_hart h]
  exact sameButRows_withHart h _

theorem sameButRows_unheld {t u : State} (h : SameButRows t u) {pa n : Nat} (hu : Unheld u pa n) : Unheld t pa n := by
  have snaps : t.snaps = u.snaps := (congrArg State.snaps h.1).trans rfl
  intro p hp
  rw [pageHeld, snaps]
  exact hu p hp

theorem sameButRows_linkUp {t u : State} (h : SameButRows t u) {pa n : Nat} (hu : LinkUp u pa n) : LinkUp t pa n :=
  ⟨(sameButRows_linkDown h pa).trans hu.1, fun k hk => (sameButRows_linkDown h k).trans (hu.2 k hk)⟩

/-- Where no check value differs, bytes merged at their home write memory and the older values that walks may read. -/
theorem mergeBytes_sameButStore {s : State} (h : NoUpset s) (pa : Nat) (bs : List Byte) : SameButStore (mergeBytes s pa bs) s := by
  have e : mergeBytes s pa bs = { s with mem := (mergeBytes s pa bs).mem, held := (mergeBytes s pa bs).held } := by
    unfold mergeBytes
    have none : s.upsets.isEmpty = true := by rw [h]; rfl
    simp only [none, if_true, List.filter_nil, List.foldl_nil]
  rw [e]
  exact ⟨rfl, sameButCaches_of_eq rfl rfl⟩

theorem patchL1_sameButRows (s : State) (c pa n : Nat) (bs : List Byte) : SameButRows (patchL1 s c pa n bs) s := by
  unfold patchL1
  split
  · exact setCore_sameButRows s c _ _
  · exact sameButRows_refl s

theorem dropSectors_sameButRows (s : State) (c : Nat) (l : List Nat) : SameButRows (dropSectors s c l) s := by
  unfold dropSectors
  split
  · exact setCore_sameButRows s c _ _
  · exact sameButRows_refl s

/-- The bytes that a read of memory holds. -/
theorem memRead_byte (m : List Host.Cell) (a : Nat) {n i : Nat} (h : i < n) : BitVec.ofNat 8 (memRead m a n / 256 ^ i) = memGet m (a + i) := by
  induction n generalizing a i with
  | zero => omega
  | succ n ih =>
    have low := (memGet m a).isLt
    cases i with
    | zero =>
      apply BitVec.eq_of_toNat_eq
      simp only [memRead, Nat.pow_zero, Nat.div_one, BitVec.toNat_ofNat, Nat.add_zero]
      omega
    | succ i =>
      have shift : memRead m a (n + 1) / 256 ^ (i + 1) = memRead m (a + 1) n / 256 ^ i := by
        rw [Nat.pow_succ', ← Nat.div_div_eq_div_mul, memRead]
        congr 1
        omega
      rw [shift, ih (a + 1) (by omega)]
      congr 1
      omega

theorem ofNat_byte_mod (v : Nat) {n i : Nat} (h : i < n) : BitVec.ofNat 8 (v % 256 ^ n / 256 ^ i) = BitVec.ofNat 8 (v / 256 ^ i) := by
  have a := getElem?_bytesOf n (v % 256 ^ n) i
  have b := getElem?_bytesOf n v i
  rw [← ofBytes_bytesOf] at a
  have c := bytesOf_ofBytes (bytesOf n v)
  rw [length_bytesOf] at c
  rw [c, b, if_pos h, if_pos h] at a
  rw [← ofBytes_bytesOf]
  exact (Option.some_inj.1 a).symm

theorem two_pow_bytes (n : Nat) : 2 ^ (8 * n) = 256 ^ n := by rw [Nat.pow_mul]

theorem storedAt_of_mem {s t u : State} {a n v : Nat} (h : StoredAt s u a n v) (e : t.mem = u.mem) : StoredAt s t a n v := by
  intro b
  rw [e]
  exact h b

/-- A write of all its bytes, to a home that can be reached and whose pages no snapshot waits for, performs: its bytes stand there, and beside them only caches and
rows have moved. -/
theorem performWrite_stored {s : State} (hs : Sound s) (h : NoUpset s) {m : Mapped} {n : Nat} (up : LinkUp s m.pa n) (hu : Unheld s m.pa n) (c : Nat)
    (part : BitVec 3) (v : Nat) : SameButStore (performWrite c part s (m.write n v)) s ∧ StoredAt s (performWrite c part s (m.write n v)) m.pa n v := by
  have rows := touchAll_rows h part up.2 m.abench m.uc true true
  have bytes (old : Nat) : (m.write n v).bytes old = bytesOf n (v % 256 ^ n) := by
    rw [← two_pow_bytes]
    exact if_pos rfl
  have run : performWrite c part s (m.write n v) =
      patchL1 (homeWrite ((sectorsOf m.pa n).foldl (fun s k => touch s part k m.abench m.uc true true) s) m.pa (bytesOf n (v % 256 ^ n))) c m.pa n
        (bytesOf n (v % 256 ^ n)) := by
    unfold performWrite
    dsimp only
    rw [bytes]
    rfl
  rw [run]
  generalize (sectorsOf m.pa n).foldl (fun s k => touch s part k m.abench m.uc true true) s = t at rows
  have moved := rows.sameButRows
  rw [homeWrite_eq ((rows.linkDown m.pa).trans up.1) (by rw [length_bytesOf]; exact sameButRows_unheld moved hu)]
  refine ⟨sameButStore_trans (sameButStore_of_rows (patchL1_sameButRows _ c m.pa n _)) (sameButStore_trans (mergeBytes_sameButStore (rows.noUpset h) _ _)
    (sameButStore_of_rows moved)), storedAt_of_mem (fun b => ?_) (sameButRows_mem (patchL1_sameButRows _ c m.pa n _))⟩
  have ht : Memory.wf t.mem = true := by rw [sameButRows_mem moved]; exact hs
  rw [mergeBytes_get ht, length_bytesOf, sameButRows_mem moved]
  split
  · next i => rw [getElem?_bytesOf, if_pos (by omega), Option.getD_some, ofNat_byte_mod v (by omega)]
  · rfl

/-! ## Scalar stores (R101, R103, R104) -/

theorem exec_of_storeForm {s : State} {i : Instr} {len : Nat} {A : Word} {n : Nat} {b : Reg} (h : StoreForm s i len A n b) :
    exec i s = .next (storeScalar len A (s.getX b) n s) := by
  rcases h with ⟨p, hp, a, im, rfl, rfl, rfl, rfl⟩ | ⟨b3, a3, im, rfl, rfl, rfl, rfl, rfl⟩ | ⟨b3, a3, im, rfl, rfl, rfl, rfl, rfl⟩
  · revert p
    simp only [scalarStores, List.forall_mem_cons]
    exact ⟨rfl, rfl, rfl, rfl, List.forall_mem_nil _⟩
  · rw [← creg_eq_x3, ← creg_eq_x3, ← zeroExtend_mul_eq_ofNat]
    rfl
  · rw [← creg_eq_x3, ← creg_eq_x3, ← zeroExtend_mul_eq_ofNat]
    rfl

theorem storeScalar_of_grants {s : State} {A : Word} {n : Nat} {m : Mapped} (h : Grants s .store n A m) (mem : isDevice m.pa = false) (len : Nat) (v : Word) :
    storeScalar len A v n s = finish len (forgetAhead (commitStore s m n v.toNat)) := by
  obtain ⟨aligned, near, granted⟩ := h
  rw [storeScalar, if_neg (by simpa using aligned), isRemote, near, if_neg (by decide), granted]
  simp only [mem, Bool.false_eq_true, if_false]
  rfl

theorem forgetAhead_steady {s : State} (h : Steady s) : Steady (forgetAhead s) := h

theorem steady_of_sameButStore {t u : State} (h : SameButStore t u) (hs : Steady u) : Steady t := by
  unfold Steady
  rw [sameButStore_hart h]
  exact hs

theorem forgetAhead_mem (s : State) : (forgetAhead s).mem = s.mem := rfl
theorem passed_mem (len : Nat) (s : State) : (passed len s).mem = s.mem := rfl

/-- A store entry of one whole write performs at once where nothing older waits. -/
theorem performEntry_single (c : Nat) (part : BitVec 3) (s : State) (w : MemWrite) (rel : Bool) :
    performEntry c part s { parts := [[w]], anyOrder := false, clears := [], vector := false, rel := rel, left := 0 } = performWrite c part s w := rfl

theorem commitEntry_now {s : State} (h : s.policy.bufferStores = false) (hb : s.hart.stores = []) (w : MemWrite) (rel : Bool) :
    commitEntry s { parts := [[w]], anyOrder := false, clears := [], vector := false, rel := rel, left := 0 } = performWrite (coreOf s.hart.id) s.hart.partid s w := by
  rw [commitEntry, h, drainStores_empty hb]
  rfl

theorem commitEntry_later {s : State} (h : s.policy.bufferStores = true) (e : BufferedStore) :
    commitEntry s e = s.withHart { s.hart with stores := s.hart.stores ++ [e] } := by rw [commitEntry, h]; rfl

theorem afterVectors_empty {s : State} (h : s.hart.stores = []) (pa n : Nat) : afterVectors s pa n = s := drainThrough_empty h _

/-- Completing the store leaves its bytes in place. -/
theorem finish_stored {s u : State} (hs : Steady s) {pa n v : Nat} (h : SameButStore u s) (st : StoredAt s u pa n v) (len : Nat) :
    ∃ t, Host.Outcome.next (σ := State) (φ := Fault) (ρ := Refusal) (finish len (forgetAhead u)) = .next t ∧ StoredAt s t pa n v
      ∧ SameButStore t (passed len (forgetAhead s)) := by
  rw [finish_steady (forgetAhead_steady (steady_of_sameButStore h hs))]
  exact ⟨_, rfl, st, sameButStore_passed (sameButStore_forgetAhead h) len⟩

theorem storeResults : Claim.StoreResults := by
  intro s i len A n b m hs sound hu form granted mem
  have reached := checkAccess_reached granted.2.2
  have walk := noteWalk_sameButRows hu reached (some s.hart.id)
  have policy : (noteWalk s (some s.hart.id) m).policy = s.policy := (congrArg State.policy walk.1).trans rfl
  have hart := sameButRows_hart walk
  rw [exec_of_storeForm form, storeScalar_of_grants granted mem]
  refine ⟨fun now empty up free => ?_, fun later scalar => ⟨_, rfl, ?_⟩⟩
  · have stores : (noteWalk s (some s.hart.id) m).hart.stores = [] := by rw [hart]; exact empty
    have run : commitStore s m n (s.getX b).toNat = performWrite (coreOf s.hart.id) s.hart.partid (noteWalk s (some s.hart.id) m) (m.write n (s.getX b).toNat) := by
      rw [commitStore, afterVectors_empty stores, commitEntry_now (by rw [policy]; exact now) stores, hart]
    have sound' : Sound (noteWalk s (some s.hart.id) m) := by unfold Sound; rw [sameButRows_mem walk]; exact sound
    obtain ⟨same, stored⟩ := performWrite_stored sound' (sameButRows_noUpset walk hu) (sameButRows_linkUp walk up) (sameButRows_unheld walk free)
      (coreOf s.hart.id) s.hart.partid (s.getX b).toNat
    rw [run]
    refine finish_stored hs (sameButStore_trans same (sameButStore_of_rows walk)) (fun a => ?_) len
    rw [stored a, sameButRows_mem walk]
  · have run : commitStore s m n (s.getX b).toNat =
        (noteWalk s (some s.hart.id) m).withHart { s.hart with stores := s.hart.stores ++ [waiting m n (s.getX b).toNat false] } := by
      rw [commitStore, afterVectors_scalar (by rw [hart]; exact scalar), commitEntry_later (by rw [policy]; exact later), hart]
      rfl
    have moved := sameButRows_withHart walk { s.hart with stores := s.hart.stores ++ [waiting m n (s.getX b).toNat false] }
    rw [run, finish_steady (forgetAhead_steady (steady_of_sameButRows moved hs))]
    exact sameButRows_passed (sameButRows_forgetAhead moved) len

/-! ### SDREL -/

theorem exec_sdrel {a b : Reg} {scope : BitVec 3} (h : scope.toNat < 6) (im : BitVec 10) (s : State) :
    exec (.sdrel a b scope im) s = .next (
      if (scopedAt s a im).toNat % 8 ≠ 0 then trapHere (trapOf 0x02 (scopedAt s a im)) s
      else if isRemote (scopedAt s a im) then trapHere (remoteTrap (scopedAt s a im)) s
      else match checkAccess s .store true 8 (scopedAt s a im) with
        | .error t => trapHere t s
        | .ok m =>
          let v := s.getX b
          let s := noteWalk s (some s.hart.id) m
          if isDevice m.pa then (let s := devWrite (drainStores s) m.pa v; if s.hart.present then finish 4 s else s)
          else finish 4 (forgetAhead (releaseStore scope.toNat m v (afterVectors s m.pa 8)))) := by
  have hw : wellFormed (.sdrel a b scope im) = true := decide_eq_true h
  rw [← scopedAddr_eq]
  exact congrArg _ (checked_wellFormed hw s _)

theorem settleOwed_none {s : State} (h : OwesNone s) : settleOwed s = s := by
  have none : s.owed.any (fun o => o.hart == s.hart.id && o.farm == s.hart.farm) = false := by
    rw [List.any_eq_false]
    intro o ho
    simpa using h o ho
  simp only [settleOwed, none, Bool.false_eq_true, if_false]

/-- A buffer as a release leaves it for the stores older than it: at core to die scope they are marked visible there. -/
def markedLeft (scope : BitVec 3) (l : List BufferedStore) : List BufferedStore :=
  if scope = 0 ∨ 4 ≤ scope.toNat then l else l.map (fun e => { e with left := max e.left scope.toNat })

theorem release_marks (scope : BitVec 3) (s : State) :
    (if scope.toNat ≥ 4 then s else releaseAt scope.toNat s) = s.withHart { s.hart with stores := markedLeft scope s.hart.stores } := by
  have zero : scope.toNat = 0 ↔ scope = 0 := ⟨fun h => BitVec.eq_of_toNat_eq h, fun h => h ▸ rfl⟩
  unfold releaseAt markedLeft
  by_cases wide : scope.toNat ≥ 4
  · rw [if_pos wide, if_pos (.inr wide)]
    rfl
  rw [if_neg wide, if_neg wide]
  by_cases own : scope = 0
  · rw [if_pos (zero.2 own), if_pos (.inl own)]
    rfl
  · rw [if_neg (mt zero.1 own), if_neg (by tauto)]

theorem releaseStore_eq {s : State} (h : OwesNone s) (scope : BitVec 3) (m : Mapped) (v : Word) :
    releaseStore scope.toNat m v s = commitEntry (s.withHart { s.hart with stores := markedLeft scope s.hart.stores })
      (waiting m 8 v.toNat (decide (4 ≤ scope.toNat))) := by
  rw [releaseStore, release_marks]
  exact congrArg (fun t => commitEntry t _) (settleOwed_none (s := s.withHart { s.hart with stores := markedLeft scope s.hart.stores }) h)

theorem storeRelease : Claim.StoreRelease := by
  intro s a b scope im hs hscope A
  rw [exec_sdrel hscope]
  refine ⟨fun mis => ?_, fun aligned far => ?_, fun m sound hu owes ⟨aligned, near, granted⟩ mem => ?_⟩
  · rw [if_pos mis, trapHere_plain (by decide)]
  · rw [if_neg (by simpa using aligned), isRemote, if_pos far, remoteTrap, trapHere_plain (by decide)]
  have walk := noteWalk_sameButRows hu (checkAccess_reached granted) (some s.hart.id)
  have policy : (noteWalk s (some s.hart.id) m).policy = s.policy := (congrArg State.policy walk.1).trans rfl
  have owed : (noteWalk s (some s.hart.id) m).owed = s.owed := (congrArg State.owed walk.1).trans rfl
  have hart := sameButRows_hart walk
  rw [if_neg (by simpa using aligned), isRemote, near, if_neg (by decide), show checkAccess s .store true 8 (scopedAt s a im) = .ok m from granted]
  simp only [mem, Bool.false_eq_true, if_false]
  have owes' : OwesNone (noteWalk s (some s.hart.id) m) := by unfold OwesNone; rw [owed, hart]; exact owes
  refine ⟨fun now empty up free => ?_, fun later scalar => ⟨_, rfl, ?_⟩⟩
  · have stores : (noteWalk s (some s.hart.id) m).hart.stores = [] := by rw [hart]; exact empty
    have unmarked : ((noteWalk s (some s.hart.id) m).withHart { s.hart with stores := markedLeft scope s.hart.stores }) = noteWalk s (some s.hart.id) m := by
      have none : markedLeft scope s.hart.stores = s.hart.stores := by rw [empty]; exact ite_self _
      rw [none]
      exact congrArg (State.withHart _) hart.symm
    have run : releaseStore scope.toNat m (s.getX b) (afterVectors (noteWalk s (some s.hart.id) m) m.pa 8) =
        performWrite (coreOf s.hart.id) s.hart.partid (noteWalk s (some s.hart.id) m) (m.write 8 (s.getX b).toNat) := by
      rw [afterVectors_empty stores, releaseStore_eq owes', hart, unmarked]
      exact (commitEntry_now (by rw [policy]; exact now) stores _ _).trans (by rw [hart]; rfl)
    have sound' : Sound (noteWalk s (some s.hart.id) m) := by unfold Sound; rw [sameButRows_mem walk]; exact sound
    obtain ⟨same, stored⟩ := performWrite_stored sound' (sameButRows_noUpset walk hu) (sameButRows_linkUp walk up) (sameButRows_unheld walk free)
      (coreOf s.hart.id) s.hart.partid (s.getX b).toNat
    rw [run]
    refine finish_stored hs (sameButStore_trans same (sameButStore_of_rows walk)) (fun a => ?_) 4
    rw [stored a, sameButRows_mem walk]
  · have run : releaseStore scope.toNat m (s.getX b) (afterVectors (noteWalk s (some s.hart.id) m) m.pa 8) = (noteWalk s (some s.hart.id) m).withHart
        { s.hart with stores := markedLeft scope s.hart.stores ++ [waiting m 8 (s.getX b).toNat (decide (4 ≤ scope.toNat))] } := by
      rw [afterVectors_scalar (by rw [hart]; exact scalar), releaseStore_eq owes', hart,
        commitEntry_later (s := (noteWalk s (some s.hart.id) m).withHart _) (by rw [State.withHart_policy, policy]; exact later)]
      rfl
    have moved := sameButRows_withHart walk
      { s.hart with stores := markedLeft scope s.hart.stores ++ [waiting m 8 (s.getX b).toNat (decide (4 ≤ scope.toNat))] }
    rw [run, finish_steady (forgetAhead_steady (steady_of_sameButRows moved hs))]
    exact sameButRows_passed (sameButRows_forgetAhead moved) 4

/-- Settles O16: a store that every check admits performs its bytes where nothing waits (`performWrite_stored`), or stands last in the buffer
(`commitEntry_later`); SDREL marks or waits for the older ones first (`releaseStore_eq`). -/
theorem scalarStores : Obligations.ScalarStores := ⟨storeResults, storeRelease⟩

/-! ## Addresses (R38, R101, R312) -/

theorem checkAccess_noncanonical {s : State} {k : AccessKind} {dev : Bool} {n : Nat} {A : Word} (aligned : A.toNat % n = 0)
    (high : A.extractLsb' 57 7 ≠ 0) :
    checkAccess s k dev n A = .error (trapOf (match k with | .fetch => 0x03 | .load => 0x04 | .store => 0x05) A) := by
  have t : translate s s.hart.space (some s.hart.id) k A = .error (xfault false none) := by rw [translate, if_pos (by simpa using high)]
  rw [checkAccess, if_neg (by simpa using aligned), locate, t]
  rfl

theorem extractLsb'_high {A : Word} (h : A.extractLsb' 57 6 ≠ 0) : A.extractLsb' 57 7 ≠ 0 := by
  intro z
  refine h (BitVec.eq_of_getLsbD_eq fun i hi => ?_)
  have bit := congrArg (fun x => x.getLsbD i) z
  simpa [hi, Nat.lt_succ_of_lt hi] using bit

theorem addressTraps : Claim.AddressTraps := by
  intro s i len d A n ext load form
  cases load with
  | true =>
    rw [if_pos rfl] at form
    rw [(exec_of_loadForm form).1]
    refine ⟨fun mis => ?_, fun aligned near high => ?_⟩
    · rw [loadScalar, if_pos mis, trapHere_plain (by decide)]
    · rw [loadScalar, if_neg (by simpa using aligned), isRemote, near, if_neg (by decide), checkAccess_noncanonical aligned (extractLsb'_high high)]
      exact congrArg _ (trapHere_plain (by decide) A s)
  | false =>
    rw [if_neg (by decide)] at form
    rw [exec_of_storeForm form]
    refine ⟨fun mis => ?_, fun aligned near high => ?_⟩
    · rw [storeScalar, if_pos mis, trapHere_plain (by decide)]
    · rw [storeScalar, if_neg (by simpa using aligned), isRemote, near, if_neg (by decide), checkAccess_noncanonical aligned (extractLsb'_high high)]
      exact congrArg _ (trapHere_plain (by decide) A s)

/-- With both stages off an address below 2^52 is its own translation (R312). -/
theorem walk_off {s : State} {sp : Space} {va : Nat} (first : sp.ptbase.getLsbD 0 = false) (second : (s.partn sp.part).g2base.getLsbD 0 = false)
    (h : va < 2 ^ 52) : ∃ e, walk s sp va = ([], .ok e) ∧ e.va = 0 ∧ e.pa = 0 ∧ e.p1 = allPerm ∧ (e.p2.r ∧ e.p2.w ∧ e.p2.x) ∧ e.stage1 = false ∧ e.uc = false
      ∧ e.abench = none := by
  have off : g2On s sp = false := by rw [g2On, second, Bool.and_false]
  have whole : va % 2 ^ 52 = va := Nat.mod_eq_of_lt h
  simp only [walk, first, h, if_true, Bool.false_eq_true, if_false, Walked.andThen, secondStage, off, Bool.not_false, List.nil_append]
  refine ⟨_, rfl, ?_, ?_, rfl, ⟨rfl, rfl, rfl⟩, rfl, rfl, rfl⟩
  · show va - va % min (2 ^ 52) (2 ^ 52) = 0
    rw [Nat.min_self, whole, Nat.sub_self]
  · show 0 + (0 + va % 2 ^ 52) % 2 ^ 52 - va % min (2 ^ 52) (2 ^ 52) = 0
    rw [Nat.min_self, Nat.zero_add, Nat.zero_add, whole, whole, Nat.sub_self]

theorem untranslatedAddresses : Claim.UntranslatedAddresses := by
  intro s k dev n A first second coreTlb benchTlb low aligned mem
  obtain ⟨e, hw, va, pa, p1, ⟨r, w, x⟩, stage1, uc, abench⟩ := walk_off (sp := s.hart.space) first second low
  have canonical : A.extractLsb' 57 7 = 0 := by
    apply BitVec.eq_of_toNat_eq
    rw [BitVec.extractLsb'_toNat, Nat.shiftRight_eq_div_pow, Nat.div_eq_of_lt (by omega)]
    rfl
  obtain ⟨m, judged, place⟩ : ∃ m, judge s s.hart.space k A.toNat e (some (e, [])) = .ok m ∧ m.pa = A.toNat ∧ m.uc = false ∧ m.abench = none := by
    refine ⟨{ pa := A.toNat, ipa := e.ipa + (A.toNat - e.va), uc := e.uc, abench := e.abench, viaG2 := e.viaG2, walk := some (e, []) }, ?_, rfl, uc, abench⟩
    cases k <;> simp [judge, p1, r, w, x, stage1, abench, va, pa, allPerm]
  have translated : translate s s.hart.space (some s.hart.id) k A = .ok m := by
    rw [translate, if_neg (by simp [canonical]), hw]
    simp only [State.tlbs, coreTlb, benchTlb, List.append_nil, List.find?_nil, judged]
  refine ⟨m, ?_, place⟩
  rw [checkAccess, if_neg (by simpa using aligned), locate, translated]
  simp only [place.1, mem, Bool.true_or, if_true]

/-- Settles O17: the alignment check and the canonical check come before every translation (`checkAccess_noncanonical`), and a walk with both stages off
gives the address back (`walk_off`). -/
theorem scalarAddresses : Obligations.ScalarAddresses := ⟨addressTraps, untranslatedAddresses⟩

open Sys2Proof.Claim

/-! ## Scalar atomics (R206, R207) -/

theorem acquireIf_sameButRows (o : BitVec 2) (s : State) : SameButRows (acquireIf o s) s := by
  unfold acquireIf dropL1
  dsimp only
  split
  · split
    · exact sameButRows_refl s
    · exact setCore_sameButRows s _ [] _
  · exact sameButRows_refl s

theorem releaseIf_none {s : State} (hb : s.hart.stores = []) (ho : OwesNone s) (o : BitVec 2) : releaseIf o s = s := by
  unfold releaseIf
  rw [drainStores_empty hb, settleOwed_none ho, ite_self]

theorem storedAt_self (s : State) (a n : Nat) : StoredAt s s a n (memRead s.mem a n) := by
  intro b
  split
  · next i => rw [memRead_byte _ _ (by omega)]; congr 1; omega
  · rfl

theorem storedAt_trans_mem {s t u : State} {a n v : Nat} (h : StoredAt t u a n v) (e : t.mem = s.mem) : StoredAt s u a n v := by
  intro b
  rw [h b, e]

/-- The state in which an atomic reads and writes its home: its walk is taken and its sectors are served. -/
def amoReady (s : State) (m : Mapped) (n : Nat) : State :=
  (sectorsOf m.pa n).foldl (fun s k => touch s s.hart.partid k m.abench m.uc false true) (noteWalk s (some s.hart.id) m)

theorem amoReady_sameButRows {s : State} (hu : NoUpset s) {m : Mapped} (hm : m.WalkReached s) {n : Nat} (up : LinkUp s m.pa n) : SameButRows (amoReady s m n) s := by
  have walk := noteWalk_sameButRows hu hm (some s.hart.id)
  have rows : RowsMoved (noteWalk s (some s.hart.id) m) (amoReady s m n) :=
    .foldl fun t ht k hk => touch_rows (ht.noUpset (sameButRows_noUpset walk hu)) _ ((ht.linkDown k).trans ((sameButRows_linkDown walk k).trans (up.2 k hk))) ..
  exact sameButRows_trans rows.sameButRows walk

theorem amoAt_eq {s : State} (hb : s.hart.stores = []) (m : Mapped) (op w b expect : Nat) :
    amoAt s m op w b expect =
      let t := amoReady s m (w / 8)
      let old := homeRead t m.pa (w / 8)
      (old, if op = 9 && old != expect then dropSectors t (coreOf t.hart.id) (sectorsOf m.pa (w / 8))
            else performWrite (coreOf t.hart.id) t.hart.partid t (m.write (w / 8) (amoValue op w old b expect))) := by
  unfold amoAt
  dsimp only
  rw [drainThrough_empty hb]
  rfl

/-- What an atomic leaves in memory: a CAS that finds another value leaves the old one. -/
def amoNew (op w old b expect : Nat) : Nat := if op = 9 && old != expect then old else amoValue op w old b expect

/-- An atomic that can reach its home replaces memory's value by the operation's, and finds the old one. -/
theorem amoAt_stored {s : State} {A : Word} {w : Nat} {m : Mapped} (hs : Sound s) (hu : NoUpset s) (place : AtomicAt s A (w / 8) m) (op b expect : Nat) :
    ∃ t, amoAt s m op w b expect = (memRead s.mem m.pa (w / 8), t) ∧ SameButStore t s
      ∧ StoredAt s t m.pa (w / 8) (amoNew op w (memRead s.mem m.pa (w / 8)) b expect) := by
  obtain ⟨-, -, granted, empty, -, -, up, free⟩ := place
  have ready := amoReady_sameButRows hu (checkAccess_reached granted) up
  have read : homeRead (amoReady s m (w / 8)) m.pa (w / 8) = memRead s.mem m.pa (w / 8) := by
    rw [homeRead, sameButRows_linkDown ready, up.1, sameButRows_mem ready]
    rfl
  have sound : Sound (amoReady s m (w / 8)) := by unfold Sound; rw [sameButRows_mem ready]; exact hs
  refine ⟨_, by rw [amoAt_eq empty]; dsimp only; rw [read], ?_⟩
  unfold amoNew
  split
  · have drop := dropSectors_sameButRows (amoReady s m (w / 8)) (coreOf (amoReady s m (w / 8)).hart.id) (sectorsOf m.pa (w / 8))
    exact ⟨sameButStore_of_rows (sameButRows_trans drop ready),
      storedAt_of_mem (storedAt_self s m.pa (w / 8)) ((sameButRows_mem drop).trans (sameButRows_mem ready))⟩
  · obtain ⟨same, stored⟩ := performWrite_stored sound (sameButRows_noUpset ready hu) (sameButRows_linkUp ready up) (sameButRows_unheld ready free)
      (coreOf (amoReady s m (w / 8)).hart.id) (amoReady s m (w / 8)).hart.partid (amoValue op w (memRead s.mem m.pa (w / 8)) b expect)
    exact ⟨sameButStore_trans same (sameButStore_of_rows ready), storedAt_trans_mem stored (sameButRows_mem ready)⟩

/-- A scalar atomic at a device-local address that every check admits. -/
theorem amoStep_done {s : State} (st : Steady s) (hs : Sound s) (hu : NoUpset s) {i : Instr} (hw : wellFormed i = true) {w : Nat} {m : Mapped} {a : Reg}
    (place : AtomicAt s (s.getX a) (w / 8) m) (op : Nat) (d b : Reg) (o : BitVec 2) :
    ∃ t, amoStep i op w d a b o s = .next t
      ∧ AtomicDone s t d m (w / 8) (amoNew op w (memRead s.mem m.pa (w / 8)) ((s.getX b).toNat % 2 ^ w) ((s.getX d).toNat % 2 ^ w))
          (amoOld op w (memRead s.mem m.pa (w / 8))) := by
  have whole := place
  obtain ⟨aligned, near, granted, empty, owes, clean, -, -⟩ := whole
  obtain ⟨t, run, same, stored⟩ := amoAt_stored hs hu place op ((s.getX b).toNat % 2 ^ w) ((s.getX d).toNat % 2 ^ w)
  have acquired := acquireIf_sameButRows o (forgetAhead t)
  have final : SameButStore (acquireIf o (forgetAhead t)) (forgetAhead s) := sameButStore_trans (sameButStore_of_rows acquired) (sameButStore_forgetAhead same)
  have steps : amoStep i op w d a b o s = .next (writeInt 4 d (amoOld op w (memRead s.mem m.pa (w / 8))) (acquireIf o (forgetAhead t))) := by
    unfold amoStep
    rw [checked_wellFormed hw]
    dsimp only
    rw [if_neg (by simpa using aligned), isRemote, near, if_neg (by decide), granted]
    dsimp only
    rw [afterVectors_empty empty, releaseIf_none empty owes, clean, if_neg (by decide), run]
    rfl
  refine ⟨_, steps, ?_, ?_⟩
  · rw [writeInt_steady (steady_of_sameButStore final (forgetAhead_steady st))]
    exact storedAt_of_mem (u := t) stored ((sameButRows_mem acquired).trans (forgetAhead_mem t))
  · rw [writeInt_steady (steady_of_sameButStore final (forgetAhead_steady st))]
    exact sameButStore_wrote final 4 d _

theorem toSigned_emod_self {w x : Nat} (h : x < 2 ^ w) : wrapInt w (toSigned w x) = x := by
  have e : (toSigned w x) % ((2 ^ w : Nat) : Int) = x := by
    rw [toSigned, Nat.mod_eq_of_lt h]
    split
    · exact Int.emod_eq_of_lt (by omega) (by exact_mod_cast h)
    · rw [show ((2 ^ w : Nat) : Int) = 2 ^ w by push_cast; rfl, Int.sub_emod_right]
      exact Int.emod_eq_of_lt (by omega) (by exact_mod_cast h)
  rw [wrapInt, e, Int.toNat_natCast]

theorem amoValue_min {w old b : Nat} (ho : old < 2 ^ w) (hb : b < 2 ^ w) (e : Nat) :
    amoValue 4 w old b e = wrapInt w (min (toSigned w old) (toSigned w b)) := by
  show (if toSigned w old ≤ toSigned w b then old else b) = _
  split
  · next h => rw [min_eq_left h, toSigned_emod_self ho]
  · next h => rw [min_eq_right (by omega), toSigned_emod_self hb]

theorem amoValue_max {w old b : Nat} (ho : old < 2 ^ w) (hb : b < 2 ^ w) (e : Nat) :
    amoValue 5 w old b e = wrapInt w (max (toSigned w old) (toSigned w b)) := by
  show (if toSigned w old ≥ toSigned w b then old else b) = _
  split
  · next h => rw [max_eq_left h, toSigned_emod_self ho]
  · next h => rw [max_eq_right (by omega), toSigned_emod_self hb]

theorem amoBits_eq (w : BitVec 2) : amoBits w = if w = 0 then 32 else 64 := rfl

/-- Each of R206's integer atomics computes the value its table gives. -/
theorem exec_amoRows {s : State} {d a b : Reg} {w o : BitVec 2} (hw : w.toNat < 2) {old B e : Nat} (ho : old < 2 ^ amoBits w) (hB : B < 2 ^ amoBits w) :
    ∀ p ∈ amoRows, ∃ op, wellFormed (p.1 d a b w o) = true ∧ exec (p.1 d a b w o) s = amoStep (p.1 d a b w o) op (amoBits w) d a b o s
      ∧ amoNew op (amoBits w) old B e = p.2 (amoBits w) old B ∧ ∀ x, amoOld op (amoBits w) x = signTo (amoBits w) x := by
  have ok : decide (w.toNat < 2) = true := decide_eq_true hw
  simp only [amoRows, List.forall_mem_cons]
  refine ⟨?add, ?and, ?or, ?xor, ?min, ?max, ?minu, ?maxu, ?swap, List.forall_mem_nil _⟩
  case min => exact ⟨4, ok, rfl, amoValue_min ho hB e, fun _ => rfl⟩
  case max => exact ⟨5, ok, rfl, amoValue_max ho hB e, fun _ => rfl⟩
  case add => exact ⟨0, ok, rfl, rfl, fun _ => rfl⟩
  case and => exact ⟨1, ok, rfl, rfl, fun _ => rfl⟩
  case or => exact ⟨2, ok, rfl, rfl, fun _ => rfl⟩
  case xor => exact ⟨3, ok, rfl, rfl, fun _ => rfl⟩
  case minu => exact ⟨6, ok, rfl, rfl, fun _ => rfl⟩
  case maxu => exact ⟨7, ok, rfl, rfl, fun _ => rfl⟩
  case swap => exact ⟨8, ok, rfl, rfl, fun _ => rfl⟩

theorem amoNew_cas (w old b expect : Nat) : amoNew 9 w old b expect = if old = expect then b else old := by
  unfold amoNew amoValue
  by_cases h : old = expect <;> simp [h]

theorem atomicResults : Claim.AtomicResults := by
  intro s d a b w o m st hs hu hw bits old B x place
  have old_lt : old < 2 ^ amoBits w := by
    have h : old < 256 ^ (amoBits w / 8) := memRead_lt s.mem m.pa (amoBits w / 8)
    rw [← two_pow_bytes] at h
    rcases (by unfold amoBits; split <;> simp : amoBits w = 32 ∨ amoBits w = 64) with e | e <;> rw [e] at h ⊢ <;> exact h
  refine ⟨fun p hp => ?_, ?_⟩
  · obtain ⟨op, wf, run, new, signed⟩ := exec_amoRows (s := s) (d := d) (a := a) (b := b) (o := o) hw (e := (s.getX d).toNat % 2 ^ amoBits w) old_lt
      (Nat.mod_lt _ (Nat.two_pow_pos _) : B < 2 ^ amoBits w) p hp
    rw [run]
    obtain ⟨t, e, done⟩ := amoStep_done st hs hu wf (w := amoBits w) place op d b o
    rw [signed] at done
    exact ⟨t, e, (congrArg (fun v => AtomicDone s t d m (amoBits w / 8) v x) new).mp done⟩
  · obtain ⟨t, e, done⟩ := amoStep_done st hs hu (i := .amocas d a b w o) (decide_eq_true hw) (w := amoBits w) place 9 d b o
    rw [amoNew_cas] at done
    exact ⟨t, e, done⟩

theorem atomicFloatAdd : Claim.AtomicFloatAdd := by
  intro s d a b half o m st hs hu f n old place
  cases half with
  | true => exact amoStep_done st hs hu (i := .amofadd d a b true o) rfl (w := 16) place 10 d b o
  | false => exact amoStep_done st hs hu (i := .amofadd d a b false o) rfl (w := 32) place 10 d b o

/-- Settles O18: at a home that can be reached the read-modify-write stores the operation's value and finds the old one (`amoAt_stored`). -/
theorem atomics : Obligations.Atomics := ⟨atomicResults, atomicFloatAdd⟩

end Sys2Proof.Machine

namespace Sys2Proof.Machine
/-! # Scalar floating point, and traps taken after completion (R39, R63, R71, R110 to R115, R332) -/

open Sys2Proof.Claim

/-! ## Scalar FP arithmetic, comparisons and conversions (R63, R110 to R115) -/

theorem fpVal_scalarFmt (fmt : BitVec 2) (w : Word) : fpVal (scalarFmt fmt) w = operand fmt w := rfl

/-- The rounding code that an instruction resolves to (R30, R110). -/
theorem scalarRound_eq {s : State} {rm : BitVec 3} (h : roundCode s rm < 5) : scalarRound s.hart rm = some (roundCode s rm) := by
  unfold scalarRound roundCode at *
  by_cases dyn : rm = 7
  · subst dyn
    exact if_pos h
  · rw [if_neg dyn] at h ⊢
    simp only [beq_iff_eq, dyn, if_false]
    exact if_pos h

theorem fpRounded_eq {i : Instr} (hw : wellFormed i = true) {rm : BitVec 3} {s : State} (h : roundCode s rm < 5) (k : Nat → State → State) :
    fpRounded i rm s k = k (roundCode s rm) s := by
  rw [fpRounded, checked_wellFormed hw, scalarRound_eq h]

theorem scalarRm_fpFmt {rm : BitVec 3} {fmt : BitVec 2} (h5 : rm ≠ 5) (h6 : rm ≠ 6) (hf : fmt ≠ 3) : (scalarRm rm && fpFmt fmt) = true := by
  simp only [scalarRm, fpFmt, Bool.and_eq_true, bne_iff_ne]
  exact ⟨⟨h5, h6⟩, hf⟩

/-- An instruction of two operands computes its exact result and rounds it once. -/
theorem fpArith_eq {i : Instr} (hw : wellFormed i = true) {rm : BitVec 3} {s : State} (h : roundCode s rm < 5) (d a b : Reg) (fmt : BitVec 2)
    (op : Nat → Val → Val → Val × BitVec 7) :
    fpArith i d a b rm fmt op s = .next (writeFp d (roundOp (scalarFmt fmt) (roundCode s rm) false 0
      (op (roundCode s rm) (operand fmt (s.getX a)) (operand fmt (s.getX b)))) s) := by
  unfold fpArith
  rw [fpRounded_eq hw h]
  simp only [fpFormat_eq_scalarFmt, fpVal_scalarFmt]

theorem fpFused_eq {i : Instr} (hw : wellFormed i = true) {rm : BitVec 3} {s : State} (h : roundCode s rm < 5) (d a b : Reg) (fmt : BitVec 2) (np na : Bool) :
    fpFused i d a b rm fmt np na s = .next (writeFp d (roundOp (scalarFmt fmt) (roundCode s rm) false 0
      (fusedVal (roundCode s rm) (if np then (operand fmt (s.getX a)).flip else operand fmt (s.getX a)) (operand fmt (s.getX b))
        (if na then (operand fmt (s.getX d)).flip else operand fmt (s.getX d)))) s) := by
  unfold fpFused
  rw [fpRounded_eq hw h]
  simp only [fpFormat_eq_scalarFmt, fpVal_scalarFmt]

theorem exec_fpRows {s : State} {d a b : Reg} {rm : BitVec 3} {fmt : BitVec 2} (h5 : rm ≠ 5) (h6 : rm ≠ 6) (hf : fmt ≠ 3) (h : roundCode s rm < 5) :
    ∀ p ∈ fpRows, exec (p.1 d a b rm fmt) s = .next (writeFp d (roundOp (scalarFmt fmt) (roundCode s rm) false 0
      (p.2 (roundCode s rm) (operand fmt (s.getX a)) (operand fmt (s.getX b)))) s) := by
  have hw := scalarRm_fpFmt h5 h6 hf
  simp only [fpRows, List.forall_mem_cons]
  refine ⟨?fadd, ?fsub, ?fmul, ?fdiv, List.forall_mem_nil _⟩
  case fadd => exact fpArith_eq (i := .fadd d a b rm fmt) hw h d a b fmt addVal
  case fsub => exact fpArith_eq (i := .fsub d a b rm fmt) hw h d a b fmt fun c x y => addVal c x y.flip
  case fmul => exact fpArith_eq (i := .fmul d a b rm fmt) hw h d a b fmt fun _ x y => mulVal x y
  case fdiv => exact fpArith_eq (i := .fdiv d a b rm fmt) hw h d a b fmt fun _ x y => divVal x y

theorem exec_fusedRows {s : State} {d a b : Reg} {rm : BitVec 3} {fmt : BitVec 2} (h5 : rm ≠ 5) (h6 : rm ≠ 6) (hf : fmt ≠ 3) (h : roundCode s rm < 5) :
    ∀ p ∈ fusedRows, exec (p.1 d a b rm fmt) s = .next (writeFp d (roundOp (scalarFmt fmt) (roundCode s rm) false 0
      (p.2 (roundCode s rm) (operand fmt (s.getX a)) (operand fmt (s.getX b)) (operand fmt (s.getX d)))) s) := by
  have hw := scalarRm_fpFmt h5 h6 hf
  simp only [fusedRows, List.forall_mem_cons]
  refine ⟨?fma, ?fms, ?fnma, List.forall_mem_nil _⟩
  case fma => exact fpFused_eq (i := .fma d a b rm fmt) hw h d a b fmt false false
  case fms => exact fpFused_eq (i := .fms d a b rm fmt) hw h d a b fmt false true
  case fnma => exact fpFused_eq (i := .fnma d a b rm fmt) hw h d a b fmt true false

/-- Settles O19: each of them rounds its operands' exact result once (`fpArith_eq`, `fpFused_eq`) and writes code and flags (`writeFp_steady`). -/
theorem scalarFpArithmetic : Obligations.ScalarFpArithmetic := by
  intro s d a b rm fmt hs h5 h6 hf h
  refine ⟨fun p hp quiet => ?_, fun quiet => ?_, fun p hp quiet => ?_⟩
  · rw [exec_fpRows h5 h6 hf h p hp, writeFp_steady hs d quiet]
  · rw [← writeFp_steady hs d quiet]
    exact fpArith_eq (i := .fsqrt d a rm fmt) (scalarRm_fpFmt h5 h6 hf) h d a a fmt fun _ x _ => sqrtVal x
  · rw [exec_fusedRows h5 h6 hf h p hp, writeFp_steady hs d quiet]

theorem exec_fminmax {s : State} {i : Instr} (hw : wellFormed i = true) {rm : BitVec 3} (h : roundCode s rm < 5) (d a b : Reg) (fmt : BitVec 2) (max : Bool) :
    fpPick i d a b rm fmt max s = .next (writeFp d (fpMinMax (scalarFmt fmt) max ((s.getX a).toNat % 2 ^ elemWidth (scalarFmt fmt))
      ((s.getX b).toNat % 2 ^ elemWidth (scalarFmt fmt))) s) := by
  unfold fpPick
  rw [fpRounded_eq hw h, fpFormat_eq_scalarFmt]

theorem scalarFpComparisons : Claim.ScalarFpComparisons := by
  intro s d a b rm c fmt hs hf
  have ok : fpFmt fmt = true := bne_iff_ne.2 hf
  refine ⟨fun h5 h6 h => ⟨fun quiet => ?_, fun quiet => ?_⟩, fun hc quiet => ?_, fun hc quiet => ?_⟩
  · rw [← writeFp_steady hs d quiet]
    exact exec_fminmax (i := .fmin d a b rm fmt) (scalarRm_fpFmt h5 h6 hf) h d a b fmt false
  · rw [← writeFp_steady hs d quiet]
    exact exec_fminmax (i := .fmax d a b rm fmt) (scalarRm_fpFmt h5 h6 hf) h d a b fmt true
  · have hw : wellFormed (.fcmp d a b c fmt) = true := by simp [wellFormed, hc, ok]
    have run : exec (.fcmp d a b c fmt) s =
        .next (writeFp d (if (fpCompare c.toNat (fpVal (fpFormat fmt) (s.getX a)) (fpVal (fpFormat fmt) (s.getX b))).1 then 1 else 0,
          (fpCompare c.toNat (fpVal (fpFormat fmt) (s.getX a)) (fpVal (fpFormat fmt) (s.getX b))).2) s) := congrArg _ (checked_wellFormed hw s _)
    rw [run, fpFormat_eq_scalarFmt, fpVal_scalarFmt, fpVal_scalarFmt]
    exact congrArg _ (writeFp_steady hs d quiet)
  · have hw : wellFormed (.fsgnj d a b c fmt) = true := by simp [wellFormed, hc, ok]
    have run : exec (.fsgnj d a b c fmt) s = .next (writeFp d (signInject (fpFormat fmt) c.toNat (s.getX a).toNat (s.getX b).toNat) s) :=
      congrArg _ (checked_wellFormed hw s _)
    rw [run, fpFormat_eq_scalarFmt, writeFp_steady hs d quiet]

theorem scalarFpConversions : Claim.ScalarFpConversions := by
  intro s d a c fmt hs hw hrm f rm A float int r quiet
  have dyn : roundCode s 7 = rm := if_pos rfl
  have run : exec (.fcvt d a c fmt) s = .next (writeFp d (fcvtResult c.toNat (fpFormat fmt) rm (s.getX a)) s) := by
    have e := fpRounded_eq hw (rm := 7) (s := s) (by rw [dyn]; exact hrm) (fun rm s => writeFp d (fcvtResult c.toNat (fpFormat fmt) rm (s.getX a)) s)
    rw [dyn] at e
    exact congrArg _ e
  have same : fcvtResult c.toNat (fpFormat fmt) rm (s.getX a) = r := by
    rw [fpFormat_eq_scalarFmt]
    obtain h | h | h | h | h | h | h | h : c.toNat = 0 ∨ c.toNat = 1 ∨ c.toNat = 2 ∨ c.toNat = 3 ∨ c.toNat = 4 ∨ c.toNat = 5 ∨ c.toNat = 6 ∨ c.toNat = 7 := by
      have := c.isLt
      omega
    all_goals simp only [r, h]; rfl
  rw [run, same, writeFp_steady hs d quiet]

/-- Settles O20: comparisons and sign injections write their result whole, and FCVT rounds by FRM.RM (`fpRounded_eq`). -/
theorem scalarFpComparisonsAndConversions : Obligations.ScalarFpComparisonsAndConversions := ⟨scalarFpComparisons, scalarFpConversions⟩

/-! ## Traps taken after completion (R39, R71, R332) -/

/-- An instruction that owes one trap completes, and the trap is taken at the next instruction's address. -/
theorem completeAt_owes {s : State} {npc : Word} {fl : BitVec 7} {pre post : List Owed} {o : Owed}
    (h : owedList s.hart npc (fl ||| s.hart.partFlags) pre post = [o]) (kn : BitVec 2) :
    completeAt npc fl pre post kn s = enterTrap { trapOf o.cause o.val with vri := owedVri o.cause } npc (retired npc fl s) := by
  rw [completeAt]
  dsimp only
  rw [h]
  rfl

/-- An enabled flag owes 0x08, with the flags raised (R39, R71). -/
theorem owedList_enabled {h : Hart} (hs : h.stepping = false) (hp : h.partFlags = 0) {fl : BitVec 7} (hf : fl &&& h.enables ≠ 0) (npc : Word) :
    owedList h npc (fl ||| h.partFlags) [] [] = [{ cause := 0x08, val := fl.zeroExtend 64 }] := by
  rw [hp, show fl ||| 0 = fl from BitVec.or_zero, owedList, if_pos (bne_iff_ne.2 hf), hs]
  rfl

/-- A hart under SSTEP owes 0x09, with the next address (R39, R332). -/
theorem owedList_stepping {h : Hart} (hs : h.stepping = true) (hp : h.partFlags = 0) (npc : Word) (post : List Owed) :
    owedList h npc (0 ||| h.partFlags) [] post = post ++ [{ cause := 0x09, val := npc }] := by
  simp [owedList, hp, hs]

theorem oweFields_step (v : Word) : oweFields [{ cause := 0x09, val := v }] 0 = 0x200 := by
  simp [oweFields, owes]

theorem enterTrap_zero {c : BitVec 8} (hc : c.toNat < 0x80) (v pc : Word) (s : State) :
    enterTrap { trapOf c v with vri := some 0 } pc s = (trapped c v pc s).withHart { (trapped c v pc s).hart with vri := 0 } := by
  rw [enterTrap_vri, enterTrap_plain hc]
  rfl

theorem enabledFlagTraps : Claim.EnabledFlagTraps := by
  intro s d a b rm fmt hs h5 h6 hf h p hp c r loud
  have quiet := steady_setX hs d (BitVec.ofNat 64 r.1)
  have raised : r.2 &&& (s.setX d (BitVec.ofNat 64 r.1)).hart.enables ≠ 0 := by
    rw [State.setX_hart, Hart.enables, Hart.setX_frm]
    exact loud
  have owes := owedList_enabled quiet.1 quiet.2 raised (s.hart.pc + 4)
  rw [exec_fpRows h5 h6 hf h p hp, writeFp, finishFlags]
  have pc : (s.setX d (BitVec.ofNat 64 r.1)).hart.pcAfter 4 = s.hart.pc + 4 := by simp [Hart.pcAfter]
  rw [show roundOp (scalarFmt fmt) (roundCode s rm) false 0 (p.2 (roundCode s rm) (operand fmt (s.getX a)) (operand fmt (s.getX b))) = r from rfl, pc,
    completeAt_owes owes]
  exact congrArg _ (enterTrap_zero (c := 0x08) (by decide) _ _ _)

theorem trapInstructions : Claim.TrapInstructions := by
  intro s code clear
  refine ⟨?_, congrArg _ (trapHere_plain (by decide) s.hart.pc s)⟩
  have run : exec (.trap code) s = .next (completeAt (s.hart.pc + 4) 0 [] [{ cause := 0x0A, val := code.zeroExtend 64 }] 0 s) := rfl
  rw [run]
  by_cases step : s.hart.stepping = true
  · have owes : owedList s.hart (s.hart.pc + 4) (0 ||| s.hart.partFlags) [] [{ cause := 0x0A, val := code.zeroExtend 64 }] =
        [{ cause := 0x0A, val := code.zeroExtend 64 }, { cause := 0x09, val := s.hart.pc + 4 }] := owedList_stepping step clear _ _
    have took : completeAt (s.hart.pc + 4) 0 [] [{ cause := 0x0A, val := code.zeroExtend 64 }] 0 s =
        enterTrap { trapOf 0x0A (code.zeroExtend 64) with vri := some 0 } (s.hart.pc + 4)
          ((passed 4 s).withHart { (passed 4 s).hart with trapowe := 0x200 }) := by
      rw [completeAt]
      dsimp only
      rw [owes, enterOwed]
      dsimp only [List.isEmpty_cons]
      rw [oweFields_step]
      rfl
    rw [took, if_pos step, enterTrap_zero (by decide)]
    rfl
  · have owes : owedList s.hart (s.hart.pc + 4) (0 ||| s.hart.partFlags) [] [{ cause := 0x0A, val := code.zeroExtend 64 }] =
        [{ cause := 0x0A, val := code.zeroExtend 64 }] := by simp [owedList, clear, step]
    rw [completeAt_owes owes, if_neg step]
    exact congrArg _ (enterTrap_zero (c := 0x0A) (by decide) _ _ _)

/-- Settles O22: what an instruction owes is taken once it has completed (`completeAt_owes`). -/
theorem completionTraps : Obligations.CompletionTraps := ⟨enabledFlagTraps, trapInstructions⟩

/-- Settles O23: a user hart under SSTEP owes 0x09, whose trap leaves VRI. -/
theorem singleStep : Obligations.SingleStep := by
  intro s d a b sstep user clear p hp
  have step : s.hart.stepping = true := by
    have prv : s.hart.prv = 0 := user
    simp [Hart.stepping, sstep, prv]
  rw [exec_intRRows d a b s p hp]
  show Host.Outcome.next (completeAt _ 0 [] [] 0 (s.setX d (p.2 (s.getX a) (s.getX b)))) = _
  have step' : (s.setX d (p.2 (s.getX a) (s.getX b))).hart.stepping = true := by
    unfold Hart.stepping Hart.prv at *
    simpa using step
  have pc : (s.setX d (p.2 (s.getX a) (s.getX b))).hart.pcAfter 4 = s.hart.pc + 4 := by simp [Hart.pcAfter]
  rw [pc, completeAt_owes (owedList_stepping step' (by simpa using clear) _ [])]
  exact congrArg _ (enterTrap_plain (c := 0x09) (by decide) _ _ _)

end Sys2Proof.Machine

namespace Sys2Proof.Machine
/-! # System registers, fences, keys and maintenance (R22 to R33, R210, R211, R221, R222, R237, R238, R445) -/

open Sys2Proof.Claim

/-! ## The system-register map against its tables (R27, R313, R439) -/

/-- Each row of R27's table is what the map reads, at the level the row gives. -/
theorem sysRead_rows (s : State) : ∀ r ∈ sysValues s, ∃ w, sysLevels (BitVec.ofNat 12 r.1) = some (r.2.1, w) ∧ sysRead s (BitVec.ofNat 12 r.1) = r.2.2 := by
  simp only [sysValues, List.forall_mem_cons]
  refine ⟨⟨_, rfl, rfl⟩, ⟨_, rfl, rfl⟩, ⟨_, rfl, ?farm⟩, ⟨_, rfl, rfl⟩, ⟨_, rfl, rfl⟩, ⟨_, rfl, rfl⟩, ⟨_, rfl, rfl⟩, ⟨_, rfl, rfl⟩, ⟨_, rfl, rfl⟩, ⟨_, rfl, ?cls⟩,
    ⟨_, rfl, rfl⟩, ⟨_, rfl, rfl⟩, ⟨_, rfl, rfl⟩, ⟨_, rfl, rfl⟩, ⟨_, rfl, rfl⟩, ⟨_, rfl, rfl⟩, ⟨_, rfl, rfl⟩, ⟨_, rfl, rfl⟩, ⟨_, rfl, rfl⟩, ⟨_, rfl, rfl⟩,
    ⟨_, rfl, rfl⟩, ⟨_, rfl, rfl⟩, ⟨_, rfl, rfl⟩, ⟨_, rfl, rfl⟩, ⟨_, rfl, rfl⟩, ⟨_, rfl, rfl⟩, ⟨_, rfl, rfl⟩, ⟨_, rfl, rfl⟩, ⟨_, rfl, rfl⟩, ⟨_, rfl, rfl⟩,
    ⟨_, rfl, rfl⟩, ⟨_, rfl, rfl⟩, ⟨_, rfl, rfl⟩, ⟨_, rfl, rfl⟩, ⟨_, rfl, rfl⟩, ⟨_, rfl, rfl⟩, ⟨_, rfl, ?boot⟩, List.forall_mem_nil _⟩
  case farm => exact congrArg (BitVec.ofNat 64) (by ring)
  case cls =>
    show BitVec.ofNat 64 s.hart.classCode = _
    rw [Hart.classCode]; split <;> simp
  case boot =>
    show BitVec.ofNat 64 (bootStatus s.boot) = _
    exact congrArg (BitVec.ofNat 64) (by rw [bootStatus]; ring)

/-- The numbers of R27's table are those the map lists. -/
theorem sysLevels_listed {s : State} {n : BitVec 12} (h : sysLevels n ≠ none) : ∃ r ∈ sysValues s, r.1 = n.toNat := by
  have hmem : n.toNat ∈ (sysValues s).map Prod.fst := by
    show n.toNat ∈ [0x000, 0x001, 0x002, 0x003, 0x010, 0x011, 0x012, 0x013, 0x014, 0x015, 0x016, 0x020, 0x021, 0x030, 0x031, 0x032, 0x033, 0x034,
      0x040, 0x041, 0x042, 0x043, 0x044, 0x045, 0x046, 0x050, 0x051, 0x060, 0x061, 0x062, 0x100, 0x101, 0x102, 0x200, 0x201, 0x210, 0x220]
    rw [sysLevels] at h
    split at h
    case h_38 => exact absurd rfl h
    all_goals rename_i hn; rw [hn]; decide
  obtain ⟨r, hr, hn⟩ := List.mem_map.1 hmem
  exact ⟨r, hr, hn⟩

/-- A list of rows and the number that reads it: a row whose number is `n`'s, in terms of `n`. -/
theorem sysLevels_ofNat {n : BitVec 12} {k : Nat} (h : k = n.toNat) : BitVec.ofNat 12 k = n := by rw [h, BitVec.ofNat_toNat, BitVec.setWidth_eq]

/-- What the map reads at a number of R27's table. -/
theorem sysRead_row {s : State} {n : BitVec 12} {r : Nat × Nat × Word} (hr : r ∈ sysValues s) (hn : r.1 = n.toNat) :
    ∃ w, sysLevels n = some (r.2.1, w) ∧ sysRead s n = r.2.2 := sysLevels_ofNat hn ▸ sysRead_rows s r hr

theorem blend_eq_masked (m old new : Word) : blend m old new = masked m old new := BitVec.or_comm _ _

/-- VTYPE written by software, as R31 judges it. -/
theorem writeVtype_eq (v : Word) (h : Hart) : writeVtype v h =
    if vtypeLegal (v.extractLsb' 0 20 |>.setWidth 64) then { h with vtype := v.extractLsb' 0 20, status := h.status &&& ~~~8#64 }
    else { h with vtype := v.extractLsb' 0 20, status := h.status ||| 8, vlg := 0, vlv := 0 } := by
  have hreq : v &&& 0xF_FFFF = (v.extractLsb' 0 20).setWidth 64 := by
    apply BitVec.eq_of_toNat_eq
    simp [BitVec.toNat_and, BitVec.extractLsb'_toNat, Nat.and_two_pow_sub_one_eq_mod v.toNat 20]
    omega
  have hlow : (v &&& 0xF_FFFF).extractLsb' 0 20 = v.extractLsb' 0 20 := by rw [hreq]; ext i hi; simp [hi]; omega
  simp only [writeVtype, setIllegalType, hlow]
  rw [hreq]
  rfl

/-- Each row of the table of writes is what the map writes, at the level the row gives. -/
theorem sysWrite_rows (v bits : Word) (s : State) : ∀ w ∈ sysEffects v bits s, ∃ r, sysLevels (BitVec.ofNat 12 w.1) = some (r, some w.2.1)
    ∧ sysWrite (BitVec.ofNat 12 w.1) v bits s = w.2.2 := by
  simp only [sysEffects, List.forall_mem_cons]
  refine ⟨⟨_, rfl, ?status⟩, ⟨_, rfl, ?vtype⟩, ⟨_, rfl, rfl⟩, ⟨_, rfl, rfl⟩, ⟨_, rfl, rfl⟩, ⟨_, rfl, rfl⟩, ⟨_, rfl, rfl⟩, ⟨_, rfl, rfl⟩, ⟨_, rfl, rfl⟩,
    ⟨_, rfl, rfl⟩, ⟨_, rfl, ?ovf⟩, ⟨_, rfl, rfl⟩, ⟨_, rfl, rfl⟩, ⟨_, rfl, rfl⟩, ⟨_, rfl, rfl⟩, ⟨_, rfl, rfl⟩, ⟨_, rfl, rfl⟩, ⟨_, rfl, rfl⟩, ⟨_, rfl, rfl⟩,
    ⟨_, rfl, rfl⟩, ⟨_, rfl, rfl⟩, ⟨_, rfl, rfl⟩, ⟨_, rfl, rfl⟩, ⟨_, rfl, rfl⟩, ⟨_, rfl, rfl⟩, ⟨_, rfl, ?rmth⟩, List.forall_mem_nil _⟩
  case status =>
    show s.withHart { s.hart with status := blend (statusMask s.hart.prv) s.hart.status v } = _
    rw [blend_eq_masked]; rfl
  case vtype =>
    show s.withHart (writeVtype v s.hart) = _
    rw [writeVtype_eq]
  case ovf =>
    show s.withHart { s.hart with keyOvf := s.hart.keyOvf && !bits.getLsbD 7 } = _
    cases bits.getLsbD 7 <;> simp
  case rmth =>
    show (if 64 ≤ (v.extractLsb' 0 16).toNat ∧ (v.extractLsb' 0 16).toNat ≤ 16384 then _ else s) = _
    simp only [BitVec.extractLsb'_toNat, Nat.shiftRight_zero]

/-- What the map writes at a number of the table of writes. -/
theorem sysWrite_row {s : State} {n : BitVec 12} {v bits : Word} {w : Nat × Nat × State} (hw : w ∈ sysEffects v bits s) (hn : w.1 = n.toNat) :
    ∃ r, sysLevels n = some (r, some w.2.1) ∧ sysWrite n v bits s = w.2.2 := sysLevels_ofNat hn ▸ sysWrite_rows v bits s w hw

/-- A number that some level writes stands in the table of writes. -/
theorem sysLevels_written {s : State} {n : BitVec 12} {v bits : Word} {r l : Nat} (h : sysLevels n = some (r, some l)) :
    ∃ w ∈ sysEffects v bits s, w.1 = n.toNat := by
  have hmem : n.toNat ∈ (sysEffects v bits s).map Prod.fst := by
    show n.toNat ∈ [0x000, 0x010, 0x013, 0x016, 0x020, 0x021, 0x030, 0x031, 0x032, 0x033, 0x034,
      0x040, 0x041, 0x042, 0x043, 0x044, 0x045, 0x046, 0x050, 0x051, 0x100, 0x101, 0x102, 0x200, 0x201, 0x210]
    rw [sysLevels] at h
    split at h <;> simp at h
    all_goals rename_i hn; rw [hn]; decide
  obtain ⟨w, hw, hn⟩ := List.mem_map.1 hmem
  exact ⟨w, hw, hn⟩

/-- A hart's STATUS changed where its level and, at user level, SSTEP stay: it stays steady. -/
theorem steady_status {s : State} {h : Hart} (hs : Steady s) (hf : h.partFlags = s.hart.partFlags)
    (hp : h.prv = s.hart.prv) (h9 : s.hart.prv = 0 → h.status.getLsbD 9 = s.hart.status.getLsbD 9) : Steady (s.withHart h) := by
  obtain ⟨hstep, hpart⟩ := hs
  refine ⟨?_, hf.trans hpart⟩
  show (h.status.getLsbD 9 && h.prv == 0) = false
  by_cases h0 : s.hart.prv = 0
  · rw [h9 h0, hp]; exact hstep
  · rw [hp]; simp [h0]

/-- Software writes no bit of STATUS at its level that makes the hart single-step. -/
theorem steady_blend {s : State} (hs : Steady s) (v : Word) : Steady (s.withHart { s.hart with status := blend (statusMask s.hart.prv) s.hart.status v }) := by
  have hprv : (blend (statusMask s.hart.prv) s.hart.status v).extractLsb' 0 2 = s.hart.status.extractLsb' 0 2 := by
    have hm : (statusMask s.hart.prv).extractLsb' 0 2 = 0#2 := by rw [statusMask]; split_ifs <;> rfl
    rw [blend, BitVec.extractLsb'_or, BitVec.extractLsb'_and, BitVec.extractLsb'_and, BitVec.extractLsb'_not_of_lt (by decide), hm]
    simp only [BitVec.and_zero, BitVec.or_zero]
    exact BitVec.and_allOnes
  refine steady_status hs rfl (congrArg BitVec.toNat hprv) (fun h0 => ?_)
  show (blend (statusMask s.hart.prv) s.hart.status v).getLsbD 9 = _
  simp [h0, blend, statusMask]

/-- No write of a system register makes a hart single-step that did not, or touches the flags of the instruction at PC. -/
theorem steady_sysWrite {s : State} (hs : Steady s) (n : BitVec 12) (v bits : Word) : Steady (sysWrite n v bits s) := by
  rw [sysWrite]
  split
  case h_1 => exact steady_blend hs v
  case h_2 =>
    rw [writeVtype_eq]
    split
    · refine steady_status hs rfl (congrArg BitVec.toNat (?_ : (s.hart.status &&& ~~~8#64).extractLsb' 0 2 = _)) (fun _ => ?_)
      · rw [BitVec.extractLsb'_and]; exact BitVec.and_allOnes
      · exact (BitVec.getLsbD_and).trans (Bool.and_true _)
    · refine steady_status hs rfl (congrArg BitVec.toNat (?_ : (s.hart.status ||| 8#64).extractLsb' 0 2 = _)) (fun _ => ?_)
      · rw [BitVec.extractLsb'_or]; exact BitVec.or_zero
      · exact (BitVec.getLsbD_or).trans (Bool.or_false _)
  case h_26 => dsimp only; split <;> exact hs
  all_goals exact hs

/-! ## The four instructions (R25) -/

/-- The instructions that write a system register. -/
theorem exec_writer (s : State) (d : Reg) (n : BitVec 12) : ∀ i ∈ [Instr.swr d n, .srset d n, .srclr d n], ∃ k, exec i s = sysAccess i n true s k := by
  simp only [List.forall_mem_cons]
  exact ⟨⟨fun s => sysWrite n (s.getX d) (s.getX d) s, rfl⟩,
    ⟨fun s => (sysWrite n (sysRead s n ||| s.getX d) (s.getX d) s).setX d (sysRead s n), rfl⟩,
    ⟨fun s => (sysWrite n (sysRead s n &&& ~~~(s.getX d)) (s.getX d) s).setX d (sysRead s n), rfl⟩, List.forall_mem_nil _⟩

theorem sysAccess_unlisted {n : BitVec 12} (h : sysLevels n = none) (i : Instr) (wr : Bool) (s : State) (k : State → State) :
    sysAccess i n wr s k = .next (trappedHere 0x00 (bitsOf i) s) := by
  simp only [sysAccess, h, illegal_plain]; rfl

theorem sysAccess_read {n : BitVec 12} {r : Nat} {w : Option Nat} (h : sysLevels n = some (r, w)) (i : Instr) (s : State) (k : State → State) :
    sysAccess i n false s k = .next (if levelOf s < r then trappedHere 0x01 (bitsOf i) s else finish 4 (k s)) := by
  rw [sysAccess, h, privileged_plain]; rfl

theorem sysAccess_write {n : BitVec 12} {r w : Nat} (h : sysLevels n = some (r, some w)) (i : Instr) (s : State) (k : State → State) :
    sysAccess i n true s k = .next (if levelOf s < w then trappedHere 0x01 (bitsOf i) s else finish 4 (k s)) := by
  rw [sysAccess, h, privileged_plain]; rfl

/-- A register that no level writes (R25). -/
theorem sysAccess_unwritten {n : BitVec 12} {r : Nat} (h : sysLevels n = some (r, none)) (i : Instr) (s : State) (k : State → State) :
    sysAccess i n true s k = .next (trappedHere (if levelOf s < r then 0x01 else 0x00) (bitsOf i) s) := by
  rw [sysAccess, h, privileged_plain, illegal_plain, apply_ite (fun c => trappedHere c (bitsOf i) s)]; rfl

theorem unlisted_of_values {s : State} {n : BitVec 12} (h : ∀ r ∈ sysValues s, r.1 ≠ n.toNat) : sysLevels n = none := by
  by_contra hl
  obtain ⟨r, hr, hn⟩ := sysLevels_listed (s := s) hl
  exact h r hr hn

/-- The first clause of O25: what SRD reads. -/
theorem systemRegisterReads : Claim.SystemRegisterReads := by
  intro s d n
  refine ⟨fun r hr hn hl hs => ?_, fun r hr hn hl => ?_, fun h => sysAccess_unlisted (unlisted_of_values h) (.srd d n) false s (fun s => s.setX d (sysRead s n))⟩
  · obtain ⟨w, hlev, hval⟩ := sysRead_row hr hn
    refine (sysAccess_read hlev (.srd d n) s (fun s => s.setX d (sysRead s n))).trans ?_
    rw [if_neg (by omega), hval]
    exact congrArg _ (writeInt_steady hs 4 d r.2.2)
  · obtain ⟨w, hlev, -⟩ := sysRead_row hr hn
    refine (sysAccess_read hlev (.srd d n) s (fun s => s.setX d (sysRead s n))).trans ?_
    rw [if_pos hl]

/-- A write of a system register at a level that may. -/
theorem sysAccess_written {s : State} {n : BitVec 12} {v bits : Word} {w : Nat × Nat × State} (hs : Steady s) (hw : w ∈ sysEffects v bits s) (hn : w.1 = n.toNat)
    (hl : w.2.1 ≤ levelOf s) (i : Instr) : sysAccess i n true s (sysWrite n v bits) = .next (passed 4 w.2.2) := by
  obtain ⟨r, hlev, hval⟩ := sysWrite_row hw hn
  rw [sysAccess_write hlev, if_neg (by omega), finish_steady (steady_sysWrite hs n v bits), hval]

/-- A write of a system register that gives x[d] the old value. -/
theorem sysAccess_exchanged {s : State} {n : BitVec 12} {v bits : Word} {w : Nat × Nat × State} (hs : Steady s) (hw : w ∈ sysEffects v bits s) (hn : w.1 = n.toNat)
    (hl : w.2.1 ≤ levelOf s) (i : Instr) (d : Reg) (old : Word) :
    sysAccess i n true s (fun s => (sysWrite n v bits s).setX d old) = .next (passed 4 (w.2.2.setX d old)) := by
  obtain ⟨r, hlev, hval⟩ := sysWrite_row hw hn
  rw [sysAccess_write hlev, if_neg (by omega), finish_steady (steady_setX (steady_sysWrite hs n v bits) d old), hval]

theorem systemRegisterWrites : Claim.SystemRegisterWrites := by
  intro s d n hs
  refine ⟨fun h i hi => ?_, fun r hr hn => ⟨fun w hw hwn hl => ?swr, fun w hw hwn hl => ?srset, fun w hw hwn hl => ?srclr, fun i hi => ⟨fun w hw hwn hl => ?low, fun h => ?none⟩⟩⟩
  · obtain ⟨k, hk⟩ := exec_writer s d n i hi
    rw [hk, sysAccess_unlisted (unlisted_of_values h)]
  case swr => exact sysAccess_written hs hw hwn hl (.swr d n)
  case srset =>
    obtain ⟨_, -, hval⟩ := sysRead_row hr hn
    rw [← hval] at hw ⊢
    exact sysAccess_exchanged hs hw hwn hl (.srset d n) d _
  case srclr =>
    obtain ⟨_, -, hval⟩ := sysRead_row hr hn
    rw [← hval] at hw ⊢
    exact sysAccess_exchanged hs hw hwn hl (.srclr d n) d _
  case low =>
    obtain ⟨k, hk⟩ := exec_writer s d n i hi
    obtain ⟨_, hlev, -⟩ := sysWrite_row hw hwn
    rw [hk, sysAccess_write hlev, if_pos hl]
  case none =>
    obtain ⟨k, hk⟩ := exec_writer s d n i hi
    obtain ⟨w, hlev, -⟩ := sysRead_row hr hn
    cases w with
    | none => rw [hk, sysAccess_unwritten hlev]
    | some l =>
      obtain ⟨e, he, hen⟩ := sysLevels_written (s := s) (v := s.getX d) (bits := s.getX d) hlev
      exact absurd hen (h e he)

/-- Settles O25: SRD, SWR, SRSET and SRCLR do what the tables of R27 say. -/
theorem systemRegisters : Obligations.SystemRegisters := ⟨systemRegisterReads, systemRegisterWrites⟩

open Sys2Proof.Claim

/-! ## Fences, yields and keys (R22, R33, R210, R211, R221, R222) -/

theorem releaseAt_empty {s : State} (h : s.hart.stores = []) (scope : Nat) : releaseAt scope s = s := by
  unfold releaseAt
  split_ifs
  · exact drainStores_empty h
  · rfl
  · rw [h]; exact congrArg s.withHart (by rw [List.map_nil, ← h])

theorem fences : Claim.Fences := by
  intro s f t ack rel acq scope hs wf empty owes
  have run : exec (.fence f t ack rel acq scope) s = .next (if fenceWaits s f ack then stall s
      else finish 4 (if acq && t.getLsbD 0 && scope != 0 then dropL1 s else s)) := by
    refine congrArg Host.Outcome.next ((checked_wellFormed wf s _).trans ?_)
    dsimp only
    rw [releaseAt_empty empty, ite_self, settleOwed_none owes]
  rw [run]
  refine ⟨fun waits => by rw [if_pos waits]; rfl, fun goes => ?_⟩
  have same : ∃ c, (if acq && t.getLsbD 0 && scope != 0 then dropL1 s else s) = { s with cores := c } := by
    split
    · exact dropL1_eq s
    · exact ⟨s.cores, rfl⟩
  obtain ⟨c, hc⟩ := same
  rw [if_neg (by rw [goes]; decide), hc, finish_steady (s := { s with cores := c }) hs, ← hc]
  simp [and_assoc]

theorem yields : Claim.Yields := by
  intro s hs quiet
  have run : exec .yield s = .next (suspendIfTaken (finish 4 (s.withHart { s.hart with yielded := true }))) := rfl
  rw [run, finish_steady (s := s.withHart { s.hart with yielded := true }) hs, suspendIfTaken, if_neg]
  intro h
  exact Bool.false_ne_true (quiet.symm.trans (Bool.and_eq_true_iff.1 h).2)

/-- Settles O27: with no store waiting a release moves nothing, so only what the fence waits for and the L1 view remain; a yield with no suspension taken completes. -/
theorem fencesAndYields : Obligations.FencesAndYields := ⟨fences, yields⟩

/-- Settles O28, by whether the table holds the value and whether it is full. -/
theorem keyInstructions : Obligations.KeyInstructions := by
  intro s a n hs v h
  have run : exec (.keyset a n) s = .next (
      if h.keyTable.contains v then completeAt (s.hart.pc + 4) 0 [] (if h.krw then [{ cause := 0x0B, val := v }] else []) n (s.withHart h)
      else if h.keyTable.length < 64 then finish 4 (s.withHart { h with keyTable := h.keyTable ++ [v] })
      else finish 4 (s.withHart { h with keyOvf := true })) := rfl
  rw [run]
  refine ⟨fun known => ?_, fun new room => ?_, fun new full => ?_, congrArg _ (finish_steady (s := s.withHart { s.hart with keyTable := [] }) hs 4)⟩
  · rw [if_pos (by simpa using known)]
    dsimp only
    by_cases krw : h.status.getLsbD 6 = true
    · have owed : owedList h (s.hart.pc + 4) (0 ||| h.partFlags) [] [{ cause := 0x0B, val := v }] = [{ cause := 0x0B, val := v }] := by
        have step : h.stepping = false := hs.1
        have part : h.partFlags = 0 := hs.2
        simp [owedList, step, part]
      rw [if_pos (show h.krw = true from krw), completeAt_owes (s := s.withHart h) owed, if_pos krw]
      exact congrArg _ (enterTrap_zero (c := 0x0B) (by decide) v (s.hart.pc + 4) (retired (s.hart.pc + 4) 0 (s.withHart h)))
    · rw [if_neg (show ¬ h.krw = true from krw), if_neg krw]
      exact congrArg _ (completeAt_steady (s := s.withHart h) hs (BitVec.zero_and) (s.hart.pc + 4) n)
  · rw [if_neg (by simpa using new), if_pos room]
    exact congrArg _ (finish_steady (s := s.withHart { h with keyTable := h.keyTable ++ [v] }) hs 4)
  · rw [if_neg (by simpa using new), if_neg (by omega)]
    exact congrArg _ (finish_steady (s := s.withHart { h with keyOvf := true }) hs 4)

open Sys2Proof.Claim

/-! ## Levels, notification and maintenance (R24, R236 to R238, R445) -/

theorem sysStep_low {i : Instr} {l : Nat} {s : State} (h : levelOf s < l) (k : State → State) :
    sysStep i l s k = .next (trappedHere 0x01 (bitsOf i) s) := by
  rw [sysStep, if_pos (show s.hart.prv < l from h), privileged_plain]; rfl

theorem sysStep_high {i : Instr} {l : Nat} {s : State} (h : l ≤ levelOf s) (wf : wellFormed i = true) (k : State → State) :
    sysStep i l s k = .next (k s) := by
  rw [sysStep, if_neg (show ¬ s.hart.prv < l from Nat.not_lt.2 h), checked_wellFormed wf]

/-- An instruction with a level runs at it or above. -/
theorem exec_leveled {i : Instr} {l : Nat} (h : LevelOf i l) (s : State) : ∃ k, exec i s = sysStep i l s k := by
  rcases h with ⟨rfl, rfl⟩ | ⟨d, a, rfl, rfl⟩ | ⟨a, rfl, rfl⟩ | ⟨a, g, m, rfl, rfl⟩ | ⟨all, rfl, rfl⟩ | ⟨rfl, rfl⟩
  all_goals exact ⟨_, rfl⟩

theorem privilegedInstructions : Claim.PrivilegedInstructions := by
  intro s i l
  refine ⟨fun hl low => ?_, fun a mode hi wf low => ?_⟩
  · obtain ⟨k, hk⟩ := exec_leveled hl s
    rw [hk, sysStep_low low]
  · subst hi
    obtain ⟨k, hk⟩ : ∃ k : State → State, exec (.tlbinv a true mode) s = sysStep (.tlbinv a true mode) 1 s (fun s =>
        if s.hart.prv != 3 then privileged (.tlbinv a true mode) s else k s) := ⟨_, rfl⟩
    rw [hk]
    by_cases user : levelOf s < 1
    · exact sysStep_low user _
    · rw [sysStep_high (by omega) wf, if_pos (bne_iff_ne.2 (show s.hart.prv ≠ 3 from Nat.ne_of_lt low)), privileged_plain]
      rfl

theorem tget_map {α : Type} {d : α} (f : Nat → α → α) (h : ∀ k, f k d = d) (t : Table α) (k : Nat) :
    tget d (t.map (fun c => (c.1, f c.1 c.2))) k = f k (tget d t k) := by
  induction t with
  | nil => exact (h k).symm
  | cons c t ih =>
    obtain ⟨j, v⟩ := c
    rw [List.map_cons, tget, tget]
    split
    · next e => rw [e]
    · exact ih

/-- Whether CINV empties a core's instruction cache: the hart's own, or with `all` that of a core with a hart of its partition. -/
def cinvHits (s : State) (all : Bool) (c : Nat) : Bool :=
  c == coreOf s.hart.id || (if all then (s.harts.filter (fun h => h.partid == s.hart.partid)).map (fun h => coreOf h.id) else []).contains c

theorem cinvHits_iff (s : State) (all : Bool) (c : Nat) :
    cinvHits s all c = true ↔ c = coreOf s.hart.id ∨ (all = true ∧ ∃ h ∈ s.harts, h.partid = s.hart.partid ∧ coreOf h.id = c) := by
  cases all <;> simp [cinvHits, and_assoc]

/-- A core after CINV, which empties its instruction cache where it hits. -/
def cinvCore (s : State) (all : Bool) (c : Nat) (k : Core) : Core := { k with icache := if cinvHits s all c then [] else k.icache }

theorem exec_cinv_eq {s : State} (hs : Steady s) (empty : s.hart.stores = []) (sup : 1 ≤ levelOf s) (all : Bool) :
    exec (.cinv all) s = .next (passed 4 { s with cores := s.cores.map (fun c => (c.1, cinvCore s all c.1 c.2)) }) := by
  have cores : s.cores.map (fun c => if cinvHits s all c.1 then (c.1, { c.2 with icache := [] }) else c) = s.cores.map (fun c => (c.1, cinvCore s all c.1 c.2)) := by
    refine List.map_congr_left fun c _ => ?_
    rw [cinvCore]
    split <;> rfl
  have run : exec (.cinv all) s = .next (finish 4 { s with cores := s.cores.map (fun c => if cinvHits s all c.1 then (c.1, { c.2 with icache := [] }) else c) }) := by
    refine (sysStep_high sup rfl _).trans ?_
    dsimp only
    rw [drainStores_empty empty]
    rfl
  rw [run, cores]
  exact congrArg _ (finish_steady (s := { s with cores := s.cores.map (fun c => (c.1, cinvCore s all c.1 c.2)) }) hs 4)

/-- CINV empties the instruction caches it names and nothing else (R238). -/
theorem exec_cinv {s : State} (hs : Steady s) (empty : s.hart.stores = []) (sup : 1 ≤ levelOf s) (all : Bool) :
    ∃ t, exec (.cinv all) s = .next t ∧ t = { passed 4 s with cores := t.cores }
      ∧ ∀ c, (t.core c).l1 = (s.core c).l1 ∧ (t.core c).tlb = (s.core c).tlb
          ∧ (t.core c).icache = if c = coreOf s.hart.id ∨ (all = true ∧ ∃ h ∈ s.harts, h.partid = s.hart.partid ∧ coreOf h.id = c) then [] else (s.core c).icache := by
  refine ⟨_, exec_cinv_eq hs empty sup all, rfl, fun c => ?_⟩
  have core : (passed 4 { s with cores := s.cores.map (fun c => (c.1, cinvCore s all c.1 c.2)) }).core c = cinvCore s all c (s.core c) :=
    tget_map (cinvCore s all) (fun k => by simp [cinvCore, Core.init]) s.cores c
  rw [core]
  refine ⟨rfl, rfl, ?_⟩
  simp only [cinvCore, cinvHits_iff]

/-! ### CFLUSH and TLBINV -/

theorem exec_cflush_all {s : State} (hs : Steady s) : exec (.cflush 0 true) s = .next (passed 4 (dropL1 s)) := by
  obtain ⟨c, hc⟩ := dropL1_eq s
  have run : exec (.cflush 0 true) s = .next (finish 4 (dropL1 s)) := congrArg Host.Outcome.next (checked_wellFormed rfl s _)
  rw [run, hc, finish_steady (s := { s with cores := c }) hs]

theorem dropSectors_l1 (s : State) (d : Nat) (l : List Nat) (c : Nat) :
    ((dropSectors s d l).core c).l1 = if c = d then (s.core c).l1.filter (fun p => !l.contains p.addr) else (s.core c).l1 := by
  unfold dropSectors
  split
  · by_cases e : c = d
    · subst e; rw [State.core_setCore, if_pos rfl]
    · rw [State.core_setCore_ne _ e, if_neg e]
  · next none =>
    rw [List.any_eq_true, not_exists] at none
    split
    · next e =>
      subst e
      refine (List.filter_eq_self.2 fun p hp => ?_).symm
      simpa using fun h => none p ⟨hp, by simpa using h⟩
    · rfl

/-- CFLUSH of an address drops its line from the core's L1 and moves rows and caches alone (R238). -/
theorem exec_cflush_line {s : State} (hs : Steady s) (clean : NoUpset s) {a : Reg} {m : Mapped}
    (hm : translate s s.hart.space (some s.hart.id) .load (s.getX a) = .ok m) :
    ∃ t, exec (.cflush a false) s = .next t ∧ SameButRows t (passed 4 s)
        ∧ ∀ c, (t.core c).l1 = if c = coreOf s.hart.id
            then (s.core c).l1.filter (fun p => !((List.range 4).map (fun i => m.pa / 256 * 256 + 64 * i)).contains p.addr) else (s.core c).l1 := by
  have walked := noteWalk_sameButRows clean (translate_reached hm) (some s.hart.id)
  have same := sameButRows_trans (dropSectors_sameButRows (noteWalk s (some s.hart.id) m) (coreOf s.hart.id) ((List.range 4).map (fun i => m.pa / 256 * 256 + 64 * i))) walked
  have run : exec (.cflush a false) s = .next (finish 4 (dropSectors (noteWalk s (some s.hart.id) m) (coreOf s.hart.id) ((List.range 4).map (fun i => m.pa / 256 * 256 + 64 * i)))) := by
    refine congrArg Host.Outcome.next ((checked_wellFormed rfl s _).trans ?_)
    rw [if_neg (by decide), hm]
    rfl
  refine ⟨_, by rw [run, finish_steady (steady_of_sameButRows same hs)], sameButRows_passed same 4, fun c => ?_⟩
  refine (dropSectors_l1 (noteWalk s (some s.hart.id) m) (coreOf s.hart.id) _ c).trans ?_
  rw [noteWalk_l1 clean (translate_reached hm)]

theorem dropPages_rows {s : State} (clean : NoUpset s) (ps : List (Nat × Nat)) : RowsMoved s (dropPages ps s) :=
  .foldl fun _ ht k _ => evictSector_rows (ht.noUpset clean) k

theorem invalidateTlbs_core (p : TlbEntry → Bool) (s : State) (c : Nat) :
    (invalidateTlbs p s).core c = { s.core c with tlb := (s.core c).tlb.filter (fun e => !p e) } :=
  tget_map (d := Core.init) (fun _ k => { k with tlb := k.tlb.filter (fun e => !p e) }) (fun _ => rfl) s.cores c

theorem invalidateTlbs_bench (p : TlbEntry → Bool) (s : State) (b : Nat) :
    (invalidateTlbs p s).bench b = { s.bench b with tlb := (s.bench b).tlb.filter (fun e => !p e) } :=
  tget_map (d := Bench.init) (fun _ k => { k with tlb := k.tlb.filter (fun e => !p e) }) (fun _ => rfl) s.benches b

/-- TLBINV at its level: pages that it drops are written back, then every TLB loses what it names (R237, R321). -/
theorem exec_tlbinv_eq {s : State} (empty : s.hart.stores = []) {a : Reg} {g2 : Bool} {mode : BitVec 2} (wf : wellFormed (.tlbinv a g2 mode) = true)
    (may : (if g2 then 3 else 1) ≤ levelOf s) : ∃ ps : List (Nat × Nat),
    exec (.tlbinv a g2 mode) s = .next (finish 4 (invalidateTlbs (invalidates s.hart g2 mode (s.getX a)) (dropPages ps s))) := by
  have sup : 1 ≤ levelOf s := by cases g2 <;> simp at may <;> omega
  have monitor : (g2 && s.hart.prv != 3) = false := by
    cases g2 with
    | false => rfl
    | true =>
      have h3 : s.hart.prv = 3 := by
        have lt : levelOf s < 4 := BitVec.isLt _
        have ge : 3 ≤ levelOf s := by simpa using may
        exact (show levelOf s = 3 by omega)
      rw [h3]; rfl
  have run : exec (.tlbinv a g2 mode) s = .next (finish 4 (invalidateTlbs (invalidates s.hart g2 mode (s.getX a))
      (if mode = 0 then dropPages (droppedPages { s with held := [] } g2 (s.getX a)
        ((s.cores.flatMap (fun c => c.2.tlb) ++ s.benches.flatMap (fun b => b.2.tlb)).filter (invalidates s.hart g2 mode (s.getX a)))) s else s))) := by
    refine (sysStep_high sup wf _).trans ?_
    dsimp only
    rw [if_neg (by rw [monitor]; decide), drainStores_empty empty]
  rw [run]
  by_cases h : mode = 0
  · exact ⟨_, by rw [if_pos h]⟩
  · exact ⟨[], by rw [if_neg h]; exact congrArg (fun t => Host.Outcome.next (finish 4 (invalidateTlbs _ t))) (by simp [dropPages])⟩

theorem exec_tlbinv {s : State} (hs : Steady s) (clean : NoUpset s) (empty : s.hart.stores = []) {a : Reg} {g2 : Bool} {mode : BitVec 2}
    (wf : wellFormed (.tlbinv a g2 mode) = true) (may : (if g2 then 3 else 1) ≤ levelOf s) :
    ∃ t, exec (.tlbinv a g2 mode) s = .next t
      ∧ t = { passed 4 s with cores := t.cores, benches := t.benches, l2 := t.l2, dram := t.dram, life := t.life, held := [] }
      ∧ ∀ (c b : Nat) (e : TlbEntry),
        (e ∈ (t.core c).tlb ↔ e ∈ (s.core c).tlb ∧ invalidates s.hart g2 mode (s.getX a) e = false)
        ∧ (e ∈ (t.bench b).tlb ↔ e ∈ (s.bench b).tlb ∧ invalidates s.hart g2 mode (s.getX a) e = false) := by
  obtain ⟨ps, run⟩ := exec_tlbinv_eq empty wf may
  have rows := dropPages_rows clean ps
  generalize dropPages ps s = u at run rows
  have hart : u.hart = s.hart := (congrArg State.hart rows).trans rfl
  have cores : u.cores = s.cores := (congrArg State.cores rows).trans rfl
  have benches : u.benches = s.benches := (congrArg State.benches rows).trans rfl
  have steady : Steady (invalidateTlbs (invalidates s.hart g2 mode (s.getX a)) u) := by
    show Steady u
    rw [Steady, hart]; exact hs
  refine ⟨_, by rw [run, finish_steady steady], ?_, fun c b e => ⟨?_, ?_⟩⟩
  · rw [show u = { s with l2 := u.l2, dram := u.dram, life := u.life } from rows]
    rfl
  · show e ∈ ((invalidateTlbs _ u).core c).tlb ↔ _
    rw [invalidateTlbs_core, core_congr cores]
    simp
  · show e ∈ ((invalidateTlbs _ u).bench b).tlb ↔ _
    rw [invalidateTlbs_bench, bench_congr benches]
    simp

theorem cacheAndTranslationMaintenance : Claim.CacheAndTranslationMaintenance := fun _ hs clean empty =>
  ⟨fun sup all => exec_cinv hs empty sup all, exec_cflush_all hs, fun _ _ hm => exec_cflush_line hs clean hm,
    fun _ _ _ wf may => exec_tlbinv hs clean empty wf may⟩

/-- Settles O29: the level is judged first; each maintenance instruction is then a map over the caches or the TLBs. -/
theorem privilegeAndMaintenance : Obligations.PrivilegeAndMaintenance := ⟨privilegedInstructions, cacheAndTranslationMaintenance⟩

end Sys2Proof.Machine

namespace Sys2Proof.Machine
/-! # Debugger's steps, farms, strips and waits (R212 to R220, R236, R239, R346 to R348), and what translations and plain vector instructions depend on -/

open Sys2Proof.Claim

/-! ## NOTIFY, HALT and the debugger's steps (R236, R239, R346 to R348) -/

theorem notification : Claim.Notification := by
  intro s a hs sup empty v
  have run : exec (.notify a) s = .next (if v ≥ (s.partn s.hart.partid).vcnt.toNat then trapHere (trapOf 0x06 (BitVec.ofNat 64 v)) s
      else finish 4 (s.sendMsix (s.hart.partid.toNat + 1) v)) := by
    refine (sysStep_high sup rfl _).trans ?_
    dsimp only
    rw [drainStores_empty empty, BitVec.extractLsb'_toNat, Nat.shiftRight_zero]
  rw [run]
  by_cases listed : v < (s.partn s.hart.partid).vcnt.toNat
  · rw [if_neg (by omega), if_pos listed, finish_steady (s := s.sendMsix (s.hart.partid.toNat + 1) v) hs]
    rfl
  · rw [if_pos (by omega), if_neg listed, trapHere_plain (by decide)]

theorem debugHalt : Claim.DebugHalt := by
  intro s mon part empty u
  have hs : Steady s := by
    have prv : s.hart.prv = 3 := mon
    exact ⟨by simp [Hart.stepping, prv], part⟩
  have run : exec .halt s = .next (haltHere (finish 4 s)) := sysStep_high (by omega) rfl _
  rw [run, finish_steady hs, haltHere]
  dsimp only
  rw [drainStores_empty (s := passed 4 s) empty]
  rfl

theorem findHart_current {s : State} {h : HartId} (cur : Current s h) : s.findHart h = some s.hart := by
  obtain ⟨hid, here, -⟩ := cur
  have p : s.hart.present = true := bne_iff_ne.2 here
  rw [State.findHart, if_pos (by rw [p, hid]; simp)]

theorem updHart_current {s : State} {h : HartId} (cur : Current s h) (f : Hart → Hart) : s.updHart h f = s.withHart (f s.hart) := by
  obtain ⟨hid, here, -⟩ := cur
  have p : s.hart.present = true := bne_iff_ne.2 here
  rw [State.updHart, if_pos (by rw [p, hid]; simp)]

/-- What the current hart does, it does as itself. -/
theorem asHart_current {s : State} {h : HartId} (cur : Current s h) {f : State → State} (others : (f s).others = s.others) : asHart h f s = f s := by
  have found := findHart_current cur
  obtain ⟨hid, here, alone⟩ := cur
  have p : s.hart.present = true := bne_iff_ne.2 here
  have self : focus h s = s := by rw [focus, if_pos (by rw [p, hid]; simp)]
  have none : (f s).others.any (fun g => g.id == s.hart.id) = false := by
    rw [others, List.any_eq_false, hid]
    exact fun g hg => by simpa using alone g hg
  rw [asHart, found]
  dsimp only
  rw [self, none, Bool.and_false]
  rfl

theorem dropPosts_unposted {s : State} (h : Unposted s) : dropPosts s.hart.id s = s := by
  obtain ⟨queue, posting⟩ := h
  rw [dropPosts, if_pos]
  rw [Bool.and_eq_true, List.all_eq_true, List.all_eq_true]
  refine ⟨fun p hp => bne_iff_ne.2 (queue p hp), fun p hp => ?_⟩
  cases p with
  | none => rfl
  | some q => exact bne_iff_ne.2 (posting (some q) hp q rfl)

theorem settleWait_ready {s : State} (h : s.hart.run = .ready) : settleWait s = s := by
  unfold settleWait
  rw [h]

/-- A ready hart breaks nothing off but the instruction that the front end has fetched (R338). -/
theorem breakWait_ready {s : State} (ready : s.hart.run = .ready) (posts : Unposted s) :
    breakWait s = s.withHart { s.hart with fetched := none, stalled := false } := by
  unfold breakWait
  rw [settleWait_ready ready]
  dsimp only
  rw [ready]
  dsimp only
  rw [dropPosts_unposted posts, ready]

theorem applyWrites_none {s : State} (h : s.hart.debugWrites = []) : applyWrites s = s := by
  rw [applyWrites, h]; rfl

theorem debugAccess_read {s : State} {h : HartId} (cur : Current s h) (halted : s.hart.run = .halted) (bit : s.hart.status.getLsbD 10 = true)
    (stays : s.hart.swapping = false) (clear : s.hart.debugWrites = []) (f : DebugField) :
    exec (.debugAccess h f none) s = .next { s with links := { s.links with
      answer := bytesOf (debugBytes f s.hart) (debugRead f s), answerBad := false, unsupported := false } } := by
  have run : exec (.debugAccess h f none) s = execDebugAccess h f none s := rfl
  rw [run]
  unfold execDebugAccess
  rw [findHart_current cur]
  dsimp only
  rw [halted, bit, if_neg (by decide)]
  refine congrArg _ ((asHart_current cur ?_).trans ?_)
  · rw [stays, applyWrites_none clear]; rfl
  · rw [stays, applyWrites_none clear]; rfl

/-- A debugger's write to a halted hart that no swap takes (R347). -/
theorem debugAccess_write {s : State} {h : HartId} (cur : Current s h) (halted : s.hart.run = .halted) (bit : s.hart.status.getLsbD 10 = true)
    (stays : s.hart.swapping = false) (clear : s.hart.debugWrites = []) {f : DebugField} {v : Nat} (others : (debugWrite f v s).others = s.others) :
    exec (.debugAccess h f (some v)) s = .next (debugWrite f v s) := by
  have run : exec (.debugAccess h f (some v)) s = execDebugAccess h f (some v) s := rfl
  rw [run]
  unfold execDebugAccess
  rw [findHart_current cur]
  dsimp only
  rw [halted, bit, stays, if_neg (by decide), if_pos (by decide), asHart_current cur (by rw [applyWrites_none clear]; exact others), applyWrites_none clear]

/-- A debugger's write to a halted hart that a swap is taking waits (R348). -/
theorem debugAccess_waits {s : State} {h : HartId} (cur : Current s h) (halted : s.hart.run = .halted) (bit : s.hart.status.getLsbD 10 = true)
    (taken : s.hart.swapping = true) (unsaved : imageWritten s s.hart = false) (f : DebugField) (v : Nat) :
    exec (.debugAccess h f (some v)) s = .next (s.withHart (waitingWrite f v s.hart)) := by
  have run : exec (.debugAccess h f (some v)) s = execDebugAccess h f (some v) s := rfl
  rw [run]
  unfold execDebugAccess
  rw [findHart_current cur]
  dsimp only
  rw [halted, bit, taken, unsaved, if_neg (by decide), if_neg (by decide), if_neg (by decide), updHart_current cur]

theorem imageWritten_none {s : State} (user : s.hart.bureau = false) (h : ∀ f, s.farmOf s.hart.farm = some f → ∀ g ∈ f.saved, g.id ≠ s.hart.id) :
    imageWritten s s.hart = false := by
  rw [imageWritten, user, if_neg (by decide)]
  cases e : s.farmOf s.hart.farm with
  | none => rfl
  | some f =>
    rw [List.any_eq_false]
    exact fun g hg => by simpa using h f e g hg

/-- What the debugger asks of a hart that is not halted does nothing. -/
theorem debug_not_halted {s : State} {h : HartId} (cur : Current s h) (runs : ¬ (s.hart.run = .halted ∧ s.hart.status.getLsbD 10 = true)) (f : DebugField)
    (w : Option Nat) : exec (.debugAccess h f w) s = .next s ∧ exec (.debugResume h) s = .next s := by
  have away : (s.hart.run != .halted || !s.hart.status.getLsbD 10) = true := by
    by_cases e : s.hart.run = .halted
    · have bit : s.hart.status.getLsbD 10 = false := by simpa [e] using runs
      rw [bit]; simp
    · rw [bne_iff_ne.2 e]; rfl
  refine ⟨?_, ?_⟩
  · have run : exec (.debugAccess h f w) s = execDebugAccess h f w s := rfl
    rw [run]
    unfold execDebugAccess
    rw [findHart_current cur]
    cases w <;> exact congrArg _ (if_pos away)
  · have run : exec (.debugResume h) s = execDebugResume h s := rfl
    have stays : (s.hart.run != .halted || !s.hart.status.getLsbD 10 || !(s.partn s.hart.part).debugOn) = true := by rw [away]; rfl
    rw [run, execDebugResume, asHart_current cur (by rw [if_pos stays]), if_pos stays]

theorem debugSteps : Claim.DebugSteps := by
  intro s h cur debug halted here answers
  refine ⟨fun on runs => ?_, fun off => ?_, fun asked ready still empty posted posts => ?_, fun unasked => ?_, fun ⟨stopped, bit⟩ ⟨stays, clear⟩ r v => ?_,
    fun ⟨stopped, bit⟩ taken user unsaved f v => ?_, fun runs f w => debug_not_halted cur runs f w, fun ⟨stopped, bit⟩ on clear => ?_⟩
  · have run : exec (.debugHaltRequest h) s = execDebugHaltRequest h s := rfl
    rw [run, execDebugHaltRequest, findHart_current cur]
    dsimp only
    rw [show (s.partn s.hart.part).debugOn = true from on, bne_iff_ne.2 runs, if_pos (by decide), updHart_current cur]
  · have run : exec (.debugHaltRequest h) s = execDebugHaltRequest h s := rfl
    rw [run, execDebugHaltRequest, findHart_current cur]
    refine congrArg _ (if_neg ?_)
    rintro both
    rw [Bool.and_eq_true, bne_iff_ne] at both
    exact off.elim (fun o => o both.1) both.2
  · have stops : (s.hart.haltAsked && s.mayStop s.hart && s.hart.run != .halted) = true := by
      rw [asked, ready, State.mayStop, Hart.canStop, ready, still, cur.1, posted]; rfl
    have halts : haltHere (breakWait s) = s.withHart { s.hart.dropAhead with
        run := .halted, haltAsked := false, fetched := none, stalled := false, status := s.hart.status ||| 0x400 } := by
      rw [breakWait_ready ready posts, haltHere]
      dsimp only
      rw [drainStores_empty (s := s.withHart { s.hart with fetched := none, stalled := false }) empty]
      rfl
    have run : exec (.debugHaltEnter h) s = execDebugHaltEnter h s := rfl
    rw [run, execDebugHaltEnter, asHart_current cur (by rw [if_pos stops, halts]; rfl), if_pos stops, halts]
  · have stays : ¬ (s.hart.haltAsked && s.mayStop s.hart && s.hart.run != .halted) = true := by rw [unasked]; exact Bool.false_ne_true
    have run : exec (.debugHaltEnter h) s = execDebugHaltEnter h s := rfl
    rw [run, execDebugHaltEnter, asHart_current cur (by rw [if_neg stays]), if_neg stays]
  · refine ⟨debugAccess_read cur stopped bit stays clear .pc, debugAccess_read cur stopped bit stays clear (.x r),
      debugAccess_write cur stopped bit stays clear rfl, debugAccess_write cur stopped bit stays clear rfl,
      (debugAccess_write cur stopped bit stays clear rfl).trans ?_⟩
    rfl
  · exact debugAccess_waits cur stopped bit taken (imageWritten_none user (by rw [cur.1]; exact unsaved)) f v
  · have goes : ¬ (s.hart.run != .halted || !s.hart.status.getLsbD 10 || !(s.partn s.hart.part).debugOn) = true := by
      rw [stopped, bit, show (s.partn s.hart.part).debugOn = true from on]; decide
    have run : exec (.debugResume h) s = execDebugResume h s := rfl
    rw [run, execDebugResume, asHart_current cur (by rw [if_neg goes, applyWrites_none clear]; rfl), if_neg goes, applyWrites_none clear]
    rfl

/-- Settles O30: each step as the current hart makes it, on a hart that is halted or not. -/
theorem notificationAndDebug : Obligations.NotificationAndDebug := ⟨notification, debugHalt, debugSteps⟩

open Sys2Proof.Claim

/-! ## Farms and strips (R217 to R220) -/

/-- Farm numbers `n`, `n + 1`, … are distinct up to 2^16. -/
theorem farmNumbers_nodup (n : BitVec 16) {k : Nat} (h : k ≤ 2 ^ 16) : ((List.range k).map (fun i => n + BitVec.ofNat 16 i)).Nodup := by
  refine List.nodup_range.map_on fun i hi j hj e => ?_
  rw [List.mem_range] at hi hj
  have e' := congrArg BitVec.toNat (BitVec.add_right_inj n |>.1 e)
  rw [BitVec.toNat_ofNat, BitVec.toNat_ofNat, Nat.mod_eq_of_lt (by omega), Nat.mod_eq_of_lt (by omega)] at e'
  exact e'

/-- One of the numbers that FARM tries is free, if any is (R218). -/
theorem farmNumber_free {used : List (BitVec 16)} (h : ∃ k, k ∉ used) (n : BitVec 16) : ∃ i ∈ List.range (used.length + 1), n + BitVec.ofNat 16 i ∉ used := by
  by_contra all
  push Not at all
  by_cases small : used.length + 1 ≤ 2 ^ 16
  · have sub : (List.range (used.length + 1)).map (fun i => n + BitVec.ofNat 16 i) ⊆ used := by
      intro x hx
      obtain ⟨i, hi, rfl⟩ := List.mem_map.1 hx
      exact all i hi
    have len := ((farmNumbers_nodup n small).subperm sub).length_le
    simp at len
  · obtain ⟨k, hk⟩ := h
    refine hk ?_
    have i16 := (k - n).isLt
    have e : n + BitVec.ofNat 16 (k - n).toNat = k := by rw [BitVec.ofNat_toNat, BitVec.setWidth_eq, BitVec.add_comm, BitVec.sub_add_cancel]
    exact e ▸ all (k - n).toNat (List.mem_range.2 (by omega))

theorem newNumber_free {s : State} (h : ∃ k, k ∉ usedNumbers s) : newNumber s ∉ usedNumbers s := by
  obtain ⟨i, hi, free⟩ := farmNumber_free h (Config.farmPick s.fresh)
  unfold newNumber
  dsimp only
  split
  · next j hj => simpa using List.find?_some hj
  · next none => exact absurd (List.find?_eq_none.1 none i hi) (by simpa using free)

theorem newNumber_unused {s : State} (h : ∃ k, k ∉ usedNumbers s) {g : Farm} (hg : g ∈ s.farms) (live : g.state ≠ .done) : g.num ≠ newNumber s := by
  intro e
  refine newNumber_free h ?_
  rw [← e, usedNumbers, List.append_assoc]
  exact List.mem_append_left _ (List.mem_map_of_mem (List.mem_filter.2 ⟨hg, bne_iff_ne.2 live⟩))

/-- A block of 64 bytes that an instruction reads, where every check passes (R217). -/
theorem blockRead_seen {s : State} {n : Nat} {a : Word} {m : Mapped} {v : Nat} (aligned : a.toNat % n = 0) (near : a.getLsbD 63 = false)
    (granted : checkAccess s .load false 1 a = .ok m) (seen : Seen s m n v) : blockRead s n a = .ok (v, 0, afterLoad s m n) := by
  rw [blockRead, if_neg (by simpa using aligned), isRemote, near, if_neg (by decide), granted]
  dsimp only
  rw [seen.2.2, if_neg (by decide), viewRead_of_seen seen]

/-- What FARM does with the 64 bytes it has read (R218). -/
def farmFrom (d : Reg) (bytes : Nat) (s : State) : State :=
  let f := newFarm s (newNumber s) (farmRecOf bytes)
  if !farmRecOk s.hart.partid bytes then finishFlags 4 0 (s.setX d (farmRefusal 1))
  else if (benchSet s f).isEmpty then finishFlags 4 0 (s.setX d (farmRefusal 2))
  else if (s.farms.filter (fun g => g.live && g.rcd.part == s.hart.partid)).length ≥ Config.farmLimit then finishFlags 4 0 (s.setX d (farmRefusal 3))
  else finishFlags 4 0 (({ s with
    fresh := s.fresh + 1, farms := s.farms.filter (fun (g : Farm) => g.num != newNumber s) ++ [f] } : State).setX d ((newNumber s).zeroExtend 64))

theorem exec_farm {s : State} (sup : 1 ≤ levelOf s) (empty : s.hart.stores = []) {d a : Reg} {m : Mapped} {v : Nat} (aligned : (s.getX a).toNat % 64 = 0)
    (near : (s.getX a).getLsbD 63 = false) (granted : checkAccess s .load false 1 (s.getX a) = .ok m) (seen : Seen s m 64 v) :
    exec (.farm d a) s = .next (farmFrom d v (afterLoad s m 64)) := by
  refine (sysStep_high sup rfl _).trans ?_
  dsimp only
  rw [drainStores_empty empty, blockRead_seen aligned near granted seen]
  rfl

/-- What a farm record says of the new farm's state (R218, R270). -/
theorem newFarm_state (s : State) (n : BitVec 16) (r : FarmRec) :
    (newFarm s n r).state = if r.depaddr ≠ 0 then .blocked else if r.strips = 0 then .completing else .ready := by
  unfold newFarm
  dsimp only
  split
  · next e => simp [e, eligible]
  · rfl

theorem newFarm_fields (s : State) (n : BitVec 16) (r : FarmRec) : (newFarm s n r).num = n ∧ (newFarm s n r).rcd = r ∧ (newFarm s n r).nextStrip = 0
    ∧ (newFarm s n r).trapbase = s.hart.trapbase ∧ (newFarm s n r).ptbase = s.hart.ptbase ∧ (newFarm s n r).asid = s.hart.asid := by
  unfold newFarm
  dsimp only
  split <;> exact ⟨rfl, rfl, rfl, rfl, rfl, rfl⟩

theorem sameButRows_queued {t u : State} (h : SameButRows t u) (n : Nat) (l : List Farm) :
    SameButRows { t with fresh := n, farms := l } { u with fresh := n, farms := l } :=
  ⟨congrArg (fun x : State => { x with fresh := n, farms := l }) h.1, h.2⟩

theorem farmFrom_refused {s u : State} (same : SameButRows s u) (hu : Steady u) (d : Reg) (n : Nat) :
    SameButRows (finishFlags 4 0 (s.setX d (farmRefusal n))) (wrote 4 d (farmRefusal n) u) := writeInt_sameButRows same hu 4 d (farmRefusal n)

theorem benchSet_isEmpty (s : State) (f : Farm) : (benchSet s f).isEmpty = !(List.range 48).any (fun b => f.rcd.place.testBit b && (s.partn f.rcd.part).hasBench b) := by
  rw [Bool.eq_iff_iff, List.isEmpty_iff, benchSet, List.filter_eq_nil_iff, Bool.not_eq_true', List.any_eq_false]
  rfl

theorem partn_congr {s t : State} (h : t.parts = s.parts) (p : BitVec 3) : t.partn p = s.partn p := by rw [State.partn, State.partn]; simp only [h]

/-- A legal record is for the partition of its hart (R217). -/
theorem farmRecOk_part {p : BitVec 3} {v : Nat} (ok : farmRecOk p v = true) : (farmRecOf v).part = p := by
  rw [farmRecOk, Bool.and_eq_true, beq_iff_eq] at ok
  exact ok.2

theorem newFarm_benchless {s : State} {v : Nat} (ok : farmRecOk s.hart.partid v = true) : (benchSet s (newFarm s (newNumber s) (farmRecOf v))).isEmpty
    = !(List.range 48).any (fun b => (farmRecOf v).place.testBit b && (s.partn s.hart.partid).hasBench b) := by
  obtain ⟨-, rcd, -⟩ := newFarm_fields s (newNumber s) (farmRecOf v)
  rw [benchSet_isEmpty, rcd, farmRecOk_part ok]

/-- A record without a bench of its partition (R218, R269). -/
theorem farmFrom_benchless {s : State} {v : Nat} (ok : farmRecOk s.hart.partid v = true)
    (benches : ¬ (List.range 48).any (fun b => (farmRecOf v).place.testBit b && (s.partn s.hart.partid).hasBench b) = true) (d : Reg) :
    farmFrom d v s = finishFlags 4 0 (s.setX d (farmRefusal 2)) := by
  rw [farmFrom, if_neg (by rw [ok]; decide), if_pos (by rw [newFarm_benchless ok, Bool.not_eq_true'] ; simpa using benches)]

/-- A farm beyond the limit of its partition (R218). -/
theorem farmFrom_full {s : State} {v : Nat} (ok : farmRecOk s.hart.partid v = true)
    (benches : (List.range 48).any (fun b => (farmRecOf v).place.testBit b && (s.partn s.hart.partid).hasBench b) = true)
    (full : (s.farms.filter (fun g => g.live && g.rcd.part == s.hart.partid)).length ≥ Config.farmLimit) (d : Reg) :
    farmFrom d v s = finishFlags 4 0 (s.setX d (farmRefusal 3)) := by
  rw [farmFrom, if_neg (by rw [ok]; decide), if_neg (by rw [newFarm_benchless ok, benches]; decide), if_pos full]

/-- FARM once its record has been read, by what its record and the module allow (R217, R218, R270, R329). -/
theorem farmFrom_made {s : State} (hs : Steady s) (free : ∃ k, k ∉ usedNumbers s) {v : Nat} (ok : farmRecOk s.hart.partid v = true)
    (benches : (List.range 48).any (fun b => (farmRecOf v).place.testBit b && (s.partn s.hart.partid).hasBench b) = true)
    (room : ¬ (s.farms.filter (fun g => g.live && g.rcd.part == s.hart.partid)).length ≥ Config.farmLimit) (d : Reg) :
    ∃ n f, farmFrom d v s = { wrote 4 d (n.setWidth 64) s with farms := (farmFrom d v s).farms, fresh := s.fresh + 1 } ∧ (farmFrom d v s).farmOf n = some f
      ∧ (∀ g ∈ s.farms, g.state ≠ .done → g.num ≠ n ∧ g ∈ (farmFrom d v s).farms) ∧ f = newFarm s n (farmRecOf v) := by
  obtain ⟨num, -⟩ := newFarm_fields s (newNumber s) (farmRecOf v)
  have made : farmFrom d v s = wrote 4 d ((newNumber s).setWidth 64) { s with
      fresh := s.fresh + 1, farms := s.farms.filter (fun (g : Farm) => g.num != newNumber s) ++ [newFarm s (newNumber s) (farmRecOf v)] } := by
    rw [farmFrom, if_neg (by rw [ok]; decide), if_neg (by rw [newFarm_benchless ok, benches]; decide), if_neg room]
    exact writeInt_steady (s := { s with
      fresh := s.fresh + 1, farms := s.farms.filter (fun (g : Farm) => g.num != newNumber s) ++ [newFarm s (newNumber s) (farmRecOf v)] }) hs 4 d _
  refine ⟨newNumber s, _, ?_, ?_, fun g hg live => ⟨newNumber_unused free hg live, ?_⟩, rfl⟩
  · rw [made]; rfl
  · rw [made]
    show (s.farms.filter (fun (g : Farm) => g.num != newNumber s) ++ [newFarm s (newNumber s) (farmRecOf v)]).find? (fun f => f.num == newNumber s) = _
    rw [List.find?_append, List.find?_eq_none.2 (fun g hg => by simpa using (List.mem_filter.1 hg).2)]
    simp [num]
  · rw [made]
    exact List.mem_append_left _ (List.mem_filter.2 ⟨hg, bne_iff_ne.2 (newNumber_unused free hg live)⟩)

theorem farmCreation : Claim.FarmCreation := by
  intro s d a m v hs clean sup empty aligned near granted seen free r p full benches
  have same : SameButRows (afterLoad s m 64) s :=
    afterLoadAs_sameButRows clean false (checkAccess_reached granted) (by decide) (served_of_view seen.2.2)
  refine ⟨_, exec_farm sup empty aligned near granted seen, ?_⟩
  generalize afterLoad s m 64 = u at same ⊢
  have hart : u.hart = s.hart := sameButRows_hart same
  have farms : u.farms = s.farms := (congrArg State.farms same.1).trans rfl
  have fresh : u.fresh = s.fresh := (congrArg State.fresh same.1).trans rfl
  have parts : u.parts = s.parts := (congrArg State.parts same.1).trans rfl
  have used : usedNumbers u = usedNumbers s := (congrArg usedNumbers same.1).trans rfl
  have benchesOf : (List.range 48).any (fun b => r.place.testBit b && (u.partn u.hart.partid).hasBench b) = benches := by rw [hart, partn_congr parts]
  have fullOf : (u.farms.filter (fun g => g.live && g.rcd.part == u.hart.partid)).length ≥ 256 ↔ full := by rw [farms, hart]; exact Iff.rfl
  by_cases ok : farmRecOk p v = true
  · rw [if_neg (not_not.2 ok)]
    have okU : farmRecOk u.hart.partid v = true := by rw [hart]; exact ok
    by_cases some : benches = true
    · rw [if_neg (not_not.2 some)]
      by_cases many : full
      · rw [if_pos many, farmFrom_full okU (benchesOf.trans some) (fullOf.2 many)]
        exact farmFrom_refused same hs d 3
      · rw [if_neg many]
        obtain ⟨n, f, made, found, kept, hf⟩ := farmFrom_made (steady_of_sameButRows same hs) (by rw [used]; exact free) okU (benchesOf.trans some) (fun h => many (fullOf.1 h)) d
        obtain ⟨num, rcd, strip, trapbase, ptbase, asid⟩ := newFarm_fields u n r
        refine ⟨n, f, ?_, found, fun g hg live => kept g (by rw [farms]; exact hg) live, ?_⟩
        · rw [made, fresh]
          exact sameButRows_queued (sameButRows_wrote same 4 d _) (s.fresh + 1) _
        · rw [hf, ← hart]
          exact ⟨rcd, strip, newFarm_state u n r, trapbase, ptbase, asid⟩
    · rw [if_pos some, farmFrom_benchless okU (by rw [benchesOf]; exact some)]
      exact farmFrom_refused same hs d 2
  · rw [if_pos ok, farmFrom, if_pos (by rw [hart]; simpa using ok)]
    exact farmFrom_refused same hs d 1

/-! ### Strip claims -/

/-- Unbinding a register changes, of the hart, its bindings alone. -/
theorem unbindReg_hart (n : Nat) (s : State) : ∃ b, (unbindReg n s).hart = { s.hart with streams := b } := by
  unfold unbindReg
  split
  · exact ⟨s.hart.streams, rfl⟩
  · next b _ =>
    have set : ∃ l, s.hart.setBinding n none = { s.hart with streams := l } := by
      unfold Hart.setBinding
      split
      · exact ⟨_, rfl⟩
      · exact ⟨s.hart.streams, rfl⟩
    obtain ⟨l, hl⟩ := set
    refine ⟨l, ?_⟩
    dsimp only
    split
    · split
      · exact hl
      · exact hl
    · split
      · exact hl
      · exact hl

theorem unbindRegs_hart (l : List Nat) (s : State) : ∃ b, (l.foldl (fun s i => unbindReg (24 + i) s) s).hart = { s.hart with streams := b } := by
  induction l generalizing s with
  | nil => exact ⟨s.hart.streams, rfl⟩
  | cons i l ih =>
    obtain ⟨b, hb⟩ := unbindReg_hart (24 + i) s
    obtain ⟨c, hc⟩ := ih (unbindReg (24 + i) s)
    exact ⟨c, by rw [List.foldl_cons, hc, hb]⟩

theorem settleFarm_hart (n : BitVec 16) (s : State) : (settleFarm n s).hart = s.hart := by
  unfold settleFarm
  split <;> rfl

theorem drainStores_moved (s : State) : StoresMoved s (drainStores s) := by
  unfold drainStores
  split
  · exact .refl s
  · exact performOldest_moved _ s

/-- A hart that retires is resident no longer; its registers stay as they were (R220). -/
theorem retireHart_hart (s : State) : ∃ l b, (retireHart s).hart = { s.hart with stores := l, streams := b, run := .absent, instret := s.hart.instret + 1 } := by
  obtain ⟨l, hl⟩ : ∃ l, (drainStores s).hart = { s.hart with stores := l } := (drainStores_moved s).hart
  obtain ⟨b, hb⟩ := unbindRegs_hart (List.range 8) (drainStores s)
  refine ⟨l, b, ?_⟩
  unfold retireHart
  dsimp only
  rw [settleFarm_hart, State.withHart_hart, hb, hl]

theorem claimStrip_bureau {s : State} (hs : Steady s) (bureau : s.hart.bureau = true) (len : Nat) (d : Reg) (ret : Bool) :
    claimStrip len d ret s = wrote len d (BitVec.allOnes 64) (s.withHart { s.hart with stripno := BitVec.allOnes 64 }) := by
  rw [claimStrip]
  dsimp only
  rw [if_pos bureau]
  exact writeInt_steady (s := s.withHart { s.hart with stripno := BitVec.allOnes 64 }) hs len d (BitVec.allOnes 64)

theorem claimStrip_next {s : State} (hs : Steady s) (user : s.hart.bureau = false) {f : Farm} (hf : s.farmOf s.hart.farm = some f) (left : f.nextStrip < f.rcd.strips)
    (len : Nat) (d : Reg) (ret : Bool) : claimStrip len d ret s = (let u := s.updFarm f.num (fun g => { g with nextStrip := g.nextStrip + 1 })
      wrote len d (BitVec.ofNat 64 f.nextStrip) (u.withHart { u.hart with stripno := BitVec.ofNat 64 f.nextStrip })) := by
  rw [claimStrip]
  dsimp only
  rw [if_neg (by rw [user]; decide), hf]
  dsimp only
  rw [if_pos left]
  exact writeInt_steady (s := (s.updFarm f.num (fun g => { g with nextStrip := g.nextStrip + 1 })).withHart { s.hart with stripno := BitVec.ofNat 64 f.nextStrip }) hs len d _

theorem claimStrip_none {s : State} (hs : Steady s) (user : s.hart.bureau = false) {f : Farm} (hf : s.farmOf s.hart.farm = some f) (gone : f.rcd.strips ≤ f.nextStrip)
    (len : Nat) (d : Reg) : claimStrip len d false s = wrote len d (BitVec.allOnes 64) (s.withHart { s.hart with stripno := BitVec.allOnes 64 }) := by
  rw [claimStrip]
  dsimp only
  rw [if_neg (by rw [user]; decide), hf]
  dsimp only
  rw [if_neg (by omega), if_neg (by decide)]
  exact writeInt_steady (s := s.withHart { s.hart with stripno := BitVec.allOnes 64 }) hs len d (BitVec.allOnes 64)

theorem claimStrip_retires {s : State} (user : s.hart.bureau = false) {f : Farm} (hf : s.farmOf s.hart.farm = some f) (gone : f.rcd.strips ≤ f.nextStrip)
    (len : Nat) (d : Reg) : claimStrip len d true s = retireHart s := by
  rw [claimStrip]
  dsimp only
  rw [if_neg (by rw [user]; decide), hf]
  dsimp only
  rw [if_neg (by omega), if_pos rfl]

theorem stripClaims : Claim.StripClaims := by
  intro s d ret hs none' claim
  have long : exec (.strip d ret) s = .next (claimStrip 4 d ret s) := rfl
  have short : exec (.cStrip d ret) s = .next (claimStrip 2 d ret s) := rfl
  rw [long, short]
  refine ⟨fun bureau => ⟨congrArg _ (claimStrip_bureau hs bureau 4 d ret), congrArg _ (claimStrip_bureau hs bureau 2 d ret)⟩, fun f user hf => ⟨fun left => ?_, fun gone e => ?_, fun gone e => ?_⟩⟩
  · exact ⟨congrArg _ (claimStrip_next hs user hf left 4 d ret), congrArg _ (claimStrip_next hs user hf left 2 d ret)⟩
  · subst e
    exact ⟨congrArg _ (claimStrip_none hs user hf gone 4 d), congrArg _ (claimStrip_none hs user hf gone 2 d)⟩
  · subst e
    obtain ⟨l, b, hart⟩ := retireHart_hart s
    exact ⟨retireHart s, congrArg _ (claimStrip_retires user hf gone 4 d), congrArg _ (claimStrip_retires user hf gone 2 d),
      by rw [hart], by rw [hart], by rw [hart]⟩

/-- Settles O31: a farm's number is one of the first that no farm uses (pigeonhole); a strip claim is decided by the farm's next strip. -/
theorem farmsAndStrips : Obligations.FarmsAndStrips := ⟨farmCreation, stripClaims⟩

open Sys2Proof.Claim

/-! ## Vector instructions on plain registers: no stream is bound, no element is poisoned -/

/-- No vector register is bound to a stream. -/
def Unbound (h : Hart) : Prop := h.streams = Vector.replicate 8 none

theorem Unbound.binding {h : Hart} (hu : Unbound h) (r : Nat) : h.binding r = none := by
  unfold Hart.binding
  split
  · simp only [show h.streams = _ from hu, Vector.getElem_replicate]
  · rfl

theorem Unbound.loadBinding {h : Hart} (hu : Unbound h) (r : Nat) : h.loadBinding r = none := by rw [Hart.loadBinding, hu.binding]; rfl
theorem Unbound.storeBinding {h : Hart} (hu : Unbound h) (r : Nat) : h.storeBinding r = none := by rw [Hart.storeBinding, hu.binding]; rfl
theorem Unbound.srcTag {h : Hart} (hu : Unbound h) (r : Nat) : h.srcTag r = (h.vreg r).fmt.toNat := by rw [Hart.srcTag, hu.loadBinding]
theorem Unbound.drawOrigin {h : Hart} (hu : Unbound h) (r : Nat) : drawOrigin h r = 0 := by rw [Machine.drawOrigin, hu.storeBinding]

theorem Unbound.consumed {h : Hart} (hu : Unbound h) (ops : List Opnd) : consumed h ops = [] := by
  have none : (ops.filter (·.src)).filterMap (fun o => (h.loadBinding o.base).map (fun b => (o.base, b))) = [] := by
    rw [List.filterMap_eq_nil_iff]
    intro o _
    rw [hu.loadBinding]; rfl
  rw [Machine.consumed, none]; rfl

theorem Unbound.readySources {s : State} (hu : Unbound s.hart) (ops : List Opnd) : readySources s ops = some (s, s.hart, []) := by
  rw [Machine.readySources, hu.consumed]; rfl

theorem Unbound.advanceStore {h : Hart} (hu : Unbound h) (r n : Nat) : advanceStore h r n = h := by rw [Machine.advanceStore, hu.storeBinding]

theorem Unbound.dropAhead {h : Hart} (hu : Unbound h) : h.dropAhead = h := by
  have same : h.streams.map (fun b => b.map (fun x => { x with ahead := [] })) = h.streams := by rw [show h.streams = _ from hu]; simp
  rw [Hart.dropAhead, same]

theorem Unbound.streamCheck {h : Hart} (hu : Unbound h) (grouped : Bool) (fmt : Nat) (ops : List Opnd) : streamCheck h grouped fmt ops = none := by
  have inGroup : ops.flatMap (fun o => o.regs.filter (fun r => (h.binding r).isSome && (grouped || o.n > 1 || r ≥ o.base + o.n))) = [] := by
    rw [List.flatMap_eq_nil_iff]
    intro o _
    rw [List.filter_eq_nil_iff]
    intro r _
    rw [hu.binding]; exact Bool.false_ne_true
  have loads (l : List Opnd) : l.find? (fun o => (h.loadBinding o.base).isSome) = none := by
    rw [List.find?_eq_none]; intro o _; rw [hu.loadBinding]; exact Bool.false_ne_true
  have stores (l : List Opnd) (f : Opnd → Binding → Option TrapReq) : l.findSome? (fun o => (h.storeBinding o.base).bind (f o)) = none := by
    rw [List.findSome?_eq_none_iff]; intro o _; rw [hu.storeBinding]; rfl
  have srcs (l : List Opnd) (f : Opnd → Binding → Option TrapReq) : l.findSome? (fun o => (h.loadBinding o.base).bind (f o)) = none := by
    rw [List.findSome?_eq_none_iff]; intro o _; rw [hu.loadBinding]; rfl
  unfold Machine.streamCheck
  dsimp only
  rw [inGroup]
  dsimp only [List.head?_nil]
  rw [loads]
  dsimp only
  rw [stores]
  dsimp only
  rw [srcs]

/-- The checks of a vector instruction whose type is legal (R445). -/
theorem Unbound.vecCheck {h : Hart} (hu : Unbound h) (legal : h.vill = false) (i : Instr) {c : VCheck} (grant : c.grant = true) (format : c.format = true)
    (rounds : c.rounds = true → h.vrm ≠ none) (grouped : Bool) (fmt : Nat) (ops : List Opnd) : vecCheck i h c grouped fmt ops = none := by
  unfold Machine.vecCheck
  rw [legal, grant, format, hu.streamCheck]
  have round : (c.rounds && h.vrm.isNone) = false := by
    cases hr : c.rounds with
    | false => rfl
    | true => simpa [Option.isSome_iff_ne_none] using rounds hr
  rw [round]; rfl

theorem held_still {s : State} (h : s.hart.moving = false) (k : State → State) : held s k = k s := by rw [held, h]; rfl

theorem finishVec_steady {s : State} (hs : Steady s) {fl : BitVec 7} (hf : fl &&& s.hart.enables = 0) :
    finishVec fl s = retired (s.hart.pc + 4) fl (s.withHart { s.hart with vri := 0 }) :=
  finishFlags_steady (s := s.withHart { s.hart with vri := 0 }) hs hf 4

open Sys2Proof.Claim

/-! ## What translations and memory reads depend on (R310, R312, R318, R319, R416) -/

/-- Two states whose tables, and whatever a walk or a read of memory finds, are the same. -/
structure SameTables (t u : State) : Prop where
  mem : t.mem = u.mem
  poison : t.poison = u.poison
  up : t.links.cxlUp = u.links.cxlUp
  upsets : t.upsets = u.upsets
  held : t.held = u.held
  tick : t.tick = u.tick
  parts : t.parts = u.parts

theorem SameTables.refl (s : State) : SameTables s s := ⟨rfl, rfl, rfl, rfl, rfl, rfl, rfl⟩

theorem SameTables.trans {s t u : State} (h : SameTables s t) (k : SameTables t u) : SameTables s u :=
  ⟨h.mem.trans k.mem, h.poison.trans k.poison, h.up.trans k.up, h.upsets.trans k.upsets, h.held.trans k.held, h.tick.trans k.tick, h.parts.trans k.parts⟩

theorem SameTables.of_rows {t u : State} (h : SameButRows t u) : SameTables t u :=
  ⟨(congrArg State.mem h.1).trans rfl, (congrArg State.poison h.1).trans rfl, (congrArg (·.links.cxlUp) h.1).trans rfl, (congrArg State.upsets h.1).trans rfl,
    (congrArg State.held h.1).trans rfl, (congrArg State.tick h.1).trans rfl, (congrArg State.parts h.1).trans rfl⟩

theorem SameTables.withHart {t u : State} (h : SameTables t u) (g : Hart) : SameTables (t.withHart g) u := ⟨h.mem, h.poison, h.up, h.upsets, h.held, h.tick, h.parts⟩

section
variable {t u : State} (h : SameTables t u)
include h

theorem linkDown_same (pa : Nat) : linkDown t pa = linkDown u pa := by rw [linkDown, h.up]; rfl
theorem homeFails_same (k : Nat) : homeFails t k = homeFails u k := by rw [homeFails, homeFails, h.mem, h.upsets]
theorem poisonedAt_same (pa n : Nat) : poisonedAt t pa n = poisonedAt u pa n := by simp only [poisonedAt, h.poison, linkDown_same h, homeFails_same h]
theorem homeRead_same (pa n : Nat) : homeRead t pa n = homeRead u pa n := by rw [homeRead, homeRead, linkDown_same h, h.mem]
theorem tableWord_same (pa : Nat) : tableWord t pa = tableWord u pa := by simp only [tableWord, h.held, h.mem, h.tick]
theorem tableEntry_same (p : BitVec 3) (pa : Nat) : tableEntry t p pa = tableEntry u p pa := by rw [tableEntry, tableEntry, poisonedAt_same h, tableWord_same h]
theorem partn_same (p : BitVec 3) : t.partn p = u.partn p := partn_congr h.parts p
theorem g2On_same (sp : Space) : g2On t sp = g2On u sp := by rw [g2On, g2On, partn_same h]
theorem tableRead2_same (p : BitVec 3) (ipa pa : Nat) : tableRead2 t p ipa pa = tableRead2 u p ipa pa := by rw [tableRead2, tableRead2, tableEntry_same h]

theorem walk2_same (p : BitVec 3) (ipa lv base : Nat) : walk2 t p ipa lv base = walk2 u p ipa lv base := by
  induction lv generalizing base with
  | zero => simp only [walk2, h.tick, tableWord_same h, tableRead2_same h]
  | succ lv ih => simp only [walk2, tableRead2_same h, ih]

theorem secondStage_same (sp : Space) (ipa : Nat) : secondStage t sp ipa = secondStage u sp ipa := by
  rw [secondStage, secondStage, g2On_same h, walk2_same h, partn_same h]

theorem tableRead1_same (sp : Space) (ipa : Nat) : tableRead1 t sp ipa = tableRead1 u sp ipa := by
  simp only [tableRead1, secondStage_same h, g2On_same h, tableEntry_same h]

theorem walk1_same (sp : Space) (va lv base : Nat) : walk1 t sp va lv base = walk1 u sp va lv base := by
  induction lv generalizing base with
  | zero => simp only [walk1, h.tick, tableRead1_same h]
  | succ lv ih => simp only [walk1, tableRead1_same h, ih]

theorem walk_same (sp : Space) (va : Nat) : walk t sp va = walk u sp va := by
  simp only [walk, walk1_same h, secondStage_same h, g2On_same h]

theorem judge_same (sp : Space) (k : AccessKind) (va : Nat) (e : TlbEntry) (w : Option (TlbEntry × List Nat)) : judge t sp k va e w = judge u sp k va e w := by
  simp only [judge, partn_same h]

theorem translate_same (sp : Space) {i : HartId} (tlbs : t.tlbs i = u.tlbs i) (k : AccessKind) (va : Word) :
    translate t sp (some i) k va = translate u sp (some i) k va := by
  unfold translate
  simp only [tlbs, judge_same h, walk_same h]

theorem locate_same (sp : Space) {i : HartId} (tlbs : t.tlbs i = u.tlbs i) (k : AccessKind) (dev : Bool) (va : Word) :
    locate t sp (some i) k dev va = locate u sp (some i) k dev va := by
  rw [locate, locate, translate_same h sp tlbs]

theorem checkAccess_same (space : t.hart.space = u.hart.space) (id : t.hart.id = u.hart.id) (tlbs : t.tlbs u.hart.id = u.tlbs u.hart.id)
    (k : AccessKind) (dev : Bool) (n : Nat) (va : Word) : checkAccess t k dev n va = checkAccess u k dev n va := by
  rw [checkAccess, checkAccess, space, id, locate_same h _ tlbs]

end

/-- What a translation gives does not depend on whether a TLB or a walk gave it. -/
theorem judge_hit {s : State} {sp : Space} {k : AccessKind} {va : Nat} {e : TlbEntry} {w : Option (TlbEntry × List Nat)} {m : Mapped}
    (h : judge s sp k va e w = .ok m) : judge s sp k va e none = .ok { m with walk := none } := by
  unfold judge at h ⊢
  dsimp only at h ⊢
  split_ifs at h ⊢
  cases h
  rfl

theorem find?_tlbAdd {p : TlbEntry → Bool} {l : List TlbEntry} (none : ∀ x ∈ l, p x = false) (n : Nat) (e : TlbEntry) :
    (tlbAdd (n + 1) e l).find? p = if p e then some e else .none := by
  rw [tlbAdd, List.take_succ_cons, List.find?_cons]
  cases hit : p e with
  | true => rfl
  | false =>
    refine List.find?_eq_none.2 fun x hx => ?_
    rw [none x (List.mem_of_mem_filter (List.mem_of_mem_take hx))]
    exact Bool.false_ne_true

/-- Both TLBs of a hart filled with a translation. -/
def fillTlbs (i : HartId) (e : TlbEntry) (s : State) : State :=
  let u := s.setCore (coreOf i) { s.core (coreOf i) with tlb := tlbAdd 64 e (s.core (coreOf i)).tlb }
  u.setBench (benchOf i) { u.bench (benchOf i) with tlb := tlbAdd 2048 e (u.bench (benchOf i)).tlb }

theorem fillTlbs_tlbs (i : HartId) (e : TlbEntry) (s : State) :
    (fillTlbs i e s).tlbs i = tlbAdd 64 e (s.core (coreOf i)).tlb ++ tlbAdd 2048 e (s.bench (benchOf i)).tlb := by
  rw [State.tlbs, fillTlbs]
  dsimp only
  rw [State.bench_setBench]
  exact congrArg (· ++ _) (congrArg Core.tlb (State.core_setCore s (coreOf i) _))

theorem noteWalk_walked {m : Mapped} {e : TlbEntry} {l : List Nat} (hw : m.walk = some (e, l)) (s : State) (i : HartId) :
    noteWalk s (some i) m = if (s.tlbs i).contains e then s else fillTlbs i e (noteAll s (l.map (.entry e.part))) := by
  unfold noteWalk
  rw [hw]
  rfl

/-- The TLBs after a walk has been noted: the entry it gave answers first, if it answers at all. -/
theorem noteWalk_find? {s : State} (clean : NoUpset s) {i : HartId} {m : Mapped} (hm : m.WalkReached s) {p : TlbEntry → Bool} {e : TlbEntry} {l : List Nat}
    (hw : m.walk = some (e, l)) (miss : (s.tlbs i).find? p = none) :
    ((noteWalk s (some i) m).tlbs i).find? p = none ∨ ((noteWalk s (some i) m).tlbs i).find? p = some e := by
  have none : ∀ x ∈ s.tlbs i, p x = false := fun x hx => by simpa using List.find?_eq_none.1 miss x hx
  rw [noteWalk_walked hw]
  split
  · exact .inl miss
  · have rows := noteAll_entries_rows clean e.part (hm e l hw)
    have cores : (noteAll s (l.map (.entry e.part))).cores = s.cores := (congrArg State.cores rows).trans rfl
    have benches : (noteAll s (l.map (.entry e.part))).benches = s.benches := (congrArg State.benches rows).trans rfl
    rw [State.tlbs, ← core_congr cores, ← bench_congr benches] at none
    rw [fillTlbs_tlbs, List.find?_append, find?_tlbAdd (fun x hx => none x (List.mem_append_left _ hx)),
      find?_tlbAdd (fun x hx => none x (List.mem_append_right _ hx))]
    cases p e with
    | true => exact .inr rfl
    | false => exact .inl rfl

/-- An address translated once translates again to the same place once the walk has been noted (R319). -/
theorem translate_again {s u : State} (clean : NoUpset s) {sp : Space} {i : HartId} {k : AccessKind} {va : Word} {m : Mapped}
    (h : translate s sp (some i) k va = .ok m) (same : SameTables u s) (tlbs : u.tlbs i = (noteWalk s (some i) m).tlbs i) :
    ∃ w, translate u sp (some i) k va = .ok { m with walk := w } := by
  have reached := translate_reached h
  unfold translate at h ⊢
  split_ifs at h ⊢ with high
  dsimp only at h ⊢
  cases hit : (s.tlbs i).find? (fun (e : TlbEntry) => e.hits sp va.toNat) with
  | some e =>
    rw [hit] at h
    have cached : m.walk = none := judge_walk h
    have stays : noteWalk s (some i) m = s := by unfold noteWalk; rw [cached]
    rw [tlbs, stays, hit]
    dsimp only at h ⊢
    exact ⟨m.walk, by rw [judge_same same, h]⟩
  | none =>
    rw [hit] at h
    dsimp only at h
    cases hw : walk s sp va.toNat with
    | mk l r =>
      rw [hw] at h
      cases r with
      | error f => cases h
      | ok e =>
        dsimp only at h
        rcases noteWalk_find? clean reached (judge_walk h) hit with found | found
        · rw [tlbs, found]
          dsimp only
          rw [walk_same same, hw]
          exact ⟨m.walk, (judge_same same sp k va.toNat e (some (e, l))).trans h⟩
        · rw [tlbs, found]
          exact ⟨none, (judge_same same sp k va.toNat e none).trans (judge_hit h)⟩

theorem locate_again {s u : State} (clean : NoUpset s) {sp : Space} {i : HartId} {k : AccessKind} {dev : Bool} {va : Word} {m : Mapped}
    (h : locate s sp (some i) k dev va = .ok m) (same : SameTables u s) (tlbs : u.tlbs i = (noteWalk s (some i) m).tlbs i) :
    ∃ w, locate u sp (some i) k dev va = .ok { m with walk := w } := by
  obtain ⟨w, hw⟩ := translate_again clean (locate_translate h) same tlbs
  refine ⟨w, ?_⟩
  rw [locate, locate_translate h] at h
  rw [locate, hw]
  dsimp only at h ⊢
  split_ifs at h ⊢
  rfl

/-- An access that passes its checks passes them again once its walk has been noted (R319). -/
theorem checkAccess_again {s u : State} (clean : NoUpset s) {k : AccessKind} {dev : Bool} {n : Nat} {va : Word} {m : Mapped}
    (h : checkAccess s k dev n va = .ok m) (same : SameTables u s) (space : u.hart.space = s.hart.space) (id : u.hart.id = s.hart.id)
    (tlbs : u.tlbs s.hart.id = (noteWalk s (some s.hart.id) m).tlbs s.hart.id) : ∃ w, checkAccess u k dev n va = .ok { m with walk := w } := by
  obtain ⟨w, hw⟩ := locate_again clean (checkAccess_locate h) same tlbs
  refine ⟨w, ?_⟩
  have aligned : va.toNat % n = 0 := by
    by_contra off
    rw [checkAccess, if_pos off] at h
    cases h
  rw [checkAccess, if_neg (by simpa using aligned), space, id, hw]

open Sys2Proof.Claim

/-! ## FJOIN, WFE and VWAIT (R212 to R216) -/

/-- One bit of an image cleared. -/
theorem and_xor_two_pow (b e : Nat) : b &&& (b ^^^ (1 <<< e)) = if b.testBit e then b - 2 ^ e else b := by
  rw [Nat.one_shiftLeft]
  induction e generalizing b with
  | zero =>
    induction b using Nat.binaryRec' with
    | zero => rfl
    | bit x y _ _ =>
      rw [show (2 : Nat) ^ 0 = Nat.bit true 0 from rfl, Nat.xor_bit, Nat.land_bit, Nat.testBit_bit_zero]
      cases x <;> simp [Nat.bit]
  | succ e ih =>
    induction b using Nat.binaryRec' with
    | zero => simp
    | bit x y _ _ =>
      have two : 2 ^ (e + 1) = Nat.bit false (2 ^ e) := by simp [Nat.bit, pow_succ, Nat.mul_comm]
      rw [two, Nat.xor_bit, Nat.land_bit, ih, Nat.testBit_bit_succ]
      cases set : y.testBit e with
      | false => cases x <;> rfl
      | true =>
        have := Nat.ge_two_pow_of_testBit set
        cases x <;> simp [Nat.bit] <;> omega

theorem watchFault_none {s : State} {n : Nat} {a : Word} {m : Mapped} (aligned : a.toNat % n = 0) (near : a.getLsbD 63 = false)
    (granted : checkAccess s .load false n a = .ok m) : watchFault s n a = none := by
  rw [watchFault, if_neg (by simpa using aligned), isRemote, near, if_neg (by decide), granted]

/-- One watched location read at its home. -/
def watchOne (n : Nat) (s : State) (m : Mapped) : State :=
  (sectorsOf m.pa n).foldl (fun s k => touch s s.hart.partid k m.abench m.uc false true) (noteWalk s (some s.hart.id) m)

/-- The locations that a list of addresses names. -/
def watched (n : Nat) (as : List Word) (s : State) : List Mapped :=
  as.filterMap (fun a => match checkAccess s .load false n a with | .ok m => some m | .error _ => none)

theorem watchFirst_eq {s : State} (empty : s.hart.stores = []) (n : Nat) (as : List Word) : watchFirst n as s = (watched n as s).foldl (watchOne n) s := by
  rw [watchFirst, drainThrough_empty empty]
  rfl

theorem noteAll_moved (s : State) (l : List Note) : MemoryMoved s (noteAll s l) :=
  .foldl (fun s n => by cases n with
    | ras r => exact report_moved s r
    | entry p pa => exact touch_moved s p (sectorOf pa) none false false true) s l

theorem noteWalk_moved (s : State) (i : HartId) (m : Mapped) : MemoryMoved s (noteWalk s (some i) m) := by
  cases hw : m.walk with
  | none =>
    have stays : noteWalk s (some i) m = s := by unfold noteWalk; rw [hw]
    rw [stays]
    exact .refl s
  | some w =>
    rw [noteWalk_walked hw]
    split
    · exact .refl s
    · exact (noteAll_moved s _).trans ⟨rfl, rfl, id⟩

theorem watchOne_moved (n : Nat) (s : State) (m : Mapped) : MemoryMoved s (watchOne n s m) :=
  (noteWalk_moved s s.hart.id m).trans (.foldl (fun s k => touch_moved s s.hart.partid k m.abench m.uc false true) _ _)

/-- Watching leaves the hart, the policy and TIME as they are. -/
theorem watchFirst_moved {s : State} (empty : s.hart.stores = []) (n : Nat) (as : List Word) : MemoryMoved s (watchFirst n as s) := by
  rw [watchFirst_eq empty]
  exact .foldl (watchOne_moved n) s _

theorem watchOne_sameButRows {s : State} (clean : NoUpset s) (n : Nat) {m : Mapped} (hm : m.WalkReached s) (up : LinkUp s m.pa n) : SameButRows (watchOne n s m) s := by
  have walk := noteWalk_sameButRows clean hm (some s.hart.id)
  refine sameButRows_trans (RowsMoved.sameButRows (.foldl fun t ht k hk => ?_)) walk
  exact touch_rows (ht.noUpset (sameButRows_noUpset walk clean)) _ ((ht.linkDown k).trans ((sameButRows_linkDown walk k).trans (up.2 k hk))) _ _ _ _

/-- The TLBs after a watched location has been read. -/
theorem watchOne_tlbs {s : State} (clean : NoUpset s) (n : Nat) {m : Mapped} (hm : m.WalkReached s) (up : LinkUp s m.pa n) (i : HartId) :
    (watchOne n s m).tlbs i = (noteWalk s (some s.hart.id) m).tlbs i := by
  have walk := noteWalk_sameButRows clean hm (some s.hart.id)
  have rows : RowsMoved (noteWalk s (some s.hart.id) m) (watchOne n s m) := .foldl fun t ht k hk =>
    touch_rows (ht.noUpset (sameButRows_noUpset walk clean)) _ ((ht.linkDown k).trans ((sameButRows_linkDown walk k).trans (up.2 k hk))) _ _ _ _
  have cores : (watchOne n s m).cores = (noteWalk s (some s.hart.id) m).cores := (congrArg State.cores rows).trans rfl
  have benches : (watchOne n s m).benches = (noteWalk s (some s.hart.id) m).benches := (congrArg State.benches rows).trans rfl
  rw [State.tlbs, State.tlbs, core_congr cores, bench_congr benches]

theorem watchFirst_sameButRows {s : State} (clean : NoUpset s) (empty : s.hart.stores = []) (n : Nat) {as : List Word}
    (up : ∀ a ∈ as, ∀ m, checkAccess s .load false n a = .ok m → LinkUp s m.pa n) : SameButRows (watchFirst n as s) s := by
  have each : ∀ m ∈ watched n as s, m.WalkReached s ∧ LinkUp s m.pa n := by
    intro m hm
    obtain ⟨a, ha, found⟩ := List.mem_filterMap.1 hm
    split at found
    · next q e => cases found; exact ⟨checkAccess_reached e, up a ha m e⟩
    · cases found
  rw [watchFirst_eq empty]
  suffices h : ∀ (l : List Mapped) (t : State), (∀ m ∈ l, m.WalkReached s ∧ LinkUp s m.pa n) → SameButRows t s → SameButRows (l.foldl (watchOne n) t) s from
    h _ s each (sameButRows_refl s)
  intro l
  induction l with
  | nil => exact fun t _ h => h
  | cons m l ih =>
    intro t hl ht
    obtain ⟨reached, links⟩ := hl m List.mem_cons_self
    have linksT : LinkUp t m.pa n := ⟨(sameButRows_linkDown ht _).trans links.1, fun k hk => (sameButRows_linkDown ht k).trans (links.2 k hk)⟩
    refine ih _ (fun q hq => hl q (List.mem_cons_of_mem _ hq)) (sameButRows_trans (watchOne_sameButRows (sameButRows_noUpset ht clean) n ?_ linksT) ht)
    exact reached.of_links fun pa => sameButRows_linkDown ht pa

theorem watchValue_same {t u : State} (h : SameTables t u) (space : t.hart.space = u.hart.space) (id : t.hart.id = u.hart.id)
    (tlbs : t.tlbs u.hart.id = u.tlbs u.hart.id) (n : Nat) (a : Word) : watchValue t n a = watchValue u n a := by
  unfold watchValue
  simp only [checkAccess_same h space id tlbs, homeRead_same h]

/-- A watched location that can be reached holds what memory holds (R213, R215). -/
theorem watchValue_again {s : State} (clean : NoUpset s) {n : Nat} {a : Word} {m : Mapped} (granted : checkAccess s .load false n a = .ok m) (up : LinkUp s m.pa n)
    (w : Sleep) : watchValue ((watchOne n s m).withHart { s.hart with run := .asleep w }) n a = some (memRead s.mem m.pa n) := by
  have rows := watchOne_sameButRows clean n (checkAccess_reached granted) up
  have same := (SameTables.of_rows rows).withHart { s.hart with run := .asleep w }
  obtain ⟨w', hw'⟩ := checkAccess_again (u := (watchOne n s m).withHart { s.hart with run := .asleep w }) clean granted same rfl rfl
    (watchOne_tlbs clean n (checkAccess_reached granted) up s.hart.id)
  unfold watchValue
  rw [hw']
  dsimp only
  rw [homeRead_same same, homeRead, up.1, if_neg (by decide)]

theorem dropL1_sameButRows (s : State) : SameButRows (dropL1 s) s := by
  unfold dropL1
  dsimp only
  split
  · exact sameButRows_refl s
  · exact setCore_sameButRows s _ [] _

theorem exec_fjoin (s : State) (d a : Reg) : exec (.fjoin d a) s = .next (match watchFault s 8 (s.getX a) with
    | some t => trapHere t s
    | none => settleWait ((watchFirst 8 [s.getX a] s).withHart
        { (watchFirst 8 [s.getX a] s).hart with run := .asleep (.fjoin d ((watchFirst 8 [s.getX a] s).getX a)) })) := by
  refine (sysStep_high (Nat.zero_le _) rfl _).trans ?_
  rfl

/-- FJOIN on an address that passes its checks (R215). -/
theorem fjoin_granted {s : State} (hs : Steady s) (clean : NoUpset s) (empty : s.hart.stores = []) {d a : Reg} {m : Mapped} (aligned : (s.getX a).toNat % 8 = 0)
    (near : (s.getX a).getLsbD 63 = false) (granted : checkAccess s .load false 8 (s.getX a) = .ok m) (up : LinkUp s m.pa 8) :
    ∃ t, exec (.fjoin d a) s = .next t
        ∧ (memRead s.mem m.pa 8 ≠ 0 → SameButRows t (wrote 4 d (BitVec.ofNat 64 (memRead s.mem m.pa 8)) (s.withHart { s.hart with run := .ready }))
            ∧ (t.core (coreOf s.hart.id)).l1 = [])
        ∧ (memRead s.mem m.pa 8 = 0 → SameButRows t (s.withHart { s.hart with run := .asleep (.fjoin d (s.getX a)) })) := by
  have rows := watchOne_sameButRows clean 8 (checkAccess_reached granted) up
  have first : watchFirst 8 [s.getX a] s = watchOne 8 s m := by
    rw [watchFirst_eq empty, watched, List.filterMap_cons, granted]
    rfl
  have value := watchValue_again clean granted up (.fjoin d (s.getX a))
  have sleeps : exec (.fjoin d a) s = .next (settleWait ((watchOne 8 s m).withHart { s.hart with run := .asleep (.fjoin d (s.getX a)) })) := by
    rw [exec_fjoin, watchFault_none aligned near granted, first]
    dsimp only
    rw [State.getX, sameButRows_hart rows]
    rfl
  generalize memRead s.mem m.pa 8 = v at value
  have asleep := sameButRows_withHart rows { s.hart with run := .asleep (.fjoin d (s.getX a)) }
  have awake := sameButRows_withHart rows { s.hart with run := .ready }
  refine ⟨_, sleeps, fun nonzero => ?_, fun zero => ?_⟩
  · have settled : settleWait ((watchOne 8 s m).withHart { s.hart with run := .asleep (.fjoin d (s.getX a)) })
        = writeInt 4 d (BitVec.ofNat 64 v) (dropL1 ((watchOne 8 s m).withHart { s.hart with run := .ready })) := by
      unfold settleWait
      dsimp only [State.withHart_hart]
      rw [value]
      dsimp only
      rw [if_neg nonzero]
      rfl
    have same := sameButRows_trans (dropL1_sameButRows ((watchOne 8 s m).withHart { s.hart with run := .ready })) awake
    rw [settled]
    refine ⟨writeInt_sameButRows same hs 4 d _, ?_⟩
    rw [writeInt_steady (steady_of_sameButRows same hs), wrote_l1]
    exact dropL1_l1 ((watchOne 8 s m).withHart { s.hart with run := .ready })
  · have settled : settleWait ((watchOne 8 s m).withHart { s.hart with run := .asleep (.fjoin d (s.getX a)) })
        = (watchOne 8 s m).withHart { s.hart with run := .asleep (.fjoin d (s.getX a)) } := by
      unfold settleWait
      dsimp only [State.withHart_hart]
      rw [value]
      dsimp only
      rw [if_pos zero]
    rw [settled]
    exact asleep

theorem suspendIfTaken_quiet {s : State} (quiet : (s.partn s.hart.part).suspTaken = false) : suspendIfTaken s = s := by
  rw [suspendIfTaken, quiet, Bool.and_false, if_neg (by decide)]

/-- A register written leaves the hart's partition. -/
theorem wrote_part (len : Nat) (d : Reg) (v : Word) (s : State) : (wrote len d v s).partn (wrote len d v s).hart.part = s.partn s.hart.part := by
  have part : (wrote len d v s).hart.part = s.hart.part := Hart.setX_part ..
  rw [part]; rfl

theorem joinsAndEvents : Claim.JoinsAndEvents := by
  intro s d a hs empty
  refine ⟨fun m clean aligned near granted up => fjoin_granted hs clean empty aligned near granted up, fun off => ?_, fun aligned far => ?_, fun quiet => ?_⟩
  · rw [exec_fjoin, watchFault, if_pos off]
    exact congrArg _ (trapHere_plain (by decide) _ s)
  · rw [exec_fjoin, watchFault, if_neg (by simpa using aligned), isRemote, far, if_pos rfl]
    exact congrArg _ (trapHere_plain (by decide) _ s)
  · have run : exec (.wfe d a) s = .next (suspendIfTaken (settleWait (s.withHart { s.hart with run := .asleep (.wfe d s.time (s.getX a)) }))) :=
      sysStep_high (Nat.zero_le _) rfl _
    have settled : settleWait (s.withHart { s.hart with run := .asleep (.wfe d s.time (s.getX a)) })
        = if hasPending s then wrote 4 d 1 (s.withHart { s.hart with run := .ready }) else s.withHart { s.hart with run := .asleep (.wfe d s.time (s.getX a)) } := by
      rw [← writeInt_steady (s := s.withHart { s.hart with run := .ready }) hs]
      rfl
    have pending : hasPending s = true ↔ s.hart.bureau = true ∧ (s.partn s.hart.part).pending ≠ [] := by
      rw [hasPending, Bool.and_eq_true, Bool.not_eq_true', List.isEmpty_eq_false_iff]
    rw [run, settled]
    simp only [pending]
    split
    · exact congrArg _ (suspendIfTaken_quiet (s := wrote 4 d 1 (s.withHart { s.hart with run := .ready })) (by rw [wrote_part]; exact quiet))
    · exact congrArg _ (suspendIfTaken_quiet (s := s.withHart { s.hart with run := .asleep (.wfe d s.time (s.getX a)) }) quiet)

/-! ### VWAIT -/

/-- The elements that VWAIT waits for, and their addresses (R212). -/
def waitAddrs (s : State) (m : MaskField) (b : Reg) : List (Nat × Word) :=
  ((List.range s.hart.vlv).filter (fun e => s.hart.selects m false e)).map (fun e =>
    (e, BitVec.ofNat 64 (elemAt s.hart s.hart.capBits b.toNat (indexRegs s.hart b.toNat) 64 e)))

/-- VWAIT on plain registers whose addresses all pass their checks sleeps after a first look, which may end it (R213). -/
theorem exec_vwait {s : State} (plain : PlainVec s) {d a b : Reg} {m : MaskField} {w : Bool} {c : BitVec 2} (wf : wellFormed (.vwait d a b m w c) = true)
    (fits : indexFits s.hart b.toNat = true) (tag : (s.hart.vreg b.toNat).fmt = 3)
    (good : ∀ p ∈ waitAddrs s m b, watchFault s (if w then 4 else 8) p.2 = none) :
    exec (.vwait d a b m w c) s = .next (settleWait ((watchFirst (if w then 4 else 8) ((waitAddrs s m b).map Prod.snd) s).withHart
      { s.hart with run := .asleep (.vwait d (s.getX a) (waitAddrs s m b) m w c s.time (s.getX d) [] b) })) := by
  obtain ⟨-, legal, still, unbound, empty, -⟩ := plain
  have moved := watchFirst_moved empty (if w then 4 else 8) ((waitAddrs s m b).map Prod.snd)
  have time : (watchFirst (if w then 4 else 8) ((waitAddrs s m b).map Prod.snd) s).time = s.time := (congrArg State.time moved.1).trans rfl
  have hu : Unbound s.hart := unbound
  have src : (s.hart.srcTag b.toNat == 3) = true := by rw [hu.srcTag, tag]; rfl
  have check : vecCheck (.vwait d a b m w c) s.hart { grant := indexFits s.hart b.toNat, format := s.hart.srcTag b.toNat == 3, rounds := false } false 3
      [indexOpnd s.hart b.toNat] = none := hu.vecCheck legal _ fits src (by simp) _ _ _
  have fault : (waitAddrs s m b).findSome? (fun p => match chunksFault s [] p.1 with
      | some t => some { t with vri := some p.1 }
      | none => (watchFault s (if w then 4 else 8) p.2).map (fun t => { t with vri := some p.1 })) = none := by
    rw [List.findSome?_eq_none_iff]
    intro p hp
    show (watchFault s (if w then 4 else 8) p.2).map _ = none
    rw [good p hp]; rfl
  refine congrArg Host.Outcome.next ((checked_wellFormed wf s _).trans ((held_still still _).trans ?_))
  dsimp only
  rw [check]
  dsimp only
  rw [hu.readySources]
  dsimp only
  have addrs : (idxs s.hart.vlv (fun e => s.hart.selects m false e)).map
      (fun e => (e, BitVec.ofNat 64 (indexBits s.hart 3 (indexRegs s.hart b.toNat) b.toNat e))) = waitAddrs s m b := rfl
  rw [addrs]
  split
  · next t e => exact absurd (e.symm.trans fault) (by simp)
  · rw [State.getX, State.getX, moved.hart, time]
    rfl

/-- What a VWAIT's first look finds (R213): the elements that are met. -/
def waitMet (u : State) (w : Bool) (c : BitVec 2) (cmp : Word) (p : Nat × Word) : Bool :=
  match watchValue u (if w then 4 else 8) p.2 with | some v => waitCond c w v cmp | none => false

theorem satisfied_first {u t : State} (same : ∀ n a, watchValue t n a = watchValue u n a) (cmp : Word) (addrs : List (Nat × Word)) (w : Bool) (c : BitVec 2) :
    satisfied t cmp addrs w c [] = (addrs.filter (waitMet u w c cmp)).map Prod.fst := by
  unfold satisfied
  refine congrArg _ (List.filter_congr fun p _ => ?_)
  rw [same]
  rfl

/-- The image of a mask without the bits of some elements (R213). -/
theorem clearSatisfied_eq (m : MaskField) (sat : List Nat) (h : Hart) :
    clearSatisfied m sat h = h.setMask m.toNat (sat.foldl (fun k e => if k.testBit e then k - 2 ^ e else k) (h.mask m.toNat)) := by
  unfold clearSatisfied
  split
  · next zero => subst zero; rfl
  · simp only [and_xor_two_pow]

theorem dropL1_withHart (u : State) {h : Hart} (id : h.id = u.hart.id) : dropL1 (u.withHart h) = (dropL1 u).withHart h := by
  unfold dropL1
  dsimp only [State.withHart_hart]
  rw [id]
  show (if (u.core (coreOf u.hart.id)).l1.isEmpty then _ else _) = _
  split <;> rfl

theorem setMask_run (h : Hart) (r : RunState) (n v : Nat) : ({ h with run := r } : Hart).setMask n v = { h.setMask n v with run := r } := by
  unfold Hart.setMask
  split <;> rfl

theorem setX_vri (h : Hart) (d : Reg) (v w : Word) : ({ h.setX d v with vri := w } : Hart) = ({ h with vri := w } : Hart).setX d v := by
  unfold Hart.setX
  split <;> rfl

theorem setMask_steady {s : State} (hs : Steady s) (n v : Nat) : Steady (s.withHart (s.hart.setMask n v)) := by
  unfold Hart.setMask
  split
  · exact hs
  · exact hs

/-- The unmet count of a VWAIT that ends with every element met. -/
theorem unmet_none {addrs : List (Nat × Word)} {sat : List Nat} (all : addrs.all (fun a => sat.contains a.1) = true) :
    (addrs.filter (fun a => !sat.contains a.1)).length = 0 := by
  rw [List.length_eq_zero_iff, List.filter_eq_nil_iff]
  intro p hp
  rw [List.all_eq_true.1 all p hp]
  exact Bool.false_ne_true

/-- A vector instruction that writes a scalar register completes. -/
theorem finishVec_setX {q : State} {h : Hart} (hs : Steady (q.withHart h)) (d : Reg) (v : Word) :
    finishVec 0 (q.withHart (h.setX d v)) = wrote 4 d v (q.withHart { h with vri := 0 }) := by
  rw [← writeInt_steady (s := q.withHart { h with vri := 0 }) hs, finishVec]
  dsimp only [State.withHart_hart]
  rw [setX_vri]
  rfl

/-- The view that a VWAIT acquires where some element was met (R213). -/
theorem acquired_hart (u : State) (sat : List Nat) : (if sat = [] then u else dropL1 u).hart = u.hart := by
  obtain ⟨c, hc⟩ := dropL1_eq u
  split
  · rfl
  · rw [hc]

/-- A VWAIT on plain registers that ends with every element met (R213). -/
theorem endVwait_met {u : State} (hs : Steady u) (hu : Unbound u.hart) {addrs : List (Nat × Word)} {sat : List Nat}
    (all : addrs.all (fun a => sat.contains a.1) = true) (d : Reg) (m : MaskField) (b : Reg) (w : RunState) :
    endVwait d addrs m sat b (u.withHart { u.hart with run := w }) =
      (let q := if sat = [] then u else dropL1 u
       let h := q.hart.setMask m.toNat (sat.foldl (fun k e => if k.testBit e then k - 2 ^ e else k) (u.hart.mask m.toNat))
       wrote 4 d 0 (q.withHart { h with run := .ready, vri := 0 })) := by
  have view : (if sat.isEmpty then u.withHart { u.hart with run := w } else dropL1 (u.withHart { u.hart with run := w }))
      = (if sat = [] then u else dropL1 u).withHart { u.hart with run := w } := by
    simp only [List.isEmpty_iff, dropL1_withHart u (h := { u.hart with run := w }) rfl]
    exact (apply_ite (fun x : State => x.withHart { u.hart with run := w }) (sat = []) u (dropL1 u)).symm
  have hart := acquired_hart u sat
  unfold endVwait
  rw [view]
  generalize (if sat = [] then u else dropL1 u) = q at hart ⊢
  dsimp only [State.withHart_hart]
  have unbound : Unbound ({ u.hart with run := w } : Hart) := hu
  rw [unbound.consumed, unmet_none all, clearSatisfied_eq, setMask_run, hart]
  have masked (k : Nat) : Steady (q.withHart { u.hart.setMask m.toNat k with run := .ready }) := setMask_steady hs m.toNat k
  exact (finishVec_setX (masked (sat.foldl (fun k e => if k.testBit e then k - 2 ^ e else k) (u.hart.mask m.toNat))) d 0)

/-- A VWAIT that has just begun, on addresses it has looked at (R213). -/
theorem settleWait_vwait (u : State) (d : Reg) (cmp : Word) (addrs : List (Nat × Word)) (m : MaskField) (w : Bool) (c : BitVec 2)
    (start timeout : Word) (b : Reg) :
    let sat := (addrs.filter (waitMet u w c cmp)).map Prod.fst
    settleWait (u.withHart { u.hart with run := .asleep (.vwait d cmp addrs m w c start timeout [] b) }) =
      if addrs.all (fun a => sat.contains a.1) then endVwait d addrs m sat b (u.withHart { u.hart with run := .asleep (.vwait d cmp addrs m w c start timeout [] b) })
      else u.withHart { u.hart with run := .asleep (.vwait d cmp addrs m w c start timeout sat b) } := by
  intro sat
  have same : ∀ n a, watchValue (u.withHart { u.hart with run := .asleep (.vwait d cmp addrs m w c start timeout [] b) }) n a = watchValue u n a :=
    watchValue_same ((SameTables.refl u).withHart _) rfl rfl rfl
  unfold settleWait
  dsimp only [State.withHart_hart]
  rw [satisfied_first same]
  rfl

/-- The elements of a VWAIT that are met, among those it waits for. -/
theorem vwait_all {es : List Nat} {f : Nat → Nat × Word} (hf : ∀ e, (f e).1 = e) (met : Nat × Word → Bool) :
    ((es.map f).all (fun a => (((es.map f).filter met).map Prod.fst).contains a.1)) = es.all (fun e => met (f e)) := by
  have sat : ((es.map f).filter met).map Prod.fst = es.filter (fun e => met (f e)) := by
    rw [List.filter_map, List.map_map]
    exact (List.map_congr_left fun e _ => hf e).trans (List.map_id _)
  rw [sat, List.all_map, Bool.eq_iff_iff, List.all_eq_true, List.all_eq_true]
  refine forall₂_congr fun e he => ?_
  simp [hf, he]

theorem vectorWaits : Claim.VectorWaits := by
  intro s d a b m w c plain wf fits tag n addr es good u met sat ends
  obtain ⟨hs, -, -, unbound, empty, -⟩ := id plain
  have hart : u.hart = s.hart := (watchFirst_moved empty n (es.map addr)).hart
  have steady : Steady u := by unfold Steady; rw [hart]; exact hs
  have free : Unbound u.hart := by rw [hart]; exact unbound
  refine ⟨?_, fun clean up => watchFirst_sameButRows clean empty n fun x hx q hq => ?_⟩
  · have addrs : waitAddrs s m b = es.map (fun e => (e, addr e)) := rfl
    have snd : (waitAddrs s m b).map Prod.snd = es.map addr := by rw [addrs, List.map_map]; rfl
    have every := vwait_all (es := es) (f := fun e => (e, addr e)) (fun _ => rfl) (waitMet u w c (s.getX a))
    have sats : ((es.map (fun e => (e, addr e))).filter (waitMet u w c (s.getX a))).map Prod.fst = sat := by
      rw [List.filter_map, List.map_map]
      exact List.map_id _
    have looked := settleWait_vwait u d (s.getX a) (waitAddrs s m b) m w c s.time (s.getX d) b
    rw [exec_vwait plain wf fits tag (fun p hp => by obtain ⟨e, he, rfl⟩ := List.mem_map.1 hp; exact good e he), snd, ← hart]
    refine congrArg _ (looked.trans ?_)
    rw [addrs, every, sats]
    by_cases all : es.all met = true
    · rw [if_pos all]
      refine (if_pos all).trans ?_
      have full : (es.map (fun e => (e, addr e))).all (fun p => sat.contains p.1) = true := by rw [← sats, every]; exact all
      rw [endVwait_met steady free full, hart]
    · rw [if_neg all]
      exact if_neg all
  · obtain ⟨e, he, rfl⟩ := List.mem_map.1 hx
    exact up e he q hq

/-- Settles O32: what is watched is read at its home, where the access that finds it leaves the tables as they were. -/
theorem joinsAndWaits : Obligations.JoinsAndWaits := ⟨joinsAndEvents, vectorWaits⟩

end Sys2Proof.Machine

namespace Sys2Proof.Machine
/-! # The vector length and the class granted (R31, R117 to R122) -/

open Sys2Proof.Claim

/-! ## VSETL and VSETLI (R31, R117 to R122) -/

/-- The class granted is the largest at or below the request that fits, or the smallest (R120). -/
theorem negotiate_spec (others r : Nat) : negotiate others r ≤ r ∧ (negotiate others r = 0 ∨ others + 80 * 2 ^ negotiate others r ≤ 1792)
    ∧ ∀ c, negotiate others r < c → c ≤ r → 1792 < others + 80 * 2 ^ c := by
  induction r with
  | zero => exact ⟨Nat.le_refl _, .inl rfl, fun c lo hi => absurd lo (by rw [negotiate]; omega)⟩
  | succ r ih =>
    obtain ⟨le, fits, above⟩ := ih
    have need : demandKiB (r + 1) = 80 * 2 ^ (r + 1) := by rw [demandKiB]; ring
    rw [negotiate, need]
    split
    · next room => exact ⟨Nat.le_refl _, .inr room, fun c lo hi => absurd hi (by omega)⟩
    · next full =>
      refine ⟨by omega, fits, fun c lo hi => ?_⟩
      rcases Nat.lt_or_ge c (r + 1) with small | big
      · exact above c lo (by omega)
      · obtain rfl : c = r + 1 := by omega
        exact Nat.lt_of_not_le full

/-- The block length of a legal type (R31). -/
theorem blkLen_legal {req : Word} (h : vtypeLegal req = true) :
    blkLen req = if (req.extractLsb' 0 5).toNat = 0x16 then 64 else if isBlock (req.extractLsb' 0 5).toNat then 32 else 1 := by
  simp only [vtypeLegal, Bool.and_eq_true] at h
  obtain ⟨⟨⟨⟨-, blk⟩, -⟩, -⟩, -⟩ := h
  unfold blkLen
  split_ifs at blk ⊢ <;> rw [beq_iff_eq] at blk <;> rw [blk] <;> rfl

theorem lengths_spec (b vmax avl : Nat) : let p := lengths b vmax avl
    (avl = 0 → p.1 = 0 ∧ p.2 = 0) ∧ (avl ≠ 0 → avl < b → p.1 = b ∧ p.2 = avl) ∧ (avl ≠ 0 → b ≤ avl → p.2 = p.1 ∧ p.1 = min (avl / b * b) vmax) := by
  intro p
  refine ⟨fun zero => ?_, fun some short => ?_, fun some long => ?_⟩
  · have e : p = (0, 0) := if_pos zero
    rw [e]; exact ⟨rfl, rfl⟩
  · have e : p = (b, avl) := (if_neg some).trans (if_neg (by omega))
    rw [e]; exact ⟨rfl, rfl⟩
  · have e : p = (min (avl / b * b) vmax, min (avl / b * b) vmax) := (if_neg some).trans (if_pos long)
    rw [e]; exact ⟨rfl, rfl⟩

/-- VSETL and VSETLI as one operation on the request. -/
theorem exec_setLength {s : State} {i : Instr} {len : Nat} {d a : Reg} {req : Word}
    (h : (∃ k, i = .vsetl d a k ∧ len = 4 ∧ req = (if k then s.hart.vtype.setWidth 64 else s.getX d))
      ∨ (∃ r : BitVec 20, i = .vsetli d a r ∧ len = 8 ∧ req = r.setWidth 64)) : exec i s = .next (setLength len d req (s.getX a) s) := by
  rcases h with ⟨k, rfl, rfl, rfl⟩ | ⟨r, rfl, rfl, rfl⟩
  · rfl
  · rfl

/-- The hart with a legal type, its lengths and its class. -/
def typedHart (req : Word) (cls vl v : Nat) (h : Hart) : Hart :=
  { h with vtype := req.extractLsb' 0 20, status := h.status &&& ~~~8#64, granted := true, rscg := BitVec.ofNat 3 cls, vlg := vl, vlv := v }

theorem status_below_prv (w : Word) : (w &&& ~~~8#64).extractLsb' 0 2 = w.extractLsb' 0 2 := by
  rw [BitVec.extractLsb'_and]; exact BitVec.and_allOnes

theorem typedHart_steady {s : State} (hs : Steady s) (req : Word) (cls vl v : Nat) : Steady (s.withHart (typedHart req cls vl v s.hart)) :=
  steady_status hs rfl (congrArg BitVec.toNat (status_below_prv s.hart.status)) (fun _ => (BitVec.getLsbD_and).trans (Bool.and_true _))

/-- What a legal type with its class and lengths does (R118, R122). -/
def setTyped (len : Nat) (d : Reg) (req : Word) (cls vl v : Nat) (s : State) : State :=
  let change := cls != s.hart.classCode
  let s1 := s.withHart { typedHart req cls vl v s.hart with moving := s.hart.moving || change }
  finish len ((if change && !s.policy.deferMoves then moveDrawers s1 else s1).setX d (BitVec.ofNat 64 v))

theorem setLength_legal {s : State} (still : s.hart.moving = false) {req : Word} (legal : vtypeLegal req = true) (len : Nat) (d : Reg) (avl : Word) :
    setLength len d req avl s = (let cls := negotiate (othersDemand s) (req.extractLsb' 10 3).toNat
      let p := lengths (blkLen req) (vlmax req cls) avl.toNat
      setTyped len d req cls p.1 p.2 s) := by
  rw [setLength]
  dsimp only
  rw [if_neg (by rw [legal]; decide), if_neg (by rw [still, Bool.and_false]; decide)]
  rfl

theorem setTyped_same {s : State} (hs : Steady s) (still : s.hart.moving = false) {cls : Nat} (same : cls = s.hart.classCode) (len : Nat) (d : Reg) (req : Word) (vl v : Nat) :
    setTyped len d req cls vl v s = wrote len d (BitVec.ofNat 64 v) (s.withHart (typedHart req cls vl v s.hart)) := by
  have none : (cls != s.hart.classCode) = false := by rw [same]; exact bne_self_eq_false _
  rw [← writeInt_steady (typedHart_steady hs req cls vl v), setTyped]
  dsimp only
  rw [none, still]
  have e : ({ typedHart req cls vl v s.hart with moving := false || false } : Hart) = typedHart req cls vl v s.hart := by
    rw [show (false || false) = s.hart.moving from still.symm]; rfl
  rw [e]
  rfl

theorem setTyped_deferred {s : State} (hs : Steady s) {cls : Nat} (new : cls ≠ s.hart.classCode) (defer : s.policy.deferMoves = true)
    (len : Nat) (d : Reg) (req : Word) (vl v : Nat) :
    setTyped len d req cls vl v s = wrote len d (BitVec.ofNat 64 v) (s.withHart { typedHart req cls vl v s.hart with moving := true }) := by
  have change : (cls != s.hart.classCode) = true := bne_iff_ne.2 new
  have steady : Steady (s.withHart { typedHart req cls vl v s.hart with moving := true }) := typedHart_steady hs req cls vl v
  rw [← writeInt_steady steady, setTyped]
  dsimp only
  rw [change, defer, Bool.or_true]
  rfl

/-- A hart whose drawers have moved holds no vector or mask data (R122). -/
def emptiedHart (h : Hart) : Hart :=
  { h with v := h.v.map (fun r => { r with vlen := 0, dirty := false, prog := 0, poison := 0 }), m := Vector.replicate 7 0 }

theorem moveDrawers_eq {s : State} (empty : s.hart.stores = []) : ∃ c, moveDrawers s = { forgetAhead (s.withHart { emptiedHart s.hart with moving := false }) with cores := c } := by
  rw [moveDrawers, drainStores_empty empty]
  dsimp only
  split
  · exact ⟨s.cores, rfl⟩
  · exact ⟨_, rfl⟩

theorem setTyped_moved {s : State} (hs : Steady s) (still : s.hart.moving = false) (empty : s.hart.stores = []) {cls : Nat} (new : cls ≠ s.hart.classCode)
    (now : s.policy.deferMoves = false) (len : Nat) (d : Reg) (req : Word) (vl v : Nat) :
    ∃ c, setTyped len d req cls vl v s
      = { wrote len d (BitVec.ofNat 64 v) (forgetAhead (s.withHart (emptiedHart (typedHart req cls vl v s.hart)))) with cores := c } := by
  have change : (cls != s.hart.classCode) = true := bne_iff_ne.2 new
  obtain ⟨c, hc⟩ := moveDrawers_eq (s := s.withHart { typedHart req cls vl v s.hart with moving := s.hart.moving || true }) empty
  refine ⟨c, ?_⟩
  have e : ({ emptiedHart { typedHart req cls vl v s.hart with moving := s.hart.moving || true } with moving := false } : Hart)
      = emptiedHart (typedHart req cls vl v s.hart) := by
    rw [← still]; rfl
  rw [State.withHart_hart, e] at hc
  have steady : Steady ({ forgetAhead (s.withHart (emptiedHart (typedHart req cls vl v s.hart))) with cores := c } : State) := typedHart_steady hs req cls vl v
  rw [setTyped]
  dsimp only
  rw [change, now, if_pos (by decide), hc]
  exact writeInt_steady steady len d (BitVec.ofNat 64 v)

/-- Settles O33: the class granted and the lengths have their own lemmas; what remains is whether the class changes and when the drawers move. -/
theorem vectorLength : Obligations.VectorLength := by
  intro s i len d a req hs still hi avl f b
  rw [exec_setLength hi]
  refine ⟨fun illegal => ?_, fun legal => ?_⟩
  · have steady : Steady (s.withHart { s.hart with vtype := req.extractLsb' 0 20, status := s.hart.status ||| 8, vlg := 0, vlv := 0 }) := by
      refine steady_status hs rfl (congrArg BitVec.toNat (?_ : (s.hart.status ||| 8#64).extractLsb' 0 2 = _)) (fun _ => (BitVec.getLsbD_or).trans (Bool.or_false _))
      rw [BitVec.extractLsb'_or]; exact BitVec.or_zero
    rw [setLength]
    dsimp only
    rw [if_pos (by rw [illegal]; decide)]
    exact congrArg _ (writeInt_steady steady len d 0)
  · obtain ⟨le, fits, above⟩ := negotiate_spec (othersDemand s) (req.extractLsb' 10 3).toNat
    have spec := lengths_spec b (vlmax req (negotiate (othersDemand s) (req.extractLsb' 10 3).toNat)) avl
    rw [setLength_legal still legal, blkLen_legal legal]
    refine ⟨negotiate (othersDemand s) (req.extractLsb' 10 3).toNat, _, _, le, fits, above, spec, fun same => ?_, fun new defer => ?_, fun new now empty => ?_⟩
    · exact congrArg _ (setTyped_same hs still same len d req _ _)
    · exact congrArg _ (setTyped_deferred hs new defer len d req _ _)
    · obtain ⟨c, hc⟩ := setTyped_moved hs still empty new now len d req _ _
      exact ⟨_, congrArg _ hc, rfl⟩

end Sys2Proof.Machine

namespace Sys2Proof.Machine
/-! # Clock ceilings, the governor, the power limit and leases (R405 to R410) -/

open Sys2Proof.Claim

/-- Putting back the clock a die has changes nothing. -/
theorem setClock_clock (p : Power) (die : Bool) : p.setClock die (p.clock die) = p := by
  cases die <;> simp [Power.setClock, Power.clock]

theorem clock_setClock_other (p : Power) (k : DieClock) : (p.setClock false k).clock true = p.clock true := by
  simp [Power.setClock, Power.clock]

/-- A hint that more of a die's harts hold than any other is the majority (R406). -/
theorem majorityHint_most {s : State} {die : Bool} {hint : BitVec 2} (most : ∀ j, j ≠ hint → hintCount s die j < hintCount s die hint) :
    majorityHint s die = hint := by
  have wins (k : BitVec 2) : ([0, 1, 2, 3] : List (BitVec 2)).all (fun j => j == k || decide (hintCount s die j < hintCount s die k)) = true ↔ k = hint := by
    rw [List.all_eq_true]
    refine ⟨fun all => ?_, fun e j _ => ?_⟩
    · by_contra ne
      have mem : hint ∈ ([0, 1, 2, 3] : List (BitVec 2)) := (by decide : ∀ h : BitVec 2, h ∈ ([0, 1, 2, 3] : List (BitVec 2))) hint
      have beaten := all hint mem
      rw [Bool.or_eq_true, beq_iff_eq, decide_eq_true_eq] at beaten
      have := most k ne
      rcases beaten with e | lt
      · exact ne e.symm
      · omega
    · subst e
      by_cases same : j = k
      · simp [same]
      · simp [most j same]
  unfold majorityHint
  dsimp only
  split
  · next k found => exact (wins k).1 (List.find?_some (p := fun k => ([0, 1, 2, 3] : List (BitVec 2)).all (fun j => j == k || decide (hintCount s die j < hintCount s die k))) found)
  · next missing =>
    have mem : hint ∈ ([0, 1, 2, 3] : List (BitVec 2)) := (by decide : ∀ h : BitVec 2, h ∈ ([0, 1, 2, 3] : List (BitVec 2))) hint
    exact absurd ((wins hint).2 rfl) (List.find?_eq_none.1 missing hint mem)

/-- Where no hint leads, the majority counts as none (R406). -/
theorem majorityHint_tie {s : State} {die : Bool} (tie : ∀ h, ∃ j, j ≠ h ∧ hintCount s die h ≤ hintCount s die j) : majorityHint s die = 0 := by
  unfold majorityHint
  dsimp only
  split
  · next k found =>
    obtain ⟨j, ne, le⟩ := tie k
    have mem : j ∈ ([0, 1, 2, 3] : List (BitVec 2)) := (by decide : ∀ h : BitVec 2, h ∈ ([0, 1, 2, 3] : List (BitVec 2))) j
    have beaten := List.all_eq_true.1 (List.find?_some (p := fun k => ([0, 1, 2, 3] : List (BitVec 2)).all (fun j => j == k || decide (hintCount s die j < hintCount s die k))) found) j mem
    rw [Bool.or_eq_true, beq_iff_eq, decide_eq_true_eq] at beaten
    rcases beaten with e | lt
    · exact absurd e ne
    · omega
  · rfl

/-- The ceiling that a hint and a count of matrix cycles out of 24 × 4,096 give (R406). -/
theorem ceilingFor_eq (hint : BitVec 2) (cycles : Nat) : ceilingFor hint cycles = match hint.toNat with
    | 0 => if 24 * 4096 < 2 * cycles then (1900 : BitVec 12) else 2100
    | 1 => if 24 * 4096 ≤ 4 * cycles then 1900 else 2100
    | 2 => if 3 * (24 * 4096) < 4 * cycles then 1900 else 2100
    | _ => 1750 := by
  have none : (cycles > 49152) = (24 * 4096 < 2 * cycles) := propext (by omega)
  have compute : (cycles ≥ 24576) = (24 * 4096 ≤ 4 * cycles) := propext (by omega)
  have memory : (cycles > 73728) = (3 * (24 * 4096) < 4 * cycles) := propext (by omega)
  unfold ceilingFor
  simp only [none, compute, memory] <;> rfl

/-- The governor in an emergency that a sensor starts (R407). -/
theorem govern_hot (k : DieClock) (flux : List Nat) {junction : List Nat} (power : Bool) (hot : ∃ x ∈ junction, 105 < x) :
    k.govern flux junction power = { k with freq := 800, lim := 3, emergency := true } := by
  have burn : junction.any (fun x => decide (x > 105)) = true := List.any_eq_true.2 (hot.imp fun x hx => ⟨hx.1, decide_eq_true hx.2⟩)
  unfold DieClock.govern
  rw [if_pos burn]

/-- An emergency lasts while a sensor reads 95 °C or more (R407). -/
theorem govern_warm {k : DieClock} (flux : List Nat) {junction : List Nat} (power : Bool) (hot : ¬ ∃ x ∈ junction, 105 < x)
    (on : k.emergency = true) (warm : ∃ x ∈ junction, 95 ≤ x) : k.govern flux junction power = k := by
  have burn : junction.any (fun x => decide (x > 105)) ≠ true := fun c => hot ((List.any_eq_true.1 c).imp fun x hx => ⟨hx.1, of_decide_eq_true hx.2⟩)
  have cool : junction.all (fun x => decide (x < 95)) = false := by
    obtain ⟨x, hx, le⟩ := warm
    exact List.all_eq_false.2 ⟨x, hx, by simpa using le⟩
  unfold DieClock.govern
  rw [if_neg burn, cool, on]
  rfl

/-- Outside an emergency the governor steps down for heat flux, or up where it may (R407). -/
theorem govern_calm {k : DieClock} (flux : List Nat) {junction : List Nat} (power : Bool) (hot : ¬ ∃ x ∈ junction, 105 < x)
    (warm : ¬ (k.emergency = true ∧ ∃ x ∈ junction, 95 ≤ x)) :
    let calm : DieClock := { k with emergency := false }
    k.govern flux junction power = if flux.any (fun x => decide (x > 250)) then (if calm.canFall then { calm.down 2 with fstep := calm.fstep + 1 } else { calm with lim := 2 })
      else if flux.all (fun x => decide (x < 235)) && decide (calm.freq < calm.ceil) then
        (if power then { calm with lim := 1 } else if calm.freq.toNat + 25 ≥ calm.ceil.toNat then { calm with freq := calm.ceil, lim := 0 } else { calm with freq := calm.freq + 25 })
      else calm := by
  have burn : junction.any (fun x => decide (x > 105)) ≠ true := fun c => hot ((List.any_eq_true.1 c).imp fun x hx => ⟨hx.1, of_decide_eq_true hx.2⟩)
  have ended : ¬ (k.emergency && !junction.all (fun x => decide (x < 95))) = true := by
    intro c
    obtain ⟨on, cold⟩ := (Bool.and_eq_true _ _).mp c
    refine warm ⟨on, ?_⟩
    rw [Bool.not_eq_true', List.all_eq_false] at cold
    exact cold.imp fun x hx => ⟨hx.1, by simpa using hx.2⟩
  unfold DieClock.govern
  rw [if_neg burn, if_neg ended]

/-- A reading of a die's sensors that starts no emergency only sets its clock (R407). -/
theorem fluxReading_quiet {s : State} {die : Bool} {flux junction : List Nat} {k' : DieClock}
    (governed : (s.power.clock die).govern flux junction (s.power.mpwr.toNat ≥ s.power.budget.toNat) = k') (quiet : (k'.emergency && !(s.power.clock die).emergency) = false) :
    exec (.fluxReading die flux junction) s = .next { s with power := s.power.setClock die k' } := by
  show execFluxReading die flux junction s = _
  unfold execFluxReading
  dsimp only
  rw [governed, quiet]
  rfl

/-- A reading of 105 °C or more (R407, R421). -/
theorem fluxReading_hot (s : State) (die : Bool) (flux : List Nat) {junction : List Nat} (hot : ∃ x ∈ junction, 105 < x) :
    exec (.fluxReading die flux junction) s = .next (
      let u : State := { s with power := s.power.setClock die { s.power.clock die with freq := 800, lim := 3, emergency := true } }
      if (s.power.clock die).emergency then u else u.report { typ := 10, unit := 10, index := if die then 1 else 0, part := none, addr := 0 }) := by
  show execFluxReading die flux junction s = _
  unfold execFluxReading
  dsimp only
  rw [govern_hot _ flux _ hot]
  cases (s.power.clock die).emergency <;> rfl

/-- A measurement `w` within the budget only stands (R408). -/
theorem powerMeasure_within {s : State} {watts : Nat} {w : BitVec 16} (measured : BitVec.ofNat 16 (min watts 65535) = w) (low : watts ≤ s.power.budget.toNat) :
    execPowerMeasure watts s = .next { s with power := { s.power with mpwr := w } } := by
  subst measured
  exact congrArg (fun p : Power => Host.Outcome.next { s with power := p }) (if_neg (Nat.not_lt.2 low))

/-- A measurement `w` above the budget slows both clocks (R408). -/
theorem powerMeasure_above {s : State} {watts : Nat} {w : BitVec 16} (measured : BitVec.ofNat 16 (min watts 65535) = w) (high : s.power.budget.toNat < watts) :
    execPowerMeasure watts s = .next { s with power :=
      (({ s.power with mpwr := w } : Power).setClock false (s.power.clock false).throttle).setClock true (s.power.clock true).throttle } := by
  subst measured
  exact congrArg (fun p : Power => Host.Outcome.next { s with power := p }) (if_pos high)

/-- A lease that R409 refuses is counted, and changes nothing else. -/
theorem takeLease_refused {s : State} {budget : BitVec 16} {expiry : BitVec 32} {seq : Word}
    (bad : ¬ (s.power.hseq < seq ∧ 1400 ≤ budget.toNat ∧ budget.toNat ≤ 2600 ∧ expiry ≠ 0)) :
    takeLease budget expiry seq s = { s with power := { s.power with lrej := s.power.lrej + 1 } } := by
  unfold takeLease
  dsimp only
  rw [if_pos]
  by_contra good
  simp only [Bool.or_eq_true, decide_eq_true_eq, beq_iff_eq, not_or, BitVec.not_le, Nat.not_lt] at good
  obtain ⟨⟨⟨fresh, low⟩, high⟩, expires⟩ := good
  exact bad ⟨fresh, low, by simpa using high, expires⟩

/-- A lease that R409 accepts. -/
theorem takeLease_accepted {s : State} {budget : BitVec 16} {expiry : BitVec 32} {seq : Word} (fresh : s.power.hseq < seq)
    (low : 1400 ≤ budget.toNat) (high : budget.toNat ≤ 2600) (expires : expiry ≠ 0) :
    takeLease budget expiry seq s = setFloor false { s with power := { s.power with
      hseq := seq, budget := budget.setWidth 12, lexp := s.time + 1000000 * expiry.setWidth 64 } } := by
  have budgetBits : budget.extractLsb' 0 12 = budget.setWidth 12 := by
    apply BitVec.eq_of_toNat_eq
    simp
  have expiryNs : BitVec.ofNat 64 (expiry.toNat * 1000000) = 1000000 * expiry.setWidth 64 := by
    rw [BitVec.ofNat_mul, BitVec.mul_comm, BitVec.ofNat_toNat]
    rfl
  unfold takeLease
  dsimp only
  rw [if_neg, budgetBits, expiryNs]
  simp only [Bool.or_eq_true, decide_eq_true_eq, beq_iff_eq, not_or, BitVec.not_le, Nat.not_lt]
  exact ⟨⟨⟨fresh, low⟩, by simpa using high⟩, expires⟩

/-- Settles O57: the clock ceilings, the heat-flux governor, the power limit and the leases. -/
theorem powerSteps : Obligations.PowerSteps := by
  unfold Obligations.PowerSteps
  intro s die
  dsimp only
  refine ⟨fun hint cycles leads => ?_, fun flux junction => ⟨fun hot => fluxReading_hot s die flux hot, fun hot warm => ?_, fun hot warm burns => ?_,
    fun hot warm burns cool => ?_, fun hot warm burns cool => ?_⟩, fun watts fits => ?_, fun budget expiry seq => ⟨fun bad => ?_, fun fresh proper => ?_⟩, fun floor past => ?_, fun still => ?_⟩
  · have major : majorityHint s die = hint := by
      rcases leads with most | ⟨rfl, tie⟩
      · exact majorityHint_most most
      · exact majorityHint_tie tie
    show Host.Outcome.next _ = _
    rw [major, ceilingFor_eq]
    rfl
  · rw [fluxReading_quiet (govern_warm flux _ hot warm.1 warm.2) (by cases (s.power.clock die).emergency <;> rfl), setClock_clock]
  · have burn : flux.any (fun x => decide (x > 250)) = true := List.any_eq_true.2 (burns.imp fun x hx => ⟨hx.1, decide_eq_true hx.2⟩)
    have governed := govern_calm flux (s.power.mpwr.toNat ≥ s.power.budget.toNat) hot warm
    dsimp only at governed
    rw [if_pos burn] at governed
    by_cases falls : 800 < (s.power.clock die).freq
    · rw [fluxReading_quiet (governed.trans (if_pos (decide_eq_true falls))) rfl, if_pos falls]
      rfl
    · rw [fluxReading_quiet (governed.trans (if_neg fun c => falls (of_decide_eq_true c))) rfl, if_neg falls]
  · have burn : ¬ flux.any (fun x => decide (x > 250)) = true := fun c => burns ((List.any_eq_true.1 c).imp fun x hx => ⟨hx.1, of_decide_eq_true hx.2⟩)
    have rise : (flux.all (fun x => decide (x < 235)) && decide ((s.power.clock die).freq < (s.power.clock die).ceil)) = true := by
      rw [Bool.and_eq_true, List.all_eq_true]
      exact ⟨fun x hx => decide_eq_true (cool.1 x hx), decide_eq_true cool.2⟩
    have governed := govern_calm flux (s.power.mpwr.toNat ≥ s.power.budget.toNat) hot warm
    dsimp only at governed
    rw [if_neg burn, if_pos rise] at governed
    rw [fluxReading_quiet governed (by split; rfl; split <;> rfl)]
    simp only [decide_eq_true_eq, ge_iff_le]
  · have burn : ¬ flux.any (fun x => decide (x > 250)) = true := fun c => burns ((List.any_eq_true.1 c).imp fun x hx => ⟨hx.1, of_decide_eq_true hx.2⟩)
    have stay : ¬ (flux.all (fun x => decide (x < 235)) && decide ((s.power.clock die).freq < (s.power.clock die).ceil)) = true := by
      rw [Bool.and_eq_true, List.all_eq_true]
      exact fun c => cool ⟨fun x hx => of_decide_eq_true (c.1 x hx), of_decide_eq_true c.2⟩
    have governed := govern_calm flux (s.power.mpwr.toNat ≥ s.power.budget.toNat) hot warm
    dsimp only at governed
    rw [if_neg burn, if_neg stay] at governed
    exact fluxReading_quiet governed rfl
  · have measured : BitVec.ofNat 16 (min watts 65535) = BitVec.ofNat 16 watts := by rw [Nat.min_eq_left (Nat.le_of_lt_succ fits)]
    by_cases low : watts ≤ s.power.budget.toNat
    · rw [if_pos low]
      exact powerMeasure_within measured low
    · rw [if_neg low]
      exact powerMeasure_above measured (Nat.lt_of_not_le low)
  · exact congrArg Host.Outcome.next (takeLease_refused fun good => bad ⟨good.1, good.2.1, good.2.2⟩)
  · refine congrArg Host.Outcome.next ((takeLease_accepted fresh proper.1 proper.2.1 proper.2.2).trans ?_)
    unfold setFloor
    cases s.power.floor <;> rfl
  · show Host.Outcome.next (expireLease s) = _
    unfold expireLease leaseOver
    rw [if_pos (by rw [floor]; exact decide_eq_true past)]
    unfold setFloor
    rw [if_neg (by rw [floor]; decide)]
  · show Host.Outcome.next (expireLease s) = _
    unfold expireLease leaseOver
    rw [if_neg]
    rw [Bool.and_eq_true, Bool.not_eq_true', decide_eq_true_eq]
    rcases still with floor | later
    · exact fun c => absurd (c.1.symm.trans floor) (by decide)
    · exact fun c => absurd c.2 (BitVec.not_lt.2 later)

end Sys2Proof.Machine

namespace Sys2Proof.Machine
/-! # Starts, firmware trust and start status (R437 to R444) -/

open Sys2Proof.Claim

/-- No partition runs, is being reset or is enabled, and no hart is resident (the state a start finds where nothing has run). -/
def Idle (s : State) : Prop := s.hart.run = .absent ∧ s.others = [] ∧ s.farms = [] ∧ ∀ p, (s.partn p).st = 0 ∧ (s.partn p).en = false

theorem Idle.harts {s : State} (idle : Idle s) : s.harts = [] := by
  obtain ⟨absent, none, -, -⟩ := idle
  unfold State.harts Hart.present
  rw [absent, none]
  rfl

/-- With no partition in use there is none to stop (R438). -/
theorem stopPartitions_idle {s : State} (idle : ∀ p, (s.partn p).st = 0 ∧ (s.partn p).en = false) : stopPartitions s = s := by
  have still (l : List Nat) : l.foldl (fun s i =>
      let p := BitVec.ofNat 3 i
      let q := s.partn p
      if q.st == 0 && !q.en then s else endReset p (beginReset p (s.setPart p { q with en := false }))) s = s := by
    induction l with
    | nil => rfl
    | cons i l ih =>
      have one : ((s.partn (BitVec.ofNat 3 i)).st == 0 && !(s.partn (BitVec.ofNat 3 i)).en) = true := by simp [idle]
      rw [List.foldl_cons]
      dsimp only
      rw [if_pos one]
      exact ih
  exact still (List.range 8)

/-- The boot ROM accepts an image that meets R440. -/
theorem accepts_iff (b : Boot) (i : FirmwareImage) : b.accepts i = true ↔ i.magic = 0x4B5A_384D ∧ i.digest = Config.shake256 i.body ∧ i.signature.length ≤ 1462
    ∧ Config.falconVerifies b.keyDigest (Config.imageHeader i.magic i.version i.body.length i.digest) i.signature = true ∧ b.minVersion ≤ i.version := by
  unfold Boot.accepts headerBytes
  simp only [Bool.and_eq_true, beq_iff_eq, decide_eq_true_eq, and_assoc]

/-- With no step that fails of itself, the selected image decides (R437, R440). -/
theorem failingStep_none {r : StartReport} {b : Boot} {i : FirmwareImage} (skip : Bool) (told : r.failedStep = none) (picked : b.selected = some i) (good : b.accepts i = true) :
    failingStep r skip b = none := by
  unfold failingStep
  simp only [told, picked, good]
  rfl

theorem failingStep_rejected {r : StartReport} {b : Boot} (skip : Bool) (told : r.failedStep = none) (bad : ∀ i, b.selected = some i → ¬ b.accepts i = true) :
    failingStep r skip b = some 5 := by
  unfold failingStep
  simp only [told]
  cases picked : b.selected with
  | none => rfl
  | some i => simp [bad i picked]

theorem failingStep_told {r : StartReport} (b : Boot) {n : Nat} (low : 1 ≤ n) (high : n ≤ 6) (told : r.failedStep = some n) : (failingStep r false b).isSome = true := by
  have named : r.failedStep.filter (fun k => 1 ≤ k && k ≤ 6 && !(false && (k == 2 || k == 3))) = some n := by
    rw [told]
    simp [low, high]
  unfold failingStep
  dsimp only
  rw [named]
  split
  · rfl
  · split
    · split <;> rfl
    · rfl

/-- What every start stops and resets, and the record of it (R438). -/
structure Begun (s u : State) (warm : Bool) : Prop where
  parts : u.parts = Vector.replicate 8 Part.init
  farms : u.farms = []
  harts : u.harts = []
  ctxs : u.ctxs = []
  engines : u.engines = []
  power : u.power = Power.init
  ras : u.ras = Ras.init
  dram : u.dram = Dram.init
  windows : u.fabric.windows = []
  dtag : u.fabric.dtag = Vector.replicate 8 0
  boot : u.boot = { s.boot with
    starting := true, startedAt := s.time, warm := warm, fallback := decide (2 ≤ s.boot.cfail), failfAtStart := s.boot.failf, cfailAtStart := s.boot.cfail,
    measures := Vector.replicate 4 (List.replicate 64 0), mailStatus := 0, mailBusy := false, nonce := [], quote := [] }

/-- What a start stops and resets, and its record, before its steps (R437 to R439). -/
def startRecorded (warm : Bool) (s : State) : State :=
  let t := (resetBlocks s).count 0x0010 1
  let u := if 2 ≤ s.boot.cfail then t.count 0x0030 1 else t
  { u with
    boot := { s.boot with
      starting := true, startedAt := u.time, warm := warm, fallback := decide (2 ≤ s.boot.cfail), failfAtStart := s.boot.failf, cfailAtStart := s.boot.cfail,
      measures := Vector.replicate 4 (List.replicate 64 0), mailStatus := 0, mailBusy := false, nonce := [], quote := [] } }

theorem startRecorded_begun (warm : Bool) {s : State} (idle : Idle s) : Begun s (startRecorded warm s) warm := by
  have harts := idle.harts
  obtain ⟨-, -, farms, -⟩ := idle
  unfold startRecorded
  dsimp only
  split <;> exact ⟨rfl, farms, harts, rfl, rfl, rfl, rfl, rfl, rfl, rfl, rfl⟩

theorem startRecorded_mem (warm : Bool) (s : State) : (startRecorded warm s).mem = s.mem := by
  unfold startRecorded
  dsimp only
  split <;> rfl

theorem Begun.testAndTrain {s u : State} {warm : Bool} (b : Begun s u warm) : Begun s (testAndTrain u) warm :=
  ⟨b.parts, b.farms, b.harts, b.ctxs, b.engines, b.power, b.ras, b.dram, b.windows, b.dtag, b.boot⟩

theorem Begun.trainLinks {s u : State} {warm : Bool} (b : Begun s u warm) (r : StartReport) : Begun s (trainLinks r u) warm :=
  ⟨b.parts, b.farms, b.harts, b.ctxs, b.engines, b.power, b.ras, b.dram, b.windows, b.dtag, b.boot⟩

/-- Built-in test leaves zeros outside the second tier (R437; log entry 65). -/
theorem testAndTrain_mem (s : State) {a : Nat} (outside : ∀ p, regionOf a ≠ .cxl p) : memGet (testAndTrain s).mem a = 0 := by
  refine memGet_unlisted fun c hc => ?_
  rintro rfl
  obtain ⟨-, kept⟩ := List.mem_filter.1 hc
  dsimp only at kept
  split at kept
  · next p region => exact outside p region
  · exact absurd kept (by decide)

/-- The state that the steps of a start have reached, as far as they succeed (R437). -/
def startReached (r : StartReport) (warm skip : Bool) (s : State) : State :=
  let reached (k : Nat) : Bool := (failingStep r skip s.boot).all (fun b => decide (k < b))
  let t := if !skip && reached 1 then testAndTrain (startRecorded warm s) else startRecorded warm s
  if reached 4 then trainLinks r t else t

theorem startReached_begun (r : StartReport) (warm skip : Bool) {s : State} (idle : Idle s) : Begun s (startReached r warm skip s) warm := by
  have recorded := startRecorded_begun warm idle
  unfold startReached
  dsimp only
  split <;> split
  · exact recorded.testAndTrain.trainLinks r
  · exact recorded.trainLinks r
  · exact recorded.testAndTrain
  · exact recorded

/-- A start whose steps all succeed, seen from the state that firmware finds (R437 to R442). -/
def firmwareRuns (r : StartReport) (i : FirmwareImage) (u : State) : State :=
  let m := measureStart r i u
  { m with boot := { m.boot with refMode := r.refMode, monitorEntry := r.monitorEntry }, fabric := { m.fabric with coords := r.coords, dims := r.dims } }

/-- A start in which no step fails runs its image (R437 to R442). -/
theorem beginStart_runs {r : StartReport} {warm skip : Bool} {s : State} {i : FirmwareImage} (idle : Idle s) (fine : failingStep r skip s.boot = none)
    (picked : s.boot.selected = some i) : beginStart r warm skip s = firmwareRuns r i (startReached r warm skip s) := by
  have steps : failingStep r skip ((resetBlocks s).count 0x0010 1).boot = none := fine
  have image : ((resetBlocks s).count 0x0010 1).boot.selected = some i := picked
  unfold beginStart
  rw [stopPartitions_idle idle.2.2.2]
  dsimp only
  rw [steps, image]
  unfold startReached startRecorded
  dsimp only
  rw [fine]
  rfl

/-- A start in which a step fails is recorded as failed (R438, R439). -/
theorem beginStart_fails {r : StartReport} {warm skip : Bool} {s : State} (idle : Idle s) (bad : (failingStep r skip s.boot).isSome = true) :
    beginStart r warm skip s = failStart (startReached r warm skip s) := by
  obtain ⟨n, stepFails⟩ := Option.isSome_iff_exists.1 bad
  have steps : failingStep r skip ((resetBlocks s).count 0x0010 1).boot = some n := stepFails
  unfold beginStart
  rw [stopPartitions_idle idle.2.2.2]
  dsimp only
  rw [steps]
  unfold startReached startRecorded
  dsimp only
  rw [stepFails]
  rfl

/-- A measurement changes the measurement registers alone (R442). -/
theorem extendMeasure_frame (k : Nat) (v : List Byte) (x : Vector (List Byte) 4) (u : State) :
    ∃ y, extendMeasure k v { u with boot := { u.boot with measures := x } } = { u with boot := { u.boot with measures := y } } := ⟨_, rfl⟩

theorem measureStart_frame (r : StartReport) (i : FirmwareImage) (u : State) : ∃ y, measureStart r i u = { u with boot := { u.boot with measures := y } } := by
  obtain ⟨rom, hrom⟩ := extendMeasure_frame 0 r.bootRom (Vector.replicate 4 (List.replicate 64 0)) u
  obtain ⟨image, himage⟩ := extendMeasure_frame 1 i.digest rom u
  obtain ⟨fuses, hfuses⟩ := extendMeasure_frame 2 r.fuses image u
  refine ⟨fuses, ?_⟩
  unfold measureStart
  dsimp only
  rw [hrom, himage, hfuses]

/-- What R438 and R442 ask of a module that has begun a start, in the words of the statement. -/
theorem Begun.stopped {s u : State} {warm : Bool} (b : Begun s u warm) {t : State}
    (same : t.parts = u.parts ∧ t.farms = u.farms ∧ t.harts = u.harts ∧ t.ctxs = u.ctxs ∧ t.engines = u.engines ∧ t.power = u.power ∧ t.ras = u.ras ∧ t.dram = u.dram
      ∧ t.fabric.windows = u.fabric.windows ∧ t.fabric.dtag = u.fabric.dtag) :
    t.parts = Vector.replicate 8 Part.init ∧ t.farms = [] ∧ t.harts = [] ∧ t.ctxs = [] ∧ t.engines = [] ∧ t.power = Power.init ∧ t.ras = Ras.init
      ∧ t.dram.counts = [] ∧ t.dram.rmth = 0x400 ∧ t.fabric.windows = [] ∧ t.fabric.dtag = Vector.replicate 8 0 := by
  obtain ⟨parts, farms, harts, ctxs, engines, power, ras, dram, windows, dtag⟩ := same
  refine ⟨parts.trans b.parts, farms.trans b.farms, harts.trans b.harts, ctxs.trans b.ctxs, engines.trans b.engines, power.trans b.power, ras.trans b.ras, ?_, ?_,
    windows.trans b.windows, dtag.trans b.dtag⟩
  · rw [dram, b.dram]; rfl
  · rw [dram, b.dram]; rfl

/-- The measurement registers after a start (R442). -/
theorem measureStart_measures (r : StartReport) (i : FirmwareImage) (u : State) : (measureStart r i u).boot.measures
    = #v[Config.shake256 (List.replicate 64 0 ++ r.bootRom), Config.shake256 (List.replicate 64 0 ++ i.digest), Config.shake256 (List.replicate 64 0 ++ r.fuses), List.replicate 64 0] := by
  unfold measureStart extendMeasure
  dsimp only
  generalize List.replicate 64 (0 : Byte) = zero
  ext k hk
  simp only [Vector.getElem_mapIdx, Vector.getElem_replicate]
  obtain rfl | rfl | rfl | rfl : k = 0 ∨ k = 1 ∨ k = 2 ∨ k = 3 := by omega
  all_goals rfl

/-- A failed start's record, and what it leaves (R438, R439). -/
theorem failStart_fields (u : State) : (failStart u).boot.starting = false ∧ (failStart u).boot.failf = true ∧ (failStart u).boot.cfail = min (u.boot.cfail + 1) 2
    ∧ (failStart u).links.msix = u.links.msix ++ [(0, 3)] ∧ (failStart u).life = (u.count 0x0028 1).life ∧ (failStart u).boot.primary = u.boot.primary
    ∧ (failStart u).boot.fallbackImg = u.boot.fallbackImg := ⟨rfl, rfl, rfl, rfl, rfl, rfl, rfl⟩

theorem bootStatus_lt (b : Boot) : bootStatus b < 2 ^ 64 := by
  unfold bootStatus
  split <;> split <;> split <;> omega

/-- The image a start selects, in the words of the statement (R439, R441). -/
theorem selected_eq (b : Boot) : b.selected = if decide (2 ≤ b.cfail) then b.fallbackImg else match b.candidate with | some c => some c | none => b.primary := by
  unfold Boot.selected
  simp only [ge_iff_le, decide_eq_true_eq] <;> rfl

/-- A start whose steps all succeed (R437 to R442). -/
theorem firmwareRuns_spec {r : StartReport} {s : State} (warm skip : Bool) (i : FirmwareImage) (idle : Idle s) (fine : failingStep r skip s.boot = none) :
    let u := startReached r warm skip s
    let t := firmwareRuns r i u
    (t.parts = Vector.replicate 8 Part.init ∧ t.farms = [] ∧ t.harts = [] ∧ t.ctxs = [] ∧ t.engines = [] ∧ t.power = Power.init ∧ t.ras = Ras.init
      ∧ t.dram.counts = [] ∧ t.dram.rmth = 0x400 ∧ t.fabric.windows = [] ∧ t.fabric.dtag = Vector.replicate 8 0)
    ∧ t.boot.starting = true ∧ t.boot.startedAt = s.time ∧ t.boot.warm = warm ∧ t.boot.fallback = decide (2 ≤ s.boot.cfail) ∧ t.boot.failfAtStart = s.boot.failf
    ∧ t.boot.cfailAtStart = s.boot.cfail ∧ t.boot.refMode = r.refMode ∧ t.boot.monitorEntry = r.monitorEntry ∧ t.fabric.coords = r.coords ∧ t.fabric.dims = r.dims
    ∧ t.links.cxlUp = r.cxlUp ∧ t.boot.measures = #v[Config.shake256 (List.replicate 64 0 ++ r.bootRom), Config.shake256 (List.replicate 64 0 ++ i.digest),
          Config.shake256 (List.replicate 64 0 ++ r.fuses), List.replicate 64 0] ∧ t.mem = u.mem := by
  have begun := startReached_begun r warm skip idle
  have trained : (startReached r warm skip s).links.cxlUp = r.cxlUp := by
    unfold startReached
    rw [fine]
    rfl
  have measures := measureStart_measures r i (startReached r warm skip s)
  dsimp only
  unfold firmwareRuns
  generalize startReached r warm skip s = u at begun trained measures
  obtain ⟨x, frame⟩ := measureStart_frame r i u
  rw [frame] at measures
  rw [frame]
  exact ⟨begun.stopped ⟨rfl, rfl, rfl, rfl, rfl, rfl, rfl, rfl, rfl, rfl⟩, congrArg Boot.starting begun.boot, congrArg Boot.startedAt begun.boot,
    congrArg Boot.warm begun.boot, congrArg Boot.fallback begun.boot, congrArg Boot.failfAtStart begun.boot, congrArg Boot.cfailAtStart begun.boot, rfl, rfl, rfl, rfl,
    trained, measures, rfl⟩

/-- Memory at the end of a start's steps: as it was where the test is skipped, and zeros outside the second tier where it runs (R437, R438). -/
theorem startReached_mem {r : StartReport} {s : State} (warm skip : Bool) (fine : failingStep r skip s.boot = none) :
    (startReached r warm skip s).mem = if skip then s.mem else (testAndTrain (startRecorded warm s)).mem := by
  unfold startReached
  rw [fine]
  cases skip
  · rfl
  · exact startRecorded_mem warm s

/-- A start that fails (R438, R439). -/
theorem failStart_spec {s u : State} {warm : Bool} (begun : Begun s u warm) :
    let t := failStart u
    (t.parts = Vector.replicate 8 Part.init ∧ t.farms = [] ∧ t.harts = [] ∧ t.ctxs = [] ∧ t.engines = [] ∧ t.power = Power.init ∧ t.ras = Ras.init
      ∧ t.dram.counts = [] ∧ t.dram.rmth = 0x400 ∧ t.fabric.windows = [] ∧ t.fabric.dtag = Vector.replicate 8 0)
    ∧ t.boot.starting = false ∧ t.boot.failf = true ∧ t.boot.cfail = min (s.boot.cfail + 1) 2 ∧ t.links.msix.getLast? = some (0, 3) := by
  refine ⟨begun.stopped ⟨rfl, rfl, rfl, rfl, rfl, rfl, rfl, rfl, rfl, rfl⟩, rfl, rfl, ?_, ?_⟩
  · exact (congrArg (fun b : Boot => min (b.cfail + 1) 2) begun.boot).trans rfl
  · exact List.getLast?_concat

/-- A doubleword that a request of the management link answers (R444). -/
theorem answerWord_ofNat (s : State) {n : Nat} (fits : n < 2 ^ 64) :
    answerWord (BitVec.ofNat 64 n) s = { s with links := { s.links with answer := bytesOf 8 n, unsupported := false, answerBad := false } } := by
  unfold answerWord
  rw [BitVec.toNat_ofNat, Nat.mod_eq_of_lt fits]

/-- A start whose steps all succeed, in the words of the statement (R437 to R442). -/
theorem beginStart_succeeds {r : StartReport} {s : State} (warm skip : Bool) {i : FirmwareImage} (idle : Idle s) (told : r.failedStep = none)
    (picked : s.boot.selected = some i) (good : s.boot.accepts i = true) :
    beginStart r warm skip s = firmwareRuns r i (startReached r warm skip s) ∧ failingStep r skip s.boot = none :=
  have fine := failingStep_none skip told picked good
  ⟨beginStart_runs idle fine picked, fine⟩

/-- A start that succeeds never lowers the minimum version (R440). -/
theorem succeedStart_minVersion (s : State) : s.boot.minVersion ≤ (succeedStart s).boot.minVersion := by
  unfold succeedStart
  dsimp only
  split
  · split
    · next raised => exact of_decide_eq_true ((Bool.and_eq_true _ _).mp raised).2
    · exact BitVec.le_refl _
  · exact BitVec.le_refl _

/-- Settles O60: what a start stops, resets and runs, and what its failures leave. -/
theorem startSteps : Obligations.StartSteps := by
  unfold Obligations.StartSteps
  intro s r b fb picked verified stopped succeeds fails absent
  have chosen : s.boot.selected = picked := selected_eq s.boot
  clear_value picked
  have cold (on : s.boot.powered = true) : exec (.coldStart r) s = .next (beginStart r false false s) := congrArg (fun t => Host.Outcome.next (beginStart r false false t)) (if_pos on)
  have warm (on : s.boot.powered = true) : exec (.warmStart r true) s = .next (beginStart r true (!s.boot.failf) s) := congrArg Host.Outcome.next (if_pos on)
  have failing (idle : Idle s) (bad : (failingStep r false s.boot).isSome = true) : fails (beginStart r false false s) := by
    rw [beginStart_fails idle bad]
    exact failStart_spec (startReached_begun r false false idle)
  have running (w skip : Bool) (idle : Idle s) (told : r.failedStep = none) (i : FirmwareImage) (image : picked = some i) (good : verified i) :
      succeeds w (beginStart r w skip s) ∧ (beginStart r w skip s).mem = if skip then s.mem else (testAndTrain (startRecorded w s)).mem := by
    obtain ⟨runs, fine⟩ := beginStart_succeeds w skip idle told (chosen.trans image) ((accepts_iff b i).2 good)
    obtain ⟨halted, starting, startedAt, isWarm, fallback, failf, cfail, refMode, entry, coords, dims, cxl, measures, mem⟩ := firmwareRuns_spec w skip i idle fine
    rw [runs]
    refine ⟨⟨halted, starting, startedAt, isWarm, fallback, failf, cfail, refMode, entry, coords, dims, cxl, fun j other => ?_⟩, mem.trans (startReached_mem w skip fine)⟩
    obtain rfl : i = j := Option.some.inj (image.symm.trans other)
    exact measures
  refine ⟨fun on idle => ⟨fun told => ⟨fun i image good => ?_, fun i image bad => ?_, fun nothing => ?_, fun i image good trusted => ?_, fun i image good failed => ?_⟩,
    fun n low high told => ⟨_, cold on, failing idle (failingStep_told b low high told)⟩⟩, fun off => ⟨congrArg Host.Outcome.next (if_neg (by rw [off]; decide)),
      congrArg (fun t => Host.Outcome.next (beginStart r false false t)) (if_neg (by rw [off]; decide))⟩, fun early => ?_,
    fun stopped => congrArg Host.Outcome.next (if_neg (by rw [stopped]; decide)), fun starting late => ?_, fun starting => ?_, ?_, fun nonce => rfl, fun img => ⟨_, rfl, rfl, rfl, rfl⟩⟩
  · obtain ⟨ok, mem⟩ := running false false idle told i image good
    exact ⟨_, cold on, ok, fun a outside => by rw [mem]; exact testAndTrain_mem _ outside⟩
  · refine ⟨_, cold on, failing idle ?_⟩
    rw [failingStep_rejected false told fun j other ok => bad ?_]
    · rfl
    · obtain rfl : i = j := Option.some.inj (image.symm.trans (chosen.symm.trans other))
      exact (accepts_iff b i).1 ok
  · refine ⟨_, cold on, failing idle ?_⟩
    rw [failingStep_rejected false told fun j other _ => absurd (nothing.symm.trans (chosen.symm.trans other)) (by simp)]
    rfl
  · obtain ⟨ok, mem⟩ := running true true idle told i image good
    refine ⟨_, (warm on).trans ?_, ok, mem⟩
    rw [show s.boot.failf = false from trusted]
    rfl
  · obtain ⟨ok, mem⟩ := running true false idle told i image good
    refine ⟨_, (warm on).trans ?_, ok, fun a outside => by rw [mem]; exact testAndTrain_mem _ outside⟩
    rw [show s.boot.failf = true from failed]
    rfl
  · refine congrArg Host.Outcome.next (if_neg ?_)
    unfold Boot.overdue
    rw [Bool.and_eq_true, decide_eq_true_eq]
    rintro ⟨on, late⟩
    rcases early with off | soon
    · exact absurd (off.symm.trans on) (by decide)
    · exact absurd late (Nat.not_le.2 soon)
  · refine ⟨failStart s, congrArg Host.Outcome.next (if_pos ?_), rfl, rfl, rfl, rfl, rfl, fun candidate primary twice => ?_, rfl, rfl⟩
    · unfold Boot.overdue
      rw [Bool.and_eq_true, decide_eq_true_eq]
      exact ⟨starting, late⟩
    · show (if b.candidateFails + (if b.candidate.isSome && !b.fallback then 1 else 0) ≥ 2 then none else b.candidate) = none
      rw [candidate, primary, twice]
      rfl
  · refine ⟨succeedStart s, congrArg Host.Outcome.next (if_pos starting), rfl, rfl, rfl, rfl, fun i primary candidate => ⟨?_, ?_⟩, fun kept => ?_, ?_⟩
    · show (if (!b.fallback && b.candidate.isSome) then b.candidate else b.primary) = some i
      rw [primary, candidate]
      rfl
    · show (if (!b.fallback && b.candidate.isSome) then none else b.candidate) = none
      rw [primary, candidate]
      rfl
    · show (if (!b.fallback && b.candidate.isSome) then b.candidate else b.primary) = b.primary
      rcases kept with missing | primary
      · rw [missing, Option.isSome_none, Bool.and_false]
        rfl
      · rw [primary]
        rfl
    · exact succeedStart_minVersion s
  · exact congrArg Host.Outcome.next (answerWord_ofNat s (bootStatus_lt s.boot))

end Sys2Proof.Machine

namespace Sys2Proof.Machine
/-! # Fault records and lifetime counts (R421 to R426) -/

open Sys2Proof.Claim

/-! ## Records in memory (R421) -/

/-- The bytes of memory from `a` on are those of a list. -/
def Holds (m : List Host.Cell) (a : Nat) (l : List Byte) : Prop := ∀ i, i < l.length → memGet m (a + i) = (l[i]?).getD 0

theorem holds_append {m : List Host.Cell} {a : Nat} {x y : List Byte} (h : Holds m a (x ++ y)) : Holds m a x ∧ Holds m (a + x.length) y := by
  refine ⟨fun i hi => ?_, fun i hi => ?_⟩
  · rw [h i (by rw [List.length_append]; omega), List.getElem?_append_left hi]
  · rw [Nat.add_assoc, h (x.length + i) (by rw [List.length_append]; omega), List.getElem?_append_right (Nat.le_add_right _ _), Nat.add_sub_cancel_left]

/-- What a run of bytes reads as (R2). -/
theorem memRead_holds {m : List Host.Cell} {a : Nat} {l : List Byte} (h : Holds m a l) : memRead m a l.length = ofBytes l := by
  induction l generalizing a with
  | nil => rfl
  | cons b t ih =>
    obtain ⟨head, tail⟩ := holds_append (x := [b]) h
    have first := head 0 Nat.one_pos
    rw [List.length_cons, memRead, ofBytes, ih (a := a + 1) tail]
    exact congrArg (fun x : Byte => x.toNat + 256 * ofBytes t) first

theorem memRead_holds_bytesOf {m : List Host.Cell} {a v : Nat} (h : Holds m a (bytesOf 8 v)) (fits : v < 2 ^ 64) : memRead m a 8 = v := by
  have eq := memRead_holds h
  rw [length_bytesOf, ofBytes_bytesOf] at eq
  rw [eq]
  exact Nat.mod_eq_of_lt fits

/-- The 32 bytes of a record, doubleword by doubleword (R421). -/
theorem holds_rasRecord {m : List Host.Cell} {a : Nat} {seq time : Word} {r : RasReport} {p : BitVec 3} (credit : r.part = some p) (addr : r.addr < 2 ^ 64)
    (h : Holds m a (rasRecord seq r time)) : memRead m a 8 = seq.toNat
      ∧ memRead m (a + 8) 8 = r.typ % 256 + 256 * (r.unit % 256) + 65536 * (r.index % 256) + (2 ^ 24 * p.toNat + 2 ^ 27)
      ∧ memRead m (a + 16) 8 = r.addr ∧ memRead m (a + 24) 8 = time.toNat := by
  unfold rasRecord at h
  rw [credit] at h
  obtain ⟨h, stamp⟩ := holds_append h
  obtain ⟨h, place⟩ := holds_append h
  obtain ⟨number, fields⟩ := holds_append h
  simp only [List.length_append, length_bytesOf] at stamp place fields
  have := p.isLt
  exact ⟨memRead_holds_bytesOf number seq.isLt, memRead_holds_bytesOf fields (by omega), memRead_holds_bytesOf place addr, memRead_holds_bytesOf stamp time.isLt⟩

theorem length_rasRecord (seq : Word) (r : RasReport) (time : Word) : (rasRecord seq r time).length = 32 := by
  unfold rasRecord
  simp only [List.length_append, length_bytesOf]

/-- Where a record of a ring lies (R421). -/
def ringAt (base seq : Word) : Nat := base.toNat / 8192 * 8192 + seq.toNat % 256 * 32

/-- A record put into a ring (R421). -/
theorem ringPut_spec {s : State} (wf : Memory.wf s.mem = true) (exact' : NoUpset s) (base seq : Word) (r : RasReport) (up : linkDown s (ringAt base seq) = false)
    (free : Unheld s (ringAt base seq) 32) :
    let t := ringPut s base seq r
    t = { s with mem := t.mem, held := t.held } ∧ Memory.wf t.mem = true ∧ Holds t.mem (ringAt base seq) (rasRecord seq r s.time)
      ∧ ∀ b, b < ringAt base seq ∨ ringAt base seq + 32 ≤ b → memGet t.mem b = memGet s.mem b := by
  have len := length_rasRecord seq r s.time
  have put : ringPut s base seq r = mergeBytes s (ringAt base seq) (rasRecord seq r s.time) := homeWrite_eq up (len.symm ▸ free)
  have none : s.upsets.isEmpty = true := by rw [exact']; rfl
  dsimp only
  rw [put]
  refine ⟨?_, mergeBytes_wf wf _ _, fun i hi => ?_, fun b out => ?_⟩
  · unfold mergeBytes
    simp only [none, if_true, List.filter_nil, List.foldl_nil]
  · rw [mergeBytes_get wf, if_pos ⟨Nat.le_add_right _ _, Nat.add_lt_add_left hi _⟩, Nat.add_sub_cancel_left]
  · rw [mergeBytes_get wf, if_neg (by omega)]

/-- The monitor's record of an event (R421, R428). -/
theorem reportMonitor_spec {s : State} (wf : Memory.wf s.mem = true) (exact' : NoUpset s) (r : RasReport)
    (clear : s.ras.mbase = 0 ∨ (linkDown s (ringAt s.ras.mbase s.ras.mseq) = false ∧ Unheld s (ringAt s.ras.mbase s.ras.mseq) 32)) :
    let t := reportMonitor r s
    let at' := ringAt s.ras.mbase s.ras.mseq
    t = { s with mem := t.mem, held := t.held, ras := { s.ras with mseq := t.ras.mseq }, links := { s.links with msix := t.links.msix } } ∧ Memory.wf t.mem = true
      ∧ (s.ras.mbase ≠ 0 → Holds t.mem at' (rasRecord s.ras.mseq r s.time) ∧ t.ras.mseq = s.ras.mseq + 1 ∧ t.links.msix = s.links.msix ++ [(0, 0)])
      ∧ ∀ b, (s.ras.mbase = 0 ∨ b < at' ∨ at' + 32 ≤ b) → memGet t.mem b = memGet s.mem b := by
  dsimp only
  unfold reportMonitor
  by_cases none : s.ras.mbase = 0
  · rw [if_pos none]
    exact ⟨rfl, wf, fun some => absurd none some, fun _ _ => rfl⟩
  · obtain ⟨up, free⟩ := clear.resolve_left none
    obtain ⟨frame, twf, holds, other⟩ := ringPut_spec wf exact' s.ras.mbase s.ras.mseq r up free
    rw [if_neg none]
    generalize ringPut s s.ras.mbase s.ras.mseq r = u at *
    rw [frame]
    exact ⟨rfl, twf, fun _ => ⟨holds, rfl, rfl⟩, fun b out => other b (out.resolve_left none)⟩

/-- The partition's record of an event (R421). -/
theorem reportPartition_spec {s : State} (wf : Memory.wf s.mem = true) (exact' : NoUpset s) (r : RasReport) (p : BitVec 3)
    (clear : s.ras.rbase[p.toNat] = 0 ∨ (s.partn p).st = 3 ∨ (linkDown s (ringAt s.ras.rbase[p.toNat] s.ras.pseq[p.toNat]) = false
      ∧ Unheld s (ringAt s.ras.rbase[p.toNat] s.ras.pseq[p.toNat]) 32)) :
    let t := reportPartition r p s
    let at' := ringAt s.ras.rbase[p.toNat] s.ras.pseq[p.toNat]
    t = { s with mem := t.mem, held := t.held, ras := { s.ras with pseq := t.ras.pseq }, parts := t.parts }
      ∧ (s.ras.rbase[p.toNat] ≠ 0 → (s.partn p).st ≠ 3 → Holds t.mem at' (rasRecord s.ras.pseq[p.toNat] r s.time)
          ∧ t.ras.pseq = s.ras.pseq.set p.toNat (s.ras.pseq[p.toNat] + 1) ∧ t.partn p = { s.partn p with pending := pendIns (s.partn p).pending 0x83 s.ras.pseq[p.toNat] })
      ∧ (s.ras.rbase[p.toNat] = 0 ∨ (s.partn p).st = 3 → t.parts = s.parts ∧ t.ras.pseq = s.ras.pseq)
      ∧ (∀ j, j ≠ p → t.partn j = s.partn j)
      ∧ ∀ b, (s.ras.rbase[p.toNat] = 0 ∨ (s.partn p).st = 3 ∨ b < at' ∨ at' + 32 ≤ b) → memGet t.mem b = memGet s.mem b := by
  dsimp only
  unfold reportPartition
  dsimp only
  by_cases none : s.ras.rbase[p.toNat] = 0 ∨ (s.partn p).st = 3
  · rw [if_pos none]
    exact ⟨rfl, fun base up => (none.elim base up).elim, fun _ => ⟨rfl, rfl⟩, fun _ _ => rfl, fun _ _ => rfl⟩
  · obtain ⟨base, run⟩ := not_or.1 none
    obtain ⟨up, free⟩ := (clear.resolve_left base).resolve_left run
    obtain ⟨frame, twf, holds, other⟩ := ringPut_spec wf exact' s.ras.rbase[p.toNat] s.ras.pseq[p.toNat] r up free
    rw [if_neg none]
    generalize ringPut s s.ras.rbase[p.toNat] s.ras.pseq[p.toNat] r = u at *
    rw [frame]
    refine ⟨rfl, fun _ _ => ⟨holds, rfl, ?_⟩, fun c => absurd c none, fun j ne => ?_, fun b out => other b ((out.resolve_left base).resolve_left run)⟩
    · exact State.partn_setPart _ _ _
    · exact State.partn_setPart_ne _ ne _

/-- R421, R422, R424, R425. -/
theorem faultRecords : Claim.FaultRecords := by
  unfold Claim.FaultRecords
  intro s w p q rbase pseq mAt pAt fields record clear
  refine ⟨fun other => congrArg Host.Outcome.next (if_neg other), fun software wf exact' monitor partition => ?_⟩
  let r : RasReport := { typ := 5, unit := (w.extractLsb' 8 8).toNat, index := (w.extractLsb' 16 8).toNat, part := some p, addr := 0 }
  let c := s.count (0x1C00 + 8 * 5) 1
  obtain ⟨frame, mwf, monitored, mOther⟩ := reportMonitor_spec (s := c) wf exact' r monitor
  have ranWith : exec (.report w) s = .next (reportPartition r p (reportMonitor r c)) := congrArg Host.Outcome.next (if_pos software)
  generalize reportMonitor r c = u at *
  have clearU : u.ras.rbase[p.toNat] = 0 ∨ (u.partn p).st = 3 ∨ (linkDown u (ringAt u.ras.rbase[p.toNat] u.ras.pseq[p.toNat]) = false
      ∧ Unheld u (ringAt u.ras.rbase[p.toNat] u.ras.pseq[p.toNat]) 32) := by
    rw [frame]
    exact partition
  have exactU : NoUpset u := by rw [frame]; exact exact'
  obtain ⟨frame', credited, uncredited, others, pOther⟩ := reportPartition_spec mwf exactU r p clearU
  generalize reportPartition r p u = t at *
  have fieldsEq : r.typ % 256 + 256 * (r.unit % 256) + 65536 * (r.index % 256) + (2 ^ 24 * p.toNat + 2 ^ 27) = fields := by
    have unit : (w.extractLsb' 8 8).toNat < 256 := (w.extractLsb' 8 8).isLt
    have index : (w.extractLsb' 16 8).toNat < 256 := (w.extractLsb' 16 8).isLt
    show 5 % 256 + 256 * ((w.extractLsb' 8 8).toNat % 256) + 65536 * ((w.extractLsb' 16 8).toNat % 256) + (2 ^ 24 * p.toNat + 2 ^ 27)
      = 5 + 2 ^ 8 * (w.extractLsb' 8 8).toNat + 2 ^ 16 * (w.extractLsb' 16 8).toNat + 2 ^ 24 * p.toNat + 2 ^ 27
    omega
  have recorded {m : State} {a : Nat} {seq : Word} (h : Holds m.mem a (rasRecord seq r s.time)) : record m a seq := by
    obtain ⟨number, kind, place, stamp⟩ := holds_rasRecord (p := p) rfl (show 0 < 2 ^ 64 by decide) h
    exact ⟨number, kind.trans fieldsEq, place, stamp⟩
  have uBase : u.ras.rbase = s.ras.rbase := (congrArg (fun x : State => x.ras.rbase) frame).trans rfl
  have uSeq : u.ras.pseq = s.ras.pseq := (congrArg (fun x : State => x.ras.pseq) frame).trans rfl
  have uPart (j : BitVec 3) : u.partn j = s.partn j := partn_congr ((congrArg State.parts frame).trans rfl) j
  have uParts : u.parts = s.parts := (congrArg State.parts frame).trans rfl
  have uTime : u.time = s.time := (congrArg State.time frame).trans rfl
  simp only [uBase, uSeq, uPart, uTime] at credited uncredited others pOther
  have tRas : t.ras = { u.ras with pseq := t.ras.pseq } := (congrArg State.ras frame').trans rfl
  have tLinks : t.links = u.links := (congrArg State.links frame').trans rfl
  have monitorPages (base : s.ras.mbase ≠ 0) (apart : s.ras.mbase.toNat / 8192 ≠ rbase.toNat / 8192) : Holds t.mem mAt (rasRecord s.ras.mseq r s.time) := by
    obtain ⟨holds, -, -⟩ := monitored base
    intro i hi
    rw [pOther _ (.inr (.inr ?_))]
    · exact holds i hi
    · rw [length_rasRecord] at hi
      show mAt + i < pAt ∨ pAt + 32 ≤ mAt + i
      omega
  refine ⟨t, ranWith, ?_, fun base apart => ⟨recorded (monitorPages base apart), ?_, ?_⟩, fun base up => ?_, fun off => ?_, others, ?_, ?_, fun b mOut pOut => ?_⟩
  · rw [frame', frame]
    rfl
  · rw [tRas]
    exact (monitored base).2.1
  · rw [tLinks]
    exact (monitored base).2.2
  · obtain ⟨holds, seq, pending⟩ := credited base up
    exact ⟨recorded holds, seq, pending⟩
  · obtain ⟨parts, seq⟩ := uncredited off
    exact ⟨parts.trans uParts, seq⟩
  · rw [tRas]
    exact (congrArg (fun x : State => x.ras.mbase) frame).trans rfl
  · rw [tRas]
    exact uBase
  · rw [pOther b pOut, mOther b mOut]
    rfl

/-! ## Lifetime counts (R425, R426) -/

/-- A flush writes the older copy, and counts itself first (R426). -/
theorem flushLifetime_eq (s : State) :
    let l := s.life
    let live := tset l.live 0 (min (tget 0 l.live 0 + 1) (2 ^ 64 - 1))
    let next := max l.flash0.1 l.flash1.1 + 1
    let first := if l.flash0.1 < l.flash1.1 then (next, true, live) else l.flash0
    let second := if l.flash0.1 < l.flash1.1 then l.flash1 else (next, true, live)
    flushLifetime s = { s with life := { l with live := live, flash0 := first, flash1 := second } } := by
  dsimp only
  unfold flushLifetime Lifetime.commit
  by_cases older : s.life.flash0.1 < s.life.flash1.1
  · have copied : (s.count 0 1).life.flash0.1 < (s.count 0 1).life.flash1.1 := older
    simp only [if_pos older, if_pos copied]
    rfl
  · have copied : ¬ (s.count 0 1).life.flash0.1 < (s.count 0 1).life.flash1.1 := older
    simp only [if_neg older, if_neg copied]
    rfl

/-- Sampling the histograms raises six counts (R425). -/
theorem histogramSample_due {s : State} (due : s.life.sampleAt ≤ s.time) (j0 j1 r0 r1 : Nat) : exec (.histogramSample j0 j1 r0 r1) s
    = .next (let u := (sampleOffsets j0 j1 r0 r1 s.power.mpwr.toNat).foldl (fun u o => u.count o 1) s; { u with life := { u.life with sampleAt := s.life.sampleAt + 1000000000 } }) := by
  show Host.Outcome.next (if s.time < s.life.sampleAt then s else _) = _
  rw [if_neg (BitVec.not_lt.2 due)]
  rfl

/-- A power-up begins with the newest copy whose check holds (R426). -/
theorem recovered_first {l : Lifetime} (good : l.flash0.2.1 = true) (newest : l.flash1.1 < l.flash0.1 ∨ l.flash1.2.1 = false) : l.recovered = l.flash0.2.2 := by
  unfold Lifetime.recovered
  rw [if_pos]
  rw [good, Bool.true_and, Bool.or_eq_true, decide_eq_true_eq, Bool.not_eq_true']
  exact newest

theorem recovered_second {l : Lifetime} (good : l.flash1.2.1 = true) (newest : l.flash0.1 ≤ l.flash1.1 ∨ l.flash0.2.1 = false) : l.recovered = l.flash1.2.2 := by
  unfold Lifetime.recovered
  rw [if_neg, if_pos good]
  rw [good, Bool.not_true, Bool.or_false, Bool.and_eq_true, decide_eq_true_eq]
  rintro ⟨first, later⟩
  rcases newest with low | bad
  · omega
  · exact absurd (first.symm.trans bad) (by decide)

/-- R425, R426, R437. -/
theorem lifetimeSteps : Claim.LifetimeSteps := by
  unfold Claim.LifetimeSteps
  intro s l bin rail number next flushed off sampled
  have flushes : flushLifetime s = { s with life := flushed } := flushLifetime_eq s
  refine ⟨fun j0 j1 r0 r1 => ⟨fun due => histogramSample_due due j0 j1 r0 r1, fun early => congrArg Host.Outcome.next (if_pos early)⟩, fun o n => ⟨rfl, rfl⟩, fun due => ?_,
    fun early => congrArg Host.Outcome.next (if_pos early), ?_, ?_, fun o some fits => ?_, ?_, recovered_first, recovered_second⟩
  · show Host.Outcome.next (if s.time < s.life.flushAt then s else _) = _
    rw [if_neg (BitVec.not_lt.2 due), flushes]
  · show Host.Outcome.next (let u := flushLifetime s; { u with boot := { u.boot with powered := false } }) = _
    rw [flushes]
  · refine ⟨_, rfl, ?_⟩
    split
    · exact .inr rfl
    · exact .inl rfl
  · show Host.Outcome.next (answerWord (BitVec.ofNat 64 (if o = 0 then _ else tget 0 l.live o)) s) = _
    rw [if_neg some, answerWord_ofNat s fits]
  · show Host.Outcome.next (answerWord (BitVec.ofNat 64 (if 0 = 0 then 1 + 2 ^ 32 * (tget 0 l.live 0 % 2 ^ 32) else _)) s) = _
    rw [if_pos rfl, answerWord_ofNat s (by omega)]

/-- Settles O58: fault records of software, and the lifetime counts and their flash copies. -/
theorem recordsAndLifetime : Obligations.RecordsAndLifetime := ⟨faultRecords, lifetimeSteps⟩

end Sys2Proof.Machine

namespace Sys2Proof.Machine
/-! # Element-wise vector instructions on plain registers: integers, carries, compares, merges (R150 to R157) -/

open Sys2Proof.Claim

/-! ## Register groups: what is written reads back (R12 to R15) -/

/-- The widths that register elements have. -/
theorem elemWidth_cases (f : Nat) : elemWidth f = 4 ∨ elemWidth f = 8 ∨ elemWidth f = 16 ∨ elemWidth f = 32 ∨ elemWidth f = 64 := by
  unfold elemWidth
  split <;> simp

theorem elemWidth_pos (f : Nat) : 0 < elemWidth f := by rcases elemWidth_cases f with h | h | h | h | h <;> omega

/-- A register holds a whole number of elements. -/
theorem elemWidth_dvd_capBits (f : Nat) (h : Hart) : elemWidth f ∣ h.capBits := by
  have d64 : 64 ∣ h.capBits := ⟨256 * 2 ^ h.classCode, by rw [Hart.capBits, classBytes]; ring⟩
  refine Dvd.dvd.trans ?_ d64
  rcases elemWidth_cases f with h | h | h | h | h <;> rw [h] <;> decide

theorem capBits_pos (h : Hart) : 0 < h.capBits := by rw [Hart.capBits, classBytes]; positivity

/-- Elements of a register. -/
theorem elemWidth_mul_div (f : Nat) (h : Hart) : elemWidth f * (h.capBits / elemWidth f) = h.capBits := Nat.mul_div_cancel' (elemWidth_dvd_capBits f h)

theorem bitsAt_lt (lo cnt x : Nat) : bitsAt lo cnt x < 2 ^ cnt := Nat.mod_lt _ (Nat.two_pow_pos cnt)
theorem bitsAt_zero (lo cnt : Nat) : bitsAt lo cnt 0 = 0 := by rw [bitsAt_eq]; simp

/-- An element of a run of whole elements cut out of an image. -/
theorem slot_bitsAt {w c k i n : Nat} (img : Nat) (h : i < n) : slot w i (bitsAt (w * c * k) (n * w) img) = slot w (k * c + i) img := by
  rw [slot_eq, slot_eq, bitsAt_eq]
  obtain ⟨r, rfl⟩ : ∃ r, n = i + 1 + r := ⟨n - (i + 1), by omega⟩
  rw [show (i + 1 + r) * w = w * i + (w + w * r) by ring, Nat.pow_add, Nat.mod_mul_right_div_self, Nat.pow_add, Nat.mod_mul_right_mod, Nat.div_div_eq_div_mul,
    ← Nat.pow_add]
  congr 3
  ring

theorem slot_of_lt {w i n x : Nat} (h : n ≤ i) (hx : x < 2 ^ (n * w)) : slot w i x = 0 := by
  rw [slot_eq, Nat.div_eq_of_lt (Nat.lt_of_lt_of_le hx (Nat.pow_le_pow_right (by decide) (by rw [Nat.mul_comm]; exact Nat.mul_le_mul_left w h))), Nat.zero_mod]

theorem groupImg_lt (h : Hart) (cap r n : Nat) : groupImg h cap r n < 2 ^ (cap * n) := by
  induction n with
  | zero => simp [groupImg]
  | succ n ih =>
    have hv : (h.vreg (r + n)).valid % 2 ^ cap < 2 ^ cap := Nat.mod_lt _ (Nat.two_pow_pos cap)
    rw [groupImg, Nat.shiftLeft_eq, Nat.mul_succ, Nat.pow_add]
    generalize 2 ^ (cap * n) = m at *
    nlinarith

/-- An element of a group is an element of one of its registers (R12, R14). -/
theorem slot_groupImg (h : Hart) {w c : Nat} (hc : 0 < c) (r : Nat) {n e : Nat} (he : e < c * n) :
    slot w e (groupImg h (w * c) r n) = slot w (e % c) ((h.vreg (r + e / c)).valid % 2 ^ (w * c)) := by
  induction n with
  | zero => exact absurd he (by simp)
  | succ n ih =>
    rw [groupImg, Nat.shiftLeft_eq, show w * c * n = w * (c * n) by ring]
    rcases Nat.lt_or_ge e (c * n) with low | high
    · rw [slot_add_high low, ih low]
    · obtain ⟨i, rfl⟩ : ∃ i, e = c * n + i := ⟨e - c * n, by omega⟩
      have hi : i < c := by rw [Nat.mul_succ] at he; omega
      rw [slot_add_low (by rw [← Nat.mul_assoc]; exact groupImg_lt h (w * c) r n), Nat.mul_add_mod, Nat.mod_eq_of_lt hi, Nat.mul_add_div hc,
        Nat.div_eq_of_lt hi, Nat.add_zero]

/-- One register of a group as an instruction writes it (R15). -/
def writtenReg (cap fmt len img poison k : Nat) : VReg :=
  let w := elemWidth fmt
  let c := cap / w
  let share := min c (len - k * c)
  { img := bitsAt (cap * k) (share * w) img, fmt := BitVec.ofNat 5 fmt, vlen := share, dirty := true, prog := share, poison := bitsAt (c * k) share poison }

/-- A group written whole: each of its registers, and no other (R13, R15). -/
theorem vreg_writeGroup (h : Hart) (cap r fmt len img poison n q : Nat) (fits : r + n ≤ 32) :
    (writeGroup h cap r fmt len img poison n).vreg q = if r ≤ q ∧ q < r + n then writtenReg cap fmt len img poison (q - r) else h.vreg q := by
  induction n with
  | zero => rw [writeGroup, if_neg (by omega)]
  | succ n ih =>
    rw [writeGroup]
    rw [Hart.vreg_setV, ih (by omega)]
    by_cases last : q = r + n
    · subst last
      rw [if_pos ⟨rfl, by omega⟩, if_pos ⟨by omega, by omega⟩, Nat.add_sub_cancel_left]
      rfl
    · rw [if_neg (fun c => last c.1)]
      congr 1
      exact propext ⟨fun c => by omega, fun c => by omega⟩

theorem setV_frame (h : Hart) (r : Nat) (x : VReg) : ∃ v, h.setV r x = { h with v := v } := by
  unfold Hart.setV
  split
  · exact ⟨_, rfl⟩
  · exact ⟨h.v, rfl⟩

/-- Writing a group changes vector registers alone. -/
theorem writeGroup_frame (h : Hart) (cap r fmt len img poison n : Nat) :
    writeGroup h cap r fmt len img poison n = { h with v := (writeGroup h cap r fmt len img poison n).v } := by
  suffices some : ∃ v, writeGroup h cap r fmt len img poison n = { h with v := v } by
    obtain ⟨v, hv⟩ := some
    rw [hv]
  induction n with
  | zero => exact ⟨h.v, rfl⟩
  | succ n ih =>
    obtain ⟨v, hv⟩ := ih
    rw [writeGroup, hv]
    exact setV_frame { h with v := v } _ _

/-- An element of a register that an instruction has written (R14, R15). -/
theorem slot_writtenReg {w c : Nat} (fmt len img poison k i : Nat) (hw : elemWidth fmt = w) (hf : fmt < 32) (hc : 0 < c) (hi : i < c) :
    slot w i ((writtenReg (w * c) fmt len img poison k).valid % 2 ^ (w * c)) = if k * c + i < len then slot w (k * c + i) img else 0 := by
  have hw0 : 0 < w := hw ▸ elemWidth_pos fmt
  have tag : (BitVec.ofNat 5 fmt).toNat = fmt := by rw [BitVec.toNat_ofNat, Nat.mod_eq_of_lt hf]
  have share : min c (len - k * c) ≤ c := Nat.min_le_left _ _
  have cut : (writtenReg (w * c) fmt len img poison k).valid % 2 ^ (w * c) = bitsAt (w * c * k) (min c (len - k * c) * w) img := by
    have lt := bitsAt_lt (w * c * k) (min c (len - k * c) * w) img
    have le : 2 ^ (min c (len - k * c) * w) ≤ 2 ^ (w * c) := Nat.pow_le_pow_right (by decide) (by rw [Nat.mul_comm w c]; exact Nat.mul_le_mul_right w share)
    simp only [VReg.valid, VReg.tagBits, writtenReg, hw, tag, Nat.mul_div_cancel_left c hw0]
    rw [Nat.mod_eq_of_lt lt, Nat.mod_eq_of_lt (Nat.lt_of_lt_of_le lt le)]
  rw [cut]
  by_cases inside : i < min c (len - k * c)
  · rw [slot_bitsAt img inside, if_pos (by omega)]
  · rw [slot_of_lt (Nat.le_of_not_lt inside) (bitsAt_lt _ _ _), if_neg (by omega)]

/-- A group written with packed elements holds them (R13 to R15). -/
theorem holdsGroup_written (s : State) {vd n fmt : Nat} (len : Nat) {val : Nat → Nat} (hf : fmt < 32) (fits : vd + n ≤ 32)
    (cut : ∀ e < len, val e < 2 ^ elemWidth fmt) :
    HoldsGroup s (writeGroup s.hart s.hart.capBits vd fmt len (pack (elemWidth fmt) len val) 0 n).v vd n fmt len val := by
  have regs (q : Nat) : ({ s.hart with v := (writeGroup s.hart s.hart.capBits vd fmt len (pack (elemWidth fmt) len val) 0 n).v } : Hart).vreg q
      = if vd ≤ q ∧ q < vd + n then writtenReg s.hart.capBits fmt len (pack (elemWidth fmt) len val) 0 (q - vd) else s.hart.vreg q := by
    rw [← writeGroup_frame]
    exact vreg_writeGroup s.hart s.hart.capBits vd fmt len (pack (elemWidth fmt) len val) 0 n q fits
  refine ⟨⟨fun e he => ?_, fun r hr lo hi => ?_⟩, fun r hr out => ?_⟩
  · have hw := elemWidth_pos fmt
    have cap := elemWidth_mul_div fmt s.hart
    have hc : 0 < s.hart.capBits / elemWidth fmt := Nat.div_pos (Nat.le_of_dvd (capBits_pos s.hart) (elemWidth_dvd_capBits fmt s.hart)) hw
    generalize s.hart.capBits / elemWidth fmt = c at cap hc
    rw [elemAt, if_pos he]
    generalize ({ s.hart with v := (writeGroup s.hart s.hart.capBits vd fmt len (pack (elemWidth fmt) len val) 0 n).v } : Hart) = h at regs
    rw [← cap] at he regs ⊢
    have inGroup : e < c * n := by
      rw [Nat.mul_comm (e + 1), Nat.mul_assoc] at he
      exact Nat.le_of_mul_le_mul_left he hw
    have reg : e / c < n := Nat.div_lt_of_lt_mul inGroup
    rw [slot_groupImg h hc vd inGroup, regs, if_pos ⟨Nat.le_add_right _ _, Nat.add_lt_add_left reg vd⟩, Nat.add_sub_cancel_left,
      slot_writtenReg fmt len _ 0 (e / c) (e % c) rfl hf hc (Nat.mod_lt e hc), Nat.mul_comm (e / c) c, Nat.div_add_mod, slot_pack]
    split
    · exact Nat.mod_eq_of_lt (cut e ‹_›)
    · rfl
  · rw [regs, if_pos ⟨lo, hi⟩]
    exact ⟨rfl, rfl, bitsAt_zero _ _, rfl, rfl⟩
  · rw [regs, if_neg (by omega)]

/-! ## Element-wise instructions on plain registers (R127, R150 to R153) -/

/-- No register holds a poisoned element. -/
def Clean (h : Hart) : Prop := ∀ r, r < 32 → (h.vreg r).poison = 0

theorem Clean.elemBad {h : Hart} (hc : Clean h) (cap r w e : Nat) : elemBad h cap r w e = false := by
  have none : (h.vreg (r + e * w / cap)).poison = 0 := by
    by_cases lt : r + e * w / cap < 32
    · exact hc _ lt
    · rw [Hart.vreg, dif_neg lt]; rfl
  simp only [Machine.elemBad, none, Nat.zero_mod, bitsAt_zero]
  rfl

theorem pack_zero (w n : Nat) {f : Nat → Nat} (h : ∀ e, f e = 0) : pack w n f = 0 := by
  obtain rfl : f = fun _ => 0 := funext h
  have zero (d base : Nat) : packPow w (fun _ => 0) d base = 0 := by
    induction d generalizing base with
    | zero => exact Nat.zero_mod _
    | succ d ih => rw [packPow, ih, ih]; simp
  unfold pack
  split
  · rfl
  · simp only [ite_self, zero]

theorem pack_congr {w n : Nat} {f g : Nat → Nat} (h : ∀ e < n, f e = g e) : pack w n f = pack w n g := by
  unfold pack
  split
  · rfl
  · congr 1
    funext i
    split
    · exact h i ‹_›
    · rfl

theorem firstFault_none {l : List Nat} {f : Nat → Option TrapReq} (h : ∀ e ∈ l, f e = none) : firstFault l f = none := by
  induction l with
  | nil => rfl
  | cons e l ih => rw [firstFault, h e List.mem_cons_self]; exact ih fun x hx => h x (List.mem_cons_of_mem _ hx)

/-- The elements that an element-wise instruction does when nothing stops it. -/
def ElemWise.done (j : ElemWise) (h : Hart) : List Nat := (List.range j.len).filter (fun e => decide (h.vri.toNat ≤ e) && j.act e)

/-- The value of element `e` after it. -/
def ElemWise.value (j : ElemWise) (h : Hart) (e : Nat) : Nat :=
  if h.vri.toNat ≤ e ∧ j.act e = true then cleanElem j.fmt (j.res h e).val else elemAt h h.capBits j.vd j.n (elemWidth j.fmt) e

theorem flagsOf_congr {l : List Nat} {f g : Nat → BitVec 7} (h : ∀ e ∈ l, f e = g e) : flagsOf l f = flagsOf l g := by
  unfold flagsOf
  exact List.foldl_ext _ _ _ fun a e he => by rw [h e he]

/-- The hart after an element-wise instruction has written its group. -/
def ElemWise.written (j : ElemWise) (h : Hart) : Hart := writeGroup h h.capBits j.vd j.fmt j.len (pack (elemWidth j.fmt) j.len (j.value h)) 0 j.n

/-- An element-wise instruction that nothing stops, on plain registers: each element done has its result, and the others stay (R127, R153). -/
theorem runElemWise_plain {s : State} {j : ElemWise} (hu : Unbound s.hart) (hc : Clean s.hart) (nofault : ∀ e ∈ j.done s.hart, j.fault e = none)
    (good : ∀ e ∈ j.done s.hart, (j.res s.hart e).consumes = false ∧ (j.res s.hart e).bad = false)
    (quiet : flagsOf (j.done s.hart) (fun e => (j.res s.hart e).flags) &&& PSN = 0)
    (touch : ((j.done s.hart).foldl j.touch s).hart = s.hart) (also : Unbound (j.also j.len (j.written s.hart))) :
    runElemWise j s = finishVec (flagsOf (j.done s.hart) (fun e => (j.res s.hart e).flags))
      (((j.done s.hart).foldl j.touch s).withHart (j.also j.len (j.written s.hart))) := by
  have todo : idxs j.len (fun e => decide (s.hart.env.vri ≤ e) && j.act e) = j.done s.hart := rfl
  have below : (j.done s.hart).filter (fun e => decide (e < j.len)) = j.done s.hart := by
    rw [List.filter_eq_self]
    intro e he
    exact decide_eq_true (List.mem_range.1 (List.mem_filter.1 he).1)
  have stop : firstFault (j.done s.hart) (fun e => earliest [readsFault s [] (fun r => j.reads r e) e, j.fault e,
      if e < s.hart.vlv then emitFault s none e else none, if s.hart.ptrap && (j.res s.hart e).consumes then some (poisonTrap e) else none]) = none := by
    refine firstFault_none fun e he => ?_
    rw [nofault e he, (good e he).1, Bool.and_false]
    split <;> rfl
  have flags : (j.done s.hart).foldl (fun a e => a ||| (j.res s.hart e).flags ||| flagIf (j.res s.hart e).consumes PSN) 0
      = flagsOf (j.done s.hart) (fun e => (j.res s.hart e).flags) :=
    List.foldl_ext _ _ _ fun a e he => by rw [(good e he).1]; exact BitVec.or_zero
  unfold runElemWise
  rw [hu.readySources]
  dsimp only
  rw [todo, hu.storeBinding, stop]
  dsimp only
  rw [below, flags]
  have psn : (flagsOf (j.done s.hart) (fun e => (j.res s.hart e).flags) &&& PSN != 0) = false := by rw [quiet]; rfl
  have isDone (e : Nat) (he : e < j.len) : (decide (e < j.len) && decide (s.hart.env.vri ≤ e) && j.act e) = decide (s.hart.vri.toNat ≤ e ∧ j.act e = true) := by
    rw [decide_eq_true he, Bool.true_and, Bool.decide_and, Bool.decide_eq_true]
    rfl
  have image : pack (elemWidth j.fmt) j.len (fun e => if decide (e < j.len) && decide (s.hart.env.vri ≤ e) && j.act e then cleanElem j.fmt (j.res s.hart e).val
      else elemAt s.hart s.hart.env.cap j.vd j.n (elemWidth j.fmt) e) = pack (elemWidth j.fmt) j.len (j.value s.hart) := by
    refine pack_congr fun e he => ?_
    rw [isDone e he]
    exact if_congr decide_eq_true_iff rfl rfl
  have marks : pack 1 j.len (fun e => if decide (e < j.len) && decide (s.hart.env.vri ≤ e) && j.act e then (if (j.res s.hart e).bad then 1 else 0)
      else if elemBad s.hart s.hart.env.cap j.vd (elemWidth j.fmt) e then 1 else 0) = 0 := by
    rw [pack_congr (g := fun _ => 0) fun e he => ?_, pack_zero 1 j.len fun _ => rfl]
    rw [isDone e he, hc.elemBad]
    split
    · next done => 
      rw [(good e (List.mem_filter.2 ⟨List.mem_range.2 he, by rw [← Bool.decide_eq_true (b := j.act e), ← Bool.decide_and]; exact done⟩)).2]
      rfl
    · rfl
  rw [psn]
  show finishVec _ (((j.done s.hart).foldl j.touch s).withHart (advanceStore (j.also j.len (writeGroup ((j.done s.hart).foldl j.touch s).hart s.hart.env.cap j.vd j.fmt j.len
    (pack _ j.len _) (pack _ j.len _) j.n)) j.vd s.hart.vlv)) = _
  rw [image, marks, touch]
  exact congrArg (fun h => finishVec _ (State.withHart _ h)) (also.advanceStore j.vd s.hart.vlv)

open Sys2Proof.Claim

theorem elemAt_lt (h : Hart) (cap r n w e : Nat) : elemAt h cap r n w e < 2 ^ w := by
  unfold elemAt
  split
  · exact slot_lt _ _ _
  · exact Nat.two_pow_pos w

theorem cleanElem_lt (fmt v : Nat) : cleanElem fmt v < 2 ^ elemWidth fmt := by
  unfold cleanElem
  split
  · next six =>
    have eight : elemWidth fmt = 8 := by
      unfold memWidth at six
      split at six
      · rfl
      · rfl
      · rfl
      · rfl
      · rcases elemWidth_cases fmt with h | h | h | h | h <;> omega
    rw [eight]
    omega
  · exact Nat.mod_lt _ (Nat.two_pow_pos _)

/-- Where elements have whole bytes, what a register keeps of a value is its low bits (R46). -/
theorem cleanElem_eq {fmt : Nat} (whole : memWidth fmt ≠ 6) (v : Nat) : cleanElem fmt v = lowBits (elemWidth fmt) v := if_neg whole

theorem Unbound.written {h : Hart} (hu : Unbound h) (j : ElemWise) : Unbound (j.written h) := by
  unfold Unbound ElemWise.written
  rw [writeGroup_frame]
  exact hu

/-- A vector instruction that has written vector registers alone completes. -/
theorem finishVec_v {s : State} {fl : BitVec 7} {h : Hart} {v : Vector VReg 32} (steady : Steady s) (un : Unenabled fl s) (frame : h = { s.hart with v := v }) :
    finishVec fl (s.withHart h) = vecDone fl v s := by
  subst frame
  exact finishVec_steady (s := s.withHart { s.hart with v := v }) steady un

/-- An element-wise instruction that nothing stops, on plain registers, with no accesses of its own: the elements done have their results, the others stay, and
nothing else changes (R127, R150 to R153). -/
theorem runElemWise_done {s : State} {j : ElemWise} {fl : BitVec 7} (plain : PlainVec s) (hf : j.fmt < 32) (fits : j.vd + j.n ≤ 32)
    (own : j.fault = (fun _ => none) ∧ j.touch = (fun s _ => s) ∧ j.also = fun _ h => h)
    (good : ∀ e ∈ j.done s.hart, (j.res s.hart e).consumes = false ∧ (j.res s.hart e).bad = false)
    (flags : flagsOf (j.done s.hart) (fun e => (j.res s.hart e).flags) = fl) (quiet : fl &&& PSN = 0) (un : Unenabled fl s) :
    ∃ v, runElemWise j s = vecDone fl v s ∧ HoldsGroup s v j.vd j.n j.fmt j.len (j.value s.hart) := by
  obtain ⟨fault, touch, also⟩ := own
  obtain ⟨steady, -, -, hu, -, hc⟩ := plain
  have untouched : (j.done s.hart).foldl j.touch s = s := by
    rw [touch]
    exact List.foldl_fixed _
  refine ⟨(j.written s.hart).v, ?_, holdsGroup_written s j.len hf fits fun e _ => ?_⟩
  · rw [runElemWise_plain hu hc (fun e _ => by rw [fault]) good (flags.symm ▸ quiet) (congrArg State.hart untouched)
      (also.symm ▸ Unbound.written hu j), untouched, also, flags]
    exact finishVec_v steady un (writeGroup_frame _ _ _ _ _ _ _ _)
  · unfold ElemWise.value
    split
    · exact cleanElem_lt _ _
    · exact elemAt_lt _ _ _ _ _ _

/-- A group's contents are what its elements below the length are. -/
theorem holdsGroup_congr {s : State} {v : Vector VReg 32} {vd n fmt len : Nat} {f g : Nat → Nat} (h : ∀ e < len, f e = g e)
    (holds : HoldsGroup s v vd n fmt len f) : HoldsGroup s v vd n fmt len g := by
  obtain ⟨⟨elems, regs⟩, other⟩ := holds
  refine ⟨⟨fun e he => (elems e he).trans ?_, regs⟩, other⟩
  split
  · exact h e ‹_›
  · rfl

/-- The elements that an instruction of the mould does, in the words of the statements. -/
theorem mem_doneElems {s : State} {m : MaskField} {neg : Bool} {e : Nat} : e ∈ doneElems s m neg ↔ e < s.hart.vlv ∧ s.hart.vri.toNat ≤ e ∧ s.hart.selects m neg e = true := by
  unfold doneElems Does
  rw [List.mem_filter, List.mem_range, Bool.and_eq_true, Bool.and_eq_true, decide_eq_true_eq, decide_eq_true_eq]
  tauto

theorem done_eq_doneElems (h : Hart) (s : State) (hs : s.hart = h) (m : MaskField) (neg : Bool) :
    (List.range h.vlv).filter (fun e => decide (h.vri.toNat ≤ e) && h.selects m neg e) = doneElems s m neg := by
  subst hs
  refine List.filter_congr fun e he => ?_
  rw [Does, decide_eq_true (List.mem_range.1 he), Bool.true_and]

/-- The flags of some elements hold no bit that none of them raises. -/
theorem flagsOf_and {es : List Nat} {f : Nat → BitVec 7} {k : BitVec 7} (h : ∀ e ∈ es, f e &&& k = 0) : flagsOf es f &&& k = 0 := by
  have grow (a : BitVec 7) (ha : a &&& k = 0) : es.foldl (fun a e => a ||| f e) a &&& k = 0 := by
    induction es generalizing a with
    | nil => exact ha
    | cons e es ih =>
      refine ih (fun x hx => h x (List.mem_cons_of_mem _ hx)) _ ?_
      rw [BitVec.and_comm, BitVec.and_or_distrib_left, BitVec.and_comm k a, BitVec.and_comm k, ha, h e List.mem_cons_self]
      rfl
  exact grow 0 (BitVec.zero_and)

/-- The operand groups of an instruction of the mould stand where they may. -/
theorem groupsFit_arith {s : State} {vd a b : Reg} {vx : Bool} (fit : GroupsFit s (vd :: a :: if vx then [] else [b])) (sp : ArithSpec) :
    groupsFit (arithOps s.hart vd.toNat a.toNat b.toNat vx sp) = true := by
  unfold groupsFit
  rw [List.all_eq_true]
  intro o ho
  have dst := fit vd List.mem_cons_self
  have first := fit a (List.mem_cons_of_mem _ List.mem_cons_self)
  simp only [arithOps, List.mem_cons] at ho
  rcases ho with rfl | rfl | ho
  · exact dst
  · exact first
  · split at ho
    · next second =>
      obtain rfl := List.mem_singleton.1 ho
      obtain rfl : vx = false := by simpa using (Bool.and_eq_true _ _).mp second |>.2
      exact fit b (List.mem_cons_of_mem _ (List.mem_cons_of_mem _ List.mem_cons_self))
    · exact absurd ho List.not_mem_nil

theorem groupFits_le {r n comp : Nat} (h : groupFits r n comp = true) : r + n ≤ 32 := by
  have := of_decide_eq_true ((Bool.and_eq_true _ _).mp h).2
  omega

/-- One element of the mould on registers with no mark (R150 to R153). -/
theorem arithElem_clean {s : State} (hc : Clean s.hart) (hu : Unbound s.hart) (sp : ArithSpec) (rm vd a b : Nat) (x : Word) (vx : Bool) (e : Nat) :
    let h := s.hart
    let w := elemWidth h.fmt
    let r := sp.fn h.fmt rm (drawFor h rm 0 0 e) (elemAt h h.capBits a h.grp w e) (operandB h b x vx w e) (elemAt h h.capBits vd h.grp w e)
    arithElem s h sp rm (drawOrigin h vd) vd a b x vx e
      = { val := r.1, bad := false, consumes := false,
          flags := if elemValid h h.capBits a w e && (!sp.useB || vx || elemValid h h.capBits b w e) && (!sp.useD || elemValid h h.capBits vd w e) then r.2 else 0 } := by
  dsimp only
  unfold arithElem
  simp only [hc.elemBad, Bool.and_false, Bool.or_self, hu.drawOrigin]
  rfl

/-- What an instruction that runs as an element-wise one says of its elements (R150 to R153). -/
theorem elementWise_of_clean {s : State} {i : Instr} {vd : Reg} {m : MaskField} {neg : Bool} {fmt : Nat} {f : Nat → Nat × BitVec 7} {valid : Nat → Bool} (j : ElemWise)
    (plain : PlainVec s) (runs : exec i s = .next (runElemWise j s)) (shape : j.vd = vd.toNat ∧ j.n = s.hart.grp ∧ j.fmt = fmt ∧ j.len = s.hart.vlv)
    (own : j.fault = (fun _ => none) ∧ j.touch = (fun s _ => s) ∧ j.also = fun _ h => h) (acts : ∀ e, j.act e = s.hart.selects m neg e)
    (elem : ∀ e, j.res s.hart e = { val := (f e).1, bad := false, consumes := false, flags := if valid e then (f e).2 else 0 })
    (hf : fmt < 32) (clean : ∀ e, cleanElem fmt (f e).1 = lowBits (elemWidth fmt) (f e).1) (fits : vd.toNat + s.hart.grp ≤ 32) (noPoison : ∀ e, (f e).2 &&& PSN = 0) : ElementWise i s vd m neg fmt f valid := by
  unfold ElementWise
  intro w fl un
  obtain ⟨dest, size, rfl, len⟩ := shape
  have done : j.done s.hart = doneElems s m neg := by
    rw [← done_eq_doneElems s.hart s rfl m neg, ElemWise.done, len]
    exact List.filter_congr fun e _ => by rw [acts]
  have flags : flagsOf (j.done s.hart) (fun e => (j.res s.hart e).flags) = fl := by
    rw [done]
    exact flagsOf_congr fun e _ => by rw [elem]
  have quiet : fl &&& PSN = 0 := flagsOf_and fun e _ => by
    split
    · exact noPoison e
    · rfl
  obtain ⟨v, ran, holds⟩ := runElemWise_done plain hf (by rw [dest, size]; exact fits) own (fun e _ => by rw [elem]; exact ⟨rfl, rfl⟩) flags quiet un
  rw [dest, size, len] at holds
  refine ⟨v, runs.trans (congrArg Host.Outcome.next ran), holdsGroup_congr (fun e he => ?_) holds⟩
  rw [ElemWise.value, elem e, acts e, Does, decide_eq_true he, Bool.true_and, dest, size]
  refine if_congr ?_ (clean e) rfl
  rw [Bool.and_eq_true, decide_eq_true_eq]

/-- The same under a format whose elements fill their registers' places. -/
theorem elementWise_of_run {s : State} {i : Instr} {vd : Reg} {m : MaskField} {neg : Bool} {fmt : Nat} {f : Nat → Nat × BitVec 7} {valid : Nat → Bool} (j : ElemWise)
    (plain : PlainVec s) (runs : exec i s = .next (runElemWise j s)) (shape : j.vd = vd.toNat ∧ j.n = s.hart.grp ∧ j.fmt = fmt ∧ j.len = s.hart.vlv)
    (own : j.fault = (fun _ => none) ∧ j.touch = (fun s _ => s) ∧ j.also = fun _ h => h) (acts : ∀ e, j.act e = s.hart.selects m neg e)
    (elem : ∀ e, j.res s.hart e = { val := (f e).1, bad := false, consumes := false, flags := if valid e then (f e).2 else 0 })
    (hf : fmt < 32) (whole : memWidth fmt ≠ 6) (fits : vd.toNat + s.hart.grp ≤ 32) (noPoison : ∀ e, (f e).2 &&& PSN = 0) : ElementWise i s vd m neg fmt f valid :=
  elementWise_of_clean j plain runs shape own acts elem hf (fun _ => cleanElem_eq whole _) fits noPoison

/-- An instruction of the mould on plain registers (R150 to R153). -/
theorem vecArith_elementWise {s : State} {i : Instr} {vd a b : Reg} {m : MaskField} {neg vx : Bool} {sp : ArithSpec} {rm : Nat} (valid : Nat → Bool) (f : Nat → Nat × BitVec 7)
    (runs : exec i s = vecArith i vd a b m neg vx sp s) (wf : wellFormed i = true) (plain : PlainVec s) (accept : sp.accept s.hart.fmt = true)
    (rounds : sp.rounds = true → s.hart.vrm ≠ none) (mode : s.hart.vrm.getD 0 = rm)
    (fit : groupsFit (arithOps s.hart vd.toNat a.toNat b.toNat vx sp) = true) (hf : sp.resFmt s.hart.fmt < 32) (whole : memWidth (sp.resFmt s.hart.fmt) ≠ 6)
    (result : ∀ e, sp.fn s.hart.fmt rm (drawFor s.hart rm 0 0 e) (elemOf s a (elemWidth s.hart.fmt) e) (operandOf s b vx (elemWidth s.hart.fmt) e)
      (elemOf s vd (elemWidth s.hart.fmt) e) = f e)
    (validity : ∀ e, (validOf s a (elemWidth s.hart.fmt) e && (!sp.useB || vx || validOf s b (elemWidth s.hart.fmt) e)
      && (!sp.useD || validOf s vd (elemWidth s.hart.fmt) e)) = valid e)
    (noPoison : ∀ e, (f e).2 &&& PSN = 0) :
    ElementWise i s vd m neg (sp.resFmt s.hart.fmt) f valid := by
  obtain ⟨-, legal, still, unbound, -, clean⟩ := id plain
  have fitsD : vd.toNat + s.hart.grp ≤ 32 := groupFits_le (List.all_eq_true.1 fit { base := vd.toNat, n := s.hart.grp, comp := compCount s.hart.fmt, src := sp.useD, dst := true }
    (by unfold arithOps; exact List.mem_cons_self))
  refine elementWise_of_run {
    vd := vd.toNat, fmt := sp.resFmt s.hart.fmt, n := s.hart.grp, len := s.hart.vlv
    ops := arithOps s.hart vd.toNat a.toNat b.toNat vx sp
    act := fun e => s.hart.selects m neg e
    res := fun g e => arithElem s g sp (s.hart.vrm.getD 0) (drawOrigin s.hart vd.toNat) vd.toNat a.toNat b.toNat (s.getX b) vx e }
    plain ?_ ⟨rfl, rfl, rfl, rfl⟩ ⟨rfl, rfl, rfl⟩ (fun _ => rfl) (fun e => ?_) hf whole fitsD noPoison
  · rw [runs]
    unfold vecArith
    rw [checked_wellFormed wf, held_still still]
    dsimp only
    rw [Unbound.vecCheck unbound legal i fit accept rounds]
  · dsimp only
    rw [arithElem_clean clean unbound, mode, ← result e, ← validity e]
    rfl

open Sys2Proof.Claim

/-! ## Integer results (R41, R154) -/

theorem wrapOrSat_eq (sat : Bool) (w : Nat) (v : Int) : wrapOrSat sat w v = satWrap sat w v := by
  unfold wrapOrSat satWrap
  cases sat with
  | false => rfl
  | true =>
    have half : (0 : Int) < 2 ^ (w - 1) := by positivity
    generalize (2 ^ (w - 1) : Int) = k at half
    dsimp only
    rw [if_pos rfl, if_pos rfl]
    by_cases low : v < -k
    · have clamp : max (-k) (min (k - 1) v) = -k := by omega
      rw [if_pos low, clamp, if_neg (by omega)]
    · rw [if_neg low]
      by_cases high : v > k - 1
      · have clamp : max (-k) (min (k - 1) v) = k - 1 := by omega
        rw [if_pos high, clamp, if_neg (by omega)]
      · have clamp : max (-k) (min (k - 1) v) = v := by omega
        rw [if_neg high, clamp, if_pos rfl]

theorem satWrap_quiet (sat : Bool) (w : Nat) (v : Int) : (satWrap sat w v).2 &&& PSN = 0 := by
  unfold satWrap
  cases sat with
  | false =>
    show (0 : BitVec 7) &&& PSN = 0
    decide
  | true =>
    dsimp only
    rw [if_pos rfl]
    dsimp only
    split <;> decide

theorem intOf_eq (u : Bool) (w x : Nat) : intOf u w x = valueOf u w x := rfl

/-- A pattern's value wraps back to it (R41). -/
theorem wrapInt_valueOf (u : Bool) {w x : Nat} (h : x < 2 ^ w) : wrapInt w (valueOf u w x) = x := by
  cases u with
  | false => exact toSigned_emod_self h
  | true =>
    show wrapInt w ((x % 2 ^ w : Nat) : Int) = x
    rw [wrapInt, Nat.mod_eq_of_lt h, ← Int.natCast_emod, Int.toNat_natCast, Nat.mod_eq_of_lt h]

/-- The high half of a product (R154). -/
theorem wrapInt_high (w : Nat) (v : Int) : wrapInt (2 * w) v >>> w = wrapInt w (v / 2 ^ w) := by
  have pos : (0 : Int) < 2 ^ w := by positivity
  have square : ((2 ^ (2 * w) : Nat) : Int) = 2 ^ w * 2 ^ w := by push_cast; rw [two_mul, pow_add]
  have single : ((2 ^ w : Nat) : Int) = 2 ^ w := by push_cast; rfl
  have high : v % (2 ^ w * 2 ^ w) / 2 ^ w = v / 2 ^ w % 2 ^ w := by
    have parts : v = v % (2 ^ w * 2 ^ w) + 2 ^ w * (2 ^ w * (v / (2 ^ w * 2 ^ w))) := by
      rw [← mul_assoc]
      exact (Int.emod_add_mul_ediv v _).symm
    have small : v % (2 ^ w * 2 ^ w) / 2 ^ w < 2 ^ w := Int.ediv_lt_of_lt_mul pos (Int.emod_lt_of_pos v (Int.mul_pos pos pos))
    have nonneg : 0 ≤ v % (2 ^ w * 2 ^ w) / 2 ^ w := Int.ediv_nonneg (Int.emod_nonneg v (Int.mul_pos pos pos).ne') pos.le
    conv_rhs => rw [parts, Int.add_mul_ediv_left _ _ pos.ne', Int.add_mul_emod_self_left, Int.emod_eq_of_lt nonneg small]
  rw [wrapInt, wrapInt, square, single, ← high, Nat.shiftRight_eq_div_pow]
  obtain ⟨n, hn⟩ := Int.eq_ofNat_of_zero_le (Int.emod_nonneg v (Int.mul_pos pos pos).ne')
  rw [hn, ← single, ← Int.natCast_ediv, Int.toNat_natCast, Int.toNat_natCast]

theorem intQuot_eq (u : Bool) {w x y : Nat} (hx : x < 2 ^ w) (hy : y < 2 ^ w) :
    intQuot w (!u) x y = if y = 0 then 2 ^ w - 1 else wrapInt w ((valueOf u w x).tdiv (valueOf u w y)) := by
  unfold intQuot
  rw [Nat.mod_eq_of_lt hx, Nat.mod_eq_of_lt hy]
  refine if_congr Iff.rfl rfl ?_
  cases u with
  | false => rfl
  | true =>
    show x / y = wrapInt w (((x % 2 ^ w : Nat) : Int).tdiv ((y % 2 ^ w : Nat) : Int))
    rw [Nat.mod_eq_of_lt hx, Nat.mod_eq_of_lt hy, ← Int.ofNat_tdiv, wrapInt, ← Int.natCast_emod, Int.toNat_natCast, Nat.mod_eq_of_lt (Nat.lt_of_le_of_lt (Nat.div_le_self x y) hx)]

theorem intRem_eq (u : Bool) {w x y : Nat} (hx : x < 2 ^ w) (hy : y < 2 ^ w) :
    intRem w (!u) x y = if y = 0 then x else wrapInt w ((valueOf u w x).tmod (valueOf u w y)) := by
  unfold intRem
  rw [Nat.mod_eq_of_lt hx, Nat.mod_eq_of_lt hy]
  refine if_congr Iff.rfl rfl ?_
  cases u with
  | false => rfl
  | true =>
    show x % y = wrapInt w (((x % 2 ^ w : Nat) : Int).tmod ((y % 2 ^ w : Nat) : Int))
    rw [Nat.mod_eq_of_lt hx, Nat.mod_eq_of_lt hy, ← Int.ofNat_tmod, wrapInt, ← Int.natCast_emod, Int.toNat_natCast, Nat.mod_eq_of_lt (Nat.lt_of_le_of_lt (Nat.mod_le x y) hx)]

theorem min_valueOf (u : Bool) {w x y : Nat} (hx : x < 2 ^ w) (hy : y < 2 ^ w) :
    (if intOf u w x ≤ intOf u w y then x else y) = wrapInt w (min (valueOf u w x) (valueOf u w y)) := by
  split
  · next le => rw [min_eq_left (intOf_eq u w x ▸ intOf_eq u w y ▸ le), wrapInt_valueOf u hx]
  · next gt => rw [min_eq_right (by rw [← intOf_eq, ← intOf_eq]; omega), wrapInt_valueOf u hy]

theorem max_valueOf (u : Bool) {w x y : Nat} (hx : x < 2 ^ w) (hy : y < 2 ^ w) :
    (if intOf u w x ≤ intOf u w y then y else x) = wrapInt w (max (valueOf u w x) (valueOf u w y)) := by
  split
  · next le => rw [max_eq_right (intOf_eq u w x ▸ intOf_eq u w y ▸ le), wrapInt_valueOf u hy]
  · next gt => rw [max_eq_left (by rw [← intOf_eq, ← intOf_eq]; omega), wrapInt_valueOf u hx]

theorem operandOf_lt (s : State) (b : Reg) (vx : Bool) (w e : Nat) : operandOf s b vx w e < 2 ^ w := by
  unfold operandOf
  split
  · exact Nat.mod_lt _ (Nat.two_pow_pos w)
  · exact elemAt_lt _ _ _ _ _ _

theorem negOk_of {m : MaskField} {neg : Bool} (h : neg = true → m ≠ 0) : negOk m neg = true := by
  cases neg with
  | false => rfl
  | true => exact bne_iff_ne.2 (h rfl)

theorem memWidth_int {f : Nat} (h : f < 8) : memWidth f ≠ 6 := by
  have all : ∀ g : Fin 8, memWidth g ≠ 6 := by decide
  exact all ⟨f, h⟩

/-! ## The instructions -/

/-- An integer instruction of the mould on plain registers: what its operation gives of patterns of the element width (R150 to R154). -/
theorem vecInt_elementWise {s : State} (i : Instr) {vd a b : Reg} {m : MaskField} {neg vx : Bool} (fn g : Nat → Nat → Nat → Nat × BitVec 7)
    (runs : exec i s = vecArith i vd a b m neg vx (intSpec fn) s) (wf : wellFormed i = true) (plain : PlainVec s) (int : s.hart.fmt < 4)
    (fit : GroupsFit s (vd :: a :: if vx then [] else [b])) (agree : ∀ w x y, x < 2 ^ w → y < 2 ^ w → fn w x y = g w x y) (quiet : ∀ w x y, (g w x y).2 &&& PSN = 0) :
    let w := elemWidth s.hart.fmt
    ElementWise i s vd m neg s.hart.fmt (fun e => g w (elemOf s a w e) (operandOf s b vx w e)) (fun e => validOf s a w e && (vx || validOf s b w e)) :=
  vecArith_elementWise _ _ runs wf plain (decide_eq_true int) (fun c => absurd c Bool.false_ne_true) rfl (groupsFit_arith fit (intSpec fn)) (Nat.lt_trans int (by decide))
    (memWidth_int (Nat.lt_trans int (by decide))) (fun e => agree _ _ _ (elemAt_lt _ _ _ _ _ _) (operandOf_lt s b vx _ e))
    (fun e => by simp [intSpec]) (fun e => quiet _ _ _)

theorem quiet_zero (v : Nat) : ((v, (0 : BitVec 7)) : Nat × BitVec 7).2 &&& PSN = 0 := by
  show (0 : BitVec 7) &&& PSN = 0
  decide

section
variable {s : State} {vd a b : Reg} {m : MaskField} {neg vx : Bool} (md : Bool) (plain : PlainVec s) (masked : negOk m neg = true) (int : s.hart.fmt < 4)
  (fit : GroupsFit s (vd :: a :: if vx then [] else [b]))
include plain masked int fit

/-- The instructions with a modifier (R154). -/
theorem vecIntRows_elementWise : ∀ p ∈ vecIntRows, ElementWise (p.1 vd a b m neg md vx) s vd m neg s.hart.fmt
    (fun e => p.2 md (elemWidth s.hart.fmt) (elemOf s a (elemWidth s.hart.fmt) e) (operandOf s b vx (elemWidth s.hart.fmt) e))
    (fun e => validOf s a (elemWidth s.hart.fmt) e && (vx || validOf s b (elemWidth s.hart.fmt) e)) := by
  simp only [vecIntRows, List.forall_mem_cons]
  refine ⟨?add, ?sub, ?mul, ?mulh, ?div, ?rem, ?min, ?max, List.forall_mem_nil _⟩
  case add =>
    exact vecInt_elementWise (.vadd vd a b m neg md vx) (fun w x y => wrapOrSat md w (toSigned w x + toSigned w y)) (fun w x y => satWrap md w (toSigned w x + toSigned w y)) rfl masked plain int fit
      (fun _ _ _ _ _ => wrapOrSat_eq _ _ _) fun _ _ _ => satWrap_quiet _ _ _
  case sub =>
    exact vecInt_elementWise (.vsub vd a b m neg md vx) (fun w x y => wrapOrSat md w (toSigned w x - toSigned w y)) (fun w x y => satWrap md w (toSigned w x - toSigned w y)) rfl masked plain int fit
      (fun _ _ _ _ _ => wrapOrSat_eq _ _ _) fun _ _ _ => satWrap_quiet _ _ _
  case mul =>
    exact vecInt_elementWise (.vmul vd a b m neg md vx) (fun w x y => wrapOrSat md w (toSigned w x * toSigned w y)) (fun w x y => satWrap md w (toSigned w x * toSigned w y)) rfl masked plain int fit
      (fun _ _ _ _ _ => wrapOrSat_eq _ _ _) fun _ _ _ => satWrap_quiet _ _ _
  case mulh =>
    exact vecInt_elementWise (.vmulh vd a b m neg md vx) (fun w x y => (wrapInt (2 * w) (intOf md w x * intOf md w y) >>> w, 0)) (fun w x y => (wrapInt w (valueOf md w x * valueOf md w y / 2 ^ w), 0))
      rfl masked plain int fit (fun _ _ _ _ _ => Prod.ext (wrapInt_high _ _) rfl) fun _ _ _ => quiet_zero _
  case div =>
    exact vecInt_elementWise (.vdiv vd a b m neg md vx) (fun w x y => (intQuot w (!md) x y, 0)) (fun w x y => (if y = 0 then 2 ^ w - 1 else wrapInt w ((valueOf md w x).tdiv (valueOf md w y)), 0))
      rfl masked plain int fit (fun _ _ _ hx hy => Prod.ext (intQuot_eq md hx hy) rfl) fun _ _ _ => quiet_zero _
  case rem =>
    exact vecInt_elementWise (.vrem vd a b m neg md vx) (fun w x y => (intRem w (!md) x y, 0)) (fun w x y => (if y = 0 then x else wrapInt w ((valueOf md w x).tmod (valueOf md w y)), 0))
      rfl masked plain int fit (fun _ _ _ hx hy => Prod.ext (intRem_eq md hx hy) rfl) fun _ _ _ => quiet_zero _
  case min =>
    exact vecInt_elementWise (.vmin vd a b m neg md vx) (fun w x y => (if intOf md w x ≤ intOf md w y then x else y, 0)) (fun w x y => (wrapInt w (min (valueOf md w x) (valueOf md w y)), 0))
      rfl masked plain int fit (fun _ _ _ hx hy => Prod.ext (min_valueOf md hx hy) rfl) fun _ _ _ => quiet_zero _
  case max =>
    exact vecInt_elementWise (.vmax vd a b m neg md vx) (fun w x y => (if intOf md w x ≤ intOf md w y then y else x, 0)) (fun w x y => (wrapInt w (max (valueOf md w x) (valueOf md w y)), 0))
      rfl masked plain int fit (fun _ _ _ hx hy => Prod.ext (max_valueOf md hx hy) rfl) fun _ _ _ => quiet_zero _

/-- The instructions without one (R154). -/
theorem vecBitRows_elementWise : ∀ p ∈ vecBitRows, ElementWise (p.1 vd a b m neg vx) s vd m neg s.hart.fmt
    (fun e => (p.2 (elemWidth s.hart.fmt) (elemOf s a (elemWidth s.hart.fmt) e) (operandOf s b vx (elemWidth s.hart.fmt) e), 0))
    (fun e => validOf s a (elemWidth s.hart.fmt) e && (vx || validOf s b (elemWidth s.hart.fmt) e)) := by
  simp only [vecBitRows, List.forall_mem_cons]
  refine ⟨?and, ?or, ?xor, ?sll, ?srl, ?sra, List.forall_mem_nil _⟩
  case and =>
    exact vecInt_elementWise (.vand vd a b m neg vx) (fun _ x y => (x &&& y, 0)) (fun _ x y => (x &&& y, 0)) rfl masked plain int fit (fun _ _ _ _ _ => rfl) fun _ _ _ => quiet_zero _
  case or =>
    exact vecInt_elementWise (.vor vd a b m neg vx) (fun _ x y => (x ||| y, 0)) (fun _ x y => (x ||| y, 0)) rfl masked plain int fit (fun _ _ _ _ _ => rfl) fun _ _ _ => quiet_zero _
  case xor =>
    exact vecInt_elementWise (.vxor vd a b m neg vx) (fun _ x y => (x ^^^ y, 0)) (fun _ x y => (x ^^^ y, 0)) rfl masked plain int fit (fun _ _ _ _ _ => rfl) fun _ _ _ => quiet_zero _
  case sll =>
    exact vecInt_elementWise (.vsll vd a b m neg vx) (fun w x y => ((x <<< vshamt w y) % 2 ^ w, 0)) (fun w x y => (x * 2 ^ (y % w) % 2 ^ w, 0)) rfl masked plain int fit
      (fun w x _ _ _ => Prod.ext (congrArg (· % 2 ^ w) (Nat.shiftLeft_eq x _)) rfl) fun _ _ _ => quiet_zero _
  case srl =>
    exact vecInt_elementWise (.vsrl vd a b m neg vx) (fun w x y => (x >>> vshamt w y, 0)) (fun w x y => (x / 2 ^ (y % w), 0)) rfl masked plain int fit
      (fun _ x _ _ _ => Prod.ext (Nat.shiftRight_eq_div_pow x _) rfl) fun _ _ _ => quiet_zero _
  case sra =>
    exact vecInt_elementWise (.vsra vd a b m neg vx) (fun w x y => (wrapInt w (toSigned w x / 2 ^ vshamt w y), 0)) (fun w x y => (wrapInt w (toSigned w x / 2 ^ (y % w)), 0)) rfl masked plain int fit
      (fun _ _ _ _ _ => rfl) fun _ _ _ => quiet_zero _

end

/-- The groups of an instruction that reads no second operand. -/
theorem groupsFit_unary {s : State} {vd a b : Reg} {l : List Reg} (fit : GroupsFit s (vd :: a :: l)) {sp : ArithSpec} (one : sp.useB = false) :
    groupsFit (arithOps s.hart vd.toNat a.toNat b.toNat false sp) = true := by
  have dst := fit vd List.mem_cons_self
  have src := fit a (List.mem_cons_of_mem _ List.mem_cons_self)
  simp [groupsFit, arithOps, one, dst, src]

/-- R41, R150 to R154. -/
theorem vectorIntegers : Claim.VectorIntegers := by
  unfold Claim.VectorIntegers
  intro s vd a b m neg md vx plain masked int fit w x y valid
  have mask : negOk m neg = true := negOk_of masked
  refine ⟨vecIntRows_elementWise md plain mask int fit, vecBitRows_elementWise plain mask int fit, ?_⟩
  exact vecArith_elementWise (i := .vabs vd a m neg md) (b := 0) (vx := false) (sp := intSpec1 (fun w x => wrapOrSat md w (toSigned w x).natAbs)) _ _ rfl mask plain (decide_eq_true int)
    (fun c => absurd c Bool.false_ne_true) rfl (groupsFit_unary fit rfl) (Nat.lt_trans int (by decide))
    (memWidth_int (Nat.lt_trans int (by decide))) (fun _ => wrapOrSat_eq _ _ _) (fun e => by simp [intSpec1, w]) (fun _ => satWrap_quiet _ _ _)

open Sys2Proof.Claim

/-! ## Results in masks (R20, R155, R156) -/

/-- A mask written below a length (R20). -/
theorem testBit_mergeMask (old new len e : Nat) : (mergeMask old new len).testBit e = if e < len then new.testBit e else old.testBit e := by
  unfold mergeMask
  rw [Nat.shiftLeft_eq, Nat.mul_comm, Nat.testBit_two_pow_mul_add _ (Nat.mod_lt _ (Nat.two_pow_pos len)), Nat.testBit_mod_two_pow, Nat.testBit_shiftRight]
  split
  · simp [*]
  · rw [Nat.add_sub_cancel' (Nat.le_of_not_lt ‹_›)]

/-- The elements that a mask-writing instruction does when nothing stops it. -/
def MaskWise.done (j : MaskWise) (h : Hart) : List Nat := (List.range h.vlv).filter (fun e => decide (h.vri.toNat ≤ e) && j.act e)

/-- The mask it leaves. -/
def MaskWise.image (j : MaskWise) (h : Hart) : Nat :=
  mergeMask (h.mask j.md) (pack 1 h.vlv (fun e => if (if decide (h.vri.toNat ≤ e) && j.act e then (j.res h e).1 else (h.mask j.md).testBit e) then 1 else 0)) h.vlv

theorem testBit_image (j : MaskWise) (h : Hart) (e : Nat) : (j.image h).testBit e
    = if decide (e < h.vlv) && decide (h.vri.toNat ≤ e) && j.act e then (j.res h e).1 else (h.mask j.md).testBit e := by
  unfold MaskWise.image
  rw [testBit_mergeMask, testBit_pack_one]
  by_cases low : e < h.vlv
  · rw [if_pos low, decide_eq_true low, Bool.true_and, Bool.true_and]
    generalize (if (decide (h.vri.toNat ≤ e) && j.act e) = true then (j.res h e).1 else (h.mask j.md).testBit e) = b
    cases b <;> rfl
  · rw [if_neg low, decide_eq_false low]
    rfl

/-- A mask-writing instruction that nothing stops, on plain registers (R155, R156). -/
theorem runMaskWise_plain {s : State} {j : MaskWise} (hu : Unbound s.hart) (good : ∀ e ∈ j.done s.hart, (j.res s.hart e).2.2 = false) :
    runMaskWise j s = finishVec (flagsOf (j.done s.hart) (fun e => (j.res s.hart e).2.1)) (s.withHart (s.hart.setMask j.md (j.image s.hart))) := by
  have todo : idxs s.hart.vlv (fun e => decide (s.hart.env.vri ≤ e) && j.act e) = j.done s.hart := rfl
  have below : (j.done s.hart).filter (fun e => decide (e < s.hart.vlv)) = j.done s.hart := by
    rw [List.filter_eq_self]
    intro e he
    exact decide_eq_true (List.mem_range.1 (List.mem_filter.1 he).1)
  have stop : firstFault (j.done s.hart) (fun e => earliest [chunksFault s [] e, if s.hart.ptrap && (j.res s.hart e).2.2 then some (poisonTrap e) else none]) = none :=
    firstFault_none fun e he => by rw [good e he, Bool.and_false]; rfl
  have flags : (j.done s.hart).foldl (fun a e => a ||| (j.res s.hart e).2.1 ||| flagIf (j.res s.hart e).2.2 PSN) 0
      = flagsOf (j.done s.hart) (fun e => (j.res s.hart e).2.1) :=
    List.foldl_ext _ _ _ fun a e he => by rw [good e he]; exact BitVec.or_zero
  have bits : pack 1 s.hart.vlv (fun e => if (if decide (e < s.hart.vlv) && decide (s.hart.env.vri ≤ e) && j.act e then (j.res s.hart e).1 else (s.hart.mask j.md).testBit e) then 1 else 0)
      = pack 1 s.hart.vlv (fun e => if (if decide (s.hart.vri.toNat ≤ e) && j.act e then (j.res s.hart e).1 else (s.hart.mask j.md).testBit e) then 1 else 0) :=
    pack_congr fun e he => by rw [decide_eq_true he, Bool.true_and]; rfl
  unfold runMaskWise
  rw [hu.readySources]
  dsimp only
  rw [todo, stop]
  dsimp only
  rw [below, flags, bits]
  rfl

/-- What a mask-writing instruction on plain registers says of its mask (R20, R155, R156). -/
theorem maskWrites_of {s : State} {i : Instr} {md : Reg} {j : MaskWise} {fl : BitVec 7} (does f : Nat → Bool) (steady : Steady s) (hu : Unbound s.hart)
    (runs : exec i s = .next (runMaskWise j s)) (dest : j.md = md.toNat) (acts : ∀ e, (decide (e < s.hart.vlv) && decide (s.hart.vri.toNat ≤ e) && j.act e) = does e)
    (good : ∀ e, (j.res s.hart e).2.2 = false) (values : ∀ e, (j.res s.hart e).1 = f e) (flags : flagsOf (j.done s.hart) (fun e => (j.res s.hart e).2.1) = fl) :
    MaskWrites i s md does f fl := by
  intro un
  refine ⟨j.image s.hart, ?_, fun e => ?_⟩
  · have quiet : fl &&& (s.hart.setMask md.toNat (j.image s.hart)).enables = 0 := by
      unfold Hart.enables
      rw [Hart.setMask_frm]
      exact un
    rw [runs, runMaskWise_plain hu fun e _ => good e, flags, dest, finishVec_steady (setMask_steady steady _ _) quiet, State.withHart_hart, Hart.setMask_pc]
    rfl
  · rw [testBit_image, acts, values, dest]

/-- The groups of an instruction that writes a mask. -/
theorem groupsFit_sources {s : State} {vd a b : Reg} {vx : Bool} {sp : ArithSpec} (fit : GroupsFit s (a :: if vx then [] else [b])) (two : sp.useB = true) :
    groupsFit ((arithOps s.hart vd.toNat a.toNat b.toNat vx sp).drop 1) = true := by
  have first := fit a List.mem_cons_self
  cases vx with
  | true => simp [groupsFit, arithOps, two, first]
  | false =>
    have second := fit b (List.mem_cons_of_mem _ List.mem_cons_self)
    simp [groupsFit, arithOps, two, first, second]

/-- The groups of an instruction that writes a group from one or two. -/
theorem groupsFit_all {s : State} {vd a b : Reg} {vx : Bool} (fit : GroupsFit s (a :: if vx then [] else [b])) (dest : GroupsFit s [vd]) :
    GroupsFit s (vd :: a :: if vx then [] else [b]) := by
  intro r hr
  rcases List.mem_cons.1 hr with rfl | hr
  · exact dest r List.mem_cons_self
  · exact fit r hr

/-! ## Carries (R155) -/

/-- The sum or difference that VADC and VSBC take of element `e` (R155). -/
def carryTotal (s : State) (sub : Bool) (a b : Reg) (c : MaskField) (neg vx : Bool) (e : Nat) : Int :=
  let w := elemWidth s.hart.fmt
  let x : Int := elemOf s a w e
  let y : Int := operandOf s b vx w e
  let k : Int := carryIn s.hart c neg e
  if sub then x - y - k else x + y + k

/-- VADC and VSBC in the form that writes a group (R155). -/
theorem vecCarry_group {s : State} {i : Instr} {sub : Bool} {vd a b : Reg} {c : MaskField} {neg vx : Bool} (f : Nat → Nat × BitVec 7)
    (runs : exec i s = vecCarry i sub vd a b c neg false vx s) (wf : wellFormed i = true) (plain : PlainVec s) (int : s.hart.fmt < 4)
    (fit : GroupsFit s (vd :: a :: if vx then [] else [b])) (result : ∀ e, f e = (wrapInt (elemWidth s.hart.fmt) (carryTotal s sub a b c neg vx e), 0)) :
    ElementWise i s vd 0 false s.hart.fmt f (fun _ => true) := by
  obtain ⟨-, legal, still, unbound, -, clean⟩ := id plain
  have fits : groupsFit (arithOps s.hart vd.toNat a.toNat b.toNat vx (intSpec fun _ _ _ => (0, 0))) = true := groupsFit_arith fit _
  have bad (r w e : Nat) : elemBad s.hart s.hart.capBits r w e = false := Clean.elemBad clean _ _ _ _
  refine elementWise_of_run {
    vd := vd.toNat, fmt := s.hart.fmt, n := s.hart.grp, len := s.hart.vlv
    ops := arithOps s.hart vd.toNat a.toNat b.toNat vx (intSpec fun _ _ _ => (0, 0))
    act := fun _ => true
    res := fun g e =>
      if elemBad g s.hart.capBits a.toNat (elemWidth s.hart.fmt) e || (!vx && elemBad g s.hart.capBits b.toNat (elemWidth s.hart.fmt) e)
      then { val := poisonedBits s e, bad := true, flags := 0, consumes := true }
      else { val := wrapInt (elemWidth s.hart.fmt) (
              let x : Int := elemAt g s.hart.capBits a.toNat s.hart.grp (elemWidth s.hart.fmt) e
              let y : Int := operandB g b.toNat (s.getX b) vx (elemWidth s.hart.fmt) e
              let k : Int := carryIn s.hart c neg e
              if sub then x - y - k else x + y + k), bad := false, flags := 0, consumes := false } }
    plain ?_ ⟨rfl, rfl, rfl, rfl⟩ ⟨rfl, rfl, rfl⟩ (fun _ => rfl) (fun e => ?_) (Nat.lt_trans int (by decide)) (memWidth_int (Nat.lt_trans int (by decide)))
    (groupFits_le (fit vd List.mem_cons_self)) (fun e => by rw [result]; exact quiet_zero _)
  · rw [runs]
    unfold vecCarry
    rw [checked_wellFormed wf, held_still still]
    dsimp only
    rw [Unbound.vecCheck unbound legal i fits (decide_eq_true int) (fun c => absurd c Bool.false_ne_true)]
    rfl
  · dsimp only
    rw [bad, bad, Bool.and_false, result e]
    rfl

/-- VADC and VSBC in the form that writes a mask (R155). -/
theorem vecCarry_mask {s : State} {i : Instr} {sub : Bool} {md a b : Reg} {c : MaskField} {neg vx : Bool} (does f : Nat → Bool)
    (runs : exec i s = vecCarry i sub md a b c neg true vx s) (wf : wellFormed i = true) (plain : PlainVec s) (int : s.hart.fmt < 4)
    (fit : GroupsFit s (a :: if vx then [] else [b])) (acts : ∀ e, (decide (e < s.hart.vlv) && decide (s.hart.vri.toNat ≤ e)) = does e)
    (result : ∀ e, f e = if sub then decide (carryTotal s sub a b c neg vx e < 0) else decide (carryTotal s sub a b c neg vx e ≥ 2 ^ elemWidth s.hart.fmt)) :
    MaskWrites i s md does f 0 := by
  obtain ⟨steady, legal, still, unbound, -, clean⟩ := id plain
  have fits : groupsFit ((arithOps s.hart md.toNat a.toNat b.toNat vx (intSpec fun _ _ _ => (0, 0))).drop 1) = true := groupsFit_sources fit rfl
  have bad (r w e : Nat) : elemBad s.hart s.hart.capBits r w e = false := Clean.elemBad clean _ _ _ _
  refine maskWrites_of (j := {
    md := md.toNat, ops := (arithOps s.hart md.toNat a.toNat b.toNat vx (intSpec fun _ _ _ => (0, 0))).drop 1
    act := fun _ => true
    res := fun g e =>
      let total : Int :=
        let x : Int := elemAt g s.hart.capBits a.toNat s.hart.grp (elemWidth s.hart.fmt) e
        let y : Int := operandB g b.toNat (s.getX b) vx (elemWidth s.hart.fmt) e
        let k : Int := carryIn s.hart c neg e
        if sub then x - y - k else x + y + k
      if elemBad g s.hart.capBits a.toNat (elemWidth s.hart.fmt) e || (!vx && elemBad g s.hart.capBits b.toNat (elemWidth s.hart.fmt) e) then (false, 0, true)
      else (if sub then total < 0 else total ≥ 2 ^ elemWidth s.hart.fmt, 0, false) })
    does f steady unbound ?_ rfl (fun e => by rw [← acts, Bool.and_true]) (fun e => ?_) (fun e => ?_) ?_
  · rw [runs]
    unfold vecCarry
    rw [checked_wellFormed wf, held_still still]
    dsimp only
    rw [if_pos rfl, Unbound.vecCheck unbound legal i fits (decide_eq_true int) (fun c => absurd c Bool.false_ne_true)]
    rfl
  · dsimp only
    rw [bad, bad, Bool.and_false]
    rfl
  · dsimp only
    rw [bad, bad, Bool.and_false, result e]
    cases sub <;> rfl
  · dsimp only
    rw [flagsOf_congr (g := fun _ => 0) fun e _ => by rw [bad, bad, Bool.and_false]; rfl]
    exact List.foldl_fixed' (fun _ => BitVec.or_zero) _

/-! ## Compares (R156) -/

/-- A compare on plain registers (R156). -/
theorem vecCompare_mask {s : State} {i : Instr} {md a b : Reg} {m : MaskField} {accept : Nat → Bool} {fn : Nat → Nat → Nat → Bool × BitVec 7}
    (runs : exec i s = vecCompare i md a b m accept fn s) (wf : wellFormed i = true) (plain : PlainVec s) (accepted : accept s.hart.fmt = true) (fit : GroupsFit s [a, b]) :
    let w := elemWidth s.hart.fmt
    MaskWrites i s md (Does s m false) (fun e => (fn s.hart.fmt (elemOf s a w e) (elemOf s b w e)).1)
      (flagsOf (doneElems s m false) (fun e => if validOf s a w e && validOf s b w e then (fn s.hart.fmt (elemOf s a w e) (elemOf s b w e)).2 else 0)) := by
  intro w
  obtain ⟨steady, legal, still, unbound, -, clean⟩ := id plain
  have bad (r w e : Nat) : elemBad s.hart s.hart.capBits r w e = false := Clean.elemBad clean _ _ _ _
  let ops : List Opnd := [a.toNat, b.toNat].map (fun r => { base := r, n := s.hart.grp, comp := compCount s.hart.fmt, src := true, dst := false })
  have fits : groupsFit ops = true := by
    simp [groupsFit, ops, fit a List.mem_cons_self, fit b (List.mem_cons_of_mem _ List.mem_cons_self)]
  refine maskWrites_of (j := {
    md := md.toNat, ops := ops
    act := fun e => s.hart.selects m false e
    res := fun g e =>
      if elemBad g s.hart.capBits a.toNat w e || elemBad g s.hart.capBits b.toNat w e then (false, 0, true)
      else
        let r := fn s.hart.fmt (elemAt g s.hart.capBits a.toNat s.hart.grp w e) (elemAt g s.hart.capBits b.toNat s.hart.grp w e)
        (r.1, if elemValid g s.hart.capBits a.toNat w e && elemValid g s.hart.capBits b.toNat w e then r.2 else 0, false) })
    _ _ steady unbound ?_ rfl (fun e => rfl) (fun e => ?_) (fun e => ?_) ?_
  · rw [runs]
    unfold vecCompare
    rw [checked_wellFormed wf, held_still still]
    dsimp only
    rw [Unbound.vecCheck unbound legal i fits accepted (fun c => absurd c Bool.false_ne_true)]
    rfl
  · dsimp only
    rw [bad, bad]
    rfl
  · dsimp only
    rw [bad, bad]
    rfl
  · rw [← done_eq_doneElems s.hart s rfl m false]
    refine flagsOf_congr fun e _ => ?_
    dsimp only
    rw [bad, bad]
    rfl

theorem intCond_eq (c w x y : Nat) : intCond c w x y =
    match c with
    | 0 => decide (x = y) | 1 => decide (x ≠ y) | 2 => decide (toSigned w x < toSigned w y) | 3 => decide (toSigned w x ≥ toSigned w y)
    | 4 => decide (x < y) | 5 => decide (x ≥ y) | 6 => decide (toSigned w x ≤ toSigned w y) | _ => decide (x ≤ y) := by
  match c with
  | 0 => exact beq_eq_decide x y
  | 1 => simp [intCond, bne, beq_eq_decide]
  | 2 | 3 | 4 | 5 | 6 | n + 7 => rfl

/-- A compare on plain registers whose flags are none. -/
theorem maskWrites_congr {s : State} {i : Instr} {md : Reg} {does : Nat → Bool} {f g : Nat → Bool} {fl gl : BitVec 7} (h : MaskWrites i s md does f fl) (flags : fl = gl)
    (same : ∀ e, f e = g e) : MaskWrites i s md does g gl := by
  subst flags
  obtain rfl : f = g := funext same
  exact h

theorem flagsOf_zero (es : List Nat) : flagsOf es (fun _ => 0) = 0 := List.foldl_fixed' (fun _ => BitVec.or_zero) _

/-! ## Merges (R157) -/

/-- VMERGE on plain registers (R157). -/
theorem vmerge_holds {s : State} {vd a b : Reg} {m : MaskField} {neg vx : Bool} (plain : PlainVec s) (plainFmt : isBlock s.hart.fmt = false) (masked : m ≠ 0)
    (fit : GroupsFit s (vd :: a :: if vx then [] else [b])) :
    let w := elemWidth s.hart.fmt
    ∃ v, exec (.vmerge vd a b m neg vx) s = .next (vecDone 0 v s)
      ∧ HoldsGroup s v vd.toNat s.hart.grp s.hart.fmt s.hart.vlv (fun e =>
          if decide (e < s.hart.vlv) && decide (s.hart.vri.toNat ≤ e) then cleanElem s.hart.fmt (if s.hart.selects m neg e then operandOf s b vx w e else elemOf s a w e) else elemOf s vd w e) := by
  intro w
  obtain ⟨-, legal, still, unbound, -, clean⟩ := id plain
  have bad (r w e : Nat) : elemBad s.hart s.hart.capBits r w e = false := Clean.elemBad clean _ _ _ _
  let j : ElemWise := {
    vd := vd.toNat, fmt := s.hart.fmt, n := s.hart.grp, len := s.hart.vlv
    ops := arithOps s.hart vd.toNat a.toNat b.toNat vx (intSpec fun _ _ _ => (0, 0))
    act := fun _ => true
    res := fun g e =>
      if s.hart.selects m neg e then { val := operandB g b.toNat (s.getX b) vx w e, bad := !vx && elemBad g s.hart.capBits b.toNat w e, flags := 0, consumes := false }
      else { val := elemAt g s.hart.capBits a.toNat s.hart.grp w e, bad := elemBad g s.hart.capBits a.toNat w e, flags := 0, consumes := false } }
  have elem (e : Nat) : j.res s.hart e = { val := if s.hart.selects m neg e then operandOf s b vx w e else elemOf s a w e, bad := false, flags := 0, consumes := false } := by
    show (if s.hart.selects m neg e then _ else _) = _
    rw [bad, bad, Bool.and_false]
    split <;> rfl
  have none : Unenabled 0 s := BitVec.zero_and
  have flags : flagsOf (j.done s.hart) (fun e => (j.res s.hart e).flags) = 0 := by
    rw [flagsOf_congr (g := fun _ => 0) fun e _ => by rw [elem], flagsOf_zero]
  obtain ⟨v, ran, holds⟩ := runElemWise_done (j := j) plain (by show s.hart.fmt < 32; exact (s.hart.vtype.extractLsb' 0 5).isLt) (groupFits_le (fit vd List.mem_cons_self)) ⟨rfl, rfl, rfl⟩
    (fun e _ => by rw [elem]; exact ⟨rfl, rfl⟩) flags BitVec.zero_and none
  refine ⟨v, ?_, holdsGroup_congr (fun e he => ?_) holds⟩
  · have fits : groupsFit (arithOps s.hart vd.toNat a.toNat b.toNat vx (intSpec fun _ _ _ => (0, 0))) = true := groupsFit_arith fit _
    refine congrArg Host.Outcome.next ?_
    rw [checked_wellFormed (i := .vmerge vd a b m neg vx) (bne_iff_ne.2 masked), held_still still]
    dsimp only
    rw [Unbound.vecCheck unbound legal (.vmerge vd a b m neg vx) fits (by rw [plainFmt]; rfl) (fun c => absurd c Bool.false_ne_true)]
    exact ran
  · rw [ElemWise.value, elem e, decide_eq_true he, Bool.true_and]
    refine if_congr ?_ rfl rfl
    rw [decide_eq_true_eq]
    exact ⟨And.left, fun le => ⟨le, rfl⟩⟩

/-- R20, R155 to R157. -/
theorem vectorCarriesComparesMerges : Claim.VectorCarriesComparesMerges := by
  unfold Claim.VectorCarriesComparesMerges
  intro s vd a b m neg vx c plain masked fit w x y all k
  have mask : negOk m neg = true := negOk_of masked
  have carry (e : Nat) : carryIn s.hart m neg e = k e := by
    unfold carryIn
    refine if_congr ?_ rfl rfl
    rw [beq_iff_eq]
  have sum (e : Nat) : carryTotal s false a b m neg vx e = ((x e + y e + k e : Nat) : Int) := by
    unfold carryTotal
    dsimp only
    rw [carry]
    push_cast
    rfl
  have difference (e : Nat) : carryTotal s true a b m neg vx e = (x e : Int) - y e - k e := by
    unfold carryTotal
    dsimp only
    rw [carry]
    rfl
  refine ⟨fun int dest => ⟨?_, ?_⟩, fun int maskDest => ⟨?_, ?_⟩, fun int maskDest vv => ?_, fun low high maskDest vv => ?_, fun plainFmt some dest => vmerge_holds plain plainFmt some (groupsFit_all fit dest)⟩
  · refine vecCarry_group _ rfl (by show (negOk m neg && true) = true; rw [mask]; rfl) plain int (groupsFit_all fit dest) fun e => Prod.ext ?_ rfl
    dsimp only
    rw [sum, wrapInt, ← Int.natCast_emod, Int.toNat_natCast]
  · refine vecCarry_group _ rfl (by show (negOk m neg && true) = true; rw [mask]; rfl) plain int (groupsFit_all fit dest) fun e => Prod.ext ?_ rfl
    dsimp only
    rw [difference]
  · refine vecCarry_mask _ _ rfl (by show (negOk m neg && maskReg vd) = true; rw [mask, maskDest]; rfl) plain int fit (fun _ => rfl) fun e => ?_
    rw [if_neg (by decide), sum]
    refine decide_eq_decide.2 ?_
    rw [ge_iff_le]
    exact_mod_cast Iff.rfl
  · refine vecCarry_mask _ _ rfl (by show (negOk m neg && maskReg vd) = true; rw [mask, maskDest]; rfl) plain int fit (fun _ => rfl) fun e => ?_
    rw [if_pos rfl, difference]
    exact decide_eq_decide.2 (by omega)
  · subst vv
    have holds := vecCompare_mask (i := .vcmp vd a b m c) (accept := isInt) (fn := fun f x y => (intCond c.toNat (elemWidth f) x y, 0)) rfl maskDest plain (decide_eq_true int) fit
    refine maskWrites_congr holds ?_ fun e => intCond_eq _ _ _ _
    rw [flagsOf_congr (g := fun _ => 0) fun e _ => ite_self _, flagsOf_zero]
  · subst vv
    exact vecCompare_mask (i := .vfcmp vd a b m c) (accept := isFloat) (fn := fun f x y => fpCond c.toNat f x y) rfl maskDest plain (by show (decide (4 ≤ s.hart.fmt) && decide (s.hart.fmt ≤ 7)) = true; rw [decide_eq_true low, decide_eq_true (Nat.le_of_lt_succ high)]; rfl) fit

/-- Settles O34: the integer element-wise instructions, carries, compares and merges. -/
theorem vectorIntegerResults : Obligations.VectorIntegerResults := ⟨vectorIntegers, vectorCarriesComparesMerges⟩

end Sys2Proof.Machine

namespace Sys2Proof.Machine
/-! # Element-wise vector floating point (R158, R159) -/

open Sys2Proof.Claim

/-! ## Floating-point operations never raise PSN (R71, R153) -/

/-- A set of flags without PSN. -/
def Quiet (fl : BitVec 7) : Prop := fl &&& PSN = 0

theorem quiet_zero' : Quiet 0 := by unfold Quiet; decide
theorem quiet_NX : Quiet NX := by unfold Quiet; decide
theorem quiet_UF : Quiet UF := by unfold Quiet; decide
theorem quiet_DZ : Quiet DZ := by unfold Quiet; decide
theorem quiet_NV : Quiet NV := by unfold Quiet; decide
theorem quiet_SAT : Quiet SAT := by unfold Quiet; decide
theorem quiet_overflow : Quiet (OF ||| NX) := by unfold Quiet; decide

theorem Quiet.or {a b : BitVec 7} (ha : Quiet a) (hb : Quiet b) : Quiet (a ||| b) := by
  unfold Quiet at *
  rw [BitVec.and_comm, BitVec.and_or_distrib_left, BitVec.and_comm PSN a, BitVec.and_comm PSN b, ha, hb]
  rfl

theorem Quiet.flagIf {a : BitVec 7} (ha : Quiet a) (c : Bool) : Quiet (flagIf c a) := by
  cases c
  · exact quiet_zero'
  · exact ha

theorem quiet_flagIf_NV (c : Bool) : Quiet (flagIf c NV) := quiet_NV.flagIf c

theorem quiet_ite {c : Prop} [Decidable c] {x y : Nat × BitVec 7} (hx : Quiet x.2) (hy : Quiet y.2) : Quiet (if c then x else y).2 := by
  split
  · exact hx
  · exact hy

theorem overflowTo_quiet (f rm : Nat) (sat neg : Bool) : Quiet (overflowTo f rm sat neg).2 := by
  unfold overflowTo
  dsimp only
  split
  · exact quiet_SAT.or quiet_NX
  · exact quiet_overflow

theorem roundFin_quiet (f rm : Nat) (sat : Bool) (z : Nat) (neg : Bool) (m : Nat) (e : Int) (more : Bool) : Quiet (roundFin f rm sat z neg m e more).2 := by
  unfold roundFin
  split
  · exact quiet_zero'
  · exact quiet_ite (overflowTo_quiet _ _ _ _) ((quiet_NX.flagIf _).or (quiet_UF.flagIf _))

/-- A rounding raises no PSN (R54). -/
theorem roundVal_quiet (f rm : Nat) (sat : Bool) (z : Nat) (v : Val) : Quiet (roundVal f rm sat z v).2 := by
  unfold roundVal
  split
  · dsimp only
    split
    · exact quiet_NV
    · exact quiet_zero'
  · split
    · exact quiet_zero'
    · split
      · exact quiet_SAT
      · exact quiet_NV
    · exact quiet_SAT
  · exact roundFin_quiet _ _ _ _ _ _ _ _

theorem addVal_quiet (rm : Nat) (a b : Val) : Quiet (addVal rm a b).2 := by
  unfold addVal
  split
  · exact quiet_flagIf_NV _
  · exact quiet_flagIf_NV _
  · split
    · exact quiet_zero'
    · exact quiet_NV
  · exact quiet_zero'
  · exact quiet_zero'
  · split
    · exact quiet_zero'
    · dsimp only
      split <;> exact quiet_zero'

theorem mulVal_quiet (a b : Val) : Quiet (mulVal a b).2 := by
  unfold mulVal
  split
  · exact quiet_flagIf_NV _
  · exact quiet_flagIf_NV _
  · split
    · exact quiet_NV
    · exact quiet_zero'
  · split
    · exact quiet_NV
    · exact quiet_zero'
  · exact quiet_zero'

theorem divVal_quiet (a b : Val) : Quiet (divVal a b).2 := by
  unfold divVal
  split
  · exact quiet_flagIf_NV _
  · exact quiet_flagIf_NV _
  · exact quiet_NV
  · exact quiet_zero'
  · exact quiet_zero'
  · split
    · split
      · exact quiet_NV
      · exact quiet_DZ
    · exact quiet_zero'

theorem sqrtVal_quiet (a : Val) : Quiet (sqrtVal a).2 := by
  unfold sqrtVal
  split
  · exact quiet_flagIf_NV _
  · split
    · exact quiet_NV
    · exact quiet_zero'
  · split
    · exact quiet_zero'
    · split
      · exact quiet_NV
      · exact quiet_zero'

theorem fusedVal_quiet (rm : Nat) (a b c : Val) : Quiet (fusedVal rm a b c).2 := (mulVal_quiet a b).or (addVal_quiet rm _ c)

theorem roundOp_quiet (f rm : Nat) (sat : Bool) (z : Nat) {r : Val × BitVec 7} (h : Quiet r.2) : Quiet (roundOp f rm sat z r).2 := (roundVal_quiet f rm sat z r.1).or h

theorem fpMinMax_quiet (f : Nat) (wantMax : Bool) (x y : Nat) : Quiet (fpMinMax f wantMax x y).2 := by
  have flags : (fpMinMax f wantMax x y).2 = Machine.flagIf ((decodeVal f x).isSig || (decodeVal f y).isSig) NV := by
    unfold fpMinMax
    dsimp only
    split
    · rfl
    · split
      · rfl
      · split <;> rfl
  rw [flags]
  exact quiet_flagIf_NV _

/-- What the elementary functions raise of infinities, of zeros and of other numbers (R62). -/
theorem elementary_inf_quiet (op : Nat) (n : Bool) : Quiet (elementary op (.inf n)).2 := by
  unfold elementary
  dsimp only
  split
  · exact quiet_zero'
  · split
    · exact quiet_NV
    · exact quiet_zero'
  · exact quiet_zero'
  · split
    · exact quiet_NV
    · exact quiet_zero'
  · exact quiet_zero'

theorem elementary_fin_quiet (op : Nat) (n : Bool) (m : Nat) (e : Int) (s : Bool) : Quiet (elementary op (.fin n m e s)).2 := by
  unfold elementary
  dsimp only
  split
  · split
    · exact quiet_zero'
    · exact quiet_DZ
    · exact quiet_DZ
    · exact quiet_DZ
    · exact quiet_zero'
  · split
    · exact quiet_zero'
    · split
      · exact quiet_NV
      · split <;> exact quiet_zero'
    · exact quiet_zero'
    · split
      · exact quiet_NV
      · split <;> exact quiet_zero'
    · exact quiet_zero'

theorem elementary_quiet (op : Nat) (v : Val) : Quiet (elementary op v).2 := by
  cases v with
  | nan s => exact quiet_flagIf_NV s
  | inf n => exact elementary_inf_quiet op n
  | fin n m e s => exact elementary_fin_quiet op n m e s

/-! ## The instructions (R158, R159) -/

theorem float_lt {f : Nat} (float : isFloat f = true) : f < 8 := by
  unfold isFloat at float
  rw [Bool.and_eq_true, decide_eq_true_eq, decide_eq_true_eq] at float
  omega

section
variable {s : State} {vd a b : Reg} {m : MaskField} {neg vx : Bool} (plain : PlainVec s) (float : isFloat s.hart.fmt = true)
include plain float

/-- An operation that rounds (R61, R152, R158). -/
theorem vecFp_elementWise (i : Instr) {useB useD : Bool} {op : Nat → Val → Val → Val → Val × BitVec 7} {rm : Nat} (runs : exec i s = vecArith i vd a b m neg vx (fpSpec useB useD op) s)
    (wf : wellFormed i = true) (mode : s.hart.vrm = some rm) (fit : groupsFit (arithOps s.hart vd.toNat a.toNat b.toNat vx (fpSpec useB useD op)) = true)
    (quiet : ∀ x y z, Quiet (op rm x y z).2) :
    let f := s.hart.fmt
    let w := elemWidth f
    let draw (e : Nat) : Nat := if rm = 5 then drawZ s.hart.keySel (e % 2 ^ 48) 0 else 0
    ElementWise i s vd m neg f (fun e => roundOp f rm false (draw e) (op rm (decodeVal f (elemOf s a w e)) (decodeVal f (operandOf s b vx w e)) (decodeVal f (elemOf s vd w e))))
      (fun e => validOf s a w e && (!useB || vx || validOf s b w e) && (!useD || validOf s vd w e)) :=
  vecArith_elementWise (rm := rm) _ _ runs wf plain float (fun _ none => absurd (mode.symm.trans none) (by simp)) (by rw [mode]; rfl) fit (Nat.lt_trans (float_lt float) (by decide))
    (memWidth_int (float_lt float)) (fun e => by show roundOp _ _ _ (drawFor s.hart rm 0 0 e) _ = _; unfold drawFor; rw [Nat.zero_add])
    (fun _ => rfl) (fun _ => roundOp_quiet _ _ _ _ (quiet _ _ _))

/-- An operation that does not round (R152, R158). -/
theorem vecExact_elementWise (i : Instr) {useB : Bool} {res : Nat → Nat} {fn : Nat → Nat → Nat → Nat × BitVec 7} (runs : exec i s = vecArith i vd a b m neg vx (fpExact useB res fn) s)
    (wf : wellFormed i = true) (fit : groupsFit (arithOps s.hart vd.toNat a.toNat b.toNat vx (fpExact useB res fn)) = true) (hf : res s.hart.fmt < 8)
    (quiet : ∀ f x y, Quiet (fn f x y).2) :
    let f := s.hart.fmt
    let w := elemWidth f
    ElementWise i s vd m neg (res f) (fun e => fn f (elemOf s a w e) (operandOf s b vx w e)) (fun e => validOf s a w e && (!useB || vx || validOf s b w e)) :=
  vecArith_elementWise _ _ runs wf plain float (fun c => absurd c Bool.false_ne_true) rfl fit (Nat.lt_trans hf (by decide)) (memWidth_int hf) (fun _ => rfl)
    (fun _ => Bool.and_true _) (fun _ => quiet _ _ _)

end

section
variable {s : State} {vd a b : Reg} {m : MaskField} {neg vx : Bool} (plain : PlainVec s) (masked : negOk m neg = true) (float : isFloat s.hart.fmt = true)
  (fit : GroupsFit s (vd :: a :: if vx then [] else [b]))
include plain masked float fit

/-- The arithmetic of R158, which rounds. -/
theorem vecFpRows_elementWise {rm : Nat} (mode : s.hart.vrm = some rm) : ∀ p ∈ vecFpRows,
    let f := s.hart.fmt
    let w := elemWidth f
    let draw (e : Nat) : Nat := if rm = 5 then drawZ s.hart.keySel (e % 2 ^ 48) 0 else 0
    ElementWise (p.1 vd a b m neg vx) s vd m neg f
      (fun e => roundOp f rm false (draw e) (p.2.2 rm (decodeVal f (elemOf s a w e)) (decodeVal f (operandOf s b vx w e)) (decodeVal f (elemOf s vd w e))))
      (fun e => (validOf s a w e && (vx || validOf s b w e)) && (!p.2.1 || validOf s vd w e)) := by
  simp only [vecFpRows, List.forall_mem_cons]
  refine ⟨?add, ?sub, ?mul, ?div, ?ma, ?ms, ?nma, List.forall_mem_nil _⟩
  case add =>
    exact vecFp_elementWise plain float (.vfadd vd a b m neg vx) (useB := true) (useD := false) (op := fun c x y _ => addVal c x y) rfl masked mode (groupsFit_arith fit _)
      fun _ _ _ => addVal_quiet _ _ _
  case sub =>
    exact vecFp_elementWise plain float (.vfsub vd a b m neg vx) (useB := true) (useD := false) (op := fun c x y _ => addVal c x y.flip) rfl masked mode (groupsFit_arith fit _)
      fun _ _ _ => addVal_quiet _ _ _
  case mul =>
    exact vecFp_elementWise plain float (.vfmul vd a b m neg vx) (useB := true) (useD := false) (op := fun _ x y _ => mulVal x y) rfl masked mode (groupsFit_arith fit _)
      fun _ _ _ => mulVal_quiet _ _
  case div =>
    exact vecFp_elementWise plain float (.vfdiv vd a b m neg vx) (useB := true) (useD := false) (op := fun _ x y _ => divVal x y) rfl masked mode (groupsFit_arith fit _)
      fun _ _ _ => divVal_quiet _ _
  case ma =>
    exact vecFp_elementWise plain float (.vfma vd a b m neg vx) (useB := true) (useD := true) (op := fun c x y d => fusedVal c x y d) rfl masked mode (groupsFit_arith fit _)
      fun _ _ _ => fusedVal_quiet _ _ _ _
  case ms =>
    exact vecFp_elementWise plain float (.vfms vd a b m neg vx) (useB := true) (useD := true) (op := fun c x y d => fusedVal c x y d.flip) rfl masked mode (groupsFit_arith fit _)
      fun _ _ _ => fusedVal_quiet _ _ _ _
  case nma =>
    exact vecFp_elementWise plain float (.vfnma vd a b m neg vx) (useB := true) (useD := true) (op := fun c x y d => fusedVal c x.flip y d) rfl masked mode (groupsFit_arith fit _)
      fun _ _ _ => fusedVal_quiet _ _ _ _

end

theorem classFmt_eq (f : Nat) : classFmt f = if f = 4 then 3 else if f = 5 then 2 else 1 := by
  unfold classFmt
  split
  · rfl
  · rfl
  · next four five => rw [if_neg four, if_neg five]

theorem classFmt_le (f : Nat) : classFmt f ≤ 3 := by
  rw [classFmt_eq]
  split
  · exact le_rfl
  · split <;> decide

/-- Settles O35: the floating-point element-wise instructions. -/
theorem vectorFloats : Obligations.VectorFloats := by
  unfold Obligations.VectorFloats
  intro s vd a b m neg vx plain masked low high fit f w x y z ab
  have mask : negOk m neg = true := negOk_of masked
  have float : isFloat s.hart.fmt = true := by
    unfold isFloat
    rw [decide_eq_true low, decide_eq_true (Nat.le_of_lt_succ high)]
    rfl
  refine ⟨?rounded, ?min, ?max, ?cls, fun single => ?fns⟩
  case rounded =>
    intro rm mode draw
    refine ⟨vecFpRows_elementWise plain mask float fit mode, ?_⟩
    have holds := vecFp_elementWise plain float (.vfsqrt vd a m neg) (vd := vd) (a := a) (b := 0) (vx := false) (useB := false) (useD := false) (op := fun _ x _ _ => sqrtVal x)
      rfl mask mode (groupsFit_unary fit rfl) fun _ _ _ => sqrtVal_quiet _
    simp only [Bool.not_false, Bool.true_or, Bool.and_true] at holds
    exact holds
  case min =>
    exact vecExact_elementWise plain float (.vfmin vd a b m neg vx) (useB := true) (res := id) (fn := fun f x y => fpMinMax f false x y) rfl mask (groupsFit_arith fit _) high
      fun _ _ _ => fpMinMax_quiet _ _ _ _
  case max =>
    exact vecExact_elementWise plain float (.vfmax vd a b m neg vx) (useB := true) (res := id) (fn := fun f x y => fpMinMax f true x y) rfl mask (groupsFit_arith fit _) high
      fun _ _ _ => fpMinMax_quiet _ _ _ _
  case cls =>
    have holds := vecExact_elementWise plain float (.vfclass vd a m neg) (vd := vd) (a := a) (b := 0) (vx := false) (useB := false) (res := classFmt)
      (fn := fun f x _ => (2 ^ fpClass f x, 0)) rfl mask (groupsFit_unary fit rfl) (Nat.lt_of_le_of_lt (classFmt_le _) (by decide)) fun _ _ _ => quiet_zero'
    simp only [Bool.not_false, Bool.true_or, Bool.and_true] at holds
    rw [classFmt_eq] at holds
    exact holds
  case fns =>
    have accept : (s.hart.fmt == 5 || s.hart.fmt == 6) = true := by
      rcases single with h | h <;> rw [show s.hart.fmt = _ from h] <;> rfl
    have holds (i : Instr) (op : Nat) (runs : exec i s = vecArith i vd a 0 m neg false (elemSpec op) s) (wf : wellFormed i = true) :
        ElementWise i s vd m neg f (fun e => roundOp f 0 false 0 (elementary op (decodeVal f (x e)))) (validOf s a w) :=
      vecArith_elementWise _ _ runs wf plain accept (fun c => absurd c Bool.false_ne_true) rfl (groupsFit_unary fit rfl) (Nat.lt_trans high (by decide)) (memWidth_int high)
        (fun _ => rfl) (fun _ => Bool.and_true _ |>.trans (Bool.and_true _)) fun _ => roundOp_quiet _ _ _ _ (elementary_quiet _ _)
    simp only [elementaryRows, List.forall_mem_cons]
    exact ⟨holds _ 0 rfl mask, holds _ 1 rfl mask, holds _ 2 rfl mask, holds _ 3 rfl mask, holds _ 4 rfl mask, List.forall_mem_nil _⟩

end Sys2Proof.Machine

namespace Sys2Proof.Machine
/-! # Vector moves and slices (O36): moves, splats, slides, permutes, compression, rows and columns, retagging -/

open Sys2Proof.Claim

/-! ## Moves between plain registers (R141 to R143) -/

theorem fmt_lt (h : Hart) : h.fmt < 32 := (h.vtype.extractLsb' 0 5).isLt

theorem typeFits {s : State} {r : Reg} (fit : GroupsFit s [r]) (src dst : Bool) : groupsFit [typeOpnd s.hart r.toNat src dst] = true := by
  simp [groupsFit, typeOpnd, fit r List.mem_cons_self]

theorem groupsFit_cons (o : Opnd) (l : List Opnd) : groupsFit (o :: l) = (groupFits o.base o.n o.comp && groupsFit l) := rfl

/-- A move's element on registers with no mark (R141). -/
theorem groupElem_clean {s : State} (hc : Clean s.hart) (r : Reg) (w e : Nat) : groupElem s.hart r.toNat w e = (elemOf s r w e, false) := by
  unfold groupElem
  dsimp only
  rw [hc.elemBad]
  split
  · rfl
  · next out => rw [show elemOf s r w e = 0 from if_neg out]

/-- An element-wise run that raises no flag, whatever its format (R141, R157). -/
theorem run_moves {s : State} {vd : Reg} {len : Nat} (j : ElemWise) (val : Nat → Nat) (does : Nat → Bool) (plain : PlainVec s)
    (shape : j.vd = vd.toNat ∧ j.n = s.hart.grp ∧ j.fmt = s.hart.fmt ∧ j.len = len)
    (own : j.fault = (fun _ => none) ∧ j.touch = (fun s _ => s) ∧ j.also = fun _ h => h)
    (acts : ∀ e < len, (decide (s.hart.vri.toNat ≤ e) && j.act e) = does e)
    (elem : ∀ e, j.res s.hart e = { val := (j.res s.hart e).val, bad := false, flags := 0, consumes := false })
    (value : ∀ e < len, does e = true → cleanElem s.hart.fmt (j.res s.hart e).val = val e) (fits : vd.toNat + s.hart.grp ≤ 32) :
    ∃ v, runElemWise j s = vecDone 0 v s
      ∧ HoldsGroup s v vd.toNat s.hart.grp s.hart.fmt len (fun e => if does e then val e else elemOf s vd (elemWidth s.hart.fmt) e) := by
  obtain ⟨dest, size, format, length⟩ := shape
  have flags : flagsOf (j.done s.hart) (fun e => (j.res s.hart e).flags) = 0 := by
    rw [flagsOf_congr (g := fun _ => 0) fun e _ => by rw [elem], flagsOf_zero]
  obtain ⟨v, ran, holds⟩ := runElemWise_done plain (by rw [format]; exact fmt_lt s.hart) (by rw [dest, size]; exact fits) own
    (fun e _ => by rw [elem]; exact ⟨rfl, rfl⟩) flags BitVec.zero_and BitVec.zero_and
  rw [dest, size, format, length] at holds
  refine ⟨v, ran, holdsGroup_congr (fun e he => ?_) holds⟩
  rw [ElemWise.value, dest, size, format]
  have same : (s.hart.vri.toNat ≤ e ∧ j.act e = true) ↔ does e = true := by
    rw [← acts e he, Bool.and_eq_true, decide_eq_true_eq]
  by_cases on : does e = true
  · rw [if_pos (same.2 on), if_pos on]
    exact value e he on
  · rw [if_neg (fun c => on (same.1 c)), if_neg on]
    rfl

/-- An element-wise move on plain registers (R141, R142). -/
theorem vecMove_moves {s : State} {i : Instr} {vd : Reg} {srcs : List Opnd} {m : MaskField} {grant format : Hart → Bool} {res : Hart → Nat → Nat × Bool}
    {reads : Nat → Nat → List Nat} (val : Nat → Nat) (runs : exec i s = vecMove i vd srcs m grant format res s reads) (wf : wellFormed i = true) (plain : PlainVec s)
    (dest : GroupsFit s [vd]) (sources : groupsFit srcs = true) (granted : grant s.hart = true) (accepted : format s.hart = true)
    (clean : ∀ e, (res s.hart e).2 = false) (value : ∀ e, cleanElem s.hart.fmt (res s.hart e).1 = cleanElem s.hart.fmt (val e)) :
    ∃ v, exec i s = .next (vecDone 0 v s) ∧ HoldsGroup s v vd.toNat s.hart.grp s.hart.fmt s.hart.vlv
      (fun e => if Does s m false e then cleanElem s.hart.fmt (val e) else elemOf s vd (elemWidth s.hart.fmt) e) := by
  obtain ⟨-, legal, still, unbound, -, -⟩ := id plain
  have fits : groupsFit (typeOpnd s.hart vd.toNat false true :: srcs) = true := by
    rw [groupsFit_cons, sources, Bool.and_true]
    exact dest vd List.mem_cons_self
  let j : ElemWise := {
    vd := vd.toNat, fmt := s.hart.fmt, n := s.hart.grp, len := s.hart.vlv
    ops := typeOpnd s.hart vd.toNat false true :: srcs
    act := fun e => s.hart.selects m false e
    res := fun g e => moved (res g e).1 (res g e).2
    reads := reads }
  obtain ⟨v, ran, holds⟩ := run_moves j (fun e => cleanElem s.hart.fmt (val e)) (fun e => Does s m false e) plain ⟨rfl, rfl, rfl, rfl⟩ ⟨rfl, rfl, rfl⟩
    (fun e he => by rw [Does, decide_eq_true he, Bool.true_and]) (fun e => by show moved _ (res s.hart e).2 = _; rw [clean]; rfl)
    (fun e _ _ => value e) (groupFits_le (dest vd List.mem_cons_self))
  refine ⟨v, ?_, holds⟩
  rw [← ran, runs]
  unfold vecMove
  rw [checked_wellFormed wf, held_still still]
  dsimp only
  rw [Unbound.vecCheck unbound legal i (by rw [fits, granted]; rfl) accepted (fun c => absurd c Bool.false_ne_true)]

theorem cleanElem_mod {f : Nat} (whole : memWidth f ≠ 6) (v : Nat) : cleanElem f (v % 2 ^ elemWidth f) = cleanElem f v := by
  rw [cleanElem_eq whole, cleanElem_eq whole]
  exact Nat.mod_mod _ _

/-- How many bits below `n` are set. -/
theorem onesIn_eq (n x : Nat) : onesIn n x = ((List.range n).filter (fun k => x.testBit k)).length := by
  induction n generalizing x with
  | zero => rfl
  | succ n ih =>
    rw [onesIn, ih, List.range_succ_eq_map, List.filter_cons]
    have tail : ((List.map Nat.succ (List.range n)).filter (fun k => x.testBit k)).length = ((List.range n).filter (fun k => (x / 2).testBit k)).length := by
      rw [List.filter_map, List.length_map]
      simp only [Function.comp_def, Nat.testBit_succ]
    split
    · next odd =>
      rw [List.length_cons, tail]
      have : x % 2 = 1 := by rw [Nat.testBit_zero] at odd; exact of_decide_eq_true odd
      omega
    · next even =>
      rw [tail]
      have : x % 2 = 0 := by
        rw [Nat.testBit_zero, decide_eq_true_eq] at even
        omega
      omega

/-- Elements replaced in a group that holds no mark, by values without one. -/
theorem mergeImg_clean {h : Hart} (hc : Clean h) {r n w len : Nat} {v : Nat → Option (Nat × Bool)} (marks : ∀ e x, v e = some x → x.2 = false) :
    mergeImg h r n w len v = (pack w len (fun e => match v e with | some x => x.1 | none => elemAt h h.capBits r n w e), 0) := by
  unfold mergeImg
  congr 1
  refine pack_zero 1 len fun e => ?_
  rw [hc.elemBad]
  split
  · next x named => rw [marks e x named]; rfl
  · rfl

/-- VCOMPRESS from its first element on, on plain registers (R143). -/
theorem vcompress_packs {s : State} {vd a : Reg} {m : MaskField} (plain : PlainVec s) (notBlock : isBlock s.hart.fmt = false) (dest : GroupsFit s [vd])
    (fit : GroupsFit s [a]) (far : overlaps vd.toNat s.hart.grp a.toNat s.hart.grp = false) (fresh : s.hart.vri = 0) :
    ∃ v, exec (.vcompress vd a m) s = .next (vecDone 0 v s)
      ∧ HoldsGroup s v vd.toNat s.hart.grp s.hart.fmt ((List.range s.hart.vlv).filter (fun e => s.hart.selects m false e)).length
        (fun k => cleanElem s.hart.fmt (elemOf s a (elemWidth s.hart.fmt) (((List.range s.hart.vlv).filter (fun e => s.hart.selects m false e)).getD k 0))) := by
  obtain ⟨steady, legal, still, hu, -, clean⟩ := id plain
  have unbound : Unbound s.hart := hu
  have hc : Clean s.hart := clean
  have fits : groupsFit [typeOpnd s.hart vd.toNat false true, typeOpnd s.hart a.toNat true false] = true := by
    rw [groupsFit_cons, typeFits fit, Bool.and_true]
    exact dest vd List.mem_cons_self
  generalize chosen : (List.range s.hart.vlv).filter (fun e => s.hart.selects m false e) = act
  have all : idxs s.hart.vlv (fun e => s.hart.selects m false e) = act := chosen
  have fromStart : act.zipIdx.filter (fun p => decide (s.hart.vri.toNat ≤ p.1)) = act.zipIdx := by
    rw [List.filter_eq_self, fresh]
    exact fun p _ => decide_eq_true (Nat.zero_le _)
  have nothing {f : Nat × Nat → Option ((Nat × Nat) × TrapReq)} (h : ∀ p, f p = none) : act.zipIdx.findSome? f = none :=
    List.findSome?_eq_none_iff.2 fun p _ => h p
  let val (k : Nat) : Nat := cleanElem s.hart.fmt (elemOf s a (elemWidth s.hart.fmt) (act.getD k 0))
  refine ⟨(writeGroup s.hart s.hart.capBits vd.toNat s.hart.fmt act.length (pack (elemWidth s.hart.fmt) act.length val) 0 s.hart.grp).v, ?_,
    holdsGroup_written s act.length (fmt_lt s.hart) (groupFits_le (dest vd List.mem_cons_self)) fun e _ => cleanElem_lt _ _⟩
  refine congrArg Host.Outcome.next ((checked_wellFormed rfl s _).trans ?_)
  rw [held_still still]
  dsimp only
  rw [Unbound.vecCheck unbound legal _ (by rw [fits, far]; rfl) (by rw [plainFmt, notBlock]; rfl) (fun c => absurd c Bool.false_ne_true)]
  dsimp only
  rw [unbound.readySources]
  dsimp only
  rw [all, unbound.storeBinding, fromStart, nothing ?still]
  case still => exact fun _ => rfl
  dsimp only
  rw [mergeImg_clean hc (fun k x named => ?marks), pack_congr (g := val) fun k inside => ?value]
  case marks =>
    obtain rfl := Option.some.inj (Option.ite_none_right_eq_some.1 named).2
    rw [groupElem_clean hc]
  case value =>
    rw [if_pos (And.intro ?_ inside)]
    · show cleanElem s.hart.fmt (groupElem s.hart a.toNat _ (act[k]?.getD 0)).1 = val k
      rw [groupElem_clean hc, ← List.getD_eq_getElem?_getD]
    · cases act with
      | nil => exact absurd inside (Nat.not_lt_zero k)
      | cons e l => exact Nat.zero_le k
  show finishVec 0 (s.withHart (advanceStore (writeGroup s.hart s.hart.capBits vd.toNat s.hart.fmt act.length _ 0 s.hart.grp) vd.toNat s.hart.vlv)) = _
  rw [Unbound.advanceStore (by unfold Unbound; rw [writeGroup_frame]; exact hu)]
  exact finishVec_v steady BitVec.zero_and (writeGroup_frame _ _ _ _ _ _ _ _)

/-- R141 to R143. -/
theorem vectorMoves : Claim.VectorMoves := by
  unfold Claim.VectorMoves
  intro s vd a b m plain notBlock dest f w g inGroup src moves apart
  obtain ⟨-, legal, still, unbound, -, clean⟩ := id plain
  have hc : Clean s.hart := clean
  have format : plainFmt s.hart = true := by rw [plainFmt, notBlock]; rfl
  have source (e : Nat) : src e = elemOf s a w e := by
    show (if inGroup e = true then elemOf s a w e else 0) = _
    split
    · rfl
    · next out => exact (if_neg (by simpa [inGroup] using out)).symm
  refine ⟨fun fit => ?vmv, ?splat, fun int => ?vid, fun int mask => ?iota, fun fit far => ?up, fun fit => ?down, fun fit far index farIndex int => ?perm, fun fit far fresh => ?compress⟩
  case vmv =>
    refine vecMove_moves (i := .vmv vd a m) (grant := fun _ => true) (format := fun _ => true) (res := fun g e => groupElem g a.toNat (elemWidth g.fmt) e) (reads := fun _ e => [e])
      _ ?_ rfl plain dest (typeFits fit true false) rfl rfl (fun e => by rw [groupElem_clean hc]) (fun e => by rw [groupElem_clean hc, source])
    exact if_neg (by rw [notBlock, Bool.false_and]; decide)
  case splat =>
    exact vecMove_moves (i := .vsplat vd a m) (grant := fun _ => true) (res := fun g _ => ((s.getX a).toNat % 2 ^ memWidth g.fmt, false)) (reads := fun _ e => [e])
      _ rfl rfl plain dest rfl rfl format (fun _ => rfl) (fun _ => rfl)
  case vid =>
    exact vecMove_moves (i := .vid vd a m) (grant := fun _ => true) (format := fun h => isInt h.fmt) (res := fun g e => (((s.getX a).toNat + e) % 2 ^ elemWidth g.fmt, false)) (reads := fun _ e => [e])
      _ rfl rfl plain dest rfl rfl (decide_eq_true int) (fun _ => rfl) (fun _ => cleanElem_mod (memWidth_int (Nat.lt_trans int (by decide))) _)
  case iota =>
    refine vecMove_moves (i := .viota vd a m) (grant := fun _ => true) (format := fun h => isInt h.fmt)
      (res := fun g e => (onesIn e (g.mask a.toNat % 2 ^ g.vlv) % 2 ^ elemWidth g.fmt, false)) (reads := fun _ e => [e])
      _ rfl mask plain dest rfl rfl (decide_eq_true int) (fun _ => rfl) (fun e => (cleanElem_mod (memWidth_int (Nat.lt_trans int (by decide))) _).trans ?_)
    rw [onesIn_eq]
    simp only [Nat.testBit_mod_two_pow]
    rfl
  case up =>
    refine vecMove_moves (i := .vslideup vd a b m) (grant := fun h => !overlaps vd.toNat h.grp a.toNat h.grp)
      (res := fun g e => groupElem g (if e < (s.getX b).toNat then vd.toNat else a.toNat) (elemWidth g.fmt) (if e < (s.getX b).toNat then e else e - (s.getX b).toNat))
      (reads := fun _ e => if e < (s.getX b).toNat then [e] else [e, e - (s.getX b).toNat])
      _ rfl rfl plain dest (typeFits fit true false) (by rw [show overlaps vd.toNat s.hart.grp a.toNat s.hart.grp = false from far]; rfl) format (fun e => ?_) (fun e => ?_)
    · split <;> rw [groupElem_clean hc]
    · split
      · rw [groupElem_clean hc]
      · rw [groupElem_clean hc, source]
  case down =>
    exact vecMove_moves (i := .vslidedn vd a b m) (grant := fun _ => true) (res := fun g e => groupElem g a.toNat (elemWidth g.fmt) (e + (s.getX b).toNat))
      (reads := fun _ e => [e, e + (s.getX b).toNat]) _ rfl rfl plain dest (typeFits fit true false) rfl format
      (fun e => by rw [groupElem_clean hc]) (fun e => by rw [groupElem_clean hc, source])
  case perm =>
    have tag : s.hart.srcTag b.toNat = (s.hart.vreg b.toNat).fmt.toNat := Unbound.srcTag unbound _
    have sources : groupsFit [typeOpnd s.hart a.toNat true false, indexOpnd s.hart b.toNat] = true := by
      show (groupFits a.toNat s.hart.grp (compCount s.hart.fmt) && (groupFits b.toNat (indexRegs s.hart b.toNat) 0 && true)) = true
      rw [fit a List.mem_cons_self, Bool.and_true]
      exact index
    refine vecMove_moves (i := .vperm vd a b m)
      (grant := fun h => indexFits h b.toNat && !overlaps vd.toNat h.grp a.toNat h.grp && !overlaps vd.toNat h.grp b.toNat (indexRegs s.hart b.toNat))
      (format := fun h => plainFmt h && isInt (s.hart.srcTag b.toNat))
      (res := fun g e => groupElem g a.toNat (elemWidth g.fmt) (indexBits g (s.hart.srcTag b.toNat) (indexRegs s.hart b.toNat) b.toNat e))
      (reads := fun r e => if r = a.toNat then [e, indexBits (withChunks s s.hart (consumed s.hart [indexOpnd s.hart b.toNat])) (s.hart.srcTag b.toNat) (indexRegs s.hart b.toNat) b.toNat e] else [e])
      _ rfl rfl plain dest sources ?_ ?_ (fun e => by rw [groupElem_clean hc]) (fun e => ?_)
    · rw [index, show overlaps vd.toNat s.hart.grp a.toNat s.hart.grp = false from far, show overlaps vd.toNat s.hart.grp b.toNat (indexRegs s.hart b.toNat) = false from farIndex]
      rfl
    · rw [format, tag]
      exact decide_eq_true int
    · rw [groupElem_clean hc, source, indexBits, tag]
  case compress =>
    obtain ⟨v, ran, holds⟩ := vcompress_packs (m := m) plain notBlock dest fit far fresh
    exact ⟨v, ran, holdsGroup_congr (fun k _ => by rw [source]) holds⟩

open Sys2Proof.Claim

/-! ## Slices of the 2-D view (R19, R144) -/

theorem cleanElem_zero (f : Nat) : cleanElem f 0 = 0 := by
  unfold cleanElem
  split
  · rfl
  · exact Nat.zero_mod _

/-- The operands of a slice pass their checks (R144). -/
theorem slice_checks {s : State} {vd a : Reg} {i : Instr} {format : Bool} (plain : PlainVec s) (fit : GroupsFit s [vd, a]) (flat : s.hart.v2d = true)
    (far : overlaps vd.toNat s.hart.grp a.toNat s.hart.grp = false) (accepted : format = true) :
    vecCheck i s.hart ⟨groupsFit [typeOpnd s.hart vd.toNat false true, typeOpnd s.hart a.toNat true false] && s.hart.v2d
        && !overlaps vd.toNat s.hart.grp a.toNat s.hart.grp, format, false⟩ (s.hart.grp != 1) s.hart.fmt
      [typeOpnd s.hart vd.toNat false true, typeOpnd s.hart a.toNat true false] = none := by
  obtain ⟨-, legal, -, unbound, -, -⟩ := id plain
  refine Unbound.vecCheck unbound legal i ?_ accepted (fun c => absurd c Bool.false_ne_true) _ _ _
  have groups : groupsFit [typeOpnd s.hart vd.toNat false true, typeOpnd s.hart a.toNat true false] = true := by
    show (groupFits vd.toNat _ _ && (groupFits a.toNat _ _ && true)) = true
    exact (congrArg₂ (· && ·) (fit vd List.mem_cons_self) (congrArg (· && true) (fit a (List.mem_cons_of_mem _ List.mem_cons_self)))).trans rfl
  rw [groups, flat, far]
  rfl

/-- The elements of VMVR and VMVC that replace a slice of the destination (R144). -/
def insertJob (s : State) (col : Bool) (vd a b : Reg) (m : MaskField) : ElemWise where
  vd := vd.toNat
  fmt := s.hart.fmt
  n := s.hart.grp
  len := s.hart.vlv
  ops := [typeOpnd s.hart vd.toNat false true, typeOpnd s.hart a.toNat true false]
  act e := (if col then e % 256 == (s.getX b).toNat else e / 256 == (s.getX b).toNat) && sliceSel s.hart m (if col then e / 256 else e % 256)
  res g e := moved (groupElem g a.toNat (elemWidth s.hart.fmt) (if col then e / 256 else e % 256)).1 (groupElem g a.toNat (elemWidth s.hart.fmt) (if col then e / 256 else e % 256)).2
  reads _ e := [if col then e / 256 else e % 256]

/-- A slice put into the destination (R144). -/
theorem vecSlice_puts {s : State} {i : Instr} {col : Bool} {vd a b : Reg} {m : MaskField} (runs : exec i s = vecSlice i col vd a b m true s) (plain : PlainVec s)
    (notBlock : isBlock s.hart.fmt = false) (fit : GroupsFit s [vd, a]) (flat : s.hart.v2d = true) (far : overlaps vd.toNat s.hart.grp a.toNat s.hart.grp = false) :
    ∃ v, exec i s = .next (vecDone 0 v s) ∧ HoldsGroup s v vd.toNat s.hart.grp s.hart.fmt s.hart.vlv (fun e =>
      if s.hart.vri.toNat ≤ e ∧ (if col then e % 256 == (s.getX b).toNat else e / 256 == (s.getX b).toNat) = true
          ∧ sliceSel s.hart m (if col then e / 256 else e % 256) = true
      then cleanElem s.hart.fmt (elemOf s a (elemWidth s.hart.fmt) (if col then e / 256 else e % 256)) else elemOf s vd (elemWidth s.hart.fmt) e) := by
  obtain ⟨-, -, still, -, -, clean⟩ := id plain
  have hc : Clean s.hart := clean
  obtain ⟨v, ran, holds⟩ := run_moves (insertJob s col vd a b m) (fun e => cleanElem s.hart.fmt (elemOf s a (elemWidth s.hart.fmt) (if col then e / 256 else e % 256)))
    _ plain ⟨rfl, rfl, rfl, rfl⟩ ⟨rfl, rfl, rfl⟩ (fun e _ => rfl)
    (fun e => by show moved _ (groupElem s.hart a.toNat _ _).2 = moved (groupElem s.hart a.toNat _ _).1 false; rw [groupElem_clean hc])
    (fun e _ _ => by show cleanElem _ (groupElem s.hart a.toNat _ _).1 = _; rw [groupElem_clean hc]) (groupFits_le (fit vd List.mem_cons_self))
  refine ⟨v, ?_, holdsGroup_congr (fun e _ => if_congr ?_ rfl rfl) holds⟩
  · rw [← ran, runs]
    unfold vecSlice
    rw [held_still still]
    dsimp only
    rw [slice_checks plain fit flat far (by rw [plainFmt, notBlock]; rfl)]
    rfl
  · show (decide _ && (_ && _)) = true ↔ _
    rw [Bool.and_eq_true, Bool.and_eq_true, decide_eq_true_eq]

/-- What one element of an extracted slice reads (R19, R144). -/
def sliceValue (s : State) (a : Reg) (src : Option Nat) : Nat :=
  match src with
  | some e => if e < s.hart.vlg then cleanElem s.hart.fmt (elemOf s a (elemWidth s.hart.fmt) e) else 0
  | none => 0

/-- The elements of VMVR and VMVC that read a slice of the source (R144). -/
def extractJob (s : State) (col : Bool) (vd a b : Reg) (m : MaskField) : ElemWise where
  vd := vd.toNat
  fmt := s.hart.fmt
  n := s.hart.grp
  len := if col then cdiv s.hart.vlv 256 else 256
  ops := [typeOpnd s.hart vd.toNat false true, typeOpnd s.hart a.toNat true false]
  act := sliceSel s.hart m
  res g k := match (slicePos col s.hart.vlv (s.getX b).toNat k).filter (· < s.hart.vlg) with
    | some e => moved (groupElem g a.toNat (elemWidth s.hart.fmt) e).1 (groupElem g a.toNat (elemWidth s.hart.fmt) e).2
    | none => moved 0 false
  reads _ k := ((slicePos col s.hart.vlv (s.getX b).toNat k).filter (· < s.hart.vlg)).toList

/-- An extracted element on registers with no mark. -/
theorem extractJob_res {s : State} {col : Bool} {vd a b : Reg} {m : MaskField} (hc : Clean s.hart) (k : Nat) :
    ((extractJob s col vd a b m).res s.hart k = moved ((extractJob s col vd a b m).res s.hart k).val false)
      ∧ cleanElem s.hart.fmt ((extractJob s col vd a b m).res s.hart k).val = sliceValue s a (slicePos col s.hart.vlv (s.getX b).toNat k) := by
  unfold extractJob sliceValue
  dsimp only
  cases slicePos col s.hart.vlv (s.getX b).toNat k with
  | none => exact ⟨rfl, cleanElem_zero _⟩
  | some e =>
    rw [Option.filter_some]
    by_cases inside : e < s.hart.vlg
    · rw [if_pos (decide_eq_true inside)]
      dsimp only
      rw [if_pos inside, groupElem_clean hc]
      exact ⟨rfl, rfl⟩
    · rw [if_neg (by simpa using inside)]
      dsimp only
      rw [if_neg inside]
      exact ⟨rfl, cleanElem_zero _⟩

/-- The draws of a column's scales (R144, log entry 38). -/
def drawn (t : State) : State := { t with fresh := t.fresh + 65537 }

/-- A slice taken from the source (R144). -/
theorem vecSlice_takes {s : State} {i : Instr} {col : Bool} {vd a b : Reg} {m : MaskField} (runs : exec i s = vecSlice i col vd a b m false s) (plain : PlainVec s)
    (notBlock : isBlock s.hart.fmt = false) (fit : GroupsFit s [vd, a]) (flat : s.hart.v2d = true) (far : overlaps vd.toNat s.hart.grp a.toNat s.hart.grp = false) :
    ∃ t v, exec i s = .next t ∧ t = { vecDone 0 v s with fresh := t.fresh }
      ∧ HoldsGroup s v vd.toNat s.hart.grp s.hart.fmt (if col then cdiv s.hart.vlv 256 else 256) (fun k =>
        if s.hart.vri.toNat ≤ k ∧ sliceSel s.hart m k = true then sliceValue s a (slicePos col s.hart.vlv (s.getX b).toNat k)
        else elemOf s vd (elemWidth s.hart.fmt) k) := by
  obtain ⟨-, -, still, hu, -, clean⟩ := id plain
  have hc : Clean s.hart := clean
  have unbound : Unbound s.hart := hu
  obtain ⟨v, ran, holds⟩ := run_moves (extractJob s col vd a b m) (fun k => sliceValue s a (slicePos col s.hart.vlv (s.getX b).toNat k))
    _ plain ⟨rfl, rfl, rfl, rfl⟩ ⟨rfl, rfl, rfl⟩ (fun e _ => rfl) (fun e => (extractJob_res hc e).1) (fun e _ _ => (extractJob_res hc e).2)
    (groupFits_le (fit vd List.mem_cons_self))
  refine ⟨drawn (vecDone 0 v s), v, ?_, rfl, holdsGroup_congr (fun e _ => if_congr ?_ rfl rfl) holds⟩
  · rw [runs, ← ran]
    unfold vecSlice
    rw [held_still still]
    dsimp only
    rw [slice_checks (format := !false || plainFmt s.hart) plain fit flat far rfl, unbound.consumed]
    have companions : (fun f => sliceCompanions s s.hart col vd.toNat a.toNat (s.getX b).toNat (if col then cdiv s.hart.vlv 256 else 256) s.hart.vri.toNat f
        (sliceSel s.hart m) (if f = (if col then cdiv s.hart.vlv 256 else 256) then some (if col then cdiv s.hart.vlv 256 else 256) else none)) = fun _ h => h := by
      funext f h
      unfold sliceCompanions
      rw [notBlock]
      rfl
    exact congrArg (fun c => Host.Outcome.next (drawn (runElemWise { extractJob s col vd a b m with also := c } s))) companions
  · rw [Bool.and_eq_true, decide_eq_true_eq]
    rfl

/-! ## VEXT and VRETAG (R145, R146) -/

/-- A vector register's bits changed one by one over a group. -/
theorem vreg_foldl_setV (h : Hart) (f : VReg → VReg) (r n q : Nat) (fits : r + n ≤ 32) :
    ((List.range n).foldl (fun g k => g.setV (r + k) (f (g.vreg (r + k)))) h).vreg q = if r ≤ q ∧ q < r + n then f (h.vreg q) else h.vreg q := by
  induction n with
  | zero => rw [if_neg (by omega)]; rfl
  | succ n ih =>
    rw [List.range_succ, List.foldl_append, List.foldl_cons, List.foldl_nil, Hart.vreg_setV, ih (by omega)]
    by_cases last : q = r + n
    · subst last
      rw [if_pos ⟨rfl, by omega⟩, if_pos ⟨by omega, by omega⟩, ih (by omega), if_neg (by omega)]
    · rw [if_neg (fun c => last c.1)]
      exact if_congr ⟨fun c => by omega, fun c => by omega⟩ rfl rfl

theorem foldl_setV_frame (h : Hart) (f : Hart → Nat → VReg) (r : Nat) (l : List Nat) :
    l.foldl (fun g k => g.setV (r + k) (f g k)) h = { h with v := (l.foldl (fun g k => g.setV (r + k) (f g k)) h).v } := by
  suffices some : ∃ v, l.foldl (fun g k => g.setV (r + k) (f g k)) h = { h with v := v } by
    obtain ⟨v, hv⟩ := some
    rw [hv]
  induction l generalizing h with
  | nil => exact ⟨h.v, rfl⟩
  | cons k l ih =>
    obtain ⟨v, hv⟩ := setV_frame h (r + k) (f h k)
    rw [List.foldl_cons, hv]
    exact ih { h with v := v }

/-- VEXT of an element without a mark (R145). -/
theorem vext_wrote {s : State} {d a b : Reg} {sg : Bool} (plain : PlainVec s) (notBlock : isBlock s.hart.fmt = false) (fit : GroupsFit s [a]) :
    exec (.vext d a b sg) s = .next (wrote 4 d (extractValue (memWidth s.hart.fmt) sg (elemOf s a (elemWidth s.hart.fmt) (s.getX b).toNat)) s) := by
  obtain ⟨steady, legal, still, hu, -, clean⟩ := id plain
  have unbound : Unbound s.hart := hu
  refine congrArg Host.Outcome.next ((held_still still _).trans ?_)
  dsimp only
  rw [unbound.vecCheck legal _ (typeFits fit true false) (by rw [plainFmt, notBlock]; rfl) (fun c => absurd c Bool.false_ne_true)]
  dsimp only
  rw [unbound.readySources]
  dsimp only
  rw [firstFault_none (f := chunksFault s []) fun e _ => rfl, groupElem_clean clean]
  exact writeInt_steady steady 4 d _

/-- VRETAG relays the group's registers out (R146). -/
theorem vretag_done {s : State} {vd : Reg} (plain : PlainVec s) (notBlock : isBlock s.hart.fmt = false) (fit : GroupsFit s [vd]) :
    exec (.vretag vd) s = .next (passed 4 (s.withHart ((List.range s.hart.grp).foldl (fun g k => g.setV (vd.toNat + k) (retagReg s.hart.fmt (g.vreg (vd.toNat + k)))) s.hart))) := by
  obtain ⟨steady, legal, still, hu, -, -⟩ := id plain
  have unbound : Unbound s.hart := hu
  refine congrArg Host.Outcome.next ((held_still still _).trans ?_)
  dsimp only
  rw [unbound.vecCheck legal _ (typeFits fit false false) (by rw [plainFmt, notBlock]; rfl) (fun c => absurd c Bool.false_ne_true)]
  dsimp only
  rw [foldl_setV_frame s.hart (fun g k => retagReg s.hart.fmt (g.vreg (vd.toNat + k)))]
  exact finish_steady (s := s.withHart { s.hart with v := ((List.range s.hart.grp).foldl (fun g k => g.setV (vd.toNat + k) (retagReg s.hart.fmt (g.vreg (vd.toNat + k)))) s.hart).v }) steady 4

/-- VRELEASE with ALL (R147). -/
theorem vrelease_all {s : State} (plain : PlainVec s) :
    exec (.vrelease 0 true) s = .next (passed 4 (s.withHart { s.hart with v := s.hart.v.map releaseReg, m := Vector.replicate 7 0 })) := by
  obtain ⟨steady, -, still, -, -, -⟩ := id plain
  refine congrArg Host.Outcome.next ((checked_wellFormed rfl s _).trans ((held_still still _).trans ?_))
  exact finish_steady (s := s.withHart { s.hart with v := s.hart.v.map releaseReg, m := Vector.replicate 7 0 }) steady 4

/-- VRELEASE of a group (R147). -/
theorem vrelease_done {s : State} {vd : Reg} (plain : PlainVec s) (fit : GroupsFit s [vd]) :
    exec (.vrelease vd false) s = .next (passed 4 (s.withHart ((List.range s.hart.grp).foldl (fun g k => g.setV (vd.toNat + k) (releaseReg (g.vreg (vd.toNat + k)))) s.hart))) := by
  obtain ⟨steady, legal, still, -, -, -⟩ := id plain
  refine congrArg Host.Outcome.next ((checked_wellFormed rfl s _).trans ((held_still still _).trans ?_))
  dsimp only
  rw [legal, fit vd List.mem_cons_self, foldl_setV_frame s.hart (fun g k => releaseReg (g.vreg (vd.toNat + k)))]
  exact finish_steady (s := s.withHart { s.hart with v := ((List.range s.hart.grp).foldl (fun g k => g.setV (vd.toNat + k) (releaseReg (g.vreg (vd.toNat + k)))) s.hart).v }) steady 4

/-- R19, R144 to R147. -/
theorem vectorSlicesAndTags : Claim.VectorSlicesAndTags := by
  unfold Claim.VectorSlicesAndTags
  intro s vd a b d m sg plain notBlock f w g j rows src sel
  have source (e : Nat) : src e = elemOf s a w e := by
    show (if (e + 1) * w ≤ s.hart.capBits * g then elemOf s a w e else 0) = _
    split
    · rfl
    · next out => exact (if_neg out).symm
  refine ⟨fun fit flat far => ⟨?rowOut, ?colOut, ?rowIn, ?colIn⟩, fun fit => ?vext, fun fit => ?vretag, ?all, fun fit => ?vrelease⟩
  case rowOut =>
    obtain ⟨t, v, ran, frame, holds⟩ := vecSlice_takes (i := .vmvr vd a b m false) (col := false) (b := b) (m := m) rfl plain notBlock fit flat far
    refine ⟨t, v, ran, frame, holdsGroup_congr (fun k _ => if_congr Iff.rfl ?_ rfl) holds⟩
    simp only [source]
    rfl
  case colOut =>
    obtain ⟨t, v, ran, frame, holds⟩ := vecSlice_takes (i := .vmvc vd a b m false) (col := true) (b := b) (m := m) rfl plain notBlock fit flat far
    refine ⟨t, v, ran, frame, holdsGroup_congr (fun k _ => if_congr Iff.rfl ?_ rfl) holds⟩
    simp only [source]
    rfl
  case rowIn =>
    obtain ⟨v, ran, holds⟩ := vecSlice_puts (i := .vmvr vd a b m true) (col := false) (b := b) (m := m) rfl plain notBlock fit flat far
    exact ⟨v, ran, holdsGroup_congr (fun e _ => if_congr Iff.rfl (by rw [source]; rfl) rfl) holds⟩
  case colIn =>
    obtain ⟨v, ran, holds⟩ := vecSlice_puts (i := .vmvc vd a b m true) (col := true) (b := b) (m := m) rfl plain notBlock fit flat far
    exact ⟨v, ran, holdsGroup_congr (fun e _ => if_congr Iff.rfl (by rw [source]; rfl) rfl) holds⟩
  case vext =>
    rw [vext_wrote plain notBlock fit, source]
    rfl
  case vretag =>
    have fits := groupFits_le (fit vd List.mem_cons_self)
    have regs := fun q => vreg_foldl_setV s.hart (retagReg s.hart.fmt) vd.toNat s.hart.grp q fits
    rw [foldl_setV_frame s.hart (fun g k => retagReg s.hart.fmt (g.vreg (vd.toNat + k)))] at regs
    refine ⟨_, (vretag_done plain notBlock fit).trans ?_, fun r _ out => (regs r).trans (if_neg (by omega)), fun r lo hi => ?_⟩
    · rw [← foldl_setV_frame s.hart (fun g k => retagReg s.hart.fmt (g.vreg (vd.toNat + k)))]
    · intro o q
      rw [show q = retagReg s.hart.fmt o from (regs r).trans (if_pos ⟨lo, hi⟩)]
      exact ⟨rfl, rfl, rfl, rfl, fun n => Nat.testBit_mod_two_pow _ _ _⟩
  case all => exact vrelease_all plain
  case vrelease =>
    have fits := groupFits_le (fit vd List.mem_cons_self)
    have regs := fun q => vreg_foldl_setV s.hart releaseReg vd.toNat s.hart.grp q fits
    rw [foldl_setV_frame s.hart (fun g k => releaseReg (g.vreg (vd.toNat + k)))] at regs
    refine ⟨_, (vrelease_done plain fit).trans ?_, fun r _ => regs r⟩
    rw [← foldl_setV_frame s.hart (fun g k => releaseReg (g.vreg (vd.toNat + k)))]

end Sys2Proof.Machine

namespace Sys2Proof.Machine
/-! # Block moves (O36): groups written with their companions -/

open Sys2Proof.Claim

/-! ## Block-format groups with their companions (R17, R131) -/

/-- What a group's elements read depends on its own registers alone. -/
theorem elemAt_congr {h k : Hart} {cap r n w e : Nat} (same : ∀ q, r ≤ q → q < r + n → h.vreg q = k.vreg q) : elemAt h cap r n w e = elemAt k cap r n w e := by
  have img : groupImg h cap r n = groupImg k cap r n := by
    induction n with
    | zero => rfl
    | succ n ih => rw [groupImg, groupImg, ih fun q lo hi => same q lo (by omega), same (r + n) (by omega) (by omega)]
  rw [elemAt, elemAt, img]

/-- A register group that holds packed elements (R13 to R15). -/
def Packed (h : Hart) (cap r n fmt len : Nat) (val : Nat → Nat) : Prop :=
  ∀ q, r ≤ q → q < r + n → h.vreg q = writtenReg cap fmt len (pack (elemWidth fmt) len val) 0 (q - r)

/-- A group of packed elements, in the words of the statements. -/
theorem groupIs_of_packed {s : State} {v : Vector VReg 32} {r n fmt len : Nat} {val : Nat → Nat} (hf : fmt < 32) (fits : r + n ≤ 32)
    (cut : ∀ e < len, val e < 2 ^ elemWidth fmt) (regs : Packed { s.hart with v := v } s.hart.capBits r n fmt len val) : GroupIs s v r n fmt len val := by
  obtain ⟨⟨elems, fields⟩, -⟩ := holdsGroup_written s len hf fits cut
  have same (q : Nat) (lo : r ≤ q) (hi : q < r + n) : ({ s.hart with v := v } : Hart).vreg q
      = ({ s.hart with v := (writeGroup s.hart s.hart.capBits r fmt len (pack (elemWidth fmt) len val) 0 n).v } : Hart).vreg q := by
    rw [regs q lo hi, ← writeGroup_frame, vreg_writeGroup _ _ _ _ _ _ _ _ _ fits, if_pos ⟨lo, hi⟩]
  refine ⟨fun e he => (elemAt_congr same).trans (elems e he), fun q hq lo hi => ?_⟩
  rw [same q lo hi]
  exact fields q hq lo hi

theorem writeGroup_packed (h : Hart) (cap r fmt len n : Nat) (val : Nat → Nat) (fits : r + n ≤ 32) :
    Packed (writeGroup h cap r fmt len (pack (elemWidth fmt) len val) 0 n) cap r n fmt len val :=
  fun q lo hi => (vreg_writeGroup _ _ _ _ _ _ _ _ q fits).trans (if_pos ⟨lo, hi⟩)

/-- A group stays as it is when another, apart from it, is written. -/
theorem Packed.writeGroup {h : Hart} {cap r n fmt len : Nat} {val : Nat → Nat} (kept : Packed h cap r n fmt len val) {cap' r' fmt' len' img bad n' : Nat}
    (fits : r' + n' ≤ 32) (apart : r + n ≤ r' ∨ r' + n' ≤ r) : Packed (Machine.writeGroup h cap' r' fmt' len' img bad n') cap r n fmt len val :=
  fun q lo hi => (vreg_writeGroup _ _ _ _ _ _ _ _ q fits).trans ((if_neg (by omega)).trans (kept q lo hi))

/-- A hart whose block-format group is written with its companions: elements, scales and, where there are any, superscales (R17). -/
def putBlocks (h : Hart) (vd fm len ns np : Nat) (withSuper : Bool) (elem scale super : Nat → Nat) : Hart :=
  let h1 := writeGroup h h.capBits vd fm len (pack (elemWidth fm) len elem) 0 h.grp
  let h2 := writeGroup h1 h.capBits (vd + h.grp) (scaleFmt fm) ns (pack 8 ns scale) 0 1
  if withSuper then writeGroup h2 h.capBits (vd + h.grp + 1) 0x05 np (pack 32 np super) 0 1 else h2

theorem putBlocks_frame (h : Hart) (vd fm len ns np : Nat) (withSuper : Bool) (elem scale super : Nat → Nat) :
    putBlocks h vd fm len ns np withSuper elem scale super = { h with v := (putBlocks h vd fm len ns np withSuper elem scale super).v } := by
  suffices some : ∃ v, putBlocks h vd fm len ns np withSuper elem scale super = { h with v := v } by
    obtain ⟨v, hv⟩ := some
    rw [hv]
  have step {k : Hart} (known : ∃ v, k = { h with v := v }) (cap r fmt len img bad n : Nat) : ∃ v, writeGroup k cap r fmt len img bad n = { h with v := v } := by
    obtain ⟨v, rfl⟩ := known
    exact ⟨_, writeGroup_frame _ _ _ _ _ _ _ _⟩
  unfold putBlocks
  dsimp only
  split
  · exact step (step (step ⟨h.v, rfl⟩ _ _ _ _ _ _ _) _ _ _ _ _ _ _) _ _ _ _ _ _ _
  · exact step (step ⟨h.v, rfl⟩ _ _ _ _ _ _ _) _ _ _ _ _ _ _

theorem scaleFmt_lt (fm : Nat) : scaleFmt fm < 32 := by unfold scaleFmt; split <;> decide
theorem elemWidth_scaleFmt (fm : Nat) : elemWidth (scaleFmt fm) = 8 := by unfold scaleFmt; split <;> rfl

/-- A block-format group written with its companions holds what was written, and no other register changes (R13 to R17). -/
theorem putBlocks_holds (s : State) {vd fm : Nat} (len ns np : Nat) (withSuper : Bool) {elem scale super : Nat → Nat} (hf : fm < 32)
    (fits : vd + s.hart.grp + (if withSuper then 2 else 1) ≤ 32) (cutElem : ∀ e < len, elem e < 2 ^ elemWidth fm) (cutScale : ∀ j < ns, scale j < 2 ^ 8)
    (cutSuper : ∀ k < np, super k < 2 ^ 32) :
    let v := (putBlocks s.hart vd fm len ns np withSuper elem scale super).v
    GroupIs s v vd s.hart.grp fm len elem ∧ GroupIs s v (vd + s.hart.grp) 1 (scaleFmt fm) ns scale
      ∧ (withSuper = true → GroupIs s v (vd + s.hart.grp + 1) 1 0x05 np super) ∧ OnlyGroup s v vd (s.hart.grp + if withSuper then 2 else 1) := by
  intro v
  have frame : ({ s.hart with v := v } : Hart) = putBlocks s.hart vd fm len ns np withSuper elem scale super := (putBlocks_frame _ _ _ _ _ _ _ _ _ _).symm
  have two : vd + s.hart.grp + 1 ≤ 32 := by split at fits <;> omega
  have first := writeGroup_packed s.hart s.hart.capBits vd fm len s.hart.grp elem (by omega)
  have second := writeGroup_packed (writeGroup s.hart s.hart.capBits vd fm len (pack (elemWidth fm) len elem) 0 s.hart.grp) s.hart.capBits (vd + s.hart.grp) (scaleFmt fm) ns 1 scale two
  rw [elemWidth_scaleFmt] at second
  have first' := first.writeGroup (cap' := s.hart.capBits) (fmt' := scaleFmt fm) (len' := ns) (img := pack 8 ns scale) (bad := 0) two (Or.inl (Nat.le_refl _))
  have cut' : ∀ j < ns, scale j < 2 ^ elemWidth (scaleFmt fm) := by rw [elemWidth_scaleFmt]; exact cutScale
  cases withSuper with
  | false =>
    refine ⟨groupIs_of_packed hf (by omega) cutElem (frame ▸ first'), groupIs_of_packed (scaleFmt_lt fm) two cut' (frame ▸ second), fun c => absurd c Bool.false_ne_true,
      fun q _ out => ?_⟩
    rw [frame]
    show (writeGroup (writeGroup s.hart _ vd fm len _ 0 _) _ (vd + s.hart.grp) _ ns _ 0 1).vreg q = _
    rw [vreg_writeGroup _ _ _ _ _ _ _ _ q two, if_neg (by simp only [if_neg Bool.false_ne_true] at out; omega), vreg_writeGroup _ _ _ _ _ _ _ _ q (by omega),
      if_neg (by simp only [if_neg Bool.false_ne_true] at out; omega)]
  | true =>
    have three : vd + s.hart.grp + 1 + 1 ≤ 32 := fits
    refine ⟨groupIs_of_packed hf (by omega) cutElem (frame ▸ first'.writeGroup three (Or.inl (by omega))),
      groupIs_of_packed (scaleFmt_lt fm) two cut' (frame ▸ second.writeGroup three (Or.inl (by omega))),
      fun _ => groupIs_of_packed (by decide) three cutSuper (frame ▸ writeGroup_packed _ _ _ _ _ _ _ three), fun q _ out => ?_⟩
    rw [frame]
    show (writeGroup (writeGroup (writeGroup s.hart _ vd fm len _ 0 _) _ (vd + s.hart.grp) _ ns _ 0 1) _ (vd + s.hart.grp + 1) 0x05 np _ 0 1).vreg q = _
    simp only [if_pos] at out
    rw [vreg_writeGroup _ _ _ _ _ _ _ _ q three, if_neg (by omega), vreg_writeGroup _ _ _ _ _ _ _ _ q two, if_neg (by omega), vreg_writeGroup _ _ _ _ _ _ _ _ q (by omega),
      if_neg (by omega)]

/-- A group written without marks leaves no mark. -/
theorem Clean.writeGroup {h : Hart} (hc : Clean h) (cap r fmt len img n : Nat) (fits : r + n ≤ 32) : Clean (Machine.writeGroup h cap r fmt len img 0 n) := by
  intro q hq
  rw [vreg_writeGroup _ _ _ _ _ _ _ _ q fits]
  split
  · exact bitsAt_zero _ _
  · exact hc q hq

open Sys2Proof.Claim

/-! ## Block moves (R141) -/

theorem groupIs_congr {s : State} {v : Vector VReg 32} {vd n fmt len : Nat} {f g : Nat → Nat} (h : ∀ e < len, f e = g e)
    (holds : GroupIs s v vd n fmt len f) : GroupIs s v vd n fmt len g := by
  obtain ⟨elems, regs⟩ := holds
  refine ⟨fun e he => (elems e he).trans ?_, regs⟩
  split
  · exact h e ‹_›
  · rfl


/-- A unit of elements holds an active element, in the words of the statements. -/
theorem unitActive_eq (s : State) (m : MaskField) (n j : Nat) : unitActive s.hart m n j = blockActive s m n j := by
  unfold unitActive blockActive
  rw [Bool.eq_iff_iff, List.any_eq_true, List.any_eq_true]
  constructor
  · rintro ⟨i, inside, sel⟩
    rw [List.mem_range] at inside
    exact ⟨i, List.mem_range.2 (by omega), by rw [sel, Bool.and_true]; exact decide_eq_true (by omega)⟩
  · rintro ⟨i, inside, both⟩
    rw [List.mem_range] at inside
    obtain ⟨low, sel⟩ := (Bool.and_eq_true _ _).mp both
    exact ⟨i, List.mem_range.2 (by have := of_decide_eq_true low; omega), sel⟩

/-- The companions that a group under a block format has. -/
theorem compCount_block {f : Nat} (block : isBlock f = true) : compCount f = if f = 0x16 then 2 else 1 := by
  have range := (Bool.and_eq_true _ _).mp block
  have lo : 0x10 ≤ f := of_decide_eq_true range.1
  have hi : f ≤ 0x16 := of_decide_eq_true range.2
  interval_cases f <;> rfl

/-- Elements replaced in a group that holds no mark by some of a source's, without marks. -/
theorem mergeImg_on {h : Hart} (hc : Clean h) {r n w len : Nat} {on : Nat → Bool} {src : Nat → Nat × Bool} (marks : ∀ e, (src e).2 = false) :
    mergeImg h r n w len (fun e => if on e then some (src e) else none) = (pack w len (fun e => if on e then (src e).1 else elemAt h h.capBits r n w e), 0) := by
  rw [mergeImg_clean hc fun e x named => ?marks]
  case marks =>
    obtain rfl := Option.some.inj (Option.ite_none_right_eq_some.1 named).2
    exact marks e
  congr 2
  funext e
  by_cases yes : on e = true
  · rw [if_pos yes, if_pos yes]
  · rw [if_neg yes, if_neg yes]

/-- The blocks whose companions a block move brings (R141). -/
def bringsScale (h : Hart) (m : MaskField) (lo f u j : Nat) : Bool := unitActive h m u j && lo ≤ j * u && j * u < f

/-- One companion register after some of its elements are copied from another's. -/
def companionValue (g : Hart) (vd a w : Nat) (on : Nat → Bool) (j : Nat) : Nat := elemAt g g.capBits (if on j then a else vd) 1 w j

theorem companion_written {g h : Hart} (gc : Clean g) (hc : Clean h) (size : h.capBits = g.capBits) {vd a w : Nat} (same : h.vreg vd = g.vreg vd) (len : Nat) (on : Nat → Bool) :
    mergeImg h vd 1 w len (fun j => if on j then some (elemAt g g.capBits a 1 w j, elemBad g g.capBits a w j) else none)
      = (pack w len (companionValue g vd a w on), 0) := by
  rw [mergeImg_on hc fun j => gc.elemBad _ _ _ _, size]
  congr 2
  funext j
  unfold companionValue
  split
  · rfl
  · exact elemAt_congr fun q lo hi => by obtain rfl : q = vd := by omega
                                         exact same

/-- Companions copied into a group that holds no mark (R17, R141). -/
theorem copyCompanions_written {g h : Hart} {vd a : Nat} {m : MaskField} (gc : Clean g) (hc : Clean h)
    (fits : vd + g.grp + (if g.fmt = 0x16 then 2 else 1) ≤ 32) (size : h.capBits = g.capBits) (scales : h.vreg (vd + g.grp) = g.vreg (vd + g.grp))
    (supers : h.vreg (vd + g.grp + 1) = g.vreg (vd + g.grp + 1)) (lo f : Nat) :
    copyCompanions g vd a lo f (some f) id id (unitActive g m (blockLen g.fmt)) (unitActive g m superLen) h
      = let h2 := writeGroup h g.capBits (vd + g.grp) (scaleFmt g.fmt) (cdiv f (blockLen g.fmt))
          (pack 8 (cdiv f (blockLen g.fmt)) (companionValue g (vd + g.grp) (a + g.grp) 8 (bringsScale g m lo f (blockLen g.fmt)))) 0 1
        if g.fmt == 0x16 then writeGroup h2 g.capBits (vd + g.grp + 1) 0x05 (cdiv f superLen)
          (pack 32 (cdiv f superLen) (companionValue g (vd + g.grp + 1) (a + g.grp + 1) 32 (bringsScale g m lo f superLen))) 0 1 else h2 := by
  have two : vd + g.grp + 1 ≤ 32 := by split at fits <;> omega
  unfold copyCompanions
  dsimp only
  have scale := companion_written gc hc size (w := 8) (a := a + g.grp) scales (cdiv f (blockLen g.fmt)) (bringsScale g m lo f (blockLen g.fmt))
  unfold bringsScale at scale
  simp only [id]
  rw [scale]
  by_cases nl4 : g.fmt = 0x16
  · rw [if_pos nl4] at fits ⊢
    rw [show (g.fmt == 0x16) = true from beq_iff_eq.2 nl4]
    rw [show ∀ x y : Hart, (if true = true then x else y) = x from fun _ _ => rfl]
    have kept := (vreg_writeGroup h g.capBits (vd + g.grp) (scaleFmt g.fmt) (cdiv f (blockLen g.fmt))
      (pack 8 (cdiv f (blockLen g.fmt)) (companionValue g (vd + g.grp) (a + g.grp) 8 (bringsScale g m lo f (blockLen g.fmt)))) 0 1 (vd + g.grp + 1) two).trans (if_neg (by omega))
    have super := companion_written gc (hc.writeGroup g.capBits (vd + g.grp) (scaleFmt g.fmt) (cdiv f (blockLen g.fmt))
      (pack 8 (cdiv f (blockLen g.fmt)) (companionValue g (vd + g.grp) (a + g.grp) 8 (bringsScale g m lo f (blockLen g.fmt)))) 1 two)
      (by rw [writeGroup_frame]; exact size) (w := 32) (a := a + g.grp + 1) (kept.trans supers) (cdiv f superLen) (bringsScale g m lo f superLen)
    unfold bringsScale at super
    rw [super]
    rfl
  · rw [if_neg nl4, show (g.fmt == 0x16) = false from beq_false_of_ne nl4]
    rfl

/-- The element that a block move leaves at a place of its destination (R141). -/
def blockMoved (h : Hart) (vd a : Nat) (m : MaskField) (e : Nat) : Nat :=
  if unitActive h m (blockLen h.fmt) (e / blockLen h.fmt) && h.vri.toNat ≤ e && e < h.vlv then cleanElem h.fmt (elemAt h h.capBits a h.grp (elemWidth h.fmt) e)
  else elemAt h h.capBits vd h.grp (elemWidth h.fmt) e

/-- A block move on plain registers writes its group and companions (R17, R141). -/
theorem moveBlocks_puts {s : State} {vd a : Nat} {m : MaskField} (plain : PlainVec s) (fits : vd + s.hart.grp + (if s.hart.fmt = 0x16 then 2 else 1) ≤ 32) :
    moveBlocks vd a m s = finishVec 0 (s.withHart (putBlocks s.hart vd s.hart.fmt s.hart.vlv (cdiv s.hart.vlv (blockLen s.hart.fmt)) (cdiv s.hart.vlv superLen)
      (s.hart.fmt == 0x16) (blockMoved s.hart vd a m)
      (companionValue s.hart (vd + s.hart.grp) (a + s.hart.grp) 8 (bringsScale s.hart m s.hart.vri.toNat s.hart.vlv (blockLen s.hart.fmt)))
      (companionValue s.hart (vd + s.hart.grp + 1) (a + s.hart.grp + 1) 32 (bringsScale s.hart m s.hart.vri.toNat s.hart.vlv superLen)))) := by
  obtain ⟨-, -, -, hu, -, clean⟩ := id plain
  have unbound : Unbound s.hart := hu
  have hc : Clean s.hart := clean
  have one : vd + s.hart.grp ≤ 32 := by split at fits <;> omega
  have other (q : Nat) (out : vd + s.hart.grp ≤ q) (img : Nat) : (writeGroup s.hart s.hart.capBits vd s.hart.fmt s.hart.vlv img 0 s.hart.grp).vreg q = s.hart.vreg q :=
    (vreg_writeGroup _ _ _ _ _ _ _ _ q one).trans (if_neg (by omega))
  unfold moveBlocks
  dsimp only
  rw [unbound.readySources]
  dsimp only
  rw [firstFault_none (f := chunksFault s []) fun e _ => rfl]
  dsimp only
  rw [mergeImg_on hc fun e => hc.elemBad _ _ _ _]
  show finishVec 0 (s.withHart (copyCompanions s.hart vd a s.hart.vri.toNat s.hart.vlv (some s.hart.vlv) id id _ _
    (writeGroup s.hart s.hart.capBits vd s.hart.fmt s.hart.vlv (pack (elemWidth s.hart.fmt) s.hart.vlv (blockMoved s.hart vd a m)) 0 s.hart.grp))) = _
  rw [copyCompanions_written hc (hc.writeGroup _ _ _ _ _ _ one) fits (by rw [writeGroup_frame]; rfl) (other _ (Nat.le_refl _) _) (other _ (Nat.le_succ _) _)]
  rfl

theorem bringsScale_eq (s : State) (m : MaskField) (u j : Nat) : bringsScale s.hart m s.hart.vri.toNat s.hart.vlv u j = movesScale s m u j := by
  rw [bringsScale, movesScale, unitActive_eq, Bool.and_assoc, Bool.and_comm, Bool.and_comm (decide (s.hart.vri.toNat ≤ _))]

/-- R141. -/
theorem vectorBlockMoves : Claim.VectorBlockMoves := by
  unfold Claim.VectorBlockMoves
  intro s vd a m plain block fit f B
  obtain ⟨steady, legal, still, hu, -, -⟩ := id plain
  have unbound : Unbound s.hart := hu
  have fits : vd.toNat + s.hart.grp + (if s.hart.fmt = 0x16 then 2 else 1) ≤ 32 := by
    rw [← compCount_block block]
    exact of_decide_eq_true ((Bool.and_eq_true _ _).mp (fit vd List.mem_cons_self)).2
  have groups : groupsFit [typeOpnd s.hart vd.toNat false true, typeOpnd s.hart a.toNat true false] = true :=
    (congrArg₂ (· && ·) (fit vd List.mem_cons_self) (congrArg (· && true) (fit a (List.mem_cons_of_mem _ List.mem_cons_self)))).trans rfl
  have runs : exec (.vmv vd a m) s = .next (moveBlocks vd.toNat a.toNat m s) := by
    refine (if_pos (by rw [block, legal]; rfl)).trans (congrArg Host.Outcome.next ((held_still still _).trans ?_))
    dsimp only
    rw [unbound.vecCheck legal _ groups rfl (fun c => absurd c Bool.false_ne_true)]
  have puts := putBlocks_holds s s.hart.vlv (cdiv s.hart.vlv B) (cdiv s.hart.vlv superLen) (s.hart.fmt == 0x16) (fmt_lt s.hart) (vd := vd.toNat)
    (elem := blockMoved s.hart vd.toNat a.toNat m)
    (scale := companionValue s.hart (vd.toNat + s.hart.grp) (a.toNat + s.hart.grp) 8 (bringsScale s.hart m s.hart.vri.toNat s.hart.vlv B))
    (super := companionValue s.hart (vd.toNat + s.hart.grp + 1) (a.toNat + s.hart.grp + 1) 32 (bringsScale s.hart m s.hart.vri.toNat s.hart.vlv superLen))
    (by simpa only [beq_iff_eq] using fits) (fun e _ => by unfold blockMoved; split; exacts [cleanElem_lt _ _, elemAt_lt _ _ _ _ _ _])
    (fun j _ => elemAt_lt _ _ _ _ _ _) (fun k _ => elemAt_lt _ _ _ _ _ _)
  obtain ⟨elems, scales, supers, only⟩ := puts
  refine ⟨_, runs.trans (congrArg Host.Outcome.next ((moveBlocks_puts plain fits).trans (finishVec_v steady BitVec.zero_and (putBlocks_frame _ _ _ _ _ _ _ _ _ _)))),
    groupIs_congr (fun e he => ?_) elems, groupIs_congr (fun j hj => ?_) scales, fun nl4 => groupIs_congr (fun k hk => ?_) (supers (beq_iff_eq.2 nl4)), ?_⟩
  · refine if_congr (iff_of_eq (congrArg (· = true) ?_)) rfl rfl
    rw [movesElem, unitActive_eq, Bool.and_assoc, Bool.and_comm, Bool.and_comm (decide (s.hart.vri.toNat ≤ e))]
  · rw [companionValue, bringsScale_eq]
    show elemAt _ _ (if movesScale s m B j then a.toNat + s.hart.grp else vd.toNat + s.hart.grp) 1 8 j = scaleOf s (if movesScale s m B j then a else vd) j
    split <;> rfl
  · rw [companionValue, bringsScale_eq]
    show elemAt _ _ (if movesScale s m 16384 k then a.toNat + s.hart.grp + 1 else vd.toNat + s.hart.grp + 1) 1 32 k = superOf s (if movesScale s m 16384 k then a else vd) k
    split <;> rfl
  · simpa only [beq_iff_eq] using only

/-- Settles O36: each move is an element-wise run whose elements are the source's, a slice's or a copied block's, and its group is written whole. -/
theorem vectorMovement : Obligations.VectorMovement := ⟨vectorMoves, vectorSlicesAndTags, vectorBlockMoves⟩

end Sys2Proof.Machine

namespace Sys2Proof.Machine
/-! # Mask instructions (R168, R169) -/

open Sys2Proof.Claim

/-! ## Mask instructions (R168, R169) -/

/-- The elements a mask instruction touches: none when it is resumed at or above VL (R335). -/
def maskSpan (h : Hart) : Nat := if 0 < h.vri.toNat ∧ h.vlg ≤ h.vri.toNat then 0 else h.vlv

/-- The hart as a mask instruction reads it. -/
def maskView (h : Hart) : Hart := { h with vlv := maskSpan h }

theorem maskView_vlv (h : Hart) : (maskView h).vlv = maskSpan h := rfl

theorem maskStep_ill {s : State} {i : Instr} (k : Hart → Hart) (wf : wellFormed i = true) (still : s.hart.moving = false) (ill : s.hart.vill = true) :
    maskStep i s k = .next (trappedHere 0x10 (s.hart.vtype.setWidth 64) s) := by
  refine congrArg Host.Outcome.next ((checked_wellFormed wf s _).trans ((held_still still _).trans ?_))
  dsimp only
  rw [ill]
  exact trapHere_plain (by decide) _ s

theorem maskStep_legal {s : State} {i : Instr} (k : Hart → Hart) (wf : wellFormed i = true) (still : s.hart.moving = false) (legal : s.hart.vill = false) :
    maskStep i s k = .next (finishVec 0 (s.withHart { k (maskView s.hart) with vlv := s.hart.vlv })) := by
  refine congrArg Host.Outcome.next ((checked_wellFormed wf s _).trans ((held_still still _).trans ?_))
  dsimp only
  rw [legal, ← Bool.decide_and]
  rw [show (if decide (0 < s.hart.vri.toNat ∧ s.hart.vlg ≤ s.hart.vri.toNat) then 0 else s.hart.vlv) = maskSpan s.hart from if_congr decide_eq_true_iff rfl rfl]
  rfl

theorem putMask_view (h : Hart) (md : Reg) (bits : Nat) :
    { putMask (maskView h) md bits with vlv := h.vlv } = h.setMask md.toNat (mergeMask (h.mask md.toNat) bits (maskSpan h)) := by
  show { Hart.setMask (maskView h) md.toNat (mergeMask (h.mask md.toNat) bits (maskSpan h)) with vlv := h.vlv } = _
  unfold Hart.setMask
  split <;> rfl

theorem setX_view (h : Hart) (d : Reg) (v : Word) : { (maskView h).setX d v with vlv := h.vlv } = h.setX d v := by
  unfold Hart.setX
  split <;> rfl

theorem testBit_maskIn (h : Hart) (a : Reg) (e : Nat) : (maskIn (maskView h) a).testBit e = (decide (e < maskSpan h) && (h.mask a.toNat).testBit e) :=
  Nat.testBit_mod_two_pow _ _ _

/-- What a mask instruction says of the trap under VILL and of the mask it writes (R20, R168). -/
def WritesMask (i : Instr) (s : State) (md : Reg) (f : Nat → Bool) : Prop :=
  (s.hart.vill = true → exec i s = .next (trappedHere 0x10 (s.hart.vtype.setWidth 64) s))
    ∧ (s.hart.vill = false → MaskWrites i s md (fun e => decide (e < maskSpan s.hart)) f 0)

section
variable {s : State} {i : Instr} {md a b d : Reg} (steady : Steady s) (still : s.hart.moving = false)
include steady still

theorem maskStep_writes (bits : Hart → Nat) (f : Nat → Bool) (runs : exec i s = maskStep i s (fun h => putMask h md (bits h))) (wf : wellFormed i = true)
    (value : ∀ e < maskSpan s.hart, (bits (maskView s.hart)).testBit e = f e) : WritesMask i s md f := by
  refine ⟨fun ill => runs.trans (maskStep_ill _ wf still ill), fun legal _ =>
    ⟨mergeMask (s.hart.mask md.toNat) (bits (maskView s.hart)) (maskSpan s.hart), ?_, fun e => ?_⟩⟩
  · rw [runs, maskStep_legal _ wf still legal, putMask_view, finishVec_steady (setMask_steady steady _ _) (fl := 0) BitVec.zero_and, State.withHart_hart, Hart.setMask_pc]
    rfl
  · rw [testBit_mergeMask]
    by_cases low : e < maskSpan s.hart
    · rw [if_pos low, if_pos (decide_eq_true low), value e low]
    · rw [if_neg low, if_neg fun c => low (of_decide_eq_true c)]

/-- A counting instruction: the trap under VILL, and what it writes to x[d] (R169). -/
theorem maskStep_counts (v : Hart → Word) (runs : exec i s = maskStep i s (fun h => h.setX d (v h))) (wf : wellFormed i = true) :
    (s.hart.vill = true → exec i s = .next (trappedHere 0x10 (s.hart.vtype.setWidth 64) s))
      ∧ (s.hart.vill = false → exec i s = .next (wrote 4 d (v (maskView s.hart)) (s.withHart { s.hart with vri := 0 }))) := by
  refine ⟨fun ill => runs.trans (maskStep_ill _ wf still ill), fun legal => ?_⟩
  rw [runs, maskStep_legal _ wf still legal, setX_view, finishVec_setX (q := s) (h := s.hart) steady]

end

/-- The greatest set bit below a length, as a list's last (R169). -/
theorem log2_of_bits {n x : Nat} (lt : x < 2 ^ n) :
    match ((List.range n).filter x.testBit).reverse with
    | [] => x = 0
    | e :: _ => x ≠ 0 ∧ e = Nat.log2 x := by
  induction n with
  | zero => exact Nat.lt_one_iff.1 lt
  | succ n ih =>
    rw [List.range_succ, List.filter_append, List.reverse_append, List.filter_cons, List.filter_nil]
    have half : x / 2 ^ n < 2 := Nat.div_lt_of_lt_mul (by rw [← Nat.pow_succ]; exact lt)
    by_cases top : x.testBit n = true
    · rw [if_pos top]
      have pos : 2 ^ n ≤ x := Nat.ge_two_pow_of_testBit top
      have ne : x ≠ 0 := fun z => by rw [z] at pos; exact absurd pos (Nat.not_le.2 (Nat.two_pow_pos n))
      exact ⟨ne, ((Nat.log2_eq_iff ne).2 ⟨pos, lt⟩).symm⟩
    · rw [if_neg top]
      have low : x < 2 ^ n := by
        rw [Nat.testBit_eq_decide_div_mod_eq, decide_eq_true_eq] at top
        refine Nat.lt_of_not_le fun ge => ?_
        have pos := Nat.div_pos ge (Nat.two_pow_pos n)
        generalize x / 2 ^ n = q at half top pos
        omega
      exact ih low

/-- The bits that a counting instruction selects (R169). -/
theorem testBit_maskSet (h : Hart) (a : Reg) (m : MaskField) (e : Nat) : (maskSet (maskView h) a m).testBit e
    = (decide (e < maskSpan h) && ((h.mask a.toNat).testBit e && (m == 0 || (h.mask m.toNat).testBit e))) := by
  unfold maskSet
  rw [Nat.testBit_and, testBit_maskIn]
  cases hm : m == 0 with
  | true => 
    show (_ && (2 ^ maskSpan h - 1).testBit e) = _
    rw [Nat.testBit_two_pow_sub_one]
    cases decide (e < maskSpan h) <;> simp
  | false =>
    show (_ && (h.mask m.toNat).testBit e) = _
    rw [Bool.and_assoc, Bool.false_or]

/-- The elements that a counting instruction counts. -/
theorem filter_maskSet (h : Hart) (a : Reg) (m : MaskField) : (List.range (maskSpan h)).filter (maskSet (maskView h) a m).testBit
    = (List.range (maskSpan h)).filter (fun e => (h.mask a.toNat).testBit e && (m == 0 || (h.mask m.toNat).testBit e)) :=
  List.filter_congr fun e he => by rw [testBit_maskSet, decide_eq_true (List.mem_range.1 he), Bool.true_and]

theorem maskSet_lt (h : Hart) (a : Reg) (m : MaskField) : maskSet (maskView h) a m < 2 ^ maskSpan h :=
  Nat.lt_of_le_of_lt Nat.and_le_left (Nat.mod_lt _ (Nat.two_pow_pos _))

theorem testBit_allOnes (h : Hart) (e : Nat) : (allOnes (maskView h)).testBit e = decide (e < maskSpan h) := Nat.testBit_two_pow_sub_one _ _

/-- R168, R169. -/
theorem maskInstructions : Claim.MaskInstructions := by
  unfold Claim.MaskInstructions
  intro s md a b d m imm steady still dest source n bit sh writes picks counts
  have wf1 : (maskReg md && maskReg a) = true := by rw [dest, source]; rfl
  have inv {x e : Nat} (lt : x < 2 ^ maskSpan s.hart) (low : e < maskSpan s.hart) : (allOnes (maskView s.hart) - x).testBit e = !x.testBit e := by
    have := Nat.testBit_two_pow_sub_succ lt e
    rw [decide_eq_true low, Bool.true_and] at this
    rw [← this]
    congr 1
    show 2 ^ maskSpan s.hart - 1 - x = _
    omega
  have short (r : Reg) : maskIn (maskView s.hart) r < 2 ^ maskSpan s.hart := Nat.mod_lt _ (Nat.two_pow_pos _)
  have read (r : Reg) {e : Nat} (low : e < maskSpan s.hart) : (maskIn (maskView s.hart) r).testBit e = bit r e := by
    rw [testBit_maskIn, decide_eq_true low, Bool.true_and]
  refine ⟨fun second => ?two, ?mnot, ?mmv, ?mset, ?mclr, ?mshl, ?mshr, ?mpopc, ?mfirst, ?mlast⟩
  case two =>
    have wf : (maskReg md && maskReg a && maskReg b) = true := by rw [wf1, second]; rfl
    refine ⟨maskStep_writes steady still (fun h => maskIn h a &&& maskIn h b) _ rfl wf fun e low => ?_,
      maskStep_writes steady still (fun h => maskIn h a ||| maskIn h b) _ rfl wf fun e low => ?_,
      maskStep_writes steady still (fun h => maskIn h a ^^^ maskIn h b) _ rfl wf fun e low => ?_,
      maskStep_writes steady still (fun h => maskIn h a &&& (allOnes h - maskIn h b)) _ rfl wf fun e low => ?_⟩
    · rw [Nat.testBit_and, read a low, read b low]
    · rw [Nat.testBit_or, read a low, read b low]
    · rw [Nat.testBit_xor, read a low, read b low]
    · rw [Nat.testBit_and, inv (short b) low, read a low, read b low]
  case mnot => exact maskStep_writes steady still (fun h => allOnes h - maskIn h a) _ rfl wf1 fun e low => by rw [inv (short a) low, read a low]
  case mmv => exact maskStep_writes steady still (fun h => maskIn h a) _ rfl wf1 fun e low => read a low
  case mset => exact maskStep_writes steady still allOnes _ rfl dest fun e low => by rw [testBit_allOnes, decide_eq_true low]
  case mclr => exact maskStep_writes steady still (fun _ => 0) _ rfl dest fun e _ => Nat.zero_testBit e
  case mshl =>
    refine maskStep_writes steady still (fun h => maskUp h.vlv (maskShift s b imm) (maskIn h a)) _ rfl wf1 fun e low => ?_
    show (maskUp (maskSpan s.hart) sh _).testBit e = _
    unfold maskUp
    split
    · rw [Nat.testBit_mod_two_pow, decide_eq_true low, Bool.true_and, Nat.testBit_shiftLeft]
      by_cases reach : sh ≤ e
      · rw [read a (Nat.lt_of_le_of_lt (Nat.sub_le _ _) low)]
      · rw [decide_eq_false reach, Bool.false_and, Bool.false_and]
    · rw [Nat.zero_testBit, decide_eq_false (by omega), Bool.false_and]
  case mshr =>
    refine maskStep_writes steady still (fun h => maskDown h.vlv (maskShift s b imm) (maskIn h a)) _ rfl wf1 fun e low => ?_
    show (maskDown (maskSpan s.hart) sh _).testBit e = (decide (e + sh < maskSpan s.hart) && _)
    unfold maskDown
    split
    · rw [Nat.testBit_shiftRight, testBit_maskIn, Nat.add_comm]
    · rw [Nat.zero_testBit, decide_eq_false (by omega), Bool.false_and]
  case mpopc =>
    refine Eq.mp (congrArg (counts _) (congrArg (BitVec.ofNat 64) ?_))
      (maskStep_counts (i := .mpopc d a m) steady still (fun h => BitVec.ofNat 64 (onesIn h.vlv (maskSet h a m))) rfl source)
    rw [onesIn_eq]
    exact congrArg List.length (filter_maskSet s.hart a m)
  case mfirst =>
    refine Eq.mp (congrArg (counts _) ?_) (maskStep_counts (i := .mfirst d a m) steady still
      (fun h => match (List.range h.vlv).find? (maskSet h a m).testBit with | some e => BitVec.ofNat 64 e | none => 0xFFFF_FFFF_FFFF_FFFF) rfl source)
    rw [maskView_vlv, ← List.head?_filter, filter_maskSet]
    show _ = match (List.range (maskSpan s.hart)).filter _ with | [] => _ | e :: _ => _
    generalize (List.range (maskSpan s.hart)).filter (fun e => (s.hart.mask a.toNat).testBit e && (m == 0 || (s.hart.mask m.toNat).testBit e)) = l
    cases l <;> rfl
  case mlast =>
    refine Eq.mp (congrArg (counts _) ?_) (maskStep_counts (i := .mlast d a m) steady still
      (fun h => if maskSet h a m = 0 then 0xFFFF_FFFF_FFFF_FFFF else BitVec.ofNat 64 (Nat.log2 (maskSet h a m))) rfl source)
    have top := log2_of_bits (maskSet_lt s.hart a m)
    rw [filter_maskSet] at top
    show _ = match ((List.range (maskSpan s.hart)).filter _).reverse with | [] => _ | e :: _ => _
    generalize ((List.range (maskSpan s.hart)).filter (fun e => (s.hart.mask a.toNat).testBit e && (m == 0 || (s.hart.mask m.toNat).testBit e))).reverse = l at top ⊢
    cases l with
    | nil => exact if_pos top
    | cons e l => exact (if_neg top.1).trans (congrArg (BitVec.ofNat 64) top.2.symm)

end Sys2Proof.Machine

namespace Sys2Proof.Machine
/-! # Vector loads, mask loads and stream chunks that evict what they have still to read (O37, O40, O41) -/

open Sys2Proof.Claim

/-! ## A load that evicts what it has still to read (R300, R310)

An L1 may hold a sector of a CXL window whose link has since gone down: it reads there unpoisoned, and the check of a vector load passes. If an earlier element of the
same load fills the L1 set of that sector, the copy can be the one that makes room; the later element then misses, asks the home, and the down link is reported (R310): a
record goes into the monitor's ring and a message to the host. -/

/-- A hart of 64 KiB of register file whose core's L1 has 24 ways. -/
def staleHart : Hart := { Hart.init with run := .ready, status := 0, vtype := 3, vlg := 2, vlv := 2, granted := true, rscg := 4 }

/-- An L1 set that is full; the line used longest ago lies in the first CXL window. -/
def staleL1 : List L1Sector :=
  (List.range 23).map (fun i => { addr := 0x8000 * (i + 1), data := 0, upset := 0 }) ++ [{ addr := 0x1000_0000_0000, data := 0, upset := 0 }]

/-- The link of the first window is down, and the monitor has a ring; x10 and x11 are the base and the stride of two elements: one in HBM, one in that window. -/
def staleState : State :=
  ({ State.reset with
      hart := staleHart, cores := [(0, { Core.init with l1 := staleL1 })], links := { Links.init with cxlUp := 0xE }, ras := { Ras.init with mbase := 0x10_0000 } }.setX 10 0).setX
    11 0x1000_0000_0000

/-- What `exec` leaves queued for the host. -/
def messages (o : Host.Outcome State Fault Refusal) : Option (List (Nat × Nat)) :=
  match o with
  | .next t => some t.links.msix
  | _ => none

/-- An instruction that moves caches and rows alone sends no message. -/
theorem messages_of_sameButRows {i : Instr} {s t u : State} (runs : exec i s = .next t) (same : SameButRows t u) (quiet : u.links = s.links) :
    messages (exec i s) = some s.links.msix := by
  rw [runs, ← quiet]
  exact congrArg (fun l : Links => some l.msix) ((congrArg State.links same.1).trans rfl)

/-- Both elements pass their checks, and the load reports the down link. -/
theorem staleState_ready : (PlainVec staleState ∧ NoUpset staleState ∧ GroupsFit staleState [0] ∧ (staleState.getX 10).getLsbD 63 = false
    ∧ indexable staleState.hart.fmt = true) ∧ (∀ e < 2, Loadable staleState (stridedLoc staleState 10 11 64 e) e)
    ∧ messages (exec (.vlds 0 10 11 0 false false false) staleState) ≠ some staleState.links.msix := by
  unfold PlainVec Steady NoUpset GroupsFit Loadable
  decide +kernel

/-- Two elements: the first evicts the copy that the second's check has seen. -/
theorem not_vectorLoads : ¬ Claim.VectorLoads := by
  intro h
  obtain ⟨⟨plain, quiet, fits, near, wide⟩, loadable, reports⟩ := staleState_ready
  obtain ⟨-, strided, -⟩ := h staleState 0 10 11 0 false false false plain quiet fits near
  obtain ⟨t, v, runs, same, -⟩ := strided wide fun e does => loadable e (by
    simp only [Does, Bool.and_eq_true, decide_eq_true_eq] at does
    exact does.1.1)
  exact reports (messages_of_sameButRows runs same rfl)

/-- Refutes O40: a strided load of two elements, the second in a CXL window whose link is down but with its sector in the L1; filling the first element's sector takes that
copy's place, so the load reports the down link beside moving caches and rows. -/
theorem not_vectorMemory : ¬ Obligations.VectorMemory := fun h => not_vectorLoads h.1

open Sys2Proof.Claim

/-! ## The same eviction inside a mask load and a stream's chunk (R136, R170) -/

/-- A translation of one byte to a physical address, held by the core's TLB. -/
def byteEntry (va pa : Nat) : TlbEntry :=
  { part := 0, asid := 0, global := true, mon := false, stage1 := false, va := va, size := 1, ipa := pa, pa := pa, size2 := 1, p1 := allPerm, p2 := allPerm, uc := false,
    abench := none, viaG2 := false }

/-- `staleState` with a mask of two bytes, the first translated to HBM and the second to the window behind the down link. -/
def staleMask : State :=
  { staleState with
      hart := { staleState.hart with vlg := 16, vlv := 16 }
      cores := [(0, { Core.init with l1 := staleL1, tlb := [byteEntry 0 0, byteEntry 1 0x1000_0000_0000] })] }

/-- Both bytes pass their checks, and the load reports the down link. -/
theorem staleMask_ready : (Steady staleMask ∧ staleMask.hart.moving = false ∧ staleMask.hart.vill = false ∧ staleMask.hart.stores = [] ∧ maskReg 1 = true
    ∧ (staleMask.getX 10).getLsbD 63 = false ∧ NoUpset staleMask) ∧ (∀ j < 2, Loadable staleMask (packedLoc (staleMask.getX 10) 8 j) j)
    ∧ messages (exec (.mld 1 10) staleMask) ≠ some staleMask.links.msix := by
  unfold Steady NoUpset Loadable
  decide +kernel

/-- Two bytes: the first evicts the copy that the second's check has seen. -/
theorem not_maskMemory : ¬ Claim.MaskMemory := by
  intro h
  obtain ⟨⟨steady, still, legal, empty, dest, near, quiet⟩, loadable, reports⟩ := staleMask_ready
  obtain ⟨t, img, runs, same, -⟩ := (h staleMask 1 10 steady still legal empty dest near).1 quiet fun j moves => loadable j (by
    simp only [Bool.and_eq_true, decide_eq_true_eq] at moves
    exact moves.2)
  exact reports (messages_of_sameButRows runs same rfl)

/-- Refutes O37 in its part on MLD: of two bytes of a mask, in two translated ranges whose lines share an L1 set, the first one's fill evicts the copy of the second one's
sector, which lies behind a down link; MLD reports that link beside moving caches and rows. (With pages of 4 KiB it takes a mask of 4,097 bytes.) -/
theorem not_masks : ¬ Obligations.Masks := fun h => not_maskMemory h.2

/-- A load stream of two elements: one in HBM, one in the window behind the down link. -/
def staleStream : Binding where
  scb := { base := 0, cols := 2, rows := 1, estride := 0x1000_0000_0000, rstride := 0, origin := 0, fmt := 3, dir := 0, nt := false, u := false, flag := 0, flagval := 0 }
  pos := 0
  ahead := []

/-- `staleState` with v24 bound to that stream. -/
def staleBound : State := staleState.withHart (staleState.hart.setBinding 24 (some staleStream))

/-- Both elements pass their checks; reading them as a chunk or ahead of it reports the down link. -/
theorem staleBound_ready : (Steady staleBound ∧ staleBound.hart.vill = false ∧ staleBound.hart.moving = false ∧ NoUpset staleBound ∧ staleBound.hart.stores = []
    ∧ staleBound.hart.grp = 1 ∧ isBlock staleBound.hart.fmt = false ∧ staleBound.hart.vri = 0 ∧ (∀ r, r < 32 → (staleBound.hart.vreg r).poison = 0)
    ∧ staleBound.hart.binding 24 = some staleStream ∧ staleBound.hart.vlv * elemWidth staleBound.hart.fmt ≤ staleBound.hart.capBits
    ∧ staleBound.hart.binding 0 = none) ∧ (∀ e < 2, Loadable staleBound (staleStream.scb.loc (staleStream.pos + e)) e)
    ∧ messages (exec (.vmv 0 24 0) staleBound) ≠ some staleBound.links.msix
    ∧ messages (exec (.streamFetch staleBound.hart.id 0 2) staleBound) ≠ some staleBound.links.msix := by
  unfold Steady NoUpset Loadable
  decide +kernel

/-- Two elements of a chunk: the first evicts the copy that the second's check has seen. -/
theorem not_streamTransfers : ¬ Claim.StreamTransfers := by
  intro h
  obtain ⟨⟨steady, legal, still, quiet, empty, single, plain, fresh, clean, bound, room, free⟩, loadable, reports, -⟩ := staleBound_ready
  obtain ⟨consumes, -⟩ := h staleBound 0 10 0 staleStream steady legal still quiet empty single plain fresh clean bound rfl (by decide) rfl room
  obtain ⟨t, v, runs, same, -⟩ := consumes rfl free fun e live => loadable e (by
    simp only [Bool.and_eq_true, decide_eq_true_eq] at live
    exact live.1)
  exact reports (messages_of_sameButRows runs same rfl)

/-- Refutes O41 in its part on consumed chunks: a chunk of two elements, the second in a CXL window whose link is down but with its sector in the L1; filling the first
element's sector takes that copy's place, so VMV reports the down link beside moving caches and rows. -/
theorem not_streams : ¬ Obligations.Streams := fun h => not_streamTransfers h.2

end Sys2Proof.Machine

namespace Sys2Proof.Machine
/-! # Remote gathers that resume (O42) -/

open Sys2Proof.Claim

/-! ## A resumed fault-only-first gather (R126, R233)

A fault-only-first load keeps its trap for the first active element: a later one that cannot be read ends the vector there. An instruction that resumes at VRI has active
elements below VRI, so the first element it still has to do is not its first active one. -/

/-- A hart that resumes at element 1 of 2, with an index group of zeros in v8. -/
def resumedHart : Hart :=
  { Hart.init with
      run := .ready, status := 0, vtype := 3, vlg := 2, vlv := 2, vri := 1, granted := true
      v := Hart.init.v.set 8 { img := 0, fmt := 3, vlen := 2, dirty := true, prog := 2, poison := 0 } }

def resumedState : State := { State.reset with hart := resumedHart }

/-- The vector length that `exec` leaves. -/
def lengthLeft (o : Host.Outcome State Fault Refusal) : Option Nat :=
  match o with
  | .next t => some t.hart.vlv
  | _ => none

/-- Element 1 is the first to be done; the gather cuts the length there. -/
theorem resumedState_ready : PlainVec resumedState ∧ groupFits 0 resumedState.hart.grp (compCount resumedState.hart.fmt) = true
    ∧ indexable resumedState.hart.fmt = true ∧ IndexFits resumedState 0 8 ∧ (resumedState.hart.vreg 8).fmt = 3 ∧ (doneElems resumedState 0 false).head? = some 1
    ∧ (indexedLoc resumedState 0 8 (elemWidth resumedState.hart.fmt) 1).addr = 0
    ∧ lengthLeft (exec (.vgathx 0 0 8 0 true false false) resumedState) ≠ some resumedState.hart.vlv := by
  unfold PlainVec Steady IndexFits
  decide +kernel

/-- Element 1 names a local address; the gather ends before it, and no trap is taken. -/
theorem not_remoteVectors : ¬ Claim.RemoteVectors := by
  intro h
  obtain ⟨plain, fits, wide, index, tag, first, near, cut⟩ := resumedState_ready
  obtain ⟨-, -, -, ⟨-, refused⟩, -⟩ := h resumedState 0 0 8 0 true false false 0 plain fits wide
  obtain ⟨t, v, runs, same, -⟩ := (refused ⟨index, tag⟩).2 1 first (by beta_reduce; rw [near]; exact Nat.zero_mod _) (by beta_reduce; rw [near]; rfl)
  refine cut ?_
  rw [runs, same]
  rfl

/-- Refutes O42 in its part on refused elements: a fault-only-first VGATHX that resumes at element 1, a local address, with element 0 active below VRI, shortens the vector
instead of trapping 0x0D there. -/
theorem not_vectorAtomicsAndRemotes : ¬ Obligations.VectorAtomicsAndRemotes := fun h => not_remoteVectors h.2

end Sys2Proof.Machine

namespace Sys2Proof.Machine
/-! # Reductions (O39) -/

open Sys2Proof.Claim

/-! ## Reductions on plain registers (R67 to R69, R166, R167) -/

/-- A running value without a mark. -/
def sound (p : Nat × BitVec 7) : RedVal := { code := p.1, bad := false, flags := p.2 }

theorem join_sound (f : Nat → Nat → Nat × BitVec 7) (x y : Nat × BitVec 7) :
    (sound x).join f (sound y) = sound ((f x.1 y.1).1, x.2 ||| y.2 ||| (f x.1 y.1).2) := rfl

/-- The fold of a reduction over elements without marks. -/
theorem foldl_sound (f : Nat → Nat → Nat × BitVec 7) (x : Nat → Nat) (ok : Nat → Bool) (l : List Nat) (p : Nat × BitVec 7) :
    l.foldl (fun acc e => if ok e then acc.join f (sound (x e, 0)) else { acc.join f (sound (x e, 0)) with flags := acc.flags }) (sound p)
      = sound (l.foldl (fun p e => ((f p.1 (x e)).1, if ok e then p.2 ||| (f p.1 (x e)).2 else p.2)) p) := by
  induction l generalizing p with
  | nil => rfl
  | cons e l ih =>
    rw [List.foldl_cons, List.foldl_cons, ← ih, join_sound]
    congr 1
    split
    · exact congrArg (fun fl => sound (_, fl ||| _)) BitVec.or_zero
    · rfl

/-- A subtree without a leaf raises no flag. -/
theorem treeRed_none (f : Nat → Nat → Nat × BitVec 7) (leaf : Nat → Option Nat) (d base : Nat) (h : (treeRed f leaf d base).1 = none) : (treeRed f leaf d base).2 = 0 := by
  induction d generalizing base with
  | zero => rfl
  | succ d ih =>
    have left := ih base
    have right := ih (base + 2 ^ d)
    rw [treeRed] at h ⊢
    generalize treeRed f leaf d base = p at h left ⊢
    generalize treeRed f leaf d (base + 2 ^ d) = q at h right ⊢
    obtain ⟨_ | x, p⟩ := p
    · obtain ⟨y, q⟩ := q
      obtain rfl : p = 0 := left rfl
      obtain rfl : q = 0 := right h
      rfl
    · obtain ⟨_ | y, q⟩ := q <;> exact absurd h (by simp)

/-- The tree of a reduction over elements without marks (R68). -/
theorem redTree_sound (f : Nat → Nat → Nat × BitVec 7) (leaf : Nat → Option Nat) (d base : Nat) :
    redTree (fun e => (leaf e).map (fun x => sound (x, 0))) f d base = (treeRed f leaf d base).1.map (fun y => sound (y, (treeRed f leaf d base).2)) := by
  induction d generalizing base with
  | zero => rfl
  | succ d ih =>
    rw [redTree, ih, ih, treeRed]
    have left := treeRed_none f leaf d base
    have right := treeRed_none f leaf d (base + 2 ^ d)
    generalize treeRed f leaf d base = p at left ⊢
    generalize treeRed f leaf d (base + 2 ^ d) = q at right ⊢
    obtain ⟨_ | x, p⟩ := p
    · obtain ⟨y, q⟩ := q
      obtain rfl : p = 0 := left rfl
      exact congrArg (fun fl => y.map (fun y => sound (y, fl))) BitVec.zero_or.symm
    · obtain ⟨_ | y, q⟩ := q
      · obtain rfl : q = 0 := right rfl
        exact congrArg (fun fl => some (sound (x, fl))) BitVec.or_zero.symm
      · exact congrArg some (join_sound f (x, p) (y, q))

/-- A reduction that starts again at or above VL, or an ordered one that goes on, keeps what v[vd] holds (R34, R335). -/
def resumesRed (h : Hart) (sp : RedSpec) : Bool := h.vri.toNat > 0 && (sp.resumes || h.vri.toNat ≥ h.vlg)

/-- The elements a reduction may add. -/
def redActive (h : Hart) (sp : RedSpec) (m : MaskField) (neg : Bool) (e : Nat) : Bool := e < h.vlv && h.selects m neg e && !(resumesRed h sp && !sp.resumes)

/-- The elements it adds now. -/
def redUsed (h : Hart) (sp : RedSpec) (m : MaskField) (neg : Bool) : List Nat :=
  idxs h.vlv (fun e => (if sp.resumes then h.vri.toNat else 0) ≤ e && redActive h sp m neg e)

/-- What it starts from. -/
def redInit (s : State) (sp : RedSpec) (vd b : Reg) (vx : Bool) : Nat :=
  if resumesRed s.hart sp then elemAt s.hart s.hart.capBits vd.toNat 1 (elemWidth s.hart.fmt) 0
  else if vx then (s.getX b).toNat % 2 ^ elemWidth s.hart.fmt else elemAt s.hart s.hart.capBits b.toNat 1 (elemWidth s.hart.fmt) 0

/-- The value and flags a reduction comes to on registers without a mark, before R70 has judged its flags. -/
def redPair (s : State) (sp : RedSpec) (vd a b : Reg) (m : MaskField) (neg vx : Bool) : Nat × BitVec 7 :=
  let x (e : Nat) : Nat := elemOf s a (elemWidth s.hart.fmt) e
  let f := sp.add s.hart.fmt (s.hart.vrm.getD 0)
  match sp.kind with
  | .ordered => foldRed f x (fun e => !(sp.resumes && !validOf s a (elemWidth s.hart.fmt) e)) (redInit s sp vd b vx) (redUsed s.hart sp m neg)
  | .tree => match treeRed f (fun e => if redActive s.hart sp m neg e then some (x e) else none) (clog2 s.hart.vlg) 0 with
    | (some y, fl) => ((f (redInit s sp vd b vx) y).1, fl ||| (f (redInit s sp vd b vx) y).2)
    | (none, _) => (redInit s sp vd b vx, 0)

/-- What a reduction leaves (R70). -/
def redValue (s : State) (sp : RedSpec) (vd a b : Reg) (m : MaskField) (neg vx : Bool) : Nat × BitVec 7 :=
  ((redPair s sp vd a b m neg vx).1,
    if sp.resumes || (redUsed s.hart sp m neg).any (validOf s a (elemWidth s.hart.fmt)) then (redPair s sp vd a b m neg vx).2 else 0)

/-- The running value that a reduction ends with, on registers without a mark. -/
def redRun (s : State) (sp : RedSpec) (vd a b : Reg) (m : MaskField) (neg vx : Bool) (used : List Nat) : RedVal :=
  let x (e : Nat) : Nat := elemOf s a (elemWidth s.hart.fmt) e
  let f := sp.add s.hart.fmt (s.hart.vrm.getD 0)
  match sp.kind with
  | .ordered => used.foldl (fun acc e =>
      if sp.resumes && !validOf s a (elemWidth s.hart.fmt) e then { acc.join f (sound (x e, 0)) with flags := acc.flags } else acc.join f (sound (x e, 0)))
      (sound (redInit s sp vd b vx, 0))
  | .tree => match redTree (fun e => if redActive s.hart sp m neg e then some (sound (x e, 0)) else none) f (clog2 s.hart.vlg) 0 with
    | some y => (sound (redInit s sp vd b vx, 0)).join f y
    | none => sound (redInit s sp vd b vx, 0)

theorem redRun_sound (s : State) (sp : RedSpec) (vd a b : Reg) (m : MaskField) (neg vx : Bool) :
    redRun s sp vd a b m neg vx (redUsed s.hart sp m neg) = sound (redPair s sp vd a b m neg vx) := by
  unfold redRun redPair
  dsimp only
  cases sp.kind with
  | ordered =>
    refine Eq.trans ?_ (foldl_sound (sp.add s.hart.fmt (s.hart.vrm.getD 0)) (elemOf s a (elemWidth s.hart.fmt))
      (fun e => !(sp.resumes && !validOf s a (elemWidth s.hart.fmt) e)) (redUsed s.hart sp m neg) (redInit s sp vd b vx, 0))
    refine List.foldl_ext _ _ _ fun acc e _ => ?_
    dsimp only
    cases (sp.resumes && !validOf s a (elemWidth s.hart.fmt) e) <;> rfl
  | tree =>
    have leaves : (fun e => if redActive s.hart sp m neg e then some (sound (elemOf s a (elemWidth s.hart.fmt) e, 0)) else none)
        = fun e => (if redActive s.hart sp m neg e then some (elemOf s a (elemWidth s.hart.fmt) e) else none).map (fun x => sound (x, 0)) := by
      funext e
      cases redActive s.hart sp m neg e <;> rfl
    dsimp only
    rw [leaves, redTree_sound]
    generalize treeRed _ _ _ _ = t
    obtain ⟨_ | y, fl⟩ := t
    · rfl
    · exact congrArg (fun fl => sound (_, fl ||| _)) BitVec.zero_or

theorem filter_lt_idxs {n : Nat} {q : Nat → Bool} : (idxs n q).filter (fun e => decide (e < n)) = idxs n q := by
  rw [List.filter_eq_self]
  exact fun e he => decide_eq_true (List.mem_range.1 (List.mem_filter.1 he).1)

theorem pack_one (w v : Nat) : pack w 1 (fun _ => v) = lowBits w v := rfl

/-- The initial value comes from one register (R166). -/
theorem grp_single (h : Hart) : ({ h with vtype := h.vtype &&& 0xFFC7F } : Hart).grp = 1 := by
  have field : (h.vtype &&& 0xFFC7F).extractLsb' 7 3 = 0 := by
    refine BitVec.eq_of_getLsbD_eq fun i hi => ?_
    rw [BitVec.getLsbD_extractLsb', BitVec.getLsbD_and]
    interval_cases i <;> simp
  exact congrArg (fun x : BitVec 3 => 2 ^ x.toNat) field

theorem operandB_single (h : Hart) (b : Nat) (x : Word) (vx : Bool) (w e : Nat) :
    operandB { h with vtype := h.vtype &&& 0xFFC7F } b x vx w e = if vx then x.toNat % 2 ^ w else elemAt h h.capBits b 1 w e := by
  rw [operandB, grp_single]
  rfl

/-- A reduction on plain registers leaves its value in one element of v[vd] (R166, R167). -/
theorem vecReduce_reduces {s : State} {i : Instr} {vd a b : Reg} {m : MaskField} {neg vx : Bool} {sp : RedSpec} (runs : exec i s = vecReduce i vd a b m neg vx sp s)
    (wf : wellFormed i = true) (plain : PlainVec s) (fit : groupFits a.toNat s.hart.grp (compCount s.hart.fmt) = true)
    (far : overlaps vd.toNat 1 a.toNat s.hart.grp = false) (accept : sp.accept s.hart.fmt = true) (code : redCodeOk s.hart sp = true) :
    Reduces i s vd (redValue s sp vd a b m neg vx) := by
  obtain ⟨steady, legal, still, hu, -, clean⟩ := id plain
  have unbound : Unbound s.hart := hu
  have hc : Clean s.hart := clean
  intro un
  refine ⟨(writeGroup s.hart s.hart.capBits vd.toNat s.hart.fmt 1 (lowBits (elemWidth s.hart.fmt) (redValue s sp vd a b m neg vx).1) 0 1).v, ?_, ?_⟩
  · refine runs.trans (congrArg Host.Outcome.next ((checked_wellFormed wf s _).trans ((held_still still _).trans ?_)))
    dsimp only
    rw [unbound.vecCheck legal i (by rw [fit, far]; rfl) accept (fun c => absurd c Bool.false_ne_true)]
    dsimp only
    rw [if_pos code, unbound.streamCheck]
    dsimp only
    rw [unbound.readySources]
    dsimp only
    simp only [hc.elemBad, unbound.storeBinding, operandB_single, Bool.and_false, Bool.false_and, Bool.or_false, ite_self]
    rw [firstFault_none (l := idxs s.hart.vlv _) (f := fun e => earliest [chunksFault s [] e, if false = true then some (poisonTrap e) else none]) fun _ _ => rfl]
    have unmarked (l : List Nat) : l.any (fun _ => false) = false := List.any_eq_false.2 fun _ _ => Bool.false_ne_true
    show finishVec (flagIf (((redUsed s.hart sp m neg).filter fun e => decide (e < s.hart.vlv)).any fun _ => false) PSN ||| if sp.resumes || ((redUsed s.hart sp m neg).filter fun e => decide (e < s.hart.vlv)).any (validOf s a (elemWidth s.hart.fmt)) then (redRun s sp vd a b m neg vx ((redUsed s.hart sp m neg).filter fun e => decide (e < s.hart.vlv))).flags else 0)
      (State.withHart (if ((redUsed s.hart sp m neg).filter fun e => decide (e < s.hart.vlv)).any fun _ => false then { s with fresh := s.fresh + 1 } else s)
        (advanceStore (writeGroup (State.hart (if ((redUsed s.hart sp m neg).filter fun e => decide (e < s.hart.vlv)).any fun _ => false then { s with fresh := s.fresh + 1 } else s)) s.hart.capBits vd.toNat s.hart.fmt 1
          ((if ((redUsed s.hart sp m neg).filter fun e => decide (e < s.hart.vlv)).any fun _ => false then poisonedBits s 0 else (redRun s sp vd a b m neg vx ((redUsed s.hart sp m neg).filter fun e => decide (e < s.hart.vlv))).code) % 2 ^ elemWidth s.hart.fmt)
          (if (redRun s sp vd a b m neg vx ((redUsed s.hart sp m neg).filter fun e => decide (e < s.hart.vlv))).bad then 1 else 0) 1) vd.toNat s.hart.vlv)) = _
    rw [show (redUsed s.hart sp m neg).filter (fun e => decide (e < s.hart.vlv)) = redUsed s.hart sp m neg from filter_lt_idxs, unmarked]
    show finishVec (0 ||| if sp.resumes || (redUsed s.hart sp m neg).any (validOf s a (elemWidth s.hart.fmt)) then (redRun s sp vd a b m neg vx (redUsed s.hart sp m neg)).flags else 0)
      (s.withHart (advanceStore (writeGroup s.hart s.hart.capBits vd.toNat s.hart.fmt 1 ((redRun s sp vd a b m neg vx (redUsed s.hart sp m neg)).code % 2 ^ elemWidth s.hart.fmt)
        (if (redRun s sp vd a b m neg vx (redUsed s.hart sp m neg)).bad then 1 else 0) 1) vd.toNat s.hart.vlv)) = _
    rw [redRun_sound, Unbound.advanceStore (by unfold Unbound; rw [writeGroup_frame]; exact hu)]
    refine (congrArg (fun fl => finishVec fl _) BitVec.zero_or).trans ?_
    exact finishVec_v steady un (writeGroup_frame _ _ _ _ _ _ _ _)
  · have one : vd.toNat + 1 ≤ 32 := vd.isLt
    have holds := holdsGroup_written s 1 (val := fun _ => lowBits (elemWidth s.hart.fmt) (redValue s sp vd a b m neg vx).1) (fmt_lt s.hart) one
      (fun _ _ => Nat.mod_lt _ (Nat.two_pow_pos _))
    rw [pack_one, show ∀ w v, lowBits w (lowBits w v) = lowBits w v from fun _ _ => Nat.mod_mod _ _] at holds
    exact holds

/-! What each entry's sum comes to. -/

section Entries
variable {s : State} {vd a b : Reg} {m : MaskField} {neg vx : Bool} {sp : RedSpec}

/-- The active elements below VLV. -/
def selected (s : State) (m : MaskField) (neg : Bool) : List Nat := (List.range s.hart.vlv).filter (fun e => decide (e < s.hart.vlv) && s.hart.selects m neg e)

/-- The value of the initial element. -/
def redStart (s : State) (b : Reg) (vx : Bool) : Nat :=
  if vx then (s.getX b).toNat % 2 ^ elemWidth s.hart.fmt else elemAt s.hart s.hart.capBits b.toNat 1 (elemWidth s.hart.fmt) 0

theorem resumesRed_iff (fresh : sp.resumes = false) : resumesRed s.hart sp = true ↔ 0 < s.hart.vri.toNat ∧ s.hart.vlg ≤ s.hart.vri.toNat := by
  unfold resumesRed
  rw [fresh, Bool.false_or, Bool.and_eq_true, decide_eq_true_eq, decide_eq_true_eq]

theorem redActive_again (fresh : sp.resumes = false) (r : resumesRed s.hart sp = true) (e : Nat) : redActive s.hart sp m neg e = false := by
  rw [redActive, r, fresh]
  exact Bool.and_false _

theorem redActive_first (r : resumesRed s.hart sp = false) (e : Nat) :
    redActive s.hart sp m neg e = (decide (e < s.hart.vlv) && s.hart.selects m neg e) := by
  rw [redActive, r]
  exact Bool.and_true _

theorem redUsed_again (fresh : sp.resumes = false) (r : resumesRed s.hart sp = true) : redUsed s.hart sp m neg = [] := by
  refine List.filter_eq_nil_iff.2 fun e _ => ?_
  rw [redActive_again fresh r, Bool.and_false]
  exact Bool.false_ne_true

theorem redUsed_first (fresh : sp.resumes = false) (r : resumesRed s.hart sp = false) : redUsed s.hart sp m neg = selected s m neg := by
  refine List.filter_congr fun e _ => ?_
  rw [redActive_first r, fresh]
  simp

theorem redInit_again (r : resumesRed s.hart sp = true) : redInit s sp vd b vx = elemAt s.hart s.hart.capBits vd.toNat 1 (elemWidth s.hart.fmt) 0 := if_pos r

theorem redInit_first (r : resumesRed s.hart sp = false) : redInit s sp vd b vx = redStart s b vx := if_neg (by rw [r]; exact Bool.false_ne_true)

theorem treeRed_empty {f : Nat → Nat → Nat × BitVec 7} {leaf : Nat → Option Nat} (none : ∀ e, leaf e = none) (d base : Nat) : (treeRed f leaf d base).1 = .none := by
  induction d generalizing base with
  | zero => exact none base
  | succ d ih =>
    rw [treeRed]
    have left := ih base
    have right := ih (base + 2 ^ d)
    generalize treeRed f leaf d base = p at left ⊢
    generalize treeRed f leaf d (base + 2 ^ d) = q at right ⊢
    obtain ⟨_, p⟩ := p
    obtain ⟨_, q⟩ := q
    obtain rfl : _ = Option.none := left
    exact right

/-- A reduction that starts again after its end adds nothing (R335). -/
theorem redValue_again (fresh : sp.resumes = false) (r : resumesRed s.hart sp = true) :
    redValue s sp vd a b m neg vx = (elemAt s.hart s.hart.capBits vd.toNat 1 (elemWidth s.hart.fmt) 0, 0) := by
  have no : redPair s sp vd a b m neg vx = (elemAt s.hart s.hart.capBits vd.toNat 1 (elemWidth s.hart.fmt) 0, 0) := by
    unfold redPair
    simp only [redUsed_again fresh r, redInit_again r, redActive_again fresh r]
    cases sp.kind with
    | ordered => rfl
    | tree =>
      have e := treeRed_empty (f := sp.add s.hart.fmt (s.hart.vrm.getD 0)) (leaf := fun e => if false = true then some (elemOf s a (elemWidth s.hart.fmt) e) else none) (fun _ => rfl) (clog2 s.hart.vlg) 0
      dsimp only
      generalize treeRed _ _ _ _ = t at e ⊢
      obtain ⟨_, fl⟩ := t
      obtain rfl : _ = none := e
      rfl
  rw [redValue, no]
  exact congrArg (Prod.mk _) (ite_self _)

/-- A reduction in ascending order that starts afresh. -/
theorem redValue_ordered {g : Nat → Nat → Nat × BitVec 7} (fresh : sp.resumes = false) (ordered : sp.kind = .ordered) (r : resumesRed s.hart sp = false) (adds : sp.add s.hart.fmt (s.hart.vrm.getD 0) = g) :
    redValue s sp vd a b m neg vx =
      let p := foldRed g (elemOf s a (elemWidth s.hart.fmt)) (fun _ => true) (redStart s b vx) (selected s m neg)
      (p.1, if (selected s m neg).any (validOf s a (elemWidth s.hart.fmt)) then p.2 else 0) := by
  unfold redValue redPair
  simp only [adds, ordered, redUsed_first fresh r, redInit_first r, fresh, Bool.false_and, Bool.not_false, Bool.false_or]

/-- A reduction over the tree that starts afresh. -/
theorem redValue_tree {g : Nat → Nat → Nat × BitVec 7} (fresh : sp.resumes = false) (tree : sp.kind = .tree) (r : resumesRed s.hart sp = false) (adds : sp.add s.hart.fmt (s.hart.vrm.getD 0) = g) :
    redValue s sp vd a b m neg vx =
      match treeRed g
          (fun e => if decide (e < s.hart.vlv) && s.hart.selects m neg e then some (elemOf s a (elemWidth s.hart.fmt) e) else none) (clog2 s.hart.vlg) 0 with
      | (some y, fl) =>
        let q := g (redStart s b vx) y
        (q.1, if (selected s m neg).any (validOf s a (elemWidth s.hart.fmt)) then fl ||| q.2 else 0)
      | (none, _) => (redStart s b vx, 0) := by
  unfold redValue redPair
  simp only [adds, tree, redUsed_first fresh r, redInit_first r, redActive_first r, fresh, Bool.false_or]
  generalize treeRed _ _ _ _ = t
  obtain ⟨_ | y, fl⟩ := t
  · exact congrArg (Prod.mk _) (ite_self _)
  · rfl

/-- An ordered reduction that goes on from v[vd] and VRI (R67). -/
theorem redValue_onward {g : Nat → Nat → Nat × BitVec 7} (onward : sp.resumes = true) (ordered : sp.kind = .ordered) (adds : sp.add s.hart.fmt (s.hart.vrm.getD 0) = g) :
    redValue s sp vd a b m neg vx =
      if s.hart.vri = 0 then foldRed g (elemOf s a (elemWidth s.hart.fmt)) (validOf s a (elemWidth s.hart.fmt)) (redStart s b vx) (selected s m neg)
      else foldRed g (elemOf s a (elemWidth s.hart.fmt)) (validOf s a (elemWidth s.hart.fmt))
        (elemAt s.hart s.hart.capBits vd.toNat 1 (elemWidth s.hart.fmt) 0) ((selected s m neg).filter (fun e => decide (s.hart.vri.toNat ≤ e))) := by
  have used : redUsed s.hart sp m neg = (selected s m neg).filter (fun e => decide (s.hart.vri.toNat ≤ e)) := by
    unfold redUsed selected idxs
    rw [List.filter_filter]
    refine List.filter_congr fun e _ => ?_
    rw [redActive, onward]
    simp
  have resumed : resumesRed s.hart sp = decide (0 < s.hart.vri.toNat) := by
    rw [resumesRed, onward]
    exact Bool.and_true _
  unfold redValue redPair
  simp only [adds, ordered, used, onward, Bool.true_and, Bool.not_not, Bool.true_or, if_true]
  split
  · next zero =>
    rw [redInit_first (by rw [resumed, zero]; rfl), zero, show (selected s m neg).filter (fun e => decide ((0 : Word).toNat ≤ e)) = selected s m neg from List.filter_eq_self.2 fun e _ => decide_eq_true (Nat.zero_le e)]
  · next above =>
    rw [redInit_again (by rw [resumed, decide_eq_true_eq]; exact Nat.pos_of_ne_zero fun z => above (BitVec.eq_of_toNat_eq z))]

end Entries

/-- Folds that agree on values within a format's width. -/
theorem foldRed_congr {f g : Nat → Nat → Nat × BitVec 7} {P : Nat → Prop} {x : Nat → Nat} {ok : Nat → Bool} {l : List Nat} {i : Nat} (start : P i) (elems : ∀ e, P (x e))
    (same : ∀ y z, P y → P z → f y z = g y z ∧ P (g y z).1) : foldRed f x ok i l = foldRed g x ok i l := by
  unfold foldRed
  generalize (0 : BitVec 7) = fl
  induction l generalizing i fl with
  | nil => rfl
  | cons e l ih =>
    obtain ⟨eq, keeps⟩ := same i (x e) start (elems e)
    rw [List.foldl_cons, List.foldl_cons]
    simp only [eq]
    exact ih keeps _

theorem redSum_eq (f rm x y : Nat) : redSum f rm x y = sumOf f rm x y := by
  unfold redSum sumOf isInt
  simp only [decide_eq_true_eq]

theorem wrapInt_lt {w : Nat} (v : Int) : wrapInt w v < 2 ^ w := by
  have := Int.emod_lt_of_pos v (show (0 : Int) < 2 ^ w by positivity)
  have := Int.emod_nonneg v (show (2 : Int) ^ w ≠ 0 by positivity)
  unfold wrapInt
  zify
  omega

theorem redPick_eq (mx uns : Bool) {f x y : Nat} (hx : x < 2 ^ elemWidth f) (hy : y < 2 ^ elemWidth f) : redPick mx uns f x y = pickOf mx uns f x y := by
  unfold redPick pickOf isInt
  simp only [decide_eq_true_eq]
  split
  · refine congrArg (fun n => (n, (0 : BitVec 7))) ?_
    show (if decide (valueOf uns (elemWidth f) x ≤ valueOf uns (elemWidth f) y) == mx then y else x) = _
    have fx := wrapInt_valueOf uns hx
    have fy := wrapInt_valueOf uns hy
    by_cases le : valueOf uns (elemWidth f) x ≤ valueOf uns (elemWidth f) y
    · rw [decide_eq_true le, max_eq_right le, min_eq_left le]
      cases mx <;> simp [fx, fy]
    · rw [decide_eq_false le, max_eq_left (le_of_not_ge le), min_eq_right (le_of_not_ge le)]
      cases mx <;> simp [fx, fy]
  · rfl

theorem foldRed_quiet (g : Nat → Nat → Nat) (x : Nat → Nat) (ok : Nat → Bool) (i : Nat) (l : List Nat) :
    foldRed (fun p y => (g p y, 0)) x ok i l = (l.foldl (fun p e => g p (x e)) i, 0) := by
  unfold foldRed
  induction l generalizing i with
  | nil => rfl
  | cons e l ih =>
    rw [List.foldl_cons, List.foldl_cons, ← ih]
    refine congrArg (fun fl => List.foldl _ (_, fl) l) ?_
    split
    · exact BitVec.or_zero
    · rfl

/-- A format's patterns stay within its width through the picks of a reduction. -/
theorem foldRed_pick (s : State) (mx uns : Bool) (a b : Reg) (vx : Bool) (l : List Nat) :
    foldRed (redPick mx uns s.hart.fmt) (elemOf s a (elemWidth s.hart.fmt)) (fun _ => true) (redStart s b vx) l
      = foldRed (pickOf mx uns s.hart.fmt) (elemOf s a (elemWidth s.hart.fmt)) (fun _ => true) (redStart s b vx) l := by
  have elem (e : Nat) : elemOf s a (elemWidth s.hart.fmt) e < 2 ^ elemWidth s.hart.fmt := elemAt_lt ..
  have start : redStart s b vx < 2 ^ elemWidth s.hart.fmt := by
    unfold redStart
    split
    · exact Nat.mod_lt _ (Nat.two_pow_pos _)
    · exact elemAt_lt ..
  by_cases int : s.hart.fmt < 4
  · refine foldRed_congr (P := fun v => v < 2 ^ elemWidth s.hart.fmt) start elem fun y z hy hz => ⟨redPick_eq mx uns hy hz, ?_⟩
    rw [pickOf, if_pos int]
    exact wrapInt_lt _
  · refine foldRed_congr (P := fun _ => True) trivial (fun _ => trivial) fun y z _ _ => ⟨?_, trivial⟩
    rw [redPick, pickOf, if_neg int, isInt, decide_eq_false int]
    rfl

theorem codeOk {h : Hart} {sp : RedSpec} (rounds : sp.rounds h.fmt = true → h.vrm ≠ none ∧ h.vrm ≠ some 5) : redCodeOk h sp = true := by
  unfold redCodeOk
  cases r : sp.rounds h.fmt with
  | false => rfl
  | true =>
    obtain ⟨one, two⟩ := rounds r
    cases v : h.vrm with
    | none => exact absurd v one
    | some c =>
      have : c ≠ 5 := fun e => two (e ▸ v)
      simpa using this

/-- Settles O39: every reduction runs the one of `redValue`, which folds or pairs as R67 to R69 say. -/
theorem vectorReductions : Obligations.VectorReductions := by
  intro s vd a b m neg vx uns plain sel fit far f w rm act es x ok init rounds now anyOk
  have wf := negOk_of sel
  have again {i : Instr} (sp : RedSpec) (runs : exec i s = vecReduce i vd a b m neg vx sp s) (wfi : wellFormed i = true) (accept : sp.accept f = true)
      (code : redCodeOk s.hart sp = true) : Reduces i s vd (redValue s sp vd a b m neg vx) := vecReduce_reduces runs wfi plain fit far accept code
  have once {i : Instr} (sp : RedSpec) (fresh : sp.resumes = false) (runs : exec i s = vecReduce i vd a b m neg vx sp s) (wfi : wellFormed i = true)
      (accept : sp.accept f = true) (code : redCodeOk s.hart sp = true) (r : Nat × BitVec 7)
      (first : resumesRed s.hart sp = false → redValue s sp vd a b m neg vx = r) : Reduces i s vd (now r) := by
    have value : redValue s sp vd a b m neg vx = now r := by
      by_cases done : resumesRed s.hart sp = true
      · exact (redValue_again fresh done).trans (if_pos ((resumesRed_iff fresh).1 done)).symm
      · exact (first (Bool.eq_false_iff.2 done)).trans (if_neg fun c => done ((resumesRed_iff fresh).2 c)).symm
    exact value ▸ again sp runs wfi accept code
  have float (lo : 4 ≤ f) (hi : f < 8) : isFloat f = true := by
    rw [isFloat, decide_eq_true lo, decide_eq_true (Nat.le_of_lt_succ hi)]
    rfl
  have sum : redSum f rm = sumOf f rm := by
    funext y z
    exact redSum_eq f rm y z
  have pick {i : Instr} (mx : Bool) (runs : exec i s = vecReduce i vd a b m neg vx
      { kind := .ordered, resumes := false, accept := redFmt, rounds := fun _ => false, add := fun f _ x y => redPick mx uns f x y } s) (wfi : wellFormed i = true)
      (hi : f < 8) : Reduces i s vd (anyOk (foldRed (pickOf mx uns f) x (fun _ => true) init es)) :=
    once _ rfl runs wfi (decide_eq_true hi) (codeOk fun r => absurd r Bool.false_ne_true) _ fun first =>
      (redValue_ordered rfl rfl first rfl).trans (congrArg (fun p : Nat × BitVec 7 => (p.1, if es.any ok then p.2 else 0)) (foldRed_pick s mx uns a b vx es))
  have bits {i : Instr} (g : Nat → Nat → Nat) (runs : exec i s = vecReduce i vd a b m neg vx
      { kind := .ordered, resumes := false, accept := isInt, rounds := fun _ => false, add := fun _ _ x y => (g x y, 0) } s) (wfi : wellFormed i = true)
      (int : f < 4) : Reduces i s vd (now (es.foldl (fun p e => g p (x e)) init, 0)) :=
    once _ rfl runs wfi (decide_eq_true int) (codeOk fun r => absurd r Bool.false_ne_true) _ fun first => by
      rw [redValue_ordered rfl rfl first rfl]
      dsimp only
      rw [foldRed_quiet, ite_self]
      rfl
  refine ⟨fun lo hi rd => ?_, fun hi rd => ?_, fun hi => ⟨pick true rfl wf hi, pick false rfl wf hi⟩,
    fun int => ⟨bits (· &&& ·) rfl wf int, bits (· ||| ·) rfl wf int, bits (· ^^^ ·) rfl wf int⟩⟩
  · exact redValue_onward (vd := vd) (sp := { kind := .ordered, resumes := true, accept := isFloat, rounds := isFloat, add := redSum }) rfl rfl sum
      ▸ again _ rfl wf (float lo hi) (codeOk fun _ => rd)
  · have done := once { kind := .tree, resumes := false, accept := redFmt, rounds := isFloat, add := redSum } (i := .vredsum vd a b m neg vx) rfl rfl wf (decide_eq_true hi)
      (codeOk fun r => rd (of_decide_eq_true (Bool.and_eq_true_iff.1 r).1)) _ fun first => redValue_tree rfl rfl first sum
    refine Eq.mp (congrArg (Reduces _ s vd) ?_) done
    show now (match treeRed (sumOf f rm) (fun e => if act e then some (x e) else none) (clog2 s.hart.vlg) 0 with
      | (some y, fl) => ((sumOf f rm init y).1, if es.any ok then fl ||| (sumOf f rm init y).2 else 0)
      | (none, _) => (init, 0)) = _
    generalize treeRed _ _ _ _ = tree
    obtain ⟨_ | y, fl⟩ := tree <;> rfl

end Sys2Proof.Machine

namespace Sys2Proof.Machine
/-! # Conversions (O38) -/

open Sys2Proof.Claim

/-! ## Codes lie within their formats (R42, R54) -/

/-- The bits of a floating-point code. -/
def fpBits (f : Nat) : Nat := (fpFields f).mb + (fpFields f).eb + 1

theorem signed_lt {f c : Nat} (neg : Bool) (h : c < 2 ^ ((fpFields f).mb + (fpFields f).eb)) : signBit f neg + c < 2 ^ fpBits f := by
  unfold signBit fpBits
  rw [Nat.pow_succ]
  dsimp only
  split <;> omega

theorem signBit_lt (f : Nat) (neg : Bool) : signBit f neg < 2 ^ fpBits f := signed_lt (c := 0) neg (Nat.two_pow_pos _)

theorem infCode_lt {f : Nat} : f ≤ 0x0C → ∀ neg, infCode f neg < 2 ^ fpBits f := by
  revert f
  decide

theorem maxCode_lt {f : Nat} : f ≤ 0x0C → ∀ neg, maxCode f neg < 2 ^ fpBits f := by
  revert f
  decide

theorem canonicalNan_lt {f : Nat} : f ≤ 0x0C → canonicalNan f < 2 ^ fpBits f := by
  revert f
  decide

theorem overflowTo_lt {f : Nat} (hf : f ≤ 0x0C) (rm : Nat) (sat neg : Bool) : (overflowTo f rm sat neg).1 < 2 ^ fpBits f := by
  unfold overflowTo
  dsimp only
  split
  · exact maxCode_lt hf neg
  · have bound (c : Bool) : (if c then (if (fpFields f).special == .e4m3 then canonicalNan f else infCode f neg) else maxCode f neg) < 2 ^ fpBits f := by
      split
      · split
        · exact canonicalNan_lt hf
        · exact infCode_lt hf neg
      · exact maxCode_lt hf neg
    exact bound _

/-- A magnitude rounded to no finer than `p` bits below its top stays within `p + 1` bits, or is the next power of two (R53). -/
theorem roundAt_le (rm z : Nat) (neg : Bool) (m : Nat) (e : Int) (more : Bool) {q : Int} {p : Nat} (fine : (Nat.log2 m : Int) + e - p ≤ q) :
    (roundAt rm z neg m e more q).1 ≤ 2 ^ (p + 1) := by
  have top : m < 2 ^ (Nat.log2 m + 1) := Nat.lt_log2_self
  unfold roundAt
  split
  · next low =>
    dsimp only
    rw [Nat.shiftLeft_eq]
    have short : (e - q).toNat + Nat.log2 m ≤ p := by omega
    calc m * 2 ^ (e - q).toNat ≤ 2 ^ (Nat.log2 m + 1) * 2 ^ (e - q).toNat := Nat.mul_le_mul_right _ top.le
      _ = 2 ^ (Nat.log2 m + 1 + (e - q).toNat) := (Nat.pow_add ..).symm
      _ ≤ 2 ^ (p + 1) := Nat.pow_le_pow_right Nat.two_pos (by omega)
  · next high =>
    have kept : m >>> (q - e).toNat < 2 ^ (p + 1) := by
      rw [Nat.shiftRight_eq_div_pow, Nat.div_lt_iff_lt_mul (Nat.two_pow_pos _), ← Nat.pow_add]
      exact top.trans_le (Nat.pow_le_pow_right Nat.two_pos (by omega))
    dsimp only
    split
    · exact kept
    · exact kept.le


/-- The largest significand that the largest exponent takes (R42). -/
def topSignificand (f : Nat) : Nat := match (fpFields f).special with | .e4m3 => 14 | _ => 2 ^ ((fpFields f).mb + 1) - 1

/-- The largest exponent of a last place (R42). -/
def topExponent (f : Nat) : Int := (match (fpFields f).special with | .ieee => 2 ^ (fpFields f).eb - 2 | _ => 2 ^ (fpFields f).eb - 1 : Int) - (fpFields f).bias - (fpFields f).mb

theorem topSignificand_le {f : Nat} : f ≤ 0x0C → topSignificand f ≤ 2 ^ ((fpFields f).mb + 1) - 1 := by
  revert f
  decide

theorem topExponent_le {f : Nat} : f ≤ 0x0C → topExponent f ≤ 2 ^ (fpFields f).eb - 1 - (fpFields f).bias - (fpFields f).mb := by
  revert f
  decide

/-- A magnitude's code from its rounded significand `r`, at the exponent `q` of its last place. -/
def packCode (f r : Nat) (q : Int) : Nat :=
  if r < 2 ^ (fpFields f).mb then r
  else if r ≥ 2 ^ ((fpFields f).mb + 1) then ((q + 1 + (fpFields f).mb + (fpFields f).bias).toNat) * 2 ^ (fpFields f).mb + (r / 2 - 2 ^ (fpFields f).mb)
  else ((q + (fpFields f).mb + (fpFields f).bias).toNat) * 2 ^ (fpFields f).mb + (r - 2 ^ (fpFields f).mb)

/-- A field of `eb` bits above one of `mb`. -/
theorem fields_lt {x y eb mb : Nat} (hx : x < 2 ^ eb) (hy : y < 2 ^ mb) : x * 2 ^ mb + y < 2 ^ (mb + eb) := by
  calc x * 2 ^ mb + y < (x + 1) * 2 ^ mb := by rw [Nat.succ_mul]; omega
    _ ≤ 2 ^ eb * 2 ^ mb := Nat.mul_le_mul_right _ hx
    _ = 2 ^ (mb + eb) := by rw [Nat.add_comm mb, Nat.pow_add]

theorem packCode_lt {f r : Nat} {q maxE : Int} {maxM : Nat} (small : r ≤ 2 ^ ((fpFields f).mb + 1)) (hm : maxM ≤ 2 ^ ((fpFields f).mb + 1) - 1)
    (he : maxE ≤ 2 ^ (fpFields f).eb - 1 - (fpFields f).bias - (fpFields f).mb) (fits : q ≥ maxE → r <<< (q - maxE).toNat ≤ maxM) :
    packCode f r q < 2 ^ ((fpFields f).mb + (fpFields f).eb) := by
  unfold packCode
  generalize (fpFields f).mb = mb at *
  generalize (fpFields f).eb = eb at *
  generalize (fpFields f).bias = bias at *
  have two : 2 ^ (mb + 1) = 2 * 2 ^ mb := Nat.pow_succ'
  have ipow : (2 : Int) ^ eb = ((2 ^ eb : Nat) : Int) := by norm_cast
  rw [ipow] at he
  have one : 1 ≤ 2 ^ eb := Nat.one_le_two_pow
  have one' : 1 ≤ 2 ^ mb := Nat.one_le_two_pow
  split
  · exact lt_of_lt_of_le ‹_› (Nat.pow_le_pow_right Nat.two_pos (by omega))
  next normal =>
  split
  · next next' =>
    have below : q < maxE := by
      by_contra c
      have := fits (not_lt.1 c)
      have : r ≤ r <<< (q - maxE).toNat := by rw [Nat.shiftLeft_eq]; exact Nat.le_mul_of_pos_right _ (Nat.two_pow_pos _)
      omega
    exact fields_lt (by omega) (by omega)
  · next within =>
    have atMost : q ≤ maxE := by
      by_contra c
      have := fits (not_le.1 c).le
      have : 2 * r ≤ r <<< (q - maxE).toNat := by
        rw [Nat.shiftLeft_eq, Nat.mul_comm]
        exact Nat.mul_le_mul_left _ (Nat.le_self_pow (by omega) 2)
      omega
    exact fields_lt (by omega) (by omega)

/-- The exponent of the last place that a magnitude is rounded at (R54). -/
def lastPlace (f m : Nat) (e : Int) : Int := max ((Nat.log2 m : Int) + e - (fpFields f).mb) (1 - (fpFields f).bias - (fpFields f).mb)

/-- The flags of a rounding that does not overflow (R54, R55). -/
def roundFlags (f rm z : Nat) (neg : Bool) (m : Nat) (e : Int) (more : Bool) : BitVec 7 :=
  let top : Int := Nat.log2 m + e
  let inexact := (roundAt rm z neg m e more (lastPlace f m e)).2
  flagIf inexact NX ||| flagIf ((top < 1 - (fpFields f).bias && !(top = 1 - (fpFields f).bias - 1
    && (roundAt rm z neg m e more (top - (fpFields f).mb)).1 ≥ 2 ^ ((fpFields f).mb + 1))) && inexact) UF

/-- What rounding a finite value gives: a zero, an overflow, or the code of its rounded significand (R54). -/
theorem roundFin_code (f rm : Nat) (sat : Bool) (z : Nat) (neg : Bool) (m : Nat) (e : Int) (more : Bool) :
    roundFin f rm sat z neg m e more =
      if m = 0 ∧ !more then (signBit f neg, 0)
      else if (if lastPlace f m e ≥ topExponent f then
          (roundAt rm z neg m e more (lastPlace f m e)).1 <<< (lastPlace f m e - topExponent f).toNat > topSignificand f else false = true) then overflowTo f rm sat neg
      else (signBit f neg + packCode f (roundAt rm z neg m e more (lastPlace f m e)).1 (lastPlace f m e), roundFlags f rm z neg m e more) := rfl

/-- Rounding gives a code of the format (R54). -/
theorem roundFin_lt {f : Nat} (hf : f ≤ 0x0C) (rm : Nat) (sat : Bool) (z : Nat) (neg : Bool) (m : Nat) (e : Int) (more : Bool) :
    (roundFin f rm sat z neg m e more).1 < 2 ^ fpBits f := by
  rw [roundFin_code]
  split
  · exact signBit_lt f neg
  · by_cases large : if lastPlace f m e ≥ topExponent f then
        (roundAt rm z neg m e more (lastPlace f m e)).1 <<< (lastPlace f m e - topExponent f).toNat > topSignificand f else false = true
    · rw [if_pos large]
      exact overflowTo_lt hf rm sat neg
    · rw [if_neg large]
      refine signed_lt neg (packCode_lt (roundAt_le rm z neg m e more (le_max_left _ _)) (topSignificand_le hf) (topExponent_le hf) fun above => ?_)
      rw [if_pos above] at large
      exact Nat.le_of_not_gt large

theorem roundVal_lt {f : Nat} (hf : f ≤ 0x0C) (rm : Nat) (sat : Bool) (z : Nat) (v : Val) : (roundVal f rm sat z v).1 < 2 ^ fpBits f := by
  cases v with
  | nan => exact canonicalNan_lt hf
  | inf neg =>
    unfold roundVal
    dsimp only
    split
    · exact infCode_lt hf neg
    · split
      · exact maxCode_lt hf neg
      · exact canonicalNan_lt hf
    · exact maxCode_lt hf neg
  | fin => exact roundFin_lt hf ..

open Sys2Proof.Claim

/-! ## Element conversions (R160 to R164) -/

theorem fpBits_six {f : Nat} : f ≤ 0x0C → memWidth f = 6 → fpBits f = 6 ∧ elemWidth f = 8 := by
  revert f
  decide

/-- A code lies within a memory element's bits, so that nothing is cut off it. -/
theorem cleanElem_code {f c : Nat} (hf : f ≤ 0x0C) (hc : c < 2 ^ fpBits f) : cleanElem f c = lowBits (elemWidth f) c := by
  by_cases six : memWidth f = 6
  · obtain ⟨code, place⟩ := fpBits_six hf six
    rw [code] at hc
    rw [cleanElem, if_pos six, lowBits, place, Nat.mod_eq_of_lt (show c < 64 from hc), Nat.mod_eq_of_lt (hc.trans (by decide))]
  · exact cleanElem_eq six c

theorem memWidth_whole {f : Nat} (hf : f ≤ 9) : memWidth f ≠ 6 := by
  revert f
  decide

/-- A random word is drawn under code 5 alone (R57). -/
theorem drawFor_code (h : Hart) (origin dom e : Nat) : drawFor h (h.vrm.getD 0) origin dom e = if h.vrm = some 5 then drawZ h.keySel ((origin + e) % 2 ^ 48) dom else 0 := by
  unfold drawFor
  cases h.vrm with
  | none => rfl
  | some c => exact if_congr (by simp) rfl rfl

theorem convVal_valid (g : Hart) (r tag n e : Nat) : (convVal g r tag n e).2.2 = elemValid g g.capBits r (elemWidth tag) e := by
  unfold convVal
  dsimp only
  split
  · split <;> rfl
  · rfl

theorem Clean.convVal {h : Hart} (hc : Clean h) (r tag n e : Nat) : (convVal h r tag n e).2.1 = false := by
  unfold Machine.convVal
  dsimp only
  rw [hc.elemBad, hc.elemBad]
  split
  · split <;> rfl
  · rfl

theorem Unbound.convOrigin {s : State} (hu : Unbound s.hart) (vd : Nat) (b : Reg) : convOrigin s vd b = if b = 0 then 0 else (s.getX b).toNat := by
  rw [Machine.convOrigin, hu.drawOrigin]

/-- The operands of a conversion stand right and apart (R160). -/
theorem convFits_grant {s : State} {vd a : Reg} (hu : Unbound s.hart) (fit : ConvFits s vd a) :
    (groupsFit [typeOpnd s.hart vd.toNat false true, convSrc s.hart a.toNat] && !opndsOverlap (typeOpnd s.hart vd.toNat false true) (convSrc s.hart a.toNat)) = true
      ∧ (convSrc s.hart a.toNat).n ≤ 8 := by
  unfold ConvFits at fit
  obtain ⟨few, dest, src, apart⟩ := fit
  unfold convSrc
  rw [hu.srcTag]
  refine ⟨?_, few⟩
  rw [groupsFit, List.all_cons, List.all_cons, List.all_nil, opndsOverlap]
  dsimp only [typeOpnd]
  rw [dest, src, apart]
  rfl

section
variable {s : State} {i : Instr} {vd : Reg} {m : MaskField} {neg : Bool} {ops : List Opnd} {bad : Hart → Nat → Bool} {res : Hart → Nat → Nat × BitVec 7}

/-- A conversion whose destination is no block format, on plain registers. -/
theorem convElems_elementWise {f : Nat → Nat × BitVec 7} {ok : Nat → Bool} (plain : PlainVec s) (runs : exec i s = .next (convElems s vd.toNat ops m neg bad res))
    (sound : ∀ e, bad s.hart e = false) (elem : ∀ e, res s.hart e = ((f e).1, if ok e then (f e).2 else 0))
    (whole : ∀ e, cleanElem s.hart.fmt (f e).1 = lowBits (elemWidth s.hart.fmt) (f e).1) (fits : vd.toNat + s.hart.grp ≤ 32) (quiet : ∀ e, Quiet (f e).2) :
    ElementWise i s vd m neg s.hart.fmt f ok := by
  refine elementWise_of_clean {
    vd := vd.toNat, fmt := s.hart.fmt, n := s.hart.grp, len := s.hart.vlv, ops := ops, act := fun e => s.hart.selects m neg e
    res := fun g e => if bad g e then { val := poisonedBits s e, bad := true, flags := 0, consumes := true }
      else { val := (res g e).1, bad := false, flags := (res g e).2, consumes := false } }
    plain runs ⟨rfl, rfl, rfl, rfl⟩ ⟨rfl, rfl, rfl⟩ (fun _ => rfl) (fun e => ?_) (fmt_lt s.hart) whole fits quiet
  dsimp only
  rw [sound, elem]
  rfl

end

section
variable {s : State} {vd a b : Reg} {m : MaskField} {neg sel : Bool} (plain : PlainVec s) (mask : negOk m neg = true) (fit : ConvFits s vd a)
include plain mask fit

/-- VCVT of a legal pair without a block runs its elements (R161). -/
theorem vcvt_runs {k : CvtKind} (kind : cvtKind (s.hart.srcTag a.toNat) s.hart.fmt = some k) (single : k ≠ .block ∧ k ≠ .copyScales) (mode : k = .round → s.hart.vrm ≠ none) :
    exec (.vcvt vd a b m neg sel) s = .next (convElems s vd.toNat [typeOpnd s.hart vd.toNat false true, convSrc s.hart a.toNat] m neg
      (fun g e => (convVal g a.toNat (s.hart.srcTag a.toNat) (convSrc s.hart a.toNat).n e).2.1)
      (fun g e =>
        let v := convVal g a.toNat (s.hart.srcTag a.toNat) (convSrc s.hart a.toNat).n e
        let r := cvtElem k (s.hart.srcTag a.toNat) s.hart.fmt (s.hart.vrm.getD 0) (drawFor g (s.hart.vrm.getD 0) (convOrigin s vd.toNat b) 0 e) sel
          (elemAt g g.capBits a.toNat (convSrc s.hart a.toNat).n (elemWidth (s.hart.srcTag a.toNat)) e) v.1
        (r.1, if v.2.2 then r.2 else 0))) := by
  obtain ⟨-, legal, still, hu, -, -⟩ := id plain
  have unbound : Unbound s.hart := hu
  obtain ⟨grant, few⟩ := convFits_grant unbound fit
  refine congrArg Host.Outcome.next ((checked_wellFormed (show wellFormed (.vcvt vd a b m neg sel) = true from mask) s _).trans ((held_still still _).trans ?_))
  dsimp only
  rw [kind, unbound.vecCheck legal _ grant (by rw [decide_eq_true few]; rfl) (fun r => ?rounds)]
  case rounds =>
    cases k with
    | round => exact mode rfl
    | block => exact absurd rfl single.1
    | _ => exact absurd (show false = true from r) Bool.false_ne_true
  cases k with
  | block => exact absurd rfl single.1
  | copyScales => exact absurd rfl single.2
  | _ => rfl

/-- The elements of a VCVT without a block, in the words of the statements. -/
theorem vcvt_elementWise {k : CvtKind} (f : Nat → Nat × BitVec 7) (kind : cvtKind (s.hart.vreg a.toNat).fmt.toNat s.hart.fmt = some k)
    (single : k ≠ .block ∧ k ≠ .copyScales) (mode : k = .round → s.hart.vrm ≠ none)
    (elem : ∀ e, cvtElem k (s.hart.vreg a.toNat).fmt.toNat s.hart.fmt (s.hart.vrm.getD 0)
      (if s.hart.vrm = some 5 then drawZ s.hart.keySel (((if b = 0 then 0 else (s.getX b).toNat) + e) % 2 ^ 48) 0 else 0) sel
      (elemAt s.hart s.hart.capBits a.toNat (sideRegs s.hart (s.hart.vreg a.toNat).fmt.toNat) (elemWidth (s.hart.vreg a.toNat).fmt.toNat) e)
      (convVal s.hart a.toNat (s.hart.vreg a.toNat).fmt.toNat (sideRegs s.hart (s.hart.vreg a.toNat).fmt.toNat) e).1 = f e)
    (whole : ∀ e, cleanElem s.hart.fmt (f e).1 = lowBits (elemWidth s.hart.fmt) (f e).1) (quiet : ∀ e, Quiet (f e).2) :
    ElementWise (.vcvt vd a b m neg sel) s vd m neg s.hart.fmt f (fun e => validOf s a (elemWidth (s.hart.vreg a.toNat).fmt.toNat) e) := by
  obtain ⟨-, legal, still, hu, -, clean⟩ := id plain
  have unbound : Unbound s.hart := hu
  have hc : Clean s.hart := clean
  have runs := vcvt_runs (b := b) (sel := sel) plain mask fit (by rw [unbound.srcTag]; exact kind) single mode
  unfold convSrc at runs
  rw [unbound.srcTag, unbound.convOrigin] at runs
  refine convElems_elementWise plain runs (fun e => hc.convVal _ _ _ _) (fun e => ?_) whole (groupFits_le fit.2.1) quiet
  dsimp only
  rw [convVal_valid, drawFor_code, elem]
  rfl

end

open Sys2Proof.Claim

/-! ## VCVTI, VCVTF4 into FP4, and VQSCALE (R162 to R164) -/

theorem toIntRange_quiet (rm z : Nat) (lo hi : Int) (v : Val) : Quiet (toIntRange rm z lo hi v).2 := by
  unfold toIntRange
  split
  · exact quiet_NV
  · exact quiet_NV
  · dsimp only
    split
    · exact quiet_NV
    · split
      · exact quiet_NV
      · exact quiet_NX.flagIf _

theorem qscaleElem_quiet (f rm z : Nat) (x sc : Val) : Quiet (qscaleElem f rm z x sc).2 := by
  unfold qscaleElem
  dsimp only
  split
  · split
    · exact quiet_NV
    · exact quiet_SAT
    · exact (quiet_SAT.flagIf _).or (quiet_NX.flagIf _)
  · split
    · exact quiet_NV
    · exact roundVal_quiet _ _ _ _ _

theorem compCount_single {f : Nat} : f < 0x10 → compCount f = 0 := by
  revert f
  decide

theorem isInt_iff {f : Nat} : isInt f = true ↔ f < 4 := decide_eq_true_iff
theorem isFloat_iff {f : Nat} : isFloat f = true ↔ 4 ≤ f ∧ f < 8 := by
  rw [isFloat, Bool.and_eq_true, decide_eq_true_iff, decide_eq_true_iff, Nat.lt_succ_iff]

section
variable {s : State} {vd a b : Reg} {m : MaskField} {neg sel : Bool} (plain : PlainVec s) (mask : negOk m neg = true) (fit : ConvFits s vd a)
include plain mask fit

/-- VCVTI of a legal pair (R162). -/
theorem vcvti_elementWise (f : Nat → Nat × BitVec 7) (pair : cvtiOk (s.hart.vreg a.toNat).fmt.toNat s.hart.fmt = true) (mode : s.hart.vrm ≠ none)
    (elem : ∀ e, cvtiElem (s.hart.vreg a.toNat).fmt.toNat s.hart.fmt (s.hart.vrm.getD 0)
      (if s.hart.vrm = some 5 then drawZ s.hart.keySel (((if b = 0 then 0 else (s.getX b).toNat) + e) % 2 ^ 48) 0 else 0) sel
      (elemAt s.hart s.hart.capBits a.toNat (sideRegs s.hart (s.hart.vreg a.toNat).fmt.toNat) (elemWidth (s.hart.vreg a.toNat).fmt.toNat) e) = f e)
    (low : s.hart.fmt < 8) (quiet : ∀ e, Quiet (f e).2) :
    ElementWise (.vcvti vd a b m neg sel) s vd m neg s.hart.fmt f (fun e => validOf s a (elemWidth (s.hart.vreg a.toNat).fmt.toNat) e) := by
  obtain ⟨-, legal, still, hu, -, clean⟩ := id plain
  have unbound : Unbound s.hart := hu
  have hc : Clean s.hart := clean
  obtain ⟨grant, few⟩ := convFits_grant unbound fit
  have grant' (same : Bool) : (groupsFit [typeOpnd s.hart vd.toNat false true, convSrc s.hart a.toNat]
      && (same || !opndsOverlap (typeOpnd s.hart vd.toNat false true) (convSrc s.hart a.toNat))) = true := by
    obtain ⟨stand, apart⟩ := (Bool.and_eq_true _ _).mp grant
    rw [stand, apart, Bool.or_true]
    rfl
  have runs : exec (.vcvti vd a b m neg sel) s = .next (convElems s vd.toNat [typeOpnd s.hart vd.toNat false true, convSrc s.hart a.toNat] m neg
      (fun g e => (convVal g a.toNat (s.hart.srcTag a.toNat) (convSrc s.hart a.toNat).n e).2.1)
      (fun g e =>
        let r := cvtiElem (s.hart.srcTag a.toNat) s.hart.fmt (s.hart.vrm.getD 0) (drawFor g (s.hart.vrm.getD 0) (convOrigin s vd.toNat b) 0 e) sel
          (elemAt g g.capBits a.toNat (convSrc s.hart a.toNat).n (elemWidth (s.hart.srcTag a.toNat)) e)
        (r.1, if (convVal g a.toNat (s.hart.srcTag a.toNat) (convSrc s.hart a.toNat).n e).2.2 then r.2 else 0))) := by
    refine congrArg Host.Outcome.next ((checked_wellFormed (show wellFormed (.vcvti vd a b m neg sel) = true from mask) s _).trans ((held_still still _).trans ?_))
    dsimp only
    rw [unbound.vecCheck legal _ (grant' _) (by rw [decide_eq_true few, unbound.srcTag, pair]; rfl) fun _ => mode]
  unfold convSrc at runs
  rw [unbound.srcTag, unbound.convOrigin] at runs
  refine convElems_elementWise plain runs (fun e => hc.convVal _ _ _ _) (fun e => ?_) (fun e => cleanElem_eq (memWidth_int low) _) (groupFits_le fit.2.1) quiet
  dsimp only
  rw [convVal_valid, drawFor_code, elem]
  rfl

/-- VCVTF4 into FP4 (R163). -/
theorem vcvtf4_elementWise (single : (s.hart.vreg a.toNat).fmt.toNat = 5) (four : s.hart.fmt = 0x0C) (mode : s.hart.vrm ≠ none) :
    ElementWise (.vcvtf4 vd a b m neg) s vd m neg s.hart.fmt (fun e => roundOp s.hart.fmt (s.hart.vrm.getD 0) true
      (if s.hart.vrm = some 5 then drawZ s.hart.keySel (((if b = 0 then 0 else (s.getX b).toNat) + e) % 2 ^ 48) 0 else 0)
      ((convVal s.hart a.toNat (s.hart.vreg a.toNat).fmt.toNat (sideRegs s.hart (s.hart.vreg a.toNat).fmt.toNat) e).1,
        if (convVal s.hart a.toNat (s.hart.vreg a.toNat).fmt.toNat (sideRegs s.hart (s.hart.vreg a.toNat).fmt.toNat) e).1.isSig then NV else 0))
      (fun e => validOf s a (elemWidth (s.hart.vreg a.toNat).fmt.toNat) e) := by
  obtain ⟨-, legal, still, hu, -, clean⟩ := id plain
  have unbound : Unbound s.hart := hu
  have hc : Clean s.hart := clean
  obtain ⟨grant, few⟩ := convFits_grant unbound fit
  have tag : s.hart.srcTag a.toNat = 5 := (unbound.srcTag _).trans single
  have runs : exec (.vcvtf4 vd a b m neg) s = .next (convElems s vd.toNat [typeOpnd s.hart vd.toNat false true, convSrc s.hart a.toNat] m neg
      (fun g e => (convVal g a.toNat (s.hart.srcTag a.toNat) (convSrc s.hart a.toNat).n e).2.1)
      (fun g e =>
        let v := convVal g a.toNat (s.hart.srcTag a.toNat) (convSrc s.hart a.toNat).n e
        let r := roundOp s.hart.fmt (s.hart.vrm.getD 0) true (drawFor g (s.hart.vrm.getD 0) (convOrigin s vd.toNat b) 0 e) (v.1, flagIf v.1.isSig NV)
        (r.1, if v.2.2 then r.2 else 0))) := by
    refine congrArg Host.Outcome.next ((checked_wellFormed (show wellFormed (.vcvtf4 vd a b m neg) = true from mask) s _).trans ((held_still still _).trans ?_))
    dsimp only
    rw [unbound.vecCheck legal _ grant (by rw [decide_eq_true few, tag, four]; rfl) fun _ => mode]
    dsimp only
    rw [if_neg (by rw [four]; decide)]
  unfold convSrc at runs
  rw [unbound.srcTag, unbound.convOrigin] at runs
  refine convElems_elementWise plain runs (fun e => hc.convVal _ _ _ _) (fun e => ?_) (fun e => cleanElem_eq (by rw [four]; decide) _) (groupFits_le fit.2.1)
    fun e => roundOp_quiet _ _ _ _ (quiet_flagIf_NV _)
  dsimp only
  rw [convVal_valid, drawFor_code]
  rfl

/-- VQSCALE (R164). -/
theorem vqscale_elementWise (float : 5 ≤ (s.hart.vreg a.toNat).fmt.toNat ∧ (s.hart.vreg a.toNat).fmt.toNat < 8) (into : s.hart.fmt < 3 ∨ (6 ≤ s.hart.fmt ∧ s.hart.fmt ≤ 9))
    (mode : s.hart.vrm ≠ none)
    (scales : sel = false → sideRegs s.hart 5 ≤ 8 ∧ groupFits b.toNat (sideRegs s.hart 5) 0 = true ∧ overlaps vd.toNat s.hart.grp b.toNat (sideRegs s.hart 5) = false) :
    ElementWise (.vqscale vd a b m neg sel) s vd m neg s.hart.fmt (fun e => qscaleElem s.hart.fmt (s.hart.vrm.getD 0)
      (if s.hart.vrm.getD 0 = 5 then drawZ s.hart.keySel (e % 2 ^ 48) 0 else 0)
      (convVal s.hart a.toNat (s.hart.vreg a.toNat).fmt.toNat (sideRegs s.hart (s.hart.vreg a.toNat).fmt.toNat) e).1
      (decodeVal 5 (if sel then (s.getX b).toNat % 2 ^ 32 else elemAt s.hart s.hart.capBits b.toNat (sideRegs s.hart 5) 32 e)))
      (fun e => validOf s a (elemWidth (s.hart.vreg a.toNat).fmt.toNat) e && (sel || validOf s b 32 e)) := by
  obtain ⟨-, legal, still, hu, -, clean⟩ := id plain
  have unbound : Unbound s.hart := hu
  have hc : Clean s.hart := clean
  obtain ⟨grant, few⟩ := convFits_grant unbound fit
  have alone : compCount s.hart.fmt = 0 := compCount_single (by omega)
  have tag : s.hart.srcTag a.toNat = (s.hart.vreg a.toNat).fmt.toNat := unbound.srcTag _
  have format : ((s.hart.srcTag a.toNat == 5 || s.hart.srcTag a.toNat == 6 || s.hart.srcTag a.toNat == 7)
      && (decide (s.hart.fmt < 3) || (decide (6 ≤ s.hart.fmt) && decide (s.hart.fmt ≤ 9))) && decide ((convSrc s.hart a.toNat).n ≤ 8)
      && (sel || decide (sideRegs s.hart 5 ≤ 8))) = true := by
    have source : (s.hart.srcTag a.toNat == 5 || s.hart.srcTag a.toNat == 6 || s.hart.srcTag a.toNat == 7) = true := by
      simp only [Bool.or_eq_true, beq_iff_eq]
      omega
    have dest : (decide (s.hart.fmt < 3) || (decide (6 ≤ s.hart.fmt) && decide (s.hart.fmt ≤ 9))) = true := by
      simp only [Bool.or_eq_true, Bool.and_eq_true, decide_eq_true_eq]
      exact into
    rw [source, dest, decide_eq_true few]
    cases sel with
    | true => rfl
    | false => exact decide_eq_true (scales rfl).1
  have grants : (groupsFit (if sel then [typeOpnd s.hart vd.toNat false true, convSrc s.hart a.toNat] else
        [typeOpnd s.hart vd.toNat false true, convSrc s.hart a.toNat, { base := b.toNat, n := sideRegs s.hart 5, comp := 0, src := true, dst := false }])
      && !opndsOverlap (typeOpnd s.hart vd.toNat false true) (convSrc s.hart a.toNat)
      && (sel || !opndsOverlap (typeOpnd s.hart vd.toNat false true) { base := b.toNat, n := sideRegs s.hart 5, comp := 0, src := true, dst := false })) = true := by
    cases sel with
    | true => exact (Bool.and_true _).trans grant
    | false =>
      obtain ⟨-, stands, apart⟩ := scales rfl
      obtain ⟨both, clear⟩ := (Bool.and_eq_true _ _).mp grant
      rw [groupsFit, List.all_cons, List.all_cons, List.all_nil, Bool.and_true, Bool.and_eq_true] at both
      have off : opndsOverlap (typeOpnd s.hart vd.toNat false true) { base := b.toNat, n := sideRegs s.hart 5, comp := 0, src := true, dst := false } = false := by
        unfold opndsOverlap typeOpnd
        rw [alone]
        exact apart
      rw [if_neg Bool.false_ne_true, groupsFit, List.all_cons, List.all_cons, List.all_cons, List.all_nil, both.1, both.2, clear, off]
      dsimp only
      rw [stands]
      rfl
  have runs : exec (.vqscale vd a b m neg sel) s = .next (convElems s vd.toNat
      (if sel then [typeOpnd s.hart vd.toNat false true, convSrc s.hart a.toNat] else
        [typeOpnd s.hart vd.toNat false true, convSrc s.hart a.toNat, { base := b.toNat, n := sideRegs s.hart 5, comp := 0, src := true, dst := false }]) m neg
      (fun g e => (convVal g a.toNat (s.hart.srcTag a.toNat) (convSrc s.hart a.toNat).n e).2.1 || (!sel && elemBad g s.hart.capBits b.toNat 32 e))
      (fun g e =>
        let v := convVal g a.toNat (s.hart.srcTag a.toNat) (convSrc s.hart a.toNat).n e
        let r := qscaleElem s.hart.fmt (s.hart.vrm.getD 0) (drawFor g (s.hart.vrm.getD 0) (drawOrigin s.hart vd.toNat) 0 e) v.1
          (decodeVal 0x05 (if sel then (s.getX b).toNat % 2 ^ 32 else elemAt g s.hart.capBits b.toNat (sideRegs s.hart 5) 32 e))
        (r.1, if v.2.2 && (sel || elemValid g s.hart.capBits b.toNat 32 e) then r.2 else 0))) := by
    refine congrArg Host.Outcome.next ((checked_wellFormed (show wellFormed (.vqscale vd a b m neg sel) = true from mask) s _).trans ((held_still still _).trans ?_))
    dsimp only
    rw [unbound.vecCheck legal _ grants format fun _ => mode]
  unfold convSrc at runs
  rw [tag, unbound.drawOrigin] at runs
  refine convElems_elementWise plain runs (fun e => ?_) (fun e => ?_) (fun e => cleanElem_eq (memWidth_whole (by omega)) _) (groupFits_le fit.2.1)
    fun e => qscaleElem_quiet _ _ _ _ _
  · rw [hc.convVal, hc.elemBad, Bool.and_false]
    rfl
  · dsimp only
    rw [convVal_valid, drawFor, Nat.zero_add]
    rfl

end

open Sys2Proof.Claim

/-! ## Conversions into block formats (R50, R52, R165) -/

/-- Whether a unit of a block conversion is done now: it starts at or above VRI and holds an active element (R165). -/
def unitDone (s : State) (m : MaskField) (neg : Bool) (u k : Nat) : Bool :=
  decide (s.hart.vri.toNat ≤ k * u) && (List.range u).any (fun i => decide (k * u + i < s.hart.vlv) && s.hart.selects m neg (k * u + i))

/-- A unit done now has its first element below VLV. -/
theorem unitDone_lt {s : State} {m : MaskField} {neg : Bool} {u k : Nat} (done : unitDone s m neg u k = true) : k < cdiv s.hart.vlv u := by
  obtain ⟨-, some⟩ := (Bool.and_eq_true _ _).mp done
  obtain ⟨i, inside, both⟩ := List.any_eq_true.1 some
  rw [Bool.and_eq_true, decide_eq_true_eq] at both
  have pos : 0 < u := Nat.pos_of_ne_zero fun z => by rw [z] at inside; exact absurd inside (by simp)
  rw [cdiv, Nat.lt_div_iff_mul_lt pos]
  have := both.1
  omega

theorem unitDone_eq (s : State) (m : MaskField) (neg : Bool) (u k : Nat) :
    (decide (s.hart.vri.toNat ≤ k * u) && (List.range (min u (s.hart.vlv - k * u))).any (fun i => s.hart.selects m neg (k * u + i))) = unitDone s m neg u k := by
  unfold unitDone
  congr 1
  rw [Bool.eq_iff_iff, List.any_eq_true, List.any_eq_true]
  constructor
  · rintro ⟨i, inside, sel⟩
    rw [List.mem_range] at inside
    exact ⟨i, List.mem_range.2 (by omega), by rw [sel, Bool.and_true]; exact decide_eq_true (by omega)⟩
  · rintro ⟨i, inside, both⟩
    rw [List.mem_range] at inside
    obtain ⟨low, sel⟩ := (Bool.and_eq_true _ _).mp both
    exact ⟨i, List.mem_range.2 (by have := of_decide_eq_true low; omega), sel⟩

/-- The units done now. -/
def unitsDone (s : State) (m : MaskField) (neg : Bool) (u : Nat) : List Nat := (List.range (cdiv s.hart.vlv u)).filter (unitDone s m neg u)

/-- What a unit done now becomes. -/
def unitFound (s : State) (m : MaskField) (neg : Bool) (u : Nat) (out : Nat → UnitOut) (k : Nat) : Option UnitOut := if unitDone s m neg u k then some (out k) else none

theorem unitFound_eq (s : State) (m : MaskField) (neg : Bool) (u : Nat) (out : Nat → UnitOut) (k : Nat) :
    (((unitsDone s m neg u).map (fun k => (k, out k))).find? (fun p => p.1 == k)).map Prod.snd = unitFound s m neg u out k := by
  rw [List.find?_map, unitFound]
  have same : (fun p : Nat × UnitOut => p.1 == k) ∘ (fun k => (k, out k)) = fun j => j == k := rfl
  rw [same]
  cases found : (unitsDone s m neg u).find? (fun j => j == k) with
  | some j =>
    have same : (j == k) = true := List.find?_some (p := fun j => j == k) found
    obtain rfl := beq_iff_eq.1 same
    rw [if_pos (List.mem_filter.1 (List.mem_of_find?_eq_some found)).2]
    rfl
  | none =>
    rw [List.find?_eq_none] at found
    rw [if_neg fun done => found k (List.mem_filter.2 ⟨List.mem_range.2 (unitDone_lt done), done⟩) (beq_self_eq_true k)]
    rfl

/-- An element, scale or superscale that a found unit replaces. -/
def unitPart (found : Option UnitOut) (part : UnitOut → Option Nat) (old : Nat) : Nat := ((found.bind part).getD old)

/-- A group that some found units replace parts of. -/
theorem mergeImg_units {s : State} {h : Hart} (hc : Clean h) {r n w len : Nat} {m : MaskField} {neg : Bool} {u : Nat} {out : Nat → UnitOut} (sound : ∀ k, (out k).bad = false)
    (key : Nat → Nat) (part : Nat → UnitOut → Option Nat) :
    mergeImg h r n w len (fun e => (unitFound s m neg u out (key e)).bind fun o => (part e o).map fun v => (v, o.bad))
      = (pack w len (fun e => unitPart (unitFound s m neg u out (key e)) (part e) (elemAt h h.capBits r n w e)), 0) := by
  rw [mergeImg_clean hc fun e x named => ?marks]
  case marks =>
    obtain ⟨o, found, rest⟩ := Option.bind_eq_some_iff.1 named
    obtain ⟨v, -, rfl⟩ := Option.map_eq_some_iff.1 rest
    obtain rfl := Option.some.inj (Option.ite_none_right_eq_some.1 found).2
    exact sound _
  refine congrArg (fun f => (pack w len f, 0)) (funext fun e => ?_)
  unfold unitPart
  cases unitFound s m neg u out (key e) with
  | none => rfl
  | some o =>
    dsimp only [Option.bind_some]
    cases part e o <;> rfl

/-- A conversion into a block format on plain registers writes its group and companions. -/
theorem convBlocks_puts {s : State} {vd : Nat} {ops : List Opnd} {m : MaskField} {neg : Bool} {u : Nat} {unit : Hart → Nat → UnitOut} (plain : PlainVec s)
    (sound : ∀ k, (unit s.hart k).bad = false) :
    convBlocks s vd ops m neg u unit = finishVec (flagsOf (unitsDone s m neg u) (fun k => (unit s.hart k).flags))
      (s.withHart (putBlocks s.hart vd s.hart.fmt s.hart.vlv (cdiv s.hart.vlv (blockLen s.hart.fmt)) (cdiv s.hart.vlv superLen) (s.hart.fmt == 0x16)
        (fun e => unitPart (unitFound s m neg u (unit s.hart) (e / u)) (fun o => o.codes[e % u]?) (elemAt s.hart s.hart.capBits vd s.hart.grp (elemWidth s.hart.fmt) e))
        (fun j => unitPart (unitFound s m neg u (unit s.hart) (j / (u / blockLen s.hart.fmt))) (fun o => o.scales[j % (u / blockLen s.hart.fmt)]?)
          (elemAt s.hart s.hart.capBits (vd + s.hart.grp) 1 8 j))
        (fun k => unitPart (unitFound s m neg u (unit s.hart) k) (fun o => some o.super) (elemAt s.hart s.hart.capBits (vd + s.hart.grp + 1) 1 32 k)))) := by
  obtain ⟨-, -, -, hu, -, clean⟩ := id plain
  have unbound : Unbound s.hart := hu
  have hc : Clean s.hart := clean
  unfold convBlocks
  rw [unbound.readySources]
  dsimp only
  simp only [unitDone_eq]
  rw [List.findSome?_eq_none_iff.2 ?stop]
  case stop =>
    intro p hp
    obtain ⟨k, -, rfl⟩ := List.mem_map.1 hp
    dsimp only
    rw [List.findSome?_eq_none_iff.2 (show ∀ i ∈ _, chunksFault s [] (k * u + i) = none from fun _ _ => rfl), sound]
    simp
  dsimp only
  have whole : (List.range (cdiv s.hart.vlv u)).filter (unitDone s m neg u) = unitsDone s m neg u := rfl
  simp only [whole, unitFound_eq]
  rw [mergeImg_units hc sound (fun e => e / u) fun e o => o.codes[e % u]?,
    mergeImg_units hc sound (fun j => j / (u / blockLen s.hart.fmt)) fun j o => o.scales[j % (u / blockLen s.hart.fmt)]?,
    show (fun k => Option.map (fun o => (o.super, o.bad)) (unitFound s m neg u (unit s.hart) k))
      = fun k => (unitFound s m neg u (unit s.hart) k).bind fun o => (some o.super).map fun v => (v, o.bad) from
        funext fun k => Option.map_eq_bind, mergeImg_units hc sound (fun k => k) fun k o => some o.super]
  refine congrArg₂ finishVec ?_ (congrArg s.withHart ?_)
  · rw [List.foldl_map]
    refine List.foldl_ext _ _ _ fun fl k _ => ?_
    rw [sound]
    exact BitVec.or_zero
  · by_cases four : s.hart.fmt = 0x16
    · rw [if_pos four, putBlocks, beq_iff_eq.2 four]
      rfl
    · rw [if_neg four, putBlocks, beq_false_of_ne four]
      rfl

open Sys2Proof.Claim

/-- A converted unit fills its elements and its blocks' scales, and nothing of it exceeds its place. -/
structure UnitFits (f l u k : Nat) (o : UnitOut) : Prop where
  sound : o.bad = false
  codes : o.codes.length = min u (l - k * u)
  scales : cdiv (min u (l - k * u)) (blockLen f) ≤ o.scales.length
  cutCode : ∀ c ∈ o.codes, c < 2 ^ elemWidth f
  cutScale : ∀ c ∈ o.scales, c < 2 ^ 8
  cutSuper : o.super < 2 ^ 32

/-- A part of a unit done now, or what stood there. -/
theorem unitPart_eq {s : State} {m : MaskField} {neg : Bool} {u : Nat} {out : Nat → UnitOut} {k old : Nat} {part : UnitOut → List Nat} {i : Nat}
    (there : unitDone s m neg u k = true → i < (part (out k)).length) :
    unitPart (unitFound s m neg u out k) (fun o => (part o)[i]?) old = if unitDone s m neg u k then (part (out k)).getD i 0 else old := by
  unfold unitPart unitFound
  by_cases done : unitDone s m neg u k = true
  · rw [if_pos done, if_pos done, Option.bind_some, List.getElem?_eq_getElem (there done), List.getD_eq_getElem _ _ (there done)]
    rfl
  · rw [if_neg done, if_neg done]
    rfl

theorem unitPart_lt {s : State} {m : MaskField} {neg : Bool} {u : Nat} {out : Nat → UnitOut} {k old n : Nat} {part : UnitOut → Option Nat}
    (new : ∀ c, part (out k) = some c → c < n) (kept : old < n) : unitPart (unitFound s m neg u out k) part old < n := by
  unfold unitPart unitFound
  split
  · rw [Option.bind_some]
    cases h : part (out k) with
    | none => exact kept
    | some c => exact new c h
  · exact kept

/-- A block's place among its unit's lies below the number of blocks the unit holds. -/
theorem block_in_unit {B per l j : Nat} (pos : 0 < B) (some : 0 < per) (h : j < cdiv l B) : j % per < cdiv (min (per * B) (l - j / per * (per * B))) B := by
  rw [cdiv, Nat.lt_div_iff_mul_lt pos] at h ⊢
  have split := Nat.div_add_mod j per
  have below := Nat.mod_lt j some
  generalize j % per = r at *
  generalize j / per = q at *
  subst split
  have one : (r + 1) * B ≤ per * B := Nat.mul_le_mul_right _ below
  rw [Nat.succ_mul] at one
  have two : (per * q + r) * B = q * (per * B) + r * B := by ring
  rw [two] at h
  generalize q * (per * B) = x at *
  generalize r * B = y at *
  generalize per * B = z at *
  omega

/-- A conversion into a block format, in the words of the statements (R165). -/
theorem convBlocks_blockWise {s : State} {i : Instr} {vd : Reg} {ops : List Opnd} {m : MaskField} {neg : Bool} {u per : Nat} {unit : Hart → Nat → UnitOut} (out : Nat → UnitOut)
    (plain : PlainVec s) (runs : exec i s = .next (convBlocks s vd.toNat ops m neg u unit)) (outs : ∀ k, unit s.hart k = out k)
    (units : ∀ k, UnitFits s.hart.fmt s.hart.vlv u k (out k)) (some : 0 < per) (size : u = per * blockLen s.hart.fmt)
    (fits : vd.toNat + s.hart.grp + (if s.hart.fmt = 0x16 then 2 else 1) ≤ 32) : BlockWise i s vd m neg u out := by
  obtain ⟨steady, -, -, hu, -, -⟩ := id plain
  have same : unit s.hart = out := funext outs
  have pos : 0 < blockLen s.hart.fmt := by
    unfold blockLen
    split
    · decide
    · split <;> decide
  have here : 0 < u := size ▸ Nat.mul_pos some pos
  have each : u / blockLen s.hart.fmt = per := size ▸ Nat.mul_div_cancel _ pos
  have puts := convBlocks_puts (vd := vd.toNat) (ops := ops) (m := m) (neg := neg) (u := u) (unit := unit) plain (fun k => by rw [outs]; exact (units k).sound)
  rw [same] at puts
  unfold BlockWise
  intro f B l done fl un
  have held := putBlocks_holds s s.hart.vlv (cdiv s.hart.vlv B) (cdiv s.hart.vlv superLen) (s.hart.fmt == 0x16) (fmt_lt s.hart) (vd := vd.toNat)
    (elem := fun e => unitPart (unitFound s m neg u out (e / u)) (fun o => o.codes[e % u]?) (elemAt s.hart s.hart.capBits vd.toNat s.hart.grp (elemWidth s.hart.fmt) e))
    (scale := fun j => unitPart (unitFound s m neg u out (j / (u / B))) (fun o => o.scales[j % (u / B)]?) (elemAt s.hart s.hart.capBits (vd.toNat + s.hart.grp) 1 8 j))
    (super := fun k => unitPart (unitFound s m neg u out k) (fun o => Option.some o.super) (elemAt s.hart s.hart.capBits (vd.toNat + s.hart.grp + 1) 1 32 k))
    (by simpa only [beq_iff_eq] using fits)
    (fun e _ => unitPart_lt (fun c hc => (units _).cutCode c (List.mem_of_getElem? hc)) (elemAt_lt _ _ _ _ _ _))
    (fun j _ => unitPart_lt (fun c hc => (units _).cutScale c (List.mem_of_getElem? hc)) (elemAt_lt _ _ _ _ _ _))
    (fun k _ => unitPart_lt (fun c hc => Option.some.inj hc ▸ (units _).cutSuper) (elemAt_lt _ _ _ _ _ _))
  obtain ⟨elems, scales, supers, only⟩ := held
  refine ⟨_, runs.trans (congrArg Host.Outcome.next (puts.trans (finishVec_v steady un (putBlocks_frame _ _ _ _ _ _ _ _ _ _)))),
    groupIs_congr (fun e he => ?_) elems, ?_, fun four => ?_, ?_⟩
  · refine unitPart_eq (part := UnitOut.codes) fun _ => ?_
    rw [(units _).codes]
    have := Nat.mod_lt e here
    have := Nat.div_add_mod e u
    rw [Nat.mul_comm] at this
    generalize e / u * u = x at *
    omega
  · have tag : scaleFmt s.hart.fmt = if f = 0x16 then 0x0F else 0x0E := rfl
    refine tag ▸ groupIs_congr (fun j hj => ?_) scales
    refine unitPart_eq (part := UnitOut.scales) fun _ => ?_
    refine Nat.lt_of_lt_of_le ?_ (units _).scales
    rw [each, size]
    exact block_in_unit pos some hj
  · refine groupIs_congr (fun k hk => ?_) (supers (beq_iff_eq.2 four))
    unfold unitPart unitFound
    show _ = if unitDone s m neg u k then (out k).super else superOf s vd k
    split <;> rfl
  · simpa only [beq_iff_eq] using only

open Sys2Proof.Claim

/-! ## The units of the block conversions (R50, R52) -/

/-- The MX formats (R48). -/
def isMx (f : Nat) : Prop := 0x10 ≤ f ∧ f ≤ 0x15

theorem isMx.facts {f : Nat} : isMx f → blockLen f = 32 ∧ elemFmt f ≤ 0x0C ∧ (f ≠ 0x15 → fpBits (elemFmt f) ≤ elemWidth f) ∧ (f = 0x15 → elemWidth f = 8) := by
  have all : ∀ f ≤ 0x15, 0x10 ≤ f → blockLen f = 32 ∧ elemFmt f ≤ 0x0C ∧ (f ≠ 0x15 → fpBits (elemFmt f) ≤ elemWidth f) ∧ (f = 0x15 → elemWidth f = 8) := by decide
  exact fun h => all f h.2 h.1

theorem mxElem_lt {f : Nat} (mx : isMx f) (rm z : Nat) (y : Val) : (mxElem f rm z y).1 < 2 ^ elemWidth f := by
  obtain ⟨-, low, bits, byte⟩ := mx.facts
  unfold mxElem
  by_cases int : f = 0x15
  · rw [if_pos int, byte int]
    split
    · exact wrapInt_lt _
    · decide
  · rw [if_neg int]
    split
    · exact (roundFin_lt low _ _ _ _ _ _ _).trans_le (Nat.pow_le_pow_right Nat.two_pos (bits int))
    · exact Nat.two_pow_pos _

theorem length_mxBlock (f rm : Nat) (z : Nat → Nat) (xs : List Val) : (mxBlock f rm z xs).codes.length = xs.length := by
  unfold mxBlock
  split
  · exact List.length_map _
  · dsimp only
    split
    · exact List.length_map _
    · dsimp only
      rw [List.length_map, List.length_map, List.length_zipIdx]

theorem mxBlock_codes_lt {f : Nat} (mx : isMx f) (rm : Nat) (z : Nat → Nat) (xs : List Val) : ∀ c ∈ (mxBlock f rm z xs).codes, c < 2 ^ elemWidth f := by
  obtain ⟨-, low, bits, byte⟩ := mx.facts
  unfold mxBlock
  split
  · intro c hc
    obtain ⟨_, -, rfl⟩ := List.mem_map.1 hc
    exact Nat.two_pow_pos _
  · dsimp only
    split
    · intro c hc
      obtain ⟨v, -, rfl⟩ := List.mem_map.1 hc
      split
      · exact Nat.two_pow_pos _
      · next float => exact (signBit_lt _ _).trans_le (Nat.pow_le_pow_right Nat.two_pos (bits float))
    · intro c hc
      obtain ⟨p, hp, rfl⟩ := List.mem_map.1 hc
      obtain ⟨q, -, rfl⟩ := List.mem_map.1 hp
      exact mxElem_lt mx _ _ _

theorem mxBlock_scale_lt (f rm : Nat) (z : Nat → Nat) (xs : List Val) : (mxBlock f rm z xs).scale < 2 ^ 8 := by
  unfold mxBlock
  split
  · exact (by decide : 0xFF < 2 ^ 8)
  · dsimp only
    split
    · exact (by decide : 0 < 2 ^ 8)
    · dsimp only
      omega

/-- A converted MX block fits its place (R50). -/
theorem mxUnit_fits {f : Nat} (mx : isMx f) (rm : Nat) (z : Nat → Nat) (l k : Nat) (v : Nat → Val) :
    let o := mxBlock f rm z ((List.range (min 32 (l - k * 32))).map v)
    UnitFits f l 32 k { codes := o.codes, scales := [o.scale], super := 0, flags := o.flags, bad := false } := by
  refine ⟨rfl, ?_, ?_, mxBlock_codes_lt mx _ _ _, ?_, (by decide : 0 < 2 ^ 32)⟩
  · exact (length_mxBlock _ _ _ _).trans ((List.length_map _).trans List.length_range)
  · rw [mx.facts.1, cdiv]
    show _ ≤ 1
    omega
  · intro c hc
    obtain rfl := List.mem_singleton.1 hc
    exact mxBlock_scale_lt _ _ _ _

theorem nl4Nearest_le (rm z q : Nat) (x s : Val) : nl4Nearest rm z q x s ≤ 7 := by
  unfold nl4Nearest
  dsimp only
  split
  · exact Nat.zero_le _
  · exact Nat.le_refl _
  · next i other found =>
    have := List.mem_reverse.1 (List.mem_of_find?_eq_some found)
    rw [List.mem_range] at this
    have short : i + 1 ≤ 7 := by
      have : i ≠ 7 := other
      omega
    split <;> split <;> omega

theorem nl4Code_lt (neg : Bool) {i : Nat} (h : i ≤ 7) : (if neg then 7 - i else 8 + i) < 2 ^ 4 := by split <;> omega

theorem nl4Scale_lt (b s : Val) : nl4Scale b s < 2 ^ 8 := by
  unfold nl4Scale
  split
  · decide
  · cases found : (List.range 256).find? _ with
    | none => decide
    | some q => exact List.mem_range.1 (List.mem_of_find?_eq_some found)

theorem length_nl4Super (rm : Nat) (z : Nat → Nat) (valid : Nat → Bool) (xs : List Val) :
    (nl4Super rm z valid xs).codes.length = xs.length ∧ (nl4Super rm z valid xs).scales.length = cdiv xs.length 64 := by
  unfold nl4Super
  dsimp only
  split
  · exact ⟨List.length_map _, List.length_replicate⟩
  · split
    · exact ⟨List.length_map _, List.length_replicate⟩
    · dsimp only
      refine ⟨?_, (List.length_map _).trans List.length_range⟩
      rw [List.length_map, List.length_map, List.length_zipIdx]

theorem nl4Super_lt (rm : Nat) (z : Nat → Nat) (valid : Nat → Bool) (xs : List Val) :
    (∀ c ∈ (nl4Super rm z valid xs).codes, c < 2 ^ 4) ∧ (∀ c ∈ (nl4Super rm z valid xs).scales, c < 2 ^ 8) ∧ (nl4Super rm z valid xs).super < 2 ^ 32 := by
  unfold nl4Super
  dsimp only
  split
  · refine ⟨fun c hc => ?_, fun c hc => ?_, (by decide : canonicalNan 0x05 < 2 ^ 32)⟩
    · obtain ⟨_, -, rfl⟩ := List.mem_map.1 hc
      decide
    · obtain rfl := List.eq_of_mem_replicate hc
      decide
  · split
    · refine ⟨fun c hc => ?_, fun c hc => ?_, (by decide : 0 < 2 ^ 32)⟩
      · obtain ⟨v, -, rfl⟩ := List.mem_map.1 hc
        split <;> decide
      · obtain rfl := List.eq_of_mem_replicate hc
        decide
    · dsimp only
      refine ⟨fun c hc => ?_, fun c hc => ?_, roundVal_lt (by decide) _ _ _ _⟩
      · obtain ⟨p, hp, rfl⟩ := List.mem_map.1 hc
        obtain ⟨q, -, rfl⟩ := List.mem_map.1 hp
        exact nl4Code_lt _ (nl4Nearest_le _ _ _ _ _)
      · obtain ⟨j, -, rfl⟩ := List.mem_map.1 hc
        exact nl4Scale_lt _ _

/-- A converted superblock fits its place (R52). -/
theorem nl4Unit_fits (rm : Nat) (z : Nat → Nat) (valid : Nat → Bool) (l k : Nat) (v : Nat → Val) :
    let o := nl4Super rm z valid ((List.range (min 16384 (l - k * 16384))).map v)
    UnitFits 0x16 l 16384 k { codes := o.codes, scales := o.scales, super := o.super, flags := o.flags, bad := false } := by
  intro o
  have size : ((List.range (min 16384 (l - k * 16384))).map v).length = min 16384 (l - k * 16384) := (List.length_map _).trans List.length_range
  obtain ⟨codes, scales⟩ := length_nl4Super rm z valid ((List.range (min 16384 (l - k * 16384))).map v)
  obtain ⟨code, scale, super⟩ := nl4Super_lt rm z valid ((List.range (min 16384 (l - k * 16384))).map v)
  rw [size] at codes scales
  exact ⟨rfl, codes, scales.ge, code, scale, super⟩

/-- One element of a superblock whose largest magnitude is `s` (R52). -/
def nl4Elem (rm : Nat) (z : Nat → Nat) (s : Val) (qs : List Nat) (ok : Bool) (p : Val × Nat) : Nat × BitVec 7 :=
  let q := (qs[p.2 / 64]?).getD 0
  let i := nl4Nearest rm (z p.2) q p.1.abs s
  let lv := (nl4Levels[i]?).getD 0
  let exact := leScaled s (lv * (q + 1)) p.1.abs 262144 && leScaled p.1.abs 262144 s (lv * (q + 1))
  (if p.1.neg then 7 - i else 8 + i, flagIf (!exact && ok) NX)

/-- Elements beyond the superblock play no part. -/
theorem nl4Super_congr {rm : Nat} {z : Nat → Nat} {valid valid' : Nat → Bool} {xs : List Val} (same : ∀ i < xs.length, valid i = valid' i) :
    nl4Super rm z valid xs = nl4Super rm z valid' xs := by
  have each (qs : List Nat) : xs.zipIdx.map (fun p => nl4Elem rm z (maxAbs xs) qs (valid p.2) p) = xs.zipIdx.map (fun p => nl4Elem rm z (maxAbs xs) qs (valid' p.2) p) :=
    List.map_congr_left fun p hp => by rw [same p.2 (List.snd_lt_of_mem_zipIdx hp)]
  unfold nl4Super
  dsimp only
  split
  · rfl
  · split
    · rfl
    · exact congrArg (fun r : List (Nat × BitVec 7) =>
        ({ codes := r.map Prod.fst, scales := _, super := _, flags := r.foldl (fun a p => a ||| p.2) 0 } : SuperOut)) (each _)

open Sys2Proof.Claim

/-- The draws of a block conversion (R57, R160). -/
def convDraw (s : State) (b : Reg) (dom e : Nat) : Nat :=
  if s.hart.vrm = some 5 then drawZ s.hart.keySel (((if b = 0 then 0 else (s.getX b).toNat) + e) % 2 ^ 48) dom else 0

section
variable {s : State} {a b : Reg} {t n k : Nat}

theorem unmarked_unit (hc : Clean s.hart) (u : Nat) :
    ((List.range (min u (s.hart.vlv - k * u))).map (fun i => convVal s.hart a.toNat t n (k * u + i))).any (·.2.1) = false := by
  rw [List.any_map, List.any_eq_false]
  intro i _
  rw [Function.comp_apply, hc.convVal]
  exact Bool.false_ne_true

/-- A unit into an MX format, without a mark (R50). -/
theorem convUnit_mx (hc : Clean s.hart) {f : Nat} (mx : isMx f) :
    convUnit s.hart f (s.hart.vrm.getD 0) (if b = 0 then 0 else (s.getX b).toNat) 0 32 k (convVal s.hart a.toNat t n) =
      let o := mxBlock f (s.hart.vrm.getD 0) (fun i => convDraw s b 0 (k * 32 + i)) ((List.range (min 32 (s.hart.vlv - k * 32))).map (fun i => (convVal s.hart a.toNat t n (k * 32 + i)).1))
      { codes := o.codes, scales := [o.scale], super := 0, flags := o.flags, bad := false } := by
  unfold convUnit
  dsimp only
  rw [if_neg (by have := mx.2; omega), unmarked_unit hc, List.map_map]
  simp only [drawFor_code]
  rfl

/-- A superblock without a mark (R52). -/
theorem convUnit_nl4 (hc : Clean s.hart) :
    convUnit s.hart 0x16 (s.hart.vrm.getD 0) (if b = 0 then 0 else (s.getX b).toNat) 2 16384 k (convVal s.hart a.toNat t n) =
      let o := nl4Super (s.hart.vrm.getD 0) (fun i => convDraw s b 2 (k * 16384 + i)) (fun i => validOf s a (elemWidth t) (k * 16384 + i))
        ((List.range (min 16384 (s.hart.vlv - k * 16384))).map (fun i => (convVal s.hart a.toNat t n (k * 16384 + i)).1))
      { codes := o.codes, scales := o.scales, super := o.super, flags := o.flags, bad := false } := by
  unfold convUnit
  dsimp only
  rw [if_pos rfl, unmarked_unit hc, List.map_map]
  simp only [drawFor_code]
  rw [nl4Super_congr (valid' := fun i => validOf s a (elemWidth t) (k * 16384 + i)) ?same]
  case same =>
    intro i hi
    rw [List.length_map, List.length_range] at hi
    rw [List.getElem?_map, List.getElem?_range hi]
    exact convVal_valid _ _ _ _ _
  rfl

end

/-- The group of a block format with its companions ends by v31 (R12, R17). -/
theorem convFits_block {s : State} {vd a : Reg} (fit : ConvFits s vd a) (block : isBlock s.hart.fmt = true) : vd.toNat + s.hart.grp + (if s.hart.fmt = 0x16 then 2 else 1) ≤ 32 := by
  rw [← compCount_block block]
  exact of_decide_eq_true ((Bool.and_eq_true _ _).mp fit.2.1).2

section
variable {s : State} {vd a b : Reg} {m : MaskField} {neg sel : Bool} (plain : PlainVec s) (mask : negOk m neg = true) (fit : ConvFits s vd a)
include plain mask fit

/-- VCVT into an MX format (R50, R161). -/
theorem vcvt_blockWise (kind : cvtKind (s.hart.vreg a.toNat).fmt.toNat s.hart.fmt = some .block) (mx : isMx s.hart.fmt) (mode : s.hart.vrm ≠ none) :
    BlockWise (.vcvt vd a b m neg sel) s vd m neg 32 (fun k =>
      let o := mxBlock s.hart.fmt (s.hart.vrm.getD 0) (fun i => convDraw s b 0 (k * 32 + i)) ((List.range (min 32 (s.hart.vlv - k * 32))).map (fun i =>
        (convVal s.hart a.toNat (s.hart.vreg a.toNat).fmt.toNat (sideRegs s.hart (s.hart.vreg a.toNat).fmt.toNat) (k * 32 + i)).1))
      { codes := o.codes, scales := [o.scale], super := 0, flags := o.flags, bad := false }) := by
  obtain ⟨-, legal, still, hu, -, clean⟩ := id plain
  have unbound : Unbound s.hart := hu
  have hc : Clean s.hart := clean
  obtain ⟨grant, few⟩ := convFits_grant unbound fit
  have block : isBlock s.hart.fmt = true := by
    rw [isBlock, decide_eq_true mx.1, decide_eq_true (Nat.le_succ_of_le mx.2)]
    rfl
  have runs : exec (.vcvt vd a b m neg sel) s = .next (convBlocks s vd.toNat [typeOpnd s.hart vd.toNat false true, convSrc s.hart a.toNat] m neg (blockLen s.hart.fmt)
      (fun g j => convUnit g s.hart.fmt (s.hart.vrm.getD 0) (convOrigin s vd.toNat b) 0 (blockLen s.hart.fmt) j
        (convVal g a.toNat (s.hart.srcTag a.toNat) (convSrc s.hart a.toNat).n))) := by
    refine congrArg Host.Outcome.next ((checked_wellFormed (show wellFormed (.vcvt vd a b m neg sel) = true from mask) s _).trans ((held_still still _).trans ?_))
    dsimp only
    rw [unbound.srcTag, kind, unbound.vecCheck legal _ grant (by rw [decide_eq_true few]; rfl) (fun _ => mode)]
    rfl
  unfold convSrc at runs
  rw [unbound.srcTag, unbound.convOrigin, mx.facts.1] at runs
  exact convBlocks_blockWise _ plain runs (fun k => convUnit_mx hc mx) (fun k => mxUnit_fits mx _ _ _ k _) Nat.one_pos (by rw [mx.facts.1])
    (convFits_block fit block)

/-- VCVT from MXFP4 to MXFP8 (R161). -/
theorem vcvt_copies (from' : (s.hart.vreg a.toNat).fmt.toNat = 0x14) (into : s.hart.fmt = 0x10) :
    BlockWise (.vcvt vd a b m neg sel) s vd m neg 32 (fun k =>
      { codes := (List.range (min 32 (s.hart.vlv - k * 32))).map (fun i => (roundVal 0x08 0 false 0 (decodeVal (s.hart.vreg a.toNat).fmt.toNat
          (elemAt s.hart s.hart.capBits a.toNat (sideRegs s.hart (s.hart.vreg a.toNat).fmt.toNat) (elemWidth (s.hart.vreg a.toNat).fmt.toNat) (k * 32 + i)))).1),
        scales := [elemAt s.hart s.hart.capBits (a.toNat + sideRegs s.hart (s.hart.vreg a.toNat).fmt.toNat) 1 8 k], super := 0, flags := 0, bad := false }) := by
  obtain ⟨-, legal, still, hu, -, clean⟩ := id plain
  have unbound : Unbound s.hart := hu
  have hc : Clean s.hart := clean
  obtain ⟨grant, few⟩ := convFits_grant unbound fit
  have tag : s.hart.srcTag a.toNat = 0x14 := (unbound.srcTag _).trans from'
  have block : isBlock s.hart.fmt = true := by rw [into]; rfl
  have runs : exec (.vcvt vd a b m neg sel) s = .next (convBlocks s vd.toNat [typeOpnd s.hart vd.toNat false true, convSrc s.hart a.toNat] m neg (blockLen s.hart.fmt)
      (fun g j =>
        { codes := (List.range (min 32 (g.vlv - j * 32))).map (fun i => (roundVal 0x08 0 false 0 (decodeVal (s.hart.srcTag a.toNat)
            (elemAt g g.capBits a.toNat (convSrc s.hart a.toNat).n 4 (j * 32 + i)))).1),
          scales := [elemAt g g.capBits (a.toNat + (convSrc s.hart a.toNat).n) 1 8 j], super := 0, flags := 0,
          bad := ((List.range (min 32 (g.vlv - j * 32))).map (fun i => convVal g a.toNat (s.hart.srcTag a.toNat) (convSrc s.hart a.toNat).n (j * 32 + i))).any (·.2.1) })) := by
    refine congrArg Host.Outcome.next ((checked_wellFormed (show wellFormed (.vcvt vd a b m neg sel) = true from mask) s _).trans ((held_still still _).trans ?_))
    dsimp only
    rw [tag, into, unbound.vecCheck legal _ grant (by rw [decide_eq_true few]; rfl) (fun c => absurd (show false = true from c) Bool.false_ne_true)]
    rfl
  unfold convSrc at runs
  rw [tag, show blockLen s.hart.fmt = 32 by rw [into]; rfl] at runs
  rw [from']
  refine convBlocks_blockWise _ plain runs (fun k => ?_) (fun k => ⟨rfl, ?_, ?_, ?_, ?_, (by decide : 0 < 2 ^ 32)⟩) Nat.one_pos (by rw [into]; rfl)
    (convFits_block fit block)
  · dsimp only
    rw [unmarked_unit hc]
    rfl
  · exact (List.length_map _).trans List.length_range
  · rw [into]
    show cdiv _ 32 ≤ 1
    unfold cdiv
    omega
  · intro c hcode
    obtain ⟨i, -, rfl⟩ := List.mem_map.1 hcode
    rw [into]
    exact roundVal_lt (f := 0x08) (by decide) _ _ _ _
  · intro c hscale
    obtain rfl := List.mem_singleton.1 hscale
    exact elemAt_lt _ _ _ _ _ _

/-- VCVTF4 into a block format runs its units (R163). -/
theorem vcvtf4_units (single : (s.hart.vreg a.toNat).fmt.toNat = 5) (block : s.hart.fmt = 0x14 ∨ s.hart.fmt = 0x16) (mode : s.hart.vrm ≠ none) :
    exec (.vcvtf4 vd a b m neg) s = .next (convBlocks s vd.toNat [typeOpnd s.hart vd.toNat false true, convSrc s.hart a.toNat] m neg (if s.hart.fmt = 0x16 then superLen else 32)
      (fun g j => convUnit g s.hart.fmt (s.hart.vrm.getD 0) (if b = 0 then 0 else (s.getX b).toNat) (if s.hart.fmt = 0x16 then 2 else 0) (if s.hart.fmt = 0x16 then superLen else 32) j
        (convVal g a.toNat (s.hart.vreg a.toNat).fmt.toNat (sideRegs s.hart (s.hart.vreg a.toNat).fmt.toNat)))) := by
  obtain ⟨-, legal, still, hu, -, -⟩ := id plain
  have unbound : Unbound s.hart := hu
  obtain ⟨grant, few⟩ := convFits_grant unbound fit
  have tag : s.hart.srcTag a.toNat = 5 := (unbound.srcTag _).trans single
  have runs : exec (.vcvtf4 vd a b m neg) s = .next (convBlocks s vd.toNat [typeOpnd s.hart vd.toNat false true, convSrc s.hart a.toNat] m neg
      (if s.hart.fmt = 0x16 then superLen else 32)
      (fun g j => convUnit g s.hart.fmt (s.hart.vrm.getD 0) (convOrigin s vd.toNat b) (if s.hart.fmt = 0x16 then 2 else 0) (if s.hart.fmt = 0x16 then superLen else 32) j
        (convVal g a.toNat (s.hart.srcTag a.toNat) (convSrc s.hart a.toNat).n))) := by
    refine congrArg Host.Outcome.next ((checked_wellFormed (show wellFormed (.vcvtf4 vd a b m neg) = true from mask) s _).trans ((held_still still _).trans ?_))
    dsimp only
    rw [unbound.vecCheck legal _ grant (by rw [decide_eq_true few, tag]; rcases block with h | h <;> rw [h] <;> rfl) fun _ => mode]
    dsimp only
    rw [if_pos (by rcases block with h | h <;> rw [h] <;> rfl)]
  unfold convSrc at runs ⊢
  rw [unbound.srcTag, unbound.convOrigin] at runs
  rw [unbound.srcTag]
  exact runs

/-- VCVTF4 into MXFP4 (R50, R163). -/
theorem vcvtf4_mx (single : (s.hart.vreg a.toNat).fmt.toNat = 5) (into : s.hart.fmt = 0x14) (mode : s.hart.vrm ≠ none) :
    BlockWise (.vcvtf4 vd a b m neg) s vd m neg 32 (fun k =>
      let o := mxBlock s.hart.fmt (s.hart.vrm.getD 0) (fun i => convDraw s b 0 (k * 32 + i)) ((List.range (min 32 (s.hart.vlv - k * 32))).map (fun i =>
        (convVal s.hart a.toNat (s.hart.vreg a.toNat).fmt.toNat (sideRegs s.hart (s.hart.vreg a.toNat).fmt.toNat) (k * 32 + i)).1))
      { codes := o.codes, scales := [o.scale], super := 0, flags := o.flags, bad := false }) := by
  obtain ⟨-, -, -, -, -, clean⟩ := id plain
  have mx : isMx s.hart.fmt := by
    rw [into]
    unfold isMx
    decide
  have runs := vcvtf4_units plain mask fit (b := b) single (Or.inl into) mode
  have other : ¬ s.hart.fmt = 0x16 := by
    rw [into]
    decide
  simp only [if_neg other] at runs
  exact convBlocks_blockWise _ plain runs (fun k => convUnit_mx clean mx) (fun k => mxUnit_fits mx _ _ _ k _) Nat.one_pos (by rw [mx.facts.1])
    (convFits_block fit (by rw [into]; rfl))

/-- VCVTF4 into NL4B (R52, R163). -/
theorem vcvtf4_nl4 (single : (s.hart.vreg a.toNat).fmt.toNat = 5) (into : s.hart.fmt = 0x16) (mode : s.hart.vrm ≠ none) :
    BlockWise (.vcvtf4 vd a b m neg) s vd m neg 16384 (fun k =>
      let o := nl4Super (s.hart.vrm.getD 0) (fun i => convDraw s b 2 (k * 16384 + i)) (fun i => validOf s a (elemWidth (s.hart.vreg a.toNat).fmt.toNat) (k * 16384 + i))
        ((List.range (min 16384 (s.hart.vlv - k * 16384))).map (fun i =>
          (convVal s.hart a.toNat (s.hart.vreg a.toNat).fmt.toNat (sideRegs s.hart (s.hart.vreg a.toNat).fmt.toNat) (k * 16384 + i)).1))
      { codes := o.codes, scales := o.scales, super := o.super, flags := o.flags, bad := false }) := by
  obtain ⟨-, -, -, -, -, clean⟩ := id plain
  have runs := vcvtf4_units plain mask fit (b := b) single (Or.inr into) mode
  simp only [if_pos into] at runs
  refine convBlocks_blockWise (per := 256) _ plain runs (fun k => ?_) (fun k => ?_) (by decide) (by rw [into]; rfl) (convFits_block fit (by rw [into]; rfl))
  · rw [into]
    exact convUnit_nl4 clean
  · rw [into]
    exact nl4Unit_fits _ _ _ _ k _

end

open Sys2Proof.Claim

theorem exactPairs_kind : ∀ p ∈ exactPairs, cvtKind p.1 p.2 = some .exact ∧ p.2 ≤ 0x0C := by decide
theorem roundPairs_kind : ∀ p ∈ roundPairs, cvtKind p.1 p.2 = some .round ∧ p.2 ≤ 0x0C := by decide

theorem blockPairs_kind {t f : Nat} (pair : ((t = 6 ∨ t = 7) ∧ f ∈ [0x10, 0x11, 0x12, 0x13, 0x15]) ∨ (t = 0x10 ∧ f = 0x14)) : cvtKind t f = some .block ∧ isMx f := by
  have both : ∀ t ∈ [6, 7], ∀ f ∈ [0x10, 0x11, 0x12, 0x13, 0x15], cvtKind t f = some .block ∧ 0x10 ≤ f ∧ f ≤ 0x15 := by decide
  rcases pair with ⟨source, dest⟩ | ⟨rfl, rfl⟩
  · exact both t (by rcases source with rfl | rfl <;> simp) f dest
  · exact ⟨rfl, by unfold isMx; decide⟩

/-- Settles O38: each conversion is an element-wise run of its element's function, or a run of its units into a block format. -/
theorem vectorConversions : Obligations.VectorConversions := by
  unfold Obligations.VectorConversions
  intro s vd a b m neg sel plain masked fit f t n x val ok origin z rm cvt
  have mask : negOk m neg = true := negOk_of masked
  have whole {g : Nat → Nat × BitVec 7} (int : f < 4) (e : Nat) : cleanElem s.hart.fmt (g e).1 = lowBits (elemWidth s.hart.fmt) (g e).1 :=
    cleanElem_eq (memWidth_int (Nat.lt_trans int (by decide))) _
  have isf (int : f < 4) : isInt f = true := decide_eq_true int
  have ist (int : t < 4) : isInt t = true := decide_eq_true int
  refine ⟨fun tl fl wide => ?widen, fun tl fl wide => ?narrow, ?float, ?block, ?copy, ?fromInt, ?toInt, ?fp4, ?mxfp4, ?nl4, ?scale⟩
  case widen =>
    have kind : cvtKind t f = some .widen := by
      unfold cvtKind
      rw [ist tl, isf fl, wide]
      simp
    exact vcvt_elementWise plain mask fit (k := .widen) _ kind (by decide) (fun c => by cases c) (fun e => rfl) (whole fl) fun _ => quiet_zero'
  case narrow =>
    have ne : elemWidth f ≠ 2 * elemWidth t := by
      have := elemWidth_pos t
      omega
    have kind : cvtKind t f = some .narrow := by
      unfold cvtKind
      dsimp only
      rw [ist tl, isf fl, if_pos (by rfl), if_neg ne, if_pos wide]
    refine vcvt_elementWise plain mask fit (k := .narrow) _ kind (by decide) (fun c => by cases c) (fun e => ?_) (whole fl) fun e => ?_
    · show (if sel then wrapOrSat true _ _ else _) = _
      rw [wrapOrSat_eq]
    · exact quiet_ite (satWrap_quiet _ _ _) quiet_zero'
  case float =>
    have run {k : CvtKind} (kind : cvtKind t f = some k) (which : k = .exact ∨ k = .round) (low : f ≤ 0x0C) (mode : k = .round → s.hart.vrm ≠ none) :
        ElementWise cvt s vd m neg f (fun e => roundOp f rm sel (z 0 e) (val e, if (val e).isSig then NV else 0)) ok :=
      vcvt_elementWise plain mask fit _ kind (by rcases which with rfl | rfl <;> decide) mode (fun e => by rcases which with rfl | rfl <;> rfl)
        (fun e => cleanElem_code low (roundVal_lt low _ _ _ _)) fun e => roundOp_quiet _ _ _ _ (quiet_flagIf_NV _)
    rintro (pair | ⟨pair, mode⟩)
    · obtain ⟨kind, low⟩ := exactPairs_kind _ pair
      exact run kind (Or.inl rfl) low fun c => by cases c
    · obtain ⟨kind, low⟩ := roundPairs_kind _ pair
      exact run kind (Or.inr rfl) low fun _ => mode
  case block =>
    intro mode pair
    obtain ⟨kind, mx⟩ := blockPairs_kind pair
    exact vcvt_blockWise plain mask fit kind mx mode
  case copy => exact fun from' into => vcvt_copies plain mask fit from' into
  case fromInt =>
    intro mode tl fl fh widths
    have pair : cvtiOk t f = true := by
      rw [cvtiOk, ist tl, isFloat_iff.2 ⟨fl, fh⟩]
      simpa [or_assoc] using widths
    exact vcvti_elementWise plain mask fit _ pair mode (fun e => if_pos (ist tl)) fh fun e => roundVal_quiet _ _ _ _ _
  case toInt =>
    intro mode tl th fl widths
    have pair : cvtiOk t f = true := by
      rw [cvtiOk, isf fl, isFloat_iff.2 ⟨tl, th⟩]
      simpa [or_assoc] using widths
    refine vcvti_elementWise plain mask fit _ pair mode (fun e => (if_neg (by rw [isInt_iff]; omega)).trans ?_) (by omega) fun e => toIntRange_quiet _ _ _ _ _
    cases sel <;> rfl
  case fp4 => exact fun mode from' into => vcvtf4_elementWise plain mask fit from' into mode
  case mxfp4 => exact fun mode from' into => vcvtf4_mx plain mask fit from' into mode
  case nl4 => exact fun mode from' into => vcvtf4_nl4 plain mask fit from' into mode
  case scale =>
    exact fun mode lo hi into scales => vqscale_elementWise plain mask fit ⟨lo, hi⟩ into mode scales

end Sys2Proof.Machine

namespace Sys2Proof.Machine
/-! # Engine commands (O43) -/

open Sys2Proof.Claim

/-! ## VCMD and its records (R223, R224, R231) -/

theorem CmdRec.typ_eq (c : CmdRec) : c.typ % 16 = ((c.w 0).extractLsb' 0 4).toNat := by
  have head : c.words.headD 0 = c.w 0 := by
    unfold CmdRec.w
    cases c.words <;> rfl
  rw [CmdRec.typ, head, BitVec.extractLsb'_toNat, BitVec.extractLsb'_toNat, Nat.shiftRight_zero]
  omega

/-- A record that keeps its tables has one of seven types (R224). -/
theorem CmdRec.typ_of_ok {c : CmdRec} (ok : c.ok = true) : ((c.w 0).extractLsb' 0 4).toNat < 7 := by
  unfold CmdRec.ok at ok
  simp only [Bool.and_eq_true] at ok
  exact of_decide_eq_true ok.1.1.1.1

/-- Whether a record may name its flag, in the words of the statements (R223). -/
theorem flagUsable_iff (s : State) (c : CmdRec) :
    (flagUsable s c).1 = true ↔ c.w 1 ≠ 0 ∧ (c.w 1).toNat % 8 = 0 ∧ (c.w 1).getLsbD 63 = false ∧ ∃ m, agentMap s c.space .store (c.w 1) = .ok m := by
  unfold flagUsable
  split
  · next bad =>
    refine iff_of_false Bool.false_ne_true fun ⟨named, whole, here, _⟩ => ?_
    rw [Bool.or_eq_true, decide_eq_true_eq] at bad
    rcases bad with zero | outside
    · exact named zero
    · rw [flagAddress, whole, isRemote, here] at outside
      exact absurd outside Bool.false_ne_true
  · next good =>
    rw [Bool.or_eq_true, decide_eq_true_eq, not_or, Bool.not_eq_true, Bool.not_eq_false', flagAddress, Bool.and_eq_true, beq_iff_eq, Bool.not_eq_true'] at good
    cases h : agentMap s c.space .store (c.w 1) with
    | ok m => exact iff_of_true rfl ⟨good.1, good.2.1, good.2.2, m, rfl⟩
    | error f => exact iff_of_false Bool.false_ne_true fun ⟨_, _, _, m, ok⟩ => by cases ok

/-- Submitting a record leaves the current hart as it is. -/
theorem submit_hart (c : CmdRec) (s : State) : (submit c s).1.hart = s.hart := by
  have noted (t : State) (l : List Note) : (noteAll t l).hart = t.hart := (noteAll_moved t l).hart
  have snap (die n : Nat) (t : State) : (acceptSnapshot die n c t).hart = t.hart := by
    unfold acceptSnapshot
    split
    · rfl
    · split
      · exact noted _ _
      · exact noted _ _
  have here := noted s (flagUsable s c).2
  unfold submit
  dsimp only
  split
  · exact here
  · split
    · exact here
    · split
      · split <;> exact here
      · split <;> exact here
      · split
        · exact here
        · split
          · exact (snap _ _ _).trans here
          · exact here


/-! ## One record judged -/

section
variable {s : State} {c : CmdRec}

/-- The state in which a record is judged: what looking for its flag's place has left done. -/
def judging (s : State) (c : CmdRec) : State := noteAll s (flagUsable s c).2

theorem submit_unusable (bad : (flagUsable s c).1 = false) : submit c s = (judging s c, false) := if_pos (by rw [bad]; rfl)

theorem submit_broken (good : (flagUsable s c).1 = true) (broken : c.ok = false) : submit c s = (acceptFailed (dieOf (benchOf s.hart.id)) 1 c (judging s c), true) :=
  (if_neg (by rw [good]; exact Bool.false_ne_true)).trans (if_pos (by rw [broken]; rfl))

/-- A record that no table stops, by its type. -/
theorem submit_legal (good : (flagUsable s c).1 = true) (ok : c.ok = true) :
    submit c s = match c.typ % 16 with
      | 2 =>
        let b := (judging s c).bench (benchOf s.hart.id)
        if b.loaderQ.length < Config.canopyQueueLen then ((judging s c).setBench (benchOf s.hart.id) { b with loaderQ := b.loaderQ ++ [c] }, true) else (judging s c, false)
      | 4 =>
        let k := ctxKey (dieOf (benchOf s.hart.id)) ((c.w 2).extractLsb' 0 4).toNat
        if ((judging s c).ctx k).st != 0 || ((judging s c).ctx k).starting.isSome then (judging s c, false)
        else ((judging s c).setCtx k { (judging s c).ctx k with starting := some c }, true)
      | t =>
        match engineFor (judging s c) (dieOf (benchOf s.hart.id)) c with
        | none => (judging s c, false)
        | some n => if t = 3 then (acceptSnapshot (dieOf (benchOf s.hart.id)) n c (judging s c), true)
          else ((judging s c).setQueue n ((judging s c).queueOf n ++ [c]), true) :=
  (if_neg (by rw [good]; exact Bool.false_ne_true)).trans ((if_neg (by rw [ok]; exact Bool.false_ne_true)).trans rfl)

/-- A record for the copy engines. -/
theorem submit_engine (good : (flagUsable s c).1 = true) (ok : c.ok = true) (typ : c.typ % 16 ∈ [0, 1, 3, 5, 6]) :
    submit c s = match engineFor (judging s c) (dieOf (benchOf s.hart.id)) c with
      | none => (judging s c, false)
      | some n => if c.typ % 16 = 3 then (acceptSnapshot (dieOf (benchOf s.hart.id)) n c (judging s c), true)
        else ((judging s c).setQueue n ((judging s c).queueOf n ++ [c]), true) := by
  rw [submit_legal good ok]
  generalize c.typ % 16 = t at typ ⊢
  simp only [List.mem_cons, List.not_mem_nil, or_false] at typ
  rcases typ with rfl | rfl | rfl | rfl | rfl <;> rfl

end

/-- No copy engine that the record may go to has room. -/
theorem engineFor_none {s : State} {die : Nat} {c : CmdRec} (full : ∀ k, k < 8 → (c.any = true ∨ k = c.eng) → 32 ≤ (s.queueOf (8 * die + k)).length) :
    engineFor s die c = none := by
  unfold engineFor
  dsimp only
  split
  · next any =>
    rw [List.find?_eq_none.2 fun k hk => ?_]
    · rfl
    · rw [decide_eq_true_eq]
      exact Nat.not_lt.2 (full k (List.mem_range.1 hk) (Or.inl any))
  · refine if_neg ?_
    rw [decide_eq_true_eq]
    exact Nat.not_lt.2 (full _ (BitVec.isLt _) (Or.inr rfl))

/-- The copy engine that takes the record: the one it names, or the first with room (R223). -/
theorem engineFor_some {s : State} {die n : Nat} {c : CmdRec} (room : (s.queueOf n).length < 32)
    (first : if c.any then ∃ k, k < 8 ∧ n = 8 * die + k ∧ ∀ j, j < k → 32 ≤ (s.queueOf (8 * die + j)).length else n = 8 * die + c.eng) :
    engineFor s die c = some n := by
  unfold engineFor
  dsimp only
  split
  · next any =>
    rw [if_pos any] at first
    obtain ⟨k, inside, rfl, full⟩ := first
    have found : (List.range 8).find? (fun e => decide ((s.queueOf (8 * die + e)).length < Config.copyQueueLen)) = some k := by
      rw [List.find?_range_eq_some]
      refine ⟨decide_eq_true room, List.mem_range.2 inside, fun j hj => ?_⟩
      rw [Bool.not_eq_true', decide_eq_false_iff_not]
      exact Nat.not_lt.2 (full j hj)
    rw [found]
    rfl
  · next single =>
    rw [if_neg single] at first
    obtain rfl := first
    exact if_pos (decide_eq_true room)

open Sys2Proof.Claim

theorem failureFlag_eq {reason : Nat} (small : reason < 8) : failureFlag reason = BitVec.ofNat 64 (2 ^ 63 + reason) := by
  interval_cases reason <;> rfl

theorem snapReason_lt (c : CmdRec) : snapReason c < 8 := by
  unfold snapReason
  dsimp only
  split
  · decide
  · split <;> decide

theorem faultReason_lt (f : XFault) : faultReason f < 8 := by
  unfold faultReason
  split <;> decide

/-- One page of a snapshot's source (R323). -/
def snapPage (s : State) (c : CmdRec) (acc : Except Nat (List (Nat × Nat × Word)) × List Note) (i : Nat) : Except Nat (List (Nat × Nat × Word)) × List Note :=
  match acc.1 with
  | .error _ => acc
  | .ok l => match agentMap s c.space .load (c.w 2 + BitVec.ofNat 64 (4096 * i)) with
    | .error f => (.error (faultReason f), acc.2 ++ f.notes)
    | .ok m => (.ok (l ++ [(m.pa, homeBench m.pa m.abench, c.w 3 + BitVec.ofNat 64 (4096 * i))]), acc.2 ++ m.notes)

/-- A page that cannot be had ends a snapshot with a reason of R231. -/
theorem snapPages_reason {s : State} {c : CmdRec} {e : Nat} {notes : List Note} (h : snapPages s c = (.error e, notes)) : e < 8 := by
  have all (acc : Except Nat (List (Nat × Nat × Word)) × List Note) (small : ∀ e, acc.1 = .error e → e < 8) (l : List Nat) :
      ∀ e, (l.foldl (snapPage s c) acc).1 = .error e → e < 8 := by
    induction l generalizing acc with
    | nil => exact small
    | cons i l ih =>
      refine ih _ fun e he => ?_
      unfold snapPage at he
      split at he
      · exact small e he
      · split at he
        · next f _ => exact Except.error.inj he ▸ faultReason_lt f
        · cases he
  exact all (.ok [], []) (fun _ c => by cases c) (List.range ((c.w 4).toNat / 4096)) e (congrArg Prod.fst h)

/-- What becomes of one record (R223, R224, R231). -/
theorem submit_judges (s : State) (c : CmdRec) :
    let flagged := c.w 1 ≠ 0 ∧ (c.w 1).toNat % 8 = 0 ∧ (c.w 1).getLsbD 63 = false ∧ ∃ m, agentMap s c.space .store (c.w 1) = .ok m
    let typ := ((c.w 0).extractLsb' 0 4).toNat
    let bench := benchOf s.hart.id
    let die := bench / 24
    let u := noteAll s (flagUsable s c).2
    let fails (reason : Nat) (v : State) : State :=
      { v with owed := v.owed ++ [{ addr := c.w 1, val := BitVec.ofNat 64 (2 ^ 63 + reason), space := c.space, unit := 14, index := die, hart := c.hart, farm := c.farm }] }
    let takes (n : Nat) : Prop := (u.queueOf n).length < 32 ∧
      if c.any then ∃ k, k < 8 ∧ n = 8 * die + k ∧ ∀ j, j < k → 32 ≤ (u.queueOf (8 * die + j)).length else n = 8 * die + c.eng
    (¬ flagged → submit c s = (u, false))
    ∧ (flagged → c.ok = false → submit c s = (fails 1 u, true))
    ∧ (flagged → c.ok = true →
      (typ ∈ [0, 1, 3, 5, 6] → (∀ k, k < 8 → (c.any = true ∨ k = c.eng) → 32 ≤ (u.queueOf (8 * die + k)).length) → submit c s = (u, false))
      ∧ (∀ n, typ ∈ [0, 1, 5, 6] → takes n → submit c s = (u.setQueue n (u.queueOf n ++ [c]), true))
      ∧ (∀ n, typ = 3 → takes n →
          (snapReason c ≠ 0 → submit c s = (fails (snapReason c) u, true))
          ∧ (snapReason c = 0 → ∀ e notes, snapPages u c = (.error e, notes) → submit c s = (fails e (noteAll u notes), true))
          ∧ (snapReason c = 0 → ∀ pages notes, snapPages u c = (.ok pages, notes) →
              let v := noteAll u notes
              submit c s = ({ v.setQueue n (v.queueOf n ++ [c]) with
                snaps := v.snaps ++ [{ engine := n, pages := pages, buffers := [], cmd := c, failed := none }] }, true)))
      ∧ (typ = 4 →
          let k := 16 * die + ((c.w 2).extractLsb' 0 4).toNat
          submit c s = if (u.ctx k).st = 0 ∧ (u.ctx k).starting = none then (u.setCtx k { u.ctx k with starting := some c }, true) else (u, false))
      ∧ (typ = 2 → submit c s = if (u.bench bench).loaderQ.length < 8
        then (u.setBench bench { u.bench bench with loaderQ := (u.bench bench).loaderQ ++ [c] }, true) else (u, false))) := by
  intro flagged typ bench die u fails takes
  have usable : (flagUsable s c).1 = true ↔ flagged := flagUsable_iff s c
  have kind : c.typ % 16 = typ := c.typ_eq
  have fail {reason : Nat} (small : reason < 8) (v : State) : acceptFailed die reason c v = fails reason v := by
    unfold acceptFailed
    rw [failureFlag_eq small]
  refine ⟨fun bad => submit_unusable (Bool.eq_false_iff.2 (mt usable.1 bad)), fun good broken => ?_, fun good ok => ⟨fun queued full => ?_, fun n queued room => ?_, fun n snap room => ?_,
    fun sched => ?_, fun load => ?_⟩⟩
  · rw [submit_broken (usable.2 good) broken]
    exact congrArg (fun v => (v, true)) (fail (by decide) u)
  · rw [submit_engine (usable.2 good) ok (kind ▸ queued)]
    show (match engineFor u die c with | none => _ | some n => _) = _
    rw [engineFor_none full]
    rfl
  · obtain ⟨room, first⟩ := room
    rw [submit_engine (usable.2 good) ok (kind ▸ (by simp only [List.mem_cons, List.not_mem_nil, or_false] at queued ⊢; omega))]
    show (match engineFor u die c with | none => _ | some n => _) = _
    rw [engineFor_some room first]
    exact if_neg (by rw [kind]; simp only [List.mem_cons, List.not_mem_nil, or_false] at queued; omega)
  · obtain ⟨room, first⟩ := room
    have run : submit c s = (acceptSnapshot die n c u, true) := by
      rw [submit_engine (usable.2 good) ok (by rw [kind, snap]; decide)]
      show (match engineFor u die c with | none => _ | some n => _) = _
      rw [engineFor_some room first]
      exact if_pos (kind.trans snap)
    rw [run]
    unfold acceptSnapshot
    refine ⟨fun broken => ?_, fun fine e notes pages => ?_, fun fine l notes pages => ?_⟩
    · rw [if_pos broken, fail (snapReason_lt c)]
    · rw [if_neg (not_not.2 fine), pages]
      exact congrArg (fun v => (v, true)) (fail (snapPages_reason pages) _)
    · rw [if_neg (not_not.2 fine), pages]
  · rw [submit_legal (usable.2 good) ok, kind, sched]
    dsimp only
    rw [show ctxKey (dieOf (benchOf s.hart.id)) ((c.w 2).extractLsb' 0 4).toNat = 16 * die + ((c.w 2).extractLsb' 0 4).toNat from congrArg (· + _) (Nat.mul_comm _ _)]
    show (if ((u.ctx _).st != 0 || (u.ctx _).starting.isSome) = true then (u, false) else (u.setCtx _ _, true)) = _
    rw [← ite_not]
    refine if_congr ?_ rfl rfl
    simp [Option.isSome_iff_ne_none]
  · rw [submit_legal (usable.2 good) ok, kind, load]
    rfl

/-! ## VCMD (R223) -/

/-- The record that a VCMD takes from its group's registers. -/
def vcmdRecord (s : State) (a : Reg) (r : Nat) : CmdRec :=
  { words := (List.range 8).map (fun i => BitVec.ofNat 64 (elemOf s a 64 (8 * r + i))), space := s.hart.space, hart := s.hart.id, farm := s.hart.farm }

/-- The records of a group judged in order, and the bits of those accepted (R223). -/
def judgeAll (s : State) (a : Reg) (m : MaskField) (acc : State × Nat) (l : List Nat) : State × Nat :=
  l.foldl (fun acc r => if !s.hart.selects m false (8 * r) then acc else
    match submit (vcmdRecord s a r) acc.1 with
    | (t, took) => (t, if took then acc.2 + 2 ^ (8 * r) else acc.2)) acc

/-- The same with the bits as a list, as the statements have it. -/
def judgeList (s : State) (a : Reg) (m : MaskField) (acc : State × List Nat) (l : List Nat) : State × List Nat :=
  l.foldl (fun acc r => if s.hart.selects m false (8 * r) then
    let x := submit (vcmdRecord s a r) acc.1
    (x.1, if x.2 then 8 * r :: acc.2 else acc.2) else acc) acc

/-- Adding a bit above all others sets it. -/
theorem testBit_add_above {x k e : Nat} (below : x < 2 ^ k) : (x + 2 ^ k).testBit e = (decide (e = k) || x.testBit e) := by
  rw [Nat.add_comm]
  by_cases same : e = k
  · subst same
    rw [Nat.testBit_two_pow_add_eq, Nat.testBit_lt_two_pow below, decide_eq_true rfl]
    rfl
  · rw [decide_eq_false same, Bool.false_or]
    rcases Nat.lt_or_gt_of_ne same with lo | hi
    · exact Nat.testBit_two_pow_add_gt lo x
    · rw [Nat.testBit_lt_two_pow, Nat.testBit_lt_two_pow (below.trans_le (Nat.pow_le_pow_right Nat.two_pos hi.le))]
      calc 2 ^ k + x < 2 ^ k + 2 ^ k := Nat.add_lt_add_left below _
        _ = 2 ^ (k + 1) := by rw [Nat.pow_succ]; omega
        _ ≤ 2 ^ e := Nat.pow_le_pow_right Nat.two_pos hi

/-- The two ways of keeping the accepted records agree, and the current hart stays as it is. -/
theorem judgeAll_list (s : State) (a : Reg) (m : MaskField) (n : Nat) :
    (judgeAll s a m (s, 0) (List.range n)).1 = (judgeList s a m (s, []) (List.range n)).1 ∧ (judgeAll s a m (s, 0) (List.range n)).1.hart = s.hart
      ∧ (judgeAll s a m (s, 0) (List.range n)).2 < 2 ^ (8 * n)
      ∧ ∀ e, (judgeAll s a m (s, 0) (List.range n)).2.testBit e = (judgeList s a m (s, []) (List.range n)).2.contains e := by
  induction n with
  | zero => exact ⟨rfl, rfl, Nat.one_pos, fun e => Nat.zero_testBit e⟩
  | succ n ih =>
    obtain ⟨same, hart, below, bits⟩ := ih
    unfold judgeAll judgeList at *
    rw [List.range_succ, List.foldl_append, List.foldl_append, List.foldl_cons, List.foldl_cons, List.foldl_nil, List.foldl_nil]
    generalize List.foldl _ (s, 0) (List.range n) = p at *
    generalize List.foldl _ (s, []) (List.range n) = q at *
    have grow : 2 ^ (8 * n) + 2 ^ (8 * n) ≤ 2 ^ (8 * (n + 1)) := by
      calc 2 ^ (8 * n) + 2 ^ (8 * n) = 2 ^ (8 * n + 1) := by rw [Nat.pow_succ]; omega
        _ ≤ 2 ^ (8 * (n + 1)) := Nat.pow_le_pow_right Nat.two_pos (by omega)
    cases s.hart.selects m false (8 * n) with
    | false => exact ⟨same, hart, by dsimp only; exact below.trans_le (by omega), bits⟩
    | true =>
      have kept := (submit_hart (vcmdRecord s a n) p.1).trans hart
      simp only [Bool.not_true, Bool.false_eq_true, if_false, if_true]
      rw [← same]
      generalize submit (vcmdRecord s a n) p.1 = r at kept ⊢
      obtain ⟨t, took⟩ := r
      refine ⟨rfl, kept, ?_, fun e => ?_⟩
      · dsimp only
        split <;> omega
      · cases took with
        | false => exact bits e
        | true =>
          dsimp only
          rw [if_pos rfl, if_pos rfl, testBit_add_above below, List.contains_cons, bits]
          congr 1

/-- VCMD on plain registers (R223). -/
theorem vcmd_runs {s : State} {md a : Reg} {m : MaskField} (plain : PlainVec s) (words : s.hart.fmt = 3) (whole : s.hart.vlv % 8 = 0)
    (fit : groupFits a.toNat s.hart.grp 0 = true) (mask : maskReg md = true) :
    exec (.vcmd md a m) s = .next (let p := judgeAll s a m (s, 0) (List.range (s.hart.vlv / 8))
      finishVec 0 (p.1.withHart (p.1.hart.setMask md.toNat (mergeMask (p.1.hart.mask md.toNat) p.2 p.1.hart.vlv)))) := by
  obtain ⟨-, legal, still, hu, -, -⟩ := id plain
  have unbound : Unbound s.hart := hu
  refine congrArg Host.Outcome.next ((checked_wellFormed (show wellFormed (.vcmd md a m) = true from mask) s _).trans ((held_still still _).trans ?_))
  dsimp only
  rw [unbound.vecCheck legal _ fit (by rw [words, whole]; rfl) (fun c => absurd c Bool.false_ne_true)]
  dsimp only
  rw [unbound.readySources]
  dsimp only
  rw [firstFault_none (f := chunksFault s []) fun e _ => rfl]
  rfl

/-- Settles O43: VCMD judges its records one after another, each as `submit_judges` says. -/
theorem commands : Obligations.Commands := by
  refine ⟨?_, submit_judges⟩
  intro s md a m plain words whole fit mask record judged
  obtain ⟨same, hart, -, bits⟩ := judgeAll_list s a m (s.hart.vlv / 8)
  obtain ⟨steady, -⟩ := id plain
  have listed : judged = judgeList s a m (s, []) (List.range (s.hart.vlv / 8)) := rfl
  rw [listed, ← same]
  refine ⟨mergeMask (s.hart.mask md.toNat) (judgeAll s a m (s, 0) (List.range (s.hart.vlv / 8))).2 s.hart.vlv, ?_, fun e => ?_⟩
  · rw [vcmd_runs plain words whole fit mask]
    dsimp only
    generalize (judgeAll s a m (s, 0) (List.range (s.hart.vlv / 8))).1 = t at hart ⊢
    have still : Steady t := by
      unfold Steady
      rw [hart]
      exact steady
    refine congrArg Host.Outcome.next ((finishVec_steady (fl := 0) (setMask_steady still _ _) BitVec.zero_and).trans ?_)
    rw [State.withHart_hart, Hart.setMask_pc, hart]
    unfold maskDone
    rw [hart]
    rfl
  · rw [testBit_mergeMask, bits]

end Sys2Proof.Machine

namespace Sys2Proof.Machine
/-! # Tiles (O44) -/

open Sys2Proof.Claim

/-! ## Matrix instructions at an engine at rest (R173, R176) -/

section
variable {s : State} {i : Instr} {c : State → MCheck} {k : State → State} {ready : State → Bool}

/-- At an engine at rest, a matrix instruction runs at once; it keeps its place only while it has not ended (R173). -/
theorem queued_plain (plain : PlainMatrix s) (free : ready s = true) (ended : (k s).hart.atEnd = true) : queued i ready s k = k s := by
  obtain ⟨-, -, -, -, together, empty, unposted, done⟩ := id plain
  have slot (n : Nat) (h : n < 4) : s.myBench.posting[n] = none := by
    simp only [unposted, Vector.getElem_replicate]
  unfold queued
  simp only [empty, slot, List.head?_nil, List.any_nil]
  rw [if_neg (by simp), if_neg (by simp), free, replaysDone, done, together]
  exact if_pos ended

theorem matrixStep_plain (plain : PlainMatrix s) (wf : wellFormed i = true) (free : ready s = true) {t : State}
    (run : (match matrixCheck i s (c s) with | some t => trapHere t s | none => k s) = t) (ended : t.hart.atEnd = true) : matrixStep i s c k ready = .next t := by
  obtain ⟨-, -, -, still, -⟩ := id plain
  refine congrArg Host.Outcome.next ((checked_wellFormed wf s _).trans ((held_still still _).trans ?_))
  subst run
  exact queued_plain plain free ended

/-- A matrix instruction whose checks pass has its effect. -/
theorem matrixStep_runs (plain : PlainMatrix s) (wf : wellFormed i = true) (free : ready s = true) (pass : matrixCheck i s (c s) = none) {t : State} (run : k s = t)
    (ended : t.hart.atEnd = true) : matrixStep i s c k ready = .next t :=
  matrixStep_plain plain wf free (by rw [pass]; exact run) ended

/-- A matrix instruction that fails a check traps (R176). -/
theorem matrixStep_traps (plain : PlainMatrix s) (wf : wellFormed i = true) (free : ready s = true) {cause : BitVec 8} {v : Word} (low : cause.toNat < 0x80)
    (fail : matrixCheck i s (c s) = some (trapOf cause v)) : matrixStep i s c k ready = .next (trappedHere cause v s) :=
  matrixStep_plain plain wf free (by rw [fail]; exact trapHere_plain low v s) rfl

end

/-- The checks of an instruction whose shape is legal and whose tiles its hart owns (R176). -/
theorem matrixCheck_owned {s : State} (legal : s.hart.vill = false) (i : Instr) {c : MCheck} (grant : c.grant = true) (format : c.format = true) (round : c.round = true)
    (own : ∀ j ∈ c.tiles, (s.myBench.tile j).owner = some s.hart.id) (kind : c.kind = true) : matrixCheck i s c = none := by
  unfold matrixCheck
  dsimp only
  rw [legal, grant, format, round, kind]
  rw [List.find?_eq_none.2 fun j hj => ?_]
  · rfl
  · rw [owns, own j hj]
    simp

/-- The first tile of a list that its hart does not own traps (R176). -/
theorem matrixCheck_foreign {s : State} (legal : s.hart.vill = false) (i : Instr) {c : MCheck} (grant : c.grant = true) (format : c.format = true) (round : c.round = true)
    {k : BitVec 2} (first : c.tiles.find? (fun t => !owns s t) = some k) : matrixCheck i s c = some (trapOf 0x0F (k.setWidth 64)) := by
  unfold matrixCheck
  dsimp only
  rw [legal, grant, format, round, first]
  rfl

theorem Bench.tile_setTile (b : Bench) (k j : BitVec 2) (t : Tile) : (b.setTile k t).tile j = if j = k then t else b.tile j := by
  unfold Bench.tile Bench.setTile
  dsimp only
  rw [Vector.getElem_set]
  refine if_congr ?_ rfl rfl
  rw [BitVec.toNat_inj, eq_comm]

theorem Bench.setTile_tile (b : Bench) (k : BitVec 2) : b.setTile k (b.tile k) = b := by
  unfold Bench.tile Bench.setTile
  rw [Vector.set_getElem_self]

/-- Two benches that agree beside their tiles, and tile by tile. -/
theorem Bench.ext_tile {b c : Bench} (rest : b = { c with tiles := b.tiles }) (tiles : ∀ j, b.tile j = c.tile j) : b = c := by
  rw [rest]
  have same : b.tiles = c.tiles := Vector.ext fun i hi => by
    have h := tiles (BitVec.ofNat 2 i)
    unfold Bench.tile at h
    simpa [Nat.mod_eq_of_lt hi] using h
  rw [same]

/-! ## The tiles a mask names (R178) -/

theorem mem_tilesOf {tm : BitVec 4} {j : BitVec 2} : j ∈ tilesOf tm ↔ tm.getLsbD j.toNat = true := by
  unfold tilesOf
  rw [List.mem_map]
  constructor
  · rintro ⟨i, hi, rfl⟩
    obtain ⟨inside, set⟩ := List.mem_filter.1 hi
    rw [BitVec.toNat_ofNat, Nat.mod_eq_of_lt (List.mem_range.1 inside)]
    exact set
  · exact fun set => ⟨j.toNat, List.mem_filter.2 ⟨List.mem_range.2 j.isLt, set⟩, by rw [BitVec.ofNat_toNat, BitVec.setWidth_eq]⟩

theorem tilesOf_nodup (tm : BitVec 4) : (tilesOf tm).Nodup := by
  refine List.Nodup.map_on (fun x hx y hy same => ?_) (List.nodup_range.filter _)
  have lx := List.mem_range.1 (List.mem_filter.1 hx).1
  have ly := List.mem_range.1 (List.mem_filter.1 hy).1
  have := congrArg BitVec.toNat same
  rwa [BitVec.toNat_ofNat, BitVec.toNat_ofNat, Nat.mod_eq_of_lt lx, Nat.mod_eq_of_lt ly] at this

/-- Tiles changed one after another, each once. -/
theorem foldl_setTile (u : Tile → Tile) (l : List (BitVec 2)) (once : l.Nodup) (b : Bench) :
    l.foldl (fun b t => b.setTile t (u (b.tile t))) b = { b with tiles := (l.foldl (fun b t => b.setTile t (u (b.tile t))) b).tiles }
      ∧ ∀ j, (l.foldl (fun b t => b.setTile t (u (b.tile t))) b).tile j = if j ∈ l then u (b.tile j) else b.tile j := by
  induction l generalizing b with
  | nil => exact ⟨rfl, fun j => (if_neg List.not_mem_nil).symm⟩
  | cons t l ih =>
    obtain ⟨fresh, once⟩ := List.nodup_cons.1 once
    obtain ⟨rest, tiles⟩ := ih once (b.setTile t (u (b.tile t)))
    refine ⟨rest, fun j => (tiles j).trans ?_⟩
    rw [Bench.tile_setTile]
    by_cases same : j = t
    · subst same
      rw [if_neg fresh, if_pos rfl, if_pos List.mem_cons_self]
    · rw [if_neg same]
      exact if_congr (by rw [List.mem_cons, or_iff_right same]) rfl rfl

/-- The tiles that a mask names, changed together. -/
def changeTiles (b : Bench) (tm : BitVec 4) (u : Tile → Tile) : Bench :=
  { b with tiles := Vector.ofFn (fun (j : Fin 4) => if tm.getLsbD j then u b.tiles[j] else b.tiles[j]) }

theorem foldl_tilesOf (u : Tile → Tile) (tm : BitVec 4) (b : Bench) : (tilesOf tm).foldl (fun b t => b.setTile t (u (b.tile t))) b = changeTiles b tm u := by
  obtain ⟨rest, tiles⟩ := foldl_setTile u (tilesOf tm) (tilesOf_nodup tm) b
  refine Bench.ext_tile rest fun j => (tiles j).trans ?_
  unfold changeTiles Bench.tile
  dsimp only
  rw [Vector.getElem_ofFn]
  exact if_congr mem_tilesOf rfl rfl

/-- The first tile of a mask that its hart does not own. -/
theorem tilesOf_foreign {s : State} {tm : BitVec 4} {k : BitVec 2} (named : tm.getLsbD k.toNat = true) (foreign : (s.myBench.tile k).owner ≠ some s.hart.id)
    (before : ∀ j, j < k → tm.getLsbD j.toNat = true → (s.myBench.tile j).owner = some s.hart.id) : (tilesOf tm).find? (fun t => !owns s t) = some k := by
  have first : (List.range 4).find? (fun i => tm.getLsbD i && !owns s (BitVec.ofNat 2 i)) = some k.toNat := by
    rw [List.find?_range_eq_some]
    refine ⟨?_, List.mem_range.2 k.isLt, fun j hj => ?_⟩
    · rw [named, BitVec.ofNat_toNat, BitVec.setWidth_eq, owns]
      simpa using foreign
    · have small : j < 4 := Nat.lt_trans hj k.isLt
      have toNat : (BitVec.ofNat 2 j).toNat = j := Nat.mod_eq_of_lt small
      cases set : tm.getLsbD j with
      | false => rfl
      | true =>
        have own := before (BitVec.ofNat 2 j) (by rw [BitVec.lt_def, toNat]; exact hj) (by rw [toNat]; exact set)
        rw [owns, own]
        simp
  unfold tilesOf
  rw [List.find?_map, List.find?_filter]
  have same : (fun i => decide (tm.getLsbD i = true ∧ ((fun t => !owns s t) ∘ BitVec.ofNat 2) i = true)) = fun i => tm.getLsbD i && !owns s (BitVec.ofNat 2 i) := by
    funext i
    rw [Bool.decide_and, Bool.decide_coe, Bool.decide_coe]
    rfl
  rw [same, first, Option.map_some, BitVec.ofNat_toNat, BitVec.setWidth_eq]

open Sys2Proof.Claim

/-! ## What MCHK reads (R200) -/

/-- Setting a bit that is clear adds it. -/
theorem setBit_clear {w : Word} {n : Nat} (clear : w.getLsbD n = false) (b : Bool) : setBit w n b = w + BitVec.ofNat 64 (if b then 2 ^ n else 0) := by
  unfold setBit
  rw [← BitVec.twoPow_eq]
  cases b with
  | false =>
    rw [if_neg Bool.false_ne_true, if_neg Bool.false_ne_true]
    refine Eq.trans (BitVec.eq_of_getLsbD_eq fun i hi => ?_) (BitVec.add_zero w).symm
    rw [BitVec.getLsbD_and, BitVec.getLsbD_not, BitVec.getLsbD_twoPow]
    by_cases same : n = i
    · subst same
      rw [clear, Bool.false_and]
    · simp [hi, same]
  | true =>
    rw [if_pos rfl, if_pos rfl, show BitVec.ofNat 64 (2 ^ n) = BitVec.twoPow 64 n from BitVec.eq_of_toNat_eq (by rw [BitVec.toNat_ofNat, BitVec.toNat_twoPow])]
    exact (BitVec.add_eq_or_of_and_eq_zero _ _ (by rw [BitVec.and_twoPow, clear]; rfl)).symm

theorem getLsbD_setBit_ne {w : Word} {n i : Nat} (b : Bool) (ne : n ≠ i) : (setBit w n b).getLsbD i = w.getLsbD i := by
  unfold setBit
  rw [← BitVec.twoPow_eq]
  split
  · rw [BitVec.getLsbD_or, BitVec.getLsbD_twoPow, decide_eq_false ne, Bool.and_false, Bool.or_false]
  · by_cases hi : i < 64
    · rw [BitVec.getLsbD_and, BitVec.getLsbD_not, BitVec.getLsbD_twoPow, decide_eq_false ne, Bool.and_false, decide_eq_true hi]
      exact Bool.and_true _
    · rw [BitVec.getLsbD_of_ge _ _ (Nat.le_of_not_lt hi), BitVec.getLsbD_of_ge _ _ (Nat.le_of_not_lt hi)]

/-- The status word, as a sum of its fields (R200). -/
theorem status_eq (t : Tile) : t.status =
    BitVec.ofNat 64 ((if t.mis then 1 else 0) + (if t.ten then 2 else 0) + (if t.skip then 4 else 0) + (if t.pend then 8 else 0) + (if t.int32 then 16 else 0) + t.cnt.toNat * 65536) := by
  have low (i : Nat) (hi : i < 16) : (t.cnt.zeroExtend 64 <<< 16).getLsbD i = false := by
    rw [BitVec.getLsbD_shiftLeft, decide_eq_true hi]
    simp
  unfold Tile.status
  rw [setBit_clear (n := 4) (by rw [getLsbD_setBit_ne _ (by decide), getLsbD_setBit_ne _ (by decide), getLsbD_setBit_ne _ (by decide), getLsbD_setBit_ne _ (by decide), low 4 (by decide)]),
    setBit_clear (n := 3) (by rw [getLsbD_setBit_ne _ (by decide), getLsbD_setBit_ne _ (by decide), getLsbD_setBit_ne _ (by decide), low 3 (by decide)]),
    setBit_clear (n := 2) (by rw [getLsbD_setBit_ne _ (by decide), getLsbD_setBit_ne _ (by decide), low 2 (by decide)]),
    setBit_clear (n := 1) (by rw [getLsbD_setBit_ne _ (by decide), low 1 (by decide)]), setBit_clear (n := 0) (low 0 (by decide))]
  have count : t.cnt.zeroExtend 64 <<< 16 = BitVec.ofNat 64 (t.cnt.toNat * 65536) := by
    refine BitVec.eq_of_toNat_eq ?_
    have := t.cnt.isLt
    rw [BitVec.toNat_shiftLeft, BitVec.toNat_ofNat, BitVec.toNat_setWidth, Nat.mod_eq_of_lt (a := t.cnt.toNat) (by omega), Nat.shiftLeft_eq]
  rw [count, ← BitVec.ofNat_add, ← BitVec.ofNat_add, ← BitVec.ofNat_add, ← BitVec.ofNat_add, ← BitVec.ofNat_add]
  congr 1
  simp only [Nat.reducePow]
  omega

/-! ## The tile instructions (R177, R178, R200, R201) -/

/-- A ready hart whose instruction completes has ended it. -/
theorem retired_ended {q : State} (ready : q.hart.run = .ready) (npc : Word) (fl : BitVec 7) : (retired npc fl q).hart.atEnd = true := by
  unfold Hart.atEnd
  show ((match q.hart.run with | .asleep _ => false | _ => true) && !false) = true
  rw [ready]
  rfl

theorem wrote_ended {q : State} (ready : q.hart.run = .ready) (len : Nat) (d : Reg) (v : Word) : (wrote len d v q).hart.atEnd = true :=
  retired_ended (by rw [State.setX_hart, Hart.setX_run]; exact ready) _ _

/-- The lowest tile that a condition holds of. -/
theorem find?_tiles {p : BitVec 2 → Bool} {k : BitVec 2} (yes : p k = true) (before : ∀ j, j < k → p j = false) : ((List.range 4).map (BitVec.ofNat 2)).find? p = some k := by
  have first : (List.range 4).find? (p ∘ BitVec.ofNat 2) = some k.toNat := by
    rw [List.find?_range_eq_some]
    refine ⟨?_, List.mem_range.2 k.isLt, fun j hj => ?_⟩
    · rw [Function.comp_apply, BitVec.ofNat_toNat, BitVec.setWidth_eq]
      exact yes
    · have toNat : (BitVec.ofNat 2 j).toNat = j := Nat.mod_eq_of_lt (Nat.lt_trans hj k.isLt)
      rw [Function.comp_apply, before _ (by rw [BitVec.lt_def, toNat]; exact hj)]
      rfl
  rw [List.find?_map, first, Option.map_some, BitVec.ofNat_toNat, BitVec.setWidth_eq]

/-- Settles O44: each instruction's checks pass or fail as `matrixCheck` says, and it changes its bench's tiles or reads one. -/
theorem tileInstructions : Obligations.TileInstructions := by
  intro s d a k tm i plain b hold all
  obtain ⟨steady, ready, legal, -⟩ := id plain
  have pass (i : Instr) {l : List (BitVec 2)} (own : ∀ j ∈ l, (b.tile j).owner = some s.hart.id) : matrixCheck i s { tiles := l } = none :=
    matrixCheck_owned legal i rfl rfl rfl own rfl
  have fails (i : Instr) {l : List (BitVec 2)} (first : l.find? (fun t => !owns s t) = some k) : matrixCheck i s { tiles := l } = some (trapOf 0x0F (k.setWidth 64)) :=
    matrixCheck_foreign legal i rfl rfl rfl first
  have alone (other : (b.tile k).owner ≠ some s.hart.id) : [k].find? (fun t => !owns s t) = some k :=
    List.find?_cons_of_pos (by rw [owns]; simpa using other)
  have mask (named : tm.getLsbD k.toNat = true) : tm ≠ 0 := fun zero => absurd named (by rw [zero]; simp)
  have formed (some : tm ≠ 0) : wellFormed (.mrel tm) = true ∧ wellFormed (.mzero tm i) = true := ⟨bne_iff_ne.2 some, bne_iff_ne.2 some⟩
  have wrotes {i : Instr} {c : State → MCheck} {k : State → State} {v : Word} {q : State} (wf : wellFormed i = true) (check : matrixCheck i s (c s) = none)
      (same : Steady q) (run : q.hart.run = .ready) (effect : k s = finish 8 (q.setX d v)) : matrixStep i s c k = .next (wrote 8 d v q) :=
    matrixStep_runs plain wf rfl check (effect.trans (writeInt_steady same 8 d v)) (wrote_ended run 8 d v)
  refine ⟨?acquire, fun full => ?none, fun free before => ?any, fun some own => ⟨?release, ?clear⟩,
    fun named foreign before => ⟨?noRelease, ?noClear⟩, fun foreign => ⟨?noRead, ?noCheck⟩, ?owned⟩
  case acquire =>
    cases owner : (b.tile k).owner with
    | none =>
      refine wrotes rfl (pass _ (fun j hj => absurd hj List.not_mem_nil)) (q := hold k) steady ready ?_
      show (match (b.tile k).owner with | some o => _ | none => _) = _
      rw [owner]
    | some o =>
      refine wrotes rfl (pass _ (fun j hj => absurd hj List.not_mem_nil)) (q := s) steady ready ?_
      show (match (b.tile k).owner with | some o => _ | none => _) = _
      rw [owner]
      refine congrArg (fun v => finish 8 (s.setX d v)) (if_congr beq_iff_eq rfl rfl)
  case none =>
    have pick : ((List.range 4).map (BitVec.ofNat 2)).find? (fun k => (b.tile k).owner.isNone) = none :=
      List.find?_eq_none.2 fun j _ => by simpa using full j
    refine wrotes rfl (pass _ (fun j hj => absurd hj List.not_mem_nil)) (q := s) steady ready ?_
    show (match ((List.range 4).map (BitVec.ofNat 2)).find? (fun k => (b.tile k).owner.isNone) with | none => _ | some k => _) = _
    rw [pick]
    rfl
  case any =>
    have pick : ((List.range 4).map (BitVec.ofNat 2)).find? (fun k => (b.tile k).owner.isNone) = some k := find?_tiles (by rw [free]; rfl) fun j hj => by simpa [Option.isSome_iff_ne_none] using before j hj
    refine wrotes rfl (pass _ (fun j hj => absurd hj List.not_mem_nil)) (q := hold k) steady ready ?_
    show (match ((List.range 4).map (BitVec.ofNat 2)).find? (fun k => (b.tile k).owner.isNone) with | none => _ | some k => _) = _
    rw [pick]
    show (match (b.tile k).owner with | some o => _ | none => _) = _
    rw [free]
  case release =>
    refine matrixStep_runs plain (formed some).1 rfl (pass _ fun j hj => own j (mem_tilesOf.1 hj)) (t := passed 8 (s.setMyBench _)) ?_ (retired_ended ready _ _)
    exact (finish_steady (s := s.setMyBench _) steady 8).trans (congrArg (fun c => passed 8 (s.setMyBench c)) (foldl_tilesOf (fun t => { t with owner := none }) tm b))
  case clear =>
    refine matrixStep_runs plain (formed some).2 rfl (pass _ fun j hj => own j (mem_tilesOf.1 hj)) (t := passed 8 (s.setMyBench _)) ?_ (retired_ended ready _ _)
    exact (finish_steady (s := s.setMyBench _) steady 8).trans (congrArg (fun c => passed 8 (s.setMyBench c)) (foldl_tilesOf (fun t => t.clear i) tm b))
  case noRelease => exact matrixStep_traps plain (formed (mask named)).1 rfl (by decide) (fails _ (tilesOf_foreign named foreign before))
  case noClear => exact matrixStep_traps plain (formed (mask named)).2 rfl (by decide) (fails _ (tilesOf_foreign named foreign before))
  case noRead => exact matrixStep_traps plain rfl rfl (by decide) (fails _ (alone foreign))
  case noCheck => exact matrixStep_traps plain rfl rfl (by decide) (fails _ (alone foreign))
  case owned =>
    intro own t r c status
    have pass' (i : Instr) : matrixCheck i s { tiles := [k] } = none := pass i fun j hj => List.mem_singleton.1 hj ▸ own
    have word : t.status = status := status_eq t
    refine ⟨?_, ?_, ?_, ?_⟩
    · exact wrotes rfl (pass' _) steady ready rfl
    · refine wrotes rfl (pass' _) (q := s.setMyBench b) steady ready ?_
      show finish 8 ((s.setMyBench (b.setTile k (b.tile k))).setX d t.status) = _
      rw [Bench.setTile_tile, word]
    · refine wrotes rfl (pass' _) (q := s.setMyBench (b.setTile k { t with mis := false, skip := false, cnt := 0 })) steady ready ?_
      rw [← word]
      rfl
    · refine wrotes rfl (pass' _) (q := s.setMyBench (b.setTile k { t with ten := (s.getX a).getLsbD 0 })) steady ready ?_
      rw [← word]
      rfl

end Sys2Proof.Machine

namespace Sys2Proof.Machine
/-! The groups of MACC and MACCS, and what they accumulate (R64 to R66, R179 to R190). -/

open Sys2Proof.Claim

/-! ## One group of a MACC (R64 to R66, R184, R186) -/

/-- The cells of a grid, row by row. -/
theorem flatten_grid {α : Type} (F : Nat → Nat → α) (m n : Nat) :
    ((List.range m).map (fun i => (List.range n).map (F i))).flatten = (List.range (m * n)).map (fun k => F (k / n) (k % n)) := by
  induction m with
  | zero => simp
  | succ m ih =>
    rw [List.range_succ, List.map_append, List.flatten_append, ih, Nat.succ_mul, List.range_add, List.map_append, List.map_cons, List.map_nil, List.flatten_cons, List.flatten_nil,
      List.append_nil, List.map_map]
    refine congrArg _ (List.map_congr_left fun j hj => ?_)
    have lt := List.mem_range.1 hj
    have pos : 0 < n := Nat.zero_lt_of_lt lt
    rw [Function.comp_apply, Nat.mul_comm m n, Nat.mul_add_div pos, Nat.mul_add_mod, Nat.div_eq_of_lt lt, Nat.mod_eq_of_lt lt]
    rfl

/-- One accumulator after one group, under a group of one product after the two slots of a dense group (R64, R186). -/
def macCell (p : MacPlan) (r c k0 acc : Nat) : Cell :=
  let ts := (macTerms p r c k0).1
  let add (acc : Nat) (l : List (MElem × MElem)) : Cell := macAdd p acc l (p.scaleA r k0) (p.scaleB c k0) (macTerms p r c k0).2
  if p.rounds = 2 then (add acc (ts.take 1)).join (add (add acc (ts.take 1)).acc (ts.drop 1)) else add acc ts

theorem macRow_eq (p : MacPlan) (t : Tile) (k0 i : Nat) : macRow p t k0 i = (List.range 256).map (fun j => macCell p i j k0 (accOf t i j)) := rfl

theorem macAdd_lt (p : MacPlan) (old : Nat) (ts : List (MElem × MElem)) (sA sB : Val × Bool) (mb : Bool) : (macAdd p old ts sA sB mb).acc < 2 ^ 32 := by
  unfold macAdd
  dsimp only
  split
  · exact wrapInt_lt _
  · exact roundVal_lt (f := 0x05) (by decide) _ _ _ _

theorem macCell_lt (p : MacPlan) (r c k0 acc : Nat) : (macCell p r c k0 acc).acc < 2 ^ 32 := by
  unfold macCell
  dsimp only
  split
  · exact macAdd_lt _ _ _ _ _ _
  · exact macAdd_lt _ _ _ _ _ _

/-- A plan none of whose operands carries a mark. -/
def Unmarked (p : MacPlan) : Prop := ∀ r c k0 acc, (macCell p r c k0 acc).bad = false

/-- The cells of a group, in the order of their accumulators. -/
def groupCells (p : MacPlan) (t : Tile) (k0 : Nat) : List Cell := (List.range 65536).map (fun n => macCell p (n / 256) (n % 256) k0 (accOf t (n / 256) (n % 256)))

theorem groupCells_eq (p : MacPlan) (t : Tile) (k0 : Nat) : ((List.range Config.mtlen).map (macRow p t k0)).flatten = groupCells p t k0 :=
  flatten_grid (fun i j => macCell p i j k0 (accOf t i j)) 256 256

theorem groupCells_sound {p : MacPlan} (um : Unmarked p) (t : Tile) (k0 : Nat) : ∀ c ∈ groupCells p t k0, c.bad = false := by
  intro c hc
  obtain ⟨n, -, rfl⟩ := List.mem_map.1 hc
  exact um _ _ _ _

/-- One group on a tile, without a mark. -/
theorem macGroup_plain {p : MacPlan} (um : Unmarked p) (t : Tile) (k0 : Nat) :
    SameTile (macGroup p t k0).1 t ∧ (∀ r c, r < 256 → c < 256 → accOf (macGroup p t k0).1 r c = (macCell p r c k0 (accOf t r c)).acc)
      ∧ (macGroup p t k0).2.1 = flagsOf (List.range 65536) (fun n => (macCell p (n / 256) (n % 256) k0 (accOf t (n / 256) (n % 256))).flags)
      ∧ (macGroup p t k0).2.2 = false := by
  have sound := groupCells_sound um t k0
  unfold macGroup
  dsimp only
  rw [groupCells_eq]
  refine ⟨⟨rfl, rfl, ?_, rfl, rfl, rfl, rfl, rfl⟩, fun r c hr hc => ?_, List.foldl_map, ?_⟩
  · rw [List.filter_eq_nil_iff.2 fun q hq => ?_]
    · rfl
    · rw [sound q.1 (List.fst_mem_of_mem_zipIdx hq)]
      exact Bool.false_ne_true
  · have inside : r * 256 + c < 65536 := by omega
    show slot 32 (r * 256 + c) (pack 32 65536 _) = _
    rw [slot_pack, if_pos inside, List.getElem?_toArray, groupCells, List.getElem?_map, List.getElem?_range inside, Option.map_some, Option.map_some, Option.getD_some,
      lowBits, Nat.mod_eq_of_lt (macCell_lt _ _ _ _ _)]
    have row : (r * 256 + c) / 256 = r := by omega
    have col : (r * 256 + c) % 256 = c := by omega
    rw [row, col]
  · exact List.any_eq_false.2 fun c hc => by rw [sound c hc]; exact Bool.false_ne_true

/-! ## The groups of a MACC, one after another (R184) -/

/-- What an accumulator and its flags come to over some groups (R184). -/
def cellFold (p : MacPlan) (r c : Nat) (l : List Nat) (x : Nat × BitVec 7) : Nat × BitVec 7 :=
  l.foldl (fun x k0 => ((macCell p r c k0 x.1).acc, x.2 ||| (macCell p r c k0 x.1).flags)) x

theorem cellFold_flags (p : MacPlan) (r c : Nat) (l : List Nat) (acc : Nat) (fl : BitVec 7) :
    cellFold p r c l (acc, fl) = ((cellFold p r c l (acc, 0)).1, fl ||| (cellFold p r c l (acc, 0)).2) := by
  induction l generalizing acc fl with
  | nil => exact congrArg (Prod.mk acc) BitVec.or_zero.symm
  | cons k l ih =>
    have step (fl : BitVec 7) : cellFold p r c (k :: l) (acc, fl) = cellFold p r c l ((macCell p r c k acc).acc, fl ||| (macCell p r c k acc).flags) := rfl
    rw [step, step, ih, ih _ (0 ||| _), BitVec.or_assoc]
    exact congrArg (fun f => (_, fl ||| (f ||| _))) BitVec.zero_or.symm

theorem cellFold_cons (p : MacPlan) (r c k acc : Nat) (l : List Nat) :
    cellFold p r c (k :: l) (acc, 0) = ((cellFold p r c l ((macCell p r c k acc).acc, 0)).1, (macCell p r c k acc).flags ||| (cellFold p r c l ((macCell p r c k acc).acc, 0)).2) := by
  refine (cellFold_flags p r c l _ _).trans ?_
  exact congrArg (fun f => (_, f ||| _)) BitVec.zero_or

theorem flagsOf_or (l : List Nat) (f g : Nat → BitVec 7) : flagsOf l (fun e => f e ||| g e) = flagsOf l f ||| flagsOf l g := by
  have grow (l : List Nat) (a b : BitVec 7) : l.foldl (fun x e => x ||| (f e ||| g e)) (a ||| b) = l.foldl (fun x e => x ||| f e) a ||| l.foldl (fun x e => x ||| g e) b := by
    induction l generalizing a b with
    | nil => rfl
    | cons e l ih =>
      rw [List.foldl_cons, List.foldl_cons, List.foldl_cons, ← ih]
      congr 1
      ac_rfl
  exact (congrArg (fun z => l.foldl (fun x e => x ||| (f e ||| g e)) z) (BitVec.or_zero (x := (0 : BitVec 7))).symm).trans (grow l 0 0)

theorem groupStarts_done {kk K step : Nat} (done : K ≤ kk) : groupStarts kk K step = [] := by
  unfold groupStarts
  rw [List.filter_eq_nil_iff]
  intro x hx both
  have := List.mem_range.1 hx
  have := of_decide_eq_true ((Bool.and_eq_true _ _).mp both).1
  omega

theorem filter_range_from {K : Nat} {q : Nat → Bool} (kk : Nat) (inside : kk < K) (here : q kk = true) :
    (List.range K).filter (fun x => decide (kk ≤ x) && q x) = kk :: (List.range K).filter (fun x => decide (kk + 1 ≤ x) && q x) := by
  obtain ⟨n, rfl⟩ : ∃ n, K = kk + 1 + n := ⟨K - (kk + 1), by omega⟩
  rw [List.range_add, List.range_succ, List.filter_append, List.filter_append, List.filter_append, List.filter_append]
  have below (j : Nat) (hj : kk ≤ j) : (List.range kk).filter (fun x => decide (j ≤ x) && q x) = [] := by
    rw [List.filter_eq_nil_iff]
    intro x hx both
    have := List.mem_range.1 hx
    have := of_decide_eq_true ((Bool.and_eq_true _ _).mp both).1
    omega
  rw [below kk (Nat.le_refl _), below (kk + 1) (Nat.le_succ _), List.filter_cons, List.filter_cons, List.filter_nil, here, decide_eq_true (Nat.le_refl kk),
    decide_eq_false (Nat.not_succ_le_self kk)]
  refine congrArg (List.cons kk) (List.filter_congr fun x hx => ?_)
  obtain ⟨y, -, rfl⟩ := List.mem_map.1 hx
  rw [decide_eq_true (show kk ≤ kk + 1 + y by omega), decide_eq_true (show kk + 1 ≤ kk + 1 + y by omega)]

/-- The next group starts a step further on (R184). -/
theorem groupStarts_cons {kk K step : Nat} (some : 0 < step) (inside : kk < K) (aligned : kk % step = 0) : groupStarts kk K step = kk :: groupStarts (kk + step) K step := by
  unfold groupStarts
  rw [filter_range_from (q := fun x => x % step == 0) kk inside (beq_iff_eq.2 aligned)]
  refine congrArg (List.cons kk) (List.filter_congr fun x _ => ?_)
  by_cases at' : x % step = 0
  · refine congrArg (· && _) (decide_eq_decide.2 ⟨fun h => ?_, fun h => by omega⟩)
    obtain ⟨a, rfl⟩ := Nat.dvd_of_mod_eq_zero aligned
    obtain ⟨b, rfl⟩ := Nat.dvd_of_mod_eq_zero at'
    have : a < b := Nat.lt_of_mul_lt_mul_left (Nat.lt_of_succ_le h)
    calc step * a + step = step * (a + 1) := (Nat.mul_succ step a).symm
      _ ≤ step * b := Nat.mul_le_mul_left _ this
  · rw [beq_false_of_ne at', Bool.and_false, Bool.and_false]

theorem SameTile.trans {t u v : Tile} (h : SameTile t u) (k : SameTile u v) : SameTile t v := by
  obtain ⟨h1, h2, h3, h4, h5, h6, h7, h8⟩ := h
  obtain ⟨k1, k2, k3, k4, k5, k6, k7, k8⟩ := k
  exact ⟨h1.trans k1, h2.trans k2, h3.trans k3, h4.trans k4, h5.trans k5, h6.trans k6, h7.trans k7, h8.trans k8⟩

/-- One step of the loop, where no fetch fails and nothing is marked. -/
theorem macLoop_step {s : State} {p : MacPlan} {m : MacArgs} {n kk : Nat} {t u : Tile} {fl f : BitVec 7} (inside : ¬ kk ≥ m.k)
    (group : macGroup p t (m.kofs + kk) = (u, f, false)) :
    macLoop s p [] m (n + 1) { tile := t, flags := fl, kk := kk, stop := none } = macLoop s p [] m n { tile := u, flags := fl ||| f, kk := kk + m.stride p.g, stop := none } := by
  rw [macLoop, if_neg inside, show macFetchFault s [] m (m.stride p.g) kk = none from rfl]
  dsimp only
  rw [group]
  exact congrArg (fun f => macLoop s p [] m n { tile := u, flags := f, kk := kk + m.stride p.g, stop := none }) BitVec.or_zero

/-- Every group of a MACC on plain operands, from a position on (R184). -/
theorem macLoop_plain {s : State} {p : MacPlan} {m : MacArgs} (um : Unmarked p) (some : 0 < m.stride p.g) (whole : m.k % m.stride p.g = 0) :
    ∀ (n : Nat) (t : Tile) (fl : BitVec 7) (kk : Nat), m.k ≤ kk + n → kk ≤ m.k → kk % m.stride p.g = 0 →
      let r := macLoop s p [] m n { tile := t, flags := fl, kk := kk, stop := none }
      r.kk = m.k ∧ r.stop = none ∧ SameTile r.tile t
        ∧ (∀ i j, i < 256 → j < 256 → accOf r.tile i j = (cellFold p i j ((groupStarts kk m.k (m.stride p.g)).map (m.kofs + ·)) (accOf t i j, 0)).1)
        ∧ r.flags = fl ||| flagsOf (List.range 65536) (fun n => (cellFold p (n / 256) (n % 256) ((groupStarts kk m.k (m.stride p.g)).map (m.kofs + ·)) (accOf t (n / 256) (n % 256), 0)).2) := by
  have finished (t : Tile) (fl : BitVec 7) : m.k = m.k ∧ (none : Option TrapReq) = none ∧ SameTile t t
        ∧ (∀ i j, i < 256 → j < 256 → accOf t i j = (cellFold p i j ((groupStarts m.k m.k (m.stride p.g)).map (m.kofs + ·)) (accOf t i j, 0)).1)
        ∧ fl = fl ||| flagsOf (List.range 65536) (fun n => (cellFold p (n / 256) (n % 256) ((groupStarts m.k m.k (m.stride p.g)).map (m.kofs + ·)) (accOf t (n / 256) (n % 256), 0)).2) := by
    rw [groupStarts_done (Nat.le_refl _)]
    refine ⟨rfl, rfl, ⟨rfl, rfl, rfl, rfl, rfl, rfl, rfl, rfl⟩, fun i j _ _ => rfl, ?_⟩
    exact BitVec.or_zero.symm.trans (congrArg (fl ||| ·) (flagsOf_zero _).symm)
  intro n
  induction n with
  | zero =>
    intro t fl kk lo hi _
    obtain rfl : kk = m.k := Nat.le_antisymm hi lo
    exact finished t fl
  | succ n ih =>
    intro t fl kk lo hi aligned
    by_cases done : kk ≥ m.k
    · obtain rfl : kk = m.k := Nat.le_antisymm hi done
      rw [macLoop, if_pos (Nat.le_refl _)]
      exact finished t fl
    · have inside : kk < m.k := Nat.lt_of_not_le done
      have room : kk + m.stride p.g ≤ m.k := by
        generalize m.stride p.g = w at *
        generalize m.k = K at *
        obtain ⟨x, rfl⟩ := Nat.dvd_of_mod_eq_zero aligned
        obtain ⟨y, rfl⟩ := Nat.dvd_of_mod_eq_zero whole
        have : x < y := Nat.lt_of_mul_lt_mul_left inside
        calc w * x + w = w * (x + 1) := (Nat.mul_succ w x).symm
          _ ≤ w * y := Nat.mul_le_mul_left _ this
      obtain ⟨same, accs, flags, sound⟩ := macGroup_plain um t (m.kofs + kk)
      generalize group : macGroup p t (m.kofs + kk) = q at same accs flags sound
      obtain ⟨u, f, bad⟩ := q
      obtain rfl : bad = false := sound
      obtain ⟨reached, stopped, kept, results, union⟩ := ih u (fl ||| f) (kk + m.stride p.g) (by omega) room (by rw [Nat.add_mod_right]; exact aligned)
      rw [macLoop_step done group, groupStarts_cons some inside aligned, List.map_cons]
      refine ⟨reached, stopped, SameTile.trans kept same, fun i j hi hj => ?_, ?_⟩
      · rw [results i j hi hj, accs i j hi hj, cellFold_cons]
      · rw [union, show f = _ from flags, BitVec.or_assoc, ← flagsOf_or]
        refine congrArg (fl ||| ·) (flagsOf_congr fun e he => ?_)
        have lt := List.mem_range.1 he
        rw [cellFold_cons, accs (e / 256) (e % 256) (by omega) (Nat.mod_lt _ (by decide))]

open Sys2Proof.Claim

/-! ## Operands without marks (R185) -/

/-- No operand of a plan carries a mark. -/
structure PlainPlan (p : MacPlan) : Prop where
  a : ∀ i k, (p.a i k).bad = false
  b : ∀ k j, (p.b k j).bad = false
  scaleA : ∀ i k, (p.scaleA i k).2 = false
  scaleB : ∀ j k, (p.scaleB j k).2 = false
  code : ∀ f, p.code = some f → ∀ i q, (f i q).2 = false

theorem macTerms_plain {p : MacPlan} (pp : PlainPlan p) (i j k0 : Nat) :
    (∀ q ∈ (macTerms p i j k0).1, q.1.bad = false ∧ q.2.bad = false) ∧ (macTerms p i j k0).2 = false := by
  unfold macTerms
  split
  · refine ⟨fun q hq => ?_, rfl⟩
    obtain ⟨d, -, rfl⟩ := List.mem_map.1 hq
    exact ⟨pp.a _ _, pp.b _ _⟩
  · next f code =>
    refine ⟨fun q hq => ?_, List.any_eq_false.2 fun d _ => by rw [pp.code f code]; exact Bool.false_ne_true⟩
    obtain ⟨d, -, hq⟩ := List.mem_flatMap.1 hq
    simp only [List.mem_cons, List.not_mem_nil, or_false] at hq
    rcases hq with rfl | rfl
    · exact ⟨pp.a _ _, pp.b _ _⟩
    · exact ⟨pp.a _ _, pp.b _ _⟩

theorem macAdd_sound {p : MacPlan} {old : Nat} {ts : List (MElem × MElem)} {sA sB : Val × Bool} {mb : Bool} (terms : ∀ q ∈ ts, q.1.bad = false ∧ q.2.bad = false)
    (hA : sA.2 = false) (hB : sB.2 = false) (hm : mb = false) : (macAdd p old ts sA sB mb).bad = false := by
  have none : ts.any (fun q => (q.1.there && q.1.bad) || (q.2.there && q.2.bad)) = false :=
    List.any_eq_false.2 fun q hq => by rw [(terms q hq).1, (terms q hq).2]; simp
  unfold macAdd
  dsimp only
  rw [none, hA, hB, hm]
  split <;> rfl

theorem PlainPlan.unmarked {p : MacPlan} (pp : PlainPlan p) : Unmarked p := by
  intro r c k0 acc
  obtain ⟨terms, metas⟩ := macTerms_plain pp r c k0
  have sound (acc : Nat) {l : List (MElem × MElem)} (part : ∀ q ∈ l, q ∈ (macTerms p r c k0).1) :
      (macAdd p acc l (p.scaleA r k0) (p.scaleB c k0) (macTerms p r c k0).2).bad = false :=
    macAdd_sound (fun q hq => terms q (part q hq)) (pp.scaleA _ _) (pp.scaleB _ _) metas
  unfold macCell
  dsimp only
  split
  · rw [Cell.join, sound _ fun _ => List.mem_of_mem_take, sound _ fun _ => List.mem_of_mem_drop]
    rfl
  · exact sound _ fun _ => id

/-- A canopy without marks. -/
theorem canopyBits_plain {b : Bench} (poison : b.canopyPoison = []) (upsets : b.canopyUpsets = []) (j base bit cnt : Nat) : (canopyBits b j base bit cnt).2 = false := by
  unfold canopyBits
  dsimp only
  rw [poison, upsets]
  simp

theorem groupElemM_plain {h : Hart} (hc : Clean h) (r n f e : Nat) : (groupElemM h r n f e).bad = false := by
  unfold groupElemM
  dsimp only
  split
  · exact hc.elemBad _ _ _ _
  · rfl

theorem scaleOfA_plain {h : Hart} (hc : Clean h) (va na f i col : Nat) : (scaleOfA h va na f i col).2 = false := by
  unfold scaleOfA
  dsimp only
  split
  · rfl
  · split
    · exact groupElemM_plain hc _ _ _ _
    · rfl

theorem scaleOfB_plain {b : Bench} (poison : b.canopyPoison = []) (upsets : b.canopyUpsets = []) (f : Nat) (xc : Word) (j k : Nat) : (scaleOfB b f xc j k).2 = false := by
  unfold scaleOfB
  dsimp only
  split
  · rfl
  · split
    · dsimp only
      rw [canopyBits_plain poison upsets, canopyBits_plain poison upsets]
      rfl
    · exact canopyBits_plain poison upsets _ _ _ _

theorem macPlan_plain {s : State} (hc : Clean s.hart) (poison : s.myBench.canopyPoison = []) (upsets : s.myBench.canopyUpsets = []) (m : MacArgs) (gl : Nat) (int32 : Bool) :
    PlainPlan (macPlan s s.hart m gl int32) where
  a i k := groupElemM_plain hc _ _ _ _
  b k j := by
    unfold macPlan
    dsimp only
    split
    · exact groupElemM_plain hc _ _ _ _
    · exact canopyBits_plain poison upsets _ _ _ _
  scaleA i k := scaleOfA_plain hc _ _ _ _ _
  scaleB j k := scaleOfB_plain poison upsets _ _ _ _
  code f code i q := by
    unfold macPlan at code
    dsimp only at code
    obtain ⟨v, -, rfl⟩ := Option.map_eq_some_iff.1 code
    exact groupElemM_plain hc _ _ _ _

/-- Taking the canopy changes neither what it holds nor the tiles. -/
theorem takeCanopy_frame (b : Bench) (farm : BitVec 16) : b.takeCanopy farm = { b with canopyOwner := (b.takeCanopy farm).canopyOwner, loads := (b.takeCanopy farm).loads } := by
  unfold Bench.takeCanopy
  split <;> rfl

/-- The state in which a MACC reads its canopy (R183). -/
def macState (s : State) (bs : Bool) : State := if bs then s else s.setMyBench (s.myBench.takeCanopy s.hart.farm)

theorem macState_bench (s : State) (bs : Bool) : (macState s bs).myBench = if bs then s.myBench else s.myBench.takeCanopy s.hart.farm := by
  unfold macState
  split
  · rfl
  · exact State.bench_setBench s _ _

theorem macPlan_state (s : State) (bs : Bool) (h : Hart) (m : MacArgs) (gl : Nat) (int32 : Bool) : macPlan (macState s bs) h m gl int32 = macPlan s h m gl int32 := by
  unfold macPlan
  rw [macState_bench]
  split
  · rfl
  · rw [takeCanopy_frame]
    rfl

/-! ## The run of MACC and MACCS (R179 to R189) -/

/-- A MACC or MACCS whose checks pass, on plain operands: its groups, and the tile that they leave (R184, R188). -/
theorem macStep_runs {s : State} {i : Instr} {m : MacArgs} {int32 : Bool} {gl : Nat} (plain : PlainOperands s) (wf : wellFormed i = true)
    (check : matrixCheck i s (macCheck s m) = none) (pair : macPair m.fA m.fB m.bs m.tr = some (int32, gl))
    (mine : m.bs = true ∨ (macState s m.bs).myBench.canopyOwner = some s.hart.farm) {r : MacRun}
    (run : macLoop (macState s m.bs) (macPlan s s.hart m gl int32) [] m m.k { tile := (macState s m.bs).myBench.tile m.t, flags := 0, kk := s.hart.vri.toNat, stop := none } = r)
    (stop : r.stop = none) (reached : r.kk = m.k) (un : Unenabled r.flags s) :
    macStep i m s = .next (retired (s.hart.pc + 8) r.flags
      (((macState s m.bs).setMyBench ((macState s m.bs).myBench.setTile m.t r.tile)).withHart { s.hart with vri := 0 })) := by
  obtain ⟨matrix, -, hu, -, -, upsets, oneStep⟩ := id plain
  have unbound : Unbound s.hart := hu
  obtain ⟨steady, ready, -⟩ := id matrix
  have ready' : macReady s m = true := by
    unfold macReady
    rw [unbound.consumed]
    rfl
  have hart : (macState s m.bs).hart = s.hart := by unfold macState; split <;> rfl
  have policy : (macState s m.bs).policy = s.policy := by unfold macState; split <;> rfl
  have plan := macPlan_state s m.bs s.hart m gl int32
  have upsets' : (macState s m.bs).myBench.canopyUpsets = [] := by
    rw [macState_bench]
    split
    · exact upsets
    · rw [takeCanopy_frame]
      exact upsets
  refine matrixStep_runs matrix wf ready' check ?run ?ended
  case ended =>
    unfold Hart.atEnd
    show ((match s.hart.run with | .asleep _ => false | _ => true) && !false) = true
    rw [ready]
    rfl
  dsimp only
  rw [show (if m.bs = true then s else s.setMyBench (s.myBench.takeCanopy s.hart.farm)) = macState s m.bs from rfl]
  generalize macState s m.bs = u at *
  have unbound' : Unbound u.hart := by rw [hart]; exact hu
  have mine' : (m.bs || u.myBench.ownsCanopy u.hart.farm) = true := by
    rw [Bool.or_eq_true, Bench.ownsCanopy, beq_iff_eq, hart]
    exact mine
  rw [unbound'.streamCheck]
  dsimp only
  rw [mine', unbound'.readySources, pair]
  dsimp only
  rw [policy, oneStep, hart, show cutChunks s.hart [] = s.hart from rfl, plan]
  rw [if_neg Bool.false_ne_true, if_neg (by decide), run, stop]
  dsimp only
  rw [if_neg (by rw [reached]; exact Nat.lt_irrefl _)]
  simp only [List.foldl_nil, upsets', List.isEmpty_nil, Bool.or_true, Bool.true_or, if_true]
  rw [State.setMyBench_hart, hart]
  exact finishFlags_steady (s := (u.setMyBench (u.myBench.setTile m.t r.tile)).withHart { s.hart with vri := 0 }) steady un 8

open Sys2Proof.Claim

/-- What a MACC or MACCS leaves, group by group (R184, R188). -/
theorem macStep_becomes {s : State} {i : Instr} {m : MacArgs} {int32 : Bool} {gl : Nat} (plain : PlainOperands s) (wf : wellFormed i = true) (runs : exec i s = macStep i m s)
    (check : matrixCheck i s (macCheck s m) = none) (pair : macPair m.fA m.fB m.bs m.tr = some (int32, gl))
    (mine : m.bs = true ∨ (macState s m.bs).myBench.canopyOwner = some s.hart.farm) (some : 0 < m.stride gl) (whole : m.k % m.stride gl = 0)
    (aligned : s.hart.vri.toNat % m.stride gl = 0) (inside : s.hart.vri.toNat ≤ m.k) (cell : Nat → Nat → Nat → Nat → Nat × BitVec 7)
    (same : ∀ r c k0 acc, cell r c k0 acc = ((macCell (macPlan s s.hart m gl int32) r c k0 acc).acc, (macCell (macPlan s s.hart m gl int32) r c k0 acc).flags)) :
    let sum (r c : Nat) : Nat × BitVec 7 := (groupStarts s.hart.vri.toNat m.k (m.stride gl)).foldl (fun p k0 => ((cell r c (m.kofs + k0) p.1).1, p.2 ||| (cell r c (m.kofs + k0) p.1).2))
      (accOf (s.myBench.tile m.t) r c, 0)
    let fl := flagsOf (List.range 65536) (fun n => (sum (n / 256) (n % 256)).2)
    Unenabled fl s → ∃ t, exec i s = .next t ∧ BenchDone t fl s ∧ OnlyTile t.myBench (if m.bs then s.myBench else s.myBench.takeCanopy s.hart.farm) m.t
      ∧ SameTile (t.myBench.tile m.t) (s.myBench.tile m.t) ∧ ∀ r c, r < 256 → c < 256 → accOf (t.myBench.tile m.t) r c = (sum r c).1 := by
  intro sum fl un
  obtain ⟨-, -, -, clean, poison, upsets, -⟩ := id plain
  have tile : (macState s m.bs).myBench.tile m.t = s.myBench.tile m.t := by
    rw [macState_bench]
    split
    · rfl
    · rw [takeCanopy_frame]
      rfl
  have sums (r c : Nat) : cellFold (macPlan s s.hart m gl int32) r c ((groupStarts s.hart.vri.toNat m.k (m.stride gl)).map (m.kofs + ·)) (accOf (s.myBench.tile m.t) r c, 0) = sum r c := by
    refine List.foldl_map.trans (List.foldl_ext _ _ _ fun p k0 _ => ?_)
    rw [same]
  obtain ⟨reached, stopped, kept, accs, flags⟩ := macLoop_plain (s := macState s m.bs) (p := macPlan s s.hart m gl int32) (m := m)
    (macPlan_plain clean poison upsets m gl int32).unmarked some whole m.k ((macState s m.bs).myBench.tile m.t) 0 s.hart.vri.toNat (Nat.le_add_left _ _) inside aligned
  have length : (macPlan s s.hart m gl int32).g = gl := rfl
  rw [length] at accs flags
  generalize run : macLoop (macState s m.bs) _ [] m m.k _ = r at *
  rw [tile] at kept accs flags
  have union : r.flags = fl := flags.trans (BitVec.zero_or.trans (flagsOf_congr fun n _ => congrArg Prod.snd (sums _ _)))
  have ran := macStep_runs plain wf check pair mine run stopped reached (union ▸ un)
  rw [union] at ran
  generalize done : retired (s.hart.pc + 8) fl (((macState s m.bs).setMyBench ((macState s m.bs).myBench.setTile m.t r.tile)).withHart { s.hart with vri := 0 }) = t at ran
  have bench : t.myBench = (macState s m.bs).myBench.setTile m.t r.tile := by
    subst done
    have hart : (macState s m.bs).hart = s.hart := by unfold macState; split <;> rfl
    show State.bench (State.setBench (macState s m.bs) (benchOf (macState s m.bs).hart.id) _) (benchOf s.hart.id) = _
    rw [hart]
    exact State.bench_setBench _ _ _
  refine ⟨t, runs.trans ran, ⟨?_, fun b other => ?_⟩, ?_, ?_, fun i j hi hj => ?_⟩
  · subst done
    unfold macState
    split <;> rfl
  · subst done
    have hart : (macState s m.bs).hart = s.hart := by unfold macState; split <;> rfl
    show State.bench (State.setBench (macState s m.bs) (benchOf (macState s m.bs).hart.id) _) b = _
    rw [hart, State.bench_setBench_ne _ other _]
    unfold macState
    split
    · rfl
    · exact State.bench_setBench_ne _ other _
  · rw [bench, macState_bench]
    exact ⟨rfl, fun j ne => (Bench.tile_setTile _ _ _ _).trans (if_neg ne)⟩
  · rw [bench, Bench.tile_setTile, if_pos rfl]
    exact kept
  · rw [bench, Bench.tile_setTile, if_pos rfl, accs i j hi hj, sums]

open Sys2Proof.Claim

/-! ## The products of formats without scales (R64 to R66) -/

/-- A value a product or a sum of products may be: exact, and no signalling NaN. -/
def Val.exact : Val → Bool | .nan s => !s | .inf _ => true | .fin _ _ _ more => !more

theorem mulVal_exact (a b : Val) : (mulVal a b).1.exact = true := by
  unfold mulVal
  split
  · rfl
  · rfl
  · split <;> rfl
  · split <;> rfl
  · rfl

theorem addVal_exact (rm : Nat) {a b : Val} (ha : a.exact = true) (hb : b.exact = true) : (addVal rm a b).1.exact = true := by
  unfold addVal
  split
  · rfl
  · rfl
  · split <;> rfl
  · rfl
  · rfl
  · next n x e s m y g t =>
    obtain rfl : s = false := by simpa [Val.exact] using ha
    obtain rfl : t = false := by simpa [Val.exact] using hb
    split
    · rfl
    · dsimp only
      split <;> rfl

/-- The scale of a format without scales. -/
def oneVal : Val := .fin false 1 0 false

theorem mulVal_one {v : Val} (exact : v.exact = true) : mulVal v oneVal = (v, 0) := by
  cases v with
  | nan s =>
    obtain rfl : s = false := by simpa [Val.exact] using exact
    rfl
  | inf n => cases n <;> rfl
  | fin n m e s =>
    obtain rfl : s = false := by simpa [Val.exact] using exact
    show (Val.fin (n != false) (m * 1) (e + 0) false, (0 : BitVec 7)) = _
    rw [Nat.mul_one, Int.add_zero, Bool.bne_false]

/-- The exact sum of a group's products, with their flags (R64). -/
def sumVals (ps : List (Val × BitVec 7)) : Val × BitVec 7 :=
  match ps with
  | [] => (.fin false 0 0 false, 0)
  | q :: t => t.foldl (fun a b => ((addVal 0 a.1 b.1).1, (addVal 0 a.1 b.1).2 ||| a.2 ||| b.2)) q

theorem sumVals_exact {ps : List (Val × BitVec 7)} (exact : ∀ q ∈ ps, q.1.exact = true) : (sumVals ps).1.exact = true := by
  cases ps with
  | nil => rfl
  | cons q t =>
    have grow (l : List (Val × BitVec 7)) (a : Val × BitVec 7) (ha : a.1.exact = true) (hl : ∀ q ∈ l, q.1.exact = true) :
        (l.foldl (fun a b => ((addVal 0 a.1 b.1).1, (addVal 0 a.1 b.1).2 ||| a.2 ||| b.2)) a).1.exact = true := by
      induction l generalizing a with
      | nil => exact ha
      | cons b l ih => exact ih _ (addVal_exact 0 ha (hl b List.mem_cons_self)) fun q hq => hl q (List.mem_cons_of_mem _ hq)
    exact grow t q (exact q List.mem_cons_self) fun q hq => exact q (List.mem_cons_of_mem _ hq)

theorem macProduct_exact (q : MElem × MElem) : (macProduct q).1.exact = true := by
  unfold macProduct
  split
  · exact mulVal_exact _ _
  · rfl

/-- The clamp of an INT32 accumulator (R64). -/
theorem macClamp_eq (r : Int) :
    (wrapInt 32 (if r > 2 ^ 31 - 1 then 2 ^ 31 - 1 else if r < -(2 ^ 31) then -(2 ^ 31) else r),
      flagIf ((if r > 2 ^ 31 - 1 then 2 ^ 31 - 1 else if r < -(2 ^ 31) then -(2 ^ 31) else r) != r) SAT) = satWrap true 32 r := by
  have clamp : (if r > 2 ^ 31 - 1 then 2 ^ 31 - 1 else if r < -(2 ^ 31) then -(2 ^ 31) else r) = max (-2 ^ (32 - 1)) (min (2 ^ (32 - 1) - 1) r) := by
    split
    · omega
    · split <;> omega
  rw [clamp]
  unfold satWrap flagIf
  dsimp only
  rw [if_pos rfl]
  by_cases kept : max (-2 ^ (32 - 1)) (min (2 ^ (32 - 1) - 1) r) = r
  · rw [if_pos kept, kept, bne_self_eq_false, if_neg Bool.false_ne_true]
  · rw [if_neg kept, bne_iff_ne.2 kept, if_pos rfl]

/-- A product's flags with those of its first factor. -/
def timesVal (t : Val × BitVec 7) (v : Val) : Val × BitVec 7 := ((mulVal t.1 v).1, (mulVal t.1 v).2 ||| t.2)

theorem timesVal_one {t : Val × BitVec 7} (exact : t.1.exact = true) : timesVal t oneVal = t := by
  rw [timesVal, mulVal_one exact]
  exact congrArg (Prod.mk t.1) BitVec.zero_or

/-- An FP32 accumulator after a group's sum, rounded once (R65). -/
def fpAccum (sat : Bool) (old : Nat) (v : Val × BitVec 7) : Nat × BitVec 7 :=
  ((roundOp 5 0 sat 0 (addVal 0 (decodeVal 5 old) v.1)).1, (roundOp 5 0 sat 0 (addVal 0 (decodeVal 5 old) v.1)).2 ||| v.2)

/-- A group of a format without scales (R64 to R66). -/
theorem macAdd_one (p : MacPlan) (old : Nat) (ts : List (MElem × MElem)) (mb : Bool) :
    ((macAdd p old ts (oneVal, false) (oneVal, false) mb).acc, (macAdd p old ts (oneVal, false) (oneVal, false) mb).flags)
      = macOne p.int32 p.sat old (ts.map macProduct) := by
  unfold macAdd macOne
  dsimp only
  have same : (fun q : MElem × MElem => macProduct (q.1.under oneVal, q.2.under oneVal)) = macProduct := rfl
  rw [same]
  cases p.int32 with
  | true =>
    rw [if_pos rfl, if_pos rfl]
    exact macClamp_eq _
  | false =>
    rw [if_neg Bool.false_ne_true, if_neg Bool.false_ne_true]
    have exact : (sumVals (ts.map macProduct)).1.exact = true := sumVals_exact fun q hq => by
      obtain ⟨t, -, rfl⟩ := List.mem_map.1 hq
      exact macProduct_exact t
    show fpAccum p.sat old (if _ = true then timesVal (timesVal (sumVals _) oneVal) oneVal else timesVal (sumVals _) oneVal) = fpAccum p.sat old (sumVals _)
    rw [timesVal_one exact, timesVal_one exact, ite_self]

open Sys2Proof.Claim

/-! ## MACC and MACCS: the groups they accumulate (R179 to R190) -/

/-- What an operand element is worth, none where it is missing (R185). -/
def MElem.worth (x : MElem) : Option Val := if x.there then some x.val else none

theorem macReg_eq (s : State) (r n f e : Nat) : macReg s r n f e = (groupElemM s.hart r n f e).worth := by
  unfold macReg groupElemM
  dsimp only
  by_cases here : (e + 1) * elemWidth f ≤ s.hart.capBits * n ∧ elemValid s.hart s.hart.capBits r (elemWidth f) e = true
  · obtain ⟨fits, valid⟩ := id here
    rw [if_pos here, if_pos (by rw [decide_eq_true fits, valid]; rfl)]
    rfl
  · rw [if_neg here, if_neg fun h => here ⟨of_decide_eq_true ((Bool.and_eq_true _ _).mp h).1, ((Bool.and_eq_true _ _).mp h).2⟩]
    rfl

/-- The product of two operands' values, +0 where either is missing (R185). -/
def worthProduct (x y : Option Val) : Val × BitVec 7 := match x, y with | some x, some y => mulVal x y | _, _ => (Val.fin false 0 0 false, 0)

theorem macProduct_worth (q : MElem × MElem) : macProduct q = worthProduct q.1.worth q.2.worth := by
  unfold macProduct worthProduct MElem.worth
  cases q.1.there <;> cases q.2.there <;> rfl

theorem macPair_length {fA fB : Nat} {bs tr int32 : Bool} {g : Nat} (pair : macPair fA fB bs tr = some (int32, g)) : g = 1 ∨ g = 2 ∨ g = 32 ∨ g = 64 := by
  unfold macPair at pair
  dsimp only at pair
  split at pair
  · exact nomatch pair
  · split at pair
    · obtain ⟨-, rfl⟩ := Prod.mk.inj (Option.some.inj pair)
      exact .inr (.inl rfl)
    · split at pair
      · obtain ⟨-, rfl⟩ := Prod.mk.inj (Option.some.inj pair)
        exact .inr (.inr (.inl rfl))
      · split at pair
        · obtain ⟨-, rfl⟩ := Prod.mk.inj (Option.some.inj pair)
          split
          · exact .inr (.inl rfl)
          · exact .inl rfl
        · split at pair
          · obtain ⟨-, rfl⟩ := Prod.mk.inj (Option.some.inj pair)
            exact .inr (.inr (.inl rfl))
          · split at pair
            · obtain ⟨-, rfl⟩ := Prod.mk.inj (Option.some.inj pair)
              exact .inr (.inr (.inl rfl))
            · split at pair
              · obtain ⟨-, rfl⟩ := Prod.mk.inj (Option.some.inj pair)
                split
                · exact .inr (.inr (.inl rfl))
                · exact .inr (.inr (.inr rfl))
              · exact nomatch pair

theorem plainPairs_scaleless : ∀ q ∈ plainPairs, isBlock q.1 = false ∧ isBlock q.2.1 = false := by decide

/-- The checks of R176 pass. -/
theorem macCheck_passes {s : State} {i : Instr} {m : MacArgs} {int32 : Bool} {g : Nat} (legal : s.hart.vill = false) (own : (s.myBench.tile m.t).owner = some s.hart.id)
    (pair : macPair m.fA m.fB m.bs m.tr = some (int32, g)) (kind : (s.myBench.tile m.t).int32 = int32) (short : m.kofs + m.k ≤ 256) (whole : m.k % g = 0) (start : m.kofs % g = 0)
    (aligned : s.hart.vri.toNat % g = 0) (inside : s.hart.vri.toNat ≤ m.k)
    (meta' : ∀ v, m.vm = some v → m.k % 4 = 0 ∧ m.kofs % 4 = 0 ∧ m.fA ≠ 5 ∧ metaRegs s.hart ≤ 8 ∧ groupFits v (metaRegs s.hart) 0 = true) :
    matrixCheck i s (macCheck s m) = none := by
  refine matrixCheck_owned legal i ?grant ?format rfl ?own ?kind
  case grant =>
    show (match m.vm with | some v => decide (metaRegs s.hart > 8) || groupFits v (metaRegs s.hart) 0 | none => true) = true
    cases vm : m.vm with
    | none => rfl
    | some v =>
      obtain ⟨-, -, -, -, fits⟩ := meta' v vm
      exact (congrArg _ fits).trans (Bool.or_true _)
  case format =>
    unfold macCheck
    rw [pair]
    dsimp only
    have sparse : (m.vm.isNone || (m.k % 4 == 0 && m.kofs % 4 == 0 && m.fA != 5 && decide (metaRegs s.hart ≤ 8))) = true := by
      cases vm : m.vm with
      | none => rfl
      | some v =>
        obtain ⟨k4, o4, fp, few, -⟩ := meta' v vm
        rw [k4, o4, bne_iff_ne.2 fp, decide_eq_true few]
        rfl
    rw [sparse, whole, start, aligned, decide_eq_true inside, decide_eq_true (show m.kofs + m.k ≤ Config.mtlen from short)]
    rfl
  case own =>
    intro j hj
    obtain rfl : j = m.t := List.mem_singleton.1 hj
    exact own
  case kind =>
    unfold macCheck
    rw [pair]
    exact beq_iff_eq.2 kind

/-- One accumulator after a step of MACC or MACCS as R184 and R186 give it. -/
def macStepCell (p : MacPlan) (sparse : Bool) (g r c k0 acc : Nat) : Nat × BitVec 7 :=
  let ts := (macTerms p r c k0).1
  let add (acc : Nat) (l : List (MElem × MElem)) : Cell := macAdd p acc l (p.scaleA r k0) (p.scaleB c k0) (macTerms p r c k0).2
  if sparse ∧ g = 1 then
    let x := add acc (ts.take 1)
    let y := add x.acc (ts.drop 1)
    (y.acc, x.flags ||| y.flags)
  else ((add acc ts).acc, (add acc ts).flags)

theorem macStepCell_eq (p : MacPlan) {sparse : Bool} (code : p.code.isSome = sparse) (r c k0 acc : Nat) :
    macStepCell p sparse p.g r c k0 acc = ((macCell p r c k0 acc).acc, (macCell p r c k0 acc).flags) := by
  unfold macStepCell macCell MacPlan.rounds
  dsimp only
  rw [code]
  by_cases slots : sparse = true ∧ p.g = 1
  · obtain ⟨rfl, g⟩ := id slots
    rw [if_pos slots, g]
    rfl
  · rw [if_neg slots]
    cases sparse with
    | false => rfl
    | true =>
      have other : ¬ p.g = 1 := fun g => slots ⟨rfl, g⟩
      rw [beq_false_of_ne other]
      rfl

theorem macCell_scaleless {s : State} {m : MacArgs} {g : Nat} {int32 : Bool} (vm : m.vm = none) (fA : isBlock m.fA = false) (fB : isBlock m.fB = false) (r c k0 acc : Nat) :
    let p := macPlan s s.hart m g int32
    ((macCell p r c k0 acc).acc, (macCell p r c k0 acc).flags)
      = macOne int32 m.sat acc ((List.range g).map (fun d => worthProduct (groupElemM s.hart m.va m.na m.fA (indexA m.tr r (k0 + d))).worth (p.b (k0 + d) c).worth)) := by
  intro p
  have code : p.code = none := congrArg (Option.map _) vm
  have sA : p.scaleA r k0 = (oneVal, false) := by
    show scaleOfA s.hart m.va m.na m.fA r _ = _
    unfold scaleOfA
    rw [fA]
    rfl
  have sB : p.scaleB c k0 = (oneVal, false) := by
    show scaleOfB s.myBench m.fB m.xc c k0 = _
    unfold scaleOfB
    rw [fB]
    rfl
  have terms : macTerms p r c k0 = ((List.range g).map (fun d => (p.a r (k0 + d), p.b (k0 + d) c)), false) := by
    unfold macTerms
    rw [code]
    rfl
  rw [← macStepCell_eq p (sparse := false) (by rw [code]; rfl)]
  unfold macStepCell
  dsimp only
  rw [if_neg fun h => Bool.false_ne_true h.1, sA, sB, terms, macAdd_one, List.map_map]
  exact congrArg (macOne int32 m.sat acc) (List.map_congr_left fun d _ => macProduct_worth _)

open Sys2Proof.Claim

/-- The positions of a step of MACC or MACCS divide what the groups divide (R184, R186). -/
theorem stride_divides {m : MacArgs} {g n : Nat} (length : g = 1 ∨ g = 2 ∨ g = 32 ∨ g = 64) (whole : n % g = 0) (dense : m.vm.isSome = true → n % 4 = 0) : n % m.stride g = 0 := by
  unfold MacArgs.stride
  split
  · next sparse =>
    have four := dense sparse
    rcases length with rfl | rfl | rfl | rfl
    · exact four
    · exact four
    · exact whole
    · exact whole
  · exact whole

/-- Settles O45: a run of MACC or MACCS on plain operands is a fold over its groups, each of which writes every accumulator once. -/
theorem matrixProducts : Obligations.MatrixProducts := by
  unfold Obligations.MatrixProducts
  intro s k va vb bs tr sat ga gb fA fB xk xc vm sparse plain i args K ko b old wf own mine int32 g pair kind short whole
    start aligned inside becomes
  obtain ⟨matrix, -⟩ := id plain
  obtain ⟨-, -, legal, -⟩ := id matrix
  have length := macPair_length pair
  have runs : exec i s = macStep i args s := by
    cases sparse <;> rfl
  have vm' : args.vm.isSome = sparse := by cases sparse <;> rfl
  have owner : args.bs = true ∨ (macState s args.bs).myBench.canopyOwner = some s.hart.farm := by
    rw [macState_bench]
    exact mine
  have accumulate (dense : sparse = true → K % 4 = 0 ∧ ko % 4 = 0 ∧ s.hart.vri.toNat % 4 = 0 ∧ fA ≠ 5 ∧ metaRegs s.hart ≤ 8 ∧ groupFits vm.toNat (metaRegs s.hart) 0 = true)
      (cell : Nat → Nat → Nat → Nat → Nat × BitVec 7)
      (same : ∀ r c k0 acc, cell r c k0 acc = ((macCell (macPlan s s.hart args g int32) r c k0 acc).acc, (macCell (macPlan s s.hart args g int32) r c k0 acc).flags)) :
      becomes (args.stride g) cell := by
    have meta' : ∀ v, args.vm = some v → args.k % 4 = 0 ∧ args.kofs % 4 = 0 ∧ args.fA ≠ 5 ∧ metaRegs s.hart ≤ 8 ∧ groupFits v (metaRegs s.hart) 0 = true := by
      intro v hv
      have sp : sparse = true := vm'.symm.trans (by rw [hv]; rfl)
      obtain ⟨k4, o4, -, fp, few, fits⟩ := dense sp
      obtain rfl : vm.toNat = v := by
        rw [show args.vm = if sparse then some vm.toNat else none from rfl, sp] at hv
        exact Option.some.inj hv
      exact ⟨k4, o4, fun h => fp (BitVec.eq_of_toNat_eq h), few, fits⟩
    have check : matrixCheck i s (macCheck s args) = none := macCheck_passes legal own pair kind short whole start aligned inside meta'
    have pos : 0 < args.stride g := by
      unfold MacArgs.stride
      split
      · omega
      · omega
    exact macStep_becomes plain wf runs check pair owner pos (stride_divides length whole fun sp => (dense (vm'.symm.trans sp)).1)
      (stride_divides length aligned fun sp => (dense (vm'.symm.trans sp)).2.2.1) inside cell same
  clear_value becomes
  refine ⟨fun sp scaleless => ?_, fun dense => ?_⟩
  · subst sp
    obtain ⟨blockA, blockB⟩ := plainPairs_scaleless _ scaleless
    have stride : args.stride g = g := rfl
    have dense := accumulate fun h => absurd h Bool.false_ne_true
    rw [stride] at dense
    refine dense _ fun r c k0 acc => ?_
    rw [macCell_scaleless (m := args) rfl blockA blockB]
    refine congrArg (macOne int32 sat acc) (List.map_congr_left fun d _ => ?_)
    refine congrArg₂ worthProduct (macReg_eq s va.toNat (2 ^ ga.toNat) fA.toNat (if tr then r * 256 + (k0 + d) else (k0 + d) * 256 + r)) ?_
    cases bs with
    | true => exact macReg_eq s vb.toNat (2 ^ gb.toNat) fB.toNat ((k0 + d) * 256 + c)
    | false => rfl
  · have stride : (if sparse = true then max 4 g else g) = args.stride g := by cases sparse <;> rfl
    rw [stride]
    have code : (macPlan s s.hart args g int32).code.isSome = sparse := by
      show (args.vm.map _).isSome = sparse
      rw [Option.isSome_map]
      exact vm'
    exact accumulate dense (macStepCell (macPlan s s.hart args g int32) sparse g) fun r c k0 acc => macStepCell_eq (macPlan s s.hart args g int32) code r c k0 acc

end Sys2Proof.Machine

namespace Sys2Proof.Machine
/-! A panel over a canopy with a byte listed twice: O46 fails (R183, R191). -/

open Sys2Proof.Claim

/-! ## A panel over a canopy with a byte listed twice (R183, R191)

No premise of the statement keeps the canopy's list of bytes canonical. Writing 0 to a byte that the list holds twice removes its first entry, and the second is then what
the byte reads as. -/

/-- The windows of the second tier are four. -/
theorem regionOf_window {pa p : Nat} (window : regionOf pa = .cxl p) : p < 4 := by
  unfold regionOf at window
  split_ifs at window with _ _ _ bounds
  · rw [← Region.cxl.inj window]
    omega
  · dsimp only at window
    split at window <;> exact nomatch window

/-- Nothing lies behind a down link while all links are up. -/
theorem linkDown_allUp {s : State} (up : s.links.cxlUp = 0xF) (pa : Nat) : linkDown s pa = false := by
  unfold linkDown
  cases region : regionOf pa with
  | cxl p =>
    rw [up]
    have four : ∀ q < 4, (!(0xF#4).getLsbD q) = false := by decide
    exact four p (regionOf_window region)
  | _ => rfl

/-- A hart whose x10 asks for a panel of one position. -/
def panelHart : Hart := { Hart.init with run := .ready, status := 0 }

/-- The farm of the hart owns a canopy that lists its first byte twice. -/
def twiceListed : State :=
  { State.reset with hart := panelHart, benches := [(0, { Bench.init with canopyOwner := some 0, canopy := [(0, 1), (0, 1)] })], links := { Links.init with cxlUp := 0xF } }.setX 10 1

/-- The first byte of the canopy after an instruction. -/
def firstCanopyByte (o : Host.Outcome State Fault Refusal) : Option Byte :=
  match o with
  | .next t => some (memGet t.myBench.canopy 0)
  | _ => none

/-- The 256 bytes at address 0. -/
def panelBytes : List MarkedByte := List.replicate 256 (0, false)

/-- A panel of one position is read from address 0, and byte 0 of the canopy reads 1 after it. -/
theorem twiceListed_ready : (PlainMatrix twiceListed ∧ NoUpset twiceListed ∧ twiceListed.myBench.canopyUpsets = [] ∧ twiceListed.links.cxlUp = 0xF)
    ∧ (twiceListed.myBench.takeCanopy twiceListed.hart.farm).canopyOwner = some twiceListed.hart.farm
    ∧ ((twiceListed.getX 10).extractLsb' 0 16).toNat = 1 ∧ ((twiceListed.getX 10).extractLsb' 16 16).toNat = 0 ∧ twiceListed.getX 11 = 0 ∧ twiceListed.getX 12 = 0
    ∧ agentBytes twiceListed twiceListed.hart.space 0 256 = .ok panelBytes
    ∧ firstCanopyByte (exec (.mldc 10 11 12 0 false 0) twiceListed) = some 1 := by
  unfold PlainMatrix Steady NoUpset
  decide +kernel

theorem not_canopyLoads : ¬ Claim.CanopyLoads := by
  intro h
  obtain ⟨⟨plain, quiet, sound, up⟩, owner, one, first, source, stride, bytes, reads⟩ := twiceListed_ready
  obtain ⟨-, -, loads⟩ := h twiceListed 10 11 12 false 0 plain quiet sound (linkDown_allUp up) rfl rfl rfl rfl
  obtain ⟨t, u, runs, -, -, -, -, panel⟩ := loads owner (by rw [source]; rfl) (by rw [stride]; rfl) (by rw [one, first]; decide) (fun _ => panelBytes) (by
    rw [one]
    intro o inside
    obtain rfl : o = 0 := Nat.lt_one_iff.1 inside
    beta_reduce
    rw [source, stride]
    exact ⟨rfl, bytes⟩)
  have zero : memGet t.myBench.canopy 0 = 0 := (panel 0 0 (by decide) (by decide)).trans rfl
  rw [runs, firstCanopyByte, zero] at reads
  exact absurd reads (by decide)

/-- Refutes O46: in a canopy whose list holds byte 0 twice, a panel whose first element is 0 leaves the second entry, so that the element reads 1. -/
theorem not_canopies : ¬ Obligations.Canopies := fun h => not_canopyLoads h.1

end Sys2Proof.Machine

namespace Sys2Proof.Machine
/-! A stream that reads ahead past an eviction: O48 fails (R139). -/

open Sys2Proof.Claim

/-! ## The same eviction while a stream reads ahead (R139) -/

theorem staleBound_alone : Current staleBound staleBound.hart.id ∧ Settled staleBound staleBound.hart.id := by
  unfold Current Settled
  decide

/-- Two elements read ahead: the first evicts the copy that the second's check has seen. -/
theorem not_hartSteps : ¬ Claim.HartSteps := by
  intro h
  obtain ⟨current, settled⟩ := staleBound_alone
  obtain ⟨⟨steady, -, -, quiet, empty, -, -, -, -, bound, -⟩, loadable, -, reports⟩ := staleBound_ready
  obtain ⟨-, -, -, -, -, -, -, ahead, -⟩ := h staleBound staleBound.hart.id current steady settled
  obtain ⟨t, runs, same⟩ := ahead 0 staleStream 2 bound rfl rfl empty quiet fun e live => loadable e (List.mem_range.1 (List.mem_filter.1 live).1)
  exact reports (messages_of_sameButRows runs same rfl)

/-- Refutes O48 in its part on streams that read ahead: of two elements, the second lies in a CXL window whose link is down but with its sector in the L1; filling the first
element's sector takes that copy's place, so the step reports the down link beside moving caches and rows. -/
theorem not_hartEvents : ¬ Obligations.HartEvents := fun h => not_hartSteps h.1

end Sys2Proof.Machine

namespace Sys2Proof.Machine
/-! A snapshot's reason beyond its bits: O51 fails (R224, R228). -/

open Sys2Proof.Claim

/-! ## A snapshot that has failed with a reason beyond its eight bits (R224, R228)

A record's flag receives bit 63 joined with the reason; the statement adds the two. They differ where the reason itself has bit 63, and no premise bounds the reason that a
snapshot holds. -/

/-- A SNAPSHOT record whose flag lies at 0x1000. -/
def failedRecord : CmdRec := { words := [3, 0x1000], space := Hart.init.space, hart := 0, farm := 0 }

/-- It has failed, with reason 2^63. -/
def failedSnap : Snap := { engine := 0, pages := [], buffers := [], cmd := failedRecord, failed := some (2 ^ 63) }

/-- The record heads the queue of engine 0. -/
def failedState : State := { State.reset with engines := [(0, [failedRecord])], snaps := [failedSnap] }

/-- The state as the record's flag finds it. -/
def endingState : State := { failedState with snaps := [], engines := tset failedState.engines 0 [] }

/-- Where an address lies, if it is mapped. -/
def placeOf (m : Except XFault Mapped) : Option Nat := m.toOption.map (·.pa)

theorem mapped_of_placeOf {x : Except XFault Mapped} {pa : Nat} (place : placeOf x = some pa) : ∃ m, x = .ok m ∧ m.pa = pa := by
  cases x with
  | error f => exact nomatch place
  | ok m => exact ⟨m, rfl, Option.some.inj place⟩

/-- The last byte of the flag after a step. -/
def lastFlagByte (o : Host.Outcome State Fault Refusal) : Option Byte :=
  match o with
  | .next t => some (memGet t.mem 0x1007)
  | _ => none

/-- The flag can be written, and its last byte is 0x80 after the step. -/
theorem failedState_ready : (Sound failedState ∧ NoUpset failedState ∧ Calm failedState ∧ failedState.awaits = [])
    ∧ placeOf (agentMap endingState failedRecord.space .store (failedRecord.w 1)) = some 0x1000 ∧ LinkUp endingState 0x1000 8 ∧ Unheld endingState 0x1000 8
    ∧ lastFlagByte (exec (.snapshotPageCopy 0) failedState) = some 0x80 := by
  unfold Sound NoUpset Calm LinkUp Unheld
  decide +kernel

theorem not_snapshots : ¬ Claim.Snapshots := by
  intro h
  obtain ⟨⟨sound, quiet, calm, idle⟩, at', reachable, free, reads⟩ := failedState_ready
  obtain ⟨-, -, -, fails, -⟩ := h failedState 0 failedRecord [] failedSnap rfl (by decide) rfl rfl rfl sound quiet calm idle
  obtain ⟨t, runs, ended⟩ := fails (2 ^ 63) rfl
  obtain ⟨m, mapped, place⟩ := mapped_of_placeOf at'
  obtain ⟨-, stored⟩ := ended.1 m mapped (place ▸ reachable) (place ▸ free)
  have zero : memGet t.mem 0x1007 = 0 := by
    rw [stored 0x1007, place]
    rfl
  rw [runs, lastFlagByte, zero] at reads
  exact absurd reads (by decide)

/-- Refutes O51 in its part on snapshots: one that has failed with reason 2^63 writes 2^63 to its flag, where the sum of bit 63 and the reason is 0. -/
theorem not_enginesAndSnapshots : ¬ Obligations.EnginesAndSnapshots := fun h => not_snapshots h.2

end Sys2Proof.Machine

namespace Sys2Proof.Machine
/-! Narrowing into a format that is none: O55 and O56 fail (R374, R382, R386). -/

open Sys2Proof.Claim

/-! ## A context whose transport format is none of R374

No premise of the statements keeps TF among the transport formats. Narrowing into format code 3, which R374 does not assign, leaves the 32 bits of FP32, where the statement
reads an element of 8. -/

/-- The FP32 number 1. -/
def oneChunk : Buf := { fmt := 5, data := 0x3F80_0000, poison := 0, upsets := [] }

/-- A running context with TF 3 whose first buffer holds the number 1. -/
def oddContext : Ctx := { Ctx.init with st := 1, tf := 3, cl := 1, bufs := Ctx.init.bufs.set 0 (some oneChunk), q := Ctx.init.q.set 0 1 }

/-- It stands at the word 0, a SEND to rank 1 of two. -/
def oddSender : State := { State.reset.setCtx 0 oddContext with fabric := { Fabric.init with dims := (2, 1, 1), dtag := Fabric.init.dtag.set 0 1 } }

/-- Nothing has changed in the buffers of context 0 since their check values were made. -/
def freshBufs (s : State) : Bool := (s.ctx 0).bufs.toList.all (fun x => match x with | some b => b.upsets.isEmpty | none => true)

/-- The word at the PC of context 0. -/
def wordAt (s : State) : Option Nat := (agentBytes s (s.ctx 0).space (s.ctx 0).pc 8).toOption.map (fun l => ofBytes (l.map Prod.fst))

theorem upsets_of_freshBufs {s : State} (fresh : freshBufs s = true) (i : Nat) (b : Buf) (at' : (s.ctx 0).bufs.toList[i]? = some (some b)) : b.upsets = [] :=
  List.isEmpty_iff.1 (List.all_eq_true.1 fresh _ (List.mem_of_getElem? at'))

theorem read_of_wordAt {s : State} {w : Nat} (word : wordAt s = some w) :
    ∃ l, agentBytes s (s.ctx 0).space (s.ctx 0).pc 8 = .ok l ∧ ofBytes (l.map Prod.fst) = w := by
  revert word
  unfold wordAt
  cases agentBytes s (s.ctx 0).space (s.ctx 0).pc 8 with
  | error f => exact fun word => nomatch word
  | ok l => exact fun word => ⟨l, rfl, Option.some.inj word⟩

/-- Context 0 stands at a word, in terms that a computation answers. -/
def StandsAt (s : State) (w : Nat) : Prop :=
  (s.ctx 0).st ≠ 0 ∧ Calm s ∧ freshBufs s = true ∧ (s.ctx 0).pc.getLsbD 63 = false ∧ (s.ctx 0).pc.toNat % 8 = 0
    ∧ agentDown s (s.ctx 0).space .load (s.ctx 0).pc 8 = false ∧ wordAt s = some w

theorem atWord_of_standsAt {s : State} {w : Nat} (stands : StandsAt s w) : AtWord s 0 w := by
  obtain ⟨runs, calm, fresh, near, aligned, up, word⟩ := stands
  exact ⟨runs, calm, upsets_of_freshBufs fresh, near, aligned, up, read_of_wordAt word⟩

/-- The sender may send: it has a peer, room for staging and elements of a format that is none. -/
theorem oddSender_ready : StandsAt oddSender (dataWord 0 0 0 0 0 0 0 0 0) ∧ PeerOf oddSender 0 0 1 0 ∧ 1 ≠ oddSender.fabric.rank
    ∧ 0 < (oddSender.ctx 0).cl ∧ (oddSender.ctx 0).staged.length < 8 ∧ (oddSender.ctx 0).bufs[(0 : BitVec 3).toNat] = some oneChunk ∧ (oddSender.ctx 0).tf = 3
    ∧ oneChunk.poison.testBit 0 = false
    ∧ ¬ (narrowed (oddSender.ctx 0) (effChunk (oddSender.ctx 0) 0) 0 (0 : BitVec 15).toNat (decodeVal 5 (bufElem oneChunk 0))).1 < 256 := by
  unfold StandsAt Calm PeerOf
  decide +kernel

/-- An element of a format other than FP32, BF16 and FP16 has eight bits. -/
theorem bufElem_byte {b : Buf} (narrow : fmtBits b.fmt = 8) (i : Nat) : bufElem b i < 256 := by
  unfold bufElem
  rw [narrow]
  exact Nat.mod_lt _ (by decide)

theorem not_sequencerSends : ¬ Claim.SequencerSends := by
  intro h
  obtain ⟨stands, peer, other, size, room, chunk, odd, clean, large⟩ := oddSender_ready
  obtain ⟨-, sends, -⟩ := h oddSender 0 0 0 0 0 0 (by decide) rfl size
  obtain ⟨far, -⟩ := sends (atWord_of_standsAt stands) room oneChunk ⟨chunk, .inr rfl⟩ 1 0 peer
  obtain ⟨_, out, _, _, -, ⟨-, narrows⟩, -, -⟩ := far other
  obtain ⟨format, -, elements, -⟩ := narrows (by rw [odd]; decide)
  have small : bufElem out 0 < 256 := bufElem_byte (by rw [format, odd]; rfl) 0
  rw [elements 0 size clean] at small
  exact large small

/-- Refutes O55 in its part on SEND: into format code 3, which is no transport format, the number 1 is narrowed to 0x3F800000, which is no element of 8 bits. -/
theorem not_sequencerExchange : ¬ Obligations.SequencerExchange := fun h => not_sequencerSends h.1

open Sys2Proof.Claim

/-! ## CMPR into the same format (R386) -/

/-- The context of `oddContext` with its residual at 0x1000. -/
def oddCompressor : Ctx := { oddContext with q := Ctx.init.q.set 0 0x1000 }

/-- It stands at a CMPR of its first buffer; the residual is zero. -/
def oddNarrowing : State := { State.reset.setCtx 0 oddCompressor with mem := [(7, 0x60)], links := { Links.init with cxlUp := 0xF } }

/-- The residual can be read and written, and the sum has a format that is none. -/
theorem oddNarrowing_ready : StandsAt oddNarrowing (dataWord 6 0 0 0 0 0 0 0 0) ∧ (Sound oddNarrowing ∧ NoUpset oddNarrowing) ∧ oddNarrowing.links.cxlUp = 0xF
    ∧ Unheld oddNarrowing 0x1000 4
    ∧ placeOf (agentMap oddNarrowing oddCompressor.space .load 0x1000) = some 0x1000 ∧ placeOf (agentMap oddNarrowing oddCompressor.space .store 0x1000) = some 0x1000
    ∧ 0 < (oddNarrowing.ctx 0).cl ∧ (oddNarrowing.ctx 0).bufs[(0 : BitVec 3).toNat] = some oneChunk ∧ (oddNarrowing.ctx 0).tf = 3
    ∧ ((oddNarrowing.ctx 0).q[(0 : BitVec 4).toNat] + BitVec.ofNat 64 (effChunk (oddNarrowing.ctx 0) 0 * (oddNarrowing.ctx 0).cl * 4)) = 0x1000
    ∧ ¬ (narrowed (oddNarrowing.ctx 0) (effChunk (oddNarrowing.ctx 0) 0) 0 (0 : BitVec 15).toNat
      (decodeVal 5 (roundOp 5 0 false 0 (addVal 0 (decodeVal oneChunk.fmt.toNat (bufElem oneChunk 0)) (decodeVal 5 (memRead oddNarrowing.mem (0x1000 + 4 * 0) 4)))).1)).1 < 256 := by
  unfold StandsAt Calm Sound NoUpset Unheld
  decide +kernel

/-- The residual's four bytes can be reached for an access. -/
theorem oddNarrowing_reaches (up : oddNarrowing.links.cxlUp = 0xF) {kind : AccessKind} (place : placeOf (agentMap oddNarrowing oddCompressor.space kind 0x1000) = some 0x1000) :
    ∃ m, Reaches oddNarrowing oddCompressor.space kind 0x1000 4 m ∧ m.pa = 0x1000 := by
  obtain ⟨m, mapped, at'⟩ := mapped_of_placeOf place
  exact ⟨m, ⟨by decide, by decide, by decide, mapped, linkDown_allUp up _, fun _ _ => linkDown_allUp up _⟩, at'⟩

theorem not_sequencerArithmetic : ¬ Claim.SequencerArithmetic := by
  intro h
  obtain ⟨stands, ⟨sound, quiet⟩, up, free, loadable, storable, size, chunk, odd, address, large⟩ := oddNarrowing_ready
  obtain ⟨-, -, -, -, compresses, -⟩ := h oddNarrowing 0 0 0 0 0 0 0 0 rfl size (linkDown_allUp up) sound quiet
  obtain ⟨m, loads, source⟩ := oddNarrowing_reaches up loadable
  obtain ⟨m', stores, target⟩ := oddNarrowing_reaches up storable
  obtain ⟨_, out, _, -, ⟨format, -, elements, -⟩, -, -⟩ := compresses (atWord_of_standsAt stands) oneChunk m m' chunk rfl rfl (by beta_reduce; rw [address]; decide)
    (by beta_reduce; rw [address]; exact loads) (by beta_reduce; rw [address]; exact stores) (source.trans target.symm) (source ▸ free)
  have value := elements 0 size rfl
  rw [source] at value
  have small : bufElem out 0 < 256 := bufElem_byte (by rw [format, odd]; rfl) 0
  rw [value] at small
  exact large small

/-- Refutes O56 in its part on CMPR: into format code 3, which is no transport format, the sum 1 is narrowed to 0x3F800000, which is no element of 8 bits. -/
theorem not_sequencerWork : ¬ Obligations.SequencerWork := fun h => not_sequencerArithmetic h.1

end Sys2Proof.Machine

namespace Sys2Proof.Machine
/-! Partitions and the host: O59. -/

open Sys2Proof.Claim

/-! ## What agents other than harts read and write (R242, R322) -/

theorem agentMap_reached {s : State} {sp : Space} {k : AccessKind} {a : Word} {m : Mapped} (h : agentMap s sp k a = .ok m) : m.WalkReached s :=
  translate_reached (locate_translate h)

/-- The walk that an agent's access took moves caches and rows alone: an agent fills no TLB. -/
theorem noteWalk_agent_rows {s : State} (clean : NoUpset s) {m : Mapped} (reached : m.WalkReached s) : RowsMoved s (noteWalk s none m) := by
  unfold noteWalk
  split
  · exact .refl s
  · next e l walked _ => exact noteAll_entries_rows clean e.part (reached e l walked)
  · next none => exact nomatch none

theorem agentTouch_rows {s : State} (clean : NoUpset s) {m : Mapped} (reached : m.WalkReached s) (part : BitVec 3) {n : Nat} (up : ∀ k ∈ sectorsOf m.pa n, linkDown s k = false)
    (alloc : Bool) : RowsMoved s (agentTouch s part m n alloc) :=
  have walked := noteWalk_agent_rows clean reached
  walked.trans (touchAll_rows (walked.noUpset clean) part (fun k inside => (walked.linkDown k).trans (up k inside)) m.abench m.uc false alloc)

theorem mergeBytes_clean {s : State} (clean : NoUpset s) (pa : Nat) (bs : List Byte) :
    mergeBytes s pa bs = { s with mem := memPutAll s.mem pa bs, held := (mergeBytes s pa bs).held } := by
  have none : s.upsets.isEmpty = true := by rw [clean]; rfl
  unfold mergeBytes
  simp only [none, if_true, List.filter_nil, List.foldl_nil]

/-- Caches and rows have moved, and then the bytes `bs` have been written at `pa`. -/
def WrittenAt (s t : State) (pa : Nat) (bs : List Byte) : Prop :=
  ∃ u, RowsMoved s u ∧ t = { u with mem := memPutAll s.mem pa bs, held := t.held }

theorem agentWrite_written {s : State} (clean : NoUpset s) {m : Mapped} (reached : m.WalkReached s) (part : BitVec 3) {bs : List Byte} (up : LinkUp s m.pa bs.length)
    (free : Unheld s m.pa bs.length) (alloc : Bool) : WrittenAt s (agentWrite s part m bs alloc) m.pa bs := by
  have walked := noteWalk_agent_rows clean reached
  have rows := walked.trans (touchAll_rows (walked.noUpset clean) part (fun k inside => (walked.linkDown k).trans (up.2 k inside)) m.abench m.uc true alloc)
  unfold agentWrite
  generalize (sectorsOf m.pa bs.length).foldl (fun s k => touch s part k m.abench m.uc true alloc) (noteWalk s none m) = u at rows
  rw [homeWrite_eq ((rows.linkDown m.pa).trans up.1) (sameButRows_unheld rows.sameButRows free)]
  exact ⟨u, rows, sameButRows_mem rows.sameButRows ▸ mergeBytes_clean (rows.noUpset clean) m.pa bs⟩

theorem WrittenAt.mem {s t : State} {pa : Nat} {bs : List Byte} (w : WrittenAt s t pa bs) : t.mem = memPutAll s.mem pa bs := by
  obtain ⟨u, -, e⟩ := w
  rw [e]

theorem WrittenAt.get {s t : State} {pa : Nat} {bs : List Byte} (w : WrittenAt s t pa bs) (sound : Sound s) (b : Nat) :
    memGet t.mem b = if pa ≤ b ∧ b < pa + bs.length then (bs[b - pa]?).getD 0 else memGet s.mem b := by
  rw [w.mem, memGet_memPutAll sound]

theorem WrittenAt.sameButWrite {s t : State} {pa : Nat} {bs : List Byte} (w : WrittenAt s t pa bs) : SameButWrite t s := by
  obtain ⟨u, rows, e⟩ := w
  have moved : u = { s with l2 := u.l2, dram := u.dram, life := u.life } := rows
  rw [SameButWrite, e]
  exact congrArg (fun x : State => { x with mem := memPutAll s.mem pa bs, held := t.held }) moved

theorem WrittenAt.storedAt {s t : State} {pa n v : Nat} (w : WrittenAt s t pa (bytesOf n v)) (sound : Sound s) : StoredAt s t pa n v := by
  intro b
  rw [w.get sound, length_bytesOf]
  split
  · next i => rw [getElem?_bytesOf, if_pos (by omega), Option.getD_some]
  · rfl

open Sys2Proof.Claim

/-! ## Harts that enter a slot (R267, R271) -/

theorem find?_hartIns {l : List Hart} {h : Hart} (free : l.find? (fun g => g.id == h.id) = none) : (hartIns l h).find? (fun g => g.id == h.id) = some h := by
  induction l with
  | nil => exact List.find?_cons_of_pos (by simp)
  | cons g rest ih =>
    have other : ¬ g.id = h.id := fun e => by rw [List.find?_cons_of_pos (by simp [e])] at free; exact nomatch free
    rw [List.find?_cons_of_neg (by simpa using other)] at free
    unfold hartIns
    rw [if_neg (fun e => other e.symm)]
    split
    · exact List.find?_cons_of_pos (by simp)
    · rw [List.find?_cons_of_neg (by simpa using other)]
      exact ih free

theorem findHart_addHart {s : State} {h : Hart} (here : h.present = true) (free : s.findHart h.id = none) : (s.addHart h).findHart h.id = some h := by
  unfold State.addHart
  unfold State.findHart at free
  by_cases current : s.hart.present = true
  · rw [current, Bool.true_and] at free
    rw [if_pos current, State.findHart]
    split at free
    · exact nomatch free
    · next other => rw [current, Bool.true_and, if_neg other]; exact find?_hartIns free
  · rw [if_neg current, State.findHart, if_pos (by rw [here]; simp)]

theorem findHart_congr {s t : State} (hart : t.hart = s.hart) (others : t.others = s.others) (i : HartId) : t.findHart i = s.findHart i := by
  rw [State.findHart, hart, others, State.findHart]

/-- A slot's caches and queues forget its earlier hart: cores alone change. -/
theorem freshView_cores (i : HartId) (s : State) : freshView i s = { s with cores := (freshView i s).cores } := by
  unfold freshView
  dsimp only
  split <;> rfl

theorem addHart_harts (s : State) (h : Hart) : s.addHart h = { s with hart := (s.addHart h).hart, others := (s.addHart h).others } := by
  unfold State.addHart
  split <;> rfl

theorem State.setPart_setPart (s : State) (p : BitVec 3) (a b : Part) : (s.setPart p a).setPart p b = s.setPart p b := by
  simp [State.setPart]

theorem State.setPart_partn (s : State) (p : BitVec 3) : s.setPart p (s.partn p) = s := by
  simp [State.setPart, State.partn]

/-! ## Benches and contexts that are given out anew (R303, R371, R431) -/

/-- The bench stores of a partition. -/
def storeOf (q : Part) (a : Nat) : Bool := 0x100_0000_0000 ≤ a && a < 0x100_0600_0000 && q.hasBench ((a - 0x100_0000_0000) / 0x20_0000)

/-- A bench whose canopy and tiles no one holds. -/
def FreeBench (b : Bench) : Prop := b.canopyOwner = none ∧ ∀ i : Fin 4, b.tiles[i].owner = none

/-- A bench as a partition's start finds it. -/
def clearedBench (b : Bench) : Bench := { b.freeCanopy with tiles := b.tiles.map (fun t => { t with owner := none }) }

theorem clearedBench_free (b : Bench) : FreeBench (clearedBench b) := ⟨rfl, fun i => by simp [clearedBench]⟩

theorem memGet_filter (m : List Host.Cell) (p : Nat → Bool) (a : Nat) : memGet (m.filter (fun c => p c.1)) a = if p a then memGet m a else 0 := by
  induction m with
  | nil => simp [memGet]
  | cons c rest ih =>
    have head (l : List Host.Cell) : memGet (c :: l) a = if c.1 = a then c.2 else memGet l a := rfl
    rw [List.filter_cons, head]
    by_cases keep : p c.1 = true
    · rw [if_pos keep, head, ih]
      split
      · next same => rw [if_pos (same ▸ keep)]
      · rfl
    · rw [if_neg keep, ih]
      split
      · next kept => rw [if_neg (fun same : c.1 = a => keep (same ▸ kept))]
      · rfl

/-- Beside the benches nothing changes. -/
def OnlyBenches (s t : State) : Prop := t = { s with benches := t.benches }

theorem OnlyBenches.refl (s : State) : OnlyBenches s s := rfl

theorem OnlyBenches.trans {s t u : State} (h : OnlyBenches s t) (k : OnlyBenches t u) : OnlyBenches s u :=
  Eq.trans k (congrArg (fun x : State => { x with benches := u.benches }) (show t = { s with benches := t.benches } from h))

theorem OnlyBenches.foldl {α : Type} {f : State → α → State} (each : ∀ s a, OnlyBenches s (f s a)) (s : State) (l : List α) : OnlyBenches s (l.foldl f s) := by
  induction l generalizing s with
  | nil => exact .refl s
  | cons a rest ih => exact (each s a).trans (ih (f s a))

/-- One bench of `clearBenches`. -/
def clearBench (q : Part) (s : State) (b : Nat) : State := if q.hasBench b then s.setBench b (clearedBench (s.bench b)) else s

theorem clearBench_only (q : Part) (s : State) (b : Nat) : OnlyBenches s (clearBench q s b) := by
  unfold clearBench
  split
  · rfl
  · exact .refl s

theorem clearBench_free {q : Part} {s : State} {n : Nat} (b : Nat) (mine : q.hasBench n = true) (before : n = b ∨ FreeBench (s.bench n)) : FreeBench ((clearBench q s b).bench n) := by
  unfold clearBench
  by_cases same : n = b
  · subst same
    rw [if_pos mine, State.bench_setBench]
    exact clearedBench_free _
  · have free := before.resolve_left same
    split
    · rwa [State.bench_setBench_ne _ same]
    · exact free

theorem clearBench_foldl_free {q : Part} {n : Nat} (mine : q.hasBench n = true) (l : List Nat) (s : State) (before : n ∈ l ∨ FreeBench (s.bench n)) :
    FreeBench ((l.foldl (clearBench q) s).bench n) := by
  induction l generalizing s with
  | nil => exact before.resolve_left List.not_mem_nil
  | cons b rest ih =>
    refine ih _ ?_
    by_cases later : n ∈ rest
    · exact .inl later
    · refine .inr (clearBench_free b mine ?_)
      rcases before with inside | free
      · exact .inl ((List.mem_cons.1 inside).resolve_right later)
      · exact .inr free

theorem tget_absent {α : Type} (d : α) {t : Table α} {k : Nat} (absent : k ∉ t.map Prod.fst) : tget d t k = d := by
  induction t with
  | nil => rfl
  | cons e rest ih =>
    obtain ⟨out, later⟩ := not_or.1 (fun inside => absent (List.mem_cons.2 inside))
    unfold tget
    rw [if_neg (fun e => out e.symm)]
    exact ih later

/-- The state with the bench stores of a partition empty. -/
def emptyStores (q : Part) (s : State) : State :=
  { s with mem := s.mem.filter (fun c => !storeOf q c.1), poison := s.poison.filter (fun a => !storeOf q a), upsets := s.upsets.filter (fun u => !storeOf q u.1) }

theorem clearBenches_eq (p : BitVec 3) (s : State) : clearBenches p s = s.benchKeys.foldl (clearBench (s.partn p)) (emptyStores (s.partn p) s) := rfl

theorem clearBenches_only (p : BitVec 3) (s : State) : OnlyBenches (emptyStores (s.partn p) s) (clearBenches p s) := .foldl (clearBench_only _) _ _

theorem clearBenches_free {p : BitVec 3} {s : State} {n : Nat} (mine : (s.partn p).hasBench n = true) : FreeBench ((clearBenches p s).bench n) := by
  refine clearBench_foldl_free mine s.benchKeys _ ?_
  by_cases inside : n ∈ s.benchKeys
  · exact .inl inside
  · refine .inr ?_
    have unused : s.bench n = Bench.init := tget_absent _ inside
    show FreeBench (s.bench n)
    rw [unused]
    exact ⟨rfl, by decide⟩

theorem clearBenches_mem (p : BitVec 3) (s : State) : (clearBenches p s).mem = s.mem.filter (fun c => !storeOf (s.partn p) c.1) := by
  rw [clearBenches_only p s]
  rfl

/-- Beside the contexts and what they await nothing changes. -/
def OnlyContexts (s t : State) : Prop := t = { s with ctxs := t.ctxs, awaits := t.awaits }

theorem OnlyContexts.refl (s : State) : OnlyContexts s s := rfl

theorem OnlyContexts.trans {s t u : State} (h : OnlyContexts s t) (k : OnlyContexts t u) : OnlyContexts s u :=
  Eq.trans k (congrArg (fun x : State => { x with ctxs := u.ctxs, awaits := u.awaits }) (show t = { s with ctxs := t.ctxs, awaits := t.awaits } from h))

theorem OnlyContexts.partn {s t : State} (h : OnlyContexts s t) (p : BitVec 3) : t.partn p = s.partn p := by
  rw [h]
  rfl

/-- One context is replaced, and beside what it awaits nothing else changes. -/
def OneContext (k : Nat) (g : Ctx → Ctx) (s t : State) : Prop :=
  OnlyContexts s t ∧ t.ctx k = g (s.ctx k) ∧ ∀ j, j ≠ k → t.ctx j = s.ctx j

/-- A step over distinct contexts, each replaced by itself. -/
theorem foldl_contexts {f : State → Nat → State} {g : Nat → Ctx → Ctx} {s : State} (each : ∀ t, OnlyContexts s t → ∀ k, OneContext k (g k) t (f t k)) {l : List Nat} (once : l.Nodup) :
    OnlyContexts s (l.foldl f s) ∧ ∀ k, (l.foldl f s).ctx k = if k ∈ l then g k (s.ctx k) else s.ctx k := by
  suffices all : ∀ (l : List Nat) t, l.Nodup → OnlyContexts s t → OnlyContexts s (l.foldl f t) ∧ ∀ k, (l.foldl f t).ctx k = if k ∈ l then g k (t.ctx k) else t.ctx k from
    all l s once (.refl s)
  intro l
  induction l with
  | nil => exact fun t _ moved => ⟨moved, fun k => by simp⟩
  | cons a rest ih =>
    intro t distinct moved
    obtain ⟨fresh, distinct⟩ := List.nodup_cons.1 distinct
    obtain ⟨kept, here, elsewhere⟩ := each t moved a
    obtain ⟨moved, values⟩ := ih _ distinct (moved.trans kept)
    refine ⟨moved, fun k => ?_⟩
    rw [List.foldl_cons, values]
    by_cases same : k = a
    · subst same
      rw [if_neg fresh, if_pos List.mem_cons_self, here]
    · rw [elsewhere k same]
      simp [same]

/-- A context after HELD and PART are written as a partition's SEQ names them. -/
def heldContext (p : BitVec 3) (seq : BitVec 32) (k : Nat) (c : Ctx) : Ctx :=
  if seq.getLsbD k then { c with held := true, part := p, chans := Vector.replicate 8 [], slots := [] }
  else if c.held && c.part == p then { c with held := false, chans := Vector.replicate 8 [], slots := [] } else c

theorem oneContext_setCtx (s : State) (k : Nat) (g : Ctx → Ctx) : OneContext k g s (s.setCtx k (g (s.ctx k))) :=
  ⟨rfl, State.ctx_setCtx _ _ _, fun _ other => State.ctx_setCtx_ne _ other _⟩

theorem oneContext_id {s : State} {k : Nat} {g : Ctx → Ctx} (same : g (s.ctx k) = s.ctx k) : OneContext k g s s := ⟨.refl s, same.symm, fun _ _ => rfl⟩

theorem holdContexts_spec (p : BitVec 3) (s : State) :
    OnlyContexts s (holdContexts p s) ∧ ∀ k, (holdContexts p s).ctx k = if k ∈ List.range 32 then heldContext p (s.partn p).seq k (s.ctx k) else s.ctx k := by
  refine foldl_contexts (fun t moved k => ?_) List.nodup_range
  dsimp only
  rw [moved.partn p]
  by_cases named : (s.partn p).seq.getLsbD k = true
  · have value : heldContext p (s.partn p).seq k (t.ctx k) = _ := if_pos named
    rw [if_pos named, ← value]
    exact oneContext_setCtx t k _
  · rw [if_neg named]
    have value : heldContext p (s.partn p).seq k (t.ctx k) = _ := if_neg named
    split
    · next mine =>
      rw [if_pos mine] at value
      rw [← value]
      exact oneContext_setCtx t k _
    · next other =>
      rw [if_neg other] at value
      exact oneContext_id value

open Sys2Proof.Claim

/-! ## Harts that a reset takes away (R434) -/

/-- A hart as it was, or woken from its wait in its bench's queue. -/
def Woken (h g : Hart) : Prop := g = h ∨ (h.run = .asleep .matrix ∧ g = { h with run := .ready })

theorem Woken.refl (h : Hart) : Woken h h := .inl rfl

theorem Woken.id {h g : Hart} (w : Woken h g) : g.id = h.id := by
  rcases w with rfl | ⟨-, rfl⟩ <;> rfl

theorem Woken.part {h g : Hart} (w : Woken h g) : g.part = h.part := by
  rcases w with rfl | ⟨-, rfl⟩ <;> rfl

theorem Woken.present {h g : Hart} (w : Woken h g) : g.present = h.present := by
  rcases w with rfl | ⟨asleep, rfl⟩
  · rfl
  · unfold Hart.present
    rw [asleep]
    rfl

theorem Woken.trans {h g f : Hart} (w : Woken h g) (v : Woken g f) : Woken h f := by
  rcases w with rfl | ⟨asleep, rfl⟩
  · exact v
  · rcases v with rfl | ⟨asleep', -⟩
    · exact .inr ⟨asleep, rfl⟩
    · exact nomatch asleep'

/-- Beside the harts, the benches and the posted stores nothing changes. -/
def OnlyHarts (s t : State) : Prop := t = { s with hart := t.hart, others := t.others, benches := t.benches, posted := t.posted }

theorem OnlyHarts.refl (s : State) : OnlyHarts s s := rfl

theorem OnlyHarts.trans {s t u : State} (h : OnlyHarts s t) (k : OnlyHarts t u) : OnlyHarts s u :=
  Eq.trans k (congrArg (fun x : State => { x with hart := u.hart, others := u.others, benches := u.benches, posted := u.posted })
    (show t = { s with hart := t.hart, others := t.others, benches := t.benches, posted := t.posted } from h))

theorem OnlyBenches.onlyHarts {s t : State} (h : OnlyBenches s t) : OnlyHarts s t := by
  unfold OnlyBenches at h
  generalize t.benches = b at h
  subst h
  rfl

theorem OnlyBenches.harts {s t : State} (h : OnlyBenches s t) : t.harts = s.harts := by
  rw [h]
  rfl

/-- No two resident harts have one identity. -/
def Distinct (s : State) : Prop := s.harts.Pairwise (fun g h => g.id ≠ h.id)

/-- Of the harts those that `keep` names stay, some of them woken; beside harts, benches and posted stores nothing changes. -/
def Leave (keep : HartId → Bool) (s t : State) : Prop :=
  OnlyHarts s t ∧ ∃ wake : Hart → Hart, (∀ h, Woken h (wake h)) ∧ t.harts = (s.harts.filter (fun h => keep h.id)).map wake

theorem Leave.of_benches {s t : State} (h : OnlyBenches s t) : Leave (fun _ => true) s t :=
  ⟨h.onlyHarts, fun h => h, .refl, by rw [h.harts, List.map_id', List.filter_true]⟩

theorem Leave.distinct {keep : HartId → Bool} {s t : State} (l : Leave keep s t) (d : Distinct s) : Distinct t := by
  obtain ⟨-, wake, woken, harts⟩ := l
  rw [Distinct, harts, List.pairwise_map]
  exact (d.filter _).imp fun other => by rwa [(woken _).id, (woken _).id]

theorem Leave.trans {k j : HartId → Bool} {s t u : State} (l : Leave k s t) (m : Leave j t u) : Leave (fun i => k i && j i) s u := by
  obtain ⟨only, wake, woken, harts⟩ := l
  obtain ⟨only', wake', woken', harts'⟩ := m
  refine ⟨only.trans only', wake' ∘ wake, fun h => (woken h).trans (woken' _), ?_⟩
  rw [harts', harts, List.filter_map, List.map_map, List.filter_filter]
  refine congrArg _ (List.filter_congr fun h _ => ?_)
  rw [Function.comp_apply, (woken h).id, Bool.and_comm]

theorem Distinct.others {s : State} (d : Distinct s) (here : s.hart.present = true) {g : Hart} (other : g ∈ s.others) : g.id ≠ s.hart.id := by
  unfold Distinct State.harts at d
  rw [if_pos here] at d
  exact ((List.pairwise_cons.1 d).1 g other).symm

/-- Changing a hart by its identity changes it wherever it stands. -/
theorem updHart_harts {s : State} (d : Distinct s) (i : HartId) {f : Hart → Hart} (woken : ∀ h, Woken h (f h)) :
    (s.updHart i f).harts = s.harts.map (fun h => if h.id = i then f h else h) := by
  unfold State.updHart State.harts
  split
  · next here =>
    obtain ⟨present, same⟩ := Bool.and_eq_true_iff.1 here
    have same : s.hart.id = i := eq_of_beq same
    have apart : s.others.map (fun h => if h.id = i then f h else h) = s.others := by
      rw [List.map_congr_left (g := fun h => h) (fun g other => if_neg (same ▸ d.others present other)), List.map_id']
    rw [State.withHart, (woken s.hart).present, present, if_pos rfl, if_pos rfl, List.map_append, apart, List.map_cons, if_pos same]
    rfl
  · next away =>
    have others : s.others.map (fun h => if (h.id == i) = true then f h else h) = s.others.map (fun h => if h.id = i then f h else h) :=
      List.map_congr_left fun h _ => if_congr beq_iff_eq rfl rfl
    dsimp only
    rw [List.map_append, others]
    by_cases present : s.hart.present = true
    · have apart : ¬ s.hart.id = i := fun same => away (by rw [present, same]; simp)
      rw [if_pos present, List.map_cons, if_neg apart]
      rfl
    · rw [if_neg present]
      rfl

theorem Leave.updHart {s : State} (d : Distinct s) (i : HartId) {f : Hart → Hart} (woken : ∀ h, Woken h (f h)) : Leave (fun _ => true) s (s.updHart i f) := by
  refine ⟨?_, fun h => if h.id = i then f h else h, fun h => ?_, by rw [updHart_harts d i woken, List.filter_true]⟩
  · unfold State.updHart
    split <;> rfl
  · dsimp only
    split
    · exact woken h
    · exact .refl h

theorem Leave.all_trans {j : HartId → Bool} {s t u : State} (l : Leave (fun _ => true) s t) (m : Leave j t u) : Leave j s u := by
  have both := l.trans m
  simpa only [Bool.true_and] using both

theorem wakeHead_leave {s : State} (d : Distinct s) (bench : Nat) : Leave (fun _ => true) s (wakeHead bench s) := by
  unfold wakeHead
  split
  · exact .of_benches (.refl s)
  · refine .updHart d _ fun h => ?_
    split
    · next asleep => exact .inr ⟨eq_of_beq asleep, rfl⟩
    · exact .refl h

theorem freeTiles_only (i : HartId) (s : State) : OnlyBenches s (freeTiles i s) := by
  unfold freeTiles
  dsimp only
  split <;> rfl

theorem dropPosts_leave {s : State} (d : Distinct s) (i : HartId) : Leave (fun _ => true) s (dropPosts i s) := by
  unfold dropPosts
  dsimp only
  split
  · exact .of_benches (.refl s)
  · have emptied (b : Bench) : Leave (fun _ => true) s (s.setBench (benchOf i) b) := .of_benches rfl
    exact (emptied _).all_trans (wakeHead_leave ((emptied _).distinct d) _)

/-- One hart is taken away, and what it holds of its bench. -/
theorem removeHart_leave {s : State} (d : Distinct s) (i : HartId) : Leave (· != i) s (removeHart i s) := by
  have tiles : Leave (fun _ => true) s (freeTiles i s) := .of_benches (freeTiles_only i s)
  have posts := tiles.all_trans (dropPosts_leave (tiles.distinct d) i)
  have posted : Leave (fun _ => true) s (setPosted (dropPosts i (freeTiles i s)) i.toNat []) := ⟨posts.1.trans rfl, posts.2⟩
  have d := posted.distinct d
  refine posted.all_trans ?_
  unfold removeHart
  dsimp only
  generalize setPosted (dropPosts i (freeTiles i s)) i.toNat [] = t at d
  split
  · next here =>
    obtain ⟨present, same⟩ := Bool.and_eq_true_iff.1 here
    have same : t.hart.id = i := eq_of_beq same
    refine ⟨rfl, fun h => h, .refl, ?_⟩
    have keeps : t.others.filter (fun h => h.id != i) = t.others := List.filter_eq_self.2 fun g other => bne_iff_ne.2 (same ▸ d.others present other)
    rw [List.map_id', State.harts, State.harts, if_pos present, List.filter_append, keeps, List.filter_cons_of_neg (by simp [same])]
    rfl
  · next away =>
    refine ⟨rfl, fun h => h, .refl, ?_⟩
    rw [List.map_id', State.harts, State.harts, List.filter_append]
    dsimp only
    by_cases present : t.hart.present = true
    · have apart : ¬ t.hart.id = i := fun same => away (by rw [present, same]; simp)
      rw [if_pos present, List.filter_cons_of_pos (by simpa using apart)]
      rfl
    · rw [if_neg present]
      rfl

theorem removeHarts_leave (l : List Hart) {s : State} (d : Distinct s) : Leave (fun i => !(l.map (·.id)).contains i) s (l.foldl (fun s h => removeHart h.id s) s) := by
  induction l generalizing s with
  | nil => exact .of_benches (.refl s)
  | cons h rest ih =>
    have one := removeHart_leave d h.id
    have both := one.trans (ih (one.distinct d))
    have same : (fun i : HartId => (i != h.id) && !(rest.map (·.id)).contains i) = fun i => !((h :: rest).map (·.id)).contains i := by
      funext i
      rw [List.map_cons, List.contains_cons, Bool.not_or]
      rfl
    rwa [same] at both

theorem freeCanopies_only (n : BitVec 16) (s : State) : OnlyBenches s (freeCanopies n s) := by
  refine .foldl (fun s b => ?_) s s.benchKeys
  split
  · rfl
  · exact .refl s

/-! ## A partition's reset (R434) -/

/-- The harts and the farms of a partition go, and what they hold of their benches. -/
def evacuated (p : BitVec 3) (s : State) : State :=
  let nums := (s.farms.filter (fun f => f.rcd.part == p)).map (·.num) ++ (s.harts.filter (fun h => h.part == p)).map (·.farm)
  let u := nums.foldl (fun s n => freeCanopies n s) ((s.harts.filter (fun h => h.part == p)).foldl (fun s h => removeHart h.id s) s)
  { u with farms := u.farms.filter (fun f => f.rcd.part != p) }

/-- The windows of a partition are shut. -/
def shutWindows (p : BitVec 3) (s : State) : State :=
  { s with fabric := { s.fabric with windows := s.fabric.windows.map (fun w => if w.1 / 256 == p.toNat then (w.1, { w.2 with ctl := setBit w.2.ctl 0 false }) else w) } }

/-- What a reset has done when its partition's state changes. -/
def swept (p : BitVec 3) (s : State) : State := clearBenches p (shutWindows p (stopContexts p (dropRecords p (evacuated p s))))

/-- A partition as the begin of a reset leaves it. -/
def Part.resetting (q : Part) : Part :=
  { q with st := 3, pending := [], tcmp := 0, suspTime := none, suspTaken := false, bureauSaved := none, bureauTiles := [], bureauCanopies := [], noVictim := false, blocks := [] }

theorem beginReset_eq {p : BitVec 3} {s : State} (up : (s.partn p).st ≠ 3) :
    beginReset p s = ((swept p s).setPart p ((swept p s).partn p).resetting).sendMsix 0 2 := by
  rw [beginReset, if_neg (by simpa using up)]
  extract_lets nums removed freed stopped ports shut cleared part
  have first : stopped = stopContexts p (dropRecords p (evacuated p s)) := rfl
  clear_value stopped
  have second : shut = shutWindows p stopped := rfl
  clear_value shut
  have last : cleared = swept p s := by rw [swept, ← first, ← second]
  rw [← last]
  rfl

theorem evacuated_harts {p : BitVec 3} {s : State} (d : Distinct s) :
    ∃ wake : Hart → Hart, (∀ h, Woken h (wake h)) ∧ (evacuated p s).harts = (s.harts.filter (fun h => h.part != p)).map wake := by
  have left := removeHarts_leave (s.harts.filter (fun h => h.part == p)) d
  have freed : Leave (fun _ => true) _ _ := .of_benches (OnlyBenches.foldl (fun s n => freeCanopies_only n s)
    ((s.harts.filter (fun h => h.part == p)).foldl (fun s h => removeHart h.id s) s)
    ((s.farms.filter (fun f => f.rcd.part == p)).map (·.num) ++ (s.harts.filter (fun h => h.part == p)).map (·.farm)))
  obtain ⟨-, wake, woken, harts⟩ := left.trans freed
  refine ⟨wake, woken, harts.trans (congrArg _ (List.filter_congr fun h here => ?_))⟩
  dsimp only
  rw [Bool.and_true, bne]
  refine congrArg _ (Bool.eq_iff_iff.2 ⟨fun inside => ?_, fun mine => ?_⟩)
  · obtain ⟨g, listed, same⟩ := List.mem_map.1 (List.contains_iff_mem.1 inside)
    obtain ⟨there, mine⟩ := List.mem_filter.1 listed
    have one : g = h := List.inj_on_of_nodup_map (List.pairwise_map.2 d) there here same
    exact one ▸ mine
  · exact List.contains_iff_mem.2 (List.mem_map.2 ⟨h, List.mem_filter.2 ⟨here, mine⟩, rfl⟩)

theorem evacuated_only {p : BitVec 3} {s : State} (d : Distinct s) :
    ∃ h o b q, evacuated p s = { s with hart := h, others := o, benches := b, posted := q, farms := s.farms.filter (fun f => f.rcd.part != p) } := by
  have left := removeHarts_leave (s.harts.filter (fun h => h.part == p)) d
  have freed : Leave (fun _ => true) _ _ := .of_benches (OnlyBenches.foldl (fun s n => freeCanopies_only n s)
    ((s.harts.filter (fun h => h.part == p)).foldl (fun s h => removeHart h.id s) s)
    ((s.farms.filter (fun f => f.rcd.part == p)).map (·.num) ++ (s.harts.filter (fun h => h.part == p)).map (·.farm)))
  have only := (left.trans freed).1
  unfold evacuated
  dsimp only
  rw [only]
  exact ⟨_, _, _, _, rfl⟩

open Sys2Proof.Claim

/-! ## What a reset has swept away (R434) -/

/-- A context of the partition stops. -/
def stopIf (p : BitVec 3) (c : Ctx) : Ctx := if c.held && c.part == p then c.stopped else c

theorem stopContexts_spec (p : BitVec 3) (s : State) :
    OnlyContexts s (stopContexts p s) ∧ ∀ k, (stopContexts p s).ctx k = if k ∈ List.range 32 then stopIf p (s.ctx k) else s.ctx k := by
  refine foldl_contexts (g := fun _ => stopIf p) (fun t _ k => ?_) List.nodup_range
  by_cases mine : ((t.ctx k).held && (t.ctx k).part == p) = true
  · have value : stopIf p (t.ctx k) = (t.ctx k).stopped := if_pos mine
    have one := oneContext_setCtx t k (stopIf p)
    rw [value] at one
    rw [if_pos mine]
    exact ⟨rfl, one.2⟩
  · rw [if_neg mine]
    exact oneContext_id (if_neg mine)

/-- A context whose record to start by was the partition's has none. -/
def dropStart (p : BitVec 3) (c : Ctx) : Ctx := if c.starting.any (fun r => r.space.part == p) then { c with starting := none } else c

theorem dropStart_held (p : BitVec 3) (c : Ctx) : (dropStart p c).held = c.held ∧ (dropStart p c).part = c.part := by
  unfold dropStart
  split <;> exact ⟨rfl, rfl⟩

theorem dropRecords_ctx (p : BitVec 3) (s : State) (k : Nat) : (dropRecords p s).ctx k = dropStart p (s.ctx k) :=
  tget_map (fun _ => dropStart p) (fun _ => rfl) s.ctxs k

theorem OnlyContexts.harts {s t : State} (h : OnlyContexts s t) : t.harts = s.harts := by
  rw [h]
  rfl

section
variable (p : BitVec 3) (s : State)

theorem stopContexts_parts : (stopContexts p s).parts = s.parts := by rw [(stopContexts_spec p s).1]
theorem stopContexts_links : (stopContexts p s).links = s.links := by rw [(stopContexts_spec p s).1]
theorem stopContexts_farms : (stopContexts p s).farms = s.farms := by rw [(stopContexts_spec p s).1]
theorem stopContexts_engines : (stopContexts p s).engines = s.engines := by rw [(stopContexts_spec p s).1]
theorem stopContexts_mem : (stopContexts p s).mem = s.mem := by rw [(stopContexts_spec p s).1]
theorem stopContexts_fabric : (stopContexts p s).fabric = s.fabric := by rw [(stopContexts_spec p s).1]
theorem stopContexts_harts : (stopContexts p s).harts = s.harts := (stopContexts_spec p s).1.harts

theorem cleared_eq : clearBenches p (shutWindows p s) = { emptyStores (s.partn p) (shutWindows p s) with benches := (clearBenches p (shutWindows p s)).benches } :=
  clearBenches_only p (shutWindows p s)

theorem cleared_parts : (clearBenches p (shutWindows p s)).parts = s.parts := (congrArg State.parts (cleared_eq p s)).trans rfl
theorem cleared_links : (clearBenches p (shutWindows p s)).links = s.links := (congrArg State.links (cleared_eq p s)).trans rfl
theorem cleared_farms : (clearBenches p (shutWindows p s)).farms = s.farms := (congrArg State.farms (cleared_eq p s)).trans rfl
theorem cleared_engines : (clearBenches p (shutWindows p s)).engines = s.engines := (congrArg State.engines (cleared_eq p s)).trans rfl
theorem cleared_harts : (clearBenches p (shutWindows p s)).harts = s.harts := (congrArg State.harts (cleared_eq p s)).trans rfl
theorem cleared_ctx (k : Nat) : (clearBenches p (shutWindows p s)).ctx k = s.ctx k := (congrArg (State.ctx · k) (cleared_eq p s)).trans rfl
theorem cleared_windows : (clearBenches p (shutWindows p s)).fabric.windows = (shutWindows p s).fabric.windows := (congrArg (fun x : State => x.fabric.windows) (cleared_eq p s)).trans rfl
theorem cleared_mem : (clearBenches p (shutWindows p s)).mem = s.mem.filter (fun c => !storeOf (s.partn p) c.1) := (congrArg State.mem (cleared_eq p s)).trans rfl

end

section
variable {p : BitVec 3} {s : State}

theorem swept_parts (d : Distinct s) : (swept p s).parts = s.parts := by
  obtain ⟨h, o, b, q, e⟩ := evacuated_only (p := p) d
  rw [swept, cleared_parts, stopContexts_parts, e]
  rfl

theorem swept_partn (d : Distinct s) (j : BitVec 3) : (swept p s).partn j = s.partn j := by
  rw [State.partn, swept_parts d]
  rfl

theorem swept_links (d : Distinct s) : (swept p s).links = s.links := by
  obtain ⟨h, o, b, q, e⟩ := evacuated_only (p := p) d
  rw [swept, cleared_links, stopContexts_links, e]
  rfl

theorem swept_farms (d : Distinct s) : (swept p s).farms = s.farms.filter (fun f => f.rcd.part != p) := by
  obtain ⟨h, o, b, q, e⟩ := evacuated_only (p := p) d
  rw [swept, cleared_farms, stopContexts_farms, e]
  rfl

theorem swept_engines (d : Distinct s) : (swept p s).engines = s.engines.map (fun e => (e.1, e.2.filter (fun c => !(c.space.part == p)))) := by
  obtain ⟨h, o, b, q, e⟩ := evacuated_only (p := p) d
  rw [swept, cleared_engines, stopContexts_engines, e]
  rfl

theorem swept_harts : (swept p s).harts = (evacuated p s).harts := by
  rw [swept, cleared_harts, stopContexts_harts]
  rfl

theorem swept_mem (d : Distinct s) : (swept p s).mem = s.mem.filter (fun c => !storeOf (s.partn p) c.1) := by
  obtain ⟨h, o, b, q, e⟩ := evacuated_only (p := p) d
  rw [swept, cleared_mem, stopContexts_mem, State.partn, stopContexts_parts, e]
  rfl

theorem swept_windows (d : Distinct s) : (swept p s).fabric.windows = (shutWindows p s).fabric.windows := by
  obtain ⟨h, o, b, q, e⟩ := evacuated_only (p := p) d
  rw [swept, cleared_windows, shutWindows, stopContexts_fabric, e]
  rfl

theorem swept_ctx (d : Distinct s) {k : Nat} (real : k < 32) : (swept p s).ctx k = stopIf p (dropStart p (s.ctx k)) := by
  obtain ⟨h, o, b, q, e⟩ := evacuated_only (p := p) d
  rw [swept, cleared_ctx, (stopContexts_spec p _).2, if_pos (List.mem_range.2 real), dropRecords_ctx, e]
  rfl

/-- An entry of the window table as a reset of partition `p` leaves it. -/
def shutWindow (p : BitVec 3) (k : Nat) (w : Window) : Window := if k / 256 == p.toNat then { w with ctl := setBit w.ctl 0 false } else w

theorem swept_windowOf (d : Distinct s) (j : BitVec 3) (w : BitVec 8) : windowOf (swept p s) j w = shutWindow p (j.toNat * 256 + w.toNat) (windowOf s j w) := by
  have each (e : Nat × Window) : (if e.1 / 256 == p.toNat then (e.1, { e.2 with ctl := setBit e.2.ctl 0 false }) else e) = (e.1, shutWindow p e.1 e.2) := by
    unfold shutWindow
    split <;> rfl
  have unset (k : Nat) : shutWindow p k Window.init = Window.init := by
    unfold shutWindow
    split <;> rfl
  rw [windowOf, swept_windows d, shutWindows, List.map_congr_left fun e _ => each e, tget_map (shutWindow p) unset]
  rfl

end

open Sys2Proof.Claim

/-! ## A partition's start (R267, R431) -/

/-- The bureau hart of a partition as it starts. -/
def bureauHart (p : BitVec 3) (v : State) : Hart :=
  { startHart v (bureauPlace v p) (newNumber v) p 1 (v.partn p).bentry (v.partn p).cmdbase (v.partn p).btrap ((v.partn p).bptbase &&& 0x000F_FFFF_FFE0_0001) 0 with bureau := true }

/-- The state with the bureau hart in its slot. -/
def manned (p : BitVec 3) (v : State) : State := freshView (bureauPlace v p) (({ v with fresh := v.fresh + 1 } : State).addHart (bureauHart p v))

/-- The partition runs, and its configuration is measured. -/
def running (p : BitVec 3) (config : List Byte) (u : State) : State := (extendMeasure 3 config (u.setPart p { u.partn p with st := 1 })).sendMsix 0 2

/-- The partition runs with its bureau hart. -/
def launched (p : BitVec 3) (v : State) : State := running p (configBytes (v.partn p)) (manned p v)

/-- A partition that is let start, before its bureau hart is there. -/
def prepared (p : BitVec 3) (s : State) : State := holdContexts p (clearBenches p (s.setPart p { s.partn p with en := true, err := 0 }))

theorem startPartition_refused {p : BitVec 3} {s : State} (bad : configError s p ≠ 0) :
    startPartition p s = s.setPart p { s.partn p with en := false, st := 0, err := BitVec.ofNat 4 (configError s p) } := by
  unfold startPartition
  dsimp only
  rw [if_pos bad]

theorem startPartition_runs {p : BitVec 3} {s : State} (ok : configError s p = 0) : startPartition p s = launched p (prepared p s) := by
  unfold startPartition
  extract_lets e q0 u0 u1 q i h0 h u2
  rw [if_neg (by simpa using ok)]
  have first : u1 = prepared p s := rfl
  clear_value u1
  subst first
  rfl

section
variable (p : BitVec 3) (v : State)

theorem manned_eq : manned p v = { v with fresh := v.fresh + 1, hart := (manned p v).hart, others := (manned p v).others, cores := (manned p v).cores } := by
  unfold manned
  generalize bureauPlace v p = i, bureauHart p v = h
  rw [freshView_cores, addHart_harts]

theorem manned_partn (j : BitVec 3) : (manned p v).partn j = v.partn j := by
  rw [manned_eq]
  rfl

theorem running_partn (c : List Byte) (u : State) : (running p c u).partn p = { u.partn p with st := 1 } := State.partn_setPart u p _

theorem running_findHart (c : List Byte) (u : State) (i : HartId) : (running p c u).findHart i = u.findHart i := findHart_congr rfl rfl i

theorem launched_partn : (launched p v).partn p = { v.partn p with st := 1 } := by rw [launched, running_partn, manned_partn]

theorem launched_partn_ne {j : BitVec 3} (other : j ≠ p) : (launched p v).partn j = v.partn j :=
  (State.partn_setPart_ne (manned p v) other _).trans (manned_partn p v j)

theorem running_ctx (c : List Byte) (u : State) (k : Nat) : (running p c u).ctx k = u.ctx k := rfl
theorem running_bench (c : List Byte) (u : State) (n : Nat) : (running p c u).bench n = u.bench n := rfl
theorem running_mem (c : List Byte) (u : State) : (running p c u).mem = u.mem := rfl
theorem running_msix (c : List Byte) (u : State) : (running p c u).links.msix = u.links.msix ++ [(0, 2)] := rfl

theorem launched_ctx (k : Nat) : (launched p v).ctx k = v.ctx k := by
  rw [launched, running_ctx, manned_eq]
  rfl

theorem launched_bench (n : Nat) : (launched p v).bench n = v.bench n := by
  rw [launched, running_bench, manned_eq]
  rfl

theorem launched_mem : (launched p v).mem = v.mem := by rw [launched, running_mem, manned_eq]

theorem launched_msix : (launched p v).links.msix = v.links.msix ++ [(0, 2)] := by rw [launched, running_msix, manned_eq]

theorem bureauHart_id : (bureauHart p v).id = bureauPlace v p := rfl

theorem launched_bureau (free : v.findHart (bureauPlace v p) = none) : (launched p v).findHart (bureauPlace v p) = some (bureauHart p v) := by
  have cores := freshView_cores (bureauPlace v p) (({ v with fresh := v.fresh + 1 } : State).addHart (bureauHart p v))
  have put : (manned p v).findHart (bureauPlace v p) = (({ v with fresh := v.fresh + 1 } : State).addHart (bureauHart p v)).findHart (bureauPlace v p) :=
    findHart_congr ((congrArg State.hart cores).trans rfl) ((congrArg State.others cores).trans rfl) _
  have there := findHart_addHart (s := { v with fresh := v.fresh + 1 }) (h := bureauHart p v) rfl free
  rw [launched, running_findHart]
  exact put.trans there

theorem bureauHart_prv : (bureauHart p v).prv = 1 := by
  have level (b : Bool) : ((setBit (setBit (setField 0x8 0 2 1) 2 (1#2 != 0)) 4 b).extractLsb' 0 2).toNat = 1 := by revert b; decide
  exact level v.boot.refMode

theorem bureauHart_argument : (bureauHart p v).getX 3 = (v.partn p).cmdbase := rfl

theorem bureauHart_zero {r : Reg} (other : r ≠ 3) : (bureauHart p v).getX r = 0 := by
  have init : ∀ (i : Nat) (h : i < 32), Hart.init.x[i] = 0 := fun i h => by simp [Hart.init]
  unfold Hart.getX
  split
  · rfl
  · have apart : 3 ≠ r.toNat := fun e => other (BitVec.eq_of_toNat_eq e.symm)
    exact (Vector.getElem_set_ne (by decide) _ apart).trans (init _ _)

end

section
variable {p : BitVec 3} {s : State}

/-- The state whose partition is enabled, before its benches are cleared. -/
def enabled (p : BitVec 3) (s : State) : State := s.setPart p { s.partn p with en := true, err := 0 }

theorem enabled_partn : (enabled p s).partn p = { s.partn p with en := true, err := 0 } := State.partn_setPart _ _ _

theorem prepared_eq : prepared p s = { clearBenches p (enabled p s) with ctxs := (prepared p s).ctxs, awaits := (prepared p s).awaits } :=
  (holdContexts_spec p (clearBenches p (enabled p s))).1

theorem opened_eq : clearBenches p (enabled p s) = { emptyStores ((enabled p s).partn p) (enabled p s) with benches := (clearBenches p (enabled p s)).benches } :=
  clearBenches_only p (enabled p s)

theorem opened_partn (j : BitVec 3) : (clearBenches p (enabled p s)).partn j = (enabled p s).partn j := (congrArg (State.partn · j) opened_eq).trans rfl

theorem prepared_partn (j : BitVec 3) : (prepared p s).partn j = (enabled p s).partn j :=
  ((holdContexts_spec p (clearBenches p (enabled p s))).1.partn j).trans (opened_partn j)

theorem prepared_mem : (prepared p s).mem = s.mem.filter (fun c => !storeOf (s.partn p) c.1) := by
  rw [prepared_eq]
  dsimp only
  rw [clearBenches_mem, enabled_partn]
  rfl

theorem prepared_links : (prepared p s).links = s.links := by
  rw [prepared_eq]
  exact (congrArg State.links opened_eq).trans rfl

theorem prepared_findHart (i : HartId) : (prepared p s).findHart i = s.findHart i := by
  refine findHart_congr ?_ ?_ i
  · rw [prepared_eq]
    exact (congrArg State.hart opened_eq).trans rfl
  · rw [prepared_eq]
    exact (congrArg State.others opened_eq).trans rfl

theorem prepared_bench {n : Nat} (mine : (s.partn p).hasBench n = true) : FreeBench ((prepared p s).bench n) := by
  have same : (prepared p s).bench n = (clearBenches p (enabled p s)).bench n := by
    rw [State.bench, prepared_eq]
    rfl
  rw [same]
  exact clearBenches_free (by rw [enabled_partn]; exact mine)

theorem prepared_ctx {k : Nat} (real : k < 32) : (prepared p s).ctx k = heldContext p (s.partn p).seq k (s.ctx k) := by
  have spec := (holdContexts_spec p (clearBenches p (enabled p s))).2 k
  rw [if_pos (List.mem_range.2 real), opened_partn, enabled_partn] at spec
  have same : (clearBenches p (enabled p s)).ctx k = s.ctx k := (congrArg (State.ctx · k) opened_eq).trans rfl
  rw [same] at spec
  exact spec

theorem prepared_place : bureauPlace (prepared p s) p = bureauPlace s p := by
  unfold bureauPlace
  rw [prepared_partn, enabled_partn]
  rfl

end

theorem storeOf_of_mem {q : Part} {n a : Nat} (mine : q.hasBench n = true) (low : 0x100_0000_0000 + 0x20_0000 * n ≤ a) (high : a < 0x100_0000_0000 + 0x20_0000 * (n + 1)) :
    storeOf q a = true := by
  have real : n < 48 := of_decide_eq_true (Bool.and_eq_true_iff.1 mine).2
  have number : (a - 0x100_0000_0000) / 0x20_0000 = n := by omega
  rw [storeOf, number, mine]
  simp only [Bool.and_true, Bool.and_eq_true, decide_eq_true_eq]
  omega

theorem storeOf_outside {q : Part} {a : Nat} (out : ∀ n, q.hasBench n = true → a < 0x100_0000_0000 + 0x20_0000 * n ∨ 0x100_0000_0000 + 0x20_0000 * (n + 1) ≤ a) : storeOf q a = false := by
  rw [← Bool.not_eq_true]
  intro inside
  simp only [storeOf, Bool.and_eq_true, decide_eq_true_eq] at inside
  obtain ⟨⟨low, -⟩, mine⟩ := inside
  have := out _ mine
  omega

open Sys2Proof.Claim

/-! ## Notification, suspension and resumption (R331, R433) -/

section
variable {p : BitVec 3} {s : State}

theorem hasBureau_iff {q : Part} : q.hasBureau = true ↔ q.st = 1 ∨ q.st = 2 := by
  rw [Part.hasBureau, Bool.or_eq_true, beq_iff_eq, beq_iff_eq]

theorem notePart_off (off : ¬ ((s.partn p).st = 1 ∨ (s.partn p).st = 2)) (w : Word) : notePart p w s = s := by
  rw [notePart, if_pos (by rw [Bool.not_eq_true', Bool.eq_false_iff]; exact fun up => off (hasBureau_iff.1 up))]

theorem notePart_stored (up : (s.partn p).st = 1 ∨ (s.partn p).st = 2) {m : Mapped} (mapped : agentMap s (cabinetSpace p) .store ((s.partn p).cmdbase + 0x10) = .ok m) (w : Word) :
    notePart p w s = (agentWrite s p m (bytesOf 8 w.toNat) true).pend p 0x82 w := by
  rw [notePart, if_neg (by rw [hasBureau_iff.2 up]; decide)]
  simp only [mapped]

theorem requestSuspend_off (off : ¬ ((s.partn p).st = 1 ∨ (s.partn p).st = 2)) : requestSuspend p s = s := by
  unfold requestSuspend
  dsimp only
  rw [if_neg (fun up => off (by simpa using up))]

theorem requestSuspend_up (up : (s.partn p).st = 1 ∨ (s.partn p).st = 2) :
    requestSuspend p s = s.setPart p { s.partn p with
      pending := pendIns (s.partn p).pending 0x80 0, suspTime := if (s.partn p).suspTime.isSome then (s.partn p).suspTime else some s.time } := by
  unfold requestSuspend State.pend
  dsimp only
  rw [if_pos (by simpa using up), State.setPart_setPart, State.partn_setPart]
  rfl

theorem requestResume_off (off : (s.partn p).st ≠ 2) : requestResume p s = s := by
  have no : ((s.partn p).st == 2) = false := beq_false_of_ne off
  unfold requestResume
  dsimp only
  rw [no]

theorem timerCheck_eq : timerCheck p s = if (s.partn p).tcmp ≠ 0 ∧ (s.partn p).tcmp ≤ s.time
    then s.setPart p { s.partn p with tcmp := 0, pending := pendIns (s.partn p).pending 0x81 s.time } else s := by
  unfold timerCheck State.pend
  dsimp only
  refine if_congr ?_ ?_ rfl
  · rw [Bool.and_eq_true, bne_iff_ne, decide_eq_true_eq]
    rfl
  · rw [State.setPart_setPart, State.partn_setPart]

theorem setTcmp_eq (w : Word) : setTcmp p w s = if w ≠ 0 ∧ w ≤ s.time
    then s.setPart p { s.partn p with tcmp := 0, pending := pendIns (s.partn p).pending 0x81 s.time } else s.setPart p { s.partn p with tcmp := w } := by
  unfold setTcmp
  rw [timerCheck_eq, State.partn_setPart, State.setPart_setPart]
  rfl

/-- A bureau hart is put back in its slot. -/
def restored (p : BitVec 3) (h : Hart) (s : State) : State := restoreHart [] s (h, bureauPlace s p)

theorem restored_eq (h : Hart) : restored p h s = { s with hart := (restored p h s).hart, others := (restored p h s).others, cores := (restored p h s).cores } := by
  have put : restored p h s = freshView (bureauPlace s p) (s.addHart (restoredHart h (bureauPlace s p))) := rfl
  rw [put]
  generalize bureauPlace s p = i, restoredHart h (bureauPlace s p) = g
  rw [freshView_cores, addHart_harts]

theorem restoredHart_present (h : Hart) (i : HartId) : (restoredHart h i).present = true := by
  unfold restoredHart Hart.present
  dsimp only
  split <;> rfl

theorem restored_findHart (h : Hart) (free : s.findHart (bureauPlace s p) = none) : (restored p h s).findHart (bureauPlace s p) = some (restoredHart h (bureauPlace s p)) := by
  have cores := freshView_cores (bureauPlace s p) (s.addHart (restoredHart h (bureauPlace s p)))
  have put : (restored p h s).findHart (bureauPlace s p) = (s.addHart (restoredHart h (bureauPlace s p))).findHart (bureauPlace s p) :=
    findHart_congr ((congrArg State.hart cores).trans rfl) ((congrArg State.others cores).trans rfl) _
  exact put.trans (findHart_addHart (s := s) (h := restoredHart h (bureauPlace s p)) (restoredHart_present h _) free)

/-- A partition whose bureau hart, without tiles and canopies, goes on. -/
def resumed (p : BitVec 3) (h : Hart) (i : HartId) (v : State) : State :=
  ((renameIssuer h.farm [(h, i)] v).setPart p { (renameIssuer h.farm [(h, i)] v).partn p with st := 1, bureauSaved := none, bureauTiles := [], bureauCanopies := [] }).sendMsix 0 2

theorem requestResume_runs {h : Hart} (waits : (s.partn p).st = 2) (saved : (s.partn p).bureauSaved = some h) (tiles : (s.partn p).bureauTiles = [])
    (canopies : (s.partn p).bureauCanopies = []) : requestResume p s = resumed p h (bureauPlace s p) (restored p h s) := by
  have yes : ((s.partn p).st == 2) = true := beq_iff_eq.2 waits
  unfold requestResume
  dsimp only
  rw [yes, saved, tiles, canopies]
  rfl

theorem resumed_partn (h : Hart) (i : HartId) (v : State) : (resumed p h i v).partn p = { v.partn p with st := 1, bureauSaved := none, bureauTiles := [], bureauCanopies := [] } :=
  State.partn_setPart _ p _

theorem resumed_findHart (h : Hart) (i : HartId) (v : State) (j : HartId) : (resumed p h i v).findHart j = v.findHart j := findHart_congr rfl rfl j
theorem resumed_mem (h : Hart) (i : HartId) (v : State) : (resumed p h i v).mem = v.mem := rfl
theorem resumed_msix (h : Hart) (i : HartId) (v : State) : (resumed p h i v).links.msix = v.links.msix ++ [(0, 2)] := rfl

theorem part_without_saved {q : Part} (tiles : q.bureauTiles = []) (canopies : q.bureauCanopies = []) :
    ({ q with st := 1, bureauSaved := none, bureauTiles := [], bureauCanopies := [] } : Part) = { q with st := 1, bureauSaved := none } := by
  rw [← tiles, ← canopies]

theorem restoredHart_vreg (h : Hart) (i : HartId) {r : Nat} (real : r < 32) : (restoredHart h i).vreg r = { h.vreg r with dirty := false } := by
  rw [Hart.vreg, dif_pos real, Hart.vreg, dif_pos real]
  exact Vector.getElem_map _ _

end

open Sys2Proof.Claim

/-! ## The steps of partitions (R330, R331, R430 to R436) -/

section
variable {p : BitVec 3} {s : State}

theorem enable_off (off : (s.partn p).st = 0) : enable p s = startPartition p s := by
  unfold enable
  dsimp only
  rw [if_pos (by rw [off]; rfl)]

theorem enable_resetting (busy : (s.partn p).st = 3) : enable p s = s.setPart p { s.partn p with en := true } := by
  unfold enable
  dsimp only
  rw [if_neg (by rw [busy]; decide), if_pos (by rw [busy]; rfl)]

theorem enable_up (up : (s.partn p).st = 1 ∨ (s.partn p).st = 2) : enable p s = s := by
  unfold enable
  dsimp only
  rw [if_neg (by rcases up with e | e <;> rw [e] <;> decide), if_neg (by rcases up with e | e <;> rw [e] <;> decide)]

theorem disable_down (down : (s.partn p).st = 0 ∨ (s.partn p).st = 3) : disable p s = s.setPart p { s.partn p with en := false } := by
  unfold disable
  dsimp only
  rw [if_neg (by rcases down with e | e <;> rw [e] <;> decide)]

theorem disable_up (up : (s.partn p).st = 1 ∨ (s.partn p).st = 2) : disable p s = beginReset p (s.setPart p { s.partn p with en := false }) := by
  unfold disable
  dsimp only
  rw [if_pos (by rcases up with e | e <;> rw [e] <;> decide)]

theorem beginReset_again (busy : (s.partn p).st = 3) : beginReset p s = s := by
  rw [beginReset, if_pos (by rw [busy]; rfl)]

theorem endReset_off (busy : (s.partn p).st = 3) (off : (s.partn p).en = false) : endReset p s = (s.setPart p { s.partn p with st := 0 }).sendMsix 0 2 := by
  unfold endReset
  dsimp only
  rw [if_neg (by rw [busy]; decide), if_neg (by rw [off]; decide)]

theorem endReset_on (busy : (s.partn p).st = 3) (on : (s.partn p).en = true) : endReset p s = enable p (s.setPart p { s.partn p with st := 0 }) := by
  unfold endReset
  dsimp only
  rw [if_neg (by rw [busy]; decide), if_pos on, enable_off (by rw [State.partn_setPart])]

theorem endReset_idle (idle : (s.partn p).st ≠ 3) : endReset p s = s := by
  unfold endReset
  dsimp only
  rw [if_pos (by simpa using idle)]

theorem stopIf_stopped {c : Ctx} (held : c.held = true) (mine : c.part = p) : stopIf p (dropStart p c) = (dropStart p c).stopped := by
  obtain ⟨h, q⟩ := dropStart_held p c
  rw [stopIf, if_pos (by rw [h, q, held, mine]; simp)]

theorem shutWindow_mine (w : BitVec 8) (x : Window) : (shutWindow p (p.toNat * 256 + w.toNat) x).ctl.getLsbD 0 = false := by
  have mine : (p.toNat * 256 + w.toNat) / 256 = p.toNat := by omega
  rw [shutWindow, mine, if_pos (by simp)]
  simp [setBit]

theorem shutWindow_other {j : BitVec 3} (other : j ≠ p) (w : BitVec 8) (x : Window) : shutWindow p (j.toNat * 256 + w.toNat) x = x := by
  have apart : j.toNat ≠ p.toNat := fun e => other (BitVec.eq_of_toNat_eq e)
  have own : (j.toNat * 256 + w.toNat) / 256 = j.toNat := by omega
  rw [shutWindow, own, if_neg (by simpa using apart)]

end

theorem partitionSteps : Claim.PartitionSteps := by
  intro s p q up pends
  refine ⟨?note, ?off, ?susp, fun off => congrArg _ (requestResume_off off), ?resume, fun w => congrArg _ (setTcmp_eq w), congrArg _ timerCheck_eq, ?refused, ?starts, ?busy,
    fun up => congrArg _ (enable_up up), fun down => congrArg _ (disable_down down), fun up => congrArg _ (disable_up up), ?reset,
    fun busy off => congrArg _ (endReset_off busy off), fun busy on => congrArg _ (endReset_on busy on), fun idle => congrArg _ (endReset_idle idle)⟩
  case note =>
    intro w m up mapped sound clean reach free
    have written := agentWrite_written clean (agentMap_reached mapped) p (bs := bytesOf 8 w.toNat) (by rwa [length_bytesOf]) (by rwa [length_bytesOf]) true
    exact ⟨_, congrArg _ (notePart_stored up mapped w), written.sameButWrite, written.storedAt sound⟩
  case off => exact fun off => ⟨fun w => congrArg _ (notePart_off off w), congrArg _ (requestSuspend_off off)⟩
  case susp => exact fun up => congrArg _ (requestSuspend_up up)
  case resume =>
    intro h waits saved tiles canopies free
    have back := restored_eq (p := p) (s := s) h
    refine ⟨_, restoredHart h (bureauPlace s p), congrArg Host.Outcome.next (requestResume_runs waits saved tiles canopies), ?_, ?_, rfl, rfl, rfl, rfl, fun r real => restoredHart_vreg h _ real, rfl, rfl, ?_, ?_⟩
    · have same : (restored p h s).partn p = q := by rw [back]; rfl
      rw [resumed_partn, same]
      exact part_without_saved tiles canopies
    · rw [resumed_findHart]
      exact restored_findHart h free
    · rw [resumed_mem, back]
    · rw [resumed_msix, back]
  case refused =>
    intro e off bad wrong
    refine congrArg Host.Outcome.next ?_
    rw [enable_off off, startPartition_refused (bad ▸ wrong), bad, ← off]
  case starts =>
    intro off ok free
    have place := prepared_place (p := p) (s := s)
    have bureau : (prepared p s).partn p = { q with en := true, err := 0 } := (prepared_partn p).trans enabled_partn
    refine ⟨launched p (prepared p s), congrArg _ ((enable_off off).trans (startPartition_runs ok)), ?_, fun j other => ?_, ⟨bureauHart p (prepared p s), ?_, rfl, rfl, rfl, rfl, ?_, ?_, rfl, ?_, ?_,
      fun r other => bureauHart_zero p _ other, bureauHart_prv p _⟩, fun k real => ?_, fun n a mine low high => ?_, fun n mine => ?_, ?_⟩
    · rw [launched_partn, bureau]
    · rw [launched_partn_ne p _ other, prepared_partn, enabled, State.partn_setPart_ne _ other]
    · have there := launched_bureau p (prepared p s) (by rw [place, prepared_findHart]; exact free)
      rwa [place] at there
    · exact (congrArg (fun x : Part => x.bentry &&& ~~~1#64) bureau).trans rfl
    · exact (congrArg (fun x : Part => x.bptbase &&& 0x000F_FFFF_FFE0_0001) bureau).trans rfl
    · exact (congrArg (fun x : Part => x.btrap &&& ~~~3#64) bureau).trans rfl
    · exact (bureauHart_argument p _).trans ((congrArg Part.cmdbase bureau).trans rfl)
    · rw [launched_ctx, prepared_ctx real]
      refine ⟨fun named => ?_, fun unnamed held mine => ?_⟩
      · rw [heldContext, if_pos named]
        exact ⟨rfl, rfl, rfl⟩
      · rw [heldContext, if_neg (by rw [unnamed]; decide), if_pos (by rw [held, mine]; simp)]
    · rw [launched_mem, prepared_mem, memGet_filter s.mem (fun x => !storeOf q x), storeOf_of_mem mine low high]
      rfl
    · rw [launched_bench]
      exact prepared_bench mine
    · rw [launched_msix, prepared_links]
  case busy => exact fun busy => ⟨congrArg _ (enable_resetting busy), congrArg _ (beginReset_again busy), congrArg _ (beginReset_again busy)⟩
  case reset =>
    intro idle d
    have d : Distinct s := d
    obtain ⟨wake, woken, harts⟩ := evacuated_harts (p := p) d
    have run := beginReset_eq idle
    have parts := swept_partn (p := p) d
    have links := swept_links (p := p) d
    have farms := swept_farms (p := p) d
    have engines := swept_engines (p := p) d
    have here := (swept_harts (p := p) (s := s)).trans harts
    have mem := swept_mem (p := p) d
    have windows := swept_windowOf (p := p) d
    have ctxs (k : Nat) (real : k < 32) := swept_ctx (p := p) d real
    generalize swept p s = u at *
    refine ⟨_, congrArg Host.Outcome.next run, congrArg Host.Outcome.next run, ?_, fun j other => ?_, fun f (inside : f ∈ u.farms) => ?_, fun h (inside : h ∈ u.harts) => ?_,
      fun h inside other => ?_, fun e (inside : e ∈ u.engines) c queued => ?_, fun k real held mine => ?_, fun w => ?_, fun j w other => (windows j w).trans (shutWindow_other other w _),
      fun a out => ?_, congrArg (fun l : Links => l.msix ++ [(0, 2)]) links⟩
    · have e : ((u.setPart p (u.partn p).resetting).sendMsix 0 2).partn p = _ := State.partn_setPart u p _
      rw [e, parts]
      rfl
    · exact (State.partn_setPart_ne u other _).trans (parts j)
    · rw [farms] at inside
      exact bne_iff_ne.1 (List.mem_filter.1 inside).2
    · rw [here] at inside
      obtain ⟨g, listed, rfl⟩ := List.mem_map.1 inside
      rw [(woken g).part]
      exact bne_iff_ne.1 (List.mem_filter.1 listed).2
    · have stays : wake h ∈ u.harts := by
        rw [here]
        exact List.mem_map.2 ⟨h, List.mem_filter.2 ⟨inside, bne_iff_ne.2 other⟩, rfl⟩
      exact ⟨wake h, stays, woken h⟩
    · rw [engines] at inside
      obtain ⟨x, -, rfl⟩ := List.mem_map.1 inside
      simpa using (List.mem_filter.1 queued).2
    · have stops : ((u.setPart p (u.partn p).resetting).sendMsix 0 2).ctx k = (dropStart p (s.ctx k)).stopped := (ctxs k real).trans (stopIf_stopped held mine)
      rw [stops]
      exact ⟨rfl, rfl, rfl⟩
    · exact (congrArg (fun x : Window => x.ctl.getLsbD 0) (windows p w)).trans (shutWindow_mine w _)
    · refine (congrArg (memGet · a) mem).trans ?_
      rw [memGet_filter s.mem (fun x => !storeOf (s.partn p) x), storeOf_outside out]
      rfl

open Sys2Proof.Claim

/-! ## Runs of bytes within a page, and the marks that a write leaves (R242, R418, R419) -/

theorem pagePieces_one {a : Word} {n : Nat} (some : 0 < n) (within : a.toNat % 4096 + n ≤ 4096) : pagePieces a n = [(a, n)] := by
  have one : cdiv (a.toNat % 4096 + n) 4096 = 1 := by
    unfold cdiv
    omega
  unfold pagePieces
  dsimp only
  rw [if_neg (by omega), one]
  have lo : max (4096 * 0) (a.toNat % 4096) = a.toNat % 4096 := by omega
  have hi : min (4096 * (0 + 1)) (a.toNat % 4096 + n) = a.toNat % 4096 + n := by omega
  rw [List.range_one, List.map_singleton, lo, hi, Nat.sub_self, Nat.add_sub_cancel_left]
  simp

theorem mem_sectorsOf {pa n k : Nat} (some : 0 < n) (start : k % 64 = 0) : k ∈ sectorsOf pa n ↔ k < pa + n ∧ pa < k + 64 := by
  rw [sectorsOf, if_neg (by omega), List.mem_map, sectorOf]
  constructor
  · rintro ⟨i, inside, rfl⟩
    have := List.mem_range.1 inside
    omega
  · rintro ⟨low, high⟩
    exact ⟨k / 64 - pa / 64, List.mem_range.2 (by omega), by omega⟩

theorem countP_range_between (n lo hi : Nat) : (List.range n).countP (fun i => decide (lo ≤ i) && decide (i < hi)) = min n hi - lo := by
  induction n with
  | zero => simp
  | succ n ih =>
    rw [List.range_succ, List.countP_append, ih, List.countP_singleton]
    by_cases inside : lo ≤ n ∧ n < hi
    · rw [if_pos (by simpa using inside)]
      omega
    · rw [if_neg (by simpa using inside)]
      omega

/-- The bytes of a run that lie in a sector. -/
def inSector (pa k : Nat) (bs : List MarkedByte) : List (MarkedByte × Nat) := bs.zipIdx.filter (fun p => sectorOf (pa + p.2) == k)

theorem length_inSector {k : Nat} (start : k % 64 = 0) (pa : Nat) (bs : List MarkedByte) :
    (inSector pa k bs).length = min bs.length (k + 64 - pa) - (k - pa) := by
  have indices : (bs.zipIdx.map Prod.snd) = List.range bs.length := by rw [List.zipIdx_map_snd, List.range_eq_range']
  have between (i : Nat) : (sectorOf (pa + i) == k) = (decide (k - pa ≤ i) && decide (i < k + 64 - pa)) := by
    rw [Bool.eq_iff_iff, beq_iff_eq, Bool.and_eq_true, decide_eq_true_eq, decide_eq_true_eq, sectorOf]
    omega
  rw [← countP_range_between, ← indices, List.countP_map, inSector, ← List.countP_eq_length_filter]
  exact List.countP_congr fun p _ => by rw [Function.comp_apply, between]

theorem remark_eq (s : State) (pa : Nat) (bs : List MarkedByte) : remark s pa bs = (sectorsOf pa bs.length).foldl (fun s k =>
    if (inSector pa k bs).any (fun p => p.1.2) then s.setPoison k else if (inSector pa k bs).length = 64 then s.clearPoison k else s) s := rfl

/-- Beside the poison marks nothing changes. -/
def OnlyMarks (s t : State) : Prop := t = { s with poison := t.poison }

theorem foldl_setPoison (l : List Nat) (s : State) : OnlyMarks s (l.foldl State.setPoison s) ∧ ∀ k, k ∈ (l.foldl State.setPoison s).poison ↔ k ∈ l ∨ k ∈ s.poison := by
  induction l generalizing s with
  | nil => exact ⟨rfl, fun k => by simp⟩
  | cons a rest ih =>
    obtain ⟨only, marks⟩ := ih (s.setPoison a)
    refine ⟨only.trans rfl, fun k => ?_⟩
    rw [List.foldl_cons, marks, State.setPoison_poison, mem_setIns, List.mem_cons, or_assoc, or_left_comm]

/-- Those of some sectors that a write covers are cleared. -/
def unmarkWhole (whole : Nat → Prop) [DecidablePred whole] (s : State) (k : Nat) : State := if whole k then s.clearPoison k else s

theorem foldl_unmarkWhole (whole : Nat → Prop) [DecidablePred whole] (l : List Nat) (s : State) :
    OnlyMarks s (l.foldl (unmarkWhole whole) s) ∧ ∀ k, k ∈ (l.foldl (unmarkWhole whole) s).poison ↔ k ∈ s.poison ∧ ¬ (k ∈ l ∧ whole k) := by
  induction l generalizing s with
  | nil => exact ⟨rfl, fun k => by simp⟩
  | cons a rest ih =>
    obtain ⟨only, marks⟩ := ih (unmarkWhole whole s a)
    have step : OnlyMarks s (unmarkWhole whole s a) ∧ ∀ k, k ∈ (unmarkWhole whole s a).poison ↔ k ∈ s.poison ∧ ¬ (k = a ∧ whole k) := by
      unfold unmarkWhole
      split
      · next yes =>
        refine ⟨rfl, fun k => ?_⟩
        rw [State.clearPoison_poison, mem_setDel]
        exact and_congr_right fun _ => ⟨fun other both => other both.1, fun other same => other ⟨same, same ▸ yes⟩⟩
      · next no => exact ⟨rfl, fun k => ⟨fun there => ⟨there, fun both => no (both.1 ▸ both.2)⟩, And.left⟩⟩
    refine ⟨only.trans (congrArg (fun x : State => { x with poison := (rest.foldl (unmarkWhole whole) (unmarkWhole whole s a)).poison }) step.1), fun k => ?_⟩
    rw [List.foldl_cons, marks, step.2, List.mem_cons]
    tauto

/-- A write whose bytes are all marked marks the sectors it touches. -/
theorem remark_marked (s : State) (pa : Nat) {bs : List MarkedByte} (some : 0 < bs.length) (marked : ∀ b ∈ bs, b.2 = true) :
    remark s pa bs = (sectorsOf pa bs.length).foldl State.setPoison s := by
  rw [remark_eq]
  refine List.foldl_ext _ _ s fun t k inside => if_pos ?_
  have start := mod_of_mem_sectorsOf inside
  obtain ⟨low, high⟩ := (mem_sectorsOf some start).1 inside
  have length := length_inSector start pa bs
  obtain ⟨p, there⟩ := List.exists_mem_of_length_pos (l := inSector pa k bs) (by omega)
  exact List.any_eq_true.2 ⟨p, there, marked _ (List.fst_mem_of_mem_zipIdx (List.mem_filter.1 there).1)⟩

/-- A write without marks clears the sectors it covers whole. -/
theorem remark_clean (s : State) (pa : Nat) {bs : List MarkedByte} (clean : ∀ b ∈ bs, b.2 = false) :
    remark s pa bs = (sectorsOf pa bs.length).foldl (unmarkWhole (fun k => pa ≤ k ∧ k + 64 ≤ pa + bs.length)) s := by
  rw [remark_eq]
  refine List.foldl_ext _ _ s fun t k inside => ?_
  have none : (inSector pa k bs).any (fun p => p.1.2) = false := List.any_eq_false.2 fun p there =>
    Bool.eq_false_iff.1 (clean _ (List.fst_mem_of_mem_zipIdx (List.mem_filter.1 there).1))
  have length := length_inSector (mod_of_mem_sectorsOf inside) pa bs
  rw [none, if_neg Bool.false_ne_true]
  refine if_congr ?_ rfl rfl
  omega

open Sys2Proof.Claim

/-! ## An agent's store within a page -/

section
variable {s : State} {sp : Space} {a : Word} {bs : List MarkedByte}

theorem agentStore_one (long : 0 < bs.length) (within : a.toNat % 4096 + bs.length ≤ 4096) {m : Mapped} (mapped : agentMap s sp .store a = .ok m) (alloc : Bool) :
    agentStore s sp a bs alloc =
      (if linkDown (agentWrite s sp.part m (bs.map Prod.fst) alloc) m.pa then agentWrite s sp.part m (bs.map Prod.fst) alloc
        else remark (agentWrite s sp.part m (bs.map Prod.fst) alloc) m.pa bs, none) := by
  unfold agentStore
  rw [pagePieces_one long within, List.foldl_cons, List.foldl_nil]
  simp only [mapped, BitVec.sub_self, BitVec.toNat_zero, List.drop_zero, List.take_length]

theorem agentStore_fault (long : 0 < bs.length) (within : a.toNat % 4096 + bs.length ≤ 4096) {f : XFault} (fault : agentMap s sp .store a = .error f) (alloc : Bool) :
    agentStore s sp a bs alloc = (s, some (f, a)) := by
  unfold agentStore
  rw [pagePieces_one long within, List.foldl_cons, List.foldl_nil]
  simp only [fault]

end

theorem agentPass_rows {s : State} (clean : NoUpset s) (up : ∀ pa, linkDown s pa = false) (sp : Space) (a : Word) (n : Nat) (alloc : Bool) : RowsMoved s (agentPass s sp a n alloc) := by
  refine .foldl fun t moved q _ => ?_
  split
  · next m mapped => exact agentTouch_rows (moved.noUpset clean) (agentMap_reached mapped) _ (fun k _ => (moved.linkDown k).trans (up k)) alloc
  · exact .refl t

/-! ## The host's aperture (R428, R430, R434) -/

section
variable {p : BitVec 3} {s : State}

/-- What the host's write of a page leaves: a fault is noted, and the rest is dropped. -/
def afterStore (r : State × Option (XFault × Word)) : State := match r.2 with | none => r.1 | some f => noteAll r.1 f.1.notes

theorem hostWrite_one (awake : (s.partn p).st ≠ 3) (offset : Nat) {bytes : List Byte} (long : 0 < bytes.length) (within : (apertureAt s p offset).toNat % 4096 + bytes.length ≤ 4096)
    (poisoned : Bool) : exec (.hostWrite p offset bytes poisoned) s = .next (afterStore (agentStore s (cabinetSpace p) (apertureAt s p offset) (bytes.map (fun b => (b, poisoned))) true)) := by
  have run : exec (.hostWrite p offset bytes poisoned) s = execHostWrite p offset bytes poisoned s := rfl
  rw [run, execHostWrite, if_neg (by simpa using awake)]
  dsimp only
  rw [pagePieces_one long within, List.foldl_cons, List.foldl_nil]
  simp only [BitVec.sub_self, BitVec.toNat_zero, List.drop_zero, List.take_length]
  generalize agentStore s (cabinetSpace p) (apertureAt s p offset) (bytes.map (fun b => (b, poisoned))) true = r
  obtain ⟨u, f⟩ := r
  cases f <;> rfl

theorem hostRead_runs (awake : (s.partn p).st ≠ 3) (offset len : Nat) {l : List MarkedByte} (read : agentBytes s (cabinetSpace p) (apertureAt s p offset) len = .ok l) :
    exec (.hostRead p offset len) s = .next (
      let u := agentPass s (cabinetSpace p) (apertureAt s p offset) len true
      { u with links := { u.links with answer := l.map Prod.fst, answerBad := l.any Prod.snd, unsupported := false } }) := by
  have run : exec (.hostRead p offset len) s = execHostRead p offset len s := rfl
  rw [run, execHostRead]
  dsimp only
  rw [if_neg (by simpa using awake)]
  simp only [read]

theorem hostRead_fault (awake : (s.partn p).st ≠ 3) (offset len : Nat) {f : XFault} {x : Word} (fault : agentBytes s (cabinetSpace p) (apertureAt s p offset) len = .error (f, x)) :
    exec (.hostRead p offset len) s = .next (
      let u := noteAll s f.notes
      { u with links := { u.links with answer := [], answerBad := false, unsupported := true } }) := by
  have run : exec (.hostRead p offset len) s = execHostRead p offset len s := rfl
  rw [run, execHostRead]
  dsimp only
  rw [if_neg (by simpa using awake)]
  simp only [fault]

theorem WrittenAt.poison {s t : State} {pa : Nat} {bs : List Byte} (w : WrittenAt s t pa bs) : t.poison = s.poison := by
  obtain ⟨u, rows, e⟩ := w
  rw [e, show u = { s with l2 := u.l2, dram := u.dram, life := u.life } from rows]

/-- The marks after a write: set where its bytes are marked, cleared where it covers a sector whole without (R418, R419). -/
def MarkedAfter (s t : State) (pa n : Nat) (poisoned : Bool) : Prop :=
  ∀ k, k % 64 = 0 → (k ∈ t.poison ↔ if poisoned ∧ k ∈ sectorsOf pa n then True else k ∈ s.poison ∧ ¬ (pa ≤ k ∧ k + 64 ≤ pa + n))

theorem remark_after {s : State} (pa : Nat) {bytes : List Byte} (long : 0 < bytes.length) (poisoned : Bool) :
    OnlyMarks s (remark s pa (bytes.map (fun b => (b, poisoned)))) ∧ MarkedAfter s (remark s pa (bytes.map (fun b => (b, poisoned)))) pa bytes.length poisoned := by
  have length : (bytes.map (fun b => (b, poisoned))).length = bytes.length := List.length_map _
  have marks : ∀ b ∈ bytes.map (fun b => (b, poisoned)), b.2 = poisoned := fun b inside => by
    obtain ⟨c, -, rfl⟩ := List.mem_map.1 inside
    rfl
  cases poisoned with
  | true =>
    rw [remark_marked s pa (length ▸ long) marks, length]
    obtain ⟨only, all⟩ := foldl_setPoison (sectorsOf pa bytes.length) s
    refine ⟨only, fun k start => (all k).trans ?_⟩
    by_cases inside : k ∈ sectorsOf pa bytes.length
    · rw [if_pos ⟨rfl, inside⟩]
      exact iff_true_intro (.inl inside)
    · rw [if_neg (fun both => inside both.2)]
      have out : ¬ (pa ≤ k ∧ k + 64 ≤ pa + bytes.length) := fun whole => inside ((mem_sectorsOf long start).2 (by omega))
      exact ⟨fun there => ⟨there.resolve_left inside, out⟩, fun both => .inr both.1⟩
  | false =>
    rw [remark_clean s pa marks, length]
    obtain ⟨only, all⟩ := foldl_unmarkWhole (fun k => pa ≤ k ∧ k + 64 ≤ pa + bytes.length) (sectorsOf pa bytes.length) s
    refine ⟨only, fun k start => (all k).trans ?_⟩
    rw [if_neg (fun both => nomatch both.1)]
    refine and_congr_right fun _ => not_congr ⟨And.right, fun whole => ⟨(mem_sectorsOf long start).2 (by omega), whole⟩⟩

theorem OnlyMarks.sameButWrite {s u t : State} (only : OnlyMarks u t) (write : SameButWrite u s) :
    t = { s with l2 := t.l2, dram := t.dram, life := t.life, mem := t.mem, held := t.held, poison := t.poison } := by
  unfold OnlyMarks at only
  generalize t.poison = q at only
  subst only
  exact congrArg (fun x : State => { x with poison := q }) write

theorem hostWrite_stored (awake : (s.partn p).st ≠ 3) (offset : Nat) {bytes : List Byte} (poisoned : Bool) {m : Mapped}
    (reach : Reaches s (cabinetSpace p) .store (apertureAt s p offset) bytes.length m) (sound : Sound s) (clean : NoUpset s) (free : Unheld s m.pa bytes.length) :
    ∃ t, exec (.hostWrite p offset bytes poisoned) s = .next t ∧ t = { s with l2 := t.l2, dram := t.dram, life := t.life, mem := t.mem, held := t.held, poison := t.poison }
      ∧ (∀ b, memGet t.mem b = if m.pa ≤ b ∧ b < m.pa + bytes.length then bytes.getD (b - m.pa) 0 else memGet s.mem b) ∧ MarkedAfter s t m.pa bytes.length poisoned := by
  obtain ⟨long, -, within, mapped, up⟩ := reach
  have length : (bytes.map (fun b => (b, poisoned))).length = bytes.length := List.length_map _
  have values : (bytes.map (fun b => (b, poisoned))).map Prod.fst = bytes := by rw [List.map_map]; exact List.map_id _
  have written := agentWrite_written clean (agentMap_reached mapped) p up free true
  have run := hostWrite_one awake offset long within poisoned
  rw [agentStore_one (length.symm ▸ long) (length.symm ▸ within) mapped true, values] at run
  have there : (cabinetSpace p).part = p := rfl
  rw [there] at run
  generalize agentWrite s p m bytes true = u at written run
  have links : linkDown u m.pa = false := by
    have same : u.links = s.links := by rw [written.sameButWrite]
    rw [linkDown, same]
    exact up.1
  rw [links] at run
  obtain ⟨only, marks⟩ := remark_after (s := u) m.pa long poisoned
  refine ⟨_, run, ?_, fun b => ?_, ?_⟩
  · exact only.sameButWrite written.sameButWrite
  · have mem : (remark u m.pa (bytes.map (fun b => (b, poisoned)))).mem = u.mem := by rw [only]
    refine (congrArg (memGet · b) mem).trans ((written.get sound b).trans ?_)
    rw [List.getD_eq_getElem?_getD]
  · intro k start
    rw [← written.poison]
    exact marks k start

end

open Sys2Proof.Claim

/-! ## Stores into device space (R296, R355, R368, R372, R422, R430, R433) -/

/-- The offsets of I/O-die space that hold registers (R296). -/
def IoOffset (o : Nat) : Prop :=
  o < 0x1_0000 ∨ (0x10_0000 ≤ o ∧ o < 0x22_0000) ∨ (0x30_0000 ≤ o ∧ o < 0x30_0100) ∨ (0x40_0000 ≤ o ∧ o < 0x40_0100)
    ∨ (0x50_0000 ≤ o ∧ o < 0x51_0000) ∨ (0x60_0000 ≤ o ∧ o < 0x60_0800) ∨ (0x70_0000 ≤ o ∧ o < 0x70_8000)

theorem isDevice_io {o : Nat} (io : IoOffset o) : isDevice (0xF000_0000_0000 + o) = true := by
  unfold IoOffset at io
  unfold isDevice regionOf
  rw [if_neg (by omega), if_neg (by omega), if_neg (by omega), if_neg (by omega), if_pos (by omega)]
  dsimp only
  rw [if_pos (by omega)]
  rfl

section
variable {s : State} {v : Word}

theorem deviceWrite_runs {pa : Nat} (device : isDevice pa = true) (aligned : pa % 8 = 0) : exec (.deviceSpaceWrite pa v) s = .next (devWrite s pa v) := by
  have run : exec (.deviceSpaceWrite pa v) s = execDeviceSpaceWrite pa v s := rfl
  rw [run, execDeviceSpaceWrite, if_pos (by rw [device, aligned]; rfl)]

theorem deviceWrite_ignored {pa : Nat} (out : isDevice pa = false ∨ pa % 8 ≠ 0) : exec (.deviceSpaceWrite pa v) s = .next s := by
  have run : exec (.deviceSpaceWrite pa v) s = execDeviceSpaceWrite pa v s := rfl
  rw [run, execDeviceSpaceWrite, if_neg]
  rw [Bool.and_eq_true, beq_iff_eq]
  rintro ⟨device, aligned⟩
  rcases out with other | odd
  · exact Bool.false_ne_true (other.symm.trans device)
  · exact odd aligned

/-- A store to register offset `o` of I/O-die space. -/
def ioWrite (s : State) (o : Nat) (v : Word) : State :=
  if o < 0x10_0000 then s
  else if o < 0x20_0000 then writeFabric s (o - 0x10_0000) v
  else if o < 0x30_0000 then writeContext s (o - 0x20_0000) v
  else if o < 0x40_0000 then s
  else if o < 0x50_0000 then writeRas s (o - 0x40_0000) v
  else if o < 0x60_0000 then s
  else if o < 0x70_0000 then writePart s (BitVec.ofNat 3 ((o - 0x60_0000) / 0x100)) (o % 0x100) v
  else writeControl s (BitVec.ofNat 3 ((o - 0x70_0000) / 0x1000)) (o % 0x1000) v

theorem devWrite_io (s : State) (o : Nat) (v : Word) : devWrite s (0xF000_0000_0000 + o) v = ioWrite s o v := by
  rw [devWrite, if_neg (by omega)]
  dsimp only
  rw [Nat.add_sub_cancel_left]
  rfl

theorem ioWrite_runs {o : Nat} (io : IoOffset o) (aligned : o % 8 = 0) : exec (.deviceSpaceWrite (0xF000_0000_0000 + o) v) s = .next (ioWrite s o v) := by
  rw [deviceWrite_runs (isDevice_io io) (by omega), devWrite_io]

theorem ioWrite_fabric {o : Nat} (low : 0x10_0000 ≤ o) (high : o < 0x20_0000) : ioWrite s o v = writeFabric s (o - 0x10_0000) v := by
  rw [ioWrite, if_neg (by omega), if_pos high]

theorem ioWrite_context {o : Nat} (low : 0x20_0000 ≤ o) (high : o < 0x30_0000) : ioWrite s o v = writeContext s (o - 0x20_0000) v := by
  rw [ioWrite, if_neg (by omega), if_neg (by omega), if_pos high]

theorem ioWrite_ras {o : Nat} (low : 0x40_0000 ≤ o) (high : o < 0x50_0000) : ioWrite s o v = writeRas s (o - 0x40_0000) v := by
  rw [ioWrite, if_neg (by omega), if_neg (by omega), if_neg (by omega), if_neg (by omega), if_pos high]

theorem ioWrite_readOnly {o : Nat} (there : (0x30_0000 ≤ o ∧ o < 0x40_0000) ∨ (0x50_0000 ≤ o ∧ o < 0x60_0000)) : ioWrite s o v = s := by
  rw [ioWrite, if_neg (by omega), if_neg (by omega), if_neg (by omega)]
  rcases there with power | life
  · rw [if_pos power.2]
  · rw [if_neg (by omega), if_neg (by omega), if_pos life.2]

theorem ioWrite_part (p : BitVec 3) {r : Nat} (real : r < 0x100) : ioWrite s (0x60_0000 + 0x100 * p.toNat + r) v = writePart s p r v := by
  have small := p.isLt
  have number : (0x60_0000 + 0x100 * p.toNat + r - 0x60_0000) / 0x100 = p.toNat := by omega
  have register : (0x60_0000 + 0x100 * p.toNat + r) % 0x100 = r := by omega
  rw [ioWrite, if_neg (by omega), if_neg (by omega), if_neg (by omega), if_neg (by omega), if_neg (by omega), if_neg (by omega), if_pos (by omega), number, register, BitVec.ofNat_toNat,
    BitVec.setWidth_eq]

theorem ioWrite_control (p : BitVec 3) {r : Nat} (real : r < 0x1000) : ioWrite s (0x70_0000 + 0x1000 * p.toNat + r) v = writeControl s p r v := by
  have small := p.isLt
  have number : (0x70_0000 + 0x1000 * p.toNat + r - 0x70_0000) / 0x1000 = p.toNat := by omega
  have register : (0x70_0000 + 0x1000 * p.toNat + r) % 0x1000 = r := by omega
  rw [ioWrite, if_neg (by omega), if_neg (by omega), if_neg (by omega), if_neg (by omega), if_neg (by omega), if_neg (by omega), if_neg (by omega), number, register, BitVec.ofNat_toNat,
    BitVec.setWidth_eq]

theorem part_io (p : BitVec 3) {r : Nat} (real : r < 0x100) : IoOffset (0x60_0000 + 0x100 * p.toNat + r) := by
  have small := p.isLt
  unfold IoOffset
  omega

theorem control_io (p : BitVec 3) {r : Nat} (real : r < 0x1000) : IoOffset (0x70_0000 + 0x1000 * p.toNat + r) := by
  have small := p.isLt
  unfold IoOffset
  omega

theorem partWrite_runs (p : BitVec 3) {r : Nat} (real : r < 0x100) (aligned : r % 8 = 0) :
    exec (.deviceSpaceWrite (0xF000_0000_0000 + (0x60_0000 + 0x100 * p.toNat + r)) v) s = .next (writePart s p r v) := by
  rw [ioWrite_runs (part_io p real) (by omega), ioWrite_part p real]

theorem controlWrite_runs (p : BitVec 3) {r : Nat} (real : r < 0x1000) (aligned : r % 8 = 0) :
    exec (.deviceSpaceWrite (0xF000_0000_0000 + (0x70_0000 + 0x1000 * p.toNat + r)) v) s = .next (writeControl s p r v) := by
  rw [ioWrite_runs (control_io p real) (by omega), ioWrite_control p real]

/-- A counter block's PROBE is set. -/
theorem channelWrite_runs {ch : Nat} (real : ch < 256) :
    exec (.deviceSpaceWrite (0x180_0000_0000 + 64 * ch + 0x20) v) s = .next (s.updChannel ch (fun k => { k with probe := v.setWidth 21 })) := by
  have device : isDevice (0x180_0000_0000 + 64 * ch + 0x20) = true := by
    unfold isDevice regionOf
    rw [if_neg (by omega), if_neg (by omega), if_pos (by omega)]
    rfl
  have register : (0x180_0000_0000 + 64 * ch + 0x20 - 0x180_0000_0000) % 64 = 0x20 := by omega
  have number : (0x180_0000_0000 + 64 * ch + 0x20 - 0x180_0000_0000) / 64 = ch := by omega
  rw [deviceWrite_runs device (by omega), devWrite, if_pos (by omega)]
  dsimp only
  rw [if_pos register, number]
  rfl

theorem mapIdx_set {α : Type} {n : Nat} (xs : Vector α n) (i : Fin n) (x : α) {o : Nat} (place : o / 8 = i.val + 1) :
    xs.mapIdx (fun j y => if j + 1 == o / 8 then x else y) = xs.set i x := by
  refine Vector.ext fun j inside => ?_
  rw [Vector.getElem_mapIdx, place, Vector.getElem_set]
  refine if_congr ?_ rfl rfl
  rw [beq_iff_eq]
  omega

theorem writeFabric_dtag (i : Fin 8) : writeFabric s (8 + 8 * i.val) v = { s with fabric := { s.fabric with dtag := s.fabric.dtag.set i (v.setWidth 16) } } := by
  have small := i.isLt
  have low : v.extractLsb' 0 16 = v.setWidth 16 := BitVec.eq_of_toNat_eq (by simp)
  rw [writeFabric, if_pos (by omega), mapIdx_set s.fabric.dtag i _ (by omega), low]

theorem writeRas_base (i : Fin 8) : writeRas s (8 + 8 * i.val) v = { s with ras := { s.ras with rbase := s.ras.rbase.set i v } } := by
  have small := i.isLt
  rw [writeRas, if_neg (by omega), if_pos (by omega), mapIdx_set s.ras.rbase i _ (by omega)]

theorem writeFabric_window {k field : Nat} (real : k < 2048) (inside : field < 32) : writeFabric s (0x1000 + 32 * k + field) v = writeWindow s k field v := by
  have number : (0x1000 + 32 * k + field - 0x1000) / 32 = k := by omega
  have register : (0x1000 + 32 * k + field) % 32 = field := by omega
  rw [writeFabric, if_neg (by omega), if_pos (by omega), number, register]

/-- Whether an entry would be one receive window too many (R369). -/
def tooMany (s : State) (k : Nat) (w : Window) : Bool := w.ok && w.ctl.getLsbD 4 && decide (16 ≤ receiveCount s (k / 256) k)

/-- The window table with an entry, which is not valid where it would be one receive window too many (R369). -/
def putWindow (s : State) (k : Nat) (w : Window) : State :=
  { s with fabric := { s.fabric with windows := tset s.fabric.windows k (if tooMany s k w then { w with ctl := w.ctl &&& ~~~1#64 } else w) } }

theorem writeWindow_base (k : Nat) : writeWindow s k 8 v = putWindow s k { tget Window.init s.fabric.windows k with base := v } := rfl
theorem writeWindow_len (k : Nat) : writeWindow s k 16 v = putWindow s k { tget Window.init s.fabric.windows k with len := v &&& 0x7FF_FFFF_FFFF } := rfl
theorem writeWindow_ctl (k : Nat) : writeWindow s k 0 v = putWindow s k { tget Window.init s.fabric.windows k with
    ctl := v &&& 0xFFFF_001F, delivered := if (v &&& 0xFFFF_001F).getLsbD 0 && !(tget Window.init s.fabric.windows k).ctl.getLsbD 0 then 0 else (tget Window.init s.fabric.windows k).delivered } := rfl

end

open Sys2Proof.Claim

/-! ## The registers of contexts, partitions and control blocks (R372, R430, R433) -/

section
variable {s : State} {v : Word}

/-- The offset of a context's block. -/
def contextOffset (k : Nat) : Nat := 0x20_0000 + k / 16 * 0x1_0000 + k % 16 * 0x100

/-- A context with the register at an offset of its block written. -/
def contextRegister (k r : Nat) (v : Word) (s : State) : State :=
  match r with
  | 0x00 => assignContext k v s
  | 0x08 => if v.getLsbD 2 then abortRun k s else s
  | _ => s

theorem contextWrite_runs {k : Nat} (real : k < 32) {r : Nat} (inside : r < 0x100) (aligned : r % 8 = 0) :
    exec (.deviceSpaceWrite (0xF000_0000_0000 + (contextOffset k + r)) v) s = .next (contextRegister k r v s) := by
  have block : (contextOffset k + r - 0x20_0000) % 0x1_0000 < 0x1000 := by unfold contextOffset; omega
  have number : ctxKey ((contextOffset k + r - 0x20_0000) / 0x1_0000) ((contextOffset k + r - 0x20_0000) % 0x1_0000 / 0x100) = k := by unfold ctxKey contextOffset; omega
  have register : (contextOffset k + r - 0x20_0000) % 0x100 = r := by unfold contextOffset; omega
  have io : IoOffset (contextOffset k + r) := by unfold IoOffset contextOffset; omega
  rw [ioWrite_runs io (by unfold contextOffset; omega), ioWrite_context (by unfold contextOffset; omega) (by unfold contextOffset; omega), writeContext, if_neg (by omega)]
  dsimp only
  rw [number, register]
  rfl

variable {p : BitVec 3}

theorem writePart_control (off : (s.partn p).st = 0) (keep : v.getLsbD 3 = false) :
    Host.Outcome.next (writePart s p 0 v) = exec (if v.getLsbD 0 then .partitionEnable p else .partitionDisable p)
      (s.setPart p { s.partn p with bgrp := v.extractLsb' 4 8, hbmw := v.extractLsb' 12 8, fabw := v.extractLsb' 20 8, vcnt := v.extractLsb' 28 7 }) := by
  have down : ((s.partn p).st == 0) = true := beq_iff_eq.2 off
  unfold writePart
  dsimp only
  rw [if_pos rfl, keep, down]
  cases v.getLsbD 0 <;> rfl

theorem writePart_running (on : (s.partn p).st ≠ 0) (keep : v.getLsbD 3 = false) :
    Host.Outcome.next (writePart s p 0 v) = exec (if v.getLsbD 0 then .partitionEnable p else .partitionDisable p) s := by
  have up : ((s.partn p).st == 0) = false := beq_false_of_ne on
  unfold writePart
  dsimp only
  rw [if_pos rfl, keep, up]
  cases v.getLsbD 0 <;> rfl

theorem writePart_reset (on : (s.partn p).st ≠ 0) (reset : v.getLsbD 3 = true) :
    writePart s p 0 v = beginReset p (s.setPart p { s.partn p with en := v.getLsbD 0 }) := by
  have up : ((s.partn p).st == 0) = false := beq_false_of_ne on
  unfold writePart
  dsimp only
  rw [if_pos rfl, reset, up, if_pos rfl, if_pos rfl]
  exact congrArg (beginReset p) rfl

theorem writePart_tcmp : writePart s p 0x48 v = setTcmp p v s := rfl

theorem writePart_fixed (on : (s.partn p).st ≠ 0) {r : Nat} (block : r ≠ 0) (other : r ≠ 0x48) : writePart s p r v = s := by
  have up : ((s.partn p).st == 0) = false := beq_false_of_ne on
  unfold writePart
  dsimp only
  rw [if_neg block, if_neg other, up]
  rfl

/-- A partition's configuration with the register at an offset written (R430). -/
def Part.configure (q : Part) (r : Nat) (v : Word) : Part :=
  match r with
  | 0x08 => { q with cabase := v }
  | 0x10 => { q with casize := v }
  | 0x18 => { q with cmdbase := v }
  | 0x20 => { q with bentry := v }
  | 0x28 => { q with bptbase := v }
  | 0x30 => { q with btrap := v }
  | 0x38 => { q with seq := v.extractLsb' 0 32 }
  | 0x40 => { q with apbase := v }
  | _ => q

theorem writePart_configures (off : (s.partn p).st = 0) {r : Nat} (block : r ≠ 0) (other : r ≠ 0x48) : writePart s p r v = s.setPart p ((s.partn p).configure r v) := by
  have down : ((s.partn p).st == 0) = true := beq_iff_eq.2 off
  unfold writePart
  dsimp only
  rw [if_neg block, if_neg other, down]
  rfl

end

theorem hostSteps : Claim.HostSteps := by
  refine ⟨?aperture, ?device, ?illegal⟩
  case aperture =>
    intro s p offset len bytes poisoned sp a answered
    refine ⟨fun resetting => ?_, fun awake up clean l read => ?_, fun awake f x fault => hostRead_fault awake offset len fault, fun awake m reach sound clean free => ?_,
      fun awake long within f fault => ?_⟩
    · have busy : ((s.partn p).st == 3) = true := beq_iff_eq.2 resetting
      refine ⟨?_, ?_⟩
      · have run : exec (.hostRead p offset len) s = execHostRead p offset len s := rfl
        rw [run, execHostRead]
        dsimp only
        rw [if_pos busy]
      · have run : exec (.hostWrite p offset bytes poisoned) s = execHostWrite p offset bytes poisoned s := rfl
        rw [run, execHostWrite, if_pos busy]
    · exact ⟨_, (agentPass_rows clean up sp a len true).sameButRows, hostRead_runs awake offset len read⟩
    · exact hostWrite_stored awake offset poisoned reach sound clean free
    · have length : (bytes.map (fun b => (b, poisoned))).length = bytes.length := List.length_map _
      have stores := agentStore_fault (length.symm ▸ long) (length.symm ▸ within) fault true
      exact (hostWrite_one awake offset long within poisoned).trans (congrArg (fun r => Host.Outcome.next (afterStore r)) stores)
  case device =>
    intro s p v store q part control same
    refine ⟨fun pa out => deviceWrite_ignored out, fun ch real => channelWrite_runs real, fun i => ?dtag, ?window, fun k real => ?context, ?mbase, fun i => ?rbase, ?report,
      fun off => ?off, fun on => ?on, ?tcmp, ?note, fun go => ⟨?susp, ?resume⟩, fun o low there => ?fixed⟩
    case dtag =>
      have run := ioWrite_runs (s := s) (v := v) (o := 0x10_0008 + 8 * i.val) (by unfold IoOffset; omega) (by omega)
      rw [ioWrite_fabric (by omega) (by omega), show 0x10_0008 + 8 * i.val - 0x10_0000 = 8 + 8 * i.val by omega, writeFabric_dtag] at run
      exact run
    case window =>
      intro w k x many put c
      have real : k < 2048 := by
        have := p.isLt
        have := w.isLt
        omega
      have entry : tget Window.init s.fabric.windows k = x := rfl
      have mine : k / 256 = p.toNat := by
        have := w.isLt
        omega
      have put_eq (y : Window) : putWindow s k y = put y := by
        unfold putWindow tooMany
        rw [mine]
      have write {field : Nat} (inside : field < 32) (aligned : field % 8 = 0) :
          exec (.deviceSpaceWrite (0xF000_0000_0000 + (0x10_1000 + field + 32 * k)) v) s = .next (writeWindow s k field v) := by
        rw [ioWrite_runs (by unfold IoOffset; omega) (by omega), ioWrite_fabric (by omega) (by omega), show 0x10_1000 + field + 32 * k - 0x10_0000 = 0x1000 + 32 * k + field by omega,
          writeFabric_window real inside]
      refine ⟨?_, ?_, ?_⟩
      · exact (write (by decide : 8 < 32) rfl).trans (congrArg _ ((writeWindow_base k).trans (put_eq _)))
      · exact (write (by decide : 16 < 32) rfl).trans (congrArg _ ((writeWindow_len k).trans (put_eq _)))
      · refine (write (by decide : 0 < 32) rfl).trans (congrArg _ ((writeWindow_ctl k).trans ((put_eq _).trans (congrArg put ?_))))
        rw [entry]
        refine congrArg (fun d => ({ x with ctl := c, delivered := d } : Window)) (if_congr ?_ rfl rfl)
        rw [Bool.and_eq_true, Bool.not_eq_true']
    case context =>
      refine ⟨?_, fun abort => ?_⟩
      · exact contextWrite_runs real (r := 0) (by decide) rfl
      · have run := contextWrite_runs (s := s) (v := v) real (r := 8) (by decide) rfl
        rw [contextRegister, if_pos abort] at run
        have place : 0xF000_0000_0000 + (0x20_0008 + k / 16 * 0x1_0000 + k % 16 * 0x100) = 0xF000_0000_0000 + (contextOffset k + 8) := by unfold contextOffset; omega
        show exec (.deviceSpaceWrite (0xF000_0000_0000 + (0x20_0008 + k / 16 * 0x1_0000 + k % 16 * 0x100)) v) s = _
        rw [place, run]
        rfl
    case mbase => exact ioWrite_runs (by unfold IoOffset; omega) rfl
    case rbase =>
      have run := ioWrite_runs (s := s) (v := v) (o := 0x40_0008 + 8 * i.val) (by unfold IoOffset; omega) (by omega)
      rw [ioWrite_ras (by omega) (by omega), show 0x40_0008 + 8 * i.val - 0x40_0000 = 8 + 8 * i.val by omega, writeRas_base] at run
      exact run
    case report => exact ioWrite_runs (by unfold IoOffset; omega) rfl
    case off =>
      have write {r : Nat} (real : r < 0x100) (aligned : r % 8 = 0) (block : r ≠ 0) (other : r ≠ 0x48) : store (part + r) (s.setPart p (q.configure r v)) :=
        (partWrite_runs p real aligned).trans (congrArg _ (writePart_configures off block other))
      refine ⟨write (r := 0x08) (by decide) rfl (by decide) (by decide), write (r := 0x10) (by decide) rfl (by decide) (by decide), write (r := 0x18) (by decide) rfl (by decide) (by decide),
        write (r := 0x20) (by decide) rfl (by decide) (by decide), write (r := 0x28) (by decide) rfl (by decide) (by decide), write (r := 0x30) (by decide) rfl (by decide) (by decide),
        ?_, write (r := 0x40) (by decide) rfl (by decide) (by decide), fun keep => (partWrite_runs p (r := 0) (by decide) rfl).trans (writePart_control off keep)⟩
      have low : v.extractLsb' 0 32 = v.setWidth 32 := BitVec.eq_of_toNat_eq (by simp)
      rw [← low]
      exact write (r := 0x38) (by decide) rfl (by decide) (by decide)
    case on =>
      refine ⟨fun r listed => ?_, fun keep => (partWrite_runs p (r := 0) (by decide) rfl).trans (writePart_running on keep),
        fun reset => (partWrite_runs p (r := 0) (by decide) rfl).trans (congrArg _ (writePart_reset on reset))⟩
      have places : ∀ r ∈ [0x08, 0x10, 0x18, 0x20, 0x28, 0x30, 0x38, 0x40], r < 0x100 ∧ r % 8 = 0 ∧ r ≠ 0 ∧ r ≠ 0x48 := by decide
      obtain ⟨real, aligned, block, other⟩ := places r listed
      exact (partWrite_runs p real aligned).trans (congrArg _ (writePart_fixed on block other))
    case tcmp => exact partWrite_runs p (r := 0x48) (by decide) rfl
    case note => exact controlWrite_runs p (r := 0) (by decide) rfl
    case susp =>
      refine (controlWrite_runs p (r := 8) (by decide) rfl).trans ?_
      exact congrArg Host.Outcome.next (if_pos go)
    case resume =>
      refine (controlWrite_runs p (r := 0x10) (by decide) rfl).trans ?_
      exact congrArg Host.Outcome.next (if_pos go)
    case fixed =>
      by_cases out : isDevice (0xF000_0000_0000 + o) = false ∨ (0xF000_0000_0000 + o) % 8 ≠ 0
      · exact deviceWrite_ignored out
      · obtain ⟨device, aligned⟩ := not_or.1 out
        refine (deviceWrite_runs (by simpa using device) (not_not.1 aligned)).trans (congrArg _ ?_)
        exact (devWrite_io s o v).trans (ioWrite_readOnly (there.imp_left (And.intro low)))
  case illegal =>
    intro s w
    have low : w.setWidth 32 = w.extractLsb' 0 32 := BitVec.eq_of_toNat_eq (by simp)
    rw [low]
    refine congrArg _ (trapHere_plain ?_ w s)
    split <;> decide

/-- Settles O59: partitions' life step by step, and the host's aperture and its stores into device space. -/
theorem partitionsAndHost : Obligations.PartitionsAndHost := ⟨partitionSteps, hostSteps⟩

end Sys2Proof.Machine

namespace Sys2Proof.Machine
/-! O50: a core's cycle of its lane clusters, fills and walks, and the steps of the memory controllers and CXL links. -/

open Sys2Proof.Claim

/-! ## HBM rows and their refresh management (R305 to R308) -/

theorem tset_cons {α : Type} (j : Nat) (u : α) (t : Table α) (k : Nat) (v : α) :
    tset ((j, u) :: t) k v = if j = k then (k, v) :: t else if k < j then (k, v) :: (j, u) :: t else (j, u) :: tset t k v := rfl

theorem tset_tset {α : Type} (t : Table α) (k : Nat) (v w : α) : tset (tset t k v) k w = tset t k w := by
  induction t with
  | nil => exact if_pos rfl
  | cons e rest ih =>
    obtain ⟨j, u⟩ := e
    rw [tset_cons, tset_cons j u rest k w]
    split
    · exact if_pos rfl
    · next other =>
      split
      · exact if_pos rfl
      · next later => rw [tset_cons, if_neg other, if_neg later, ih]

/-- Some refresh-management command of a bank waits. -/
def RfmWaits (s : State) (bank : Nat) : Prop := ∃ p ∈ s.dram.pendingRfm, p.bank = bank

theorem rfmPending_iff {s : State} {bank : Nat} : rfmPending s bank = true ↔ RfmWaits s bank := by
  rw [rfmPending, List.any_eq_true]
  exact exists_congr fun p => and_congr_right fun _ => beq_iff_eq

/-- A bank's refresh-management command has run. -/
def rfmRan (bank : Nat) (s : State) : State :=
  (({ s with dram := { s.dram with
        pendingRfm := s.dram.pendingRfm.filter (fun p => p.bank ≠ bank), openRows := tset s.dram.openRows bank none,
        busy := tset s.dram.busy bank (s.time.toNat + 240) } } : State).updChannel (bank / 32) (fun k => { k with rfm := k.rfm + 1 })).count (0x1100 + 8 * (bank / 32)) 1

theorem runRfm_waits {s : State} {bank : Nat} (waits : RfmWaits s bank) : runRfm s bank = rfmRan bank s := by
  have others : s.dram.pendingRfm.filter (fun p => p.bank != bank) = s.dram.pendingRfm.filter (fun p => p.bank ≠ bank) := List.filter_congr fun p _ => by rw [Bool.eq_iff_iff]; simp
  unfold runRfm
  rw [if_pos (rfmPending_iff.2 waits), others]
  rfl

theorem runRfm_idle {s : State} {bank : Nat} (idle : ¬ RfmWaits s bank) : runRfm s bank = s := by
  unfold runRfm
  rw [if_neg (fun pending => idle (rfmPending_iff.1 pending))]

/-- A request has waited for a bank. -/
def rfmLate (bank : Nat) (s : State) : State := s.updChannel (bank / 32) (fun k => { k with rfmwait := k.rfmwait + 1 })

/-- The row of an address opens, if it is not open. -/
def openRow (pa : Nat) (s : State) : State := if tget none s.dram.openRows (hbmBank pa) = some (hbmRow pa) then s else activate s (hbmBank pa) (hbmRow pa)

theorem hbmRequest_eq (s : State) (pa : Nat) :
    hbmRequest s pa = openRow pa (if rfmPending s (hbmBank pa) || rfmRunning s (hbmBank pa) then runRfm (rfmLate (hbmBank pa) s) (hbmBank pa) else s) := rfl

theorem hbmRequest_waits {s : State} {pa : Nat} (waits : RfmWaits s (hbmBank pa)) :
    hbmRequest s pa = activate (rfmRan (hbmBank pa) (rfmLate (hbmBank pa) s)) (hbmBank pa) (hbmRow pa) := by
  have late : RfmWaits (rfmLate (hbmBank pa) s) (hbmBank pa) := waits
  have shut : tget none (rfmRan (hbmBank pa) (rfmLate (hbmBank pa) s)).dram.openRows (hbmBank pa) = none := tget_tset_self _ _ _ _
  rw [hbmRequest_eq, if_pos (by rw [rfmPending_iff.2 waits]; rfl), runRfm_waits late, openRow, shut, if_neg (by simp)]

theorem hbmRequest_running {s : State} {pa : Nat} (idle : ¬ RfmWaits s (hbmBank pa)) (runs : s.time.toNat < tget 0 s.dram.busy (hbmBank pa)) :
    hbmRequest s pa = if tget none s.dram.openRows (hbmBank pa) = some (hbmRow pa) then rfmLate (hbmBank pa) s else activate (rfmLate (hbmBank pa) s) (hbmBank pa) (hbmRow pa) := by
  have running : rfmRunning s (hbmBank pa) = true := decide_eq_true runs
  have late : ¬ RfmWaits (rfmLate (hbmBank pa) s) (hbmBank pa) := idle
  rw [hbmRequest_eq, if_pos (by rw [running, Bool.or_true]), runRfm_idle late]
  rfl

theorem hbmRequest_idle {s : State} {pa : Nat} (idle : ¬ RfmWaits s (hbmBank pa)) (runs : ¬ s.time.toNat < tget 0 s.dram.busy (hbmBank pa)) :
    hbmRequest s pa = if tget none s.dram.openRows (hbmBank pa) = some (hbmRow pa) then s else activate s (hbmBank pa) (hbmRow pa) := by
  have pending : rfmPending s (hbmBank pa) = false := Bool.eq_false_iff.2 fun p => idle (rfmPending_iff.1 p)
  have running : rfmRunning s (hbmBank pa) = false := decide_eq_false runs
  rw [hbmRequest_eq, if_neg (by rw [pending, running]; decide)]
  rfl

/-- A counter block after an activation. -/
def activated (k : Channel) : Channel := { k with act := k.act + 1 }

/-- A counter block after the activation that reaches the threshold. -/
def alerted (bank row : Nat) (k : Channel) : Channel :=
  { k with act := k.act + 1, alert := k.alert + 1,
           lastalert := BitVec.ofNat 64 (row + 2 ^ 16 * (bank % 16) + 2 ^ 20 * (bank / 16 % 2) + 2 ^ 32 * ((k.alert + 1).toNat % 2 ^ 32)) }

/-- The state after a row has opened: its bank's counter block, its count, and the commands that wait. -/
def rowOpened (bank row : Nat) (k : Channel) (n : Nat) (wait : List PendingRfm) (s : State) : State :=
  { s with dram := { s.dram with channels := tset s.dram.channels (bank / 32) k, openRows := tset s.dram.openRows bank (some row), counts := tset s.dram.counts (bank * 65536 + row) n,
                                 pendingRfm := s.dram.pendingRfm ++ wait } }

theorem activate_eq (s : State) (bank row : Nat) : activate s bank row =
    if tget 0 s.dram.counts (bank * 65536 + row) + 1 < s.dram.rmth.toNat
    then rowOpened bank row (activated (tget Channel.init s.dram.channels (bank / 32))) (tget 0 s.dram.counts (bank * 65536 + row) + 1) [] s
    else rowOpened bank row (alerted bank row (tget Channel.init s.dram.channels (bank / 32))) 0 [{ bank := bank, row := row, since := s.time }] s := by
  unfold activate rowOpened State.updChannel
  dsimp only
  split
  · rw [List.append_nil]
    rfl
  · rw [tget_tset_self, tset_tset]
    rfl

open Sys2Proof.Claim

/-! ## Scrubbing and soft errors (R413 to R418) -/

theorem sectorOf_start {k : Nat} (start : k % 64 = 0) : sectorOf k = k := by
  unfold sectorOf
  omega

theorem poisonSector_fresh {s : State} {sector : Nat} (fresh : s.poison.contains sector = false) (unit index : Nat) (part : Option (BitVec 3)) :
    poisonSector unit index part sector s = (s.setPoison sector).report { typ := 1, unit := unit, index := index, part := part, addr := sector } := by
  rw [poisonSector, if_neg (by rw [fresh]; decide)]

section
variable {s : State} {k : Nat}

theorem patrolScrub_hbm (start : k % 64 = 0) (hbm : regionOf k = .hbm) (found : SectorHealth) : exec (.patrolScrub k found) s = .next (match found with
    | .clean => s
    | .corrected => s.count (0x100 + 8 * hbmChannel k) 1
    | .uncorrectable => if s.poison.contains k then s else poisonSector 0 (hbmChannel k) none k (s.count (0x900 + 8 * hbmChannel k) 1)) := by
  have run : exec (.patrolScrub k found) s = execPatrolScrub k found s := rfl
  rw [run, execPatrolScrub]
  dsimp only
  rw [sectorOf_start start]
  cases found <;> exact congrArg Host.Outcome.next (if_neg (by rw [hbm]; decide))

theorem homeError_absent (hbm : regionOf k = .hbm) (absent : s.l2.find? (fun p => p.1 == k) = none) (correctable : Bool) :
    homeError k correctable s = if correctable then s.count (0x100 + 8 * hbmChannel k) 1
      else if s.poison.contains k then s else poisonSector 0 (hbmChannel k) none k (s.count (0x900 + 8 * hbmChannel k) 1) := by
  unfold homeError
  simp only [hbm, absent]

theorem homeError_held (hbm : regionOf k = .hbm) {e : L2Sector} (held : s.l2.find? (fun p => p.1 == k) = some (k, e)) (correctable : Bool) :
    homeError k correctable s = if correctable then s else if e.dirty then poisonSector 2 e.home (partOfBench s e.home) k s else memoryRequest (undoUpset s k) k := by
  unfold homeError
  simp only [hbm, held]

theorem undoUpset_clean (clean : NoUpset s) (k : Nat) : undoUpset s k = s := by
  rw [undoUpset, clean]
  exact if_pos rfl

theorem softError_home (start : k % 64 = 0) (correctable : Bool) : exec (.softError (.home k correctable)) s = .next (homeError k correctable s) := by
  have run : exec (.softError (.home k correctable)) s = .next (homeError (sectorOf k) correctable s) := rfl
  rw [run, sectorOf_start start]

/-- The bits of a sector that have changed after more have. -/
def upsetAfter (s : State) (k bits : Nat) : Nat := tget 0 s.upsets k ^^^ (bits % 2 ^ 528)

theorem upsetHome_held (held : s.l2.any (fun p => p.1 == k) = true) (bits : Nat) : upsetHome k bits s = { s with
    mem := memPutAll s.mem k (bytesOf 64 (memRead s.mem k 64 ^^^ (bits % 2 ^ 512))),
    upsets := if upsetAfter s k bits = 0 then tdel s.upsets k else tset s.upsets k (upsetAfter s k bits) } := by
  unfold upsetHome
  rw [if_pos (by rw [held, Bool.or_true])]
  rfl

theorem upsetHome_absent (hbm : regionOf k = .hbm) (absent : s.l2.any (fun p => p.1 == k) = false) (bits : Nat) : upsetHome k bits s = s := by
  unfold upsetHome
  rw [if_neg (by rw [hbm, absent]; decide)]

end

theorem tget_tdel {α : Type} (d : α) (t : Table α) (k : Nat) : tget d (tdel t k) k = d :=
  tget_absent d fun inside => by
    obtain ⟨e, listed, same⟩ := List.mem_map.1 inside
    exact bne_iff_ne.1 (List.mem_filter.1 listed).2 same

/-- The changed bits after an error, read back. -/
theorem tget_upsets (t : Table Nat) (k u : Nat) : tget 0 (if u = 0 then tdel t k else tset t k u) k = u := by
  split
  · next zero => rw [tget_tdel, zero]
  · exact tget_tset_self _ _ _ _

theorem ofNat_xor_div (x y i : Nat) : BitVec.ofNat 8 ((x ^^^ y) / 256 ^ i) = BitVec.ofNat 8 (x / 256 ^ i) ^^^ BitVec.ofNat 8 (y / 256 ^ i) := by
  rw [← two_pow_bytes, ← Nat.shiftRight_eq_div_pow, ← Nat.shiftRight_eq_div_pow, ← Nat.shiftRight_eq_div_pow, Nat.shiftRight_xor_distrib]
  exact BitVec.eq_of_toNat_eq (by simp)

/-- The bytes of a sector after some of its bits have changed. -/
theorem memGet_upset {m : List Host.Cell} (sound : Memory.wf m = true) (k bits a : Nat) :
    memGet (memPutAll m k (bytesOf 64 (memRead m k 64 ^^^ (bits % 2 ^ 512)))) a
      = if k ≤ a ∧ a < k + 64 then memGet m a ^^^ BitVec.ofNat 8 (bits / 256 ^ (a - k)) else memGet m a := by
  rw [memGet_memPutAll sound, length_bytesOf]
  split
  · next inside =>
    have real : a - k < 64 := by omega
    rw [getElem?_bytesOf, if_pos real, Option.getD_some, ofNat_xor_div, memRead_byte m k real, show (512 : Nat) = 8 * 64 from rfl, two_pow_bytes, ofNat_byte_mod bits real,
      Nat.add_sub_cancel' inside.1]
  · rfl

theorem testBit_foldl_or (l : List Nat) (p i : Nat) : (l.foldl (fun p e => p ||| 2 ^ e) p).testBit i = (p.testBit i || decide (i ∈ l)) := by
  induction l generalizing p with
  | nil => simp
  | cons e rest ih =>
    rw [List.foldl_cons, ih, Nat.testBit_or, Nat.testBit_two_pow, Bool.or_assoc]
    rw [← Bool.decide_or]
    exact congrArg _ (decide_eq_decide.2 (by rw [List.mem_cons, eq_comm]))

theorem mem_drawerMates (v : VReg) (e i : Nat) : i ∈ drawerMates v e ↔ i / (64 / elemWidth v.fmt.toNat) = e / (64 / elemWidth v.fmt.toNat) := by
  have side : 0 < 64 / elemWidth v.fmt.toNat := by rcases elemWidth_cases v.fmt.toNat with w | w | w | w | w <;> rw [w] <;> decide
  unfold drawerMates
  dsimp only
  generalize 64 / elemWidth v.fmt.toNat = n at *
  rw [List.mem_map]
  constructor
  · rintro ⟨j, inside, rfl⟩
    rw [Nat.add_comm, Nat.add_mul_div_right _ _ side, Nat.div_eq_of_lt (List.mem_range.1 inside), Nat.zero_add]
  · intro same
    refine ⟨i % n, List.mem_range.2 (Nat.mod_lt _ side), ?_⟩
    rw [← same, Nat.mul_comm]
    exact Nat.div_add_mod i n

theorem mem_foldl_setIns (l : List Nat) (f : Nat → Nat) (t : List Nat) (a : Nat) : a ∈ l.foldl (fun t i => setIns t (f i)) t ↔ a ∈ t ∨ ∃ i ∈ l, a = f i := by
  induction l generalizing t with
  | nil => simp
  | cons i rest ih =>
    rw [List.foldl_cons, ih, mem_setIns, or_comm (a := a = f i), or_assoc]
    simp

/-! ## The second tier's links (R310) -/

theorem cxlLinkDown_up {s : State} {port : Nat} (real : port < 4) (up : s.links.cxlUp.getLsbD port = true) :
    exec (.cxlLinkDown port) s = .next (
      ((s.l2.filter (fun p => regionOf p.1 == .cxl port && p.2.dirty)).map Prod.fst).foldl (fun s k => (s.setPoison k).report { typ := 8, unit := 1, index := port, part := none, addr := k })
        { s with
          l2 := s.l2.filter (fun p => !(regionOf p.1 == .cxl port)), upsets := s.upsets.filter (fun p => !(regionOf p.1 == .cxl port)),
          links := { s.links with cxlUp := s.links.cxlUp &&& ~~~(1#4 <<< port) } }) := by
  have run : exec (.cxlLinkDown port) s = execCxlLinkDown port s := rfl
  rw [run, execCxlLinkDown, if_neg]
  rw [up]
  simp only [Bool.not_true, Bool.or_false, decide_eq_true_eq]
  omega

theorem cxlLinkDown_down {s : State} {port : Nat} (down : s.links.cxlUp.getLsbD port = false) : exec (.cxlLinkDown port) s = .next s := by
  have run : exec (.cxlLinkDown port) s = execCxlLinkDown port s := rfl
  rw [run, execCxlLinkDown, if_pos (by rw [down]; simp)]

/-! ## L1 copies -/

theorem dropSectors_found {s : State} {c k : Nat} {x : L1Sector} (found : l1Find (s.core c).l1 k = some x) :
    dropSectors s c [k] = s.setCore c { s.core c with l1 := (s.core c).l1.filter (fun p => p.addr ≠ k) } := by
  have there : (s.core c).l1.any (fun p => [k].contains p.addr) = true :=
    List.any_eq_true.2 ⟨x, List.mem_of_find?_eq_some found, by simpa using List.find?_some found⟩
  have rest : (s.core c).l1.filter (fun p => !([k].contains p.addr)) = (s.core c).l1.filter (fun p => p.addr ≠ k) := List.filter_congr fun p _ => by simp
  rw [dropSectors, if_pos there, rest]

theorem l1Upset_found {s : State} {c k : Nat} {x : L1Sector} (found : l1Find (s.core c).l1 k = some x) {bits : Nat} (fits : bits < 2 ^ 528) :
    exec (.softError (.l1Upset c k bits)) s = .next (s.setCore c { s.core c with
      l1 := (s.core c).l1.map (fun p => if p.addr = k then { p with data := p.data ^^^ (bits % 2 ^ 512), upset := p.upset ^^^ bits } else p) }) := by
  have run : exec (.softError (.l1Upset c k bits)) s = execSoftError (.l1Upset c k bits) s := rfl
  have each (p : L1Sector) : (if p.addr == k then { p with data := p.data ^^^ (bits % 2 ^ 512), upset := p.upset ^^^ (bits % 2 ^ 528) } else p)
      = if p.addr = k then { p with data := p.data ^^^ (bits % 2 ^ 512), upset := p.upset ^^^ bits } else p := by
    rw [Nat.mod_eq_of_lt fits]
    exact if_congr beq_iff_eq rfl rfl
  rw [run, execSoftError]
  dsimp only
  rw [if_pos (by rw [found]; rfl), List.map_congr_left fun p _ => each p]

open Sys2Proof.Claim

theorem find?_any {s : State} {k : Nat} (absent : s.l2.find? (fun p => p.1 == k) = none) : s.l2.any (fun p => p.1 == k) = false :=
  List.any_eq_false.2 (List.find?_eq_none.1 absent)

theorem hbmAct_hbm {s : State} {pa : Nat} (hbm : regionOf pa = .hbm) : exec (.hbmAct pa) s = .next (hbmRequest s pa) := by
  have run : exec (.hbmAct pa) s = .next (if regionOf pa == .hbm then hbmRequest s pa else s) := rfl
  rw [run, hbm]
  rfl

theorem hbmAct_other {s : State} {pa : Nat} (other : regionOf pa ≠ .hbm) : exec (.hbmAct pa) s = .next s := by
  have run : exec (.hbmAct pa) s = .next (if regionOf pa == .hbm then hbmRequest s pa else s) := rfl
  rw [run, if_neg (by simpa using other)]

theorem rfmDue_iff {s : State} {bank : Nat} : rfmDue s bank = true ↔ ∃ p ∈ s.dram.pendingRfm, p.bank = bank ∧ 2000 ≤ (s.time - p.since).toNat := by
  rw [rfmDue, List.any_eq_true]
  exact exists_congr fun p => and_congr_right fun _ => by rw [Bool.and_eq_true, beq_iff_eq, decide_eq_true_eq]

theorem hbmRefresh_runs (bank : Nat) (s : State) :
    exec (.hbmRefresh bank) s = .next { runRfm s bank with dram := { (runRfm s bank).dram with openRows := tset (runRfm s bank).dram.openRows bank none } } := rfl

theorem rfmRan_shut (bank : Nat) (s : State) : { rfmRan bank s with dram := { (rfmRan bank s).dram with openRows := tset (rfmRan bank s).dram.openRows bank none } } = rfmRan bank s := by
  have shut : tset (rfmRan bank s).dram.openRows bank none = (rfmRan bank s).dram.openRows := tset_tset _ _ _ _
  rw [shut]

theorem drawerError {s : State} {h : Hart} (there : s.findHart h.id = some h) {r : Reg} {e : Nat} (fits : (e + 1) * elemWidth (h.vreg r.toNat).fmt.toNat ≤ h.capBits)
    (clean : (h.vreg r.toNat).poison.testBit e = false) : exec (.softError (.drawer h.id r e false)) s
      = .next ((s.updHart h.id (fun g => g.setV r.toNat { h.vreg r.toNat with poison := (drawerMates (h.vreg r.toNat) e).foldl (fun p e => p ||| 2 ^ e) (h.vreg r.toNat).poison })).report
          { typ := 2, unit := 4, index := coreOf h.id, part := some h.partid, addr := 0 }) := by
  have run : exec (.softError (.drawer h.id r e false)) s = execSoftError (.drawer h.id r e false) s := rfl
  rw [run, execSoftError]
  simp only [there]
  rw [if_neg Bool.false_ne_true, if_neg]
  rw [clean]
  simpa using fits

theorem canopyError {s : State} {n off : Nat} (real : n < 48) (inside : off < 2 ^ 24) : exec (.softError (.canopyUnit n off false)) s
    = .next ((s.setBench n { s.bench n with canopyPoison := (List.range 32).foldl (fun l i => setIns l (off / 8 * 32 + i)) (s.bench n).canopyPoison }).report
        { typ := 2, unit := 5, index := n, part := partOfBench s n, addr := 0 }) := by
  have run : exec (.softError (.canopyUnit n off false)) s = execSoftError (.canopyUnit n off false) s := rfl
  have benches : Config.benches = 48 := rfl
  rw [run, execSoftError]
  dsimp only
  rw [if_neg]
  rw [benches]
  simp only [Bool.false_or, Bool.or_eq_true, decide_eq_true_eq]
  omega

theorem homeUpset_spec {s : State} {k : Nat} (start : k % 64 = 0) (held : s.l2.any (fun p => p.1 == k) = true) (sound : Sound s) {bits : Nat} (fits : bits < 2 ^ 528) :
    ∃ t, exec (.softError (.homeUpset k bits)) s = .next t ∧ t = { s with mem := t.mem, upsets := t.upsets } ∧ tget 0 t.upsets k = tget 0 s.upsets k ^^^ bits
      ∧ ∀ a, memGet t.mem a = if k ≤ a ∧ a < k + 64 then memGet s.mem a ^^^ BitVec.ofNat 8 (bits / 256 ^ (a - k)) else memGet s.mem a := by
  have run : exec (.softError (.homeUpset k bits)) s = .next (upsetHome (sectorOf k) bits s) := rfl
  have changed : upsetAfter s k bits = tget 0 s.upsets k ^^^ bits := by rw [upsetAfter, Nat.mod_eq_of_lt fits]
  have after := upsetHome_held held bits
  have bytes (a : Nat) := memGet_upset sound k bits a
  rw [changed] at after
  rw [run, sectorOf_start start, after]
  generalize memPutAll s.mem k (bytesOf 64 (memRead s.mem k 64 ^^^ (bits % 2 ^ 512))) = m at bytes
  exact ⟨_, rfl, rfl, tget_upsets _ _ _, bytes⟩

theorem memoryControllers : Claim.MemoryControllers := by
  intro s waits ran late opened
  have opens (pa : Nat) (u : State) : activate u (hbmBank pa) (hbmRow pa) = opened pa u := activate_eq u (hbmBank pa) (hbmRow pa)
  refine ⟨?act, fun pa other => hbmAct_other other, ?rfm, ?home, ?copy, ?drawer, ?canopy, ?link⟩
  case act =>
    intro pa hbm bank isOpen runs
    refine ⟨fun idle quiet => (hbmAct_hbm hbm).trans (congrArg _ ?_), fun idle running => (hbmAct_hbm hbm).trans (congrArg _ ?_), fun pending => (hbmAct_hbm hbm).trans (congrArg _ ?_)⟩
    · rw [hbmRequest_idle idle quiet, opens]
    · rw [hbmRequest_running idle running, opens]
      rfl
    · rw [hbmRequest_waits pending, opens]
      rfl
  case rfm =>
    intro bank due
    refine ⟨fun overdue => ?_, fun early => ?_, fun pending => ?_, fun idle => ?_⟩
    · obtain ⟨p, listed, mine, -⟩ := id overdue
      have pending : RfmWaits s bank := ⟨p, listed, mine⟩
      exact congrArg Host.Outcome.next ((if_pos (rfmDue_iff.2 overdue)).trans (runRfm_waits pending))
    · exact congrArg Host.Outcome.next (if_neg fun due => early (rfmDue_iff.1 due))
    · rw [hbmRefresh_runs, runRfm_waits pending, rfmRan_shut]
      rfl
    · rw [hbmRefresh_runs, runRfm_idle idle]
  case home =>
    intro k start hbm ch marked copy
    refine ⟨patrolScrub_hbm start hbm .clean, patrolScrub_hbm start hbm .corrected, fun poisoned => (patrolScrub_hbm start hbm .uncorrectable).trans (congrArg _ (if_pos poisoned)), fun fresh => ?_,
      fun absent => ⟨?_, ?_⟩, fun e held => ⟨?_, fun clean quiet => ?_, fun dirty fresh => ?_⟩, fun e bits held fits sound => ?_, fun absent bits => ?_⟩
    · refine (patrolScrub_hbm start hbm .uncorrectable).trans (congrArg _ ?_)
      dsimp only
      rw [if_neg (by rw [fresh]; decide)]
      exact poisonSector_fresh (s := s.count (0x900 + 8 * hbmChannel k) 1) fresh _ _ _
    · rw [softError_home start, homeError_absent hbm absent, patrolScrub_hbm start hbm]
      rfl
    · rw [softError_home start, homeError_absent hbm absent, patrolScrub_hbm start hbm]
      rfl
    · rw [softError_home start, homeError_held hbm held]
      rfl
    · rw [softError_home start, homeError_held hbm held, if_neg Bool.false_ne_true, if_neg (by rw [clean]; decide), undoUpset_clean quiet, hbmAct_hbm hbm, memoryRequest, hbm]
      rfl
    · rw [softError_home start, homeError_held hbm held, if_neg Bool.false_ne_true, if_pos dirty, poisonSector_fresh fresh]
      rfl
    · have there : s.l2.any (fun p => p.1 == k) = true := List.any_eq_true.2 ⟨(k, e), List.mem_of_find?_eq_some held, beq_self_eq_true k⟩
      exact homeUpset_spec start there sound fits
    · have run : exec (.softError (.homeUpset k bits)) s = .next (upsetHome (sectorOf k) bits s) := rfl
      rw [run, sectorOf_start start, upsetHome_absent hbm (find?_any absent)]
  case copy =>
    intro c k x unit found rest
    refine ⟨?_, congrArg _ (dropSectors_found found), rfl, fun bits fits => l1Upset_found found fits⟩
    have run : exec (.softError (.l1Copy c k)) s = .next (if (l1Find (s.core c).l1 k).isSome then (dropSectors s c [k]).count (0x1D00 + 8 * 6) 1 else s) := rfl
    rw [run, if_pos (by rw [found]; rfl), dropSectors_found found]
  case drawer =>
    intro h r e there fits side
    refine ⟨rfl, fun clean => ⟨_, fun i => ?_, drawerError there fits clean⟩⟩
    rw [testBit_foldl_or]
    exact congrArg _ (decide_eq_decide.2 (mem_drawerMates (h.vreg r.toNat) e i))
  case canopy =>
    intro n off real inside
    refine ⟨_, fun a => ?_, canopyError real inside⟩
    rw [mem_foldl_setIns]
    refine or_congr_right ⟨?_, fun same => ⟨a % 32, List.mem_range.2 (Nat.mod_lt _ (by decide)), by omega⟩⟩
    rintro ⟨i, low, rfl⟩
    have := List.mem_range.1 low
    omega
  case link =>
    intro port real
    refine ⟨fun down => cxlLinkDown_down down, fun up => (cxlLinkDown_up real up).trans (congrArg _ ?_)⟩
    have dirty : s.l2.filter (fun p => regionOf p.1 == .cxl port && p.2.dirty) = s.l2.filter (fun p => regionOf p.1 = .cxl port ∧ p.2.dirty = true) :=
      List.filter_congr fun p _ => by rw [Bool.eq_iff_iff]; simp
    have other {α : Type} (t : Table α) : t.filter (fun p => !(regionOf p.1 == .cxl port)) = t.filter (fun p => regionOf p.1 ≠ .cxl port) :=
      List.filter_congr fun p _ => by rw [Bool.eq_iff_iff]; simp
    rw [dirty, other, other]
    rfl

open Sys2Proof.Claim

/-! ## One cycle of a core's lane clusters (R286 to R291, R404) -/

/-- A core as a cycle finds it: the entries of its window, and its clusters gated or woken as they are due. -/
def settledCore (k : Core) (w : List Uops) : Core := { k with window := w, clusters := k.clusters.map (fun c => c.settle k.cycle) }

/-- A core after a cycle in which every cluster picks alike. -/
def cycledCore (k : Core) (w rest : List Uops) (pick : Option Nat) (empty : Bool) : Core :=
  let cs := (settledCore k w).clusters.mapIdx (fun c cl => cl.after c (settledCore k w) pick)
  { k with window := rest, clusters := cs, cycle := k.cycle + 1, unitGated := empty && cs.toList.all Cluster.asleep }

theorem join_replicate {pick : Option Nat} {c : Nat} (real : c < 8) : ((List.replicate 8 pick)[c]?).join = pick := by
  rw [List.getElem?_replicate, if_pos real]
  rfl

/-- A cycle in which every cluster picks alike. -/
theorem coreCycle_alike {live : Nat → Bool} {empty : Bool} {k : Core} {w : List Uops} {pick : Option Nat} (entered : enterAll (k.window.filter (fun u => !u.token || live u.slotNo)) = w)
    (open' : ∀ u ∈ w, u.finish = none) (picks : settlePicks (settledCore k w) (8 * w.length + 1) [] = List.replicate 8 pick) :
    coreCycle live empty k = cycledCore k w (retire (w.mapIdx (fun i u => u.issue i (List.replicate 8 pick) k.cycle (clusterGet Cluster.init (settledCore k w).clusters 0).issued))) pick empty := by
  have edges (f : Uops → Uops) (keeps : ∀ u : Uops, u.finish = none → f u = u) : w.map f = w :=
    (List.map_congr_left fun u inside => keeps u (open' u inside)).trans (List.map_id' w)
  have clusters : (settledCore k w).clusters.mapIdx (fun c cl => cl.after c (settledCore k w) ((List.replicate 8 pick)[c]?).join)
      = (settledCore k w).clusters.mapIdx (fun c cl => cl.after c (settledCore k w) pick) :=
    Vector.ext fun c real => by rw [Vector.getElem_mapIdx, Vector.getElem_mapIdx, join_replicate real]
  have picks' : settlePicks { k with window := w, clusters := k.clusters.map (fun c => c.settle k.cycle) } (8 * w.length + 1) [] = List.replicate 8 pick := picks
  unfold coreCycle cycledCore
  dsimp only
  rw [entered, edges]
  case keeps => intro u unfinished; simp only [unfinished]
  rw [picks', ← clusters]
  rfl

theorem pickUop_nil (last c now : Nat) (barred : List (Nat × Nat)) : pickUop [] last c now barred = none := by
  rw [pickUop, List.findSome?_eq_none_iff]
  exact fun k _ => rfl

theorem findSome?_ite {l : List Nat} {p : Nat → Bool} {x : Nat} (found : ∃ k ∈ l, p k = true) : l.findSome? (fun k => if p k then some x else none) = some x := by
  induction l with
  | nil => exact nomatch found
  | cons a rest ih =>
    rw [List.findSome?_cons]
    by_cases here : p a = true
    · rw [if_pos here]
    · rw [if_neg here]
      obtain ⟨k, inside, yes⟩ := found
      exact ih ⟨k, (List.mem_cons.1 inside).resolve_left fun same => here (same ▸ yes), yes⟩

/-- A window of one entry that is ready is picked from, whatever slot was served last. -/
theorem pickUop_one {u : Uops} {c now : Nat} (slot : u.slotNo < 4) (ready : readyUop [u] 0 c now = true) (last : Nat) : pickUop [u] last c now [] = some 0 := by
  have each (k : Nat) : (List.range [u].length).find? (fun i => ([u][i]?).any (fun u => u.slotNo == k) && !([] : List (Nat × Nat)).contains (c, i) && readyUop [u] i c now)
      = if u.slotNo == k then some 0 else none := by
    have first : ([u][0]?).any (fun u => u.slotNo == k) = (u.slotNo == k) := rfl
    rw [List.length_singleton, List.range_one, List.find?_cons, first, ready]
    cases u.slotNo == k <;> rfl
  unfold pickUop
  simp only [each]
  refine findSome?_ite ⟨u.slotNo, List.mem_map.2 ⟨(u.slotNo + 4 - (last + 1) % 4) % 4, List.mem_range.2 (Nat.mod_lt _ (by decide)), by omega⟩, beq_self_eq_true _⟩

theorem settlePicks_all {k : Core} {n : Nat} (free : overSlip k.window (issues k []) = []) : settlePicks k (n + 1) [] = issues k [] := by
  rw [settlePicks, free]

theorem map_range_const {α : Type} {f : Nat → α} {x : α} {n : Nat} (all : ∀ c, c < n → f c = x) : (List.range n).map f = List.replicate n x :=
  List.ext_getElem (by simp) fun i h _ => by
    rw [List.getElem_map, List.getElem_range, List.getElem_replicate]
    exact all i (by simpa using h)

theorem overSlip_none (w : List Uops) : overSlip w (List.replicate 8 none) = [] := by
  refine List.filterMap_eq_nil_iff.2 fun c inside => ?_
  have pick : (List.replicate 8 (none : Option Nat))[c]? = some none := by rw [List.getElem?_replicate, if_pos (List.mem_range.1 inside)]
  simp only [pick]

/-- Clusters that pick an entry in lockstep go no further ahead than a slip limit lets them. -/
theorem overSlip_lockstep {u : Uops} {n : Nat} (next : u.next = Vector.replicate 8 n) : overSlip [u] (List.replicate 8 (some 0)) = [] := by
  refine List.filterMap_eq_nil_iff.2 fun c inside => ?_
  have pick {d : Nat} (real : d < 8) : (List.replicate 8 (some 0))[d]? = some (some 0) := by rw [List.getElem?_replicate, if_pos real]
  have get {d : Nat} (real : d < 8) : clusterGet 0 u.next d = n := by rw [clusterGet, next]; simp [real]
  have small := List.mem_range.1 inside
  simp only [pick small, List.getElem?_cons_zero, slotWork, List.filter_cons, beq_self_eq_true, if_true, List.filter_nil, List.foldl_cons, List.foldl_nil, get small, Option.map_some]
  refine if_neg fun ahead => ?_
  obtain ⟨d, within, more⟩ := List.any_eq_true.1 ahead
  have near := List.mem_range.1 within
  simp only [pick near, get near, decide_eq_true_eq, List.getElem?_cons_zero, Option.map_some, beq_self_eq_true, if_true] at more
  omega

open Sys2Proof.Claim

/-- What a core's cycle does: the window it leaves, and what it makes of each cluster. -/
def Cycled (s : State) (core : Nat) (w : List Uops) (f : Fin 8 → Cluster → Cluster) : Prop :=
  ∃ x y, exec (.microopIssue core 1) s = .next (s.setCore core { s.core core with window := w, clusters := x, cycle := (s.core core).cycle + 1, unitGated := y })
    ∧ (∀ i : Fin 8, x[i] = f i (s.core core).clusters[i])
    ∧ (y = true ↔ (∀ g ∈ s.harts, coreOf g.id ≠ core) ∧ ∀ i : Fin 8, x[i].gated = true ∨ 256 ≤ x[i].idle)

theorem coreCount_zero {s : State} {core : Nat} : (coreCount s core == 0) = true ↔ ∀ g ∈ s.harts, coreOf g.id ≠ core := by
  rw [beq_iff_eq, coreCount, List.length_eq_zero_iff, List.filter_eq_nil_iff]
  exact forall₂_congr fun g _ => not_congr beq_iff_eq

theorem all_asleep {cs : Vector Cluster 8} : cs.toList.all Cluster.asleep = true ↔ ∀ i : Fin 8, cs[i].gated = true ∨ 256 ≤ cs[i].idle := by
  simp only [List.all_eq_true, Vector.mem_toList_iff, Vector.forall_mem_iff_forall_getElem, Cluster.asleep, Bool.or_eq_true, decide_eq_true_eq]
  exact ⟨fun all i => all i.val i.isLt, fun all i real => all ⟨i, real⟩⟩

/-- What a cycle leaves, where every cluster picks alike. -/
theorem cycled_alike {s : State} {core : Nat} {w rest : List Uops} {pick : Option Nat} {f : Fin 8 → Cluster → Cluster}
    (runs : coreCycle (tokenLive s core) (coreCount s core == 0) (s.core core) = cycledCore (s.core core) w rest pick (coreCount s core == 0))
    (each : ∀ i : Fin 8, ((s.core core).clusters[i].settle (s.core core).cycle).after i (settledCore (s.core core) w) pick = f i (s.core core).clusters[i]) :
    Cycled s core rest f := by
  let x := (settledCore (s.core core) w).clusters.mapIdx (fun c cl => cl.after c (settledCore (s.core core) w) pick)
  refine ⟨x, coreCount s core == 0 && x.toList.all Cluster.asleep, ?runs, fun i => ?each, ?gated⟩
  case runs =>
    have one : exec (.microopIssue core 1) s = .next (s.setCore core (coreCycle (tokenLive s core) (coreCount s core == 0) (s.core core))) := rfl
    rw [one, runs]
    rfl
  case each =>
    have here : x[i] = ((s.core core).clusters[i].settle (s.core core).cycle).after i (settledCore (s.core core) w) pick := by
      simp [x, settledCore]
    exact here.trans (each i)
  case gated => rw [Bool.and_eq_true, coreCount_zero, all_asleep]

/-- A cluster with an empty window issues nothing and has nothing to wake for. -/
theorem after_empty {cl : Cluster} {c : Nat} {k : Core} (empty : k.window = []) : cl.after c k none = { cl with issued := false, idle := cl.idle + 1 } := by
  rw [Cluster.after, empty, pickUop_nil, Option.isSome_none, Bool.and_false]
  rfl

/-- A cycle of a core whose window is empty. -/
theorem cycled_empty {s : State} {core : Nat} (empty : (s.core core).window = []) :
    Cycled s core [] (fun _ a => { a.settle (s.core core).cycle with issued := false, idle := (a.settle (s.core core).cycle).idle + 1 }) := by
  have entered : enterAll ((s.core core).window.filter (fun u => !u.token || tokenLive s core u.slotNo)) = [] := by rw [empty]; rfl
  have none' : issues (settledCore (s.core core) []) [] = List.replicate 8 none :=
    map_range_const fun c _ => by
      have nothing : (settledCore (s.core core) []).window = [] := rfl
      simp only [nothing, pickUop_nil]
  have picks : settlePicks (settledCore (s.core core) []) 1 [] = List.replicate 8 none := by
    rw [settlePicks_all (by rw [none']; exact overSlip_none _), none']
  exact cycled_alike (coreCycle_alike entered (fun _ inside => nomatch inside) picks) fun i => after_empty rfl

/-- The lone entry of a window, renamed and whole in it, of which every cluster has done the same groups. -/
structure Lone (k : Core) (u : Uops) (n : Nat) : Prop where
  window : k.window = [u]
  slot : u.slotNo < 4
  renamed : u.renamed = true
  entered : u.entered = u.groups
  token : u.token = false
  skew : u.skew = 0
  finish : u.finish = none
  next : u.next = Vector.replicate 8 n
  more : n < u.groups

namespace Lone
variable {k : Core} {u : Uops} {n : Nat} (h : Lone k u n)
include h

theorem next_get {c : Nat} (real : c < 8) : clusterGet 0 u.next c = n := by rw [clusterGet, h.next]; simp [real]

theorem stays (live : Nat → Bool) : enterAll (k.window.filter (fun u => !u.token || live u.slotNo)) = [u] := by
  have unqueued : u.queued = false := by simp [Uops.queued, h.renamed, h.entered]
  have kept : k.window.filter (fun u => !u.token || live u.slotNo) = [u] := by simp [h.window, h.token]
  have one : enterEntry [u] 0 = [u] := by simp [enterEntry, unqueued]
  rw [kept, enterAll]
  exact one

theorem ready {c now : Nat} (real : c < 8) : readyUop [u] 0 c now = true := by
  simp [readyUop, h.next_get real, h.entered, h.more, Uops.unstaggered, h.skew, slotWork]

theorem picked {c now : Nat} (real : c < 8) (last : Nat) : pickUop [u] last c now [] = some 0 := pickUop_one h.slot (h.ready real) last

theorem issues_all {pick : Option Nat} (w : (settledCore k [u]).window = [u])
    (each : ∀ c, c < 8 → (if ((clusterGet Cluster.init (settledCore k [u]).clusters c).asleep && u.occupies c) = true then none else some 0) = pick) :
    issues (settledCore k [u]) [] = List.replicate 8 pick :=
  map_range_const fun c real => by
    simp only [w, h.picked real]
    exact each c real

theorem done_iff {v : Uops} {m : Nat} (same : v.renamed = u.renamed ∧ v.token = u.token ∧ v.groups = u.groups) (next : v.next = Vector.replicate 8 m) (less : m ≤ u.groups) :
    v.done = decide (m = u.groups) := by
  obtain ⟨renamed, token, groups⟩ := same
  have slowest : v.slowest = m := by
    rw [Uops.slowest, next, groups]
    simp only [Vector.toList_replicate, List.replicate, List.foldl_cons, List.foldl_nil]
    omega
  rw [Uops.done, renamed, token, h.renamed, h.token, slowest, groups]
  simp only [Bool.not_false, Bool.and_true, Bool.true_and, decide_eq_decide]
  omega

end Lone

theorem retire_one (u : Uops) : retire [u] = if u.done then [] else [u] := by
  cases done : u.done <;> simp [retire, slotWork, done]

open Sys2Proof.Claim

theorem settled_get {k : Core} {w : List Uops} {c : Nat} (real : c < 8) : clusterGet Cluster.init (settledCore k w).clusters c = (k.clusters[(⟨c, real⟩ : Fin 8)]).settle k.cycle := by
  simp [clusterGet, settledCore, real]

theorem settle_awake {a : Cluster} {now : Nat} (short : a.idle < 256) (unwoken : a.wakeAt = none) : a.settle now = a := by
  rw [Cluster.settle, unwoken]
  exact if_neg (by omega)

theorem settle_gated {a : Cluster} {now : Nat} (gated : a.gated = true) (unwoken : a.wakeAt = none) : a.settle now = a := by
  obtain ⟨last, issued, idle, g, wake⟩ := a
  cases gated
  cases unwoken
  exact ite_self _

/-- An entry of which every cluster has done group `n`, after a cycle in which each issues that group (R287). -/
def advanced (u : Uops) (n now : Nat) (busy : Bool) : Uops :=
  { u with next := Vector.replicate 8 (n + 1), start := if n = 0 then some (now, !busy) else u.start, finish := if n + 1 = u.groups then some (now, none) else u.finish }

theorem issue_none (u : Uops) (now : Nat) (busy : Bool) : u.issue 0 (List.replicate 8 none) now busy = u := by
  have mine (c : Nat) : ((List.replicate 8 (none : Option Nat))[c]? == some (some 0)) = false := by
    rw [List.getElem?_replicate]
    split <;> rfl
  have rows : u.next.mapIdx (fun _ m => m) = u.next := Vector.ext fun c real => Vector.getElem_mapIdx real
  unfold Uops.issue
  simp only [mine, Bool.false_and, Bool.false_eq_true, if_false, rows]

namespace Lone
variable {k : Core} {u : Uops} {n : Nat} (h : Lone k u n)
include h

theorem issue_all (now : Nat) (busy : Bool) : u.issue 0 (List.replicate 8 (some 0)) now busy = advanced u n now busy := by
  have mine {c : Nat} (real : c < 8) : ((List.replicate 8 (some 0))[c]? == some (some 0)) = true := by rw [List.getElem?_replicate, if_pos real]; rfl
  have rows : u.next.mapIdx (fun c m => if (List.replicate 8 (some 0))[c]? == some (some 0) then m + 1 else m) = Vector.replicate 8 (n + 1) :=
    Vector.ext fun c real => by rw [Vector.getElem_mapIdx, if_pos (mine real), Vector.getElem_replicate]; simp [h.next]
  unfold Uops.issue advanced
  simp only [rows, mine (by decide : 0 < 8), h.next_get (by decide : 0 < 8), Bool.true_and, decide_eq_true_eq]

/-- A cycle in which every cluster picks alike, of a window of one entry. -/
theorem alike {pick : Option Nat} (live : Nat → Bool) (empty : Bool) (issued : issues (settledCore k [u]) [] = List.replicate 8 pick)
    (free : overSlip [u] (List.replicate 8 pick) = []) :
    coreCycle live empty k = cycledCore k [u] (retire [u.issue 0 (List.replicate 8 pick) k.cycle (clusterGet Cluster.init (settledCore k [u]).clusters 0).issued]) pick empty := by
  have w : (settledCore k [u]).window = [u] := rfl
  have picks : settlePicks (settledCore k [u]) (8 * [u].length + 1) [] = List.replicate 8 pick := by
    rw [settlePicks_all (by rw [w, issued]; exact free), issued]
  have unfinished : ∀ v ∈ [u], v.finish = none := fun v inside => List.mem_singleton.1 inside ▸ h.finish
  exact coreCycle_alike (h.stays live) unfinished picks

end Lone

/-- A gated cluster that has work begins to wake (R404). -/
theorem after_waking {cl : Cluster} {c : Nat} {k : Core} (down : cl.asleep = true) (ready : (pickUop k.window cl.lastSlot c k.cycle []).isSome = true) (unwoken : cl.wakeAt = none) :
    cl.after c k none = { cl with issued := false, idle := cl.idle + 1, wakeAt := some (k.cycle + 20) } := by
  simp only [Cluster.after, ready, down, unwoken]
  rfl

/-- A cycle of a lone entry whose clusters are awake: each issues its next group (R287, R289, R291). -/
theorem cycled_awake {s : State} {core : Nat} {u : Uops} {n : Nat} (h : Lone (s.core core) u n)
    (awake : ∀ i : Fin 8, (s.core core).clusters[i].gated = false ∧ (s.core core).clusters[i].idle < 256 ∧ (s.core core).clusters[i].wakeAt = none) :
    Cycled s core (if n + 1 = u.groups then [] else
        [{ u with next := Vector.replicate 8 (n + 1), start := if n = 0 then some ((s.core core).cycle, !(s.core core).clusters[(0 : Fin 8)].issued) else u.start }])
      (fun i a => { a with lastSlot := u.slotNo, issued := true, idle := if n * (4096 / u.wide) + 8 * i.val < u.vl then 0 else a.idle + 1 }) := by
  let k := s.core core
  have rest (i : Fin 8) : k.clusters[i].settle k.cycle = k.clusters[i] := settle_awake (awake i).2.1 (awake i).2.2
  have get {c : Nat} (real : c < 8) : clusterGet Cluster.init (settledCore k [u]).clusters c = k.clusters[(⟨c, real⟩ : Fin 8)] := (settled_get real).trans (rest ⟨c, real⟩)
  have issued : issues (settledCore k [u]) [] = List.replicate 8 (some 0) := h.issues_all rfl fun c real => by
    obtain ⟨ungated, short, _⟩ := awake ⟨c, real⟩
    have up : k.clusters[(⟨c, real⟩ : Fin 8)].asleep = false := by
      rw [Cluster.asleep, ungated]
      exact decide_eq_false (Nat.not_le.2 short)
    rw [get real, up]
    rfl
  have runs := h.alike (tokenLive s core) (coreCount s core == 0) issued (overSlip_lockstep h.next)
  rw [h.issue_all, retire_one, h.done_iff (v := advanced u n k.cycle _) ⟨rfl, rfl, rfl⟩ rfl h.more, get (by decide : 0 < 8)] at runs
  have window : (if decide (n + 1 = u.groups) = true then [] else [advanced u n k.cycle k.clusters[(0 : Fin 8)].issued])
      = if n + 1 = u.groups then [] else [{ u with next := Vector.replicate 8 (n + 1), start := if n = 0 then some (k.cycle, !k.clusters[(0 : Fin 8)].issued) else u.start }] := by
    by_cases last : n + 1 = u.groups
    · simp only [last, decide_true, if_true]
    · simp only [advanced, last, decide_false, if_false, Bool.false_eq_true]
  refine cycled_alike (pick := some 0) (w := [u]) (runs.trans (congrArg (fun w => cycledCore k [u] w (some 0) (coreCount s core == 0)) window)) fun i => ?_
  have occupied : u.occupies i = decide (n * (4096 / u.wide) + 8 * i.val < u.vl) := by rw [Uops.occupies, h.next_get i.isLt]; rfl
  rw [rest i]
  simp only [Cluster.after, settledCore, List.getElem?_cons_zero, occupied, decide_eq_true_eq]
  rfl

/-- A cycle of a lone entry whose clusters are gated: none issues, and each begins to wake (R404). -/
theorem cycled_gated {s : State} {core : Nat} {u : Uops} {n : Nat} (h : Lone (s.core core) u n) (below : n * (4096 / u.wide) + 56 < u.vl)
    (gated : ∀ i : Fin 8, (s.core core).clusters[i].gated = true ∧ (s.core core).clusters[i].wakeAt = none) :
    Cycled s core [u] (fun _ a => { a with issued := false, idle := a.idle + 1, wakeAt := some ((s.core core).cycle + 20) }) := by
  let k := s.core core
  have rest (i : Fin 8) : k.clusters[i].settle k.cycle = k.clusters[i] := settle_gated (gated i).1 (gated i).2
  have down (i : Fin 8) : k.clusters[i].asleep = true := by rw [Cluster.asleep, (gated i).1]; rfl
  have issued : issues (settledCore k [u]) [] = List.replicate 8 none := h.issues_all rfl fun c real => by
    have occupied : u.occupies c = true := by
      rw [Uops.occupies, h.next_get real]
      exact decide_eq_true (show n * (4096 / u.wide) + 8 * c < u.vl by omega)
    rw [settled_get real, rest, down, occupied]
    rfl
  have runs := h.alike (tokenLive s core) (coreCount s core == 0) issued (overSlip_none _)
  have open' : decide (n = u.groups) = false := decide_eq_false (Nat.ne_of_lt h.more)
  rw [issue_none, retire_one, h.done_iff ⟨rfl, rfl, rfl⟩ h.next (Nat.le_of_lt h.more), open'] at runs
  refine cycled_alike (w := [u]) runs fun i => ?_
  have ready : (pickUop (settledCore k [u]).window k.clusters[i].lastSlot i (settledCore k [u]).cycle []).isSome = true := by
    have window : (settledCore k [u]).window = [u] := rfl
    rw [window, h.picked i.isLt]
    rfl
  rw [rest i, after_waking (down i) ready (gated i).2]
  rfl

open Sys2Proof.Claim

/-! ## Gating and waking a cluster (R404) -/

/-- A state with another value for a cluster of a core. -/
def withCluster (s : State) (core : Nat) (c : Fin 8) (x : Cluster) : State := s.setCore core { s.core core with clusters := (s.core core).clusters.set c.val x }

theorem mapIdx_one {α : Type} {n : Nat} (xs : Vector α n) (i : Fin n) (f : α → α) : xs.mapIdx (fun j y => if j == i.val then f y else y) = xs.set i.val (f xs[i]) := by
  refine Vector.ext fun j inside => ?_
  rw [Vector.getElem_mapIdx, Vector.getElem_set]
  by_cases here : j = i.val
  · subst here
    rw [if_pos (beq_self_eq_true _), if_pos rfl]
    rfl
  · rw [if_neg (mt beq_iff_eq.1 here), if_neg (Ne.symm here)]

theorem updCluster_eq (s : State) (core : Nat) (c : Fin 8) (f : Nat → Cluster → Cluster) :
    updCluster core c.val f s = withCluster s core c (f (s.core core).cycle (s.core core).clusters[c]) :=
  congrArg (fun x => s.setCore core { s.core core with clusters := x }) (mapIdx_one _ c _)

theorem clusterGate_runs (s : State) (core : Nat) (c : Fin 8) :
    exec (.clusterGate core c) s = .next (withCluster s core c (if 256 ≤ (s.core core).clusters[c].idle then { (s.core core).clusters[c] with gated := true } else (s.core core).clusters[c])) :=
  congrArg Host.Outcome.next (updCluster_eq s core c _)

/-- A cluster that has taken its 20 cycles to wake by a cycle is awake (R404). -/
def woken (now : Nat) (cl : Cluster) : Cluster := match cl.wakeAt with
  | some t => if t ≤ now then { cl with gated := false, wakeAt := none, idle := 0 } else cl
  | none => cl

theorem clusterWake_runs (s : State) (core : Nat) (c : Fin 8) :
    exec (.clusterWake core c) s = .next (withCluster s core c (woken (s.core core).cycle (s.core core).clusters[c])) := by
  refine congrArg Host.Outcome.next ((updCluster_eq s core c _).trans (congrArg (withCluster s core c) ?_))
  rw [woken]
  cases wake : (s.core core).clusters[c].wakeAt with
  | none => rfl
  | some t => simp only [Option.any_some, decide_eq_true_eq]

/-! ## A sector comes into a core's caches (R300, R301) -/

theorem l1Find_cons_self (p : L1Sector) (l : List L1Sector) : l1Find (p :: l) p.addr = some p := List.find?_cons_of_pos (beq_self_eq_true p.addr)

theorem l1Find_none {l : List L1Sector} {sector : Nat} : l1Find l sector = none ↔ ∀ p ∈ l, p.addr ≠ sector := by
  rw [l1Find, List.find?_eq_none]
  exact forall₂_congr fun p _ => not_congr beq_iff_eq

theorem mem_l1Keep {ways : Nat} {l : List L1Sector} {p : L1Sector} (kept : p ∈ l1Keep ways l) : p ∈ l := (List.mem_filter.1 kept).1

/-- What the lines of a set that stay leave of an L1, before a sector comes in (R300). -/
def l1Spared (ways : Nat) (p : L1Sector) (l : List L1Sector) : List L1Sector :=
  if (l1Lines l (setOf p.addr)).contains (lineOf p.addr) then l
  else l1Keep (ways - 1) (l.filter (fun q => setOf q.addr == setOf p.addr)) ++ l.filter (fun q => setOf q.addr != setOf p.addr)

theorem l1Fill_spared (ways : Nat) (nt : Bool) (p : L1Sector) (l : List L1Sector) :
    l1Fill ways nt p l = if nt then l1Spared ways p l ++ [p] else l1Use (p :: l1Spared ways p l) p.addr := rfl

theorem mem_l1Spared {ways : Nat} {p q : L1Sector} {l : List L1Sector} (inside : q ∈ l1Spared ways p l) : q ∈ l := by
  unfold l1Spared at inside
  split at inside
  · exact inside
  · rcases List.mem_append.1 inside with kept | other
    · exact (List.mem_filter.1 (mem_l1Keep kept)).1
    · exact (List.mem_filter.1 other).1

theorem mem_l1Use {l : List L1Sector} {sector : Nat} {q : L1Sector} (inside : q ∈ l1Use l sector) : q ∈ l :=
  (List.mem_append.1 inside).elim (fun h => (List.mem_filter.1 h).1) (fun h => (List.mem_filter.1 h).1)

theorem mem_l1Fill {ways : Nat} {nt : Bool} {p q : L1Sector} {l : List L1Sector} (inside : q ∈ l1Fill ways nt p l) : q = p ∨ q ∈ l := by
  rw [l1Fill_spared] at inside
  split at inside
  · rcases List.mem_append.1 inside with old | new
    · exact .inr (mem_l1Spared old)
    · exact .inl (List.mem_singleton.1 new)
  · exact (List.mem_cons.1 (mem_l1Use inside)).imp_right mem_l1Spared

/-- A sector that comes into an L1 that had no copy of it is found there. -/
theorem l1Find_filled {ways : Nat} {nt : Bool} {p : L1Sector} {l : List L1Sector} (absent : l1Find l p.addr = none) : l1Find (l1Fill ways nt p l) p.addr = some p := by
  have spared : l1Find (l1Spared ways p l) p.addr = none := l1Find_none.2 fun q inside => l1Find_none.1 absent q (mem_l1Spared inside)
  rw [l1Fill_spared]
  split
  · rw [l1Find_append, spared, Option.none_or]
    exact l1Find_cons_self p []
  · rw [l1Find_l1Use]
    exact l1Find_cons_self p _

/-- Where a sector stands in a core's caches once it has come in. -/
def Filled (k : Core) (ways : Nat) (sector d : Nat) (kind : FillKind) : Core := match kind with
  | .instr => { k with icache := ((sector, d) :: k.icache).take 2048 }
  | .data => { k with l1 := l1Fill ways false { addr := sector, data := d, upset := 0 } k.l1 }
  | .dataNt => { k with l1 := l1Fill ways true { addr := sector, data := d, upset := 0 } k.l1 }

/-- Whether a core's cache has a copy of a sector. -/
def HasCopy (k : Core) (sector : Nat) (kind : FillKind) : Bool := match kind with
  | .instr => k.icache.any (fun q => q.1 == sector)
  | .data | .dataNt => (l1Find k.l1 sector).isSome

/-- A sector of normal memory comes into a core's cache, unless a copy stands there. -/
theorem sectorFill_eq {s : State} {core sector : Nat} {kind : FillKind} {g : Hart} (found : s.harts.find? (fun g => coreOf g.id == core) = some g)
    (aligned : sector % 64 = 0) (cached : isCached sector = true) (healthy : poisonedAt s sector 64 = false) (clean : NoUpset s) (up : linkDown s sector = false) :
    ∃ u, RowsMoved s u ∧ exec (.sectorFill core sector kind) s = .next (if HasCopy (s.core core) sector kind then u
      else u.setCore core (Filled (s.core core) (l1Ways u core) sector (memRead s.mem sector 64) kind)) := by
  have rows := touch_rows clean g.partid up none false false true
  have part : partOfCore s core = some g.partid := by rw [partOfCore, found]; rfl
  refine ⟨touch s g.partid sector none false false true, rows, ?_⟩
  have opened : exec (.sectorFill core sector kind) s = execSectorFill core sector kind s := rfl
  have begun : ¬ (decide (sector % 64 ≠ 0) || !isCached sector) = true := by simp [aligned, cached]
  rw [opened, execSectorFill, part]
  dsimp only
  rw [if_neg begun]
  generalize touch s g.partid sector none false false true = u at *
  have kept : u.core core = s.core core := core_congr ((congrArg State.cores rows).trans rfl) core
  have mem : u.mem = s.mem := (congrArg State.mem rows).trans rfl
  have upsets : u.upsets = [] := rows.noUpset clean
  have whole : ¬ poisonedAt u sector 64 = true := by
    rw [poisonedAt_same (SameTables.of_rows rows.sameButRows), healthy]
    decide
  rw [kept, mem, upsets, if_neg whole]
  cases kind <;> rfl

/-- A fill touches nothing but rows, shared copies and its own core. -/
theorem filled_frame {s u : State} (rows : RowsMoved s u) (core : Nat) (b : Bool) (k : Core) :
    let t := if b then u else u.setCore core k
    t = { s with l2 := t.l2, dram := t.dram, life := t.life, cores := t.cores } ∧ ∀ n, n ≠ core → t.core n = s.core n := by
  have cores : u.cores = s.cores := (congrArg State.cores rows).trans rfl
  have same : u = { s with l2 := u.l2, dram := u.dram, life := u.life, cores := u.cores } := by rw [cores]; exact rows
  cases b with
  | true => exact ⟨same, fun n _ => core_congr cores n⟩
  | false => exact ⟨congrArg (fun x : State => x.setCore core k) same, fun n other => (State.core_setCore_ne u other k).trans (core_congr cores n)⟩

theorem sectorFill_spec {s : State} {core sector : Nat} {kind : FillKind} {g : Hart} (found : s.harts.find? (fun g => coreOf g.id == core) = some g) (clean : NoUpset s)
    (aligned : sector % 64 = 0) (cached : isCached sector = true) (up : linkDown s sector = false) (healthy : poisonedAt s sector 64 = false) :
    let k := s.core core
    let d := memRead s.mem sector 64
    let copy : L1Sector := { addr := sector, data := d, upset := 0 }
    ∃ t, exec (.sectorFill core sector kind) s = .next t ∧ t = { s with l2 := t.l2, dram := t.dram, life := t.life, cores := t.cores } ∧ (∀ n, n ≠ core → t.core n = s.core n)
      ∧ (kind = .instr → (∀ q ∈ k.icache, q.1 ≠ sector) → t.core core = { k with icache := ((sector, d) :: k.icache).take 2048 })
      ∧ (kind ≠ .instr → l1Find k.l1 sector = none →
          t.core core = { k with l1 := (t.core core).l1 } ∧ l1Find (t.core core).l1 sector = some copy ∧ ∀ p ∈ (t.core core).l1, p = copy ∨ p ∈ k.l1) := by
  intro k d copy
  obtain ⟨u, rows, runs⟩ := sectorFill_eq found aligned cached healthy clean up (kind := kind)
  obtain ⟨frame, others⟩ := filled_frame rows core (HasCopy k sector kind) (Filled k (l1Ways u core) sector d kind)
  have new (absent : HasCopy k sector kind = false) :
      (if HasCopy k sector kind then u else u.setCore core (Filled k (l1Ways u core) sector d kind)).core core = Filled k (l1Ways u core) sector d kind := by
    rw [absent]
    exact State.core_setCore u core _
  refine ⟨_, runs, frame, others, fun instr absent => ?instr, fun data absent => ?data⟩
  case instr =>
    subst instr
    refine new (Bool.eq_false_iff.2 fun old => ?_)
    obtain ⟨q, inside, here⟩ := List.any_eq_true.1 old
    exact absent q inside (beq_iff_eq.1 here)
  case data =>
    have filled (nt : Bool) (same : Filled k (l1Ways u core) sector d kind = { k with l1 := l1Fill (l1Ways u core) nt copy k.l1 }) (none' : HasCopy k sector kind = false) :
        let r := (if HasCopy k sector kind then u else u.setCore core (Filled k (l1Ways u core) sector d kind)).core core
        r = { k with l1 := r.l1 } ∧ l1Find r.l1 sector = some copy ∧ ∀ p ∈ r.l1, p = copy ∨ p ∈ k.l1 := by
      intro r
      have now : r = { k with l1 := l1Fill (l1Ways u core) nt copy k.l1 } := (new none').trans same
      rw [now]
      exact ⟨rfl, l1Find_filled absent, fun p inside => mem_l1Fill inside⟩
    have none' : (l1Find k.l1 sector).isSome = false := by rw [absent]; rfl
    cases kind with
    | instr => exact absurd rfl data
    | data => exact filled false rfl none'
    | dataNt => exact filled true rfl none'

open Sys2Proof.Claim

/-! ## A walk of the tables (R312, R319) -/

/-- How a walk for an access reads memory. -/
def walkKind (write fetch : Bool) : AccessKind := if fetch then .fetch else if write then .store else .load

theorem low_of_canonical {va : Word} (low : va.extractLsb' 57 7 = 0) : ¬ (va.extractLsb' 57 7 != 0) = true := by rw [low]; decide

theorem tableWalk_noted {s : State} {h : HartId} {g : Hart} {va : Word} {write fetch : Bool} (found : s.findHart h = some g) (low : va.extractLsb' 57 7 = 0)
    {l : List Nat} {e : TlbEntry} {m : Mapped} (walked : walk s g.space va.toNat = (l, .ok e))
    (judged : judge s g.space (walkKind write fetch) va.toNat e (some (e, l)) = .ok m) : exec (.tableWalk h va write fetch) s = .next (noteWalk s (some h) m) := by
  have opened : exec (.tableWalk h va write fetch) s = execTableWalk h va write fetch s := rfl
  have judged' : judge s g.space (if fetch then .fetch else if write then .store else .load) va.toNat e (some (e, l)) = .ok m := judged
  rw [opened, execTableWalk, found]
  dsimp only
  rw [if_neg (low_of_canonical low), walked]
  dsimp only
  rw [judged']

theorem tableWalk_faulted {s : State} {h : HartId} {g : Hart} {va : Word} {write fetch : Bool} (found : s.findHart h = some g) (low : va.extractLsb' 57 7 = 0)
    {l : List Nat} {f : XFault} (walked : walk s g.space va.toNat = (l, .error f)) :
    exec (.tableWalk h va write fetch) s = .next (noteAll s (l.map (Note.entry g.space.part) ++ f.notes)) := by
  have opened : exec (.tableWalk h va write fetch) s = execTableWalk h va write fetch s := rfl
  rw [opened, execTableWalk, found]
  dsimp only
  rw [if_neg (low_of_canonical low), walked]

theorem fillTlbs_heads (i : HartId) (e : TlbEntry) (s : State) : ((fillTlbs i e s).core (coreOf i)).tlb.head? = some e ∧ ((fillTlbs i e s).bench (benchOf i)).tlb.head? = some e := by
  constructor
  · exact congrArg (fun k : Core => k.tlb.head?) (State.core_setCore s (coreOf i) _)
  · exact congrArg (fun k : Bench => k.tlb.head?) (State.bench_setBench (s.setCore (coreOf i) _) (benchOf i) _)

/-- A walk that translates fills both TLBs, and touches nothing else but rows and shared copies. -/
theorem tableWalk_fills {s : State} {h : HartId} {g : Hart} {va : Word} {write fetch : Bool} (found : s.findHart h = some g) (low : va.extractLsb' 57 7 = 0)
    {l : List Nat} {e : TlbEntry} {m : Mapped} (walked : walk s g.space va.toNat = (l, .ok e))
    (judged : judge s g.space (walkKind write fetch) va.toNat e (some (e, l)) = .ok m) (clean : NoUpset s) (up : ∀ pa ∈ l, linkDown s (sectorOf pa) = false)
    (new : (s.tlbs h).contains e = false) :
    ∃ t, exec (.tableWalk h va write fetch) s = .next t
      ∧ t = { s with l2 := t.l2, dram := t.dram, life := t.life, cores := t.cores, benches := t.benches } ∧ SameButCaches t s
      ∧ (∀ n, (t.core n).l1 = (s.core n).l1) ∧ (t.core (coreOf h)).tlb.head? = some e ∧ (t.bench (benchOf h)).tlb.head? = some e := by
  have noted : m.walk = some (e, l) := judge_walk judged
  have reached : m.WalkReached s := fun e' l' same pa inside => by
    cases noted.symm.trans same
    exact up pa inside
  obtain ⟨frame, caches⟩ := noteWalk_sameButRows clean reached (some h)
  obtain ⟨first, second⟩ := fillTlbs_heads h e (noteAll s (l.map (.entry e.part)))
  have filled : noteWalk s (some h) m = fillTlbs h e (noteAll s (l.map (.entry e.part))) := by rw [noteWalk_walked noted, new]; rfl
  exact ⟨_, tableWalk_noted found low walked judged, frame, caches, noteWalk_l1 clean reached (some h), by rw [filled]; exact first, by rw [filled]; exact second⟩

theorem lone_of_claim {k : Core} {u : Uops} {n : Nat}
    (h : k.window = [u] ∧ u.slotNo < 4 ∧ u.renamed = true ∧ u.entered = u.groups ∧ u.token = false ∧ u.skew = 0 ∧ u.finish = none ∧ u.next = Vector.replicate 8 n ∧ n < u.groups) :
    Lone k u n := by
  obtain ⟨window, slot, renamed, entered, token, skew, finish, next, more⟩ := h
  exact ⟨window, slot, renamed, entered, token, skew, finish, next, more⟩

theorem coreSteps : CoreSteps := by
  intro s core c k cl put cycled lone
  refine ⟨cycled_empty, fun u n alone awake => cycled_awake (lone_of_claim alone) awake, fun u n alone below gated => cycled_gated (lone_of_claim alone) below gated, rfl, fun n => ⟨_, rfl, rfl⟩,
    clusterGate_runs s core c, clusterWake_runs s core c, fun g sector kind found clean aligned cached up healthy => sectorFill_spec found clean aligned cached up healthy,
    fun h g va write fetch found low => ⟨fun l e m walked judged clean up new => tableWalk_fills found low walked judged clean up new, fun l f walked => ?faulted⟩⟩
  case faulted =>
    refine ⟨tableWalk_faulted found low walked, fun none none' => ?_⟩
    rw [tableWalk_faulted found low walked, none, none']
    rfl

/-- Settles O50: a cycle's picks by the window's cases, and each step of the controllers by the bank's state. -/
theorem memoryHierarchySteps : Obligations.MemoryHierarchySteps := ⟨coreSteps, memoryControllers⟩

end Sys2Proof.Machine

namespace Sys2Proof.Machine
/-! O47: MDRAIN's rows converted into a register group, and MDRAINX's rows appended to a channel one after another. -/

open Sys2Proof.Claim

/-! ## What a drain reads of a tile (R195) -/

theorem at_eq_accOf (t : Tile) (r : Nat) {c : Nat} (real : c < 256) : t.at r c = accOf t r c := by
  rw [accOf, ← slot_bitsAt (w := 32) (k := r) (n := 256) t.acc real]
  rfl

theorem badAt_clean {t : Tile} (clean : t.poison = 0) (r c : Nat) : t.badAt r c = false := by rw [Tile.badAt, clean, Nat.zero_testBit]

theorem drainElem_eq (a : DrainArgs) (rm z acc : Nat) : drainElem a rm z acc = drained a.f rm a.sat z acc := by
  unfold drainElem drained
  split
  · next h => rw [h]; rfl
  · next h => rw [h]; rfl
  · next h => rw [h, wrapOrSat_eq]; rfl
  · next h => rw [h, wrapOrSat_eq]; rfl
  · next two five zero one =>
    have other : ¬(a.f = 2 ∨ a.f = 5) := fun h => h.elim two five
    have high : ¬ a.f < 2 := fun low => (Nat.lt_succ_iff_lt_or_eq.1 low).elim (fun h => zero (Nat.lt_one_iff.1 h)) one
    rw [if_neg other, if_neg high]
    rfl

theorem floatWidth {f : Nat} (into : 5 ≤ f ∧ f ≤ 9) : fpBits f ≤ elemWidth f := by
  obtain ⟨low, high⟩ := into
  interval_cases f <;> decide

theorem drained_lt {f : Nat} (into : f < 3 ∨ 5 ≤ f ∧ f ≤ 9) (rm : Nat) (sat : Bool) (z : Nat) {acc : Nat} (word : acc < 2 ^ 32) : (drained f rm sat z acc).1 < 2 ^ elemWidth f := by
  unfold drained
  split
  · next h => rcases h with rfl | rfl <;> exact word
  · split
    · exact wrapInt_lt _
    · have float : 5 ≤ f ∧ f ≤ 9 := by omega
      exact Nat.lt_of_lt_of_le (roundVal_lt (by omega) _ _ _ _) (Nat.pow_le_pow_right (by decide) (floatWidth float))

theorem zipIdx_range_map {α : Type} (f : Nat → α) (n : Nat) : ((List.range n).map f).zipIdx = (List.range n).map (fun i => (f i, i)) :=
  List.ext_getElem (by simp) fun i h k => by simp

/-- Row `r` drained in a format that is no block format. -/
theorem drainRow_plain {a : DrainArgs} (single : isBlock a.f = false) (rm : Nat) {t : Tile} (clean : t.poison = 0) (r : Nat) :
    drainRow a rm t r = { elems := (List.range 256).map (fun c => drained a.f rm a.sat (a.draw rm r c) (accOf t r c)), bad := (List.range 256).map (fun _ => false), scales := [] } := by
  have accs : (List.range 256).map (t.at r) = (List.range 256).map (accOf t r) := List.map_congr_left fun c inside => at_eq_accOf t r (List.mem_range.1 inside)
  have bad : (List.range 256).map (t.badAt r) = (List.range 256).map (fun _ => false) := List.map_congr_left fun c _ => badAt_clean clean r c
  have size : Config.mtlen = 256 := rfl
  unfold drainRow
  dsimp only
  rw [single, size, accs, bad, zipIdx_range_map]
  refine (if_neg Bool.false_ne_true).trans ?_
  have elems : ((fun p : Nat × Nat => drainElem a rm (a.draw rm r p.2) p.1) ∘ fun i => (accOf t r i, i)) = fun c => drained a.f rm a.sat (a.draw rm r c) (accOf t r c) :=
    funext fun c => drainElem_eq a rm _ _
  rw [List.map_map, elems]

/-- Block `b` of row `r` of a tile, drained in an MX format. -/
def drainedBlock (a : DrainArgs) (rm : Nat) (t : Tile) (r b : Nat) : BlockOut :=
  mxBlock a.f rm (fun i => a.draw rm r (32 * b + i)) ((List.range 32).map (fun e => decodeVal 0x05 (accOf t r (32 * b + e))))

theorem drop_take_range_map {α : Type} (f : Nat → α) {n k m : Nat} (fits : k + m ≤ n) : (((List.range n).map f).drop k).take m = (List.range m).map (fun i => f (k + i)) :=
  List.ext_getElem (by simp; omega) fun i h h' => by simp

/-- Row `r` drained in an MX format. -/
theorem drainRow_mx {a : DrainArgs} (block : isBlock a.f = true) (rm : Nat) {t : Tile} (clean : t.poison = 0) (r : Nat) :
    drainRow a rm t r = {
      elems := (List.range 256).map (fun c => ((drainedBlock a rm t r (c / 32)).codes.getD (c % 32) 0, if c % 32 = 0 then (drainedBlock a rm t r (c / 32)).flags else 0)),
      bad := (List.range 256).map (fun _ => false), scales := (List.range 8).map (fun b => ((drainedBlock a rm t r b).scale, false)) } := by
  have accs : (List.range 256).map (t.at r) = (List.range 256).map (accOf t r) := List.map_congr_left fun c inside => at_eq_accOf t r (List.mem_range.1 inside)
  have bad : (List.range 256).map (t.badAt r) = (List.range 256).map (fun _ => false) := List.map_congr_left fun c _ => badAt_clean clean r c
  have size : Config.mtlen = 256 := rfl
  have blocks : (List.range 8).map (fun b => (mxBlock a.f rm (fun i => a.draw rm r (32 * b + i)) (((((List.range 256).map (accOf t r)).drop (32 * b)).take 32).map (decodeVal 0x05)),
      ((((List.range 256).map (fun _ => false)).drop (32 * b)).take 32).any id)) = (List.range 8).map (fun b => (drainedBlock a rm t r b, false)) := by
    refine List.map_congr_left fun b inside => ?_
    have fits : 32 * b + 32 ≤ 256 := by have := List.mem_range.1 inside; omega
    rw [drop_take_range_map _ fits, drop_take_range_map _ fits, List.map_map]
    refine Prod.ext rfl (List.any_eq_false.2 fun x inside => ?_)
    obtain ⟨_, _, rfl⟩ := List.mem_map.1 inside
    exact Bool.false_ne_true
  have row (b : Nat) : (drainedBlock a rm t r b).codes.zipIdx.map (fun c => (c.1, if c.2 = 0 then (drainedBlock a rm t r b).flags else 0))
      = (List.range 32).map (fun c => ((drainedBlock a rm t r b).codes.getD c 0, if c = 0 then (drainedBlock a rm t r b).flags else 0)) := by
    have length : (drainedBlock a rm t r b).codes.length = 32 := (length_mxBlock _ _ _ _).trans (by simp)
    exact List.ext_getElem (by simp [length]) fun i h h' => by
      have inside : i < (drainedBlock a rm t r b).codes.length := by simpa using h
      simp [inside]
  unfold drainRow
  dsimp only
  rw [block, size, accs, bad]
  refine (if_pos rfl).trans ?_
  rw [blocks, List.flatMap_map, List.map_map]
  have elems : (List.range 8).flatMap (fun b => (drainedBlock a rm t r b).codes.zipIdx.map (fun c => (c.1, if c.2 = 0 then (drainedBlock a rm t r b).flags else 0)))
      = (List.range 256).map (fun c => ((drainedBlock a rm t r (c / 32)).codes.getD (c % 32) 0, if c % 32 = 0 then (drainedBlock a rm t r (c / 32)).flags else 0)) := by
    simp only [row, List.flatMap_def]
    exact flatten_grid (fun b c => ((drainedBlock a rm t r b).codes.getD c 0, if c = 0 then (drainedBlock a rm t r b).flags else 0)) 8 32
  rw [elems]
  rfl

open Sys2Proof.Claim

/-! ## Steps that change one tile of the current hart's bench (R196, R198) -/

/-- A step that changes one tile of the current hart's bench, and nothing else. -/
structure OneTile (k : BitVec 2) (s t : State) : Prop where
  frame : t = { s with benches := t.benches }
  others : ∀ b, b ≠ benchOf s.hart.id → t.bench b = s.bench b
  tile : OnlyTile t.myBench s.myBench k

theorem OneTile.hart {k : BitVec 2} {s t : State} (h : OneTile k s t) : t.hart = s.hart := (congrArg State.hart h.frame).trans rfl

theorem onlyTile_refl (b : Bench) (k : BitVec 2) : OnlyTile b b k := ⟨rfl, fun _ _ => rfl⟩

theorem onlyTile_trans {b c d : Bench} {k : BitVec 2} (h : OnlyTile c b k) (g : OnlyTile d c k) : OnlyTile d b k :=
  ⟨g.1.trans (congrArg (fun x : Bench => { x with tiles := d.tiles }) h.1), fun j other => (g.2 j other).trans (h.2 j other)⟩

theorem onlyTile_setTile (b : Bench) (k : BitVec 2) (t : Tile) : OnlyTile (b.setTile k t) b k :=
  ⟨rfl, fun j other => by rw [Bench.tile_setTile, if_neg other]⟩

theorem OneTile.refl (k : BitVec 2) (s : State) : OneTile k s s := ⟨rfl, fun _ _ => rfl, onlyTile_refl _ _⟩

theorem OneTile.trans {k : BitVec 2} {s t u : State} (h : OneTile k s t) (g : OneTile k t u) : OneTile k s u where
  frame := g.frame.trans (congrArg (fun x : State => { x with benches := u.benches }) h.frame)
  others b other := (g.others b (by rw [h.hart]; exact other)).trans (h.others b other)
  tile := onlyTile_trans h.tile g.tile

theorem myBench_setMyBench (s : State) (b : Bench) : (s.setMyBench b).myBench = b := State.bench_setBench s _ b

/-- The current hart's bench with another value for one tile. -/
theorem oneTile_set (s : State) (k : BitVec 2) (t : Tile) : OneTile k s (s.setMyBench (s.myBench.setTile k t)) where
  frame := rfl
  others b other := State.bench_setBench_ne s other _
  tile := by rw [myBench_setMyBench]; exact onlyTile_setTile _ _ _

theorem tile_set (s : State) (k : BitVec 2) (t : Tile) : (s.setMyBench (s.myBench.setTile k t)).myBench.tile k = t := by
  rw [myBench_setMyBench, Bench.tile_setTile, if_pos rfl]

/-- A tile as a comparison that found no mismatch leaves it: at most SKIP is set. -/
def Compared (t u : Tile) : Prop := ∃ x, t = { u with skip := x }

theorem Compared.refl (t : Tile) : Compared t t := ⟨t.skip, rfl⟩
theorem Compared.trans {t u v : Tile} (h : Compared u t) (g : Compared v u) : Compared v t := by
  obtain ⟨x, rfl⟩ := h
  obtain ⟨y, rfl⟩ := g
  exact ⟨y, rfl⟩

theorem noteCheck_pass {k : BitVec 2} {s : State} {found : Option Bool} (pass : found ≠ some true) :
    OneTile k s (noteCheck k s found) ∧ Compared ((noteCheck k s found).myBench.tile k) (s.myBench.tile k) := by
  match found, pass with
  | none, _ => exact ⟨oneTile_set s k _, true, tile_set s k _⟩
  | some false, _ => exact ⟨OneTile.refl k s, Compared.refl _⟩
  | some true, pass => exact absurd rfl pass

/-- Comparisons made one after another that find no mismatch. -/
theorem foldl_noteCheck {k : BitVec 2} {found : Nat → Option Bool} (l : List Nat) (pass : ∀ i ∈ l, found i ≠ some true) (s : State) :
    OneTile k s (l.foldl (fun s i => noteCheck k s (found i)) s) ∧ Compared ((l.foldl (fun s i => noteCheck k s (found i)) s).myBench.tile k) (s.myBench.tile k) := by
  induction l generalizing s with
  | nil => exact ⟨OneTile.refl k s, Compared.refl _⟩
  | cons i l ih =>
    obtain ⟨first, same⟩ := noteCheck_pass (s := s) (k := k) (pass i List.mem_cons_self)
    obtain ⟨rest, later⟩ := ih (fun j inside => pass j (List.mem_cons_of_mem i inside)) (noteCheck k s (found i))
    exact ⟨first.trans rest, same.trans later⟩

/-- A drain's comparisons where none finds a mismatch (R198). -/
theorem compareRows_pass {k : BitVec 2} {s : State} {rows : List Nat} {columns : Bool} (rowsPass : ∀ r ∈ rows, rowDiffers (s.myBench.tile k) r ≠ some true)
    (columnsPass : columns = true → ∀ c < 256, colDiffers (s.myBench.tile k) c ≠ some true) :
    OneTile k s (compareRows k rows columns s) ∧ Compared ((compareRows k rows columns s).myBench.tile k) (s.myBench.tile k) := by
  obtain ⟨first, same⟩ := foldl_noteCheck rows rowsPass s
  cases columns with
  | false => exact ⟨first, same⟩
  | true =>
    unfold compareRows
    dsimp only
    rw [if_pos rfl]
    generalize s.myBench.tile k = t at *
    obtain ⟨rest, later⟩ := foldl_noteCheck (k := k) (List.range Config.mtlen) (fun c inside => columnsPass rfl c (List.mem_range.1 inside)) (rows.foldl (fun u i => noteCheck k u (rowDiffers t i)) s)
    exact ⟨first.trans rest, same.trans later⟩

/-! ## Rows zeroed under Z (R196, R198) -/

/-- An image with the elements of a span zeroed. -/
def cutSpan (w lo n x : Nat) : Nat := x % 2 ^ (w * lo) + ((x >>> (w * (lo + n))) <<< (w * (lo + n)))

theorem testBit_cutSpan (w lo n x i : Nat) : (cutSpan w lo n x).testBit i = (x.testBit i && !(decide (w * lo ≤ i) && decide (i < w * (lo + n)))) := by
  have order : w * lo ≤ w * (lo + n) := Nat.mul_le_mul_left w (Nat.le_add_right lo n)
  have low : x % 2 ^ (w * lo) < 2 ^ (w * (lo + n)) := Nat.lt_of_lt_of_le (Nat.mod_lt _ (Nat.two_pow_pos _)) (Nat.pow_le_pow_right (by decide) order)
  rw [cutSpan, Nat.shiftLeft_eq, Nat.add_comm, Nat.mul_comm, Nat.testBit_two_pow_mul_add _ low, Nat.testBit_mod_two_pow, Nat.testBit_shiftRight]
  by_cases below : i < w * (lo + n)
  · rw [if_pos below, decide_eq_true below, Bool.and_true, Bool.and_comm, ← decide_not, decide_eq_decide.2 Nat.not_le]
  · rw [if_neg below, decide_eq_false below, Bool.and_false, Bool.not_false, Bool.and_true, Nat.add_sub_cancel' (Nat.le_of_not_lt below)]

theorem testBit_accOf (t : Tile) (r c i : Nat) : (accOf t r c).testBit i = (decide (i < 32) && t.acc.testBit (32 * (r * 256 + c) + i)) := by
  rw [accOf, slot, bitsAt, Nat.testBit_mod_two_pow, Nat.testBit_shiftRight]

theorem accOf_zeroRows (t : Tile) (row0 n r : Nat) {c : Nat} (real : c < 256) : accOf (t.zeroRows row0 n) r c = if row0 ≤ r ∧ r < row0 + n then 0 else accOf t r c := by
  have cut : (t.zeroRows row0 n).acc = cutSpan 8192 row0 n t.acc := rfl
  refine Nat.eq_of_testBit_eq fun i => ?_
  rw [testBit_accOf, cut, testBit_cutSpan]
  by_cases word : i < 32
  · by_cases inside : row0 ≤ r ∧ r < row0 + n
    · have spot : 8192 * row0 ≤ 32 * (r * 256 + c) + i ∧ 32 * (r * 256 + c) + i < 8192 * (row0 + n) := by omega
      rw [if_pos inside, decide_eq_true spot.1, decide_eq_true spot.2, Nat.zero_testBit]
      simp
    · have spot : ¬ (8192 * row0 ≤ 32 * (r * 256 + c) + i ∧ 32 * (r * 256 + c) + i < 8192 * (row0 + n)) := by omega
      rw [if_neg inside, testBit_accOf, ← Bool.decide_and, decide_eq_false spot]
      simp
  · rw [decide_eq_false word]
    split
    · exact (Nat.zero_testBit i).symm
    · rw [testBit_accOf, decide_eq_false word]; rfl

/-- What a drain leaves of its tile, in the words of the statements: nothing but SKIP and zeroed rows changes. -/
theorem tileAfter_kept {t u : Tile} (same : Compared t u) (row0 n : Nat) : TileAfter t u false row0 n := by
  obtain ⟨x, rfl⟩ := same
  exact ⟨rfl, rfl, rfl, rfl, rfl, rfl, fun r c _ _ => (if_neg fun h => Bool.false_ne_true h.1).symm⟩

theorem tileAfter_none {t u : Tile} (same : Compared t u) (z : Bool) (row0 : Nat) : TileAfter t u z row0 0 := by
  obtain ⟨x, rfl⟩ := same
  exact ⟨rfl, rfl, rfl, rfl, rfl, rfl, fun r c _ _ => (if_neg fun h => by omega).symm⟩

theorem tileAfter_rows {t u : Tile} (same : Compared t u) (row0 n : Nat) : TileAfter (t.zeroRows row0 n) u true row0 n := by
  obtain ⟨x, rfl⟩ := same
  refine ⟨rfl, rfl, rfl, rfl, rfl, rfl, fun r c _ real => ?_⟩
  rw [accOf_zeroRows _ row0 n r real]
  exact if_congr (by rw [eq_self, true_and]) rfl rfl

/-- A tile cleared whole: what it owes stays owed (R198, R199). -/
theorem tileAfter_clear {t u : Tile} (same : Compared t u) : TileAfter { t.clear t.int32 with pend := t.pend } u true 0 256 := by
  obtain ⟨x, rfl⟩ := same
  refine ⟨rfl, rfl, rfl, rfl, rfl, rfl, fun r c inside _ => ?_⟩
  rw [if_pos ⟨rfl, Nat.zero_le r, by omega⟩]
  exact bitsAt_zero _ _

/-- What Z of a whole drain does to its tile (R196). -/
def zeroedTile (a : DrainArgs) (t : Tile) : Tile :=
  if a.z then (if a.nrows = Config.mtlen then { t.clear t.int32 with pend := t.pend } else t.zeroRows a.row0 a.nrows) else t

theorem zeroDrained_tile (a : DrainArgs) (s : State) : OneTile a.t s (zeroDrained a s) ∧ (zeroDrained a s).myBench.tile a.t = zeroedTile a (s.myBench.tile a.t) := by
  unfold zeroDrained zeroedTile
  cases a.z with
  | false => exact ⟨OneTile.refl _ _, rfl⟩
  | true => exact ⟨oneTile_set s a.t _, tile_set s a.t _⟩

theorem zeroedTile_after {a : DrainArgs} {t u : Tile} (same : Compared t u) (fits : a.row0 + a.nrows ≤ 256) : TileAfter (zeroedTile a t) u a.z a.row0 a.nrows := by
  unfold zeroedTile
  cases a.z with
  | false => exact tileAfter_kept same _ _
  | true =>
    by_cases whole : a.nrows = Config.mtlen
    · have rows : a.nrows = 256 := whole
      have first : a.row0 = 0 := by omega
      rw [if_pos rfl, if_pos whole, rows, first]
      exact tileAfter_clear same
    · rw [if_pos rfl, if_neg whole]
      exact tileAfter_rows same _ _

/-! ## The end of a drain (R39, R199) -/

theorem pend_after {t u : Tile} {z : Bool} {row0 n : Nat} (after : TileAfter t u z row0 n) : t.pend = u.pend := by
  obtain ⟨-, -, -, -, pend, -⟩ := after
  exact pend

/-- An instruction that owes no trap, whatever flags its parts have raised before (R71). -/
theorem completeAt_free {s : State} {fl : BitVec 7} (step : s.hart.stepping = false) (free : (fl ||| s.hart.partFlags) &&& s.hart.enables = 0) (npc : Word) (kn : BitVec 2) :
    completeAt npc fl [] [] kn s = retired npc fl s := by simp [completeAt, owedList_steady step free, enterOwed, retired]

/-- A drain that owes no trap completes with its flags and those of its parts (R199). -/
theorem finishDrain_done {k : BitVec 2} {fl : BitVec 7} {s : State} (step : s.hart.stepping = false) (free : (fl ||| s.hart.partFlags) &&& s.hart.enables = 0)
    (quiet : (s.myBench.tile k).pend = false) : finishDrain k fl s = retired (s.hart.pc + 8) fl (s.withHart { s.hart with vri := 0 }) := by
  unfold finishDrain
  simp only [quiet, Bool.false_eq_true, if_false]
  exact completeAt_free (s := s.withHart { s.hart with vri := 0 }) step free _ _

open Sys2Proof.Claim

/-! ## MDRAIN into a register group (R194, R195) -/

/-- The hart with the rows of a drain in its registers: the elements' group and, in an MX format, the scales' register after it. -/
def drainedHart (h : Hart) (f vd nd len : Nat) (elem scale : Nat → Nat) : Hart :=
  let h1 := writeGroup h h.capBits vd f len (pack (elemWidth f) len elem) 0 nd
  if isBlock f then writeGroup h1 h.capBits (vd + nd) (scaleFmt f) (len / 32) (pack 8 (len / 32) scale) 0 1 else h1

theorem drainedHart_frame (h : Hart) (f vd nd len : Nat) (elem scale : Nat → Nat) :
    drainedHart h f vd nd len elem scale = { h with v := (drainedHart h f vd nd len elem scale).v } := by
  suffices some : ∃ v, drainedHart h f vd nd len elem scale = { h with v := v } by
    obtain ⟨v, hv⟩ := some
    rw [hv]
  unfold drainedHart
  dsimp only
  split
  · rw [writeGroup_frame, writeGroup_frame h]
    exact ⟨_, rfl⟩
  · exact ⟨_, writeGroup_frame _ _ _ _ _ _ _ _⟩

/-- In a format that is no block format the group holds the drained elements, and no other register changes. -/
theorem drainedHart_plain (s : State) {f vd nd len : Nat} {elem : Nat → Nat} (scale : Nat → Nat) (single : isBlock f = false) (tag : f < 32) (fits : vd + nd ≤ 32)
    (cut : ∀ e < len, elem e < 2 ^ elemWidth f) : HoldsGroup s (drainedHart s.hart f vd nd len elem scale).v vd nd f len elem := by
  unfold drainedHart
  rw [single]
  exact holdsGroup_written s len tag fits cut

/-- In an MX format the scales stand in the register after the elements' group. -/
theorem drainedHart_mx (s : State) {f vd nd len : Nat} {elem scale : Nat → Nat} (block : isBlock f = true) (tag : f < 32) (fits : vd + nd + 1 ≤ 32)
    (cut : ∀ e < len, elem e < 2 ^ elemWidth f) (cutScale : ∀ j < len / 32, scale j < 2 ^ 8) :
    let v := (drainedHart s.hart f vd nd len elem scale).v
    GroupIs s v vd nd f len elem ∧ GroupIs s v (vd + nd) 1 (scaleFmt f) (len / 32) scale ∧ OnlyGroup s v vd (nd + 1) := by
  intro v
  have frame : ({ s.hart with v := v } : Hart) = drainedHart s.hart f vd nd len elem scale := (drainedHart_frame _ _ _ _ _ _ _).symm
  have both : drainedHart s.hart f vd nd len elem scale = writeGroup (writeGroup s.hart s.hart.capBits vd f len (pack (elemWidth f) len elem) 0 nd) s.hart.capBits (vd + nd) (scaleFmt f)
      (len / 32) (pack 8 (len / 32) scale) 0 1 := if_pos block
  have first := writeGroup_packed s.hart s.hart.capBits vd f len nd elem (by omega)
  have second := writeGroup_packed (writeGroup s.hart s.hart.capBits vd f len (pack (elemWidth f) len elem) 0 nd) s.hart.capBits (vd + nd) (scaleFmt f) (len / 32) 1 scale fits
  rw [elemWidth_scaleFmt] at second
  have kept := first.writeGroup (cap' := s.hart.capBits) (fmt' := scaleFmt f) (len' := len / 32) (img := pack 8 (len / 32) scale) (bad := 0) fits (Or.inl (Nat.le_refl _))
  have cut' : ∀ j < len / 32, scale j < 2 ^ elemWidth (scaleFmt f) := by rw [elemWidth_scaleFmt]; exact cutScale
  rw [← both, ← frame] at kept second
  refine ⟨groupIs_of_packed tag (by omega) cut kept, groupIs_of_packed (scaleFmt_lt f) fits cut' second, fun q _ out => ?_⟩
  rw [frame, both, vreg_writeGroup _ _ _ _ _ _ _ _ q fits, if_neg (by omega), vreg_writeGroup _ _ _ _ _ _ _ _ q (by omega), if_neg (by omega)]

/-- The rows that a drain converts. -/
def drainRows (a : DrainArgs) (s : State) : List RowOut :=
  (List.range a.nrows).map (fun i => drainRow a ((vectorRound s.hart a.rm).getD 0) (s.myBench.tile a.t) (a.row0 + i))

theorem map_getElem?_range {α β : Type} (f : Nat → α) (g : α → β) (d : β) {n e : Nat} (inside : e < n) : ((((List.range n).map f).toArray[e]?).map g).getD d = g (f e) := by
  rw [List.getElem?_toArray, List.getElem?_map, List.getElem?_range inside]
  rfl

theorem filter_below (n : Nat) : (List.range n).filter (fun e => decide (e < n)) = List.range n :=
  List.filter_eq_self.2 fun _ inside => decide_eq_true (List.mem_range.1 inside)

/-- MDRAIN with plain operands, of a tile without marks. -/
theorem drainInto_plain {a : DrainArgs} {s : State} {vd nd : Nat} {one : Nat → Nat × BitVec 7} {scale : Nat → Nat} (unbound : Unbound s.hart) (empty : s.hart.stores = [])
    (elems : (drainRows a s).flatMap (·.elems) = (List.range (a.nrows * 256)).map one) (marks : (drainRows a s).flatMap (·.bad) = (List.range (a.nrows * 256)).map (fun _ => false))
    (scales : isBlock a.f = true → (drainRows a s).flatMap (·.scales) = (List.range (a.nrows * 256 / 32)).map (fun j => (scale j, false))) :
    drainInto a vd nd s = finishDrain a.t (flagsOf (List.range (a.nrows * 256)) (fun e => (one e).2)) (zeroDrained a (compareRows a.t ((List.range a.nrows).map (a.row0 + ·))
      (a.nrows == Config.mtlen) (s.withHart (drainedHart s.hart a.f vd nd (a.nrows * 256) (fun e => (one e).1) scale)))) := by
  unfold drainInto
  extract_lets u h t rm rows len elems' marks' val flag sb start todo stop top done flags u' isDone img h0 h1 scaled h2 after
  have drained : u = s := drainStores_empty empty
  clear_value u
  subst u
  have whole : rows = drainRows a s := rfl
  clear_value rows
  subst rows
  have values (e : Nat) (inside : e < len) : val e = ((one e).1, false) := by
    have first : elems' = ((List.range len).map one).toArray := congrArg List.toArray elems
    have second : marks' = ((List.range len).map (fun _ => false)).toArray := congrArg List.toArray marks
    have mark : (marks'[e]?).getD false = false := by
      rw [second, List.getElem?_toArray, List.getElem?_map, List.getElem?_range inside]
      rfl
    exact Prod.ext ((congrArg (fun l : Array _ => ((l[e]?).map Prod.fst).getD 0) first).trans (map_getElem?_range one Prod.fst 0 inside)) mark
  have raised (e : Nat) (inside : e < len) : flag e = (one e).2 :=
    (congrArg (fun l : Array _ => ((l[e]?).map Prod.snd).getD 0) (congrArg List.toArray elems : elems' = ((List.range len).map one).toArray)).trans (map_getElem?_range one Prod.snd 0 inside)
  have plain : sb = none := unbound.storeBinding vd
  have first : start = 0 := by
    show (if sb.isSome then _ else 0) = 0
    rw [plain]
    rfl
  have free : stop = none := by
    show (if sb.isSome then _ else none) = none
    rw [plain]
    rfl
  have last : top = len := by simp only [top, free]
  have all : done = List.range len := by
    have listed : todo = List.range len := List.filter_eq_self.2 fun e _ => decide_eq_true (by rw [first]; exact Nat.zero_le e)
    show todo.filter (· < top) = _
    rw [listed, last, filter_below]
  have union : flags = flagsOf (List.range len) (fun e => (one e).2) := by
    show done.foldl (fun f e => f ||| flag e) 0 = _
    rw [all]
    exact flagsOf_congr fun e inside => raised e (List.mem_range.1 inside)
  have still : u' = s := by
    show emitElems s sb done val = s
    rw [plain]
    rfl
  have image : img = (pack (elemWidth a.f) len (fun e => (one e).1), 0) := by
    have bound : (if stop.isSome then h.capBits * nd / elemWidth a.f else len) = len := by rw [free]; rfl
    have isIn (e : Nat) (inside : e < len) : isDone e = true := by
      show (decide (start ≤ e) && decide (e < top)) = true
      rw [first, last, decide_eq_true (Nat.zero_le e), decide_eq_true inside]
      rfl
    have picked (e : Nat) (inside : e < len) : (if isDone e then some (val e) else none) = some ((one e).1, false) := by rw [isIn e inside, values e inside]; rfl
    show mergeImg h vd nd (elemWidth a.f) (if stop.isSome then h.capBits * nd / elemWidth a.f else len) (fun e => if isDone e then some (val e) else none) = _
    rw [bound, mergeImg]
    refine Prod.ext (pack_congr fun e inside => ?_) ((pack_congr fun e inside => ?_).trans (pack_zero 1 len fun _ => rfl))
    · simp only [picked e inside]
    · simp only [picked e inside]
      rfl
  have group : h1 = writeGroup s.hart s.hart.capBits vd a.f len (pack (elemWidth a.f) len (fun e => (one e).1)) 0 nd := by
    show writeGroup u'.hart s.hart.capBits vd a.f len img.1 img.2 nd = _
    rw [still, image]
  have written : h2 = drainedHart s.hart a.f vd nd len (fun e => (one e).1) scale := by
    show (if isBlock a.f then writeGroup h1 s.hart.capBits (vd + nd) (scaleFmt a.f) (len / 32) (pack 8 (len / 32) (fun i => ((scaled[i]?).map Prod.fst).getD 0))
      (pack 1 (len / 32) (fun i => if ((scaled[i]?).map Prod.snd).getD false then 1 else 0)) 1 else h1) = _
    unfold drainedHart
    rw [group]
    by_cases block : isBlock a.f = true
    · have listed : scaled = ((List.range (len / 32)).map (fun j => (scale j, false))).toArray := congrArg List.toArray (scales block)
      rw [if_pos block, if_pos block, listed]
      congr 1
      · exact pack_congr fun e inside => map_getElem?_range _ Prod.fst 0 inside
      · refine (pack_congr fun e inside => ?_).trans (pack_zero 1 _ fun _ => rfl)
        rw [map_getElem?_range _ Prod.snd false inside]
        rfl
    · rw [if_neg block, if_neg block]
  have unbound' : Unbound h2 := by
    rw [written, drainedHart_frame]
    exact unbound
  have ended : after = s.withHart (drainedHart s.hart a.f vd nd len (fun e => (one e).1) scale) := by
    show u'.withHart (advanceStore h2 vd len) = _
    rw [unbound'.advanceStore, still, written]
  clear_value after flags stop
  subst ended union free
  rfl

open Sys2Proof.Claim

/-! ## MDRAIN (R194 to R196, R199) -/

/-- A drain that owes no trap ends: beside its flags it has changed one tile of its bench. -/
theorem finishDrain_benchDone {k : BitVec 2} {fl : BitVec 7} {u w : State} (moved : OneTile k u w) (steady : Steady u) (ready : u.hart.run = .ready) (free : Unenabled fl u)
    (quiet : (w.myBench.tile k).pend = false) :
    BenchDone (finishDrain k fl w) fl u ∧ (finishDrain k fl w).myBench = w.myBench ∧ (finishDrain k fl w).hart.atEnd = true := by
  obtain ⟨step, none⟩ := steady
  have hart := moved.hart
  have union : (fl ||| w.hart.partFlags) &&& w.hart.enables = 0 := by
    rw [hart, none, show fl ||| 0 = fl from BitVec.or_zero]
    exact free
  rw [finishDrain_done (by rw [hart]; exact step) union quiet]
  refine ⟨⟨?_, moved.others⟩, rfl, retired_ended (by rw [← ready, ← hart]; rfl) _ _⟩
  rw [moved.frame]
  rfl

section
variable {s : State} {k : BitVec 2} {vd : Reg} {gd : BitVec 2} {rm : BitVec 3} {ks : BitVec 2} {sat z : Bool} {f : BitVec 5} {xr xo : Reg} {a : DrainArgs}
  (plain : PlainOperands s) (args : drainArgs s.hart k rm ks sat z f xr xo = a) (own : (s.myBench.tile k).owner = some s.hart.id) (quiet : (s.myBench.tile k).pend = false)
  (pass : ChecksPass (s.myBench.tile k)) (fits : a.row0 + a.nrows ≤ 256)
include args

theorem drainArgs_fields : a.t = k ∧ a.f = f.toNat ∧ a.rm = rm ∧ a.sat = sat ∧ a.z = z := by
  subst args
  exact ⟨rfl, rfl, rfl, rfl, rfl⟩

include plain own fits

/-- The checks of R176 pass for a drain whose rows fit its group. -/
theorem drainCheck_passes (mode : (s.myBench.tile k).int32 = true ∨ vectorRound s.hart rm ≠ none) {fit kindOk : Bool} (fit' : fit = true)
    (kindOk' : kindOk = true) (i : Instr) : matrixCheck i s (drainCheck s a fit kindOk) = none := by
  obtain ⟨tile, format, round, -, -⟩ := drainArgs_fields args
  obtain ⟨⟨-, -, legal, -⟩, -⟩ := plain
  subst fit' kindOk'
  refine matrixCheck_owned legal i rfl ?_ ?_ (fun j inside => ?_) rfl
  · show (decide (a.row0 + a.nrows ≤ 256) && true) = true
    rw [decide_eq_true fits]
    rfl
  · have mine : owns s k = true := by rw [owns, own, beq_self_eq_true]
    show (!drainRounds a.f || (owns s a.t && (s.myBench.tile a.t).int32) || (vectorRound s.hart a.rm).isSome) = true
    rw [tile, round, mine]
    rcases mode with integer | known
    · rw [integer]
      simp
    · rw [Option.isSome_iff_ne_none.2 known, Bool.or_true]
  · rw [List.mem_singleton.1 inside, tile]
    exact own

include quiet pass
omit own

/-- The end of an MDRAIN that has written registers alone: the tile's rows are zeroed or kept, and nothing else of its bench changes. -/
theorem drained_ends {fl : BitVec 7} {v : Vector VReg 32} (free : Unenabled fl s) :
    let t := finishDrain a.t fl (zeroDrained a (compareRows a.t ((List.range a.nrows).map (a.row0 + ·)) (a.nrows == Config.mtlen) (s.withHart { s.hart with v := v })))
    BenchDone t fl (s.withHart { s.hart with v := v }) ∧ OnlyTile t.myBench s.myBench k ∧ TileAfter (t.myBench.tile k) (s.myBench.tile k) z a.row0 a.nrows ∧ t.hart.atEnd = true := by
  intro t
  obtain ⟨tile, -, -, -, zeroes⟩ := drainArgs_fields args
  obtain ⟨⟨steady, ready, -⟩, -⟩ := plain
  have rows : ∀ r ∈ (List.range a.nrows).map (a.row0 + ·), rowDiffers (s.myBench.tile a.t) r ≠ some true := fun r inside => by
    obtain ⟨i, below, rfl⟩ := List.mem_map.1 inside
    rw [tile]
    exact (pass _ (by have := List.mem_range.1 below; omega)).1
  have columns : (a.nrows == Config.mtlen) = true → ∀ c < 256, colDiffers (s.myBench.tile a.t) c ≠ some true := fun _ c real => by
    rw [tile]
    exact (pass c real).2
  obtain ⟨compared, same⟩ := compareRows_pass (s := s.withHart { s.hart with v := v }) (k := a.t) rows columns
  obtain ⟨zeroed, now⟩ := zeroDrained_tile a (compareRows a.t ((List.range a.nrows).map (a.row0 + ·)) (a.nrows == Config.mtlen) (s.withHart { s.hart with v := v }))
  have after := zeroedTile_after same fits
  rw [← now] at after
  have moved := compared.trans zeroed
  obtain ⟨done, bench, ended⟩ := finishDrain_benchDone moved steady ready free ((pend_after after).trans (by rw [tile]; exact quiet))
  refine ⟨done, ?_, ?_, ended⟩
  · rw [bench, ← tile]
    exact moved.tile
  · rw [bench, ← tile, ← zeroes]
    exact after

include own

/-- MDRAIN runs to its end: it writes its registers, and zeroes or keeps the rows of its tile. -/
theorem mdrain_done (wf : wellFormed (.mdrain k vd gd rm ks sat z f xr xo) = true) (kind : drainKind (s.myBench.tile k).int32 f.toNat = true)
    (mode : (s.myBench.tile k).int32 = true ∨ vectorRound s.hart rm ≠ none) (group : a.nrows * 256 * elemWidth f.toNat ≤ s.hart.capBits * 2 ^ gd.toNat)
    (scaled : isBlock f.toNat = true → a.nrows * 256 / 32 * 8 ≤ s.hart.capBits) (some : a.nrows ≠ 0) {one : Nat → Nat × BitVec 7} {scale : Nat → Nat}
    (elems : (drainRows a s).flatMap (·.elems) = (List.range (a.nrows * 256)).map one) (marks : (drainRows a s).flatMap (·.bad) = (List.range (a.nrows * 256)).map (fun _ => false))
    (scales : isBlock a.f = true → (drainRows a s).flatMap (·.scales) = (List.range (a.nrows * 256 / 32)).map (fun j => (scale j, false)))
    (free : Unenabled (flagsOf (List.range (a.nrows * 256)) (fun e => (one e).2)) s) :
    let fl := flagsOf (List.range (a.nrows * 256)) (fun e => (one e).2)
    let v := (drainedHart s.hart f.toNat vd.toNat (2 ^ gd.toNat) (a.nrows * 256) (fun e => (one e).1) scale).v
    ∃ t, exec (.mdrain k vd gd rm ks sat z f xr xo) s = .next t ∧ BenchDone t fl (s.withHart { s.hart with v := v })
      ∧ OnlyTile t.myBench s.myBench k ∧ TileAfter (t.myBench.tile k) (s.myBench.tile k) z a.row0 a.nrows := by
  intro fl v
  obtain ⟨tile, format, round, -, zeroes⟩ := drainArgs_fields args
  obtain ⟨quietEngine, empty, unbound, -⟩ := id plain
  obtain ⟨done, only, after, ended⟩ := drained_ends plain args quiet pass fits (v := v) free
  refine ⟨_, ?_, done, only, after⟩
  have opened : exec (.mdrain k vd gd rm ks sat z f xr xo) s = execMdrain k vd gd rm ks sat z f xr xo s := rfl
  rw [opened, execMdrain, args]
  refine matrixStep_runs quietEngine wf rfl (drainCheck_passes plain args own fits mode ?fit ?kindOk _) ?run ended
  case fit =>
    rw [format]
    show (!(decide (f.toNat < 3) || drainRounds f.toNat) || (decide (a.nrows * 256 * elemWidth f.toNat ≤ s.hart.capBits * 2 ^ gd.toNat)
      && (!isBlock f.toNat || decide (a.nrows * 256 / 32 * 8 ≤ s.hart.capBits)))) = true
    rw [decide_eq_true group]
    cases block : isBlock f.toNat with
    | true => rw [decide_eq_true (scaled block)]; simp
    | false => simp
  case kindOk => rw [format]; exact kind
  case run =>
    have unstreamed : streamCheck s.hart false a.f [{ base := vd.toNat, n := 2 ^ gd.toNat, comp := compCount a.f, src := false, dst := true }] = none := Unbound.streamCheck unbound _ _ _
    rw [unstreamed]
    refine (if_neg some).trans ((drainInto_plain unbound empty elems marks scales).trans ?_)
    rw [format]
    congr 5
    exact drainedHart_frame _ _ _ _ _ _ _

end

open Sys2Proof.Claim

/-! ## What MDRAIN leaves in its group (R194, R195) -/

theorem isBlock_low {f : Nat} (low : f < 0x10) : isBlock f = false := by
  unfold isBlock
  simp
  omega

theorem mdrain_fits {k : BitVec 2} {vd : Reg} {gd : BitVec 2} {rm : BitVec 3} {ks : BitVec 2} {sat z : Bool} {f : BitVec 5} {xr xo : Reg}
    (wf : wellFormed (.mdrain k vd gd rm ks sat z f xr xo) = true) : vd.toNat + 2 ^ gd.toNat + companions f ≤ 32 := by
  have both : (rm != 6 && groupOk vd gd f && (!sat || f == 0x08 || f == 0x09)) = true := wf
  rw [Bool.and_eq_true, Bool.and_eq_true, groupOk, Bool.and_eq_true] at both
  obtain ⟨⟨-, -, room⟩, -⟩ := both
  exact of_decide_eq_true room

/-- A block's flags count once, with its first element. -/
theorem flagsOf_blocks (F : Nat → BitVec 7) (m : Nat) : flagsOf (List.range (m * 32)) (fun e => if e % 32 = 0 then F (e / 32) else 0) = flagsOf (List.range m) F := by
  induction m with
  | zero => rfl
  | succ m ih =>
    have rest (acc : BitVec 7) : ((List.range 32).map (m * 32 + ·)).foldl (fun a e => a ||| if e % 32 = 0 then F (e / 32) else 0) acc = acc ||| F m := by
      rw [List.foldl_map, List.range_succ_eq_map, List.foldl_cons, List.foldl_map]
      have first : (m * 32 + 0) % 32 = 0 ∧ (m * 32 + 0) / 32 = m := by omega
      rw [if_pos first.1, first.2]
      refine (List.foldl_ext _ (fun a _ => a) _ fun a i inside => ?_).trans (List.foldl_fixed _)
      have below := List.mem_range.1 inside
      rw [if_neg (by omega), show a ||| 0 = a from BitVec.or_zero]
    have split : List.range ((m + 1) * 32) = List.range (m * 32) ++ (List.range 32).map (m * 32 + ·) := by rw [Nat.succ_mul, List.range_add]
    have last : List.range (m + 1) = List.range m ++ [m] := List.range_succ
    unfold flagsOf at ih ⊢
    rw [split, last, List.foldl_append, ih, rest, List.foldl_append]
    rfl

section
variable {s : State} {k : BitVec 2} {vd : Reg} {gd : BitVec 2} {rm : BitVec 3} {ks : BitVec 2} {sat z : Bool} {f : BitVec 5} {xr xo : Reg} {a : DrainArgs}
  (plain : PlainOperands s) (args : drainArgs s.hart k rm ks sat z f xr xo = a) (own : (s.myBench.tile k).owner = some s.hart.id) (clean : (s.myBench.tile k).poison = 0)
  (quiet : (s.myBench.tile k).pend = false) (pass : ChecksPass (s.myBench.tile k)) (fits : a.row0 + a.nrows ≤ 256)
  (mode : (s.myBench.tile k).int32 = true ∨ vectorRound s.hart rm ≠ none) (wf : wellFormed (.mdrain k vd gd rm ks sat z f xr xo) = true)
include plain args own clean quiet pass fits mode wf

/-- Nothing is drained: no register changes. -/
theorem mdrain_nothing (kind : drainKind (s.myBench.tile k).int32 f.toNat = true) (single : isBlock f.toNat = false) (nothing : a.nrows = 0) :
    ∃ t, exec (.mdrain k vd gd rm ks sat z f xr xo) s = .next t ∧ BenchDone t 0 (s.withHart { s.hart with v := s.hart.v })
      ∧ OnlyTile t.myBench s.myBench k ∧ TileAfter (t.myBench.tile k) (s.myBench.tile k) z a.row0 a.nrows := by
  obtain ⟨tile, format, -, -, -⟩ := drainArgs_fields args
  obtain ⟨quietEngine, empty, unbound, -⟩ := id plain
  obtain ⟨steady, ready, -⟩ := id quietEngine
  have ended : (passed 8 (s.withHart { s.hart with vri := 0 })).hart.atEnd = true := retired_ended (q := s.withHart { s.hart with vri := 0 }) ready _ _
  refine ⟨passed 8 (s.withHart { s.hart with vri := 0 }), ?_, ⟨rfl, fun _ _ => rfl⟩, onlyTile_refl _ _, ?_⟩
  · have opened : exec (.mdrain k vd gd rm ks sat z f xr xo) s = execMdrain k vd gd rm ks sat z f xr xo s := rfl
    rw [opened, execMdrain, args]
    refine matrixStep_runs quietEngine wf rfl (drainCheck_passes plain args own fits mode ?fit ?kindOk _) ?run ended
    case fit =>
      rw [format, nothing, single]
      show (_ || (decide (0 * 256 * elemWidth f.toNat ≤ _) && true)) = true
      rw [Nat.zero_mul, decide_eq_true (Nat.zero_le _)]
      exact Bool.or_true _
    case kindOk => rw [format]; exact kind
    case run =>
      have unstreamed : streamCheck s.hart false a.f [{ base := vd.toNat, n := 2 ^ gd.toNat, comp := compCount a.f, src := false, dst := true }] = none := Unbound.streamCheck unbound _ _ _
      rw [unstreamed]
      exact (if_pos nothing).trans (finish_steady (s := s.withHart { s.hart with vri := 0 }) steady 8)
  · rw [nothing]
    exact tileAfter_none (Compared.refl _) z _

/-- MDRAIN into a format without scales. -/
theorem mdrain_plain (kind : if (s.myBench.tile k).int32 then f.toNat < 3 else 5 ≤ f.toNat ∧ f.toNat ≤ 9) (group : a.nrows * 256 * elemWidth f.toNat ≤ s.hart.capBits * 2 ^ gd.toNat) :
    let code := (vectorRound s.hart rm).getD 0
    let one (e : Nat) : Nat × BitVec 7 := drained f.toNat code sat (a.draw code (a.row0 + e / 256) (e % 256)) (accOf (s.myBench.tile k) (a.row0 + e / 256) (e % 256))
    let fl := flagsOf (List.range (a.nrows * 256)) (fun e => (one e).2)
    Unenabled fl s → ∃ t v, exec (.mdrain k vd gd rm ks sat z f xr xo) s = .next t ∧ BenchDone t fl (s.withHart { s.hart with v := v })
      ∧ OnlyTile t.myBench s.myBench k ∧ TileAfter (t.myBench.tile k) (s.myBench.tile k) z a.row0 a.nrows
      ∧ (if a.nrows = 0 then v = s.hart.v else HoldsGroup s v vd.toNat (2 ^ gd.toNat) f.toNat (a.nrows * 256) (fun e => (one e).1)) := by
  intro code one fl free
  obtain ⟨tile, format, round, saturates, -⟩ := drainArgs_fields args
  have into : f.toNat < 3 ∨ 5 ≤ f.toNat ∧ f.toNat ≤ 9 := by
    split at kind
    · exact .inl kind
    · exact .inr kind
  have single : isBlock f.toNat = false := isBlock_low (by omega)
  have kind' : drainKind (s.myBench.tile k).int32 f.toNat = true := by
    unfold drainKind
    split at kind
    · next integer => rw [integer]; exact decide_eq_true kind
    · next other =>
      rw [if_neg other, drainRounds, decide_eq_true kind.1, decide_eq_true kind.2]
      rfl
  by_cases nothing : a.nrows = 0
  · have flags : fl = 0 := by
      show flagsOf (List.range (a.nrows * 256)) _ = 0
      rw [nothing]
      rfl
    obtain ⟨t, runs, done, only, after⟩ := mdrain_nothing plain args own clean quiet pass fits mode wf kind' single nothing
    exact ⟨t, s.hart.v, runs, by rw [flags]; exact done, only, after, by rw [if_pos nothing]⟩
  · have row (i : Nat) := drainRow_plain (a := a) (by rw [format]; exact single) code (t := s.myBench.tile a.t) (by rw [tile]; exact clean) (a.row0 + i)
    have rows : drainRows a s = (List.range a.nrows).map (fun i => { elems := (List.range 256).map (fun c => drained a.f code a.sat (a.draw code (a.row0 + i) c) (accOf (s.myBench.tile a.t) (a.row0 + i) c)), bad := (List.range 256).map (fun _ => false), scales := [] }) := by
      unfold drainRows
      rw [round]
      exact List.map_congr_left fun i _ => row i
    have elems : (drainRows a s).flatMap (·.elems) = (List.range (a.nrows * 256)).map one := by
      rw [rows, List.flatMap_map, List.flatMap_def]
      refine (flatten_grid (fun i c => drained a.f code a.sat (a.draw code (a.row0 + i) c) (accOf (s.myBench.tile a.t) (a.row0 + i) c)) a.nrows 256).trans ?_
      rw [tile, format, saturates]
    have marks : (drainRows a s).flatMap (·.bad) = (List.range (a.nrows * 256)).map (fun _ => false) := by
      rw [rows, List.flatMap_map, List.flatMap_def]
      exact flatten_grid (fun _ _ => false) a.nrows 256
    obtain ⟨t, runs, done, only, after⟩ := mdrain_done plain args own quiet pass fits wf kind' mode group (fun block => absurd block (by rw [single]; decide)) nothing elems marks
      (scale := fun _ => 0) (fun block => absurd block (by rw [format, single]; decide)) free
    refine ⟨t, _, runs, done, only, after, ?_⟩
    rw [if_neg nothing]
    exact drainedHart_plain s _ single f.isLt (Nat.le_of_add_right_le (mdrain_fits wf)) fun e _ => drained_lt into _ _ _ (slot_lt 32 _ _)

/-- MDRAIN into an MX format: the scales stand in the register after the elements' group. -/
theorem mdrain_mx (some : 0 < a.nrows) (group : a.nrows * 256 * 8 ≤ s.hart.capBits * 2 ^ gd.toNat) (scaled : a.nrows * 8 * 8 ≤ s.hart.capBits)
    (float : (s.myBench.tile k).int32 = false) (into : f = 0x10 ∨ f = 0x11) :
    let code := (vectorRound s.hart rm).getD 0
    let block (j : Nat) : BlockOut := drainedBlock a code (s.myBench.tile k) (a.row0 + j / 8) (j % 8)
    let fl := flagsOf (List.range (a.nrows * 8)) (fun j => (block j).flags)
    Unenabled fl s → ∃ t v, exec (.mdrain k vd gd rm ks sat z f xr xo) s = .next t ∧ BenchDone t fl (s.withHart { s.hart with v := v })
      ∧ OnlyTile t.myBench s.myBench k ∧ TileAfter (t.myBench.tile k) (s.myBench.tile k) z a.row0 a.nrows
      ∧ GroupIs s v vd.toNat (2 ^ gd.toNat) f.toNat (a.nrows * 256) (fun e => (block (e / 32)).codes.getD (e % 32) 0)
      ∧ GroupIs s v (vd.toNat + 2 ^ gd.toNat) 1 0x0E (a.nrows * 8) (fun j => (block j).scale) ∧ OnlyGroup s v vd.toNat (2 ^ gd.toNat + 1) := by
  intro code block fl free
  obtain ⟨tile, format, round, -, -⟩ := drainArgs_fields args
  have mx : isMx f.toNat := by rcases into with rfl | rfl <;> simp [isMx]
  have shared : isBlock f.toNat = true := by rcases into with rfl | rfl <;> rfl
  have width : elemWidth f.toNat = 8 := by rcases into with rfl | rfl <;> rfl
  have kind : drainKind (s.myBench.tile k).int32 f.toNat = true := by
    rw [float]
    rcases into with rfl | rfl <;> rfl
  have room : vd.toNat + 2 ^ gd.toNat + 1 ≤ 32 := by
    have one : companions f = 1 := by rcases into with rfl | rfl <;> rfl
    have fit := mdrain_fits wf
    rwa [one] at fit
  have tag : scaleFmt f.toNat = 0x0E := by rcases into with rfl | rfl <;> rfl
  have count : a.nrows * 256 / 32 = a.nrows * 8 := by omega
  let one (e : Nat) : Nat × BitVec 7 := ((block (e / 32)).codes.getD (e % 32) 0, if e % 32 = 0 then (block (e / 32)).flags else 0)
  have flags : flagsOf (List.range (a.nrows * 256)) (fun e => (one e).2) = fl := by
    rw [show a.nrows * 256 = a.nrows * 8 * 32 by omega]
    exact flagsOf_blocks (fun j => (block j).flags) (a.nrows * 8)
  have rows : drainRows a s = (List.range a.nrows).map (fun i => {
      elems := (List.range 256).map (fun c => ((drainedBlock a code (s.myBench.tile k) (a.row0 + i) (c / 32)).codes.getD (c % 32) 0,
        if c % 32 = 0 then (drainedBlock a code (s.myBench.tile k) (a.row0 + i) (c / 32)).flags else 0)),
      bad := (List.range 256).map (fun _ => false), scales := (List.range 8).map (fun b => ((drainedBlock a code (s.myBench.tile k) (a.row0 + i) b).scale, false)) }) := by
    unfold drainRows
    rw [round, tile]
    exact List.map_congr_left fun i _ => drainRow_mx (by rw [format]; exact shared) code clean (a.row0 + i)
  have elems : (drainRows a s).flatMap (·.elems) = (List.range (a.nrows * 256)).map one := by
    rw [rows, List.flatMap_map, List.flatMap_def]
    refine (flatten_grid (fun i c => ((drainedBlock a code (s.myBench.tile k) (a.row0 + i) (c / 32)).codes.getD (c % 32) 0,
      if c % 32 = 0 then (drainedBlock a code (s.myBench.tile k) (a.row0 + i) (c / 32)).flags else 0)) a.nrows 256).trans (List.map_congr_left fun e _ => ?_)
    have place : e / 32 / 8 = e / 256 ∧ e / 32 % 8 = e % 256 / 32 ∧ e % 256 % 32 = e % 32 := by omega
    show _ = ((drainedBlock a code (s.myBench.tile k) (a.row0 + e / 32 / 8) (e / 32 % 8)).codes.getD (e % 32) 0,
      if e % 32 = 0 then (drainedBlock a code (s.myBench.tile k) (a.row0 + e / 32 / 8) (e / 32 % 8)).flags else 0)
    rw [place.1, place.2.1, place.2.2]
  have marks : (drainRows a s).flatMap (·.bad) = (List.range (a.nrows * 256)).map (fun _ => false) := by
    rw [rows, List.flatMap_map, List.flatMap_def]
    exact flatten_grid (fun _ _ => false) a.nrows 256
  have scales : (drainRows a s).flatMap (·.scales) = (List.range (a.nrows * 256 / 32)).map (fun j => ((block j).scale, false)) := by
    rw [rows, List.flatMap_map, List.flatMap_def, count]
    exact flatten_grid (fun i b => ((drainedBlock a code (s.myBench.tile k) (a.row0 + i) b).scale, false)) a.nrows 8
  obtain ⟨t, runs, done, only, after⟩ := mdrain_done plain args own quiet pass fits wf kind mode (by rw [width]; exact group) (fun _ => by rw [count]; exact scaled)
    (Nat.ne_of_gt some) elems marks (fun _ => scales) (by rw [flags]; exact free)
  rw [flags] at done
  have cut : ∀ e < a.nrows * 256, (one e).1 < 2 ^ elemWidth f.toNat := fun e _ => by
    have codes := mxBlock_codes_lt mx code (fun i => a.draw code (a.row0 + e / 32 / 8) (32 * (e / 32 % 8) + i))
      ((List.range 32).map (fun i => decodeVal 0x05 (accOf (s.myBench.tile k) (a.row0 + e / 32 / 8) (32 * (e / 32 % 8) + i))))
    rw [← format] at codes ⊢
    show (block (e / 32)).codes.getD (e % 32) 0 < _
    rw [List.getD_eq_getElem?_getD]
    cases found : (block (e / 32)).codes[e % 32]? with
    | none => exact Nat.two_pow_pos _
    | some c => exact codes c (List.mem_of_getElem? found)
  have written := drainedHart_mx s (vd := vd.toNat) (nd := 2 ^ gd.toNat) (len := a.nrows * 256) (elem := fun e => (one e).1) (scale := fun j => (block j).scale) shared f.isLt room cut
    fun j _ => mxBlock_scale_lt _ _ _ _
  rw [tag, count] at written
  exact ⟨t, _, runs, done, only, after, written⟩

end

open Sys2Proof.Claim

/-! ## Rows appended to a channel (R197, R376) -/

theorem State.setCtx_setCtx (s : State) (k : Nat) (c d : Ctx) : (s.setCtx k c).setCtx k d = s.setCtx k d :=
  congrArg (fun t => { s with ctxs := t }) (tset_tset s.ctxs k c d)

/-- Rows appended to a channel of a context. -/
def putRows (key chan : Nat) (rows : List Row) (s : State) : State :=
  s.setCtx key { s.ctx key with chans := (s.ctx key).chans.mapIdx (fun i x => if i = chan then x ++ rows else x) }

theorem putRows_putRows (key chan : Nat) (l m : List Row) (s : State) : putRows key chan m (putRows key chan l s) = putRows key chan (l ++ m) s := by
  have chans : ((s.ctx key).chans.mapIdx (fun i x => if i = chan then x ++ l else x)).mapIdx (fun i x => if i = chan then x ++ m else x)
      = (s.ctx key).chans.mapIdx (fun i x => if i = chan then x ++ (l ++ m) else x) := by
    refine Vector.ext fun i inside => ?_
    simp only [Vector.getElem_mapIdx]
    split
    · rw [List.append_assoc]
    · rfl
  unfold putRows
  rw [State.setCtx_setCtx, State.ctx_setCtx]
  exact congrArg (fun x => s.setCtx key { s.ctx key with chans := x }) chans

/-- The rows of a channel of a context. -/
def channelOf (key chan : Nat) (s : State) : List Row := ((s.ctx key).chans.toList[chan]?).getD []

theorem channelOf_putRows {key chan : Nat} (real : chan < 8) (rows : List Row) (s : State) : channelOf key chan (putRows key chan rows s) = channelOf key chan s ++ rows := by
  unfold channelOf putRows
  rw [State.ctx_setCtx]
  simp [real]

theorem flagsOf_append (l m : List Nat) (f : Nat → BitVec 7) : flagsOf (l ++ m) f = flagsOf l f ||| flagsOf m f := by
  have start (m : List Nat) (a : BitVec 7) : m.foldl (fun a e => a ||| f e) a = a ||| flagsOf m f := by
    unfold flagsOf
    induction m generalizing a with
    | nil => exact BitVec.or_zero.symm
    | cons e m ih => rw [List.foldl_cons, List.foldl_cons, ih, ih (0 ||| f e), show 0 ||| f e = f e from BitVec.zero_or, BitVec.or_assoc]
  unfold flagsOf
  rw [List.foldl_append, start]
  rfl

/-! ## One row of MDRAINX (R197) -/

/-- A row of a tile drained: its elements with their flags. -/
def drainedElem (a : DrainArgs) (rm : Nat) (t : Tile) (r c : Nat) : Nat × BitVec 7 := drained a.f rm a.sat (a.draw rm r c) (accOf t r c)

/-- A drained row as a channel holds it. -/
def drainedRow (a : DrainArgs) (rm : Nat) (t : Tile) (r : Nat) : Row :=
  { fmt := BitVec.ofNat 5 a.f, data := pack (elemWidth a.f) 256 (fun c => (drainedElem a rm t r c).1), poison := 0 }

/-- A hart at a row's boundary (R197). -/
def atRow (k : Nat) (fl : BitVec 7) (h : Hart) : Hart := { h with vri := BitVec.ofNat 64 k, fflags := h.fflags ||| fl, partFlags := h.partFlags ||| fl, stalled := true }

/-- A tile once row `r` has been delivered: Z zeroes it. -/
def deliveredTile (z : Bool) (r : Nat) (t : Tile) : Tile := if z then t.zeroRows r 1 else t

/-- What the comparisons and Z do to a tile whose row has been delivered. -/
def afterRow (a : DrainArgs) (r : Nat) (columns : Bool) (s : State) : State :=
  let u := compareRows a.t [r] columns s
  if a.z then u.setMyBench (u.myBench.setTile a.t ((u.myBench.tile a.t).zeroRows r 1)) else u

theorem afterRow_tile {a : DrainArgs} {r : Nat} {columns : Bool} {s : State} (row : rowDiffers (s.myBench.tile a.t) r ≠ some true)
    (column : columns = true → ∀ c < 256, colDiffers (s.myBench.tile a.t) c ≠ some true) :
    OneTile a.t s (afterRow a r columns s) ∧ ∃ t, Compared t (s.myBench.tile a.t) ∧ (afterRow a r columns s).myBench.tile a.t = deliveredTile a.z r t := by
  obtain ⟨compared, same⟩ := compareRows_pass (s := s) (k := a.t) (rows := [r]) (fun i inside => List.mem_singleton.1 inside ▸ row) column
  unfold afterRow deliveredTile
  cases a.z with
  | false => exact ⟨compared, _, same, rfl⟩
  | true => exact ⟨compared.trans (oneTile_set _ a.t _), _, same, tile_set _ a.t _⟩

theorem foldl_drained (f : Nat → Nat × BitVec 7) (n : Nat) : ((List.range n).map f).foldl (fun x e => x ||| e.2) 0 = flagsOf (List.range n) (fun e => (f e).2) := List.foldl_map

/-- While the channel has credit, the row VRI names is delivered (R197). -/
theorem deliverRows_succ {a : DrainArgs} {ctx chan n : Nat} {s : State} (single : isBlock a.f = false) (clean : (s.myBench.tile a.t).poison = 0)
    (credit : (channelOf (ctxKey (dieOf (benchOf s.hart.id)) ctx) chan s).length < 32) (together : s.policy.splitMatrix = false) :
    let rm := (vectorRound s.hart a.rm).getD 0
    let k := a.nrows - (n + 1)
    let u := afterRow a (a.row0 + k) (k == 0 && a.nrows == Config.mtlen) (putRows (ctxKey (dieOf (benchOf s.hart.id)) ctx) chan [drainedRow a rm (s.myBench.tile a.t) (a.row0 + k)] s)
    OneTile a.t (putRows (ctxKey (dieOf (benchOf s.hart.id)) ctx) chan [drainedRow a rm (s.myBench.tile a.t) (a.row0 + k)] s) u →
    deliverRows a ctx chan (n + 1) s = deliverRows a ctx chan n (u.withHart (atRow (k + 1) (flagsOf (List.range 256) (fun c => (drainedElem a rm (s.myBench.tile a.t) (a.row0 + k) c).2)) u.hart)) := by
  intro rm k u moved
  have converted := drainRow_plain single rm clean (a.row0 + k)
  rw [deliverRows]
  extract_lets h r t out fl w elems row put cmp zeroed next
  have image : elems = ((List.range 256).map (drainedElem a rm (s.myBench.tile a.t) (a.row0 + k))).toArray := congrArg (fun o : RowOut => o.elems.toArray) converted
  have marks : out.bad.zipIdx.filter Prod.fst = [] := by
    refine List.filter_eq_nil_iff.2 fun p inside => ?_
    have listed : p.1 ∈ out.bad := List.fst_mem_of_mem_zipIdx inside
    rw [show out.bad = (List.range 256).map (fun _ => false) from congrArg RowOut.bad converted] at listed
    obtain ⟨_, _, same⟩ := List.mem_map.1 listed
    rw [← same]
    exact Bool.false_ne_true
  have whole : row = drainedRow a rm (s.myBench.tile a.t) (a.row0 + k) := by
    have data : pack w 256 (fun i => ((elems[i]?).map Prod.fst).getD 0) = pack (elemWidth a.f) 256 (fun c => (drainedElem a rm (s.myBench.tile a.t) (a.row0 + k) c).1) := by
      rw [image]
      exact pack_congr fun e inside => map_getElem?_range _ Prod.fst 0 inside
    show ({ fmt := BitVec.ofNat 5 a.f, data := pack w 256 (fun i => ((elems[i]?).map Prod.fst).getD 0), poison := (out.bad.zipIdx.filter Prod.fst).foldl (fun x p => x ||| 1 <<< p.2) 0 } : Row) = _
    rw [data, marks]
    rfl
  have placed : put = putRows (ctxKey (dieOf (benchOf s.hart.id)) ctx) chan [drainedRow a rm (s.myBench.tile a.t) (a.row0 + k)] s := by
    have chans : (s.ctx (ctxKey (dieOf (benchOf s.hart.id)) ctx)).chans.mapIdx (fun i x => if (i == chan) = true then x ++ [row] else x)
        = (s.ctx (ctxKey (dieOf (benchOf s.hart.id)) ctx)).chans.mapIdx (fun i x => if i = chan then x ++ [drainedRow a rm (s.myBench.tile a.t) (a.row0 + k)] else x) := by
      rw [whole]
      exact Vector.ext fun i inside => by simp only [Vector.getElem_mapIdx, beq_iff_eq]
    exact congrArg (fun x => s.setCtx (ctxKey (dieOf (benchOf s.hart.id)) ctx) { s.ctx (ctxKey (dieOf (benchOf s.hart.id)) ctx) with chans := x }) chans
  have after : zeroed = u := by
    show afterRow a (a.row0 + k) (k == 0 && a.nrows == Config.mtlen) put = u
    rw [placed]
  have raised : fl = flagsOf (List.range 256) (fun c => (drainedElem a rm (s.myBench.tile a.t) (a.row0 + k) c).2) := by
    show out.elems.foldl (fun x e => x ||| e.2) 0 = _
    rw [show out.elems = (List.range 256).map (drainedElem a rm (s.myBench.tile a.t) (a.row0 + k)) from congrArg RowOut.elems converted]
    exact foldl_drained _ 256
  have paused : next = u.withHart (atRow (k + 1) (flagsOf (List.range 256) (fun c => (drainedElem a rm (s.myBench.tile a.t) (a.row0 + k) c).2)) u.hart) := by
    show pauseAt (k + 1) fl zeroed = _
    rw [after, raised]
    rfl
  have policy : next.policy.splitMatrix = false := by
    rw [paused, moved.frame]
    exact together
  rw [policy]
  exact (if_neg (Nat.not_le.2 credit)).trans ((if_neg Bool.false_ne_true).trans (congrArg (deliverRows a ctx chan n) paused))

open Sys2Proof.Claim

/-! ## All rows of MDRAINX (R197) -/

/-- A row other than the one zeroed compares as before. -/
theorem rowDiffers_zeroRows {t : Tile} (clean : t.poison = 0) {r i : Nat} (other : i ≠ r) : rowDiffers (t.zeroRows r 1) i = rowDiffers t i := by
  have still : (t.zeroRows r 1).poison = 0 := by
    show cutSpan 256 r 1 t.poison = 0
    rw [clean, cutSpan, Nat.zero_mod, Nat.zero_shiftRight, Nat.zero_shiftLeft]
  have sound : (List.range Config.mtlen).any ((t.zeroRows r 1).badAt i) = false := List.any_eq_false.2 fun c _ => by rw [badAt_clean still]; exact Bool.false_ne_true
  have sound' : (List.range Config.mtlen).any (t.badAt i) = false := List.any_eq_false.2 fun c _ => by rw [badAt_clean clean]; exact Bool.false_ne_true
  have pairs {α : Type} (l : List α) (z d : α) : (((l.zipIdx.map (fun p => if r ≤ p.2 && p.2 < r + 1 then z else p.1))[i]?).getD d) = (l[i]?).getD d := by
    have out : (decide (r ≤ 0 + i) && decide (0 + i < r + 1)) = false := by
      rw [← Bool.decide_and]
      exact decide_eq_false (by omega)
    rw [List.getElem?_map, List.getElem?_zipIdx]
    cases l[i]? with
    | none => rfl
    | some x => simp only [Option.map_some, out, Bool.false_eq_true, if_false]
  have sums : (List.range Config.mtlen).foldl (fun a c => a + tileUnits t.int32 ((t.zeroRows r 1).at i c)) 0 = (List.range Config.mtlen).foldl (fun a c => a + tileUnits t.int32 (t.at i c)) 0 :=
    List.foldl_ext _ _ _ fun a c inside => by
      have real : c < 256 := List.mem_range.1 inside
      rw [at_eq_accOf _ _ real, at_eq_accOf _ _ real, accOf_zeroRows _ _ _ _ real, if_neg (by omega)]
  unfold rowDiffers
  dsimp only
  rw [sound, sound']
  have nf : (t.zeroRows r 1).nf = t.nf := by simp only [Tile.zeroRows]
  have int32 : (t.zeroRows r 1).int32 = t.int32 := by simp only [Tile.zeroRows]
  have rounds : (t.zeroRows r 1).rounds = t.rounds := by simp only [Tile.zeroRows]
  have rowC : ((t.zeroRows r 1).rowC[i]?).getD 0 = (t.rowC[i]?).getD 0 := by
    simp only [Tile.zeroRows]
    exact pairs t.rowC 0 0
  have rowM : ((t.zeroRows r 1).rowM[i]?).getD 0 = (t.rowM[i]?).getD 0 := by
    simp only [Tile.zeroRows]
    exact pairs t.rowM 0 0
  rw [nf, int32, rounds, rowC, rowM, sums]

theorem tileAfter_join {t w u : Tile} {z : Bool} {lo n r lo' n' : Nat} (last : TileAfter t w z lo n) (first : TileAfter w u z r 1)
    (span : ∀ i, i < 256 → (lo' ≤ i ∧ i < lo' + n' ↔ i = r ∨ lo ≤ i ∧ i < lo + n)) : TileAfter t u z lo' n' := by
  obtain ⟨a1, a2, a3, a4, a5, a6, accs⟩ := last
  obtain ⟨b1, b2, b3, b4, b5, b6, olds⟩ := first
  refine ⟨a1.trans b1, a2.trans b2, a3.trans b3, a4.trans b4, a5.trans b5, a6.trans b6, fun i c inside real => ?_⟩
  rw [accs i c inside real, olds i c inside real]
  have within := span i inside
  cases z with
  | false => simp
  | true =>
    by_cases here : i = r
    · have all : lo' ≤ i ∧ i < lo' + n' := within.2 (.inl here)
      rw [if_pos (show true = true ∧ lo' ≤ i ∧ i < lo' + n' from ⟨rfl, all⟩), if_pos (show true = true ∧ r ≤ i ∧ i < r + 1 from ⟨rfl, by omega⟩), ite_self]
    · rw [if_neg (show ¬(true = true ∧ r ≤ i ∧ i < r + 1) by omega)]
      exact if_congr (and_congr_right fun _ => ⟨fun h => within.2 (.inr h), fun h => (within.1 h).resolve_left here⟩) rfl rfl

theorem tileAfter_delivered {t u : Tile} (same : Compared t u) (z : Bool) (r : Nat) : TileAfter (deliveredTile z r t) u z r 1 := by
  cases z with
  | false => exact tileAfter_kept same r 1
  | true => exact tileAfter_rows same r 1

/-- What stands of a tile's rows once row `r` has been delivered: the others compare and read as before. -/
theorem deliveredTile_rest {t u : Tile} (same : Compared t u) (clean : u.poison = 0) (z : Bool) (r : Nat) :
    (deliveredTile z r t).poison = 0 ∧ (∀ i, i ≠ r → rowDiffers (deliveredTile z r t) i = rowDiffers u i)
      ∧ ∀ i c, i ≠ r → c < 256 → accOf (deliveredTile z r t) i c = accOf u i c := by
  obtain ⟨x, rfl⟩ := same
  cases z with
  | false => exact ⟨clean, fun _ _ => rfl, fun _ _ _ _ => rfl⟩
  | true =>
    refine ⟨?_, fun i other => rowDiffers_zeroRows (t := { u with skip := x }) clean other, fun i c other real => ?_⟩
    · show cutSpan 256 r 1 u.poison = 0
      rw [clean, cutSpan, Nat.zero_mod, Nat.zero_shiftRight, Nat.zero_shiftLeft]
    · show accOf (Tile.zeroRows { u with skip := x } r 1) i c = _
      rw [accOf_zeroRows _ _ _ _ real, if_neg (by omega)]
      rfl

/-- The rows of MDRAINX that are left have been delivered, and the instruction has completed (R197). -/
structure Delivered (a : DrainArgs) (key chan n : Nat) (rows : List Row) (fl : BitVec 7) (u t : State) : Prop where
  frame : t = { retired (u.hart.pc + 8) fl ((if n = 0 then u else putRows key chan rows u).withHart { u.hart with vri := 0 }) with benches := t.benches }
  others : ∀ b, b ≠ benchOf u.hart.id → t.bench b = u.bench b
  only : OnlyTile t.myBench u.myBench a.t
  after : TileAfter (t.myBench.tile a.t) (u.myBench.tile a.t) a.z (a.row0 + if a.nrows = 256 then 0 else a.nrows - n) (if a.nrows = 256 then 256 else n)
  ended : t.hart.atEnd = true

/-- After the last row: a Z that covers all rows clears the tile whole (R197, R198). -/
theorem deliverRows_zero {a : DrainArgs} {ctx chan key : Nat} {u : State} (fits : a.row0 + a.nrows ≤ 256) (step : u.hart.stepping = false) (ready : u.hart.run = .ready)
    (quiet : (u.myBench.tile a.t).pend = false) (free : u.hart.partFlags &&& u.hart.enables = 0) : Delivered a key chan 0 [] 0 u (deliverRows a ctx chan 0 u) := by
  let b : DrainArgs := { a with z := a.z && a.nrows == Config.mtlen }
  let w := if a.nrows = 0 then u else zeroDrained b u
  have ends : deliverRows a ctx chan 0 u = finishDrain a.t 0 w := rfl
  have moved : OneTile a.t u w ∧ TileAfter (w.myBench.tile a.t) (u.myBench.tile a.t) a.z (a.row0 + if a.nrows = 256 then 0 else a.nrows - 0) (if a.nrows = 256 then 256 else 0) := by
    by_cases nothing : a.nrows = 0
    · have same : w = u := if_pos nothing
      rw [same, nothing]
      exact ⟨OneTile.refl _ _, tileAfter_none (Compared.refl _) _ _⟩
    · have same : w = zeroDrained b u := if_neg nothing
      obtain ⟨moved, tile⟩ := zeroDrained_tile b u
      rw [same]
      refine ⟨moved, ?_⟩
      have after := zeroedTile_after (a := b) (Compared.refl (u.myBench.tile a.t)) fits
      rw [← show (zeroDrained b u).myBench.tile a.t = zeroedTile b (u.myBench.tile a.t) from tile] at after
      by_cases whole : a.nrows = 256
      · have all : b.z = a.z := by
          show (a.z && a.nrows == 256) = a.z
          rw [whole]
          exact Bool.and_true _
        rw [if_pos whole, if_pos whole, ← all]
        have rows : b.nrows = 256 := whole
        rw [rows] at after
        exact after
      · have kept : b.z = false := by
          show (a.z && a.nrows == 256) = false
          rw [beq_false_of_ne whole]
          exact Bool.and_false _
        have same : (zeroDrained b u).myBench.tile a.t = u.myBench.tile a.t := by
          refine Eq.trans tile ?_
          rw [zeroedTile, kept]
          rfl
        rw [if_neg whole, if_neg whole, same]
        exact tileAfter_none (Compared.refl _) _ _
  obtain ⟨moved, after⟩ := moved
  have hart := moved.hart
  have union : (0 ||| w.hart.partFlags) &&& w.hart.enables = 0 := by
    rw [hart, show 0 ||| u.hart.partFlags = u.hart.partFlags from BitVec.zero_or]
    exact free
  have done := finishDrain_done (k := a.t) (s := w) (by rw [hart]; exact step) union ((pend_after after).trans quiet)
  rw [ends, done]
  refine ⟨?_, moved.others, moved.tile, after, retired_ended (by rw [← ready, ← hart]; rfl) _ _⟩
  rw [moved.frame]
  rfl

theorem drainedRow_congr {a : DrainArgs} {rm : Nat} {t u : Tile} {r : Nat} (same : ∀ c < 256, drainedElem a rm t r c = drainedElem a rm u r c) : drainedRow a rm t r = drainedRow a rm u r := by
  unfold drainedRow
  rw [pack_congr fun c inside => congrArg Prod.fst (same c inside)]

/-- The flags of so many rows are those of the first and those of the rest. -/
theorem flagsOf_rows (elem : Nat → Nat → Nat × BitVec 7) (n : Nat) : flagsOf (List.range ((n + 1) * 256)) (fun e => (elem (e / 256) (e % 256)).2)
    = flagsOf (List.range 256) (fun c => (elem 0 c).2) ||| flagsOf (List.range (n * 256)) (fun e => (elem (e / 256 + 1) (e % 256)).2) := by
  rw [show (n + 1) * 256 = 256 + n * 256 by omega, List.range_add, flagsOf_append]
  refine congrArg₂ (· ||| ·) ?_ ?_
  · refine flagsOf_congr fun e inside => ?_
    have small := List.mem_range.1 inside
    rw [Nat.div_eq_of_lt small, Nat.mod_eq_of_lt small]
  · refine List.foldl_map.trans (flagsOf_congr fun e _ => ?_)
    show (elem ((256 + e) / 256) ((256 + e) % 256)).2 = _
    rw [show (256 + e) / 256 = e / 256 + 1 by omega, show (256 + e) % 256 = e % 256 by omega]

/-- MDRAINX delivers what is left of its rows while the channel has room for all of them (R197). -/
theorem deliverRows_done {a : DrainArgs} {ctx chan key : Nat} (single : isBlock a.f = false) (real : chan < 8) (fits : a.row0 + a.nrows ≤ 256) (n : Nat) :
    ∀ u : State, n ≤ a.nrows → ctxKey (dieOf (benchOf u.hart.id)) ctx = key → u.hart.stepping = false → u.hart.run = .ready → u.policy.splitMatrix = false →
      (u.myBench.tile a.t).poison = 0 → (u.myBench.tile a.t).pend = false → (∀ i, i < n → rowDiffers (u.myBench.tile a.t) (a.row0 + (a.nrows - n) + i) ≠ some true) →
      (n = a.nrows → ∀ c < 256, colDiffers (u.myBench.tile a.t) c ≠ some true) → (channelOf key chan u).length + n ≤ 32 →
      let elem (j c : Nat) := drainedElem a ((vectorRound u.hart a.rm).getD 0) (u.myBench.tile a.t) (a.row0 + (a.nrows - n) + j) c
      let fl := flagsOf (List.range (n * 256)) (fun e => (elem (e / 256) (e % 256)).2)
      (fl ||| u.hart.partFlags) &&& u.hart.enables = 0 →
      Delivered a key chan n ((List.range n).map (fun j => drainedRow a ((vectorRound u.hart a.rm).getD 0) (u.myBench.tile a.t) (a.row0 + (a.nrows - n) + j))) fl u (deliverRows a ctx chan n u) := by
  induction n with
  | zero =>
    intro u _ _ step ready _ _ quiet _ _ _ elem fl free
    refine deliverRows_zero fits step ready quiet ?_
    rwa [show fl ||| u.hart.partFlags = u.hart.partFlags from BitVec.zero_or] at free
  | succ n ih =>
    intro u within place step ready together clean quiet pass columns room elem fl free
    let rm := (vectorRound u.hart a.rm).getD 0
    let k := a.nrows - (n + 1)
    let tile := u.myBench.tile a.t
    let put := putRows key chan [drainedRow a rm tile (a.row0 + k)] u
    have next : a.row0 + (a.nrows - n) = a.row0 + k + 1 := by omega
    obtain ⟨moved, t, same, now⟩ := afterRow_tile (a := a) (r := a.row0 + k) (columns := k == 0 && a.nrows == Config.mtlen) (s := put) (pass 0 (Nat.succ_pos n)) fun whole => by
      rw [Bool.and_eq_true, beq_iff_eq] at whole
      exact columns (by omega)
    have succ := deliverRows_succ (ctx := ctx) (chan := chan) (n := n) (s := u) single clean (by rw [place]; omega) together
    rw [place] at succ
    have runs := succ moved
    let fl0 := flagsOf (List.range 256) (fun c => (drainedElem a rm tile (a.row0 + k) c).2)
    generalize afterRow a (a.row0 + k) (k == 0 && a.nrows == Config.mtlen) put = q at *
    let w := q.withHart (atRow (k + 1) fl0 q.hart)
    have hart : w.hart = atRow (k + 1) fl0 u.hart := by
      show atRow (k + 1) fl0 q.hart = _
      rw [moved.hart]
      rfl
    have frame : w = { put with benches := w.benches, hart := atRow (k + 1) fl0 u.hart } := by
      show q.withHart (atRow (k + 1) fl0 q.hart) = _
      rw [moved.hart, moved.frame]
      rfl
    have tileW : w.myBench.tile a.t = deliveredTile a.z (a.row0 + k) t := now
    obtain ⟨clean', others, accs⟩ := deliveredTile_rest same clean a.z (a.row0 + k)
    have first := tileAfter_delivered same a.z (a.row0 + k)
    have elems (j c : Nat) (real : c < 256) : drainedElem a ((vectorRound w.hart a.rm).getD 0) (w.myBench.tile a.t) (a.row0 + (a.nrows - n) + j) c = elem (j + 1) c := by
      have acc := accs (a.row0 + (a.nrows - n) + j) c (by omega) real
      have same' : (vectorRound w.hart a.rm).getD 0 = rm := by rw [hart]; rfl
      have row : a.row0 + (a.nrows - n) + j = a.row0 + k + (j + 1) := by omega
      unfold drainedElem
      rw [same', tileW, acc, row]
      rfl
    let fl' := flagsOf (List.range (n * 256)) (fun e => (drainedElem a ((vectorRound w.hart a.rm).getD 0) (w.myBench.tile a.t) (a.row0 + (a.nrows - n) + e / 256) (e % 256)).2)
    have flags : fl = fl0 ||| fl' := by
      refine (flagsOf_rows elem n).trans (congrArg (fl0 ||| ·) (flagsOf_congr fun e _ => ?_))
      rw [elems _ _ (Nat.mod_lt e (by decide))]
    have freeW : (fl' ||| w.hart.partFlags) &&& w.hart.enables = 0 := by
      have parts : w.hart.partFlags = u.hart.partFlags ||| fl0 := by rw [hart]; rfl
      have enables : w.hart.enables = u.hart.enables := by rw [hart]; rfl
      have union : fl' ||| (u.hart.partFlags ||| fl0) = fl ||| u.hart.partFlags := by rw [flags]; ac_rfl
      rw [parts, enables, union]
      exact free
    have d := ih w (by omega) (by rw [hart]; exact place) (by rw [hart]; exact step) (by rw [hart]; exact ready) (by rw [frame]; exact together) (by rw [tileW]; exact clean')
      (by rw [tileW]; exact (pend_after first).trans quiet) (fun i below => by
        rw [tileW, others _ (by omega), show a.row0 + (a.nrows - n) + i = a.row0 + (a.nrows - (n + 1)) + (i + 1) by omega]
        exact pass (i + 1) (Nat.succ_lt_succ below)) (fun all => absurd all (by omega)) (by
        have grown : channelOf key chan w = channelOf key chan u ++ [drainedRow a rm tile (a.row0 + k)] := by
          rw [frame]
          exact channelOf_putRows real _ u
        rw [grown, List.length_append, List.length_singleton]
        omega) freeW
    rw [runs]
    generalize deliverRows a ctx chan n w = v at d
    obtain ⟨ends, elsewhere, only, after, ended⟩ := d
    let rows := (List.range (n + 1)).map (fun j => drainedRow a rm tile (a.row0 + (a.nrows - (n + 1)) + j))
    let rows' := (List.range n).map (fun j => drainedRow a ((vectorRound w.hart a.rm).getD 0) (w.myBench.tile a.t) (a.row0 + (a.nrows - n) + j))
    have listed : rows = [drainedRow a rm tile (a.row0 + k)] ++ rows' := by
      show (List.range (n + 1)).map _ = _
      rw [List.range_succ_eq_map, List.map_cons, List.map_map]
      refine congrArg (_ :: ·) (List.map_congr_left fun j _ => ?_)
      have format : ((vectorRound w.hart a.rm).getD 0) = rm := by rw [hart]; rfl
      have row : a.row0 + (a.nrows - n) + j = a.row0 + (a.nrows - (n + 1)) + (j + 1) := by omega
      have same' : ∀ c < 256, drainedElem a rm (w.myBench.tile a.t) (a.row0 + (a.nrows - (n + 1)) + (j + 1)) c = drainedElem a rm tile (a.row0 + (a.nrows - (n + 1)) + (j + 1)) c := fun c real => by
        rw [← row, ← format, elems j c real, row]
        exact congrArg (fun x => drainedElem a x tile _ c) format.symm
      rw [format, row]
      exact (drainedRow_congr same').symm
    have state : (if n = 0 then w else putRows key chan rows' w) = { putRows key chan rows u with benches := w.benches, hart := atRow (k + 1) fl0 u.hart } := by
      by_cases last : n = 0
      · have none : rows' = [] := by
          show (List.range n).map _ = []
          rw [last]
          rfl
        rw [if_pos last, listed, none, List.append_nil]
        exact frame
      · rw [if_neg last, listed, ← putRows_putRows, frame]
        rfl
    have bench : w.myBench = q.myBench := rfl
    refine ⟨?_, fun b other => ?_, ?_, ?_, ended⟩
    · have flags' : (u.hart.fflags ||| fl0) ||| fl' = u.hart.fflags ||| fl := by rw [flags, BitVec.or_assoc]
      have after : retired (w.hart.pc + 8) fl' ((if n = 0 then w else putRows key chan rows' w).withHart { w.hart with vri := 0 })
          = { retired (u.hart.pc + 8) fl ((putRows key chan rows u).withHart { u.hart with vri := 0 }) with benches := w.benches } := by
        rw [state, hart]
        exact congrArg (fun x => { putRows key chan rows u with
          benches := w.benches, hart := { u.hart with pc := u.hart.pc + 8, instret := u.hart.instret + 1, fflags := x, partFlags := 0, stalled := false, fetched := none, remote := none, vri := 0 } }) flags'
      have now : v = { retired (w.hart.pc + 8) fl' ((if n = 0 then w else putRows key chan rows' w).withHart { w.hart with vri := 0 }) with benches := v.benches } := ends
      rw [after] at now
      exact now
    · refine (elsewhere b (by rw [hart]; exact other)).trans ((moved.others b other).trans ?_)
      rfl
    · exact onlyTile_trans moved.tile only
    · refine tileAfter_join (tileW ▸ after) first fun i inside => ?_
      by_cases whole : a.nrows = 256
      · rw [if_pos whole, if_pos whole, if_pos whole, if_pos whole]
        omega
      · rw [if_neg whole, if_neg whole, if_neg whole, if_neg whole]
        omega

open Sys2Proof.Claim

/-! ## MDRAINX (R194, R197, R376) -/

/-- A matrix instruction that has to wait keeps its place at the head of its bench's queue (R173). -/
theorem matrixStep_waits {s : State} {i : Instr} {c : State → MCheck} {k : State → State} (plain : PlainMatrix s) (wf : wellFormed i = true) (pass : matrixCheck i s (c s) = none) {t : State}
    (run : k s = t) (waits : t.hart.atEnd = false) :
    matrixStep i s c k = .next (t.setBench (benchOf s.hart.id) { t.bench (benchOf s.hart.id) with queue := [{ hart := s.hart.id, instr := i }] }) := by
  obtain ⟨-, -, -, still, together, empty, unposted, done⟩ := id plain
  have slot (n : Nat) (h : n < 4) : s.myBench.posting[n] = none := by
    simp only [unposted, Vector.getElem_replicate]
  refine congrArg Host.Outcome.next ((checked_wellFormed wf s _).trans ((held_still still _).trans ?_))
  unfold queued
  simp only [empty, slot, List.head?_nil, List.any_nil]
  rw [if_neg (by simp), if_neg (by simp), replaysDone, done, together, pass, run]
  exact if_neg (Bool.eq_false_iff.1 waits)

theorem held_by {c : Ctx} {p : BitVec 3} (mine : c.held = true ∧ c.part = p) : ¬ (!(c.held && c.part == p)) = true := by
  rw [mine.1, mine.2, beq_self_eq_true]
  decide

section
variable {s : State} {k : BitVec 2} {ctx : BitVec 4} {chan : BitVec 3} {rm : BitVec 3} {ks : BitVec 2} {z : Bool} {f : BitVec 5} {xr xo : Reg} {a : DrainArgs}
  (plain : PlainOperands s) (args : drainArgs s.hart k rm ks false z f xr xo = a) (own : (s.myBench.tile k).owner = some s.hart.id) (fits : a.row0 + a.nrows ≤ 256)
  (mode : (s.myBench.tile k).int32 = true ∨ vectorRound s.hart rm ≠ none) (wf : wellFormed (.mdrainx k ctx chan rm ks z f xr xo) = true) (float : (s.myBench.tile k).int32 = false)
  (into : f = 0x05 ∨ f = 0x06)
include plain args own fits mode wf float into

theorem mdrainx_check (i : Instr) : matrixCheck i s (drainCheck s a true ((a.f == 5 || a.f == 6) && !(s.myBench.tile k).int32)) = none := by
  obtain ⟨-, format, -⟩ := drainArgs_fields args
  refine drainCheck_passes plain args own fits mode rfl ?_ i
  rw [format, float]
  rcases into with rfl | rfl <;> rfl

theorem mdrainx_foreign (other : (s.ctx (ctxKey (dieOf (benchOf s.hart.id)) ctx.toNat)).held = false ∨ (s.ctx (ctxKey (dieOf (benchOf s.hart.id)) ctx.toNat)).part ≠ s.hart.partid) :
    exec (.mdrainx k ctx chan rm ks z f xr xo) s = .next (trappedHere 0x06 (BitVec.ofNat 64 (ctx.toNat * 8 + chan.toNat)) s) := by
  have opened : exec (.mdrainx k ctx chan rm ks z f xr xo) s = execMdrainx k ctx chan rm ks z f xr xo s := rfl
  rw [opened, execMdrainx, args]
  refine matrixStep_runs plain.1 wf rfl (mdrainx_check plain args own fits mode wf float into _) ?_ rfl
  have unheld : (!((s.ctx (ctxKey (dieOf (benchOf s.hart.id)) ctx.toNat)).held && (s.ctx (ctxKey (dieOf (benchOf s.hart.id)) ctx.toNat)).part == s.hart.partid)) = true := by
    rcases other with free | foreign
    · rw [free]; rfl
    · rw [beq_false_of_ne foreign, Bool.and_false]; rfl
  exact (if_pos unheld).trans (trapHere_plain (by decide) _ s)

section
variable (mine : (s.ctx (ctxKey (dieOf (benchOf s.hart.id)) ctx.toNat)).held = true ∧ (s.ctx (ctxKey (dieOf (benchOf s.hart.id)) ctx.toNat)).part = s.hart.partid)
include mine

/-- Without credit MDRAINX sleeps at the head of the queue. -/
theorem mdrainx_sleeps (more : s.hart.vri.toNat < a.nrows) (full : 32 ≤ (channelOf (ctxKey (dieOf (benchOf s.hart.id)) ctx.toNat) chan.toNat s).length) :
    exec (.mdrainx k ctx chan rm ks z f xr xo) s = .next ((s.withHart { s.hart with run := .asleep .channel }).setMyBench
      { s.myBench with queue := [{ hart := s.hart.id, instr := .mdrainx k ctx chan rm ks z f xr xo }] }) := by
  have opened : exec (.mdrainx k ctx chan rm ks z f xr xo) s = execMdrainx k ctx chan rm ks z f xr xo s := rfl
  rw [opened, execMdrainx, args]
  refine matrixStep_waits plain.1 wf (mdrainx_check plain args own fits mode wf float into _) (t := s.withHart { s.hart with run := .asleep .channel }) ?_ rfl
  refine (if_neg (held_by mine)).trans ?_
  obtain ⟨n, left⟩ : ∃ n, a.nrows - s.hart.vri.toNat = n + 1 := ⟨a.nrows - s.hart.vri.toNat - 1, by omega⟩
  rw [left, deliverRows]
  exact if_pos full

/-- With room for all its rows MDRAINX appends them and completes. -/
theorem mdrainx_delivers (clean : (s.myBench.tile k).poison = 0) (quiet : (s.myBench.tile k).pend = false) (pass : ChecksPass (s.myBench.tile k)) (from' : s.hart.vri.toNat ≤ a.nrows)
    (room : (channelOf (ctxKey (dieOf (benchOf s.hart.id)) ctx.toNat) chan.toNat s).length + (a.nrows - s.hart.vri.toNat) ≤ 32) :
    let v := s.hart.vri.toNat
    let elem (r c : Nat) := drainedElem a ((vectorRound s.hart rm).getD 0) (s.myBench.tile k) r c
    let fl := flagsOf (List.range ((a.nrows - v) * 256)) (fun e => (elem (a.row0 + v + e / 256) (e % 256)).2)
    let rows := (List.range (a.nrows - v)).map (fun j => drainedRow a ((vectorRound s.hart rm).getD 0) (s.myBench.tile k) (a.row0 + v + j))
    Unenabled fl s →
    ∃ t, exec (.mdrainx k ctx chan rm ks z f xr xo) s = .next t
      ∧ BenchDone t fl (if v = a.nrows then s else putRows (ctxKey (dieOf (benchOf s.hart.id)) ctx.toNat) chan.toNat rows s)
      ∧ OnlyTile t.myBench s.myBench k
      ∧ TileAfter (t.myBench.tile k) (s.myBench.tile k) z (a.row0 + if a.nrows = 256 then 0 else v) (if a.nrows = 256 then 256 else a.nrows - v) := by
  intro v elem fl rows free
  obtain ⟨tile, format, round, -, zeroes⟩ := drainArgs_fields args
  obtain ⟨quietEngine, -, -, -, -, -, together⟩ := id plain
  obtain ⟨steady, ready, -⟩ := id quietEngine
  have single : isBlock a.f = false := by rw [format]; rcases into with rfl | rfl <;> rfl
  have start : a.nrows - (a.nrows - v) = v := by omega
  have d := deliverRows_done (ctx := ctx.toNat) single chan.isLt fits (a.nrows - v) s (Nat.sub_le _ _) rfl steady.1 ready together (by rw [tile]; exact clean) (by rw [tile]; exact quiet)
    (fun i below => by rw [tile]; exact (pass _ (by omega)).1) (fun _ c real => by rw [tile]; exact (pass c real).2) room
  rw [start, tile, round] at d
  obtain ⟨frame, others, only, after, ended⟩ := d (by rw [steady.2, show fl ||| 0 = fl from BitVec.or_zero]; exact free)
  rw [start, tile, zeroes] at after
  refine ⟨_, ?_, ⟨?_, ?_⟩, tile ▸ only, after⟩
  · have opened : exec (.mdrainx k ctx chan rm ks z f xr xo) s = execMdrainx k ctx chan rm ks z f xr xo s := rfl
    rw [opened, execMdrainx, args]
    exact matrixStep_runs quietEngine wf rfl (mdrainx_check plain args own fits mode wf float into _) (if_neg (held_by mine)) ended
  · by_cases all : v = a.nrows
    · rw [if_pos all]
      rw [if_pos (show a.nrows - v = 0 by omega)] at frame
      exact frame
    · rw [if_neg all]
      rw [if_neg (show a.nrows - v ≠ 0 by omega)] at frame
      exact frame
  · intro b other
    by_cases all : v = a.nrows
    · rw [if_pos all] at other ⊢
      exact others b other
    · rw [if_neg all] at other ⊢
      exact others b other

end
end

/-- Settles O47: MDRAIN by the rows it converts, MDRAINX by induction on the rows that are left. -/
theorem matrixDrains : Obligations.MatrixDrains := by
  intro s k vd gd rm ks sat z f xr xo ctx chan plain row0 n old nd w code draw own clean quiet pass fits mode
  have tag : BitVec.ofNat 5 f.toNat = f := by rw [BitVec.ofNat_toNat, BitVec.setWidth_eq]
  have draws (r c : Nat) : (drainArgs s.hart k rm ks sat z f xr xo).draw code r c = draw r c := rfl
  refine ⟨?plain, ?mx, ?channel⟩
  case plain =>
    intro wf group kind one fl free
    have same (e : Nat) : one e = drained f.toNat code sat ((drainArgs s.hart k rm ks sat z f xr xo).draw code (row0 + e / 256) (e % 256)) (accOf old (row0 + e / 256) (e % 256)) := by
      rw [draws]
    have all := funext same
    clear_value one
    subst all
    exact mdrain_plain (a := drainArgs s.hart k rm ks sat z f xr xo) plain rfl own clean quiet pass fits mode wf kind group free
  case mx =>
    intro wf some group scaled float into block fl free
    have same (j : Nat) : block j = drainedBlock (drainArgs s.hart k rm ks sat z f xr xo) code old (row0 + j / 8) (j % 8) := by
      unfold drainedBlock
      simp only [draws]
      rfl
    have all := funext same
    clear_value block
    subst all
    exact mdrain_mx (a := drainArgs s.hart k rm ks sat z f xr xo) plain rfl own clean quiet pass fits mode wf some group scaled float into free
  case channel =>
    intro wf float into key c q from' one row rows fl
    refine ⟨fun other => mdrainx_foreign plain rfl own fits mode wf float into other, fun held mine more full => mdrainx_sleeps plain rfl own fits mode wf float into ⟨held, mine⟩ more full, ?_⟩
    intro held mine room below free filled
    obtain ⟨t, runs, done, only, after⟩ := mdrainx_delivers (a := drainArgs s.hart k rm ks false z f xr xo) plain rfl own fits mode wf float into ⟨held, mine⟩ clean quiet pass below room free
    have same : (List.range (n - from')).map (fun j => drainedRow (drainArgs s.hart k rm ks false z f xr xo) code old (row0 + from' + j)) = rows :=
      List.map_congr_left fun j _ => congrArg (fun tag => ({ fmt := tag, data := pack w 256 (fun e => (one (row0 + from' + j) e).1), poison := 0 } : Row)) tag
    have put : putRows key chan.toNat ((List.range (n - from')).map (fun j => drainedRow (drainArgs s.hart k rm ks false z f xr xo) code old (row0 + from' + j))) s = filled := by
      rw [same]
      rfl
    refine ⟨t, runs, ?_, only, after⟩
    rw [← put]
    exact done

end Sys2Proof.Machine

namespace Sys2Proof.Machine
/-! Request packets at their target: O52. -/

open Sys2Proof.Claim

/-! ## The elements of a request packet (R356, R358) -/

/-- The operations of request packets. -/
def IsRequest (op : Nat) : Prop := op < 8 ∨ op = 12

theorem arrives_request {op : Nat} {p : Packet} {i : Instr} (h : Arrives op p i) : IsRequest op := by
  unfold Arrives at h
  split at h
  case h_9 => exact .inr h.1
  all_goals exact .inl (by omega)

theorem arrives_runs {op : Nat} {p : Packet} {i : Instr} (h : Arrives op p i) (s : State) : exec i s = .next (serveRequest op p s) := by
  unfold Arrives at h
  split at h
  case h_9 =>
    obtain ⟨rfl, rfl⟩ := h
    rfl
  all_goals
    subst h
    rfl

theorem countsBytes_iff {op : Nat} : countsBytes op = true ↔ op = 0 ∨ op = 1 ∨ op = 7 := by
  simp only [countsBytes, Bool.or_eq_true, beq_iff_eq, or_assoc]

/-- The bits of an element as the target memory unit takes them. -/
theorem elemBits_eq (op : Nat) (p : Packet) : elemBits op p = if op = 12 then 8 else eszBits p.esz := rfl

theorem elemBits_of_counted {op : Nat} {p : Packet} (other : op ≠ 12) : elemBits op p = eszBits p.esz := if_neg other

theorem packetElems_eq (p : Packet) (op : Nat) : packetElems p op = elemCount op p := by
  unfold packetElems elemCount
  by_cases counts : op = 0 ∨ op = 1 ∨ op = 7
  · rw [if_pos (countsBytes_iff.2 counts), if_pos counts, elemBits_of_counted (by omega)]
    rfl
  · rw [if_neg (mt countsBytes_iff.1 counts), if_neg counts]

theorem packetAlign_eq (p : Packet) (op : Nat) : packetAlign p op = (elemBits op p + 7) / 8 := by
  unfold packetAlign elemBits
  split
  · rfl
  · rfl

theorem packetWidth_eq (p : Packet) (op e : Nat) : packetWidth p op e = elemBytes op p e := by
  unfold packetWidth elemBytes
  rw [packetAlign_eq]
  refine if_congr ?_ rfl rfl
  rw [Bool.and_eq_true, countsBytes_iff, bne_iff_ne]

/-! ## What an element's checks depend on (R364, R368) -/

/-- Two states in which the target memory unit judges the elements of a partition's packets alike. -/
structure SameTarget (q : BitVec 3) (s t : State) : Prop where
  parts : t.parts = s.parts
  tag : ∀ x, partOfTag t x = partOfTag s x
  window : ∀ w, ∃ d, windowOf t q w = { windowOf s q w with delivered := d }
  translate : ∀ asid k va, Machine.translate t { part := q, ptbase := (s.partn q).bptbase, asid := asid, prv := 1 } none k va
    = Machine.translate s { part := q, ptbase := (s.partn q).bptbase, asid := asid, prv := 1 } none k va
  poison : ∀ pa n, poisonedAt t pa n = poisonedAt s pa n

theorem targetCheck_same {q : BitVec 3} {s t : State} (same : SameTarget q s t) {p : Packet} (tagged : partOfTag s p.dtag = some q) (op e : Nat) :
    targetCheck t op p e = targetCheck s op p e := by
  obtain ⟨parts, tag, window, translate', poison⟩ := same
  obtain ⟨d, at'⟩ := window (packetPlace p op e).1
  have part : t.partn q = s.partn q := partn_congr parts q
  have space : windowSpace t q { windowOf s q (packetPlace p op e).1 with delivered := d } = windowSpace s q (windowOf s q (packetPlace p op e).1) := by
    unfold windowSpace
    rw [part]
  have alike (k : AccessKind) (va : Word) : Machine.translate t (windowSpace s q (windowOf s q (packetPlace p op e).1)) none k va
      = Machine.translate s (windowSpace s q (windowOf s q (packetPlace p op e).1)) none k va := translate' _ k va
  unfold targetCheck
  rw [tag, tagged]
  dsimp only
  rw [at', part, space]
  simp only [alike, poison]
  rfl

open Sys2Proof.Claim

/-! ## Data gathered into slots (R358) -/

/-- The image of the elements `f 0 … f (n - 1)`, each in its slot of `ew` bits. -/
def gathered (ew : Nat) (f : Nat → Nat) (n : Nat) : Nat := (List.range n).foldl (fun d e => d ||| (f e <<< (ew * e))) 0

theorem gathered_succ (ew : Nat) (f : Nat → Nat) (n : Nat) : gathered ew f (n + 1) = gathered ew f n ||| (f n <<< (ew * n)) := by
  rw [gathered, List.range_succ, List.foldl_append]
  rfl

theorem gathered_sum {ew n : Nat} {f : Nat → Nat} (below : gathered ew f n < 2 ^ (ew * n)) : gathered ew f (n + 1) = gathered ew f n + f n * 2 ^ (ew * n) := by
  rw [gathered_succ, Nat.or_comm, ← Nat.shiftLeft_add_eq_or_of_lt below, Nat.shiftLeft_eq, Nat.add_comm]

theorem gathered_lt {ew n : Nat} {f : Nat → Nat} (small : ∀ e < n, f e < 2 ^ ew) : gathered ew f n < 2 ^ (ew * n) := by
  induction n with
  | zero => exact Nat.two_pow_pos _
  | succ n ih =>
    have below := ih fun e low => small e (Nat.lt_succ_of_lt low)
    have last : f n + 1 ≤ 2 ^ ew := small n (Nat.lt_succ_self n)
    rw [gathered_sum below, Nat.mul_succ, Nat.pow_add]
    calc gathered ew f n + f n * 2 ^ (ew * n) < 2 ^ (ew * n) + f n * 2 ^ (ew * n) := Nat.add_lt_add_right below _
      _ = (f n + 1) * 2 ^ (ew * n) := by ring
      _ ≤ 2 ^ ew * 2 ^ (ew * n) := Nat.mul_le_mul_right _ last
      _ = 2 ^ (ew * n) * 2 ^ ew := Nat.mul_comm _ _

theorem slot_gathered {ew n e : Nat} {f : Nat → Nat} (small : ∀ e < n, f e < 2 ^ ew) (low : e < n) : slot ew e (gathered ew f n) = f e := by
  induction n with
  | zero => exact absurd low (Nat.not_lt_zero e)
  | succ n ih =>
    have before : ∀ e < n, f e < 2 ^ ew := fun e low => small e (Nat.lt_succ_of_lt low)
    have below := gathered_lt before
    rw [gathered_sum below]
    rcases Nat.lt_succ_iff_lt_or_eq.1 low with inner | rfl
    · rw [slot_add_high inner, ih before inner]
    · have top := slot_add_low (i := 0) (b := f e) below
      rw [Nat.add_zero] at top
      rw [top, slot_eq, Nat.mul_zero, Nat.pow_zero, Nat.div_one, Nat.mod_eq_of_lt (small e low)]

/-- The low bits of a part that lies below a cut do not see the cut. -/
theorem lowBits_below {w a c : Nat} (x : Nat) (inside : a + w ≤ c) : lowBits w (x % 2 ^ c / 2 ^ a) = lowBits w (x / 2 ^ a) := by
  refine Nat.eq_of_testBit_eq fun i => ?_
  rw [lowBits, lowBits, Nat.testBit_mod_two_pow, Nat.testBit_mod_two_pow, Nat.testBit_div_two_pow, Nat.testBit_div_two_pow, Nat.testBit_mod_two_pow]
  by_cases low : i < w
  · rw [decide_eq_true (show i + a < c by omega), Bool.true_and]
  · rw [decide_eq_false low, Bool.false_and, Bool.false_and]

theorem lowBits_lowBits {w c : Nat} (x : Nat) (narrow : w ≤ c) : lowBits w (x % 2 ^ c) = lowBits w x := by
  have cut := lowBits_below (a := 0) x (by omega : 0 + w ≤ c)
  rwa [Nat.pow_zero, Nat.div_one, Nat.div_one] at cut

/-- A part of the gathered data, read back from its bytes. -/
theorem lowBits_bytes_gathered {ew n e w bytes : Nat} {f : Nat → Nat} (small : ∀ e < n, f e < 2 ^ ew) (low : e < n) (narrow : w ≤ ew) (inside : ew * e + w ≤ 8 * bytes) :
    lowBits w (ofBytes (bytesOf bytes (gathered ew f n)) / 2 ^ (ew * e)) = lowBits w (f e) := by
  rw [ofBytes_bytesOf, ← two_pow_bytes, lowBits_below _ inside, ← slot_gathered small low, slot_eq, lowBits_lowBits _ narrow]

/-- Byte `i` of a list as its slot of eight bits. -/
theorem slot_ofBytes (l : List Byte) (i : Nat) : slot 8 i (ofBytes l) = (l.getD i 0).toNat := by
  rw [slot_eq, Nat.pow_mul, List.getD_eq_getElem?_getD]
  by_cases inside : i < l.length
  · have byte := getElem?_bytesOf l.length (ofBytes l) i
    rw [bytesOf_ofBytes, if_pos inside] at byte
    rw [byte]
    rfl
  · rw [List.getElem?_eq_none (Nat.le_of_not_lt inside), Nat.div_eq_of_lt (Nat.lt_of_lt_of_le (ofBytes_lt l) (Nat.pow_le_pow_right (by decide) (Nat.le_of_not_lt inside)))]
    rfl

/-- The byte of a number at `i`, bit by bit. -/
theorem getLsbD_ofNat_byte (v i j : Nat) (low : j < 8) : (BitVec.ofNat 8 (v / 256 ^ i)).getLsbD j = v.testBit (8 * i + j) := by
  rw [BitVec.getLsbD_ofNat, decide_eq_true low, Bool.true_and, ← two_pow_bytes, Nat.testBit_div_two_pow, Nat.add_comm]

open Sys2Proof.Claim

/-! ## The places and widths of a packet's elements (R356, R358) -/

section
variable {op : Nat} {p : Packet}

theorem elemBits_nibble (other : op ≠ 12) (nibble : p.esz = 4) : elemBits op p = 4 := by rw [elemBits_of_counted other, eszBits, if_pos nibble]

/-- Elements of other sizes are whole bytes. -/
theorem elemBits_whole (whole : p.esz ≠ 4 ∨ op = 12) : ∃ w, 0 < w ∧ elemBits op p = 8 * w := by
  unfold elemBits
  split
  · exact ⟨1, Nat.one_pos, rfl⟩
  · next other =>
    rw [if_neg (whole.resolve_right other)]
    exact ⟨_, Nat.two_pow_pos _, rfl⟩

theorem elemBytes_nibble (other : op ≠ 12) (nibble : p.esz = 4) (e : Nat) : elemBytes op p e = 1 := by
  unfold elemBytes
  rw [elemBits_nibble other nibble, if_neg (fun both => both.2 nibble)]

theorem elemBytes_whole {w : Nat} (bits : elemBits op p = 8 * w) (whole : p.esz ≠ 4 ∨ op = 12) (e : Nat) :
    elemBytes op p e = if op = 0 ∨ op = 1 ∨ op = 7 then min w (p.cnt - e * w) else w := by
  unfold elemBytes
  rw [bits, show (8 * w + 7) / 8 = w by omega]
  refine if_congr ⟨And.left, fun counts => ⟨counts, whole.resolve_right ?_⟩⟩ rfl rfl
  omega

theorem elemWide_nibble (other : op ≠ 12) (nibble : p.esz = 4) (e : Nat) : elemWide op p e = 4 := if_pos ⟨nibble, other⟩

theorem elemWide_whole (whole : p.esz ≠ 4 ∨ op = 12) (e : Nat) : elemWide op p e = 8 * elemBytes op p e :=
  if_neg fun both => whole.elim (fun other => other both.1) both.2

/-- Either an element is half of a byte or all elements are whole bytes. -/
theorem nibble_or_whole (op : Nat) (p : Packet) : (p.esz = 4 ∧ op ≠ 12) ∨ (p.esz ≠ 4 ∨ op = 12) := by
  by_cases nibble : p.esz = 4
  · by_cases masked : op = 12
    · exact .inr (.inr masked)
    · exact .inl ⟨nibble, masked⟩
  · exact .inr (.inl nibble)

theorem elemBytes_le {w : Nat} (bits : elemBits op p = 8 * w) (whole : p.esz ≠ 4 ∨ op = 12) (e : Nat) : elemBytes op p e ≤ w := by
  rw [elemBytes_whole bits whole]
  split
  · exact Nat.min_le_left _ _
  · exact Nat.le_refl w

theorem elemWide_le (e : Nat) : elemWide op p e ≤ elemBits op p := by
  rcases nibble_or_whole op p with ⟨nibble, other⟩ | whole
  · rw [elemWide_nibble other nibble, elemBits_nibble other nibble]
  · obtain ⟨w, -, bits⟩ := elemBits_whole whole
    rw [elemWide_whole whole, bits]
    exact Nat.mul_le_mul_left 8 (elemBytes_le bits whole e)

/-- An element of a count of bytes begins below the count. -/
theorem counted_low {w e : Nat} (bits : elemBits op p = 8 * w) (positive : 0 < w) (counts : op = 0 ∨ op = 1 ∨ op = 7) (low : e < elemCount op p) : e * w < p.cnt := by
  rw [elemCount, if_pos counts, bits, Nat.lt_iff_add_one_le, Nat.le_div_iff_mul_le (by omega), Nat.add_mul] at low
  have rearranged : e * (8 * w) = 8 * (e * w) := by ring
  omega

theorem elemCount_nibble (nibble : p.esz = 4) (counts : op = 0 ∨ op = 1 ∨ op = 7) : elemCount op p = 2 * p.cnt := by
  rw [elemCount, if_pos counts, elemBits_nibble (by omega) nibble]
  omega

theorem elemBytes_pos {e : Nat} (low : e < elemCount op p) : 0 < elemBytes op p e := by
  rcases nibble_or_whole op p with ⟨nibble, other⟩ | whole
  · rw [elemBytes_nibble other nibble]
    exact Nat.one_pos
  · obtain ⟨w, positive, bits⟩ := elemBits_whole whole
    rw [elemBytes_whole bits whole]
    split
    · next counts =>
      have begins := counted_low bits positive counts low
      omega
    · exact positive

/-- The bytes of data that a response carries (R364). -/
def responseBytes (op : Nat) (p : Packet) : Nat :=
  if op = 0 then p.cnt else if op = 2 ∨ op = 3 ∨ op = 6 then (p.cnt * eszBits p.esz + 7) / 8 else 0

/-- An element that is read lies inside the response's data. -/
theorem element_inside {e : Nat} (reads : op = 0 ∨ op = 2 ∨ op = 3 ∨ op = 6) (low : e < elemCount op p) : elemBits op p * e + elemWide op p e ≤ 8 * responseBytes op p := by
  by_cases run : op = 0
  · have bytes : responseBytes op p = p.cnt := if_pos run
    rw [bytes]
    rcases nibble_or_whole op p with ⟨nibble, other⟩ | whole
    · rw [elemCount_nibble nibble (.inl run)] at low
      rw [elemWide_nibble other nibble, elemBits_nibble other nibble]
      omega
    · obtain ⟨w, positive, bits⟩ := elemBits_whole whole
      have begins := counted_low bits positive (.inl run) low
      rw [elemWide_whole whole, elemBytes_whole bits whole, if_pos (.inl run), bits, show 8 * w * e = 8 * (e * w) by ring]
      omega
  · have bytes : responseBytes op p = (p.cnt * eszBits p.esz + 7) / 8 := (if_neg run).trans (if_pos (by omega))
    rw [elemCount, if_neg (by omega)] at low
    have size : elemBits op p = eszBits p.esz := elemBits_of_counted (by omega)
    calc elemBits op p * e + elemWide op p e ≤ elemBits op p * e + elemBits op p := Nat.add_le_add_left (elemWide_le e) _
      _ = elemBits op p * (e + 1) := (Nat.mul_succ _ _).symm
      _ ≤ elemBits op p * p.cnt := Nat.mul_le_mul_left _ low
      _ ≤ 8 * responseBytes op p := by rw [bytes, size, Nat.mul_comm]; omega

/-- Only an element of four bits stands in the high half of its byte. -/
theorem high_nibble {e : Nat} (high : (packetPlace p op e).2.2 = true) : p.esz = 4 := by
  by_contra other
  have size : eszBits p.esz = 8 * 2 ^ p.esz.toNat := if_neg other
  have wide : (eszBits p.esz == 4) = false := beq_false_of_ne (by omega)
  have whole : e * eszBits p.esz % 8 = 0 := by rw [size, Nat.mul_left_comm, Nat.mul_mod_right]
  unfold packetPlace at high
  split at high
  all_goals simp only [wide, whole, Bool.false_and, bne_self_eq_false, Bool.false_eq_true] at high
  split at high <;> exact nomatch high

end

open Sys2Proof.Claim

/-! ## What serving an element leaves as it was (R364, R369) -/

theorem checkFails_zero (data : Nat) : checkFails data 0 = false := rfl

/-- Where no check value differs, poison is marks and down links alone. -/
theorem poisonedAt_marked {s t : State} (sound : NoUpset s) (sound' : NoUpset t) (marks : t.poison = s.poison) (links : t.links = s.links) (pa n : Nat) :
    poisonedAt t pa n = poisonedAt s pa n := by
  have down (k : Nat) : linkDown t k = linkDown s k := by unfold linkDown; rw [links]
  have none (k : Nat) : homeFails t k = homeFails s k := by
    rw [homeFails, homeFails, show t.upsets = [] from sound', show s.upsets = [] from sound]
    exact (checkFails_zero _).trans (checkFails_zero _).symm
  simp only [poisonedAt, marks, down, none]

theorem partOfTag_congr {s t : State} (tags : t.fabric.dtag = s.fabric.dtag) (x : BitVec 16) : partOfTag t x = partOfTag s x := by
  have each (q : BitVec 3) : t.fabric.tagOf q = s.fabric.tagOf q := by
    show t.fabric.dtag[q.toNat] = s.fabric.dtag[q.toNat]
    rw [tags]
  unfold partOfTag
  simp only [each]

/-- The state `u` after elements of a packet that store bytes `inside` only. -/
structure ServedSoFar (s : State) (q : BitVec 3) (inside : Nat → Prop) (u : State) : Prop where
  write : SameButWrite u { s with fabric := u.fabric }
  fabric : u.fabric = { s.fabric with windows := u.fabric.windows }
  window : ∀ w, ∃ d, windowOf u q w = { windowOf s q w with delivered := d }
  outside : ∀ b, ¬ inside b → memGet u.mem b = memGet s.mem b
  sound : Sound u

theorem ServedSoFar.refl {s : State} (q : BitVec 3) (inside : Nat → Prop) (sound : Sound s) : ServedSoFar s q inside s :=
  ⟨rfl, rfl, fun _ => ⟨_, rfl⟩, fun _ _ => rfl, sound⟩

/-- The windows once `n` bytes from `off` have been delivered to one. -/
def receivedWindows (s : State) (q : BitVec 3) (x : BitVec 8) (off n : Nat) : Table Window :=
  tset s.fabric.windows (q.toNat * 256 + x.toNat) { windowOf s q x with delivered := (windowOf s q x).delivered ||| ((2 ^ n - 1) <<< off) }

theorem deliver_open {s : State} {q : BitVec 3} {x : BitVec 8} (receives : (windowOf s q x).ctl.getLsbD 4 = true) (off n : Nat) :
    deliver s q x off n = { s with fabric := { s.fabric with windows := receivedWindows s q x off n } } := if_pos receives

theorem deliver_closed {s : State} {q : BitVec 3} {x : BitVec 8} (sends : (windowOf s q x).ctl.getLsbD 4 = false) (off n : Nat) : deliver s q x off n = s :=
  if_neg (by rw [sends]; exact Bool.false_ne_true)

/-- Delivering bytes grows the delivered set of a receive window and leaves the other windows. -/
theorem windowOf_deliver (s : State) (q : BitVec 3) (x : BitVec 8) (off n : Nat) (y : BitVec 8) : windowOf (deliver s q x off n) q y =
    if y = x ∧ (windowOf s q x).ctl.getLsbD 4 = true then { windowOf s q y with delivered := (windowOf s q y).delivered ||| ((2 ^ n - 1) <<< off) } else windowOf s q y := by
  cases receives : (windowOf s q x).ctl.getLsbD 4 with
  | false => rw [deliver_closed receives, if_neg (fun both => Bool.false_ne_true both.2)]
  | true =>
    rw [deliver_open receives]
    by_cases here : y = x
    · subst here
      rw [if_pos ⟨rfl, rfl⟩]
      exact tget_tset_self _ _ _ _
    · rw [if_neg (fun both => here both.1)]
      exact tget_tset_ne _ _ (by have apart := mt BitVec.eq_of_toNat_eq here; omega) _

section
variable {s u : State} {q : BitVec 3} {inside : Nat → Prop} (served : ServedSoFar s q inside u)
include served

theorem ServedSoFar.noUpset (quiet : NoUpset s) : NoUpset u := ((congrArg State.upsets served.write).trans rfl : u.upsets = s.upsets).trans quiet

theorem ServedSoFar.links : u.links = s.links := (congrArg State.links served.write).trans rfl

theorem ServedSoFar.linkUp {pa n : Nat} (up : LinkUp s pa n) : LinkUp u pa n := by
  have down (k : Nat) : linkDown u k = linkDown s k := by unfold linkDown; rw [served.links]
  exact ⟨(down pa).trans up.1, fun k within => (down k).trans (up.2 k within)⟩

theorem ServedSoFar.unheld {pa n : Nat} (free : Unheld s pa n) : Unheld u pa n := by
  have snaps : u.snaps = s.snaps := (congrArg State.snaps served.write).trans rfl
  intro page within
  rw [pageHeld, snaps]
  exact free page within

theorem ServedSoFar.sameTarget (quiet : NoUpset s) (undisturbed : Undisturbed s q inside) : SameTarget q s u where
  parts := (congrArg State.parts served.write).trans rfl
  tag := partOfTag_congr ((congrArg Fabric.dtag served.fabric).trans rfl)
  window := served.window
  translate := undisturbed u served.write served.outside
  poison := poisonedAt_marked quiet (served.noUpset quiet) ((congrArg State.poison served.write).trans rfl) served.links

/-- Bytes inside are written. -/
theorem ServedSoFar.written {v : State} {pa : Nat} {bs : List Byte} (w : WrittenAt u v pa bs) (within : ∀ b, pa ≤ b → b < pa + bs.length → inside b) :
    ServedSoFar s q inside v := by
  have fabric : v.fabric = u.fabric := (congrArg State.fabric w.sameButWrite).trans rfl
  have same : SameButWrite v { s with fabric := v.fabric } := by
    have before := served.write
    have after := w.sameButWrite
    unfold SameButWrite at before after ⊢
    rw [fabric]
    exact after.trans (congrArg (fun x : State => { x with l2 := v.l2, dram := v.dram, life := v.life, mem := v.mem, held := v.held }) before)
  have window (x : BitVec 8) : windowOf v q x = windowOf u q x := by unfold windowOf; rw [fabric]
  refine ⟨same, by rw [fabric]; exact served.fabric, fun x => by rw [window x]; exact served.window x, fun b out => ?_, ?_⟩
  · rw [w.get served.sound, if_neg (fun range => out (within b range.1 range.2)), served.outside b out]
  · rw [Sound, w.mem]
    exact Memory.wf_memPutAll served.sound pa bs

/-- A window's delivered set grows. -/
theorem ServedSoFar.delivered (x : BitVec 8) (off n : Nat) : ServedSoFar s q inside (deliver u q x off n) := by
  cases receives : (windowOf u q x).ctl.getLsbD 4 with
  | false =>
    rw [deliver_closed receives]
    exact served
  | true =>
    have at' := windowOf_deliver u q x off n
    rw [deliver_open receives] at at' ⊢
    refine ⟨?_, ?_, fun y => ?_, served.outside, served.sound⟩
    · exact congrArg (fun v : State => { v with fabric := { u.fabric with windows := receivedWindows u q x off n } }) served.write
    · exact congrArg (fun f : Fabric => { f with windows := receivedWindows u q x off n }) served.fabric
    · obtain ⟨d, before⟩ := served.window y
      rw [at' y]
      split
      · exact ⟨_, by rw [before]⟩
      · exact ⟨d, before⟩

end

open Sys2Proof.Claim

/-! ## Memory after a packet's elements have stored (R358) -/

/-- Memory after the elements below `k`: element `e` puts bytes at `pa e` that depend on what stood there. -/
def putAll (pa : Nat → Nat) (width : Nat → Nat) (new : Nat → Nat → List Byte) (m : List Host.Cell) (k : Nat) : List Host.Cell :=
  (List.range k).foldl (fun m e => memPutAll m (pa e) (new e (memRead m (pa e) (width e)))) m

section
variable {pa width : Nat → Nat} {new : Nat → Nat → List Byte} {m : List Host.Cell}

theorem putAll_succ (k : Nat) :
    putAll pa width new m (k + 1) = memPutAll (putAll pa width new m k) (pa k) (new k (memRead (putAll pa width new m k) (pa k) (width k))) := by
  rw [putAll, List.range_succ, List.foldl_append]
  rfl

theorem putAll_wf (sound : Memory.wf m = true) (k : Nat) : Memory.wf (putAll pa width new m k) = true := by
  induction k with
  | zero => exact sound
  | succ k ih =>
    rw [putAll_succ]
    exact Memory.wf_memPutAll ih _ _

theorem memGet_putAll_succ (sound : Memory.wf m = true) {k : Nat} (size : ∀ old, (new k old).length = width k) (b : Nat) :
    memGet (putAll pa width new m (k + 1)) b = if pa k ≤ b ∧ b < pa k + width k
      then ((new k (memRead (putAll pa width new m k) (pa k) (width k)))[b - pa k]?).getD 0 else memGet (putAll pa width new m k) b := by
  rw [putAll_succ, memGet_memPutAll (putAll_wf sound k), size]

/-- What no element covers is as it was. -/
theorem memGet_putAll_outside (sound : Memory.wf m = true) {k : Nat} (size : ∀ e < k, ∀ old, (new e old).length = width e) {b : Nat}
    (out : ∀ e < k, ¬ (pa e ≤ b ∧ b < pa e + width e)) : memGet (putAll pa width new m k) b = memGet m b := by
  induction k with
  | zero => rfl
  | succ k ih =>
    rw [memGet_putAll_succ sound (size k (Nat.lt_succ_self k)), if_neg (out k (Nat.lt_succ_self k))]
    exact ih (fun e low => size e (Nat.lt_succ_of_lt low)) fun e low => out e (Nat.lt_succ_of_lt low)

/-- An element apart from those before it finds what stood there at first. -/
theorem memRead_putAll (sound : Memory.wf m = true) {k a n : Nat} (size : ∀ e < k, ∀ old, (new e old).length = width e)
    (apart : ∀ e < k, pa e + width e ≤ a ∨ a + n ≤ pa e) : memRead (putAll pa width new m k) a n = memRead m a n :=
  memRead_congr fun b low high => memGet_putAll_outside sound size fun e before inside => by
    have clear := apart e before
    omega

/-- Elements apart from each other each put what they make of what stood there. -/
theorem memGet_putAll (sound : Memory.wf m = true) {k : Nat} (size : ∀ e < k, ∀ old, (new e old).length = width e)
    (apart : ∀ e e', e < k → e' < k → e ≠ e' → pa e + width e ≤ pa e' ∨ pa e' + width e' ≤ pa e) {e b : Nat} (low : e < k) (inside : pa e ≤ b ∧ b < pa e + width e) :
    memGet (putAll pa width new m k) b = ((new e (memRead m (pa e) (width e)))[b - pa e]?).getD 0 := by
  induction k with
  | zero => exact absurd low (Nat.not_lt_zero e)
  | succ k ih =>
    rw [memGet_putAll_succ sound (size k (Nat.lt_succ_self k))]
    rcases Nat.lt_succ_iff_lt_or_eq.1 low with before | rfl
    · have clear := apart e k low (Nat.lt_succ_self k) (Nat.ne_of_lt before)
      rw [if_neg (by omega)]
      exact ih (fun e low => size e (Nat.lt_succ_of_lt low)) (fun e e' h h' => apart e e' (Nat.lt_succ_of_lt h) (Nat.lt_succ_of_lt h')) before
    · rw [if_pos inside, memRead_putAll sound (fun e' before => size e' (Nat.lt_succ_of_lt before)) fun e' before =>
        apart e' e (Nat.lt_succ_of_lt before) low (Nat.ne_of_lt before)]

end

/-! ## One element of a packet (R358, R364) -/

/-- The operations that store. -/
def Stores (op : Nat) : Prop := op = 1 ∨ op = 4 ∨ op = 5 ∨ op = 6 ∨ op = 7 ∨ op = 12

/-- The data or operands of a packet. -/
def operands (op : Nat) (p : Packet) : Nat := ofBytes (p.body.drop (packetDataAt p op))

/-- What an atomic stores in place of `old`. -/
def atomicValue (p : Packet) (e old : Nat) : Nat :=
  let ew := eszBits p.esz
  let code := bitsAt 0 4 (bodyWord p.body 0)
  amoValue code ew old (slot ew (if code = 9 then 1 else e) (operands 6 p)) (slot ew 0 (operands 6 p))

/-- The bytes an element stores where `old` stood. -/
def newBytes (op : Nat) (p : Packet) (e old : Nat) : List Byte :=
  let ew := eszBits p.esz
  match op with
  | 6 => bytesOf (packetWidth p op e) (atomicValue p e old)
  | 12 => bytesOf 1 ((old &&& (255 - slot 8 (2 * e + 1) (operands op p))) ||| (slot 8 (2 * e) (operands op p) &&& slot 8 (2 * e + 1) (operands op p)))
  | _ => if ew = 4 then bytesOf 1 (if (packetPlace p op e).2.2 then old % 16 + 16 * slot ew e (operands op p) else old / 16 * 16 + slot ew e (operands op p))
    else bytesOf (packetWidth p op e) (slot ew e (operands op p))

/-- The state once element `e` has stored at `m`. -/
def storeElem (op : Nat) (p : Packet) (u : State) (e : Nat) (q : BitVec 3) (wn : BitVec 8) (m : Mapped) : State :=
  let v := agentWrite u q m (newBytes op p e (homeRead u m.pa (packetWidth p op e))) true
  if op = 7 ∨ op = 12 then deliver v q wn (packetPlace p op e).2.1 (packetWidth p op e) else v

section
variable {op : Nat} {p : Packet} {u : State} {e : Nat} {q : BitVec 3} {wn : BitVec 8} {m : Mapped}

theorem serveElem_error {why : Nat} (bad : targetCheck u op p e = .error why) (r : Served) : serveElem op p (u, r) e =
    (u, { r with failed := r.failed ||| 2 ^ e, first := r.first.or (some (why, e)) }) := by
  unfold serveElem
  dsimp only
  rw [bad]
  obtain ⟨_, _, _, _ | _⟩ := r <;> rfl

theorem serveElem_store (stores : Stores op) (ok : targetCheck u op p e = .ok (q, wn, m)) (r : Served) : serveElem op p (u, r) e =
    (storeElem op p u e q wn m, if op = 6 then { r with data := r.data ||| (homeRead u m.pa (packetWidth p op e) <<< (eszBits p.esz * e)) } else r) := by
  unfold serveElem
  dsimp only
  rw [ok]
  rcases stores with rfl | rfl | rfl | rfl | rfl | rfl
  case inr.inr.inr.inl =>
    unfold storeElem newBytes atomicValue
    dsimp only
    rw [apply_ite (fun i => slot (eszBits p.esz) i (operands 6 p))]
    rfl
  all_goals rfl

theorem serveElem_read (reads : op = 0 ∨ op = 2 ∨ op = 3) (ok : targetCheck u op p e = .ok (q, wn, m)) (r : Served) : serveElem op p (u, r) e =
    (agentTouch u q m (packetWidth p op e) true,
      { r with
          data := r.data ||| ((if (packetPlace p op e).2.2 then homeRead u m.pa (packetWidth p op e) / 16 else homeRead u m.pa (packetWidth p op e) % 2 ^ eszBits p.esz)
            <<< (eszBits p.esz * e))
          poisoned := if poisonedAt u m.pa (packetWidth p op e) then r.poisoned ||| 2 ^ e else r.poisoned }) := by
  unfold serveElem
  dsimp only
  rw [ok]
  rcases reads with rfl | rfl | rfl <;> rfl

end

open Sys2Proof.Claim

/-! ## The elements of a packet that store, one after another (R364) -/

/-- Nothing served yet. -/
def unserved : Served := { failed := 0, poisoned := 0, data := 0, first := none }

/-- The packet's elements below `k`, from a state. -/
def servedElems (op : Nat) (p : Packet) (s : State) (k : Nat) : State × Served := (List.range k).foldl (serveElem op p) (s, unserved)

theorem servedElems_succ (op : Nat) (p : Packet) (s : State) (k : Nat) : servedElems op p s (k + 1) = serveElem op p (servedElems op p s k) k := by
  rw [servedElems, List.range_succ, List.foldl_append]
  rfl

/-- An element that passes its checks is translated, for the partition of the packet's tag. -/
theorem targetCheck_ok {s : State} {op : Nat} {p : Packet} {e : Nat} {q : BitVec 3} {wn : BitVec 8} {m : Mapped} (ok : targetCheck s op p e = .ok (q, wn, m)) :
    partOfTag s p.dtag = some q ∧ wn = (packetPlace p op e).1 ∧ m.WalkReached s := by
  unfold targetCheck at ok
  split at ok
  · exact nomatch ok
  · next q' tagged =>
    dsimp only at ok
    split_ifs at ok
    split at ok
    · exact nomatch ok
    · next m' translated =>
      split_ifs at ok
      cases ok
      exact ⟨tagged, rfl, translate_reached translated⟩

theorem homeRead_up {s : State} {pa : Nat} (up : linkDown s pa = false) (n : Nat) : homeRead s pa n = memRead s.mem pa n := if_neg (by rw [up]; exact Bool.false_ne_true)

/-- What writes and SENDs store: a half of the byte for an element of four bits, else the element's bytes. -/
theorem newBytes_plain {op : Nat} (stores : Stores op) (plain : op ≠ 6) (unmasked : op ≠ 12) (p : Packet) (e old : Nat) :
    newBytes op p e old = if eszBits p.esz = 4
      then bytesOf 1 (if (packetPlace p op e).2.2 then old % 16 + 16 * slot (eszBits p.esz) e (operands op p) else old / 16 * 16 + slot (eszBits p.esz) e (operands op p))
      else bytesOf (elemBytes op p e) (slot (eszBits p.esz) e (operands op p)) := by
  rw [← packetWidth_eq]
  rcases stores with rfl | rfl | rfl | rfl | rfl | rfl
  · rfl
  · rfl
  · rfl
  · exact absurd rfl plain
  · rfl
  · exact absurd rfl unmasked

theorem length_newBytes {op : Nat} {p : Packet} (stores : Stores op) {e : Nat} (old : Nat) : (newBytes op p e old).length = elemBytes op p e := by
  by_cases amo : op = 6
  · rw [← packetWidth_eq, amo]
    exact length_bytesOf _ _
  · by_cases masked : op = 12
    · rw [elemBytes_whole (w := 1) (if_pos masked) (.inr masked), if_neg (by omega), masked]
      exact length_bytesOf _ _
    · rw [newBytes_plain stores amo masked]
      split
      · next half =>
        rw [elemBytes_nibble masked (by by_contra other; rw [eszBits, if_neg other] at half; omega)]
        exact length_bytesOf _ _
      · exact length_bytesOf _ _

section
variable {s : State} {op : Nat} {p : Packet} {q : BitVec 3} {pa : Nat → Nat} {inside : Nat → Prop}

/-- One element that stores, in the state that the elements before it have left. -/
theorem serveElem_stored (stores : Stores op) (accepts : Accepts s op p q pa) (quiet : NoUpset s) (undisturbed : Undisturbed s q inside) {u : State}
    (served : ServedSoFar s q inside u) {e : Nat} (low : e < elemCount op p) (r : Served) :
    ∃ v, WrittenAt u v (pa e) (newBytes op p e (memRead u.mem (pa e) (elemBytes op p e)))
      ∧ serveElem op p (u, r) e = (if op = 7 ∨ op = 12 then deliver v q (packetPlace p op e).1 (packetPlace p op e).2.1 (elemBytes op p e) else v,
        if op = 6 then { r with data := r.data ||| (memRead u.mem (pa e) (elemBytes op p e) <<< (eszBits p.esz * e)) } else r) := by
  obtain ⟨m, ok, at', up, free⟩ := accepts e low
  have tagged := (targetCheck_ok ok).1
  rw [← targetCheck_same (served.sameTarget quiet undisturbed) tagged] at ok
  have reached := (targetCheck_ok ok).2.2
  have found : homeRead u m.pa (packetWidth p op e) = memRead u.mem (pa e) (elemBytes op p e) := by
    rw [homeRead_up (served.linkUp up).1, packetWidth_eq, at']
  have size : (newBytes op p e (memRead u.mem (pa e) (elemBytes op p e))).length = elemBytes op p e := length_newBytes stores _
  refine ⟨_, ?_, (serveElem_store stores ok r).trans (by rw [storeElem, found, packetWidth_eq])⟩
  rw [← at'] at size ⊢
  exact agentWrite_written (served.noUpset quiet) reached q (by rw [size]; exact served.linkUp up) (by rw [size]; exact served.unheld free) true

/-- The delivered bytes of a receive window that stand at `y` once the elements below `k` are served. -/
def deliveredBelow (op : Nat) (p : Packet) (k y : Nat) : Prop := ∃ e < k, (packetPlace p op e).2.1 ≤ y ∧ y < (packetPlace p op e).2.1 + elemBytes op p e

/-- What element `e` finds where it stores. -/
def foundAt (s : State) (op : Nat) (p : Packet) (pa : Nat → Nat) (e : Nat) : Nat :=
  memRead (putAll pa (elemBytes op p) (newBytes op p) s.mem e) (pa e) (elemBytes op p e)

/-- What the elements below `k` have left: memory, delivered sets and the data for the response. -/
structure StoredBelow (s : State) (op : Nat) (p : Packet) (q : BitVec 3) (pa : Nat → Nat) (inside : Nat → Prop) (k : Nat) (u : State) : Prop where
  runs : servedElems op p s k = (u, { unserved with data := if op = 6 then gathered (eszBits p.esz) (foundAt s op p pa) k else 0 })
  served : ServedSoFar s q inside u
  mem : u.mem = putAll pa (elemBytes op p) (newBytes op p) s.mem k
  fabric : op ≠ 7 → op ≠ 12 → u.fabric = s.fabric
  delivered : op = 7 → ∀ y, (windowOf u q p.win).delivered.testBit y = true ↔
    (windowOf s q p.win).delivered.testBit y = true ∨ (windowOf s q p.win).ctl.getLsbD 4 = true ∧ deliveredBelow op p k y

theorem deliver_mem (u : State) (x : BitVec 8) (off n : Nat) : (deliver u q x off n).mem = u.mem := by
  cases receives : (windowOf u q x).ctl.getLsbD 4 with
  | false => rw [deliver_closed receives]
  | true => rw [deliver_open receives]

theorem testBit_deliver (u : State) (x : BitVec 8) (off n y : Nat) : (windowOf (deliver u q x off n) q x).delivered.testBit y = true ↔
    (windowOf u q x).delivered.testBit y = true ∨ (windowOf u q x).ctl.getLsbD 4 = true ∧ off ≤ y ∧ y < off + n := by
  rw [windowOf_deliver]
  split
  · next receives =>
    rw [Nat.testBit_or, Nat.testBit_shiftLeft, Nat.testBit_two_pow_sub_one, Bool.or_eq_true, Bool.and_eq_true, decide_eq_true_eq, decide_eq_true_eq, and_iff_right receives.2]
    refine or_congr_right ?_
    omega
  · next sends => exact ⟨.inl, fun held => held.resolve_right fun both => sends ⟨rfl, both.1⟩⟩

theorem storedBelow_succ (stores : Stores op) (accepts : Accepts s op p q pa) (quiet : NoUpset s) (undisturbed : Undisturbed s q inside)
    (within : ∀ e < elemCount op p, ∀ b, pa e ≤ b → b < pa e + elemBytes op p e → inside b) {k : Nat} (low : k < elemCount op p) {u : State}
    (h : StoredBelow s op p q pa inside k u) : ∃ v, StoredBelow s op p q pa inside (k + 1) v := by
  obtain ⟨runs, served, mem, fabric, delivered⟩ := h
  obtain ⟨v, written, elem⟩ := serveElem_stored stores accepts quiet undisturbed served low
    { unserved with data := if op = 6 then gathered (eszBits p.esz) (foundAt s op p pa) k else 0 }
  have after : v.mem = putAll pa (elemBytes op p) (newBytes op p) s.mem (k + 1) := by rw [written.mem, putAll_succ, ← mem]
  have same : v.fabric = u.fabric := (congrArg State.fabric written.sameButWrite).trans rfl
  have held : ServedSoFar s q inside v := served.written written (by rw [length_newBytes stores]; exact within k low)
  have answer : servedElems op p s (k + 1) = (if op = 7 ∨ op = 12 then deliver v q (packetPlace p op k).1 (packetPlace p op k).2.1 (elemBytes op p k) else v,
      { unserved with data := if op = 6 then gathered (eszBits p.esz) (foundAt s op p pa) (k + 1) else 0 }) := by
    rw [servedElems_succ, runs, elem, gathered_succ, foundAt, mem]
    refine congrArg (Prod.mk _) ?_
    by_cases amo : op = 6
    · rw [if_pos amo, if_pos amo, if_pos amo]
    · rw [if_neg amo, if_neg amo, if_neg amo]
  by_cases receives : op = 7 ∨ op = 12
  · rw [if_pos receives] at answer
    refine ⟨_, answer, held.delivered _ _ _, (deliver_mem v _ _ _).trans after, fun no no' => absurd receives (by tauto), fun send y => ?_⟩
    have win : (packetPlace p op k).1 = p.win := by rw [send]; rfl
    obtain ⟨d, window⟩ := held.window p.win
    have before : windowOf v q p.win = windowOf u q p.win := by unfold windowOf; rw [same]
    rw [win, testBit_deliver, before, delivered send y, ← before, window]
    dsimp only
    rw [or_assoc, ← and_or_left]
    refine or_congr_right (and_congr_right fun _ => ?_)
    exact ⟨fun any => any.elim (fun ⟨e, low, at'⟩ => ⟨e, Nat.lt_succ_of_lt low, at'⟩) fun at' => ⟨k, Nat.lt_succ_self k, at'⟩,
      fun ⟨e, low, at'⟩ => (Nat.lt_succ_iff_lt_or_eq.1 low).elim (fun low => .inl ⟨e, low, at'⟩) fun last => .inr (last ▸ at')⟩
  · rw [if_neg receives] at answer
    exact ⟨v, answer, held, after, fun no no' => same.trans (fabric no no'), fun send => absurd (.inl send) receives⟩

theorem storedBelow (stores : Stores op) (accepts : Accepts s op p q pa) (sound : Sound s) (quiet : NoUpset s) (undisturbed : Undisturbed s q inside)
    (within : ∀ e < elemCount op p, ∀ b, pa e ≤ b → b < pa e + elemBytes op p e → inside b) {k : Nat} (upTo : k ≤ elemCount op p) :
    ∃ u, StoredBelow s op p q pa inside k u := by
  induction k with
  | zero =>
    refine ⟨s, ?_, .refl q inside sound, rfl, fun _ _ => rfl, fun _ y => ⟨.inl, fun held => held.resolve_right fun ⟨_, e, low, _⟩ => Nat.not_lt_zero e low⟩⟩
    show (s, unserved) = _
    split <;> rfl
  | succ k ih =>
    obtain ⟨u, h⟩ := ih (Nat.le_of_succ_le upTo)
    exact storedBelow_succ stores accepts quiet undisturbed within upTo h

end

open Sys2Proof.Claim

/-! ## The elements of a packet that are read (R364) -/

theorem sameTarget_rows {s u : State} (q : BitVec 3) (rows : RowsMoved s u) : SameTarget q s u := by
  have same : SameTables u s := .of_rows rows.sameButRows
  have fabric : u.fabric = s.fabric := (congrArg State.fabric rows).trans rfl
  refine ⟨same.parts, partOfTag_congr (by rw [fabric]), fun w => ⟨(windowOf s q w).delivered, by unfold windowOf; rw [fabric]⟩, fun asid k va => ?_, poisonedAt_same same⟩
  unfold Machine.translate
  simp only [judge_same same, walk_same same]

section
variable {s : State} {op : Nat} {p : Packet} {q : BitVec 3} {pa : Nat → Nat}

/-- What element `e` of a read gives. -/
def readAt (s : State) (op : Nat) (p : Packet) (pa : Nat → Nat) (e : Nat) : Nat :=
  let old := memRead s.mem (pa e) (elemBytes op p e)
  if (packetPlace p op e).2.2 then old / 16 else old % 2 ^ eszBits p.esz

/-- What the elements below `k` have read. -/
structure ReadBelow (s : State) (op : Nat) (p : Packet) (pa : Nat → Nat) (k : Nat) (u : State) : Prop where
  rows : RowsMoved s u
  runs : ∃ marks, servedElems op p s k = (u, { unserved with data := gathered (eszBits p.esz) (readAt s op p pa) k, poisoned := marks })
    ∧ ∀ e, marks.testBit e = (decide (e < k) && poisonedAt s (pa e) (elemBytes op p e))

theorem readBelow (reads : op = 0 ∨ op = 2 ∨ op = 3) (accepts : Accepts s op p q pa) (quiet : NoUpset s) {k : Nat} (upTo : k ≤ elemCount op p) :
    ∃ u, ReadBelow s op p pa k u := by
  induction k with
  | zero => exact ⟨s, .refl s, 0, rfl, fun e => by rw [Nat.zero_testBit, decide_eq_false (Nat.not_lt_zero e), Bool.false_and]⟩
  | succ k ih =>
    obtain ⟨u, rows, marks, runs, marked⟩ := ih (Nat.le_of_succ_le upTo)
    obtain ⟨m, ok, at', up, -⟩ := accepts k upTo
    have tagged := (targetCheck_ok ok).1
    rw [← targetCheck_same (sameTarget_rows q rows) tagged] at ok
    have same : SameTables u s := .of_rows rows.sameButRows
    have touched := agentTouch_rows (rows.noUpset quiet) (targetCheck_ok ok).2.2 q (n := elemBytes op p k) (fun x within => (rows.linkDown x).trans (up.2 x (at' ▸ within))) true
    refine ⟨_, rows.trans touched, if poisonedAt s (pa k) (elemBytes op p k) then marks ||| 2 ^ k else marks, ?_, fun e => ?_⟩
    · rw [servedElems_succ, runs, serveElem_read reads ok, gathered_succ, packetWidth_eq, homeRead_same same, homeRead_up up.1, poisonedAt_same same, at']
      rfl
    · split
      · next bad =>
        rw [Nat.testBit_or, marked, Nat.testBit_two_pow]
        by_cases here : k = e
        · subst here
          rw [bad, decide_eq_true (Nat.lt_succ_self k), decide_eq_true rfl, Bool.or_true, Bool.and_true]
        · rw [decide_eq_false here, Bool.or_false, show decide (e < k + 1) = decide (e < k) by rw [decide_eq_decide]; omega]
      · next good =>
        rw [marked]
        by_cases here : k = e
        · subst here
          rw [Bool.eq_false_iff.2 good, Bool.and_false, Bool.and_false]
        · rw [show decide (e < k + 1) = decide (e < k) by rw [decide_eq_decide]; omega]

/-! ## Elements that fail (R364) -/

theorem failedBelow {why : Nat → Nat} {k : Nat} (bad : ∀ e < k, targetCheck s op p e = .error (why e)) :
    servedElems op p s k = (s, { unserved with failed := 2 ^ k - 1, first := if k = 0 then none else some (why 0, 0) }) := by
  induction k with
  | zero => rfl
  | succ k ih =>
    rw [servedElems_succ, ih fun e low => bad e (Nat.lt_succ_of_lt low), serveElem_error (bad k (Nat.lt_succ_self k))]
    have failed : (2 ^ k - 1) ||| 2 ^ k = 2 ^ (k + 1) - 1 := by
      refine Nat.eq_of_testBit_eq fun i => ?_
      rw [Nat.testBit_or, Nat.testBit_two_pow_sub_one, Nat.testBit_two_pow, Nat.testBit_two_pow_sub_one, ← Bool.decide_or, decide_eq_decide]
      omega
    have first : (if k = 0 then none else some (why 0, 0) : Option (Nat × Nat)).or (some (why k, k)) = some (why 0, 0) := by
      split
      · next none => rw [none]; rfl
      · rfl
    rw [if_neg (Nat.succ_ne_zero k)]
    exact congrArg₂ (fun x y => (s, { unserved with failed := x, first := y })) failed first

end

/-! ## The response to a packet (R364) -/

/-- The response to a packet from what serving its elements has come to. -/
def responseTo (op : Nat) (p : Packet) (r : Served) : Response :=
  { dtag := p.dtag, tag := p.tag, esz := p.esz, cnt := p.cnt, reason := BitVec.ofNat 8 ((r.first.map Prod.fst).getD 0), fel := BitVec.ofNat 8 ((r.first.map Prod.snd).getD 0),
    failed := r.failed, poisoned := r.poisoned, data := bytesOf (responseBytes op p) r.data }

theorem serve_eq (s : State) (op : Nat) (p : Packet) :
    serve s op p = ((servedElems op p s (elemCount op p)).1, responseTo op p (servedElems op p s (elemCount op p)).2) := by
  unfold serve
  rw [packetElems_eq]
  rfl

/-- A packet's sizes as R356 bounds them. -/
def Sized (op : Nat) (p : Packet) : Prop := p.esz.toNat ≤ 4 ∧ elemCount op p ≤ (if op = 0 ∨ op = 1 ∨ op = 7 then 2048 else 256)

theorem takeRequest_refused {s : State} {op : Nat} {p : Packet} (refused : p.dst ≠ s.fabric.rank ∨ ¬ Sized op p) : takeRequest op p s = s := by
  unfold takeRequest
  rw [packetElems_eq]
  refine if_pos ?_
  simp only [countsBytes_iff]
  unfold Sized at refused
  by_cases other : p.dst = s.fabric.rank
  · have wrong := refused.resolve_left (not_not_intro other)
    by_cases esz : p.esz.toNat ≤ 4
    · exact .inr (.inl (Nat.lt_of_not_le fun fits => wrong ⟨esz, fits⟩))
    · exact .inl (Nat.lt_of_not_le esz)
  · exact .inr (.inr other)

theorem takeRequest_taken {s : State} {op : Nat} {p : Packet} (here : p.dst = s.fabric.rank) (sized : Sized op p) {u : State} {r : Served}
    (runs : servedElems op p s (elemCount op p) = (u, r)) : takeRequest op p s = u.emit (.response p.src (responseOp op (responseTo op p r)) (responseTo op p r)) := by
  obtain ⟨esz, fits⟩ := sized
  unfold takeRequest
  rw [packetElems_eq, if_neg]
  · dsimp only
    rw [serve_eq, runs]
  · simp only [countsBytes_iff]
    rintro (wide | many | away)
    · exact absurd esz (Nat.not_le_of_lt wide)
    · exact absurd fits (Nat.not_le_of_lt many)
    · exact away here

open Sys2Proof.Claim

/-! ## The bits that writes and SENDs store (R356, R358) -/

section
variable {op : Nat} {p : Packet} {pa : Nat → Nat}

/-- Bit `i` of memory, counted from byte 0, is one of element `e`'s. -/
def covers (op : Nat) (p : Packet) (pa : Nat → Nat) (i e : Nat) : Bool := decide (firstBit op p pa e ≤ i) && decide (i < firstBit op p pa e + elemWide op p e)

/-- Half of a byte replaced, bit by bit. -/
theorem testBit_half {old v j : Nat} (half : v < 16) (low : j < 8) (high : Bool) :
    (if high then old % 16 + 16 * v else old / 16 * 16 + v).testBit j =
      if (if high then 4 else 0) ≤ j ∧ j < (if high then 4 else 0) + 4 then v.testBit (j - if high then 4 else 0) else old.testBit j := by
  cases high with
  | true =>
    rw [if_pos rfl, if_pos rfl, Nat.add_comm, show 16 * v + old % 16 = 2 ^ 4 * v + old % 2 ^ 4 from rfl, Nat.testBit_two_pow_mul_add _ (Nat.mod_lt _ (by decide)), Nat.testBit_mod_two_pow]
    by_cases below : j < 4
    · rw [if_pos below, if_neg (by omega), decide_eq_true below, Bool.true_and]
    · rw [if_neg below, if_pos (by omega)]
  | false =>
    rw [if_neg Bool.false_ne_true, if_neg Bool.false_ne_true, show old / 16 * 16 + v = 2 ^ 4 * (old / 2 ^ 4) + v by omega, Nat.testBit_two_pow_mul_add _ half]
    by_cases below : j < 4
    · rw [if_pos below, if_pos (by omega), Nat.sub_zero]
    · rw [if_neg below, if_neg (by omega), Nat.testBit_div_two_pow, Nat.sub_add_cancel (by omega)]

theorem memRead_one (m : List Host.Cell) (a : Nat) : memRead m a 1 = (memGet m a).toNat := by
  rw [memRead, memRead, Nat.mul_zero, Nat.add_zero]

theorem slot_testBit {w e v j : Nat} (low : j < w) : (slot w e v).testBit j = (v / 2 ^ (w * e)).testBit j := by
  rw [slot_eq, Nat.testBit_mod_two_pow, decide_eq_true low, Bool.true_and]

/-- One element's write, bit by bit. -/
theorem getLsbD_putElem (stores : Stores op) (plain : op ≠ 6) (unmasked : op ≠ 12) {m : List Host.Cell} (sound : Memory.wf m = true) (e : Nat) {b j : Nat} (low : j < 8) :
    (memGet (memPutAll m (pa e) (newBytes op p e (memRead m (pa e) (elemBytes op p e)))) b).getLsbD j =
      if firstBit op p pa e ≤ 8 * b + j ∧ 8 * b + j < firstBit op p pa e + elemWide op p e then (operands op p / 2 ^ (elemBits op p * e)).testBit (8 * b + j - firstBit op p pa e) else (memGet m b).getLsbD j := by
  rw [memGet_memPutAll sound, length_newBytes stores, newBytes_plain stores plain unmasked, ← elemBits_of_counted unmasked]
  rcases nibble_or_whole op p with ⟨nibble, other⟩ | whole
  · rw [elemBytes_nibble other nibble, elemWide_nibble other nibble, elemBits_nibble other nibble, if_pos rfl, memRead_one, firstBit]
    by_cases here : b = pa e
    · subst here
      rw [if_pos (by omega), Nat.sub_self, getElem?_bytesOf, if_pos Nat.one_pos, Option.getD_some, getLsbD_ofNat_byte _ _ _ low, Nat.mul_zero, Nat.zero_add,
        testBit_half (slot_lt 4 e _) low]
      refine if_ctx_congr (by omega) (fun within => ?_) fun _ => rfl
      rw [slot_testBit (by omega)]
      exact congrArg _ (by omega)
    · rw [if_neg (by omega), if_neg (by split <;> omega)]
  · obtain ⟨w, -, bits⟩ := elemBits_whole whole
    have low' : (packetPlace p op e).2.2 = false := by
      cases high : (packetPlace p op e).2.2 with
      | false => rfl
      | true => exact absurd (high_nibble high) (whole.resolve_right unmasked)
    have first : firstBit op p pa e = 8 * pa e := by rw [firstBit, low', if_neg Bool.false_ne_true, Nat.add_zero]
    have fits := elemBytes_le bits whole e
    rw [first, elemWide_whole whole, bits, if_neg (show ¬ 8 * w = 4 by omega)]
    by_cases within : pa e ≤ b ∧ b < pa e + elemBytes op p e
    · rw [if_pos within, if_pos (by omega), getElem?_bytesOf, if_pos (by omega), Option.getD_some, getLsbD_ofNat_byte _ _ _ low, slot_testBit (by omega)]
      exact congrArg _ (by omega)
    · rw [if_neg within, if_neg (by omega)]

/-- Of two elements that store a bit, the later wins. -/
theorem getLsbD_putAll (stores : Stores op) (plain : op ≠ 6) (unmasked : op ≠ 12) {m : List Host.Cell} (sound : Memory.wf m = true) (k : Nat) {b j : Nat} (low : j < 8) :
    (memGet (putAll pa (elemBytes op p) (newBytes op p) m k) b).getLsbD j = match (List.range k).reverse.find? (covers op p pa (8 * b + j)) with
      | some e => (operands op p / 2 ^ (elemBits op p * e)).testBit (8 * b + j - firstBit op p pa e)
      | none => (memGet m b).getLsbD j := by
  induction k with
  | zero => rfl
  | succ k ih =>
    rw [putAll_succ, getLsbD_putElem stores plain unmasked (putAll_wf sound k) k low, ih, List.range_succ, List.reverse_append, List.reverse_singleton, List.singleton_append,
      List.find?_cons]
    by_cases hit : firstBit op p pa k ≤ 8 * b + j ∧ 8 * b + j < firstBit op p pa k + elemWide op p k
    · rw [if_pos hit, covers, decide_eq_true hit.1, decide_eq_true hit.2]
      rfl
    · have miss : covers op p pa (8 * b + j) k = false := by rw [covers, ← Bool.decide_and, decide_eq_false hit]
      rw [if_neg hit, miss]

/-- The bytes that a SEND's elements deliver are those from its offset. -/
theorem deliveredBelow_send (send : op = 7) (y : Nat) : deliveredBelow op p (elemCount op p) y ↔ p.off ≤ y ∧ y < p.off + p.cnt := by
  have place (e : Nat) : (packetPlace p op e).2.1 = p.off + e * eszBits p.esz / 8 := by rw [send]; rfl
  unfold deliveredBelow
  simp only [place]
  rcases nibble_or_whole op p with ⟨nibble, other⟩ | whole
  · have four : eszBits p.esz = 4 := if_pos nibble
    simp only [elemBytes_nibble other nibble, elemCount_nibble nibble (.inr (.inr send)), four]
    constructor
    · rintro ⟨e, low, at'⟩
      omega
    · intro within
      exact ⟨2 * (y - p.off), by omega⟩
  · obtain ⟨w, positive, bits⟩ := elemBits_whole whole
    have size : eszBits p.esz = 8 * w := by rw [← bits, elemBits_of_counted (by omega)]
    have start (e : Nat) : e * (8 * w) / 8 = e * w := by rw [Nat.mul_left_comm, Nat.mul_div_cancel_left _ (by decide)]
    simp only [elemBytes_whole bits whole, if_pos (show op = 0 ∨ op = 1 ∨ op = 7 from .inr (.inr send)), size, start]
    constructor
    · rintro ⟨e, low, at'⟩
      have begins := counted_low bits positive (.inr (.inr send)) low
      omega
    · intro within
      have below : (y - p.off) / w * w ≤ y - p.off := Nat.div_mul_le_self _ _
      have next : y - p.off < (y - p.off) / w * w + w := Nat.lt_div_mul_add positive
      refine ⟨(y - p.off) / w, ?_, by omega⟩
      rw [elemCount, if_pos (.inr (.inr send)), bits, Nat.lt_iff_add_one_le, Nat.le_div_iff_mul_le (by omega), Nat.add_mul, Nat.mul_left_comm]
      omega

end

open Sys2Proof.Claim

/-! ## Masked writes and atomics of a packet (R206, R247, R358) -/

section
variable {p : Packet}

/-- The byte and mask pairs of an MWRITE follow its index words. -/
theorem slot_operands_masked (i : Nat) : slot 8 i (operands 12 p) = (p.body.getD (8 * p.cnt + i) 0).toNat := by
  rw [operands, slot_ofBytes, List.getD_eq_getElem?_getD, List.getD_eq_getElem?_getD, List.getElem?_drop]
  rfl

theorem masked_byte (old byte mask : Byte) : BitVec.ofNat 8 ((old.toNat &&& (255 - mask.toNat)) ||| (byte.toNat &&& mask.toNat)) = (old &&& ~~~mask) ||| (byte &&& mask) := by
  refine BitVec.eq_of_toNat_eq ?_
  have below : (old.toNat &&& (255 - mask.toNat)) ||| (byte.toNat &&& mask.toNat) < 2 ^ 8 :=
    Nat.or_lt_two_pow (Nat.and_lt_two_pow _ (by omega)) (Nat.and_lt_two_pow _ mask.isLt)
  rw [BitVec.toNat_ofNat, Nat.mod_eq_of_lt below, BitVec.toNat_or, BitVec.toNat_and, BitVec.toNat_and, BitVec.toNat_not]

/-- What an MWRITE's element leaves in its byte. -/
theorem newBytes_masked (e : Nat) (old : Byte) : ((newBytes 12 p e old.toNat)[0]?).getD 0 =
    (old &&& ~~~p.body.getD (8 * p.cnt + 2 * e + 1) 0) ||| (p.body.getD (8 * p.cnt + 2 * e) 0 &&& p.body.getD (8 * p.cnt + 2 * e + 1) 0) := by
  rw [← masked_byte, Nat.add_assoc, ← slot_operands_masked, ← slot_operands_masked]
  show ((bytesOf 1 _)[0]?).getD 0 = _
  rw [getElem?_bytesOf, if_pos Nat.one_pos, Option.getD_some, Nat.pow_zero, Nat.div_one]

/-- The integer atomics compute what the table of R206 gives, within the element. -/
theorem amoValue_row {code : Nat} {x : (Reg → Reg → Reg → BitVec 2 → BitVec 2 → Instr) × (Nat → Nat → Nat → Nat)} (row : amoRows[code]? = some x) {w old b : Nat}
    (ho : old < 2 ^ w) (hb : b < 2 ^ w) (e : Nat) : code ≠ 9 ∧ amoValue code w old b e = x.2 w old b ∧ amoValue code w old b e < 2 ^ w := by
  have bound : code < 9 := (List.getElem?_eq_some_iff.1 row).1
  have chosen (c : Prop) [Decidable c] : (if c then old else b) < 2 ^ w := by split <;> assumption
  refine ⟨by omega, ?_⟩
  match code, bound with
  | 0, _ => cases row; exact ⟨rfl, Nat.mod_lt _ (Nat.two_pow_pos w)⟩
  | 1, _ => cases row; exact ⟨rfl, Nat.and_lt_two_pow _ hb⟩
  | 2, _ => cases row; exact ⟨rfl, Nat.or_lt_two_pow ho hb⟩
  | 3, _ => cases row; exact ⟨rfl, Nat.xor_lt_two_pow ho hb⟩
  | 4, _ => cases row; exact ⟨amoValue_min ho hb e, chosen _⟩
  | 5, _ => cases row; exact ⟨amoValue_max ho hb e, chosen _⟩
  | 6, _ => cases row; exact ⟨rfl, Nat.lt_of_le_of_lt (Nat.min_le_left _ _) ho⟩
  | 7, _ => cases row; exact ⟨rfl, Nat.max_lt.2 ⟨ho, hb⟩⟩
  | 8, _ => cases row; exact ⟨rfl, hb⟩

/-- A number put as bytes reads as that number. -/
theorem memRead_of_bytes {m : List Host.Cell} {a n v : Nat} (bytes : ∀ b, a ≤ b ∧ b < a + n → memGet m b = ((bytesOf n v)[b - a]?).getD 0) (fits : v < 256 ^ n) :
    memRead m a n = v := by
  have held : Holds m a (bytesOf n v) := by
    intro i low
    rw [length_bytesOf] at low
    rw [bytes (a + i) (by omega), Nat.add_sub_cancel_left]
  have read := memRead_holds held
  rwa [length_bytesOf, ofBytes_bytesOf, Nat.mod_eq_of_lt fits] at read

/-- The code of a packet's atomic. -/
theorem atomicCode_eq (p : Packet) : bitsAt 0 4 (bodyWord p.body 0) = lowBits 4 (ofBytes (p.body.take 8)) := by
  rw [bitsAt_eq, Nat.pow_zero, Nat.div_one]
  rfl

end

open Sys2Proof.Claim

/-! ## What a packet whose elements all pass comes to (R364) -/

/-- A response that tells of no failure. -/
def Faultless (r : Response) : Prop := r.reason = 0 ∧ r.fel = 0 ∧ r.failed = 0

theorem faultless_unserved (op : Nat) (p : Packet) (data marks : Nat) : Faultless (responseTo op p { unserved with data := data, poisoned := marks }) := ⟨rfl, rfl, rfl⟩

section
variable {s : State} {op : Nat} {p : Packet} {q : BitVec 3} {pa : Nat → Nat}

theorem read_value (s : State) (unmasked : op ≠ 12) (pa : Nat → Nat) (e : Nat) : readAt s op p pa e < 2 ^ elemBits op p
    ∧ lowBits (elemWide op p e) (readAt s op p pa e) = lowBits (elemWide op p e) (memRead s.mem (pa e) (elemBytes op p e) / (if (packetPlace p op e).2.2 then 16 else 1)) := by
  unfold readAt
  dsimp only
  rw [elemBits_of_counted unmasked]
  split
  · next high =>
    have nibble := high_nibble high
    have byte := memRead_lt s.mem (pa e) 1
    rw [elemBytes_nibble unmasked nibble, show eszBits p.esz = 4 from if_pos nibble]
    exact ⟨by omega, rfl⟩
  · rw [Nat.div_one]
    exact ⟨Nat.mod_lt _ (Nat.two_pow_pos _), lowBits_lowBits _ (elemBits_of_counted (p := p) unmasked ▸ elemWide_le e)⟩

theorem served_read (reads : op = 0 ∨ op = 2 ∨ op = 3) (accepts : Accepts s op p q pa) (quiet : NoUpset s) : ∃ u r, servedElems op p s (elemCount op p) = (u, r)
    ∧ responseOp op (responseTo op p r) = 8 ∧ Faultless (responseTo op p r) ∧ SameButRows u s
    ∧ (responseTo op p r).data.length = (if op = 0 then p.cnt else (elemCount op p * elemBits op p + 7) / 8)
    ∧ (∀ e, e < elemCount op p → lowBits (elemWide op p e) (ofBytes (responseTo op p r).data / 2 ^ (elemBits op p * e))
        = lowBits (elemWide op p e) (memRead s.mem (pa e) (elemBytes op p e) / (if (packetPlace p op e).2.2 then 16 else 1)))
    ∧ ∀ e, e < elemCount op p → (responseTo op p r).poisoned.testBit e = poisonedAt s (pa e) (elemBytes op p e) := by
  obtain ⟨u, rows, marks, runs, marked⟩ := readBelow reads accepts quiet (Nat.le_refl _)
  have unmasked : op ≠ 12 := by omega
  have reading : op = 0 ∨ op = 2 ∨ op = 3 ∨ op = 6 := by omega
  have size : elemBits op p = eszBits p.esz := elemBits_of_counted unmasked
  refine ⟨u, _, runs, if_pos reading, faultless_unserved op p _ _, rows.sameButRows, (length_bytesOf _ _).trans ?_, fun e low => ?_, fun e low => ?_⟩
  · unfold responseBytes
    refine if_ctx_congr Iff.rfl (fun _ => rfl) fun other => ?_
    rw [if_pos (by omega), size, elemCount, if_neg (by omega)]
  · rw [← (read_value s unmasked pa e).2]
    show lowBits _ (ofBytes (bytesOf _ (gathered _ _ _)) / _) = _
    rw [← size]
    exact lowBits_bytes_gathered (fun e _ => (read_value s unmasked pa e).1) low (elemWide_le e) (element_inside reading low)
  · refine (marked e).trans ?_
    rw [decide_eq_true low, Bool.true_and]

theorem servedSoFar_served {u : State} {inside : Nat → Prop} (served : ServedSoFar s q inside u) : SameButServed u s := ⟨served.write, served.fabric⟩

theorem served_write (stores : op = 1 ∨ op = 4 ∨ op = 5 ∨ op = 7) (accepts : Accepts s op p q pa) (sound : Sound s) (quiet : NoUpset s)
    (undisturbed : Undisturbed s q (fun b => ∃ e, e < elemCount op p ∧ pa e ≤ b ∧ b < pa e + elemBytes op p e)) : ∃ u r, servedElems op p s (elemCount op p) = (u, r)
    ∧ responseOp op (responseTo op p r) = 9 ∧ Faultless (responseTo op p r) ∧ (responseTo op p r).data = [] ∧ (responseTo op p r).poisoned = 0 ∧ SameButServed u s
    ∧ (∀ b j, j < 8 → (memGet u.mem b).getLsbD j = match (List.range (elemCount op p)).reverse.find? (covers op p pa (8 * b + j)) with
        | some e => (operands op p / 2 ^ (elemBits op p * e)).testBit (8 * b + j - firstBit op p pa e)
        | none => (memGet s.mem b).getLsbD j)
    ∧ (op ≠ 7 → u.fabric = s.fabric)
    ∧ (op = 7 → ∀ y, (windowOf u q p.win).delivered.testBit y = ((windowOf s q p.win).delivered.testBit y || ((windowOf s q p.win).ctl.getLsbD 4
        && decide (p.off ≤ y) && decide (y < p.off + p.cnt)))) := by
  have storing : Stores op := by unfold Stores; omega
  have unmasked : op ≠ 12 := by omega
  have plain : op ≠ 6 := by omega
  obtain ⟨u, runs, served, mem, fabric, delivered⟩ := storedBelow storing accepts sound quiet undisturbed (fun e low b from' to' => ⟨e, low, from', to'⟩) (Nat.le_refl _)
  have empty : responseBytes op p = 0 := (if_neg (by omega)).trans (if_neg (by omega))
  refine ⟨u, _, runs, ?_, faultless_unserved op p _ _, ?_, rfl, servedSoFar_served served, fun b j low => ?_, fun other => fabric other unmasked, fun send y => ?_⟩
  · exact (if_neg (by omega)).trans (if_pos rfl)
  · unfold responseTo
    rw [empty]
    rfl
  · rw [mem]
    exact getLsbD_putAll storing plain unmasked sound _ low
  · rw [Bool.eq_iff_iff, delivered send y, deliveredBelow_send send]
    simp only [Bool.or_eq_true, Bool.and_eq_true, decide_eq_true_eq, and_assoc]

theorem served_masked (accepts : Accepts s 12 p q pa) (sound : Sound s) (quiet : NoUpset s)
    (apart : ∀ e e', e < elemCount 12 p → e' < elemCount 12 p → e ≠ e' → pa e ≠ pa e') (undisturbed : Undisturbed s q (fun b => ∃ e, e < elemCount 12 p ∧ b = pa e)) :
    ∃ u r, servedElems 12 p s (elemCount 12 p) = (u, r) ∧ responseOp 12 (responseTo 12 p r) = 9 ∧ Faultless (responseTo 12 p r) ∧ SameButServed u s
      ∧ (∀ e, e < elemCount 12 p → let byte := p.body.getD (8 * p.cnt + 2 * e) 0
          let mask := p.body.getD (8 * p.cnt + 2 * e + 1) 0
          memGet u.mem (pa e) = (memGet s.mem (pa e) &&& ~~~mask) ||| (byte &&& mask))
      ∧ ∀ b, (∀ e, e < elemCount 12 p → b ≠ pa e) → memGet u.mem b = memGet s.mem b := by
  have storing : Stores 12 := by unfold Stores; omega
  have one (e : Nat) : elemBytes 12 p e = 1 := elemBytes_whole (w := 1) rfl (.inr rfl) e
  obtain ⟨u, runs, served, mem, -, -⟩ := storedBelow storing accepts sound quiet undisturbed (fun e low b from' to' => ⟨e, low, by rw [one] at to'; omega⟩) (Nat.le_refl _)
  have size : ∀ e < elemCount 12 p, ∀ old, (newBytes 12 p e old).length = elemBytes 12 p e := fun e _ old => length_newBytes storing old
  refine ⟨u, _, runs, rfl, faultless_unserved 12 p _ _, servedSoFar_served served, fun e low => ?_, fun b out => ?_⟩
  · rw [mem, memGet_putAll sound size (fun e e' low low' ne => by have clear := apart e e' low low' ne; rw [one, one]; omega) low (by rw [one]; omega), Nat.sub_self, one, memRead_one]
    exact newBytes_masked e _
  · rw [mem, memGet_putAll_outside sound size fun e low at' => out e low (by rw [one] at at'; omega)]

theorem served_atomic (sized : p.esz ≠ 4) (accepts : Accepts s 6 p q pa) (sound : Sound s) (quiet : NoUpset s)
    (apart : ∀ e e', e < elemCount 6 p → e' < elemCount 6 p → e ≠ e' → pa e + elemBytes 6 p e ≤ pa e' ∨ pa e' + elemBytes 6 p e' ≤ pa e)
    (undisturbed : Undisturbed s q (fun b => ∃ e, e < elemCount 6 p ∧ pa e ≤ b ∧ b < pa e + elemBytes 6 p e)) :
    ∃ u r, servedElems 6 p s (elemCount 6 p) = (u, r) ∧ responseOp 6 (responseTo 6 p r) = 8 ∧ Faultless (responseTo 6 p r) ∧ (responseTo 6 p r).poisoned = 0
      ∧ SameButServed u s ∧ u.fabric = s.fabric
      ∧ (∀ e, e < elemCount 6 p → lowBits (elemBits 6 p) (ofBytes (responseTo 6 p r).data / 2 ^ (elemBits 6 p * e)) = memRead s.mem (pa e) (elemBytes 6 p e))
      ∧ (∀ e, e < elemCount 6 p → atomicValue p e (memRead s.mem (pa e) (elemBytes 6 p e)) < 2 ^ elemBits 6 p →
          memRead u.mem (pa e) (elemBytes 6 p e) = atomicValue p e (memRead s.mem (pa e) (elemBytes 6 p e)))
      ∧ ∀ b, (∀ e, e < elemCount 6 p → ¬ (pa e ≤ b ∧ b < pa e + elemBytes 6 p e)) → memGet u.mem b = memGet s.mem b := by
  have storing : Stores 6 := by unfold Stores; omega
  obtain ⟨w, -, bits⟩ := elemBits_whole (op := 6) (.inl sized)
  have whole (e : Nat) : elemBytes 6 p e = w := elemBytes_whole bits (.inl sized) e
  have power : 2 ^ elemBits 6 p = 256 ^ w := by rw [bits, two_pow_bytes]
  obtain ⟨u, runs, served, mem, fabric, -⟩ := storedBelow storing accepts sound quiet undisturbed (fun e low b from' to' => ⟨e, low, from', to'⟩) (Nat.le_refl _)
  have size : ∀ e < elemCount 6 p, ∀ old, (newBytes 6 p e old).length = elemBytes 6 p e := fun e _ old => length_newBytes storing old
  have found : ∀ e < elemCount 6 p, foundAt s 6 p pa e = memRead s.mem (pa e) (elemBytes 6 p e) := fun e low =>
    memRead_putAll sound (fun e' before => size e' (Nat.lt_trans before low)) fun e' before => apart e' e (Nat.lt_trans before low) low (Nat.ne_of_lt before)
  have small : ∀ e < elemCount 6 p, foundAt s 6 p pa e < 2 ^ elemBits 6 p := fun e low => by
    rw [found e low, power, whole]
    exact memRead_lt _ _ _
  refine ⟨u, _, runs, rfl, faultless_unserved 6 p _ _, rfl, servedSoFar_served served, fabric (by decide) (by decide), fun e low => ?_, fun e low fits => ?_, fun b out => ?_⟩
  · have inside := element_inside (op := 6) (.inr (.inr (.inr rfl))) low
    rw [elemWide_whole (.inl sized), whole, ← bits] at inside
    refine (lowBits_bytes_gathered small low (Nat.le_refl _) inside).trans ?_
    rw [lowBits, Nat.mod_eq_of_lt (small e low), found e low]
  · refine memRead_of_bytes (fun b within => ?_) (by rw [whole, ← power]; rwa [whole] at fits)
    rw [mem, memGet_putAll sound size apart low within]
    show ((bytesOf (packetWidth p 6 e) _)[b - pa e]?).getD 0 = _
    rw [packetWidth_eq]
  · rw [mem, memGet_putAll_outside sound size out]

end

open Sys2Proof.Claim

/-! ## The checks of one element (R364, R368) -/

/-- The access that an operation makes at its target. -/
def requestKind : Nat → AccessKind
  | 0 | 2 | 3 => .load
  | _ => .store

theorem requestKind_eq (op : Nat) : requestKind op = if op = 0 ∨ op = 2 ∨ op = 3 then .load else .store := by
  unfold requestKind
  split
  · rfl
  · rfl
  · rfl
  · next zero two three => exact (if_neg fun any => any.elim zero fun rest => rest.elim two three).symm

/-- The last checks of an element, once its address has been translated. -/
def judgeElement (s : State) (op n : Nat) (q : BitVec 3) (wn : BitVec 8) (x : Except XFault Mapped) : Except Nat (BitVec 3 × BitVec 8 × Mapped) :=
  match x with
  | .error f => .error (if f.perm then 6 else 5)
  | .ok m => if isMemory m.pa = false then .error 6 else if op = 6 ∧ poisonedAt s m.pa n = true then .error 9 else .ok (q, wn, m)

section
variable {s : State} {op : Nat} {p : Packet} {e : Nat} {q : BitVec 3} (tagged : partOfTag s p.dtag = some q)
include tagged

/-- The checks of an element in their order. -/
theorem targetCheck_tagged : targetCheck s op p e =
    let w := windowOf s q (packetPlace p op e).1
    let off := (packetPlace p op e).2.1
    if (s.partn q).st = 0 ∨ (s.partn q).st = 3 then .error 7
    else if w.ok = false then .error 2
    else if w.allows op = false then .error 3
    else if w.len.toNat < off + elemBytes op p e then .error 4
    else if off % ((elemBits op p + 7) / 8) ≠ 0 then .error 8
    else judgeElement s op (elemBytes op p e) q (packetPlace p op e).1 (Machine.translate s (windowSpace s q w) none (requestKind op) (w.base + BitVec.ofNat 64 off)) := by
  unfold targetCheck
  rw [tagged]
  dsimp only
  rw [packetWidth_eq, packetAlign_eq]
  simp only [Bool.not_eq_true', gt_iff_lt]
  refine if_congr Iff.rfl rfl (if_congr Iff.rfl rfl (if_congr Iff.rfl rfl (if_congr Iff.rfl rfl (if_congr Iff.rfl rfl ?_))))
  show (match Machine.translate s _ none (requestKind op) _ with | .error f => _ | .ok m => _) = _
  cases Machine.translate s (windowSpace s q (windowOf s q (packetPlace p op e).1)) none (requestKind op) ((windowOf s q (packetPlace p op e).1).base + BitVec.ofNat 64 (packetPlace p op e).2.1) with
  | error f => rfl
  | ok m =>
    dsimp only [judgeElement]
    refine if_congr Iff.rfl rfl (if_congr ?_ rfl rfl)
    rw [Bool.and_eq_true, decide_eq_true_eq]

end

/-- A partition is up, stopping counted, or it is neither. -/
theorem up_or_not (x : BitVec 2) : (x = 1 ∨ x = 2) ↔ ¬ (x = 0 ∨ x = 3) := by
  revert x
  decide

theorem partOfTag_none {s : State} {x : BitVec 16} (foreign : ∀ q, x = 0 ∨ s.fabric.tagOf q ≠ x) : partOfTag s x = none := by
  unfold partOfTag
  split
  · rfl
  · next tag =>
    refine List.find?_eq_none.2 fun q _ held => ?_
    exact (foreign q).elim tag fun other => other (beq_iff_eq.1 held)

/-! ## The values of an atomic packet (R206) -/

theorem atomicValue_eq {p : Packet} {c : Nat} (code : lowBits 4 (ofBytes (p.body.take 8)) = c) (e old : Nat) :
    atomicValue p e old = amoValue c (elemBits 6 p) old (slot (elemBits 6 p) (if c = 9 then 1 else e) (operands 6 p)) (slot (elemBits 6 p) 0 (operands 6 p)) := by
  unfold atomicValue
  rw [atomicCode_eq, code]
  rfl

/-- The sums of an atomic floating-point addition. -/
theorem amoValue_float {p : Packet} (size : p.esz = 1 ∨ p.esz = 2) (old b e : Nat) :
    amoValue 10 (elemBits 6 p) old b e = (let f := if p.esz = 1 then 0x06 else 0x05
      (roundOp f 0 false 0 (addVal 0 (decodeVal f old) (decodeVal f b))).1) ∧ amoValue 10 (elemBits 6 p) old b e < 2 ^ elemBits 6 p := by
  rcases size with half | single
  · rw [show elemBits 6 p = 16 by unfold elemBits; rw [half]; rfl, half]
    exact ⟨rfl, roundVal_lt (f := 6) (by decide) 0 false 0 _⟩
  · rw [show elemBits 6 p = 32 by unfold elemBits; rw [single]; rfl, single]
    exact ⟨rfl, roundVal_lt (f := 5) (by decide) 0 false 0 _⟩

/-! ## Request packets: O52 -/

/-- The clause on the checks of an element. -/
theorem element_checks (s : State) (op : Nat) (p : Packet) (e : Nat) {q : BitVec 3} (tagged : partOfTag s p.dtag = some q) :
    let w := windowOf s q (packetPlace p op e).1
    let off := (packetPlace p op e).2.1
    let sp : Space := { part := q, ptbase := (s.partn q).bptbase, asid := w.ctl.extractLsb' 16 16, prv := 1 }
    let k : AccessKind := if op = 0 ∨ op = 2 ∨ op = 3 then .load else .store
    let up := (s.partn q).st = 1 ∨ (s.partn q).st = 2
    let whole := (elemBits op p + 7) / 8
    let inside := w.ok = true ∧ w.allows op = true ∧ off + elemBytes op p e ≤ w.len.toNat ∧ off % whole = 0
    (¬ up → targetCheck s op p e = .error 7)
    ∧ (up → w.ok = false → targetCheck s op p e = .error 2)
    ∧ (up → w.ok = true → w.allows op = false → targetCheck s op p e = .error 3)
    ∧ (up → w.ok = true → w.allows op = true → w.len.toNat < off + elemBytes op p e → targetCheck s op p e = .error 4)
    ∧ (up → w.ok = true → w.allows op = true → off + elemBytes op p e ≤ w.len.toNat → off % whole ≠ 0 → targetCheck s op p e = .error 8)
    ∧ (up → inside → targetCheck s op p e = judgeElement s op (elemBytes op p e) q (packetPlace p op e).1 (Machine.translate s sp none k (w.base + BitVec.ofNat 64 off))) := by
  intro w off sp k up whole inside
  have order := targetCheck_tagged (op := op) (e := e) tagged
  have kind : requestKind op = k := requestKind_eq op
  rw [kind] at order
  refine ⟨fun down => ?_, fun runs bad => ?_, fun runs ok bad => ?_, fun runs ok allowed bad => ?_, fun runs ok allowed fits bad => ?_, fun runs ⟨ok, allowed, fits, aligned⟩ => ?_⟩
  all_goals rw [order]
  · exact if_pos (not_not.1 (mt (up_or_not _).2 down))
  · exact (if_neg ((up_or_not _).1 runs)).trans (if_pos bad)
  · exact (if_neg ((up_or_not _).1 runs)).trans ((if_neg (ne_false_of_eq_true ok)).trans (if_pos bad))
  · exact (if_neg ((up_or_not _).1 runs)).trans ((if_neg (ne_false_of_eq_true ok)).trans ((if_neg (ne_false_of_eq_true allowed)).trans (if_pos bad)))
  · exact (if_neg ((up_or_not _).1 runs)).trans ((if_neg (ne_false_of_eq_true ok)).trans ((if_neg (ne_false_of_eq_true allowed)).trans
      ((if_neg (Nat.not_lt_of_le fits)).trans (if_pos bad))))
  · exact (if_neg ((up_or_not _).1 runs)).trans ((if_neg (ne_false_of_eq_true ok)).trans ((if_neg (ne_false_of_eq_true allowed)).trans
      ((if_neg (Nat.not_lt_of_le fits)).trans (if_neg (not_not_intro aligned)))))

/-- Settles O52: a packet is a fold over its elements, and each family of operations says what an element leaves and answers. -/
theorem targetMemoryUnit : Obligations.TargetMemoryUnit := by
  intro s0 op p i arrives s sizes
  have run : exec i s0 = .next (takeRequest op p s) := arrives_runs arrives s0
  have request := arrives_request arrives
  refine ⟨fun refused => by rw [run, takeRequest_refused refused], fun here sized => ?_⟩
  intro ew n width place answers fine
  have answered {u : State} {r : Served} {code : BitVec 4} (runs : servedElems op p s n = (u, r)) (kind : responseOp op (responseTo op p r) = code) :
      answers code u (responseTo op p r) := ⟨by rw [run, takeRequest_taken here sized runs, kind], rfl, rfl, rfl, rfl⟩
  refine ⟨fun q pa accepts sound quiet => ⟨fun reads => ?read, fun stores undisturbed => ?write, fun masked apart undisturbed => ?masked,
    fun amo sized' apart undisturbed => ?atomic⟩, fun why some' _ bad => ?fails, fun e => ?checks⟩
  case read =>
    obtain ⟨u, r, runs, kind, rest⟩ := served_read reads accepts quiet
    exact ⟨u, _, answered runs kind, rest⟩
  case write =>
    have storing : op = 1 ∨ op = 4 ∨ op = 5 ∨ op = 7 := by simpa using stores
    obtain ⟨u, r, runs, kind, faultless, empty, clean, same, bits, fabric, delivered⟩ := served_write storing accepts sound quiet undisturbed
    refine ⟨u, _, answered runs kind, faultless, empty, clean, same, fun b j low => ?_, fabric, delivered⟩
    rw [bits b j low]
    have at' : packetDataAt p op = if op = 4 then 8 else if op = 5 then 8 * p.cnt else 0 := by
      rcases storing with rfl | rfl | rfl | rfl <;> rfl
    unfold operands
    rw [at']
    rfl
  case masked =>
    subst masked
    obtain ⟨u, r, runs, kind, faultless, same, bytes, others⟩ := served_masked accepts sound quiet apart undisturbed
    exact ⟨u, _, answered runs kind, faultless, same, bytes, others⟩
  case atomic =>
    subst amo
    obtain ⟨u, r, runs, kind, faultless, clean, same, fabric, old, new, others⟩ := served_atomic sized' accepts sound quiet apart undisturbed
    refine ⟨u, _, answered runs kind, faultless, clean, same, fabric, old, fun x row e low => ?_, fun code one => ?_, fun code size e low => ?_, others⟩
    · have small : memRead s.mem (pa e) (elemBytes 6 p e) < 2 ^ elemBits 6 p := old e low ▸ lowBits_lt _ _
      obtain ⟨other, value, fits⟩ := amoValue_row row small (slot_lt (elemBits 6 p) e (operands 6 p)) (slot (elemBits 6 p) 0 (operands 6 p))
      have stored := atomicValue_eq (p := p) rfl e (memRead s.mem (pa e) (elemBytes 6 p e))
      rw [if_neg other] at stored
      rw [new e low (stored ▸ fits), stored, value, slot_eq]
      rfl
    · have low : 0 < elemCount 6 p := Nat.lt_of_lt_of_eq Nat.one_pos one.symm
      have small : memRead s.mem (pa 0) (elemBytes 6 p 0) < 2 ^ elemBits 6 p := old 0 low ▸ lowBits_lt _ _
      have stored := atomicValue_eq (p := p) code 0 (memRead s.mem (pa 0) (elemBytes 6 p 0))
      rw [if_pos rfl] at stored
      have swapped : amoValue 9 (elemBits 6 p) (memRead s.mem (pa 0) (elemBytes 6 p 0)) (slot (elemBits 6 p) 1 (operands 6 p)) (slot (elemBits 6 p) 0 (operands 6 p))
          = if memRead s.mem (pa 0) (elemBytes 6 p 0) = slot (elemBits 6 p) 0 (operands 6 p) then slot (elemBits 6 p) 1 (operands 6 p)
            else memRead s.mem (pa 0) (elemBytes 6 p 0) := rfl
      rw [swapped] at stored
      have fits : atomicValue p 0 (memRead s.mem (pa 0) (elemBytes 6 p 0)) < 2 ^ elemBits 6 p := by
        rw [stored]
        split
        · exact slot_lt _ _ _
        · exact small
      rw [new 0 low fits, stored, slot_eq, slot_eq]
      rfl
    · obtain ⟨value, fits⟩ := amoValue_float size (memRead s.mem (pa e) (elemBytes 6 p e)) (slot (elemBits 6 p) e (operands 6 p)) (slot (elemBits 6 p) 0 (operands 6 p))
      have stored := atomicValue_eq (p := p) code e (memRead s.mem (pa e) (elemBytes 6 p e))
      rw [if_neg (by decide)] at stored
      rw [new e low (stored ▸ fits), stored, value, slot_eq]
      rfl
  case fails =>
    have runs := failedBelow bad
    rw [if_neg (Nat.ne_of_gt some')] at runs
    refine ⟨_, answered runs ?_, rfl, rfl, rfl, rfl, fun b within => ?_⟩
    · have nonzero : 2 ^ n - 1 ≠ 0 := by have := Nat.pow_lt_pow_right (a := 2) (by decide) some'; omega
      exact if_congr Iff.rfl rfl (if_neg nonzero)
    · obtain ⟨j, at'⟩ := List.mem_iff_getElem?.1 within
      have zero := getElem?_bytesOf (responseBytes op p) 0 j
      rw [Nat.zero_div] at zero
      have same := at'.symm.trans zero
      split at same
      · exact Option.some.inj same
      · exact nomatch same
  case checks =>
    intro w off va allowed
    refine ⟨fun foreign => ?_, fun q tagged => ?_⟩
    · unfold targetCheck
      rw [partOfTag_none foreign]
    · have window : w = windowOf s q (packetPlace p op e).1 := by
        show windowOf s ((partOfTag s p.dtag).getD 0) _ = _
        rw [tagged]
        rfl
      obtain ⟨down, invalid, refused, beyond, misaligned, judged⟩ := element_checks s op p e tagged
      have may : allowed = (windowOf s q (packetPlace p op e).1).allows op := congrArg (Window.allows · op) window
      clear_value w
      subst window
      rw [may]
      refine ⟨down, invalid, refused, beyond, misaligned, fun runs inside f fault => ?_, fun runs inside m mapped => ?_⟩
      · rw [judged runs inside]
        exact congrArg (judgeElement s op _ q _) fault
      · rw [judged runs inside]
        exact congrArg (judgeElement s op _ q _) mapped

end Sys2Proof.Machine

namespace Sys2Proof.Machine
/-! What comes over the fabric: O53. -/

open Sys2Proof.Claim

/-! ## Fields of a flit (R356) -/

/-- Replacing bits, bit by bit. -/
theorem testBit_putBits (lo cnt v raw i : Nat) : (putBits lo cnt v raw).testBit i = if lo ≤ i ∧ i < lo + cnt then v.testBit (i - lo) else raw.testBit i := by
  have parts : raw = 2 ^ lo * (2 ^ cnt * (raw / 2 ^ lo / 2 ^ cnt) + bitsAt lo cnt raw) + raw % 2 ^ lo := by
    rw [bitsAt_eq, Nat.div_add_mod, Nat.div_add_mod]
  have put : putBits lo cnt v raw = 2 ^ lo * (2 ^ cnt * (raw / 2 ^ lo / 2 ^ cnt) + v % 2 ^ cnt) + raw % 2 ^ lo := by
    rw [Nat.mul_add] at parts
    rw [putBits, Nat.shiftLeft_eq, Nat.shiftLeft_eq, Nat.mul_add, Nat.mul_comm (bitsAt lo cnt raw), Nat.mul_comm (v % 2 ^ cnt)]
    omega
  have low : raw % 2 ^ lo < 2 ^ lo := Nat.mod_lt _ (Nat.two_pow_pos lo)
  rw [put, Nat.testBit_two_pow_mul_add _ low, Nat.testBit_two_pow_mul_add _ (Nat.mod_lt _ (Nat.two_pow_pos cnt)), Nat.testBit_mod_two_pow, Nat.testBit_mod_two_pow,
    Nat.testBit_div_two_pow, Nat.testBit_div_two_pow]
  by_cases below : i < lo
  · rw [if_pos below, if_neg (by omega), decide_eq_true below, Bool.true_and]
  · rw [if_neg below]
    by_cases inside : i - lo < cnt
    · rw [if_pos inside, if_pos (by omega), decide_eq_true inside, Bool.true_and]
    · rw [if_neg inside, if_neg (by omega)]
      exact congrArg _ (by omega)

/-- The field just replaced. -/
theorem bitsAt_putBits_same (lo cnt v raw : Nat) : bitsAt lo cnt (putBits lo cnt v raw) = v % 2 ^ cnt := by
  refine Nat.eq_of_testBit_eq fun i => ?_
  rw [bitsAt_eq, Nat.testBit_mod_two_pow, Nat.testBit_div_two_pow, Nat.testBit_mod_two_pow, testBit_putBits]
  by_cases inside : i < cnt
  · rw [if_pos (by omega), Nat.add_sub_cancel]
  · rw [decide_eq_false inside, Bool.false_and, Bool.false_and]

/-- A field apart from the one replaced. -/
theorem bitsAt_putBits_apart {lo cnt a n : Nat} (apart : a + n ≤ lo ∨ lo + cnt ≤ a) (v raw : Nat) : bitsAt a n (putBits lo cnt v raw) = bitsAt a n raw := by
  refine Nat.eq_of_testBit_eq fun i => ?_
  rw [bitsAt_eq, bitsAt_eq, Nat.testBit_mod_two_pow, Nat.testBit_div_two_pow, Nat.testBit_mod_two_pow, Nat.testBit_div_two_pow, testBit_putBits]
  by_cases inside : i < n
  · rw [if_neg (by omega)]
  · rw [decide_eq_false inside, Bool.false_and, Bool.false_and]

theorem testBit_putBits_apart {lo cnt i : Nat} (apart : i < lo ∨ lo + cnt ≤ i) (v raw : Nat) : (putBits lo cnt v raw).testBit i = raw.testBit i := by
  rw [testBit_putBits, if_neg (by omega)]

/-- A flit's CRC does not depend on what its CRC field holds. -/
theorem flitCrc_putBits (v raw : Nat) : flitCrc (putBits 160 32 v raw) = flitCrc raw := by
  have same : putBits 160 32 0 (putBits 160 32 v raw) = putBits 160 32 0 raw := by
    refine Nat.eq_of_testBit_eq fun i => ?_
    rw [testBit_putBits, testBit_putBits, testBit_putBits]
    split
    · rfl
    · rfl
  rw [flitCrc, flitCrc, same]

theorem lowBits_div (lo n raw : Nat) : lowBits n (raw / 2 ^ lo) = bitsAt lo n raw := (bitsAt_eq lo n raw).symm

/-! ## A flit as it leaves (R356, R362) -/

/-- The reserve grants that a port owes, one for each channel. -/
def reserveGrants (p : Port) : Nat := p.oweReserve.toList.zipIdx.foldl (fun a g => if g.1 > 0 then a + 2 ^ g.2 else a) 0

/-- The flit with the link fields that a port fills in but for its CRC. -/
def linkedFlit (p : Port) (rplq : Bool) (raw : Nat) : Nat :=
  putBits 40 8 (min 192 p.owePool) (putBits 32 8 (reserveGrants p) (putBits 24 1 (if rplq then 1 else 0) (putBits 12 12 (p.rxSeq - 1).toNat (putBits 0 12 p.txSeq.toNat raw))))

/-- The flit as it goes on the wire. -/
def stampedFlit (p : Port) (rplq : Bool) (raw : Nat) : Nat := putBits 160 32 (flitCrc (linkedFlit p rplq raw)).toNat (linkedFlit p rplq raw)

theorem stamp_eq (p : Port) (rplq : Bool) (raw : Nat) : p.stamp rplq raw =
    { p with
        txSeq := p.txSeq + 1, txf := p.txf + 1, replay := p.replay ++ [stampedFlit p rplq raw], wire := p.wire ++ [stampedFlit p rplq raw]
        oweReserve := p.oweReserve.map (· - 1), owePool := p.owePool - min 192 p.owePool } := rfl

theorem stampedFlit_seq (p : Port) (rplq : Bool) (raw : Nat) : lowBits 12 (stampedFlit p rplq raw) = p.txSeq.toNat := by
  have field := lowBits_div 0 12 (stampedFlit p rplq raw)
  rw [Nat.pow_zero, Nat.div_one] at field
  rw [field, stampedFlit, linkedFlit, bitsAt_putBits_apart (.inl (by omega)), bitsAt_putBits_apart (.inl (by omega)), bitsAt_putBits_apart (.inl (by omega)),
    bitsAt_putBits_apart (.inl (by omega)), bitsAt_putBits_apart (.inl (by omega)), bitsAt_putBits_same]
  exact Nat.mod_eq_of_lt p.txSeq.isLt

theorem stampedFlit_ack (p : Port) (rplq : Bool) (raw : Nat) : lowBits 12 (stampedFlit p rplq raw / 2 ^ 12) = (p.rxSeq - 1).toNat := by
  rw [lowBits_div, stampedFlit, linkedFlit, bitsAt_putBits_apart (.inl (by omega)), bitsAt_putBits_apart (.inl (by omega)), bitsAt_putBits_apart (.inl (by omega)),
    bitsAt_putBits_apart (.inl (by omega)), bitsAt_putBits_same]
  exact Nat.mod_eq_of_lt (p.rxSeq - 1).isLt

theorem stampedFlit_crc (p : Port) (rplq : Bool) (raw : Nat) : BitVec.ofNat 32 (stampedFlit p rplq raw / 2 ^ 160) = flitCrc (stampedFlit p rplq raw) := by
  refine BitVec.eq_of_toNat_eq ?_
  rw [BitVec.toNat_ofNat, ← bitsAt_eq, stampedFlit, bitsAt_putBits_same, flitCrc_putBits]
  exact Nat.mod_eq_of_lt (flitCrc _).isLt

theorem stampedFlit_poolGrant (p : Port) (rplq : Bool) (raw : Nat) : lowBits 8 (stampedFlit p rplq raw / 2 ^ 40) = min 192 p.owePool := by
  rw [lowBits_div, stampedFlit, linkedFlit, bitsAt_putBits_apart (.inl (by omega)), bitsAt_putBits_same]
  exact Nat.mod_eq_of_lt (by omega)

theorem stampedFlit_request (p : Port) (rplq : Bool) (raw : Nat) : (stampedFlit p rplq raw).testBit 24 = rplq := by
  rw [stampedFlit, linkedFlit, testBit_putBits_apart (.inl (by omega)), testBit_putBits_apart (.inl (by omega)), testBit_putBits_apart (.inl (by omega)), testBit_putBits,
    if_pos (by omega)]
  cases rplq <;> rfl

/-- The bits that no link field holds. -/
theorem stampedFlit_testBit (p : Port) (rplq : Bool) (raw : Nat) {i : Nat} (apart : (25 ≤ i ∧ i < 160 ∧ ¬ (32 ≤ i ∧ i < 48)) ∨ 192 ≤ i) :
    (stampedFlit p rplq raw).testBit i = raw.testBit i := by
  rw [stampedFlit, linkedFlit, testBit_putBits_apart (by omega), testBit_putBits_apart (by omega), testBit_putBits_apart (by omega), testBit_putBits_apart (by omega),
    testBit_putBits_apart (by omega), testBit_putBits_apart (by omega)]

theorem sends_stamp (p : Port) (rplq : Bool) (raw : Nat) : Sends p (p.stamp rplq raw) (stampedFlit p rplq raw) :=
  ⟨rfl, rfl, rfl, rfl, stampedFlit_seq p rplq raw, stampedFlit_ack p rplq raw, stampedFlit_crc p rplq raw⟩

theorem nullFlit_testBit : nullFlit.testBit 25 = true := by decide

open Sys2Proof.Claim

/-! ## Ports (R362, R366) -/

theorem port_eq (s : State) (i : Fin 6) : s.port i.val = s.fabric.ports[i] := by
  unfold State.port
  rw [List.getElem?_eq_getElem (by rw [Vector.length_toList]; exact i.isLt), Option.getD_some, Vector.getElem_toList]
  rfl

theorem port_of_ports {s t : State} (ports : t.fabric.ports = s.fabric.ports) (q : Nat) : t.port q = s.port q := by unfold State.port; rw [ports]

theorem ports_updPort (s : State) (q : Nat) (f : Port → Port) (i : Fin 6) : (s.updPort q f).fabric.ports[i] = if i.val = q then f (s.fabric.ports[i]) else s.fabric.ports[i] := by
  show (s.fabric.ports.mapIdx _)[i.val] = _
  rw [Vector.getElem_mapIdx]
  by_cases here : i.val = q
  · rw [if_pos here, if_pos (beq_iff_eq.2 here)]
    rfl
  · rw [if_neg here, if_neg (mt beq_iff_eq.1 here)]
    rfl

theorem port_updPort_same {q : Nat} (valid : q < 6) (s : State) (f : Port → Port) : (s.updPort q f).port q = f (s.port q) := by
  have at' := ports_updPort s q f ⟨q, valid⟩
  rw [← port_eq, ← port_eq] at at'
  exact at'.trans (if_pos rfl)

theorem port_updPort_ne {q k : Nat} (other : k ≠ q) (s : State) (f : Port → Port) : (s.updPort q f).port k = s.port k := by
  unfold State.port State.updPort
  dsimp only
  rw [Vector.toList_mapIdx, List.getElem?_mapIdx]
  cases s.fabric.ports.toList[k]? with
  | none => rfl
  | some p => exact congrArg (fun x => (some x).getD Port.init) (if_neg (mt beq_iff_eq.1 other))

/-- A change of a port is what it makes of that port. -/
theorem updPort_congr {q : Nat} {s : State} {f g : Port → Port} (same : f (s.port q) = g (s.port q)) : s.updPort q f = s.updPort q g := by
  have ports : (s.updPort q f).fabric.ports = (s.updPort q g).fabric.ports := Vector.ext fun i low => by
    have left := ports_updPort s q f ⟨i, low⟩
    have right := ports_updPort s q g ⟨i, low⟩
    refine left.trans (Eq.trans ?_ right.symm)
    by_cases here : i = q
    · subst here
      rw [if_pos rfl, if_pos rfl, ← port_eq, same]
    · rw [if_neg here, if_neg here]
  exact congrArg (fun l : Vector Port 6 => ({ s with fabric := { s.fabric with ports := l } } : State)) ports

/-- The ports other than one are as they were. -/
def OtherPorts (s t : State) (q : Nat) : Prop := ∀ i : Fin 6, i.val ≠ q → t.fabric.ports[i] = s.fabric.ports[i]

theorem otherPorts_updPort (s : State) (q : Nat) (f : Port → Port) : OtherPorts s (s.updPort q f) q := fun i other => (ports_updPort s q f i).trans (if_neg other)

theorem onlyPort_updPort (s : State) (q : Nat) (f : Port → Port) : OnlyPort s (s.updPort q f) q := ⟨rfl, otherPorts_updPort s q f⟩

/-! ## A port with nothing to send (R362, R366) -/

theorem noReserve : (Vector.replicate 8 0 : Vector Nat 8).toList.any (· > 0) = false := rfl

theorem grantAll_clear {p : Port} (pool : p.owePool = 0) (reserve : p.oweReserve = Vector.replicate 8 0) (n : Nat) : p.grantAll n = p := by
  cases n with
  | zero => rfl
  | succ n =>
    rw [Port.grantAll, pool, reserve, noReserve]
    exact if_neg (by simp)

/-- Giving grants touches the sending side of the link alone. -/
theorem grantAll_keeps (n : Nat) (p : Port) : ∃ txSeq txf replay wire oweReserve owePool, p.grantAll n =
    { p with txSeq := txSeq, txf := txf, replay := replay, wire := wire, oweReserve := oweReserve, owePool := owePool } := by
  induction n generalizing p with
  | zero => exact ⟨_, _, _, _, _, _, rfl⟩
  | succ n ih =>
    rw [Port.grantAll]
    split
    · obtain ⟨txSeq, txf, replay, wire, oweReserve, owePool, same⟩ := ih (p.stamp false nullFlit)
      exact ⟨txSeq, txf, replay, wire, oweReserve, owePool, same⟩
    · exact ⟨_, _, _, _, _, _, rfl⟩

/-- A single pool grant leaves on one NULL flit. -/
theorem grantAll_one {p : Port} (up : p.isUp = true) (pool : p.owePool = 1) (reserve : p.oweReserve = Vector.replicate 8 0) (n : Nat) :
    p.grantAll (n + 1) = p.stamp false nullFlit := by
  rw [Port.grantAll, up, pool, if_pos (by simp)]
  refine grantAll_clear ?_ ?_ n
  · show p.owePool - min 192 p.owePool = 0
    omega
  · show p.oweReserve.map (· - 1) = _
    rw [reserve, Vector.map_replicate]

theorem grantAll_down {p : Port} (down : p.isUp = false) (n : Nat) : p.grantAll n = p := by
  cases n with
  | zero => rfl
  | succ n =>
    rw [Port.grantAll, down]
    exact if_neg Bool.false_ne_true

/-- The ports once all have given their grants. -/
def granted (s : State) : State := { s with fabric := { s.fabric with ports := s.fabric.ports.map (Port.grantAll 8) } }

theorem foldl_grantAll (s : State) : (List.range 6).foldl (fun s q => s.updPort q (Port.grantAll 8)) s = granted s := by
  have each : ∀ n ≤ 6, ∃ ports : Vector Port 6, (List.range n).foldl (fun s q => s.updPort q (Port.grantAll 8)) s = { s with fabric := { s.fabric with ports := ports } }
      ∧ ∀ i : Fin 6, ports[i] = if i.val < n then (s.fabric.ports[i]).grantAll 8 else s.fabric.ports[i] := by
    intro n
    induction n with
    | zero => exact fun _ => ⟨s.fabric.ports, rfl, fun i => (if_neg (Nat.not_lt_zero _)).symm⟩
    | succ n ih =>
      intro bound
      obtain ⟨ports, state, at'⟩ := ih (Nat.le_of_succ_le bound)
      rw [List.range_succ, List.foldl_append, state]
      refine ⟨_, rfl, fun i => (ports_updPort _ n _ i).trans ?_⟩
      dsimp only
      rw [at' i]
      by_cases here : i.val = n
      · rw [if_pos here, if_neg (by omega), if_pos (by omega)]
      · rw [if_neg here]
        exact if_congr (by omega) rfl rfl
  obtain ⟨ports, state, at'⟩ := each 6 (Nat.le_refl 6)
  rw [state, granted]
  refine congrArg (fun l : Vector Port 6 => ({ s with fabric := { s.fabric with ports := l } } : State)) (Vector.ext fun i valid => ?_)
  rw [Vector.getElem_map]
  exact (at' ⟨i, valid⟩).trans (if_pos valid)

theorem granted_only (s : State) : granted s = { s with fabric := { s.fabric with ports := (granted s).fabric.ports } } := rfl

theorem granted_partn (s : State) (p : BitVec 3) : (granted s).partn p = s.partn p := rfl

theorem granted_arrived (s : State) : (granted s).fabric.arrived = s.fabric.arrived := rfl

theorem ports_granted (s : State) (i : Fin 6) : (granted s).fabric.ports[i] = (s.fabric.ports[i]).grantAll 8 := Vector.getElem_map _ _

/-- A fold in which every step but one does nothing, before that one and after it. -/
theorem foldl_one {α β : Type} [DecidableEq β] {f : α → β → α} {s u : α} {k : β} {l : List β} (once : l.Nodup) (mem : k ∈ l) (acts : f s k = u)
    (before : ∀ j ∈ l, j ≠ k → f s j = s) (after : ∀ j ∈ l, j ≠ k → f u j = u) : l.foldl f s = u := by
  induction l with
  | nil => exact absurd mem List.not_mem_nil
  | cons j rest ih =>
    rw [List.foldl_cons]
    by_cases here : j = k
    · subst here
      rw [acts]
      have stays : ∀ i ∈ rest, f u i = u := fun i within => after i (List.mem_cons_of_mem _ within) fun same => (List.nodup_cons.1 once).1 (same ▸ within)
      clear ih mem once before after acts
      induction rest with
      | nil => rfl
      | cons i more ih => rw [List.foldl_cons, stays i List.mem_cons_self]; exact ih fun i within => stays i (List.mem_cons_of_mem _ within)
    · rw [before j List.mem_cons_self here]
      exact ih (List.nodup_cons.1 once).2 ((List.mem_cons.1 mem).resolve_left (Ne.symm here)) (fun i within => before i (List.mem_cons_of_mem _ within))
        fun i within => after i (List.mem_cons_of_mem _ within)

theorem pumpPort_empty {s : State} {q : Nat} (empty : (s.port q).outq = []) : pumpPort q (s.port q).outq.length s = s := by
  rw [empty]
  rfl

/-- Where no flit waits, ports give grants alone. -/
theorem pump_empty {s : State} (empty : ∀ i : Fin 6, (s.fabric.ports[i]).outq = []) : s.pump = granted s := by
  have none : (List.range 6).foldl (fun s q => pumpPort q (s.port q).outq.length s) s = s := by
    have each : ∀ l : List Nat, (∀ q ∈ l, q < 6) → l.foldl (fun s q => pumpPort q (s.port q).outq.length s) s = s := by
      intro l valid
      induction l with
      | nil => rfl
      | cons q rest ih =>
        rw [List.foldl_cons, pumpPort_empty (by rw [port_eq s ⟨q, valid q List.mem_cons_self⟩]; exact empty _)]
        exact ih fun q within => valid q (List.mem_cons_of_mem _ within)
    exact each _ fun q within => List.mem_range.1 within
  unfold State.pump
  rw [none]
  exact foldl_grantAll s

/-- Where one port has flits waiting, it sends, and then all give grants. -/
theorem pump_one {s u : State} {k : Nat} (valid : k < 6) (others : ∀ i : Fin 6, i.val ≠ k → (s.fabric.ports[i]).outq = [])
    (sends : pumpPort k (s.port k).outq.length s = u) (after : ∀ i : Fin 6, i.val ≠ k → (u.fabric.ports[i]).outq = []) : s.pump = granted u := by
  have all : (List.range 6).foldl (fun s q => pumpPort q (s.port q).outq.length s) s = u :=
    foldl_one List.nodup_range (List.mem_range.2 valid) sends
      (fun j within other => pumpPort_empty (by rw [port_eq s ⟨j, List.mem_range.1 within⟩]; exact others _ other))
      (fun j within other => pumpPort_empty (by rw [port_eq u ⟨j, List.mem_range.1 within⟩]; exact after _ other))
  unfold State.pump
  rw [all]
  exact foldl_grantAll u

theorem granted_quiet {s : State} (quiet : ∀ i : Fin 6, (s.fabric.ports[i]).owePool = 0 ∧ (s.fabric.ports[i]).oweReserve = Vector.replicate 8 0) : granted s = s := by
  have same : s.fabric.ports.map (Port.grantAll 8) = s.fabric.ports := Vector.ext fun i valid => by
    rw [Vector.getElem_map]
    exact grantAll_clear (quiet ⟨i, valid⟩).1 (quiet ⟨i, valid⟩).2 8
  rw [granted, same]

theorem pump_quiet {s : State} (quiet : Claim.Quiet s) : s.pump = s :=
  (pump_empty fun i => (quiet i).1).trans (granted_quiet fun i => (quiet i).2)

/-! ## Input slots (R366, R367) -/

/-- The state with other input slots. -/
def withSlots (s : State) (slots : Table InSlot) : State := { s with fabric := { s.fabric with inSlots := slots } }

/-- A port that owes the grant of a slot. -/
def oweGrant (e : InSlot) (p : Port) : Port :=
  if e.rsv then { p with oweReserve := vcSet p.oweReserve e.vc ((p.oweReserve.toList[e.vc]?).getD 0 + 1) } else { p with owePool := p.owePool + 1 }

/-- With its last branch a slot is free, and its grant is owed. -/
theorem freeSlot_last {s : State} {k j : Nat} {e : InSlot} (found : s.fabric.inSlots.find? (fun x => x.1 == k) = some (j, e)) (last : ¬ e.left > 1) :
    freeSlot (some k) s = (withSlots s (tdel s.fabric.inSlots k)).updPort e.port (oweGrant e) := by
  unfold freeSlot
  dsimp only
  rw [found]
  exact if_neg last

/-- What freeing a slot can do. -/
theorem freeSlot_cases (k : Option Nat) (s : State) : freeSlot k s = s ∨ (∃ slots, freeSlot k s = withSlots s slots)
    ∨ ∃ slots e, freeSlot k s = (withSlots s slots).updPort e.port (oweGrant e) := by
  cases k with
  | none => exact .inl rfl
  | some k =>
    cases found : s.fabric.inSlots.find? (fun x => x.1 == k) with
    | none =>
      refine .inl ?_
      unfold freeSlot
      dsimp only
      rw [found]
    | some x =>
      by_cases more : x.2.left > 1
      · refine .inr (.inl ⟨tset s.fabric.inSlots k { x.2 with left := x.2.left - 1 }, ?_⟩)
        unfold freeSlot
        dsimp only
        rw [found]
        exact if_pos more
      · exact .inr (.inr ⟨_, x.2, freeSlot_last found more⟩)

theorem oweGrant_keeps (e : InSlot) (p : Port) : ∃ reserve pool, oweGrant e p = { p with oweReserve := reserve, owePool := pool } := by
  unfold oweGrant
  split <;> exact ⟨_, _, rfl⟩

open Sys2Proof.Claim

/-! ## Events of the fabric (R330, R357, R363) -/

/-- A fabric event for some of the partitions. -/
def eventFor (q : Nat) (l : List (BitVec 3)) (s : State) : State :=
  l.foldl (fun s p => if s.fabric.tagOf p == 0 then s else s.pend p 0x84 (BitVec.ofNat 64 (q % 8))) s

/-- The partitions after an event: those named that take fabric traffic have it pending. -/
theorem eventFor_spec (q : Nat) {l : List (BitVec 3)} (once : l.Nodup) (s : State) : eventFor q l s = { s with parts := (eventFor q l s).parts }
    ∧ ∀ p, (eventFor q l s).partn p = if p ∈ l ∧ s.fabric.tagOf p ≠ 0 then { s.partn p with pending := pendIns (s.partn p).pending 0x84 (BitVec.ofNat 64 (q % 8)) } else s.partn p := by
  induction l generalizing s with
  | nil => exact ⟨rfl, fun p => (if_neg fun both => List.not_mem_nil both.1).symm⟩
  | cons r rest ih =>
    obtain ⟨absent, once'⟩ := List.nodup_cons.1 once
    by_cases idle : s.fabric.tagOf r = 0
    · have skip : eventFor q (r :: rest) s = eventFor q rest s := congrArg (fun u => eventFor q rest u) (if_pos (beq_iff_eq.2 idle))
      obtain ⟨only, each⟩ := ih once' s
      rw [skip]
      refine ⟨only, fun p => (each p).trans (if_congr ?_ rfl rfl)⟩
      rw [List.mem_cons]
      exact ⟨fun both => ⟨.inr both.1, both.2⟩, fun both => ⟨both.1.resolve_left fun here => both.2 (here ▸ idle), both.2⟩⟩
    · have take : eventFor q (r :: rest) s = eventFor q rest (s.pend r 0x84 (BitVec.ofNat 64 (q % 8))) := congrArg (fun u => eventFor q rest u) (if_neg (mt beq_iff_eq.1 idle))
      obtain ⟨only, each⟩ := ih once' (s.pend r 0x84 (BitVec.ofNat 64 (q % 8)))
      rw [take]
      refine ⟨only.trans rfl, fun p => (each p).trans ?_⟩
      have same : (s.pend r 0x84 (BitVec.ofNat 64 (q % 8))).fabric = s.fabric := rfl
      rw [same]
      by_cases here : p = r
      · subst here
        rw [if_neg (fun both => absent both.1), if_pos ⟨List.mem_cons_self, idle⟩]
        exact State.partn_setPart s p _
      · have apart : (s.pend r 0x84 (BitVec.ofNat 64 (q % 8))).partn p = s.partn p := State.partn_setPart_ne s here _
        rw [apart]
        exact if_congr (and_congr_left' ⟨List.mem_cons_of_mem r, fun within => (List.mem_cons.1 within).resolve_left here⟩) rfl rfl

theorem allParts_nodup : ((List.range 8).map (BitVec.ofNat 3)).Nodup := by decide

theorem mem_allParts (p : BitVec 3) : p ∈ (List.range 8).map (BitVec.ofNat 3) :=
  List.mem_map.2 ⟨p.toNat, List.mem_range.2 p.isLt, BitVec.eq_of_toNat_eq (by rw [BitVec.toNat_ofNat, Nat.mod_eq_of_lt p.isLt])⟩

theorem fabricEvent_only (q : Nat) (s : State) : fabricEvent q s = { s with parts := (fabricEvent q s).parts } := (eventFor_spec q allParts_nodup s).1

/-- A fabric event of a state whose partitions and tags are those of another. -/
theorem fabricEvent_event {q : Nat} (valid : q < 6) {s u : State} (parts : u.parts = s.parts) (tags : u.fabric.dtag = s.fabric.dtag) : FabricEvent s (fabricEvent q u) q := by
  intro p
  have each := (eventFor_spec q allParts_nodup u).2 p
  have tag : u.fabric.tagOf p = s.fabric.tagOf p := by
    show u.fabric.dtag[p.toNat] = s.fabric.dtag[p.toNat]
    rw [tags]
  rw [tag, partn_congr parts, Nat.mod_eq_of_lt (by omega : q < 8)] at each
  refine each.trans ?_
  by_cases idle : s.fabric.tagOf p = 0
  · rw [if_pos idle, if_neg (fun both => both.2 idle)]
  · rw [if_neg idle, if_pos ⟨mem_allParts p, idle⟩]

/-! ## A port that is down stays so while others send (R363) -/

/-- Port `q` is down and empty; partitions and tags are as they were. -/
structure DownPort (q : Nat) (s u : State) : Prop where
  st : (u.port q).st = 0
  outq : (u.port q).outq = []
  replay : (u.port q).replay = []
  parts : u.parts = s.parts
  dtag : u.fabric.dtag = s.fabric.dtag

section
variable {q : Nat} {s u : State} (down : DownPort q s u)
include down

theorem DownPort.of_fields {v : State} (ports : v.fabric.ports = u.fabric.ports) (parts : v.parts = u.parts) (tags : v.fabric.dtag = u.fabric.dtag) : DownPort q s v := by
  have same := port_of_ports ports q
  exact ⟨by rw [same]; exact down.st, by rw [same]; exact down.outq, by rw [same]; exact down.replay, parts.trans down.parts, tags.trans down.dtag⟩

/-- A change of one port that leaves a port that is down as it is, but for what it owes. -/
theorem DownPort.updPort (valid : q < 6) (k : Nat) {f : Port → Port} (keeps : k = q → ∀ p : Port, p.st = 0 → (f p).st = p.st ∧ (f p).outq = p.outq ∧ (f p).replay = p.replay) :
    DownPort q s (u.updPort k f) := by
  by_cases here : k = q
  · subst here
    obtain ⟨st, outq, replay⟩ := keeps rfl (u.port k) down.st
    have at' := port_updPort_same valid u f
    exact ⟨by rw [at', st]; exact down.st, by rw [at', outq]; exact down.outq, by rw [at', replay]; exact down.replay, down.parts, down.dtag⟩
  · have at' := port_updPort_ne (Ne.symm here) u f
    exact ⟨by rw [at']; exact down.st, by rw [at']; exact down.outq, by rw [at']; exact down.replay, down.parts, down.dtag⟩

theorem DownPort.freeSlot (valid : q < 6) (k : Option Nat) : DownPort q s (Machine.freeSlot k u) := by
  rcases freeSlot_cases k u with same | ⟨slots, same⟩ | ⟨slots, e, same⟩
  all_goals rw [same]
  · exact down
  · exact down.of_fields rfl rfl rfl
  · refine DownPort.updPort (u := withSlots u slots) (down.of_fields rfl rfl rfl) valid _ fun _ p _ => ?_
    obtain ⟨reserve, pool, owes⟩ := oweGrant_keeps e p
    rw [owes]
    exact ⟨rfl, rfl, rfl⟩

theorem DownPort.markStaged (raw : Nat) : DownPort q s (Machine.markStaged raw u) := by
  unfold Machine.markStaged
  dsimp only
  split
  · exact down
  · split
    · exact down.of_fields rfl rfl rfl
    · exact down

theorem DownPort.markLeft (k : Nat) (c : Queued) : DownPort q s (Machine.markLeft k c u) := by
  unfold Machine.markLeft
  split
  · exact down
  · split
    · split
      · exact down.markStaged _
      · exact down
    · exact down.of_fields rfl rfl rfl

end

theorem isUp_of_down {p : Port} (down : p.st = 0) : p.isUp = false := by
  unfold Port.isUp
  rw [down]
  rfl

theorem DownPort.pumpPort {q : Nat} (valid : q < 6) {s : State} (k fuel : Nat) {u : State} (down : DownPort q s u) : DownPort q s (Machine.pumpPort k fuel u) := by
  induction fuel generalizing u with
  | zero => exact down
  | succ fuel ih =>
    unfold Machine.pumpPort
    split
    · exact down
    · next up =>
      split
      · exact down
      · refine ih (((down.updPort valid k fun here => ?_).freeSlot valid _).markLeft k _)
        rw [here, isUp_of_down down.st] at up
        exact absurd rfl up

theorem DownPort.pump {q : Nat} (valid : q < 6) {s u : State} (down : DownPort q s u) : DownPort q s u.pump := by
  unfold State.pump
  dsimp only
  have sent : DownPort q s ((List.range 6).foldl (fun s q => Machine.pumpPort q (s.port q).outq.length s) u) :=
    foldl_inv (DownPort q s) (fun v k h => h.pumpPort valid k _) down _
  refine foldl_inv (DownPort q s) (fun v k h => h.updPort valid k fun _ p off => ?_) sent _
  rw [grantAll_down (isUp_of_down off)]
  exact ⟨rfl, rfl, rfl⟩

open Sys2Proof.Claim

/-! ## Receiving a flit (R362, R366) -/

theorem ofNat_bitsAt (n x : Nat) : BitVec.ofNat n (bitsAt 0 n x) = BitVec.ofNat n x := by
  refine BitVec.eq_of_toNat_eq ?_
  rw [BitVec.toNat_ofNat, BitVec.toNat_ofNat, bitsAt_eq, Nat.pow_zero, Nat.div_one, Nat.mod_mod]

theorem ofNat_bitsAt_div (lo n x : Nat) : BitVec.ofNat n (bitsAt lo n x) = BitVec.ofNat n (x / 2 ^ lo) := by
  refine BitVec.eq_of_toNat_eq ?_
  rw [BitVec.toNat_ofNat, BitVec.toNat_ofNat, bitsAt_eq, Nat.mod_mod]

/-- What is left in a replay buffer after an acknowledgement. -/
def keptFlits (p : Port) (raw : Nat) : List Nat := p.replay.filter (fun r => !decide ((BitVec.ofNat 12 (raw / 2 ^ 12) - BitVec.ofNat 12 r).toNat < 2048))

theorem applyLink_replay (p : Port) (raw : Nat) : (p.applyLink raw).replay = keptFlits p raw := by
  refine List.filter_congr fun r _ => ?_
  rw [ofNat_bitsAt_div, ofNat_bitsAt, ← decide_not]
  exact decide_eq_decide.2 (by omega)

/-- Without a replay request nothing goes out again. -/
theorem applyLink_once {p : Port} {raw : Nat} (once : raw.testBit 24 = false) : p.applyLink raw =
    { p with
        replay := keptFlits p raw, pool := min 192 (p.pool + lowBits 8 (raw / 2 ^ 40)), poolHeld := (p.applyLink raw).poolHeld
        reserve := p.reserve.mapIdx (fun i x => if raw.testBit (32 + i) then min 4 (x + 1) else x) } := by
  have replay := applyLink_replay p raw
  have parts : p.applyLink raw =
      { p with
          replay := (p.applyLink raw).replay, pool := min 192 (p.pool + bitsAt 40 8 raw), poolHeld := (p.applyLink raw).poolHeld
          reserve := p.reserve.mapIdx (fun i x => if raw.testBit (32 + i) then min 4 (x + 1) else x)
          wire := p.wire ++ (if raw.testBit 24 then (p.applyLink raw).replay else [])
          rpl := p.rpl + BitVec.ofNat 64 (if raw.testBit 24 then (p.applyLink raw).replay else []).length } := rfl
  rw [replay, once, if_neg Bool.false_ne_true, List.append_nil, List.length_nil, BitVec.add_zero] at parts
  rw [lowBits_div]
  exact parts

theorem length_settlePool (g : Nat) (l : List Nat) : (settlePool g l).length = l.length := by
  induction l generalizing g with
  | nil => rfl
  | cons x rest ih => rw [settlePool, List.length_cons, List.length_cons, ih]

theorem sum_settlePool (g : Nat) (l : List Nat) : (settlePool g l).sum = l.sum - g := by
  induction l generalizing g with
  | nil => exact (Nat.zero_sub g).symm
  | cons x rest ih =>
    rw [settlePool, List.sum_cons, List.sum_cons, ih]
    omega

/-- The pool slots that a receiver holds are settled by as many as it gives back. -/
theorem applyLink_poolHeld (p : Port) (raw : Nat) :
    (p.applyLink raw).poolHeld.toList.foldl (· + ·) 0 = p.poolHeld.toList.foldl (· + ·) 0 - lowBits 8 (raw / 2 ^ 40) := by
  have held : (p.applyLink raw).poolHeld.toList = settlePool (bitsAt 40 8 raw) p.poolHeld.toList := by
    have size : (settlePool (bitsAt 40 8 raw) p.poolHeld.toList).length = 8 := (length_settlePool _ _).trans Vector.length_toList
    refine List.ext_getElem ?_ fun i valid valid' => ?_
    · rw [size, Vector.length_toList]
    · rw [Vector.getElem_toList]
      show (p.poolHeld.mapIdx _)[i] = _
      rw [Vector.getElem_mapIdx, List.getElem?_eq_getElem valid']
      rfl
  rw [← List.sum_eq_foldl, ← List.sum_eq_foldl, held, sum_settlePool, lowBits_div]

/-- A port once it has accepted a flit. -/
def accepted (p : Port) (raw : Nat) : Port := { p.applyLink raw with rxSeq := p.rxSeq + 1, rxf := p.rxf + 1, awaiting := false, badRun := 0 }

theorem accepted_once {p : Port} {raw : Nat} (once : raw.testBit 24 = false) : accepted p raw =
    { p with
        rxSeq := p.rxSeq + 1, rxf := p.rxf + 1, awaiting := false, badRun := 0, replay := keptFlits p raw, pool := min 192 (p.pool + lowBits 8 (raw / 2 ^ 40))
        poolHeld := (p.applyLink raw).poolHeld, reserve := p.reserve.mapIdx (fun i x => if raw.testBit (32 + i) then min 4 (x + 1) else x) } :=
  (congrArg (fun x : Port => { x with rxSeq := p.rxSeq + 1, rxf := p.rxf + 1, awaiting := false, badRun := 0 }) (applyLink_once once)).trans rfl

/-- A state whose port has accepted a flit. -/
def received (q raw : Nat) (s : State) : State := s.updPort q (fun _ => accepted (s.port q) raw)

theorem acceptFlit_once {q raw : Nat} {s : State} (once : raw.testBit 24 = false) : acceptFlit q raw s =
    (if flitOk raw = false then fabricEvent q (dropFlit q raw (received q raw s)) else if raw.testBit 25 = true then received q raw s else forward q raw (received q raw s)).pump := by
  have none : ((s.port q).applyLink raw).rpl = (s.port q).rpl := (congrArg Port.rpl (applyLink_once once)).trans rfl
  have count : countReplays q (((s.port q).applyLink raw).rpl - (s.port q).rpl).toNat s = s := by
    rw [none, BitVec.sub_self]
    rfl
  have seq : ((s.port q).applyLink raw).rxSeq = (s.port q).rxSeq := rfl
  have seen : ((s.port q).applyLink raw).rxf = (s.port q).rxf := rfl
  unfold acceptFlit
  dsimp only
  rw [count, seq, seen]
  refine congrArg State.pump (if_congr ?_ rfl rfl)
  rw [Bool.not_eq_true']

/-- The conditions under which a flit is accepted. -/
def goodFlit (raw : Nat) : Bool := raw < 2 ^ 2048 && BitVec.ofNat 32 (bitsAt 160 32 raw) == flitCrc raw

theorem goodFlit_iff (raw : Nat) : goodFlit raw = true ↔ raw < 2 ^ 2048 ∧ BitVec.ofNat 32 (raw / 2 ^ 160) = flitCrc raw := by
  rw [goodFlit, Bool.and_eq_true, decide_eq_true_eq, beq_iff_eq, ofNat_bitsAt_div]

/-- The port asks for a replay on a NULL flit. -/
def replayAsked (p : Port) : Port := ({ p with awaiting := true, badRun := p.badRun + 1 } : Port).stamp true nullFlit

section
variable {s : State} {q raw : Nat}

theorem flit_cases (valid : q < 6) (up : (s.port q).isUp = true) : exec (.flit q raw) s = .next (
    if goodFlit raw = true ∧ BitVec.ofNat 12 raw = (s.port q).rxSeq then acceptFlit q raw s
    else if goodFlit raw = true ∧ (((s.port q).rxSeq - 1 - BitVec.ofNat 12 raw).toNat < 2048 ∨ (s.port q).awaiting = true) then s
    else s.updPort q replayAsked) := by
  have here : (decide (q ≥ 6) || !(s.port q).isUp) = false := by rw [up, decide_eq_false (by omega)]; rfl
  show Host.Outcome.next (if _ then _ else _) = _
  refine congrArg Host.Outcome.next ((if_neg (by rw [here]; exact Bool.false_ne_true)).trans (if_congr ?_ rfl (if_congr ?_ rfl rfl)))
  · rw [Bool.and_eq_true, beq_iff_eq, ofNat_bitsAt]
    rfl
  · rw [Bool.and_eq_true, Bool.or_eq_true, decide_eq_true_eq, ofNat_bitsAt]
    rfl

theorem flit_accepted (valid : q < 6) (up : (s.port q).isUp = true) (good : goodFlit raw = true) (next : BitVec.ofNat 12 raw = (s.port q).rxSeq) :
    exec (.flit q raw) s = .next (acceptFlit q raw s) := by rw [flit_cases valid up, if_pos ⟨good, next⟩]

theorem flit_discarded (valid : q < 6) (up : (s.port q).isUp = true) (good : goodFlit raw = true) (other : BitVec.ofNat 12 raw ≠ (s.port q).rxSeq)
    (old : ((s.port q).rxSeq - 1 - BitVec.ofNat 12 raw).toNat < 2048 ∨ (s.port q).awaiting = true) : exec (.flit q raw) s = .next s := by
  rw [flit_cases valid up, if_neg (fun both => other both.2), if_pos ⟨good, old⟩]

theorem flit_refused (valid : q < 6) (up : (s.port q).isUp = true)
    (bad : goodFlit raw = false ∨ (BitVec.ofNat 12 raw ≠ (s.port q).rxSeq ∧ 2048 ≤ ((s.port q).rxSeq - 1 - BitVec.ofNat 12 raw).toNat ∧ (s.port q).awaiting = false)) :
    exec (.flit q raw) s = .next (s.updPort q replayAsked) := by
  rw [flit_cases valid up]
  rcases bad with broken | ⟨other, ahead, calm⟩
  · rw [if_neg (fun both => Bool.false_ne_true (broken.symm.trans both.1)), if_neg (fun both => Bool.false_ne_true (broken.symm.trans both.1))]
  · rw [if_neg (fun both => other both.2), if_neg]
    rintro ⟨-, old | asked⟩
    · omega
    · exact Bool.false_ne_true (calm.symm.trans asked)

/-- A state whose ports other than `q` are quiet stays so. -/
theorem received_port (valid : q < 6) : (received q raw s).port q = accepted (s.port q) raw := port_updPort_same valid s _

theorem accepted_quiet {p : Port} (raw : Nat) (quiet : p.outq = [] ∧ p.owePool = 0 ∧ p.oweReserve = Vector.replicate 8 0) :
    (accepted p raw).outq = [] ∧ (accepted p raw).owePool = 0 ∧ (accepted p raw).oweReserve = Vector.replicate 8 0 := quiet

theorem received_quiet (quiet : Claim.Quiet s) : Claim.Quiet (received q raw s) := by
  intro i
  rw [received, ports_updPort]
  split
  · next here => exact accepted_quiet raw (by rw [← here, port_eq]; exact quiet i)
  · exact quiet i

end

open Sys2Proof.Claim

/-! ## Flits with link fields only, and flits that are discarded (R357, R362) -/

/-- The slot just taken is found. -/
theorem find?_tset {α : Type} (t : Table α) (k : Nat) (v : α) : (tset t k v).find? (fun x => x.1 == k) = some (k, v) := by
  induction t with
  | nil => exact List.find?_cons_of_pos (beq_self_eq_true k)
  | cons x rest ih =>
    obtain ⟨j, u⟩ := x
    unfold tset
    split
    · exact List.find?_cons_of_pos (beq_self_eq_true k)
    · next other =>
      split
      · exact List.find?_cons_of_pos (beq_self_eq_true k)
      · exact (List.find?_cons_of_neg (p := fun x : Nat × α => x.1 == k) (mt beq_iff_eq.1 other)).trans ih

/-- A slot of one branch taken and freed at once: its port owes the grant. -/
theorem freeSlot_taken (s : State) (k : Nat) {e : InSlot} (one : e.left = 1) :
    ∃ slots, freeSlot (some k) (withSlots s (tset s.fabric.inSlots k e)) = (withSlots s slots).updPort e.port (oweGrant e) :=
  ⟨tdel (tset s.fabric.inSlots k e) k, freeSlot_last (s := withSlots s _) (find?_tset _ k e) (by omega)⟩

section
variable {s : State} {q raw : Nat}

theorem ports_received (i : Fin 6) : (received q raw s).fabric.ports[i] = if i.val = q then accepted (s.port q) raw else s.fabric.ports[i] := ports_updPort s q _ i

/-- A NULL flit moves link fields alone. -/
theorem flit_null (quiet : Claim.Quiet s) (once : raw.testBit 24 = false) (sound : flitOk raw = true) (null : raw.testBit 25 = true) : acceptFlit q raw s = received q raw s := by
  rw [acceptFlit_once once, if_neg (ne_false_of_eq_true sound), if_pos null]
  exact pump_quiet (received_quiet quiet)

/-- The ports once a slot of `q` is owed or not. -/
theorem dropFlit_ports (s : State) (q raw : Nat) : dropFlit q raw s = s ∨ ∃ slots e, dropFlit q raw s = (withSlots s slots).updPort q (oweGrant e) := by
  unfold dropFlit
  split
  · exact .inl rfl
  · obtain ⟨slots, freed⟩ := freeSlot_taken s s.fabric.nextSlot (e := { port := q, vc := flitVc raw, rsv := raw.testBit 29, left := 1 }) rfl
    exact .inr ⟨slots, _, freed⟩

theorem outq_oweGrant (e : InSlot) (p : Port) : (oweGrant e p).outq = p.outq := by
  obtain ⟨reserve, pool, same⟩ := oweGrant_keeps e p
  rw [same]

/-- A flit that breaks a rule: the port counts it, and partitions that take fabric traffic hear of it. -/
theorem flit_broken (valid : q < 6) (quiet : Claim.Quiet s) (once : raw.testBit 24 = false) (broken : flitOk raw = false) :
    FabricEvent s (acceptFlit q raw s) q ∧ ((acceptFlit q raw s).port q).rxSeq = (s.port q).rxSeq + 1 ∧ ((acceptFlit q raw s).port q).rxf = (s.port q).rxf + 1
      ∧ (acceptFlit q raw s).fabric.arrived = s.fabric.arrived ∧ OtherPorts s (acceptFlit q raw s) q := by
  have dropped : ∃ f : Port → Port, (∀ p, (f p).outq = p.outq ∧ (f p).rxSeq = p.rxSeq ∧ (f p).rxf = p.rxf)
      ∧ ∀ i : Fin 6, (dropFlit q raw (received q raw s)).fabric.ports[i] = if i.val = q then f (accepted (s.port q) raw) else s.fabric.ports[i] := by
    rcases dropFlit_ports (received q raw s) q raw with same | ⟨slots, e, same⟩
    · exact ⟨id, fun p => ⟨rfl, rfl, rfl⟩, fun i => by rw [same]; exact ports_received i⟩
    · refine ⟨oweGrant e, fun p => ?_, fun i => ?_⟩
      · obtain ⟨reserve, pool, owes⟩ := oweGrant_keeps e p
        rw [owes]
        exact ⟨rfl, rfl, rfl⟩
      · rw [same, ports_updPort]
        show (if i.val = q then oweGrant e ((received q raw s).fabric.ports[i]) else (received q raw s).fabric.ports[i]) = _
        rw [ports_received]
        split <;> rfl
  have others : (dropFlit q raw (received q raw s)).parts = s.parts ∧ (dropFlit q raw (received q raw s)).fabric.dtag = s.fabric.dtag
      ∧ (dropFlit q raw (received q raw s)).fabric.arrived = s.fabric.arrived := by
    rcases dropFlit_ports (received q raw s) q raw with same | ⟨slots, e, same⟩
    all_goals
      rw [same]
      exact ⟨rfl, rfl, rfl⟩
  obtain ⟨f, keeps, ports⟩ := dropped
  obtain ⟨parts, tags, arrived⟩ := others
  have run := acceptFlit_once (q := q) (s := s) once
  rw [if_pos broken] at run
  generalize dropFlit q raw (received q raw s) = v at run ports parts tags arrived
  have only := fabricEvent_only q v
  have fabric : (fabricEvent q v).fabric = v.fabric := (congrArg State.fabric only).trans rfl
  have empty (i : Fin 6) : ((fabricEvent q v).fabric.ports[i]).outq = [] := by
    rw [fabric, ports]
    split
    · next here =>
      refine (keeps _).1.trans ?_
      have still := (quiet ⟨q, valid⟩).1
      rwa [← port_eq] at still
    · exact (quiet i).1
  rw [pump_empty empty] at run
  have at' (i : Fin 6) : (acceptFlit q raw s).fabric.ports[i] = (if i.val = q then f (accepted (s.port q) raw) else s.fabric.ports[i]).grantAll 8 := by
    rw [run, ports_granted, fabric, ports]
  have here := at' ⟨q, valid⟩
  rw [← port_eq, if_pos rfl] at here
  obtain ⟨txSeq, txf, replay, wire, oweReserve, owePool, sent⟩ := grantAll_keeps 8 (f (accepted (s.port q) raw))
  rw [sent] at here
  have event := fabricEvent_event valid parts tags
  refine ⟨fun p => ?_, ?_, ?_, ?_, fun i other => ?_⟩
  · rw [run, granted_partn]
    exact event p
  · rw [here]
    exact (keeps _).2.1
  · rw [here]
    exact (keeps _).2.2
  · rw [run, granted_arrived, fabric]
    exact arrived
  · rw [at', if_neg other]
    exact grantAll_clear (quiet i).2.1 (quiet i).2.2 8

/-! ## A flit for this module (R356, R366) -/

/-- The flits of the packet that have come with this one. -/
def comeSoFar (p : Port) (raw : Nat) : List Nat := if flitIdx raw = 0 then [raw] else (p.partials.toList[flitVc raw]?).getD [] ++ [raw]

/-- The packet, if this was its last flit. -/
def completed (p : Port) (raw : Nat) : List Message :=
  if (comeSoFar p raw).length = flitIdx raw + 1 ∧ flitIdx raw = flitLast raw then [readFlits (comeSoFar p raw)] else []

/-- The flits of the packet that are kept until the rest have come. -/
def keptPartial (p : Port) (raw : Nat) : List Nat :=
  if (comeSoFar p raw).length = flitIdx raw + 1 ∧ flitIdx raw = flitLast raw then [] else comeSoFar p raw

/-- The port once a flit of such a packet has joined the others. -/
def collecting (p : Port) (raw : Nat) : Port := { p with partials := vcSet p.partials (flitVc raw) (keptPartial p raw) }

/-- A state in which more packets have arrived. -/
def arriving (s : State) (l : List Message) : State := { s with fabric := { s.fabric with arrived := s.fabric.arrived ++ l } }

theorem collect_eq (q raw : Nat) (s : State) : collect q raw s = arriving (s.updPort q (fun _ => collecting (s.port q) raw)) (completed (s.port q) raw) := by
  have port : s.updPort q (fun p => { p with partials := vcSet p.partials (flitVc raw) (keptPartial (s.port q) raw) })
      = s.updPort q (fun _ => collecting (s.port q) raw) := updPort_congr rfl
  have parts : collect q raw s = if (comeSoFar (s.port q) raw).length = flitIdx raw + 1 ∧ flitIdx raw = flitLast raw
      then arriving (s.updPort q (fun p => { p with partials := vcSet p.partials (flitVc raw) (keptPartial (s.port q) raw) })) [readFlits (comeSoFar (s.port q) raw)]
      else s.updPort q (fun p => { p with partials := vcSet p.partials (flitVc raw) (keptPartial (s.port q) raw) }) := rfl
  rw [parts, port, completed]
  split
  · rfl
  · rw [arriving, List.append_nil]

end

open Sys2Proof.Claim

/-! ## Flits that stay here (R356, R366, R367) -/

/-- A state in which a flit has taken an input slot. -/
def slotTaken (q raw : Nat) (s : State) : State :=
  { s with fabric := { s.fabric with
      nextSlot := s.fabric.nextSlot + 1
      inSlots := tset s.fabric.inSlots s.fabric.nextSlot { port := q, vc := flitVc raw, rsv := raw.testBit 29, left := 1 } } }

/-- The slot that a flit takes. -/
def takenSlot (q raw : Nat) : InSlot := { port := q, vc := flitVc raw, rsv := raw.testBit 29, left := 1 }

section
variable {s : State} {q raw : Nat}

theorem forward_here (none : branches s.fabric q raw = []) : forward q raw s = freeSlot (some s.fabric.nextSlot) (collect q raw (slotTaken q raw s)) := by
  unfold forward
  dsimp only
  rw [none, List.isEmpty_nil, Bool.or_true, if_pos rfl, if_pos rfl]
  rfl

/-- A flit for this module joins its packet, and the grant of its slot is owed. -/
theorem forward_collected (none : branches s.fabric q raw = []) : ∃ slots, forward q raw s = (withSlots
    (arriving ((slotTaken q raw s).updPort q (fun _ => collecting (s.port q) raw)) (completed (s.port q) raw)) slots).updPort q (oweGrant (takenSlot q raw)) := by
  have port : (slotTaken q raw s).port q = s.port q := port_of_ports rfl q
  rw [forward_here none, collect_eq, port]
  exact ⟨_, freeSlot_last (e := takenSlot q raw) (find?_tset _ _ _) (by decide : ¬ 1 > 1)⟩

/-- A unicast flit whose route ends here, or a multicast one with no counts left, has no branch. -/
theorem branches_none (f : Fabric)
    (here : (raw.testBit 90 = false ∧ f.portTo (lowBits 13 (raw / 2 ^ 64)) = none) ∨ (raw.testBit 90 = true ∧ lowBits 15 (raw / 2 ^ 91) = 0)) : branches f q raw = [] := by
  unfold branches flitMc
  rcases here with ⟨single, route⟩ | ⟨many, counts⟩
  · rw [lowBits_div] at route
    rw [single, if_neg Bool.false_ne_true, route]
  · have zero (lo : Nat) (low : 91 ≤ lo) (high : lo + 5 ≤ 106) : bitsAt lo 5 raw = 0 := by
      refine Nat.eq_of_testBit_eq fun i => ?_
      rw [bitsAt_eq, Nat.testBit_mod_two_pow, Nat.testBit_div_two_pow, Nat.zero_testBit]
      by_cases inside : i < 5
      · have bit := congrArg (fun n => n.testBit (i + lo - 91)) counts
        rw [lowBits, Nat.testBit_mod_two_pow, Nat.testBit_div_two_pow, Nat.zero_testBit, decide_eq_true (by omega), Bool.true_and, Nat.sub_add_cancel (by omega)] at bit
        rw [bit, Bool.and_false]
      · rw [decide_eq_false inside, Bool.false_and]
    rw [many, if_pos rfl]
    dsimp only
    rw [zero 91 (by omega) (by omega), zero 96 (by omega) (by omega), zero 101 (by omega) (by omega)]
    rfl

/-- A flit for this module: it joins the others of its packet, and its slot's grant goes back at once. -/
theorem flit_here (valid : q < 6) (up : (s.port q).isUp = true) (quiet : Claim.Quiet s) (once : raw.testBit 24 = false) (sound : flitOk raw = true)
    (carries : raw.testBit 25 = false) (pool : raw.testBit 29 = false) (none : branches s.fabric q raw = []) :
    ∃ r, ((acceptFlit q raw s).port q).rxSeq = (s.port q).rxSeq + 1 ∧ ((acceptFlit q raw s).port q).rxf = (s.port q).rxf + 1
      ∧ ((acceptFlit q raw s).port q).replay = keptFlits (s.port q) raw ++ [r] ∧ r.testBit 25 = true ∧ lowBits 8 (r / 2 ^ 40) = 1 ∧ ((acceptFlit q raw s).port q).owePool = 0
      ∧ OtherPorts s (acceptFlit q raw s) q ∧ (acceptFlit q raw s).fabric.arrived = s.fabric.arrived ++ completed (s.port q) raw := by
  have run := acceptFlit_once (q := q) (s := s) once
  rw [if_neg (ne_false_of_eq_true sound), if_neg (by rw [carries]; exact Bool.false_ne_true)] at run
  have none' : branches (received q raw s).fabric q raw = [] := none
  obtain ⟨slots, collected⟩ := forward_collected none'
  have port : (received q raw s).port q = accepted (s.port q) raw := received_port valid
  rw [port] at collected
  have owes (p : Port) : oweGrant (takenSlot q raw) p = { p with owePool := p.owePool + 1 } := if_neg (by rw [takenSlot, pool]; exact Bool.false_ne_true)
  obtain ⟨empty, zero, reserve⟩ := quiet ⟨q, valid⟩
  rw [← port_eq] at empty zero reserve
  have ports (i : Fin 6) : (forward q raw (received q raw s)).fabric.ports[i] =
      if i.val = q then { collecting (accepted (s.port q) raw) raw with owePool := 1 } else s.fabric.ports[i] := by
    rw [collected, ports_updPort]
    refine if_ctx_congr Iff.rfl (fun here => ?_) fun other => ?_
    · refine (congrArg _ (ports_updPort (slotTaken q raw (received q raw s)) q _ i)).trans ?_
      rw [if_pos here, owes]
      exact congrArg (fun n : Nat => ({ collecting (accepted (s.port q) raw) raw with owePool := n } : Port)) (congrArg (· + 1) zero)
    · refine (ports_updPort (slotTaken q raw (received q raw s)) q _ i).trans ((if_neg other).trans ?_)
      exact (ports_received i).trans (if_neg other)
  have arrived : (forward q raw (received q raw s)).fabric.arrived = s.fabric.arrived ++ completed (accepted (s.port q) raw) raw := by
    rw [collected]
    rfl
  generalize forward q raw (received q raw s) = v at run ports arrived
  have pumped : acceptFlit q raw s = granted v := by
    rw [run]
    refine pump_empty fun i => ?_
    rw [ports]
    split
    · exact empty
    · exact (quiet i).1
  have at' (i : Fin 6) : (acceptFlit q raw s).fabric.ports[i] =
      (if i.val = q then { collecting (accepted (s.port q) raw) raw with owePool := 1 } else s.fabric.ports[i]).grantAll 8 := by rw [pumped, ports_granted, ports]
  have here := at' ⟨q, valid⟩
  rw [← port_eq, if_pos rfl, grantAll_one (n := 7) (by exact up) rfl (by exact reserve), stamp_eq] at here
  refine ⟨stampedFlit { collecting (accepted (s.port q) raw) raw with owePool := 1 } false nullFlit, ?_, ?_, ?_, ?_, ?_, ?_, fun i other => ?_, ?_⟩
  · rw [here]
    rfl
  · rw [here]
    rfl
  · rw [here, ← applyLink_replay]
    rfl
  · exact (stampedFlit_testBit _ _ _ (.inl (by omega))).trans nullFlit_testBit
  · exact stampedFlit_poolGrant _ _ _
  · rw [here]
    rfl
  · rw [at', if_neg other]
    exact grantAll_clear (quiet i).2.1 (quiet i).2.2 8
  · rw [pumped, granted_arrived, arrived]
    rfl

end

open Sys2Proof.Claim

/-! ## A flit that goes on (R361, R362, R366) -/

/-- A search that only one of the candidates answers. -/
theorem findSome?_only {α β : Type} {f : α → Option β} {l : List α} {v : α} {x : β} (mem : v ∈ l) (hit : f v = some x) (miss : ∀ w ∈ l, w ≠ v → f w = none) :
    l.findSome? f = some x := by
  induction l with
  | nil => exact absurd mem List.not_mem_nil
  | cons w rest ih =>
    rw [List.findSome?_cons]
    by_cases here : w = v
    · rw [here, hit]
    · rw [miss w List.mem_cons_self here]
      exact ih ((List.mem_cons.1 mem).resolve_left (Ne.symm here)) fun w within => miss w (List.mem_cons_of_mem _ within)

/-- Each channel has its turn. -/
theorem mem_turns {v : Nat} (valid : v < 8) (last : Nat) : v ∈ (List.range 8).map (fun i => (last + 1 + i) % 8) :=
  List.mem_map.2 ⟨(v + 8 - (last + 1) % 8) % 8, List.mem_range.2 (Nat.mod_lt _ (by decide)), by omega⟩

theorem flitVc_lt (raw : Nat) : flitVc raw < 8 := bitsAt_lt 26 3 raw

section
variable {p : Port} {c : Queued}

theorem heads_one (waits : p.outq = [c]) (v : Nat) : p.heads v = if flitVc c.raw = v then [c] else [] := by
  unfold Port.heads
  rw [waits]
  show (if _ then _ else _) = _
  refine if_congr ?_ rfl rfl
  rw [Bool.and_eq_true, beq_iff_eq]
  exact and_iff_left rfl

theorem noHolder {v : Nat} (free : p.holder = Vector.replicate 8 none) : (p.holder.toList[v]?).getD none = none := by
  rw [free, Vector.toList_replicate, List.getElem?_replicate]
  split <;> rfl

theorem candidate_one (s : State) (waits : p.outq = [c]) (free : p.holder = Vector.replicate 8 none) (v : Nat) :
    p.candidate s v = if flitVc c.raw = v then some c else none := by
  unfold Port.candidate
  rw [noHolder free, heads_one waits]
  dsimp only
  by_cases here : flitVc c.raw = v
  · rw [if_pos here, if_pos here]
    rfl
  · rw [if_neg here, if_neg here]
    rfl

/-- The port once the flit has left on a pool slot. -/
def sentOnPool (p : Port) (raw : Nat) : Port :=
  ({ p with pool := p.pool - 1, poolHeld := vcSet p.poolHeld (flitVc raw) ((p.poolHeld.toList[flitVc raw]?).getD 0 + 1) } : Port).stamp false (putBits 29 1 0 raw)

theorem trySend_pool {raw : Nat} (pool : 0 < p.pool) (held : (p.poolHeld.toList[flitVc raw]?).getD 0 < 128) : p.trySend raw = some (sentOnPool p raw) := if_pos ⟨pool, held⟩

/-- The only flit that waits leaves on a pool slot. -/
theorem sendOne_one (s : State) (waits : p.outq = [c]) (free : p.holder = Vector.replicate 8 none) (pool : 0 < p.pool)
    (held : (p.poolHeld.toList[flitVc c.raw]?).getD 0 < 128) : ∃ lastVc holder, p.sendOne s = some (c, { sentOnPool p c.raw with outq := [], lastVc := lastVc, holder := holder }) := by
  refine ⟨flitVc c.raw, vcSet (sentOnPool p c.raw).holder (flitVc c.raw) (if flitIdx c.raw = flitLast c.raw then none else some c.source), ?_⟩
  unfold Port.sendOne
  refine findSome?_only (mem_turns (flitVc_lt c.raw) p.lastVc) ?_ fun w _ other => ?_
  · rw [candidate_one s waits free, if_pos rfl]
    dsimp only
    rw [trySend_pool pool held]
    dsimp only
    have alone : (decide (((p.heads (flitVc c.raw)).map (fun d => shareOf s d.raw)).eraseDups.length > 1) && flitIdx c.raw == 0) = false := by
      rw [heads_one waits, if_pos rfl]
      rfl
    have gone : (sentOnPool p c.raw).outq.erase c = [] := by
      show p.outq.erase c = []
      rw [waits, List.erase_cons_head]
    rw [alone, gone, if_neg Bool.false_ne_true]
  · rw [candidate_one s waits free, if_neg (Ne.symm other)]

end

section
variable {s : State} {q k raw : Nat}

/-- A branch through port `k`, by direction (R361). -/
def crossesHere (f : Fabric) (k : Nat) : Bool :=
  let d := [f.dims.1, f.dims.2.1, f.dims.2.2].getD (k / 2) 0
  let cur := [f.coords.1, f.coords.2.1, f.coords.2.2].getD (k / 2) 0
  if k % 2 = 0 then decide (cur + 1 = d) else decide (cur = 0)

/-- The flit as it leaves by a branch: only the dateline bit may change. -/
def branchFlit (f : Fabric) (q k raw : Nat) : Nat := putBits 26 1 (if crossesHere f k then 1 else if k / 2 = q / 2 then bitsAt 26 1 raw else 0) raw

theorem branchOut_eq (f : Fabric) (valid : k < 6) : branchOut f q k raw = (k, branchFlit f q k raw) := by
  have third : k / 2 = 0 ∨ k / 2 = 1 ∨ k / 2 = 2 := by omega
  unfold branchOut branchFlit crossesHere
  rcases third with axis | axis | axis
  all_goals
    rw [axis]
    dsimp only [List.getD_cons_zero, List.getD_cons_succ]
    split <;> rfl

end

open Sys2Proof.Claim

/-! ## A flit on its way through (R361, R362, R366, R367) -/

section
variable {s : State} {q k raw : Nat}

/-- The flit as it waits at the port it leaves by. -/
def queuedFlit (f : Fabric) (q k raw : Nat) : Queued := { raw := branchFlit f q k raw, source := 8 * q + flitVc raw, slot := some f.nextSlot }

theorem branches_one (f : Fabric) (valid : k < 6) (single : raw.testBit 90 = false) (route : f.portTo (lowBits 13 (raw / 2 ^ 64)) = some k) :
    branches f q raw = [(k, branchFlit f q k raw)] := by
  rw [lowBits_div] at route
  unfold branches flitMc
  rw [single, if_neg Bool.false_ne_true, route]
  exact congrArg (fun b => [b]) (branchOut_eq f valid)

theorem forward_on (up : (s.port k).isUp = true) (single : raw.testBit 90 = false) (one : branches s.fabric q raw = [(k, branchFlit s.fabric q k raw)]) :
    forward q raw s = (slotTaken q raw s).updPort k (fun p => { p with outq := p.outq ++ [queuedFlit s.fabric q k raw] }) := by
  have carries : ((slotTaken q raw s).port k).st ≠ 0 := fun off => by
    have down := isUp_of_down off
    rw [show (slotTaken q raw s).port k = s.port k from port_of_ports rfl k, up] at down
    exact Bool.false_ne_true down.symm
  unfold forward flitMc
  dsimp only
  rw [one, single]
  exact if_neg carries

theorem bitsAt_channel (x : Nat) : bitsAt 26 3 x = 2 * bitsAt 27 2 x + bitsAt 26 1 x := by
  rw [bitsAt_eq, bitsAt_eq, bitsAt_eq, show 2 ^ 27 = 2 ^ 26 * 2 from rfl, ← Nat.div_div_eq_div_mul]
  omega

/-- A branch keeps the class of its virtual channel. -/
theorem flitVc_branch (f : Fabric) (q k raw : Nat) :
    flitVc (branchFlit f q k raw) = lowBits 2 (raw / 2 ^ 27) * 2 ∨ flitVc (branchFlit f q k raw) = lowBits 2 (raw / 2 ^ 27) * 2 + 1 := by
  have bit : bitsAt 26 1 (branchFlit f q k raw) < 2 := bitsAt_lt 26 1 _
  have cls : bitsAt 27 2 (branchFlit f q k raw) = bitsAt 27 2 raw := bitsAt_putBits_apart (.inr (by omega)) _ _
  rw [flitVc, bitsAt_channel, cls, lowBits_div]
  omega

theorem testBit_branch (f : Fabric) (q k raw : Nat) : (branchFlit f q k raw).testBit 26 = (crossesHere f k || (decide (k / 2 = q / 2) && raw.testBit 26)) := by
  have old : (bitsAt 26 1 raw).testBit 0 = raw.testBit 26 := by
    rw [bitsAt_eq, Nat.testBit_mod_two_pow, Nat.testBit_div_two_pow]
    rfl
  rw [branchFlit, testBit_putBits, if_pos (by omega), Nat.sub_self]
  cases crossesHere f k with
  | true =>
    rw [if_pos rfl, Bool.true_or]
    rfl
  | false =>
    rw [if_neg Bool.false_ne_true, Bool.false_or]
    by_cases along : k / 2 = q / 2
    · rw [if_pos along, decide_eq_true along, Bool.true_and, old]
    · rw [if_neg along, decide_eq_false along, Bool.false_and]
      rfl

/-- The bits of a flit that no link field, dateline or slot kind holds go on as they came. -/
theorem testBit_onward (p : Port) (f : Fabric) (pool : raw.testBit 29 = false) {i : Nat} (apart : (25 ≤ i ∧ i < 160 ∧ i ≠ 26 ∧ ¬ (32 ≤ i ∧ i < 48)) ∨ 192 ≤ i) :
    (stampedFlit p false (putBits 29 1 0 (branchFlit f q k raw))).testBit i = raw.testBit i := by
  have plain : (branchFlit f q k raw).testBit i = raw.testBit i := testBit_putBits_apart (by omega) _ _
  rw [stampedFlit_testBit _ _ _ (by omega), testBit_putBits]
  split
  · next here =>
    obtain rfl : i = 29 := by omega
    rw [pool, Nat.zero_testBit]
  · exact plain

/-- One flit waits: it leaves, and the grant of its slot goes back. -/
theorem pump_forwarded (valid' : k < 6) {c : Queued} {n j : Nat} (waits : (s.port k).outq = [c]) (up : (s.port k).isUp = true)
    (room : 0 < (s.port k).pool) (free : (s.port k).holder = Vector.replicate 8 none) (held : ((s.port k).poolHeld.toList[flitVc c.raw]?).getD 0 < 128)
    (others : ∀ i : Fin 6, i.val ≠ k → (s.fabric.ports[i]).outq = []) (through : c.source < 48) (slot : c.slot = some n)
    (found : s.fabric.inSlots.find? (fun x => x.1 == n) = some (j, takenSlot q raw)) :
    ∃ slots lastVc holder, s.pump = granted ((withSlots (s.updPort k (fun _ => { sentOnPool (s.port k) c.raw with outq := [], lastVc := lastVc, holder := holder })) slots).updPort q
      (oweGrant (takenSlot q raw))) := by
  obtain ⟨lastVc, holder, sends⟩ := sendOne_one s waits free room held
  generalize gone : ({ sentOnPool (s.port k) c.raw with outq := [], lastVc := lastVc, holder := holder } : Port) = p at sends
  have none : p.outq = [] := gone ▸ rfl
  refine ⟨tdel s.fabric.inSlots n, lastVc, holder, ?_⟩
  rw [gone]
  refine pump_one valid' others ?_ fun i away => ?_
  · rw [waits]
    show Machine.pumpPort k 1 s = _
    unfold Machine.pumpPort
    rw [up, sends]
    show Machine.pumpPort k 0 (Machine.markLeft k c (Machine.freeSlot c.slot (s.updPort k (fun _ => p)))) = _
    rw [slot, freeSlot_last (s := s.updPort k (fun _ => p)) found (by decide : ¬ 1 > 1)]
    exact if_pos (by rw [decide_eq_true through]; rfl)
  · rw [ports_updPort]
    have before : ((s.updPort k (fun _ => p)).fabric.ports[i]).outq = [] := by
      rw [ports_updPort, if_neg away]
      exact others i away
    split
    · exact (outq_oweGrant _ _).trans before
    · exact before

/-- A flit for another module leaves by the port its route begins with, on a pool slot, and its own slot's grant goes back at once. -/
theorem flit_onward (valid : q < 6) (up : (s.port q).isUp = true) (quiet : Claim.Quiet s) (once : raw.testBit 24 = false) (sound : flitOk raw = true)
    (carries : raw.testBit 25 = false) (pool : raw.testBit 29 = false) (single : raw.testBit 90 = false) (route : s.fabric.portTo (lowBits 13 (raw / 2 ^ 64)) = some k)
    (valid' : k < 6) (other : k ≠ q) (up' : (s.port k).isUp = true) (room : 0 < (s.port k).pool) (free : (s.port k).holder = Vector.replicate 8 none)
    (odd : (s.port k).poolHeld.toList.getD (lowBits 2 (raw / 2 ^ 27) * 2 + 1) 0 < 128) (even : (s.port k).poolHeld.toList.getD (lowBits 2 (raw / 2 ^ 27) * 2) 0 < 128) :
    ∃ p, ((acceptFlit q raw s).port q).rxSeq = (s.port q).rxSeq + 1 ∧ ((acceptFlit q raw s).port q).owePool = 0
      ∧ Sends (s.port k) ((acceptFlit q raw s).port k) (stampedFlit p false (putBits 29 1 0 (branchFlit s.fabric q k raw)))
      ∧ ((acceptFlit q raw s).port k).pool + 1 = (s.port k).pool ∧ (acceptFlit q raw s).fabric.arrived = s.fabric.arrived
      ∧ ∀ i : Fin 6, i.val ≠ q → i.val ≠ k → (acceptFlit q raw s).fabric.ports[i] = s.fabric.ports[i] := by
  have run := acceptFlit_once (q := q) (s := s) once
  rw [if_neg (ne_false_of_eq_true sound), if_neg (by rw [carries]; exact Bool.false_ne_true)] at run
  have still : (received q raw s).port k = s.port k := port_updPort_ne other s _
  have one : branches (received q raw s).fabric q raw = [(k, branchFlit (received q raw s).fabric q k raw)] := branches_one _ valid' single route
  have queued := forward_on (s := received q raw s) (by rw [still]; exact up') single one
  obtain ⟨empty, zero, reserve⟩ := quiet ⟨q, valid⟩
  obtain ⟨empty', zero', reserve'⟩ := quiet ⟨k, valid'⟩
  rw [← port_eq] at empty zero reserve empty' zero' reserve'
  dsimp only at empty zero reserve empty' zero' reserve'
  have base (i : Fin 6) : (slotTaken q raw (received q raw s)).fabric.ports[i] = if i.val = q then accepted (s.port q) raw else s.fabric.ports[i] := ports_received i
  generalize waits : queuedFlit (received q raw s).fabric q k raw = c at queued
  have flit : c.raw = branchFlit s.fabric q k raw := waits ▸ rfl
  have source : c.source < 48 := by
    have channel := flitVc_lt raw
    rw [← waits]
    show 8 * q + flitVc raw < 48
    omega
  have portK : (forward q raw (received q raw s)).port k = { s.port k with outq := [c] } := by
    rw [queued, port_updPort_same valid', show (slotTaken q raw (received q raw s)).port k = s.port k from still, empty', List.nil_append]
  have ports (i : Fin 6) (away : i.val ≠ k) : (forward q raw (received q raw s)).fabric.ports[i] = if i.val = q then accepted (s.port q) raw else s.fabric.ports[i] := by
    rw [queued, ports_updPort, if_neg away, base]
  have channels : ((s.port k).poolHeld.toList[flitVc (branchFlit s.fabric q k raw)]?).getD 0 < 128 := by
    rw [← List.getD_eq_getElem?_getD]
    rcases flitVc_branch s.fabric q k raw with first | second
    · rwa [first]
    · rwa [second]
  have arrived : (forward q raw (received q raw s)).fabric.arrived = s.fabric.arrived := by
    rw [queued]
    rfl
  have found : (forward q raw (received q raw s)).fabric.inSlots.find? (fun x => x.1 == (received q raw s).fabric.nextSlot) =
      some ((received q raw s).fabric.nextSlot, takenSlot q raw) := by
    rw [queued]
    exact find?_tset _ _ _
  generalize forward q raw (received q raw s) = v at run portK ports found arrived
  obtain ⟨slots, lastVc, holder, pumped⟩ := pump_forwarded (s := v) (q := q) (raw := raw) valid' (c := c) (by rw [portK]) (by rw [portK]; exact up') (by rw [portK]; exact room)
    (by rw [portK]; exact free) (by rw [portK, flit]; exact channels) (fun i away => by rw [ports i away]; split; exacts [empty, (quiet i).1]) source (waits ▸ rfl) found
  rw [portK, flit] at pumped
  have owes (p : Port) : oweGrant (takenSlot q raw) p = { p with owePool := p.owePool + 1 } := if_neg (by rw [takenSlot, pool]; exact Bool.false_ne_true)
  generalize sentPort : ({ sentOnPool { s.port k with outq := [c] } (branchFlit s.fabric q k raw) with outq := [], lastVc := lastVc, holder := holder } : Port) = p' at pumped
  have at' (i : Fin 6) : (acceptFlit q raw s).fabric.ports[i] =
      (if i.val = q then { accepted (s.port q) raw with owePool := 1 } else if i.val = k then p' else s.fabric.ports[i]).grantAll 8 := by
    rw [run, pumped, ports_granted, ports_updPort]
    refine congrArg (Port.grantAll 8) (if_ctx_congr Iff.rfl (fun here => ?_) fun away => ?_)
    · rw [owes]
      refine congrArg (fun p : Port => { p with owePool := p.owePool + 1 }) ((ports_updPort v k _ i).trans ((if_neg (here ▸ Ne.symm other)).trans ((ports i (here ▸ Ne.symm other)).trans (if_pos here)))) |>.trans ?_
      exact congrArg (fun n : Nat => ({ accepted (s.port q) raw with owePool := n } : Port)) (congrArg (· + 1) zero)
    · refine (ports_updPort v k _ i).trans (if_ctx_congr Iff.rfl (fun _ => rfl) fun away' => ?_)
      rw [ports i away', if_neg away]
  have portQ : (acceptFlit q raw s).port q = _ := (port_eq _ ⟨q, valid⟩).trans ((at' ⟨q, valid⟩).trans (congrArg (Port.grantAll 8) (if_pos rfl)))
  rw [grantAll_one (n := 7) (by exact up) rfl (by exact reserve), stamp_eq] at portQ
  have portK' : (acceptFlit q raw s).port k = p'.grantAll 8 :=
    (port_eq _ ⟨k, valid'⟩).trans ((at' ⟨k, valid'⟩).trans (congrArg (Port.grantAll 8) ((if_neg other).trans (if_pos rfl))))
  have calm : p'.owePool = 0 ∧ p'.oweReserve = Vector.replicate 8 0 := by
    rw [← sentPort]
    refine ⟨?_, ?_⟩
    · show (s.port k).owePool - min 192 (s.port k).owePool = 0
      omega
    · show (s.port k).oweReserve.map (· - 1) = _
      rw [reserve', Vector.map_replicate]
  rw [grantAll_clear calm.1 calm.2] at portK'
  refine ⟨{ s.port k with pool := (s.port k).pool - 1 }, ?_, ?_, ?_, ?_, ?_, fun i away away' => ?_⟩
  · rw [portQ]
    rfl
  · rw [portQ]
    rfl
  · rw [portK', ← sentPort]
    exact sends_stamp { s.port k with pool := (s.port k).pool - 1 } false (putBits 29 1 0 (branchFlit s.fabric q k raw))
  · rw [portK', ← sentPort]
    show (s.port k).pool - 1 + 1 = _
    omega
  · rw [run, pumped, granted_arrived]
    exact arrived
  · rw [at', if_neg away, if_neg away']
    exact grantAll_clear (quiet i).2.1 (quiet i).2.2 8

end

open Sys2Proof.Claim

/-! ## Training a link (R363) -/

theorem isUp_iff (p : Port) : p.isUp = true ↔ p.st = 1 ∨ p.st = 2 := by rw [Port.isUp, Bool.or_eq_true, beq_iff_eq, beq_iff_eq]

section
variable {s : State} {q : Nat}

theorem retrain_eq (valid : q < 6) (lost : Bool) : exec (.linkRetrain q lost) s = .next (
    if ((s.port q).st = 1 ∨ (s.port q).st = 2) ∧ (lost = true ∨ 64 ≤ (s.port q).badRun) then s.updPort q (fun p => { p with st := 3, rtn := p.rtn + 1 }) else s) := by
  show Host.Outcome.next (if _ then _ else _) = _
  refine congrArg Host.Outcome.next (if_congr ?_ rfl rfl)
  rw [Bool.and_eq_true, Bool.and_eq_true, decide_eq_true_eq, isUp_iff, Bool.or_eq_true, decide_eq_true_eq]
  exact and_congr_left' (and_iff_right valid)

/-- A port whose link has trained sends again what was not acknowledged. -/
def resent (lanes : Nat) (p : Port) : Port :=
  { p with st := if lanes ≥ 16 then 1 else 2, badRun := 0, awaiting := false, rpl := p.rpl + BitVec.ofNat 64 p.replay.length, wire := p.wire ++ p.replay }

/-- Where everything had been acknowledged, the credits start afresh. -/
def trained (lanes : Nat) (p : Port) : Port :=
  if p.replay.length = 0 then
    { resent lanes p with reserve := Vector.replicate 8 4, pool := 192, poolHeld := Vector.replicate 8 0, oweReserve := Vector.replicate 8 0, owePool := 0 }
  else resent lanes p

theorem trained_fresh {p : Port} (none : p.replay = []) (lanes : Nat) : trained lanes p =
    { p with
        st := if lanes ≥ 16 then 1 else 2, badRun := 0, awaiting := false, reserve := Vector.replicate 8 4, pool := 192, poolHeld := Vector.replicate 8 0
        oweReserve := Vector.replicate 8 0, owePool := 0 } := by
  rw [trained, if_pos (List.length_eq_zero_iff.2 none), resent, none, List.length_nil, List.append_nil, BitVec.add_zero]

theorem trained_eq (valid : q < 6) (training : (s.port q).st = 3) {lanes : Nat} (enough : 8 ≤ lanes) :
    exec (.linkTrained q lanes) s = .next (countReplays q (s.port q).replay.length (s.updPort q (fun _ => trained lanes (s.port q))).pump) := by
  show Host.Outcome.next (if _ then _ else _) = _
  refine congrArg Host.Outcome.next ((if_neg ?_).trans rfl)
  rw [training, decide_eq_false (by omega), decide_eq_false (by omega)]
  exact Bool.false_ne_true

theorem untrained {lanes : Nat} (idle : (s.port q).st ≠ 3 ∨ lanes < 8) : exec (.linkTrained q lanes) s = .next s := by
  show Host.Outcome.next (if _ then _ else _) = _
  refine congrArg Host.Outcome.next (if_pos ?_)
  rw [Bool.or_eq_true, Bool.or_eq_true, bne_iff_ne, decide_eq_true_eq, decide_eq_true_eq, or_assoc]
  exact .inr idle

theorem trained_quiet (lanes : Nat) {p : Port} (quiet : p.outq = [] ∧ p.owePool = 0 ∧ p.oweReserve = Vector.replicate 8 0) :
    (trained lanes p).outq = [] ∧ (trained lanes p).owePool = 0 ∧ (trained lanes p).oweReserve = Vector.replicate 8 0 := by
  by_cases none : p.replay.length = 0
  · rw [trained, if_pos none]
    exact ⟨quiet.1, rfl, rfl⟩
  · rw [trained, if_neg none]
    exact quiet

/-- One port of a quiet state changes and stays quiet: nothing is sent. -/
theorem pump_updPort {p : Port} (quiet : Claim.Quiet s) (calm : p.outq = [] ∧ p.owePool = 0 ∧ p.oweReserve = Vector.replicate 8 0) :
    (s.updPort q (fun _ => p)).pump = s.updPort q (fun _ => p) := by
  refine pump_quiet fun i => ?_
  rw [ports_updPort]
  split
  · exact calm
  · exact quiet i

theorem trained_run (valid : q < 6) (quiet : Claim.Quiet s) (training : (s.port q).st = 3) {lanes : Nat} (enough : 8 ≤ lanes) :
    exec (.linkTrained q lanes) s = .next (countReplays q (s.port q).replay.length (s.updPort q (fun _ => trained lanes (s.port q)))) := by
  have calm := quiet ⟨q, valid⟩
  rw [← port_eq] at calm
  rw [trained_eq valid training enough, pump_updPort quiet (trained_quiet lanes calm)]

/-! ## A port that goes down (R363) -/

/-- A port that is down: nothing of what it held is left. -/
def downed (p : Port) : Port := { p with st := 0, outq := [], replay := [], holder := Vector.replicate 8 none }

/-- The flits that waited at a port are lost, and their input slots free. -/
def loseFlits (q : Nat) (l : List Queued) (s : State) : State := l.foldl (fun s c => markLeft q c (freeSlot c.slot s)) s

theorem portDown_eq (valid : q < 6) (training : (s.port q).st = 3) :
    exec (.portDown q) s = .next (fabricEvent q (loseFlits q (s.port q).outq (s.updPort q downed)).pump) := by
  show Host.Outcome.next (if _ then _ else _) = _
  refine congrArg Host.Outcome.next (if_pos ?_)
  rw [training, decide_eq_true valid]
  rfl

theorem portDown_idle (idle : (s.port q).st ≠ 3) : exec (.portDown q) s = .next s := by
  show Host.Outcome.next (if _ then _ else _) = _
  refine congrArg Host.Outcome.next (if_neg ?_)
  rw [Bool.and_eq_true, beq_iff_eq]
  exact fun both => idle both.2

theorem downPort_pumped (valid : q < 6) (s : State) : DownPort q s (loseFlits q (s.port q).outq (s.updPort q downed)).pump := by
  have start : DownPort q s (s.updPort q downed) := by
    have at' := port_updPort_same valid s downed
    exact ⟨by rw [at']; rfl, by rw [at']; rfl, by rw [at']; rfl, rfl, rfl⟩
  exact DownPort.pump valid (foldl_inv (DownPort q s) (fun v c h => (h.freeSlot valid c.slot).markLeft q c) start _)

theorem fabricEvent_port (k : Nat) (s : State) : (fabricEvent q s).port k = s.port k :=
  port_of_ports ((congrArg (·.fabric.ports) (fabricEvent_only q s)).trans rfl) k

/-- A port of a quiet state goes down: it alone changes, beside what the partitions hear. -/
theorem portDown_quiet (valid : q < 6) (quiet : Claim.Quiet s) : (loseFlits q (s.port q).outq (s.updPort q downed)).pump = s.updPort q downed := by
  have calm := quiet ⟨q, valid⟩
  rw [← port_eq] at calm
  rw [calm.1, show s.updPort q downed = s.updPort q (fun _ => downed (s.port q)) from updPort_congr rfl]
  exact pump_updPort quiet ⟨rfl, calm.2⟩

end

/-! ## Routes (R354, R361) -/

/-- A ring is crossed by the shorter way, the positive one when equal. -/
theorem ringStep_eq {d cur dst : Nat} (inside : cur < d) (target : dst < d) : ringStep d cur dst =
    if dst ≠ cur then some (decide ((dst + d - cur) % d ≤ (cur + d - dst) % d)) else none := by
  unfold ringStep
  dsimp only
  by_cases same : dst = cur
  · subst same
    rw [if_neg (not_not_intro rfl), Nat.add_sub_cancel_left, Nat.mod_self]
    exact if_pos (by simp)
  · have ahead : (dst + d - cur) % d ≠ 0 ∧ (cur + d - dst) % d = d - (dst + d - cur) % d := by
      by_cases before : dst < cur
      · rw [Nat.mod_eq_of_lt (by omega : dst + d - cur < d), show cur + d - dst = (cur - dst) + d by omega, Nat.add_mod_right, Nat.mod_eq_of_lt (by omega)]
        omega
      · rw [Nat.mod_eq_of_lt (by omega : cur + d - dst < d), show dst + d - cur = (dst - cur) + d by omega, Nat.add_mod_right, Nat.mod_eq_of_lt (by omega)]
        omega
    rw [if_pos same, ahead.2]
    refine if_neg ?_
    rw [Bool.or_eq_true, decide_eq_true_eq, decide_eq_true_eq]
    omega

theorem portTo_eq {f : Fabric} {dst : Nat} (x : f.coords.1 < f.dims.1) (y : f.coords.2.1 < f.dims.2.1) (z : f.coords.2.2 < f.dims.2.2) (inside : dst < f.dims.1 * f.dims.2.1 * f.dims.2.2) :
    let way (d cur to' : Nat) (port : Nat) : Nat := if (to' + d - cur) % d ≤ (cur + d - to') % d then port else port + 1
    f.portTo dst = if (f.coordsOf dst).1 ≠ f.coords.1 then some (way f.dims.1 f.coords.1 (f.coordsOf dst).1 0)
      else if (f.coordsOf dst).2.1 ≠ f.coords.2.1 then some (way f.dims.2.1 f.coords.2.1 (f.coordsOf dst).2.1 2)
      else if (f.coordsOf dst).2.2 ≠ f.coords.2.2 then some (way f.dims.2.2 f.coords.2.2 (f.coordsOf dst).2.2 4) else none := by
  intro way
  have stepX := ringStep_eq (dst := (f.coordsOf dst).1) x (Nat.mod_lt dst (by omega))
  have stepY := ringStep_eq (dst := (f.coordsOf dst).2.1) y (Nat.mod_lt _ (by omega))
  have stepZ := ringStep_eq (dst := (f.coordsOf dst).2.2) z (Nat.div_lt_of_lt_mul inside)
  unfold Fabric.portTo
  dsimp only
  rw [stepX, stepY, stepZ]
  split_ifs <;> simp [way]

open Sys2Proof.Claim

/-! ## The link layer: O53 -/

theorem quiet_port {s : State} {q : Nat} (valid : q < 6) (quiet : Claim.Quiet s) :
    (s.port q).outq = [] ∧ (s.port q).owePool = 0 ∧ (s.port q).oweReserve = Vector.replicate 8 0 := by
  have calm := quiet ⟨q, valid⟩
  rwa [← port_eq] at calm

theorem completed_eq (p : Port) (raw : Nat) :
    completed p raw =
      (let l := if lowBits 5 (raw / 2 ^ 146) = 0 then [raw] else p.partials.toList.getD (lowBits 3 (raw / 2 ^ 26)) [] ++ [raw]
       if l.length = lowBits 5 (raw / 2 ^ 146) + 1 ∧ lowBits 5 (raw / 2 ^ 146) = lowBits 5 (raw / 2 ^ 151) then [readFlits l] else []) := by
  have come : comeSoFar p raw = if lowBits 5 (raw / 2 ^ 146) = 0 then [raw] else p.partials.toList.getD (lowBits 3 (raw / 2 ^ 26)) [] ++ [raw] := by
    rw [comeSoFar, List.getD_eq_getElem?_getD, lowBits_div, lowBits_div]
    rfl
  rw [← come]
  simp only [lowBits_div]
  rfl

theorem linkLayer : Claim.LinkLayer := by
  refine ⟨fun s q raw valid up => ?flit, fun s q lost valid => ?train, fun f dst => ?route⟩
  case flit =>
    intro p seq good acked pg dst idx vc kept
    have isGood : goodFlit raw = true ↔ good := goodFlit_iff raw
    refine ⟨fun bad => ?_, fun sound other old => flit_discarded valid up (isGood.2 sound) other old, fun sound next once quiet => ?_⟩
    · have broken : goodFlit raw = false ∨ _ := bad.imp_left fun wrong => Bool.eq_false_iff.2 (mt isGood.1 wrong)
      have run := flit_refused valid up broken
      have port : (s.updPort q replayAsked).port q = replayAsked p := port_updPort_same valid s _
      refine ⟨_, stampedFlit { p with awaiting := true, badRun := p.badRun + 1 } true nullFlit, run, onlyPort_updPort s q _, ?_, stampedFlit_request _ _ _,
        (stampedFlit_testBit _ _ _ (.inl (by omega))).trans nullFlit_testBit, ?_, ?_, ?_, ?_, ?_, ?_⟩
      all_goals rw [port]
      · exact sends_stamp { p with awaiting := true, badRun := p.badRun + 1 } true nullFlit
      all_goals rfl
    · have run := flit_accepted valid up (isGood.2 sound) next
      refine ⟨fun broken => ⟨_, run, flit_broken valid quiet once broken⟩, fun ok null => ?_, fun ok carries pool => ⟨fun here => ?_, fun k single route other up' room free odd even => ?_⟩⟩
      · rw [flit_null quiet once ok null] at run
        have port : (received q raw s).port q = accepted p raw := received_port valid
        refine ⟨_, run, onlyPort_updPort s q _, ?_, ?_⟩
        · rw [port]
          exact accepted_once once
        · rw [port]
          exact applyLink_poolHeld p raw
      · obtain ⟨r, rxSeq, rxf, replay, null, grant, owes, others, arrived⟩ := flit_here valid up quiet once ok carries pool (branches_none s.fabric here)
        exact ⟨_, r, run, rxSeq, rxf, replay, null, grant, owes, others, arrived.trans (congrArg _ (completed_eq p raw))⟩
      · have valid' : k < 6 := by
          by_contra out
          have none : s.port k = Port.init := by
            unfold State.port
            rw [List.getElem?_eq_none (by rw [Vector.length_toList]; omega)]
            rfl
          rw [none] at up'
          exact absurd up' (by decide)
        obtain ⟨p', rxSeq, owes, sends, less, arrived, others⟩ := flit_onward valid up quiet once ok carries pool single route valid' other up' room free odd even
        exact ⟨_, _, run, rxSeq, owes, sends, less, fun i apart => testBit_onward p' s.fabric pool apart,
          ((stampedFlit_testBit _ _ _ (.inl (by omega))).trans (testBit_putBits_apart (.inl (by omega)) _ _)).trans (testBit_branch s.fabric q k raw), arrived, others⟩
  case train =>
    intro p up only
    have retrain := retrain_eq (s := s) valid lost
    refine ⟨fun both => ⟨_, retrain.trans (congrArg _ (if_pos both)), onlyPort_updPort s q _, port_updPort_same valid s _⟩, fun not => retrain.trans (congrArg _ (if_neg not)),
      fun lanes enough training quiet => ?_, fun idle => ⟨fun lanes => untrained (.inl idle), portDown_idle idle⟩, fun lanes few => untrained (.inr few), fun training => ⟨?_, fun quiet => ?_⟩⟩
    · intro st
      have run := trained_run valid quiet training enough
      have port : (s.updPort q (fun _ => trained lanes p)).port q = trained lanes p := port_updPort_same valid s _
      refine ⟨fun none => ⟨_, run.trans (congrArg _ (if_pos (congrArg List.length none))), onlyPort_updPort s q _, ?_⟩, fun some' => ⟨_, run.trans (congrArg _ (if_neg ?_)),
        onlyPort_updPort s q _, ?_⟩⟩
      · rw [port]
        exact trained_fresh none lanes
      · exact mt List.length_eq_zero_iff.1 some'
      · rw [port, trained, if_neg (mt List.length_eq_zero_iff.1 some')]
        rfl
    · have down := downPort_pumped valid s
      refine ⟨_, portDown_eq valid training, ?_, ?_, ?_, fabricEvent_event valid down.parts down.dtag⟩
      all_goals rw [fabricEvent_port]
      exacts [down.st, down.outq, down.replay]
    · have run := portDown_eq valid training
      rw [portDown_quiet valid quiet] at run
      have fabric : (fabricEvent q (s.updPort q downed)).fabric = (s.updPort q downed).fabric := (congrArg State.fabric (fabricEvent_only q _)).trans rfl
      refine ⟨_, run, ?_, fabricEvent_event valid rfl rfl, fun i other => ?_, ?_⟩
      · rw [fabricEvent_port]
        exact port_updPort_same valid s _
      · rw [fabric]
        exact otherPorts_updPort s q _ i other
      · rw [fabric]
        exact fabricEvent_only q _
  case route => exact fun x y z inside => portTo_eq x y z inside

open Sys2Proof.Claim

/-! ## Answers to those who asked (R256, R359, R364) -/

/-- A request is no longer in flight. -/
def dropFlight (tag : BitVec 14) (s : State) : State := { s with fabric := { s.fabric with flights := s.fabric.flights.filter (fun g => g.tag ≠ tag) } }

theorem dropFlight_eq (tag : BitVec 14) (s : State) :
    ({ s with fabric := { s.fabric with flights := s.fabric.flights.filter (fun g => g.tag != tag) } } : State) = dropFlight tag s := by
  have same : s.fabric.flights.filter (fun g => g.tag != tag) = s.fabric.flights.filter (fun g => g.tag ≠ tag) :=
    List.filter_congr fun g _ => by rw [bne, decide_not]; rfl
  rw [same]
  rfl

theorem filter_tags (l : List (BitVec 14)) (tag : BitVec 14) : l.filter (· != tag) = l.filter (· ≠ tag) := List.filter_congr fun x _ => by rw [bne, decide_not]; rfl

/-- What answering a flight leaves, for each that may have sent it. -/
def Gives (tag : BitVec 14) (s : State) (f : Flight) (ans : List (Nat × Answer)) (u : State) : Prop :=
  (∀ h r, f.who = .hart h → s.hart.id = h → s.hart.run ≠ .absent → s.hart.remote = some r → tag ∈ r.openTags → (∀ x ∈ tget [] s.posted h.toNat, tag ∉ x.req.openTags) →
    u = (dropFlight tag s).withHart { s.hart with
      remote := some { openTags := r.openTags.filter (· ≠ tag), answers := r.answers ++ ans },
      run := if s.hart.run = .asleep .remote ∧ r.openTags.filter (· ≠ tag) = [] then .ready else s.hart.run })
  ∧ (∀ h x, f.who = .hart h → Current s h → s.hart.remote = none → tget [] s.posted h.toNat = [x] → x.req.openTags = [tag] → x.req.answers = [] →
    let failed := ∃ a ∈ ans, ∀ v b, a.2 ≠ .good v b
    tget [] u.posted h.toNat = []
    ∧ (¬ failed → u = { dropFlight tag s with posted := u.posted })
    ∧ (failed → u = trappedHere 0x0D x.addr (({ dropFlight tag s with posted := u.posted } : State).withHart { x.before with
        run := .ready, stalled := false, fetched := none, stores := s.hart.stores, cycle := s.hart.cycle, haltAsked := s.hart.haltAsked,
        swapping := s.hart.swapping, debugWrites := s.hart.debugWrites })))
  ∧ ∀ key r, f.who = .engine key ∨ (1024 ≤ key ∧ f.who = .context (key - 1024)) → s.awaits = [(key, r)] → tag ∈ r.openTags →
    u = { dropFlight tag s with awaits := [(key, { openTags := r.openTags.filter (· ≠ tag), answers := r.answers ++ ans })] }

section
variable {s : State} {tag : BitVec 14} {f : Flight} {ans : List (Nat × Answer)}

/-- What a request in progress is once a response has come. -/
def answeredOp (tag : BitVec 14) (ans : List (Nat × Answer)) (r : RemoteOp) : RemoteOp := { openTags := r.openTags.filter (· != tag), answers := r.answers ++ ans }

/-- A hart that waits for a request whose answers have come. -/
def answeredHart (tag : BitVec 14) (ans : List (Nat × Answer)) (g : Hart) : Hart :=
  match g.remote with
  | some r =>
    if !r.openTags.contains tag then g
    else { g with remote := some (answeredOp tag ans r), run := if (answeredOp tag ans r).openTags.isEmpty && g.run == .asleep .remote then .ready else g.run }
  | none => g

theorem answerHart_eq (h : HartId) (s : State) : answerHart h tag ans s =
    let u := s.updHart h (answeredHart tag ans)
    if (tget [] u.posted h.toNat).any (fun p => p.req.openTags.contains tag) then
      settlePosted h (setPosted u h.toNat ((tget [] u.posted h.toNat).map (fun p => if p.req.openTags.contains tag then { p with req := answeredOp tag ans p.req } else p)))
    else u := rfl

theorem settle_hart {h : HartId} (who : f.who = .hart h) (s : State) : settle f ans s = answerHart h f.tag ans (dropFlight f.tag s) := by
  unfold settle
  dsimp only
  rw [who, dropFlight_eq]

theorem updHart_present {h : HartId} (self : s.hart.id = h) (here : s.hart.run ≠ .absent) (f : Hart → Hart) : s.updHart h f = s.withHart (f s.hart) := by
  have present : s.hart.present = true := bne_iff_ne.2 here
  rw [State.updHart, if_pos (by rw [present, self]; simp)]

/-- A hart that waits gets its answers, and runs again with the last of them. -/
theorem settle_waiting {h : HartId} {r : RemoteOp} (who : f.who = .hart h) (self : s.hart.id = h) (here : s.hart.run ≠ .absent) (waits : s.hart.remote = some r)
    (mine : f.tag ∈ r.openTags) (none : ∀ x ∈ tget [] s.posted h.toNat, f.tag ∉ x.req.openTags) : settle f ans s = (dropFlight f.tag s).withHart { s.hart with
      remote := some { openTags := r.openTags.filter (· ≠ f.tag), answers := r.answers ++ ans },
      run := if s.hart.run = .asleep .remote ∧ r.openTags.filter (· ≠ f.tag) = [] then .ready else s.hart.run } := by
  have woken : answeredHart f.tag ans s.hart = { s.hart with
      remote := some { openTags := r.openTags.filter (· ≠ f.tag), answers := r.answers ++ ans },
      run := if s.hart.run = .asleep .remote ∧ r.openTags.filter (· ≠ f.tag) = [] then .ready else s.hart.run } := by
    unfold answeredHart answeredOp
    rw [waits]
    dsimp only
    rw [List.contains_iff_mem.2 mine, Bool.not_true, if_neg Bool.false_ne_true, filter_tags]
    refine congrArg (fun run : RunState => ({ s.hart with remote := _, run := run } : Hart)) (if_congr ?_ rfl rfl)
    rw [Bool.and_eq_true, List.isEmpty_iff, beq_iff_eq, and_comm]
  rw [settle_hart who, answerHart_eq, updHart_present (s := dropFlight f.tag s) self here]
  dsimp only
  rw [if_neg]
  · exact congrArg (fun g : Hart => (dropFlight f.tag s).withHart g) woken
  · rw [List.any_eq_true]
    rintro ⟨x, inside, open'⟩
    exact none x inside (List.contains_iff_mem.1 open')

/-- Whether an answer is a failure. -/
theorem bad_iff (a : Answer) : a.bad = true ↔ ∀ v b, a ≠ .good v b := by
  cases a with
  | good v b => exact ⟨(fun no => nomatch no), fun no => absurd rfl (no v b)⟩
  | failed why => exact ⟨(fun _ v b no => nomatch no), fun _ => rfl⟩
  | unknown => exact ⟨(fun _ v b no => nomatch no), fun _ => rfl⟩

/-- The store that the current hart has gone past is done, or it traps with the hart as it stood before it. -/
theorem settlePosted_one {h : HartId} {u : State} {x : PostedStore} (current : Current u h) (listed : tget [] u.posted h.toNat = [x]) (done : x.req.openTags = []) :
    settlePosted h u = if x.req.answers.any (fun a => a.2.bad) then
      trappedHere 0x0D x.addr ((setPosted u h.toNat []).withHart { x.before with
        run := .ready, stalled := false, fetched := none, stores := u.hart.stores, cycle := u.hart.cycle, haltAsked := u.hart.haltAsked,
        swapping := u.hart.swapping, debugWrites := u.hart.debugWrites })
      else setPosted u h.toNat [] := by
  unfold settlePosted
  dsimp only
  rw [listed, List.find?_cons_of_pos (by rw [done]; rfl)]
  dsimp only
  rw [List.erase_cons_head]
  have same : (fun a : Nat × Answer => match a.2 with | .good _ _ => false | _ => true) = fun a => a.2.bad := by
    funext a
    cases a.2 <;> rfl
  refine if_congr (iff_of_eq (congrArg (fun bad => x.req.answers.any bad = true) same)) ?_ rfl
  refine (asHart_current (s := setPosted u h.toNat []) current rfl).trans ?_
  exact trapHere_plain (by decide) _ _

/-- A store that the current hart has gone past is done, or it traps. -/
theorem settle_posted {h : HartId} {x : PostedStore} (who : f.who = .hart h) (current : Current s h) (free : s.hart.remote = none) (listed : tget [] s.posted h.toNat = [x])
    (open' : x.req.openTags = [f.tag]) (unanswered : x.req.answers = []) : ∃ posted, tget [] posted h.toNat = []
      ∧ settle f ans s = if ans.any (fun a => a.2.bad) then
          trappedHere 0x0D x.addr (({ dropFlight f.tag s with posted := posted } : State).withHart { x.before with
            run := .ready, stalled := false, fetched := none, stores := s.hart.stores, cycle := s.hart.cycle, haltAsked := s.hart.haltAsked,
            swapping := s.hart.swapping, debugWrites := s.hart.debugWrites })
        else { dropFlight f.tag s with posted := posted } := by
  have asleep : answeredHart f.tag ans s.hart = s.hart := by
    unfold answeredHart
    rw [free]
  have still : (dropFlight f.tag s).updHart h (answeredHart f.tag ans) = dropFlight f.tag s := by
    rw [updHart_present (s := dropFlight f.tag s) current.1 current.2.1]
    exact congrArg (fun g : Hart => (dropFlight f.tag s).withHart g) asleep
  have one : tget [] (dropFlight f.tag s).posted h.toNat = [x] := listed
  have answered : answeredOp f.tag ans x.req = { openTags := [], answers := ans } := by
    unfold answeredOp
    rw [open', unanswered, List.nil_append]
    simp
  rw [settle_hart who, answerHart_eq, still]
  dsimp only
  rw [one, if_pos (by rw [List.any_cons, open']; simp), List.map_singleton, if_pos (by rw [open']; simp), answered]
  generalize landed : ({ x with req := { openTags := [], answers := ans } } : PostedStore) = y
  have listed' : tget [] (setPosted (dropFlight f.tag s) h.toNat [y]).posted h.toNat = [y] := tget_tset_self _ _ _ _
  have run := settlePosted_one (u := setPosted (dropFlight f.tag s) h.toNat [y]) current listed' (by rw [← landed])
  rw [← landed] at run ⊢
  exact ⟨tdel (tset (dropFlight f.tag s).posted h.toNat [{ x with req := { openTags := [], answers := ans } }]) h.toNat, tget_tdel _ _ _, run⟩

/-- The answers that engines and contexts wait for, once unit `n` has been given some. -/
def answeredUnits (tag : BitVec 14) (ans : List (Nat × Answer)) (n : Nat) (l : List (Nat × RemoteOp)) : List (Nat × RemoteOp) :=
  l.map (fun q => if q.1 = n && q.2.openTags.contains tag then (n, answeredOp tag ans q.2) else q)

theorem answeredUnits_one {key : Nat} {r : RemoteOp} (mine : tag ∈ r.openTags) :
    answeredUnits tag ans key [(key, r)] = [(key, { openTags := r.openTags.filter (· ≠ tag), answers := r.answers ++ ans })] := by
  rw [answeredUnits, List.map_singleton, if_pos (by rw [List.contains_iff_mem.2 mine]; simp), answeredOp, filter_tags]

/-- An engine or a sequencer context gets its answers. -/
theorem settle_unit {key : Nat} {r : RemoteOp} (who : f.who = .engine key ∨ (1024 ≤ key ∧ f.who = .context (key - 1024))) (waits : s.awaits = [(key, r)])
    (mine : f.tag ∈ r.openTags) : settle f ans s = { dropFlight f.tag s with awaits := [(key, { openTags := r.openTags.filter (· ≠ f.tag), answers := r.answers ++ ans })] } := by
  have unit : ∀ n, n = key → settle f ans s = { dropFlight f.tag s with awaits := answeredUnits f.tag ans n s.awaits } →
      settle f ans s = { dropFlight f.tag s with awaits := [(key, { openTags := r.openTags.filter (· ≠ f.tag), answers := r.answers ++ ans })] } := by
    rintro n rfl run
    rw [run, waits, answeredUnits_one mine]
  rcases who with engine | ⟨large, context⟩
  · refine unit key rfl ?_
    unfold settle
    dsimp only
    rw [engine]
    exact congrArg (fun u : State => { u with awaits := answeredUnits f.tag ans key s.awaits }) (dropFlight_eq f.tag s)
  · refine unit (1024 + (key - 1024)) (by omega) ?_
    unfold settle
    dsimp only
    rw [context]
    exact congrArg (fun u : State => { u with awaits := answeredUnits f.tag ans (1024 + (key - 1024)) s.awaits }) (dropFlight_eq f.tag s)

theorem settle_gives (here : f.tag = tag) : Gives tag s f ans (settle f ans s) := by
  subst here
  refine ⟨fun h r who self here waits mine none => settle_waiting who self here waits mine none, fun h x who current free listed open' unanswered => ?_,
    fun key r who waits mine => settle_unit who waits mine⟩
  obtain ⟨posted, empty, run⟩ := settle_posted (ans := ans) who current free listed open' unanswered
  have failed : (ans.any (fun a => a.2.bad)) = true ↔ ∃ a ∈ ans, ∀ v b, a.2 ≠ .good v b := by
    rw [List.any_eq_true]
    exact exists_congr fun a => and_congr_right fun _ => bad_iff a.2
  by_cases bad : (ans.any (fun a => a.2.bad)) = true
  · rw [if_pos bad] at run
    have left : (settle f ans s).posted = posted := (congrArg State.posted run).trans rfl
    refine ⟨left ▸ empty, fun good => absurd (failed.1 bad) good, fun _ => ?_⟩
    rw [left]
    exact run
  · rw [if_neg bad] at run
    have left : (settle f ans s).posted = posted := (congrArg State.posted run).trans rfl
    refine ⟨left ▸ empty, fun _ => ?_, fun worse => absurd (failed.2 worse) bad⟩
    rw [left]
    exact run

end

open Sys2Proof.Claim

/-! ## Responses and time-outs: O53 (R364, R365) -/

/-- Whether a request's response is late: its time-out has passed. -/
theorem over_iff (f : Flight) (now : Word) : f.over now = true ↔ ∃ t0, f.sentAt = some t0 ∧ 2000000 ≤ (now - t0).toNat := by
  unfold Flight.over
  cases f.sentAt with
  | none => exact ⟨(fun no => nomatch no), fun ⟨_, no, _⟩ => nomatch no⟩
  | some t0 =>
    rw [decide_eq_true_eq]
    exact ⟨fun late => ⟨t0, rfl, late⟩, fun ⟨_, same, late⟩ => Option.some.inj same ▸ late⟩

section
variable {s : State} {tag : BitVec 14} {f : Flight}

theorem takeResponse_unknown {r : Response} (none : s.fabric.flights.find? (fun g => g.tag == r.tag) = .none) : takeResponse r s = s := by
  unfold takeResponse
  rw [none]

theorem takeResponse_known {r : Response} (flies : s.fabric.flights.find? (fun g => g.tag == r.tag) = some f) :
    takeResponse r s = if f.over s.time = true then s else settle f (answersOf f.elems f.size f.nib r) s := by
  unfold takeResponse
  rw [flies]

theorem takeTimeout_unknown (none : s.fabric.flights.find? (fun g => g.tag == tag) = .none) : takeTimeout tag s = s := by
  unfold takeTimeout
  rw [none]

theorem takeTimeout_early (flies : s.fabric.flights.find? (fun g => g.tag == tag) = some f) (early : f.over s.time = false) : takeTimeout tag s = s := by
  unfold takeTimeout
  rw [flies]
  exact if_pos (by rw [early]; rfl)

/-- Settling a request moves neither TIME nor the tags that rest. -/
theorem asHart_time {g : State → State} (keeps : ∀ u, (g u).time = u.time ∧ (g u).fabric = u.fabric) (h : HartId) (s : State) :
    (asHart h g s).time = s.time ∧ (asHart h g s).fabric = s.fabric := by
  have focused (i : HartId) (u : State) : (focus i u).time = u.time ∧ (focus i u).fabric = u.fabric := by
    unfold focus
    split
    · exact ⟨rfl, rfl⟩
    · split <;> exact ⟨rfl, rfl⟩
  have acted : (g (focus h s)).time = s.time ∧ (g (focus h s)).fabric = s.fabric :=
    ⟨(keeps _).1.trans (focused h s).1, (keeps _).2.trans (focused h s).2⟩
  have back : (focus s.hart.id (g (focus h s))).time = s.time ∧ (focus s.hart.id (g (focus h s))).fabric = s.fabric :=
    ⟨(focused _ _).1.trans acted.1, (focused _ _).2.trans acted.2⟩
  unfold asHart
  split
  · exact ⟨rfl, rfl⟩
  · dsimp only
    split
    · split
      · exact back
      · exact back
    · exact acted

theorem settlePosted_time (h : HartId) (s : State) : (settlePosted h s).time = s.time ∧ (settlePosted h s).fabric = s.fabric := by
  unfold settlePosted
  dsimp only
  split
  · exact ⟨rfl, rfl⟩
  · split
    · refine asHart_time ?_ h _
      exact fun u => ⟨rfl, rfl⟩
    · exact ⟨rfl, rfl⟩

theorem answerHart_time (h : HartId) (tag : BitVec 14) (ans : List (Nat × Answer)) (s : State) :
    (answerHart h tag ans s).time = s.time ∧ (answerHart h tag ans s).fabric = s.fabric := by
  have given : (s.updHart h (answeredHart tag ans)).time = s.time ∧ (s.updHart h (answeredHart tag ans)).fabric = s.fabric := by
    unfold State.updHart
    split <;> exact ⟨rfl, rfl⟩
  rw [answerHart_eq]
  dsimp only
  split
  · exact ⟨(settlePosted_time h _).1.trans given.1, (settlePosted_time h _).2.trans given.2⟩
  · exact given

theorem settle_time (f : Flight) (ans : List (Nat × Answer)) (s : State) : (settle f ans s).time = s.time ∧ (settle f ans s).fabric.coolTags = s.fabric.coolTags := by
  unfold settle
  dsimp only
  split
  · exact ⟨(answerHart_time _ _ _ _).1, (congrArg Fabric.coolTags (answerHart_time _ _ _ _).2).trans rfl⟩
  · exact ⟨rfl, rfl⟩
  · exact ⟨rfl, rfl⟩

theorem takeTimeout_late (flies : s.fabric.flights.find? (fun g => g.tag == tag) = some f) (late : f.over s.time = true) :
    takeTimeout tag s = { settle f (f.elems.map (fun k => (k, .unknown))) s with fabric := { (settle f (f.elems.map (fun k => (k, .unknown))) s).fabric with
      coolTags := s.fabric.coolTags.filter (fun c => decide ((s.time - c.2).toNat < 4000000)) ++ [(tag, s.time)] } } := by
  obtain ⟨time, cool⟩ := settle_time f (f.elems.map (fun k => (k, Answer.unknown))) s
  unfold takeTimeout
  rw [flies]
  dsimp only
  rw [if_neg (by rw [late]; exact Bool.false_ne_true), time, cool]

/-- What a response tells of each element of its request. -/
theorem answersOf_eq (f : Flight) (r : Response) : answersOf f.elems f.size f.nib r =
    f.elems.zipIdx.map (fun p => (p.1, if (if f.nib then r.failed.testBit (2 * p.2) || r.failed.testBit (2 * p.2 + 1) else r.failed.testBit p.2) then .failed r.reason.toNat
      else .good (lowBits (8 * f.size) (ofBytes r.data / 2 ^ (8 * f.size * p.2)))
        (if f.nib then r.poisoned.testBit (2 * p.2) || r.poisoned.testBit (2 * p.2 + 1) else r.poisoned.testBit p.2))) := by
  unfold answersOf
  refine List.map_congr_left fun p _ => ?_
  dsimp only
  rw [slot_eq]
  rfl

/-- An acknowledgement gives every element its answer, without data. -/
theorem answersOf_clean (f : Flight) {r : Response} (failed : r.failed = 0) (poisoned : r.poisoned = 0) (data : r.data = []) :
    answersOf f.elems f.size f.nib r = f.elems.map (fun k => (k, .good 0 false)) := by
  have none : ofBytes ([] : List Byte) = 0 := rfl
  rw [answersOf_eq, failed, poisoned, data, none]
  simp only [Nat.zero_testBit, Bool.or_false, ite_self, Bool.false_eq_true, if_false, Nat.zero_div, lowBits, Nat.zero_mod]
  exact (List.map_map (l := f.elems.zipIdx) (f := Prod.fst) (g := fun k => (k, Answer.good 0 false))).symm.trans
    (congrArg (List.map fun k => (k, Answer.good 0 false)) (List.zipIdx_map_fst 0 f.elems))

/-- The acknowledgement with a tag has that tag, and tells of nothing if those that have arrived do not. -/
theorem ackOf_spec (tag : BitVec 14) (s : State) : (ackOf tag s).tag = tag
    ∧ ((∀ d c r, Message.response d c r ∈ s.fabric.arrived → c = 9 → r.tag = tag → r.failed = 0 ∧ r.poisoned = 0 ∧ r.data = []) →
      (ackOf tag s).failed = 0 ∧ (ackOf tag s).poisoned = 0 ∧ (ackOf tag s).data = []) := by
  unfold ackOf
  generalize found : s.fabric.arrived.findSome? _ = x
  cases x with
  | none => exact ⟨rfl, fun _ => ⟨rfl, rfl, rfl⟩⟩
  | some r =>
    obtain ⟨m, listed, is⟩ := List.exists_of_findSome?_eq_some found
    cases m with
    | response d c r' =>
      dsimp only at is
      split at is
      · next both =>
        rw [Bool.and_eq_true, beq_iff_eq, beq_iff_eq] at both
        obtain rfl := Option.some.inj is
        exact ⟨both.2, fun all => all d c _ listed both.1 both.2⟩
      · exact nomatch is
    | request => exact nomatch is
    | coll => exact nomatch is
    | collAck => exact nomatch is

end

theorem responses : Claim.Responses := by
  intro s tag dropped give came flown
  have unknown (no : ¬ flown) : s.fabric.flights.find? (fun g => g.tag == tag) = none := by
    rw [List.find?_eq_none]
    exact fun f listed here => no ⟨f, listed, beq_iff_eq.1 here⟩
  have ack := ackOf_spec tag s
  refine ⟨fun r here no => ?_, fun no => ?_, fun f flies => ?_⟩
  · have none := unknown no
    rw [← here] at none
    exact ⟨congrArg Host.Outcome.next (takeResponse_unknown (s := came 8 r) none), congrArg Host.Outcome.next (takeResponse_unknown (s := came 10 r) none)⟩
  · have none := unknown no
    refine ⟨congrArg Host.Outcome.next (takeResponse_unknown (s := came 9 (ackOf tag s)) ?_), congrArg Host.Outcome.next (takeTimeout_unknown none)⟩
    rw [ack.1]
    exact none
  · intro late read
    have self : f.tag = tag := beq_iff_eq.1 (List.find?_some (p := fun g : Flight => g.tag == tag) flies)
    have late' : f.over s.time = true ↔ late := over_iff f s.time
    have known (code : BitVec 4) {r : Response} (here : r.tag = tag) : takeResponse r (came code r) = if f.over s.time = true then came code r
        else settle f (answersOf f.elems f.size f.nib r) (came code r) := takeResponse_known (s := came code r) (by rw [here]; exact flies)
    refine ⟨fun early => ?_, fun past => ?_⟩
    · have gives (code : BitVec 4) {r : Response} (here : r.tag = tag) : takeResponse r (came code r) = settle f (answersOf f.elems f.size f.nib r) (came code r) :=
        (known code here).trans (if_neg (mt late'.1 early))
      refine ⟨fun r here => ⟨⟨_, congrArg Host.Outcome.next (gives 8 here), ?_⟩, ⟨_, congrArg Host.Outcome.next (gives 10 here), ?_⟩⟩,
        fun clean => ⟨_, congrArg Host.Outcome.next (gives 9 ack.1), ?_⟩, congrArg Host.Outcome.next (takeTimeout_early flies (Bool.eq_false_iff.2 (mt late'.1 early)))⟩
      · rw [answersOf_eq]
        exact settle_gives self
      · rw [answersOf_eq]
        exact settle_gives self
      · obtain ⟨failed, poisoned, data⟩ := ack.2 clean
        rw [answersOf_clean f failed poisoned data]
        exact settle_gives self
    · have drops (code : BitVec 4) {r : Response} (here : r.tag = tag) : takeResponse r (came code r) = came code r := (known code here).trans (if_pos (late'.2 past))
      exact ⟨fun r here => ⟨congrArg Host.Outcome.next (drops 8 here), congrArg Host.Outcome.next (drops 10 here)⟩, congrArg Host.Outcome.next (drops 9 ack.1),
        _, settle_gives self, congrArg Host.Outcome.next (takeTimeout_late flies (late'.2 past))⟩

/-- Settles O53: a response or a time-out settles the one flight that has its tag, and the link layer changes the port a flit came by. -/
theorem fabricReceives : Obligations.FabricReceives := ⟨responses, linkLayer⟩

end Sys2Proof.Machine

namespace Sys2Proof.Machine
/-! Packets of collectives: O54. -/

open Sys2Proof.Claim

/-! ## A run that ends while a soft error stands at its flag (R377, R381, R416)

The sector of a flag is written by the flag: what a soft error changed in it stands no longer. The statement lets a run that fails move memory alone there, and its clause on
packets has no premise that no soft error stands. -/

/-- Chunk `n` of another packet's, of one element that has not arrived. -/
def otherChunk (n : Nat) : Slot :=
  { src := 0, sctx := 0, tag := BitVec.ofNat 8 n, chunk := 0, step := 0, comb := false, hop := 0, klo := 0, khi := 0, fmt := 5, placed := 0, len := none, data := 0,
    poison := 0, fl := 0 }

/-- A context that runs, its eight slots taken, with its flag at 0x1000. -/
def fullContext : Ctx := { Ctx.init with held := true, st := 1, space := Hart.init.space, flagAddr := 0x1000, slots := (List.range 8).map otherChunk }

/-- Partition 0 is up and has tag 1, and a soft error stands in the sector of the flag. -/
def fullState : State :=
  { (State.reset.setCtx 0 fullContext).setPart 0 { State.reset.partn 0 with st := 1 } with fabric := { Fabric.init with dtag := Fabric.init.dtag.set 0 1 }, upsets := [(0x1000, 1)] }

/-- The one element of a group of two, from this rank. -/
def ninthGroup : Coll :=
  { src := 0, dst := 0, dtag := 1, box := (0, 0, 0), kind := 0, zeros := 0, dctx := 0, sctx := 0, tag := 0x10, chunk := 0, hop := 0, fmt := 5, comb := true, mc := false, step := 0,
    eoff := 0, ecnt := 1, khi := 0, fl := 0, last := true, poison := 0, data := 0 }

/-- The state that the packet's step begins from. -/
def ninthArrives : State := fullState.took (.coll ninthGroup)

/-- The state as the run's flag finds it. -/
def runStopped : State :=
  let c := ninthArrives.ctx 0
  ninthArrives.setCtx 0 { c with
    rows := [], rowChan := none, chans := c.chans.mapIdx (fun i x => if c.rowChan = some i then c.rows ++ x else x), staged := [], starting := none, st := 0,
    reason := BitVec.ofNat 8 4, detail := BitVec.ofNat 8 7 }

/-- The soft errors that stand after a step. -/
def upsetsAfter (o : Host.Outcome State Fault Refusal) : Option (Table Nat) :=
  match o with
  | .next t => some t.upsets
  | _ => none

/-- The packet is one too many, the flag can be written, and no soft error stands after the step. -/
theorem fullState_ready :
    (collOk ninthGroup = true ∧ ninthGroup.dst = ninthArrives.fabric.rank
      ∧ (ninthArrives.ctx 0).held = true ∧ partOfTag ninthArrives ninthGroup.dtag = some (ninthArrives.ctx 0).part ∧ (ninthArrives.partn (ninthArrives.ctx 0).part).st = 1)
    ∧ ((ninthArrives.ctx 0).slots.length = 8 ∧ (∀ x ∈ (ninthArrives.ctx 0).slots, x.isFor ninthGroup = false ∧ x.comb = false)
      ∧ (ninthArrives.ctx 0).slots.Pairwise (fun x y => x.place ≠ y.place)) ∧ (ninthArrives.ctx 0).st = 1 ∧ ninthArrives.awaits = []
    ∧ placeOf (agentMap runStopped (ninthArrives.ctx 0).space .store (ninthArrives.ctx 0).flagAddr) = some 0x1000 ∧ LinkUp runStopped 0x1000 8 ∧ Unheld runStopped 0x1000 8
    ∧ runStopped.upsets ≠ [] ∧ upsetsAfter (exec (.coll ninthGroup) fullState) = some [] := by
  unfold LinkUp Unheld
  decide +kernel

/-- Refutes O54: the flag of a run that one combining group too many ends is written over a soft error, which then stands no longer. -/
theorem not_collectivePackets : ¬ Obligations.CollectivePackets := by
  intro h
  obtain ⟨⟨legal, here, held, tagged, up⟩, full, runs, idle, at', reachable, free, stood, reads⟩ := fullState_ready
  obtain ⟨-, -, -, data, -⟩ := h.1 fullState ninthGroup
  obtain ⟨-, -, -, -, ends, -⟩ := data (.inl here) legal rfl
  obtain ⟨t, next, fails⟩ := ends ⟨held, tagged, .inl up⟩ rfl runs full idle
  obtain ⟨m, mapped, place⟩ := mapped_of_placeOf at'
  obtain ⟨same, -⟩ := fails.1 m mapped (place ▸ reachable) (place ▸ free)
  have kept : t.upsets = runStopped.upsets := (congrArg State.upsets same).trans rfl
  rw [next, upsetsAfter, kept] at reads
  exact stood (Option.some.inj reads)

end Sys2Proof.Machine

namespace Sys2Proof.Machine
/-! The schedulers and the save engine: O49. -/

open Sys2Proof.Claim

/-! ## What accesses leave of partitions (R330, R421)

An access that meets a fault makes an interrupt pending; nothing else of a partition moves. -/

/-- Of each partition only its pending interrupts have changed. -/
def PendingOnly (s t : State) : Prop := ∀ p, t.partn p = { s.partn p with pending := (t.partn p).pending }

theorem PendingOnly.of_parts {s t : State} (h : t.parts = s.parts) : PendingOnly s t := fun p => by rw [partn_congr h p]

theorem PendingOnly.refl (s : State) : PendingOnly s s := .of_parts rfl

theorem PendingOnly.trans {s t u : State} (h : PendingOnly s t) (k : PendingOnly t u) : PendingOnly s u := fun p =>
  (k p).trans (congrArg (fun q : Part => { q with pending := (u.partn p).pending }) (h p))

theorem PendingOnly.foldl {α : Type} {f : State → α → State} (hf : ∀ s a, PendingOnly s (f s a)) (s : State) (l : List α) : PendingOnly s (l.foldl f s) := by
  induction l generalizing s with
  | nil => exact .refl s
  | cons a l ih => exact (hf s a).trans (ih _)

theorem PendingOnly.blocks {s t : State} (h : PendingOnly s t) (p : BitVec 3) : (t.partn p).blocks = (s.partn p).blocks := by rw [h p]
theorem PendingOnly.suspTime {s t : State} (h : PendingOnly s t) (p : BitVec 3) : (t.partn p).suspTime = (s.partn p).suspTime := by rw [h p]
theorem PendingOnly.suspTaken {s t : State} (h : PendingOnly s t) (p : BitVec 3) : (t.partn p).suspTaken = (s.partn p).suspTaken := by rw [h p]

theorem RowsMoved.pending {s t : State} (h : RowsMoved s t) : PendingOnly s t := .of_parts ((congrArg State.parts h).trans rfl)

theorem pend_pending (s : State) (p : BitVec 3) (c : BitVec 8) (v : Word) : PendingOnly s (s.pend p c v) := by
  intro q
  unfold State.pend
  by_cases same : q = p
  · subst same
    rw [State.partn_setPart]
  · rw [State.partn_setPart_ne s same]

theorem mergeBytes_pending (s : State) (pa : Nat) (bs : List Byte) : PendingOnly s (mergeBytes s pa bs) := by
  unfold mergeBytes
  exact (PendingOnly.foldl (fun s k => .of_parts (t := State.setPoison s k) rfl) s _).trans (.of_parts rfl)

theorem homeWrite_pending (s : State) (pa : Nat) (bs : List Byte) : PendingOnly s (homeWrite s pa bs) := by
  rw [homeWrite]
  split
  · exact .refl s
  split
  · exact mergeBytes_pending s pa bs
  · exact heldWrite_inv (PendingOnly s) (fun t pa bs h => h.trans (mergeBytes_pending t pa bs)) (fun t k h => h.trans (.of_parts rfl))
      (fun t k h => h.trans (.of_parts rfl)) (fun t l h => h.trans (.of_parts rfl)) 8 s pa bs (.refl s)

theorem reportMonitor_pending (r : RasReport) (s : State) : PendingOnly s (reportMonitor r s) := by
  unfold reportMonitor
  split
  · exact .refl s
  · exact (homeWrite_pending s _ _).trans (.of_parts rfl)

theorem reportPartition_pending (r : RasReport) (p : BitVec 3) (s : State) : PendingOnly s (reportPartition r p s) := by
  unfold reportPartition
  dsimp only
  split
  · exact .refl s
  · refine PendingOnly.trans ?_ (pend_pending _ p 0x83 _)
    exact (homeWrite_pending s _ _).trans (.of_parts rfl)

theorem count_pending (s : State) (off n : Nat) : PendingOnly s (s.count off n) := .of_parts rfl

theorem report_pending (s : State) (r : RasReport) : PendingOnly s (s.report r) := by
  have counted : PendingOnly s (reportMonitor r (s.count (0x1C00 + 8 * (r.typ % 32)) 1)) := (count_pending s _ 1).trans (reportMonitor_pending r _)
  unfold State.report
  dsimp only
  split
  · exact counted
  · exact counted.trans (reportPartition_pending r _ _)

theorem verifyHome_pending (s : State) (p : Option (BitVec 3)) (k home : Nat) : PendingOnly s (verifyHome s p k home) := by
  unfold verifyHome
  split
  · refine PendingOnly.trans ?_ (report_pending _ _)
    exact PendingOnly.trans (.of_parts (t := s.setPoison k) rfl) (count_pending _ _ 1)
  · exact .refl s

theorem leaveSlice_pending (s : State) (k : Nat) (e : L2Sector) : PendingOnly s (leaveSlice s k e) := by
  have requested := (memoryRequest_rows s k).pending
  unfold leaveSlice
  dsimp only
  split
  · refine PendingOnly.trans ?_ (.of_parts rfl)
    split
    · exact requested.trans (verifyHome_pending _ _ _ _)
    · exact requested
  · unfold undoUpset
    split
    · exact .refl s
    · exact .of_parts rfl

theorem evictSector_pending (s : State) (k : Nat) : PendingOnly s (evictSector s k) := by
  unfold evictSector
  split
  · exact .refl s
  · exact (leaveSlice_pending s k _).trans (.of_parts rfl)

theorem sliceRoom_pending (s : State) (home line : Nat) : PendingOnly s (sliceRoom s home line) := by
  unfold sliceRoom
  dsimp only
  split
  · exact .refl s
  split
  · exact .foldl evictSector_pending s _
  · exact .refl s

theorem touch_pending (s : State) (part : BitVec 3) (k : Nat) (ab : Option Nat) (uc wr alloc : Bool) : PendingOnly s (touch s part k ab uc wr alloc) := by
  have verified := verifyHome_pending s (some part) k (homeBench k ab)
  have requested := verified.trans (memoryRequest_rows _ k).pending
  unfold touch
  dsimp only
  split
  · exact report_pending s _
  split
  · exact verified
  split
  · split
    · split
      · exact requested
      · exact verified.trans (.of_parts rfl)
    · exact verified
  · split
    · exact requested
    · exact (requested.trans (sliceRoom_pending _ _ _)).trans (.of_parts rfl)

theorem noteAll_pending (s : State) (l : List Note) : PendingOnly s (noteAll s l) :=
  .foldl (fun s n => by cases n with
    | ras r => exact report_pending s r
    | entry p pa => exact touch_pending s p (sectorOf pa) none false false true) s l

/-! ## What an agent's stores leave (R245, R318) -/

/-- An agent fills no TLB: its walk reads table entries alone. -/
theorem noteWalk_agent (s : State) (m : Mapped) : ∃ l, noteWalk s none m = noteAll s l := by
  unfold noteWalk
  split
  · exact ⟨[], rfl⟩
  · exact ⟨_, rfl⟩
  · next none => exact nomatch none

theorem agentWrite_moved (s : State) (part : BitVec 3) (m : Mapped) (bs : List Byte) (alloc : Bool) : MemoryMoved s (agentWrite s part m bs alloc) := by
  obtain ⟨l, walk⟩ := noteWalk_agent s m
  unfold agentWrite
  rw [walk]
  exact ((noteAll_moved s l).trans (.foldl (fun s k => touch_moved s part k m.abench m.uc true alloc) _ _)).trans (homeWrite_moved _ m.pa bs)

theorem agentWrite_pending (s : State) (part : BitVec 3) (m : Mapped) (bs : List Byte) (alloc : Bool) : PendingOnly s (agentWrite s part m bs alloc) := by
  obtain ⟨l, walk⟩ := noteWalk_agent s m
  unfold agentWrite
  rw [walk]
  exact ((noteAll_pending s l).trans (.foldl (fun s k => touch_pending s part k m.abench m.uc true alloc) _ _)).trans (homeWrite_pending _ m.pa bs)

theorem remark_moved (s : State) (pa : Nat) (bs : List MarkedByte) : MemoryMoved s (remark s pa bs) := by
  refine .foldl (fun s k => ?_) s _
  dsimp only
  split
  · exact setPoison_moved s k
  split
  · exact clearPoison_moved s k
  · exact .refl s

theorem remark_pending (s : State) (pa : Nat) (bs : List MarkedByte) : PendingOnly s (remark s pa bs) := by
  refine .foldl (fun s k => ?_) s _
  dsimp only
  split
  · exact .of_parts rfl
  split
  · exact .of_parts rfl
  · exact .refl s

/-- What every write and every change of marks keeps, a store of an agent keeps. -/
theorem agentStore_inv (P : State → Prop) (writes : ∀ s part m bs alloc, P s → P (agentWrite s part m bs alloc)) (marks : ∀ s pa bs, P s → P (remark s pa bs))
    {s : State} (h : P s) (sp : Space) (a : Word) (bs : List MarkedByte) (alloc : Bool) : P (agentStore s sp a bs alloc).1 := by
  unfold agentStore
  refine List.foldlRecOn (motive := fun acc : State × Option (XFault × Word) => P acc.1) _ _ h fun acc h p _ => ?_
  dsimp only
  split
  · exact h
  split
  · exact h
  · dsimp only
    split
    · exact writes _ _ _ _ _ h
    · exact marks _ _ _ (writes _ _ _ _ _ h)

theorem agentStore_moved (s : State) (sp : Space) (a : Word) (bs : List MarkedByte) (alloc : Bool) : MemoryMoved s (agentStore s sp a bs alloc).1 :=
  agentStore_inv (MemoryMoved s) (fun t part m bs alloc h => h.trans (agentWrite_moved t part m bs alloc)) (fun t pa bs h => h.trans (remark_moved t pa bs)) (.refl s) sp a bs alloc

theorem agentStore_pending (s : State) (sp : Space) (a : Word) (bs : List MarkedByte) (alloc : Bool) : PendingOnly s (agentStore s sp a bs alloc).1 :=
  agentStore_inv (PendingOnly s) (fun t part m bs alloc h => h.trans (agentWrite_pending t part m bs alloc)) (fun t pa bs h => h.trans (remark_pending t pa bs)) (.refl s) sp a bs alloc

open Sys2Proof.Claim

/-! ## Harts that stay where they are (R173, R278) -/

/-- A hart is still itself: in its slot, of its farm, and taken by a swap if it was. -/
def Stays (h g : Hart) : Prop := g.id = h.id ∧ g.present = h.present ∧ g.farm = h.farm ∧ (h.swapping = true → g.swapping = true)

theorem Stays.refl (h : Hart) : Stays h h := ⟨rfl, rfl, rfl, id⟩

theorem Stays.trans {h g f : Hart} (a : Stays h g) (b : Stays g f) : Stays h f := by
  obtain ⟨id, present, farm, swapping⟩ := a
  obtain ⟨id', present', farm', swapping'⟩ := b
  exact ⟨id'.trans id, present'.trans present, farm'.trans farm, fun h => swapping' (swapping h)⟩

/-- Every hart stays. -/
def HartsStay (s t : State) : Prop :=
  ∃ w v : Hart → Hart, (∀ h, Stays h (w h)) ∧ (∀ h, Stays h (v h)) ∧ t.hart = w s.hart ∧ t.others = s.others.map v

theorem HartsStay.of_same {s t : State} (hart : t.hart = s.hart) (others : t.others = s.others) : HartsStay s t :=
  ⟨fun h => h, fun h => h, .refl, .refl, hart, by rw [others, List.map_id']⟩

theorem HartsStay.refl (s : State) : HartsStay s s := .of_same rfl rfl

theorem HartsStay.trans {s t u : State} (h : HartsStay s t) (k : HartsStay t u) : HartsStay s u := by
  obtain ⟨w, v, wStays, vStays, hart, others⟩ := h
  obtain ⟨w', v', wStays', vStays', hart', others'⟩ := k
  refine ⟨fun h => w' (w h), fun h => v' (v h), fun h => (wStays h).trans (wStays' _), fun h => (vStays h).trans (vStays' _), by rw [hart', hart], ?_⟩
  rw [others', others, List.map_map]
  rfl

theorem MemoryMoved.stay {s t : State} (h : MemoryMoved s t) : HartsStay s t := .of_same h.hart ((congrArg State.others h.1).trans rfl)
theorem OnlyBenches.stay {s t : State} (h : OnlyBenches s t) : HartsStay s t := .of_same ((congrArg State.hart h).trans rfl) ((congrArg State.others h).trans rfl)

/-- A slot holds the same hart as before, or none as before. -/
theorem HartsStay.findHart {s t : State} (h : HartsStay s t) (i : HartId) :
    (s.findHart i = none ∧ t.findHart i = none) ∨ ∃ g g', s.findHart i = some g ∧ t.findHart i = some g' ∧ Stays g g' := by
  obtain ⟨w, v, wStays, vStays, hart, others⟩ := h
  obtain ⟨id, present, -, -⟩ := wStays s.hart
  have slots : ((fun g : Hart => g.id == i) ∘ v) = fun g => g.id == i := funext fun g => by rw [Function.comp_apply, (vStays g).1]
  unfold State.findHart
  rw [hart, others, present, id]
  by_cases here : (s.hart.present && s.hart.id == i) = true
  · rw [if_pos here, if_pos here]
    exact .inr ⟨_, _, rfl, rfl, wStays _⟩
  · rw [if_neg here, if_neg here, List.find?_map, slots]
    cases s.others.find? (fun g => g.id == i) with
    | none => exact .inl ⟨rfl, rfl⟩
    | some g => exact .inr ⟨g, v g, rfl, rfl, vStays g⟩

/-- A swap has begun to take the hart in a slot. -/
def Taken (s : State) (i : HartId) : Prop := ∃ g, s.findHart i = some g ∧ g.swapping = true

theorem HartsStay.taken {s t : State} (h : HartsStay s t) {i : HartId} (taken : Taken s i) : Taken t i := by
  obtain ⟨g, found, swapping⟩ := taken
  rcases h.findHart i with ⟨none, -⟩ | ⟨f, f', found', there, -, -, -, still⟩
  · rw [none] at found
    exact nomatch found
  · rw [found'] at found
    obtain rfl := Option.some.inj found
    exact ⟨f', there, still swapping⟩

theorem findHart_of_mem {s : State} {h : Hart} (listed : h ∈ s.harts) : ∃ g, s.findHart h.id = some g := by
  unfold State.harts at listed
  unfold State.findHart
  by_cases here : (s.hart.present && s.hart.id == h.id) = true
  · rw [if_pos here]
    exact ⟨_, rfl⟩
  · rw [if_neg here, ← Option.isSome_iff_exists, List.find?_isSome]
    rcases List.mem_append.1 listed with current | other
    · by_cases present : s.hart.present = true
      · rw [if_pos present, List.mem_singleton] at current
        rw [present, current, beq_self_eq_true, Bool.true_and] at here
        exact absurd rfl here
      · rw [if_neg present] at current
        exact absurd current List.not_mem_nil
    · exact ⟨h, other, beq_self_eq_true _⟩

theorem updHart_stays {f : Hart → Hart} (stays : ∀ h, Stays h (f h)) (i : HartId) (s : State) : HartsStay s (s.updHart i f) := by
  unfold State.updHart
  split
  · exact ⟨f, fun h => h, stays, .refl, rfl, (List.map_id' _).symm⟩
  · refine ⟨fun h => h, fun h => if h.id == i then f h else h, .refl, fun h => ?_, rfl, rfl⟩
    dsimp only
    split
    · exact stays h
    · exact .refl h

/-- What a change of the hart in a slot leaves there. -/
theorem findHart_updHart {f : Hart → Hart} (stays : ∀ h, Stays h (f h)) {i : HartId} {s : State} {g : Hart} (found : s.findHart i = some g) :
    (s.updHart i f).findHart i = some (f g) := by
  unfold State.findHart at found
  unfold State.updHart
  by_cases here : (s.hart.present && s.hart.id == i) = true
  · rw [if_pos here] at found ⊢
    obtain rfl := Option.some.inj found
    obtain ⟨id, present, -, -⟩ := stays s.hart
    unfold State.findHart
    rw [State.withHart_hart, present, id, if_pos here]
  · rw [if_neg here] at found ⊢
    have slots : ((fun g : Hart => g.id == i) ∘ fun h => if h.id == i then f h else h) = fun g => g.id == i := funext fun g => by
      dsimp only [Function.comp_apply]
      split
      · rw [(stays g).1]
      · rfl
    unfold State.findHart
    dsimp only
    rw [if_neg here, List.find?_map, slots, found, Option.map_some, if_pos (List.find?_some (p := fun g : Hart => g.id == i) found)]

theorem updHart_only (i : HartId) (f : Hart → Hart) (s : State) : OnlyHarts s (s.updHart i f) := by
  unfold State.updHart
  split <;> rfl

theorem wakeHead_only (bench : Nat) (s : State) : OnlyHarts s (wakeHead bench s) := by
  unfold wakeHead
  split
  · exact .refl s
  · exact updHart_only _ _ s

theorem wakeHead_stays (bench : Nat) (s : State) : HartsStay s (wakeHead bench s) := by
  unfold wakeHead
  split
  · exact .refl s
  · refine updHart_stays (fun h => ?_) _ s
    split
    · next asleep => exact ⟨rfl, by unfold Hart.present; rw [beq_iff_eq.1 asleep]; rfl, rfl, id⟩
    · exact .refl h

theorem dropPosts_stays (i : HartId) (s : State) : HartsStay s (dropPosts i s) := by
  unfold dropPosts
  dsimp only
  split
  · exact .refl s
  · exact (OnlyBenches.stay (rfl : OnlyBenches s (s.setBench (benchOf i) _))).trans (wakeHead_stays _ _)

theorem dropPosts_only (i : HartId) (s : State) : OnlyHarts s (dropPosts i s) := by
  unfold dropPosts
  dsimp only
  split
  · exact .refl s
  · exact (OnlyBenches.onlyHarts (rfl : OnlyBenches s (s.setBench (benchOf i) _))).trans (wakeHead_only _ _)

open Sys2Proof.Claim

/-! ## Beginning to take a farm's harts (R278, R339) -/

theorem indexHarts_mem {l : List Hart} {h : Hart} (listed : h ∈ l) : ∃ i, (h, i) ∈ indexHarts l := by
  unfold indexHarts
  dsimp only
  cases given : h.index with
  | some i => exact ⟨i, List.mem_append_left _ (List.mem_filterMap.2 ⟨h, listed, by rw [given]; rfl⟩)⟩
  | none =>
    have fresh : h ∈ l.filter (·.index.isNone) := List.mem_filter.2 ⟨listed, by rw [given]; rfl⟩
    obtain ⟨k, within, at'⟩ := List.mem_iff_getElem.1 fresh
    refine ⟨_, List.mem_append_right _ (List.mem_map.2 ⟨(h, k), ?_, rfl⟩)⟩
    rw [List.mem_zipIdx_iff_getElem?]
    exact (List.getElem?_eq_getElem within).trans (congrArg some at')

/-- A hart that a swap begins to take: its place among the farm's images and where its own goes (R339, R343). -/
def takenHart (a : Word) (index : Nat) (h : Hart) : Hart :=
  { h with swapping := true, index := some index, image := some (a, match h.image with | some q => q.2 || q.1 != a | none => true) }

theorem takenHart_stays (a : Word) (index : Nat) (h : Hart) : Stays h (takenHart a index h) := ⟨rfl, rfl, rfl, fun _ => rfl⟩

/-- A swap begins to take one hart: its entries leave the queues. -/
def takeHart (base : Nat) (offs : List Nat) (s : State) (r : Hart × Nat) : State :=
  (dropPosts r.1.id s).updHart r.1.id (takenHart (BitVec.ofNat 64 (base + (offs[r.2]?).getD 0)) r.2)

theorem takeHart_stays (base : Nat) (offs : List Nat) (s : State) (r : Hart × Nat) : HartsStay s (takeHart base offs s r) :=
  (dropPosts_stays r.1.id s).trans (updHart_stays (takenHart_stays _ _) r.1.id _)

theorem takeHart_only (base : Nat) (offs : List Nat) (s : State) (r : Hart × Nat) : OnlyHarts s (takeHart base offs s r) :=
  (dropPosts_only r.1.id s).trans (updHart_only r.1.id _ _)

theorem takeHart_taken (base : Nat) (offs : List Nat) {s : State} {r : Hart × Nat} {g : Hart} (found : s.findHart r.1.id = some g) :
    Taken (takeHart base offs s r) r.1.id := by
  rcases (dropPosts_stays r.1.id s).findHart r.1.id with ⟨none, -⟩ | ⟨f, f', -, there, -⟩
  · rw [none] at found
    exact nomatch found
  · exact ⟨_, findHart_updHart (takenHart_stays _ _) there, rfl⟩

theorem takeHarts_spec (base : Nat) (offs : List Nat) (l : List (Hart × Nat)) (s : State) : HartsStay s (l.foldl (takeHart base offs) s)
    ∧ OnlyHarts s (l.foldl (takeHart base offs) s) ∧ ∀ r ∈ l, (∃ g, s.findHart r.1.id = some g) → Taken (l.foldl (takeHart base offs) s) r.1.id := by
  induction l generalizing s with
  | nil => exact ⟨.refl s, .refl s, fun r no => absurd no List.not_mem_nil⟩
  | cons r rest ih =>
    obtain ⟨stay, only, taken⟩ := ih (takeHart base offs s r)
    have first := takeHart_stays base offs s r
    refine ⟨first.trans stay, (takeHart_only base offs s r).trans only, fun q listed ⟨g, found⟩ => ?_⟩
    rcases List.mem_cons.1 listed with rfl | later
    · exact stay.taken (takeHart_taken base offs found)
    · refine taken q later ?_
      rcases first.findHart q.1.id with ⟨none, -⟩ | ⟨f, f', -, there, -⟩
      · rw [none] at found
        exact nomatch found
      · exact ⟨f', there⟩

theorem OnlyHarts.parts {s t : State} (h : OnlyHarts s t) : t.parts = s.parts := (congrArg State.parts h).trans rfl
theorem OnlyHarts.farms {s t : State} (h : OnlyHarts s t) : t.farms = s.farms := (congrArg State.farms h).trans rfl
theorem MemoryMoved.farms {s t : State} (h : MemoryMoved s t) : t.farms = s.farms := (congrArg State.farms h.1).trans rfl

/-- What a swap leaves of a partition: the request of a suspension, besides the blocks of its cabinet. -/
def SuspensionKept (s t : State) : Prop := ∀ p, (t.partn p).suspTime = (s.partn p).suspTime ∧ (t.partn p).suspTaken = (s.partn p).suspTaken

theorem SuspensionKept.refl (s : State) : SuspensionKept s s := fun _ => ⟨rfl, rfl⟩

theorem SuspensionKept.trans {s t u : State} (h : SuspensionKept s t) (k : SuspensionKept t u) : SuspensionKept s u :=
  fun p => ⟨(k p).1.trans (h p).1, (k p).2.trans (h p).2⟩

theorem SuspensionKept.foldl {α : Type} {f : State → α → State} (hf : ∀ s a, SuspensionKept s (f s a)) (s : State) (l : List α) : SuspensionKept s (l.foldl f s) := by
  induction l generalizing s with
  | nil => exact .refl s
  | cons a l ih => exact (hf s a).trans (ih _)

theorem SuspensionKept.of_parts {s t : State} (h : t.parts = s.parts) : SuspensionKept s t := fun p => by rw [partn_congr h p]; exact ⟨rfl, rfl⟩

theorem PendingOnly.suspension {s t : State} (h : PendingOnly s t) : SuspensionKept s t := fun p => ⟨h.suspTime p, h.suspTaken p⟩

theorem setPart_suspension (s : State) (p : BitVec 3) {q : Part} (time : q.suspTime = (s.partn p).suspTime) (taken : q.suspTaken = (s.partn p).suspTaken) :
    SuspensionKept s (s.setPart p q) := by
  intro j
  by_cases same : j = p
  · subst same
    rw [State.partn_setPart]
    exact ⟨time, taken⟩
  · rw [State.partn_setPart_ne s same]
    exact ⟨rfl, rfl⟩

/-- What beginning a swap leaves: every hart, every farm, and what partitions ask for. -/
structure SwapBegun (s t : State) : Prop where
  stay : HartsStay s t
  farms : t.farms = s.farms
  suspension : SuspensionKept s t

/-- A swap that begins takes every hart of its farm, and has a block. -/
structure Takes (n : BitVec 16) (p : BitVec 3) (s t : State) : Prop where
  taken : ∀ h ∈ s.residents n, Taken t h.id
  block : ∃ a size, (n, a, size) ∈ (t.partn p).blocks

section
variable (n : BitVec 16) (p : BitVec 3) (s : State)

theorem swapFails_spec (r : RasReport) : SwapBegun s ((s.setPart p { s.partn p with noVictim := true }).report r) := by
  have reported := report_moved (s.setPart p { s.partn p with noVictim := true }) r
  exact ⟨reported.stay, reported.farms, (setPart_suspension s p (q := { s.partn p with noVictim := true }) rfl rfl).trans (report_pending _ _).suspension⟩

/-- The harts of a farm are being taken, into a block at `base`. -/
def hartsTaken (base size : Nat) (offs : List Nat) : State :=
  (indexHarts (s.residents n)).foldl (takeHart base offs) (s.setPart p { s.partn p with blocks := (n, base, size) :: (s.partn p).blocks.filter (fun b => b.1 != n) })

theorem swapTakes_spec {base size : Nat} {offs : List Nat} {t : State} (moved : MemoryMoved (hartsTaken n p s base size offs) t)
    (pending : PendingOnly (hartsTaken n p s base size offs) t) : SwapBegun s t ∧ Takes n p s t := by
  unfold hartsTaken at moved pending
  generalize found : s.setPart p { s.partn p with blocks := (n, base, size) :: (s.partn p).blocks.filter (fun b => b.1 != n) } = u at moved pending
  have hart : u.hart = s.hart := found ▸ rfl
  have others : u.others = s.others := found ▸ rfl
  have kept : SuspensionKept s u := found ▸ setPart_suspension s p rfl rfl
  obtain ⟨stay, only, taken⟩ := takeHarts_spec base offs (indexHarts (s.residents n)) u
  refine ⟨⟨((HartsStay.of_same hart others).trans stay).trans moved.stay, moved.farms.trans (only.farms.trans (found ▸ rfl)),
    (kept.trans (.of_parts only.parts)).trans pending.suspension⟩, fun h listed => ?_, base, size, ?_⟩
  · obtain ⟨i, indexed⟩ := indexHarts_mem listed
    obtain ⟨g, there⟩ := findHart_of_mem (List.mem_of_mem_filter listed)
    exact moved.stay.taken (taken (h, i) indexed ⟨g, (findHart_congr hart others h.id).trans there⟩)
  · rw [pending.blocks, partn_congr only.parts, ← found, State.partn_setPart]
    exact List.mem_cons_self

theorem startSwap_spec : SwapBegun s (startSwap n p s).1 ∧ ((startSwap n p s).2 = true → Takes n p s (startSwap n p s).1) := by
  unfold startSwap
  extract_lets hs offs lists top size q
  clear_value offs lists top size
  cases findBlock q n size with
  | none =>
    dsimp only
    exact ⟨swapFails_spec p s _, fun no => nomatch no⟩
  | some base =>
    dsimp only
    have spec : ∀ a l b k, SwapBegun s (agentStore (agentStore (hartsTaken n p s base size offs) (cabinetSpace p) a l true).1 (cabinetSpace p) b k true).1
        ∧ Takes n p s (agentStore (agentStore (hartsTaken n p s base size offs) (cabinetSpace p) a l true).1 (cabinetSpace p) b k true).1 := fun a l b k =>
      swapTakes_spec n p s ((agentStore_moved _ _ _ _ _).trans (agentStore_moved _ _ _ _ _)) ((agentStore_pending _ _ _ _ _).trans (agentStore_pending _ _ _ _ _))
    exact ⟨(spec _ _ _ _).1, fun _ => (spec _ _ _ _).2⟩

end

open Sys2Proof.Claim

/-! ## Canopies that are given up (R190, R193) -/

/-- Benches whose canopies farm `n` gives up: no other gets one. -/
def GivesUp (n : BitVec 16) (s t : State) : Prop := OnlyBenches s t ∧ ∀ b, (t.bench b).canopyOwner = some n → (s.bench b).canopyOwner = some n

theorem GivesUp.refl (n : BitVec 16) (s : State) : GivesUp n s s := ⟨.refl s, fun _ => id⟩

theorem GivesUp.trans {n : BitVec 16} {s t u : State} (h : GivesUp n s t) (k : GivesUp n t u) : GivesUp n s u :=
  ⟨h.1.trans k.1, fun b owned => h.2 b (k.2 b owned)⟩

theorem setBench_freeCanopy (n : BitVec 16) (s : State) (b : Nat) :
    GivesUp n s (s.setBench b (s.bench b).freeCanopy) ∧ ((s.setBench b (s.bench b).freeCanopy).bench b).canopyOwner ≠ some n := by
  refine ⟨⟨rfl, fun c owned => ?_⟩, ?_⟩
  · by_cases same : c = b
    · subst same
      rw [State.bench_setBench] at owned
      exact nomatch owned
    · rwa [State.bench_setBench_ne s same] at owned
  · rw [State.bench_setBench]
    exact fun owned => nomatch owned

/-- A fold that makes farm `n` give up the canopy of each bench of a list. -/
theorem foldl_givesUp {n : BitVec 16} {f : State → Nat → State} (each : ∀ s b, GivesUp n s (f s b) ∧ ((f s b).bench b).canopyOwner ≠ some n) (l : List Nat) (s : State) :
    GivesUp n s (l.foldl f s) ∧ ∀ b ∈ l, ((l.foldl f s).bench b).canopyOwner ≠ some n := by
  induction l generalizing s with
  | nil => exact ⟨.refl n s, fun b no => absurd no List.not_mem_nil⟩
  | cons b rest ih =>
    obtain ⟨gives, free⟩ := each s b
    obtain ⟨later, others⟩ := ih (f s b)
    refine ⟨gives.trans later, fun c listed => ?_⟩
    rcases List.mem_cons.1 listed with rfl | inside
    · exact fun owned => free (later.2 c owned)
    · exact others c inside

/-- A bench whose canopy a farm owns holds state of its own. -/
theorem benchKeys_of_owner {n : BitVec 16} {s : State} {b : Nat} (owned : (s.bench b).canopyOwner = some n) : b ∈ s.benchKeys := by
  by_contra absent
  have init : s.bench b = Bench.init := tget_absent Bench.init absent
  rw [init] at owned
  exact nomatch owned

theorem takeCanopies_spec (n : BitVec 16) (s : State) : OnlyBenches s (takeCanopies n s).2 ∧ ∀ b, ((takeCanopies n s).2.bench b).canopyOwner ≠ some n := by
  obtain ⟨gives, free⟩ := foldl_givesUp (n := n) (fun s b => setBench_freeCanopy n s b) (s.benchKeys.filter (fun b => (s.bench b).ownsCanopy n)) s
  refine ⟨gives.1, fun b owned => ?_⟩
  have before := gives.2 b owned
  exact free b (List.mem_filter.2 ⟨benchKeys_of_owner before, by unfold Bench.ownsCanopy; rw [before, beq_self_eq_true]⟩) owned

theorem freeCanopies_spec (n : BitVec 16) (s : State) (b : Nat) : ((freeCanopies n s).bench b).canopyOwner ≠ some n := by
  obtain ⟨gives, free⟩ := foldl_givesUp (n := n) (f := fun s b => if (s.bench b).ownsCanopy n then s.setBench b (s.bench b).freeCanopy else s) (fun s b => by
    split
    · exact setBench_freeCanopy n s b
    · next other => exact ⟨.refl n s, fun owned => other (by unfold Bench.ownsCanopy; rw [owned, beq_self_eq_true])⟩) s.benchKeys s
  exact fun owned => free b (benchKeys_of_owner (gives.2 b owned)) owned

/-! ## Farms (R217, R218) -/

theorem find?_farms {F : Farm → Farm} (keeps : ∀ g, (F g).num = g.num) (l : List Farm) (n : BitVec 16) :
    (l.map F).find? (fun f => f.num == n) = (l.find? (fun f => f.num == n)).map F := by
  rw [List.find?_map]
  exact congrArg (fun p => (l.find? p).map F) (funext fun g => by rw [Function.comp_apply, keeps])

theorem farmOf_num {s : State} {n : BitVec 16} {f : Farm} (found : s.farmOf n = some f) : f.num = n := beq_iff_eq.1 (List.find?_some (p := fun g : Farm => g.num == n) found)

/-- A farm after a change of the farm with its number. -/
theorem farmOf_updFarm {s : State} {n : BitVec 16} {f : Farm} (found : s.farmOf n = some f) {F : Farm → Farm} (keeps : ∀ g, (F g).num = g.num) :
    (s.updFarm n F).farmOf n = some (F f) := by
  unfold State.farmOf at found ⊢
  unfold State.updFarm
  rw [find?_farms (fun g => by split <;> [exact keeps g; rfl]), found, Option.map_some, if_pos (by rw [farmOf_num found, beq_self_eq_true])]

theorem farmOf_congr {s t : State} (h : t.farms = s.farms) (n : BitVec 16) : t.farmOf n = s.farmOf n := by rw [State.farmOf, h, State.farmOf]

/-- A farm once the slots kept for farm `n` are released. -/
def releasedFor (n : BitVec 16) (v : Farm) : Farm := if v.swapFor == some n then { v with swapFor := none, keptSlots := [] } else v

theorem releasedFor_keeps (n : BitVec 16) (v : Farm) : (releasedFor n v).num = v.num ∧ (releasedFor n v).rcd = v.rcd ∧ (releasedFor n v).state = v.state
    ∧ (releasedFor n v).placedAt = v.placedAt ∧ (releasedFor n v).nextStrip = v.nextStrip ∧ (releasedFor n v).saved = v.saved ∧ (releasedFor n v).savedTiles = v.savedTiles := by
  unfold releasedFor
  split <;> exact ⟨rfl, rfl, rfl, rfl, rfl, rfl, rfl⟩

theorem farmOf_servedFarm {s : State} {n : BitVec 16} {f : Farm} (found : s.farmOf n = some f) (k : BitVec 16) : (servedFarm k s).farmOf n = some (releasedFor k f) := by
  unfold State.farmOf at found ⊢
  exact (find?_farms (F := releasedFor k) (fun g => (releasedFor_keeps k g).1) s.farms n).trans (by rw [found]; rfl)

/-! ## Swapping a farm out (R276 to R278) -/

theorem OnlyBenches.farms {s t : State} (h : OnlyBenches s t) : t.farms = s.farms := (congrArg State.farms h).trans rfl
theorem OnlyBenches.parts {s t : State} (h : OnlyBenches s t) : t.parts = s.parts := (congrArg State.parts h).trans rfl

theorem residents_congr {s t : State} (hart : t.hart = s.hart) (others : t.others = s.others) (n : BitVec 16) : t.residents n = s.residents n := by
  rw [State.residents, State.harts, hart, others, State.residents, State.harts]

/-- The farm that a die's scheduler swaps `v` out for. -/
def swapChoice (s : State) (v : BitVec 16) (die : Nat) : Option (BitVec 16) :=
  match schedulerChoice s die with
  | some (.swap w f) => if w == v then some f else none
  | _ => none

theorem swapChoice_swap {s : State} {v f : BitVec 16} {die : Nat} (choice : schedulerChoice s die = some (.swap v f)) : swapChoice s v die = some f := by
  unfold swapChoice
  rw [choice]
  exact if_pos (beq_self_eq_true v)

theorem swapChoice_none {s : State} {v : BitVec 16} {die : Nat} (other : ∀ g, schedulerChoice s die ≠ some (.swap v g)) : swapChoice s v die = none := by
  unfold swapChoice
  split
  · next w g choice => exact if_neg fun same => other g (by rw [choice, beq_iff_eq.1 same])
  · rfl

/-- The state once a farm's canopies are taken and it keeps its slots for another. -/
def sweptOut (v f : BitVec 16) (lists : List (Nat × List CanopyRec)) (s : State) : State :=
  (servedFarm v s).updFarm v (fun x => { x with swapFor := some f, keptSlots := (s.residents v).map (·.id), savedCanopies := lists })

/-- Taking the harts of `v`, for the farm that its swap is for. -/
def swapOutFor (v : BitVec 16) (pick : Option (BitVec 16)) (s : State) : State :=
  match pick, s.farmOf v with
  | some f, some farm =>
    if (startSwap v farm.rcd.part s).2 then sweptOut v f (takeCanopies v (startSwap v farm.rcd.part s).1).1 (takeCanopies v (startSwap v farm.rcd.part s).1).2
    else (startSwap v farm.rcd.part s).1
  | _, _ => s

theorem execSwapOut_eq (v : BitVec 16) (s : State) : execSwapOut v s = .next (swapOutFor v ([0, 1].findSome? (swapChoice s v)) s) := by
  unfold execSwapOut
  extract_lets pick
  have choice : pick = [0, 1].findSome? (swapChoice s v) := rfl
  rw [← choice]
  clear_value pick
  unfold swapOutFor
  cases pick with
  | none => rfl
  | some f => cases s.farmOf v with
    | none => rfl
    | some farm =>
      dsimp only
      generalize startSwap v farm.rcd.part s = r
      obtain ⟨u, begun⟩ := r
      cases begun <;> rfl

theorem picked {s : State} {v f : BitVec 16}
    (chosen : schedulerChoice s 0 = some (.swap v f) ∨ ((∀ g, schedulerChoice s 0 ≠ some (.swap v g)) ∧ schedulerChoice s 1 = some (.swap v f))) :
    [0, 1].findSome? (swapChoice s v) = some f := by
  rcases chosen with first | ⟨other, second⟩
  · rw [List.findSome?_cons, swapChoice_swap first]
  · rw [List.findSome?_cons, swapChoice_none other, List.findSome?_cons, swapChoice_swap second]

theorem swapOut_spec {s : State} {v f : BitVec 16} {farm : Farm} (chosen : [0, 1].findSome? (swapChoice s v) = some f) (found : s.farmOf v = some farm) (begun : (startSwap v farm.rcd.part s).2 = true) :
    ∃ t, exec (.swapOut v) s = .next t ∧ (∀ h ∈ s.residents v, Taken t h.id)
      ∧ (∃ g, t.farmOf v = some g ∧ g.swapFor = some f ∧ g.keptSlots = (t.residents v).map (·.id) ∧ g.rcd = farm.rcd)
      ∧ (∀ b, (t.bench b).canopyOwner ≠ some v) ∧ ∃ a size, (v, a, size) ∈ (t.partn farm.rcd.part).blocks := by
  refine ⟨_, (execSwapOut_eq v s).trans (congrArg Host.Outcome.next (show _ = sweptOut v f _ _ by unfold swapOutFor; rw [chosen, found]; exact if_pos begun)), ?_⟩
  obtain ⟨⟨-, farms, -⟩, takes⟩ := startSwap_spec v farm.rcd.part s
  obtain ⟨taken, a, size, block⟩ := takes begun
  generalize (startSwap v farm.rcd.part s).1 = u at farms taken block
  obtain ⟨only, free⟩ := takeCanopies_spec v u
  generalize (takeCanopies v u).1 = lists, (takeCanopies v u).2 = w at only free
  have farm' : w.farmOf v = some farm := (farmOf_congr (only.farms.trans farms) v).trans found
  refine ⟨fun h listed => only.stay.taken (taken h listed), ⟨_, farmOf_updFarm (farmOf_servedFarm farm' v) fun g => rfl, rfl, rfl, (releasedFor_keeps v farm).2.1⟩, free, a, size, ?_⟩
  show (v, a, size) ∈ (w.partn farm.rcd.part).blocks
  rw [partn_congr only.parts]
  exact block

open Sys2Proof.Claim

/-! ## A suspension starts (R331) -/

section
variable {p : BitVec 3} {s : State}

/-- The state once the request of a suspension is taken. -/
def suspending (p : BitVec 3) (s : State) : State := s.setPart p { s.partn p with suspTime := none, suspTaken := false }

theorem startSuspension_kept : SuspensionKept (suspending p s) (startSuspension p s) := by
  unfold startSuspension
  extract_lets q begun left
  have leaves : SuspensionKept (suspending p s) left := by
    refine .foldl (fun u f => ?_) _ _
    have spec := (startSwap_spec f.num p (servedFarm f.num u)).1.suspension
    generalize startSwap f.num p (servedFarm f.num u) = r at spec
    obtain ⟨v, ok⟩ := r
    have swept : SuspensionKept u v := (SuspensionKept.of_parts (t := servedFarm f.num u) rfl).trans spec
    cases ok with
    | false => exact swept
    | true => exact swept.trans (.of_parts (takeCanopies_spec f.num v).1.parts)
  split
  · exact leaves
  · next b _ =>
    have spec := (startSwap_spec b.farm p left).1.suspension
    generalize startSwap b.farm p left = r at spec
    obtain ⟨v, ok⟩ := r
    cases ok with
    | false => exact leaves.trans spec
    | true =>
      have taken := (leaves.trans spec).trans (.of_parts (takeCanopies_spec b.farm v).1.parts)
      exact taken.trans (setPart_suspension _ p rfl rfl)

theorem startSuspension_taken : ((startSuspension p s).partn p).suspTime = none ∧ ((startSuspension p s).partn p).suspTaken = false := by
  obtain ⟨time, taken⟩ := startSuspension_kept (p := p) (s := s) p
  rw [time, taken, suspending, State.partn_setPart]
  exact ⟨rfl, rfl⟩

/-- The bureau hart that a suspension takes. -/
def bureauOf (p : BitVec 3) (s : State) : Option Hart := s.harts.find? (fun h => h.bureau && h.part == p && !h.swapping)

/-- No farm of the partition runs. -/
def NoneLeaves (p : BitVec 3) (s : State) : Prop := ∀ f ∈ s.farms, ¬ (f.rcd.part = p ∧ f.state = .running)

theorem startSuspension_idle (idle : NoneLeaves p s) : startSuspension p s = match bureauOf p s with
    | none => suspending p s
    | some b =>
      if (startSwap b.farm p (suspending p s)).2 then
        let u := (takeCanopies b.farm (startSwap b.farm p (suspending p s)).1).2
        u.setPart p { u.partn p with bureauCanopies := (takeCanopies b.farm (startSwap b.farm p (suspending p s)).1).1 }
      else (startSwap b.farm p (suspending p s)).1 := by
  unfold startSuspension
  extract_lets q begun left
  have none : begun.farms.filter (fun f => f.rcd.part == p && f.state == .running && !leaving begun f) = [] := by
    rw [List.filter_eq_nil_iff]
    intro f listed leaves
    rw [Bool.and_eq_true, Bool.and_eq_true, beq_iff_eq, beq_iff_eq] at leaves
    exact idle f listed leaves.1
  have still : left = suspending p s := by
    show List.foldl _ begun (begun.farms.filter _) = _
    rw [none]
    rfl
  have bureau : left.harts.find? (fun h => h.bureau && h.part == p && !h.swapping) = bureauOf p s := by
    rw [still]
    rfl
  rw [bureau, still]
  cases bureauOf p s with
  | none => rfl
  | some b =>
    dsimp only
    generalize startSwap b.farm p (suspending p s) = r
    obtain ⟨v, ok⟩ := r
    cases ok <;> rfl

theorem suspendTimeout_spec {t0 : Word} (asked : (s.partn p).suspTime = some t0) (up : (s.partn p).st = 1) :
    execSuspendTimeout p s = .next (if 1000000 ≤ (s.time - t0).toNat then startSuspension p s else s) := by
  unfold execSuspendTimeout
  rw [asked]
  dsimp only
  rw [up]
  exact congrArg Host.Outcome.next (if_congr (by simp) rfl rfl)

theorem suspension_takes {b : Hart} (idle : NoneLeaves p s) (bureau : bureauOf p s = some b) (begun : (startSwap b.farm p (suspending p s)).2 = true) :
    ∀ h ∈ s.residents b.farm, Taken (startSuspension p s) h.id := by
  intro h listed
  rw [startSuspension_idle idle, bureau]
  dsimp only
  rw [if_pos begun]
  have taken := ((startSwap_spec b.farm p (suspending p s)).2 begun).taken h listed
  generalize (startSwap b.farm p (suspending p s)).1 = v at taken
  have there := (takeCanopies_spec b.farm v).1.stay.taken taken
  exact (HartsStay.of_same (s := (takeCanopies b.farm v).2) rfl rfl).taken there

end

open Sys2Proof.Claim

/-! ## Saving a hart (R338, R343) -/

/-- A step of the current hart that leaves every other hart in its slot is made as it is. -/
theorem asHart_staying {s : State} {h : HartId} (cur : Current s h) {f : State → State} {v : Hart → Hart} (stays : ∀ g, (v g).id = g.id)
    (others : (f s).others = s.others.map v) : asHart h f s = f s := by
  have found := findHart_current cur
  obtain ⟨hid, here, alone⟩ := cur
  have p : s.hart.present = true := bne_iff_ne.2 here
  have self : focus h s = s := by rw [focus, if_pos (by rw [p, hid]; simp)]
  have none : (f s).others.any (fun g => g.id == s.hart.id) = false := by
    rw [others, List.any_map, List.any_eq_false, hid]
    exact fun g hg => by rw [Function.comp_apply, stays g]; simpa using alone g hg
  rw [asHart, found]
  dsimp only
  rw [self, none, Bool.and_false]
  rfl

/-- Posts that are dropped wake no hart that waits for none of them. -/
theorem wakeHead_hart {s : State} (awake : s.hart.run ≠ .asleep .matrix) (bench : Nat) : (wakeHead bench s).hart = s.hart := by
  unfold wakeHead
  split
  · rfl
  · unfold State.updHart
    split
    · exact if_neg (by simpa using awake)
    · rfl

theorem dropPosts_hart {s : State} (awake : s.hart.run ≠ .asleep .matrix) (i : HartId) : (dropPosts i s).hart = s.hart := by
  unfold dropPosts
  dsimp only
  split
  · rfl
  · exact wakeHead_hart (s := s.setBench (benchOf i) _) awake _

theorem freeTiles_free (i : HartId) (s : State) : ∀ x ∈ ((freeTiles i s).bench (benchOf i)).tiles.toList, x.owner ≠ some i := by
  unfold freeTiles
  dsimp only
  split
  · next free => exact fun x listed => bne_iff_ne.1 (List.all_eq_true.1 free x listed)
  · rw [State.bench_setBench]
    dsimp only
    rw [Vector.toList_map]
    intro x listed
    obtain ⟨t, -, rfl⟩ := List.mem_map.1 listed
    split
    · exact fun owned => nomatch owned
    · next other => exact fun owned => other (by rw [owned, beq_self_eq_true])

section
variable {s : State} {h : HartId}

/-- The current hart as it stands at its pre-emption point. -/
def broken (h : Hart) : Hart := { h with fetched := none, stalled := false }

theorem breakWait_awake (ready : s.hart.run = .ready) : (breakWait s).hart = broken s.hart ∧ HartsStay s (breakWait s) ∧ (breakWait s).farms = s.farms := by
  have hart : (dropPosts s.hart.id s).hart = s.hart := dropPosts_hart (by rw [ready]; exact fun no => nomatch no) _
  have stay := dropPosts_stays s.hart.id s
  have farms := (dropPosts_only s.hart.id s).farms
  unfold breakWait
  rw [settleWait_ready ready]
  dsimp only
  rw [ready]
  dsimp only
  refine ⟨congrArg broken hart, stay.trans ⟨broken, fun g => g, fun g => ⟨rfl, rfl, rfl, id⟩, .refl, rfl, (List.map_id' _).symm⟩, farms⟩

/-- What the save engine keeps of a hart whose image it has written as `d` is. -/
def keptAs (d : Hart) : Hart := { d with image := some ((d.image.getD (0, true)).1, false) }

/-- The state once the image of a hart is written. -/
def imageStored (d : Hart) (u : State) : State :=
  (imagePieces d (ownedTiles u d.id) (d.image.getD (0, true)).2).foldl (fun s p =>
    (agentStore s (cabinetSpace d.part) ((d.image.getD (0, true)).1 + BitVec.ofNat 64 p.1) (p.2.map (fun b => (b, false))) true).1) u

/-- The state once the current hart, which is of a user's farm, is saved. -/
def savedAs (d : Hart) (u : State) : State :=
  let v := (freeTiles d.id (imageStored d u)).updFarm d.farm (fun f =>
    { f with saved := f.saved ++ [keptAs d], savedTiles := f.savedTiles ++ (ownedTiles u d.id).map (fun t => (d.id, t.1, t.2)) })
  v.withHart { v.hart with run := .halted }

theorem saveHart_eq {s u : State} (stands : drainStores (breakWait s) = u) (calm : u.hart.haltAsked = false) (user : u.hart.bureau = false) :
    saveHart s = savedAs (savedForm u.hart) u := by
  unfold saveHart
  rw [stands]
  extract_lets a b c d e f
  have quiet : c = u := if_neg (by rw [show a.hart.haltAsked = false from calm]; exact Bool.false_ne_true)
  have form : d = savedForm u.hart := congrArg (fun s : State => savedForm s.hart) quiet
  have bureau : ¬ d.bureau = true := by
    rw [form]
    exact ne_true_of_eq_false user
  have tiles : e = ownedTiles u d.id := congrArg (fun s => ownedTiles s d.id) quiet
  rw [← form]
  have mine : f = (ownedTiles u d.id).map (fun t => (d.id, t.1, t.2)) := congrArg (List.map fun t => (d.id, t.1, t.2)) tiles
  clear_value f e d c
  subst quiet tiles mine
  unfold savedAs imageStored keptAs
  generalize d.image.getD (0, true) = q
  obtain ⟨addr, whole⟩ := q
  dsimp only
  rw [if_neg bureau]

theorem savedAs_spec {d : Hart} {u : State} {f : Farm} (farm : u.farmOf d.farm = some f) : (savedAs d u).hart.run = .halted ∧ (savedAs d u).others = u.others
      ∧ (∃ g, (savedAs d u).farmOf d.farm = some g ∧ g.saved = f.saved ++ [keptAs d]) ∧ ∀ x ∈ ((savedAs d u).bench (benchOf d.id)).tiles.toList, x.owner ≠ some d.id := by
  have moved : MemoryMoved u (imageStored d u) := .foldl (fun s p => agentStore_moved s _ _ _ _) _ _
  have only := freeTiles_only d.id (imageStored d u)
  have free := freeTiles_free d.id (imageStored d u)
  have others : (freeTiles d.id (imageStored d u)).others = u.others := ((congrArg State.others only).trans rfl).trans ((congrArg State.others moved.1).trans rfl)
  have there : (freeTiles d.id (imageStored d u)).farmOf d.farm = some f := (farmOf_congr (only.farms.trans moved.farms) _).trans farm
  unfold savedAs
  generalize freeTiles d.id (imageStored d u) = w at free others there
  exact ⟨rfl, others, ⟨_, farmOf_updFarm there fun g => rfl, rfl⟩, free⟩

theorem hartSave_spec (cur : Current s h) (swapping : s.hart.swapping = true) (user : s.hart.bureau = false) (still : s.hart.moving = false) (ready : s.hart.run = .ready)
    (calm : s.hart.haltAsked = false) (empty : s.hart.stores = []) (acknowledged : tget [] s.posted h.toNat = []) {f : Farm} (farm : s.farmOf s.hart.farm = some f)
    (unsaved : ∀ g ∈ f.saved, g.id ≠ h) :
    ∃ t, exec (.hartSave h) s = .next t ∧ t.hart.run = .halted ∧ (∃ g, t.farmOf s.hart.farm = some g ∧ g.saved = f.saved ++ [keptAs (savedForm (broken s.hart))])
      ∧ ∀ x ∈ (t.bench (benchOf h)).tiles.toList, x.owner ≠ some h := by
  obtain ⟨hart, stay, farms⟩ := breakWait_awake ready
  have drained : drainStores (breakWait s) = breakWait s := drainStores_empty (by rw [hart]; exact empty)
  have saves : saveHart s = savedAs (savedForm (broken s.hart)) (breakWait s) :=
    (saveHart_eq drained (by rw [hart]; exact calm) (by rw [hart]; exact user)).trans (by rw [hart])
  obtain ⟨halted, others, kept, free⟩ := savedAs_spec (d := savedForm (broken s.hart)) (u := breakWait s) (f := f) ((farmOf_congr farms _).trans farm)
  have id := cur.1
  have stops : s.mayStop s.hart = true := by
    unfold State.mayStop Hart.canStop
    rw [ready, still, id, acknowledged]
    rfl
  have unwritten : imageWritten s s.hart = false := imageWritten_none user (fun g found k listed => by
    rw [farm] at found
    rw [id]
    exact unsaved k (Option.some.inj found ▸ listed))
  obtain ⟨-, v, -, vStays, -, moved⟩ := stay
  have taken : (if s.hart.swapping && s.mayStop s.hart && !imageWritten s s.hart then saveHart s else s) = savedAs (savedForm (broken s.hart)) (breakWait s) := by
    rw [swapping, stops, unwritten]
    exact saves
  have run : exec (.hartSave h) s = .next (savedAs (savedForm (broken s.hart)) (breakWait s)) :=
    congrArg Host.Outcome.next ((asHart_staying cur (f := fun s => if s.hart.swapping && s.mayStop s.hart && !imageWritten s s.hart then saveHart s else s)
      (fun g => (vStays g).1) ((congrArg State.others taken).trans (others.trans moved))).trans taken)
  rw [show (savedForm (broken s.hart)).id = h from id] at free
  exact ⟨_, run, halted, kept, free⟩

/-! ## A saved hart leaves its slot (R121, R278, R344) -/

theorem removeHart_gone {i : HartId} (alone : ∀ k ∈ s.others, k.id = i → s.hart.id ≠ i ∨ s.hart.run = .absent) :
    (removeHart i s).findHart i = none ∧ (removeHart i s).mem = s.mem := by
  have stay := (freeTiles_only i s).stay.trans (dropPosts_stays i (freeTiles i s))
  have mem : (dropPosts i (freeTiles i s)).mem = s.mem :=
    ((congrArg State.mem (dropPosts_only i _)).trans rfl).trans ((congrArg State.mem (freeTiles_only i s)).trans rfl)
  obtain ⟨w, v, wStays, vStays, hart, others⟩ := stay
  obtain ⟨id, present, -, -⟩ := wStays s.hart
  unfold removeHart
  generalize dropPosts i (freeTiles i s) = u at hart others mem
  dsimp only
  by_cases here : (u.hart.present && u.hart.id == i) = true
  · rw [if_pos (show ((setPosted u i.toNat []).hart.present && (setPosted u i.toNat []).hart.id == i) = true from here)]
    refine ⟨?_, mem⟩
    have listed (g : Hart) (inside : g ∈ u.others) : ¬ (g.id == i) = true := by
      intro same
      rw [hart, present, id, Bool.and_eq_true, beq_iff_eq] at here
      rw [others] at inside
      obtain ⟨k, among, rfl⟩ := List.mem_map.1 inside
      rcases alone k among ((vStays k).1.symm.trans (beq_iff_eq.1 same)) with apart | absent
      · exact apart here.2
      · exact bne_iff_ne.1 here.1 absent
    refine (if_neg fun yes => ?_).trans (List.find?_eq_none.2 listed)
    exact Bool.false_ne_true (Bool.and_eq_true_iff.1 yes).1
  · rw [if_neg (show ¬ ((setPosted u i.toNat []).hart.present && (setPosted u i.toNat []).hart.id == i) = true from here)]
    refine ⟨?_, mem⟩
    unfold State.findHart
    rw [if_neg (show ¬ ((setPosted u i.toNat []).hart.present && (setPosted u i.toNat []).hart.id == i) = true from here), List.find?_eq_none]
    intro g listed same
    exact bne_iff_ne.1 (List.mem_filter.1 listed).2 (beq_iff_eq.1 same)

theorem settleFarm_only (n : BitVec 16) (s : State) : (settleFarm n s).hart = s.hart ∧ (settleFarm n s).others = s.others ∧ (settleFarm n s).mem = s.mem := by
  unfold settleFarm
  split <;> exact ⟨rfl, rfl, rfl⟩

theorem settlePartition_only (p : BitVec 3) (s : State) :
    (settlePartition p s).hart = s.hart ∧ (settlePartition p s).others = s.others ∧ (settlePartition p s).mem = s.mem := by
  unfold settlePartition
  dsimp only
  split <;> exact ⟨rfl, rfl, rfl⟩

theorem saveComplete_spec {g : Hart} {f : Farm} (found : s.findHart h = some g) (swapping : g.swapping = true) (user : g.bureau = false) (farm : s.farmOf g.farm = some f)
    (saved : ∃ k ∈ f.saved, k.id = h) (alone : ∀ k ∈ s.others, k.id = h → s.hart.id ≠ h ∨ s.hart.run = .absent) :
    ∃ t, exec (.saveComplete h) s = .next t ∧ t.findHart h = none ∧ t.mem = s.mem := by
  have id : g.id = h := by
    unfold State.findHart at found
    split at found
    · next here =>
      obtain rfl := Option.some.inj found
      exact beq_iff_eq.1 (Bool.and_eq_true_iff.1 here).2
    · exact beq_iff_eq.1 (List.find?_some (p := fun k : Hart => k.id == h) found)
  have written : imageWritten s g = true := by
    rw [imageWritten, user, if_neg Bool.false_ne_true, farm]
    obtain ⟨k, listed, same⟩ := saved
    exact List.any_eq_true.2 ⟨k, listed, by rw [same, id, beq_self_eq_true]⟩
  obtain ⟨gone, mem⟩ := removeHart_gone (i := h) alone
  obtain ⟨hart, others, mem'⟩ := settleFarm_only g.farm (removeHart h s)
  obtain ⟨hart', others', mem''⟩ := settlePartition_only g.part (settleFarm g.farm (removeHart h s))
  refine ⟨settlePartition g.part (settleFarm g.farm (removeHart h s)), ?_, (findHart_congr (hart'.trans hart) (others'.trans others) h).trans gone, (mem''.trans mem').trans mem⟩
  show execSaveComplete h s = _
  unfold execSaveComplete
  rw [found]
  dsimp only
  rw [swapping, written, user]
  rfl

end

open Sys2Proof.Claim

/-! ## Harts that are placed (R37, R275) -/

theorem find?_hartIns_ne {i : HartId} (l : List Hart) {h : Hart} (other : h.id ≠ i) : (hartIns l h).find? (fun g => g.id == i) = l.find? (fun g => g.id == i) := by
  have skip (g : Hart) (other : g.id ≠ i) (l : List Hart) : (g :: l).find? (fun g => g.id == i) = l.find? (fun g => g.id == i) :=
    List.find?_cons_of_neg fun same => other (beq_iff_eq.1 same)
  induction l with
  | nil => exact skip h other []
  | cons g rest ih =>
    unfold hartIns
    split
    · next same => exact (skip h other rest).trans (skip g (same ▸ other) rest).symm
    split
    · exact skip h other (g :: rest)
    · rw [List.find?_cons, List.find?_cons, ih]

theorem findHart_addHart_ne {s : State} {h : Hart} {i : HartId} (other : i ≠ h.id) : (s.addHart h).findHart i = s.findHart i := by
  unfold State.addHart
  by_cases current : s.hart.present = true
  · rw [if_pos current]
    unfold State.findHart
    dsimp only
    rw [find?_hartIns_ne s.others (Ne.symm other)]
  · rw [if_neg current]
    unfold State.findHart
    dsimp only
    rw [if_neg (fun here => other (beq_iff_eq.1 (Bool.and_eq_true_iff.1 here).2).symm), if_neg (fun here => current (Bool.and_eq_true_iff.1 here).1)]

theorem freshView_findHart (i j : HartId) (s : State) : (freshView i s).findHart j = s.findHart j :=
  findHart_congr ((congrArg State.hart (freshView_cores i s)).trans rfl) ((congrArg State.others (freshView_cores i s)).trans rfl) j

theorem freshView_l1 (i : HartId) (s : State) : ((freshView i s).core (coreOf i)).l1 = [] := by
  unfold freshView
  dsimp only
  split
  · next empty => exact List.isEmpty_iff.1 (Bool.and_eq_true_iff.1 empty).1
  · rw [State.core_setCore]

/-- The status of a hart of a user's farm when it starts (R37). -/
theorem startStatus (m : Bool) : setBit (setBit (setField 0x8 0 2 0) 2 (0#2 != 0)) 4 m = 0x8#64 ||| (if m then 0x10#64 else 0#64) := by
  revert m
  decide

theorem startHart_getX (s : State) (i : HartId) (farm : BitVec 16) (part : BitVec 3) (prv : BitVec 2) (entry arg trapbase ptbase : Word) (asid : BitVec 16) :
    (startHart s i farm part prv entry arg trapbase ptbase asid).getX 3 = arg
    ∧ ∀ r : Reg, r ≠ 3 → (startHart s i farm part prv entry arg trapbase ptbase asid).getX r = 0 := by
  refine ⟨rfl, fun r other => ?_⟩
  have init : ∀ (i : Nat) (h : i < 32), Hart.init.x[i] = 0 := fun i h => by simp [Hart.init]
  have apart : 3 ≠ r.toNat := fun e => other (BitVec.eq_of_toNat_eq e.symm)
  unfold Hart.getX
  split
  · rfl
  · show (Hart.init.x.set 3 arg)[r.toNat] = 0
    rw [Vector.getElem_set_ne _ _ apart]
    exact init _ _

section
variable {s : State} {n : BitVec 16} {die : Bool} {f : Farm} {i : HartId}

/-- The hart that a scheduler places for a farm. -/
def placedHart (s : State) (i : HartId) (n : BitVec 16) (f : Farm) : Hart := startHart s i n f.rcd.part 0 f.rcd.entry f.rcd.arg f.trapbase f.ptbase f.asid

/-- The state once it is placed. -/
def placedState (s : State) (i : HartId) (n : BitVec 16) (f : Farm) : State :=
  servedFarm n (freshView i ((s.addHart (placedHart s i n f)).updFarm n (fun f => f.placedOn (benchOf i) s.tick)))

theorem hartPlace_eq (farm : s.farmOf n = some f) (choice : schedulerChoice s die.toNat = some (.place n i)) : exec (.hartPlace n die) s = .next (placedState s i n f) := by
  show execHartPlace n die s = _
  unfold execHartPlace
  rw [choice]
  dsimp only
  rw [if_neg (by simp), farm]
  rfl

theorem hartPlace_other (other : ∀ i, schedulerChoice s die.toNat ≠ some (.place n i)) : exec (.hartPlace n die) s = .next s := by
  show execHartPlace n die s = _
  unfold execHartPlace
  split
  · next k i choice => rw [if_pos (bne_iff_ne.2 fun same => other i (by rw [choice, same]))]
  · rfl

theorem placedState_findHart (j : HartId) : (placedState s i n f).findHart j = (s.addHart (placedHart s i n f)).findHart j := by
  have view := freshView_findHart i j ((s.addHart (placedHart s i n f)).updFarm n (fun f => f.placedOn (benchOf i) s.tick))
  exact (findHart_congr rfl rfl j).trans (view.trans (findHart_congr rfl rfl j))

theorem placedState_farm (farm : s.farmOf n = some f) : ∃ g, (placedState s i n f).farmOf n = some g ∧ g.state = .running ∧ g.placedAt = s.tick ∧ g.rcd = f.rcd ∧ g.nextStrip = f.nextStrip := by
  have added : (s.addHart (placedHart s i n f)).farmOf n = some f := (farmOf_congr ((congrArg State.farms (addHart_harts s _)).trans rfl) n).trans farm
  have placed := farmOf_updFarm added (F := fun f => f.placedOn (benchOf i) s.tick) (fun g => rfl)
  have viewed := (farmOf_congr ((congrArg State.farms (freshView_cores i ((s.addHart (placedHart s i n f)).updFarm n (fun f => f.placedOn (benchOf i) s.tick)))).trans rfl) n).trans placed
  obtain ⟨-, rcd, state, placedAt, strip, -⟩ := releasedFor_keeps n (f.placedOn (benchOf i) s.tick)
  exact ⟨_, farmOf_servedFarm viewed n, state, placedAt, rcd, strip⟩

theorem placedState_mem : (placedState s i n f).mem = s.mem :=
  ((congrArg State.mem (freshView_cores i ((s.addHart (placedHart s i n f)).updFarm n (fun f => f.placedOn (benchOf i) s.tick)))).trans rfl).trans
    ((congrArg State.mem (addHart_harts s (placedHart s i n f))).trans rfl)

end

open Sys2Proof.Claim

/-! ## A farm that resumes (R279, R345) -/

/-- Places given to harts: each one of a list of slots, and none given twice. -/
def Given (slots : List HartId) (got : List (Hart × HartId)) : Prop := (∀ g ∈ got, g.2 ∈ slots) ∧ got.Pairwise (fun a b => b.2 ≠ a.2)

theorem assignAll_given {fits : List (Hart × HartId) → Hart → HartId → Bool} {slots : List HartId} (apart : ∀ got h i, fits got h i = true → ∀ g ∈ got, g.2 ≠ i)
    (l : List Hart) {got all : List (Hart × HartId)} (given : Given slots got) (found : assignAll fits slots l got = some all) : Given slots all := by
  induction l generalizing got with
  | nil =>
    obtain rfl := Option.some.inj found
    exact given
  | cons h rest ih =>
    obtain ⟨i, listed, here⟩ := List.exists_of_findSome?_eq_some found
    split at here
    · next fit =>
      refine ih ⟨fun g inside => ?_, ?_⟩ here
      · rcases List.mem_append.1 inside with before | last
        · exact given.1 g before
        · rw [List.mem_singleton.1 last]
          exact listed
      · refine List.pairwise_append.2 ⟨given.2, List.pairwise_singleton _ _, fun g before g' last => ?_⟩
        rw [List.mem_singleton.1 last]
        exact (apart got h i fit g before).symm
    · exact nomatch here

theorem findHart_none {s : State} {i : HartId} (free : ∀ h ∈ s.harts, h.id ≠ i) : s.findHart i = none := by
  unfold State.findHart
  rw [if_neg fun here => ?_, List.find?_eq_none]
  · exact fun h listed same => free h (List.mem_append_right _ listed) (beq_iff_eq.1 same)
  · obtain ⟨present, same⟩ := Bool.and_eq_true_iff.1 here
    refine free s.hart (List.mem_append_left _ ?_) (beq_iff_eq.1 same)
    rw [if_pos present]
    exact List.mem_singleton_self _

/-- The places of a farm that resumes are free slots, each given once. -/
theorem placesForAll_free {s : State} {n : BitVec 16} {f : Farm} {got : List (Hart × HartId)} (found : placesForAll s (placesWithout s n []) [] f = some got) :
    (∀ g ∈ got, s.findHart g.2 = none) ∧ got.Pairwise (fun a b => b.2 ≠ a.2) := by
  unfold placesForAll at found
  extract_lets left freeTile freeCanopy slots at found
  have given := assignAll_given (fun got h i fit g listed => by
    unfold canGo at fit
    simp only [Bool.and_eq_true] at fit
    exact bne_iff_ne.1 (List.all_eq_true.1 fit.1.1.1.1 g listed)) f.saved ⟨fun g no => absurd no List.not_mem_nil, .nil⟩ found
  refine ⟨fun g listed => findHart_none fun h there => ?_, given.2⟩
  have slot : g.2 ∈ slots := (freeOrder_perm s.fresh slots).mem_iff.1 (given.1 g listed)
  obtain ⟨b, -, inBench⟩ := List.mem_flatMap.1 slot
  obtain ⟨c, -, inCore⟩ := List.mem_flatMap.1 inBench
  obtain ⟨-, unused⟩ := List.mem_filter.1 inCore
  exact bne_iff_ne.1 (List.all_eq_true.1 (Bool.and_eq_true_iff.1 unused).1 h (List.mem_filter.2 ⟨there, rfl⟩))

/-- What placing a hart changes: harts, cores and benches. -/
def OnlyPlaced (s t : State) : Prop := t = { s with hart := t.hart, others := t.others, cores := t.cores, benches := t.benches }

theorem OnlyPlaced.refl (s : State) : OnlyPlaced s s := rfl

theorem OnlyPlaced.trans {s t u : State} (h : OnlyPlaced s t) (k : OnlyPlaced t u) : OnlyPlaced s u :=
  Eq.trans k (congrArg (fun x : State => { x with hart := u.hart, others := u.others, cores := u.cores, benches := u.benches })
    (show t = { s with hart := t.hart, others := t.others, cores := t.cores, benches := t.benches } from h))

theorem restoreTiles_only (old new : HartId) (l : List (HartId × Nat × Tile)) (s : State) : OnlyBenches s (restoreTiles old new l s) :=
  .foldl (fun s _ => (rfl : OnlyBenches s (s.setBench (benchOf new) _))) _ _

theorem OnlyBenches.placed {s t : State} (h : OnlyBenches s t) : OnlyPlaced s t := by
  unfold OnlyBenches at h
  generalize t.benches = b at h
  subst h
  rfl

theorem restoreHart_spec (l : List (HartId × Nat × Tile)) (s : State) (p : Hart × HartId) :
    OnlyPlaced s (restoreHart l s p) ∧ (s.findHart p.2 = none → (restoreHart l s p).findHart p.2 = some (restoredHart p.1 p.2))
      ∧ ∀ i, i ≠ p.2 → (restoreHart l s p).findHart i = s.findHart i := by
  have added : OnlyPlaced s (s.addHart (restoredHart p.1 p.2)) := by
    unfold State.addHart
    split <;> rfl
  have viewed : OnlyPlaced (s.addHart (restoredHart p.1 p.2)) (freshView p.2 (s.addHart (restoredHart p.1 p.2))) := by
    unfold freshView
    dsimp only
    split <;> rfl
  have tiles := restoreTiles_only p.1.id p.2 l (freshView p.2 (s.addHart (restoredHart p.1 p.2)))
  have slots (i : HartId) : (restoreHart l s p).findHart i = (s.addHart (restoredHart p.1 p.2)).findHart i :=
    (findHart_congr ((congrArg State.hart tiles).trans rfl) ((congrArg State.others tiles).trans rfl) i).trans (freshView_findHart p.2 i _)
  exact ⟨(added.trans viewed).trans tiles.placed, fun free => (slots p.2).trans (findHart_addHart (h := restoredHart p.1 p.2) (restoredHart_present _ _) free),
    fun i other => (slots i).trans (findHart_addHart_ne other)⟩

theorem restoreHarts_spec (l : List (HartId × Nat × Tile)) (got : List (Hart × HartId)) (s : State) (free : ∀ g ∈ got, s.findHart g.2 = none)
    (apart : got.Pairwise (fun a b => b.2 ≠ a.2)) : OnlyPlaced s (got.foldl (restoreHart l) s)
      ∧ (∀ g ∈ got, (got.foldl (restoreHart l) s).findHart g.2 = some (restoredHart g.1 g.2))
      ∧ ∀ i, (∀ g ∈ got, i ≠ g.2) → (got.foldl (restoreHart l) s).findHart i = s.findHart i := by
  induction got generalizing s with
  | nil => exact ⟨.refl s, fun g no => absurd no List.not_mem_nil, fun i _ => rfl⟩
  | cons p rest ih =>
    obtain ⟨only, here, elsewhere⟩ := restoreHart_spec l s p
    obtain ⟨first, later⟩ := List.pairwise_cons.1 apart
    obtain ⟨only', there, elsewhere'⟩ := ih (restoreHart l s p)
      (fun g listed => (elsewhere g.2 (first g listed)).trans (free g (List.mem_cons_of_mem _ listed))) later
    refine ⟨only.trans only', fun g listed => ?_, fun i other => ?_⟩
    · rcases List.mem_cons.1 listed with rfl | inside
      · exact (elsewhere' _ fun g inside => (first g inside).symm).trans (here (free _ List.mem_cons_self))
      · exact there g inside
    · exact (elsewhere' i fun g inside => other g (List.mem_cons_of_mem _ inside)).trans (elsewhere i (other p List.mem_cons_self))

/-- A farm that stands again on the benches of its harts. -/
theorem placedOn_all (got : List (Hart × HartId)) (now : Nat) (f : Farm) :
    let g := got.foldl (fun f g => f.placedOn (benchOf g.2) now) f
    g.num = f.num ∧ g.rcd = f.rcd ∧ g.saved = f.saved ∧ g.savedTiles = f.savedTiles := by
  dsimp only
  induction got generalizing f with
  | nil => exact ⟨rfl, rfl, rfl, rfl⟩
  | cons p rest ih => exact ih (f.placedOn (benchOf p.2) now)

theorem renameIssuer_keeps (n : BitVec 16) (got : List (Hart × HartId)) (s : State) : (renameIssuer n got s).hart = s.hart ∧ (renameIssuer n got s).others = s.others
    ∧ (renameIssuer n got s).farms = s.farms ∧ (renameIssuer n got s).mem = s.mem ∧ (renameIssuer n got s).fresh = s.fresh := ⟨rfl, rfl, rfl, rfl, rfl⟩

section
variable {s : State} {n : BitVec 16} {die : Bool} {f : Farm} {got : List (Hart × HartId)}

/-- A farm as it stands once its harts are back. -/
def resumedFarm (got : List (Hart × HartId)) (now : Nat) (f : Farm) : Farm :=
  got.foldl (fun f g => f.placedOn (benchOf g.2) now) { f with saved := [], savedTiles := [], savedCanopies := [] }

/-- The state once the harts of a farm without canopies are back. -/
def farmBack (s : State) (n : BitVec 16) (f : Farm) (got : List (Hart × HartId)) : State :=
  let u := got.foldl (restoreHart f.savedTiles) { s with fresh := s.fresh + 1 }
  servedFarm n (renameIssuer n got (u.updFarm n (resumedFarm got u.tick)))

theorem farmResume_eq (farm : s.farmOf n = some f) (choice : schedulerChoice s die.toNat = some (.resume n))
    (places : placesForAll s (placesWithout s n []) [] f = some got) (none : f.savedCanopies = []) : exec (.farmResume n die) s = .next (farmBack s n f got) := by
  show execFarmResume n die s = _
  unfold execFarmResume
  rw [choice, farm]
  dsimp only
  rw [if_neg (by simp), places, none]
  rfl

theorem farmBack_spec (farm : s.farmOf n = some f) (places : placesForAll s (placesWithout s n []) [] f = some got) :
    (∃ g, (farmBack s n f got).farmOf n = some g ∧ g.saved = [] ∧ g.savedTiles = [] ∧ g.rcd = f.rcd) ∧ (farmBack s n f got).fresh = s.fresh + 1
      ∧ (farmBack s n f got).mem = s.mem ∧ ∀ p ∈ got, (farmBack s n f got).findHart p.2 = some (restoredHart p.1 p.2) := by
  obtain ⟨free, apart⟩ := placesForAll_free places
  obtain ⟨only, there, -⟩ := restoreHarts_spec f.savedTiles got { s with fresh := s.fresh + 1 } free apart
  unfold farmBack
  generalize got.foldl (restoreHart f.savedTiles) { s with fresh := s.fresh + 1 } = u at only there
  dsimp only
  have fresh : u.fresh = s.fresh + 1 := (congrArg State.fresh only).trans rfl
  have mem : u.mem = s.mem := (congrArg State.mem only).trans rfl
  have before : u.farmOf n = some f := (farmOf_congr ((congrArg State.farms only).trans rfl) n).trans farm
  have keeps (g : Farm) : (resumedFarm got u.tick g).num = g.num := (placedOn_all got u.tick _).1
  have after := farmOf_updFarm before keeps
  obtain ⟨-, rcd, saved, tiles⟩ := placedOn_all got u.tick { f with saved := [], savedTiles := [], savedCanopies := [] }
  obtain ⟨-, rcd', -, -, -, saved', tiles'⟩ := releasedFor_keeps n (resumedFarm got u.tick f)
  obtain ⟨hart, others, farms, mem', fresh'⟩ := renameIssuer_keeps n got (u.updFarm n (resumedFarm got u.tick))
  generalize renameIssuer n got (u.updFarm n (resumedFarm got u.tick)) = v at hart others farms mem' fresh'
  exact ⟨⟨_, farmOf_servedFarm ((farmOf_congr farms n).trans after) n, saved'.trans saved, tiles'.trans tiles, rcd'.trans rcd⟩, fresh'.trans fresh, mem'.trans mem,
    fun p listed => (findHart_congr hart others p.2).trans (there p listed)⟩

end

open Sys2Proof.Claim

/-! ## A dependence, waiting, and completion (R220, R271, R272) -/

section
variable {s : State} {n : BitVec 16} {f : Farm}

theorem farmDepRead_spec {m : Mapped} (farm : s.farmOf n = some f) (blocked : f.state = .blocked) (mapped : agentMap s f.space .load f.rcd.depaddr = .ok m) (clean : NoUpset s)
    (up : LinkUp s m.pa 8) : ∃ t, exec (.farmDepRead n) s = .next t ∧ SameButRows t (if f.rcd.depval.toNat ≤ memRead s.mem m.pa 8
      then s.updFarm n (fun g => { g with state := if g.rcd.strips = 0 then .completing else .ready, queuedAt := s.tick }) else s) := by
  have rows := agentTouch_rows clean (agentMap_reached mapped) f.rcd.part up.2 true
  have tick : (agentTouch s f.rcd.part m 8 true).tick = s.tick := (congrArg State.tick rows).trans rfl
  have reads : homeRead (agentTouch s f.rcd.part m 8 true) m.pa 8 = memRead s.mem m.pa 8 := by
    rw [homeRead_up ((rows.linkDown m.pa).trans up.1), sameButRows_mem rows.sameButRows]
  have run : exec (.farmDepRead n) s = .next (if homeRead (agentTouch s f.rcd.part m 8 true) m.pa 8 ≥ f.rcd.depval.toNat
      then (agentTouch s f.rcd.part m 8 true).updFarm n (eligible (agentTouch s f.rcd.part m 8 true).tick) else agentTouch s f.rcd.part m 8 true) := by
    show execFarmDepRead n s = _
    unfold execFarmDepRead
    rw [farm]
    dsimp only
    rw [if_neg (by rw [blocked]; decide), mapped]
  refine ⟨_, run, ?_⟩
  rw [reads, tick]
  generalize agentTouch s f.rcd.part m 8 true = u at rows
  by_cases met : f.rcd.depval.toNat ≤ memRead s.mem m.pa 8
  · rw [if_pos met, if_pos met]
    exact RowsMoved.sameButRows (congrArg (fun x : State => x.updFarm n (eligible s.tick)) rows)
  · rw [if_neg met, if_neg met]
    exact rows.sameButRows

/-- The priority a farm has once it has waited so many more cycles. -/
theorem effOf_aged (cycles : Nat) (g : Farm) :
    let old := min 7 (g.rcd.prio + (g.waited + cycles) / 1048576)
    let h : Farm := { g with waited := g.waited + cycles, unaged := g.unaged - 4 * cycles }
    { h with eff := effOf h } = { g with waited := g.waited + cycles, unaged := g.unaged - 4 * cycles, eff := if g.state = .running then max g.eff old else old } := by
  dsimp only
  unfold effOf
  rw [show (2 : Nat) ^ 20 = 1048576 from rfl]
  dsimp only
  by_cases running : g.state = .running
  · rw [if_pos running, if_pos (by rw [running]; rfl)]
  · rw [if_neg running, if_neg (by simpa using running)]

theorem wantsHarts_waiting {g : Farm} (waiting : g.state = .ready ∨ g.state = .swapped) : wantsHarts s g = true := by
  unfold wantsHarts
  rcases waiting with h | h <;> rw [h]

theorem wantsHarts_none {g : Farm} (none : g.state = .blocked ∨ g.state = .completing ∨ g.state = .done) : wantsHarts s g = false := by
  unfold wantsHarts
  rcases none with h | h | h <;> rw [h]

/-- A partition whose cabinet has no block of farm `n`. -/
def withoutBlock (n : BitVec 16) (p : Part) : Part :=
  { p with blocks := p.blocks.filter (fun b => b.1 != n), noVictim := p.noVictim && p.blocks.all (fun b => b.1 != n) }

/-- The state once a farm's completion is written at `u`. -/
def farmDone (n : BitVec 16) (f : Farm) (u : State) : State :=
  let v := freeCanopies n u
  (v.setPart f.rcd.part (withoutBlock n (v.partn f.rcd.part))).updFarm n (fun f => { f with state := .done })

theorem farmDone_spec {u : State} (farm : u.farmOf n = some f) : (∃ g, (farmDone n f u).farmOf n = some g ∧ g.state = .done ∧ g.rcd = f.rcd)
    ∧ (∀ b, ((farmDone n f u).bench b).canopyOwner ≠ some n) ∧ (∀ b ∈ ((farmDone n f u).partn f.rcd.part).blocks, b.1 ≠ n)
    ∧ (farmDone n f u).hart = u.hart ∧ (farmDone n f u).others = u.others ∧ (farmDone n f u).mem = u.mem := by
  have only := freeCanopies_only n u
  have free := freeCanopies_spec n u
  unfold farmDone
  generalize freeCanopies n u = v at only free
  dsimp only
  have there : (v.setPart f.rcd.part (withoutBlock n (v.partn f.rcd.part))).farmOf n = some f := (farmOf_congr only.farms n).trans farm
  have kept : (v.setPart f.rcd.part (withoutBlock n (v.partn f.rcd.part))).partn f.rcd.part = withoutBlock n (v.partn f.rcd.part) := State.partn_setPart _ _ _
  refine ⟨⟨_, farmOf_updFarm there fun g => rfl, rfl, rfl⟩, free, fun b inside => ?_, (congrArg State.hart only).trans rfl, (congrArg State.others only).trans rfl,
    (congrArg State.mem only).trans rfl⟩
  have inside' : b ∈ (withoutBlock n (v.partn f.rcd.part)).blocks := kept ▸ inside
  exact bne_iff_ne.1 (List.mem_filter.1 inside').2

theorem farmComplete_spec {m : Mapped} (farm : s.farmOf n = some f) (completing : f.state = .completing) (mapped : agentMap s f.space .store f.rcd.done = .ok m)
    (sound : Sound s) (clean : NoUpset s) (up : LinkUp s m.pa 8) (free : Unheld s m.pa 8) :
    ∃ t, exec (.farmComplete n) s = .next t ∧ StoredAt s t m.pa 8 f.rcd.doneval.toNat ∧ (∃ g, t.farmOf n = some g ∧ g.state = .done ∧ g.rcd = f.rcd)
      ∧ (∀ b, (t.bench b).canopyOwner ≠ some n) ∧ (∀ b ∈ (t.partn f.rcd.part).blocks, b.1 ≠ n) ∧ t.hart = s.hart ∧ t.others = s.others := by
  have written := agentWrite_written clean (agentMap_reached mapped) f.rcd.part (bs := bytesOf 8 f.rcd.doneval.toNat) (by rw [length_bytesOf]; exact up)
    (by rw [length_bytesOf]; exact free) true
  have moved := agentWrite_moved s f.rcd.part m (bytesOf 8 f.rcd.doneval.toNat) true
  have run : exec (.farmComplete n) s = .next (farmDone n f (agentWrite s f.rcd.part m (bytesOf 8 f.rcd.doneval.toNat) true)) := by
    show execFarmComplete n s = _
    unfold execFarmComplete writeFlag
    rw [farm]
    dsimp only
    rw [if_pos completing, mapped]
    rfl
  generalize agentWrite s f.rcd.part m (bytesOf 8 f.rcd.doneval.toNat) true = u at written moved run
  obtain ⟨done, canopies, blocks, hart, others, mem⟩ := farmDone_spec (n := n) (u := u) ((farmOf_congr moved.farms n).trans farm)
  have stored : StoredAt s u m.pa 8 f.rcd.doneval.toNat := written.storedAt sound
  exact ⟨_, run, storedAt_of_mem stored mem, done, canopies, blocks, hart.trans moved.hart, others.trans ((congrArg State.others moved.1).trans rfl)⟩

theorem farmComplete_other (farm : s.farmOf n = some f) (other : f.state ≠ .completing) : exec (.farmComplete n) s = .next s := by
  show execFarmComplete n s = _
  unfold execFarmComplete
  rw [farm]
  dsimp only
  rw [if_neg other]

end

open Sys2Proof.Claim

/-- What a scheduler places is the hart that R37 starts, and nothing else moves but its core and its farm. -/
theorem hartPlace_spec {s : State} {n : BitVec 16} {f : Farm} {i : HartId} {die : Bool} (farm : s.farmOf n = some f) (choice : schedulerChoice s die.toNat = some (.place n i))
    (free : s.findHart i = none) :
    ∃ t h, exec (.hartPlace n die) s = .next t ∧ t.findHart i = some h ∧ h.run = .ready ∧ h.farm = n ∧ h.part = f.rcd.part ∧ h.partid = f.rcd.part
      ∧ h.pc = f.rcd.entry &&& ~~~1#64 ∧ h.getX 3 = f.rcd.arg ∧ (∀ r : Reg, r ≠ 3 → h.getX r = 0)
      ∧ h.status = 0x8#64 ||| (if s.boot.refMode then 0x10#64 else 0#64) ∧ h.trapbase = f.trapbase &&& ~~~3#64 ∧ h.ptbase = f.ptbase ∧ h.asid = f.asid
      ∧ h.stripno = BitVec.allOnes 64 ∧ h.granted = false ∧ h.vlg = 0 ∧ h.vlv = 0 ∧ h.instret = 0
      ∧ (∀ j, j ≠ i → t.findHart j = s.findHart j) ∧ t.mem = s.mem ∧ (t.core (coreOf i)).l1 = []
      ∧ (∃ g, t.farmOf n = some g ∧ g.state = .running ∧ g.placedAt = s.tick ∧ g.rcd = f.rcd ∧ g.nextStrip = f.nextStrip) := by
  obtain ⟨arg, zero⟩ := startHart_getX s i n f.rcd.part 0 f.rcd.entry f.rcd.arg f.trapbase f.ptbase f.asid
  refine ⟨placedState s i n f, placedHart s i n f, hartPlace_eq farm choice, ?_, rfl, rfl, rfl, rfl, rfl, arg, zero, startStatus s.boot.refMode, rfl, rfl, rfl, rfl, rfl, rfl, rfl,
    rfl, fun j other => ?_, placedState_mem, freshView_l1 i _, placedState_farm farm⟩
  · exact (placedState_findHart i).trans (findHart_addHart (h := placedHart s i n f) rfl free)
  · exact (placedState_findHart j).trans (findHart_addHart_ne (h := placedHart s i n f) other)

/-- Settles O49: each step of the schedulers and of the save engine, one lemma a step. -/
theorem schedulerSteps : Obligations.SchedulerSteps := by
  intro s n
  refine ⟨fun f m farm blocked mapped clean up => farmDepRead_spec farm blocked mapped clean up, fun cycles => ?aging, fun f i die farm choice free => hartPlace_spec farm choice free,
    fun die other => hartPlace_other other, fun v f farm chosen found begun => swapOut_spec (picked chosen) found begun,
    fun h cur swapping user still ready calm empty acknowledged f farm unsaved => ?save,
    fun h g f found swapping user farm saved alone => saveComplete_spec found swapping user farm saved alone,
    fun f die got farm choice places none => ?resume, fun f m farm completing mapped sound clean up free => farmComplete_spec farm completing mapped sound clean up free,
    fun f farm other => farmComplete_other farm other, fun p t0 asked up => ?suspend⟩
  case aging =>
    refine ⟨?_, fun g => ⟨wantsHarts_waiting, wantsHarts_none⟩⟩
    refine congrArg (fun F : Farm → Farm => Host.Outcome.next (s.updFarm n F)) (funext fun g => ?_)
    split
    · exact effOf_aged cycles g
    · rfl
  case save =>
    obtain ⟨t, run, halted, kept, free⟩ := hartSave_spec cur swapping user still ready calm empty acknowledged farm unsaved
    exact ⟨t, _, run, halted, kept, cur.1, rfl, rfl, rfl, rfl, rfl, rfl, rfl, rfl, rfl, free⟩
  case resume =>
    obtain ⟨⟨g, there, saved, tiles, rcd⟩, fresh, mem, harts⟩ := farmBack_spec farm places
    exact ⟨_, g, farmResume_eq farm choice places none, there, saved, tiles, rcd, fresh, mem, harts⟩
  case suspend =>
    have run := suspendTimeout_spec asked up
    refine ⟨fun early => run.trans (congrArg Host.Outcome.next (if_neg (by omega))), fun late => ?_⟩
    have starts : exec (.suspendTimeout p) s = .next (startSuspension p s) := run.trans (congrArg Host.Outcome.next (if_pos late))
    refine ⟨⟨_, starts, startSuspension_taken⟩, fun idle => ⟨fun none => ?_, fun b bureau begun => ⟨_, starts, suspension_takes idle bureau begun⟩⟩⟩
    have still : startSuspension p s = suspending p s := by
      rw [startSuspension_idle idle, show bureauOf p s = Option.none from none]
    exact starts.trans (congrArg Host.Outcome.next still)

end Sys2Proof.Machine

namespace Sys2Proof.Machine
/-! A step of a hart: O1. -/

open Sys2Proof.Claim

/-! ## A hart's turn (R221, R281) -/

section
variable {s u : State} {h : HartId}

/-- In a hart's turn the step is what its front end makes of the state it sees. -/
theorem step_turn (turn : Turn s u h) : step s = after (runFront exec u) := by
  obtain ⟨powered, free, acts⟩ := turn
  have instr (v : State) (is : u = giveTurn h v) : Machine.turn h v = .instr u := by
    unfold Machine.turn
    rw [← is]
    exact if_neg (by rw [free]; exact Bool.false_ne_true)
  have chosen : choose s = .instr u := by
    rcases acts with ⟨t, agenda, choice, is⟩ | ⟨agenda, idle, next, is⟩
    · unfold choose
      rw [agenda]
      dsimp only
      rw [if_pos choice]
      exact instr _ is
    · have none : (if s.tick % 2 = 0 then dueEvent s else none) = none := by
        rcases idle with odd | empty
        · exact if_neg (by omega)
        · rw [dueEvent, empty]
          exact ite_self _
      unfold choose
      rw [agenda]
      dsimp only
      rw [none, next]
      exact instr _ is
  unfold step
  rw [chosen]
  exact if_pos powered

theorem coreOf_hartIdOf {c k : Nat} (range : c < 256) (slot : k < 4) : coreOf (hartIdOf c k) = c := by
  unfold coreOf hartIdOf
  rw [BitVec.extractLsb'_toNat, BitVec.toNat_ofNat, Nat.mod_eq_of_lt (by omega : 4 * c + k < 2 ^ 10), Nat.shiftRight_eq_div_pow, Nat.mod_eq_of_lt (by omega)]
  omega

theorem frontChoice_core {c : Nat} (range : c < 256) (choice : frontChoice s c = some h) : coreOf h = c := by
  obtain ⟨i, -, rfl⟩ := List.mem_map.1 (List.mem_of_find?_eq_some choice)
  exact coreOf_hartIdOf range (Nat.mod_lt _ (by decide))

theorem coreOf_lt (i : HartId) : coreOf i < 256 := (i.extractLsb' 2 8).isLt

/-- The hart whose turn it is is the one that its core's front end chooses. -/
theorem turn_choice (turn : Turn s u h) : frontChoice s (coreOf h) = some h := by
  obtain ⟨-, -, acts⟩ := turn
  rcases acts with ⟨t, -, choice, -⟩ | ⟨-, -, next, -⟩
  · exact choice
  · obtain ⟨g, -, choice⟩ := List.exists_of_findSome?_eq_some next
    rwa [frontChoice_core (coreOf_lt g.id) choice]

/-- The state a turn begins from is `s`, but for an entry of the agenda. -/
theorem turn_from (turn : Turn s u h) : ∃ a, u = giveTurn h { s with agenda := a } := by
  obtain ⟨-, -, acts⟩ := turn
  rcases acts with ⟨t, -, -, is⟩ | ⟨agenda, -, -, is⟩
  · exact ⟨t, is⟩
  · refine ⟨[], ?_⟩
    rw [← agenda]
    exact is

/-- The front end's order: the first ready hart after the one chosen last that has not to be passed over. -/
theorem frontChoice_first {c : Nat} (choice : frontChoice s c = some h) : ∃ k, k < 4 ∧ h = hartIdOf c (((s.core c).lastSlot + 1 + k) % 4)
    ∧ ∀ j, j < k → ∀ g ∈ s.harts, g.id = hartIdOf c (((s.core c).lastSlot + 1 + j) % 4) → g.canRun = true →
        g.yielded = true ∧ ∃ g' ∈ s.harts, coreOf g'.id = coreOf g.id ∧ g'.canRun = true ∧ g.passed.getLsbD (slotOf g'.id) = false := by
  obtain ⟨-, before, after, split, skipped⟩ := List.find?_eq_some_iff_append.1 choice
  have length : before.length < 4 := by
    have all := congrArg List.length split
    rw [List.length_map, List.length_range, List.length_append, List.length_cons] at all
    omega
  have listed (j : Nat) (within : j < 4) : ((List.range 4).map (fun i => hartIdOf c (((s.core c).lastSlot + 1 + i) % 4)))[j]? = some (hartIdOf c (((s.core c).lastSlot + 1 + j) % 4)) := by
    rw [List.getElem?_map, List.getElem?_range within, Option.map_some]
  refine ⟨before.length, length, ?_, fun j earlier g there slot ready => ?_⟩
  · have here := listed before.length length
    rw [split, List.getElem?_append_right (Nat.le_refl _), Nat.sub_self, List.getElem?_cons_zero] at here
    exact Option.some.inj here
  · have here := listed j (by omega)
    rw [split, List.getElem?_append_left earlier] at here
    have unfit := skipped _ (List.mem_of_getElem? here)
    rw [Bool.not_eq_true', List.any_eq_false] at unfit
    have passed : passedOver s g = true := by
      by_contra no
      exact unfit g there (by rw [slot, ready, Bool.eq_false_iff.2 no, beq_self_eq_true]; rfl)
    unfold passedOver at passed
    obtain ⟨yielded, other⟩ := Bool.and_eq_true_iff.1 passed
    obtain ⟨g', there', is⟩ := List.any_eq_true.1 other
    simp only [Bool.and_eq_true, beq_iff_eq, Bool.not_eq_true'] at is
    exact ⟨yielded, g', there', is.1.1.2, is.1.2, is.2⟩

/-- With nothing owed before it acts, a hart's turn begins at once. -/
theorem settleLeft_calm (calm : Calm s) (covers : Nat → HartId → Bool) : settleLeft covers s = s := by
  have none : s.harts.filter (fun g => g.stores.any (fun e => e.left != 0 && covers e.left g.id)) = [] := by
    rw [List.filter_eq_nil_iff]
    intro g listed some
    obtain ⟨e, inside, owed⟩ := List.any_eq_true.1 some
    rw [calm g listed e inside] at owed
    exact nomatch owed
  unfold settleLeft
  rw [none]
  rfl

theorem findHart_unique (once : (s.harts.map (fun g => g.id)).Nodup) {g : Hart} (listed : g ∈ s.harts) : s.findHart g.id = some g := by
  obtain ⟨f, found⟩ := findHart_of_mem listed
  have there : f ∈ s.harts ∧ f.id = g.id := by
    unfold State.findHart at found
    split at found
    · next here =>
      obtain rfl := Option.some.inj found
      obtain ⟨present, same⟩ := Bool.and_eq_true_iff.1 here
      refine ⟨List.mem_append_left _ ?_, beq_iff_eq.1 same⟩
      rw [if_pos present]
      exact List.mem_singleton_self _
    · exact ⟨List.mem_append_right _ (List.mem_of_find?_eq_some found), beq_iff_eq.1 (List.find?_some (p := fun h : Hart => h.id == g.id) found)⟩
  rw [found, List.inj_on_of_nodup_map once there.1 listed there.2]

theorem focus_found {i : HartId} {g : Hart} (found : s.findHart i = some g) : (focus i s).hart = g ∧ (focus i s).mem = s.mem ∧ (focus i s).time = s.time := by
  unfold State.findHart at found
  unfold focus
  by_cases here : (s.hart.present && s.hart.id == i) = true
  · rw [if_pos here] at found ⊢
    exact ⟨Option.some.inj found, rfl, rfl⟩
  · rw [if_neg here] at found ⊢
    rw [found]
    exact ⟨rfl, rfl, rfl⟩

theorem turn_hart (turn : Turn s u h) (once : (s.harts.map (fun g => g.id)).Nodup) (calm : Calm s) : ∃ g, s.findHart h = some g ∧ g.canRun = true
    ∧ u.hart = { g with yielded := false, stalled := false, passed := 0 } ∧ u.mem = s.mem ∧ u.time = s.time := by
  have ready := List.find?_some (turn_choice turn)
  obtain ⟨g, listed, is⟩ := List.any_eq_true.1 ready
  simp only [Bool.and_eq_true, beq_iff_eq] at is
  obtain ⟨⟨rfl, runs⟩, -⟩ := is
  have found := findHart_unique once listed
  obtain ⟨a, is⟩ := turn_from turn
  have settled : settleHart g.id { s with agenda := a } = { s with agenda := a } := settleLeft_calm (s := { s with agenda := a }) calm _
  obtain ⟨hart, mem, time⟩ := focus_found (s := { s with agenda := a }) (i := g.id) (g := g) found
  unfold giveTurn at is
  rw [settled] at is
  generalize focus g.id { s with agenda := a } = v at hart mem time is
  subst is
  exact ⟨g, found, runs, congrArg (fun k : Hart => { k with yielded := false, stalled := false, passed := 0 }) hart, mem, time⟩

end

open Sys2Proof.Claim

/-! ## What fetching moves (R74, R301) -/

/-- What fetching may move: caches, HBM rows and counts. -/
def FetchMoved (s t : State) : Prop := t = { s with l2 := t.l2, dram := t.dram, life := t.life, cores := t.cores, benches := t.benches }

theorem FetchMoved.refl (s : State) : FetchMoved s s := rfl

theorem FetchMoved.trans {s t u : State} (h : FetchMoved s t) (k : FetchMoved t u) : FetchMoved s u :=
  Eq.trans k (congrArg (fun x : State => { x with l2 := u.l2, dram := u.dram, life := u.life, cores := u.cores, benches := u.benches })
    (show t = { s with l2 := t.l2, dram := t.dram, life := t.life, cores := t.cores, benches := t.benches } from h))

theorem FetchMoved.noUpset {s t : State} (h : FetchMoved s t) (clean : NoUpset s) : NoUpset t := (congrArg State.upsets h).trans clean
theorem FetchMoved.linkDown {s t : State} (h : FetchMoved s t) (pa : Nat) : linkDown t pa = linkDown s pa := (congrArg (fun x => Machine.linkDown x pa) h).trans rfl

theorem RowsMoved.fetch {s t : State} (h : RowsMoved s t) : FetchMoved s t := by
  unfold RowsMoved at h
  generalize t.l2 = l2, t.dram = dram, t.life = life at h
  subst h
  rfl

theorem fetchSector_fetch (m : Mapped) {s : State} (clean : NoUpset s) (up : ∀ pa, linkDown s pa = false) (k : Nat) : FetchMoved s (fetchSector m s k) := by
  have touched (uc : Bool) : FetchMoved s (touch s s.hart.partid k m.abench uc false true) := (touch_rows clean s.hart.partid (up k) m.abench uc false true).fetch
  unfold fetchSector
  dsimp only
  split
  · exact touched m.uc
  split
  · exact .refl s
  split
  · exact touched false
  · refine (touched false).trans ?_
    rfl

theorem fetchPass_fetch {s : State} (clean : NoUpset s) (up : ∀ pa, linkDown s pa = false) (a : Word) (n : Nat) : FetchMoved s (fetchPass a n s) := by
  refine foldl_inv (FetchMoved s) (fun t i moved => ?_) (.refl s) (List.range n)
  split
  · next m found =>
    have reached : m.WalkReached t := translate_reached (locate_translate found)
    have walked : FetchMoved t (noteWalk t (some t.hart.id) m) := (noteWalk_sameButRows (moved.noUpset clean) reached (some t.hart.id)).1
    have both := moved.trans walked
    exact both.trans (fetchSector_fetch m (both.noUpset clean) (fun pa => (both.linkDown pa).trans (up pa)) _)
  · exact moved

theorem fetchSector_hart (m : Mapped) (s : State) (k : Nat) : (fetchSector m s k).hart = s.hart := by
  unfold fetchSector
  dsimp only
  split
  · exact touch_hart s _ _ _ _ _ _
  split
  · rfl
  split
  · exact touch_hart s _ _ _ _ _ _
  · exact touch_hart s _ _ _ _ _ _

theorem fetchPass_hart (a : Word) (n : Nat) (s : State) : (fetchPass a n s).hart = s.hart :=
  foldl_keeps State.hart (fun s i => by
    split
    · exact (fetchSector_hart _ _ _).trans (noteWalk_hart _ _ _)
    · rfl) s (List.range n)

/-! ## The bytes at PC (R73, R74) -/

theorem ofNat_two (b0 b1 : Byte) : BitVec.ofNat 16 (ofBytes [b0, b1]) = b1 ++ b0 := by
  apply BitVec.eq_of_toNat_eq
  have h0 := b0.isLt
  have h1 := b1.isLt
  rw [BitVec.toNat_append, BitVec.toNat_ofNat, ← Nat.shiftLeft_add_eq_or_of_lt h0, Nat.shiftLeft_eq]
  show (b0.toNat + 256 * (b1.toNat + 256 * 0)) % 65536 = _
  omega

theorem ofNat_four (b0 b1 b2 b3 : Byte) : BitVec.ofNat 32 (ofBytes [b0, b1, b2, b3]) = b3 ++ b2 ++ (b1 ++ b0) := by
  apply BitVec.eq_of_toNat_eq
  have h0 := b0.isLt
  have h1 := b1.isLt
  have h2 := b2.isLt
  have h3 := b3.isLt
  have low : (b1 ++ b0).toNat = b1.toNat * 256 + b0.toNat := by rw [BitVec.toNat_append, ← Nat.shiftLeft_add_eq_or_of_lt h0, Nat.shiftLeft_eq]
  have high : (b3 ++ b2).toNat = b3.toNat * 256 + b2.toNat := by rw [BitVec.toNat_append, ← Nat.shiftLeft_add_eq_or_of_lt h2, Nat.shiftLeft_eq]
  rw [BitVec.toNat_append, ← Nat.shiftLeft_add_eq_or_of_lt (b1 ++ b0).isLt, Nat.shiftLeft_eq, low, high, BitVec.toNat_ofNat]
  show (b0.toNat + 256 * (b1.toNat + 256 * (b2.toNat + 256 * (b3.toNat + 256 * 0)))) % 4294967296 = _
  omega

/-- The three forms of an instruction's bytes, and what decoding asks of each. -/
theorem decode_whole {bs : List Byte} {i : Instr} (decoded : decode bs = .ok (i, [])) :
    (∃ b0 b1, bs = [b0, b1] ∧ lengthOf (b1 ++ b0) = 2)
    ∨ (∃ b0 b1 b2 b3, bs = [b0, b1, b2, b3] ∧ lengthOf (b1 ++ b0) = 4)
    ∨ ∃ b0 b1 b2 b3 b4 b5 b6 b7, bs = [b0, b1, b2, b3, b4, b5, b6, b7] ∧ lengthOf (b1 ++ b0) ≠ 2 ∧ lengthOf (b1 ++ b0) ≠ 4 ∧ word0Assigned (b3 ++ b2 ++ (b1 ++ b0)) = true := by
  have rest {x : Except Reject Instr} {r : List Byte} (ok : x.map (·, r) = .ok (i, [])) : r = [] := by
    cases x with
    | error e => exact nomatch ok
    | ok j => exact congrArg Prod.snd (Except.ok.inj ok)
  rcases bs with _ | ⟨b0, _ | ⟨b1, r⟩⟩
  · exact nomatch decoded
  · exact nomatch decoded
  have first : (if lengthOf (b1 ++ b0) = 2 then (decode16 (b1 ++ b0)).map (·, r) else _) = .ok (i, []) := decoded
  by_cases half : lengthOf (b1 ++ b0) = 2
  · rw [if_pos half] at first
    exact .inl ⟨b0, b1, by rw [rest first], half⟩
  rw [if_neg half] at first
  rcases r with _ | ⟨b2, _ | ⟨b3, r⟩⟩
  · exact nomatch first
  · exact nomatch first
  have second : (if lengthOf (b1 ++ b0) = 4 then (decode32 (b3 ++ b2 ++ (b1 ++ b0))).map (·, r) else if !word0Assigned (b3 ++ b2 ++ (b1 ++ b0)) then _ else _) = .ok (i, []) := first
  by_cases word : lengthOf (b1 ++ b0) = 4
  · rw [if_pos word] at second
    exact .inr (.inl ⟨b0, b1, b2, b3, by rw [rest second], word⟩)
  rw [if_neg word] at second
  cases assigned : word0Assigned (b3 ++ b2 ++ (b1 ++ b0)) with
  | false =>
    rw [assigned] at second
    exact nomatch second
  | true =>
    rw [assigned] at second
    rcases r with _ | ⟨b4, _ | ⟨b5, _ | ⟨b6, _ | ⟨b7, r⟩⟩⟩⟩
    · exact nomatch second
    · exact nomatch second
    · exact nomatch second
    · exact nomatch second
    · exact .inr (.inr ⟨b0, b1, b2, b3, b4, b5, b6, b7, by rw [rest (r := r) second], half, word, assigned⟩)

section
variable {u : State} {bs : List Byte}

theorem fetchHalf_of (fetches : Fetches u bs) {k : Nat} {b0 b1 : Byte} (low : bs[2 * k]? = some b0) (high : bs[2 * k + 1]? = some b1) :
    fetchHalf u (u.hart.pc + BitVec.ofNat 64 (2 * k)) = .ok [b0, b1] := by
  have within : 2 * k + 1 < bs.length := (List.getElem?_eq_some_iff.1 high).1
  obtain ⟨m, found, first, second⟩ := fetches k within
  unfold fetchHalf
  rw [found]
  rw [low] at first
  rw [high] at second
  rw [Option.some.inj first, Option.some.inj second]

theorem fetchHalves_one {a : Word} {l : List Byte} (half : fetchHalf u a = .ok l) : fetchHalves u 1 a = .ok l := by
  unfold fetchHalves
  rw [half]
  show Except.ok (l ++ []) = _
  rw [List.append_nil]

theorem fetchHalves_two {a : Word} {l k : List Byte} (half : fetchHalf u a = .ok l) (next : fetchHalf u (a + 2) = .ok k) : fetchHalves u 2 a = .ok (l ++ k) := by
  unfold fetchHalves
  rw [half, fetchHalves_one next]

/-- The halfwords at PC give the bytes that decode. -/
theorem fetchBytes_of {i : Instr} (fetches : Fetches u bs) (decoded : decode bs = .ok (i, [])) : fetchBytes u = .ok bs := by
  have at0 {b0 b1 : Byte} (low : bs[0]? = some b0) (high : bs[1]? = some b1) : fetchHalf u u.hart.pc = .ok [b0, b1] := by
    have half := fetchHalf_of fetches (k := 0) low high
    rwa [show u.hart.pc + BitVec.ofNat 64 (2 * 0) = u.hart.pc from BitVec.add_zero _] at half
  have at1 {b0 b1 : Byte} (low : bs[2]? = some b0) (high : bs[3]? = some b1) : fetchHalf u (u.hart.pc + 2) = .ok [b0, b1] := fetchHalf_of fetches (k := 1) low high
  have at2 {b0 b1 : Byte} (low : bs[4]? = some b0) (high : bs[5]? = some b1) : fetchHalf u (u.hart.pc + 4) = .ok [b0, b1] := fetchHalf_of fetches (k := 2) low high
  have at3 {b0 b1 : Byte} (low : bs[6]? = some b0) (high : bs[7]? = some b1) : fetchHalf u (u.hart.pc + 4 + 2) = .ok [b0, b1] := by
    have half := fetchHalf_of fetches (k := 3) low high
    rwa [show u.hart.pc + BitVec.ofNat 64 (2 * 3) = u.hart.pc + 4 + 2 from (BitVec.add_assoc _ 4#64 2#64).symm] at half
  unfold fetchBytes
  dsimp only
  rcases decode_whole decoded with ⟨b0, b1, rfl, half⟩ | ⟨b0, b1, b2, b3, rfl, word⟩ | ⟨b0, b1, b2, b3, b4, b5, b6, b7, rfl, long, double, assigned⟩
  · rw [fetchHalves_one (at0 rfl rfl)]
    dsimp only
    rw [ofNat_two, if_pos half]
  · rw [fetchHalves_one (at0 rfl rfl)]
    dsimp only
    rw [ofNat_two, if_neg (by rw [word]; decide), fetchHalves_one (at1 rfl rfl)]
    dsimp only
    rw [if_pos word]
    rfl
  · rw [fetchHalves_one (at0 rfl rfl)]
    dsimp only
    rw [ofNat_two, if_neg long, fetchHalves_one (at1 rfl rfl)]
    dsimp only
    rw [if_neg double, show ([b0, b1] ++ [b2, b3] : List Byte) = [b0, b1, b2, b3] from rfl, ofNat_four, assigned, if_neg (by decide), fetchHalves_two (at2 rfl rfl) (at3 rfl rfl)]
    rfl

end

/-! ## The step of a hart (R74, R86, R281) -/

section
variable {s u v : State} {h : HartId} {i : Instr}

theorem runs_of (turn : Turn s u h) (fetched : fetchNext u = .instr i v) : Runs s v i := by
  unfold Runs
  dsimp only
  rw [step_turn turn]
  unfold runFront
  rw [fetched]
  dsimp only
  cases barred : heldForStores (some i) v with
  | true => rfl
  | false =>
    cases full : (v.policy.postUops && !queueRoom i v) with
    | true => rfl
    | false =>
      simp only [Bool.false_eq_true, if_false, Bool.or_false]
      cases exec i v <;> rfl

theorem step_trap {t : State} (turn : Turn s u h) (fetched : fetchNext u = .trap t) (sure : unsettled u = false) : step s = .next (advance t) := by
  rw [step_turn turn]
  unfold runFront
  rw [fetched]
  dsimp only
  rw [show heldForStores none u = false from sure]
  rfl

theorem fetchNext_kept (kept : u.hart.fetched = some i) : fetchNext u = .instr i u := by
  unfold fetchNext
  rw [kept]

theorem fetchNext_decoded {bs : List Byte} (none : u.hart.fetched = none) (bytes : fetchBytes u = .ok bs) {rest : List Byte} (decoded : decode bs = .ok (i, rest)) :
    fetchNext u = .instr i (fetchPass u.hart.pc (bs.length / 2) u) := by
  unfold fetchNext fetchedInstr
  rw [none]
  dsimp only
  rw [bytes]
  dsimp only
  rw [decoded]

theorem fetchNext_undecoded {bs : List Byte} (none : u.hart.fetched = none) (bytes : fetchBytes u = .ok bs) {r : Reject} (decoded : decode bs = .error r) :
    fetchNext u = .trap (badBits (BitVec.ofNat 64 (ofBytes bs)) (fetchPass u.hart.pc (bs.length / 2) u)) := by
  unfold fetchNext fetchedInstr
  rw [none]
  dsimp only
  rw [bytes]
  dsimp only
  rw [decoded]

theorem fetchNext_unfetched {t : TrapReq} (none : u.hart.fetched = none) (bytes : fetchBytes u = .error t) : fetchNext u = .trap (trapHere t u) := by
  unfold fetchNext
  rw [none]
  dsimp only
  rw [bytes]

theorem fetchBytes_error {f : XFault} (fault : locate u u.hart.space (some u.hart.id) .fetch false u.hart.pc = .error f) : fetchBytes u = .error (fetchFault u.hart.pc f) := by
  have half : fetchHalf u u.hart.pc = .error (fetchFault u.hart.pc f) := by
    unfold fetchHalf
    rw [fault]
  have one : fetchHalves u 1 u.hart.pc = .error (fetchFault u.hart.pc f) := by
    unfold fetchHalves
    rw [half]
  unfold fetchBytes
  dsimp only
  rw [one]

/-- The trap of a halfword that cannot be fetched, where no second stage found it. -/
theorem fetchFault_trap {f : XFault} (own : f.ipa = none) : trapHere (fetchFault u.hart.pc f) u = trappedHere (if f.perm then 0x06 else 0x03) u.hart.pc (noteAll u f.notes) := by
  have hart : (noteAll u f.notes).hart = u.hart := noteAll_hart u f.notes
  have small : (if f.perm then (0x06 : BitVec 8) else 0x03).toNat < 0x80 := by split <;> decide
  have entry := enterTrap_plain small u.hart.pc u.hart.pc (noteAll u f.notes)
  unfold trappedHere
  rw [hart, ← entry]
  unfold trapHere enterTrap fetchFault
  rw [own]
  rfl

theorem badBits_trap (w : Word) (n : Nat) : badBits w (fetchPass u.hart.pc n u)
    = trappedHere (if u.hart.prv < fixedLevel (w.extractLsb' 0 32) then 0x01 else 0x00) w (fetchPass u.hart.pc n u) := by
  have small : (if u.hart.prv < fixedLevel (w.extractLsb' 0 32) then (0x01 : BitVec 8) else 0x00).toNat < 0x80 := by split <;> decide
  unfold badBits
  rw [fetchPass_hart]
  exact trapHere_plain small w _

end

/-- Settles O1: the front end's choice, what it fetches and what it makes of it, one lemma each. -/
theorem stepRunsDecoded : Obligations.StepRunsDecoded := by
  intro s u h turn
  obtain ⟨k, within, is, earlier⟩ := frontChoice_first (turn_choice turn)
  refine ⟨⟨k, within, is, fun j before g listed slot ready => ?_⟩, turn_hart turn, fun i kept => runs_of turn (fetchNext_kept kept),
    fun bs i none decoded fetches => runs_of turn (fetchNext_decoded none (fetchBytes_of fetches decoded) decoded), fun n clean _ up => fetchPass_fetch clean up u.hart.pc n,
    fun f none fault own sure => ?_, fun bs r none bytes decoded sure => ?_⟩
  · obtain ⟨yielded, g', there, core, ready', passed⟩ := earlier j before g listed slot ready
    have same : coreOf g.id = coreOf h := by
      rw [slot]
      exact coreOf_hartIdOf (coreOf_lt h) (Nat.mod_lt _ (by decide))
    exact ⟨yielded, g', there, core.trans same, ready', passed⟩
  · rw [step_trap turn (fetchNext_unfetched none (fetchBytes_error fault)) sure, fetchFault_trap own]
  · rw [step_trap turn (fetchNext_undecoded none bytes decoded) sure, badBits_trap]

end Sys2Proof.Machine

namespace Sys2Proof.Machine
/-! Every step keeps memory in its canonical form: the operations of the model one after another, and a step made of them (O4). -/

/-! ### What carries a state

A theorem `f_wf` says that `f` takes a state with canonical memory to one, or, where `f` answers a state with something else, that the state in its answer has canonical
memory. The theorems follow the definitions of the model in their order, from the operations on a state to a step; a function that takes a continuation asks of it what the
theorem says of the function. -/

/-! ### Outcomes and answers -/

/-- An outcome keeps memory canonical when the state it answers has canonical memory. -/
def WfNext : Host.Outcome State Fault Refusal → Prop
  | .next t => Memory.wf t.mem = true
  | _ => True

/-- The same of a body that answers a state or an error. -/
def WfOk {ε : Type} : Except ε State → Prop
  | .ok t => Memory.wf t.mem = true
  | .error _ => True

/-- The same of what a step of a sequencer's context does with the word at PC. -/
def WfWord : Option (Except SeqFault State) → Prop
  | some r => WfOk r
  | none => True

/-- The same of what remote accesses have come to. -/
def RemoteOut.Wf : RemoteOut → Prop
  | .answered t _ => Memory.wf t.mem = true
  | .waiting t => Memory.wf t.mem = true

/-- The same of what fetching has come to. -/
def Fetched.Wf : Fetched → Prop
  | .waiting t => Memory.wf t.mem = true
  | .got t _ _ => Memory.wf t.mem = true

/-- The same of what storing has come to. -/
def Stored.Wf : Stored → Prop
  | .waiting t => Memory.wf t.mem = true
  | .done t _ _ => Memory.wf t.mem = true

/-- The same of what the front end has. -/
def FrontEnd.Wf : FrontEnd → Prop
  | .instr _ t => Memory.wf t.mem = true
  | .trap t => Memory.wf t.mem = true

/-- The same of what a step turns to. -/
def Choice.Wf : Choice → Prop
  | .event _ t => Memory.wf t.mem = true
  | .due _ t => Memory.wf t.mem = true
  | .instr t => Memory.wf t.mem = true
  | .idle t => Memory.wf t.mem = true

theorem wf_of_fst {α : Type} {p : State × α} {t : State} {r : α} (h : Memory.wf p.1.mem = true) (e : p = (t, r)) : Memory.wf t.mem = true := by subst e; exact h
theorem wf_of_snd {α : Type} {p : α × State} {t : State} {r : α} (h : Memory.wf p.2.mem = true) (e : p = (r, t)) : Memory.wf t.mem = true := by subst e; exact h
theorem WfOk.of_ok {ε : Type} {r : Except ε State} {t : State} (h : WfOk r) (e : r = .ok t) : Memory.wf t.mem = true := by subst e; exact h
theorem WfWord.of_ok {r : Option (Except SeqFault State)} {t : State} (h : WfWord r) (e : r = some (.ok t)) : Memory.wf t.mem = true := by subst e; exact h
theorem WfNext.of_next {o : Host.Outcome State Fault Refusal} {t : State} (h : WfNext o) (e : o = .next t) : Memory.wf t.mem = true := by subst e; exact h
theorem RemoteOut.Wf.of_waiting {r : RemoteOut} {t : State} (h : r.Wf) (e : r = .waiting t) : Memory.wf t.mem = true := by subst e; exact h
theorem RemoteOut.Wf.of_answered {r : RemoteOut} {t : State} {l : List (Nat × Answer)} (h : r.Wf) (e : r = .answered t l) : Memory.wf t.mem = true := by subst e; exact h
theorem Fetched.Wf.of_waiting {r : Fetched} {t : State} (h : r.Wf) (e : r = .waiting t) : Memory.wf t.mem = true := by subst e; exact h
theorem Fetched.Wf.of_got {r : Fetched} {t : State} {p : Option TrapReq} {l : List (Nat × Answer)} (h : r.Wf) (e : r = .got t p l) :
    Memory.wf t.mem = true := by subst e; exact h
theorem Stored.Wf.of_waiting {r : Stored} {t : State} (h : r.Wf) (e : r = .waiting t) : Memory.wf t.mem = true := by subst e; exact h
theorem Stored.Wf.of_done {r : Stored} {t : State} {p : Option TrapReq} {fl : BitVec 7} (h : r.Wf) (e : r = .done t p fl) : Memory.wf t.mem = true := by subst e; exact h
theorem FrontEnd.Wf.of_instr {r : FrontEnd} {i : Instr} {t : State} (h : r.Wf) (e : r = .instr i t) : Memory.wf t.mem = true := by subst e; exact h
theorem FrontEnd.Wf.of_trap {r : FrontEnd} {t : State} (h : r.Wf) (e : r = .trap t) : Memory.wf t.mem = true := by subst e; exact h

theorem Choice.Wf.of_event {r : Choice} {i : Instr} {t : State} (h : r.Wf) (e : r = .event i t) : Memory.wf t.mem = true := by subst e; exact h
theorem Choice.Wf.of_due {r : Choice} {d : Due} {t : State} (h : r.Wf) (e : r = .due d t) : Memory.wf t.mem = true := by subst e; exact h
theorem Choice.Wf.of_instr {r : Choice} {t : State} (h : r.Wf) (e : r = .instr t) : Memory.wf t.mem = true := by subst e; exact h
theorem Choice.Wf.of_idle {r : Choice} {t : State} (h : r.Wf) (e : r = .idle t) : Memory.wf t.mem = true := by subst e; exact h

theorem foldl_fst_wf {α β : Type} {f : State × β → α → State × β} {p : State × β} (hf : ∀ (p : State × β) a, Memory.wf p.1.mem = true → Memory.wf (f p a).1.mem = true)
    (h : Memory.wf p.1.mem = true) (l : List α) : Memory.wf (l.foldl f p).1.mem = true := by
  induction l generalizing p with
  | nil => exact h
  | cons a t ih => exact ih (hf p a h)
theorem foldl_snd_wf {α β : Type} {f : β × State → α → β × State} {p : β × State} (hf : ∀ (p : β × State) a, Memory.wf p.2.mem = true → Memory.wf (f p a).2.mem = true)
    (h : Memory.wf p.2.mem = true) (l : List α) : Memory.wf (l.foldl f p).2.mem = true := by
  induction l generalizing p with
  | nil => exact h
  | cons a t ih => exact ih (hf p a h)
theorem foldl_st_wf {α : Type} {f : Moved → α → Moved} {p : Moved} (hf : ∀ (p : Moved) a, Memory.wf p.st.mem = true → Memory.wf (f p a).st.mem = true)
    (h : Memory.wf p.st.mem = true) (l : List α) : Memory.wf (l.foldl f p).st.mem = true := by
  induction l generalizing p with
  | nil => exact h
  | cons a t ih => exact ih (hf p a h)
theorem foldl_wfOk {α ε : Type} {f : Except ε State → α → Except ε State} {p : Except ε State} (hf : ∀ (p : Except ε State) a, WfOk p → WfOk (f p a))
    (h : WfOk p) (l : List α) : WfOk (l.foldl f p) := by
  induction l generalizing p with
  | nil => exact h
  | cons a t ih => exact ih (hf p a h)
theorem wf_ite {c : Prop} [Decidable c] {t u : State} (ht : Memory.wf t.mem = true) (hu : Memory.wf u.mem = true) : Memory.wf (if c then t else u).mem = true := by
  split
  · exact ht
  · exact hu

/-! ### State operations, traps and completion -/

theorem withHart_wf {s : State} {g : Hart} (h : Memory.wf s.mem = true) : Memory.wf (s.withHart g).mem = true := h

theorem setX_wf {s : State} {r : Reg} {v : Word} (h : Memory.wf s.mem = true) : Memory.wf (s.setX r v).mem = true := by rw [State.setX_mem]; exact h

theorem setCore_wf {s : State} {c : Nat} {k : Core} (h : Memory.wf s.mem = true) : Memory.wf (s.setCore c k).mem = true := h

theorem setBench_wf {s : State} {n : Nat} {b : Bench} (h : Memory.wf s.mem = true) : Memory.wf (s.setBench n b).mem = true := h

theorem setPart_wf {s : State} {p : BitVec 3} {q : Part} (h : Memory.wf s.mem = true) : Memory.wf (s.setPart p q).mem = true := h

theorem setPoison_wf {s : State} {k : Nat} (h : Memory.wf s.mem = true) : Memory.wf (s.setPoison k).mem = true := h

theorem clearPoison_wf {s : State} {k : Nat} (h : Memory.wf s.mem = true) : Memory.wf (s.clearPoison k).mem = true := h

theorem bufferPage_wf {s : State} {page : Nat} (h : Memory.wf s.mem = true) : Memory.wf (bufferPage s page).mem = true := h

theorem count_wf {s : State} {a n : Nat} (h : Memory.wf s.mem = true) : Memory.wf (s.count a n).mem = true := h

theorem sendMsix_wf {s : State} {f v : Nat} (h : Memory.wf s.mem = true) : Memory.wf (s.sendMsix f v).mem = true := h

theorem pend_wf {s : State} {p : BitVec 3} {c : BitVec 8} {v : Word} (h : Memory.wf s.mem = true) : Memory.wf (s.pend p c v).mem = true := setPart_wf h

theorem updChannel_wf {s : State} {n : Nat} {f : Channel → Channel} (h : Memory.wf s.mem = true) : Memory.wf (s.updChannel n f).mem = true := h

theorem activate_wf {s : State} {bank row : Nat} (h : Memory.wf s.mem = true) : Memory.wf (activate s bank row).mem = true := by
  unfold activate
  dsimp only
  split
  · dsimp only
    exact updChannel_wf h
  · refine updChannel_wf ?_
    dsimp only
    exact updChannel_wf h

theorem runRfm_wf {s : State} {bank : Nat} (h : Memory.wf s.mem = true) : Memory.wf (runRfm s bank).mem = true := by
  unfold runRfm
  split
  · exact count_wf (updChannel_wf h)
  · exact h

theorem hbmRequest_wf {s : State} {pa : Nat} (h : Memory.wf s.mem = true) : Memory.wf (hbmRequest s pa).mem = true := by
  unfold hbmRequest
  dsimp only
  split
  · split
    · exact runRfm_wf (updChannel_wf h)
    · exact activate_wf (runRfm_wf (updChannel_wf h))
  · split
    · exact h
    · exact activate_wf h

theorem memoryRequest_wf {s : State} {sector : Nat} (h : Memory.wf s.mem = true) : Memory.wf (memoryRequest s sector).mem = true := by
  unfold memoryRequest
  split
  · exact hbmRequest_wf h
  · exact h

theorem evictLine_wf {s : State} {home line : Nat} (h : Memory.wf s.mem = true) : Memory.wf (evictLine s home line).mem = true :=
  foldl_wf (fun _ _ ht => evictSector_wf ht _) h _

theorem dropSectors_wf {s : State} {c : Nat} {l : List Nat} (h : Memory.wf s.mem = true) : Memory.wf (dropSectors s c l).mem = true := by
  unfold dropSectors
  split
  · exact setCore_wf h
  · exact h

theorem afterLoadAs_wf {nt : Bool} {s : State} {m : Mapped} {n : Nat} (h : Memory.wf s.mem = true) : Memory.wf (afterLoadAs nt s m n).mem = true :=
  foldl_wf (fun _ _ ht => loadSector_wf ht _ _ _) (noteWalk_wf h _ _) _

theorem afterVectors_wf {s : State} {pa n : Nat} (h : Memory.wf s.mem = true) : Memory.wf (afterVectors s pa n).mem = true := drainThrough_wf h _

theorem releaseAt_wf {scope : Nat} {s : State} (h : Memory.wf s.mem = true) : Memory.wf (releaseAt scope s).mem = true := by
  unfold releaseAt
  split
  · exact drainStores_wf h
  · split
    · exact h
    · exact withHart_wf h

theorem dropL1_wf {s : State} (h : Memory.wf s.mem = true) : Memory.wf (dropL1 s).mem = true := by
  unfold dropL1
  dsimp only
  split
  · exact h
  · exact setCore_wf h

theorem illegal_wf {i : Instr} {s : State} (h : Memory.wf s.mem = true) : Memory.wf (illegal i s).mem = true := trapHere_wf h _

theorem privileged_wf {i : Instr} {s : State} (h : Memory.wf s.mem = true) : Memory.wf (privileged i s).mem = true := trapHere_wf h _

theorem finishFlags_wf {len : Nat} {raised : BitVec 7} {s : State} (h : Memory.wf s.mem = true) : Memory.wf (finishFlags len raised s).mem = true :=
  completeAt_wf h _ _ _ _ _

theorem finishTo_wf {target : Word} {s : State} (h : Memory.wf s.mem = true) : Memory.wf (finishTo target s).mem = true := completeAt_wf h _ _ _ _ _

theorem returnFromTrap_wf {s : State} (h : Memory.wf s.mem = true) : Memory.wf (returnFromTrap s).mem = true := by
  unfold returnFromTrap
  dsimp only
  split
  · exact withHart_wf h
  · exact enterTrap_wf (withHart_wf h) _ _

theorem focus_wf {i : HartId} {s : State} (h : Memory.wf s.mem = true) : Memory.wf (focus i s).mem = true := by
  unfold focus
  split
  · exact h
  · split <;> exact h

theorem settleDie_wf {die : Nat} {s : State} (h : Memory.wf s.mem = true) : Memory.wf (settleDie die s).mem = true := settleLeft_wf h _

theorem settleBench_wf {bench : Nat} {s : State} (h : Memory.wf s.mem = true) : Memory.wf (settleBench bench s).mem = true := settleLeft_wf h _

theorem settleHart_wf {i : HartId} {s : State} (h : Memory.wf s.mem = true) : Memory.wf (settleHart i s).mem = true := settleLeft_wf h _

theorem updHart_wf {s : State} {i : HartId} {f : Hart → Hart} (h : Memory.wf s.mem = true) : Memory.wf (s.updHart i f).mem = true := by rw [updHart_mem]; exact h

theorem updFarm_wf {s : State} {n : BitVec 16} {f : Farm → Farm} (h : Memory.wf s.mem = true) : Memory.wf (s.updFarm n f).mem = true := h

/-! ### Operands -/

theorem elemTouch_wf {nt : Bool} {before s : State} {l : ElemLoc} (h : Memory.wf s.mem = true) : Memory.wf (elemTouch nt before s l).mem = true := by
  unfold elemTouch
  split
  · exact h
  · exact foldl_wf (fun _ _ ht => afterLoadAs_wf ht) h _

theorem elemWalks_wf {before s : State} {q : ElemStore} (h : Memory.wf s.mem = true) : Memory.wf (elemWalks before s q).mem = true := by
  unfold elemWalks
  split
  · exact h
  · exact foldl_wf (fun _ _ ht => noteWalk_wf ht _ _) h _

theorem commitElems_wf {u : Bool} {groups : List (List ElemStore)} {s : State} (h : Memory.wf s.mem = true) : Memory.wf (commitElems u groups s).mem = true := by
  unfold commitElems
  dsimp only
  split
  · exact foldl_wf (fun _ _ ht => elemWalks_wf ht) h _
  · exact commitEntry_wf (foldl_wf (fun _ _ ht => elemWalks_wf ht) h _) _

theorem finishVec_wf {raised : BitVec 7} {s : State} (h : Memory.wf s.mem = true) : Memory.wf (finishVec raised s).mem = true := finishFlags_wf (withHart_wf h)

theorem stall_wf {s : State} (h : Memory.wf s.mem = true) : Memory.wf (stall s).mem = true := withHart_wf h

theorem pauseAt_wf {vri : Nat} {raised : BitVec 7} {s : State} (h : Memory.wf s.mem = true) : Memory.wf (pauseAt vri raised s).mem = true := withHart_wf h

theorem held_wf {s : State} {k : State → State} (h : Memory.wf s.mem = true)
    (hk : ∀ (s : State), Memory.wf s.mem = true → Memory.wf (k s).mem = true) : Memory.wf (held s k).mem = true := by
  unfold held
  split
  · exact stall_wf h
  · exact hk _ h

/-- The sources that are ready are read in the state itself. -/
theorem readySources_wf {s t : State} {ops : List Opnd} {g : Hart} {cs : List (Nat × Binding)} (h : Memory.wf s.mem = true)
    (e : readySources s ops = some (t, g, cs)) : Memory.wf t.mem = true := by
  unfold readySources at e
  dsimp only at e
  split at e
  · exact absurd e (by simp)
  · obtain ⟨rfl, -, -⟩ := by simpa using e
    exact h

theorem touchChunks_wf {s : State} {cs : List (Nat × Binding)} {es : List Nat} (h : Memory.wf s.mem = true) : Memory.wf (touchChunks s cs es).mem = true :=
  foldl_wf (fun _ _ ht => foldl_wf (fun _ _ hu => elemTouch_wf hu) ht _) h _

theorem touchReads_wf {s : State} {cs : List (Nat × Binding)} {reads : Nat → Nat → List Nat} {es : List Nat} (h : Memory.wf s.mem = true) : Memory.wf
    (touchReads s cs reads es).mem = true :=
  foldl_wf (fun _ _ ht => foldl_wf (fun _ _ hu => elemTouch_wf hu) ht _) h _

theorem emitElems_wf {s : State} {sb : Option Binding} {es : List Nat} {val : Nat → Nat × Bool} (h : Memory.wf s.mem = true) : Memory.wf
    (emitElems s sb es val).mem = true := by
  unfold emitElems
  split
  · exact h
  · exact withHart_wf (commitElems_wf h)

theorem afterStop_wf {stored : Bool} {s : State} (h : Memory.wf s.mem = true) : Memory.wf (afterStop stored s).mem = true := by
  unfold afterStop
  split
  · exact drainStores_wf h
  · exact h

theorem runElemWise_wf {j : ElemWise} {s0 : State} (h : Memory.wf s0.mem = true)
    (hj : ∀ (s : State), Memory.wf s.mem = true → ∀ (x : Nat), Memory.wf (j.touch s x).mem = true) : Memory.wf (runElemWise j s0).mem = true := by
  unfold runElemWise
  split
  · exact stall_wf h
  · dsimp only
    split
    · refine trapHere_wf ?_ _
      refine afterStop_wf ?_
      refine withHart_wf ?_
      split <;> split <;> exact emitElems_wf (foldl_wf (fun _ _ ht => hj _ ht _) (touchReads_wf (readySources_wf h (by assumption))) _)
    · refine finishVec_wf ?_
      refine withHart_wf ?_
      split <;> split <;> exact emitElems_wf (foldl_wf (fun _ _ ht => hj _ ht _) (touchReads_wf (readySources_wf h (by assumption))) _)

/-! ### Ports and queues -/

theorem updPort_wf {s : State} {q : Nat} {f : Port → Port} (h : Memory.wf s.mem = true) : Memory.wf (s.updPort q f).mem = true := h

theorem freeSlot_wf {k : Option Nat} {s : State} (h : Memory.wf s.mem = true) : Memory.wf (freeSlot k s).mem = true := by
  unfold freeSlot
  split
  · exact h
  · split
    · exact h
    · split
      · exact h
      · exact updPort_wf h

theorem markStaged_wf {raw : Nat} {s : State} (h : Memory.wf s.mem = true) : Memory.wf (markStaged raw s).mem = true := by
  unfold markStaged
  dsimp only
  split
  · exact h
  · split <;> exact h

theorem markLeft_wf {q : Nat} {c : Queued} {s : State} (h : Memory.wf s.mem = true) : Memory.wf (markLeft q c s).mem = true := by
  unfold markLeft
  split
  · exact h
  · split
    · split
      · exact markStaged_wf h
      · exact h
    · exact h

theorem pumpPort_wf {q fuel : Nat} {s : State} (h : Memory.wf s.mem = true) : Memory.wf (pumpPort q fuel s).mem = true := by
  induction fuel generalizing s with
  | zero => exact h
  | succ fuel ih =>
    unfold pumpPort
    split
    · exact h
    · split
      · exact h
      · exact ih (markLeft_wf (freeSlot_wf (updPort_wf h)))

theorem pump_wf {s : State} (h : Memory.wf s.mem = true) : Memory.wf s.pump.mem = true :=
  foldl_wf (fun _ _ ht => updPort_wf ht) (foldl_wf (fun _ _ ht => pumpPort_wf ht) h _) _

theorem enqueue_wf {q : Nat} {c : Queued} {s : State} (h : Memory.wf s.mem = true) : Memory.wf (enqueue q c s).mem = true := by
  unfold enqueue
  split
  · exact markLeft_wf (freeSlot_wf h)
  · exact updPort_wf h

theorem emit_wf {s : State} {m : Message} (h : Memory.wf s.mem = true) : Memory.wf (s.emit m).mem = true := by
  unfold State.emit
  dsimp only
  split
  · exact h
  · exact pump_wf (foldl_wf (fun _ _ ht => foldl_wf (fun _ _ hu => enqueue_wf hu) ht _) h _)

theorem took_wf {s : State} {m : Message} (h : Memory.wf s.mem = true) : Memory.wf (s.took m).mem = true := h

/-! ### Remote accesses -/

theorem agentTouch_wf {s : State} {part : BitVec 3} {m : Mapped} {n : Nat} {alloc : Bool} (h : Memory.wf s.mem = true) : Memory.wf
    (agentTouch s part m n alloc).mem = true :=
  foldl_wf (fun _ _ ht => touch_wf ht _ _ _ _ _ _) (noteWalk_wf h _ _) _

theorem agentWrite_wf {s : State} {part : BitVec 3} {m : Mapped} {bs : List Byte} {alloc : Bool} (h : Memory.wf s.mem = true) : Memory.wf
    (agentWrite s part m bs alloc).mem = true :=
  homeWrite_wf (foldl_wf (fun _ _ ht => touch_wf ht _ _ _ _ _ _) (noteWalk_wf h _ _) _) _ _

theorem deliver_wf {s : State} {q : BitVec 3} {wn : BitVec 8} {off n : Nat} (h : Memory.wf s.mem = true) : Memory.wf (deliver s q wn off n).mem = true := by
  unfold deliver
  dsimp only
  split <;> exact h

theorem serveElem_wf {op : Nat} {p : Packet} {acc : State × Served} {e : Nat} (hacc : Memory.wf acc.1.mem = true) : Memory.wf (serveElem op p acc e).1.mem = true := by
  unfold serveElem
  split
  · dsimp only
    split
    · exact hacc
    · split
      · exact agentTouch_wf hacc
      · exact agentTouch_wf hacc
      · exact agentTouch_wf hacc
      · exact agentWrite_wf hacc
      · exact deliver_wf (agentWrite_wf hacc)
      · dsimp only
        split
        · exact deliver_wf (agentWrite_wf hacc)
        · exact agentWrite_wf hacc

theorem serve_wf {s : State} {op : Nat} {p : Packet} (h : Memory.wf s.mem = true) : Memory.wf (serve s op p).1.mem = true := by
  unfold serve
  split
  · dsimp only
    exact wf_of_fst (foldl_fst_wf (fun _ _ hp => serveElem_wf hp) h _) (by assumption)

theorem sendRequest_wf {who : Requester} {acc : State × List (BitVec 14)} {q : Request} (hacc : Memory.wf acc.1.mem = true) : Memory.wf
    (sendRequest who acc q).1.mem = true := by
  unfold sendRequest
  split
  · dsimp only
    exact emit_wf hacc

theorem sendRequests_wf {s : State} {who : Requester} {qs : List Request} (h : Memory.wf s.mem = true) : Memory.wf (sendRequests s who qs).1.mem = true :=
  foldl_fst_wf (fun _ _ hp => sendRequest_wf hp) h _

theorem remoteAccess_wf {s : State} {qs : List Request} (h : Memory.wf s.mem = true) : (remoteAccess s qs).Wf := by
  unfold remoteAccess
  split
  · split
    · exact h
    · exact withHart_wf h
  · split
    · split
      · exact wf_of_fst (sendRequests_wf h) (by assumption)
      · exact withHart_wf (wf_of_fst (sendRequests_wf h) (by assumption))

theorem writeFlag_wf {s : State} {sp : Space} {unit index : Nat} {a v : Word} (h : Memory.wf s.mem = true) : Memory.wf (writeFlag s sp unit index a v).mem = true := by
  unfold writeFlag
  split
  · exact agentWrite_wf h
  · exact report_wf (noteAll_wf h _) _

theorem settleOwed_wf {s : State} (h : Memory.wf s.mem = true) : Memory.wf (settleOwed s).mem = true := by
  unfold settleOwed
  dsimp only
  split
  · refine foldl_wf ?_ ?_ _
    · exact fun _ _ ht => writeFlag_wf ht
    · exact h
  · exact h

theorem setPosted_wf {s : State} {h : Nat} {l : List PostedStore} (hs : Memory.wf s.mem = true) : Memory.wf (setPosted s h l).mem = true := hs

theorem postStore_wf {a : Word} {qs : List Request} {after : State → State} {s : State}
    (hafter : ∀ (s : State), Memory.wf s.mem = true → Memory.wf (after s).mem = true) (h : Memory.wf s.mem = true) : Memory.wf
    (postStore a qs after s).mem = true := by
  unfold postStore
  dsimp only
  exact hafter _ (setPosted_wf (sendRequests_wf h))

theorem settlePosted_wf {h : HartId} {s : State} (hs : Memory.wf s.mem = true) : Memory.wf (settlePosted h s).mem = true := by
  unfold settlePosted
  dsimp only
  split
  · exact hs
  · split
    · exact asHart_wf (fun _ ht => trapHere_wf (withHart_wf ht) _) _ (setPosted_wf hs)
    · exact setPosted_wf hs

theorem answerHart_wf {h : HartId} {tag : BitVec 14} {ans : List (Nat × Answer)} {s : State} (hs : Memory.wf s.mem = true) : Memory.wf
    (answerHart h tag ans s).mem = true := by
  unfold answerHart
  dsimp only
  split
  · exact settlePosted_wf (setPosted_wf (updHart_wf hs))
  · exact updHart_wf hs

theorem takeRequest_wf {op : Nat} {p : Packet} {s : State} (h : Memory.wf s.mem = true) : Memory.wf (takeRequest op p s).mem = true := by
  unfold takeRequest
  split
  · split
    · exact h
    · split
      exact emit_wf (wf_of_fst (serve_wf h) (by assumption))
  · split
    · exact h
    · split
      exact emit_wf (wf_of_fst (serve_wf h) (by assumption))

theorem settle_wf {f : Flight} {ans : List (Nat × Answer)} {s : State} (h : Memory.wf s.mem = true) : Memory.wf (settle f ans s).mem = true := by
  unfold settle
  dsimp only
  split
  · exact answerHart_wf h
  · exact h
  · exact h

theorem takeResponse_wf {r : Response} {s : State} (h : Memory.wf s.mem = true) : Memory.wf (takeResponse r s).mem = true := by
  unfold takeResponse
  split
  · exact h
  · split
    · exact h
    · exact settle_wf h

theorem takeTimeout_wf {tag : BitVec 14} {s : State} (h : Memory.wf s.mem = true) : Memory.wf (takeTimeout tag s).mem = true := by
  unfold takeTimeout
  split
  · exact h
  · split
    · exact h
    · exact settle_wf h

/-! ### Agents -/

theorem agentPass_wf {s : State} {sp : Space} {a : Word} {n : Nat} {alloc : Bool} (h : Memory.wf s.mem = true) : Memory.wf (agentPass s sp a n alloc).mem = true := by
  unfold agentPass
  refine foldl_wf ?_ h _
  intro _ _ ht
  split
  · exact agentTouch_wf ht
  · exact ht

theorem remark_wf {s : State} {pa : Nat} {bs : List MarkedByte} (h : Memory.wf s.mem = true) : Memory.wf (remark s pa bs).mem = true := by
  unfold remark
  refine foldl_wf ?_ h _
  intro _ _ ht
  dsimp only
  split
  · exact setPoison_wf ht
  · split
    · exact clearPoison_wf ht
    · exact ht

theorem agentStore_wf {s : State} {sp : Space} {a : Word} {bs : List MarkedByte} {alloc : Bool} (h : Memory.wf s.mem = true) : Memory.wf
    (agentStore s sp a bs alloc).1.mem = true := by
  unfold agentStore
  refine foldl_fst_wf ?_ h _
  intro _ _ hp
  split
  · exact hp
  · split
    · exact hp
    · dsimp only
      split
      · exact agentWrite_wf hp
      · exact remark_wf (agentWrite_wf hp)

theorem execStreamFlagWrite_wf {s : State} (h : Memory.wf s.mem = true) : WfNext (execStreamFlagWrite s) := by
  unfold execStreamFlagWrite
  split
  · exact h
  · exact writeFlag_wf h

theorem agentRemote_wf {s : State} {who : Requester} {key : Nat} {qs : List Request} (h : Memory.wf s.mem = true) : (agentRemote s who key qs).Wf := by
  unfold agentRemote
  split
  · split <;> exact h
  · split
    · split
      · exact wf_of_fst (sendRequests_wf h) (by assumption)
      · dsimp only [RemoteOut.Wf]
        exact wf_of_fst (sendRequests_wf h) (by assumption)

/-! ### Fetching -/

theorem fetchSector_wf {m : Mapped} {s : State} {k : Nat} (h : Memory.wf s.mem = true) : Memory.wf (fetchSector m s k).mem = true := by
  unfold fetchSector
  dsimp only
  split
  · exact touch_wf h _ _ _ _ _ _
  · split
    · exact h
    · split
      · exact touch_wf h _ _ _ _ _ _
      · exact setCore_wf (touch_wf h _ _ _ _ _ _)

theorem fetchPass_wf {a : Word} {n : Nat} {s : State} (h : Memory.wf s.mem = true) : Memory.wf (fetchPass a n s).mem = true := by
  unfold fetchPass
  refine foldl_wf ?_ h _
  intro _ _ ht
  split
  · exact fetchSector_wf (noteWalk_wf ht _ _)
  · exact ht

theorem badBits_wf {w : Word} {s : State} (h : Memory.wf s.mem = true) : Memory.wf (badBits w s).mem = true := trapHere_wf h _

theorem keepInstance_wf {i : Instr} {s : State} (h : Memory.wf s.mem = true) : Memory.wf (keepInstance i s).mem = true := withHart_wf h

theorem fetchNext_wf {s : State} (h : Memory.wf s.mem = true) : (fetchNext s).Wf := by
  unfold fetchNext
  split
  · exact h
  · split
    · exact trapHere_wf h _
    · dsimp only
      split
      · exact fetchPass_wf h
      · exact badBits_wf (fetchPass_wf h)

/-! ### Scalar instructions -/

theorem checked_wf {i : Instr} {s : State} {k : State → State} (h : Memory.wf s.mem = true)
    (hk : ∀ (s : State), Memory.wf s.mem = true → Memory.wf (k s).mem = true) : Memory.wf (checked i s k).mem = true := by
  unfold checked
  split
  · exact hk _ h
  · exact illegal_wf h

theorem aluR_wf {len : Nat} {d a b : Reg} {f : Word → Word → Word} {s : State} (h : Memory.wf s.mem = true) : WfNext (aluR len d a b f s) := writeInt_wf h _ _ _

theorem aluI_wf {len : Nat} {d a : Reg} {f : Word → Word} {s : State} (h : Memory.wf s.mem = true) : WfNext (aluI len d a f s) := writeInt_wf h _ _ _

theorem branch_wf {len : Nat} {taken : Bool} {off : Word} {s : State} (h : Memory.wf s.mem = true) : WfNext (branch len taken off s) := by
  unfold branch
  split
  · exact finishTo_wf h
  · exact finish_wf h _

theorem maskBranch_wf {i : Instr} {taken : Bool} {o : BitVec 13} {s : State} (h : Memory.wf s.mem = true) : WfNext (maskBranch i taken o s) := by
  unfold maskBranch
  split
  · exact illegal_wf h
  · split
    · exact stall_wf h
    · exact branch_wf h

/-! ### Vector arithmetic -/

theorem vecArith_wf {i : Instr} {vd a b : Reg} {m : MaskField} {neg vx : Bool} {sp : ArithSpec} {s : State} (h : Memory.wf s.mem = true) : WfNext
    (vecArith i vd a b m neg vx sp s) := by
  unfold vecArith
  refine checked_wf h ?_
  intro _ ht
  refine held_wf ht ?_
  intro _ hu
  dsimp only
  split
  · exact trapHere_wf hu _
  · exact runElemWise_wf hu (fun _ hv _ => hv)

theorem runMaskWise_wf {j : MaskWise} {s0 : State} (h : Memory.wf s0.mem = true) : Memory.wf (runMaskWise j s0).mem = true := by
  unfold runMaskWise
  split
  · exact stall_wf h
  · dsimp only
    split
    · exact trapHere_wf (withHart_wf (touchChunks_wf (readySources_wf h (by assumption)))) _
    · exact finishVec_wf (withHart_wf (touchChunks_wf (readySources_wf h (by assumption))))

theorem vecCompare_wf {i : Instr} {md a b : Reg} {m : MaskField} {accept : Nat → Bool} {fn : Nat → Nat → Nat → Bool × BitVec 7} {s : State}
    (h : Memory.wf s.mem = true) : WfNext (vecCompare i md a b m accept fn s) := by
  unfold vecCompare
  refine checked_wf h ?_
  intro _ ht
  refine held_wf ht ?_
  intro _ hu
  dsimp only
  split
  · exact trapHere_wf hu _
  · exact runMaskWise_wf hu

theorem vecCarry_wf {i : Instr} {sub : Bool} {vd a b : Reg} {c : MaskField} {neg co vx : Bool} {s : State} (h : Memory.wf s.mem = true) : WfNext
    (vecCarry i sub vd a b c neg co vx s) := by
  unfold vecCarry
  refine checked_wf h ?_
  intro _ ht
  refine held_wf ht ?_
  intro _ hu
  dsimp only
  split
  · exact trapHere_wf hu _
  · split
    · exact runMaskWise_wf hu
    · exact runElemWise_wf hu (fun _ hv _ => hv)

theorem execVmerge_wf {vd a b : Reg} {m : MaskField} {neg vx : Bool} {s : State} (h : Memory.wf s.mem = true) : WfNext (execVmerge vd a b m neg vx s) := by
  unfold execVmerge
  refine checked_wf h ?_
  intro _ ht
  refine held_wf ht ?_
  intro _ hu
  dsimp only
  split
  · exact trapHere_wf hu _
  · exact runElemWise_wf hu (fun _ hv _ => hv)

/-! ### Vector loads and stores -/

theorem fetchAll_wf {s : State} {fabric whole : Bool} {form : RemoteForm} {l : List Acc} (h : Memory.wf s.mem = true) : (fetchAll s fabric whole form l).Wf := by
  unfold fetchAll
  dsimp only
  split
  · exact h
  · split
    · exact RemoteOut.Wf.of_waiting (remoteAccess_wf h) (by assumption)
    · exact RemoteOut.Wf.of_answered (remoteAccess_wf h) (by assumption)

theorem accTouch_wf {fabric nt : Bool} {before s : State} {a : Acc} (h : Memory.wf s.mem = true) : Memory.wf (accTouch fabric nt before s a).mem = true := by
  unfold accTouch
  split
  · exact h
  · exact elemTouch_wf h

theorem storeAll_wf {s : State} {fabric u whole : Bool} {form : RemoteForm} {pre : Option TrapReq} {held : Nat → Bool} {l : List Acc}
    (h : Memory.wf s.mem = true) : (storeAll s fabric u whole form pre held l).Wf := by
  unfold storeAll
  dsimp only
  split
  · split
    · exact withHart_wf (commitElems_wf h)
    · split
      · exact RemoteOut.Wf.of_waiting (remoteAccess_wf h) (by assumption)
      · exact withHart_wf (commitElems_wf (RemoteOut.Wf.of_answered (remoteAccess_wf h) (by assumption)))
  · split
    · exact withHart_wf (commitElems_wf h)
    · split
      · exact RemoteOut.Wf.of_waiting (remoteAccess_wf h) (by assumption)
      · exact withHart_wf (commitElems_wf (RemoteOut.Wf.of_answered (remoteAccess_wf h) (by assumption)))

theorem loadPlain_wf {form : MemForm} {vd b : Nat} {m : MaskField} {base step : Word} {ff nt : Bool} {s : State} (h : Memory.wf s.mem = true) :
    Memory.wf (loadPlain form vd b m base step ff nt s).mem = true := by
  unfold loadPlain
  extract_lets
  refine wf_ite (stall_wf h) ?_
  extract_lets
  split
  · exact Fetched.Wf.of_waiting (fetchAll_wf h) (by assumption)
  · refine runElemWise_wf (Fetched.Wf.of_got (fetchAll_wf h) (by assumption)) ?_
    exact fun _ ht _ => accTouch_wf ht

theorem endStore_wf {cs : List (Nat × Binding)} {before : State} {r : Stored} (hr : r.Wf) : Memory.wf (endStore cs before r).mem = true := by
  unfold endStore
  split
  · exact hr
  · exact trapHere_wf (afterStop_wf (withHart_wf hr)) _
  · exact finishVec_wf (withHart_wf hr)

theorem storePlain_wf {form : MemForm} {vs b : Nat} {m : MaskField} {base step : Word} {u : Bool} {s : State} (h : Memory.wf s.mem = true) :
    Memory.wf (storePlain form vs b m base step u s).mem = true := by
  unfold storePlain
  dsimp only
  split
  · split
    · exact stall_wf h
    · exact endStore_wf (storeAll_wf (touchChunks_wf h))
  · split
    · exact stall_wf h
    · exact endStore_wf (storeAll_wf (touchChunks_wf h))

theorem wholeSegments_wf {l : List Acc} {s : State} (h : Memory.wf s.mem = true) : Memory.wf (wholeSegments l s).mem = true := dropSectors_wf h

theorem loadBlocks_wf {plan : BlockPlan} {vd : Nat} {withSuper ff nt segments : Bool} {m : MaskField} {s0 : State} (h : Memory.wf s0.mem = true) :
    Memory.wf (loadBlocks plan vd withSuper ff nt segments m s0).mem = true := by
  unfold loadBlocks
  dsimp only
  split
  · refine Fetched.Wf.of_waiting ?_ (by assumption)
    refine fetchAll_wf ?_
    split
    · exact wholeSegments_wf h
    · exact h
  · split
    · split
      · split
        · refine trapHere_wf ?_ _
          refine withHart_wf ?_
          refine foldl_wf (fun _ _ ht => accTouch_wf ht) ?_ _
          refine Fetched.Wf.of_got ?_ (by assumption)
          refine fetchAll_wf ?_
          split <;> exact wholeSegments_wf h
        · refine finishVec_wf ?_
          refine withHart_wf ?_
          refine foldl_wf (fun _ _ ht => accTouch_wf ht) ?_ _
          refine Fetched.Wf.of_got ?_ (by assumption)
          refine fetchAll_wf ?_
          split <;> exact wholeSegments_wf h
      · split
        · refine trapHere_wf ?_ _
          refine withHart_wf ?_
          refine foldl_wf (fun _ _ ht => accTouch_wf ht) ?_ _
          refine Fetched.Wf.of_got ?_ (by assumption)
          refine fetchAll_wf ?_
          split
          · exact wholeSegments_wf h
          · exact h
        · refine finishVec_wf ?_
          refine withHart_wf ?_
          refine foldl_wf (fun _ _ ht => accTouch_wf ht) ?_ _
          refine Fetched.Wf.of_got ?_ (by assumption)
          refine fetchAll_wf ?_
          split
          · exact wholeSegments_wf h
          · exact h
    · split
      · refine trapHere_wf ?_ _
        refine withHart_wf ?_
        refine foldl_wf (fun _ _ ht => accTouch_wf ht) ?_ _
        refine Fetched.Wf.of_got ?_ (by assumption)
        refine fetchAll_wf ?_
        split
        · exact wholeSegments_wf h
        · exact h
      · refine finishVec_wf ?_
        refine withHart_wf ?_
        refine foldl_wf (fun _ _ ht => accTouch_wf ht) ?_ _
        refine Fetched.Wf.of_got ?_ (by assumption)
        refine fetchAll_wf ?_
        split
        · exact wholeSegments_wf h
        · exact h

theorem storeBlocks_wf {plan : BlockPlan} {vs : Nat} {u segments : Bool} {s : State} (h : Memory.wf s.mem = true) : Memory.wf
    (storeBlocks plan vs u segments s).mem = true := by
  unfold storeBlocks
  dsimp only
  split
  · exact stall_wf h
  · exact endStore_wf (storeAll_wf (touchChunks_wf h))

theorem vecLoad_wf {i : Instr} {form : MemForm} {vd a b : Reg} {m : MaskField} {ff nt : Bool} {s : State} (h : Memory.wf s.mem = true) : WfNext
    (vecLoad i form vd a b m ff nt s) := by
  unfold vecLoad
  refine held_wf h ?_
  intro _ ht
  split
  · exact trapHere_wf ht _
  · dsimp only
    split
    · exact loadBlocks_wf ht
    · split
      · exact loadBlocks_wf ht
      · exact loadPlain_wf ht
    · exact loadPlain_wf ht

theorem vecStore_wf {i : Instr} {form : MemForm} {vs a b : Reg} {m : MaskField} {u : Bool} {s : State} (h : Memory.wf s.mem = true) : WfNext
    (vecStore i form vs a b m u s) := by
  unfold vecStore
  refine held_wf h ?_
  intro _ ht
  split
  · exact trapHere_wf ht _
  · dsimp only
    split
    · exact storeBlocks_wf ht
    · split
      · exact storeBlocks_wf ht
      · exact storePlain_wf ht
    · exact storePlain_wf ht

/-! ### Vector moves -/

theorem vecMove_wf {i : Instr} {vd : Reg} {srcs : List Opnd} {m : MaskField} {grant format : Hart → Bool} {res : Hart → Nat → Nat × Bool} {s : State}
    {reads : Nat → Nat → List Nat} (h : Memory.wf s.mem = true) : WfNext (vecMove i vd srcs m grant format res s reads) := by
  unfold vecMove
  refine checked_wf h ?_
  intro _ ht
  refine held_wf ht ?_
  intro _ hu
  dsimp only
  split
  · exact trapHere_wf hu _
  · exact runElemWise_wf hu (fun _ hv _ => hv)

theorem moveBlocks_wf {vd a : Nat} {m : MaskField} {s0 : State} (h : Memory.wf s0.mem = true) : Memory.wf (moveBlocks vd a m s0).mem = true := by
  unfold moveBlocks
  dsimp only
  split
  · exact stall_wf h
  · split
    · exact trapHere_wf (withHart_wf (touchChunks_wf (readySources_wf h (by assumption)))) _
    · exact finishVec_wf (withHart_wf (touchChunks_wf (readySources_wf h (by assumption))))

theorem execVmv_wf {vd a : Reg} {m : MaskField} {s : State} (h : Memory.wf s.mem = true) : WfNext (execVmv vd a m s) := by
  unfold execVmv
  split
  · refine held_wf h ?_
    intro _ ht
    dsimp only
    split
    · exact trapHere_wf ht _
    · exact moveBlocks_wf ht
  · exact vecMove_wf h

theorem execVslideup_wf {vd a b : Reg} {m : MaskField} {s : State} (h : Memory.wf s.mem = true) : WfNext (execVslideup vd a b m s) := by
  unfold execVslideup
  exact vecMove_wf h

theorem execVperm_wf {vd a b : Reg} {m : MaskField} {s : State} (h : Memory.wf s.mem = true) : WfNext (execVperm vd a b m s) := by
  unfold execVperm
  exact vecMove_wf h

theorem execVcompress_wf {vd a : Reg} {m : MaskField} {s : State} (h : Memory.wf s.mem = true) : WfNext (execVcompress vd a m s) := by
  unfold execVcompress
  refine checked_wf h ?_
  intro _ ht
  refine held_wf ht ?_
  intro _ hu
  dsimp only
  split
  · exact trapHere_wf hu _
  · split
    · exact stall_wf hu
    · split
      · exact trapHere_wf (withHart_wf (emitElems_wf (touchChunks_wf (readySources_wf hu (by assumption))))) _
      · exact finishVec_wf (withHart_wf (emitElems_wf (touchChunks_wf (readySources_wf hu (by assumption)))))

theorem vecSlice_wf {i : Instr} {col : Bool} {vd a b : Reg} {m : MaskField} {ins : Bool} {s : State} (h : Memory.wf s.mem = true) : WfNext
    (vecSlice i col vd a b m ins s) := by
  unfold vecSlice
  refine held_wf h ?_
  intro _ ht
  dsimp only
  split
  · exact trapHere_wf ht _
  · split <;> exact runElemWise_wf ht (fun _ hu _ => hu)

theorem execVext_wf {d a b : Reg} {sx : Bool} {s : State} (h : Memory.wf s.mem = true) : WfNext (execVext d a b sx s) := by
  unfold execVext
  refine held_wf h ?_
  intro _ ht
  dsimp only
  split
  · exact trapHere_wf ht _
  · split
    · exact stall_wf ht
    · split
      · exact trapHere_wf (readySources_wf ht (by assumption)) _
      · split
        · exact trapHere_wf (readySources_wf ht (by assumption)) _
        · exact finishFlags_wf (setX_wf (withHart_wf (touchChunks_wf (readySources_wf ht (by assumption)))))

theorem execVretag_wf {vd : Reg} {s : State} (h : Memory.wf s.mem = true) : WfNext (execVretag vd s) := by
  unfold execVretag
  refine held_wf h ?_
  intro _ ht
  dsimp only
  split
  · exact trapHere_wf ht _
  · exact finish_wf (withHart_wf ht) _

theorem execVrelease_wf {vd : Reg} {all : Bool} {s : State} (h : Memory.wf s.mem = true) : WfNext (execVrelease vd all s) := by
  unfold execVrelease
  refine checked_wf h ?_
  intro _ ht
  refine held_wf ht ?_
  intro _ hu
  dsimp only
  split
  · exact finish_wf (withHart_wf hu) _
  · split
    · exact trapHere_wf hu _
    · split
      · exact illegal_wf hu
      · exact finish_wf (withHart_wf hu) _

/-! ### Conversions and reductions -/

theorem convElems_wf {s : State} {vd : Nat} {ops : List Opnd} {m : MaskField} {neg : Bool} {bad : Hart → Nat → Bool}
    {res : Hart → Nat → Nat × BitVec 7} (h : Memory.wf s.mem = true) : Memory.wf (convElems s vd ops m neg bad res).mem = true :=
  runElemWise_wf h (fun _ ht _ => ht)

theorem convBlocks_wf {s0 : State} {vd : Nat} {ops : List Opnd} {m : MaskField} {neg : Bool} {u : Nat} {unit : Hart → Nat → UnitOut}
    (h : Memory.wf s0.mem = true) : Memory.wf (convBlocks s0 vd ops m neg u unit).mem = true := by
  unfold convBlocks
  split
  · exact stall_wf h
  · dsimp only
    split
    · exact trapHere_wf (withHart_wf (touchChunks_wf (readySources_wf h (by assumption)))) _
    · exact finishVec_wf (withHart_wf (touchChunks_wf (readySources_wf h (by assumption))))

theorem execVcvt_wf {vd a b : Reg} {m : MaskField} {neg sel : Bool} {s : State} (h : Memory.wf s.mem = true) : WfNext (execVcvt vd a b m neg sel s) := by
  unfold execVcvt
  refine checked_wf h ?_
  intro _ ht
  refine held_wf ht ?_
  intro _ hu
  dsimp only
  split
  · exact trapHere_wf hu _
  · split
    · exact convBlocks_wf hu
    · exact convBlocks_wf hu
    · exact convElems_wf hu

theorem execVcvti_wf {vd a b : Reg} {m : MaskField} {neg uns : Bool} {s : State} (h : Memory.wf s.mem = true) : WfNext (execVcvti vd a b m neg uns s) := by
  unfold execVcvti
  refine checked_wf h ?_
  intro _ ht
  refine held_wf ht ?_
  intro _ hu
  dsimp only
  split
  · exact trapHere_wf hu _
  · exact convElems_wf hu

theorem execVcvtf4_wf {vd a b : Reg} {m : MaskField} {neg : Bool} {s : State} (h : Memory.wf s.mem = true) : WfNext (execVcvtf4 vd a b m neg s) := by
  unfold execVcvtf4
  refine checked_wf h ?_
  intro _ ht
  refine held_wf ht ?_
  intro _ hu
  dsimp only
  split
  · exact trapHere_wf hu _
  · split
    · exact convBlocks_wf hu
    · exact convElems_wf hu

theorem execVqscale_wf {vd a b : Reg} {m : MaskField} {neg vx : Bool} {s : State} (h : Memory.wf s.mem = true) : WfNext (execVqscale vd a b m neg vx s) := by
  unfold execVqscale
  refine checked_wf h ?_
  intro _ ht
  refine held_wf ht ?_
  intro _ hu
  dsimp only
  split
  · exact trapHere_wf hu _
  · exact convElems_wf hu

theorem vecReduce_wf {i : Instr} {vd a b : Reg} {m : MaskField} {neg vx : Bool} {sp : RedSpec} {s : State} (h : Memory.wf s.mem = true) : WfNext
    (vecReduce i vd a b m neg vx sp s) := by
  unfold vecReduce
  refine checked_wf h fun s h => held_wf h fun s h => ?_
  extract_lets
  split
  · exact trapHere_wf h _
  split
  · exact stall_wf h
  next t v cs e =>
  have ht := readySources_wf h e
  extract_lets init initBad badAt faultAt stop
  clear_value stop
  cases stop with
  | some p => exact wf_ite (trapHere_wf (withHart_wf (touchChunks_wf ht)) _) (trapHere_wf (touchChunks_wf ht) _)
  | none => exact finishVec_wf (withHart_wf (wf_ite (emitElems_wf (touchChunks_wf ht)) (emitElems_wf (touchChunks_wf ht))))

/-! ### Canopies -/

theorem loadRow_wf {r : CanopyRec} {sp : Space} {bench : Nat} {ans : List (Nat × Answer)} {s : State} {o : Nat} (h : Memory.wf s.mem = true) : WfOk
    (loadRow r sp bench ans s o) := by
  unfold loadRow
  dsimp only
  split
  · exact trivial
  · refine setBench_wf ?_
    refine foldl_wf ?_ h _
    intro _ _ ht
    split
    · exact ht
    · exact agentPass_wf ht

theorem loadRows_wf {r : CanopyRec} {sp : Space} {bench : Nat} {ans : List (Nat × Answer)} {start : Nat} {s : State} (h : Memory.wf s.mem = true) :
    Memory.wf (loadRows r sp bench ans start s).1.mem = true := by
  unfold loadRows
  refine foldl_fst_wf ?_ h _
  intro _ _ hp
  split
  · exact hp
  · split
    · exact WfOk.of_ok (loadRow_wf hp) (by assumption)
    · exact hp

theorem recordLoad_wf {bench : Nat} {r : CanopyRec} {s : State} (h : Memory.wf s.mem = true) : Memory.wf (recordLoad bench r s).mem = true := setBench_wf h

theorem replaySeg_wf {r : CanopyRec} {bench : Nat} {ans : List (Nat × Answer)} {o : Nat} {acc : State × Bool} {q : Seg × Nat}
    (hacc : Memory.wf acc.1.mem = true) : Memory.wf (replaySeg r bench ans o acc q).1.mem = true := by
  unfold replaySeg
  dsimp only
  split
  · dsimp only
    refine setBench_wf ?_
    split
    · exact hacc
    · exact agentPass_wf hacc
  · dsimp only
    refine setBench_wf ?_
    split
    · exact noteAll_wf hacc _
    · exact hacc

theorem replayNext_wf {bench : Nat} {s : State} (h : Memory.wf s.mem = true) : Memory.wf (replayNext bench s).mem = true := by
  unfold replayNext
  split
  · exact h
  · dsimp only
    split
    · exact RemoteOut.Wf.of_waiting (agentRemote_wf h) (by assumption)
    · refine recordLoad_wf ?_
      refine setBench_wf ?_
      split
      · exact report_wf (foldl_fst_wf (fun _ _ hp => foldl_fst_wf (fun _ _ hq => replaySeg_wf hq) hp _) (RemoteOut.Wf.of_answered (agentRemote_wf h) (by assumption)) _) _
      · exact foldl_fst_wf (fun _ _ hp => foldl_fst_wf (fun _ _ hq => replaySeg_wf hq) hp _) (RemoteOut.Wf.of_answered (agentRemote_wf h) (by assumption)) _

/-! ### Matrix instructions -/

theorem setMyBench_wf {s : State} {b : Bench} (h : Memory.wf s.mem = true) : Memory.wf (s.setMyBench b).mem = true := setBench_wf h

theorem wakeHead_wf {bench : Nat} {s : State} (h : Memory.wf s.mem = true) : Memory.wf (wakeHead bench s).mem = true := by
  unfold wakeHead
  split
  · exact h
  · exact updHart_wf h

theorem dropPosts_wf {i : HartId} {s : State} (h : Memory.wf s.mem = true) : Memory.wf (dropPosts i s).mem = true := by
  unfold dropPosts
  dsimp only
  split
  · exact h
  · exact wakeHead_wf (setBench_wf h)

theorem atHead_wf {me : MatrixPost} {k : State → State} {s : State} (hk : ∀ (s : State), Memory.wf s.mem = true → Memory.wf (k s).mem = true)
    (h : Memory.wf s.mem = true) : Memory.wf (atHead me k s).mem = true := by
  unfold atHead
  dsimp only
  split
  · exact wakeHead_wf (setBench_wf (hk _ (withHart_wf h)))
  · exact hk _ (withHart_wf h)

theorem awaitHead_wf {s : State} (h : Memory.wf s.mem = true) : Memory.wf (awaitHead s).mem = true := withHart_wf h

theorem queued_wf {i : Instr} {ready : State → Bool} {s : State} {k : State → State} (h : Memory.wf s.mem = true)
    (hk : ∀ (s : State), Memory.wf s.mem = true → Memory.wf (k s).mem = true) : Memory.wf (queued i ready s k).mem = true := by
  unfold queued
  dsimp only
  split
  · exact atHead_wf (fun _ ht => hk _ ht) h
  · split
    · exact awaitHead_wf h
    · split
      · exact stall_wf h
      · split
        · split
          · exact stall_wf h
          · exact awaitHead_wf (setMyBench_wf h)
        · split
          · split
            · exact hk _ h
            · exact setBench_wf (hk _ h)
          · split
            · exact stall_wf h
            · exact awaitHead_wf (setMyBench_wf h)

theorem execMatrixQueueAccept_wf {bench : Nat} {s : State} (h : Memory.wf s.mem = true) : WfNext (execMatrixQueueAccept bench s) := by
  unfold execMatrixQueueAccept
  dsimp only [WfNext]
  split
  · exact h
  · split
    · exact h
    · split
      · exact h
      · exact wakeHead_wf (setBench_wf h)

theorem matrixStep_wf {i : Instr} {s : State} {c : State → MCheck} {k : State → State} {ready : State → Bool} (h : Memory.wf s.mem = true)
    (hk : ∀ (s : State), Memory.wf s.mem = true → Memory.wf (k s).mem = true) : WfNext (matrixStep i s c k ready) := by
  unfold matrixStep
  refine checked_wf h ?_
  intro _ ht
  refine held_wf ht ?_
  intro _ hu
  refine queued_wf hu ?_
  intro _ hv
  split
  · exact trapHere_wf hv _
  · exact hk _ hv

theorem execMacq_wf {d : Reg} {any : Bool} {t : BitVec 2} {s : State} (h : Memory.wf s.mem = true) : WfNext (execMacq d any t s) := by
  unfold execMacq
  refine matrixStep_wf h ?_
  intro _ hu
  dsimp only
  split
  · exact finish_wf (setX_wf hu) _
  · split
    · exact finish_wf (setX_wf hu) _
    · exact finish_wf (setX_wf (setMyBench_wf hu)) _

theorem verifyPanel_wf {units : List Nat} {s : State} (h : Memory.wf s.mem = true) : Memory.wf (verifyPanel units s).mem = true := by
  unfold verifyPanel
  refine foldl_wf ?_ h _
  intro _ _ ht
  split
  · exact report_wf (count_wf (setMyBench_wf ht)) _
  · exact ht

theorem macStep_wf {i : Instr} {m : MacArgs} {s : State} (h : Memory.wf s.mem = true) : WfNext (macStep i m s) := by
  unfold macStep
  refine matrixStep_wf h ?_
  intro _ ht
  dsimp only
  split
  · refine trapHere_wf ?_ _
    split
    · exact ht
    · exact setMyBench_wf ht
  · split
    · split
      · exact trapHere_wf ht _
      · split
        · exact stall_wf ht
        · exact trapHere_wf ht _
        · split
          · refine trapHere_wf ?_ _
            refine withHart_wf ?_
            refine setMyBench_wf ?_
            split
            · split
              · exact foldl_wf (fun _ _ hu => touchChunks_wf hu) (readySources_wf ht (by assumption)) _
              · exact verifyPanel_wf (foldl_wf (fun _ _ hu => touchChunks_wf hu) (readySources_wf ht (by assumption)) _)
            · split
              · exact foldl_wf (fun _ _ hu => touchChunks_wf hu) (readySources_wf ht (by assumption)) _
              · exact verifyPanel_wf (foldl_wf (fun _ _ hu => touchChunks_wf hu) (readySources_wf ht (by assumption)) _)
          · split
            · split
              · refine pauseAt_wf ?_
                refine setMyBench_wf ?_
                split
                · exact foldl_wf (fun _ _ hu => touchChunks_wf hu) (readySources_wf ht (by assumption)) _
                · exact verifyPanel_wf (foldl_wf (fun _ _ hu => touchChunks_wf hu) (readySources_wf ht (by assumption)) _)
              · refine finishFlags_wf ?_
                refine withHart_wf ?_
                refine setMyBench_wf ?_
                split
                · exact foldl_wf (fun _ _ hu => touchChunks_wf hu) (readySources_wf ht (by assumption)) _
                · exact verifyPanel_wf (foldl_wf (fun _ _ hu => touchChunks_wf hu) (readySources_wf ht (by assumption)) _)
            · split
              · refine pauseAt_wf ?_
                refine setMyBench_wf ?_
                split
                · exact foldl_wf (fun _ _ hu => touchChunks_wf hu) (readySources_wf ht (by assumption)) _
                · exact verifyPanel_wf (foldl_wf (fun _ _ hu => touchChunks_wf hu) (readySources_wf ht (by assumption)) _)
              · refine finishFlags_wf ?_
                refine withHart_wf ?_
                refine setMyBench_wf ?_
                split
                · exact foldl_wf (fun _ _ hu => touchChunks_wf hu) (readySources_wf ht (by assumption)) _
                · exact verifyPanel_wf (foldl_wf (fun _ _ hu => touchChunks_wf hu) (readySources_wf ht (by assumption)) _)
    · split
      · exact trapHere_wf (setMyBench_wf ht) _
      · split
        · exact stall_wf (setMyBench_wf ht)
        · exact trapHere_wf (setMyBench_wf ht) _
        · split
          · refine trapHere_wf ?_ _
            refine withHart_wf ?_
            refine setMyBench_wf ?_
            split
            · split
              · exact foldl_wf (fun _ _ hu => touchChunks_wf hu) (readySources_wf (setMyBench_wf ht) (by assumption)) _
              · exact verifyPanel_wf (foldl_wf (fun _ _ hu => touchChunks_wf hu) (readySources_wf (setMyBench_wf ht) (by assumption)) _)
            · split
              · exact foldl_wf (fun _ _ hu => touchChunks_wf hu) (readySources_wf (setMyBench_wf ht) (by assumption)) _
              · exact verifyPanel_wf (foldl_wf (fun _ _ hu => touchChunks_wf hu) (readySources_wf (setMyBench_wf ht) (by assumption)) _)
          · split
            · split
              · refine pauseAt_wf ?_
                refine setMyBench_wf ?_
                split
                · exact foldl_wf (fun _ _ hu => touchChunks_wf hu) (readySources_wf (setMyBench_wf ht) (by assumption)) _
                · exact verifyPanel_wf (foldl_wf (fun _ _ hu => touchChunks_wf hu) (readySources_wf (setMyBench_wf ht) (by assumption)) _)
              · refine finishFlags_wf ?_
                refine withHart_wf ?_
                refine setMyBench_wf ?_
                split
                · exact foldl_wf (fun _ _ hu => touchChunks_wf hu) (readySources_wf (setMyBench_wf ht) (by assumption)) _
                · exact verifyPanel_wf (foldl_wf (fun _ _ hu => touchChunks_wf hu) (readySources_wf (setMyBench_wf ht) (by assumption)) _)
            · split
              · refine pauseAt_wf ?_
                refine setMyBench_wf ?_
                split
                · exact foldl_wf (fun _ _ hu => touchChunks_wf hu) (readySources_wf (setMyBench_wf ht) (by assumption)) _
                · exact verifyPanel_wf (foldl_wf (fun _ _ hu => touchChunks_wf hu) (readySources_wf (setMyBench_wf ht) (by assumption)) _)
              · refine finishFlags_wf ?_
                refine withHart_wf ?_
                refine setMyBench_wf ?_
                split
                · exact foldl_wf (fun _ _ hu => touchChunks_wf hu) (readySources_wf (setMyBench_wf ht) (by assumption)) _
                · exact verifyPanel_wf (foldl_wf (fun _ _ hu => touchChunks_wf hu) (readySources_wf (setMyBench_wf ht) (by assumption)) _)

/-! ### Drains -/

theorem mldcRows_wf {r : CanopyRec} {s : State} (h : Memory.wf s.mem = true) : Memory.wf (mldcRows r s).mem = true := by
  unfold mldcRows
  dsimp only
  split
  · exact RemoteOut.Wf.of_waiting (remoteAccess_wf (drainStores_wf h)) (by assumption)
  next t ans e =>
    have rows := loadRows_wf (r := r) (sp := r.space) (bench := benchOf s.hart.id) (ans := ans) (start := s.hart.vri.toNat)
      (RemoteOut.Wf.of_answered (remoteAccess_wf (drainStores_wf h)) e)
    split
    · exact trapHere_wf (wf_of_fst rows (by assumption)) _
    · exact trapHere_wf (wf_of_fst rows (by assumption)) _
    · exact finish_wf (withHart_wf (recordLoad_wf (wf_of_fst rows (by assumption)))) _

theorem execMldc_wf {xg xs xstr xsc : Reg} {tr : Bool} {fmt : BitVec 5} {s : State} (h : Memory.wf s.mem = true) : WfNext (execMldc xg xs xstr xsc tr fmt s) := by
  unfold execMldc
  refine matrixStep_wf h ?_
  intro _ ht
  dsimp only
  split
  · exact trapHere_wf (setMyBench_wf ht) _
  · split
    · exact trapHere_wf (setMyBench_wf ht) _
    · exact mldcRows_wf (setMyBench_wf ht)

theorem noteCheck_wf {k : BitVec 2} {s : State} {found : Option Bool} (h : Memory.wf s.mem = true) : Memory.wf (noteCheck k s found).mem = true := by
  unfold noteCheck
  dsimp only
  split
  · exact setMyBench_wf h
  · exact h
  · split
    · exact count_wf (setMyBench_wf h)
    · exact report_wf (count_wf (setMyBench_wf h)) _

theorem compareRows_wf {k : BitVec 2} {rows : List Nat} {columns : Bool} {s : State} (h : Memory.wf s.mem = true) : Memory.wf
    (compareRows k rows columns s).mem = true := by
  unfold compareRows
  dsimp only
  split
  · exact foldl_wf (fun _ _ ht => noteCheck_wf ht) (foldl_wf (fun _ _ ht => noteCheck_wf ht) h _) _
  · exact foldl_wf (fun _ _ ht => noteCheck_wf ht) h _

theorem zeroDrained_wf {a : DrainArgs} {s : State} (h : Memory.wf s.mem = true) : Memory.wf (zeroDrained a s).mem = true := by
  unfold zeroDrained
  split
  · exact h
  · exact setMyBench_wf h

theorem finishDrain_wf {k : BitVec 2} {raised : BitVec 7} {s : State} (h : Memory.wf s.mem = true) : Memory.wf (finishDrain k raised s).mem = true := by
  unfold finishDrain
  dsimp only
  refine completeAt_wf ?_ _ _ _ _ _
  refine withHart_wf ?_
  split
  · exact setMyBench_wf h
  · exact h

theorem drainInto_wf {a : DrainArgs} {vd nd : Nat} {s0 : State} (h : Memory.wf s0.mem = true) : Memory.wf (drainInto a vd nd s0).mem = true := by
  unfold drainInto
  dsimp only
  split
  · exact trapHere_wf (withHart_wf (emitElems_wf (drainStores_wf h))) _
  · exact finishDrain_wf (zeroDrained_wf (compareRows_wf (withHart_wf (emitElems_wf (drainStores_wf h)))))

theorem execMdrain_wf {t : BitVec 2} {vd : Reg} {gd : BitVec 2} {rm : BitVec 3} {ks : BitVec 2} {sat z : Bool} {fmt : BitVec 5} {xr xo : Reg}
    {s : State} (h : Memory.wf s.mem = true) : WfNext (execMdrain t vd gd rm ks sat z fmt xr xo s) := by
  unfold execMdrain
  dsimp only
  refine matrixStep_wf h ?_
  intro _ hu
  split
  · exact trapHere_wf hu _
  · split
    · exact finish_wf (withHart_wf hu) _
    · exact drainInto_wf hu

theorem setCtx_wf {s : State} {k : Nat} {c : Ctx} (h : Memory.wf s.mem = true) : Memory.wf (s.setCtx k c).mem = true := h

theorem deliverRows_wf {a : DrainArgs} {ctx chan n : Nat} {s : State} (h : Memory.wf s.mem = true) : Memory.wf (deliverRows a ctx chan n s).mem = true := by
  induction n generalizing s with
  | zero =>
    refine finishDrain_wf (wf_ite h (zeroDrained_wf h))
  | succ n ih =>
    unfold deliverRows
    dsimp only
    refine wf_ite (withHart_wf h) ?_
    refine wf_ite ?_ (ih ?_) <;>
      exact pauseAt_wf (wf_ite (setMyBench_wf (compareRows_wf (setCtx_wf h))) (compareRows_wf (setCtx_wf h)))

theorem execMdrainx_wf {t : BitVec 2} {ctx : BitVec 4} {chan rm : BitVec 3} {ks : BitVec 2} {z : Bool} {fmt : BitVec 5} {xr xo : Reg} {s : State}
    (h : Memory.wf s.mem = true) : WfNext (execMdrainx t ctx chan rm ks z fmt xr xo s) := by
  unfold execMdrainx
  dsimp only
  refine matrixStep_wf h ?_
  intro _ hu
  split
  · exact trapHere_wf hu _
  · exact deliverRows_wf hu

theorem execMdrainxRow_wf {h : HartId} {s : State} (hs : Memory.wf s.mem = true) : WfNext (execMdrainxRow h s) := by
  unfold execMdrainxRow
  split
  · exact hs
  · split
    · refine asHart_wf ?_ _ hs
      intro _ ht
      split
      · split
        · exact keepInstance_wf (WfNext.of_next (execMdrainx_wf (withHart_wf ht)) (by assumption))
        · exact ht
      · exact ht
    · exact hs

/-! ### Vector length and streams -/

theorem moveDrawers_wf {s0 : State} (h : Memory.wf s0.mem = true) : Memory.wf (moveDrawers s0).mem = true := by
  unfold moveDrawers
  dsimp only
  refine withHart_wf ?_
  split
  · exact drainStores_wf h
  · exact setCore_wf (drainStores_wf h)

theorem setLength_wf {len : Nat} {d : Reg} {req avl : Word} {s : State} (h : Memory.wf s.mem = true) : Memory.wf (setLength len d req avl s).mem = true := by
  unfold setLength
  dsimp only
  split
  · exact finish_wf (setX_wf (withHart_wf h)) _
  · split
    · exact stall_wf h
    · refine finish_wf ?_ _
      refine setX_wf ?_
      split
      · exact moveDrawers_wf (withHart_wf h)
      · exact withHart_wf h

theorem clearDelivered_wf {s : State} {part : BitVec 3} {base : Word} (h : Memory.wf s.mem = true) : Memory.wf (clearDelivered s part base).mem = true := h

theorem unbindReg_wf {n : Nat} {s : State} (h : Memory.wf s.mem = true) : Memory.wf (unbindReg n s).mem = true := by
  unfold unbindReg
  split
  · exact h
  · dsimp only
    split
    · split
      · exact withHart_wf h
      · dsimp only
        exact withHart_wf h
    · split
      · exact clearDelivered_wf (withHart_wf h)
      · exact withHart_wf h

/-- Reading an instruction's block leaves what a load leaves. -/
theorem blockRead_wf {s t : State} {n v : Nat} {a : Word} {fl : BitVec 7} (h : Memory.wf s.mem = true) (e : blockRead s n a = .ok (v, fl, t)) :
    Memory.wf t.mem = true := by
  unfold blockRead at e
  split at e
  · exact absurd e (by simp)
  split at e
  · exact absurd e (by simp)
  split at e
  · exact absurd e (by simp)
  split at e
  · split at e
    · exact absurd e (by simp)
    · obtain ⟨-, -, rfl⟩ := by simpa using e
      exact afterLoad_wf h _ _
  · obtain ⟨-, -, rfl⟩ := by simpa using e
    exact afterLoad_wf h _ _

theorem execVbind_wf {n : BitVec 3} {a b : Reg} {s : State} (h : Memory.wf s.mem = true) : WfNext (execVbind n a b s) := by
  unfold execVbind
  refine held_wf h ?_
  intro _ ht
  dsimp only
  split
  · exact trapHere_wf (unbindReg_wf (drainStores_wf ht)) _
  · split
    · exact trapHere_wf (blockRead_wf (unbindReg_wf (drainStores_wf ht)) (by assumption)) _
    · exact finishFlags_wf (withHart_wf (blockRead_wf (unbindReg_wf (drainStores_wf ht)) (by assumption)))

/-! ### Farms -/

theorem freeTiles_wf {i : HartId} {s : State} (h : Memory.wf s.mem = true) : Memory.wf (freeTiles i s).mem = true := by
  unfold freeTiles
  dsimp only
  split
  · exact h
  · exact setBench_wf h

theorem freeCanopies_wf {n : BitVec 16} {s : State} (h : Memory.wf s.mem = true) : Memory.wf (freeCanopies n s).mem = true := by
  unfold freeCanopies
  refine foldl_wf ?_ h _
  intro _ _ ht
  split
  · exact setBench_wf ht
  · exact ht

theorem settleFarm_wf {n : BitVec 16} {s : State} (h : Memory.wf s.mem = true) : Memory.wf (settleFarm n s).mem = true := by
  unfold settleFarm
  split
  · exact updFarm_wf h
  · exact h

theorem retireHart_wf {s : State} (h : Memory.wf s.mem = true) : Memory.wf (retireHart s).mem = true :=
  settleFarm_wf (withHart_wf (dropPosts_wf (freeTiles_wf (foldl_wf (fun _ _ ht => unbindReg_wf ht) (drainStores_wf h) _))))

theorem execFarmComplete_wf {n : BitVec 16} {s : State} (h : Memory.wf s.mem = true) : WfNext (execFarmComplete n s) := by
  unfold execFarmComplete
  split
  · exact h
  · split
    · exact updFarm_wf (setPart_wf (freeCanopies_wf (writeFlag_wf h)))
    · exact h

theorem execFarmDepRead_wf {n : BitVec 16} {s : State} (h : Memory.wf s.mem = true) : WfNext (execFarmDepRead n s) := by
  unfold execFarmDepRead
  split
  · exact h
  · split
    · exact h
    · split
      · split
        · exact h
        · exact updFarm_wf (report_wf (noteAll_wf h _) _)
      · dsimp only
        split
        · exact updFarm_wf (agentTouch_wf h)
        · exact agentTouch_wf h

theorem execPriorityAging_wf {n : BitVec 16} {cycles : Nat} {s : State} (h : Memory.wf s.mem = true) : WfNext (execPriorityAging n cycles s) := updFarm_wf h

theorem addHart_wf {s : State} {h : Hart} (hs : Memory.wf s.mem = true) : Memory.wf (s.addHart h).mem = true := by
  unfold State.addHart
  split <;> exact hs

theorem servedFarm_wf {n : BitVec 16} {s : State} (h : Memory.wf s.mem = true) : Memory.wf (servedFarm n s).mem = true := h

theorem freshView_wf {i : HartId} {s : State} (h : Memory.wf s.mem = true) : Memory.wf (freshView i s).mem = true := by
  unfold freshView
  dsimp only
  split
  · exact h
  · exact setCore_wf h

theorem execHartPlace_wf {n : BitVec 16} {die : Bool} {s : State} (h : Memory.wf s.mem = true) : WfNext (execHartPlace n die s) := by
  unfold execHartPlace
  split
  · split
    · exact h
    · split
      · exact h
      · exact servedFarm_wf (freshView_wf (updFarm_wf (addHart_wf h)))
  · exact h

/-! ### Masks -/

theorem maskStep_wf {i : Instr} {s : State} {k : Hart → Hart} (h : Memory.wf s.mem = true) : WfNext (maskStep i s k) := by
  unfold maskStep
  refine checked_wf h ?_
  intro _ ht
  refine held_wf ht ?_
  intro _ hu
  split
  · exact trapHere_wf hu _
  · exact finishVec_wf (withHart_wf hu)

theorem maskMem_wf {i : Instr} {s : State} {k : State → State} (h : Memory.wf s.mem = true)
    (hk : ∀ (s : State), Memory.wf s.mem = true → Memory.wf (k s).mem = true) : WfNext (maskMem i s k) := by
  unfold maskMem
  refine checked_wf h ?_
  intro _ ht
  refine held_wf ht ?_
  intro _ hu
  split
  · exact trapHere_wf hu _
  · exact hk _ hu

theorem execMld_wf {md a : Reg} {s : State} (h : Memory.wf s.mem = true) : WfNext (execMld md a s) := by
  unfold execMld
  refine maskMem_wf h ?_
  intro _ ht
  dsimp only
  split
  · exact trapHere_wf (withHart_wf (withHart_wf (foldl_wf (fun _ _ hu => elemTouch_wf hu) ht _))) _
  · exact finishFlags_wf (withHart_wf (withHart_wf (foldl_wf (fun _ _ hu => elemTouch_wf hu) ht _)))

theorem execMst_wf {ms a : Reg} {s : State} (h : Memory.wf s.mem = true) : WfNext (execMst ms a s) := by
  unfold execMst
  refine maskMem_wf h ?_
  intro _ ht
  dsimp only
  split
  · exact trapHere_wf (afterStop_wf (withHart_wf (commitElems_wf ht))) _
  · exact finishFlags_wf (withHart_wf (withHart_wf (commitElems_wf ht)))

/-! ### Waits -/

theorem sysStep_wf {i : Instr} {level : Nat} {s : State} {k : State → State} (h : Memory.wf s.mem = true)
    (hk : ∀ (s : State), Memory.wf s.mem = true → Memory.wf (k s).mem = true) : WfNext (sysStep i level s k) := by
  unfold sysStep
  split
  · exact privileged_wf h
  · exact checked_wf h (fun _ ht => hk _ ht)

theorem watchFirst_wf {n : Nat} {as : List Word} {s : State} (h : Memory.wf s.mem = true) : Memory.wf (watchFirst n as s).mem = true :=
  foldl_wf (fun _ _ ht => foldl_wf (fun _ _ hu => touch_wf hu _ _ _ _ _ _) (noteWalk_wf ht _ _) _) (drainThrough_wf h _) _

theorem endVwait_wf {d : Reg} {addrs : List (Nat × Word)} {m : MaskField} {sat : List Nat} {b : Reg} {s : State} (h : Memory.wf s.mem = true) :
    Memory.wf (endVwait d addrs m sat b s).mem = true := by
  unfold endVwait
  dsimp only
  refine finishVec_wf ?_
  refine withHart_wf ?_
  split
  · exact h
  · exact dropL1_wf h

theorem settleWait_wf {s : State} (h : Memory.wf s.mem = true) : Memory.wf (settleWait s).mem = true := by
  unfold settleWait
  split
  · dsimp only
    split
    · exact endVwait_wf h
    · exact withHart_wf h
  · split
    · split
      · exact h
      · exact finish_wf (setX_wf (dropL1_wf (withHart_wf h))) _
    · exact h
  · split
    · exact finish_wf (setX_wf (withHart_wf h)) _
    · exact h
  · exact h

theorem expireWait_wf {s0 : State} (h : Memory.wf s0.mem = true) : Memory.wf (expireWait s0).mem = true := by
  unfold expireWait
  dsimp only
  split
  · split
    · exact endVwait_wf (settleWait_wf h)
    · exact settleWait_wf h
  · split
    · exact finish_wf (setX_wf (withHart_wf (settleWait_wf h))) _
    · exact settleWait_wf h
  · exact settleWait_wf h

theorem breakWait_wf {s0 : State} (h : Memory.wf s0.mem = true) : Memory.wf (breakWait s0).mem = true := by
  have hs := settleWait_wf h
  unfold breakWait
  generalize settleWait s0 = s at hs ⊢
  dsimp only
  refine withHart_wf (dropPosts_wf ?_)
  cases s.hart.run with
  | asleep w => cases w with
    | vwait _ _ _ m _ _ _ _ sat _ =>
      refine withHart_wf (?_ : Memory.wf (if sat.isEmpty then s else dropL1 s).mem = true)
      split
      · exact hs
      · exact dropL1_wf hs
    | _ => exact hs
  | _ => exact hs

theorem execWaitSatisfied_wf {h : HartId} {s : State} (hs : Memory.wf s.mem = true) : WfNext (execWaitSatisfied h s) := by
  unfold execWaitSatisfied
  refine asHart_wf ?_ _ (settleHart_wf hs)
  intro _ ht
  dsimp only
  split
  · split
    · exact finish_wf (setX_wf (withHart_wf (settleWait_wf ht))) _
    · exact settleWait_wf ht
  · exact settleWait_wf ht

theorem execWaitTimeout_wf {h : HartId} {s : State} (hs : Memory.wf s.mem = true) : WfNext (execWaitTimeout h s) :=
  asHart_wf (fun _ ht => expireWait_wf ht) _ (settleHart_wf hs)

theorem execWfeEarlyEnd_wf {h : HartId} {s : State} (hs : Memory.wf s.mem = true) : WfNext (execWfeEarlyEnd h s) := by
  unfold execWfeEarlyEnd
  refine asHart_wf ?_ _ hs
  intro _ ht
  split
  · exact finish_wf (setX_wf (withHart_wf ht)) _
  · exact ht

theorem execVwait_wf {d a b : Reg} {m : MaskField} {w : Bool} {c : BitVec 2} {s : State} (h : Memory.wf s.mem = true) : WfNext (execVwait d a b m w c s) := by
  unfold execVwait
  refine checked_wf h ?_
  intro _ ht
  refine held_wf ht ?_
  intro _ hu
  dsimp only
  split
  · exact trapHere_wf hu _
  · split
    · exact stall_wf hu
    · split
      · exact trapHere_wf (readySources_wf hu (by assumption)) _
      · exact settleWait_wf (withHart_wf (watchFirst_wf (readySources_wf hu (by assumption))))

theorem execFjoin_wf {d a : Reg} {s : State} (h : Memory.wf s.mem = true) : WfNext (execFjoin d a s) := by
  unfold execFjoin
  refine sysStep_wf h ?_
  intro _ ht
  split
  · exact trapHere_wf ht _
  · exact settleWait_wf (withHart_wf (watchFirst_wf ht))

theorem takeInterruptHere_wf {s : State} (h : Memory.wf s.mem = true) : Memory.wf (takeInterruptHere s).mem = true := by
  unfold takeInterruptHere
  dsimp only
  split
  · exact h
  · exact trapHere_wf (setPart_wf h) _

theorem execTakeInterrupt_wf {h : HartId} {s : State} (hs : Memory.wf s.mem = true) : WfNext (execTakeInterrupt h s) := by
  unfold execTakeInterrupt
  refine asHart_wf ?_ _ hs
  intro _ ht
  split
  · dsimp only
    split
    · exact takeInterruptHere_wf (breakWait_wf ht)
    · exact breakWait_wf ht
  · exact ht

/-! ### The save engine -/

theorem startSwap_wf {n : BitVec 16} {p : BitVec 3} {s : State} (h : Memory.wf s.mem = true) : Memory.wf (startSwap n p s).1.mem = true := by
  unfold startSwap
  dsimp only
  split
  · exact report_wf (setPart_wf h) _
  · exact agentStore_wf (agentStore_wf (foldl_wf (fun _ _ ht => updHart_wf (dropPosts_wf ht)) (setPart_wf h) _))

theorem takeCanopies_wf {n : BitVec 16} {s : State} (h : Memory.wf s.mem = true) : Memory.wf (takeCanopies n s).2.mem = true := by
  unfold takeCanopies
  dsimp only
  exact foldl_wf (fun _ _ ht => setBench_wf ht) h _

theorem execSwapOut_wf {v : BitVec 16} {s : State} (h : Memory.wf s.mem = true) : WfNext (execSwapOut v s) := by
  unfold execSwapOut
  dsimp only [WfNext]
  split
  · split
    · exact wf_of_fst (startSwap_wf h) (by assumption)
    · exact updFarm_wf (servedFarm_wf (takeCanopies_wf (wf_of_fst (startSwap_wf h) (by assumption))))
  · exact h

theorem saveHart_wf {s : State} (h : Memory.wf s.mem = true) : Memory.wf (saveHart s).mem = true := by
  unfold saveHart
  dsimp only
  refine withHart_wf ?_
  split
  · split
    · exact setPart_wf (freeTiles_wf (foldl_wf (fun _ _ ht => agentStore_wf ht) (withHart_wf (drainStores_wf (breakWait_wf h))) _))
    · exact updFarm_wf (freeTiles_wf (foldl_wf (fun _ _ ht => agentStore_wf ht) (withHart_wf (drainStores_wf (breakWait_wf h))) _))
  · split
    · exact setPart_wf (freeTiles_wf (foldl_wf (fun _ _ ht => agentStore_wf ht) (drainStores_wf (breakWait_wf h)) _))
    · exact updFarm_wf (freeTiles_wf (foldl_wf (fun _ _ ht => agentStore_wf ht) (drainStores_wf (breakWait_wf h)) _))

theorem execHartSave_wf {h : HartId} {s : State} (hs : Memory.wf s.mem = true) : WfNext (execHartSave h s) := by
  unfold execHartSave
  refine asHart_wf ?_ _ hs
  intro _ ht
  split
  · exact saveHart_wf ht
  · exact ht

theorem removeHart_wf {i : HartId} {s : State} (h : Memory.wf s.mem = true) : Memory.wf (removeHart i s).mem = true := by
  unfold removeHart
  dsimp only
  split
  · exact withHart_wf (setPosted_wf (dropPosts_wf (freeTiles_wf h)))
  · dsimp only
    exact setPosted_wf (dropPosts_wf (freeTiles_wf h))

theorem settlePartition_wf {p : BitVec 3} {s : State} (h : Memory.wf s.mem = true) : Memory.wf (settlePartition p s).mem = true := by
  unfold settlePartition
  dsimp only
  split
  · exact sendMsix_wf (setPart_wf h)
  · exact h

theorem execSaveComplete_wf {i : HartId} {s : State} (h : Memory.wf s.mem = true) : WfNext (execSaveComplete i s) := by
  unfold execSaveComplete
  split
  · exact h
  · split
    · dsimp only
      refine settlePartition_wf ?_
      split
      · exact removeHart_wf h
      · exact settleFarm_wf (removeHart_wf h)
    · exact h

theorem restoreTiles_wf {old new : HartId} {l : List (HartId × Nat × Tile)} {s : State} (h : Memory.wf s.mem = true) : Memory.wf (restoreTiles old new l s).mem = true :=
  foldl_wf (fun _ _ ht => setBench_wf ht) h _

theorem restoreHart_wf {l : List (HartId × Nat × Tile)} {s : State} {p : Hart × HartId} (h : Memory.wf s.mem = true) : Memory.wf (restoreHart l s p).mem = true :=
  restoreTiles_wf (freshView_wf (addHart_wf h))

theorem restoreCanopy_wf {farm : BitVec 16} {bench : Nat} {l : List CanopyRec} {s : State} (h : Memory.wf s.mem = true) : Memory.wf
    (restoreCanopy farm bench l s).mem = true :=
  setBench_wf h

theorem renameIssuer_wf {n : BitVec 16} {got : List (Hart × HartId)} {s : State} (h : Memory.wf s.mem = true) : Memory.wf (renameIssuer n got s).mem = true := h

theorem execFarmResume_wf {n : BitVec 16} {die : Bool} {s : State} (h : Memory.wf s.mem = true) : WfNext (execFarmResume n die s) := by
  unfold execFarmResume
  split
  · split
    · exact h
    · split
      · exact h
      · dsimp only
        refine servedFarm_wf ?_
        refine renameIssuer_wf ?_
        refine updFarm_wf ?_
        refine foldl_wf ?_ ?_ _
        · intro _ _ ht
          split
          · exact restoreCanopy_wf ht
          · exact ht
        · refine foldl_wf ?_ ?_ _
          · exact fun _ _ ht => restoreHart_wf ht
          · exact h
  · exact h

theorem startSuspension_wf {p : BitVec 3} {s : State} (h : Memory.wf s.mem = true) : Memory.wf (startSuspension p s).mem = true := by
  unfold startSuspension
  dsimp only
  split
  · refine foldl_wf ?_ ?_ _
    · intro _ _ ht
      split
      · exact wf_of_fst (startSwap_wf (servedFarm_wf ht)) (by assumption)
      · exact updFarm_wf (takeCanopies_wf (wf_of_fst (startSwap_wf (servedFarm_wf ht)) (by assumption)))
    · exact setPart_wf h
  · split
    · refine wf_of_fst ?_ (by assumption)
      refine startSwap_wf ?_
      refine foldl_wf ?_ ?_ _
      · intro _ _ ht
        split
        · exact wf_of_fst (startSwap_wf (servedFarm_wf ht)) (by assumption)
        · exact updFarm_wf (takeCanopies_wf (wf_of_fst (startSwap_wf (servedFarm_wf ht)) (by assumption)))
      · exact setPart_wf h
    · refine setPart_wf ?_
      refine takeCanopies_wf ?_
      refine wf_of_fst ?_ (by assumption)
      refine startSwap_wf ?_
      refine foldl_wf ?_ ?_ _
      · intro _ _ ht
        split
        · exact wf_of_fst (startSwap_wf (servedFarm_wf ht)) (by assumption)
        · exact updFarm_wf (takeCanopies_wf (wf_of_fst (startSwap_wf (servedFarm_wf ht)) (by assumption)))
      · exact setPart_wf h

theorem execSuspendTimeout_wf {p : BitVec 3} {s : State} (h : Memory.wf s.mem = true) : WfNext (execSuspendTimeout p s) := by
  unfold execSuspendTimeout
  split
  · split
    · exact startSuspension_wf h
    · exact h
  · exact h

theorem suspendIfTaken_wf {s : State} (h : Memory.wf s.mem = true) : Memory.wf (suspendIfTaken s).mem = true := by
  unfold suspendIfTaken
  split
  · exact startSuspension_wf h
  · exact h

theorem requestSuspend_wf {p : BitVec 3} {s : State} (h : Memory.wf s.mem = true) : Memory.wf (requestSuspend p s).mem = true := by
  unfold requestSuspend
  dsimp only
  split
  · exact setPart_wf (pend_wf h)
  · exact h

theorem requestResume_wf {p : BitVec 3} {s : State} (h : Memory.wf s.mem = true) : Memory.wf (requestResume p s).mem = true := by
  unfold requestResume
  dsimp only
  split
  · refine sendMsix_wf ?_
    refine setPart_wf ?_
    refine renameIssuer_wf ?_
    refine foldl_wf ?_ (restoreHart_wf h) _
    intro _ _ ht
    split
    · exact restoreCanopy_wf ht
    · exact ht
  · exact h

/-! ### Partitions -/

theorem dropAwait_wf {key : Nat} {s : State} (h : Memory.wf s.mem = true) : Memory.wf (dropAwait key s).mem = true := h

theorem endRun_wf {k reason detail : Nat} {s : State} (h : Memory.wf s.mem = true) : Memory.wf (endRun k reason detail s).mem = true :=
  writeFlag_wf (dropAwait_wf (setCtx_wf h))

theorem abortRun_wf {k : Nat} {s : State} (h : Memory.wf s.mem = true) : Memory.wf (abortRun k s).mem = true := by
  unfold abortRun
  split
  · exact h
  · exact endRun_wf (setCtx_wf h)

theorem assignContext_wf {k : Nat} {v : Word} {s : State} (h : Memory.wf s.mem = true) : Memory.wf (assignContext k v s).mem = true := by
  unfold assignContext
  dsimp only
  split
  · exact h
  · exact setCtx_wf h

theorem extendMeasure_wf {i : Nat} {v : List Byte} {s : State} (h : Memory.wf s.mem = true) : Memory.wf (extendMeasure i v s).mem = true := h

theorem clearBenches_wf {p : BitVec 3} {s : State} (h : Memory.wf s.mem = true) : Memory.wf (clearBenches p s).mem = true := by
  unfold clearBenches
  dsimp only
  refine foldl_wf ?_ (Memory.wf_filter h _) _
  intro _ _ ht
  split
  · exact setBench_wf ht
  · exact ht

theorem holdContexts_wf {p : BitVec 3} {s : State} (h : Memory.wf s.mem = true) : Memory.wf (holdContexts p s).mem = true := by
  unfold holdContexts
  refine foldl_wf ?_ h _
  intro _ _ ht
  dsimp only
  split
  · exact setCtx_wf ht
  · split
    · exact setCtx_wf ht
    · exact ht

theorem startPartition_wf {p : BitVec 3} {s : State} (h : Memory.wf s.mem = true) : Memory.wf (startPartition p s).mem = true := by
  unfold startPartition
  dsimp only
  split
  · exact setPart_wf h
  · exact sendMsix_wf (extendMeasure_wf (setPart_wf (freshView_wf (addHart_wf (holdContexts_wf (clearBenches_wf (setPart_wf h)))))))

theorem dropRecords_wf {p : BitVec 3} {s : State} (h : Memory.wf s.mem = true) : Memory.wf (dropRecords p s).mem = true := h

theorem stopContexts_wf {p : BitVec 3} {s : State} (h : Memory.wf s.mem = true) : Memory.wf (stopContexts p s).mem = true := by
  unfold stopContexts
  refine foldl_wf ?_ h _
  intro _ _ ht
  split
  · exact dropAwait_wf (setCtx_wf ht)
  · exact ht

theorem beginReset_wf {p : BitVec 3} {s : State} (h : Memory.wf s.mem = true) : Memory.wf (beginReset p s).mem = true := by
  unfold beginReset
  split
  · exact h
  · dsimp only
    refine sendMsix_wf ?_
    refine setPart_wf ?_
    refine clearBenches_wf ?_
    dsimp only
    refine stopContexts_wf ?_
    refine dropRecords_wf ?_
    dsimp only
    refine foldl_wf ?_ ?_ _
    · exact fun _ _ ht => freeCanopies_wf ht
    · refine foldl_wf ?_ h _
      exact fun _ _ ht => removeHart_wf ht

theorem endReset_wf {p : BitVec 3} {s : State} (h : Memory.wf s.mem = true) : Memory.wf (endReset p s).mem = true := by
  unfold endReset
  dsimp only
  split
  · exact h
  · split
    · exact startPartition_wf (setPart_wf h)
    · exact sendMsix_wf (setPart_wf h)

theorem enable_wf {p : BitVec 3} {s : State} (h : Memory.wf s.mem = true) : Memory.wf (enable p s).mem = true := by
  unfold enable
  dsimp only
  split
  · exact startPartition_wf h
  · split
    · exact setPart_wf h
    · exact h

theorem disable_wf {p : BitVec 3} {s : State} (h : Memory.wf s.mem = true) : Memory.wf (disable p s).mem = true := by
  unfold disable
  dsimp only
  split
  · exact beginReset_wf (setPart_wf h)
  · exact setPart_wf h

theorem execPartitionResetDone_wf {p : BitVec 3} {s : State} (h : Memory.wf s.mem = true) : WfNext (execPartitionResetDone p s) := endReset_wf h

theorem notePart_wf {p : BitVec 3} {w : Word} {s : State} (h : Memory.wf s.mem = true) : Memory.wf (notePart p w s).mem = true := by
  unfold notePart
  split
  · exact h
  · dsimp only
    refine pend_wf ?_
    split
    · exact agentWrite_wf h
    · exact noteAll_wf h _

theorem timerCheck_wf {p : BitVec 3} {s : State} (h : Memory.wf s.mem = true) : Memory.wf (timerCheck p s).mem = true := by
  unfold timerCheck
  dsimp only
  split
  · exact pend_wf (setPart_wf h)
  · exact h

theorem setTcmp_wf {p : BitVec 3} {w : Word} {s : State} (h : Memory.wf s.mem = true) : Memory.wf (setTcmp p w s).mem = true := timerCheck_wf (setPart_wf h)

theorem execTimerExpiry_wf {p : BitVec 3} {s : State} (h : Memory.wf s.mem = true) : WfNext (execTimerExpiry p s) := timerCheck_wf h

theorem execHostRead_wf {p : BitVec 3} {offset len : Nat} {s : State} (h : Memory.wf s.mem = true) : WfNext (execHostRead p offset len s) := by
  unfold execHostRead
  dsimp only [WfNext]
  split
  · exact h
  · split
    · exact noteAll_wf h _
    · exact agentPass_wf h

theorem execHostWrite_wf {p : BitVec 3} {offset : Nat} {bytes : List Byte} {poisoned : Bool} {s : State} (h : Memory.wf s.mem = true) : WfNext
    (execHostWrite p offset bytes poisoned s) := by
  unfold execHostWrite
  split
  · exact h
  · dsimp only
    refine foldl_wf ?_ h _
    intro _ _ ht
    split
    · exact wf_of_fst (agentStore_wf ht) (by assumption)
    · exact noteAll_wf (wf_of_fst (agentStore_wf ht) (by assumption)) _

/-! ### Device space -/

theorem writeWindow_wf {s : State} {k field : Nat} {v : Word} (h : Memory.wf s.mem = true) : Memory.wf (writeWindow s k field v).mem = true := by
  unfold writeWindow
  dsimp only
  split <;> exact h

theorem writeFabric_wf {s : State} {o : Nat} {v : Word} (h : Memory.wf s.mem = true) : Memory.wf (writeFabric s o v).mem = true := by
  unfold writeFabric
  split
  · exact h
  · split
    · exact writeWindow_wf h
    · exact h

theorem writeContext_wf {s : State} {o : Nat} {v : Word} (h : Memory.wf s.mem = true) : Memory.wf (writeContext s o v).mem = true := by
  unfold writeContext
  split
  · exact h
  · dsimp only
    split
    · exact assignContext_wf h
    · split
      · exact abortRun_wf h
      · exact h
    · exact h

theorem reportWord_wf {w : Word} {s : State} (h : Memory.wf s.mem = true) : Memory.wf (reportWord w s).mem = true := by
  unfold reportWord
  split
  · exact report_wf h _
  · exact h

theorem writeRas_wf {s : State} {o : Nat} {v : Word} (h : Memory.wf s.mem = true) : Memory.wf (writeRas s o v).mem = true := by
  unfold writeRas
  split
  · exact h
  · split
    · exact h
    · split
      · exact reportWord_wf h
      · exact h

theorem writePart_wf {s : State} {p : BitVec 3} {o : Nat} {v : Word} (h : Memory.wf s.mem = true) : Memory.wf (writePart s p o v).mem = true := by
  unfold writePart
  dsimp only
  split
  · split
    · refine beginReset_wf ?_
      dsimp only
      split
      · exact setPart_wf h
      · exact h
    · split
      · refine enable_wf ?_
        split
        · exact setPart_wf h
        · exact h
      · refine disable_wf ?_
        split
        · exact setPart_wf h
        · exact h
  · split
    · exact setTcmp_wf h
    · split
      · exact h
      · exact setPart_wf h

theorem writeControl_wf {s : State} {p : BitVec 3} {o : Nat} {v : Word} (h : Memory.wf s.mem = true) : Memory.wf (writeControl s p o v).mem = true := by
  unfold writeControl
  split
  · exact notePart_wf h
  · split
    · exact requestSuspend_wf h
    · exact h
  · split
    · exact requestResume_wf h
    · exact h
  · exact h

theorem ioWrite_wf {s : State} {o : Nat} {v : Word} (h : Memory.wf s.mem = true) : Memory.wf (ioWrite s o v).mem = true := by
  unfold ioWrite
  exact wf_ite h (wf_ite (writeFabric_wf h) (wf_ite (writeContext_wf h) (wf_ite h (wf_ite (writeRas_wf h) (wf_ite h
    (wf_ite (writePart_wf h) (writeControl_wf h)))))))
def probeWrite (s : State) (o : Nat) (v : Word) : State :=
  if o % 64 = 0x20 then s.updChannel (o / 64) (fun k => { k with probe := v.extractLsb' 0 21 }) else s
theorem probeWrite_wf {s : State} {o : Nat} {v : Word} (h : Memory.wf s.mem = true) : Memory.wf (probeWrite s o v).mem = true := by
  unfold probeWrite
  exact wf_ite (updChannel_wf h) h
theorem devWrite_low (s : State) {pa : Nat} (v : Word) (low : pa < 0xF000_0000_0000) : devWrite s pa v = probeWrite s (pa - 0x180_0000_0000) v := by
  rw [devWrite, if_pos low]
  rfl
theorem devWrite_wf {s : State} {pa : Nat} {v : Word} (h : Memory.wf s.mem = true) : Memory.wf (devWrite s pa v).mem = true := by
  by_cases low : pa < 0xF000_0000_0000
  · rw [devWrite_low s v low]
    exact probeWrite_wf h
  · obtain ⟨o, rfl⟩ := Nat.exists_eq_add_of_le (Nat.le_of_not_lt low)
    rw [devWrite_io]
    exact ioWrite_wf h

theorem execDeviceSpaceWrite_wf {pa : Nat} {w : Word} {s : State} (h : Memory.wf s.mem = true) : WfNext (execDeviceSpaceWrite pa w s) := by
  unfold execDeviceSpaceWrite
  split
  · exact devWrite_wf h
  · exact h

/-! ### System instructions -/

theorem sysWrite_wf {n : BitVec 12} {v bits : Word} {s : State} (h : Memory.wf s.mem = true) : Memory.wf (sysWrite n v bits s).mem = true := by
  unfold sysWrite
  dsimp only
  split
  · exact withHart_wf h
  · exact withHart_wf h
  · exact withHart_wf h
  · exact withHart_wf h
  · exact withHart_wf h
  · exact withHart_wf h
  · exact withHart_wf h
  · exact withHart_wf h
  · exact withHart_wf h
  · exact withHart_wf h
  · exact withHart_wf h
  · exact withHart_wf h
  · exact withHart_wf h
  · exact withHart_wf h
  · exact withHart_wf h
  · exact withHart_wf h
  · exact withHart_wf h
  · exact withHart_wf h
  · exact withHart_wf h
  · exact withHart_wf h
  · exact withHart_wf h
  · exact withHart_wf h
  · exact withHart_wf h
  · exact setPart_wf h
  · exact withHart_wf h
  · split <;> exact h
  · exact h

theorem sysAccess_wf {i : Instr} {n : BitVec 12} {wr : Bool} {s : State} {k : State → State} (h : Memory.wf s.mem = true)
    (hk : ∀ (s : State), Memory.wf s.mem = true → Memory.wf (k s).mem = true) : WfNext (sysAccess i n wr s k) := by
  unfold sysAccess
  split
  · exact illegal_wf h
  · split
    · split
      · exact privileged_wf h
      · split
        · exact illegal_wf h
        · exact finish_wf (hk _ h) _
    · split
      · exact privileged_wf h
      · split
        · exact illegal_wf h
        · exact finish_wf (hk _ h) _

theorem execHint_wf {h : BitVec 4} {d a : Reg} {i : BitVec 7} {s : State} (hs : Memory.wf s.mem = true) : WfNext (execHint h d a i s) := by
  unfold execHint
  split
  exact finish_wf hs _

theorem execFence_wf {fromSet toSet : BitVec 5} {ack rel acq : Bool} {scope : BitVec 3} {s : State} (h : Memory.wf s.mem = true) : WfNext
    (execFence fromSet toSet ack rel acq scope s) := by
  unfold execFence
  refine checked_wf h ?_
  intro _ ht
  dsimp only
  split
  · split
    · exact stall_wf (settleOwed_wf (releaseAt_wf ht))
    · refine finish_wf ?_ _
      split
      · exact dropL1_wf (settleOwed_wf (releaseAt_wf ht))
      · exact settleOwed_wf (releaseAt_wf ht)
  · split
    · exact stall_wf (settleOwed_wf ht)
    · refine finish_wf ?_ _
      split
      · exact dropL1_wf (settleOwed_wf ht)
      · exact settleOwed_wf ht

theorem execTret_wf {s : State} (h : Memory.wf s.mem = true) : WfNext (execTret s) := by
  unfold execTret
  refine sysStep_wf h ?_
  intro _ ht
  dsimp only
  split
  · exact privileged_wf ht
  · exact returnFromTrap_wf ht

theorem execKeyset_wf {a : Reg} {k : BitVec 2} {s : State} (h : Memory.wf s.mem = true) : WfNext (execKeyset a k s) := by
  unfold execKeyset
  dsimp only [WfNext]
  split
  · exact completeAt_wf (withHart_wf h) _ _ _ _ _
  · split <;> exact finish_wf (withHart_wf h) _

theorem execFarm_wf {d a : Reg} {s : State} (h : Memory.wf s.mem = true) : WfNext (execFarm d a s) := by
  unfold execFarm
  refine sysStep_wf h ?_
  intro _ ht
  dsimp only
  split
  · refine trapHere_wf ?_ _
    exact drainStores_wf ht
  · split
    · exact finishFlags_wf (setX_wf (blockRead_wf (drainStores_wf ht) (by assumption)))
    · split
      · exact finishFlags_wf (setX_wf (blockRead_wf (drainStores_wf ht) (by assumption)))
      · split
        · exact finishFlags_wf (setX_wf (blockRead_wf (drainStores_wf ht) (by assumption)))
        · refine finishFlags_wf ?_
          refine setX_wf ?_
          dsimp only
          exact blockRead_wf (drainStores_wf ht) (by assumption)

theorem claimStrip_wf {len : Nat} {d : Reg} {ret : Bool} {s : State} (h : Memory.wf s.mem = true) : Memory.wf (claimStrip len d ret s).mem = true := by
  unfold claimStrip
  dsimp only
  split
  · exact finish_wf (setX_wf (withHart_wf h)) _
  · split
    · exact finish_wf (setX_wf (withHart_wf h)) _
    · split
      · exact finish_wf (setX_wf (withHart_wf (updFarm_wf h))) _
      · split
        · exact retireHart_wf h
        · exact finish_wf (setX_wf (withHart_wf h)) _

theorem execNotify_wf {a : Reg} {s : State} (h : Memory.wf s.mem = true) : WfNext (execNotify a s) := by
  unfold execNotify
  refine sysStep_wf h ?_
  intro _ ht
  dsimp only
  split
  · exact trapHere_wf (drainStores_wf ht) _
  · exact finish_wf (sendMsix_wf (drainStores_wf ht)) _

theorem dropPages_wf {ps : List (Nat × Nat)} {s : State} (h : Memory.wf s.mem = true) : Memory.wf (dropPages ps s).mem = true :=
  foldl_wf (fun _ _ ht => evictSector_wf ht _) h _

theorem invalidateTlbs_wf {p : TlbEntry → Bool} {s : State} (h : Memory.wf s.mem = true) : Memory.wf (invalidateTlbs p s).mem = true := h

theorem execTlbinv_wf {a : Reg} {g2 : Bool} {mode : BitVec 2} {s : State} (h : Memory.wf s.mem = true) : WfNext (execTlbinv a g2 mode s) := by
  unfold execTlbinv
  refine sysStep_wf h ?_
  intro _ ht
  split
  · exact privileged_wf ht
  · dsimp only
    refine finish_wf ?_ _
    refine invalidateTlbs_wf ?_
    split
    · exact dropPages_wf (drainStores_wf ht)
    · exact drainStores_wf ht

theorem execCinv_wf {all : Bool} {s : State} (h : Memory.wf s.mem = true) : WfNext (execCinv all s) := by
  unfold execCinv
  refine sysStep_wf h ?_
  intro _ ht
  dsimp only
  refine finish_wf ?_ _
  dsimp only
  exact drainStores_wf ht

theorem execCflush_wf {a : Reg} {all : Bool} {s : State} (h : Memory.wf s.mem = true) : WfNext (execCflush a all s) := by
  unfold execCflush
  refine checked_wf h ?_
  intro _ ht
  split
  · exact finish_wf (dropL1_wf ht) _
  · split
    · exact finish_wf (noteAll_wf ht _) _
    · exact finish_wf (dropSectors_wf (noteWalk_wf ht _ _)) _

theorem haltHere_wf {s : State} (h : Memory.wf s.mem = true) : Memory.wf (haltHere s).mem = true := withHart_wf (drainStores_wf h)

/-! ### Engines -/

theorem endRecord_wf {die reason : Nat} {c : CmdRec} {s : State} (h : Memory.wf s.mem = true) : Memory.wf (endRecord die reason c s).mem = true := writeFlag_wf h

theorem setQueue_wf {s : State} {n : Nat} {l : List CmdRec} (h : Memory.wf s.mem = true) : Memory.wf (s.setQueue n l).mem = true := h

theorem popRecord_wf {n reason : Nat} {s : State} (h : Memory.wf s.mem = true) : Memory.wf (popRecord n reason s).mem = true := by
  unfold popRecord
  split
  · exact h
  · exact dropAwait_wf (dropAwait_wf (endRecord_wf (setQueue_wf h)))

theorem acceptFailed_wf {die reason : Nat} {c : CmdRec} {s : State} (h : Memory.wf s.mem = true) : Memory.wf (acceptFailed die reason c s).mem = true := h

theorem acceptSnapshot_wf {die n : Nat} {c : CmdRec} {s : State} (h : Memory.wf s.mem = true) : Memory.wf (acceptSnapshot die n c s).mem = true := by
  unfold acceptSnapshot
  split
  · exact acceptFailed_wf h
  · split
    · exact acceptFailed_wf (noteAll_wf h _)
    · dsimp only
      exact setQueue_wf (noteAll_wf h _)

theorem submit_wf {c : CmdRec} {s0 : State} (h : Memory.wf s0.mem = true) : Memory.wf (submit c s0).1.mem = true := by
  unfold submit
  dsimp only
  split
  · exact noteAll_wf h _
  · split
    · exact acceptFailed_wf (noteAll_wf h _)
    · split
      · split
        · exact setBench_wf (noteAll_wf h _)
        · exact noteAll_wf h _
      · split
        · exact noteAll_wf h _
        · exact setCtx_wf (noteAll_wf h _)
      · split
        · exact noteAll_wf h _
        · split
          · exact acceptSnapshot_wf (noteAll_wf h _)
          · exact setQueue_wf (noteAll_wf h _)

theorem execVcmd_wf {md a : Reg} {m : MaskField} {s : State} (h : Memory.wf s.mem = true) : WfNext (execVcmd md a m s) := by
  unfold execVcmd
  refine checked_wf h ?_
  intro _ ht
  refine held_wf ht ?_
  intro _ hu
  dsimp only
  split
  · exact trapHere_wf hu _
  · split
    · exact stall_wf hu
    · split
      · exact trapHere_wf (readySources_wf hu (by assumption)) _
      · refine finishVec_wf ?_
        refine withHart_wf ?_
        refine foldl_fst_wf ?_ (readySources_wf hu (by assumption)) _
        intro _ _ hp
        split
        · exact hp
        · exact submit_wf hp

theorem moveOne_wf {sp : Space} {ans : List (Nat × Answer)} {acc : Moved} {q : Move × Nat} (hacc : Memory.wf acc.st.mem = true) : Memory.wf
    (moveOne sp ans acc q).st.mem = true := by
  unfold moveOne
  split
  · exact hacc
  · split
    · exact noteAll_wf hacc _
    · dsimp only
      split
      · split
        · split
          · exact hacc
          · split
            · split <;> exact hacc
            · split
              · exact wf_of_fst (agentStore_wf hacc) (by assumption)
              · exact noteAll_wf (wf_of_fst (agentStore_wf hacc) (by assumption)) _
        · split
          · exact agentPass_wf hacc
          · split
            · split <;> exact agentPass_wf hacc
            · split
              · exact wf_of_fst (agentStore_wf (agentPass_wf hacc)) (by assumption)
              · exact noteAll_wf (wf_of_fst (agentStore_wf (agentPass_wf hacc)) (by assumption)) _
      · split
        · exact hacc
        · split
          · split <;> exact hacc
          · split
            · exact wf_of_fst (agentStore_wf hacc) (by assumption)
            · exact noteAll_wf (wf_of_fst (agentStore_wf hacc) (by assumption)) _

theorem clearWhole_wf {wrote : List (Nat × List MarkedByte)} {s : State} (h : Memory.wf s.mem = true) : Memory.wf (clearWhole wrote s).mem = true := h

theorem moveRecord_wf {n : Nat} {c : CmdRec} {s : State} (h : Memory.wf s.mem = true) : Memory.wf (moveRecord n c s).mem = true := by
  unfold moveRecord
  split
  · exact wf_ite (popRecord_wf h) h
  extract_lets
  split
  · exact RemoteOut.Wf.of_waiting (agentRemote_wf h) (by assumption)
  next t ans e =>
  have ht : Memory.wf t.mem = true := RemoteOut.Wf.of_answered (agentRemote_wf h) e
  have moved (l : List (Move × Nat)) : Memory.wf (l.foldl (moveOne c.space ans) { st := { t with fresh := t.fresh + 1 }, units := [], wrote := [], reason := 0 }).st.mem = true :=
    foldl_st_wf (fun _ _ hp => moveOne_wf hp) ht l
  extract_lets
  exact wf_ite (popRecord_wf (sendRequests_wf (clearWhole_wf (moved _)))) (sendRequests_wf (clearWhole_wf (moved _)))

theorem onHead_wf {n t : Nat} {k : CmdRec → State → State} {s : State}
    (hk : ∀ (x : CmdRec) (s : State), Memory.wf s.mem = true → Memory.wf (k x s).mem = true) (h : Memory.wf s.mem = true) : Memory.wf
    (onHead n t k s).mem = true := by
  unfold onHead
  split
  · split
    · exact hk _ _ (settleDie_wf h)
    · exact h
  · exact h

theorem execCopy_wf {engine : Nat} {s : State} (h : Memory.wf s.mem = true) : WfNext (execCopy engine s) := onHead_wf (fun _ _ ht => moveRecord_wf ht) h

theorem execFill_wf {engine : Nat} {s : State} (h : Memory.wf s.mem = true) : WfNext (execFill engine s) := onHead_wf (fun _ _ ht => moveRecord_wf ht) h

theorem execFlagWrite_wf {engine : Nat} {s : State} (h : Memory.wf s.mem = true) : WfNext (execFlagWrite engine s) := by
  unfold execFlagWrite
  refine onHead_wf ?_ h
  intro _ _ ht
  split
  · exact popRecord_wf ht
  · exact moveRecord_wf ht

theorem execL2Prefetch_wf {engine : Nat} {s : State} (h : Memory.wf s.mem = true) : WfNext (execL2Prefetch engine s) := by
  unfold execL2Prefetch
  refine onHead_wf ?_ h
  intro _ _ ht
  dsimp only
  split
  · exact popRecord_wf ht
  · split
    · exact popRecord_wf (noteAll_wf ht _)
    · exact popRecord_wf (agentPass_wf ht)

theorem popLoad_wf {bench reason : Nat} {s : State} (h : Memory.wf s.mem = true) : Memory.wf (popLoad bench reason s).mem = true := by
  unfold popLoad
  split
  · exact h
  · exact dropAwait_wf (endRecord_wf (setBench_wf h))

theorem execCanopyLoad_wf {bench : Nat} {s : State} (h : Memory.wf s.mem = true) : WfNext (execCanopyLoad bench s) := by
  unfold execCanopyLoad
  split
  · exact replayNext_wf (settleBench_wf h)
  · split
    · exact h
    · dsimp only
      split
      · exact popLoad_wf (setBench_wf (settleBench_wf h))
      · split
        · exact popLoad_wf (setBench_wf (settleBench_wf h))
        · split
          · exact RemoteOut.Wf.of_waiting (agentRemote_wf (setBench_wf (settleBench_wf h))) (by assumption)
          · split
            · exact popLoad_wf (noteAll_wf (wf_of_fst (loadRows_wf (RemoteOut.Wf.of_answered (agentRemote_wf (setBench_wf (settleBench_wf h))) (by assumption))) (by assumption)) _)
            · exact popLoad_wf (wf_of_fst (loadRows_wf (RemoteOut.Wf.of_answered (agentRemote_wf (setBench_wf (settleBench_wf h))) (by assumption))) (by assumption))
            · exact popLoad_wf (recordLoad_wf (wf_of_fst (loadRows_wf (RemoteOut.Wf.of_answered (agentRemote_wf (setBench_wf (settleBench_wf h))) (by assumption))) (by assumption)))

theorem setSnap_wf {s : State} {n : Nat} {f : Snap → Option Snap} (h : Memory.wf s.mem = true) : Memory.wf (s.setSnap n f).mem = true := h

theorem endSnap_wf {n reason : Nat} {s : State} (h : Memory.wf s.mem = true) : Memory.wf (endSnap n reason s).mem = true := popRecord_wf (setSnap_wf h)

theorem putPage_wf {n : Nat} {sp : Space} {dst : Word} {bytes : List Byte} {bad : List Nat} {s : State} (h : Memory.wf s.mem = true) : Memory.wf
    (putPage n sp dst bytes bad s).mem = true := by
  unfold putPage
  dsimp only
  split
  · split
    · exact endSnap_wf (wf_of_fst (agentStore_wf h) (by assumption))
    · exact wf_of_fst (agentStore_wf h) (by assumption)
  · exact endSnap_wf (noteAll_wf (wf_of_fst (agentStore_wf h) (by assumption)) _)

theorem snapStep_wf {n : Nat} {s : State} (h : Memory.wf s.mem = true) : Memory.wf (snapStep n s).mem = true := by
  unfold snapStep
  split
  · exact h
  · split
    · exact endSnap_wf h
    · exact putPage_wf (setSnap_wf h)
    · dsimp only
      split
      · exact endSnap_wf (foldl_wf (fun _ _ ht => touch_wf ht _ _ _ _ _ _) h _)
      · exact putPage_wf (setSnap_wf (foldl_wf (fun _ _ ht => touch_wf ht _ _ _ _ _ _) h _))
    · exact endSnap_wf h

theorem snapRun_wf {n k : Nat} {s : State} (h : Memory.wf s.mem = true) : Memory.wf (snapRun n k s).mem = true := by
  induction k generalizing s with
  | zero => exact h
  | succ k ih => exact ih (onHead_wf (fun _ _ hu => snapStep_wf hu) h)

theorem execSnapshotPageCopy_wf {engine : Nat} {s : State} (h : Memory.wf s.mem = true) : WfNext (execSnapshotPageCopy engine s) :=
  onHead_wf (fun _ _ ht => snapStep_wf ht) h

theorem execSnapshot_wf {engine : Nat} {s : State} (h : Memory.wf s.mem = true) : WfNext (execSnapshot engine s) := by
  unfold execSnapshot
  refine onHead_wf ?_ h
  intro _ _ ht
  split
  · split
    · exact snapRun_wf ht
    · exact ht
  · exact ht

theorem execDemandCopy_wf {page : Nat} {s : State} (h : Memory.wf s.mem = true) : WfNext (execDemandCopy page s) := by
  unfold execDemandCopy
  split
  · exact bufferPage_wf h
  · exact h

/-! ### Memory hierarchy -/

theorem execDrawerMove_wf {h : HartId} {s : State} (hs : Memory.wf s.mem = true) : WfNext (execDrawerMove h s) := by
  unfold execDrawerMove
  refine asHart_wf ?_ _ hs
  intro _ ht
  split
  · exact moveDrawers_wf ht
  · exact ht

theorem performPart_wf {i j : Nat} {s : State} (h : Memory.wf s.mem = true) : Memory.wf (performPart i j s).mem = true := by
  unfold performPart
  split
  · exact h
  · dsimp only
    refine withHart_wf ?_
    split
    · exact foldl_wf (fun _ _ ht => clearPoison_wf ht) (foldl_wf (fun _ _ ht => performWrite_wf ht _ _ _) h _) _
    · exact foldl_wf (fun _ _ ht => performWrite_wf ht _ _ _) h _

theorem execStorePerform_wf {p : StorePart} {s : State} (h : Memory.wf s.mem = true) : WfNext (execStorePerform p s) := by
  unfold execStorePerform
  refine asHart_wf ?_ _ h
  intro _ ht
  split
  · exact performPart_wf ht
  · exact ht

theorem readAhead_wf {r count : Nat} {s : State} (h : Memory.wf s.mem = true) : Memory.wf (readAhead r count s).mem = true := by
  unfold readAhead
  split
  · exact h
  · split
    · exact h
    · exact withHart_wf (foldl_wf (fun _ _ ht => elemTouch_wf ht) h _)

theorem execSectorFill_wf {core sector : Nat} {kind : FillKind} {s : State} (h : Memory.wf s.mem = true) : WfNext (execSectorFill core sector kind s) := by
  unfold execSectorFill
  split
  · exact h
  · split
    · exact h
    · dsimp only
      split
      · exact touch_wf h _ _ _ _ _ _
      · split
        · split
          · exact touch_wf h _ _ _ _ _ _
          · exact setCore_wf (touch_wf h _ _ _ _ _ _)
        · split
          · exact touch_wf h _ _ _ _ _ _
          · exact setCore_wf (touch_wf h _ _ _ _ _ _)
        · split
          · exact touch_wf h _ _ _ _ _ _
          · exact setCore_wf (touch_wf h _ _ _ _ _ _)

theorem execTableWalk_wf {h : HartId} {va : Word} {write fetch : Bool} {s : State} (hs : Memory.wf s.mem = true) : WfNext (execTableWalk h va write fetch s) := by
  unfold execTableWalk
  split
  · exact hs
  · dsimp only
    split
    · exact hs
    · split
      · exact noteAll_wf hs _
      · split
        · exact noteAll_wf hs _
        · exact noteWalk_wf hs _ _

theorem execHbmAct_wf {pa : Nat} {s : State} (h : Memory.wf s.mem = true) : WfNext (execHbmAct pa s) := by
  unfold execHbmAct
  split
  · exact hbmRequest_wf h
  · exact h

theorem execRfm_wf {bank : Nat} {s : State} (h : Memory.wf s.mem = true) : WfNext (execRfm bank s) := by
  unfold execRfm
  split
  · exact runRfm_wf h
  · exact h

theorem poisonSector_wf {unit index : Nat} {part : Option (BitVec 3)} {sector : Nat} {s : State} (h : Memory.wf s.mem = true) : Memory.wf
    (poisonSector unit index part sector s).mem = true := by
  unfold poisonSector
  split
  · exact h
  · exact report_wf (setPoison_wf h) _

theorem execPatrolScrub_wf {sector : Nat} {found : SectorHealth} {s : State} (h : Memory.wf s.mem = true) : WfNext (execPatrolScrub sector found s) := by
  unfold execPatrolScrub
  dsimp only [WfNext]
  split
  · exact h
  · split
    · exact h
    · exact count_wf h
    · split
      · exact h
      · exact poisonSector_wf (count_wf h)

theorem execCxlLinkDown_wf {port : Nat} {s : State} (h : Memory.wf s.mem = true) : WfNext (execCxlLinkDown port s) := by
  unfold execCxlLinkDown
  split
  · exact h
  · dsimp only
    refine foldl_wf ?_ ?_ _
    · intro _ _ ht
      refine report_wf ?_ _
      exact setPoison_wf ht
    · exact h

theorem homeError_wf {sector : Nat} {correctable : Bool} {s : State} (h : Memory.wf s.mem = true) : Memory.wf (homeError sector correctable s).mem = true := by
  unfold homeError
  split
  · split
    · split
      · exact h
      · split
        · exact poisonSector_wf h
        · exact memoryRequest_wf (undoUpset_wf h _)
    · split
      · split
        · exact h
        · exact poisonSector_wf h
      · split
        · exact count_wf h
        · split
          · exact h
          · exact poisonSector_wf (count_wf h)
  · split
    · split
      · exact h
      · split
        · exact poisonSector_wf h
        · exact memoryRequest_wf (undoUpset_wf h _)
    · split
      · split
        · exact h
        · exact poisonSector_wf h
      · split
        · exact count_wf h
        · split
          · exact h
          · exact poisonSector_wf (count_wf h)
  · split
    · exact h
    · exact poisonSector_wf h
  · exact h

theorem upsetHome_wf {sector bits : Nat} {s : State} (h : Memory.wf s.mem = true) : Memory.wf (upsetHome sector bits s).mem = true := by
  unfold upsetHome
  split
  · dsimp only
    exact Memory.wf_memPutAll h _ _
  · exact h

theorem execSoftError_wf {site : ErrorSite} {s : State} (h : Memory.wf s.mem = true) : WfNext (execSoftError site s) := by
  unfold execSoftError
  split
  · exact homeError_wf h
  · exact dropSectors_wf h
  · split
    · exact count_wf (dropSectors_wf h)
    · exact h
  · exact upsetHome_wf h
  · dsimp only
    split
    · exact setCore_wf h
    · exact h
  · split
    · exact h
    · exact setBench_wf h
  · split
    · exact h
    · exact setCtx_wf h
  · split
    · exact h
    · split
      · exact h
      · dsimp only
        split
        · exact h
        · exact report_wf (updHart_wf h) _
  · split
    · exact h
    · exact report_wf (setBench_wf h) _
  · exact count_wf h

theorem execDebugHaltRequest_wf {h : HartId} {s : State} (hs : Memory.wf s.mem = true) : WfNext (execDebugHaltRequest h s) := by
  unfold execDebugHaltRequest
  split
  · split
    · exact updHart_wf hs
    · exact hs
  · exact hs

theorem execDebugHaltEnter_wf {h : HartId} {s : State} (hs : Memory.wf s.mem = true) : WfNext (execDebugHaltEnter h s) := by
  unfold execDebugHaltEnter
  refine asHart_wf ?_ _ hs
  intro _ ht
  split
  · exact haltHere_wf (breakWait_wf ht)
  · exact ht

theorem updTile_wf {t : Nat} {f : Tile → Tile} {s : State} (h : Memory.wf s.mem = true) : Memory.wf (updTile t f s).mem = true := setBench_wf h

theorem debugWrite_wf {f : DebugField} {v : Nat} {s : State} (h : Memory.wf s.mem = true) : Memory.wf (debugWrite f v s).mem = true := by
  unfold debugWrite
  dsimp only
  split
  · exact withHart_wf h
  · exact setX_wf h
  · split
    · exact withHart_wf h
    · exact withHart_wf h
    · exact withHart_wf h
    · exact withHart_wf h
    · exact withHart_wf h
    · exact withHart_wf h
    · exact withHart_wf h
    · exact withHart_wf h
    · exact withHart_wf h
    · exact h
    · exact h
    · exact h
    · exact sysWrite_wf h
  · exact withHart_wf h
  · exact withHart_wf h
  · exact withHart_wf h
  · exact withHart_wf h
  · exact withHart_wf h
  · exact withHart_wf h
  · exact withHart_wf h
  · exact withHart_wf h
  · exact withHart_wf h
  · exact withHart_wf h
  · exact withHart_wf h
  · exact withHart_wf h
  · exact withHart_wf h
  · exact h
  · exact updTile_wf h
  · exact updTile_wf h
  · exact updTile_wf h
  · exact updTile_wf h
  · exact updTile_wf h

theorem applyWrites_wf {s : State} (h : Memory.wf s.mem = true) : Memory.wf (applyWrites s).mem = true := by
  unfold applyWrites
  refine foldl_wf (fun _ _ ht => debugWrite_wf ht) ?_ _
  split
  · exact h
  · exact withHart_wf h

theorem writeSaved_wf {i : HartId} {f : DebugField} {v : Nat} {s : State} (h : Memory.wf s.mem = true) : Memory.wf (writeSaved i f v s).mem = true := h

theorem execDebugAccess_wf {h : HartId} {field : DebugField} {write : Option Nat} {s : State} (hs : Memory.wf s.mem = true) : WfNext
    (execDebugAccess h field write s) := by
  unfold execDebugAccess
  split
  · exact writeSaved_wf hs
  · exact hs
  · split
    · exact hs
    · split
      · refine asHart_wf ?_ _ hs
        intro _ ht
        dsimp only
        split
        · exact ht
        · exact applyWrites_wf ht
      · split
        · exact asHart_wf (fun _ ht => debugWrite_wf (applyWrites_wf ht)) _ hs
        · split
          · exact writeSaved_wf hs
          · exact updHart_wf hs

theorem execDebugResume_wf {h : HartId} {s : State} (hs : Memory.wf s.mem = true) : WfNext (execDebugResume h s) := by
  unfold execDebugResume
  refine asHart_wf ?_ _ hs
  intro _ ht
  split
  · exact ht
  · exact withHart_wf (applyWrites_wf ht)

/-! ### Power and lifetime -/

theorem execFluxReading_wf {die : Bool} {flux junction : List Nat} {s : State} (h : Memory.wf s.mem = true) : WfNext (execFluxReading die flux junction s) := by
  unfold execFluxReading
  dsimp only [WfNext]
  split
  · refine report_wf ?_ _
    exact h
  · exact h

theorem setFloor_wf {b : Bool} {s : State} (h : Memory.wf s.mem = true) : Memory.wf (setFloor b s).mem = true := by
  unfold setFloor
  dsimp only
  split
  · exact h
  · exact sendMsix_wf h

theorem takeLease_wf {budget : BitVec 16} {expiry : BitVec 32} {seq : Word} {s : State} (h : Memory.wf s.mem = true) : Memory.wf
    (takeLease budget expiry seq s).mem = true := by
  unfold takeLease
  dsimp only
  split
  · exact h
  · exact setFloor_wf h

theorem expireLease_wf {s : State} (h : Memory.wf s.mem = true) : Memory.wf (expireLease s).mem = true := by
  unfold expireLease
  split
  · exact setFloor_wf h
  · exact h

theorem execHistogramSample_wf {j0 j1 r0 r1 : Nat} {s : State} (h : Memory.wf s.mem = true) : WfNext (execHistogramSample j0 j1 r0 r1 s) := by
  unfold execHistogramSample
  generalize sampleOffsets j0 j1 r0 r1 s.power.mpwr.toNat = l
  have counted : Memory.wf (l.foldl (fun u o => u.count o 1) s).mem = true := foldl_wf (fun _ _ ht => count_wf ht) h l
  generalize l.foldl (fun u o => u.count o 1) s = u at counted ⊢
  exact wf_ite h counted

theorem flushLifetime_wf {s : State} (h : Memory.wf s.mem = true) : Memory.wf (flushLifetime s).mem = true := by
  unfold flushLifetime
  dsimp only
  exact count_wf h

theorem execLifetimeFlush_wf {s : State} (h : Memory.wf s.mem = true) : WfNext (execLifetimeFlush s) := by
  unfold execLifetimeFlush
  split
  · exact h
  · exact flushLifetime_wf h

theorem answerWord_wf {w : Word} {s : State} (h : Memory.wf s.mem = true) : Memory.wf (answerWord w s).mem = true := h

/-! ### Scalar floating point -/

theorem fpRounded_wf {i : Instr} {rm : BitVec 3} {s : State} {k : Nat → State → State} (h : Memory.wf s.mem = true)
    (hk : ∀ (x : Nat) (s : State), Memory.wf s.mem = true → Memory.wf (k x s).mem = true) : Memory.wf (fpRounded i rm s k).mem = true := by
  unfold fpRounded
  refine checked_wf h ?_
  intro _ ht
  split
  · exact hk _ _ ht
  · exact illegal_wf ht

theorem writeFp_wf {d : Reg} {r : Nat × BitVec 7} {s : State} (h : Memory.wf s.mem = true) : Memory.wf (writeFp d r s).mem = true := finishFlags_wf (setX_wf h)

theorem fpArith_wf {i : Instr} {d a b : Reg} {rm : BitVec 3} {fmt : BitVec 2} {op : Nat → Val → Val → Val × BitVec 7} {s : State}
    (h : Memory.wf s.mem = true) : WfNext (fpArith i d a b rm fmt op s) :=
  fpRounded_wf h (fun _ _ ht => writeFp_wf ht)

theorem fpFused_wf {i : Instr} {d a b : Reg} {rm : BitVec 3} {fmt : BitVec 2} {negProduct negAddend : Bool} {s : State}
    (h : Memory.wf s.mem = true) : WfNext (fpFused i d a b rm fmt negProduct negAddend s) :=
  fpRounded_wf h (fun _ _ ht => writeFp_wf ht)

theorem fpPick_wf {i : Instr} {d a b : Reg} {rm : BitVec 3} {fmt : BitVec 2} {wantMax : Bool} {s : State} (h : Memory.wf s.mem = true) : WfNext
    (fpPick i d a b rm fmt wantMax s) :=
  fpRounded_wf h (fun _ _ ht => writeFp_wf ht)

/-! ### Scalar memory accesses and atomics -/

theorem loadResult_wf {len : Nat} {d : Reg} {a : Word} {bad : Bool} {v : Word} {s : State} (h : Memory.wf s.mem = true) : Memory.wf
    (loadResult len d a bad v s).mem = true := by
  unfold loadResult
  split
  · split
    · exact trapHere_wf h _
    · exact finishFlags_wf (setX_wf h)
  · exact writeInt_wf h _ _ _

theorem remoteLoad_wf {len : Nat} {d : Reg} {a : Word} {n : Nat} {ext : Nat → Word} {s : State} (h : Memory.wf s.mem = true) : Memory.wf
    (remoteLoad len d a n ext s).mem = true := by
  unfold remoteLoad
  split
  · exact trapHere_wf h _
  · split
    · exact RemoteOut.Wf.of_waiting (remoteAccess_wf h) (by assumption)
    · dsimp only
      split
      · exact stall_wf (RemoteOut.Wf.of_answered (remoteAccess_wf h) (by assumption))
      · split
        · refine trapHere_wf ?_ _
          exact RemoteOut.Wf.of_answered (remoteAccess_wf h) (by assumption)
        · exact loadResult_wf (RemoteOut.Wf.of_answered (remoteAccess_wf h) (by assumption))

theorem loadScalar_wf {len : Nat} {d : Reg} {a : Word} {n : Nat} {ext : Nat → Word} {s : State} (h : Memory.wf s.mem = true) : Memory.wf
    (loadScalar len d a n ext s).mem = true := by
  unfold loadScalar
  split
  · exact trapHere_wf h _
  · split
    · exact remoteLoad_wf h
    · split
      · exact trapHere_wf h _
      · split
        · exact writeInt_wf (noteWalk_wf h _ _) _ _ _
        · exact loadResult_wf (afterLoad_wf (afterVectors_wf h) _ _)

theorem remoteStore_wf {len : Nat} {a : Word} {n v : Nat} {s : State} (h : Memory.wf s.mem = true) : Memory.wf (remoteStore len a n v s).mem = true := by
  unfold remoteStore
  split
  · exact trapHere_wf h _
  · split
    · split
      · exact stall_wf h
      · exact postStore_wf (fun _ ht => finish_wf ht _) h
    · split
      · exact RemoteOut.Wf.of_waiting (remoteAccess_wf h) (by assumption)
      · split
        · refine trapHere_wf ?_ _
          exact RemoteOut.Wf.of_answered (remoteAccess_wf h) (by assumption)
        · refine finish_wf ?_ _
          exact RemoteOut.Wf.of_answered (remoteAccess_wf h) (by assumption)

theorem storeScalar_wf {len : Nat} {a v : Word} {n : Nat} {s : State} (h : Memory.wf s.mem = true) : Memory.wf (storeScalar len a v n s).mem = true := by
  unfold storeScalar
  split
  · exact trapHere_wf h _
  · split
    · exact remoteStore_wf h
    · split
      · exact trapHere_wf h _
      · split
        · dsimp only
          split
          · exact finish_wf (devWrite_wf (drainStores_wf (noteWalk_wf h _ _))) _
          · exact devWrite_wf (drainStores_wf (noteWalk_wf h _ _))
        · exact finish_wf (withHart_wf (commitStore_wf h _ _ _)) _

theorem execLda_wf {d a : Reg} {scope : BitVec 3} {i : BitVec 10} {s : State} (h : Memory.wf s.mem = true) : WfNext (execLda d a scope i s) := by
  unfold execLda
  refine checked_wf h ?_
  intro _ ht
  dsimp only
  split
  · exact trapHere_wf ht _
  · split
    · exact trapHere_wf ht _
    · split
      · exact trapHere_wf ht _
      · split
        · refine writeInt_wf ?_ _ _ _
          refine noteWalk_wf ?_ _ _
          split
          · exact withHart_wf ht
          · exact dropL1_wf (withHart_wf ht)
        · refine loadResult_wf ?_
          refine afterLoad_wf ?_ _ _
          refine afterVectors_wf ?_
          split
          · exact withHart_wf ht
          · exact dropL1_wf (withHart_wf ht)

theorem releaseStore_wf {scope : Nat} {m : Mapped} {v : Word} {s : State} (h : Memory.wf s.mem = true) : Memory.wf (releaseStore scope m v s).mem = true := by
  unfold releaseStore
  refine commitEntry_wf ?_ _
  refine settleOwed_wf ?_
  split
  · exact h
  · exact releaseAt_wf h

theorem execSdrel_wf {a b : Reg} {scope : BitVec 3} {i : BitVec 10} {s : State} (h : Memory.wf s.mem = true) : WfNext (execSdrel a b scope i s) := by
  unfold execSdrel
  refine checked_wf h ?_
  intro _ ht
  dsimp only
  split
  · exact trapHere_wf ht _
  · split
    · exact trapHere_wf ht _
    · split
      · exact trapHere_wf ht _
      · split
        · split
          · exact finish_wf (devWrite_wf (drainStores_wf (noteWalk_wf ht _ _))) _
          · exact devWrite_wf (drainStores_wf (noteWalk_wf ht _ _))
        · exact finish_wf (withHart_wf (releaseStore_wf (afterVectors_wf (noteWalk_wf ht _ _)))) _

theorem amoAt_wf {s : State} {m : Mapped} {op w b expect : Nat} (h : Memory.wf s.mem = true) : Memory.wf (amoAt s m op w b expect).2.mem = true := by
  unfold amoAt
  dsimp only
  split
  · exact dropSectors_wf (foldl_wf (fun _ _ ht => touch_wf ht _ _ _ _ _ _) (noteWalk_wf (drainThrough_wf h _) _ _) _)
  · exact performWrite_wf (foldl_wf (fun _ _ ht => touch_wf ht _ _ _ _ _ _) (noteWalk_wf (drainThrough_wf h _) _ _) _) _ _ _

theorem releaseIf_wf {o : BitVec 2} {s : State} (h : Memory.wf s.mem = true) : Memory.wf (releaseIf o s).mem = true := by
  unfold releaseIf
  split
  · exact settleOwed_wf (drainStores_wf h)
  · exact h

theorem acquireIf_wf {o : BitVec 2} {s : State} (h : Memory.wf s.mem = true) : Memory.wf (acquireIf o s).mem = true := by
  unfold acquireIf
  split
  · exact dropL1_wf h
  · exact h

theorem amoStep_wf {i : Instr} {op w : Nat} {d a b : Reg} {o : BitVec 2} {s : State} (h : Memory.wf s.mem = true) : WfNext (amoStep i op w d a b o s) := by
  unfold amoStep
  refine checked_wf h ?_
  intro _ ht
  dsimp only
  split
  · exact trapHere_wf ht _
  · split
    · split
      · exact trapHere_wf ht _
      · split
        · exact stall_wf ht
        · split
          · exact RemoteOut.Wf.of_waiting (remoteAccess_wf (releaseIf_wf ht)) (by assumption)
          · split
            · exact loadResult_wf (acquireIf_wf (RemoteOut.Wf.of_answered (remoteAccess_wf (releaseIf_wf ht)) (by assumption)))
            · split
              · exact trapHere_wf (RemoteOut.Wf.of_answered (remoteAccess_wf (releaseIf_wf ht)) (by assumption)) _
              · exact writeInt_wf (acquireIf_wf (RemoteOut.Wf.of_answered (remoteAccess_wf (releaseIf_wf ht)) (by assumption))) _ _ _
    · split
      · exact trapHere_wf ht _
      · split
        · exact loadResult_wf (acquireIf_wf (releaseIf_wf (afterVectors_wf ht)))
        · exact writeInt_wf (acquireIf_wf (withHart_wf (amoAt_wf (releaseIf_wf (afterVectors_wf ht))))) _ _ _

theorem vamoLocal_wf {before : State} {op w : Nat} {val : Nat → Nat} {addr : Nat → Word} {acc : State × List (Nat × VamoElem)} {e : Nat}
    (hacc : Memory.wf acc.1.mem = true) : Memory.wf (vamoLocal before op w val addr acc e).1.mem = true := by
  unfold vamoLocal
  dsimp only
  split
  · exact hacc
  · split
    · exact foldl_wf (fun _ _ ht => touch_wf ht _ _ _ _ _ _) hacc _
    · exact amoAt_wf hacc

theorem endVamo_wf {vd : Reg} {m : MaskField} {addr : Nat → Word} {res : List (Nat × VamoElem)} {cs : List (Nat × Binding)}
    {stop : Option (Nat × TrapReq)} {s : State} (h : Memory.wf s.mem = true) : Memory.wf (endVamo vd m addr res cs stop s).mem = true := by
  unfold endVamo
  dsimp only
  split
  · refine trapHere_wf ?_ _
    exact afterStop_wf (withHart_wf (emitElems_wf h))
  · refine completeAt_wf ?_ _ _ _ _ _
    exact withHart_wf (emitElems_wf h)

theorem execVamo_wf {vd a b : Reg} {m : MaskField} {p : BitVec 3} {s : State} (h : Memory.wf s.mem = true) : WfNext (execVamo vd a b m p s) := by
  unfold execVamo
  refine checked_wf h ?_
  intro _ ht
  refine held_wf ht ?_
  intro _ hu
  dsimp only
  split
  · exact trapHere_wf hu _
  · split
    · exact stall_wf hu
    · split
      · split
        · exact RemoteOut.Wf.of_waiting (remoteAccess_wf (readySources_wf hu (by assumption))) (by assumption)
        · exact endVamo_wf (RemoteOut.Wf.of_answered (remoteAccess_wf (readySources_wf hu (by assumption))) (by assumption))
      · refine endVamo_wf ?_
        refine withHart_wf ?_
        refine foldl_fst_wf ?_ ?_ _
        · exact fun _ _ hp => vamoLocal_wf hp
        · dsimp only
          exact readySources_wf hu (by assumption)

/-! ### The torus -/

theorem serveRequest_wf {op : Nat} {p : Packet} {s : State} (h : Memory.wf s.mem = true) : Memory.wf (serveRequest op p s).mem = true := takeRequest_wf (took_wf h)

theorem serveResponse_wf {op : BitVec 4} {r : Response} {s : State} (h : Memory.wf s.mem = true) : Memory.wf (serveResponse op r s).mem = true :=
  takeResponse_wf (took_wf h)

theorem execRead_wf {p : Packet} {s : State} (h : Memory.wf s.mem = true) : WfNext (execRead p s) := serveRequest_wf h

theorem execWrite_wf {p : Packet} {s : State} (h : Memory.wf s.mem = true) : WfNext (execWrite p s) := serveRequest_wf h

theorem execReads_wf {p : Packet} {s : State} (h : Memory.wf s.mem = true) : WfNext (execReads p s) := serveRequest_wf h

theorem execReadx_wf {p : Packet} {s : State} (h : Memory.wf s.mem = true) : WfNext (execReadx p s) := serveRequest_wf h

theorem execWrites_wf {p : Packet} {s : State} (h : Memory.wf s.mem = true) : WfNext (execWrites p s) := serveRequest_wf h

theorem execWritex_wf {p : Packet} {s : State} (h : Memory.wf s.mem = true) : WfNext (execWritex p s) := serveRequest_wf h

theorem execAmo_wf {p : Packet} {s : State} (h : Memory.wf s.mem = true) : WfNext (execAmo p s) := serveRequest_wf h

theorem execSendPacket_wf {p : Packet} {s : State} (h : Memory.wf s.mem = true) : WfNext (execSendPacket p s) := serveRequest_wf h

theorem execMwrite_wf {p : Packet} {s : State} (h : Memory.wf s.mem = true) : WfNext (execMwrite p s) := serveRequest_wf h

theorem execResp_wf {r : Response} {s : State} (h : Memory.wf s.mem = true) : WfNext (execResp r s) := serveResponse_wf h

theorem execAck_wf {tag : BitVec 14} {s : State} (h : Memory.wf s.mem = true) : WfNext (execAck tag s) := serveResponse_wf h

theorem execNack_wf {r : Response} {s : State} (h : Memory.wf s.mem = true) : WfNext (execNack r s) := serveResponse_wf h

theorem execRequestTimeout_wf {tag : BitVec 14} {s : State} (h : Memory.wf s.mem = true) : WfNext (execRequestTimeout tag s) := takeTimeout_wf h

theorem fabricEvent_wf {q : Nat} {s : State} (h : Memory.wf s.mem = true) : Memory.wf (fabricEvent q s).mem = true := by
  unfold fabricEvent
  refine foldl_wf ?_ h _
  intro _ _ ht
  split
  · exact ht
  · exact pend_wf ht

theorem countReplays_wf {q n : Nat} {s : State} (h : Memory.wf s.mem = true) : Memory.wf (countReplays q n s).mem = true := by
  unfold countReplays
  split
  · exact h
  · exact count_wf h

theorem collect_wf {q raw : Nat} {s : State} (h : Memory.wf s.mem = true) : Memory.wf (collect q raw s).mem = true := by
  unfold collect
  dsimp only
  split
  · split
    · dsimp only
      exact updPort_wf h
    · exact updPort_wf h
  · split
    · dsimp only
      exact updPort_wf h
    · exact updPort_wf h

theorem forward_wf {q raw : Nat} {s : State} (h : Memory.wf s.mem = true) : Memory.wf (forward q raw s).mem = true := by
  unfold forward
  dsimp only
  split
  · refine freeSlot_wf ?_
    split
    · exact collect_wf h
    · exact h
  · refine foldl_wf (fun _ _ ht => enqueue_wf ht) ?_ _
    split
    · exact collect_wf h
    · exact h

theorem dropFlit_wf {q raw : Nat} {s : State} (h : Memory.wf s.mem = true) : Memory.wf (dropFlit q raw s).mem = true := by
  unfold dropFlit
  split
  · exact h
  · exact freeSlot_wf h

theorem acceptFlit_wf {q raw : Nat} {s : State} (h : Memory.wf s.mem = true) : Memory.wf (acceptFlit q raw s).mem = true := by
  unfold acceptFlit
  dsimp only
  refine pump_wf ?_
  split
  · exact fabricEvent_wf (dropFlit_wf (updPort_wf (countReplays_wf h)))
  · split
    · exact updPort_wf (countReplays_wf h)
    · exact forward_wf (updPort_wf (countReplays_wf h))

theorem execFlit_wf {port raw : Nat} {s : State} (h : Memory.wf s.mem = true) : WfNext (execFlit port raw s) := by
  unfold execFlit
  dsimp only [WfNext]
  split
  · exact h
  · split
    · exact acceptFlit_wf h
    · split
      · exact h
      · exact updPort_wf h

theorem execLinkRetrain_wf {port : Nat} {lockLost : Bool} {s : State} (h : Memory.wf s.mem = true) : WfNext (execLinkRetrain port lockLost s) := by
  unfold execLinkRetrain
  dsimp only [WfNext]
  split
  · exact updPort_wf h
  · exact h

theorem execLinkTrained_wf {port lanes : Nat} {s : State} (h : Memory.wf s.mem = true) : WfNext (execLinkTrained port lanes s) := by
  unfold execLinkTrained
  dsimp only [WfNext]
  split
  · exact h
  · exact countReplays_wf (pump_wf (updPort_wf h))

theorem execPortDown_wf {port : Nat} {s : State} (h : Memory.wf s.mem = true) : WfNext (execPortDown port s) := by
  unfold execPortDown
  split
  · exact fabricEvent_wf (pump_wf (foldl_wf (fun _ _ ht => markLeft_wf (freeSlot_wf ht)) (updPort_wf h) _))
  · exact h

/-! ### The sequencer -/

theorem seqNext_wf {k : Nat} {s : State} (h : Memory.wf s.mem = true) : Memory.wf (seqNext k s).mem = true := by
  unfold seqNext
  dsimp only
  split
  · exact h
  · exact setCtx_wf h

theorem seqFail_wf {k : Nat} {f : SeqFault} {s : State} (h : Memory.wf s.mem = true) : Memory.wf (seqFail k f s).mem = true := endRun_wf (setCtx_wf (noteAll_wf h _))

theorem verifyBufs_wf {k : Nat} {w : Word9} {s : State} (h : Memory.wf s.mem = true) : Memory.wf (verifyBufs k w s).mem = true := by
  unfold verifyBufs
  refine foldl_wf ?_ h _
  intro _ _ ht
  dsimp only
  split
  · exact ht
  · split
    · exact ht
    · split
      · exact setCtx_wf ht
      · exact count_wf (setCtx_wf ht)

theorem seqStep_wf {k : Nat} {body : State → Ctx → Word9 → Option (Except SeqFault State)} {s : State}
    (hbody : ∀ (s : State), Memory.wf s.mem = true → ∀ (c : Ctx) (w : Word9), WfWord (body s c w)) (h : Memory.wf s.mem = true) : Memory.wf
    (seqStep k body s).mem = true := by
  unfold seqStep
  dsimp only
  split
  · exact settleDie_wf h
  · split
    · exact seqFail_wf (settleDie_wf h)
    · split
      · exact settleDie_wf h
      · exact seqFail_wf (settleDie_wf h)
      · exact WfWord.of_ok (hbody _ (verifyBufs_wf (settleDie_wf h)) _ _) (by assumption)

theorem ackStaged_wf {k peer : Nat} {pctx : BitVec 5} {p : Coll} {s : State} (h : Memory.wf s.mem = true) : Memory.wf (ackStaged k peer pctx p s).mem = true := by
  unfold ackStaged
  dsimp only
  split
  · exact setCtx_wf h
  · exact h

theorem acknowledge_wf {p : Coll} {s : State} (h : Memory.wf s.mem = true) : Memory.wf (acknowledge p s).mem = true := by
  unfold acknowledge
  split
  · exact h
  · split
    · exact ackStaged_wf h
    · exact emit_wf h

theorem deliverColl_wf {from' : Option (BitVec 3)} {p : Coll} {s : State} (h : Memory.wf s.mem = true) : Memory.wf (deliverColl from' p s).mem = true := by
  unfold deliverColl
  dsimp only
  split
  · split
    · exact h
    · split
      · exact acknowledge_wf h
      · split
        · split
          · exact seqFail_wf h
          · exact h
        · split
          · split
            · exact acknowledge_wf (setCtx_wf h)
            · exact setCtx_wf h
          · split
            · exact acknowledge_wf (setCtx_wf h)
            · exact setCtx_wf h
  · split
    · exact h
    · split
      · exact acknowledge_wf h
      · split
        · split
          · exact seqFail_wf h
          · exact h
        · split
          · split
            · exact acknowledge_wf (setCtx_wf h)
            · exact setCtx_wf h
          · split
            · exact acknowledge_wf (setCtx_wf h)
            · exact setCtx_wf h

theorem sendColl_wf {part : BitVec 3} {s : State} {p : Coll} (h : Memory.wf s.mem = true) : Memory.wf (sendColl part s p).mem = true := by
  unfold sendColl
  split
  · exact emit_wf (deliverColl_wf h)
  · split
    · exact deliverColl_wf h
    · exact emit_wf h

theorem takeColl_wf {kind : BitVec 4 → Bool} {c : Coll} {k : State → State} {s : State}
    (hk : ∀ (s : State), Memory.wf s.mem = true → Memory.wf (k s).mem = true) (h : Memory.wf s.mem = true) : Memory.wf
    (takeColl kind c k s).mem = true := by
  unfold takeColl
  split
  · exact h
  · split
    · exact fabricEvent_wf h
    · exact hk _ h

theorem execColl_wf {c : Coll} {s : State} (h : Memory.wf s.mem = true) : WfNext (execColl c s) := takeColl_wf (fun _ ht => deliverColl_wf ht) (took_wf h)

theorem execCollAck_wf {c : Coll} {s : State} (h : Memory.wf s.mem = true) : WfNext (execCollAck c s) := takeColl_wf (fun _ ht => ackStaged_wf ht) (took_wf h)

theorem execRouterFold_wf {port : Nat} {pieces : Coll × Coll} {group : FoldGroup} {s : State} (h : Memory.wf s.mem = true) : WfNext
    (execRouterFold port pieces group s) := by
  unfold execRouterFold
  dsimp only [WfNext]
  split
  · split
    · exact h
    · refine pump_wf ?_
      refine foldl_wf ?_ ?_ _
      · exact fun _ _ ht => freeSlot_wf ht
      · exact updPort_wf h
  · exact h

/-- Making room for a context's buffers keeps what the eviction of a line keeps. -/
theorem makeBufferRoom_inv (P : State → Prop) (evict : ∀ s home line, P s → P (evictLine s home line)) (ctx : Nat) {s : State} (h : P s) : P (makeBufferRoom ctx s) := by
  unfold makeBufferRoom
  refine foldl_inv P (fun t i ht => ?_) h _
  refine foldl_inv P (fun u j hu => ?_) ht _
  dsimp only
  split
  · exact evict _ _ _ hu
  · exact hu

theorem makeBufferRoom_wf {ctx : Nat} {s : State} (h : Memory.wf s.mem = true) : Memory.wf (makeBufferRoom ctx s).mem = true :=
  makeBufferRoom_inv (fun t => Memory.wf t.mem = true) (fun _ _ _ => evictLine_wf) ctx h

theorem execSequencerStart_wf {ctx : Nat} {s : State} (h : Memory.wf s.mem = true) : WfNext (execSequencerStart ctx s) := by
  unfold execSequencerStart
  split
  · exact h
  · dsimp only
    split
    · exact endRecord_wf (setCtx_wf h)
    · split
      · exact seqFail_wf (settleDie_wf (setCtx_wf h))
      · split
        · exact endRun_wf (agentPass_wf (settleDie_wf (setCtx_wf h)))
        · split
          · exact endRun_wf (setCtx_wf (agentPass_wf (settleDie_wf (setCtx_wf h))))
          · exact makeBufferRoom_wf (setCtx_wf (setCtx_wf (agentPass_wf (settleDie_wf (setCtx_wf h)))))

theorem raiseSeq_wf {k : Nat} {fl : BitVec 7} {s : State} (h : Memory.wf s.mem = true) : Memory.wf (raiseSeq k fl s).mem = true := by
  unfold raiseSeq
  dsimp only
  exact setCtx_wf h

theorem sendWord_wf {ctx a ch hop : Nat} {target : State → Ctx → Except SeqFault (CollTarget × BitVec 5)}
    {pack : Ctx → CollTarget → BitVec 5 → Buf → List Coll} {staged : Bool} {s : State} {c : Ctx} (h : Memory.wf s.mem = true) : WfOk
    (sendWord ctx a ch hop target pack staged s c) := by
  unfold sendWord
  split
  · exact trivial
  · split
    · exact h
    · split
      · exact trivial
      · dsimp only [WfOk]
        refine seqNext_wf ?_
        refine foldl_wf (fun _ _ ht => sendColl_wf ht) ?_ _
        split
        · exact setCtx_wf (raiseSeq_wf h)
        · exact raiseSeq_wf h

theorem execSend_wf {ctx : Nat} {s : State} (h : Memory.wf s.mem = true) : WfNext (execSend ctx s) := by
  unfold execSend
  refine seqStep_wf ?_ h
  intro _ ht _ _
  split
  · exact sendWord_wf ht
  · exact trivial

theorem execSendCmb_wf {ctx : Nat} {s : State} (h : Memory.wf s.mem = true) : WfNext (execSendCmb ctx s) := by
  unfold execSendCmb
  refine seqStep_wf ?_ h
  intro _ ht _ _
  split
  · exact sendWord_wf ht
  · exact trivial

theorem execSendMc_wf {ctx : Nat} {s : State} (h : Memory.wf s.mem = true) : WfNext (execSendMc ctx s) := by
  unfold execSendMc
  refine seqStep_wf ?_ h
  intro _ ht _ _
  split
  · exact sendWord_wf ht
  · exact trivial

theorem execSendRetransmit_wf {ctx index : Nat} {s : State} (h : Memory.wf s.mem = true) : WfNext (execSendRetransmit ctx index s) := by
  unfold execSendRetransmit
  dsimp only [WfNext]
  split
  · exact h
  · split
    · exact h
    · split
      · exact seqFail_wf h
      · exact foldl_wf (fun _ _ ht => sendColl_wf ht) (setCtx_wf h) _

theorem seqWait_wf {k : Nat} {s : State} (h : Memory.wf s.mem = true) : Memory.wf (seqWait k s).mem = true := setCtx_wf h

theorem execRecv_wf {ctx : Nat} {s : State} (h : Memory.wf s.mem = true) : WfNext (execRecv ctx s) := by
  unfold execRecv
  refine seqStep_wf ?_ h
  intro _ ht _ _
  split
  · split
    · exact trivial
    · dsimp only
      split
      · exact seqWait_wf ht
      · split
        · exact trivial
        · exact seqNext_wf (setCtx_wf ht)
  · exact trivial

theorem execRecvCh_wf {ctx : Nat} {s : State} (h : Memory.wf s.mem = true) : WfNext (execRecvCh ctx s) := by
  unfold execRecvCh
  refine seqStep_wf ?_ h
  intro _ ht _ _
  split
  · split
    · exact trivial
    · dsimp only
      split
      · exact seqFail_wf (setCtx_wf ht)
      · split
        · exact seqWait_wf (setCtx_wf ht)
        · exact seqNext_wf (setCtx_wf ht)
  · exact trivial

theorem execRecvCmb_wf {ctx : Nat} {s : State} (h : Memory.wf s.mem = true) : WfNext (execRecvCmb ctx s) := by
  unfold execRecvCmb
  refine seqStep_wf ?_ h
  intro _ ht _ _
  split
  · dsimp only
    split
    · exact trivial
    · split
      · exact seqWait_wf ht
      · split
        · exact seqWait_wf ht
        · exact seqNext_wf (raiseSeq_wf (setCtx_wf ht))
  · exact trivial

theorem execRed_wf {ctx : Nat} {s : State} (h : Memory.wf s.mem = true) : WfNext (execRed ctx s) := by
  unfold execRed
  refine seqStep_wf ?_ h
  intro _ ht _ _
  split
  · split
    · split
      exact seqNext_wf (raiseSeq_wf (setCtx_wf ht))
    · exact trivial
    · exact trivial
  · exact trivial

theorem seqWrite_wf {s : State} {c : Ctx} {align : Nat} {a : Word} {l : List MarkedByte} (h : Memory.wf s.mem = true) : WfOk (seqWrite s c align a l) := by
  unfold seqWrite
  split
  · exact trivial
  · exact agentStore_wf h

theorem execCopyLd_wf {ctx : Nat} {s : State} (h : Memory.wf s.mem = true) : WfNext (execCopyLd ctx s) := by
  unfold execCopyLd
  refine seqStep_wf ?_ h
  intro _ ht _ _
  split
  · dsimp only
    split
    · exact trivial
    · exact seqNext_wf (setCtx_wf (agentPass_wf ht))
  · exact trivial

theorem execCopySt_wf {ctx : Nat} {s : State} (h : Memory.wf s.mem = true) : WfNext (execCopySt ctx s) := by
  unfold execCopySt
  refine seqStep_wf ?_ h
  intro _ ht _ _
  split
  · split
    · exact trivial
    · dsimp only
      split
      · exact trivial
      · exact seqNext_wf (WfOk.of_ok (seqWrite_wf ht) (by assumption))
  · exact trivial

theorem execCopyBuf_wf {ctx : Nat} {s : State} (h : Memory.wf s.mem = true) : WfNext (execCopyBuf ctx s) := by
  unfold execCopyBuf
  refine seqStep_wf ?_ h
  intro _ ht _ _
  split
  · split
    · exact trivial
    · exact seqNext_wf (setCtx_wf ht)
  · exact trivial

theorem execCmpr_wf {ctx : Nat} {s : State} (h : Memory.wf s.mem = true) : WfNext (execCmpr ctx s) := by
  unfold execCmpr
  refine seqStep_wf ?_ h
  intro _ ht _ _
  split
  · split
    · exact trivial
    · dsimp only
      split
      · exact trivial
      · split
        · exact trivial
        · exact seqNext_wf (raiseSeq_wf (setCtx_wf (WfOk.of_ok (seqWrite_wf (agentPass_wf ht)) (by assumption))))
  · exact trivial

theorem waitWord_wf {ctx : Nat} {s : State} (h : Memory.wf s.mem = true) : Memory.wf (waitWord ctx s).mem = true := by
  unfold waitWord
  refine seqStep_wf ?_ h
  intro _ ht _ _
  split
  · split
    · exact trivial
    · dsimp only
      split
      · exact seqNext_wf (agentPass_wf ht)
      · exact seqWait_wf (agentPass_wf ht)
  · exact trivial

theorem execWait_wf {ctx : Nat} {s : State} (h : Memory.wf s.mem = true) : WfNext (execWait ctx s) := waitWord_wf h

theorem execSeqWaitMet_wf {ctx : Nat} {s : State} (h : Memory.wf s.mem = true) : WfNext (execSeqWaitMet ctx s) := by
  unfold execSeqWaitMet
  split
  · exact waitWord_wf h
  · exact h

theorem execSig_wf {ctx : Nat} {s : State} (h : Memory.wf s.mem = true) : WfNext (execSig ctx s) := by
  unfold execSig
  refine seqStep_wf ?_ h
  intro _ ht _ _
  split
  · split
    · exact ht
    · dsimp only
      split
      · exact trivial
      · split
        · split
          · exact trivial
          · exact seqNext_wf (WfOk.of_ok (seqWrite_wf ht) (by assumption))
        · split
          · exact trivial
          · split
            · exact RemoteOut.Wf.of_waiting (agentRemote_wf ht) (by assumption)
            · split
              · exact seqFail_wf (RemoteOut.Wf.of_answered (agentRemote_wf ht) (by assumption))
              · exact seqNext_wf (RemoteOut.Wf.of_answered (agentRemote_wf ht) (by assumption))
  · exact trivial

theorem seqJump_wf {k : Nat} {off : ℤ} {s : State} (h : Memory.wf s.mem = true) : Memory.wf (seqJump k off s).mem = true := setCtx_wf h

theorem execLoop_wf {ctx : Nat} {s : State} (h : Memory.wf s.mem = true) : WfNext (execLoop ctx s) := by
  unfold execLoop
  refine seqStep_wf ?_ h
  intro _ ht _ _
  split
  · split
    · dsimp only [WfWord, WfOk]
      split
      · exact seqNext_wf (setCtx_wf ht)
      · exact seqJump_wf (setCtx_wf ht)
  · exact trivial

theorem execJump_wf {ctx : Nat} {s : State} (h : Memory.wf s.mem = true) : WfNext (execJump ctx s) := by
  unfold execJump
  refine seqStep_wf ?_ h
  intro _ ht _ _
  split
  · exact seqJump_wf ht
  · exact trivial

theorem execSeqEnd_wf {ctx : Nat} {s : State} (h : Memory.wf s.mem = true) : WfNext (execSeqEnd ctx s) := by
  unfold execSeqEnd
  refine seqStep_wf ?_ h
  intro _ ht _ _
  split
  · split
    · exact setCtx_wf ht
    · exact writeFlag_wf (setCtx_wf ht)
  · exact trivial

/-! ### Starts -/

theorem stopPartitions_wf {s : State} (h : Memory.wf s.mem = true) : Memory.wf (stopPartitions s).mem = true := by
  unfold stopPartitions
  refine foldl_wf ?_ h _
  intro _ _ ht
  dsimp only
  split
  · exact ht
  · exact endReset_wf (beginReset_wf (setPart_wf ht))

theorem resetBlocks_wf {s : State} (h : Memory.wf s.mem = true) : Memory.wf (resetBlocks s).mem = true := h

theorem testAndTrain_wf {s : State} (h : Memory.wf s.mem = true) : Memory.wf (testAndTrain s).mem = true := Memory.wf_filter h _

theorem powerUp_wf {s : State} : Memory.wf (powerUp s).mem = true := rfl

theorem trainLinks_wf {r : StartReport} {s : State} (h : Memory.wf s.mem = true) : Memory.wf (trainLinks r s).mem = true := h

theorem measureStart_wf {r : StartReport} {i : FirmwareImage} {s : State} (h : Memory.wf s.mem = true) : Memory.wf (measureStart r i s).mem = true :=
  extendMeasure_wf (extendMeasure_wf (extendMeasure_wf h))

theorem failStart_wf {s : State} (h : Memory.wf s.mem = true) : Memory.wf (failStart s).mem = true := by
  unfold failStart
  dsimp only
  refine sendMsix_wf ?_
  dsimp only
  exact count_wf h

theorem beginStart_wf {r : StartReport} {warm skip : Bool} {s : State} (h : Memory.wf s.mem = true) : Memory.wf (beginStart r warm skip s).mem = true := by
  unfold beginStart
  dsimp only
  split
  · dsimp only
    refine measureStart_wf ?_
    split
    · refine trainLinks_wf ?_
      split
      · refine testAndTrain_wf ?_
        dsimp only
        split
        · exact count_wf (count_wf (resetBlocks_wf (stopPartitions_wf h)))
        · exact count_wf (resetBlocks_wf (stopPartitions_wf h))
      · dsimp only
        split
        · exact count_wf (count_wf (resetBlocks_wf (stopPartitions_wf h)))
        · exact count_wf (resetBlocks_wf (stopPartitions_wf h))
    · split
      · refine testAndTrain_wf ?_
        dsimp only
        split
        · exact count_wf (count_wf (resetBlocks_wf (stopPartitions_wf h)))
        · exact count_wf (resetBlocks_wf (stopPartitions_wf h))
      · dsimp only
        split
        · exact count_wf (count_wf (resetBlocks_wf (stopPartitions_wf h)))
        · exact count_wf (resetBlocks_wf (stopPartitions_wf h))
  · refine failStart_wf ?_
    split
    · refine trainLinks_wf ?_
      split
      · refine testAndTrain_wf ?_
        dsimp only
        split
        · exact count_wf (count_wf (resetBlocks_wf (stopPartitions_wf h)))
        · exact count_wf (resetBlocks_wf (stopPartitions_wf h))
      · dsimp only
        split
        · exact count_wf (count_wf (resetBlocks_wf (stopPartitions_wf h)))
        · exact count_wf (resetBlocks_wf (stopPartitions_wf h))
    · split
      · refine testAndTrain_wf ?_
        dsimp only
        split
        · exact count_wf (count_wf (resetBlocks_wf (stopPartitions_wf h)))
        · exact count_wf (resetBlocks_wf (stopPartitions_wf h))
      · dsimp only
        split
        · exact count_wf (count_wf (resetBlocks_wf (stopPartitions_wf h)))
        · exact count_wf (resetBlocks_wf (stopPartitions_wf h))

theorem execColdStart_wf {r : StartReport} {s : State} (h : Memory.wf s.mem = true) : WfNext (execColdStart r s) := by
  unfold execColdStart
  refine beginStart_wf ?_
  split
  · exact h
  · exact powerUp_wf

theorem execWarmStart_wf {r : StartReport} {paramsGood : Bool} {s : State} (h : Memory.wf s.mem = true) : WfNext (execWarmStart r paramsGood s) := by
  unfold execWarmStart
  split
  · exact beginStart_wf h
  · exact h

theorem execStartTimeout_wf {s : State} (h : Memory.wf s.mem = true) : WfNext (execStartTimeout s) := by
  unfold execStartTimeout
  split
  · exact failStart_wf h
  · exact h

theorem succeedStart_wf {s : State} (h : Memory.wf s.mem = true) : Memory.wf (succeedStart s).mem = true := by
  unfold succeedStart
  dsimp only
  exact count_wf h

theorem execFirmwareReady_wf {s : State} (h : Memory.wf s.mem = true) : WfNext (execFirmwareReady s) := by
  unfold execFirmwareReady
  split
  · exact succeedStart_wf h
  · exact h

theorem answerQuote_wf {s : State} (h : Memory.wf s.mem = true) : Memory.wf (answerQuote s).mem = true := by
  unfold answerQuote
  dsimp only
  split <;> exact h

/-! ### Lane clusters -/

theorem runCycles_wf {core n : Nat} {s : State} (h : Memory.wf s.mem = true) : Memory.wf (runCycles core n s).mem = true := by
  induction n with
  | zero => exact h
  | succ n ih => exact setCore_wf ih

theorem execMicroopIssue_wf {core cycles : Nat} {s : State} (h : Memory.wf s.mem = true) : WfNext (execMicroopIssue core cycles s) := runCycles_wf h

theorem updCluster_wf {core cluster : Nat} {f : Nat → Cluster → Cluster} {s : State} (h : Memory.wf s.mem = true) : Memory.wf (updCluster core cluster f s).mem = true :=
  setCore_wf h

theorem postEntry_wf {core : Nat} {u : Uops} {s : State} (h : Memory.wf s.mem = true) : Memory.wf (postEntry core u s).mem = true := setCore_wf h

theorem postWork_wf {i : Instr} {before s : State} (h : Memory.wf s.mem = true) : Memory.wf (postWork i before s).mem = true := by
  unfold postWork
  split
  · exact h
  · split
    · exact h
    · dsimp only
      split
      · split
        · exact postEntry_wf h
        · exact h
      · split
        · exact postEntry_wf h
        · exact h

theorem runFront_wf {ex : Instr → State → Host.Outcome State Fault Refusal} {s : State}
    (hex : ∀ (x : Instr) (s : State), Memory.wf s.mem = true → WfNext (ex x s)) (h : Memory.wf s.mem = true) : WfNext (runFront ex s) := by
  unfold runFront
  split
  · split
    · exact stall_wf h
    · exact FrontEnd.Wf.of_trap (fetchNext_wf h) (by assumption)
  · split
    · exact keepInstance_wf (stall_wf (FrontEnd.Wf.of_instr (fetchNext_wf h) (by assumption)))
    · split
      · exact keepInstance_wf (stall_wf (FrontEnd.Wf.of_instr (fetchNext_wf h) (by assumption)))
      · split
        · exact keepInstance_wf (postWork_wf (WfNext.of_next (hex _ _ (FrontEnd.Wf.of_instr (fetchNext_wf h) (by assumption))) (by assumption)))
        · exact trivial
        · exact trivial

/-! ### Instructions -/

/-- An instruction keeps memory canonical: the arms of `exec` in the order of its table. -/
theorem exec_wf {i : Instr} {s : State} (h : Memory.wf s.mem = true) : WfNext (exec i s) := by
  unfold exec
  split
  iterate 23 exact aluR_wf h -- add to remu
  iterate 3 exact aluI_wf h -- clz to popc
  iterate 2 exact checked_wf h (fun _ ht => writeInt_wf ht _ _ _) -- sext to zext
  · exact aluR_wf h -- csel
  iterate 10 exact aluI_wf h -- bswap to srai
  iterate 2 exact writeInt_wf h _ _ _ -- lih to pcadd
  iterate 7 exact loadScalar_wf h -- lb to ld
  · exact execLda_wf h
  iterate 4 exact storeScalar_wf h -- sb to sd
  · exact execSdrel_wf h
  iterate 11 exact amoStep_wf h -- amoadd to amofadd
  iterate 6 exact branch_wf h -- beq to bgeu
  iterate 2 exact finishTo_wf (setX_wf h) -- jmpl to jmpr
  · exact branch_wf h -- bse
  iterate 2 exact maskBranch_wf h -- bmany to bmnone
  · exact finish_wf h _ -- nop
  · exact execFence_wf h
  · exact sysAccess_wf h (fun _ ht => setX_wf ht) -- srd
  · exact sysAccess_wf h (fun _ ht => sysWrite_wf ht) -- swr
  iterate 2 exact sysAccess_wf h (fun _ ht => setX_wf (sysWrite_wf ht)) -- srset to srclr
  · exact completeAt_wf h _ _ _ _ _ -- trap
  · exact execTret_wf h
  · exact trapHere_wf h _ -- brk
  · exact sysStep_wf h (fun _ ht => suspendIfTaken_wf (settleWait_wf (withHart_wf ht))) -- wfe
  · exact execKeyset_wf h
  · exact finish_wf (withHart_wf h) _ -- keyclr
  · exact execFarm_wf h
  · exact claimStrip_wf h -- strip
  · exact execFjoin_wf h
  · exact suspendIfTaken_wf (finish_wf (withHart_wf h) _) -- yield
  · exact execNotify_wf h
  · exact execTlbinv_wf h
  · exact execCinv_wf h
  · exact execCflush_wf h
  · exact sysStep_wf h (fun _ ht => haltHere_wf (finish_wf ht _)) -- halt
  · exact execHint_wf h
  iterate 5 exact fpArith_wf h -- fadd to fsqrt
  iterate 2 exact fpPick_wf h -- fmin to fmax
  iterate 3 exact fpFused_wf h -- fma to fnma
  iterate 3 exact checked_wf h (fun _ ht => writeFp_wf ht) -- fcmp to fsgnj
  · exact fpRounded_wf h (fun _ _ ht => writeFp_wf ht) -- fcvt
  · exact setLength_wf h -- vsetl
  iterate 4 exact vecLoad_wf h -- vld to vldseg
  iterate 4 exact vecStore_wf h -- vst to vstseg
  · exact execVbind_wf h
  · exact held_wf h (fun _ ht => finish_wf (setX_wf (unbindReg_wf (drainStores_wf ht))) _) -- vunbind
  · exact execVmv_wf h
  iterate 2 exact vecSlice_wf h -- vmvr to vmvc
  · exact vecMove_wf h -- vsplat
  · exact execVext_wf h
  · exact execVretag_wf h
  · exact execVrelease_wf h
  iterate 2 exact vecMove_wf h -- vid to viota
  · exact execVslideup_wf h
  · exact vecMove_wf h -- vslidedn
  · exact execVperm_wf h
  · exact execVcompress_wf h
  iterate 13 exact maskStep_wf h -- mand to mmv
  · exact execMld_wf h
  · exact execMst_wf h
  · exact execVwait_wf h
  · exact execVcmd_wf h
  iterate 2 exact vecStore_wf h -- vsend to vscatx
  · exact vecLoad_wf h -- vgathx
  · exact execVamo_wf h
  iterate 14 exact vecArith_wf h -- vadd to vsra
  iterate 2 exact vecCarry_wf h -- vadc to vsbc
  · exact vecCompare_wf h -- vcmp
  · exact execVmerge_wf h
  iterate 11 exact vecArith_wf h -- vabs to vfmax
  · exact vecCompare_wf h -- vfcmp
  iterate 6 exact vecArith_wf h -- vfclass to vftanh
  · exact execVcvt_wf h
  · exact execVcvti_wf h
  · exact execVcvtf4_wf h
  · exact execVqscale_wf h
  iterate 7 exact vecReduce_wf h -- vredos to vredxor
  · exact execMacq_wf h
  iterate 2 exact matrixStep_wf h (fun _ ht => finish_wf (setMyBench_wf ht) _) -- mrel to mzero
  iterate 2 exact macStep_wf h -- macc to maccs
  · exact execMldc_wf h
  · exact execMdrain_wf h
  · exact execMdrainx_wf h
  · exact matrixStep_wf h (fun _ hu => finish_wf (setX_wf hu) _) -- mtrd
  · exact matrixStep_wf h (fun _ hu => finish_wf (setX_wf (setMyBench_wf hu)) _) -- mchk
  · exact checked_wf h (fun _ ht => writeInt_wf ht _ _ _) -- li64
  · exact setLength_wf h -- vsetli
  · exact checked_wf h (fun _ ht => loadScalar_wf ht) -- cLd
  · exact storeScalar_wf h -- cSd
  · exact loadScalar_wf h -- cLw
  · exact storeScalar_wf h -- cSw
  iterate 9 exact checked_wf h (fun _ ht => writeInt_wf ht _ _ _) -- cAddi4sp to cSrli
  iterate 3 exact branch_wf h -- cJ to cBnez
  · exact checked_wf h (fun _ ht => finishTo_wf ht) -- cJr
  · exact finish_wf h _ -- cNop
  · exact claimStrip_wf h -- cStrip
  · exact execTakeInterrupt_wf h
  · exact execWaitSatisfied_wf h
  · exact execWaitTimeout_wf h
  · exact execDrawerMove_wf h
  · exact execMicroopIssue_wf h
  iterate 2 exact updCluster_wf h -- clusterGate to clusterWake
  · exact execStorePerform_wf h
  · exact execSectorFill_wf h
  · exact execTableWalk_wf h
  · exact asHart_wf (fun _ ht => readAhead_wf (drainStores_wf ht)) _ h -- streamFetch
  · exact execStreamFlagWrite_wf h
  · exact execMatrixQueueAccept_wf h
  · exact execMdrainxRow_wf h
  · exact execFarmDepRead_wf h
  · exact execPriorityAging_wf h
  · exact execHartPlace_wf h
  · exact execSwapOut_wf h
  · exact execHartSave_wf h
  · exact execSaveComplete_wf h
  · exact execFarmResume_wf h
  · exact execFarmComplete_wf h
  · exact execSuspendTimeout_wf h
  · exact execDebugHaltRequest_wf h
  · exact execDebugHaltEnter_wf h
  · exact execDebugAccess_wf h
  · exact execDebugResume_wf h
  · exact execHbmAct_wf h
  · exact execRfm_wf h
  · exact runRfm_wf h -- hbmRefresh
  · exact execPatrolScrub_wf h
  · exact execCxlLinkDown_wf h
  · exact execSnapshotPageCopy_wf h
  · exact execDemandCopy_wf h
  · exact execCopy_wf h
  · exact execFill_wf h
  · exact execCanopyLoad_wf h
  · exact execSnapshot_wf h
  · exact execSequencerStart_wf h
  · exact execFlagWrite_wf h
  · exact execL2Prefetch_wf h
  · exact execFlit_wf h
  · exact execLinkRetrain_wf h
  · exact execLinkTrained_wf h
  · exact execPortDown_wf h
  · exact execRead_wf h
  · exact execWrite_wf h
  · exact execReads_wf h
  · exact execReadx_wf h
  · exact execWrites_wf h
  · exact execWritex_wf h
  · exact execAmo_wf h
  · exact execSendPacket_wf h
  · exact execMwrite_wf h
  · exact execResp_wf h
  · exact execAck_wf h
  · exact execNack_wf h
  · exact execRequestTimeout_wf h
  · exact execColl_wf h
  · exact execCollAck_wf h
  · exact execRouterFold_wf h
  · exact execSend_wf h
  · exact execSendCmb_wf h
  · exact execSendMc_wf h
  · exact execRecv_wf h
  · exact execRecvCh_wf h
  · exact execRecvCmb_wf h
  · exact execRed_wf h
  · exact execCopyLd_wf h
  · exact execCopySt_wf h
  · exact execCopyBuf_wf h
  · exact execWait_wf h
  · exact execSeqWaitMet_wf h
  · exact execSig_wf h
  · exact execCmpr_wf h
  · exact execLoop_wf h
  · exact execJump_wf h
  · exact execSeqEnd_wf h
  · exact execSendRetransmit_wf h
  · exact abortRun_wf h -- abort
  · exact assignContext_wf h -- contextAssign
  · exact h -- ceilingWindow
  · exact execFluxReading_wf h
  · exact h -- powerMeasure
  · exact takeLease_wf h -- lease
  · exact expireLease_wf h -- leaseExpiry
  · exact execHistogramSample_wf h
  · exact execLifetimeFlush_wf h
  · exact answerWord_wf h -- lifetimeRead
  · exact reportWord_wf h -- report
  · exact notePart_wf h -- note
  · exact requestSuspend_wf h -- susp
  · exact requestResume_wf h -- resume
  · exact enable_wf h -- partitionEnable
  · exact disable_wf h -- partitionDisable
  iterate 2 exact beginReset_wf h -- partitionReset to functionLevelReset
  · exact setTcmp_wf h -- tcmp
  · exact execTimerExpiry_wf h
  · exact execHostRead_wf h
  · exact execHostWrite_wf h
  · exact execColdStart_wf h
  · exact execWarmStart_wf h
  · exact execStartTimeout_wf h
  · exact answerWord_wf h -- startStatusRead
  · exact h -- quoteRequest
  · exact execDeviceSpaceWrite_wf h
  · exact badBits_wf h -- illegalInstruction
  · exact execSoftError_wf h
  · exact execWfeEarlyEnd_wf h
  · exact execPartitionResetDone_wf h
  · exact execFirmwareReady_wf h
  · exact h -- firmwareUpdate
  · exact flushLifetime_wf h -- orderlyPowerDown
  · exact h -- powerFailure

/-! ### What a step turns to -/

theorem giveTurn_wf {i : HartId} {s : State} (h : Memory.wf s.mem = true) : Memory.wf (giveTurn i s).mem = true := by
  unfold giveTurn
  dsimp only
  exact setCore_wf (focus_wf (settleHart_wf h))

theorem turn_wf {i : HartId} {s : State} (h : Memory.wf s.mem = true) : (turn i s).Wf := by
  unfold turn
  dsimp only
  split <;> exact giveTurn_wf h

theorem choose_wf {s : State} (h : Memory.wf s.mem = true) : (choose s).Wf := by
  unfold choose
  split
  · exact h
  · split
    · exact turn_wf h
    · exact h
  · split
    · exact h
    · split
      · exact turn_wf h
      · split <;> exact h

theorem advance_wf {s : State} (h : Memory.wf s.mem = true) : Memory.wf (advance s).mem = true := expireLease_wf h

/-! ### What is due -/

theorem runWord_wf {k : Nat} {s : State} (h : Memory.wf s.mem = true) : WfNext (runWord k s) := by
  unfold runWord
  split
  · exact execSeqEnd_wf h
  · split
    · split
      · exact execSendMc_wf h
      · exact execSend_wf h
    · exact execSendCmb_wf h
    · exact execRecv_wf h
    · exact execRecvCh_wf h
    · exact execRecvCmb_wf h
    · exact execRed_wf h
    · exact execCopyLd_wf h
    · exact execCopySt_wf h
    · exact execCopyBuf_wf h
    · exact execCmpr_wf h
    · split
      · exact execSeqWaitMet_wf h
      · exact execWait_wf h
    · exact execSig_wf h
    · exact execLoop_wf h
    · exact execJump_wf h
    · exact execSeqEnd_wf h

theorem runPacket_wf {m : Message} {s : State} (h : Memory.wf s.mem = true) : WfNext (runPacket m s) := by
  unfold runPacket
  split
  · split
    · exact execRead_wf h
    · exact execWrite_wf h
    · exact execReads_wf h
    · exact execReadx_wf h
    · exact execWrites_wf h
    · exact execWritex_wf h
    · exact execAmo_wf h
    · exact execSendPacket_wf h
    · exact execMwrite_wf h
  · split
    · exact execAck_wf h
    · split
      · exact execResp_wf h
      · exact execNack_wf h
  · exact execColl_wf h
  · exact execCollAck_wf h

theorem runDue_wf {d : Due} {s : State} (h : Memory.wf s.mem = true) : WfNext (runDue d s) := by
  unfold runDue
  split
  · exact execTimerExpiry_wf h
  · exact execSuspendTimeout_wf h
  · exact execPartitionResetDone_wf h
  · exact execTakeInterrupt_wf h
  · exact execWaitSatisfied_wf h
  · exact execWaitTimeout_wf h
  · exact execMdrainxRow_wf h
  · exact execDebugHaltEnter_wf h
  · exact execDrawerMove_wf h
  · exact execStorePerform_wf h
  · exact execHartSave_wf h
  · exact execSaveComplete_wf h
  · exact execFarmDepRead_wf h
  · exact execFarmComplete_wf h
  · exact execPriorityAging_wf h
  · exact execHartPlace_wf h
  · exact execFarmResume_wf h
  · exact execSwapOut_wf h
  · exact execCopy_wf h
  · exact execFill_wf h
  · exact execSnapshotPageCopy_wf h
  · exact execFlagWrite_wf h
  · exact execL2Prefetch_wf h
  · exact execCanopyLoad_wf h
  · exact execMatrixQueueAccept_wf h
  · exact execStreamFlagWrite_wf h
  · exact execSequencerStart_wf h
  · exact runWord_wf h
  · exact execSendRetransmit_wf h
  · exact execRequestTimeout_wf h
  · exact runPacket_wf h
  · exact answerQuote_wf h
  · exact execStartTimeout_wf h
  · exact execLifetimeFlush_wf h
  · exact execRfm_wf h
  · exact execMicroopIssue_wf h

/-! ### A step -/

theorem after_wf {o : Host.Outcome State Fault Refusal} (ho : WfNext o) : WfNext (after o) := by
  unfold after
  split
  · exact advance_wf ho
  · exact ho
  · exact ho

theorem runInstr_wf {s : State} (h : Memory.wf s.mem = true) : WfNext (runInstr s) := runFront_wf (fun _ _ ht => exec_wf ht) h

theorem step_wf {s : State} (h : Memory.wf s.mem = true) : WfNext (step s) := by
  have next := choose_wf h
  unfold step
  split
  · have hu := next.of_event (by assumption)
    split
    · exact after_wf (exec_wf hu)
    · split
      · exact after_wf (exec_wf hu)
      · trivial
  · have hu := next.of_due (by assumption)
    split
    · exact after_wf (runDue_wf hu)
    · trivial
  · have hu := next.of_instr (by assumption)
    split
    · exact after_wf (runInstr_wf hu)
    · trivial
  · have hu := next.of_idle (by assumption)
    split
    · exact advance_wf hu
    · trivial

/-- Settles O4: memory is canonical after each operation of the model that takes it canonical, and a step is made of these. -/
theorem memoryStaysCanonical : Obligations.MemoryStaysCanonical :=
  fun _ _ h e => (step_wf h).of_next e

end Sys2Proof.Machine
